-- ==== Sys2Proof/Word.lean ====
section
/-!
DEFINITION. The word types of the node (R5, R7) and sparse tables.
Bit vectors hold what software sees as words (registers, bytes); counts, identifiers and times are numbers.
-/
namespace Sys2Proof

/-- One byte. -/
abbrev Byte := BitVec 8
/-- A register: 64 bits (R7). -/
abbrev W64 := BitVec 64
/-- A sparse table: pairs of a key and a value, keys strictly rising; a key that is not listed holds the default of
its table. -/
abbrev Tab (α : Type) := List (Nat × α)

end Sys2Proof
end

