-- ==== Sys2Proof/Syntax.lean ====
section
/-!
DEFINITION. The commands of the block: one constructor of `Instr` per row of the table of operations and events, with the
data that the row's sender or cause supplies. Numbers with a plain bound are `Fin`; the rest is checked in WellFormed.
-/
namespace Sys2Proof

/-- What a read of host memory by the node returned (R368): the bytes, or a failure (Unsupported Request, Completer
Abort or poisoned data). -/
inductive HostRead where
  | ok (bytes : List Byte)
  | failed
deriving DecidableEq, Repr

/-- An XF packet (R285): its header fields and its payload. -/
structure Packet where
  kind : Nat
  dst : Nat
  src : Nat
  part : Nat
  flag : Bool := false
  rcls : Nat := 0
  len : Nat := 0
  tag : Nat := 0
  addr : Nat := 0
  gen : Nat := 0
  bseq : Nat := 0
  fseq : Nat := 0
  status : Nat := 0
  aux : Nat := 0
  payload : List Byte := []
deriving DecidableEq, Repr

/-- What a link frame's flits carry (R278, R285, R293): a packet's two header flits, one payload flit of a burst (known
by source, destination sequence and position), or nothing. -/
inductive Flit where
  | header (p : Packet)
  | data (src bseq idx : Nat) (bytes : List Byte)
  | idle
deriving DecidableEq, Repr

/-- A link frame as received (R278): its sequence number, the acknowledgement in its trailer, a request to resend from a
frame, whether its CRC holds, how many of its codewords were corrected and uncorrectable, and its flits. -/
structure Frame where
  seq : Nat
  ack : Nat
  resend : Option Nat
  crcOk : Bool
  corrected : Nat
  uncorr : Nat
  flits : List Flit
deriving DecidableEq, Repr

/-- What the far end announces in IDENT (R280): another node, or an endpoint with its kind. -/
inductive IdentMsg where
  | node (rackId pos port role gen : Nat)
  | endpoint (kind : Nat)
deriving DecidableEq, Repr

/-- A move named at the home that serves it (R210): a tile of this node's own tier space, or a frame that this node lends
(the borrower's position and the frame offset in its window). -/
inductive MoveRef where
  | own (tile : Fin 33554432)
  | lent (pos : Fin 64) (off : Fin 2097152)
deriving DecidableEq, Repr

/-- What a copy stream carries (R210): a 256-byte burst of the frozen frame, one queued write, or an atomic (operand,
compare value and operation of R287). -/
inductive CopyItem where
  | burst (i : Fin 256) (bytes : List Byte) (poison : Bool)
  | write (off : Fin 65536) (bytes : List Byte)
  | atomic (off : Fin 65536) (op : Nat) (operand compare : Nat)
deriving DecidableEq, Repr

/-- An update's log record (R231). -/
structure LogRec where
  seq : Nat
  stamp : Nat
  epoch : Nat
  handle : Nat
  oldHandle : Nat
  fwdId : Nat
  index : Nat
  kind : Nat
  void : Bool := false
  origin : Nat
  entry : Nat
  payload : List Byte
deriving DecidableEq, Repr

/-- The rack map (R399): its generation, job, members and spares as position masks, roles and identities of members, the
host table, the managers, and the epoch at which a restart of the job has been requested (R406). -/
structure RackMap where
  gen : Nat
  job : Nat
  members : Nat
  spares : Nat
  roles : List (Nat × Nat)
  idents : List (Nat × Nat)
  hosts : List (Nat × Nat)
  mgrs : List Nat
  restart : Option Nat
deriving DecidableEq, Repr

/-- What a HELLO carries (R400, R401): the identity digest (none when the identity is missing), the rack, the epoch period
and the Starter digest. -/
structure HelloMsg where
  identity : Option Nat
  rackId : Nat
  period : Nat
  starter : Nat
deriving DecidableEq, Repr

/-- What a REPORT carries (R396, R404, R406 to R408): members its sender has not heard, ranks taken and absent per contributing
position at a close (the position, then the two counts), error records, a restart of the job that a member asks for, and the
shard that a spare has rebuilt. -/
structure ReportMsg where
  silent : List Nat
  counts : List (Nat × Nat × Nat)
  records : List (List Byte)
  restart : Option Nat := none
  rebuilt : Option Nat := none
deriving DecidableEq, Repr

/-- What a module's slot holds when it is examined (R337, R357, R472): its identity memory, whether its parameter pages
match, whether its dies report suspend support, and the rates at which its four channels train (0 for none). -/
structure ModuleId where
  present : Bool
  bytes : List Byte
  paramsOk : Bool
  suspend : Bool
  rates : List Nat
deriving DecidableEq, Repr

/-- The transport an SPDM message came by (R430): the DOE of a function, or MCTP from the board management controller. -/
inductive SpdmPath where
  | doe (fn : Fin 64)
  | mctp
deriving DecidableEq, Repr

/-- What the start sequence finds outside the node's own data (R31, R414, R428, R433): physical clusters and near-bank units
that fail self-test, service cores that fail, whether the PUF passes its health test and the secret it rebuilds when the
helper data's check value matches, the unlock nonce drawn, and the modules in the slots. -/
structure StartIn where
  clusterFail : List Nat
  unitFail : List (Nat × Nat)
  coreFail : List Nat
  healthy : Bool
  secret : Option (List Byte)
  nonce : W64
  modules : List ModuleId
deriving DecidableEq, Repr

/-- The commands (opcode_table.json), one constructor per row, in the table's order. -/
inductive Instr where
  /-- WINDOW_WRITE (R373) -/
  | windowWrite (fn : Fin 64) (off : Nat) (data : List Byte)
  /-- WIN_PARTIAL (R375) -/
  | winPartial (fn : Fin 64) (q : Nat)
  /-- ADMISSION_DECISION (R387) -/
  | admissionDecision
  /-- HEAD_DEADLINE_EXPIRE (R387) -/
  | headDeadlineExpire (fn : Fin 64) (q : Nat)
  /-- TOKEN_REFILL (R385) -/
  | tokenRefill
  /-- ADM_BKT_NEXT (R386) -/
  | admBktNext (fn : Fin 64) (part : Fin 32) (rate : Nat) (burst : Nat)
  /-- ADM_BKT_FULL (R386) -/
  | admBktFull (fn : Fin 64) (part : Fin 32) (rate : Nat) (burst : Nat)
  /-- ADM_BKT_EMPTY (R386) -/
  | admBktEmpty (fn : Fin 64) (part : Fin 32) (rate : Nat) (burst : Nat)
  /-- NOP (R377) -/
  | nop (cid : Nat)
  /-- PLAN_LOAD (R87) -/
  | planLoad (cid : Nat) (data : HostRead) (others : BitVec 32)
  /-- PLAN_SIGNATURE_VERIFIED (R76) -/
  | planSignatureVerified (slot : Fin 256)
  /-- ROLE_LOAD_DONE (R90) -/
  | roleLoadDone (slot : Fin 256)
  /-- PLAN_UNLOAD (R91) -/
  | planUnload (cid : Nat)
  /-- PLAN_RELEASE (R91) -/
  | planRelease (slot : Fin 256)
  /-- INVOKE (R377) -/
  | invoke (cid : Nat)
  /-- INDEX_OPEN (R105) -/
  | indexOpen (cid : Nat)
  /-- INDEX_CLOSE (R377) -/
  | indexClose (cid : Nat)
  /-- TABLE_OPEN (R257) -/
  | tableOpen (cid : Nat)
  /-- TABLE_CLOSE (R377) -/
  | tableClose (cid : Nat)
  /-- QUERY (R111) -/
  | query (cid : Nat)
  /-- QUERY_VECTOR_ARRIVE (R112) -/
  | queryVectorArrive (qid : Nat) (data : HostRead)
  /-- QUERY_HOLD_RELEASE (R243) -/
  | queryHoldRelease (qid : Nat)
  /-- QUERY_HOLD_TIMEOUT (R14) -/
  | queryHoldTimeout (qid : Nat)
  /-- CONTEXT_FREE (R489) -/
  | contextFree (ctx : Fin 262144)
  /-- INSERT (R18) -/
  | insert (cid : Nat)
  /-- DELETE (R134) -/
  | delete (cid : Nat)
  /-- UPSERT (R135) -/
  | upsert (cid : Nat)
  /-- UPDATE_VECTOR_ARRIVE (R237) -/
  | updateVectorArrive (uid : Nat) (vec : HostRead) (meta_ : HostRead)
  /-- FLASH_READ (R378) -/
  | flashRead (cid : Nat)
  /-- FLASH_WRITE (R347) -/
  | flashWrite (cid : Nat) (data : HostRead)
  /-- FLASH_DISCARD (R352) -/
  | flashDiscard (cid : Nat)
  /-- TIER_READ (R377) -/
  | tierRead (cid : Nat)
  /-- TIER_WRITE (R201) -/
  | tierWrite (cid : Nat) (data : HostRead)
  /-- ROLE_SET (R301) -/
  | roleSet (cid : Nat)
  /-- CQ_HEADP_POLL (R380) -/
  | cqHeadpPoll (fn : Fin 64) (q : Nat) (word : Option (BitVec 32))
  /-- IMOD_TIMER_EXPIRE (R382) -/
  | imodTimerExpire (fn : Fin 64) (q : Nat)
  /-- QUEUE_ENABLE (R375) -/
  | queueEnable (fn : Fin 64) (q : Nat) (value : W64)
  /-- QUEUE_DISABLE (R488) -/
  | queueDisable (fn : Fin 64) (q : Nat) (value : W64)
  /-- SAMPLE_LATCH (R388) -/
  | sampleLatch
  /-- TAKEOVER (R370) -/
  | takeover (fn : Fin 64)
  /-- FAILOVER_TIMER_EXPIRE (R370) -/
  | failoverTimerExpire (part : Fin 32)
  /-- FLR (R371) -/
  | flr (fn : Fin 64)
  /-- BUS_MASTER_CLEAR (R371) -/
  | busMasterClear (fn : Fin 64)
  /-- REG_WINDOW_TICK (R389) -/
  | regWindowTick
  /-- TMMA (R60) -/
  | tmma (c : Fin 128)
  /-- TDIST (R125) -/
  | tdist (c : Fin 128)
  /-- TZERO (R82) -/
  | tzero (c : Fin 128)
  /-- VLOAD (R82) -/
  | vload (c : Fin 128)
  /-- VSTORE (R201) -/
  | vstore (c : Fin 128)
  /-- VPROOF (R54) -/
  | vproof (c : Fin 128)
  /-- VCONV (R58) -/
  | vconv (c : Fin 128)
  /-- VPCONV (R54) -/
  | vpconv (c : Fin 128)
  /-- VRESCALE (R63) -/
  | vrescale (c : Fin 128)
  /-- VEW (R82) -/
  | vew (c : Fin 128)
  /-- VRED (R82) -/
  | vred (c : Fin 128)
  /-- VARGMAX (R147) -/
  | vargmax (c : Fin 128)
  /-- VDIST (R109) -/
  | vdist (c : Fin 128)
  /-- VFILT (R129) -/
  | vfilt (c : Fin 128)
  /-- VPOOL (R260) -/
  | vpool (c : Fin 128)
  /-- VOPT (R269) -/
  | vopt (c : Fin 128)
  /-- VATOM (R287) -/
  | vatom (c : Fin 128)
  /-- VCOAL_ACCUMULATE (R264) -/
  | vcoalAccumulate (c : Fin 128)
  /-- VCOAL_FLUSH (R266) -/
  | vcoalFlush (c : Fin 128)
  /-- VCOAL_COLLECT (R267) -/
  | vcoalCollect (c : Fin 128)
  /-- COAL_PARTIAL_ARRIVE (R266) -/
  | coalPartialArrive (c : Fin 128) (i : Nat)
  /-- VXCHG (R315) -/
  | vxchg (c : Fin 128)
  /-- VSTREAM (R95) -/
  | vstream (c : Fin 128)
  /-- MODEL_LAYER_ARRIVE (R95) -/
  | modelLayerArrive (m : Fin 32)
  /-- MODEL_SLOT_FREE (R94) -/
  | modelSlotFree (m : Fin 32)
  /-- VINVAL (R298) -/
  | vinval (c : Fin 128)
  /-- VSTFLAG (R294) -/
  | vstflag (c : Fin 128)
  /-- WSEED (R114) -/
  | wseed (c : Fin 128)
  /-- WWALK (R114) -/
  | wwalk (c : Fin 128)
  /-- RECORD_ARRIVE (R120) -/
  | recordArrive (c : Fin 128) (ctx : Fin 64) (slot : Nat)
  /-- PREFETCH_ARRIVE (R119) -/
  | prefetchArrive (c : Fin 128) (ctx : Fin 64) (slot : Nat)
  /-- WALK_END_EXPIRE (R127) -/
  | walkEndExpire (c : Fin 128) (ctx : Fin 64)
  /-- RERANK_VECTOR_ARRIVE (R15) -/
  | rerankVectorArrive (c : Fin 128) (ctx : Fin 64) (slot : Nat)
  /-- RERANK_DEADLINE_EXPIRE (R15) -/
  | rerankDeadlineExpire (c : Fin 128) (ctx : Fin 64)
  /-- WPREF (R119) -/
  | wpref (c : Fin 128)
  /-- WCOPYA (R121) -/
  | wcopya (c : Fin 128)
  /-- COPY_COMPLETE (R121) -/
  | copyComplete (c : Fin 128) (i : Nat)
  /-- WWAITA (R82) -/
  | wwaita (c : Fin 128)
  /-- WINSERT (R132) -/
  | winsert (c : Fin 128)
  /-- WDELETE (R134) -/
  | wdelete (c : Fin 128)
  /-- WREPAIR (R136) -/
  | wrepair (c : Fin 128)
  /-- WNB (R169) -/
  | wnb (c : Fin 128)
  /-- NB_OP_START (R170) -/
  | nbOpStart (st : Fin 8) (i : Nat)
  /-- NB_OP_END (R175) -/
  | nbOpEnd (st : Fin 8) (i : Nat)
  /-- NB_SHARE_WINDOW (R180) -/
  | nbShareWindow (st : Fin 8)
  /-- SHIST (R145) -/
  | shist (c : Fin 128)
  /-- SBUCKET (R141) -/
  | sbucket (c : Fin 128)
  /-- SCRUMB (R146) -/
  | scrumb (c : Fin 128)
  /-- SMERGE (R150) -/
  | smerge (c : Fin 128)
  /-- KNEADER_FREE (R156) -/
  | kneaderFree (k : Fin 16)
  /-- KNEADER_MERGE_DONE (R152) -/
  | kneaderMergeDone (k : Fin 16)
  /-- SEMIT (R82) -/
  | semit (c : Fin 128)
  /-- CTRL_NOP (R82) -/
  | ctrlNop (c : Fin 128) (u : Fin 4)
  /-- JMP (R82) -/
  | jmp (c : Fin 128) (u : Fin 4)
  /-- LOOP (R82) -/
  | loop (c : Fin 128) (u : Fin 4)
  /-- FENCEM (R82) -/
  | fencem (c : Fin 128) (u : Fin 4)
  /-- CBAR (R82) -/
  | cbar (c : Fin 128) (u : Fin 4)
  /-- CBAR_RELEASE (R82) -/
  | cbarRelease (slot : Fin 256) (role : Fin 128) (b : Fin 8)
  /-- TWAIT (R82) -/
  | twait (c : Fin 128) (u : Fin 4)
  /-- TWAIT_EXPIRE (R40) -/
  | twaitExpire (c : Fin 128) (u : Fin 4)
  /-- NEXT (R83) -/
  | next (c : Fin 128) (u : Fin 4)
  /-- INVOCATION_ARRIVE (R83) -/
  | invocationArrive (slot : Fin 256) (role : Fin 128)
  /-- HALT (R83) -/
  | halt (c : Fin 128) (u : Fin 4)
  /-- START_AT_BARRIER_RELEASE (R98) -/
  | startAtBarrierRelease (inv : Nat) (armed : W64)
  /-- START_GRACE_EXPIRE (R98) -/
  | startGraceExpire (inv : Nat)
  /-- UNIT_FAULT (R24) -/
  | unitFault (c : Fin 128) (u : Fin 4) (cause : Fin 256)
  /-- UNIT_WATCHDOG_EXPIRE (R392) -/
  | unitWatchdogExpire (c : Fin 128) (u : Fin 4)
  /-- RGN_FENCE_GO (R46) -/
  | rgnFenceGo (fn : Fin 64) (region : Fin 8) (phys : Fin 32)
  /-- CLEARING_DONE (R26) -/
  | clearingDone (c : Fin 128)
  /-- SPARE_LOAD_DONE (R33) -/
  | spareLoadDone (c : Fin 128) (ok : Bool)
  /-- HOT_WINDOW_TICK (R208) -/
  | hotWindowTick (r : Fin 8)
  /-- AGE_TICK (R204) -/
  | ageTick
  /-- MOVE_START (R210) -/
  | moveStart (tile : Fin 33554432)
  /-- FREEZE (R210) -/
  | freeze (ref : MoveRef)
  /-- COPY (R210) -/
  | copy (ref : MoveRef) (what : CopyItem)
  /-- DRAINED (R210) -/
  | drained (ref : MoveRef)
  /-- STUB_EXPIRE (R210) -/
  | stubExpire (i : Nat)
  /-- FILL_ARRIVE (R202) -/
  | fillArrive (r : Fin 8) (line : Nat)
  /-- EPOCH_BOUNDARY (R229) -/
  | epochBoundary
  /-- CLOSE_DRAIN_DONE (R239) -/
  | closeDrainDone
  /-- ARM (R238) -/
  | arm (src : Fin 64) (b : Fin 4) (t : Nat) (gen : Nat)
  /-- BARRIER_RELEASE (R238) -/
  | barrierRelease (b : Fin 4)
  /-- PUBLISH_DONE (R239) -/
  | publishDone
  /-- INVAL_DONE (R239) -/
  | invalDone
  /-- LOG (R232) -/
  | log (src : Fin 64) (gen : Nat) (part : Fin 32) (rec : LogRec)
  /-- LOG_ACK (R232) -/
  | logAck (src : Fin 64) (gen : Nat) (seq : Nat) (handle : Nat)
  /-- LOG_TMO_EXPIRE (R232) -/
  | logTmoExpire (seq : Nat)
  /-- LOG_VOID (R232) -/
  | logVoid (src : Fin 64) (gen : Nat) (origin : Fin 64) (seq : Nat)
  /-- LOG_VOID_ACK (R232) -/
  | logVoidAck (src : Fin 64) (gen : Nat) (seq : Nat)
  /-- LOG_FLASH_WRITE (R234) -/
  | logFlashWrite (seq : Nat)
  /-- CHECKPOINT (R235) -/
  | checkpoint (fn : Fin 64) (part : Fin 32) (epoch : W64)
  /-- CHECKPOINT_DONE (R235) -/
  | checkpointDone (part : Fin 32)
  /-- LINK_FRAME (R278) -/
  | linkFrame (port : Fin 32) (frame : Frame)
  /-- LOSS_OF_SIGNAL (R279) -/
  | lossOfSignal (port : Fin 32) (lane : Fin 2)
  /-- PORT_TRAINED (R279) -/
  | portTrained (port : Fin 32) (lanes : Fin 3)
  /-- IDENT (R280) -/
  | ident (port : Fin 32) (msg : IdentMsg)
  /-- TRAIN_RETRY (R279) -/
  | trainRetry (port : Fin 32)
  /-- PORT_DISABLE (R279) -/
  | portDisable (fn : Fin 64) (port : Fin 32) (v : Bool)
  /-- PORT_RETRAIN (R279) -/
  | portRetrain (fn : Fin 64) (port : Fin 32)
  /-- LSTATE (R290) -/
  | lstate (src : Fin 64) (bits : W64)
  /-- LSTATE_TIMER (R290) -/
  | lstateTimer
  /-- LOAD (R283) -/
  | load (port : Fin 32) (p : Packet)
  /-- STORE (R294) -/
  | store (port : Fin 32) (p : Packet)
  /-- ATOMIC (R287) -/
  | atomic (port : Fin 32) (p : Packet)
  /-- INVAL (R298) -/
  | inval (port : Fin 32) (p : Packet)
  /-- PUT (R299) -/
  | put (port : Fin 32) (p : Packet)
  /-- GET (R299) -/
  | get (port : Fin 32) (p : Packet)
  /-- LOAD_RSP (R297) -/
  | loadRsp (port : Fin 32) (p : Packet)
  /-- STORE_ACK (R294) -/
  | storeAck (port : Fin 32) (p : Packet)
  /-- ATOMIC_RSP (R287) -/
  | atomicRsp (port : Fin 32) (p : Packet)
  /-- INVAL_ACK (R298) -/
  | invalAck (port : Fin 32) (p : Packet)
  /-- PUT_ACK (R299) -/
  | putAck (port : Fin 32) (p : Packet)
  /-- GET_RSP (R299) -/
  | getRsp (port : Fin 32) (p : Packet)
  /-- QFWD (R14) -/
  | qfwd (port : Fin 32) (p : Packet) (epoch : Nat) (stamp : Nat) (step_ : Nat)
  /-- PLIST (R321) -/
  | plist (port : Fin 32) (p : Packet)
  /-- COLL (R318) -/
  | coll (port : Fin 32) (p : Packet)
  /-- REJECT (R405) -/
  | reject (port : Fin 32) (p : Packet) (answer : Option RackMap)
  /-- BURST_HOLD_EXPIRE (R293) -/
  | burstHoldExpire (src : Fin 4096) (bseq : Nat)
  /-- GEN_HOLD_EXPIRE (R286) -/
  | genHoldExpire (i : Nat)
  /-- MSG_TMO_EXPIRE (R297) -/
  | msgTmoExpire (tag : Fin 65536)
  /-- INVAL_TMO_EXPIRE (R298) -/
  | invalTmoExpire (tag : Fin 65536)
  /-- JOIN_WINDOW_EXPIRE (R321) -/
  | joinWindowExpire (port : Fin 32) (i : Nat)
  /-- COLLECTIVE_CLOSE_EXPIRE (R325) -/
  | collectiveCloseExpire (key : Nat)
  /-- HELLO (R401) -/
  | hello (pos : Fin 64) (msg : HelloMsg)
  /-- HELLO_TIMER (R401) -/
  | helloTimer
  /-- HEARTBEAT (R403) -/
  | heartbeat (pos : Fin 64) (t : Nat)
  /-- HEARTBEAT_TIMER (R400) -/
  | heartbeatTimer
  /-- HB_ACK (R403) -/
  | hbAck (pos : Fin 64) (gen : Nat) (t : Nat)
  /-- LEASE_LAPSE (R403) -/
  | leaseLapse
  /-- EXPEL_TIMER (R404) -/
  | expelTimer (pos : Fin 64)
  /-- ELECTION_TIMEOUT (R399) -/
  | electionTimeout
  /-- VOTE_REQ (R399) -/
  | voteReq (pos : Fin 64) (term : Nat)
  /-- VOTE (R399) -/
  | vote (pos : Fin 64) (term : Nat) (gen : Nat) (job : Nat)
  /-- APPEND (R399) -/
  | append (pos : Fin 64) (term : Nat) (map_ : RackMap)
  /-- APPEND_ACK (R399) -/
  | appendAck (pos : Fin 64) (term : Nat) (gen : Nat)
  /-- COMMIT (R399) -/
  | commit (pos : Fin 64) (map_ : RackMap)
  /-- REPORT (R407) -/
  | report (pos : Fin 64) (msg : ReportMsg)
  /-- WEIGHTS (R407) -/
  | weights (pos : Fin 64) (mult : List (Nat × Nat))
  /-- FORMATION_TIMEOUT (R402) -/
  | formationTimeout
  /-- MBR_JOB_CTL_WRITE (R406) -/
  | mbrJobCtlWrite (fn : Fin 64) (epoch : W64)
  /-- REBUILD_GO (R408) -/
  | rebuildGo (fn : Fin 64) (shard : Fin 64)
  /-- REBUILD_DISCARD (R408) -/
  | rebuildDiscard (fn : Fin 64) (shard : Fin 64)
  /-- REBUILD_RECORDS_ARRIVE (R408) -/
  | rebuildRecordsArrive (lists : List (Nat × List LogRec))
  /-- ERR_INJ_ONCE (R394) -/
  | errInjOnce (fn : Fin 64) (det : Fin 16) (target : W64) (ue : Bool)
  /-- ERR_INJ_STICKY (R394) -/
  | errInjSticky (fn : Fin 64) (det : Fin 16) (target : W64) (ue : Bool)
  /-- ERR_INJ_NEXT_START (R394) -/
  | errInjNextStart (fn : Fin 64) (det : Fin 16) (target : W64) (ue : Bool)
  /-- ERR_INJ_CANCEL (R394) -/
  | errInjCancel (fn : Fin 64) (det : Fin 16)
  /-- SC_WATCHDOG_EXPIRE (R397) -/
  | scWatchdogExpire (core : Fin 3)
  /-- NO_CORE_HEALTHY_EXPIRE (R398) -/
  | noCoreHealthyExpire
  /-- ROW_REPAIR_DONE (R409) -/
  | rowRepairDone (st : Fin 8) (row : Nat) (ok : Bool)
  /-- DIE_OP_DONE (R342) -/
  | dieOpDone (die : Fin 1024)
  /-- CODEWORD_READ_DONE (R340) -/
  | codewordReadDone (die : Fin 1024) (decoded : Bool) (crcOk : Bool)
  /-- FLASH_DEADLINE_EXPIRE (R344) -/
  | flashDeadlineExpire (die : Fin 1024) (i : Nat)
  /-- PROGRAM_DONE (R347) -/
  | programDone (die : Fin 1024) (ok : Bool)
  /-- ERASE_DONE (R349) -/
  | eraseDone (die : Fin 1024) (ok : Bool)
  /-- READY_TIMEOUT (R336) -/
  | readyTimeout (die : Fin 1024)
  /-- WRITE_BUFFER_EXPIRE (R348) -/
  | writeBufferExpire (unit : Nat)
  /-- MAP_CKPT_TIMER (R351) -/
  | mapCkptTimer
  /-- ZQ_CALIBRATION (R336) -/
  | zqCalibration
  /-- PATROL_READ (R353) -/
  | patrolRead (die : Fin 1024)
  /-- MODULE_INSERT (R472) -/
  | moduleInsert (m : Fin 8)
  /-- MODULE_DEBOUNCE_EXPIRE (R472) -/
  | moduleDebounceExpire (m : Fin 8)
  /-- MODULE_POWER_WAIT_EXPIRE (R472) -/
  | modulePowerWaitExpire (m : Fin 8) (id : ModuleId)
  /-- MODULE_REMOVE (R358) -/
  | moduleRemove (m : Fin 8)
  /-- MODULE_EVAC (R358) -/
  | moduleEvac (fn : Fin 64) (m : Fin 8)
  /-- DIE_RETIRE (R356) -/
  | dieRetire (fn : Fin 64)
  /-- PG_AON_RISE (R413) -/
  | pgAonRise
  /-- PG_AON_FALL (R469) -/
  | pgAonFall
  /-- PG_MAIN_FALL (R463) -/
  | pgMainFall
  /-- PG_MAIN_RISE (R462) -/
  | pgMainRise
  /-- WRST_ASSERT (R469) -/
  | wrstAssert
  /-- WRST_RELEASE (R413) -/
  | wrstRelease
  /-- PERST (R469) -/
  | perst (port : Fin 2)
  /-- UNDERVOLTAGE (R464) -/
  | undervoltage
  /-- CORE_CLOCK_LOSS (R468) -/
  | coreClockLoss
  /-- FABRIC_CLOCK_LOSS (R468) -/
  | fabricClockLoss (die : Fin 2)
  /-- PCIE_LINK_DOWN (R370) -/
  | pcieLinkDown (port : Fin 2)
  /-- D2D_LINK_FAIL (R465) -/
  | d2dLinkFail
  /-- START_SEQUENCE (R414) -/
  | startSequence (io : StartIn)
  /-- CALIBRATION_TICK (R438) -/
  | calibrationTick (offset : Int)
  /-- PPS_EDGE (R436) -/
  | ppsEdge
  /-- PPS_MISS (R437) -/
  | ppsMiss
  /-- TIM_NEXT_SEC_WRITE (R436) -/
  | timNextSecWrite (fn : Fin 64) (value : W64)
  /-- TIM_RESYNC (R436) -/
  | timResync (fn : Fin 64)
  /-- WRITE_STARTER (R427) -/
  | writeStarter (via : Option (Fin 64)) (data : HostRead)
  /-- UNLOCK (R433) -/
  | unlock (via : Option (Fin 64)) (data : HostRead)
  /-- ENROLL (R429) -/
  | enroll (via : Option (Fin 64))
  /-- ORDERLY_STOP (R440) -/
  | orderlyStop (via : Option (Fin 64))
  /-- SPDM_GET_VERSION (R430) -/
  | spdmGetVersion (path : SpdmPath) (req : List Byte)
  /-- SPDM_GET_CAPABILITIES (R430) -/
  | spdmGetCapabilities (path : SpdmPath) (req : List Byte)
  /-- SPDM_NEGOTIATE_ALGORITHMS (R430) -/
  | spdmNegotiateAlgorithms (path : SpdmPath) (req : List Byte)
  /-- SPDM_GET_DIGESTS (R430) -/
  | spdmGetDigests (path : SpdmPath) (req : List Byte)
  /-- SPDM_GET_CERTIFICATE (R430) -/
  | spdmGetCertificate (path : SpdmPath) (req : List Byte)
  /-- SPDM_CHALLENGE (R430) -/
  | spdmChallenge (path : SpdmPath) (req : List Byte)
  /-- SPDM_GET_MEASUREMENTS (R431) -/
  | spdmGetMeasurements (path : SpdmPath) (req : List Byte)
  /-- SPDM_KEY_EXCHANGE (R430) -/
  | spdmKeyExchange (path : SpdmPath) (req : List Byte)
  /-- SPDM_FINISH (R430) -/
  | spdmFinish (path : SpdmPath) (req : List Byte)
  /-- SPDM_KEY_UPDATE (R430) -/
  | spdmKeyUpdate (path : SpdmPath) (req : List Byte)
  /-- SPDM_HEARTBEAT (R430) -/
  | spdmHeartbeat (path : SpdmPath) (req : List Byte)
  /-- SPDM_END_SESSION (R430) -/
  | spdmEndSession (path : SpdmPath) (req : List Byte)
  /-- POWER_WINDOW_TICK (R473) -/
  | powerWindowTick (avg : Nat)
  /-- AVS_TELEMETRY (R461) -/
  | avsTelemetry (reg : Fin 2) (answered : Bool) (volts : Nat) (amps : Nat)
  /-- AVS_VOLTAGE_REACHED (R461) -/
  | avsVoltageReached
  /-- THERMAL_SAMPLE (R475) -/
  | thermalSample (temps : List Int)
  /-- THERMAL_STEP (R475) -/
  | thermalStep
  /-- DUMP_LATCH (R451) -/
  | dumpLatch (part : Fin 32)
  /-- REGISTER_WRITE (R486) -/
  | registerWrite (fn : Fin 64) (addr : Nat) (size : Nat) (value : W64)
  /-- STATE_MACHINE_PARITY (R392) -/
  | stateMachineParity (block : Fin 128)
  /-- SERVICE_CORE_SELFTEST_DONE (R397) -/
  | serviceCoreSelftestDone (core : Fin 3) (ok : Bool)
  /-- PCIE_LINK_UP (R370) -/
  | pcieLinkUp (port : Fin 2)
  /-- PERST_RELEASE (R469) -/
  | perstRelease (port : Fin 2)
  /-- CORE_CLOCK_RETURN (R468) -/
  | coreClockReturn
  /-- ROUTE_NAK (R289) -/
  | routeNak (p : Packet) (via : Fin 64)
  /-- BUS_MASTER_SET (R371) -/
  | busMasterSet (fn : Fin 64)
  /-- IDE_KM (R430) -/
  | ideKm (path : SpdmPath) (req : List Byte)
  /-- BOARD_SENSOR_POLL (R471) -/
  | boardSensorPoll (temps : List (Option Int))
  /-- INVOKE_DEADLINE_EXPIRE (R94) -/
  | invokeDeadlineExpire (inv : Nat)
deriving DecidableEq, Repr

end Sys2Proof
end

