-- ==== Sys2Proof/Config.lean ====
section
/-!
DEFINITION. What the spec leaves open. Every constant here has no body: nothing in Lean can evaluate it, so a claim that
holds, holds whatever the hardware does. `freeWord` and `freeNat` are applied to the counter `State.freeCtr`, which each
use advances, so that every use may give another value.
-/
namespace Sys2Proof.Config

/-- A value the spec leaves open, as a register-wide word; the argument is the state's counter of free values. -/
opaque freeWord : Nat → W64

/-- The element that a NaN becomes in E2M1, which has no NaN (R49, R59). -/
opaque e2m1OfNan : BitVec 4

/-- The two positions of a number in a walker's visited filter (R118 gives no hash). -/
opaque visitedHash : Nat → Nat × Nat

/-- The route hash of the fixed class: hash(src, t) (R289). -/
opaque routeHash : Nat → Nat → Nat

/-- e raised to an FP32 number, and the reciprocal square root, as VEW gives them (R82 states no rounding). -/
opaque expF32 : Nat → BitVec 32
opaque rsqrtF32 : Nat → BitVec 32

/-- An FP32 number raised to a whole power, in FP32 (R269 states no order of rounding). -/
opaque powF32 : Nat → Nat → BitVec 32

/-- The FP32 sum of a list of FP32 numbers in the vector unit's lane order (R82 says the order is fixed, not which). -/
opaque laneSum : List Nat → BitVec 32

/-- Elements of one row of the tensor that a vector-unit word names, by the word (R54 and R81 give no operand for it). -/
opaque rowElems : Nat → Nat

/-- SHA-512 of a byte string (R75, R416, R431 name the standard). -/
opaque sha512 : List Byte → BitVec 512

/-- ECDSA P-521 verification of a signature (r and s as 132 bytes) over a digest by a public key (R76, R417). -/
opaque ecdsaP521 : (key : List Byte) → (digest : BitVec 512) → (sig : List Byte) → Bool

/-- SHA-512 digests of the four Keatik root public keys in the mask ROM (R419), and of the mask ROM (R431). -/
opaque rootDigest : Fin 4 → BitVec 512
opaque romDigest : BitVec 512

/-- The point of P-521 that a private key gives, in SEC 1 uncompressed form (R428). -/
opaque p521Public : Nat → List Byte

/-- An ECDSA P-521 signature by a private key over a message (R431). -/
opaque p521Sign : Nat → List Byte → List Byte

/-- Random bytes of a length (R430 names no source); the first argument is the state's counter of free values. -/
opaque randomBytes : Nat → Nat → List Byte

/-- What an SPDM session's key schedule gives for a transcript (R430 names the standard). -/
opaque spdmKeys : List Byte → List Byte

/-- How much of the staging memory reserved for plans lies on ED-N, by the total in KiB (R327, R331 do not say how a plan's
staging is placed). -/
opaque stagingNorth : Nat → Nat

end Sys2Proof.Config
end

