-- ==== Sys2Proof/Machine/StateFab.lean ====
section
/-!
DEFINITION. The state of the fabric (chapter 11) and of compute in the switch path (chapter 12).
-/
namespace Sys2Proof.Machine

/-- FAB_PORT_STAT.STATE (R309). -/
inductive PortState where
  | down | training | align | ident | up | disabled
deriving DecidableEq, Repr

/-- A partial packet being assembled at a port (R293): the instant of its header and the payload flits that have arrived. -/
structure Assembly where
  p : Packet
  t : Nat
  flits : Tab (List Byte) := []
deriving DecidableEq, Repr

/-- A list in a join buffer (R321): the packets it came in, its root, the bytes without prefixes, the ranks it carries, whether
its last burst has arrived, and until when it is held. -/
structure JoinEnt where
  pkts : List Packet
  dst : Nat
  inst : Nat
  part : Nat
  bytes : List Byte
  ranks : Nat
  joined : Bool
  done : Bool
  /-- its bursts pass unjoined: the buffer was full -/
  bypass : Bool := false
  until_ : Nat
deriving DecidableEq, Repr

/-- A fabric port (R278 to R281, R309 to R311). -/
structure Port where
  st : PortState := .down
  far : Nat := 0xFFF
  farPort : Nat := 0
  lanes : Nat := 0
  reason : Nat := 0
  disable : Bool := false
  /-- FAB_PORT_EP of an edge port -/
  ep : W64 := 0
  /-- lanes that have lost signal -/
  lost : Nat := 0
  /-- frame sequence numbers: next sent, next expected -/
  txSeq : Nat := 0
  rxSeq : Nat := 0
  /-- frames sent and not acknowledged, oldest first: sequence number and the packet they carry -/
  retry : List (Nat × Packet) := []
  /-- instant the port went DOWN or last tried to train -/
  downT : Nat := 0
  /-- link retries within the current ms, and that ms -/
  retries : Nat := 0
  retryMs : Nat := 0
  /-- lists held for joining, and the number of the next -/
  join : Tab JoinEnt := []
  nextJoin : Nat := 0
deriving DecidableEq, Repr

/-- What a fabric request of this node serves. -/
inductive ReqFor where
  /-- a VATOM of a cluster's vector unit: old value to scratch -/
  | vatom (c off width : Nat)
  /-- a store of a cluster (VSTFLAG, VSTORE to a fabric address) -/
  | store (c : Nat)
  /-- a copy job of a walker -/
  | copy (c job : Nat)
  /-- an invalidation of a cluster -/
  | inval (c : Nat)
  /-- a request of a cluster of this region that has been fenced since: its answer is dropped (R32) -/
  | fenced (region : Nat)
  /-- a forwarded update's or other request with nobody waiting in the model -/
  | other
deriving DecidableEq, Repr

/-- An outstanding request of this node (R294, R297, R298). -/
structure Req where
  kind : Nat
  dst : Nat
  src : Nat
  part : Nat
  t : Nat
  for_ : ReqFor
  addr : Nat
  len : Nat
  /-- the packet as sent, for routing again (R289), and the intermediates refused -/
  p : Packet
  refused : List Nat := []
  /-- INVAL: positions and endpoints that have not acknowledged -/
  waitPos : Nat := 0
  waitEp : List Nat := []
  deadline : Option Nat := none
  /-- the invocation whose unit issued it -/
  inv : Option Nat := none
deriving DecidableEq, Repr

/-- A request that carries FLAG, or an INVAL, waiting for earlier requests of its source (R294, R298): the tags awaited and
the first bad status in issue order. -/
structure FlagWait where
  req : Req
  tag : Nat
  awaits : List Nat
  /-- status by tag of the earlier requests that ended otherwise than with OK -/
  bad : Tab Nat := []
deriving DecidableEq, Repr

/-- A relayed INVAL at a row peer (R298): whom to answer and who has not acknowledged. -/
structure InvalRelay where
  src : Nat
  tag : Nat
  /-- the tag of the copies this node has sent on -/
  myTag : Nat
  waitPos : Nat
  waitEp : List Nat
  t : Nat
deriving DecidableEq, Repr

/-- What a destination remembers of a source's bursts and fixed stream (R292, R295, R296). -/
structure RxRec where
  /-- highest BSEQ up to which all are consumed, and consumed ones beyond it -/
  high : Nat := 0
  some_ : List Nat := []
  /-- next FSEQ expected, and early arrivals held -/
  fnext : Nat := 1
  early : Tab Packet := []
deriving DecidableEq, Repr

/-- A burst of a REDUCE or GATHER contribution that the root has taken (R317, R318): ranks, chunk, second half, 64-bit sums. -/
structure CollPart where
  ranks : Nat
  chunk : Nat
  half : Bool
  wide : Bool
  last : Bool
  data : List Byte
deriving DecidableEq, Repr

/-- A collective instance at its root (R312 to R325), or a query merge. -/
structure Coll where
  /-- plan slot and first constant of the descriptor; `none` for a query merge -/
  desc : Option (Nat × Nat) := none
  qid : Option Nat := none
  /-- instance, or the entry node's context number -/
  n : Nat := 0
  part : Nat := 0
  /-- contributing positions; ranks taken and absent -/
  mask : Nat := 0
  taken : Nat := 0
  absent : Nat := 0
  closeT : Nat := 0
  parts : List CollPart := []
  /-- complete lists in order of arrival, and whether each was joined in flight -/
  lists : List (List Byte × Bool) := []
  /-- lists whose bursts are still arriving, by source: ranks seen and bytes -/
  open_ : Tab (Nat × List Byte) := []
  /-- the entry node's own list -/
  own : Option (List Byte) := none
  /-- the cluster and scratch address that receive the result, once the root's instruction has issued -/
  dst : Option (Nat × Nat) := none
  closed : Bool := false
  /-- the status with which it has ended before the root's instruction issued -/
  ended : Option Nat := none
deriving DecidableEq, Repr

/-- A packet held for a newer generation: its port and the instant of its arrival (R286). -/
structure HeldPkt where
  port : Nat
  p : Packet
  t : Nat
deriving DecidableEq, Repr

/-- The fabric and the switch path. -/
structure FabSt where
  /-- FAB_ID.RACK_ID and NODE -/
  rackId : Nat := 0
  node : Nat := 0xFFF
  /-- FAB_CFG: BHOLD 0x032, INVAL_TMO 0x064, GEN_HOLD 0x14, MSG_TMO 0x0A, RETRY_LIM 0x40, DEGRADE 1 -/
  cfg : W64 := 0x0000_C864_140A_4001
  allowed : Nat := 1
  role : Nat := 0
  gw : Tab W64 := []
  ports : Tab Port := []
  /-- LSTATE last received, by position (R290) -/
  lstate : Tab W64 := []
  lastLstate : Nat := 0
  /-- next BSEQ and FSEQ towards a destination, bursts outstanding towards it -/
  bseq : Tab Nat := []
  fseq : Tab Nat := []
  rx : Tab RxRec := []
  asm : Tab Assembly := []
  /-- packets assembled whole, waiting for their own command -/
  ready : List (Nat × Packet) := []
  /-- packets held for a newer generation (R286), with the instant of arrival -/
  genHold : Tab HeldPkt := []
  nextHold : Nat := 0
  /-- control messages held for a newer generation, with the instant of arrival -/
  ctlHold : List (Nat × Instr) := []
  nextTag : Nat := 0
  reqs : Tab Req := []
  flagWait : List FlagWait := []
  relays : List InvalRelay := []
  /-- packets of this node without a request that intermediates have refused (R289) -/
  naks : List (Packet × List Nat) := []
  /-- a role shift: role, epoch, command (R301) -/
  shift : Option (Nat × Nat × Nat) := none
  /-- SWC_CFG: JOIN_EN 1, JOIN_WIN 500 -/
  swcCfg : W64 := 0x0000_0000_0001_01F4
  swcErr : Tab W64 := []
  /-- descriptor slots held: plan slot and partition (R334) -/
  descs : Tab (Nat × Nat) := []
  colls : Tab Coll := []
  nextColl : Nat := 0
deriving DecidableEq, Repr

end Sys2Proof.Machine
end

