-- ==== Sys2Proof/Machine/StateFlash.lean ====
section
/-!
DEFINITION. The state of the flash channels and of media management (chapter 13).
-/
namespace Sys2Proof.Machine

/-- STATE of a map entry (R346). -/
inductive MapState where
  | unmapped | mapped | discarded
deriving DecidableEq, Repr

/-- A physical unit: one page in two planes of a die (R347). -/
structure PhysUnit where
  die : Nat := 0
  block : Nat := 0
  page : Nat := 0
deriving DecidableEq, Repr

/-- A flash map entry (R346). -/
structure MapEnt where
  st : MapState := .unmapped
  at_ : PhysUnit := {}
deriving DecidableEq, Repr

/-- A block of a die (R349, R353 to R355). -/
structure Block where
  /-- erase count -/
  ec : Nat := 0
  /-- pages programmed since the last erase, and the seconds value at which the block was closed -/
  used : Nat := 0
  closed : Bool := false
  closeS : Nat := 0
  retired : Bool := false
  /-- refreshes in this patrol period (R355) -/
  refreshed : Nat := 0
deriving DecidableEq, Repr

/-- Why a unit is programmed. -/
inductive ProgFor where
  /-- a write: of commands, of the log, of a tier move or a checkpoint -/
  | write (cids : List Nat)
  /-- moves by cause (R349, R341, R354, R358, R355) -/
  | gc | refresh | wear | evac | retire
deriving DecidableEq, Repr

/-- Whose read a codeword read is. -/
inductive ReadFor where
  | cmd (cid : Nat)
  | rerank (c ctx slot : Nat)
  | patrol
deriving DecidableEq, Repr

/-- Work at a die (R342). -/
inductive DieWork where
  | read (unit cw : Nat) (for_ : ReadFor)
  /-- a program of logical unit: the bytes to lay over the unit at offsets, codewords whose DISC mark is set by it, its
  place, and the entry the map had when a move began -/
  | program (unit : Nat) (parts : List (Nat × List Byte)) (disc : List Nat) (at_ : PhysUnit) (for_ : ProgFor)
      (old : MapEnt)
  | erase (block : Nat)
deriving DecidableEq, Repr

/-- A queued or running operation of a die. -/
structure DieReq where
  id : Nat
  cls : Nat
  part : Nat
  t : Nat
  deadline : Option Nat := none
  work : DieWork
  /-- ladder step of a read (R340); suspensions of a program or erase (R343) -/
  step : Nat := 0
  susp : Nat := 0
  issued : Nat := 0
deriving DecidableEq, Repr

/-- A program that waits for an open block. -/
structure WaitProg where
  unit : Nat
  part : Nat
  parts : List (Nat × List Byte)
  disc : List Nat
  for_ : ProgFor
deriving DecidableEq, Repr

/-- FLS_DIELOOK.STATE (R363). -/
inductive DieState where
  | inService | retiring | retired | absent
deriving DecidableEq, Repr

/-- A die (R335, R342, R356). -/
structure Die where
  st : DieState := .absent
  blocks : Nat := 0
  pages : Nat := 0
  suspend : Bool := false
  tprog : Nat := 0
  tbers : Nat := 0
  rated : Nat := 0
  retention : List Nat := []
  blk : Tab Block := []
  open_ : Option Nat := none
  queue : List DieReq := []
  /-- the operation in progress, and the ones it has suspended -/
  op : Option DieReq := none
  paused : List DieReq := []
  retBlk : Nat := 0
  /-- instants of its ready timeouts (R336) -/
  timeouts : List Nat := []
  /-- busy time in all, and given to classes 2 and 3, in the current 1 ms window (R342) -/
  win : Nat := 0
  busyAll : Nat := 0
  busy2 : Nat := 0
  busy3 : Nat := 0
  /-- blocks that are erased once no mapped unit is left in them (R349, R354) -/
  emptying : List Nat := []
  /-- next codeword of the patrol rotation, and codewords handed over under R344 -/
  patrolNext : Nat := 0
  handed : List (Nat × Nat) := []
deriving DecidableEq, Repr

/-- A partly written unit in the write buffer (R348). -/
structure BufUnit where
  t : Nat
  part : Nat
  parts : List (Nat × List Byte)
  disc : List Nat := []
  cids : List Nat
deriving DecidableEq, Repr

/-- FLS_MOD.STATE (R357). -/
inductive ModState where
  | absent | discovering | online | mismatch | evacuating | safe
deriving DecidableEq, Repr

/-- A module slot (R357, R472). -/
structure Slot13 where
  st : ModState := .absent
  present : Bool := false
  /-- instant presence went active, while it is debounced; slot power and the instant it was given -/
  debounce : Option Nat := none
  power : Bool := false
  powerT : Nat := 0
deriving DecidableEq, Repr

/-- A flash command or other transfer in progress: units or codewords outstanding, what its reads have brought, and whether
one was uncorrectable or discarded. -/
structure FlJob where
  left : Nat := 0
  poison : Bool := false
  disc : Bool := false
deriving DecidableEq, Repr

/-- Flash. -/
structure FlashSt where
  /-- FLS_CFG: WL_SPREAD 0x01F4, DIE_RET 0x14, CKPT_INT 0x1E, REFRESH_STEP 4, PATROL 7 -/
  cfg : W64 := 0x0000_01F4_141E_0407
  /-- FLS_SCHED: SUSP_MAX 4, WR_SHARE 0x40, BG_SHARE 0x20 -/
  sched : W64 := 0x0000_0000_0004_4020
  lcap : W64 := 0
  /-- the flash space is not opened (R346) -/
  notOpen : Bool := false
  prange : Tab W64 := []
  err : Tab W64 := []
  /-- the flash map by logical unit -/
  map_ : Tab MapEnt := []
  /-- bytes of the logical space as its units show them, codewords whose mark is poison or that are lost, and codewords
  whose DISC mark is set, by address / 4,096 -/
  mem : List Host.Cell := []
  pois : Tab Bool := []
  disc : Tab Bool := []
  /-- dies by channel × 32 + target × 4 + LUN -/
  dies : Tab Die := []
  slots : Tab Slot13 := []
  /-- FLS_CH.RATE, TGTS and STATE per channel -/
  chRate : Tab Nat := []
  chTgts : Tab Nat := []
  chState : Tab Nat := []
  /-- channel of the next unit of a write stream (R347) -/
  rotor : Nat := 0
  wbuf : Tab BufUnit := []
  jobs : Tab FlJob := []
  nextReq : Nat := 0
  /-- write sequence, and that of the last map checkpoint (R351); its instant -/
  wseq : Nat := 0
  ckptSeq : Nat := 0
  ckptT : Nat := 0
  /-- instant of the last ZQ calibration -/
  zqT : Nat := 0
  /-- programs that wait for an open block (R349) -/
  waiting : List WaitProg := []
deriving DecidableEq, Repr

end Sys2Proof.Machine
end

