-- ==== Sys2Proof/Machine/StateHost.lean ====
section
/-!
DEFINITION. The state of the host ports, queues, admission (chapter 14) and counters (chapter 17).
-/
namespace Sys2Proof.Machine

/-- One 128-byte slot of a command window (R373): the bytes written and not yet consumed. The line has arrived when all
128 are written. -/
structure Slot where
  /-- offset within the slot and byte -/
  bytes : Tab Byte := []
  /-- instant of the first byte since the slot was last clear (R375) -/
  first : Nat := 0
  /-- instant of the last byte -/
  last : Nat := 0
deriving DecidableEq, Repr

/-- A completion that is not yet in the ring (R379). SQ_HEAD and PHASE are filled in when it is written. -/
structure Entry where
  cmdId : Nat := 0
  status : Nat := 0
  nd : Bool := false
  discarded : Bool := false
  winerr : Bool := false
  /-- for a window-error entry: the offending slot -/
  slot : Nat := 0
  cmd : Nat := 0
  aux : Nat := 0
  value : Nat := 0
  stamp : Nat := 0
  /-- it counts as signalled already (R375) -/
  quiet : Bool := false
deriving DecidableEq, Repr

/-- A queue of a function (R373 to R391). -/
structure Queue where
  /-- HIF_QCFG -/
  cfg : W64 := 0
  /-- HIF_CQ_BASE -/
  cqBase : W64 := 0
  /-- HIF_CQ_HEADP -/
  cqHeadp : W64 := 0
  /-- HIF_SR_BASE -/
  srBase : W64 := 0
  /-- HIF_QERR -/
  err : W64 := 0
  /-- HIF_QSTAT.SQ_HEAD -/
  sqHead : Nat := 0
  winerr : Bool := false
  slots : Tab Slot := []
  /-- index of the ring entry written next -/
  cqNext : Nat := 0
  /-- PHASE of the current lap (R380) -/
  cqPhase : Bool := true
  /-- ring entries known to be free -/
  cqFree : Nat := 0
  /-- completions waiting for a free entry, in order -/
  cqWait : List Entry := []
  /-- unsignalled completions and the instant of the oldest (R382) -/
  unsig : Nat := 0
  unsigT : Nat := 0
  /-- index of the sample written next and the samples of the group in progress (R388) -/
  srNext : Nat := 0
  srGroup : List (List Byte) := []
  /-- how often the queue was enabled: a completion of an earlier enable is never written (R488) -/
  enables : Nat := 0
deriving DecidableEq, Repr

/-- A PCIe function (R369 to R371). Function numbers are port × 32 + FUNC. -/
structure Fn where
  bound : Bool := false
  part : Nat := 0
  /-- HIF_FUNC.ACTIVE -/
  active : Bool := false
  /-- HIF_FUNC.OWNER -/
  owner : Bool := false
  /-- HIF_FUNC.FO_DELAY, in ms -/
  foDelay : Nat := 0x0A
  /-- HIF_FUNC.RO_EN -/
  roEn : Bool := false
  /-- Enable Relaxed Ordering of the function's PCIe configuration (R381) -/
  ero : Bool := true
  qbase : Nat := 0
  qcount : Nat := 0
  /-- Bus Master Enable -/
  busMaster : Bool := false
  /-- counts the FLRs and Bus Master clears: a command consumed before one has its host writes dropped (R371) -/
  gen : Nat := 0
  queues : Tab Queue := []
  /-- TIER_HLOOK.TILE and FLS_DIELOOK.DIE, banked per function (R219, R363) -/
  hlook : Nat := 0
  dieLook : Nat := 0
  /-- instant of the last sample group and so on is per queue; AER errors logged on the function (R368) -/
  aer : Nat := 0
deriving DecidableEq, Repr

/-- What a consumed command still waits for. -/
inductive CmdPhase where
  /-- consumed; its row command has not run yet -/
  | admitted
  /-- running: some later event ends it -/
  | running
deriving DecidableEq, Repr

/-- A command that admission has consumed and that has no completion yet (R374, R377). -/
structure Cmd where
  fn : Nat := 0
  q : Nat := 0
  /-- the queue's `enables` and the function's `gen` at consumption -/
  en : Nat := 0
  gen : Nat := 0
  part : Nat := 0
  /-- the queue slot of its first line, and its lines' bytes -/
  slot : Nat := 0
  bytes : List Byte := []
  stamp : Nat := 0
  phase : CmdPhase := .admitted
deriving DecidableEq, Repr

/-- A pending ADM_BKT change (R386). -/
structure BktChange where
  mode : Nat
  rate : Nat
  burst : Nat
  time : Nat
deriving DecidableEq, Repr

/-- The admission state of a partition (R385 to R391). -/
structure Adm where
  /-- ADM_PCFG: WEIGHT 1, DEF_DL 2,500,000 -/
  pcfg : W64 := 0x0001_0000_0026_25A0
  /-- ADM_BKT as last written -/
  bkt : W64 := 0
  /-- ADM_REG -/
  reg : W64 := 0
  /-- the settings in force, and the change that the next tick applies -/
  rate : Nat := 0
  burst : Nat := 0
  pend : Option BktChange := none
  /-- tokens, and ADM_TOK.TOK: tokens as of the last tick -/
  tok : Nat := 0
  tokShown : Nat := 0
  /-- L_p: the tag of the partition's last consumed command -/
  tagL : Nat := 0
  /-- USED of the STACK regulator in each region, of FLASH (1/16 codeword) and of FABRIC (R389) -/
  usedStack : Tab Nat := []
  usedFlash : Nat := 0
  usedFabric : Nat := 0
deriving DecidableEq, Repr

/-- The regulator a request waits at (R389). -/
inductive RegKind where
  | stack (region : Nat)
  | flash
  | fabric
deriving DecidableEq, Repr

/-- A request that waits at a regulator, in issue order. -/
structure HeldReq where
  kind : RegKind
  part : Nat
  id : Nat
deriving DecidableEq, Repr

/-- The two PCIe ports (R367, R370). -/
structure PciePort where
  up : Bool := false
  /-- instant the link went down -/
  downT : Nat := 0
  /-- PERST_x_N is asserted (R469) -/
  perst : Bool := true
deriving DecidableEq, Repr

/-- Host interface and admission. -/
structure HostSt where
  fns : Tab Fn := []
  portA : PciePort := {}
  portB : PciePort := {}
  /-- commands consumed and not ended, keyed by a number of the model's own -/
  cmds : Tab Cmd := []
  nextCid : Nat := 0
  adm : Tab Adm := []
  /-- V: the tag of the last command consumed by any partition (R387) -/
  tagV : Nat := 0
  /-- instant of the last admission decision -/
  lastDec : Option Nat := none
  /-- instant of the last refill tick, sample latch and regulator window, so that each comes about once -/
  lastRefill : Option Nat := none
  lastSample : Option Nat := none
  lastWindow : Option Nat := none
  held : List HeldReq := []
deriving DecidableEq, Repr

/-- The dump ring of a partition (R451, R456). -/
structure Dump where
  /-- PMC_DUMP_BASE -/
  base : W64 := 0
  /-- PMC_DUMP_CFG: PERIOD 0x000A -/
  cfg : W64 := 0x000A_0000_0000_0000
  /-- PMC_DUMP_STAT.SEQ and LOST -/
  seq : Nat := 0
  lost : Bool := false
  /-- dumps latched since EN was set -/
  n : Nat := 0
  /-- the last latch's instant -/
  lastT : Option Nat := none
deriving DecidableEq, Repr

/-- Counters (R444, R448, R450). Keys: partition × 32 + counter, cluster × 8 + counter, cluster × 4 + class. A
selection's default is QUAL 0xFF, all else 0. -/
structure PmcSt where
  psel : Tab W64 := []
  pctr : Tab W64 := []
  csel : Tab W64 := []
  cctr : Tab W64 := []
  cfix : Tab W64 := []
  dumps : Tab Dump := []
deriving DecidableEq, Repr

end Sys2Proof.Machine
end

