-- ==== Sys2Proof/Machine/StateMbr.lean ====
section
/-!
DEFINITION. The state of errors, injection, the service complex, membership and rebuild (chapter 15).
-/
namespace Sys2Proof.Machine

/-- An error record (R395). -/
structure ErrRec where
  seq : Nat
  time : Nat
  det : Nat
  sev : Nat
  inj : Bool
  /-- 0xFF for none -/
  part : Nat
  action : Nat
  status : Nat
  loc : Nat
  addr : Nat
  count : Nat := 1
deriving DecidableEq, Repr

/-- ERR_INJ of a detector (R394): MODE, UE and TARGET as last written, and the arm. -/
structure InjReg where
  reg : W64 := 0
  armed : Bool := false
  mode : Nat := 0
  ue : Bool := false
  target : Nat := 0
deriving DecidableEq, Repr

/-- ERR_SC.STATE of a core (R411). -/
inductive CoreState where
  | healthy | reset | selftest | failed
deriving DecidableEq, Repr

/-- Stack repair of a row (R409): corrected errors and the instant of the first of them. -/
structure RowCe where
  n : Nat := 0
  t : Nat := 0
deriving DecidableEq, Repr

/-- Counts of a stack's repairs (R411). -/
structure StkErr where
  frmRet : Nat := 0
  hard : Nat := 0
  soft : Nat := 0
deriving DecidableEq, Repr

/-- Errors (R392 to R398, R409, R411). -/
structure ErrSt where
  /-- ERR_CFG: PPR_CE 8 -/
  cfg : W64 := 8
  seq : Nat := 0
  /-- the ring, by SEQ mod 1,024 -/
  recs : Tab ErrRec := []
  inj : Tab InjReg := []
  pstat : Tab W64 := []
  noteBase : Tab W64 := []
  noteCfg : Tab W64 := []
  noteNext : Tab Nat := []
  cores : Tab CoreState := []
  primary : Nat := 0
  term : Nat := 0
  /-- cores whose watchdog has fired since they last became healthy -/
  fired : Tab Bool := []
  /-- instant since which no core is healthy (R398) -/
  noCoreT : Option Nat := none
  stk : Tab StkErr := []
  /-- rows with corrected errors, rows being repaired and frames retired, by stack × 2^32 + number -/
  rows : Tab RowCe := []
  repairing : Tab Bool := []
  retired : Tab Bool := []
  softRows : Tab Bool := []
  /-- node fault (R398) -/
  fault : Bool := false
  /-- SMB_ALERT_N is asserted (R396, R477) -/
  smbAlertN : Bool := false
deriving DecidableEq, Repr

/-- MBR_STATE.STATE (R401). -/
inductive MbrState where
  | alone | pending | member | held | rejoinWait
deriving DecidableEq, Repr

/-- MBR_REBUILD.STATE (R412). -/
inductive RebState where
  | idle | fetch | replay | host | done | refused
deriving DecidableEq, Repr

/-- A change that this node, as leader, has proposed: the map it makes and the managers that have written it (R399). -/
structure Proposal where
  map_ : RackMap
  acks : List Nat
deriving DecidableEq, Repr

/-- Membership. -/
structure MbrSt where
  /-- the installed map: generation (0 before the first), members, spares, job, host table, managers -/
  gen : Nat := 0
  members : Nat := 0
  spares : Nat := 0
  job : Nat := 0
  hosts : Tab Nat := []
  mgrs : List Nat := []
  /-- position of the leader; 64 while none is known, which MBR_STAT shows as 0x3F -/
  leader : Nat := 64
  st : MbrState := .alone
  pos : Nat := 0x3F
  /-- MBR_CFG: FORM_S 0x3C, STRAG 3, EXPEL 6, LEASE 4 -/
  cfg : W64 := 0x003C_0306_0400_0000
  expect : W64 := 0
  err : W64 := 0
  /-- MBR_JOB_CTL: the pending epoch -/
  jobCtl : Nat := 0
  reb : RebState := .idle
  rebShard : Nat := 0
  /-- the shard of the rebuild in progress -/
  rebFor : Nat := 0
  rebEpoch : W64 := 0
  weight : Tab Nat := []
  /-- multipliers received in WEIGHTS that the next B3 release puts in force (R407) -/
  nextWeight : List (Nat × Nat) := []
  /-- ranks taken and absent per contributing position since the last close (R407) -/
  taken : Tab Nat := []
  absent : Tab Nat := []
  lastHello : Nat := 0
  lastBeat : Nat := 0
  /-- by manager: send time of the latest of this node's heartbeats that it has acknowledged; start of the lease -/
  acked : Tab Nat := []
  leaseT : Option Nat := none
  /-- as a manager: instants of the last heartbeat of each member, members it has reported silent, and the reports of
  silence a leader holds: member × 64 + manager -/
  heard : Tab Nat := []
  silent : Tab Bool := []
  silence : Tab Bool := []
  /-- election: own term, the candidate voted for in it, votes received, whether it leads, instant the leader was last heard
  or it became leader -/
  mterm : Nat := 0
  votedFor : Option Nat := none
  votes : List Nat := []
  leading : Bool := false
  leaderT : Nat := 0
  /-- what a manager has written: the latest map in its stacks or flash log, and its job -/
  written : Option RackMap := none
  prop : Option Proposal := none
  propQ : List RackMap := []
  /-- HELLOs heard by the leader: position, identity; and joins it has queued -/
  hellos : Tab Nat := []
  joins : List Nat := []
  /-- identities of the members, as their HELLOs gave them, and their roles -/
  idents : Tab Nat := []
  roles : Tab Nat := []
  /-- host entries of an installed map that the next B3 release puts in force (R408) -/
  nextHosts : Tab Nat := []
  /-- highest generation and job in this node's flash log, and among the managers that have voted for it (R402) -/
  flashGen : Nat := 0
  flashJob : Nat := 0
  foundGen : Nat := 0
  foundJob : Nat := 0
deriving DecidableEq, Repr

end Sys2Proof.Machine
end

