-- ==== Sys2Proof/Machine/StatePkg.lean ====
section
/-!
DEFINITION. The state of start-up, identity, attestation, time, power and pins (chapters 16 and 18).
-/
namespace Sys2Proof.Machine

/-- A slot of the NOR (R416). -/
structure NorSlot where
  seq : Nat := 0
  valid : Bool := false
  image : List Byte := []
deriving DecidableEq, Repr

/-- SEC_STAT.ID (R442). -/
inductive IdState where
  | ok | none_ | zeroised | uncertified
deriving DecidableEq, Repr

/-- A PARTITION entry in force: its flags, sealed range and signers (R423). -/
structure PartEnt where
  owner : Bool := false
  unsignedOk : Bool := false
  sealFirst : Nat := 0
  sealCount : Nat := 0
  sealRegion : Nat := 0
  signers : List (List Byte) := []
deriving DecidableEq, Repr

/-- An SPDM session (R430). -/
structure SpdmSess where
  id : Nat
  open_ : Bool := false
  keyGen : Nat := 0
deriving DecidableEq, Repr

/-- The SPDM responder's state towards one requester: how far the connection has come (0 nothing, 1 VERSION, 2
CAPABILITIES, 3 ALGORITHMS), its transcript, and its sessions. -/
structure SpdmConn where
  phase : Nat := 0
  transcript : List Byte := []
  sess : List SpdmSess := []
  nextId : Nat := 0
  /-- IDE streams whose keys are set, and the key set in use: stream × 4 + direction and slot -/
  ide : Tab (List Byte) := []
  ideOn : Tab Bool := []
deriving DecidableEq, Repr

/-- SEC_STOP.STATE (R442). -/
inductive StopState where
  | running | stopping | stopped
deriving DecidableEq, Repr

/-- Start, identity, attestation. -/
structure SecSt where
  /-- the NOR: slots A and B, whether the directory's CRC holds, helper data and device certificate, fault records -/
  slotA : NorSlot := {}
  slotB : NorSlot := {}
  dirOk : Bool := true
  helper : List Byte := []
  cert : List Byte := []
  faultRecs : List (List Byte) := []
  /-- SEC_STAT: SLOT (0 A, 1 B, 3 NONE), ID, TEST, COLD -/
  slot : Nat := 3
  id : IdState := .none_
  testOpen : Bool := false
  cold : Bool := true
  seq : Nat := 0
  starterDig : BitVec 512 := 0
  fwDig : BitVec 512 := 0
  idDig : BitVec 512 := 0
  idKey : List Byte := []
  /-- K: 32 bytes while the node holds an identity -/
  secret : List Byte := []
  /-- the PUF health test of this start passed -/
  healthy : Bool := false
  nonce : W64 := 0
  mbxAddr : W64 := 0
  /-- SEC_MBX_CTL: OP and LEN as last written -/
  mbxCtl : W64 := 0
  mbxState : Nat := 0
  mbxResult : Nat := 0
  stop : StopState := .running
  stopEpoch : Nat := 0
  /-- partitions of the image in force, its KEYS, its UNLOCK signers and its root key -/
  parts : Tab PartEnt := []
  keys : List (List Byte) := []
  unlock : List (List Byte) := []
  rootKey : List Byte := []
  /-- the PCIE block: per port TotalVFs, Subsystem Vendor ID and Subsystem ID (R420) -/
  pcieBlk : List Byte := []
  spdm : Tab SpdmConn := []
  /-- the start in progress: 0 none, 1 to begin, 2 image applied and waiting for PG_MAIN, 3 started -/
  phase : Nat := 1
  /-- recovery has ended (R415); the rack start barrier: armed once in this run, released -/
  recovered : Bool := false
  startArmed : Bool := false
  epochs : Bool := false
deriving DecidableEq, Repr

/-- Time (R435 to R438, R443). -/
structure TimSt where
  nextSec : W64 := 0
  /-- TIM_CFG: MAXERR 0x64, AUTO 1 -/
  cfg : W64 := 0x0000_0000_0064_0001
  trim : Int := 0
  /-- accumulator of R435, in 2^-32 ns; nanoseconds of half rate left, and which of the two is next -/
  acc : Int := 0
  slew : Nat := 0
  half : Bool := false
  perr : Int := 0
  ref : Nat := 0x3F
  cal : Nat := 0
  src : Nat := 0
  ppsT : Nat := 0
  calOff : Int := 0
  /-- previous target, instant of the last accepted edge, instant of the previous applied correction of this run -/
  target : Option Nat := none
  lastEdge : Option Nat := none
  lastCorr : Option Nat := none
  /-- the next edge may apply any correction; TRIM is kept at the next correction -/
  resync : Bool := false
  keepTrim : Bool := false
  streak : Nat := 0
  /-- instant the next PPS edge is expected at (R437) -/
  expected : Option Nat := none
deriving DecidableEq, Repr

/-- A sensor (R475, R484): state 0 OK, 1 WARN, 2 CRIT, 3 FAILED or absent. -/
structure Sensor where
  st : Nat := 0
  /-- signed, in 1/16 °C -/
  temp : Int := 0
deriving DecidableEq, Repr

/-- The power limit, the tensor clock and its supply (R461, R473, R481). -/
structure ClkSt where
  /-- PWR_LIMIT: HYST 50, LIMIT 1,100 -/
  limit : W64 := 0x0000_0000_0032_044C
  /-- PWR_TCLK: MIN, MAX, CUR, CAUSE -/
  tmin : Nat := 0x10
  tmax : Nat := 0x28
  tcur : Nat := 0x28
  tcause : Nat := 0
  /-- the setting of VDD_CD in mV, and a raise of the clock that waits for its voltage: step and cause -/
  vddcd : Nat := 750
  raise : Option (Nat × Nat) := none
deriving DecidableEq, Repr

/-- Power, clocks, pins (R459 to R484). -/
structure PwrSt where
  /-- PWR_DOM.EN and ON -/
  domEn : Nat := 0xFFFFFF
  domOn : Nat := 1
  /-- averages of the last ten windows, newest first; consecutive windows below LIMIT − HYST -/
  avgs : List Nat := []
  below : Nat := 0
  avsErr : Bool := false
  capFloor : Bool := false
  lastReset : Nat := 0
  /-- PWR_TCFG: 95, 110, 85, 100 -/
  tcfg : W64 := 0x0000_0000_5F6E_5564
  tsens : Tab Sensor := []
  bsens : Tab Sensor := []
  /-- AVSBus: instants of the rails' last answers and the telemetry last read -/
  avsT : Tab Nat := []
  /-- regulators that have not answered for 1 ms -/
  avsDead : Tab Bool := []
  volts : Tab Nat := []
  amps : Tab Nat := []
  lastWin : Option Nat := none
  lastThermal : Nat := 0
  /-- pins: PG_AON, PG_MAIN high; WRST_N asserted; REFCLK_CORE present; outputs asserted -/
  pgAon : Bool := true
  pgMain : Bool := false
  wrst : Bool := false
  clock : Bool := true
  undervolt : Bool := false
  faultN : Bool := false
  thermtripN : Bool := false
  /-- the node is in reset -/
  inReset : Bool := true
deriving DecidableEq, Repr

/-- Start-up, time, package. -/
structure PkgSt where
  sec : SecSt := {}
  tim : TimSt := {}
  clk : ClkSt := {}
  pwr : PwrSt := {}
deriving DecidableEq, Repr

end Sys2Proof.Machine
end

