-- ==== Sys2Proof/Machine/StateTier.lean ====
section
/-!
DEFINITION. The state of the tier space (chapter 8) and of epochs, updates and the log (chapter 9).
-/
namespace Sys2Proof.Machine

/-- STATE of a Home Table entry (R192). -/
inductive HState where
  | unmapped | home | pinned | moving | poisoned
deriving DecidableEq, Repr

/-- A Home Table entry (R192, R193): TIER 0 on die, 1 stack, 2 pool, 3 flash. -/
structure Home where
  st : HState := .unmapped
  tier : Nat := 0
  loc : Nat := 0
deriving DecidableEq, Repr

/-- A stack tier frame in use: its tile, its age and the order in which it reached that age (R204, R205). -/
structure TFrame where
  tile : Nat
  age : Nat := 3
  order : Nat := 0
deriving DecidableEq, Repr

/-- Who waits for a queued atomic's old value, or for a write's answer. -/
structure Asker where
  src : Nat
  tag : Nat
  port : Nat
deriving DecidableEq, Repr

/-- A write in a forwarding queue (R212): bytes at an offset of the tile, or an atomic (operation, operand, compare). -/
structure QWrite where
  off : Nat
  bytes : List Byte
  atomic : Option (Nat × Nat × Nat) := none
  asker : Option Asker := none
deriving DecidableEq, Repr

/-- A move of one of this node's tiles (R210 to R212). -/
structure Move where
  /-- the entry before the move, and the destination -/
  old : Home
  tier : Nat
  loc : Nat
  pin : Bool := false
  frozen : Bool := false
  /-- copy bursts that have arrived, and the bytes and poisoned lines at the destination -/
  copied : Nat := 0
  dmem : List Host.Cell := []
  dpois : List Nat := []
  fwdq : List QWrite := []
  held : List QWrite := []
  /-- a flip moved for heat counts MOVE_HOLD from it (R208) -/
  hot : Bool := false
deriving DecidableEq, Repr

/-- A stub (R210): the old place of a tile and the instant it ends. -/
structure Stub where
  tile : Nat
  tier : Nat
  loc : Nat
  until_ : Nat
deriving DecidableEq, Repr

/-- A line copy in a region's read frames (R199, R200): tier byte offset of an own line or fabric address of a remote line,
in units of 256 bytes. Most recently used first in the list that holds them. -/
structure RfLine where
  line : Nat
  remote : Bool
  bytes : List Byte
deriving DecidableEq, Repr

/-- A fill in flight (R202). -/
structure Fill where
  line : Nat
  joined : Nat := 0
  /-- a fill that must not be kept (R239, R298) -/
  drop : Bool := false
deriving DecidableEq, Repr

/-- A region's tile cache and tables (R199, R202, R208). -/
structure RegionSt where
  lines : List RfLine := []
  fills : List Fill := []
  /-- on-die home frames in use: tile, age, order -/
  odFrames : Tab TFrame := []
  /-- reads and writes counted per tile in this window -/
  hot : Tab (Nat × Nat) := []
  hotStart : Nat := 0
deriving DecidableEq, Repr

/-- A move of a frame that this node lends (R210): the old home or the destination is here. -/
structure LentMove where
  frozen : Bool := false
  copied : Nat := 0
deriving DecidableEq, Repr

/-- The tier space. -/
structure TierSt where
  /-- TIER_CFG: ODHOME 0x10, HOT_THRESH 0x20, HOT_WIN 0x0A, AGE_PERIOD 4, MOVE_HOLD 0x0A, MIGRATE 1 -/
  cfg : W64 := 0x0000_1020_0A04_0A01
  /-- TIER_FAREA -/
  farea : W64 := 0
  /-- TIER_PRANGE, TIER_PGUAR, TIER_ERR per partition; TIER_WIN, TIER_LEND per rack position -/
  prange : Tab W64 := []
  pguar : Tab W64 := []
  err : Tab W64 := []
  win : Tab W64 := []
  lend : Tab W64 := []
  /-- the Tile Home Table: an unlisted tile is UNMAPPED -/
  home : Tab Home := []
  /-- bytes of tiles homed on die, in a stack or in the pool, by tier byte offset -/
  mem : List Host.Cell := []
  /-- uncorrectable 64-byte words (by offset / 64), and lines poisoned by a copy (by offset / 256) (R214) -/
  pois64 : Tab Bool := []
  pois256 : Tab Bool := []
  /-- stack tier frames in use, by stack × 2^20 + frame; frames withheld after POISONED (R490) or reserved for a pin -/
  frames : Tab TFrame := []
  withheld : Tab Bool := []
  /-- first TIER frame and end of the TIER frames of each stack (R203) -/
  tierLo : Tab Nat := []
  tierHi : Tab Nat := []
  /-- counts age changes, for the order of R205 -/
  ageClock : Nat := 0
  lastAge : Nat := 0
  /-- pool frames in use by lender: keys position × 2^21 + offset; spill tiles in use (R195) -/
  pool : Tab Nat := []
  spill : Tab Nat := []
  /-- pins per tile (R206) and instants of the last hot flip (R208) -/
  pins : Tab Nat := []
  flipT : Tab Nat := []
  /-- sealed tile ranges: partition, first, count (R30, R207) -/
  sealed : List (Nat × Nat × Nat) := []
  moves : Tab Move := []
  /-- moves that wait for a move slot (R210): tile, destination tier and place, pin -/
  moveWait : List (Nat × Nat × Nat × Bool) := []
  stubs : Tab Stub := []
  nextStub : Nat := 0
  regions : Tab RegionSt := []
  /-- fabric accesses per tile and source in this window (R209): key tile × 64 + position -/
  fabHot : Tab Nat := []
  /-- bytes and moves of the frames this node lends: keys position × 2^21 + offset, bytes at key × 65,536 + offset -/
  lendMem : List Host.Cell := []
  lendPois : Tab Bool := []
  lendMoves : Tab LentMove := []
  /-- tiles of flash-backed ranges written since their last write-back (R235) -/
  dirty : Tab Bool := []
deriving DecidableEq, Repr

/-- States of an update after admission (R237). -/
inductive UpdState where
  | allocated | logging | voiding | committed | prepared | published | linked
deriving DecidableEq, Repr

/-- An edge staged by an insert (R132): the record to change, the neighbour to add and its tag at that time. -/
structure StagedEdge where
  node : Nat
  nbrs : List Nat
  etags : List Nat
deriving DecidableEq, Repr

/-- An update at its origin (R231 to R237), or a forwarded one at its entry node. -/
structure Update where
  cid : Option Nat := none
  part : Nat := 0
  lrec : LogRec
  st : UpdState := .allocated
  /-- slot filled and slot deleted, when they exist -/
  slot : Option Nat := none
  oldSlot : Option Nat := none
  ctx : Option Nat := none
  /-- the vector has been read and the record can be logged -/
  ready : Bool := false
  /-- the peers that its record went to, and those that have acknowledged it and its voiding -/
  sentTo : List Nat := []
  acks : List Nat := []
  voidAcks : List Nat := []
  logT : Nat := 0
  /-- staged code, neighbours and reverse edges (R132) -/
  code : List Byte := []
  norm : Nat := 0
  nbrs : List Nat := []
  etags : List Nat := []
  edges : List StagedEdge := []
  /-- steps 1 to 3, and 4 and 5, of R132 are complete -/
  prepDone : Bool := false
  edgesDone : Bool := false
  /-- forwarded to this owner (R134) -/
  owner : Option Nat := none
  /-- the cluster whose walker unit prepares it; a delete has been staged by WDELETE -/
  by_ : Option Nat := none
  staged : Bool := false
  /-- the IVF list that takes its entry -/
  list : Option Nat := none
  /-- the record is on flash (R234) -/
  onFlash : Bool := false
deriving DecidableEq, Repr

/-- A barrier (R238): arm times by position, the node's own arming and the release instant. -/
structure Barrier where
  arms : Tab Nat := []
  armed : Bool := false
  release : Option Nat := none
  /-- the instant the last ARM became known after the release instant: the release is late -/
  late : Bool := false
deriving DecidableEq, Repr

/-- EPO_STAT.PHASE (R251). -/
inductive EpoPhase where
  | idle | drain | publish | inval | release
deriving DecidableEq, Repr

/-- Epochs, updates and the log. -/
structure EpoSt where
  /-- EPO_CFG: PERIOD 0x0A, LOG_TMO 0x014, BAR_LEAD 0x05DC -/
  cfg : W64 := 0x0000_000A_0140_05DC
  closed : Nat := 0
  oldest : Nat := 0
  closeT : Nat := 0
  closeUs : Nat := 0
  phase : EpoPhase := .idle
  /-- the epoch being closed and the instant its close began -/
  closing : Nat := 0
  closeStart : Nat := 0
  /-- boundaries reached: epochs below this number have ended -/
  ended : Nat := 0
  /-- EPO_LOGPEER: peers, and the image's candidate list not used yet (R233) -/
  peers : List Nat := []
  candidates : List Nat := []
  /-- EPO_CTXRET -/
  ctxRet : Nat := 0
  durable : Tab Nat := []
  /-- EPO_CKPT: the epoch of the checkpoint in progress -/
  ckpt : Tab Nat := []
  quota : Tab Nat := []
  err : Tab W64 := []
  updates : Tab Update := []
  nextUid : Nat := 0
  nextSeq : Nat := 1
  /-- own records not trimmed, peer copies of other origins' records, and records in the flash log area -/
  log : List (LogRec × Nat) := []
  peerLog : List (LogRec × Nat) := []
  flashLog : List (LogRec × Nat) := []
  /-- registrations of the run before, for the replay at a start (R236) -/
  oldIndexes : List (Nat × Nat × List Byte × List Byte) := []
  /-- changes counted per epoch (R228) -/
  changes : Tab Nat := []
  /-- changes of other owners learnt with their records (R228): key owner × 2^32 + slot -/
  barriers : Tab Barrier := []
  /-- contexts in use, retired, and reserved for a plan slot (R489) -/
  ctxUsed : Tab Bool := []
  ctxRetired : Tab Bool := []
  ctxOwner : Tab Nat := []
deriving DecidableEq, Repr

end Sys2Proof.Machine
end

