-- ==== Sys2Proof/Machine/StateWork.lean ====
section
/-!
DEFINITION. The state of plans, invocations, clusters, walkers, queries, Kneaders and near-bank controllers (chapters 2
to 7, 10).
-/
namespace Sys2Proof.Machine

/-- A role entry of an admitted plan (manifest): its banks, its four instruction lists (128-bit words as numbers) and the
logical clusters that still run it (R34). -/
structure RoleEnt where
  role : Nat
  banks : Nat
  lists : List (List Nat)
  clusters : List Nat
deriving DecidableEq, Repr

/-- A range entry of the manifest. -/
structure RangeEnt where
  first : Nat
  count : Nat
  rd : Bool
  wr : Bool
  nb : Bool
  pin : Bool
deriving DecidableEq, Repr

/-- A model entry of the manifest (R93). -/
structure ModelEnt where
  id : Nat
  prio : Nat
  layers : Nat
  range : Nat
  maxTiles : Nat
deriving DecidableEq, Repr

/-- A plan binary taken apart (R73, R74). -/
structure PlanBin where
  version : Nat := 0
  signed : Bool := false
  multi : Bool := false
  startAt : Bool := false
  tag : Nat := 0
  reqFeat : Nat := 0
  outputs : Nat := 0
  contexts : Nat := 0
  pins : Nat := 0
  colls : Nat := 0
  nodes : Nat := 1
  ndReach : Nat := 0
  satSlots : Nat := 0
  grace : Nat := 0
  roles : List RoleEnt := []
  ranges : List RangeEnt := []
  models : List ModelEnt := []
  consts : List (List Byte) := []
  signer : List Byte := []
  sig : List Byte := []
  sigReserved : Bool := true
  digest : BitVec 512 := 0
deriving DecidableEq, Repr

/-- TOP_PLAN_STAT.STATE (R101). -/
inductive PlanState where
  | loading | admitted | unloading
deriving DecidableEq, Repr

/-- A plan slot in use (R89 to R91, R101, R102, R457). -/
structure Plan where
  state : PlanState := .loading
  part : Nat := 0
  bin : PlanBin := {}
  seed : Nat := 0
  /-- last STEP assigned, and LEV_STEP.STEP, the last assigned or used: all ones before the first invocation (R273, R457) -/
  step : Nat := 2 ^ 64 - 1
  shown : Nat := 2 ^ 64 - 1
  /-- the PLAN_LOAD in progress, and whether it waits for its signature's check -/
  loadCid : Option Nat := none
  sigWait : Bool := false
  /-- refusal bits found so far and by the other nodes of the span (R97) -/
  bits : Nat := 0
  others : Nat := 0
  /-- PLAN_UNLOAD commands that wait for the release -/
  unloadCids : List Nat := []
  /-- tiles the plan pins, with the stack frame reserved for those not homed in a stack (R206) -/
  pins : Tab (Option Nat) := []
  /-- collective descriptor slots held (R334) and staging bytes reserved (R327) -/
  descs : List Nat := []
  staging : Nat := 0
  /-- n of the last instance per descriptor constant on this node (R316) -/
  instances : Tab Nat := []
  /-- highest n of an instance that has closed at this node as root, per descriptor constant -/
  closedInst : Tab Nat := []
deriving DecidableEq, Repr

/-- Where an invocation stands. -/
inductive InvState where
  /-- waiting to start: for a START_AT barrier (R98), a model slot (R94) or its query's start -/
  | held
  /-- on its way to the role's input queue (R83) -/
  | arriving
  /-- in the input queues of its clusters -/
  | running
deriving DecidableEq, Repr

/-- An invocation (R83, R377, R98, R273). -/
structure Inv where
  plan : Nat
  role : Nat
  part : Nat
  words : List Nat
  cid : Option Nat := none
  qid : Option Nat := none
  stamp : Nat := 0
  step : Nat := 0
  deadline : Option Nat := none
  fn : Nat := 0
  outAddr : Nat := 0
  outLen : Nat := 0
  /-- bytes written at OUT_ADDR so far -/
  outDone : Nat := 0
  state : InvState := .arriving
  /-- clusters that have not finished it -/
  left : List Nat := []
  /-- START_AT: the start time (R98); this node arms when the invocation reaches it -/
  startT : Option Nat := none
  /-- the model it waits for (R94) -/
  waitModel : Option Nat := none
  /-- models it uses -/
  models : List Nat := []
deriving DecidableEq, Repr

/-- What a unit's issued instruction waits for. -/
inductive UWait where
  | none
  /-- at NEXT with an empty input queue -/
  | next
  | cbar (b : Nat)
  | twait (t : Nat)
  | kneader
  | model
  /-- a near-bank operation (its number) -/
  | nb (op : Nat)
  /-- a fabric response (its tag) -/
  | resp (tag : Nat)
  /-- a collective's result or an exchange with other clusters -/
  | xchg
  /-- a walk in a beam context -/
  | walk (ctx : Nat)
  /-- the background work of an update or of graph repair -/
  | work
deriving DecidableEq, Repr

/-- A unit of a cluster (R23, R82, R83). -/
structure UnitSt where
  pc : Nat := 0
  /-- LOOP nesting: word where the loop ends, repetitions left -/
  loops : List (Nat × Nat) := []
  /-- invocations of the cluster's input taken so far, and the one it works on -/
  taken : Nat := 0
  inv : Option Nat := none
  /-- invocation words 0 to 15 as NEXT loaded them -/
  words : List Nat := []
  wait : UWait := .none
  halted : Bool := false
  /-- memory accesses issued and not completed (FENCEM) -/
  pending : Nat := 0
deriving DecidableEq, Repr

/-- CLS_STATUS.STATE (R48). -/
inductive ClState where
  | idle | clearing | loading | running | draining | unavailable
deriving DecidableEq, Repr

/-- A beam entry of a walk (R114). -/
structure BeamEnt where
  key : Nat
  slot : Nat
  expanded : Bool := false
  pref : Bool := false
  nbrs : List Nat := []
  etags : List Nat := []
deriving DecidableEq, Repr

/-- A candidate of a walk: its order key and score, and how its full vector stands (R124 to R126). -/
structure CandEnt where
  key : Nat
  slot : Nat
  score : Nat
  gen : Nat
  /-- its exact score, once its vector has arrived -/
  exact : Option Nat := none
  /-- the vector's read is issued; it has ended, with a vector or without -/
  req : Bool := false
  ended : Bool := false
  /-- the filter has run over it; it has passed -/
  tested : Bool := false
  pass : Bool := true
deriving DecidableEq, Repr

/-- Where a walk stands. -/
inductive WalkPhase where
  | seeding | walking | rerank | done
deriving DecidableEq, Repr

/-- A beam context in use (R114, R118, R127, R130). -/
structure Walk where
  qid : Nat
  phase : WalkPhase := .seeding
  p : Nat := 1
  mode : Nat := 0
  /-- visit budget, pool, tombstone limit -/
  budget : Nat := 0
  pool : Nat := 0
  tlimit : Nat := 0
  visits : Nat := 0
  tomb : Nat := 0
  widened : Nat := 0
  cut : Bool := false
  /-- seeds not visited yet (scan-only forms: with their scan score) -/
  seeds : List (Nat × Option Nat) := []
  /-- neighbours of the entry in expansion not looked at yet: slot and edge tag -/
  cur : List (Nat × Nat) := []
  /-- the record awaited: slot, edge tag, scan score -/
  await : Option (Nat × Option Nat × Option Nat) := none
  /-- set bit positions of the visited filter (R118) -/
  seen : Tab Bool := []
  beam : List BeamEnt := []
  cand : List CandEnt := []
  /-- lookup table, and the norm of the query (R109) -/
  lut : List Nat := []
  qnorm : Nat := 0
  /-- slots whose record is on its way ahead of its visit -/
  inflight : List Nat := []
  /-- entries that have been among the best p: their neighbours' records have been prefetched -/
  prefetched : List Nat := []
  /-- speculative reads issued -/
  spec : Nat := 0
  /-- scratch address of the candidate area -/
  out : Nat := 0
deriving DecidableEq, Repr

/-- A line of a walker's record buffer (R119): most recently used first in the list that holds them. -/
structure RecLine where
  index : Nat
  slot : Nat
  bytes : List Byte
  poison : Bool := false
  used : Bool := false
  /-- the line was read from another node (R239) -/
  remote : Bool := false
deriving DecidableEq, Repr

/-- An asynchronous copy of a walker (R121). -/
structure CopyJob where
  dst : Nat
  addr : Nat
  len : Nat
  actr : Nat
  /-- requests still out -/
  left : Nat := 0
deriving DecidableEq, Repr

/-- A coalesced row partial on its way to its owner (R266). -/
structure Partial where
  /-- the cluster that sent it, and the invocation -/
  src : Nat
  inv : Option Nat
  area : Nat
  row : Nat
  count : Nat
  sum : List Nat
  int : Bool
deriving DecidableEq, Repr

/-- A logical cluster (R25 to R27, R48, R69 to R72, R80, R81). -/
structure Cluster where
  st : ClState := .idle
  /-- physical cluster that serves the number; 0xFF when unavailable -/
  phys : Nat := 0
  role : Nat := 0
  part : Nat := 0
  plan : Option Nat := none
  /-- the partition whose role the cluster last served in this run (R26) -/
  served : Option Nat := none
  /-- instruction store: four lists of words -/
  istore : List (List Nat) := []
  scratch : Tab Byte := []
  /-- the TU accumulator, by row × 1,024 + column, and whether it holds integers (R60) -/
  acc : Tab Nat := []
  accInt : Bool := true
  tokens : Tab Nat := []
  actr : Tab Nat := []
  /-- invocations handed to the cluster, oldest first, and how many were dropped from its front -/
  input : List Nat := []
  units : Tab UnitSt := []
  /-- CLS_SAT_CFG: EN 1, MIN 4,096, THRESH 328 -/
  satCfg : W64 := 0x0000_0100_1000_0148
  satEvt : W64 := 0
  nonfin : W64 := 0
  accsat : W64 := 0
  satConv : Tab W64 := []
  satClip : Tab W64 := []
  /-- converted and clipped values of the conversion in progress, per slot (R65) -/
  conv : Tab (Nat × Nat) := []
  /-- next draw of each lane in this invocation (R67, R272) -/
  draws : Tab Nat := []
  walks : Tab Walk := []
  /-- entry points loaded by WSEED, by the context's scratch address: the invocation, slots and scores -/
  seeds : Tab (Option Nat × List (Nat × Nat)) := []
  /-- explicit prefetches in flight (WPREF): query, index, slot -/
  prefs : List (Nat × Nat × Nat) := []
  recs : List RecLine := []
  copies : Tab CopyJob := []
  partials : Tab Partial := []
  /-- coalescer tables and combine areas by address: the invocation they were last used in, and W (R264, R266) -/
  areas : Tab (Option Nat × Nat) := []
  nextJob : Nat := 0
deriving DecidableEq, Repr

/-- A physical cluster (R31 to R35). -/
inductive PhysState where
  | active | spare | fenced | failed
deriving DecidableEq, Repr

/-- A model slot (R93 to R95, R103). -/
inductive ModelState where
  | loading | resident | evicting
deriving DecidableEq, Repr

structure Model where
  id : Nat
  prio : Nat
  part : Nat
  state : ModelState
  /-- last use by the time counter, running users, layers in all -/
  lastUse : Nat := 0
  users : List Nat := []
  total : Nat := 0
  /-- first tile of the weights, tiles per layer -/
  tile : Nat := 0
  step : Nat := 0
  /-- the layers that have arrived, as the slot's stack tiles hold them -/
  data : List (List Byte) := []
deriving DecidableEq, Repr

/-- A query on this node (R110 to R131, R243). -/
structure Query where
  cid : Option Nat := none
  fn : Nat := 0
  part : Nat := 0
  desc : List Byte := []
  stamp : Nat := 0
  /-- D of R127 -/
  deadline : Nat := 0
  step : Nat := 0
  /-- the entry node's position and its context number; `none` on the entry node itself -/
  entry : Option (Nat × Nat) := none
  /-- FP32 elements once the vector has arrived -/
  vec : Option (List Nat) := none
  epoch : Option Nat := none
  /-- waiting for an epoch's close (counted in EPOCH_WAIT) -/
  held : Bool := false
  ctx : Option Nat := none
  inv : Option Nat := none
  /-- cluster and beam context of its walk -/
  at_ : Option (Nat × Nat) := none
  /-- records read, HFLAGS of its walk, and candidates that passed its filter (R131, R158) -/
  visits : Nat := 0
  hflags : Nat := 0
  passed : Nat := 0
  /-- its merge on the entry node of a span -/
  merge : Option Nat := none
  /-- it has stopped reading index data on this node (R242) -/
  quiet : Bool := false
deriving DecidableEq, Repr

/-- A registered index (R104, R105, R271, R135, R136). -/
structure Index where
  part : Nat
  desc : List Byte
  /-- the codebook's copy -/
  cb : List Byte
  /-- slots that hold a vector or a tombstone, rising -/
  used : Tab Bool := []
  /-- insert and delete epochs of slots (the change record, R228, and the tombstones' epochs) -/
  ins : Tab Nat := []
  del : Tab Nat := []
  /-- graph repair: instants of the last full pass's start and end, tiles covered by the pass in progress, and instants at
  which slots were last reclaimed (R136) -/
  passStart : Nat := 0
  passTiles : List Nat := []
  fullStart : Nat := 0
  fullEnd : Nat := 0
  reclaimed : Tab Nat := []
  /-- tombstones whose list and flat entries the pass in progress, and a full pass, has removed -/
  cleaning : List Nat := []
  cleaned : List Nat := []
  /-- closed: work consumed before, that is invocations below this number, queries and updates, runs on with it -/
  shut : Option Nat := none
deriving DecidableEq, Repr

/-- A registered table (R255 to R257). -/
structure Table where
  part : Nat
  desc : List Byte
  shut : Option Nat := none
deriving DecidableEq, Repr

/-- A merge that a Kneader runs or that waits for one (R150, R156, R162). -/
structure Merge where
  part : Nat
  k : Nat
  /-- ORDER: true when lower scores are better -/
  lower : Bool
  /-- input lists in list-number order: whole list bytes, and whether the list was joined in flight (R322) -/
  lists : List (List Byte × Bool)
  /-- a list was lost before the merge: PARTIAL (R325) -/
  partialIn : Bool := false
  stamp : Nat := 0
  /-- where the result goes: a cluster's scratch, or a span query -/
  cluster : Option (Nat × Nat) := none
  qid : Option Nat := none
  inst : Option Nat := none
deriving DecidableEq, Repr

/-- A near-bank operation (R167 to R177). -/
structure NbOp where
  cluster : Nat
  /-- its cluster has been fenced since -/
  gone : Bool := false
  plan : Nat
  part : Nat
  inv : Option Nat
  /-- command (64 bytes) and request block -/
  cmd : List Byte
  req : List Byte
  bank : Nat
  started : Bool := false
  /-- once it has started: STATUS, RFLAGS, SCANNED, SKIPPED, DROPPED, entries per query (or ROWS), and the bytes from 0x80 on -/
  status : Nat := 0
  rflags : Nat := 0
  scanned : Nat := 0
  skipped : Nat := 0
  dropped : Nat := 0
  counts : List Nat := []
  data : List Byte := []
deriving DecidableEq, Repr

/-- The two buffers of a result tile (R175 to R177). -/
structure ResTile where
  /-- the buffer that reads see, and the other one -/
  view : List Byte := []
  seq : Nat := 0
  active : Option Nat := none
deriving DecidableEq, Repr

/-- A stack controller's near-bank side (R180, R186 to R189). -/
structure NbStack where
  /-- NBS_STK.STATE: 0 OFF, 1 IDLE, 2 BUSY, 3 FAULT -/
  on : Bool := false
  fault : Bool := false
  /-- NBS_UFAIL -/
  ufail : W64 := 0
  queue : Tab NbOp := []
  nextOp : Nat := 0
  /-- burst slots used per partition in this window (R180) -/
  slots : Tab Nat := []
  window : Nat := 0
  /-- clusters whose WNB waits for a full queue -/
  waiting : List Nat := []
deriving DecidableEq, Repr

/-- Plans, clusters and their work. -/
structure WorkSt where
  plans : Tab Plan := []
  planRefuse : Tab W64 := []
  invs : Tab Inv := []
  nextInv : Nat := 0
  clusters : Tab Cluster := []
  /-- physical clusters by number 0 to 135: FAILED until self-test (R45) -/
  phys : Tab PhysState := []
  /-- RGN_FENCE.PHYS and RGN_FENCE_HIST per region -/
  rgnFence : Tab Nat := []
  fenceHist : Tab Nat := []
  models : Tab Model := []
  queries : Tab Query := []
  nextQid : Nat := 0
  indexes : Tab Index := []
  tables : Tab Table := []
  /-- Kneaders 0 to 15 that hold a merge, and merges waiting -/
  kne : Tab Merge := []
  kneWait : List Merge := []
  kneErr : Tab W64 := []
  nbs : Tab NbStack := []
  resTiles : Tab ResTile := []
  nbsShare : Tab W64 := []
  nbsErr : Tab W64 := []
deriving DecidableEq, Repr

end Sys2Proof.Machine
end

