-- ==== Sys2Proof/Machine/State.lean ====
section
/-!
DEFINITION. The state of the node as plain data, its reset, and the reasons a step can stop.
-/
namespace Sys2Proof.Machine

/-- What the node has sent, in order (R16, R381): writes to host memory through a function, MSI-X messages, packets into
the fabric or to an endpoint, SPDM responses and messages on the management bus. -/
inductive Out where
  | hostWrite (fn addr : Nat) (bytes : List Byte) (ro : Bool)
  | msix (fn vec : Nat)
  | packet (port : Nat) (p : Packet)
  | frameAck (port seq : Nat)
  | frameResend (port seq : Nat)
  /-- a packet returned to its source as a route refusal (R289) -/
  | routeRefusal (p : Packet)
  | spdm (path : SpdmPath) (resp : List Byte)
  | event (code arg : Nat)
deriving DecidableEq, Repr

/-- The node. -/
structure State where
  /-- commands waiting, first in, first out -/
  pending : List Instr := []
  /-- the node time counter in ns (R10, R41) -/
  now : Nat := 0
  /-- counts the uses of free values (the model's own) -/
  freeCtr : Nat := 0
  /-- everything the node has sent, oldest first -/
  out : List Out := []
  host : HostSt := {}
  pmc : PmcSt := {}
  work : WorkSt := {}
  tier : TierSt := {}
  epo : EpoSt := {}
  fab : FabSt := {}
  flash : FlashSt := {}
  err : ErrSt := {}
  mbr : MbrSt := {}
  pkg : PkgSt := {}
deriving DecidableEq, Repr

/-- The node right after reset: every register at its reset value, nothing loaded, no image applied. -/
def State.reset : State := {}

/-- Why the block would stop. No rule of the spec stops it: every accepted operation ends with a status (R11), and a
request that may not take place has no effect or is answered. -/
inductive Fault where
deriving DecidableEq, Repr

/-- Commands without a meaning. -/
inductive Refusal where
  /-- raised by an arm of `exec` whose command has no meaning yet; safe, since nothing is claimed of it -/
  | notModelled (mnemonic : String)
deriving DecidableEq, Repr

/-- What a meaning answers. -/
abbrev Res := Host.Outcome State Fault Refusal

end Sys2Proof.Machine
end

