-- ==== Sys2Proof/Machine/Bits.lean ====
section
/-!
DEFINITION. Bit fields and byte order (R5, R6): field [hi:lo] of a word includes both ends, and multi-byte values are
little-endian.
-/
namespace Sys2Proof.Machine

/-- Bits [hi:lo] of a number (R6). -/
def bitsOf (n hi lo : Nat) : Nat := n / 2 ^ lo % 2 ^ (hi + 1 - lo)

/-- Bit `i` of a number. -/
def bitOf (n i : Nat) : Bool := n / 2 ^ i % 2 == 1

/-- Field [hi:lo] of a register, as a number. -/
def fld (w : W64) (hi lo : Nat) : Nat := bitsOf w.toNat hi lo

/-- A one-bit field of a register. -/
def flag (w : W64) (i : Nat) : Bool := w.getLsbD i

/-- The mask of field [hi:lo]. -/
def maskOf (hi lo : Nat) : W64 := BitVec.ofNat 64 ((2 ^ (hi + 1 - lo) - 1) * 2 ^ lo)

/-- Register `w` with field [hi:lo] set to `v` (its low bits). -/
def setFld (w : W64) (hi lo v : Nat) : W64 :=
  (w &&& ~~~(maskOf hi lo)) ||| (BitVec.ofNat 64 (v % 2 ^ (hi + 1 - lo) * 2 ^ lo))

/-- A register made of field values (R5): each item is (low bit, value). -/
def mkReg (fs : List (Nat × Nat)) : W64 :=
  BitVec.ofNat 64 (fs.foldl (fun a f => a + f.2 * 2 ^ f.1) 0)

/-- The little-endian bytes of `n`, `len` of them (R5). -/
def leBytes : (len n : Nat) → List Byte
  | 0, _ => []
  | len + 1, n => BitVec.ofNat 8 n :: leBytes len (n / 256)

/-- The number whose little-endian bytes these are (R5). -/
def leNat : List Byte → Nat
  | [] => 0
  | b :: bs => b.toNat + 256 * leNat bs

/-- `len` bytes of a structure at offset `off`; bytes past its end read as zero. -/
def slice (bs : List Byte) (off len : Nat) : List Byte :=
  let part := (bs.drop off).take len
  part ++ List.replicate (len - part.length) 0

/-- The little-endian field of `len` bytes at offset `off` of a structure. -/
def getLE (bs : List Byte) (off len : Nat) : Nat := leNat ((bs.drop off).take len)

/-- A structure with the bytes `new` placed at offset `off` (it keeps its length). -/
def patch (bs : List Byte) (off : Nat) (new : List Byte) : List Byte :=
  let room := new.take (bs.length - off)
  bs.take off ++ room ++ bs.drop (off + room.length)

/-- `true` when every byte is zero. -/
def allZero (bs : List Byte) : Bool := bs.all (· == 0)

/-- The two's-complement value of the low `w` bits of `n`. -/
def sext (w n : Nat) : Int :=
  let m := n % 2 ^ w
  if m < 2 ^ (w - 1) then (m : Int) else (m : Int) - (2 ^ w : Nat)

/-- The low `w` bits of an integer's two's complement, as a number. -/
def wrapTo (w : Nat) (x : Int) : Nat := (x % (2 ^ w : Nat)).toNat

/-- Division rounding up. -/
def ceilDiv (a b : Nat) : Nat := if b = 0 then 0 else (a + b - 1) / b

/-- 1 for true, 0 for false. -/
def b2n (b : Bool) : Nat := if b then 1 else 0

/-- The positions below `w` whose bit is set in `n`, rising. -/
def bitsSet (w n : Nat) : List Nat := (List.range w).filter (bitOf n)

/-- The number whose set bits are the listed positions (each once). -/
def ofBits (ps : List Nat) : Nat := ps.foldl (fun a p => if bitOf a p then a else a + 2 ^ p) 0

/-- The number of set bits among the low `w`. -/
def popCount (w n : Nat) : Nat := (bitsSet w n).length

end Sys2Proof.Machine
end

