-- ==== Sys2Proof/Machine/Tab.lean ====
section
/-!
DEFINITION. Operations on sparse tables and on byte memory. A table lists keys strictly rising; a byte memory lists
no byte that equals what an unlisted address reads as, which is 0 in every memory of the node (tier space R191,
scratch R26, flash R352).
-/
namespace Sys2Proof.Machine
variable {α : Type}

/-- The entry of a key, if the table lists it. -/
def tget? : Tab α → Nat → Option α
  | [], _ => none
  | (k, v) :: t, x => if x = k then some v else tget? t x

/-- The entry of a key, or the table's default. -/
def tgetD (t : Tab α) (k : Nat) (d : α) : α := (tget? t k).getD d

/-- Sets the entry of a key. -/
def tput : Tab α → Nat → α → Tab α
  | [], x, a => [(x, a)]
  | (k, v) :: t, x, a =>
    if x = k then (x, a) :: t
    else if x < k then (x, a) :: (k, v) :: t
    else (k, v) :: tput t x a

/-- Removes the entry of a key. -/
def terase : Tab α → Nat → Tab α
  | [], _ => []
  | (k, v) :: t, x => if x = k then t else (k, v) :: terase t x

/-- Changes the entry of a key, starting from the default when it is not listed. -/
def tmod (t : Tab α) (k : Nat) (d : α) (f : α → α) : Tab α := tput t k (f (tgetD t k d))

/-- Changes the entry of a key that is listed; nothing otherwise. -/
def tupd (t : Tab α) (k : Nat) (f : α → α) : Tab α :=
  match tget? t k with
  | none => t
  | some a => tput t k (f a)

/-- Changes every listed entry. -/
def tmap (t : Tab α) (f : Nat → α → α) : Tab α := t.map fun kv => (kv.1, f kv.1 kv.2)

/-- Keeps the entries that satisfy a test. -/
def tfilter (t : Tab α) (p : Nat → α → Bool) : Tab α := t.filter fun kv => p kv.1 kv.2

/-- The first listed entry that satisfies a test, keys rising. -/
def tfind? (t : Tab α) (p : Nat → α → Bool) : Option (Nat × α) := t.find? fun kv => p kv.1 kv.2

/-- The least number from `i` up, below `i + fuel`, that the test accepts. -/
def leastFrom (p : Nat → Bool) : (fuel i : Nat) → Option Nat
  | 0, _ => none
  | f + 1, i => if p i then some i else leastFrom p f (i + 1)

/-- The least number below `n` that the table does not list. -/
def tfreeBelow (t : Tab α) (n : Nat) : Option Nat :=
  match leastFrom (fun i => (tget? t i).isNone) (t.length + 1) 0 with
  | some i => if i < n then some i else none
  | none => none

/-- A byte memory: (address, byte) pairs. -/
abbrev Mem := List Host.Cell

/-- The byte at an address; an unlisted address reads 0. -/
def mread : Mem → Nat → Byte
  | [], _ => 0
  | (k, v) :: m, a => if a = k then v else mread m a

/-- Stores one byte, keeping the canonical form. -/
def mwrite : Mem → Nat → Byte → Mem
  | [], a, b => if b = 0 then [] else [(a, b)]
  | (k, v) :: m, a, b =>
    if a = k then (if b = 0 then m else (a, b) :: m)
    else if a < k then (if b = 0 then (k, v) :: m else (a, b) :: (k, v) :: m)
    else (k, v) :: mwrite m a b

/-- The keys are strictly rising and above `lo`, and no byte is 0. -/
def memFrom : Nat → Mem → Bool
  | _, [] => true
  | lo, (k, v) :: m => decide (lo ≤ k) && (v != 0) && memFrom (k + 1) m

/-- The canonical form of a byte memory. -/
def memWf (m : Mem) : Bool := memFrom 0 m

/-- `n` bytes from an address. -/
def mreadN (m : Mem) (a n : Nat) : List Byte := (List.range n).map fun i => mread m (a + i)

/-- Stores bytes at consecutive addresses. -/
def mwriteN (m : Mem) (a : Nat) : List Byte → Mem
  | [] => m
  | b :: bs => mwriteN (mwrite m a b) (a + 1) bs

/-- Makes `n` bytes from an address read as 0. -/
def mclear (m : Mem) (a n : Nat) : Mem := m.filter fun c => !(decide (a ≤ c.1) && decide (c.1 < a + n))

/-- Insertion into a sorted list, behind equal elements. -/
def insertBy (le : α → α → Bool) (x : α) : List α → List α
  | [] => [x]
  | y :: ys => if le y x then y :: insertBy le x ys else x :: y :: ys

/-- Stable insertion sort. -/
def sortBy (le : α → α → Bool) (xs : List α) : List α := xs.foldl (fun acc x => insertBy le x acc) []

/-- The first element that is least under a strict order. -/
def leastBy (lt : α → α → Bool) : List α → Option α
  | [] => none
  | x :: xs => some (xs.foldl (fun a y => if lt y a then y else a) x)

/-- The least number of a list, or `d` when it is empty. -/
def minD (d : Nat) : List Nat → Nat
  | [] => d
  | x :: xs => xs.foldl Nat.min x

/-- The elements of a list without repeats, first occurrences kept. -/
def dedup [DecidableEq α] (xs : List α) : List α :=
  xs.foldl (fun acc x => if x ∈ acc then acc else acc ++ [x]) []

/-- The sum of a list. -/
def sumOf (xs : List Nat) : Nat := xs.foldl (· + ·) 0

/-- The list with element `i` changed. -/
def modAt (xs : List α) (i : Nat) (f : α → α) : List α :=
  xs.mapIdx fun j x => if j = i then f x else x

/-- The list cut into pieces of `n` (the last may be shorter); `fuel` bounds the number of pieces. -/
def chunks (n : Nat) : (fuel : Nat) → List α → List (List α)
  | 0, _ => []
  | f + 1, xs => match xs with
    | [] => []
    | _ => xs.take n :: chunks n f (xs.drop n)

end Sys2Proof.Machine
end

