-- ==== Sys2Proof/Machine/Flags.lean ====
section
/-!
DEFINITION. Event numbers and counters (R444 to R450), sticky error bits (R8) and saturation slots (R65, R66).
-/
namespace Sys2Proof.Machine

namespace Ev
def lateArrival : Nat := 0x0000
def slotRetired : Nat := 0x0100
def slotWasted : Nat := 0x0101
def slotFront : Nat := 0x0102
def slotBack : Nat := 0x0103
def visits : Nat := 0x0104
def tombExpand : Nat := 0x0105
def tombSkip : Nat := 0x0106
def staleEdge : Nat := 0x0107
def recPoison : Nat := 0x0108
def recLate : Nat := 0x0109
def walkCut : Nat := 0x010A
def ctxSwitch : Nat := 0x010B
def prefIssued : Nat := 0x010C
def prefUnused : Nat := 0x010D
def specIssued : Nat := 0x010E
def specWasted : Nat := 0x010F
def clsLateArrival : Nat := 0x0110
def rerankErr : Nat := 0x0111
def nanScore : Nat := 0x0112
def filterPass : Nat := 0x0113
def filterFail : Nat := 0x0114
def widen : Nat := 0x0115
def linkLate : Nat := 0x0116
def delStale : Nat := 0x0117
def selBucket : Nat := 0x0118
def selApprox : Nat := 0x0119
def selTiecut : Nat := 0x011A
def crumbIns : Nat := 0x011B
def embLookup : Nat := 0x011C
def embOor : Nat := 0x011D
def embNonfin : Nat := 0x011E
def embZerobag : Nat := 0x011F
def coalIn : Nat := 0x0120
def coalHot : Nat := 0x0121
def coalSerial : Nat := 0x0122
def coalDrop : Nat := 0x0123
def coalRows : Nat := 0x0124
def optRows : Nat := 0x0125
def satEvent : Nat := 0x0126
def fenceDrop : Nat := 0x0200
def pprWait : Nat := 0x0201
def nbOp : Nat := 0x0300
def nbBytes : Nat := 0x0301
def nbCbound : Nat := 0x0302
def nbYield : Nat := 0x0303
def nbQwait : Nat := 0x0304
def nbClTile : Nat := 0x0305
def nbUe : Nat := 0x0306
def nbSealed : Nat := 0x0307
def nbRefused : Nat := 0x0308
def nbRaWrite : Nat := 0x0309
def nbOverflow : Nat := 0x030A
def rfHit : Nat := 0x0400
def rfMiss : Nat := 0x0401
def fillJoin : Nat := 0x0402
def flashRead : Nat := 0x0403
def hotCand : Nat := 0x0404
def tileMove : Nat := 0x0405
def moveAbort : Nat := 0x0406
def fwdqFull : Nat := 0x0407
def stubFwd : Nat := 0x0408
def evict : Nat := 0x0409
def pinWait : Nat := 0x040A
def tileLost : Nat := 0x040B
def tierRangeErr : Nat := 0x040C
def epochClose : Nat := 0x0500
def closeLate : Nat := 0x0501
def barLate : Nat := 0x0502
def updCommit : Nat := 0x0503
def updLost : Nat := 0x0504
def logVoid : Nat := 0x0505
def logFull : Nat := 0x0506
def replaySkip : Nat := 0x0507
def epochWait : Nat := 0x0508
def epochExpired : Nat := 0x0509
def ctxRetired : Nat := 0x050A
def kneMerge : Nat := 0x0600
def kneDup : Nat := 0x0601
def kneBadlist : Nat := 0x0602
def kneWait : Nat := 0x0603
def linkRetry : Nat := 0x0700
def fecCorr : Nat := 0x0701
def fecUncorr : Nat := 0x0702
def linkDown : Nat := 0x0703
def laneDegrade : Nat := 0x0704
def staleGen : Nat := 0x0705
def genAhead : Nat := 0x0706
def srcSpoof : Nat := 0x0707
def noRoute : Nat := 0x0708
def routeNak : Nat := 0x0709
def dupBurst : Nat := 0x070A
def burstTimeout : Nat := 0x070B
def orphanFlit : Nat := 0x070C
def flagAbort : Nat := 0x070D
def invalRx : Nat := 0x070E
def fabAddrErr : Nat := 0x070F
def fabDomainErr : Nat := 0x0710
def fabBadpkt : Nat := 0x0711
def swcOpen : Nat := 0x0800
def swcJoin : Nat := 0x0801
def swcCombine : Nat := 0x0802
def swcBypass : Nat := 0x0803
def swcAbsent : Nat := 0x0804
def swcDupin : Nat := 0x0805
def swcBadin : Nat := 0x0806
def swcSat : Nat := 0x0807
def swcFiltDrop : Nat := 0x0808
def flsRead : Nat := 0x0900
def flsRetry : Nat := 0x0901
def flsSoft : Nat := 0x0902
def flsUncorr : Nat := 0x0903
def flsExpired : Nat := 0x0904
def flsRefer : Nat := 0x0905
def flsSuspend : Nat := 0x0906
def flsProg : Nat := 0x0907
def flsErase : Nat := 0x0908
def flsGcMove : Nat := 0x0909
def flsRefresh : Nat := 0x090A
def flsWlMove : Nat := 0x090B
def flsPatrol : Nat := 0x090C
def flsDiscard : Nat := 0x090D
def flsBlkRet : Nat := 0x090E
def flsDieRet : Nat := 0x090F
def flsModLost : Nat := 0x0910
def cmdArrive : Nat := 0x0A00
def cmdRefused : Nat := 0x0A01
def winPartial : Nat := 0x0A02
def winOverwrite : Nat := 0x0A03
def winOrphan : Nat := 0x0A04
def cqWait : Nat := 0x0A05
def peelDrop : Nat := 0x0A06
def failover : Nat := 0x0A07
def msixSent : Nat := 0x0A08
def tokWait : Nat := 0x0B00
def regHold : Nat := 0x0B01
def ppsEdge : Nat := 0x0E00
def ppsReject : Nat := 0x0E01
def ppsGlitch : Nat := 0x0E02
def ppsMiss : Nat := 0x0E03
def calUpdate : Nat := 0x0E04
end Ev

/-- Whether an event has a qualifier (R446). -/
def evHasQual (ev : Nat) : Bool :=
  let b := ev / 256
  let i := ev % 256
  (b == 1 && i < 4) || b == 2 || b == 3 || (b == 4 && i < 3) || b == 6 || (b == 7 && i < 5) ||
    (b == 8 && i ≥ 1 && i ≤ 3) || (b == 9 && i < 9)

/-- How many events each block has (R446). -/
def evBlockSize (b : Nat) : Nat :=
  match b with
  | 0x00 => 1 | 0x01 => 39 | 0x02 => 2 | 0x03 => 11 | 0x04 => 13 | 0x05 => 11 | 0x06 => 4 | 0x07 => 18 | 0x08 => 9
  | 0x09 => 17 | 0x0A => 9 | 0x0B => 2 | 0x0E => 5 | _ => 0

/-- Whether a number names an event (R446): detectors 0x01 to 0x0E count in ERR. -/
def evExists (ev : Nat) : Bool :=
  decide (ev % 256 < evBlockSize (ev / 256)) || (ev / 256 == 0x11 && 1 ≤ ev % 256 && ev % 256 ≤ 0x0E)

/-- Events with a level form: their names end in WAIT, HOLD or FULL (R445). -/
def evHasLevel (ev : Nat) : Bool :=
  [Ev.pprWait, Ev.nbQwait, Ev.fwdqFull, Ev.pinWait, Ev.logFull, Ev.epochWait, Ev.kneWait, Ev.cqWait, Ev.tokWait,
    Ev.regHold].contains ev

/-- BAD of a selection (R455). -/
def selBad (cls : Bool) (sel : W64) : Bool :=
  let ev := fld sel 15 0
  !evExists ev || (cls && ev / 256 != 1) || (flag sel 62 && !evHasLevel ev)

/-- Reset value of PMC_CSEL and PMC_PSEL: QUAL 0xFF (R455). -/
def selReset : W64 := 0x00FF_0000_0000_0000

/-- A counter of 48 bits with its sticky OVF bit, `n` added (R444). -/
def bump (w : W64) (n : Nat) : W64 :=
  let c := fld w 47 0 + n
  mkReg [(0, c % 2 ^ 48), (48, b2n (flag w 48 || decide (2 ^ 48 ≤ c)))]

/-- Whether a selection counts an occurrence of an event (R445, R446). -/
def selCounts (cls : Bool) (sel : W64) (ev qual : Nat) : Bool :=
  flag sel 63 && !flag sel 62 && !selBad cls sel && fld sel 15 0 == ev &&
    (fld sel 55 48 == 0xFF || !evHasQual ev || fld sel 55 48 == qual)

/-- Adds `n` occurrences to every counter of a table of selections in [lo, lo + cnt) that counts the event. -/
def bumpSel (cls : Bool) (sels ctrs : Tab W64) (lo cnt ev qual n : Nat) : Tab W64 :=
  sels.foldl (fun t kv =>
    if lo ≤ kv.1 && kv.1 < lo + cnt && selCounts cls kv.2 ev qual then tput t kv.1 (bump (tgetD t kv.1 0) n) else t) ctrs

/-- Counts `n` occurrences of an event for a partition (R447, R450). -/
def count (s : State) (part ev : Nat) (qual : Nat := 0xFF) (n : Nat := 1) : State :=
  if n = 0 then s
  else { s with pmc.pctr := bumpSel false s.pmc.psel s.pmc.pctr (part * 32) 32 ev qual n }

/-- The state of a logical cluster. -/
def State.cl (s : State) (c : Nat) : Cluster := tgetD s.work.clusters c {}
/-- The state with a logical cluster changed. -/
def State.setCl (s : State) (c : Nat) (x : Cluster) : State := { s with work.clusters := tput s.work.clusters c x }

/-- Counts `n` occurrences of a cluster event: in the cluster's own counters and for the partition of its role (R448,
R450). -/
def countCls (s : State) (c ev : Nat) (qual : Nat := 0xFF) (n : Nat := 1) : State :=
  if n = 0 then s
  else
    let s1 := { s with pmc.cctr := bumpSel true s.pmc.csel s.pmc.cctr (c * 8) 8 ev qual n }
    count s1 (s.cl c).part ev qual n

/-- Counts a drop under R40 in LATE_ARRIVAL of TOP. -/
def countLate (s : State) (part : Nat) : State := count s part Ev.lateArrival

/-- Sets sticky bits of a per-partition error register. -/
def orErr (t : Tab W64) (k bit : Nat) : Tab W64 := tmod t k 0 (· ||| BitVec.ofNat 64 (2 ^ bit))

/-- A register with each bit written as 1 cleared (W1C and RS, R8), within the register's bits. -/
def w1c (old written mask : W64) : W64 := old &&& ~~~(written &&& mask)

/-- Moves `n` slots of a cluster from SLOT_RETIRED to SLOT_WASTED (R449): the fixed counters change together. -/
def wasteSlot (s : State) (c n : Nat) : State :=
  let dec (w : W64) : W64 := setFld w 47 0 ((fld w 47 0 + 2 ^ 48 - n % 2 ^ 48) % 2 ^ 48)
  if n = 0 then s
  else { s with pmc.cfix := tput (tmod s.pmc.cfix (c * 4) 0 dec) (c * 4 + 1) (bump (tgetD s.pmc.cfix (c * 4 + 1) 0) n) }

/-- Counts values converted and clipped under a saturation slot (R65). -/
def satCount (s : State) (c slot conv clip : Nat) : State :=
  let x := s.cl c
  let (a, b) := tgetD x.conv slot (0, 0)
  s.setCl c { x with
    satConv := tput x.satConv slot (bump (tgetD x.satConv slot 0) conv)
    satClip := tput x.satClip slot (bump (tgetD x.satClip slot 0) clip)
    conv := tput x.conv slot (a + conv, b + clip) }

/-- The end of a conversion on a slot, marked by LAST: the SAT_EVENT test of R65, and the conversion's counts start anew. -/
def satLast (s : State) (c slot : Nat) : State :=
  let x := s.cl c
  let (conv, clip) := tgetD x.conv slot (0, 0)
  let hit := flag x.satCfg 40 && fld x.satCfg 39 16 ≤ conv && clip * 65536 > fld x.satCfg 15 0 * conv
  let s1 := s.setCl c { x with
    conv := terase x.conv slot
    satEvt := if hit then x.satEvt ||| BitVec.ofNat 64 (2 ^ slot) else x.satEvt }
  if hit then countCls s1 c Ev.satEvent else s1

/-- Counts NaN and infinite inputs (R56). -/
def nonfinCount (s : State) (c n : Nat) : State :=
  if n = 0 then s else let x := s.cl c; s.setCl c { x with nonfin := bump x.nonfin n }

/-- Counts accumulator saturations (R60). -/
def accsatCount (s : State) (c n : Nat) : State :=
  if n = 0 then s else let x := s.cl c; s.setCl c { x with accsat := bump x.accsat n }

end Sys2Proof.Machine
end

