-- ==== Sys2Proof/Machine/Ops.lean ====
section
/-!
DEFINITION. Operations shared by the commands: free values, host writes, completions and their signals (R379 to R383), the
end of a command, and the bandwidth regulators (R389).
-/
namespace Sys2Proof.Machine

/-- Status codes (R383). -/
def stOk : Nat := 0x0000
def stOkShort : Nat := 0x0001
def stFilterShort : Nat := 0x0002
def stCommitted : Nat := 0x0003
def stAdmitRefused : Nat := 0x0101
def stPlanRefused : Nat := 0x0102
def stTimeout : Nat := 0x0201
def stEpochExpired : Nat := 0x0202
def stBurstTimeout : Nat := 0x0203
def stCtxLost : Nat := 0x0301
def stUpdLost : Nat := 0x0302
def stFenced : Nat := 0x0303
def stPoisoned : Nat := 0x0304
def stSealed : Nat := 0x0305

/-- Reason bits of an ADMIT_REFUSED completion (R384). -/
def rsFormat : Nat := 2 ^ 0
def rsVersion : Nat := 2 ^ 1
def rsCommand : Nat := 2 ^ 2
def rsOwner : Nat := 2 ^ 3
def rsRange : Nat := 2 ^ 4
def rsName : Nat := 2 ^ 5
def rsResource : Nat := 2 ^ 6
def rsWindow : Nat := 2 ^ 7
def rsStandby : Nat := 2 ^ 8
def rsHostio : Nat := 2 ^ 9
def rsData : Nat := 2 ^ 10
def rsSpan : Nat := 2 ^ 11
def rsQuiesce : Nat := 2 ^ 12

/-- The union of reason bits of which each applies or not (R384 collects every cause). -/
def reasons (rs : List (Bool × Nat)) : Nat := rs.foldl (fun a r => if r.1 then a ||| r.2 else a) 0

/-- A free value and the state with its counter advanced. -/
def takeFree (s : State) : W64 × State := (Config.freeWord s.freeCtr, { s with freeCtr := s.freeCtr + 1 })

/-- A key's name: the first 8 bytes of its SHA-512 digest (R421), which is written big-endian. -/
def digestBytes (d : BitVec 512) : List Byte := (leBytes 64 d.toNat).reverse
def nameOfKey (k : List Byte) : List Byte := (digestBytes (Config.sha512 k)).take 8

def State.fn (s : State) (f : Nat) : Fn := tgetD s.host.fns f {}
def State.setFn (s : State) (f : Nat) (x : Fn) : State := { s with host.fns := tput s.host.fns f x }
def State.q (s : State) (f q : Nat) : Queue := tgetD (s.fn f).queues q {}
def State.setQ (s : State) (f q : Nat) (x : Queue) : State :=
  s.setFn f { s.fn f with queues := tput (s.fn f).queues q x }
def State.adm (s : State) (p : Nat) : Adm := tgetD s.host.adm p {}
def State.setAdm (s : State) (p : Nat) (x : Adm) : State := { s with host.adm := tput s.host.adm p x }
def State.emit (s : State) (o : Out) : State := { s with out := s.out ++ [o] }

/-- The PCIe port of a function (R369): functions 0 to 31 are on port A. -/
def State.pcie (s : State) (f : Nat) : PciePort := if f < 32 then s.host.portA else s.host.portB

/-- A write by the node to host memory can go out through function `f` for work consumed under its generation `gen`: the
link is up, Bus Master Enable is set and no FLR came in between (R370, R371). -/
def canWrite (s : State) (f gen : Nat) : Bool := (s.pcie f).up && (s.fn f).busMaster && (s.fn f).gen == gen

/-- One posted write to host memory, or PEEL_DROP (R370, R371). -/
def hostWrite (s : State) (f gen addr : Nat) (bytes : List Byte) (ro : Bool := false) : State :=
  if canWrite s f gen then s.emit (.hostWrite f addr bytes ro) else count s (s.fn f).part Ev.peelDrop

/-- Result data goes out with Relaxed Ordering only when both enables are set (R381). -/
def resultWrite (s : State) (f gen addr : Nat) (bytes : List Byte) : State :=
  hostWrite s f gen addr bytes ((s.fn f).roEn && (s.fn f).ero)

/-- An MSI-X message of a function (R382). -/
def sendMsix (s : State) (f vec : Nat) : State :=
  if (s.pcie f).up && (s.fn f).busMaster then count (s.emit (.msix f vec)) (s.fn f).part Ev.msixSent else s

/-- Entries of a queue's completion ring and of its sample ring (R380, R388). -/
def cqSize (q : Queue) : Nat := 2 ^ (6 + fld q.cfg 11 8)
def srSize (q : Queue) : Nat := 2 ^ (8 + fld q.cfg 19 16)

/-- The 32 bytes of a completion entry (R379). -/
def entryBytes (e : Entry) (phase : Bool) (sqHead qid : Nat) : List Byte :=
  leBytes 4 e.cmdId ++ leBytes 2 e.status ++
    leBytes 2 (b2n phase + 2 * b2n e.nd + 4 * b2n e.discarded + 8 * b2n e.winerr) ++
    leBytes 1 sqHead ++ leBytes 1 e.cmd ++ leBytes 2 qid ++ leBytes 4 e.aux ++ leBytes 8 e.value ++ leBytes 8 e.stamp

/-- Writes one entry into the ring, which has a free entry (R379, R380). A window-error entry names its slot in SQ_HEAD
(R375). -/
def ringWrite (s : State) (f qi : Nat) (e : Entry) : State :=
  let q := s.q f qi
  let i := q.cqNext
  let last := i + 1 == cqSize q
  let s1 := hostWrite s f (s.fn f).gen (q.cqBase.toNat + 32 * i)
    (entryBytes e q.cqPhase (if e.winerr then e.slot else q.sqHead) qi)
  let q1 := { q with
    cqNext := if last then 0 else i + 1
    cqPhase := if last then !q.cqPhase else q.cqPhase
    cqFree := q.cqFree - 1 }
  s1.setQ f qi q1

/-- Counts a written completion for signalling, and signals when IMOD_CNT is reached (R382). A completion written while
VEC_EN is 0 is never signalled. -/
def signalCount (s : State) (f qi : Nat) : State :=
  let q := s.q f qi
  if !flag q.cfg 2 then s
  else
    let n := q.unsig + 1
    let cnt := fld q.cfg 39 32
    if n ≥ cnt then sendMsix (s.setQ f qi { q with unsig := 0 }) f qi
    else s.setQ f qi { q with unsig := n, unsigT := if q.unsig = 0 then s.now else q.unsigT }

/-- A completion for an enabled queue: written now, or waiting for ring space in order (R380). A completion that the link or
Bus Master Enable would drop takes no ring entry, and a link that is down shows in HIF_QERR.HOSTIO. -/
def postEntry (s : State) (f qi : Nat) (e : Entry) : State :=
  let q := s.q f qi
  if !canWrite s f (s.fn f).gen then
    let s1 := count s (s.fn f).part Ev.peelDrop
    if (s.pcie f).up then s1 else s1.setQ f qi { q with err := q.err ||| 4 }
  else if !q.cqWait.isEmpty || q.cqFree = 0 then
    count (s.setQ f qi { q with cqWait := q.cqWait ++ [e] }) (s.fn f).part Ev.cqWait
  else
    let s1 := ringWrite s f qi e
    if e.quiet then s1 else signalCount s1 f qi

/-- Fields of a consumed command (R376). -/
def Cmd.code (c : Cmd) : Nat := getLE c.bytes 0 1
def Cmd.flags (c : Cmd) : Nat := getLE c.bytes 1 1
def Cmd.version (c : Cmd) : Nat := getLE c.bytes 2 2
def Cmd.cmdId (c : Cmd) : Nat := getLE c.bytes 4 4

/-- The completion of a command (R379), dropped when its queue was disabled or its function reset since (R371, R488). -/
def postCmd (s : State) (c : Cmd) (status aux value : Nat) (nd disc : Bool) : State :=
  let q := s.q c.fn c.q
  if (s.fn c.fn).gen != c.gen || q.enables != c.en || !flag q.cfg 0 then count s c.part Ev.peelDrop
  else
    postEntry s c.fn c.q
      { cmdId := c.cmdId, status := status, nd := nd, discarded := disc, cmd := c.code, aux := aux, value := value,
        stamp := c.stamp }

/-- Ends a command with exactly one status (R11): its completion, and CMD_REFUSED for a refusal (R390). -/
def endCmd (s : State) (cid status : Nat) (aux value : Nat := 0) (nd disc : Bool := false) : State :=
  match tget? s.host.cmds cid with
  | none => s
  | some c =>
    let s1 := postCmd { s with host.cmds := terase s.host.cmds cid } c status aux value nd disc
    if status = stAdmitRefused then count s1 c.part Ev.cmdRefused else s1

/-- Ends a command, if there is one. -/
def endCmd? (s : State) (cid : Option Nat) (status : Nat) (aux value : Nat := 0) (nd : Bool := false) : State :=
  match cid with
  | none => s
  | some i => endCmd s i status aux value nd

/-- How work ends: a status, and for a refusal its reason bits above bit 16 (R383, R384). -/
abbrev Ending := Nat
def refusal (aux : Nat) : Ending := stAdmitRefused + aux * 65536
def endStatus (e : Ending) : Nat := e % 65536
/-- The AUX of an ending; an access refused without a reason of its own was outside the partition's ranges (R190, R384). -/
def endAux (e : Ending) : Nat := if e = stAdmitRefused then rsRange else e / 65536

/-- Refuses a command with reason bits (R384). -/
def refuse (s : State) (cid aux : Nat) : State := endCmd s cid stAdmitRefused aux

/-- Marks a command as running. -/
def runCmd (s : State) (cid : Nat) : State :=
  { s with host.cmds := tupd s.host.cmds cid fun c => { c with phase := .running } }

/-- The command of a row, when it has been consumed under the row's code and its row has not run yet. -/
def cmdOf (s : State) (cid code : Nat) : Option Cmd :=
  match tget? s.host.cmds cid with
  | none => none
  | some c => if c.code = code && c.phase == .admitted then some c else none

/-- The budget of a regulator (R389): bytes per µs for STACK and FABRIC, sixteenths of a codeword for FLASH; 0 is
unlimited. -/
def regBudget (a : Adm) (k : RegKind) : Nat :=
  match k with
  | .stack _ => fld a.reg 47 32 * 256
  | .flash => fld a.reg 31 16
  | .fabric => fld a.reg 15 0 * 256

/-- USED of a regulator. -/
def regUsed (a : Adm) (k : RegKind) : Nat :=
  match k with
  | .stack r => tgetD a.usedStack r 0
  | .flash => a.usedFlash
  | .fabric => a.usedFabric

/-- Adds to USED. -/
def regAdd (a : Adm) (k : RegKind) (n : Nat) : Adm :=
  match k with
  | .stack r => { a with usedStack := tmod a.usedStack r 0 (· + n) }
  | .flash => { a with usedFlash := a.usedFlash + n }
  | .fabric => { a with usedFabric := a.usedFabric + n }

/-- Charges a request that never waits (R389): its size is added to USED. -/
def regCharge (s : State) (part : Nat) (k : RegKind) (n : Nat) : State := s.setAdm part (regAdd (s.adm part) k n)

/-- Whether request `id` may start at its regulator: USED is below the budget and no request of the partition waits ahead of
it (R389). -/
def regMay (s : State) (part : Nat) (k : RegKind) (id : Nat) : Bool :=
  let a := s.adm part
  let ahead := (s.host.held.filter fun h => h.part = part && h.kind == k).head?
  let first := match ahead with
    | none => true
    | some h => h.id == id
  regBudget a k == 0 || (decide (regUsed a k < regBudget a k) && first)

/-- A request at its regulator: it starts and adds its whole size to USED, or it waits in issue order and counts REG_HOLD
once (R389). The answer says whether it started. -/
def regTry (s : State) (part : Nat) (k : RegKind) (id n : Nat) : Bool × State :=
  let mine (h : HeldReq) : Bool := h.part == part && h.kind == k && h.id == id
  if regMay s part k id then
    (true, regCharge { s with host.held := s.host.held.filter fun h => !mine h } part k n)
  else if s.host.held.any mine then (false, s)
  else (false, count { s with host.held := s.host.held ++ [⟨k, part, id⟩] } part Ev.regHold)

/-- The position that hosts the shard of an owning-node value (R399, R408): before any map, a node hosts its own. -/
def hostOf (s : State) (v : Nat) : Option Nat :=
  if s.mbr.gen = 0 then (if v = s.fab.node then some v else none)
  else
    match tget? s.mbr.hosts v with
    | some p => if p = 0xFF then none else some p
    | none => none

/-- The owning-node value of the shard that a position hosts (R408): its own, unless it has been given another. -/
def shardOf (s : State) (pos : Nat) : Nat :=
  if s.mbr.gen = 0 || tget? s.mbr.hosts pos == some pos then pos
  else
    match tfind? s.mbr.hosts fun _ p => p == pos with
    | some (v, _) => v
    | none => pos

/-- This node's owning-node value. -/
def ownShard (s : State) : Nat := shardOf s s.fab.node

/-- A write reaches a register of the owner partition only (R363, R364). -/
def ownerFn (s : State) (f : Nat) : Bool := (s.fn f).bound && (s.fn f).owner

end Sys2Proof.Machine
end

