-- ==== Sys2Proof/Machine/Host.lean ====
section
/-!
DEFINITION. Command windows, completions, interrupt moderation, sampling, failover and reset of functions, regulator
windows (R370 to R375, R380 to R382, R388, R389, R488).
-/
namespace Sys2Proof.Machine

/-- Lines of a command (R377): INVOKE takes two, every other code one. -/
def linesOf (code : Nat) : Nat := if code = 0x12 then 2 else 1

def lineFull (sl : Slot) : Bool := sl.bytes.length == 128

/-- A command in a window: first slot, lines, ingress stamp (R13, R373). -/
structure Arrived where
  slot : Nat
  lines : Nat
  stamp : Nat
deriving DecidableEq, Repr

/-- The arrived commands from slot `i` on, in ring order (R374). A slot whose first byte is unwritten ends the walk: how many
lines the next command takes is unknown there. -/
def arrivedFrom (slots : Tab Slot) : (fuel i : Nat) → List Arrived
  | 0, _ => []
  | fuel + 1, i =>
    let sl := tgetD slots i {}
    match tget? sl.bytes 0 with
    | none => []
    | some b =>
      let n := linesOf b.toNat
      let sl2 := tgetD slots ((i + n - 1) % 128) {}
      let rest := arrivedFrom slots (fuel - (n - 1)) ((i + n) % 128)
      if lineFull sl && lineFull sl2 then ⟨i, n, max sl.last sl2.last⟩ :: rest else rest

/-- The arrived, unconsumed commands of a queue, oldest first. -/
def arrived (q : Queue) : List Arrived := arrivedFrom q.slots 128 q.sqHead

/-- The command at SQ_HEAD, when it has arrived. -/
def headCmd (q : Queue) : Option Arrived :=
  match arrived q with
  | [] => none
  | a :: _ => if a.slot = q.sqHead then some a else none

/-- The bytes of an arrived command's lines. -/
def cmdBytes (q : Queue) (a : Arrived) : List Byte :=
  (List.range a.lines).flatMap fun i =>
    let sl := tgetD q.slots ((a.slot + i) % 128) {}
    (List.range 128).map fun o => tgetD sl.bytes o 0

/-- Clears the lines of the command at SQ_HEAD and moves SQ_HEAD past them (R374). -/
def popHead (q : Queue) (n : Nat) : Queue :=
  { q with
    slots := (List.range n).foldl (fun t i => terase t ((q.sqHead + i) % 128)) q.slots
    sqHead := (q.sqHead + n) % 128 }

/-- The refusal of a command that is still in its window (R370, R375): its own completion, no token. -/
def refuseArrived (s : State) (f qi : Nat) (aux : Nat) (quiet : Bool) (q : Queue) (a : Arrived) : State :=
  let bs := cmdBytes q a
  count (postEntry s f qi
    { cmdId := getLE bs 4 4, status := stAdmitRefused, cmd := getLE bs 0 1, aux := aux, stamp := a.stamp, quiet := quiet })
    (s.fn f).part Ev.cmdRefused

/-- A queue enters WINERR at a slot (R375): the window-error completion, a refusal of every arrived command, the cause in
HIF_QERR, and the vector at once. -/
def enterWinerr (s : State) (f qi slot cause ev : Nat) : State :=
  let q := s.q f qi
  let s1 := postEntry s f qi
    { status := stAdmitRefused, aux := rsWindow, winerr := true, slot := slot, quiet := true }
  let s2 := (arrived q).foldl (fun t a => refuseArrived t f qi rsWindow true q a) s1
  let q2 := s2.q f qi
  let s3 := s2.setQ f qi { q2 with
    winerr := true, slots := [], err := q2.err ||| BitVec.ofNat 64 (2 ^ cause) }
  let s4 := count s3 (s.fn f).part ev
  if flag q.cfg 2 then sendMsix s4 f qi else s4

/-- One byte written at an offset of a queue's window (R373). -/
def windowByte (s : State) (f qi off : Nat) (b : Byte) : State :=
  let q := s.q f qi
  let i := off / 128
  let sl := tgetD q.slots i {}
  if q.winerr then s
  else if lineFull sl then enterWinerr s f qi i 1 Ev.winOverwrite
  else
    let sl1 : Slot :=
      { bytes := tput sl.bytes (off % 128) b, first := if sl.bytes.isEmpty then s.now else sl.first, last := s.now }
    let q1 := { q with slots := tput q.slots i sl1 }
    let s1 := s.setQ f qi q1
    count s1 (s.fn f).part Ev.cmdArrive 0xFF ((arrived q1).length - (arrived q).length)

/-- Bytes written from an offset of BAR2, lowest address first; bytes of windows at or above QCOUNT, of a disabled queue
and of an unbound function are dropped (R369, R372, R488). -/
def windowBytes (s : State) (f off : Nat) : List Byte → State
  | [] => s
  | b :: bs =>
    let qi := off / 16384
    let ok := (s.fn f).bound && decide (qi < (s.fn f).qcount) && flag (s.q f qi).cfg 0
    windowBytes (if ok then windowByte s f qi (off % 16384) b else s) f (off + 1) bs

/-- WINDOW_WRITE (R373 to R375). A write that a queue in WINERR drops counts WIN_ORPHAN once (R446). -/
def execWindowWrite (fn : Fin 64) (off : Nat) (data : List Byte) (s : State) : Res :=
  let q := s.q fn.val (off / 16384)
  let ok := (s.fn fn.val).bound && decide (off / 16384 < (s.fn fn.val).qcount) && flag q.cfg 0
  .next (if ok && q.winerr then count s (s.fn fn.val).part Ev.winOrphan else windowBytes s fn.val off data)

/-- WIN_PARTIAL (R375): a slot still partial 1 ms after its first byte. -/
def execWinPartial (fn : Fin 64) (q : Nat) (s : State) : Res :=
  let qu := s.q fn.val q
  let late := tfind? qu.slots fun _ sl => !sl.bytes.isEmpty && !lineFull sl && decide (sl.first + 1000000 ≤ s.now)
  match late with
  | some (i, _) =>
    .next (if flag qu.cfg 0 && !qu.winerr then enterWinerr s fn.val q i 0 Ev.winPartial else s)
  | none => .next s

/-- Writes waiting completions while entries are free (R380). -/
def drainRing (f qi : Nat) : (fuel : Nat) → State → State
  | 0, s => s
  | fuel + 1, s =>
    let q := s.q f qi
    match q.cqWait with
    | [] => s
    | e :: es =>
      if q.cqFree = 0 then s
      else
        let s1 := ringWrite (s.setQ f qi { q with cqWait := es }) f qi e
        drainRing f qi fuel (if e.quiet then s1 else signalCount s1 f qi)

/-- CQ_HEADP_POLL (R380): the node reads the head word while completions wait. A value at or above the ring size frees
nothing and sets HIF_QERR.HEADP; a word equal to the index written next frees nothing. -/
def execCqHeadpPoll (fn : Fin 64) (q : Nat) (word : Option (BitVec 32)) (s : State) : Res :=
  let qu := s.q fn.val q
  match word with
  | none => .next s
  | some w =>
    if qu.cqWait.isEmpty || !flag qu.cfg 0 || !(s.fn fn.val).busMaster then .next s
    else if cqSize qu ≤ w.toNat then .next (s.setQ fn.val q { qu with err := qu.err ||| 16 })
    else
      let free := (w.toNat + cqSize qu - qu.cqNext) % cqSize qu
      .next (drainRing fn.val q qu.cqWait.length (s.setQ fn.val q { qu with cqFree := free }))

/-- IMOD_TIMER_EXPIRE (R382): the oldest unsignalled completion is IMOD_US µs old. -/
def execImodTimerExpire (fn : Fin 64) (q : Nat) (s : State) : Res :=
  let qu := s.q fn.val q
  let us := fld qu.cfg 47 40
  .next (if flag qu.cfg 2 && us != 0 && qu.unsig != 0 && decide (qu.unsigT + us * 1000 ≤ s.now) then
      sendMsix (s.setQ fn.val q { qu with unsig := 0 }) fn.val q
    else s)

/-- Writable bits of HIF_QCFG, and those that may change only while EN is 0 (R391). -/
def qcfgMask : W64 := maskOf 47 32 ||| maskOf 19 16 ||| maskOf 12 12 ||| maskOf 11 8 ||| maskOf 2 2 ||| maskOf 0 0

/-- Queues of the node that sample (R388). -/
def samplingQueues (s : State) : Nat :=
  sumOf (s.host.fns.map fun kv => (kv.2.queues.filter fun q => flag q.2.cfg 12 && flag q.2.cfg 0).length)

/-- SMP_EN after a write: a write that would enable a 257th sampling queue leaves it at 0 and sets SMP_FULL (R388). -/
def smpGate (s : State) (q : Queue) (cfg : W64) : Queue :=
  if flag cfg 12 && !(flag q.cfg 12 && flag q.cfg 0) && decide (256 ≤ samplingQueues s) then
    { q with cfg := setFld cfg 12 12 0, err := q.err ||| 8 }
  else { q with cfg := cfg }

/-- HIF_QCFG with the fields that may be written only while EN is 0 kept from the old value (R391). -/
def qcfgKeep (old new : W64) : W64 :=
  setFld (setFld (new &&& qcfgMask) 11 8 (fld old 11 8)) 19 16 (fld old 19 16)

/-- A write of HIF_QCFG by the function, both half and whole (`value` is the whole register after the write): the queue
starts afresh, stops, or changes its settings (R375, R391, R488). -/
def writeQcfg (s : State) (f qi : Nat) (value : W64) : State :=
  let q := s.q f qi
  let fn := s.fn f
  if !fn.bound || decide (fn.qcount ≤ qi) then s
  else if flag value 0 && !flag q.cfg 0 then
    let q1 := smpGate s { q with cfg := setFld q.cfg 12 12 0 } (value &&& qcfgMask)
    s.setQ f qi { q1 with
      sqHead := 0, winerr := false, slots := [], cqNext := 0, cqPhase := true, cqFree := cqSize q1, cqWait := [],
      unsig := 0, srNext := 0, srGroup := [], enables := q.enables + 1 }
  else if flag value 0 then
    let q1 := smpGate s q (qcfgKeep q.cfg value)
    s.setQ f qi { q1 with unsig := if flag q1.cfg 2 then q1.unsig else 0 }
  else if flag q.cfg 0 then
    let s1 := count s fn.part Ev.peelDrop 0xFF q.cqWait.length
    s1.setQ f qi { q with
      cfg := qcfgKeep q.cfg value, slots := [], cqWait := [], unsig := 0, srGroup := [], winerr := false }
  else s.setQ f qi { q with cfg := value &&& qcfgMask }

/-- QUEUE_ENABLE (R375, R391). -/
def execQueueEnable (fn : Fin 64) (q : Nat) (value : W64) (s : State) : Res :=
  .next (writeQcfg s fn.val q (value ||| 1))

/-- QUEUE_DISABLE (R488). -/
def execQueueDisable (fn : Fin 64) (q : Nat) (value : W64) (s : State) : Res :=
  .next (writeQcfg s fn.val q (value &&& ~~~1))

/-- HIF_QSTAT.STATE (R391). -/
def qState (q : Queue) : Nat := if !flag q.cfg 0 then 0 else if q.winerr then 2 else 1

/-- Consumed commands of a queue whose completion is not yet written (R388, R391). -/
def inflight (s : State) (f qi : Nat) : Nat :=
  (s.host.cmds.filter fun kv => kv.2.fn = f && kv.2.q = qi && kv.2.en == (s.q f qi).enables).length +
    (s.q f qi).cqWait.length

/-- The 16 bytes of a sample (R388). -/
def sampleBytes (s : State) (f qi : Nat) : List Byte :=
  let q := s.q f qi
  let hd := match headCmd q with
    | none => 0
    | some a => min 0xFFFF ((s.now - a.stamp) / 64)
  leBytes 8 s.now ++ leBytes 1 (arrived q).length ++ leBytes 1 (qState q) ++ leBytes 2 hd ++
    leBytes 4 (inflight s f qi)

/-- Latches one sample of a queue; the fourth of a group is written with its group as one 64-byte write (R388). -/
def latchSample (s : State) (f qi : Nat) : State :=
  let q := s.q f qi
  let g := q.srGroup ++ [sampleBytes s f qi]
  if g.length < 4 then s.setQ f qi { q with srGroup := g }
  else
    let s1 := s.setQ f qi { q with srGroup := [], srNext := (q.srNext + 4) % srSize q }
    let s2 := hostWrite s1 f (s.fn f).gen (q.srBase.toNat + 16 * q.srNext) (g.flatMap id)
    if (s.pcie f).up then s2 else s2.setQ f qi { s2.q f qi with err := (s2.q f qi).err ||| 4 }

/-- SAMPLE_LATCH (R388): at each multiple of 4,096 ns, every sampling queue of the node. -/
def execSampleLatch (s : State) : Res :=
  if s.now % 4096 == 0 && s.host.lastSample != some s.now then
    let qs := s.host.fns.flatMap fun kv =>
      (kv.2.queues.filter fun q => flag q.2.cfg 12 && flag q.2.cfg 0).map fun q => (kv.1, q.1)
    .next (qs.foldl (fun t fq => latchSample t fq.1 fq.2) { s with host.lastSample := some s.now })
  else .next s

/-- Refuses every arrived, unconsumed command of a function with reason STANDBY (R370); partial lines stay. -/
def refuseStandby (s : State) (f : Nat) : State :=
  (s.fn f).queues.foldl (fun t kv =>
    let q := t.q f kv.1
    if flag q.cfg 0 && !q.winerr then
      let as := arrived q
      let t1 := t.setQ f kv.1 { q with
        slots := as.foldl (fun sl a =>
          (List.range a.lines).foldl (fun x i => terase x ((a.slot + i) % 128)) sl) q.slots
        sqHead := (q.sqHead + sumOf (as.map (·.lines))) % 128 }
      as.foldl (fun u a => refuseArrived u f kv.1 rsStandby false q a) t1
    else t) s

/-- The functions of a partition change places (R370): `f` becomes ACTIVE, the function that was ACTIVE becomes STANDBY and
its unconsumed commands are refused. -/
def changePlaces (s : State) (f : Nat) : State :=
  let p := (s.fn f).part
  let olds := (s.host.fns.filter fun kv => kv.2.bound && kv.2.part = p && kv.2.active).map (·.1)
  let s1 := olds.foldl (fun t o => refuseStandby (t.setFn o { t.fn o with active := false }) o) s
  count (s1.setFn f { s1.fn f with active := true }) p Ev.failover

/-- TAKEOVER (R370): a write of HIF_FUNC.TAKEOVER by the STANDBY function; by the ACTIVE one it does nothing. -/
def execTakeover (fn : Fin 64) (s : State) : Res :=
  .next (if (s.fn fn.val).bound && !(s.fn fn.val).active then changePlaces s fn.val else s)

/-- FAILOVER_TIMER_EXPIRE (R370): the ACTIVE function's link has been down for FO_DELAY ms while the other port's link is
up. -/
def execFailoverTimerExpire (part : Fin 32) (s : State) : Res :=
  let of (act : Bool) := tfind? s.host.fns fun _ f => f.bound && f.part = part.val && f.active == act
  match of true, of false with
  | some (a, fa), some (b, _) =>
    .next (if !(s.pcie a).up && (s.pcie b).up && decide ((s.pcie a).downT + fa.foDelay * 1000000 ≤ s.now) then
        changePlaces s b
      else s)
  | _, _ => .next s

/-- A queue of a function that is reset or loses Bus Master Enable is disabled (R371). -/
def stopQueues (f : Fn) : Fn :=
  { f with queues := tmap f.queues fun _ q =>
      { q with cfg := setFld q.cfg 0 0 0, slots := [], winerr := false, cqWait := [], unsig := 0, srGroup := [] } }

/-- Completions of a function that wait for ring space. -/
def waitingCount (x : Fn) : Nat := sumOf (x.queues.map fun kv => kv.2.cqWait.length)

/-- An FLR of a function (R371): its queues stop, its HIF registers and its lookup registers return to reset, its later host
writes are dropped. -/
def flrFn (s : State) (f : Nat) : State :=
  let x := s.fn f
  let s1 := count s x.part Ev.peelDrop 0xFF (waitingCount x)
  s1.setFn f { x with
    roEn := false, busMaster := false, gen := x.gen + 1, hlook := 0, dieLook := 0, aer := 0
    queues := tmap x.queues fun _ q => { ({} : Queue) with enables := q.enables } }

/-- FLR (R371). -/
def execFlr (fn : Fin 64) (s : State) : Res := .next (flrFn s fn.val)

/-- BUS_MASTER_CLEAR (R371). -/
def execBusMasterClear (fn : Fin 64) (s : State) : Res :=
  let x := s.fn fn.val
  let s1 := count s x.part Ev.peelDrop 0xFF (waitingCount x)
  .next (s1.setFn fn.val { stopQueues x with busMaster := false, gen := x.gen + 1 })

/-- BUS_MASTER_SET (R371): the node may read and write host memory for the function again. -/
def execBusMasterSet (fn : Fin 64) (s : State) : Res :=
  .next (s.setFn fn.val { s.fn fn.val with busMaster := true })

/-- USED after a window: it drops by the budget, and 0 without one (R389). -/
def decay (used budget : Nat) : Nat := if budget = 0 then 0 else used - budget

/-- REG_WINDOW_TICK (R389): at each multiple of 1,000 ns every regulator's USED drops by its budget; held requests may then
start. -/
def execRegWindowTick (s : State) : Res :=
  if s.now % 1000 == 0 && s.host.lastWindow != some s.now then
    .next { s with host := { s.host with
      lastWindow := some s.now
      adm := tmap s.host.adm fun _ a => { a with
        usedStack := tmap a.usedStack fun r u => decay u (regBudget a (.stack r))
        usedFlash := decay a.usedFlash (regBudget a .flash)
        usedFabric := decay a.usedFabric (regBudget a .fabric) } } }
  else .next s

/-- PCIE_LINK_DOWN (R370): the countdown of R370 starts. -/
def linkDown (s : State) (port : Nat) : State :=
  if port = 0 then
    { s with host.portA := { s.host.portA with up := false, downT := if s.host.portA.up then s.now else s.host.portA.downT } }
  else
    { s with host.portB := { s.host.portB with up := false, downT := if s.host.portB.up then s.now else s.host.portB.downT } }

def execPcieLinkDown (port : Fin 2) (s : State) : Res := .next (linkDown s port.val)

/-- PCIE_LINK_UP (R370): the port's functions carry traffic; a port held by PERST, or in a domain
that is off, stays down (R465, R469). -/
def execPcieLinkUp (port : Fin 2) (s : State) : Res :=
  .next (if !bitOf s.pkg.pwr.domOn (20 + port.val) then s
    else if port.val = 0 then
      (if s.host.portA.perst then s else { s with host.portA := { s.host.portA with up := true } })
    else (if s.host.portB.perst then s else { s with host.portB := { s.host.portB with up := true } }))

end Sys2Proof.Machine
end

