-- ==== Sys2Proof/Machine/Admission.lean ====
section
/-!
DEFINITION. The admission stage: token buckets, weighted fair queueing and head deadlines (R385 to R387).
-/
namespace Sys2Proof.Machine

/-- The tokens of a partition after a refill tick, with a pending ADM_BKT change applied (R385, R386). -/
def refillAdm (t : Nat) (a : Adm) : Adm :=
  match a.pend with
  | none => { a with tok := min (a.tok + a.rate) (a.burst * 65536) }
  | some c =>
    if c.time < t then
      { a with
        rate := c.rate, burst := c.burst, pend := none
        tok := if c.mode = 0 then min (a.tok + c.rate) (c.burst * 65536)
               else if c.mode = 1 then c.burst * 65536 else 0 }
    else { a with tok := min (a.tok + a.rate) (a.burst * 65536) }

/-- TOKEN_REFILL (R385, R386): at each multiple of 1,024 ns. -/
def execTokenRefill (s : State) : Res :=
  if s.now % 1024 == 0 && s.host.lastRefill != some s.now then
    .next { s with host := { s.host with
      lastRefill := some s.now
      adm := tmap s.host.adm fun _ a => let b := refillAdm s.now a; { b with tokShown := b.tok } } }
  else .next s

/-- A write of ADM_BKT (R386, R391): only the owner partition writes it; the register shows it at once, and the first tick
strictly after it applies it. -/
def writeBkt (s : State) (f part mode rate burst : Nat) : State :=
  if !((s.fn f).bound && (s.fn f).owner) || mode = 3 then s
  else
    let a := s.adm part
    s.setAdm part { a with
      bkt := mkReg [(0, rate % 2 ^ 32), (32, burst % 2 ^ 24), (62, mode)]
      pend := some ⟨mode, rate % 2 ^ 32, burst % 2 ^ 24, s.now⟩ }

/-- ADM_BKT_NEXT (R386). -/
def execAdmBktNext (fn : Fin 64) (part : Fin 32) (rate burst : Nat) (s : State) : Res :=
  .next (writeBkt s fn.val part.val 0 rate burst)
/-- ADM_BKT_FULL (R386). -/
def execAdmBktFull (fn : Fin 64) (part : Fin 32) (rate burst : Nat) (s : State) : Res :=
  .next (writeBkt s fn.val part.val 1 rate burst)
/-- ADM_BKT_EMPTY (R386). -/
def execAdmBktEmpty (fn : Fin 64) (part : Fin 32) (rate burst : Nat) (s : State) : Res :=
  .next (writeBkt s fn.val part.val 2 rate burst)

/-- A command at a queue head that admission may take. -/
structure Head where
  fn : Nat
  q : Nat
  part : Nat
  nodeQ : Nat
  cmd : Arrived
deriving DecidableEq, Repr

/-- The queue heads of the node with an arrived command, functions and queues rising. -/
def heads (s : State) : List Head :=
  s.host.fns.flatMap fun kv =>
    if kv.2.bound then
      kv.2.queues.filterMap fun q =>
        if flag q.2.cfg 0 && !q.2.winerr then
          (headCmd q.2).map fun a => ⟨kv.1, q.1, kv.2.part, kv.2.qbase + q.1, a⟩
        else none
    else []

/-- The deadline of a command (R387): a query's DEADLINE or its partition's default, an invocation's DEADLINE when it gives
one. -/
def cmdDeadline (s : State) (part : Nat) (bs : List Byte) (stamp : Nat) : Option Nat :=
  let code := getLE bs 0 1
  if code = 0x20 then
    let d := getLE bs 0x38 4
    some (stamp + if d = 0 then fld (s.adm part).pcfg 31 0 else d)
  else if code = 0x12 then
    let d := getLE bs 0x1C 4
    if d = 0 then none else some (stamp + d)
  else none

/-- The deadline of a head command. -/
def headDeadline (s : State) (h : Head) : Option Nat :=
  cmdDeadline s h.part (cmdBytes (s.q h.fn h.q) h.cmd) h.cmd.stamp

/-- Whether a head command's deadline has passed: at the instant the counter reaches it (R40). -/
def headExpired (s : State) (h : Head) : Bool :=
  match headDeadline s h with
  | none => false
  | some d => decide (d ≤ s.now)

/-- Takes a head command out of its window as a consumed command, with the number it gets (R374). -/
def consume (s : State) (h : Head) : State × Nat :=
  let q := s.q h.fn h.q
  let cid := s.host.nextCid
  let c : Cmd :=
    { fn := h.fn, q := h.q, en := q.enables, gen := (s.fn h.fn).gen, part := h.part, slot := h.cmd.slot,
      bytes := cmdBytes q h.cmd, stamp := h.cmd.stamp }
  let s1 := s.setQ h.fn h.q (popHead q h.cmd.lines)
  ({ s1 with host := { s1.host with cmds := tput s1.host.cmds cid c, nextCid := cid + 1 } }, cid)

/-- Consumes a head command whose deadline has passed: TIMEOUT, no data, no token and no tag (R387). -/
def expireHead (s : State) (h : Head) : State :=
  let (s1, cid) := consume s h
  endCmd s1 cid stTimeout

/-- HEAD_DEADLINE_EXPIRE (R387). -/
def execHeadDeadlineExpire (fn : Fin 64) (q : Nat) (s : State) : Res :=
  match (heads s).find? fun h => h.fn = fn.val && h.q = q with
  | none => .next s
  | some h => .next (if headExpired s h then expireHead s h else s)

/-- Expires every head whose deadline has passed, until none is left (R244, R387). -/
def expireHeads : (fuel : Nat) → State → State
  | 0, s => s
  | fuel + 1, s =>
    match (heads s).find? (headExpired s) with
    | none => s
    | some h => expireHeads fuel (expireHead s h)

/-- A partition may be chosen: it is unshaped or holds a token (R387). -/
def hasToken (a : Adm) : Bool := a.burst == 0 || decide (65536 ≤ a.tok)

/-- The tag F_p of an eligible partition (R387). -/
def fairTag (s : State) (p : Nat) : Nat :=
  let a := s.adm p
  let w := fld a.pcfg 63 48
  (max s.host.tagV a.tagL + 2 ^ 24 / (if w = 0 then 1 else w)) % 2 ^ 64

/-- Role 0 Search, 1 Pool, 2 Transit takes this code (R377, R300). -/
def roleTakes (role code : Nat) : Bool :=
  if code = 0x01 || code = 0x10 || code = 0x40 then true
  else if code = 0x30 || code = 0x31 || code = 0x32 || code = 0x38 || code = 0x39 then role < 2
  else role = 0

/-- Every code of R377. -/
def knownCode (code : Nat) : Bool :=
  [0x01, 0x10, 0x11, 0x12, 0x18, 0x19, 0x1A, 0x1B, 0x20, 0x21, 0x22, 0x23, 0x30, 0x31, 0x32, 0x38, 0x39, 0x40].contains
    code

/-- The membership state admits a command (R401): outside MEMBER only NOP, and before HELD management commands too. -/
def stateTakes (st : MbrState) (code : Nat) : Bool :=
  match st with
  | .member => true
  | .held => code = 0x01
  | _ => code = 0x01 || code = 0x40

/-- A member admits its work from the release of the rack start barrier (R439); NOP and management commands do not wait. -/
def mayAdmit (s : State) (h : Head) : Bool :=
  let code := getLE (cmdBytes (s.q h.fn h.q) h.cmd) 0 1
  s.mbr.st != .member || s.pkg.sec.epochs || code = 0x01 || code = 0x40

/-- ADMISSION_DECISION (R387): after the expired heads, the eligible partition with the lowest tag gives up a token and its
oldest head command, which is consumed; a command from a STANDBY function, an unknown code, and one that the role or the
membership state does not take end here (R370, R377, R401). Decisions lie at least 10 ns apart. -/
def execAdmissionDecision (s : State) : Res :=
  let s0 := expireHeads 4096 s
  let free := match s0.host.lastDec with
    | none => true
    | some t => decide (t + 10 ≤ s0.now)
  let hs := heads s0
  let s1 := (dedup (hs.map (·.part))).foldl
    (fun t p => if hasToken (s0.adm p) then t else count t p Ev.tokWait) s0
  let elig := hs.filter fun h => hasToken (s0.adm h.part) && mayAdmit s0 h
  match leastBy (fun a b => decide (fairTag s0 a.part < fairTag s0 b.part) ||
      (fairTag s0 a.part == fairTag s0 b.part && decide (a.part < b.part))) elig with
  | none => .next s0
  | some w =>
    if !free then .next s0
    else
      match leastBy (fun a b => decide (a.cmd.stamp < b.cmd.stamp) ||
          (a.cmd.stamp == b.cmd.stamp && decide (a.nodeQ < b.nodeQ))) (elig.filter fun h => h.part == w.part) with
      | none => .next s0
      | some h =>
        let a := s1.adm h.part
        let tag := fairTag s0 h.part
        let s2 := s1.setAdm h.part { a with tok := if a.burst = 0 then a.tok else a.tok - 65536, tagL := tag }
        let (s3, cid) := consume { s2 with host := { s2.host with tagV := tag, lastDec := some s2.now } } h
        let code := getLE (cmdBytes (s1.q h.fn h.q) h.cmd) 0 1
        let aux := reasons [(!(s3.fn h.fn).active, rsStandby),
          (!knownCode code || !roleTakes s3.fab.role code, rsCommand)]
        .next (if !stateTakes s3.mbr.st code then endCmd s3 cid stFenced
          else if aux = 0 then s3 else refuse s3 cid aux)

end Sys2Proof.Machine
end

