-- ==== Sys2Proof/Machine/TierOps.lean ====
section
/-!
DEFINITION. The tier space (chapter 8): ranges, homes and frames, eviction, moves and their queues, and reads and writes of
tile bytes.
-/
namespace Sys2Proof.Machine

def tileBytes : Nat := 65536
def tileCount : Nat := 33554432

def State.home (s : State) (t : Nat) : Home := tgetD s.tier.home t {}
def State.setHome (s : State) (t : Nat) (h : Home) : State :=
  { s with tier.home := if h = {} then terase s.tier.home t else tput s.tier.home t h }
def State.region (s : State) (r : Nat) : RegionSt := tgetD s.tier.regions r {}
def State.setRegion (s : State) (r : Nat) (x : RegionSt) : State := { s with tier.regions := tput s.tier.regions r x }

/-- TIER_PRANGE fields (R221): first tile, count, flash-backed. -/
def prangeOf (s : State) (p : Nat) : Nat × Nat × Bool :=
  let w := tgetD s.tier.prange p 0
  (fld w 24 0, fld w 57 32, flag w 31)

/-- The tiles [t, t + n) lie in the partition's range (R190). -/
def inPrange (s : State) (p t n : Nat) : Bool :=
  let (f, c, _) := prangeOf s p
  decide (f ≤ t) && decide (t + n ≤ f + c) && decide (t + n ≤ tileCount)

/-- The partition whose range holds a tile, lowest number first. -/
def tileOwner (s : State) (t : Nat) : Nat :=
  match tfind? s.tier.prange fun p _ => inPrange s p t 1 with
  | some (p, _) => p
  | none => 0

/-- The tile lies in a flash-backed range (R195). -/
def flashBacked (s : State) (t : Nat) : Bool :=
  match tfind? s.tier.prange fun p w => flag w 31 && inPrange s p t 1 with
  | some _ => true
  | none => false

/-- The partition whose sealed range holds a tile (R30). -/
def sealedBy (s : State) (t : Nat) : Option Nat :=
  (s.tier.sealed.find? fun r => decide (r.2.1 ≤ t) && decide (t < r.2.1 + r.2.2)).map (·.1)

/-- An access outside the partition's range: TIER_ERR.RANGE and TIER_RANGE_ERR once (R190). -/
def rangeErr (s : State) (p : Nat) : State :=
  count { s with tier.err := orErr s.tier.err p 0 } p Ev.tierRangeErr

/-- The flash logical address of flash tile f (R193). -/
def flashTileAddr (s : State) (f : Nat) : Nat := (fld s.tier.farea 31 0 + f) * tileBytes

/-- Stack frames: key stack × 2^20 + frame. -/
def frameStack (k : Nat) : Nat := k / 2 ^ 20
def stackLoc (k : Nat) : Nat := frameStack k * 2 ^ 24 + k % 2 ^ 20
def locFrame (loc : Nat) : Nat := loc / 2 ^ 24 % 8 * 2 ^ 20 + loc % 2 ^ 20

/-- The lowest free TIER frame of a stack (R203), not withheld (R490). -/
def freeFrame (s : State) (st : Nat) : Option Nat :=
  let lo := tgetD s.tier.tierLo st 0
  let hi := tgetD s.tier.tierHi st 0
  let busy (i : Nat) := (tget? s.tier.frames (st * 2 ^ 20 + i)).isSome || (tget? s.tier.withheld (st * 2 ^ 20 + i)).isSome
  match leastFrom (fun i => !busy i) (s.tier.frames.length + s.tier.withheld.length + 1) lo with
  | some i => if i < hi then some (st * 2 ^ 20 + i) else none
  | none => none

/-- The lowest-numbered stack with a free frame. -/
def freeAnyStack (s : State) : Option Nat := (List.range 8).findSome? (freeFrame s)

/-- Takes a stack frame for a tile, at age 3. -/
def takeFrame (s : State) (k t : Nat) : State :=
  { s with tier := { s.tier with
    frames := tput s.tier.frames k { tile := t, order := s.tier.ageClock }, ageClock := s.tier.ageClock + 1 } }

/-- Tier frames that hold a partition's tiles (TIER_PUSE.HOMED, R222). -/
def homedCount (s : State) (p : Nat) : Nat := (s.tier.frames.filter fun kv => inPrange s p kv.2.tile 1).length

/-- Distinct tiles the partition holds PINNED, sealed ones excluded (R222). -/
def pinnedCount (s : State) (p : Nat) : Nat :=
  (s.tier.home.filter fun kv => kv.2.st == .pinned && inPrange s p kv.1 1 && (sealedBy s kv.1).isNone).length

/-- A frame's tile is HOME in that frame and not sealed (R205). -/
def evictable (s : State) (k : Nat) (f : TFrame) : Bool :=
  s.home f.tile == ⟨.home, 1, stackLoc k⟩ && (sealedBy s f.tile).isNone

/-- The victim of R205 for a partition that needs a frame: lowest age, then the one that reached it first. -/
def victim (s : State) (p : Nat) : Option (Nat × TFrame) :=
  let better (a b : Nat × TFrame) : Bool :=
    decide (a.2.age < b.2.age) || (a.2.age == b.2.age && decide (a.2.order < b.2.order))
  let guar (q : Nat) := fld (tgetD s.tier.pguar q 0) 25 0
  let cands := s.tier.frames.filter fun kv =>
    evictable s kv.1 kv.2 && decide (guar (tileOwner s kv.2.tile) < homedCount s (tileOwner s kv.2.tile))
  match leastBy better cands with
  | some v => some v
  | none => leastBy better (s.tier.frames.filter fun kv => evictable s kv.1 kv.2 && inPrange s p kv.2.tile 1)

/-- Free frames of this node's window at a lender, and the lowest of them (R194). -/
def winSize (s : State) (pos : Nat) : Nat := fld (tgetD s.tier.win pos 0) 55 32
def poolUsed (s : State) (pos : Nat) : Nat := (s.tier.pool.filter fun kv => kv.1 / 2 ^ 21 == pos).length
def poolFree (s : State) : Option Nat :=
  let cands := (List.range 64).filter fun pos => decide (poolUsed s pos < winSize s pos) && bitOf s.mbr.members pos
  match leastBy (fun a b => decide (winSize s b - poolUsed s b < winSize s a - poolUsed s a)) cands with
  | none => none
  | some pos => (leastFrom (fun o => (tget? s.tier.pool (pos * 2 ^ 21 + o)).isNone) (winSize s pos) 0).map (pos * 2 ^ 21 + ·)

/-- The lowest free spill tile (R195). -/
def spillFree (s : State) : Option Nat :=
  let n := fld s.tier.farea 59 32
  (leastFrom (fun i => (tget? s.tier.spill (tileCount + i)).isNone) (n - tileCount) 0).map (tileCount + ·)

/-- A home outside the stacks for a tile: a lend window, then flash (R201 steps 3 and 4); a flash-backed tile uses its own
flash tile only. -/
def lowHome (s : State) (t : Nat) : Option (Nat × Nat × State) :=
  if flashBacked s t then
    if t < fld s.tier.farea 59 32 then some (3, t, s) else none
  else
    match poolFree s with
    | some k => some (2, k / 2 ^ 21 * 2 ^ 21 + k % 2 ^ 21, { s with tier.pool := tput s.tier.pool k t })
    | none =>
      match spillFree s with
      | some f => some (3, f, { s with tier.spill := tput s.tier.spill f t })
      | none => none

/-- Marks a tile MOVING towards a reserved destination and takes a move slot (R210). -/
def beginMove (s : State) (t tier loc : Nat) (pin hot : Bool) : State :=
  let h := s.home t
  let s1 := { s with tier.moves := tput s.tier.moves t { old := h, tier := tier, loc := loc, pin := pin, hot := hot } }
  s1.setHome t { h with st := .moving }

/-- Frees a frame by eviction (R205): the victim's tile starts its move down, and its frame goes to tile `t`. -/
def evictFor (s : State) (p t : Nat) : Option (Nat × State) :=
  if 256 ≤ s.tier.moves.length then none
  else
    match victim s p with
    | none => none
    | some (k, f) =>
      match lowHome s f.tile with
      | none => none
      | some (tier, loc, s1) =>
        some (k, takeFrame (count (beginMove s1 f.tile tier loc false false) (tileOwner s f.tile) Ev.evict) k t)

/-- A stack frame for a tile: free in the wanted stack (any stack when none is wanted), or by eviction (R201 steps 1, 2). -/
def stackFrameFor (s : State) (p t : Nat) (want : Option Nat) : Option (Nat × State) :=
  let free := match want with
    | some st => freeFrame s st
    | none => freeAnyStack s
  match free with
  | some k => some (k, takeFrame s k t)
  | none => evictFor s p t

/-- A home for a tile in the order of R201. -/
def findHome (s : State) (p t : Nat) (want : Option Nat) : Option (Nat × Nat × State) :=
  match stackFrameFor s p t want with
  | some (k, s1) => some (1, stackLoc k, s1)
  | none => lowHome s t

/-- The tile needs a home before a write: it is UNMAPPED, or POISONED under a whole-tile write (R201). -/
def needsHome (s : State) (t : Nat) (whole : Bool) : Bool :=
  let st := (s.home t).st
  st == .unmapped || (st == .poisoned && whole)

/-- Gives a tile a home for a write: HOME in the place found, or PINNED in the frame reserved for a pinned one (R196). -/
def giveHome (s : State) (p t : Nat) (want : Option Nat) : Option State :=
  let reserved := s.work.plans.findSome? fun kv =>
    match tget? kv.2.pins t with
    | some (some k) => some k
    | _ => none
  let old := s.home t
  let hold (x : State) : State :=
    if old.st == .poisoned && old.tier == 1 then { x with tier.withheld := tput x.tier.withheld (locFrame old.loc) true }
    else x
  match (if old.st == .poisoned then reserved else none) with
  | some k => some ((hold (takeFrame s k t)).setHome t ⟨.pinned, 1, stackLoc k⟩)
  | none => (findHome s p t want).map fun (tier, loc, s1) => (hold s1).setHome t ⟨.home, tier, loc⟩

/-- Homes for every tile of a write that needs one, or none (R201). -/
def giveHomes (s : State) (p : Nat) (want : Option Nat) : List (Nat × Bool) → Option State
  | [] => some s
  | (t, whole) :: ts =>
    if needsHome s t whole then
      match giveHome s p t want with
      | none => none
      | some s1 => giveHomes s1 p want ts
    else giveHomes s p want ts

/-- A write found no frame: TIER_ERR.NOSPACE (R201). -/
def noSpace (s : State) (p : Nat) : State := { s with tier.err := orErr s.tier.err p 1 }

/-- A result tile in use shows its last completed buffer and drops writes (R175, R176). -/
def resTile? (s : State) (t : Nat) : Option ResTile := tget? s.work.resTiles t

/-- `n` bytes at an offset of a tile as its home holds them: zeros when UNMAPPED (R191, R193). -/
def homeRead (s : State) (t off n : Nat) : List Byte :=
  match resTile? s t with
  | some r => slice (r.view ++ List.replicate (32768 - r.view.length) 0 ++ List.replicate 32768 0) off n
  | none =>
    let h := s.home t
    if h.st == .unmapped then List.replicate n 0
    else if h.tier = 3 then mreadN s.flash.mem (flashTileAddr s h.loc + off) n
    else mreadN s.tier.mem (t * tileBytes + off) n

/-- Some byte of the interval is uncorrectable (R214, R378): a poisoned word or line, or a poisoned codeword of a flash home. -/
def intervalPoisoned (s : State) (t off n : Nat) : Bool :=
  let a := t * tileBytes + off
  let h := s.home t
  if h.st == .unmapped || n = 0 then false
  else if h.tier = 3 then
    let fa := flashTileAddr s h.loc + off
    s.flash.pois.any fun kv => decide (kv.1 * 4096 < fa + n) && decide (fa < kv.1 * 4096 + 4096)
  else
    s.tier.pois64.any (fun kv => decide (kv.1 * 64 < a + n) && decide (a < kv.1 * 64 + 64)) ||
      s.tier.pois256.any (fun kv => decide (kv.1 * 256 < a + n) && decide (a < kv.1 * 256 + 256))

/-- A queued or held write of the tile's move overlaps the lines of the interval, so that a read of it is held (R211). -/
def writeQueued (s : State) (t off n : Nat) : Bool :=
  match tget? s.tier.moves t with
  | none => false
  | some m => (m.fwdq ++ m.held).any fun w =>
      decide (w.off / 256 ≤ (off + n - 1) / 256) && decide (off / 256 ≤ (w.off + max w.bytes.length 8 - 1) / 256)

/-- An access sets its frame's age to 3 (R204). -/
def touch (s : State) (t : Nat) : State :=
  let h := s.home t
  if h.tier = 1 && h.st != .unmapped then
    match tget? s.tier.frames (locFrame h.loc) with
    | none => s
    | some f =>
      if f.age = 3 then s
      else { s with tier := { s.tier with
        frames := tput s.tier.frames (locFrame h.loc) { f with age := 3, order := s.tier.ageClock }
        ageClock := s.tier.ageClock + 1 } }
  else s

/-- Counts a cluster's reads or writes of a tile in its region's window (R208); a tile that reaches HOT_THRESH becomes a
candidate: HOT_CAND, and a move is wanted. -/
def hotCount (s : State) (r t n : Nat) (wr : Bool) : State :=
  let x := s.region r
  let known := (tget? x.hot t).isSome
  if !known && 1024 ≤ x.hot.length then s
  else
    let (a, b) := tgetD x.hot t (0, 0)
    let (a1, b1) := if wr then (a, b + n) else (a + n, b)
    let s1 := s.setRegion r { x with hot := tput x.hot t (a1, b1) }
    let thr := fld s.tier.cfg 39 32
    let rested := match tget? s.tier.flipT t with
      | none => true
      | some f => decide (f + fld s.tier.cfg 15 8 * 1000000 ≤ s.now)
    let h := s.home t
    let dest : Option Nat :=
      if h.st != .home then none
      else if h.tier ≥ 2 then some 1
      else if h.tier = 1 && a1 + b1 ≤ 4 * b1 then some 0
      else none
    if a + b < thr && thr ≤ a1 + b1 && flag s.tier.cfg 0 && rested then
      let s2 := count s1 (tileOwner s t) Ev.hotCand
      match dest with
      | none => s2
      | some tier =>
        if s2.tier.moveWait.any (·.1 == t) then s2
        else { s2 with tier.moveWait := s2.tier.moveWait ++ [(t, tier, r, false)] }
    else s1

/-- Drops every read-frame copy of the own lines that an interval touches (R199). -/
def dropOwnLines (s : State) (t off n : Nat) : State :=
  let lo := (t * tileBytes + off) / 256
  let hi := (t * tileBytes + off + n - 1) / 256
  { s with tier.regions := tmap s.tier.regions fun _ r =>
      { r with lines := r.lines.filter fun l => l.remote || decide (l.line < lo) || decide (hi < l.line) } }

/-- Stores bytes at a tile's home on die, in a stack or in the pool; a full overwrite of a poisoned word or line heals it. A
write to a result tile is dropped and counted (R176). -/
def applyBytes (s : State) (t off : Nat) (bs : List Byte) : State :=
  if bs.isEmpty then s
  else if (resTile? s t).isSome then count s (tileOwner s t) Ev.nbRaWrite (frameStack (locFrame (s.home t).loc))
  else
    let a := t * tileBytes + off
    let n := bs.length
    let keep64 := tfilter s.tier.pois64 fun k _ => !(decide (a ≤ k * 64) && decide (k * 64 + 64 ≤ a + n))
    let keep256 := tfilter s.tier.pois256 fun k _ => !(decide (a ≤ k * 256) && decide (k * 256 + 256 ≤ a + n))
    let s1 := { s with tier := { s.tier with
      mem := mwriteN s.tier.mem a bs, pois64 := keep64, pois256 := keep256
      dirty := if flashBacked s t then tput s.tier.dirty t true else s.tier.dirty } }
    dropOwnLines (touch s1 t) t off n

/-- Enters one write of at most 256 bytes into the forwarding queue, or holds it when 64 are queued (R212). -/
def queueWrite (s : State) (t : Nat) (w : QWrite) : State :=
  match tget? s.tier.moves t with
  | none => s
  | some m =>
    let d := if flashBacked s t then tput s.tier.dirty t true else s.tier.dirty
    let put (x : Move) : State := { s with tier := { s.tier with moves := tput s.tier.moves t x, dirty := d } }
    if m.fwdq.length < 64 then put { m with fwdq := m.fwdq ++ [w] }
    else count (put { m with held := m.held ++ [w] }) (tileOwner s t) Ev.fwdqFull

/-- The pieces of a write, none crossing a 256-byte line. -/
def linePieces : (fuel off : Nat) → List Byte → List (Nat × List Byte)
  | 0, _, _ => []
  | f + 1, off, bs =>
    match bs with
    | [] => []
    | _ =>
      let n := 256 - off % 256
      (off, bs.take n) :: linePieces f (off + n) (bs.drop n)

/-- What a write to a tile meets. -/
inductive WrRes where
  | ok | poisoned | noSpace | wait
deriving DecidableEq, Repr

/-- Writes bytes within one tile that has a home where it needs one (R191, R198, R210 to R212, R490). A write to a flash home
starts the tile's move to a stack and enters its queue; while no move slot is free it waits. -/
def writeHomed (s : State) (p t off : Nat) (bs : List Byte) (want : Option Nat) (asker : Option Asker := none) :
    WrRes × State :=
  let h := s.home t
  let enqueue (x : State) : State :=
    (linePieces 257 off bs).foldl (fun y w => queueWrite y t { off := w.1, bytes := w.2, asker := asker }) x
  match h.st with
  | .poisoned => (.poisoned, s)
  | .unmapped => (.noSpace, s)
  | .moving =>
    match tget? s.tier.moves t with
    | some m => if m.frozen || h.tier = 3 then (.ok, enqueue s) else (.ok, applyBytes s t off bs)
    | none => (.ok, applyBytes s t off bs)
  | _ =>
    if h.tier = 3 then
      if 256 ≤ s.tier.moves.length then (.wait, s)
      else
        match stackFrameFor s p t want with
        | none => (.noSpace, noSpace s p)
        | some (k, s1) => (.ok, enqueue (beginMove s1 t 1 (stackLoc k) false false))
    else (.ok, applyBytes s t off bs)

/-- The pieces of an interval of tier bytes by tile: tile, offset, length. -/
def tilePieces : (fuel addr len : Nat) → List (Nat × Nat × Nat)
  | 0, _, _ => []
  | f + 1, addr, len =>
    if len = 0 then []
    else
      let n := min len (tileBytes - addr % tileBytes)
      (addr / tileBytes, addr % tileBytes, n) :: tilePieces f (addr + n) (len - n)

/-- The pieces of [addr, addr + len). -/
def pieces (addr len : Nat) : List (Nat × Nat × Nat) := tilePieces (len / tileBytes + 2) addr len

/-- A write of an interval of the tier space: homes first for every tile that needs one, or none; then each tile at its home,
a POISONED tile not undoing the others (R201). -/
def writeSpan (s : State) (p addr : Nat) (bs : List Byte) (want : Option Nat) : WrRes × State :=
  let ps := pieces addr bs.length
  match giveHomes s p want (ps.map fun x => (x.1, x.2.2 == tileBytes)) with
  | none => (.noSpace, noSpace s p)
  | some s1 =>
    ps.foldl (fun (acc : WrRes × State) x =>
      let (r, s2) := writeHomed acc.2 p x.1 x.2.1 ((bs.drop (x.1 * tileBytes + x.2.1 - addr)).take x.2.2) want
      (if acc.1 == .ok then r else acc.1, s2)) (.ok, s1)

/-- What a read meets: its bytes with those of uncorrectable lines as zeros (R378), whether any was uncorrectable or a tile
POISONED, or that it is held by a queued write. -/
structure RdRes where
  bytes : List Byte
  poisoned : Bool
  held : Bool
deriving DecidableEq, Repr

/-- Reads an interval within one tile. -/
def readTile (s : State) (t off n : Nat) : RdRes :=
  if (s.home t).st == .poisoned then ⟨List.replicate n 0, true, false⟩
  else if writeQueued s t off n then ⟨[], false, true⟩
  else if intervalPoisoned s t off n then
    let lines := (linePieces (n / 256 + 2) off (List.replicate n 0)).flatMap fun w =>
      if intervalPoisoned s t w.1 w.2.length then w.2 else homeRead s t w.1 w.2.length
    ⟨lines, true, false⟩
  else ⟨homeRead s t off n, false, false⟩

/-- Reads an interval of the tier space. -/
def readSpan (s : State) (addr len : Nat) : RdRes :=
  (pieces addr len).foldl (fun acc x =>
    let r := readTile s x.1 x.2.1 x.2.2
    ⟨acc.bytes ++ r.bytes, acc.poisoned || r.poisoned, acc.held || r.held⟩) ⟨[], false, false⟩

/-- What a read leaves behind: ages, and one FLASH_READ per codeword of a flash home (R198, R204). -/
def readMarks (s : State) (p : Nat) (addr len : Nat) : State :=
  (pieces addr len).foldl (fun x w =>
    let h := x.home w.1
    if h.st != .unmapped && h.tier = 3 then
      count x p Ev.flashRead 0xFF ((w.2.1 + w.2.2 - 1) / 4096 - w.2.1 / 4096 + 1)
    else touch x w.1) s

/-- A line read by a cluster of a region passes its read frames (R199, R202): a hit, a join of a fill in flight, or a miss
that starts a fill; a 257th fill waits unseen. -/
def rfRead (s : State) (r p line : Nat) (remote : Bool) : State :=
  let x := s.region r
  match x.lines.find? fun l => l.line = line && l.remote == remote with
  | some l =>
    count (s.setRegion r { x with lines := l :: x.lines.filter fun m => !(m.line = line && m.remote == remote) }) p
      Ev.rfHit r
  | none =>
    let s1 := count s p Ev.rfMiss r
    if x.fills.any fun f => f.line = line then
      count (s1.setRegion r { x with fills := x.fills.map fun f =>
        if f.line = line then { f with joined := f.joined + 1 } else f }) p Ev.fillJoin r
    else if x.fills.length < 256 then s1.setRegion r { x with fills := x.fills ++ [{ line := line }] }
    else s1

/-- Read-frame lines of a region: the frames that are not home frames, 256 lines each (R199). -/
def rfCapacity (s : State) : Nat := (128 - fld s.tier.cfg 47 40) * 256

/-- A cluster's read of an interval of the own tier space: read frames and heat line by line (R199, R208). -/
def clusterRead (s : State) (c p addr len : Nat) : State :=
  let r := c / 16
  let lo := addr / 256
  let n := (addr + len - 1) / 256 + 1 - lo
  if len = 0 then s
  else
    (List.range n).foldl (fun x i => hotCount (rfRead x r p (lo + i) false) r ((lo + i) / 256) 1 false) s

/-- A tile access by running work outside its partition's range, or into a sealed range of another partition (R30, R190):
the status it ends with. -/
def accessCheck (s : State) (p t n : Nat) : Option Nat :=
  if !inPrange s p t n then some stAdmitRefused
  else if (List.range n).any fun i => match sealedBy s (t + i) with
      | some o => o != p
      | none => false then some stSealed
  else none

end Sys2Proof.Machine
end

