-- ==== Sys2Proof/Machine/FabOps.lean ====
section
/-!
DEFINITION. Positions, routes and the sending of packets (R281, R282, R285, R289, R292, R295).
-/
namespace Sys2Proof.Machine

/-- Packet kinds (R285). -/
def kLoad : Nat := 0x01
def kStore : Nat := 0x02
def kAtomic : Nat := 0x03
def kInval : Nat := 0x04
def kPut : Nat := 0x05
def kGet : Nat := 0x06
def kFreeze : Nat := 0x08
def kCopy : Nat := 0x09
def kDrained : Nat := 0x0A
def kLog : Nat := 0x0C
def kLogVoid : Nat := 0x0D
def kArm : Nat := 0x10
def kMbr : Nat := 0x11
def kLstate : Nat := 0x12
def kQfwd : Nat := 0x14
def kPlist : Nat := 0x15
def kColl : Nat := 0x16
def kReject : Nat := 0x3E

/-- Every kind of the table, responses and acknowledgements included. -/
def knownKind (k : Nat) : Bool :=
  [0x01, 0x02, 0x03, 0x04, 0x05, 0x06, 0x08, 0x09, 0x0A, 0x0C, 0x0D, 0x10, 0x11, 0x12, 0x14, 0x15, 0x16, 0x21, 0x22,
    0x23, 0x24, 0x25, 0x26, 0x2C, 0x2D, 0x3E].contains k

def State.port (s : State) (t : Nat) : Port := tgetD s.fab.ports t {}
def State.setPort (s : State) (t : Nat) (x : Port) : State := { s with fab.ports := tput s.fab.ports t x }

def isEdge (t : Nat) : Bool := t % 16 == 14 || t % 16 == 15

/-- The node a node number belongs to: an endpoint's node is the one it attaches to (R282). -/
def nodeOf (num : Nat) : Nat := if num < 0x40 then num else (num - 0x40) / 4

/-- Within the rack domain's numbers (R282). -/
def inDomainNum (num : Nat) : Bool := decide (num < 0x140)

/-- The edge port of an endpoint number. -/
def edgePortOf (num : Nat) : Nat :=
  match (num - 0x40) % 4 with
  | 0 => 14 | 1 => 15 | 2 => 30 | _ => 31

/-- The endpoint number at edge port t of position p. -/
def endpointNum (p t : Nat) : Nat := 0x40 + 4 * p + (if t = 14 then 0 else if t = 15 then 1 else if t = 30 then 2 else 3)

/-- The index of value x among the other seven of 0 to 7 in ascending order, seen from `self` (R281). -/
def peerIndex (self x : Nat) : Nat := if x < self then x else x - 1

/-- The two mesh ports to a row or column peer, ED-N first (R281). -/
def linkPorts (self t : Nat) : List Nat :=
  let (r, c) := (self / 8, self % 8)
  let (rt, ct) := (t / 8, t % 8)
  if self = t || 64 ≤ t || 64 ≤ self then []
  else if r = rt then [peerIndex c ct, 16 + peerIndex c ct]
  else if c = ct then [7 + peerIndex r rt, 23 + peerIndex r rt]
  else []

/-- The far end's position and port that the wiring rule gives for a mesh port (R281). -/
def wiredTo (self t : Nat) : Nat × Nat :=
  let (r, c) := (self / 8, self % 8)
  let half := t / 16 * 16
  let j := t % 16
  if j < 7 then
    let x := if j < c then j else j + 1
    (r * 8 + x, half + peerIndex x c)
  else
    let i := j - 7
    let x := if i < r then i else i + 1
    (x * 8 + c, half + 7 + peerIndex x r)

def portUp (s : State) (t : Nat) : Bool := (s.port t).st == .up

/-- A peer reports a live link to t (R290). -/
def reports (s : State) (peer t : Nat) : Bool := (tgetD s.fab.lstate peer 0).getLsbD t

/-- A peer reports its link to t down; one that has not reported yet reports nothing (R289). -/
def reportsDown (s : State) (peer t : Nat) : Bool :=
  match tget? s.fab.lstate peer with
  | some v => !v.getLsbD t
  | none => false

/-- The candidates of R289 towards position t, without the refused intermediates. -/
def routeCands (s : State) (t : Nat) (refused : List Nat) : List Nat :=
  let self := s.fab.node
  let (r, c) := (self / 8, self % 8)
  let (rt, ct) := (t / 8, t % 8)
  let via (m : Nat) : List Nat :=
    if m == self || m == t || refused.contains m || !reports s m t then [] else linkPorts self m
  let all :=
    if rt = r || ct = c then
      let direct := (linkPorts self t).filter (portUp s)
      if !direct.isEmpty then direct
      else if rt = r then (List.range 8).flatMap fun x => via (r * 8 + x)
      else (List.range 8).flatMap fun x => via (x * 8 + c)
    else
      [r * 8 + ct, rt * 8 + c].flatMap fun m => if refused.contains m || reportsDown s m t then [] else linkPorts self m
  all.filter (portUp s)

/-- The next hop of a packet (R289): the hash of the fixed class and the credits of the adaptive class are open. -/
def routePort (s : State) (src t rcls : Nat) (refused : List Nat) : Option Nat × State :=
  let cands := routeCands s t refused
  if cands.isEmpty then (none, s)
  else if rcls = 1 then (cands[Config.routeHash src t % cands.length]?, s)
  else
    let (w, s1) := takeFree s
    (cands[w.toNat % cands.length]?, s1)

/-- Puts a packet on a port: it stays in the retry buffer until it is acknowledged (R278, R290). -/
def putOnPort (s : State) (t : Nat) (p : Packet) : State :=
  let x := s.port t
  (s.setPort t { x with txSeq := (x.txSeq + 1) % 4096, retry := x.retry ++ [(x.txSeq, p)] }).emit (.packet t p)

/-- Numbers and stamps a packet of this node (R286, R292, R295, R296): BSEQ for a burst, FSEQ for the fixed class, counting
from 1. -/
def stampPacket (s : State) (p : Packet) : Packet × State :=
  let b := tgetD s.fab.bseq p.dst 1
  let f := tgetD s.fab.fseq p.dst 1
  let burst := !p.payload.isEmpty
  let s1 := if burst then { s with fab.bseq := tput s.fab.bseq p.dst ((b + 1) % 2 ^ 32) } else s
  let s2 := if p.rcls = 1 then { s1 with fab.fseq := tput s1.fab.fseq p.dst ((f + 1) % 2 ^ 32) } else s1
  ({ p with gen := s.mbr.gen, bseq := if burst then b else 0, fseq := if p.rcls = 1 then f else 0 }, s2)

/-- Sends a stamped packet towards its destination: to an edge port for an endpoint of this node, otherwise by R289. The
answer says whether a route was found. -/
def routeSend (s : State) (p : Packet) (refused : List Nat) : Bool × State :=
  let t := nodeOf p.dst
  if t = s.fab.node then
    let e := edgePortOf p.dst
    if 0x40 ≤ p.dst && portUp s e then (true, putOnPort s e p) else (false, s)
  else
    match routePort s p.src t p.rcls refused with
    | (some port, s1) => (true, putOnPort s1 port p)
    | (none, s1) => (false, count s1 p.part Ev.noRoute)

/-- Sends a packet of this node. -/
def sendPacket (s : State) (p : Packet) : Bool × State :=
  let (q, s1) := stampPacket s p
  routeSend s1 q []

/-- Sends a packet whose loss for want of a route is only counted. -/
def sendPkt (s : State) (p : Packet) : State := (sendPacket s p).2

/-- The response to a request (R285): same tag, the status, and the payload of a successful read. -/
def respond (s : State) (req : Packet) (status : Nat) (payload : List Byte := []) : State :=
  sendPkt s { kind := req.kind + 0x20, dst := req.src, src := s.fab.node, part := req.part, len := payload.length,
              tag := req.tag, addr := req.addr, status := status, aux := req.aux, payload := payload }

/-- A control packet to a position (R285). -/
def sendControl (s : State) (kind pos : Nat) (payload : List Byte) (aux : Nat := 0) : State :=
  sendPkt s { kind := kind, dst := pos, src := s.fab.node, part := 0, len := payload.length, aux := aux,
              payload := payload }

/-- The other members of the rack map. -/
def otherMembers (s : State) : List Nat := (bitsSet 64 s.mbr.members).filter (· != s.fab.node)

/-- The 14 row and column peers of this node (R281). -/
def rowPeers (self : Nat) : List Nat := ((List.range 8).map (self / 8 * 8 + ·)).filter (· != self)
def colPeers (self : Nat) : List Nat := ((List.range 8).map (· * 8 + self % 8)).filter (· != self)

/-- FAB_LSTATE.REACH (R289, R308). -/
def reachMask (s : State) : Nat :=
  if 64 ≤ s.fab.node then 0
  else ofBits ((List.range 64).filter fun t => t == s.fab.node || !(routeCands s t []).isEmpty)

/-- Live links of this node's own ports: its LSTATE vector (R290). -/
def ownLstate (s : State) : Nat :=
  ofBits ((List.range 64).filter fun t => (linkPorts s.fab.node t).any (portUp s))

/-- Sends the link-state vector to every peer (R290). -/
def sendLstate (s : State) : State :=
  let v := leBytes 8 (ownLstate s)
  let s1 := (rowPeers s.fab.node ++ colPeers s.fab.node).foldl (fun t p => sendControl t kLstate p v) s
  { s1 with fab.lastLstate := s.now }

/-- A new request tag. -/
def newTag (s : State) : Nat × State :=
  (s.fab.nextTag, { s with fab.nextTag := (s.fab.nextTag + 1) % 65536 })

end Sys2Proof.Machine
end

