-- ==== Sys2Proof/Machine/ErrOps.lean ====
section
/-!
DEFINITION. Detections: error records, notices, reports and injection (R392 to R396), and events counted for the node (R447).
-/
namespace Sys2Proof.Machine

/-- The owner partition named in the Starter image. -/
def ownerPart (s : State) : Nat :=
  match tfind? s.pkg.sec.parts fun _ e => e.owner with
  | some (p, _) => p
  | none => 0

/-- An event counted for the node goes to the owner partition (R447). -/
def countNode (s : State) (ev : Nat) (qual : Nat := 0xFF) (n : Nat := 1) : State := count s (ownerPart s) ev qual n

/-- The ACTIVE function of a partition (R370). -/
def activeFn (s : State) (p : Nat) : Option Nat := (tfind? s.host.fns fun _ f => f.bound && f.part = p && f.active).map (·.1)

/-- Severities (R393). -/
def sevCorr : Nat := 0
def sevCont : Nat := 1
def sevFence : Nat := 2
def sevPart : Nat := 3
def sevNode : Nat := 4

/-- ACTION codes (R395). -/
def actCounted : Nat := 0
def actPoison : Nat := 1
def actEnded : Nat := 2
def actFenced : Nat := 3
def actPort : Nat := 4
def actRetired : Nat := 5
def actRow : Nat := 6
def actFrame : Nat := 7
def actCore : Nat := 8
def actClock : Nat := 9
def actNode : Nat := 10

/-- The 64 bytes of a record (R395). -/
def ErrRec.bytes (r : ErrRec) : List Byte :=
  leBytes 8 r.seq ++ leBytes 8 r.time ++ leBytes 1 r.det ++ leBytes 1 r.sev ++ leBytes 1 (b2n r.inj) ++ leBytes 1 r.part ++
    leBytes 2 r.action ++ leBytes 2 r.status ++ leBytes 8 r.loc ++ leBytes 8 r.addr ++ leBytes 4 r.count ++
    List.replicate 20 0

/-- The record that a new detection merges into (R395). -/
def mergeInto (s : State) (det loc action : Nat) : Option (Nat × ErrRec) :=
  tfind? s.err.recs fun _ r => r.det = det && r.loc = loc && r.action = action && decide (s.now < r.time + 1000000)

/-- Writes a record into a partition's notice ring (R396). -/
def notice (s : State) (p : Nat) (r : ErrRec) : State :=
  let cfg := tgetD s.err.noteCfg p 0
  if !flag cfg 0 then s
  else
    match activeFn s p with
    | none => s
    | some f =>
      let size := 2 ^ (6 + min 10 (fld cfg 19 16))
      let i := tgetD s.err.noteNext p 0
      let addr := (tgetD s.err.noteBase p 0).toNat + 64 * (i % size)
      let s1 := { s with err.noteNext := tput s.err.noteNext p ((i + 1) % size) }
      if canWrite s1 f (s1.fn f).gen then sendMsix (hostWrite s1 f (s1.fn f).gen addr r.bytes) f (fld cfg 31 20)
      else
        { hostWrite s1 f (s1.fn f).gen addr r.bytes with err.pstat := orErr s1.err.pstat p 1 }

/-- A message of membership to a position (R400): type in AUX[7:0]. -/
def sendMbr (s : State) (pos type : Nat) (payload : List Byte) : State := sendControl s kMbr pos payload type

/-- Writes a record into the ring, or merges it; tells the partitions that may read it; and reports severities PART and NODE,
and frame retirements, to the leader and to the board management controller (R395, R396). -/
def record (s : State) (det sev action part loc : Nat) (status addr : Nat := 0) (inj : Bool := false) : State :=
  match mergeInto s det loc action with
  | some (k, r) => { s with err.recs := tput s.err.recs k { r with count := r.count + 1 } }
  | none =>
    let r : ErrRec := { seq := s.err.seq + 1, time := s.now, det := det, sev := sev, inj := inj, part := part,
                        action := action, status := status, loc := loc, addr := addr }
    let s1 := { s with err := { s.err with seq := r.seq, recs := tput s.err.recs (r.seq % 1024) r } }
    let s2 := (s1.pkg.sec.parts.filter fun kv => kv.1 = part || kv.2.owner).foldl (fun t kv => notice t kv.1 r) s1
    let big := sev = sevPart || sev = sevNode
    let s3 := if (big || action = actFrame) && s2.mbr.leader < 64 && s2.mbr.leader != s2.fab.node then
        sendMbr s2 s2.mbr.leader 0x09 r.bytes
      else s2
    if big then { s3 with err.smbAlertN := true } else s3

/-- A detection (R392, R395, R396): its event for the affected partition (the owner for none), and its record unless it is
CORR by a detector other than 0x06, 0x07 and 0x08. -/
def detect (s : State) (det sev action part loc : Nat) (status addr : Nat := 0) (inj : Bool := false) : State :=
  let p := if part = 0xFF then ownerPart s else part
  let s1 := count s p (0x1100 + det)
  if sev = sevCorr && det != 0x06 && det != 0x07 && det != 0x08 then s1
  else record s1 det sev action part loc status addr inj

/-- Whether an armed injection of a detector hits a place: ONCE disarms (R394). The answer is UE of the arm. -/
def injHit (s : State) (det : Nat) (at_ : Nat → Bool) : Option Bool × State :=
  match tget? s.err.inj det with
  | none => (none, s)
  | some x =>
    if x.armed && x.mode < 2 && at_ x.target then
      (some x.ue, if x.mode = 0 then { s with err.inj := tput s.err.inj det { x with armed := false } } else s)
    else (none, s)

/-- The record flag INJ of a detection by a row command: an armed injection names the same place; ONCE disarms. -/
def injFlag (s : State) (det loc : Nat) : Bool × State :=
  match injHit s det (· == loc) with
  | (some _, s1) => (true, s1)
  | (none, s1) => (false, s1)

/-- Keys of stack rows and frames: stack × 2^32 + number. A row is 1 KiB, one granule of one frame (R409, R164). -/
def rowKey (st row : Nat) : Nat := st * 2 ^ 32 + row

/-- A corrected error counts for its row, within 24 hours of the first; PPR_CE of them, or any uncorrectable one, start the
row's repair (R409). -/
def rowHit (s : State) (st row : Nat) (ue : Bool) : State :=
  let k := rowKey st row
  if (tget? s.err.repairing k).isSome then s
  else
    let x := tgetD s.err.rows k {}
    let y : RowCe := if x.n = 0 || x.t + 86400000000000 ≤ s.now then { n := 1, t := s.now } else { x with n := x.n + 1 }
    if ue || fld s.err.cfg 7 0 ≤ y.n then
      { s with err := { s.err with rows := terase s.err.rows k, repairing := tput s.err.repairing k true } }
    else { s with err.rows := tput s.err.rows k y }

/-- A read of a row under repair waits for its bank, which counts PPR_WAIT (R409). -/
def pprWait (s : State) (p st lo hi : Nat) : State :=
  if s.err.repairing.any fun kv => kv.1 / 2 ^ 32 == st && decide (lo / 16 ≤ kv.1 % 2 ^ 32) && decide (kv.1 % 2 ^ 32 ≤ hi / 16) then
    count s p Ev.pprWait st
  else s

/-- A read of stack lines (R392, R394, R409): it waits for a row under repair, and it meets detector 0x06, which corrects or
poisons the 64-byte line. The lines are those of [off, off + n) of a tile that is homed in a stack. -/
def injectStack (s0 : State) (p t off n : Nat) : State :=
  let h := s0.home t
  if h.tier != 1 || h.st == .unmapped then s0
  else
    let base := h.loc % 2 ^ 20 * 1024
    let st := h.loc / 2 ^ 24 % 8
    let lo := base + off / 64
    let hi := base + (off + n - 1) / 64
    let s := pprWait s0 p st lo hi
    let hit (x : Nat) : Bool := bitsOf x 2 0 == st && decide (lo ≤ bitsOf x 32 3) && decide (bitsOf x 32 3 ≤ hi)
    let target := (tgetD s.err.inj 6 {}).target
    match injHit s 6 hit with
    | (none, _) => s
    | (some ue, s1) =>
      let at_ := bitsOf target 32 3
      let line := t * 1024 + (at_ - base)
      let s2 := rowHit s1 st (at_ / 16) ue
      if ue then
        detect { s2 with tier.pois64 := tput s2.tier.pois64 line true } 6 sevCont actPoison p target stPoisoned (line * 64)
          true
      else detect s2 6 sevCorr actCounted p target 0 (line * 64) true

/-- A read of an on-die home frame meets detector 0x02 (R392): its line is poisoned, or corrected. -/
def injectOnDie (s : State) (p t off n : Nat) : State :=
  let h := s.home t
  if h.tier != 0 || h.st == .unmapped then s
  else
    let hit (x : Nat) : Bool :=
      bitsOf x 2 0 == h.loc / 128 && bitsOf x 9 3 == h.loc % 128 && decide (off / 256 ≤ bitsOf x 17 10) &&
        decide (bitsOf x 17 10 ≤ (off + n - 1) / 256)
    let target := (tgetD s.err.inj 2 {}).target
    match injHit s 2 hit with
    | (none, _) => s
    | (some ue, s1) =>
      let line := t * 256 + bitsOf target 17 10
      if ue then
        detect { s1 with tier.pois256 := tput s1.tier.pois256 line true } 2 sevCont actPoison p target stPoisoned (line * 256)
          true
      else detect s1 2 sevCorr actCounted p target 0 (line * 256) true

/-- The place in a region's read frames of the line at position `k` of its list: read frames are those behind the home
frames. -/
def rfPlace (s : State) (r k : Nat) : Nat := r + (fld s.tier.cfg 47 40 + k / 256) * 8 + k % 256 * 1024

/-- A read frame's line meets detector 0x02 (R392): it is dropped and fetched again. -/
def injectRead (s : State) (r p lo hi : Nat) : State :=
  if (tget? s.err.inj 2).isNone then s
  else
    let x := s.region r
    let target := (tgetD s.err.inj 2 {}).target
    match (List.range x.lines.length).find? fun k => rfPlace s r k == target % 2 ^ 18 with
    | none => s
    | some k =>
      match x.lines[k]? with
      | none => s
      | some l =>
        if l.remote || l.line < lo || hi < l.line then s
        else
          match injHit s 2 (· == target) with
          | (none, _) => s
          | (some ue, s1) =>
            let s2 := if ue then s1.setRegion r { x with lines := x.lines.eraseIdx k } else s1
            detect s2 2 sevCorr actCounted p target 0 (l.line * 256) true

/-- A lookup of a Home Table entry meets detector 0x03 (R394, R392): the tile becomes POISONED and its frame is withheld. -/
def injectHome (s : State) (p t : Nat) : State :=
  let h := s.home t
  match injHit s 3 (· == t) with
  | (none, _) => s
  | (some ue, s1) =>
    if !ue then detect s1 3 sevCorr actCounted p t 0 (t * tileBytes) true
    else
      let s2 := s1.setHome t { h with st := .poisoned }
      let s3 := if h.tier = 1 && h.st != .unmapped then
          { s2 with tier.withheld := tput s2.tier.withheld (locFrame h.loc) true }
        else s2
      detect s3 3 sevCont actPoison p t stPoisoned (t * tileBytes) true

/-- The detectors that a read of an interval of the tier space passes (R394): the Home Table entry of each tile, then the
on-die home frames or the stack lines. -/
def readChecks (s : State) (p addr len : Nat) : State :=
  if s.err.inj.isEmpty && s.err.repairing.isEmpty then s
  else
    (pieces addr len).foldl (fun x w =>
      injectStack (injectOnDie (injectHome x p w.1) p w.1 w.2.1 w.2.2) p w.1 w.2.1 w.2.2) s

end Sys2Proof.Machine
end

