-- ==== Sys2Proof/Machine/MemOps.lean ====
section
/-!
DEFINITION. Accesses to the tier space by commands and units: their regulators (R389), their checks (R190, R394) and what a
read brings.
-/
namespace Sys2Proof.Machine

/-- Bytes that an interval draws from each stack (R389). -/
def stackDraws (s : State) (addr len : Nat) : List (Nat × Nat) :=
  (pieces addr len).filterMap fun x =>
    let h := s.home x.1
    if h.st != .unmapped && h.tier = 1 then some (frameStack (locFrame h.loc), x.2.2) else none

/-- Every part of an access at its STACK regulator (R389): all start, or the access waits. -/
def stackTry (s : State) (part id : Nat) (ds : List (Nat × Nat)) : Bool × State :=
  match ds.find? fun d => !regMay s part (.stack d.1) id with
  | some d => (false, (regTry s part (.stack d.1) id d.2).2)
  | none => (true, ds.foldl (fun x d => (regTry x part (.stack d.1) id d.2).2) s)

/-- Codewords that a read of an interval takes from flash homes, in sixteenths (R389). -/
def flashDraw (s : State) (addr len : Nat) : Nat :=
  16 * sumOf ((pieces addr len).map fun x =>
    let h := s.home x.1
    if h.st != .unmapped && h.tier = 3 then (x.2.1 + x.2.2 - 1) / 4096 - x.2.1 / 4096 + 1 else 0)

/-- A read at its regulators: the stacks' and flash's. -/
def readTry (s : State) (part id addr len : Nat) : Bool × State :=
  let n := flashDraw s addr len
  if n ≠ 0 && !regMay s part .flash id then regTry s part .flash id n
  else
    let (ok, s1) := stackTry s part id (stackDraws s addr len)
    if ok && n ≠ 0 then regTry s1 part .flash id n else (ok, s1)

/-- What an access meets: its bytes; a status with what bytes there are; or that it waits. -/
inductive Got where
  | ok (bytes : List Byte) (s : State)
  | bad (status : Nat) (bytes : List Byte) (s : State)
  | wait (s : State)

/-- A read of the tier space (R211, R378, R389, R394): it waits behind queued writes and at its regulators, and passes the
detectors; bytes of uncorrectable lines come as zeros, with POISONED. -/
def nodeRead (s : State) (part id addr len : Nat) : Got :=
  if len = 0 then .ok [] s
  else if (readSpan s addr len).held then .wait s
  else
    let (ok, s1) := readTry s part id addr len
    if !ok then .wait s1
    else
      let s2 := readChecks s1 part addr len
      let r := readSpan s2 addr len
      let s3 := readMarks s2 part addr len
      if r.poisoned then .bad stPoisoned r.bytes s3 else .ok r.bytes s3

/-- Tiles that an interval touches: the first, and how many. -/
def tilesOf (addr len : Nat) : Nat × Nat :=
  (addr / tileBytes, if len = 0 then 0 else (addr + len - 1) / tileBytes + 1 - addr / tileBytes)

/-- The refusal of a run-time access (R30, R190): outside the partition's range, or in a sealed range of another one. -/
def accessBad (s : State) (part addr len : Nat) : Option (Nat × State) :=
  let (t, n) := tilesOf addr len
  match accessCheck s part t n with
  | none => none
  | some st => some (st, if st = stAdmitRefused then rangeErr s part else s)

/-- The regulator identity of an access of a cluster's unit. -/
def unitReqId (c u : Nat) : Nat := 2 ^ 61 + c * 4 + u

/-- A read by a unit of a cluster (R190, R199, R208). -/
def unitRead (s : State) (c u addr len : Nat) : Got :=
  let p := (s.cl c).part
  match accessBad s p addr len with
  | some (st, s1) => .bad st [] s1
  | none =>
    match nodeRead s p (unitReqId c u) addr len with
    | .ok bytes s1 => .ok bytes (clusterRead (injectRead s1 (c / 16) p (addr / 256) ((addr + len - 1) / 256)) c p addr len)
    | .bad st bytes s1 => .bad st bytes s1
    | .wait s1 => .wait s1

/-- What several reads by one word meet. -/
inductive GotL where
  | ok (bytes : List (List Byte)) (s : State)
  | bad (status : Nat) (s : State)
  | wait (s : State)

/-- The reads of one word by a unit: one request at each regulator, and none is made before all may be (R389). -/
def unitReads (s : State) (c u : Nat) (xs : List (Nat × Nat)) : GotL :=
  let p := (s.cl c).part
  let id := unitReqId c u
  match xs.findSome? fun x => accessBad s p x.1 x.2 with
  | some (st, s1) => .bad st s1
  | none =>
    let n := sumOf (xs.map fun x => flashDraw s x.1 x.2)
    if xs.any fun x => x.2 != 0 && (readSpan s x.1 x.2).held then .wait s
    else if n ≠ 0 && !regMay s p .flash id then .wait (regTry s p .flash id n).2
    else
      match stackTry s p id (xs.flatMap fun x => stackDraws s x.1 x.2) with
      | (false, s1) => .wait s1
      | (true, s1) =>
        let s2 := if n = 0 then s1 else (regTry s1 p .flash id n).2
        let s3 := xs.foldl (fun t x => if x.2 = 0 then t else readChecks t p x.1 x.2) s2
        let rs := xs.map fun x => readSpan s3 x.1 x.2
        let s4 := xs.foldl (fun t x =>
          if x.2 = 0 then t
          else clusterRead (injectRead (readMarks t p x.1 x.2) (c / 16) p (x.1 / 256) ((x.1 + x.2 - 1) / 256)) c p x.1 x.2) s3
        if rs.any (·.poisoned) then .bad stPoisoned s4 else .ok (rs.map (·.bytes)) s4

/-- A write by a unit of a cluster (R190, R201, R208): tiles that need a home take one in the cluster's region. -/
def unitWrite (s : State) (c u addr : Nat) (bytes : List Byte) : Got :=
  let p := (s.cl c).part
  match accessBad s p addr bytes.length with
  | some (st, s1) => .bad st [] s1
  | none =>
    let (ok, s1) := stackTry s p (unitReqId c u) (stackDraws s addr bytes.length)
    if !ok then .wait s1
    else
      match writeSpan s1 p addr bytes (some (c / 16)) with
      | (.ok, s2) =>
        let (t, n) := tilesOf addr bytes.length
        .ok [] ((List.range n).foldl (fun x i => hotCount x (c / 16) (t + i) 1 true) s2)
      | (.poisoned, s2) => .bad stPoisoned [] s2
      | (.noSpace, s2) => .bad (refusal rsResource) [] s2
      | (.wait, _) => .wait s

end Sys2Proof.Machine
end

