-- ==== Sys2Proof/Machine/UnitOps.lean ====
section
/-!
DEFINITION. Units and their words (R78 to R84), the end of invocations and queries, fencing and takeover (R24, R32 to R35),
and the release of plans (R91).
-/
namespace Sys2Proof.Machine

/-- Fields of an instruction word (R78). -/
def wOp (w : Nat) : Nat := bitsOf w 127 120
def wUnit (w : Nat) : Nat := bitsOf w 119 118
def wLast (w : Nat) : Bool := bitOf w 116
def wWaitt (w : Nat) : Nat := bitsOf w 115 108
def wSigen (w : Nat) : Bool := bitOf w 107
def wSigt (w : Nat) : Nat := bitsOf w 106 104
def wA (w : Nat) : Nat := bitsOf w 103 88
def wB (w : Nat) : Nat := bitsOf w 87 72
def wC (w : Nat) : Nat := bitsOf w 71 56
def wD (w : Nat) : Nat := bitsOf w 55 40
/-- A field of MOD. -/
def wMod (w hi lo : Nat) : Nat := bitsOf (bitsOf w 39 0) hi lo

/-- The saturation slot of a TU or VU word (R81). -/
def wSlot (u w : Nat) : Nat := if u = 0 then wMod w 7 2 else wMod w 13 8

def Cluster.unit (x : Cluster) (u : Nat) : UnitSt := tgetD x.units u {}
def Cluster.setUnit (x : Cluster) (u : Nat) (y : UnitSt) : Cluster := { x with units := tput x.units u y }
def Cluster.list (x : Cluster) (u : Nat) : List Nat := x.istore.getD u []

/-- The word a unit stands at. -/
def Cluster.word (x : Cluster) (u : Nat) : Option Nat := (x.list u)[(x.unit u).pc]?

/-- The word after `pc`; a list that reaches its end starts again at word 0 (R83). -/
def nextPc (len pc : Nat) : Nat := if pc + 1 < len then pc + 1 else 0

/-- A token signalled: it stays at 15 (R80). -/
def signalToken (toks : Tab Nat) (t : Nat) : Tab Nat := tput toks t (min 15 (tgetD toks t 0 + 1))

/-- All tokens named by WAITT are non-zero, and the tokens after the word has taken one of each (R80). -/
def tokensReady (toks : Tab Nat) (waitt : Nat) : Bool := (bitsSet 8 waitt).all fun t => tgetD toks t 0 != 0
def takeTokens (toks : Tab Nat) (waitt : Nat) : Tab Nat :=
  (bitsSet 8 waitt).foldl (fun x t => tput x t (tgetD x t 0 - 1)) toks

/-- The word a unit stands at completes: its signal, the end of a conversion, and the next word (R65, R78, R80, R83). `pc'`
is the next word. -/
def retireTo (s : State) (c u pc' : Nat) : State :=
  let x := s.cl c
  match x.word u with
  | none => s
  | some w =>
    let s1 := if wLast w && u < 2 then satLast s c (wSlot u w) else s
    let x1 := s1.cl c
    let x2 := if wSigen w then { x1 with tokens := signalToken x1.tokens (wSigt w) } else x1
    s1.setCl c (x2.setUnit u { x2.unit u with pc := pc', wait := .none })

/-- The word a unit stands at completes and the next one follows. -/
def retire (s : State) (c u : Nat) : State :=
  retireTo s c u (nextPc ((s.cl c).list u).length ((s.cl c).unit u).pc)

/-- A unit that waited for something goes on behind the word it waited in. -/
def resume (s : State) (c u : Nat) (wait : UWait) : State :=
  if ((s.cl c).unit u).wait == wait then retire s c u else s

/-- Sets what a unit waits for. -/
def setWait (s : State) (c u : Nat) (wait : UWait) : State :=
  let x := s.cl c
  s.setCl c (x.setUnit u { x.unit u with wait := wait })

/-- The model slots an invocation used no longer hold it (R94). -/
def dropModelUser (s : State) (i : Nat) : State :=
  { s with work.models := tmap s.work.models fun _ m => { m with users := m.users.filter (· != i) } }

/-- An invocation's plan and its ND mark (R86): set when any output of the plan is reached by an ND instruction. -/
def invNd (s : State) (v : Inv) : Bool := (tgetD s.work.plans v.plan {}).bin.ndReach != 0

/-- An invocation that is a command of its own ends with one status (R11). Its VALUE is the STEP used (R377). -/
def endInv (s : State) (i : Nat) (e : Ending) : State :=
  match tget? s.work.invs i with
  | none => s
  | some v =>
    let s1 := dropModelUser { s with work.invs := terase s.work.invs i } i
    endCmd? s1 v.cid (endStatus e) (endAux e) v.step (invNd s v)

/-- Prefetched lines and prefetches in flight that a query leaves unused when it ends (R119, R449). -/
def unusedLines (s : State) (c n : Nat) : State :=
  let x := s.cl c
  let k := n + (x.recs.filter fun l => !l.used).length
  let s1 := s.setCl c { x with recs := x.recs.map fun l => { l with used := true } }
  wasteSlot (countCls s1 c Ev.prefUnused 0xFF k) c k

/-- A walk ends with its query: what it has prefetched is unused, and vectors on their way for it are dropped. -/
def dropWalk (s : State) (c ctx : Nat) : State :=
  let x := s.cl c
  match tget? x.walks ctx with
  | none => s
  | some w =>
    let s1 := s.setCl c { x with walks := terase x.walks ctx }
    let s2 := { s1 with flash.jobs := tfilter s1.flash.jobs fun k _ => !(k % 3 == 1 && k / 3 / 2 ^ 32 == c * 64 + ctx) }
    resume (unusedLines s2 c w.inflight.length) c 2 (.walk ctx)

/-- The 16-byte prefix of a contribution's burst (R317). -/
def collPrefix (inst chunk cflags cstat ranks : Nat) : List Byte :=
  leBytes 4 inst ++ leBytes 2 chunk ++ leBytes 1 cflags ++ leBytes 1 cstat ++ leBytes 8 ranks

/-- Positions that a span query's descriptor names (R110). -/
def spanMask (desc : List Byte) : Nat := if bitOf (getLE desc 1 1) 1 then getLE desc 0x20 8 else 0

/-- The rank of a position among a mask's positions (R314). -/
def rankOf (mask pos : Nat) : Nat := ((bitsSet 64 mask).filter (· < pos)).length

/-- The contributors of a query merge: the positions of the span but the entry node's (R312). -/
def mergeMask (desc : List Byte) (entry : Nat) : Nat := ofBits ((bitsSet 64 (spanMask desc)).filter (· != entry))

/-- The CSTAT of work that ends without data (R317). -/
def cstatOf (status : Nat) : Nat := if status = stCtxLost then 2 else if status = stEpochExpired then 3 else 1

/-- A forwarded query that ends without data tells its entry node so (R317). -/
def tellEntry (s : State) (q : Query) (status : Nat) : State :=
  match q.entry with
  | none => s
  | some (pos, ctx) =>
    if status < 0x100 then s
    else
      let ranks := 2 ^ rankOf (mergeMask q.desc (shardOf s pos)) (ownShard s)
      sendPkt s { kind := kPlist, dst := pos, src := s.fab.node, part := q.part, rcls := 1, len := 16, addr := pos * 2 ^ 52,
                  aux := 0xFFFF, payload := collPrefix ctx 0 2 (cstatOf status) ranks }

/-- A query ends on this node: its context slot is free again, its walk stops, its invocation and its merge go with it. The
status goes to the command on the entry node, whose VALUE is the bound epoch (R377). -/
def endQuery (s : State) (qid : Nat) (e : Ending) (nd : Bool := false) : State :=
  match tget? s.work.queries qid with
  | none => s
  | some q =>
    let s1 := { s with work.queries := terase s.work.queries qid }
    let s2 := match q.ctx with
      | some k => { s1 with epo.ctxUsed := terase s1.epo.ctxUsed k }
      | none => s1
    let s3 := match q.at_ with
      | some (c, k) => dropWalk s2 c k
      | none => s2
    let s4 := match q.inv with
      | some i => dropModelUser { s3 with work.invs := terase s3.work.invs i } i
      | none => s3
    let s5 := { s4 with
      fab.colls := tfilter s4.fab.colls fun _ c => c.qid != some qid
      work.kne := tfilter s4.work.kne fun _ m => m.qid != some qid
      work.kneWait := s4.work.kneWait.filter fun m => m.qid != some qid }
    endCmd? (tellEntry s5 q (endStatus e)) q.cid (endStatus e) (endAux e) (q.epoch.getD 0) nd

/-- Ends an invocation or the query it serves. -/
def endWork (s : State) (i : Nat) (e : Ending) : State :=
  match tget? s.work.invs i with
  | none => s
  | some v =>
    match v.qid with
    | some q => endQuery s q e
    | none => endInv s i e

/-- A unit has finished the invocation at position `k` of its cluster's input: it has taken a later one, or it is back at NEXT
or halted. An empty list takes part in none. -/
def unitPast (x : Cluster) (u k : Nat) : Bool :=
  let y := x.unit u
  (x.list u).isEmpty || decide (k + 1 < y.taken) || (decide (k < y.taken) && y.inv.isNone) || y.halted

/-- The query of an invocation has handed its own list to its merge and waits for the others (R153). -/
def listGiven (s : State) (v : Inv) : Bool :=
  match v.qid.bind (tget? s.work.queries) with
  | none => false
  | some q =>
    match q.merge with
    | none => false
    | some key => match tget? s.fab.colls key with
      | some m => m.own.isSome
      | none => true

/-- Invocations that every unit of a cluster has finished leave it; one that no cluster works on any more has run to its end
(R83): it completes with OK. A query without a result ends OK_SHORT. -/
def checkDone (s : State) (c : Nat) : State :=
  let x := s.cl c
  let done := (List.range x.input.length).filter fun k => (List.range 4).all fun u => unitPast x u k
  done.foldl (fun t k =>
    match x.input[k]? with
    | none => t
    | some i =>
      match tget? t.work.invs i with
      | none => t
      | some v =>
        let left := v.left.filter (· != c)
        if v.left.contains c && left.isEmpty then
          if listGiven t v then dropModelUser { t with work.invs := terase t.work.invs i } i
          else endWork t i (if v.qid.isSome then stOkShort else stOk)
        else { t with work.invs := tput t.work.invs i { v with left := left } }) s

/-- The units of a cluster at their reset state. -/
def Cluster.clearUnits (x : Cluster) : Cluster :=
  { x with
    acc := [], accInt := true, tokens := [], actr := [], input := [], units := [], conv := [], draws := [], walks := [],
    seeds := [], prefs := [], recs := [], copies := [], partials := [], areas := [] }

/-- The state after R26's clearing: scratch, instruction store and unit registers zero. -/
def Cluster.cleared (x : Cluster) : Cluster := { x.clearUnits with istore := [], scratch := [] }

/-- A cluster of a plan takes its role: cleared first when it last served another partition, otherwise loaded at once (R26,
R90). -/
def takeRole (s : State) (c slot part role : Nat) : State :=
  let x := s.cl c
  let other := match x.served with
    | some p => p != part
    | none => false
  let y := { x.clearUnits with
    satCfg := 0x0000_0100_1000_0148, satEvt := 0, nonfin := 0, accsat := 0, satConv := [], satClip := []
    st := if other then .clearing else .loading, plan := some slot, part := part, role := role }
  let s1 := s.setCl c y
  if other then
    { s1 with pmc := { s1.pmc with
      csel := tfilter s1.pmc.csel fun k _ => k / 8 != c, cctr := tfilter s1.pmc.cctr fun k _ => k / 8 != c,
      cfix := tfilter s1.pmc.cfix fun k _ => k / 4 != c } }
  else s1

/-- The instruction lists of the role a cluster holds. -/
def roleLists (s : State) (slot role : Nat) : List (List Nat) :=
  match (tgetD s.work.plans slot {}).bin.roles.find? fun r => r.role = role with
  | some r => r.lists
  | none => []

/-- A cluster's role has been loaded: it accepts work (R33, R90). -/
def roleLoaded (s : State) (c : Nat) : State :=
  let x := s.cl c
  match x.plan with
  | none => s
  | some slot =>
    s.setCl c { x with st := .running, served := some x.part, istore := roleLists s slot x.role }

/-- The spare of a region that takes over, lowest number first (R33). -/
def spareOf (s : State) (r : Nat) : Option Nat :=
  (List.range 17).findSome? fun i =>
    if tget? s.work.phys (r * 17 + i) == some PhysState.spare then some (r * 17 + i) else none

/-- Everything in flight on a cluster ends with FENCED, and answers still to come for it are dropped (R32). -/
def endCluster (s : State) (c : Nat) : State :=
  let s1 := ((s.work.invs.filter fun kv => kv.2.left.contains c).map (·.1)).foldl (fun t i => endWork t i stFenced) s
  let s2 := ((s1.work.queries.filter fun kv => (kv.2.at_.map (·.1)) == some c).map (·.1)).foldl
    (fun t q => endQuery t q stFenced) s1
  let mine (m : Merge) : Bool := (m.cluster.map (·.1)) == some c
  let ends (q : Tab NbOp) : Tab NbOp := tmap (tfilter q fun _ o => o.cluster != c || o.started) fun _ o =>
    if o.cluster == c then { o with gone := true } else o
  { s2 with
    epo := { s2.epo with updates := tmap s2.epo.updates fun _ u => if u.by_ == some c then { u with by_ := none } else u }
    work := { s2.work with
      nbs := tmap s2.work.nbs fun _ n => { n with queue := ends n.queue }
      kne := tfilter s2.work.kne fun _ m => !mine m
      kneWait := s2.work.kneWait.filter fun m => !mine m }
    fab := { s2.fab with
      reqs := tmap s2.fab.reqs fun _ r =>
        let own := match r.for_ with
          | .vatom k _ _ => k == c
          | .store k => k == c
          | .copy k _ => k == c
          | .inval k => k == c
          | _ => false
        if own then { r with for_ := .fenced (c / 16) } else r } }

/-- A plan slot stops taking invocations and waits for its release (R91). -/
def startUnload (s : State) (slot : Nat) : State :=
  { s with work.plans := tupd s.work.plans slot fun p =>
      if p.state = .admitted then { p with state := .unloading } else p }

/-- A logical number becomes unavailable: it leaves every role's set; a role whose set is empty ends, and its plan is
unloaded (R34). -/
def loseNumber (s : State) (c : Nat) : State :=
  let x := s.cl c
  let s1 := s.setCl c { x.cleared with st := .unavailable, phys := 0xFF, plan := none, role := 0, part := 0 }
  match x.plan with
  | none => s1
  | some slot =>
    let without (r : RoleEnt) : RoleEnt := { r with clusters := r.clusters.filter (· != c) }
    let s2 : State := { s1 with work.plans := tupd s1.work.plans slot fun p =>
      { p with bin := { p.bin with roles := p.bin.roles.map without } } }
    let empty := (tgetD s2.work.plans slot {}).bin.roles.any fun r => r.clusters.isEmpty
    if empty then
      let ends := (s2.work.invs.filter fun kv => kv.2.plan = slot && kv.2.role = x.role).map (·.1)
      startUnload (ends.foldl (fun t i => endWork t i stFenced) s2) slot
    else s2

/-- The takeover of a fenced cluster's logical number (R33, R34). -/
def takeOver (s : State) (c : Nat) : State :=
  let x := s.cl c
  match spareOf s (c / 16) with
  | none => loseNumber s c
  | some p =>
    { s with work := { s.work with
      phys := tput s.work.phys p .active
      clusters := tput s.work.clusters c { x.cleared with
        phys := p, st := if x.plan.isSome then .loading else .idle, served := x.plan.map fun _ => x.part } } }

/-- Fences a physical cluster (R32): FENCED for the rest of the run, noted for the next start; when it serves a logical
number, everything in flight on it ends and the number is taken over. -/
def fencePhys (s : State) (p : Nat) : State :=
  match tget? s.work.phys p with
  | some .active | some .spare =>
    let r := p / 17
    let s1 := { s with work := { s.work with
      phys := tput s.work.phys p .fenced
      fenceHist := tmod s.work.fenceHist r 0 fun h => if bitOf h (p % 17) then h else h + 2 ^ (p % 17) } }
    match tfind? s.work.clusters fun c x => c / 16 = r && x.phys = p && x.st != .unavailable with
    | some (c, _) => takeOver (endCluster s1 c) c
    | none => s1
  | _ => s

/-- A logical cluster is fenced for a detection of FENCE severity (R24, R32, R393). -/
def fenceFor (s : State) (c det loc : Nat) (inj : Bool) : State :=
  let x := s.cl c
  if tget? s.work.phys x.phys == some PhysState.active && x.st != .unavailable then
    detect (fencePhys s x.phys) det sevFence actFenced (if x.plan.isSome then x.part else 0xFF) loc stFenced 0 inj
  else s

/-- An instruction fetch, and the unit's own logic, meet detectors 0x01 (instruction store) and 0x09 (R394). The answer is
the state with the cluster fenced, when one fires uncorrectably. -/
def fetchChecks (s : State) (c u : Nat) : Bool × State :=
  if s.err.inj.isEmpty then (false, s)
  else
    let pc := ((s.cl c).unit u).pc
    let base := sumOf (((s.cl c).istore.take u).map (·.length))
    let hit (t : Nat) : Bool := bitsOf t 6 0 == c && bitsOf t 11 7 == 31 && bitsOf t 22 12 == base + pc
    let t1 := (tgetD s.err.inj 1 {}).target
    match injHit s 1 hit with
    | (some true, s1) => (true, fenceFor s1 c 1 t1 true)
    | (some false, s1) => (false, detect s1 1 sevCorr actCounted (s.cl c).part t1 0 0 true)
    | (none, _) =>
      match injHit s 9 (fun t => bitsOf t 6 0 == c) with
      | (some _, s1) => (true, fenceFor s1 c 9 c true)
      | (none, _) => (false, s)

/-- A unit of a running cluster issues the word it stands at, under opcode `op` (R23, R80, R84): the unit waits for nothing,
the tokens it names are there and are taken. A word with a foreign unit field is not executed and faults to the cluster. `f`
answers `none` where the word cannot go on yet; nothing then happens. -/
def issue (s : State) (c u op : Nat) (f : Nat → State → Option State) : State :=
  let x := s.cl c
  let y := x.unit u
  match x.word u with
  | none => s
  | some w =>
    if !(x.st == .running || x.st == .draining) || y.halted || y.wait != .none then s
    else
      match fetchChecks s c u with
      | (true, s1) => s1
      | (false, s1) =>
        if wUnit w ≠ u then fenceFor s1 c 1 (c + 31 * 2 ^ 7) false
        else if wOp w ≠ op || !tokensReady x.tokens (wWaitt w) then s
        else
          match f w (s1.setCl c { s1.cl c with tokens := takeTokens x.tokens (wWaitt w) }) with
          | some s2 => s2
          | none => s

/-- A word that completes at once. -/
def issueNow (s : State) (c u op : Nat) (f : Nat → State → Option State) : State :=
  issue s c u op fun w t => (f w t).map fun t2 => retire t2 c u

/-- The plan a cluster runs, its constants and its partition. -/
def clPlan (s : State) (c : Nat) : Plan :=
  match (s.cl c).plan with
  | some i => tgetD s.work.plans i {}
  | none => {}
def clConst (s : State) (c k : Nat) : List Byte := (clPlan s c).bin.consts.getD k []
/-- A run of constants. -/
def clConsts (s : State) (c k n : Nat) : List Byte := (List.range n).flatMap fun i => slice (clConst s c (k + i)) 0 16
/-- An invocation word of a unit. -/
def invWord (s : State) (c u i : Nat) : Nat := ((s.cl c).unit u).words.getD i 0

/-- Scratch, by byte address: granule × 32 (R79). -/
def scr (x : Cluster) (a : Nat) : Byte := tgetD x.scratch (a % 2097152) 0
def scrRead (x : Cluster) (a n : Nat) : List Byte := (List.range n).map fun i => scr x (a + i)
/-- Stores bytes in scratch; a zero byte is not listed. -/
def scrPut (t : Tab Byte) (a : Nat) (b : Byte) : Tab Byte :=
  if b = 0 then terase t (a % 2097152) else tput t (a % 2097152) b
def scrWriteT (t : Tab Byte) : Nat → List Byte → Tab Byte
  | _, [] => t
  | a, b :: bs => scrWriteT (scrPut t a b) (a + 1) bs
def scrWrite (s : State) (c a : Nat) (bs : List Byte) : State :=
  let x := s.cl c
  s.setCl c { x with scratch := scrWriteT x.scratch a bs }

/-- A result tile that is no longer pinned is a tile like any other; it keeps what its view showed. -/
def settleResult (s : State) (t : Nat) : State :=
  match resTile? s t with
  | none => s
  | some r =>
    let clean := mclear s.tier.mem (t * tileBytes) tileBytes
    { s with work.resTiles := terase s.work.resTiles t, tier.mem := mwriteN clean (t * tileBytes) (r.view.take 32768) }

/-- One pin less; a tile without pins is HOME again, unless it is sealed (R206). -/
def unpin (s : State) (t : Nat) : State :=
  let n := tgetD s.tier.pins t 0
  if n ≤ 1 then
    let h := s.home t
    let s1 := settleResult { s with tier.pins := terase s.tier.pins t } t
    if h.st == .pinned && (sealedBy s t).isNone then s1.setHome t { h with st := .home } else s1
  else { s with tier.pins := tput s.tier.pins t (n - 1) }

/-- Releases a plan slot (R91): its clusters are idle, its pins, contexts, model slots and descriptors are free, and the
unloads that waited complete. -/
def releasePlan (s : State) (slot : Nat) : State :=
  match tget? s.work.plans slot with
  | none => s
  | some p =>
    let holds (x : Plan) (id : Nat) : Bool := x.bin.models.any fun e => e.id = id && e.prio = 255
    let s1 := p.pins.foldl (fun t kv => unpin t kv.1) s
    let freed := p.pins.filterMap fun kv => kv.2
    let s2 := { s1 with
      tier := { s1.tier with frames := tfilter s1.tier.frames fun k f =>
        !(freed.contains k && (s1.home f.tile).loc != stackLoc k && (tget? s1.tier.moves f.tile).isNone) }
      epo := { s1.epo with ctxOwner := tfilter s1.epo.ctxOwner fun _ o => o != slot }
      fab := { s1.fab with descs := tfilter s1.fab.descs fun _ d => d.1 != slot
                           colls := tfilter s1.fab.colls fun _ c => (c.desc.map (·.1)) != some slot }
      work := { s1.work with
        plans := terase s1.work.plans slot
        clusters := tmap s1.work.clusters fun _ x =>
          if x.plan == some slot then { x.clearUnits with st := .idle, plan := none, role := 0, istore := [] } else x
        models := tfilter s1.work.models fun _ m =>
          !(m.prio = 255 && m.part = p.part && holds p m.id) ||
            s1.work.plans.any fun kv => kv.1 != slot && kv.2.part = m.part && !kv.2.sigWait && holds kv.2 m.id } }
    p.unloadCids.foldl (fun t cid => endCmd t cid stOk) s2

/-- Refuses an unload whose plan load failed (R91). -/
def dropPlan (s : State) (slot : Nat) : State :=
  match tget? s.work.plans slot with
  | none => s
  | some p =>
    let cids := p.unloadCids
    let s1 := releasePlan { s with work.plans := tput s.work.plans slot { p with unloadCids := [] } } slot
    cids.foldl (fun t cid => refuse t cid rsName) s1

/-- An update that ends before its append is complete applies nothing (R19): its slot, its context and its places in the change
record are free again, and its record is void. -/
def dropUpdate (s : State) (u : Update) : State :=
  let s1 := match u.ctx with
    | some k => { s with epo.ctxUsed := terase s.epo.ctxUsed k }
    | none => s
  if u.owner.isSome then s1
  else
    let n := if u.lrec.kind = 3 then 2 else 1
    let s2 := { s1 with epo := { s1.epo with
      changes := tupd s1.epo.changes u.lrec.epoch fun x => x - n
      log := s1.epo.log.map fun r => if r.1.seq = u.lrec.seq && u.lrec.seq ≠ 0 then ({ r.1 with void := true }, r.2) else r } }
    match u.slot with
    | none => s2
    | some k => { s2 with work.indexes := tupd s2.work.indexes u.lrec.index fun x =>
        { x with used := terase x.used k, ins := terase x.ins k } }

/-- Every operation in flight ends with FENCED, writing no result (R398, R401, R405, R434): commands, invocations, queries,
merges and near-bank operations; the units of every cluster go back to word 0 of their lists. Updates whose append is
complete, and plans and registrations, stay. -/
def endAllWork (s : State) : State :=
  let s1 := (s.work.plans.filter fun kv => kv.2.state == .loading).foldl (fun t kv => releasePlan t kv.1) s
  let s2 := (s1.host.cmds.map (·.1)).foldl (fun t cid => endCmd t cid stFenced) s1
  let s3 := (s2.work.queries.map (·.1)).foldl (fun t q => endQuery t q stFenced) s2
  let stays (u : Update) : Bool := u.st == .committed || u.st == .prepared || u.st == .published || u.st == .linked
  let s4 := (s3.epo.updates.filter fun kv => !stays kv.2).foldl (fun t kv => dropUpdate t kv.2) s3
  { s4 with
    epo := { s4.epo with updates := (s4.epo.updates.filter fun kv => stays kv.2).map fun kv =>
      (kv.1, { kv.2 with by_ := none }) }
    fab := { s4.fab with reqs := [], flagWait := [], relays := [], colls := [] }
    work := { s4.work with
      invs := [], kne := [], kneWait := []
      nbs := tmap s4.work.nbs fun _ n => { n with queue := [] }
      plans := tmap s4.work.plans fun _ p => { p with unloadCids := [] }
      clusters := tmap s4.work.clusters fun _ x => x.clearUnits } }

end Sys2Proof.Machine
end

