-- ==== Sys2Proof/Machine/FlashOps.lean ====
section
/-!
DEFINITION. Flash translation and media: the map, open blocks, programs, moves, die queues, retirement (R342 to R358).
-/
namespace Sys2Proof.Machine

def unitBytes : Nat := 32768
def cwBytes : Nat := 4096

def State.die (s : State) (d : Nat) : Die := tgetD s.flash.dies d {}
def State.setDie (s : State) (d : Nat) (x : Die) : State := { s with flash.dies := tput s.flash.dies d x }
def State.mapOf (s : State) (u : Nat) : MapEnt := tgetD s.flash.map_ u {}
def Die.block (x : Die) (b : Nat) : Block := tgetD x.blk b {}

/-- Sets a bit of FLS_ERR (R366). -/
def flErr (s : State) (p bit : Nat) : State := { s with flash.err := orErr s.flash.err p bit }

/-- The interval lies in the partition's FLS_PRANGE and in the logical space (R345). -/
def inFlRange (s : State) (p addr len : Nat) : Bool :=
  let w := tgetD s.flash.prange p 0
  decide (fld w 27 0 * 2 ^ 20 ≤ addr) && decide (addr + len ≤ (fld w 27 0 + fld w 59 32) * 2 ^ 20) &&
    decide (addr + len ≤ fld s.flash.lcap 32 0 * unitBytes)

/-- The partition whose flash range holds an address, for marks of units that are lost. -/
def flOwners (s : State) (u : Nat) : List Nat :=
  (s.flash.prange.filter fun kv => inFlRange s kv.1 (u * unitBytes) unitBytes).map (·.1)

/-- A codeword reads as discarded (R352). -/
def cwDiscarded (s : State) (cw : Nat) : Bool :=
  (s.mapOf (cw / 8)).st == .discarded || (tget? s.flash.disc cw).isSome

/-- What a read of the logical space brings (R378): the bytes, with discarded, unmapped and uncorrectable codewords as zeros;
whether one was uncorrectable; whether one was discarded. -/
def flashData (s : State) (addr len : Nat) : List Byte × Bool × Bool :=
  let cws := (List.range (len / cwBytes)).map (addr / cwBytes + ·)
  let bytes := cws.flatMap fun w =>
    if (tget? s.flash.pois w).isSome || cwDiscarded s w then List.replicate cwBytes 0
    else mreadN s.flash.mem (w * cwBytes) cwBytes
  (bytes, cws.any fun w => (tget? s.flash.pois w).isSome, cws.any (cwDiscarded s))

/-- Blocks of a die in service, and those that are free: erased, not open and not retired. -/
def liveBlocks (x : Die) : Nat := x.blocks - (x.blk.filter fun b => b.2.retired).length
def freeBlock (x : Die) (b : Nat) : Bool :=
  let k := x.block b
  k.used = 0 && !k.closed && !k.retired && x.open_ != some b
def freeBlocks (x : Die) : Nat :=
  x.blocks - (x.blk.filter fun b => !freeBlock x b.1).length -
    (match x.open_ with
      | some b => if (tget? x.blk b).isSome then 0 else 1
      | none => 0)

/-- Opens a free block of a die, lowest erase count first (R347, R354). -/
def openBlock (x : Die) : Die :=
  match x.open_ with
  | some _ => x
  | none =>
    let fresh := leastFrom (fun b => freeBlock x b && (tget? x.blk b).isNone) (x.blk.length + 1) 0
    let cands := (x.blk.filter fun b => freeBlock x b.1).map (·.1) ++
      (match fresh with
        | some b => if b < x.blocks then [b] else []
        | none => [])
    { x with open_ := leastBy (fun a b => decide ((x.block a).ec < (x.block b).ec) ||
        ((x.block a).ec == (x.block b).ec && decide (a < b))) cands }

/-- The seconds value of R353: that of the latest PPS target and the seconds since; without a target the counter's own. -/
def wallSec (s : State) : Nat :=
  match s.pkg.tim.target, s.pkg.tim.lastEdge with
  | some t, some e => t / 1000000000 + (s.now - e) / 1000000000
  | _, _ => s.now / 1000000000

/-- The next page of a write stream (R347): channels in rotation, and on a channel the in-service die with the lowest erase
count of its open block. -/
def allocUnit (s : State) : Option (PhysUnit × State) :=
  let open1 : State := { s with flash.dies := tmap s.flash.dies fun _ (x : Die) => if x.st == .inService then openBlock x else x }
  let onCh (ch : Nat) : List (Nat × Die) :=
    open1.flash.dies.filter fun (kv : Nat × Die) => kv.1 / 32 = ch && kv.2.st == .inService && kv.2.open_.isSome
  let ec (kv : Nat × Die) : Nat := match kv.2.open_ with
    | some b => (kv.2.block b).ec
    | none => 0
  match (List.range 32).findSome? fun i =>
      let ch := (s.flash.rotor + i) % 32
      (leastBy (fun a b => decide (ec a < ec b)) (onCh ch)).map fun kv => (ch, kv) with
  | none => none
  | some (ch, d, x) =>
    match x.open_ with
    | none => none
    | some b =>
      let k := x.block b
      let full := decide (x.pages ≤ k.used + 1)
      let k1 := { k with used := k.used + 1, closed := full, closeS := if full then wallSec s else k.closeS }
      some (⟨d, b, k.used⟩,
        { open1 with flash := { open1.flash with
          rotor := (ch + 1) % 32
          dies := tput open1.flash.dies d { x with
            blk := tput x.blk b k1, open_ := if full then none else some b } } })

/-- A logical unit has a program of a write outstanding. -/
def unitBusy (s : State) (u : Nat) : Bool :=
  s.flash.dies.any fun kv =>
    let is (r : DieReq) : Bool := match r.work with
      | .program v _ _ _ (.write _) _ => v == u
      | _ => false
    kv.2.queue.any is || kv.2.paused.any is ||
      (match kv.2.op with
        | some r => is r
        | none => false)

/-- Whether a class has its share of the die's busy time in this window (R342). -/
def owed (busy all share : Nat) : Bool := decide (busy * 256 < share * all)

/-- The request a die serves next (R342): a class whose share is owed, else the lowest class; within class 0 the earliest
deadline, otherwise arrival order. -/
def pickReq (s : State) (x : Die) : Option DieReq :=
  let has (c : Nat) := x.queue.any fun r => r.cls = c
  let c :=
    if has 2 && owed x.busy2 x.busyAll (fld s.flash.sched 15 8) then 2
    else if has 3 && owed x.busy3 x.busyAll (fld s.flash.sched 7 0) then 3
    else minD 4 (x.queue.map (·.cls))
  let key (r : DieReq) : Nat := if c = 0 then r.deadline.getD 0 else 0
  leastBy (fun a b => decide (key a < key b)) (x.queue.filter fun r => r.cls = c)

/-- Gives the die its next operation, when it has none: a suspended one first (R343), then the queue's choice. -/
def serveDie (s : State) (d : Nat) : State :=
  let x := s.die d
  let w := s.now / 1000000
  let x1 := if x.win = w then x else { x with win := w, busyAll := 0, busy2 := 0, busy3 := 0 }
  if x1.op.isSome || x1.st == .absent then s
  else
    match x1.paused with
    | r :: rs => s.setDie d { x1 with op := some { r with issued := s.now }, paused := rs }
    | [] =>
      match pickReq s x1 with
      | none => s.setDie d x1
      | some r =>
        s.setDie d { x1 with op := some { r with issued := s.now }, queue := x1.queue.filter fun q => q.id != r.id }

/-- A class-0 read suspends a program or erase that would end after its deadline (R343). -/
def trySuspend (s : State) (d : Nat) (r : DieReq) : Option State :=
  let x := s.die d
  match x.op, r.deadline with
  | some o, some dl =>
    let stop := match o.work with
      | .read .. => none
      | .program .. => some (o.issued + x.tprog)
      | .erase _ => some (o.issued + x.tbers)
    match stop with
    | none => none
    | some e =>
      if r.cls = 0 && x.suspend && decide (dl < e) && decide (o.susp < fld s.flash.sched 19 16) then
        some (countNode (s.setDie d { x with
          op := some { r with issued := s.now }, paused := { o with susp := o.susp + 1 } :: x.paused })
          Ev.flsSuspend (d / 32))
      else none
  | _, _ => none

/-- A request enters its die's queue; an idle die with nothing waiting starts it (R342, R343). -/
def enqueue (s : State) (d : Nat) (r : DieReq) : State :=
  let s0 := { s with flash.nextReq := s.flash.nextReq + 1 }
  let r1 := { r with id := s.flash.nextReq, t := s.now }
  match trySuspend s0 d r1 with
  | some s1 => s1
  | none =>
    let x := s0.die d
    let idle := x.op.isNone && x.queue.isEmpty && x.paused.isEmpty
    let s1 := s0.setDie d { x with queue := x.queue ++ [r1] }
    if idle then serveDie s1 d else s1

/-- A program of a logical unit (R347, R350): bytes to lay over it and marks to set. It waits where its unit has a write
outstanding or no block is open; moves leave the unit as it is. -/
def progUnit (s : State) (u part cls : Nat) (parts : List (Nat × List Byte)) (disc : List Nat) (for_ : ProgFor) : State :=
  let wait := { s with flash.waiting := s.flash.waiting ++ [⟨u, part, parts, disc, for_⟩] }
  let isWrite := match for_ with
    | .write _ => true
    | _ => false
  if isWrite && unitBusy s u then wait
  else
    match allocUnit s with
    | none => wait
    | some (pu, s1) =>
      enqueue s1 pu.die
        { id := 0, cls := cls, part := part, t := 0, work := .program u parts disc pu for_ (s.mapOf u) }

/-- Tries the programs that wait, in order. -/
def retryWaiting (s : State) : State :=
  s.flash.waiting.foldl (fun t w =>
    let cls := match w.for_ with
      | .write _ => 2
      | _ => 3
    progUnit t w.unit w.part cls w.parts w.disc w.for_) { s with flash.waiting := [] }

/-- The bytes of a program become those of its unit (R348, R352): a byte written clears its codeword's DISC mark, a codeword
written whole is no longer poisoned, a codeword discarded reads zeros. The rest of a DISCARDED unit stays discarded. -/
def layUnit (s : State) (u : Nat) (parts : List (Nat × List Byte)) (disc : List Nat) : State :=
  let base := u * unitBytes
  let cw0 := u * 8
  let f := s.flash
  let rest := if (s.mapOf u).st == .discarded then (List.range 8).foldl (fun t i => tput t (cw0 + i) true) f.disc else f.disc
  let f1 := parts.foldl (fun g w =>
    let a := base + w.1
    let n := w.2.length
    { g with
      mem := mwriteN g.mem a w.2
      disc := tfilter g.disc fun k _ => !(decide (a < (k + 1) * cwBytes) && decide (k * cwBytes < a + n))
      pois := tfilter g.pois fun k _ => !(decide (a ≤ k * cwBytes) && decide ((k + 1) * cwBytes ≤ a + n)) })
    { f with disc := rest }
  let f2 := disc.foldl (fun g i => { g with
    mem := mclear g.mem ((cw0 + i) * cwBytes) cwBytes, disc := tput g.disc (cw0 + i) true
    pois := terase g.pois (cw0 + i) }) f1
  { s with flash := f2 }

/-- Sets a map entry; UNMAPPED entries are not listed. -/
def setMap (s : State) (u : Nat) (e : MapEnt) : State :=
  { s with flash.map_ := if e = {} then terase s.flash.map_ u else tput s.flash.map_ u e }

/-- Writes of the node itself (tier moves, the log, checkpoints): their programs are taken as done when the command that needs
them comes about. -/
def flashStore (s : State) (addr : Nat) (bs : List Byte) : State :=
  let units := (List.range ((addr % unitBytes + bs.length + unitBytes - 1) / unitBytes)).map (addr / unitBytes + ·)
  if bs.isEmpty then s
  else
    units.foldl (fun t u =>
      let lo := max addr (u * unitBytes)
      let hi := min (addr + bs.length) ((u + 1) * unitBytes)
      let part := (bs.drop (lo - addr)).take (hi - lo)
      let (pu, t1) := match allocUnit t with
        | some x => x
        | none => ((t.mapOf u).at_, t)
      let t2 := layUnit t1 u [(lo - u * unitBytes, part)] []
      countNode (setMap { t2 with flash.wseq := t2.flash.wseq + 1 } u ⟨.mapped, pu⟩) Ev.flsProg (pu.die / 32)) s

/-- Mapped units of a block, and of a die. -/
def unitsOfBlock (s : State) (d b : Nat) : List Nat :=
  (s.flash.map_.filter fun kv => kv.2.st == .mapped && kv.2.at_.die = d && kv.2.at_.block = b).map (·.1)
def unitsOfDie (s : State) (d : Nat) : List Nat :=
  (s.flash.map_.filter fun kv => kv.2.st == .mapped && kv.2.at_.die = d).map (·.1)

/-- Moves units elsewhere (R350). -/
def moveUnits (s : State) (us : List Nat) (cls : Nat) (for_ : ProgFor) : State :=
  us.foldl (fun t u => progUnit t u (ownerPart t) cls [] [] for_) s

/-- Every in-service block can hold the mapped units and `extra` more with 2 % of the blocks free (R356). -/
def spaceFor (s : State) (extra : Nat) : Bool :=
  let pages := sumOf (s.flash.dies.map fun kv => if kv.2.st == .inService then liveBlocks kv.2 * kv.2.pages else 0)
  let mapped := (s.flash.map_.filter fun kv => kv.2.st == .mapped).length
  decide ((mapped + extra) * 100 ≤ pages * 98)

/-- A die that leaves service with nothing left on it is RETIRED (R356). -/
def settleDie (s : State) (d : Nat) : State :=
  let x := s.die d
  if x.st == .retiring && (unitsOfDie s d).isEmpty then s.setDie d { x with st := .retired } else s

/-- Retires a die (R356): it takes no more programs and its units move. -/
def retireDie (s : State) (d : Nat) : State :=
  let x := s.die d
  if x.st != .inService then s
  else
    let s1 := countNode (s.setDie d { x with st := .retiring, open_ := none }) Ev.flsDieRet
    settleDie (moveUnits s1 (unitsOfDie s1 d) 3 .retire) d

/-- Retires a block (R355): its readable units move, and a die with too many retired blocks goes with it (R356). -/
def retireBlock (s : State) (d b : Nat) : State :=
  let x := s.die d
  let k := x.block b
  if k.retired then s
  else
    let x1 := { x with
      blk := tput x.blk b { k with retired := true }, retBlk := x.retBlk + 1
      open_ := if x.open_ = some b then none else x.open_, emptying := x.emptying.filter (· != b) }
    let s1 := countNode (s.setDie d x1) Ev.flsBlkRet
    let s2 := moveUnits s1 (unitsOfBlock s1 d b) 3 .retire
    if x1.retBlk * 1000 > fld s.flash.cfg 31 24 * x1.blocks then retireDie s2 d else s2

/-- Blocks that have lost their last mapped unit are erased, in class 3 (R349, R350). -/
def eraseEmpty (s : State) (d : Nat) : State :=
  let x := s.die d
  match x.emptying.find? fun b => (unitsOfBlock s d b).isEmpty with
  | none => s
  | some b =>
    enqueue (s.setDie d { x with emptying := x.emptying.filter (· != b) }) d
      { id := 0, cls := 3, part := ownerPart s, t := 0, work := .erase b }

/-- Garbage collection of a die (R349): below 2 % free the closed block with the fewest mapped units, the older on equal
counts, is emptied; below 0.5 % its moves run in class 2. -/
def gcDie (s : State) (d : Nat) : State :=
  let x := s.die d
  let free := freeBlocks x
  let live := liveBlocks x
  if x.st != .inService || live ≤ free * 50 || !x.emptying.isEmpty then s
  else
    let cands := x.blk.filter fun b => b.2.closed && !b.2.retired
    let n (b : Nat) := (unitsOfBlock s d b).length
    match leastBy (fun a b => decide (n a.1 < n b.1) || (n a.1 == n b.1 && decide (a.2.closeS < b.2.closeS))) cands with
    | none => s
    | some (b, _) =>
      let s1 := s.setDie d { x with emptying := [b] }
      eraseEmpty (moveUnits s1 (unitsOfBlock s1 d b) (if free * 200 < live then 2 else 3) .gc) d

/-- Highest and lowest erase count of in-service blocks (R354, R362). -/
def wearOf (s : State) : Nat × Nat :=
  let cs := s.flash.dies.flatMap fun kv =>
    if kv.2.st == .inService then
      (if kv.2.blk.length < kv.2.blocks then [0] else []) ++
        (kv.2.blk.filterMap fun b => if b.2.retired then none else some b.2.ec)
    else []
  (cs.foldl Nat.max 0, minD 0 cs)

/-- Wear levelling (R354): past the spread limit the lowest-count closed block is emptied. -/
def wearLevel (s : State) : State :=
  let (hi, lo) := wearOf s
  if hi - lo ≤ fld s.flash.cfg 47 32 then s
  else
    let cands := s.flash.dies.flatMap fun kv =>
      if kv.2.st == .inService then
        (kv.2.blk.filter fun b => b.2.closed && !b.2.retired && !kv.2.emptying.contains b.1).map fun b => (kv.1, b.1, b.2.ec)
      else []
    match leastBy (fun a b => decide (a.2.2 < b.2.2)) cands with
    | none => s
    | some (d, b, _) =>
      let x := s.die d
      let s1 := s.setDie d { x with emptying := x.emptying ++ [b] }
      eraseEmpty (moveUnits s1 (unitsOfBlock s1 d b) 3 .wear) d

/-- One codeword read for a job: a mapped unit's goes to its die, any other is answered from the map (R352). -/
def readCodeword (s : State) (cw part cls : Nat) (deadline : Option Nat) (for_ : ReadFor) : Bool × State :=
  let e := s.mapOf (cw / 8)
  if e.st != .mapped || (s.die e.at_.die).st == .absent then (false, s)
  else
    (true, enqueue s e.at_.die
      { id := 0, cls := cls, part := part, t := 0, deadline := deadline, work := .read (cw / 8) (cw % 8) for_ })

/-- Key of a job in `FlashSt.jobs`: a command's or a rerank read's. -/
def jobKey (f : ReadFor) : Nat :=
  match f with
  | .cmd cid => cid * 3
  | .rerank c ctx slot => ((c * 64 + ctx) * 2 ^ 32 + slot) * 3 + 1
  | .patrol => 2

/-- Issues the reads of a run of codewords for one user; the answer is how many wait at dies. -/
def readRun (s : State) (cw n part cls : Nat) (deadline : Option Nat) (for_ : ReadFor) : Nat × State :=
  (List.range n).foldl (fun (acc : Nat × State) i =>
    let (q, t) := readCodeword acc.2 (cw + i) part cls deadline for_
    (acc.1 + b2n q, t)) (0, s)

/-- Codewords of a run that lie in mapped units: those the FLASH regulator counts (R352, R389). -/
def mappedCws (s : State) (cw n : Nat) : Nat :=
  ((List.range n).filter fun i => (s.mapOf ((cw + i) / 8)).st == .mapped).length

/-- A die's operation has ended: its time is given to its class (R342). -/
def endDieOp (s : State) (d : Nat) : State :=
  let x := s.die d
  match x.op with
  | none => s
  | some r =>
    let n := s.now - r.issued
    s.setDie d { x with
      op := none, busyAll := x.busyAll + n
      busy2 := if r.cls = 2 then x.busy2 + n else x.busy2, busy3 := if r.cls = 3 then x.busy3 + n else x.busy3 }

end Sys2Proof.Machine
end

