-- ==== Sys2Proof/Machine/Num.lean ====
section
/-!
DEFINITION. Number formats, rounding, scale records and the rescale of chapter 3 (R49 to R67), and FP32 arithmetic
(R61). Finite values are exact fractions; every operation forms its exact result and rounds it once.
-/
namespace Sys2Proof.Machine

/-- A floating value: NaN, an infinity, or a finite fraction n / d with its sign (`d` is never 0). -/
inductive Fv where
  | nan
  | inf (neg : Bool)
  | fin (neg : Bool) (n d : Nat)
deriving DecidableEq, Repr

/-- The element formats by their four-bit code (R80's table). -/
inductive Fmt where
  | int4 | int8 | uint8 | e4m3 | e5m2 | fp16 | bf16 | fp32 | int32 | mxe4m3 | mxe5m2 | mxfp4 | mxint8 | pi8 | pi4 | pu8
deriving DecidableEq, Repr

/-- The format of a four-bit code. -/
def Fmt.ofCode (c : Nat) : Fmt :=
  match c with
  | 0 => .int4 | 1 => .int8 | 2 => .uint8 | 3 => .e4m3 | 4 => .e5m2 | 5 => .fp16 | 6 => .bf16 | 7 => .fp32
  | 8 => .int32 | 9 => .mxe4m3 | 10 => .mxe5m2 | 11 => .mxfp4 | 12 => .mxint8 | 13 => .pi8 | 14 => .pi4 | _ => .pu8

/-- Bits of an element (R49). -/
def Fmt.bits (f : Fmt) : Nat :=
  match f with
  | .int4 | .mxfp4 | .pi4 => 4
  | .int8 | .uint8 | .e4m3 | .e5m2 | .mxe4m3 | .mxe5m2 | .mxint8 | .pi8 | .pu8 => 8
  | .fp16 | .bf16 => 16
  | .fp32 | .int32 => 32

/-- An integer or proofed integer format: its products with another such format are integer products (R60). -/
def Fmt.isInt (f : Fmt) : Bool :=
  match f with
  | .int4 | .int8 | .uint8 | .pi8 | .pi4 | .pu8 | .int32 => true
  | _ => false

/-- A proofed integer format (R52). -/
def Fmt.isPi (f : Fmt) : Bool :=
  match f with
  | .pi8 | .pi4 | .pu8 => true
  | _ => false

/-- An MX format: elements share an E8M0 scale per block of 32 (R49). -/
def Fmt.isMx (f : Fmt) : Bool :=
  match f with
  | .mxe4m3 | .mxe5m2 | .mxfp4 | .mxint8 => true
  | _ => false

/-- A floating element layout: exponent bits, mantissa bits, bias, whether all-ones exponents hold infinity and NaN as
in IEEE 754, and whether the format has a NaN at all (R49). -/
structure Lay where
  eb : Nat
  mb : Nat
  bias : Nat
  ieee : Bool
  hasNan : Bool
deriving DecidableEq, Repr

def Lay.fp32 : Lay := ⟨8, 23, 127, true, true⟩
def Lay.fp16 : Lay := ⟨5, 10, 15, true, true⟩
def Lay.bf16 : Lay := ⟨8, 7, 127, true, true⟩
def Lay.e5m2 : Lay := ⟨5, 2, 15, true, true⟩
def Lay.e4m3 : Lay := ⟨4, 3, 7, false, true⟩
def Lay.e2m1 : Lay := ⟨2, 1, 1, false, false⟩

/-- The layout of a floating format; `none` for an integer format. -/
def Fmt.lay? (f : Fmt) : Option Lay :=
  match f with
  | .fp32 => some .fp32 | .fp16 => some .fp16 | .bf16 => some .bf16
  | .e4m3 | .mxe4m3 => some .e4m3 | .e5m2 | .mxe5m2 => some .e5m2 | .mxfp4 => some .e2m1
  | _ => none

/-- The canonical NaN of a layout (R61). -/
def Lay.nanBits (l : Lay) : Nat :=
  if l.ieee then (2 ^ l.eb - 1) * 2 ^ l.mb + 2 ^ (l.mb - 1) else 2 ^ (l.eb + l.mb) - 1

/-- The largest finite magnitude's bits. -/
def Lay.maxBits (l : Lay) : Nat :=
  if l.ieee then (2 ^ l.eb - 1) * 2 ^ l.mb - 1
  else if l.hasNan then 2 ^ (l.eb + l.mb) - 2 else 2 ^ (l.eb + l.mb) - 1

/-- The value n × 2^e as a fraction. -/
def Fv.scaled (neg : Bool) (n : Nat) (e : Int) : Fv :=
  if 0 ≤ e then .fin neg (n * 2 ^ e.toNat) 1 else .fin neg n (2 ^ (-e).toNat)

/-- The value of an element's bits (R49). -/
def Lay.decode (l : Lay) (b : Nat) : Fv :=
  let neg := bitOf b (l.eb + l.mb)
  let m := b % 2 ^ l.mb
  let e := b / 2 ^ l.mb % 2 ^ l.eb
  if l.ieee && e == 2 ^ l.eb - 1 then (if m == 0 then .inf neg else .nan)
  else if !l.ieee && l.hasNan && b % 2 ^ (l.eb + l.mb) == 2 ^ (l.eb + l.mb) - 1 then .nan
  else if e == 0 then .scaled neg m (1 - (l.bias : Int) - l.mb)
  else .scaled neg (2 ^ l.mb + m) ((e : Int) - l.bias - l.mb)

/-- The exponent e with 2^e ≤ n / d < 2^(e+1), for n > 0. -/
def floorLog2 (n d : Nat) : Int :=
  let e : Int := (Nat.log2 n : Int) - (Nat.log2 d : Int)
  let ge := if 0 ≤ e then decide (d * 2 ^ e.toNat ≤ n) else decide (d ≤ n * 2 ^ (-e).toNat)
  if ge then e else e - 1

/-- How a conversion rounds: to nearest, ties to even (R58), or stochastically with a 16-bit draw (R67). -/
inductive Rnd where
  | near
  | stoch (draw : Nat)
deriving DecidableEq, Repr

/-- The magnitude n / d rounded to a whole number. For a stochastic draw the neighbours a < b are taken in the order of
the real line, so a negative value's fraction is counted from its larger magnitude (R67). -/
def roundMag (r : Rnd) (neg : Bool) (n d : Nat) : Nat :=
  let q := n / d
  let rem := n % d
  match r with
  | .near => if 2 * rem > d || (2 * rem == d && q % 2 == 1) then q + 1 else q
  | .stoch x =>
    if rem == 0 then q
    else if neg then (if x < (d - rem) * 65536 / d then q else q + 1)
    else (if x < rem * 65536 / d then q + 1 else q)

/-- n / d × 2^s as a fraction. -/
def shiftFrac (n d : Nat) (s : Int) : Nat × Nat :=
  if 0 ≤ s then (n * 2 ^ s.toNat, d) else (n, d * 2 ^ (-s).toNat)

/-- The bits of the magnitude n / d in a layout, before any check for overflow: past the largest finite value they go on
counting. -/
def Lay.magBits (l : Lay) (r : Rnd) (neg : Bool) (n d : Nat) : Nat :=
  if n == 0 then 0
  else
    let emin : Int := 1 - (l.bias : Int)
    let e := max (floorLog2 n d) emin
    let f := shiftFrac n d ((l.mb : Int) - e)
    (e - emin).toNat * 2 ^ l.mb + roundMag r neg f.1 f.2

/-- The bits of a value in a layout, and whether it counts as clipped (R58, R59, R61). With `sat` a value beyond the
largest finite one, or infinite, saturates; otherwise it becomes infinity, or NaN where the layout has no infinity (R59
for finite values; the OCP conversion tables, which R49 names, for infinite ones). A NaN in E2M1, which has none, is free. -/
def Lay.encode (l : Lay) (r : Rnd) (sat : Bool) (v : Fv) : Nat × Bool :=
  let sgn (neg : Bool) := if neg then 2 ^ (l.eb + l.mb) else 0
  let tooBig (neg : Bool) :=
    if sat || !l.hasNan then (sgn neg + l.maxBits, true)
    else if l.ieee then (sgn neg + (2 ^ l.eb - 1) * 2 ^ l.mb, false)
    else (l.nanBits, false)
  match v with
  | .nan => if l.hasNan then (l.nanBits, false) else (Config.e2m1OfNan.toNat, false)
  | .inf neg => tooBig neg
  | .fin neg n d =>
    let m := l.magBits r neg n d
    if m ≤ l.maxBits then (sgn neg + m, false) else tooBig neg

/-- An FP32 number, by its bits. -/
abbrev F32 := Nat

/-- The value of an FP32 number. -/
def f32v (b : F32) : Fv := Lay.fp32.decode b
/-- The FP32 number nearest to a value, ties to even (R61). -/
def f32r (v : Fv) : F32 := (Lay.fp32.encode .near false v).1

def Fv.isNeg : Fv → Bool
  | .nan => false
  | .inf n => n
  | .fin n _ _ => n
def Fv.neg : Fv → Fv
  | .nan => .nan
  | .inf n => .inf (!n)
  | .fin n a d => .fin (!n) a d
def Fv.abs : Fv → Fv
  | .nan => .nan
  | .inf _ => .inf false
  | .fin _ a d => .fin false a d
def Fv.isZero : Fv → Bool
  | .fin _ n _ => n == 0
  | _ => false
def Fv.isFin : Fv → Bool
  | .fin .. => true
  | _ => false
def Fv.ofInt (x : Int) : Fv := .fin (decide (x < 0)) x.natAbs 1

/-- Exact sum; an exact zero sum of opposite signs is +0 (IEEE 754, to nearest). -/
def Fv.add (a b : Fv) : Fv :=
  match a, b with
  | .nan, _ => .nan
  | _, .nan => .nan
  | .inf x, .inf y => if x == y then .inf x else .nan
  | .inf x, _ => .inf x
  | _, .inf y => .inf y
  | .fin sa na da, .fin sb nb db =>
    let x := na * db
    let y := nb * da
    if sa == sb then .fin sa (x + y) (da * db)
    else if x == y then .fin false 0 1
    else if x > y then .fin sa (x - y) (da * db) else .fin sb (y - x) (da * db)

/-- Exact product. -/
def Fv.mul (a b : Fv) : Fv :=
  match a, b with
  | .nan, _ => .nan
  | _, .nan => .nan
  | .inf x, y => if y.isZero then .nan else .inf (x != y.isNeg)
  | x, .inf y => if x.isZero then .nan else .inf (x.isNeg != y)
  | .fin sa na da, .fin sb nb db => .fin (sa != sb) (na * nb) (da * db)

/-- Exact quotient. -/
def Fv.div (a b : Fv) : Fv :=
  match a, b with
  | .nan, _ => .nan
  | _, .nan => .nan
  | .inf _, .inf _ => .nan
  | .inf x, y => .inf (x != y.isNeg)
  | x, .inf y => .fin (x.isNeg != y) 0 1
  | .fin sa na da, .fin sb nb db =>
    if nb == 0 then (if na == 0 then .nan else .inf (sa != sb)) else .fin (sa != sb) (na * db) (da * nb)

/-- a < b as real values; false when either is NaN. -/
def Fv.lt (a b : Fv) : Bool :=
  match a, b with
  | .nan, _ => false
  | _, .nan => false
  | .inf x, .inf y => x && !y
  | .inf x, _ => x
  | _, .inf y => !y
  | .fin sa na da, .fin sb nb db =>
    let x : Int := (if sa then -1 else 1) * ((na * db : Nat) : Int)
    let y : Int := (if sb then -1 else 1) * ((nb * da : Nat) : Int)
    decide (x < y)

/-- ⌊√n⌋, found bit by bit from bit `k` down. -/
def isqrtFrom (n : Nat) : (k acc : Nat) → Nat
  | 0, acc => if (acc + 1) * (acc + 1) ≤ n then acc + 1 else acc
  | k + 1, acc =>
    let t := acc + 2 ^ (k + 1)
    isqrtFrom n k (if t * t ≤ n then t else acc)
/-- ⌊√n⌋. -/
def isqrt (n : Nat) : Nat := isqrtFrom n (Nat.log2 n / 2 + 1) 0

/-- A value that rounds to FP32 as √(n/d) does: 60 or more significant bits and a sticky bit. -/
def Fv.sqrt (a : Fv) : Fv :=
  match a with
  | .nan => .nan
  | .inf neg => if neg then .nan else .inf false
  | .fin neg n d =>
    if n == 0 then .fin neg 0 1
    else if neg then .nan
    else
      let k := 64 + Nat.log2 d
      let x := n * 2 ^ (2 * k) / d
      let r := isqrt x
      let sticky := if r * r == x && n * 2 ^ (2 * k) % d == 0 then 0 else 1
      .fin false (2 * r + sticky) (2 ^ (k + 1))

def f32add (a b : F32) : F32 := f32r ((f32v a).add (f32v b))
def f32sub (a b : F32) : F32 := f32r ((f32v a).add (f32v b).neg)
def f32mul (a b : F32) : F32 := f32r ((f32v a).mul (f32v b))
/-- Fused multiply-add a × b + c, rounded once. -/
def f32fma (a b c : F32) : F32 := f32r (((f32v a).mul (f32v b)).add (f32v c))
def f32div (a b : F32) : F32 := f32r ((f32v a).div (f32v b))
def f32sqrt (a : F32) : F32 := f32r (f32v a).sqrt
def f32lt (a b : F32) : Bool := (f32v a).lt (f32v b)
def f32isNan (a : F32) : Bool := f32v a == .nan
/-- The canonical NaN (R61). -/
def f32nan : F32 := 0x7FC00000
def f32neg (a : F32) : F32 := if bitOf a 31 then a - 2 ^ 31 else a + 2 ^ 31
/-- An integer as FP32, to nearest, ties to even. -/
def f32ofInt (x : Int) : F32 := f32r (.ofInt x)
/-- One, and the largest finite number, in FP32. -/
def f32one : F32 := 0x3F800000

/-- A proofed scale record (R52). -/
structure Scale where
  zp : Nat
  e : Int
  m : Nat
deriving DecidableEq, Repr

/-- The record in 32 bits (R52). -/
def Scale.ofBits (b : Nat) : Scale := ⟨bitsOf b 31 24, sext 8 (bitsOf b 23 16), bitsOf b 15 0⟩
def Scale.toBits (s : Scale) : Nat := s.zp * 2 ^ 24 + wrapTo 8 s.e * 2 ^ 16 + s.m
/-- The scale M × 2^(E − 15) (R52). -/
def Scale.val (s : Scale) : Fv := .scaled false s.m (s.e - 15)
/-- The record of an all-zero group (R56). -/
def Scale.zero : Scale := ⟨0, 0, 0⟩

/-- The record of scale n / d > 0: E chosen so that M lies in 32,768 to 65,535, M rounded upward (R55). An exponent past
its ends keeps the nearest end. -/
def Scale.encode (n d zp : Nat) : Scale :=
  let e0 := floorLog2 n d
  let f := shiftFrac n d (15 - e0)
  let m0 := ceilDiv f.1 f.2
  let (m, e) := if m0 > 65535 then (32768, e0 + 1) else (m0, e0)
  if e > 127 then ⟨zp, 127, 65535⟩
  else if e < -128 then ⟨zp, -128, 32768⟩
  else ⟨zp, e, m⟩

/-- The conversion range of an integer target (R58, proofed formats' table). -/
def Fmt.range (f : Fmt) : Int × Int :=
  match f with
  | .int4 | .pi4 => (-7, 7)
  | .uint8 | .pu8 => (0, 255)
  | .int32 => (-(2 ^ 31), 2 ^ 31 - 1)
  | _ => (-127, 127)

/-- An integer clamped to a range, and whether that changed it. -/
def clampI (lo hi y : Int) : Int × Bool :=
  if y < lo then (lo, true) else if hi < y then (hi, true) else (y, false)

/-- A value converted to an integer target with scale `s` and zero point `zp` (R56, R58): rounded, moved by the zero
point, clamped; NaN becomes 0, infinities become ± qmax, each clipped. -/
def toIntElem (f : Fmt) (r : Rnd) (s : Fv) (zp : Nat) (v : Fv) : Int × Bool :=
  let (lo, hi) := f.range
  match v with
  | .nan => (0, true)
  | .inf neg => (if neg then max lo (-hi) else hi, true)
  | .fin neg n d =>
    match s with
    | .fin _ sn sd =>
      if sn == 0 then (0, false)
      else
        let q := roundMag r neg (n * sd) (d * sn)
        clampI lo hi ((if neg then -(q : Int) else (q : Int)) + zp)
    | _ => (0, false)

/-- The rounding right shift and clamp of R63: the output and whether one clipped value is counted. -/
def rescale (mult shift : Nat) (zp : Nat) (lo hi acc : Int) : Int × Bool :=
  let p := acc * (mult : Int)
  let y :=
    if shift = 0 then p
    else
      let q := p / (2 ^ shift : Nat)
      let r := p - q * (2 ^ shift : Nat)
      let half : Int := (2 ^ (shift - 1) : Nat)
      if r > half || (r == half && q % 2 == 1) then q + 1 else q
  clampI lo hi (y + zp)

/-- The largest s in 0 to `s` for which round(n/d × 2^s) ≤ 65,535. -/
def shiftFor (n d : Nat) : Nat → Nat
  | 0 => 0
  | s + 1 => if roundMag .near false (n * 2 ^ (s + 1)) d ≤ 65535 then s + 1 else shiftFor n d s

/-- MULT and SHIFT of the real multiplier m = n / d (R62). -/
def multShift (n d : Nat) : Nat × Nat :=
  if n > 65535 * d then (65535, 0)
  else if roundMag .near false (n * 2 ^ 47) d == 0 then (0, 0)
  else
    let s := shiftFor n d 47
    (roundMag .near false (n * 2 ^ s) d, s)

/-- The multiplier s_a × s_b / s_o, as a fraction. -/
def rescaleFactor (sa sb so : Fv) : Nat × Nat :=
  match (sa.mul sb).div so with
  | .fin _ n d => (n, d)
  | _ => (0, 1)

/-- A 32-bit accumulator sum: saturates at the INT32 bounds (R60), with whether it saturated. -/
def accInt (acc x : Int) : Int × Bool := clampI (-(2 ^ 31)) (2 ^ 31 - 1) (acc + x)

/-- The value of one element's bits, before any scale. -/
def Fmt.elem (f : Fmt) (b : Nat) : Fv :=
  match f.lay? with
  | some l => l.decode b
  | none =>
    match f with
    | .uint8 | .pu8 => .ofInt b
    | .int32 => .ofInt (sext 32 b)
    | .int4 | .pi4 => .ofInt (sext 4 b)
    | .mxint8 => .scaled (decide (sext 8 b < 0)) (sext 8 b).natAbs (-6)
    | _ => .ofInt (sext 8 b)

/-- The integer of an integer element's bits. -/
def Fmt.elemInt (f : Fmt) (b : Nat) : Int :=
  match f with
  | .uint8 | .pu8 => b
  | .int32 => sext 32 b
  | .int4 | .pi4 => sext 4 b
  | _ => sext 8 b

/-- The E8M0 scale 2^(x − 127); 0xFF is NaN (R49). -/
def e8m0 (x : Nat) : Fv := if x == 255 then .nan else .scaled false 1 ((x : Int) - 127)

/-- emax of an MX target (R54). -/
def Fmt.emax (f : Fmt) : Int :=
  match f with
  | .mxe4m3 => 8
  | .mxe5m2 => 15
  | .mxfp4 => 2
  | _ => 0

/-- The E8M0 scale of a block whose largest finite magnitude is n / d (R54, R56): floor(log2 a) − emax, kept within the
scale's exponents; 2^−127 for a block with no non-zero value. -/
def mxScale (f : Fmt) (n d : Nat) : Nat :=
  if n == 0 then 0
  else
    let e := floorLog2 n d - f.emax + 127
    if e < 0 then 0 else if e > 254 then 254 else e.toNat

end Sys2Proof.Machine
end

