-- ==== Sys2Proof/Machine/Tier.lean ====
section
/-!
DEFINITION. The commands of the tier space: hot windows, ages, the MOVING protocol, stubs and fills (R202, R204, R208 to
R214).
-/
namespace Sys2Proof.Machine

/-- HOT_WINDOW_TICK (R208, R209): the window's end clears the region's table; with region 0 the stack controllers' counts of
fabric accesses. -/
def execHotWindowTick (r : Fin 8) (s : State) : Res :=
  let x := s.region r.val
  let win := fld s.tier.cfg 31 24 * 10000
  if x.hotStart + win ≤ s.now then
    let s1 := s.setRegion r.val { x with hot := [], hotStart := s.now }
    .next { s1 with tier.fabHot := tfilter s1.tier.fabHot fun k _ =>
      let h := s1.home (k / 64)
      !(h.tier = 1 && frameStack (locFrame h.loc) = r.val) }
  else .next s

/-- AGE_TICK (R204): every age above 0 decreases by 1. -/
def execAgeTick (s : State) : Res :=
  if s.tier.lastAge + fld s.tier.cfg 23 16 * 1000000 ≤ s.now then
    let step (f : TFrame) : TFrame := if f.age = 0 then f else { f with age := f.age - 1, order := s.tier.ageClock }
    .next { s with tier := { s.tier with
      frames := tmap s.tier.frames fun _ f => step f
      regions := tmap s.tier.regions fun _ r => { r with odFrames := tmap r.odFrames fun _ f => step f }
      ageClock := s.tier.ageClock + 1
      lastAge := s.now } }
  else .next s

/-- FREEZE goes to the old home's controller: over the fabric for a pool home, within the node otherwise (R210). -/
def sendFreeze (s : State) (h : Home) : State :=
  if h.tier = 2 then
    sendPkt s { kind := kFreeze, dst := h.loc / 2 ^ 21, src := s.fab.node, part := 0, rcls := 1,
                addr := h.loc / 2 ^ 21 * 2 ^ 52 + 2 ^ 50 + h.loc % 2 ^ 21 * tileBytes }
  else s

/-- A free on-die home frame of a region, or the one whose tile has the lowest age (R208). -/
def onDieFrame (s : State) (r t : Nat) : Option (Nat × Option Nat) :=
  let x := s.region r
  let n := fld s.tier.cfg 47 40
  match leastFrom (fun i => (tget? x.odFrames i).isNone) n 0 with
  | some i => some (i, none)
  | none =>
    let mine := match tget? s.tier.frames (locFrame (s.home t).loc) with
      | some f => f.age
      | none => 0
    match leastBy (fun a b => decide (a.2.age < b.2.age)) x.odFrames with
    | some (i, f) => if f.age < mine then some (i, some f.tile) else none
    | none => none

/-- Reserves the destination of a wanted move: tier 1 a stack frame of the wanted region or any, tier 0 an on-die frame,
2 this
node's window at a source, 4 any place below the stacks (R201, R205, R206, R208, R209). -/
def reserveDest (s : State) (t tier r : Nat) (pin : Bool) : Option (Nat × Nat × State) :=
  let p := tileOwner s t
  if tier = 1 then
    let reserved : Option Nat := if pin then s.work.plans.findSome? fun kv =>
      match tget? kv.2.pins t with
      | some f => f
      | none => none else none
    match reserved with
    | some k => some (1, stackLoc k, takeFrame s k t)
    | none => (stackFrameFor s p t (if pin then none else some r)).map fun (k, s1) => (1, stackLoc k, s1)
  else if tier = 0 then
    match onDieFrame s r t with
    | none => none
    | some (i, old) =>
      let take (x : State) : State := x.setRegion r { x.region r with
        odFrames := tput (x.region r).odFrames i { tile := t, order := x.tier.ageClock } }
      match old with
      | none => some (0, r * 128 + i, take s)
      | some o =>
        match stackFrameFor s (tileOwner s o) o (some r) with
        | none => none
        | some (k, s1) => some (0, r * 128 + i, take (beginMove s1 o 1 (stackLoc k) false true))
  else if tier = 2 then
    (leastFrom (fun o => (tget? s.tier.pool (r * 2 ^ 21 + o)).isNone) (winSize s r) 0).map fun o =>
      (2, r * 2 ^ 21 + o, { s with tier.pool := tput s.tier.pool (r * 2 ^ 21 + o) t })
  else lowHome s t

/-- MOVE_START (R210): a wanted move of a tile takes a move slot, reserves its destination, marks the tile MOVING and sends
FREEZE. Without a free slot, or while the tile moves, it waits; a tile that may no longer move is passed over. -/
def execMoveStart (tile : Fin 33554432) (s : State) : Res :=
  let t := tile.val
  match s.tier.moveWait.find? fun w => w.1 == t with
  | none => .next s
  | some (_, tier, r, pin) =>
    let h := s.home t
    let drop (x : State) : State := { x with tier.moveWait := x.tier.moveWait.filter fun w => w.1 != t }
    if 256 ≤ s.tier.moves.length || h.st == .moving then .next s
    else if h.st != .home then .next (drop s)
    else
      match reserveDest s t tier r pin with
      | none => .next (drop s)
      | some (dt, dl, s1) => .next (sendFreeze (beginMove (drop s1) t dt dl pin (!pin)) h)

/-- FREEZE (R210): the old home stops applying writes and the copy may start. -/
def execFreeze (ref : MoveRef) (s : State) : Res :=
  match ref with
  | .own t => .next { s with tier.moves := tupd s.tier.moves t.val fun m => { m with frozen := true } }
  | .lent pos off =>
    .next { s with tier.lendMoves := tput s.tier.lendMoves (pos.val * 2 ^ 21 + off.val) { frozen := true } }

/-- The value an atomic leaves at its place (R287): operation in AUX, width 4 or 8, operand and compare value. -/
def atomicNew (op width old operand compare : Nat) : Nat :=
  match op % 16 with
  | 0 => (old + operand) % 2 ^ (8 * width)
  | 1 => f32add old operand
  | 2 => if old = compare % 2 ^ (8 * width) then operand % 2 ^ (8 * width) else old
  | _ => operand % 2 ^ (8 * width)

/-- The width an atomic's AUX selects (R287). -/
def atomicWidth (op : Nat) : Nat := if bitOf op 4 then 8 else 4

/-- A 256-byte line of the frozen old home, with whether it is uncorrectable (R214). -/
def frozenLine (s : State) (t i : Nat) : List Byte × Bool :=
  (homeRead s t (i * 256) 256, intervalPoisoned s t (i * 256) 256)

/-- Bytes of a moving tile at its destination: what the copy stream has brought. -/
def destRead (m : Move) (off n : Nat) : List Byte := mreadN m.dmem off n

/-- The answer to a queued store or atomic once it has been replayed (R212). -/
def answerQueued (s : State) (w : QWrite) (old : Nat) : State :=
  match w.asker, w.atomic with
  | some a, some (op, _, _) =>
    sendPkt s { kind := 0x23, dst := a.src, src := s.fab.node, part := 0, len := atomicWidth op, tag := a.tag,
                payload := leBytes (atomicWidth op) old }
  | _, _ => s

/-- Applies the first queued write at the destination, and lets the first held write into the queue (R210, R212). -/
def replayOne (s : State) (t : Nat) (m : Move) (w : QWrite) (rest : List QWrite) : State :=
  let (q, hd) := match m.held with
    | [] => (rest, [])
    | x :: xs => (rest ++ [x], xs)
  match w.atomic with
  | none =>
    let n := w.bytes.length
    let m1 := { m with
      dmem := mwriteN m.dmem w.off w.bytes, fwdq := q, held := hd
      dpois := m.dpois.filter fun i => !(decide (w.off ≤ i * 256) && decide (i * 256 + 256 ≤ w.off + n)) }
    { s with tier.moves := tput s.tier.moves t m1 }
  | some (op, operand, compare) =>
    let width := atomicWidth op
    let old := leNat (destRead m w.off width)
    let m1 := { m with
      dmem := mwriteN m.dmem w.off (leBytes width (atomicNew op width old operand compare)), fwdq := q, held := hd }
    answerQueued { s with tier.moves := tput s.tier.moves t m1 } w old

/-- The item on the stream is the write at the front of the queue. -/
def matchesItem (w : QWrite) (what : CopyItem) : Bool :=
  match what, w.atomic with
  | .write off bytes, none => w.off == off.val && w.bytes == bytes
  | .atomic off op operand compare, some (o, x, y) => w.off == off.val && o == op && x == operand && y == compare
  | _, _ => false

/-- COPY (R210, R212, R214): the next copy burst of a frozen tile, or the write at the front of its queue behind the last
burst, arrives at the destination. A pool home's bytes come with the burst, any other old home's are the node's own. For a
lent frame the borrower's stream is applied in its order. -/
def execCopy (ref : MoveRef) (what : CopyItem) (s : State) : Res :=
  match ref with
  | .own tf =>
    let t := tf.val
    match tget? s.tier.moves t with
    | none => .next s
    | some m =>
      match what with
      | .burst i bytes poison =>
        if !m.frozen || i.val != m.copied then .next s
        else
          let (bs, bad) := if m.old.tier = 2 then (slice bytes 0 256, poison) else frozenLine s t i.val
          let m1 := { m with
            copied := m.copied + 1, dmem := mwriteN m.dmem (i.val * 256) bs
            dpois := if bad then m.dpois ++ [i.val] else m.dpois }
          let draw (x : State) (tier loc : Nat) : State :=
            if tier = 1 then regCharge x (tileOwner s t) (.stack (frameStack (locFrame loc))) 256 else x
          let s1 := draw (draw { s with tier.moves := tput s.tier.moves t m1 } m.old.tier m.old.loc) m.tier m.loc
          .next (if bad then { s1 with tier.err := orErr s1.tier.err (tileOwner s t) 3 } else s1)
      | _ =>
        match m.fwdq with
        | [] => .next s
        | w :: rest => .next (if m.copied = 256 && matchesItem w what then replayOne s t m w rest else s)
  | .lent pos off =>
    let k := pos.val * 2 ^ 21 + off.val
    let x := tgetD s.tier.lendMoves k {}
    match what with
    | .burst i bytes poison =>
      if i.val != x.copied then .next s
      else
        .next { s with tier := { s.tier with
          lendMoves := tput s.tier.lendMoves k { x with copied := x.copied + 1 }
          lendMem := mwriteN s.tier.lendMem (k * tileBytes + i.val * 256) (slice bytes 0 256)
          lendPois := if poison then tput s.tier.lendPois (k * 256 + i.val) true
            else terase s.tier.lendPois (k * 256 + i.val) } }
    | .write o bytes =>
      .next { s with tier.lendMem := mwriteN s.tier.lendMem (k * tileBytes + o.val) bytes }
    | .atomic o op operand compare =>
      let a := k * tileBytes + o.val
      let width := atomicWidth op
      let old := leNat (mreadN s.tier.lendMem a width)
      .next { s with tier.lendMem := mwriteN s.tier.lendMem a (leBytes width (atomicNew op width old operand compare)) }

/-- The bytes of a tile are where its new home keeps them after a flip (R213): those the stream brought. -/
def installTile (s : State) (t tier loc : Nat) (m : Move) : State :=
  let clean := mclear s.tier.mem (t * tileBytes) tileBytes
  let drop (step : Nat) (x : Tab Bool) := tfilter x fun k _ => !(decide (t * tileBytes ≤ k * step) && decide (k * step < (t + 1) * tileBytes))
  let s1 := { s with tier := { s.tier with mem := clean, pois64 := drop 64 s.tier.pois64, pois256 := drop 256 s.tier.pois256 } }
  let bs := mreadN m.dmem 0 tileBytes
  if tier = 3 then
    let a := flashTileAddr s loc
    let s2 := flashStore s1 a bs
    { s2 with
      flash.pois := m.dpois.foldl (fun p i => tput p ((a + i * 256) / 4096) true) s2.flash.pois
      tier.dirty := terase s2.tier.dirty t }
  else
    { s1 with tier := { s1.tier with
      mem := mwriteN s1.tier.mem (t * tileBytes) bs
      pois256 := m.dpois.foldl (fun p i => tput p (t * 256 + i) true) s1.tier.pois256 } }

/-- A pin that waits for a tile: some loading or admitted plan pins it (R206). -/
def pinWanted (s : State) (t : Nat) : Bool := s.work.plans.any fun kv => (tget? kv.2.pins t).isSome

/-- DRAINED (R210): with the stream complete and the queue empty, the entry flips in one write, a stub forwards from the old
frame, and the move slot is free. Without a free stub the flip waits. -/
def execDrained (ref : MoveRef) (s : State) : Res :=
  match ref with
  | .own tf =>
    let t := tf.val
    match tget? s.tier.moves t with
    | none => .next s
    | some m =>
      if m.copied < 256 || !m.fwdq.isEmpty || !m.held.isEmpty || 4096 ≤ s.tier.stubs.length then .next s
      else
        let s1 := installTile s t m.tier m.loc m
        let s2 := s1.setHome t ⟨if m.pin then .pinned else .home, m.tier, m.loc⟩
        let s3 := { s2 with tier := { s2.tier with
          moves := terase s2.tier.moves t
          stubs := tput s2.tier.stubs s2.tier.nextStub
            { tile := t, tier := m.old.tier, loc := m.old.loc, until_ := s2.now + 2000000 }
          nextStub := s2.tier.nextStub + 1
          flipT := if m.hot then tput s2.tier.flipT t s2.now else s2.tier.flipT } }
        let s4 := count s3 (tileOwner s3 t) Ev.tileMove
        .next (if pinWanted s4 t && !m.pin then
            (if m.tier = 1 then s4.setHome t ⟨.pinned, 1, m.loc⟩
             else { s4 with tier.moveWait := s4.tier.moveWait ++ [(t, 1, 0, true)] })
          else s4)
  | .lent pos off => .next { s with tier.lendMoves := terase s.tier.lendMoves (pos.val * 2 ^ 21 + off.val) }

/-- Frees the place of an ended stub when it still belongs to the stub's tile and is not its home again (R210). -/
def freePlace (s : State) (x : Stub) : State :=
  let h := s.home x.tile
  if h.tier = x.tier && h.loc = x.loc && h.st != .unmapped then s
  else if x.tier = 1 then
    match tget? s.tier.frames (locFrame x.loc) with
    | some f => if f.tile = x.tile then { s with tier.frames := terase s.tier.frames (locFrame x.loc) } else s
    | none => s
  else if x.tier = 0 then
    let r := x.loc / 128
    let g := s.region r
    match tget? g.odFrames (x.loc % 128) with
    | some f => if f.tile = x.tile then s.setRegion r { g with odFrames := terase g.odFrames (x.loc % 128) } else s
    | none => s
  else if x.tier = 2 then { s with tier.pool := terase s.tier.pool x.loc }
  else { s with tier.spill := terase s.tier.spill x.loc }

/-- STUB_EXPIRE (R210): 2 ms after the flip the old frame is freed. -/
def execStubExpire (i : Nat) (s : State) : Res :=
  match tget? s.tier.stubs i with
  | none => .next s
  | some x =>
    .next (if x.until_ ≤ s.now then freePlace { s with tier.stubs := terase s.tier.stubs i } x else s)

/-- FILL_ARRIVE (R199, R202): a fill of an own line is delivered and kept in a read frame; one marked by an invalidation is
delivered and not kept. -/
def execFillArrive (r : Fin 8) (line : Nat) (s : State) : Res :=
  let x := s.region r.val
  match x.fills.find? fun f => f.line = line with
  | none => .next s
  | some f =>
    let fills := x.fills.filter fun g => g.line != line
    let t := line / 256
    let keep := !f.drop && decide (t < tileCount) && (s.home t).st != .poisoned
    let l : RfLine := { line := line, remote := false, bytes := homeRead s t (line % 256 * 256) 256 }
    .next (s.setRegion r.val { x with
      fills := fills
      lines := if keep then
          (l :: x.lines.filter fun m => m.remote || m.line != line).take (rfCapacity s)
        else x.lines })

/-- A move aborts (R214): the old home applies the queued and held writes in order, ends the freeze and keeps the tile. -/
def abortMove (s : State) (t : Nat) : State :=
  match tget? s.tier.moves t with
  | none => s
  | some m =>
    let s1 := (s.setHome t m.old)
    let s2 := { s1 with tier := { s1.tier with moves := terase s1.tier.moves t, err := orErr s1.tier.err (tileOwner s t) 4 } }
    let s3 := (m.fwdq ++ m.held).foldl (fun x w =>
      match w.atomic with
      | none => applyBytes x t w.off w.bytes
      | some (op, a, b) =>
        let width := atomicWidth op
        let old := leNat (homeRead x t w.off width)
        answerQueued (applyBytes x t w.off (leBytes width (atomicNew op width old a b))) w old) s2
    count s3 (tileOwner s t) Ev.moveAbort

/-- A tile's home is lost (R196, R214): POISONED, its queued and held writes end POISONED at their sources, TILE_LOST. -/
def loseTile (s : State) (t : Nat) : State :=
  let h := s.home t
  let asks : List (Asker × Bool) := match tget? s.tier.moves t with
    | none => []
    | some m => (m.fwdq ++ m.held).filterMap fun (w : QWrite) => w.asker.map fun a => (a, w.atomic.isSome)
  let s1 := s.setHome t { h with st := .poisoned }
  let s2 := { s1 with tier := { s1.tier with moves := terase s1.tier.moves t, err := orErr s1.tier.err (tileOwner s t) 2 } }
  let s3 := asks.foldl (fun x a =>
    sendPkt x { kind := if a.2 then 0x23 else 0x22, dst := a.1.src, src := x.fab.node, part := 0, tag := a.1.tag,
                status := stPoisoned }) s2
  count s3 (tileOwner s t) Ev.tileLost

/-- Every tile homed at a lender, or moving from or to it, once the lender leaves the rack map (R196, R214). -/
def loseLender (s : State) (pos : Nat) : State :=
  s.tier.home.foldl (fun x kv =>
    let h := x.home kv.1
    if h.st == .unmapped || h.st == .poisoned then x
    else if h.tier = 2 && h.loc / 2 ^ 21 = pos then loseTile x kv.1
    else
      match tget? x.tier.moves kv.1 with
      | some m => if m.tier = 2 && m.loc / 2 ^ 21 = pos then abortMove x kv.1 else x
      | none => x) s

end Sys2Proof.Machine
end

