-- ==== Sys2Proof/Machine/Commands.lean ====
section
/-!
DEFINITION. Host commands on the node's memory and registrations: NOP, TIER_READ, TIER_WRITE, INDEX_OPEN, INDEX_CLOSE,
TABLE_OPEN, TABLE_CLOSE, ROLE_SET (R104, R105, R182, R255 to R257, R271, R301, R376 to R378).
-/
namespace Sys2Proof.Machine

/-- Bytes of a structure outside its defined fields, given as offsets and lengths in rising order, are all zero (R376). -/
def reservedZero (bs : List Byte) : (pos : Nat) → List (Nat × Nat) → Bool
  | pos, [] => allZero (bs.drop pos)
  | pos, (o, n) :: fs => allZero ((bs.take o).drop pos) && reservedZero bs (o + n) fs

/-- Reasons that hold for every command (R376, R2): reserved bytes and flags, and the version 0x0200. -/
def headReasons (c : Cmd) (fields : List (Nat × Nat)) : Nat :=
  reasons [(c.flags != 0 || !reservedZero c.bytes 8 fields, rsFormat), (c.version != 0x0200, rsVersion)]

/-- The Bus Master Enable a command that needs host memory depends on (R384). -/
def hostioOff (s : State) (c : Cmd) : Bool := !(s.fn c.fn).busMaster

/-- NOP (R377). -/
def execNop (cid : Nat) (s : State) : Res :=
  match cmdOf s cid 0x01 with
  | none => .next s
  | some c =>
    let aux := headReasons c []
    .next (if aux = 0 then endCmd s cid stOk else refuse s cid aux)

/-- The checks of TIER_READ and TIER_WRITE (R190, R376, R377): host address, tier offset and length. -/
def tierCmdCheck (s : State) (c : Cmd) : Nat × Nat × Nat × Nat :=
  let host := getLE c.bytes 0x08 8
  let addr := getLE c.bytes 0x10 8
  let len := getLE c.bytes 0x18 4
  let t0 := addr / tileBytes
  let n := if len = 0 then 0 else (addr + len - 1) / tileBytes + 1 - t0
  let aux := headReasons c [(0x08, 8), (0x10, 8), (0x18, 4)] |||
    reasons [(addr % 64 != 0 || len % 64 != 0 || decide (16777216 < len) || host % 64 != 0, rsFormat),
      (!inPrange s c.part t0 n, rsRange), (hostioOff s c, rsHostio)]
  (aux, host, addr, len)

/-- The refusal of a command that names a tile outside its partition's range also sets TIER_ERR.RANGE (R190). -/
def refuseTier (s : State) (c : Cmd) (cid aux : Nat) : State :=
  refuse (if bitOf aux 4 then rangeErr s c.part else s) cid aux

/-- TIER_READ (R377, R378, R389): the bytes go to host memory; those of uncorrectable lines as zeros, with POISONED. A read
held by a queued write or by a regulator waits (R211). -/
def execTierRead (cid : Nat) (s : State) : Res :=
  match cmdOf s cid 0x38 with
  | none => .next s
  | some c =>
    let (aux, host, addr, len) := tierCmdCheck s c
    if aux ≠ 0 then .next (refuseTier s c cid aux)
    else
      match nodeRead s c.part cid addr len with
      | .wait s1 => .next s1
      | .ok bytes s1 => .next (endCmd (resultWrite s1 c.fn c.gen host bytes) cid stOk)
      | .bad st bytes s1 => .next (endCmd (resultWrite s1 c.fn c.gen host bytes) cid st)

/-- TIER_WRITE (R201, R377, R490): the host's bytes, homes first. -/
def execTierWrite (cid : Nat) (data : HostRead) (s : State) : Res :=
  match cmdOf s cid 0x39 with
  | none => .next s
  | some c =>
    let (aux, _, addr, len) := tierCmdCheck s c
    if aux ≠ 0 then .next (refuseTier s c cid aux)
    else
      match data with
      | .failed => .next (refuse s cid rsHostio)
      | .ok bytes =>
        let (ok, s1) := stackTry s c.part cid (stackDraws s addr len)
        if !ok then .next s1
        else
          match writeSpan s1 c.part addr (slice bytes 0 len) none with
          | (.ok, s2) => .next (endCmd s2 cid stOk)
          | (.poisoned, s2) => .next (endCmd s2 cid stPoisoned)
          | (.noSpace, s2) => .next (refuse s2 cid rsResource)
          | (.wait, _) => .next s

/-- A version that this node supports (R2): major 2, minor 0. -/
def versionOk (v : Nat) : Bool := v == 0x0200

/-- Fields of an index descriptor (R104). -/
structure IdxD where
  forms : Nat
  metric : Nat
  normalised : Bool
  dims : Nat
  vfmt : Nat
  codeBytes : Nat
  degMax : Nat
  tombShare : Nat
  alpha : Nat
  metaBytes : Nat
  buildBeam : Nat
  nlists : Nat
  slots : Nat
  recTile : Nat
  metaTile : Nat
  cbTile : Nat
  ivfTile : Nat
  centTile : Nat
  vecBase : Nat
  entries : Nat
  flatTile : Nat
  entry : List Nat
deriving DecidableEq, Repr

/-- The descriptor's fields, defaults filled in (R104). -/
def idxD (d : List Byte) : IdxD :=
  let dflt (v x : Nat) : Nat := if v = 0 then x else v
  { forms := getLE d 0x02 1, metric := getLE d 0x03 1 % 4, normalised := bitOf (getLE d 0x03 1) 2
    dims := getLE d 0x04 2, vfmt := getLE d 0x06 1, codeBytes := getLE d 0x07 1, degMax := getLE d 0x08 1
    tombShare := dflt (getLE d 0x09 1) 64, alpha := dflt (getLE d 0x0A 1) 20, metaBytes := getLE d 0x0B 1
    buildBeam := dflt (getLE d 0x0C 2) 128, nlists := getLE d 0x0E 2, slots := getLE d 0x10 4
    recTile := getLE d 0x14 4, metaTile := getLE d 0x18 4, cbTile := getLE d 0x1C 4, ivfTile := getLE d 0x20 4
    centTile := getLE d 0x24 4, vecBase := getLE d 0x28 8, entries := getLE d 0x30 1, flatTile := getLE d 0x34 4
    entry := (List.range 16).map fun i => getLE d (0x40 + 4 * i) 4 }

/-- M, the subspaces of the code (R109); dimensions of subspace j and the first of them. -/
def IdxD.m (d : IdxD) : Nat := 2 * d.codeBytes
def IdxD.subDims (d : IdxD) (j : Nat) : Nat := d.dims / d.m + if j < d.dims % d.m then 1 else 0
def IdxD.subFirst (d : IdxD) (j : Nat) : Nat := j * (d.dims / d.m) + min j (d.dims % d.m)
/-- Bytes of an element of VFMT, of a full vector's place, of the codebook (R107, R109). -/
def IdxD.elemBytes (d : IdxD) : Nat := if d.vfmt = 7 then 4 else 2
def IdxD.vstride (d : IdxD) : Nat := ceilDiv (d.dims * d.elemBytes) 4096 * 4096
def IdxD.cbBytes (d : IdxD) : Nat := d.dims * 64
/-- Lower scores are better (R108). -/
def IdxD.lower (d : IdxD) : Bool := d.metric == 2
def IdxD.graph (d : IdxD) : Bool := bitOf d.forms 0
def IdxD.ivf (d : IdxD) : Bool := bitOf d.forms 1
def IdxD.flat (d : IdxD) : Bool := bitOf d.forms 2

/-- The descriptor breaks R104. -/
def idxBad (b : List Byte) : Bool :=
  let d := idxD b
  let hi (t : Nat) : Bool := decide (tileCount ≤ t)
  getLE b 0x02 1 == 0 || decide (8 ≤ d.forms) || d.metric == 3 || decide (8 ≤ getLE b 0x03 1) ||
    d.dims < 16 || decide (4096 < d.dims) || !(d.vfmt == 5 || d.vfmt == 7) ||
    d.codeBytes < 8 || decide (112 < d.codeBytes) || d.codeBytes % 8 != 0 ||
    d.degMax < 8 || decide (32 < d.degMax) || d.alpha < 16 || decide (32 < d.alpha) ||
    !([0, 16, 32, 64].contains d.metaBytes) || d.buildBeam < 8 || decide (256 < d.buildBeam) ||
    (if d.ivf then d.nlists == 0 else d.nlists != 0) || d.slots == 0 || d.slots == 0xFFFFFFFF ||
    hi d.recTile || hi d.metaTile || hi d.cbTile || hi d.ivfTile || hi d.centTile || hi d.flatTile ||
    d.vecBase % 32768 != 0 || d.entries == 0 || decide (16 < d.entries) || (!d.flat && d.flatTile != 0) ||
    !allZero (slice b 0x31 3) || !allZero (slice b 0x38 8) ||
    (List.range 16).any fun i =>
      let e := d.entry.getD i 0
      if i < d.entries then decide (d.slots ≤ e) else e != 0xFFFFFFFF

/-- The tile ranges that an index names: first tile and count (R104, R107, R109). List tiles come from the list table. -/
def idxRanges (s : State) (d : IdxD) : List (Nat × Nat) :=
  let rec_ := [(d.recTile, ceilDiv d.slots 256)]
  let meta_ := if d.metaBytes = 0 then [] else [(d.metaTile, ceilDiv d.slots (tileBytes / d.metaBytes))]
  let cb := [(d.cbTile, ceilDiv d.cbBytes tileBytes)]
  let ivf := if d.ivf then
      [(d.ivfTile, ceilDiv (d.nlists * 16) tileBytes), (d.centTile, ceilDiv (d.nlists * d.dims * d.elemBytes) tileBytes)] ++
        (List.range d.nlists).map fun l =>
          let e := (readSpan s (d.ivfTile * tileBytes + 16 * l) 8).bytes
          (getLE e 0 4 % tileCount, ceilDiv (getLE e 4 4 * (d.codeBytes + 4)) tileBytes)
    else []
  let flat := if d.flat then [(d.flatTile, ceilDiv (d.slots * d.codeBytes) tileBytes)] else []
  rec_ ++ meta_ ++ cb ++ ivf ++ flat

/-- Some tile of the range is sealed. -/
def rangeSealed (s : State) (f n : Nat) : Bool :=
  s.tier.sealed.any fun r => decide (f < r.2.1 + r.2.2) && decide (r.2.1 < f + n)

/-- Bytes of the record of a slot (R107). -/
def recAddr (d : IdxD) (slot : Nat) : Nat := d.recTile * tileBytes + slot * 256
def metaAddr (d : IdxD) (slot : Nat) : Nat := d.metaTile * tileBytes + slot * d.metaBytes
def vecAddr (d : IdxD) (slot : Nat) : Nat := d.vecBase + slot * d.vstride

/-- Fields of a node record (R106). -/
def recGen (r : List Byte) : Nat := getLE r 0 2
def recDeg (r : List Byte) : Nat := getLE r 2 1 % 64
def recTomb (r : List Byte) : Bool := bitOf (getLE r 2 1) 6
def recNorm (r : List Byte) : Nat := getLE r 4 4
def recNbr (r : List Byte) (i : Nat) : Nat := getLE r (0x80 + 4 * i) 4
def recEtag (r : List Byte) (i : Nat) : Nat := getLE r 8 8 / 4 ^ i % 4

/-- A record that holds a vector or a tombstone: its neighbour fields from DEG on hold 0xFFFF_FFFF (R106); a record of a slot
never filled is all zeros. -/
def recFilled (r : List Byte) : Bool :=
  recDeg r ≤ 32 && (List.range 32).all fun i => decide (i < recDeg r) || recNbr r i == 0xFFFFFFFF

/-- The slots of an index whose records hold a vector or a tombstone: those of mapped record tiles. -/
def usedSlots (s : State) (d : IdxD) : Tab Bool :=
  let tiles := (s.tier.home.map (·.1)).filter fun t =>
    decide (d.recTile ≤ t) && decide (t < d.recTile + ceilDiv d.slots 256)
  tiles.flatMap fun t =>
    (List.range 256).filterMap fun i =>
      let slot := (t - d.recTile) * 256 + i
      if slot < d.slots && recFilled (homeRead s t (i * 256) 256) then some (slot, true) else none

/-- An index number of a partition is registered (R105, R377). -/
def registered (s : State) (part i : Nat) : Bool :=
  match tget? s.work.indexes i with
  | some x => x.part == part && x.shut.isNone
  | none => false

/-- A table number of a partition is registered (R257, R377). -/
def tableRegistered (s : State) (part i : Nat) : Bool :=
  match tget? s.work.tables i with
  | some x => x.part == part && x.shut.isNone
  | none => false

/-- A closed index or table serves the invocations consumed before its close (R377). -/
def openFor (shut inv : Option Nat) : Bool :=
  match shut, inv with
  | none, _ => true
  | some n, some i => decide (i < n)
  | some _, none => false

/-- Invocations of a partition consumed before a close still run (R377). -/
def usersLeft (s : State) (part n : Nat) : Bool := s.work.invs.any fun kv => decide (kv.1 < n) && kv.2.part == part

/-- The lowest free index number: closed, and no longer in use. -/
def freeIndex (s : State) : Option Nat :=
  leastFrom (fun i => match tget? s.work.indexes i with
    | none => true
    | some x => match x.shut with
      | none => false
      | some n => !usersLeft s x.part n && !(s.work.queries.any fun kv => getLE kv.2.desc 0x28 2 == i) &&
          !(s.epo.updates.any fun kv => kv.2.owner.isNone && kv.2.lrec.index == i)) 4096 0

/-- The lowest free table number. -/
def freeTable (s : State) : Option Nat :=
  leastFrom (fun i => match tget? s.work.tables i with
    | none => true
    | some x => match x.shut with
      | none => false
      | some n => !usersLeft s x.part n) 1024 0

/-- INDEX_OPEN (R104, R105, R182, R190, R271): the checks, the codebook's copy, and the lowest free index number. -/
def execIndexOpen (cid : Nat) (s : State) : Res :=
  match cmdOf s cid 0x18 with
  | none => .next s
  | some c =>
    let tile := getLE c.bytes 8 4
    let h := headReasons c [(8, 4)] ||| reasons [(decide (tileCount ≤ tile), rsFormat),
      (!inPrange s c.part (tile % tileCount) 1, rsRange)]
    let free := freeIndex s
    let noRes := reasons [(free.isNone, rsResource)]
    if h ≠ 0 then .next (refuseTier s c cid (h ||| noRes))
    else
      let r := readSpan s (tile * tileBytes) 128
      if r.held then .next s
      else if r.poisoned then .next (endCmd s cid stPoisoned)
      else
        let d := idxD r.bytes
        let bad := idxBad r.bytes
        let rs := if bad then [] else idxRanges s d
        let aux := noRes ||| reasons [(bad, rsFormat), (!versionOk (getLE r.bytes 0 2), rsVersion),
          (rs.any fun x => !inPrange s c.part x.1 x.2, rsRange),
          (!bad && (d.ivf || d.flat) && (rs.drop (if d.metaBytes = 0 then 2 else 3)).any fun x => rangeSealed s x.1 x.2,
            rsFormat)]
        match free with
        | none => .next (refuseTier s c cid aux)
        | some i =>
          if aux ≠ 0 then .next (refuseTier s c cid aux)
          else
            let cb := readSpan s (d.cbTile * tileBytes) d.cbBytes
            if cb.held then .next s
            else if cb.poisoned then .next (endCmd s cid stPoisoned)
            else
              let x : Index := { part := c.part, desc := r.bytes, cb := cb.bytes, used := usedSlots s d }
              .next (endCmd { s with work.indexes := tput s.work.indexes i x } cid stOk 0 i)

/-- The value of an index operand's constant, or of a table's (bytes 0 and 1). -/
def constName (k : List Byte) : Nat := getLE k 0 2

/-- The words of an admitted plan of one unit kind and opcode. -/
def planWords (p : Plan) (unit op : Nat) : List Nat :=
  p.bin.roles.flatMap fun r => (r.lists.getD unit []).filter fun w => bitsOf w 127 120 = op

/-- An admitted plan of the partition names index `i` in an index constant of its walker words (R112, R377). -/
def planNamesIndex (p : Plan) (i : Nat) : Bool :=
  let named (w slot : Nat) : Bool := constName (p.bin.consts.getD slot []) == i && (bitsOf w 127 120 != 0)
  (planWords p 2 0x02).any (fun w => named w (bitsOf w 87 72)) ||
    (planWords p 2 0x06).any (fun w => named w (bitsOf w 87 72)) ||
    (planWords p 2 0x07).any (fun w => named w (bitsOf w 87 72)) ||
    (planWords p 2 0x08).any (fun w => named w (bitsOf w 103 88))

/-- An admitted plan of the partition names table `t` in a VOPT constant (R269, R377). -/
def planNamesTable (p : Plan) (t : Nat) : Bool :=
  (planWords p 1 0x0D).any fun w => constName (p.bin.consts.getD (bitsOf w 87 72) []) == t

/-- Plans of a partition that hold their resources. -/
def plansOf (s : State) (part : Nat) : List Plan :=
  (s.work.plans.filter fun kv => kv.2.part = part && !kv.2.sigWait).map (·.2)

/-- INDEX_CLOSE (R377). -/
def execIndexClose (cid : Nat) (s : State) : Res :=
  match cmdOf s cid 0x19 with
  | none => .next s
  | some c =>
    let i := getLE c.bytes 8 2
    let mine := registered s c.part i
    let aux := headReasons c [(8, 2)] ||| reasons [(decide (4096 ≤ i), rsFormat), (!mine, rsName),
      (mine && i != 0xFFFF && (plansOf s c.part).any fun p => planNamesIndex p i, rsQuiesce)]
    .next (if aux = 0 then
        endCmd { s with work.indexes := tupd s.work.indexes i fun x => { x with shut := some s.work.nextInv } } cid stOk
      else refuse s cid aux)

/-- Fields of a table descriptor (R255, R256). -/
structure TabD where
  fmt : Nat
  sr : Bool
  train : Bool
  rows : Nat
  dim : Nat
  slices : Nat
  slice : Nat
  stride : Nat
  rowTile : Nat
  scaleTile : Nat
  m1 : Nat
  m1s : Nat
  m2 : Nat
  m2s : Nat
deriving DecidableEq, Repr

def tabD (d : List Byte) : TabD :=
  { fmt := getLE d 2 1, sr := bitOf (getLE d 3 1) 0, train := bitOf (getLE d 3 1) 1, rows := getLE d 4 4
    dim := getLE d 8 2, slices := getLE d 0xA 1, slice := getLE d 0xB 1, stride := getLE d 0xC 4
    rowTile := getLE d 0x10 4, scaleTile := getLE d 0x14 4, m1 := getLE d 0x18 4, m1s := getLE d 0x1C 4
    m2 := getLE d 0x20 4, m2s := getLE d 0x24 4 }

/-- W, the slice width; bytes of an element of FMT; the moments' stride (R256). -/
def TabD.w (d : TabD) : Nat := d.dim / d.slices
def TabD.elemBytes (d : TabD) : Nat := (Fmt.ofCode d.fmt).bits / 8
def TabD.mStride (d : TabD) : Nat :=
  if d.elemBytes = 1 then d.stride
  else ((List.range 17).map (2 ^ ·)).find? (fun p => decide (max 64 d.w ≤ p)) |>.getD 65536

/-- Tiles of a range of rows with a stride. -/
def rowTiles (rows stride : Nat) : Nat := ceilDiv rows (tileBytes / stride)

/-- The descriptor breaks R255 or R256. -/
def tabBad (b : List Byte) : Bool :=
  let d := tabD b
  let hi (t : Nat) : Bool := decide (tileCount ≤ t)
  !([3, 5, 6, 7, 9, 13].contains d.fmt) || decide (4 ≤ getLE b 3 1) || d.rows == 0 || d.dim < 32 || decide (32768 < d.dim) ||
    d.slices == 0 || decide (64 < d.slices) || decide (d.slices ≤ d.slice) || d.dim % (32 * d.slices) != 0 ||
    decide (1024 < d.w) || d.stride < 64 || decide (65536 < d.stride) || 2 ^ Nat.log2 d.stride != d.stride ||
    decide (d.stride < d.w * d.elemBytes) || hi d.rowTile || hi d.scaleTile || hi d.m1 || hi d.m1s || hi d.m2 || hi d.m2s ||
    (!(d.fmt == 9 || d.fmt == 13) && d.scaleTile != 0) || (!d.train && d.m1 != 0) || !allZero (slice b 0x28 24)

/-- The tile ranges that a table names (R255, R256, R53). -/
def tabRanges (d : TabD) : List (Nat × Nat) :=
  let n := rowTiles d.rows d.stride
  let sc := if d.fmt = 13 then [(d.scaleTile, ceilDiv d.rows 16384)]
    else if d.fmt = 9 then [(d.scaleTile, ceilDiv n 32)] else []
  let mn := rowTiles d.rows d.mStride
  let mo := if d.train then [(d.m1, mn), (d.m1s, ceilDiv mn 32), (d.m2, mn), (d.m2s, ceilDiv mn 32)] else []
  [(d.rowTile, n)] ++ sc ++ mo

/-- TABLE_OPEN (R255 to R257, R190). -/
def execTableOpen (cid : Nat) (s : State) : Res :=
  match cmdOf s cid 0x1A with
  | none => .next s
  | some c =>
    let tile := getLE c.bytes 8 4
    let h := headReasons c [(8, 4)] ||| reasons [(decide (tileCount ≤ tile), rsFormat),
      (!inPrange s c.part (tile % tileCount) 1, rsRange)]
    let free := freeTable s
    let noRes := reasons [(free.isNone, rsResource)]
    if h ≠ 0 then .next (refuseTier s c cid (h ||| noRes))
    else
      let r := readSpan s (tile * tileBytes) 64
      if r.held then .next s
      else if r.poisoned then .next (endCmd s cid stPoisoned)
      else
        let bad := tabBad r.bytes
        let aux := noRes ||| reasons [(bad, rsFormat), (!versionOk (getLE r.bytes 0 2), rsVersion),
          (!bad && (tabRanges (tabD r.bytes)).any fun x => !inPrange s c.part x.1 x.2, rsRange)]
        match free with
        | none => .next (refuseTier s c cid aux)
        | some i =>
          .next (if aux = 0 then
              endCmd { s with work.tables := tput s.work.tables i { part := c.part, desc := r.bytes } } cid stOk 0 i
            else refuseTier s c cid aux)

/-- TABLE_CLOSE (R377). -/
def execTableClose (cid : Nat) (s : State) : Res :=
  match cmdOf s cid 0x1B with
  | none => .next s
  | some c =>
    let i := getLE c.bytes 8 2
    let mine := tableRegistered s c.part i
    let aux := headReasons c [(8, 2)] ||| reasons [(decide (1024 ≤ i), rsFormat), (!mine, rsName),
      (mine && (plansOf s c.part).any fun p => planNamesTable p i, rsQuiesce)]
    .next (if aux = 0 then
        endCmd { s with work.tables := tupd s.work.tables i fun x => { x with shut := some s.work.nextInv } } cid stOk
      else refuse s cid aux)

/-- ROLE_SET (R301, R377): a management command; the role must be allowed, its epoch not closed, nothing registered when it
leaves Search, nothing homed here when it goes to Transit. Every admitted plan starts to unload, and the shift waits for B3. -/
def execRoleSet (cid : Nat) (s : State) : Res :=
  match cmdOf s cid 0x40 with
  | none => .next s
  | some c =>
    let e := getLE c.bytes 8 8
    let role := getLE c.bytes 0x10 1
    let homed := s.tier.home.any fun kv => kv.2.st != .unmapped && decide (kv.2.tier ≤ 1)
    let aux := headReasons c [(8, 8), (0x10, 1)] ||| reasons [
      (!(s.fn c.fn).owner, rsOwner),
      (decide (2 < role) || !bitOf s.fab.allowed role, rsFormat),
      (decide (e ≤ s.epo.closed), rsFormat),
      (s.fab.role = 0 && role != 0 && (s.work.indexes.any (fun x => x.2.shut.isNone) || s.work.tables.any (fun x => x.2.shut.isNone)), rsQuiesce),
      (role = 2 && homed, rsQuiesce),
      (s.fab.shift.isSome, rsResource)]
    if aux ≠ 0 then .next (refuse s cid aux)
    else
      let s1 := s.work.plans.foldl (fun x kv => startUnload x kv.1) (runCmd s cid)
      .next { s1 with fab.shift := some (role, e, cid) }

end Sys2Proof.Machine
end

