-- ==== Sys2Proof/Machine/FabRx.lean ====
section
/-!
DEFINITION. Packets at their target and requests at their source (R283 to R288, R292 to R299): windows, the checks of
reception, the accesses that a node serves, and the life of a request of this node.
-/
namespace Sys2Proof.Machine

/-- Sizes of R287: 4 to 256 bytes in multiples of 4, on a 4-byte boundary, inside one 256-byte block. -/
def sizeOk (addr len : Nat) : Bool :=
  decide (4 ≤ len ∧ len ≤ 256) && len % 4 == 0 && addr % 4 == 0 && decide (addr % 256 + len ≤ 256)

/-- The window of a fabric offset (R283): the tier space, or the frame offset in a lend window. -/
inductive Window where
  | tier (addr : Nat)
  | lend (frame off : Nat)
  | none
deriving DecidableEq, Repr

def windowOf (addr : Nat) : Window :=
  let o := addr % 2 ^ 52
  if o < 2 ^ 41 then .tier o
  else if 2 ^ 50 ≤ o ∧ o < 2 ^ 50 + 2 ^ 37 then .lend ((o - 2 ^ 50) / tileBytes) (o % tileBytes)
  else .none

/-- An access answered: its status and bytes; taken into a forwarding queue, whose replay answers it; or that it has to
wait. -/
inductive Served where
  | done (status : Nat) (bytes : List Byte) (s : State)
  | queued (s : State)
  | wait (s : State)

/-- The regulator identity of an access that arrives by fabric. -/
def fabReqId (src tag : Nat) : Nat := 2 ^ 60 + src * 65536 + tag

/-- Counts a fabric access to a tile by source position; a source that reads the tile far more than this node gets it moved to
its lend window (R209). -/
def fabCount (s : State) (src t : Nat) : State :=
  let pos := nodeOf src
  let h := s.home t
  if pos = s.fab.node || h.st != .home || h.tier != 1 || 64 ≤ pos then s
  else
    let k := t * 64 + pos
    let n := tgetD s.tier.fabHot k 0 + 1
    let s1 := { s with tier.fabHot := tput s.tier.fabHot k n }
    let own := sumOf (s.tier.regions.map fun r => match tget? r.2.hot t with
      | some (a, b) => a + b
      | none => 0)
    let held := match tget? s.tier.flipT t with
      | some f => decide (s.now < f + fld s.tier.cfg 15 8 * 1000000)
      | none => false
    if n = fld s.tier.cfg 39 32 && flag s.tier.cfg 0 && !held then
      let s2 := count s1 (tileOwner s t) Ev.hotCand
      if decide (own * 4 < n) && decide (poolUsed s pos < winSize s pos) && !(s2.tier.moveWait.any fun w => w.1 == t) then
        { s2 with tier.moveWait := s2.tier.moveWait ++ [(t, 2, pos, false)] }
      else s2
    else s1

/-- The checks of a tier-space access that arrives by fabric (R284, R190, R300): its refusal, if any. -/
def fabTierCheck (s : State) (part addr : Nat) : Option (Nat × State) :=
  let t := addr / tileBytes
  if s.fab.role = 2 then some (stAdmitRefused, s)
  else if !inPrange s part t 1 then some (stAdmitRefused, rangeErr s part)
  else if (sealedBy s t).isSome then some (stSealed, s)
  else none

/-- A stub forwards an access that its old frame receives (R210): here an access to a tile whose flip is less than 2 ms old. -/
def stubMark (s : State) (part t : Nat) : State :=
  if s.tier.stubs.any fun x => x.2.tile = t then count s part Ev.stubFwd else s

/-- The key of a lent frame, when the access lies in the window that this node gives the source (R194). -/
def lentFrame (s : State) (src frame : Nat) : Option Nat :=
  if frame < fld (tgetD s.tier.lend (nodeOf src) 0) 55 32 then some (nodeOf src * 2 ^ 21 + frame) else none

/-- An access outside the window of R194 is dropped with POISONED. -/
def winErr (s : State) : Served := .done stPoisoned [] { s with tier.err := orErr s.tier.err (ownerPart s) 5 }

/-- An address in no window (R283). -/
def addrErr (s : State) (part : Nat) : Served := .done stAdmitRefused [] (count s part Ev.fabAddrErr)

/-- A load or get that reaches this node (R283, R284, R287, R211). -/
def serveLoad (s : State) (part src tag addr len : Nat) (msg : Bool) : Served :=
  if !sizeOk addr len then .done stAdmitRefused [] s
  else
    match windowOf addr with
    | .none => addrErr s part
    | .lend f o =>
      if msg then addrErr s part
      else
        match lentFrame s src f with
        | none => winErr s
        | some k =>
          if (List.range 256).any fun i => decide (o / 256 ≤ i ∧ i ≤ (o + len - 1) / 256) &&
              (tget? s.tier.lendPois (k * 256 + i)).isSome then .done stPoisoned [] s
          else .done stOk (mreadN s.tier.lendMem (k * tileBytes + o) len) s
    | .tier a =>
      match fabTierCheck s part a with
      | some (st, s1) => .done st [] s1
      | none =>
        let s0 := readChecks s part a len
        let r := readTile s0 (a / tileBytes) (a % tileBytes) len
        if r.held then .wait s
        else
          let (ok, s1) := stackTry' s0 part (fabReqId src tag) a len
          if !ok then .wait s1
          else
            let s2 := fabCount (stubMark (readMarks s1 part a len) part (a / tileBytes)) src (a / tileBytes)
            if r.poisoned then .done stPoisoned [] s2 else .done stOk r.bytes s2
where
  stackTry' (s : State) (part id a len : Nat) : Bool × State :=
    match (pieces a len).find? fun x => (s.home x.1).st != .unmapped && (s.home x.1).tier = 1 with
    | some x => regTry s part (.stack (frameStack (locFrame (s.home x.1).loc))) id len
    | none => (true, s)

/-- A store or put that reaches this node: applied at the home whole, or queued (R283, R284, R293, R294). -/
def serveStore (s : State) (part src tag addr : Nat) (bs : List Byte) (msg : Bool) : Served :=
  if !sizeOk addr bs.length then .done stAdmitRefused [] s
  else
    match windowOf addr with
    | .none => addrErr s part
    | .lend f o =>
      if msg then addrErr s part
      else
        match lentFrame s src f with
        | none => winErr s
        | some k =>
          .done stOk [] { s with tier := { s.tier with
            lendMem := mwriteN s.tier.lendMem (k * tileBytes + o) bs
            lendPois := if o % 256 = 0 && bs.length = 256 then terase s.tier.lendPois (k * 256 + o / 256)
              else s.tier.lendPois } }
    | .tier a =>
      match fabTierCheck s part a with
      | some (st, s1) => .done st [] s1
      | none =>
        let (ok, s1) := serveLoad.stackTry' s part (fabReqId src tag) a bs.length
        if !ok then .wait s1
        else
          match writeSpan s1 part a bs none with
          | (.ok, s2) => .done stOk [] (fabCount (stubMark s2 part (a / tileBytes)) src (a / tileBytes))
          | (.poisoned, s2) => .done stPoisoned [] s2
          | (.noSpace, s2) => .done stAdmitRefused [] s2
          | (.wait, _) => .wait s

/-- The limits of an atomic (R287): operation, width, alignment. -/
def atomicOk (op addr : Nat) : Bool :=
  decide (op % 16 < 4) && !(op % 16 = 1 && bitOf op 4) && addr % atomicWidth op == 0 && decide (op < 32)

/-- An atomic that reaches this node (R287, R212). On a tile in a move it enters the queue, and the answer comes with the
replay. -/
def serveAtomic (s : State) (part src tag addr op operand compare : Nat) (asker : Option Asker) : Served :=
  let w := atomicWidth op
  if !atomicOk op addr then .done stAdmitRefused [] s
  else
    match windowOf addr with
    | .none => addrErr s part
    | .lend f o =>
      match lentFrame s src f with
      | none => winErr s
      | some k =>
        let a := k * tileBytes + o
        let old := leNat (mreadN s.tier.lendMem a w)
        .done stOk (leBytes w old)
          { s with tier.lendMem := mwriteN s.tier.lendMem a (leBytes w (atomicNew op w old operand compare)) }
    | .tier a =>
      match fabTierCheck s part a with
      | some (st, s1) => .done st [] s1
      | none =>
        let t := a / tileBytes
        let off := a % tileBytes
        let (ok, s1) := serveLoad.stackTry' (readChecks s part a w) part (fabReqId src tag) a w
        if !ok then .wait s1
        else if (s1.home t).st == .poisoned || intervalPoisoned s1 t off w then .done stPoisoned [] s1
        else
          match giveHomes s1 part none [(t, false)] with
          | none => .done stAdmitRefused [] (noSpace s1 part)
          | some s2 =>
            let moving := (tget? s2.tier.moves t).isSome
            let frozen := match tget? s2.tier.moves t with
              | some m => m.frozen || (s2.home t).tier = 3
              | none => false
            if (s2.home t).tier = 3 && !moving && (s2.home t).st != .unmapped then
              -- a write to a flash home starts a move and enters its queue (R198)
              match writeHomed s2 part t off [] none with
              | (.ok, s3) => .queued (queueWrite s3 t
                  { off := off, bytes := [], atomic := some (op, operand, compare), asker := asker })
              | (.wait, _) => .wait s
              | (_, s3) => .done stAdmitRefused [] s3
            else if frozen then
              .queued (queueWrite s2 t { off := off, bytes := [], atomic := some (op, operand, compare), asker := asker })
            else
              let old := leNat (homeRead s2 t off w)
              .done stOk (leBytes w old)
                (fabCount (applyBytes s2 t off (leBytes w (atomicNew op w old operand compare))) src t)

/-- The gateway of a node number beyond the domain (R299): the first enabled entry whose range holds it. -/
def gatewayOf (s : State) (num : Nat) : Option Nat :=
  (List.range 8).findSome? fun i =>
    let g := tgetD s.fab.gw i 0
    if flag g 63 && decide (fld g 59 48 ≤ num) && decide (num ≤ fld g 43 32) then some (fld g 11 0) else none

/-- A cluster that a request belongs to: the source of R294's order. -/
def ReqFor.cluster? (f : ReqFor) : Option Nat :=
  match f with
  | .vatom c _ _ => some c
  | .store c => some c
  | .copy c _ => some c
  | .inval c => some c
  | _ => none

/-- A memory access of a unit has completed (FENCEM). -/
def donePending (s : State) (c u : Nat) : State :=
  let x := s.cl c
  s.setCl c (x.setUnit u { x.unit u with pending := (x.unit u).pending - 1 })
def addPending (s : State) (c u n : Nat) : State :=
  let x := s.cl c
  s.setCl c (x.setUnit u { x.unit u with pending := (x.unit u).pending + n })

/-- What the end of a request does to the unit that waits for it (R294, R297, R298). -/
def deliverTo (s : State) (tag : Nat) (r : Req) (status : Nat) (bytes : List Byte) : State :=
  match r.for_ with
  | .vatom c off w =>
    let s1 := if status = stOk then scrWrite s c off (slice bytes 0 w) else s
    resume (donePending s1 c 1) c 1 (.resp tag)
  | .store c => donePending s c 1
  | .inval c => resume (donePending s c 1) c 1 (.resp tag)
  | .copy c job =>
    let x := s.cl c
    match tget? x.copies job with
    | none => s
    | some j =>
      let s1 := if status = stOk then scrWrite s c (j.dst + (r.addr - j.addr)) (slice bytes 0 r.len) else s
      let y := s1.cl c
      donePending (s1.setCl c { y with copies := tput y.copies job { j with left := j.left - 1 } }) c 2
  | .fenced g => count s r.part Ev.fenceDrop g
  | .other => s

/-- The end of a request at its source; the work it belongs to ends with a status other than OK (R11). -/
def deliver (s : State) (tag : Nat) (r : Req) (status : Nat) (bytes : List Byte) : State :=
  let s1 := deliverTo s tag r status bytes
  match r.inv with
  | some i => if status = stOk then s1 else endWork s1 i status
  | none => s1

/-- Invalidates every copy of the remote lines [line, line + n) in read frames and record buffers; a fill in flight is
delivered and not kept (R298). -/
def dropRemote (s : State) (line n : Nat) : State :=
  let inside (l : Nat) : Bool := decide (line ≤ l) && decide (l < line + n)
  { s with
    tier.regions := tmap s.tier.regions fun _ r =>
      { r with
        lines := r.lines.filter fun l => !(l.remote && inside l.line)
        fills := r.fills.map fun f => if inside f.line then { f with drop := true } else f }
    work.clusters := tmap s.work.clusters fun _ x => { x with recs := x.recs.filter fun l => !l.remote } }

/-- Endpoints of this node to which an INVAL is forwarded (R298). -/
def invEndpoints (s : State) (src : Nat) : List Nat :=
  (([14, 15, 30, 31].filter fun t => portUp s t && flag (s.port t).ep 2).map (endpointNum s.fab.node)).filter (· != src)

/-- Copies of an INVAL to positions and endpoints. -/
def spreadInval (s : State) (p : Packet) (tos : List Nat) : State :=
  tos.foldl (fun t d => sendPkt t { p with dst := d, src := t.fab.node }) s

/-- Sends a request that may go: it ends with TIMEOUT when no route leads to its destination (R289). An INVAL goes to the
row and column peers and this node's endpoints, and awaits every member of the map (R298). -/
def launch (s : State) (tag : Nat) (r : Req) : Bool × State :=
  if r.kind = kInval then
    let peers := (rowPeers s.fab.node ++ colPeers s.fab.node).filter (bitOf s.mbr.members)
    let eps := invEndpoints s r.src
    let s1 := spreadInval (dropRemote s (r.addr / 256) r.p.aux) r.p (peers ++ eps)
    let wait := ofBits (otherMembers s)
    if wait = 0 && eps.isEmpty then (true, deliver s1 tag r stOk [])
    else (true, { s1 with fab.reqs := tput s1.fab.reqs tag { r with t := s.now, waitPos := wait, waitEp := eps } })
  else
  let (ok, s1) := sendPacket s r.p
  if ok then (true, { s1 with fab.reqs := tput s1.fab.reqs tag { r with t := s.now } })
  else (false, deliver { s1 with fab.reqs := terase s1.fab.reqs tag } tag r stTimeout [])

/-- Ends a request of this node with a status. -/
def finishReq (s : State) (tag status : Nat) (bytes : List Byte) : State :=
  match tget? s.fab.reqs tag with
  | none => s
  | some r => deliver { s with fab.reqs := terase s.fab.reqs tag } tag r status bytes

/-- Requests with FLAG, and INVALs, that no longer wait for an earlier one: sent, or ended with the first bad status and
FLAG_ABORT (R294, R298). -/
def releaseFlags (s : State) (tag status : Nat) : State :=
  let upd := s.fab.flagWait.map fun w =>
    if w.awaits.contains tag then
      { w with awaits := w.awaits.filter (· != tag), bad := if status = stOk then w.bad else tput w.bad tag status }
    else w
  let go := upd.filter fun w => w.awaits.isEmpty
  let s1 := { s with fab.flagWait := upd.filter fun w => !w.awaits.isEmpty }
  go.foldl (fun t w =>
    match w.bad with
    | (_, st) :: _ => deliver (count t w.req.part Ev.flagAbort) w.tag w.req st []
    | [] => (launch t w.tag w.req).2) s1

/-- Ends a request and lets go what waited for it. -/
def completeReq (s : State) (tag status : Nat) (bytes : List Byte) : State :=
  if (tget? s.fab.reqs tag).isSome then releaseFlags (finishReq s tag status bytes) tag status else s

/-- Requests of a source that order under FLAG: stores, puts and atomics not yet performed. -/
def ordered (s : State) (f : ReqFor) : List Nat :=
  let is (r : Req) : Bool := (r.kind = kStore || r.kind = kPut || r.kind = kAtomic) && r.for_.cluster? == f.cluster?
  ((s.fab.reqs.filter fun kv => is kv.2).map (·.1)) ++ ((s.fab.flagWait.filter fun w => is w.req).map (·.tag))

/-- The invocation whose unit issues a request. -/
def issuer (s : State) (f : ReqFor) : Option Nat :=
  match f with
  | .vatom c _ _ => ((s.cl c).unit 1).inv
  | .store c => ((s.cl c).unit 1).inv
  | .inval c => ((s.cl c).unit 1).inv
  | .copy c _ => ((s.cl c).unit 2).inv
  | _ => none

/-- A request of this node leaves (R285, R294, R298): with its tag; behind every earlier store, put and atomic of its source
when it carries FLAG or is an INVAL. The answer is the tag. -/
def request (s : State) (kind dst part rcls addr len aux : Nat) (payload : List Byte) (flag_ : Bool) (for_ : ReqFor)
    (deadline : Option Nat := none) : Nat × State :=
  let (tag, s1) := newTag s
  let p : Packet := { kind := kind, dst := dst, src := s.fab.node, part := part, flag := flag_, rcls := rcls, len := len,
                      tag := tag, addr := addr, aux := aux, payload := payload }
  let r : Req := { kind := kind, dst := dst, src := s.fab.node, part := part, t := s.now, for_ := for_, addr := addr,
                   len := len, p := p, deadline := deadline, inv := issuer s1 for_ }
  let before := if flag_ || kind = kInval then ordered s1 for_ else []
  if before.isEmpty then (tag, (launch s1 tag r).2)
  else (tag, { s1 with fab.flagWait := s1.fab.flagWait ++ [{ req := r, tag := tag, awaits := before }] })

/-- a is earlier than b, modulo 2^32 (R296). -/
def seqBefore (a b : Nat) : Bool :=
  let d := (b + 2 ^ 32 - a % 2 ^ 32) % 2 ^ 32
  decide (1 ≤ d ∧ d < 2 ^ 31)

/-- A burst sequence has been consumed (R292, R296). -/
def bseqDone (r : RxRec) (b : Nat) : Bool := b = r.high || seqBefore b r.high || r.some_.contains b

/-- Raises the highest sequence over consumed ones that follow it. -/
def raiseHigh : (fuel : Nat) → RxRec → RxRec
  | 0, r => r
  | f + 1, r =>
    let n := (r.high + 1) % 2 ^ 32
    if r.some_.contains n then raiseHigh f { r with high := n, some_ := r.some_.filter (· != n) } else r

/-- Consumes a burst sequence. -/
def bseqTake (r : RxRec) (b : Nat) : RxRec :=
  let r1 := { r with some_ := r.some_ ++ [b] }
  raiseHigh (r1.some_.length + 1) r1

def State.rxOf (s : State) (src : Nat) : RxRec := tgetD s.fab.rx src {}

/-- Early arrivals that follow place `n` without a gap: those discarded under R293 (kind 0) only close their places; the
first other one is ready. -/
def nextEarly (port : Nat) : (fuel n : Nat) → Tab Packet → Nat × Tab Packet × List (Nat × Packet)
  | 0, n, e => (n, e, [])
  | f + 1, n, e =>
    match tget? e n with
    | none => (n, e, [])
    | some p => if p.kind = 0 then nextEarly port f ((n + 1) % 2 ^ 32) (terase e n) else (n, terase e n, [(port, p)])

/-- Closes the place of a fixed-class packet, and makes the next early one ready (R295). -/
def fseqTake (s : State) (port src : Nat) : State :=
  let r := s.rxOf src
  let (n, early, ready) := nextEarly port (r.early.length + 1) ((r.fnext + 1) % 2 ^ 32) r.early
  { s with fab := { s.fab with rx := tput s.fab.rx src { r with fnext := n, early := early }
                               ready := s.fab.ready ++ ready } }

/-- Gives a packet that is not for this node on: to its endpoint, or over one of the two links to its target; when both are
down it goes back to its source as a route refusal (R289). -/
def passOn (s : State) (p : Packet) : State :=
  let t := nodeOf p.dst
  if t = s.fab.node then
    let e := edgePortOf p.dst
    if portUp s e then putOnPort s e p else countNode s Ev.noRoute
  else
    match (linkPorts s.fab.node t).filter (portUp s) with
    | [] => s.emit (.routeRefusal p)
    | x :: xs =>
      let (w, s1) := takeFree s
      putOnPort s1 ((x :: xs).getD (w.toNat % (xs.length + 1)) x) p

/-- Kinds exempt from the generation check (R286, R400). -/
def genExempt (kind : Nat) : Bool := kind = kMbr || kind = kLstate || kind = kReject

/-- The next fabric endpoint of an endpoint's packet, or its refusal: accesses beyond the rack domain are refused (R288), and
messages beyond it go to their gateway (R299). -/
def edgeDst (s : State) (p : Packet) : Except (Bool × Nat) Packet :=
  let num := p.addr / 2 ^ 52
  if inDomainNum num then .ok p
  else if p.kind = kLoad || p.kind = kStore || p.kind = kAtomic then .error (true, stAdmitRefused)
  else if p.kind = kPut || p.kind = kGet then
    match gatewayOf s num with
    | some g => .ok { p with dst := g }
    | none => .error (false, stAdmitRefused)
  else .ok p

/-- Early arrivals that the node holds (R295). -/
def earlyHeld (s : State) : Nat := sumOf (s.fab.rx.map fun kv => kv.2.early.length)

/-- A packet reaches its target (R292, R295): duplicates and the order of the fixed class. `act` is what the packet does, and
whether it has been consumed; one that has to wait is received again. -/
def arrive (s : State) (port : Nat) (p : Packet) (act : Packet → State → Bool × State) : State :=
  let r := s.rxOf p.src
  let burst := !p.payload.isEmpty
  if burst && bseqDone r p.bseq then countNode s Ev.dupBurst
  else if p.rcls = 1 && p.fseq ≠ r.fnext then
    if seqBefore r.fnext p.fseq && decide (earlyHeld s < 512) then
      { s with fab.rx := tput s.fab.rx p.src { r with early := tput r.early p.fseq p } }
    else s
  else
    match act p s with
    | (false, s1) => { s1 with fab.ready := (port, p) :: s1.fab.ready }
    | (true, s1) =>
      let s2 := if burst then { s1 with fab.rx := tput s1.fab.rx p.src (bseqTake (s1.rxOf p.src) p.bseq) } else s1
      if p.rcls = 1 then fseqTake s2 port p.src else s2

/-- The packet as it enters the fabric at this node's port: an endpoint's packet gets the partition of its port and the
current generation (R286). -/
def stampEdge (s : State) (port : Nat) (p : Packet) : Packet :=
  if isEdge port then { p with part := fld (s.port port).ep 12 8, gen := s.mbr.gen } else p

/-- An endpoint's packet carries a number that is not the endpoint's; only a gateway's messages may (R286, R299). -/
def spoofed (s : State) (port : Nat) (p : Packet) : Bool :=
  isEdge port && p.src != endpointNum s.fab.node port &&
    !(fld (s.port port).ep 1 0 = 2 && !inDomainNum p.src &&
      (p.kind = kPut || p.kind = kGet || p.kind = kPut + 0x20 || p.kind = kGet + 0x20))

/-- A packet of an older generation is dropped, and its source told the current one (R286). -/
def rejectOld (s : State) (p : Packet) : State :=
  sendPkt (countNode s Ev.staleGen)
    { kind := kReject, dst := p.src, src := s.fab.node, part := p.part, tag := p.tag, addr := p.addr }

/-- A packet of a newer generation is held (R286). -/
def holdNew (s : State) (port : Nat) (p : Packet) : State :=
  { s with fab := { s.fab with genHold := tput s.fab.genHold s.fab.nextHold ⟨port, p, s.now⟩
                               nextHold := s.fab.nextHold + 1 } }

/-- The checks that every received packet passes (R286, R288, R289): its port, its source, its generation, and whether this
node is its destination; `onward` takes one for another node. -/
def receive (s0 : State) (port kind : Nat) (p0 : Packet) (act : Packet → State → Bool × State)
    (onward : Packet → State → State := fun p s => passOn s p) : State :=
  let p := stampEdge s0 port p0
  let s : State := { s0 with fab.ready := s0.fab.ready.erase (port, p0) }
  if p.kind ≠ kind || !portUp s port then s0
  else if spoofed s port p then countNode s Ev.srcSpoof
  else if !genExempt p.kind && p.gen < s.mbr.gen then rejectOld s p
  else if !genExempt p.kind && s.mbr.gen < p.gen then holdNew s port p
  else
    match (if isEdge port then edgeDst s p else .ok p) with
    | .error (dom, st) => respond (if dom then count s p.part Ev.fabDomainErr else s) p st
    | .ok p1 => if nodeOf p1.dst ≠ s.fab.node || 0x40 ≤ p1.dst then onward p1 s else arrive s port p1 act

/-- Answers a request that has been served; one that was queued is answered by the queue's replay. -/
def answer (p : Packet) (r : Served) : Bool × State :=
  match r with
  | .done st bytes s => (true, respond s p st bytes)
  | .queued s => (true, s)
  | .wait s => (false, s)

end Sys2Proof.Machine
end

