-- ==== Sys2Proof/Machine/Filter.lean ====
section
/-!
DEFINITION. Filter programs (R128, R129) and result entries (R139, R157 to R159).
-/
namespace Sys2Proof.Machine

/-- A term of a filter program, by its 64 bits (R128). -/
abbrev Term := Nat

def tmConst (t : Term) : Nat := bitsOf t 63 32
def tmOff (t : Term) : Nat := bitsOf t 31 26
/-- Bytes of the field. -/
def tmBytes (t : Term) : Nat := 2 ^ bitsOf t 25 24
def tmType (t : Term) : Nat := bitsOf t 23 22
def tmOp (t : Term) : Nat := bitsOf t 21 19
def tmSrc (t : Term) : Nat := bitsOf t 18 17
def tmGroup (t : Term) : Nat := bitsOf t 16 13

/-- A reserved value in a term (R128). -/
def tmBad (t : Term) : Bool :=
  bitsOf t 25 24 == 3 || tmType t == 3 || (tmType t == 2 && bitsOf t 25 24 != 2) || tmSrc t == 3 || bitsOf t 12 0 != 0

/-- The terms of the program that starts at a constant; none when it is invalid or runs past the constants (R128, R82). -/
def filterProg (consts : List (List Byte)) (i : Nat) : Option (List Term) :=
  match consts[i]? with
  | none => none
  | some k0 =>
    let n := getLE k0 0 1
    let words := (List.range ((n + 1) / 2)).flatMap fun j =>
      let k := consts.getD (i + 1 + j) []
      [getLE k 0 8, getLE k 8 8]
    let terms := words.take n
    if n = 0 || 16 < n || !allZero (slice k0 1 15) || consts.length < i + 1 + (n + 1) / 2 || terms.any tmBad ||
        (words.drop n).any (· != 0) then none
    else some terms

/-- A term reaches past the metadata (R129). -/
def tmPast (metaBytes : Nat) (t : Term) : Bool := decide (metaBytes < tmOff t + tmBytes t)

/-- A term on a candidate's metadata (R129). -/
def tmTrue (meta_ : List Byte) (p0 p1 : Nat) (t : Term) : Bool :=
  let w := 8 * tmBytes t
  let field := getLE meta_ (tmOff t) (tmBytes t)
  let val := (if tmSrc t = 0 then tmConst t else if tmSrc t = 1 then p0 else p1) % 2 ^ w
  let eq := if tmType t = 2 then (f32v field != .nan && f32v val != .nan &&
              !(f32lt field val) && !(f32lt val field)) else field == val
  let lt := if tmType t = 0 then decide (field < val)
    else if tmType t = 1 then decide (sext w field < sext w val) else f32lt field val
  let gt := if tmType t = 0 then decide (val < field)
    else if tmType t = 1 then decide (sext w val < sext w field) else f32lt val field
  match tmOp t with
  | 0 => eq
  | 1 => !eq
  | 2 => lt
  | 3 => lt || eq
  | 4 => gt
  | 5 => gt || eq
  | 6 => field &&& val != 0
  | _ => field &&& val == val

/-- A candidate passes: some group holds terms, all of them true (R129). -/
def filterPass (terms : List Term) (meta_ : List Byte) (p0 p1 : Nat) : Bool :=
  (List.range 16).any fun g =>
    let ts := terms.filter fun t => tmGroup t = g
    !ts.isEmpty && ts.all (tmTrue meta_ p0 p1)

/-- A result entry (R159). -/
structure REnt where
  handle : Nat
  score : F32
  flags : Nat
  shard : Nat
deriving DecidableEq, Repr

def REnt.bytes (e : REnt) : List Byte := leBytes 8 e.handle ++ leBytes 4 e.score ++ leBytes 2 e.flags ++ leBytes 2 e.shard
def REnt.ofBytes (b : List Byte) : REnt := ⟨getLE b 0 8, getLE b 8 4, getLE b 12 2, getLE b 14 2⟩
def REnt.exact (e : REnt) : Bool := bitOf e.flags 0
def REnt.pad (e : REnt) : Bool := bitOf e.flags 3

/-- A padding entry (R157). -/
def padEnt (lower : Bool) : REnt := ⟨2 ^ 64 - 1, if lower then 0x7F800000 else 0xFF800000, 8, 0xFFFF⟩

/-- The order key of a score (R139): NaN takes the worst value; a higher key is better. -/
def orderKey (lower : Bool) (score : F32) : Nat :=
  let b0 := if f32isNan score then (if lower then 0x7F800000 else 0xFF800000) else score
  let b := if b0 = 0x80000000 then 0 else b0
  let k := if b < 2 ^ 31 then b + 2 ^ 31 else 2 ^ 32 - 1 - b
  if lower then 2 ^ 32 - 1 - k else k

def REnt.key (lower : Bool) (e : REnt) : Nat := orderKey lower e.score

/-- A result header (R158). -/
structure RHead where
  status : Nat := 0
  hflags : Nat := 0
  k : Nat := 0
  valid : Nat := 0
  epoch : Nat := 0
  tiesOut : Nat := 0
  tieKey : Nat := 0
  dups : Nat := 0
  visits : Nat := 0
deriving DecidableEq, Repr

def RHead.bytes (h : RHead) : List Byte :=
  leBytes 2 h.status ++ leBytes 2 h.hflags ++ leBytes 2 h.k ++ leBytes 2 h.valid ++ leBytes 8 h.epoch ++ leBytes 4 h.tiesOut ++
    leBytes 4 h.tieKey ++ leBytes 4 h.dups ++ leBytes 4 h.visits
def RHead.ofBytes (b : List Byte) : RHead :=
  { status := getLE b 0 2, hflags := getLE b 2 2, k := getLE b 4 2, valid := getLE b 6 2, epoch := getLE b 8 8
    tiesOut := getLE b 16 4, tieKey := getLE b 20 4, dups := getLE b 24 4, visits := getLE b 28 4 }

/-- HFLAGS with one bit set. -/
def setBit (n i : Nat) : Nat := if bitOf n i then n else n + 2 ^ i

/-- A whole result: header, valid entries and padding to K (R157). -/
def resultBytes (lower : Bool) (h : RHead) (es : List REnt) : List Byte :=
  h.bytes ++ es.flatMap REnt.bytes ++ (List.replicate (h.k - es.length) (padEnt lower).bytes).flatten

/-- Entries in an array of 16-byte entries. -/
def entsOf (n : Nat) (b : List Byte) : List REnt := (List.range n).map fun i => .ofBytes (slice b (16 * i) 16)

end Sys2Proof.Machine
end

