-- ==== Sys2Proof/Machine/Merge.lean ====
section
/-!
DEFINITION. Selection and merging of result lists (R139 to R155, R321, R322) as functions on entries.
-/
namespace Sys2Proof.Machine

/-- Best key first; equal keys by ascending handle (R141). -/
def byKeyHandle (lower : Bool) (a b : REnt) : Bool :=
  decide (b.key lower < a.key lower) || (a.key lower == b.key lower && decide (a.handle ≤ b.handle))

/-- Best key first, in the order given among equal keys. -/
def byKey (lower : Bool) (a b : REnt) : Bool := decide (b.key lower ≤ a.key lower)

/-- The bucket of a key (R141). -/
def bucketOf (kmin width key : Nat) : Nat := (key - kmin) * 1024 / width

/-- Least and greatest key of the inputs (0 for none). -/
def keyRange (lower : Bool) (es : List REnt) : Nat × Nat :=
  let ks := es.map (REnt.key lower)
  (minD 0 ks, ks.foldl Nat.max 0)

/-- Bucket counts (R141, R145). -/
def histogram (lower : Bool) (es : List REnt) : List Nat :=
  let (lo, hi) := keyRange lower es
  (List.range 1024).map fun b => (es.filter fun e => bucketOf lo (hi - lo + 1) (e.key lower) = b).length

/-- The boundary bucket and the inputs above it, from bucket `b` down (R141). -/
def boundary (counts : List Nat) (k : Nat) : (b above : Nat) → Nat × Nat
  | 0, above => (0, above)
  | b + 1, above => if above + counts.getD (b + 1) 0 < k then boundary counts k b (above + counts.getD (b + 1) 0)
                    else (b + 1, above)

/-- What a selection keeps (R141 to R143): entries in order, tied entries left out, whether the boundary was filled in input
order, and the key of the last kept entry when k are kept. -/
structure Selected where
  kept : List REnt
  ties : Nat
  approx : Bool
deriving DecidableEq, Repr

/-- Bucket selection of k (R141 to R144). -/
def bucketSelect (lower : Bool) (k : Nat) (es : List REnt) : Selected :=
  if es.length ≤ k then ⟨sortBy (byKeyHandle lower) es, 0, false⟩
  else
    let (lo, hi) := keyRange lower es
    let bk (e : REnt) : Nat := bucketOf lo (hi - lo + 1) (e.key lower)
    let (b, above) := boundary (histogram lower es) k 1023 0
    let need := k - above
    let top := es.filter fun e => b < bk e
    let edge := es.filter fun e => bk e = b
    if edge.length ≤ 1024 then
      let sorted := sortBy (byKeyHandle lower) edge
      let out := sorted.take need
      let star := (out.getLast?.map (REnt.key lower)).getD 0
      ⟨sortBy (byKeyHandle lower) (top ++ out), ((sorted.drop need).filter fun e => e.key lower = star).length, false⟩
    else ⟨sortBy (byKeyHandle lower) (top ++ edge.take need), 0, true⟩

/-- Inserts one candidate into a Crumb list of at most k entries (R146); the flag says that it entered. -/
def crumbInsert (lower : Bool) (k : Nat) (xs : List REnt) (e : REnt) : List REnt × Bool :=
  if xs.length < k then (insertBy (byKey lower) e xs, true)
  else
    match xs.getLast? with
    | some l => if l.key lower < e.key lower then ((insertBy (byKey lower) e xs).take k, true) else (xs, false)
    | none => (xs, false)

/-- An entry of a merge with the number of its list and its place in it. -/
structure MEnt where
  e : REnt
  list : Nat
  pos : Nat
deriving DecidableEq, Repr

/-- The copy of a handle that is kept (R151): EXACT first, then the higher key, then the lower shard field. -/
def copyBeats (lower : Bool) (a b : REnt) : Bool :=
  if a.exact != b.exact then a.exact
  else if a.key lower != b.key lower then decide (b.key lower < a.key lower)
  else decide (a.shard < b.shard)

/-- One entry per handle, with the copies removed (R151). -/
def resolve (lower : Bool) (xs : List MEnt) : List MEnt × Nat :=
  let mark (m : MEnt) : MEnt := { m with e := { m.e with flags := setBit m.e.flags 2 } }
  xs.foldl (fun (acc : List MEnt × Nat) x =>
    match acc.1.find? fun y => y.e.handle = x.e.handle with
    | none => (acc.1 ++ [x], acc.2)
    | some y =>
      let z := mark (if copyBeats lower x.e y.e then x else y)
      (acc.1.map fun w => if w.e.handle = x.e.handle then z else w, acc.2 + 1)) ([], 0)

/-- An input list taken apart: its header, its valid entries, and whether it was joined in flight. -/
structure MList where
  h : RHead
  es : List REnt
  joined : Bool
deriving DecidableEq, Repr

def MList.of (bytes : List Byte) (joined : Bool) : MList :=
  let h := RHead.ofBytes bytes
  ⟨h, entsOf h.valid (bytes.drop 32), joined⟩

/-- Valid entries in non-increasing key order (R150). -/
def inOrder (lower : Bool) : List REnt → Bool
  | a :: b :: r => byKey lower a b && inOrder lower (b :: r)
  | _ => true

/-- The KNE_ERR bits of an input list (R150, R163, R322). -/
def listErr (lower : Bool) (k : Nat) (l : MList) : Nat :=
  reasons [(l.es.any REnt.pad, 1), (!inOrder lower l.es, 2),
    (decide ((if l.joined then 1024 else k) < l.h.valid), 4), (l.h.k != k, 8)]
where
  reasons (rs : List (Bool × Nat)) : Nat := rs.foldl (fun a r => if r.1 then a + r.2 else a) 0

/-- An input that had filled its places (R152, R322). -/
def MList.full (l : MList) : Bool := l.h.valid == l.h.k || (l.joined && l.h.tieKey != 0)

/-- The numbered entries of the lists that are used. -/
def numbered (ls : List (Nat × MList)) : List MEnt := ls.flatMap fun nl => nl.2.es.mapIdx fun j e => ⟨e, nl.1, j⟩

/-- The order of a merge's output (R152): key, then list number, then place. -/
def mergeLe (lower : Bool) (a b : MEnt) : Bool :=
  decide (b.e.key lower < a.e.key lower) || (a.e.key lower == b.e.key lower &&
    (decide (a.list < b.list) || (a.list == b.list && decide (a.pos ≤ b.pos))))

/-- A Kneader's merge (R150 to R152): the merged list, the copies removed, and the error bits and number of dropped lists. -/
structure Merged where
  head : RHead
  es : List REnt
  dups : Nat
  err : Nat
  bad : Nat
deriving DecidableEq, Repr

def orFlags (ls : List MList) : Nat := ls.foldl (fun a l => a ||| l.h.hflags) 0

def kneMerge (lower : Bool) (k : Nat) (lists : List MList) (partialIn : Bool) : Merged :=
  let all := lists.mapIdx fun i l => (i, l)
  let good := all.filter fun nl => listErr lower k nl.2 = 0
  let bad := all.length - good.length
  let err := all.foldl (fun a nl => a ||| listErr lower k nl.2) 0
  let ls := good.map (·.2)
  let (ents, dups) := resolve lower (numbered good)
  let sorted := sortBy (fun a b => byKeyHandle lower a.e b.e) ents
  let kept := sorted.take k
  let valid := kept.length
  let star := if valid = k then (kept.getLast?.map fun m => m.e.key lower).getD 0 else 0
  let left := ((sorted.drop k).filter fun m => m.e.key lower = star).length
  let ties := if valid = k then
      left + sumOf ((ls.filter fun l => l.h.tieKey = star && l.full).map fun l => l.h.tiesOut)
    else 0
  let fl0 := orFlags ls
  let fl1 := if ties = 0 then (if bitOf fl0 0 then fl0 - 1 else fl0) else setBit fl0 0
  let fl2 := if bad ≠ 0 || partialIn then setBit fl1 5 else fl1
  { head := { hflags := fl2, k := k, valid := valid, epoch := (ls.head?.map fun l => l.h.epoch).getD 0, tiesOut := ties,
              tieKey := star, dups := sumOf (ls.map fun l => l.h.dups) + dups,
              visits := min (sumOf (ls.map fun l => l.h.visits)) 0xFFFFFFFF }
    es := (sortBy (mergeLe lower) kept).map (·.e)
    dups := dups, err := err, bad := bad }

/-- Lists joined in flight (R153, R321): duplicates resolved, nothing cut. -/
def joinLists (lower : Bool) (a b : MList) : MList :=
  let (ents, dups) := resolve lower (numbered [(0, a), (1, b)])
  let fulls := [a, b].filter MList.full
  let tk := fulls.foldl (fun x l => max x l.h.tieKey) 0
  let es := (sortBy (mergeLe lower) ents).map (·.e)
  let ties := sumOf ((fulls.filter fun l => l.h.tieKey = tk).map fun l => l.h.tiesOut)
  let fl0 := a.h.hflags ||| b.h.hflags
  let fl := if ties = 0 then (if bitOf fl0 0 then fl0 - 1 else fl0) else setBit fl0 0
  { h := { a.h with
      hflags := fl, valid := es.length, tieKey := tk, tiesOut := ties
      dups := a.h.dups + b.h.dups + dups, visits := min (a.h.visits + b.h.visits) 0xFFFFFFFF }
    es := es, joined := true }

end Sys2Proof.Machine
end

