-- ==== Sys2Proof/Machine/QueryOps.lean ====
section
/-!
DEFINITION. What a query's end on a node does: delivery by Peel (R16, R131), partial lists (R317), and the query merge on the
entry node (R312, R325).
-/
namespace Sys2Proof.Machine

/-- Fields of a query descriptor (R110). -/
def qK (d : List Byte) : Nat := bitsOf (getLE d 0x2C 2) 9 0 + 1
def qForm (d : List Byte) : Nat := bitsOf (getLE d 0x2C 2) 11 10
def qWiden (d : List Byte) : Nat := bitsOf (getLE d 0x2C 2) 13 12
def qFilter (d : List Byte) : Nat := getLE d 0x42 2
def qSpan (d : List Byte) : Bool := bitOf (getLE d 1 1) 1
def qNoSpec (d : List Byte) : Bool := bitOf (getLE d 1 1) 2
def qBeam (d : List Byte) : Nat := getLE d 0x30 2
def qVisits (d : List Byte) : Nat := getLE d 0x32 2
def qRerank (d : List Byte) : Nat := getLE d 0x34 2
/-- The effective pool: 0 selects the largest of k, RERANK and BEAM. -/
def qPool (d : List Byte) : Nat :=
  let p := getLE d 0x36 2
  if p = 0 then max (qK d) (max (qRerank d) (qBeam d)) else p
/-- Reserves in ns (R110, R127). -/
def qRrRes (d : List Byte) : Nat := let r := getLE d 0x3C 1; if r = 0 then 100000 else r * 4000
def qMgRes (d : List Byte) : Nat := let r := getLE d 0x3D 1; if r = 0 then 20000 else r * 1000
def qSpecMax (d : List Byte) : Nat := let r := getLE d 0x40 2; if r = 0 then 2 * qRerank d else r
def qNprobe (d : List Byte) : Nat := getLE d 0x3E 1 + 1
def qSeeds (d : List Byte) : Nat := let r := getLE d 0x3F 1; if r = 0 then 16 else r

/-- The index a query names, and whether lower scores are better (R108). -/
def queryIndex (s : State) (q : Query) : Option Index := tget? s.work.indexes (getLE q.desc 0x28 2)
def queryLower (s : State) (q : Query) : Bool :=
  match queryIndex s q with
  | some x => (idxD x.desc).lower
  | none => false

/-- The status of a query that ends with results (R131): on a merged result its valid count decides (R155). -/
def queryStatus (q : Query) (merged : Bool) (valid : Nat) : Nat :=
  let k := qK q.desc
  if qFilter q.desc ≠ 0 && decide ((if merged then valid else min q.passed valid) < k) then stFilterShort
  else if valid < k then stOkShort else stOk

/-- Peel writes a query's result, then its completion (R16, R158). -/
def deliverQuery (s : State) (qid : Nat) (q : Query) (merged : Bool) (bytes : List Byte) : State :=
  let h := RHead.ofBytes bytes
  let st := queryStatus q merged h.valid
  let s1 := match q.cid.bind (tget? s.host.cmds) with
    | some c => resultWrite s c.fn c.gen (getLE q.desc 8 8) (patch bytes 0 (leBytes 2 st))
    | none => s
  let nd := merged || (match (q.inv.bind (tget? s.work.invs)) with
    | some v => invNd s v
    | none => false)
  endQuery s1 qid st nd

/-- A query whose epoch has left retention ends (R242). -/
def expireQuery (s : State) (qid : Nat) : State :=
  match tget? s.work.queries qid with
  | none => s
  | some q => endQuery (count { s with epo.err := orErr s.epo.err q.part 2 } q.part Ev.epochExpired) qid stEpochExpired

/-- A list in bursts of 240 bytes behind their prefixes (R317). -/
def listBursts (inst cflags ranks : Nat) (bytes : List Byte) : List (List Byte) :=
  let cs := chunks 240 (bytes.length / 240 + 1) bytes
  cs.mapIdx fun i c => collPrefix inst i (cflags + if i + 1 = cs.length then 2 else 0) 0 ranks ++ c

/-- Sends a list to its root (R317). -/
def sendList (s : State) (kind dst part inst aux cflags ranks : Nat) (bytes : List Byte) : State :=
  (listBursts inst cflags ranks bytes).foldl (fun t b =>
    sendPkt t { kind := kind, dst := dst, src := t.fab.node, part := part, rcls := 1, len := b.length, addr := dst * 2 ^ 52,
                aux := aux, payload := b }) s

/-- Takes a free Kneader for a merge, or waits behind the merges that wait already (R156). -/
def takeKneader (s : State) (m : Merge) : State :=
  match (if s.work.kneWait.isEmpty then tfreeBelow s.work.kne 16 else none) with
  | some k => { s with work.kne := tput s.work.kne k m }
  | none => count { s with work.kneWait := s.work.kneWait ++ [m] } m.part Ev.kneWait

/-- All ranks of an instance. -/
def allRanks (mask : Nat) : Nat := 2 ^ popCount 64 mask - 1

/-- Ranks that are still missing. -/
def Coll.missing (c : Coll) : Nat := allRanks c.mask &&& ((c.taken ||| c.absent) ^^^ (2 ^ 64 - 1))

/-- Ranks become absent: SWC_ABSENT for each, and the partition's ABSENT bit (R325, R328, R333). -/
def absentRanks (s : State) (key ranks : Nat) : State :=
  match tget? s.fab.colls key with
  | none => s
  | some c =>
    let new := ranks &&& c.missing
    if new = 0 then s
    else
      let s1 := { s with fab.colls := tput s.fab.colls key { c with absent := c.absent ||| new } }
      count { s1 with fab.swcErr := orErr s1.fab.swcErr c.part 0 } c.part Ev.swcAbsent 0xFF (popCount 64 new)

/-- Counts, per contributing position, the ranks that a root took and those that were absent at the close (R407). -/
def tally (s : State) (c : Coll) : State :=
  let ps := bitsSet 64 c.mask
  let got (i : Nat) : Bool := bitOf c.taken i
  { s with mbr := { s.mbr with
      taken := (ps.mapIdx fun i p => (i, p)).foldl (fun t x => if got x.1 then tmod t x.2 0 (· + 1) else t) s.mbr.taken
      absent := (ps.mapIdx fun i p => (i, p)).foldl (fun t x => if got x.1 then t else tmod t x.2 0 (· + 1)) s.mbr.absent } }

/-- A query merge whose lists are complete goes to a Kneader (R153, R155): every rank is taken or absent, or the merge has
closed, and the entry node's own list is there. -/
def mergeReady (s : State) (key : Nat) : State :=
  match tget? s.fab.colls key with
  | none => s
  | some c =>
    match c.qid, c.own with
    | some qid, some own =>
      if c.missing ≠ 0 && !c.closed then s
      else
        match tget? s.work.queries qid with
        | none => { s with fab.colls := terase s.fab.colls key }
        | some q =>
          let m : Merge := { part := c.part, k := qK q.desc, lower := queryLower s q, lists := (own, false) :: c.lists
                             partialIn := c.absent ≠ 0, stamp := q.stamp, qid := some qid }
          takeKneader (tally { s with fab.colls := terase s.fab.colls key } c) m
    | _, _ => s

end Sys2Proof.Machine
end

