-- ==== Sys2Proof/Machine/VecOps.lean ====
section
/-!
DEFINITION. What the tensor and vector units share: elements in scratch (R49, R50), the Levain stream (R67, R272), conversion
of groups (R54 to R59), and the issue of words that read scratch or memory.
-/
namespace Sys2Proof.Machine

/-- The byte address of a scratch operand (R79). -/
def gran (x : Nat) : Nat := x * 32

/-- Bytes that `n` elements of a format take (R50). -/
def fmtBytes (f : Fmt) (n : Nat) : Nat := ceilDiv (n * f.bits) 8

/-- Element `i` of an array at byte address `a` (R50). -/
def scrElem (x : Cluster) (f : Fmt) (a i : Nat) : Nat :=
  if f.bits = 4 then bitsOf (scr x (a + i / 2)).toNat (i % 2 * 4 + 3) (i % 2 * 4)
  else leNat (scrRead x (a + i * (f.bits / 8)) (f.bits / 8))

def scrElems (x : Cluster) (f : Fmt) (a n : Nat) : List Nat := (List.range n).map (scrElem x f a)

/-- Stores element `i` of an array; the other half of a byte stays (R50). -/
def putElem (f : Fmt) (a i v : Nat) (t : Tab Byte) : Tab Byte :=
  if f.bits = 4 then
    let at_ := (a + i / 2) % 2097152
    let old := (tgetD t at_ 0).toNat
    scrPut t at_ (BitVec.ofNat 8 (if i % 2 = 0 then old / 16 * 16 + v % 16 else old % 16 + v % 16 * 16))
  else scrWriteT t (a + i * (f.bits / 8)) (leBytes (f.bits / 8) v)

def putElems (f : Fmt) (a : Nat) : (i : Nat) → List Nat → Tab Byte → Tab Byte
  | _, [], t => t
  | i, v :: vs, t => putElems f a (i + 1) vs (putElem f a i v t)

/-- Stores an array of elements in a cluster's scratch. -/
def scrPutElems (s : State) (c : Nat) (f : Fmt) (a : Nat) (vs : List Nat) : State :=
  let x := s.cl c
  s.setCl c { x with scratch := putElems f a 0 vs x.scratch }

/-- Free value number `i` of this step, and the counter behind `n` of them. -/
def freeAt (s : State) (i : Nat) : W64 := Config.freeWord (s.freeCtr + i)
def skipFree (s : State) (n : Nat) : State := { s with freeCtr := s.freeCtr + n }

/-- Philox-4×32 with 10 rounds (R272). -/
def philoxRound (k0 k1 : Nat) (x : Nat × Nat × Nat × Nat) : Nat × Nat × Nat × Nat :=
  let (c0, c1, c2, c3) := x
  let p0 := 0xD2511F53 * c0
  let p1 := 0xCD9E8D57 * c2
  ((p1 / 2 ^ 32) ^^^ c1 ^^^ k0, p1 % 2 ^ 32, (p0 / 2 ^ 32) ^^^ c3 ^^^ k1, p0 % 2 ^ 32)

def philox : (rounds k0 k1 : Nat) → Nat × Nat × Nat × Nat → Nat × Nat × Nat × Nat
  | 0, _, _, x => x
  | n + 1, k0, k1, x =>
    philox n ((k0 + 0x9E3779B9) % 2 ^ 32) ((k1 + 0xBB67AE85) % 2 ^ 32) (philoxRound k0 k1 x)

/-- Draw `d` of a lane's stream (R272). -/
def levain (seed step role cluster lane d : Nat) : Nat :=
  let c1 := role % 256 * 4096 + cluster % 128 * 32 + lane % 32
  let (x0, x1, x2, x3) := philox 10 (seed % 2 ^ 32) (seed / 2 ^ 32 % 2 ^ 32)
    (d / 8 % 2 ^ 32, c1, step % 2 ^ 32, step / 2 ^ 32 % 2 ^ 32)
  let j := d % 8
  let w := if j / 2 = 0 then x0 else if j / 2 = 1 then x1 else if j / 2 = 2 then x2 else x3
  bitsOf w (16 * (j % 2) + 15) (16 * (j % 2))

/-- The invocation a unit works on, and its step. -/
def unitInv (s : State) (c u : Nat) : Option Nat := ((s.cl c).unit u).inv
def unitStep (s : State) (c u : Nat) : Nat :=
  match unitInv s c u with
  | some i => (tgetD s.work.invs i { plan := 0, role := 0, part := 0, words := [] }).step
  | none => 0

/-- The rounding of element `i` of a conversion (R58, R67): element i lies in lane i mod 32, in element order. -/
def rndOf (s : State) (c u : Nat) (sr : Bool) (i : Nat) : Rnd :=
  if sr then
    .stoch (levain (clPlan s c).seed (unitStep s c u) (s.cl c).role c (i % 32) (tgetD (s.cl c).draws (i % 32) 0 + i / 32))
  else .near

/-- The draws of `n` elements are consumed (R67). -/
def takeDraws (s : State) (c : Nat) (sr : Bool) (n : Nat) : State :=
  if sr && n != 0 then
    let x := s.cl c
    s.setCl c { x with draws := (List.range 32).foldl (fun t l => tmod t l 0 (· + (n + 31 - l) / 32)) x.draws }
  else s

/-- An E4M3 or E5M2 array carries a record only at tensor granularity (R54). -/
def scaled (f : Fmt) (g : Nat) : Bool := f.isPi || f.isMx || ((f == .e4m3 || f == .e5m2) && g == 0)

/-- A value beyond the largest finite one saturates in E4M3 and E5M2 unless NSAT is set (R59), and always in an MX element. -/
def satOf (f : Fmt) (nsat : Bool) : Bool := f.isMx || ((f == .e4m3 || f == .e5m2) && !nsat)

/-- One element converted to a target under a scale and zero point, and whether it counts as clipped (R56, R58, R59). -/
def encElem (f : Fmt) (r : Rnd) (nsat : Bool) (sc : Fv) (zp : Nat) (v : Fv) : Nat × Bool :=
  match f.lay? with
  | some l => l.encode r (satOf f nsat) (v.div sc)
  | none =>
    let (q, clip) := toIntElem f r (if f == .mxint8 then sc.mul (.scaled false 1 (-6)) else sc) zp v
    (wrapTo f.bits q, clip)

/-- One, as a value. -/
def fvOne : Fv := .fin false 1 1

/-- The scale and zero point that the bits of a stored scale give: a record (R52), or an E8M0 scale (R49). -/
def scaleOf (f : Fmt) (b : Nat) : Fv × Nat :=
  if f.isMx then (e8m0 (b % 256), 0)
  else
    let r := Scale.ofBits b
    (r.val, r.zp)

/-- Bytes of one stored scale of a format. -/
def scaleBytes (f : Fmt) : Nat := if f.isMx then 1 else 4

/-- The value of an element under its scale (R49, R52). -/
def valElem (f : Fmt) (sc : Fv) (zp : Nat) (b : Nat) : Fv :=
  if f.isPi then (Fv.ofInt (f.elemInt b - zp)).mul sc else (f.elem b).mul sc

/-- Elements of a group at a granularity (R54, R81): the whole tensor, a row, or a block of 32; an MX format has blocks. -/
def groupLen (w : Nat) (f : Fmt) (g n : Nat) : Nat :=
  if f.isMx || g = 2 then 32 else if g = 1 then max 1 (Config.rowElems w) else max 1 n

/-- The largest finite magnitude of a group, and whether any finite value is non-zero (R54, R56). -/
def maxMag (vs : List Fv) : Nat × Nat :=
  vs.foldl (fun a v => match v with
    | .fin _ n d => if a.1 * d < n * a.2 then (n, d) else a
    | _ => a) (0, 1)

/-- The least and greatest of 0 and the finite values of a group. -/
def minMax (vs : List Fv) : Fv × Fv :=
  vs.foldl (fun a v => if v.isFin then (if v.lt a.1 then v else a.1, if a.2.lt v then v else a.2) else a)
    (.fin false 0 1, .fin false 0 1)

/-- The clip factor as a fraction (R54): 0 stands for 65,536. -/
def clipOf (clip : Nat) : Nat := if clip = 0 then 65536 else clip

/-- The stored scale that the proofing pass gives a group (R54 to R56). -/
def proofGroup (f : Fmt) (clip : Nat) (vs : List Fv) : Nat :=
  let (n, d) := maxMag vs
  let cf := clipOf clip
  if f.isMx then mxScale f n d
  else if n = 0 then 0
  else
    match f with
    | .pu8 =>
      let (lo, hi) := minMax vs
      let k (x : Nat) : Fv := .fin false x 65536
      let half : Fv := .fin false 1 2
      let mid := (lo.add hi).mul half
      let lo1 := mid.add ((lo.add mid.neg).mul (k cf))
      let hi1 := mid.add ((hi.add mid.neg).mul (k cf))
      let sc := (hi1.add lo1.neg).div (.ofInt 255)
      match sc with
      | .fin _ sn sd =>
        let zp := (toIntElem .uint8 .near sc 0 lo1.neg).1.toNat
        (Scale.encode sn sd zp).toBits
      | _ => 0
    | .pi4 => (Scale.encode (n * cf) (d * 65536 * 7) 0).toBits
    | .e4m3 => (Scale.encode (n * cf) (d * 65536 * 448) 0).toBits
    | .e5m2 => (Scale.encode (n * cf) (d * 65536 * 57344) 0).toBits
    | _ => (Scale.encode (n * cf) (d * 65536 * 127) 0).toBits

/-- The proofing pass has a record for a target at this granularity (R54); for another target the spec states none. -/
def proofable (f : Fmt) (g : Nat) : Bool := scaled f g

/-- NaN and infinite inputs (R56). -/
def nonfinite (vs : List Fv) : Nat := (vs.filter fun v => !v.isFin).length

/-- A group converted (R56, R58): a group without a finite non-zero value gives zeros in a scaled target. -/
def convGroup (f : Fmt) (g : Nat) (rnd : Nat → Rnd) (nsat : Bool) (sc : Fv) (zp : Nat) (i0 : Nat) (vs : List Fv) :
    List (Nat × Bool) :=
  let zero := scaled f g && (maxMag vs).1 == 0
  vs.mapIdx fun i v => if zero || sc.isZero then (0, !v.isFin) else encElem f (rnd (i0 + i)) nsat sc zp v

/-- Counts a conversion's values and clips under a slot, and stores its elements (R65). -/
def storeConv (s : State) (c slot : Nat) (f : Fmt) (a : Nat) (es : List (Nat × Bool)) : State :=
  satCount (scrPutElems s c f a (es.map (·.1))) c slot es.length (es.filter (·.2)).length

/-- The word is behind its unit, whose invocation or query ends with a status: an access of its work has failed (R11, R190). -/
def failInv (s : State) (c u : Nat) (e : Ending) : State :=
  let i := unitInv s c u
  let s1 := retire s c u
  match i with
  | some i => endWork s1 i e
  | none => s1

/-- Scratch that a word reads meets detector 0x01 (R392, R394): intervals of byte address and length. The answer says that the
cluster has been fenced. -/
def scrChecks (s : State) (c : Nat) (rs : List (Nat × Nat)) : Bool × State :=
  let target := (tgetD s.err.inj 1 {}).target
  let hit (t : Nat) : Bool :=
    let g := bitsOf t 11 7 * 2048 + bitsOf t 22 12
    bitsOf t 6 0 == c && bitsOf t 11 7 != 31 &&
      rs.any fun r => r.2 != 0 && decide (r.1 / 32 ≤ g) && decide (g ≤ (r.1 + r.2 - 1) / 32)
  match injHit s 1 hit with
  | (none, _) => (false, s)
  | (some true, s1) => (true, fenceFor s1 c 1 target true)
  | (some false, s1) => (false, detect s1 1 sevCorr actCounted (s.cl c).part target 0 0 true)

/-- Issues a word that reads scratch intervals `rd`. `f` answers whether the word could go on; where it could not, what it did
stays and its tokens come back. -/
def issueW (s : State) (c u op : Nat) (rd : Nat → State → List (Nat × Nat)) (f : Nat → State → Bool × State) : State :=
  issue s c u op fun w t =>
    match scrChecks t c (rd w t) with
    | (true, t1) => some t1
    | (false, t1) =>
      match f w t1 with
      | (true, t2) => some t2
      | (false, t2) => some (t2.setCl c { t2.cl c with tokens := (s.cl c).tokens })

/-- Issues a word that completes at once. -/
def issueR (s : State) (c u op : Nat) (rd : Nat → State → List (Nat × Nat)) (f : Nat → State → State) : State :=
  issueW s c u op rd fun w t => (true, retire (f w t) c u)

/-- Modifiers of the vector unit (R81). -/
def vSf (w : Nat) : Fmt := .ofCode (wMod w 39 36)
def vDf (w : Nat) : Fmt := .ofCode (wMod w 35 32)
def vGran (w : Nat) : Nat := wMod w 31 30
def vClip (w : Nat) : Nat := wMod w 29 14
def vSlot (w : Nat) : Nat := wMod w 13 8
def vRnd (w : Nat) : Bool := wMod w 7 7 == 1
def vNsat (w : Nat) : Bool := wMod w 6 6 == 1
def vSub (w : Nat) : Nat := wMod w 5 0

end Sys2Proof.Machine
end

