-- ==== Sys2Proof/Machine/Tensor.lean ====
section
/-!
DEFINITION. The tensor unit (R60 to R64, R81, R82, R125).
-/
namespace Sys2Proof.Machine

def tAf (w : Nat) : Fmt := .ofCode (wMod w 39 36)
def tBf (w : Nat) : Fmt := .ofCode (wMod w 35 32)
def tOf (w : Nat) : Fmt := .ofCode (wMod w 31 28)
def tAcc (w : Nat) : Nat := wMod w 27 26
def tRs (w : Nat) : Nat := wMod w 25 24
def tM (w : Nat) : Nat := 64 * (wMod w 23 20 + 1)
def tN (w : Nat) : Nat := 64 * (wMod w 19 16 + 1)
def tK (w : Nat) : Nat := 64 * (wMod w 15 8 + 1)
def tRnd (w : Nat) : Bool := wMod w 1 1 == 1
def tNsat (w : Nat) : Bool := wMod w 0 0 == 1

/-- Column `j` of a matrix of rows. -/
def column (rows : List (List Nat)) (j : Nat) : List Nat := rows.map fun r => r.getD j 0

/-- Pairs of elements along the reduction dimension. -/
def pairs (a b : List Nat) : List (Nat × Nat) := a.zip b

/-- One accumulator after an integer dot product (R60): every product joins in ascending order; the flag says that the sum
saturated. -/
def dotInt (af bf : Fmt) (start : Int) (ps : List (Nat × Nat)) : Int × Bool :=
  ps.foldl (fun x p => let y := accInt x.1 (af.elemInt p.1 * bf.elemInt p.2); (y.1, x.2 || y.2)) (start, false)

/-- One FP32 accumulator after a dot product of unscaled elements (R60, R61). -/
def dotFp (af bf : Fmt) (start : F32) (ps : List (Nat × Nat)) : F32 :=
  ps.foldl (fun x p => f32r (((af.elem p.1).mul (bf.elem p.2)).add (f32v x))) start

/-- One FP32 accumulator after a dot product with an MX operand (R61): each block of 32 products is formed exactly, multiplied
by its scale and added. -/
def dotMx (af bf : Fmt) (start : F32) (sc : Nat → Fv) (ps : List (Nat × Nat)) : F32 :=
  ((chunks 32 ps.length ps).mapIdx fun b blk =>
    (blk.foldl (fun (x : Fv) p => x.add ((af.elem p.1).mul (bf.elem p.2))) (.fin false 0 1)).mul (sc b)).foldl
    (fun x v => f32r (v.add (f32v x))) start

/-- Values written to a floating target (R54, R58, R59): the blocks of an MX target take their own scales. -/
def outVals (f : Fmt) (rnd : Nat → Rnd) (nsat : Bool) (vs : List Fv) : List (Nat × Bool) :=
  if f.isMx then
    ((chunks 32 vs.length vs).mapIdx fun b blk =>
      let (n, d) := maxMag blk
      convGroup f 2 rnd nsat (e8m0 (mxScale f n d)) 0 (32 * b) blk).flatten
  else vs.mapIdx fun i v => encElem f (rnd i) nsat fvOne 0 v

/-- INT32 sums written out under a scale (R62 to R64): with MULT and SHIFT to an integer target, through the FP32 product of
the input scales to a floating one. Each sum comes with its input scales. -/
def outInts (f : Fmt) (rnd : Nat → Rnd) (nsat : Bool) (so : Scale) (xs : List (Int × Fv × Fv)) : List (Nat × Bool) :=
  if f.isInt then
    xs.map fun x =>
      let (n, d) := rescaleFactor x.2.1 x.2.2 so.val
      let (mult, shift) := multShift n d
      let (lo, hi) := f.range
      let (q, clip) := rescale mult shift so.zp lo hi x.1
      (wrapTo f.bits q, clip)
  else outVals f rnd nsat (xs.map fun x => f32v (f32r ((Fv.ofInt x.1).mul (f32v (f32r (x.2.1.mul x.2.2))))))

/-- The output record of a write-out or rescale (R64): a constant, or a record in scratch. -/
def outScale (s : State) (c : Nat) (proofed : Bool) (x : Nat) : Scale :=
  .ofBits (if proofed then leNat (scrRead (s.cl c) (gran x) 4) else getLE (clConst s c x) 0 4)

/-- The accumulators that a TMMA leaves, by index row × N + column, as 32-bit patterns with a saturation flag (R60, R61). The
scales of MX and proofed operands are free values: no operand names them. Free values are numbered from `s.freeCtr`: block
scales of A and of B, then start values of the other kind, then sums of a proofed operand with a floating one. -/
def tmmaAccs (s : State) (c w : Nat) : List (Nat × Bool) :=
  let x := s.cl c
  let (af, bf, m, n, k) := (tAf w, tBf w, tM w, tN w, tK w)
  let kb := k / 32
  let int := af.isInt && bf.isInt
  let rowsA := (List.range m).map fun i => (List.range k).map fun j => scrElem x af (gran (wA w)) (i * k + j)
  let rowsB := (List.range k).map fun i => (List.range n).map fun j => scrElem x bf (gran (wB w)) (i * n + j)
  let add := tAcc w % 2 == 1
  let sc (f : Fmt) (i : Nat) : Fv := if f.isMx then e8m0 (fld (freeAt s i) 7 0) else fvOne
  (List.range (m * n)).map fun e =>
    let (i, j) := (e / n, e % n)
    let old := tgetD x.acc (i * 1024 + j) 0
    let start : Nat :=
      if !add || old = 0 then 0
      else if x.accInt == int then old
      else fld (freeAt s ((m + n) * kb + e)) 31 0
    let ps := pairs (rowsA.getD i []) (column rowsB j)
    if int then
      let (v, sat) := dotInt af bf (sext 32 start) ps
      (wrapTo 32 v, sat)
    else if af.isPi || bf.isPi then (fld (freeAt s ((m + n) * kb + m * n + e)) 31 0, false)
    else if af.isMx || bf.isMx then
      (dotMx af bf start (fun b => (sc af (i * kb + b)).mul (sc bf (m * kb + j * kb + b))) ps, false)
    else (dotFp af bf start ps, false)

/-- The elements that a TMMA writes out (R81, R64), with their clips. The row scales of a proofed A and the column scales of a
proofed B are free values; those of the other formats are 1. -/
def tmmaOut (s : State) (c w : Nat) (accs : List Nat) : List (Nat × Bool) :=
  let (af, bf, f, m, n) := (tAf w, tBf w, tOf w, tM w, tN w)
  let base := (m + n) * (tK w / 32) + 2 * (m * n)
  let sc (g : Fmt) (i : Nat) : Fv := if g.isPi then (scaleOf g (fld (freeAt s (base + i)) 31 0)).1 else fvOne
  let int := af.isInt && bf.isInt
  let rnd := rndOf s c 0 (tRnd w && !f.isInt)
  if tRs w = 0 then
    accs.map fun a => (if int && f == .fp32 then f32ofInt (sext 32 a) else a, false)
  else
    let so := outScale s c (tRs w == 2) (wD w)
    if int then outInts f rnd (tNsat w) so (accs.mapIdx fun e a => (sext 32 a, sc af (e / n), sc bf (m + e % n)))
    else if f.isInt then accs.map fun a => let (q, clip) := toIntElem f (rndOf s c 0 false 0) so.val so.zp (f32v a)
                                           (wrapTo f.bits q, clip)
    else outVals f rnd (tNsat w) (accs.map fun a => (f32v a).div (if so.val.isZero then fvOne else so.val))

/-- The multiplication, and its write-out when ACC asks for one. -/
def tmmaDo (s : State) (c w : Nat) : State :=
  let x := s.cl c
  let (m, n) := (tM w, tN w)
  let accs := tmmaAccs s c w
  let keep : Tab Nat := if tAcc w % 2 = 1 then x.acc else []
  let acc1 := (accs.mapIdx fun e a => (e / n * 1024 + e % n, a.1)).foldl (fun t kv => tput t kv.1 kv.2) keep
  let s1 := accsatCount (s.setCl c { x with acc := acc1, accInt := (tAf w).isInt && (tBf w).isInt }) c
    (accs.filter (·.2)).length
  let es := tmmaOut s1 c w (accs.map (·.1))
  let int := (tAf w).isInt && (tBf w).isInt
  let raw := tRs w == 0 && !(int && tOf w == .fp32)
  let s2 :=
    if tAcc w < 2 then s1
    else if raw then scrPutElems s1 c (tOf w) (gran (wC w)) (es.map (·.1))
    else takeDraws (storeConv s1 c (wSlot 0 w) (tOf w) (gran (wC w)) es) c (tRnd w && !(tOf w).isInt && tRs w != 0) (m * n)
  skipFree s2 ((m + n) * (tK w / 32) + 2 * (m * n) + m + n)

/-- TMMA (R60 to R64, R81, R82): A × B into the accumulator, and the write-out under ACC, RS and OF. -/
def execTmma (c : Fin 128) (s : State) : Res :=
  .next (issueR s c.val 0 0x01
    (fun w _ => [(gran (wA w), fmtBytes (tAf w) (tM w * tK w)), (gran (wB w), fmtBytes (tBf w) (tK w * tN w))] ++
      if 2 ≤ tAcc w && tRs w = 2 then [(gran (wD w), 4)] else [])
    (fun w t => tmmaDo t c.val w))

/-- The worst score under a metric (R108): 0 inner product, 1 cosine, 2 squared Euclidean. -/
def worstScore (metric : Nat) : F32 := if metric = 2 then 0x7F800000 else 0xFF800000

/-- The dot product and the squared distance of two vectors, in dimension order (R61, R125). -/
def dotF (q x : List F32) : F32 := (q.zip x).foldl (fun a p => f32fma p.1 p.2 a) 0
def distF (q x : List F32) : F32 := (q.zip x).foldl (fun a p => let d := f32sub p.1 p.2; f32fma d d a) 0
/-- ‖x‖. -/
def normF (x : List F32) : F32 := f32sqrt (dotF x x)

/-- The exact metric of a query against a vector (R108, R125), before a NaN is replaced: `qn` is ‖q‖, and `xn` is ‖x‖, or none
where it is taken as 1. -/
def exactScore (metric : Nat) (q x : List F32) (qn : F32) (xn : Option F32) : F32 :=
  if metric = 2 then distF q x
  else if metric = 1 then
    let a := f32div (dotF q x) qn
    match xn with
    | some n => f32div a n
    | none => a
  else dotF q x

/-- A score with NaN replaced by the worst value (R109), and whether it was NaN. -/
def cleanScore (metric : Nat) (v : F32) : F32 × Bool := if f32isNan v then (worstScore metric, true) else (v, false)

/-- The scores of a TDIST, row by row. The scales of scaled operands are named by no operand: those scores are free values. -/
def tdistScores (s : State) (c w : Nat) : List (F32 × Bool) :=
  let x := s.cl c
  let (af, bf, m, n, k) := (tAf w, tBf w, tM w, tN w, tK w)
  let row (f : Fmt) (a i : Nat) : List F32 := (List.range k).map fun j => f32r (f.elem (scrElem x f (gran a) (i * k + j)))
  let qs := (List.range m).map (row af (wA w))
  let xs := (List.range n).map (row bf (wB w))
  let metric := tRs w
  (List.range (m * n)).map fun e =>
    if af.isPi || af.isMx || bf.isPi || bf.isMx then cleanScore metric (fld (freeAt s e) 31 0)
    else
      let v := xs.getD (e % n) []
      cleanScore metric (exactScore metric (qs.getD (e / n) []) v (scrElem x .fp32 (gran (wD w)) (e / n)) (some (normF v)))

/-- TDIST (R82, R108, R125): FP32 scores of every query against every vector; a NaN score becomes the worst value and counts
NAN_SCORE. -/
def execTdist (c : Fin 128) (s : State) : Res :=
  .next (issueR s c.val 0 0x02
    (fun w _ => [(gran (wA w), fmtBytes (tAf w) (tM w * tK w)), (gran (wB w), fmtBytes (tBf w) (tN w * tK w))] ++
      if tRs w = 1 then [(gran (wD w), 4 * tM w)] else [])
    (fun w t =>
      let sc := tdistScores t c.val w
      skipFree (countCls (scrPutElems t c.val .fp32 (gran (wC w)) (sc.map (·.1))) c.val Ev.nanScore 0xFF
        (sc.filter (·.2)).length) (tM w * tN w)))

/-- TZERO (R82): the accumulator is zero. -/
def execTzero (c : Fin 128) (s : State) : Res :=
  .next (issueNow s c.val 0 0x03 fun _ t => some (t.setCl c.val { t.cl c.val with acc := [], accInt := true }))

end Sys2Proof.Machine
end

