-- ==== Sys2Proof/Machine/Train.lean ====
section
/-!
DEFINITION. Embedding tables and online training: pooling, the row coalescer and the optimiser step (R255 to R271).
-/
namespace Sys2Proof.Machine

/-- A lookup block (R259). -/
structure Lookup where
  table : Nat
  offs : List Nat
  rows : List Nat
deriving DecidableEq, Repr

/-- Bytes from the block's start to its row indices. -/
def lookupIdx (b : Nat) : Nat := ceilDiv (16 + 4 * (b + 1)) 64 * 64

def lookupAt (x : Cluster) (a b : Nat) : Lookup :=
  let n := leNat (scrRead x (a + 4) 4)
  { table := leNat (scrRead x a 2)
    offs := (List.range (b + 1)).map fun i => leNat (scrRead x (a + 16 + 4 * i) 4)
    rows := (List.range n).map fun i => leNat (scrRead x (a + lookupIdx b + 4 * i) 4) }

/-- Scratch that a lookup block takes. -/
def lookupSpan (x : Cluster) (a b : Nat) : Nat × Nat := (a, lookupIdx b + 4 * leNat (scrRead x (a + 4) 4))

/-- The offsets rise from 0 to N (R259). -/
def lookupOk (l : Lookup) : Bool :=
  l.offs.head? == some 0 && l.offs.getLast? == some l.rows.length && !l.rows.isEmpty && decide (l.rows.length ≤ 65536) &&
    (l.offs.zip l.offs.tail).all fun p => decide (p.1 ≤ p.2)

/-- The weight of an entry, FP32 (R259): 1.0 for each when OPB is 0xFFFF. -/
def weightAt (x : Cluster) (b i : Nat) : F32 := if b = 0xFFFF then f32one else leNat (scrRead x (gran b + 4 * i) 4)

/-- A table of the partition, as an invocation may use it. -/
def tableOf (s : State) (part t : Nat) (inv : Option Nat) : Option TabD :=
  match tget? s.work.tables t with
  | some x => if x.part = part && openFor x.shut inv then some (tabD x.desc) else none
  | none => none

/-- The place of a row in a range of rows with a stride: tile within the range and byte in the tile (R256). -/
def rowPlace (stride r : Nat) : Nat × Nat := let n := tileBytes / stride; (r / n, r % n * stride)

/-- Byte addresses of a row and of its E8M0 scales (R53, R256). -/
def rowAddr (first stride r : Nat) : Nat := let p := rowPlace stride r; (first + p.1) * tileBytes + p.2
def rowScales (first stride r : Nat) : Nat :=
  let p := rowPlace stride r
  (first + p.1 / 32) * tileBytes + 2048 * (p.1 % 32) + p.2 / 32
/-- Byte address of a PI8 row's record (R256). -/
def rowRecord (first r : Nat) : Nat := (first + r / 16384) * tileBytes + r % 16384 * 4

/-- Where a row's scales stand, with their bytes: PI8 record, MXFP8 block scales, or none. -/
def scalePlace (d : TabD) (r : Nat) : Nat × Nat :=
  if d.fmt = 13 then (rowRecord d.scaleTile r, 4)
  else if d.fmt = 9 then (rowScales d.scaleTile d.stride r, d.w / 32)
  else (rowAddr d.rowTile d.stride r, 0)

/-- The reads that a row takes: its elements and its scales. -/
def rowReads (d : TabD) (r : Nat) : List (Nat × Nat) := [(rowAddr d.rowTile d.stride r, d.w * d.elemBytes), scalePlace d r]

/-- Elements of an array of bytes. -/
def elemsIn (f : Fmt) (bs : List Byte) : List Nat := (chunks (f.bits / 8) bs.length bs).map leNat

/-- A row in FP32 (R260). -/
def rowVals (f : Fmt) (es : List Nat) (scale : List Byte) : List F32 :=
  es.mapIdx fun i b =>
    if f.isPi then let k := scaleOf f (leNat scale); f32r (valElem f k.1 k.2 b)
    else if f.isMx then f32r (valElem f (e8m0 ((scale.getD (i / 32) 0).toNat)) 0 b)
    else f32r (f.elem b)

/-- Pairs of a list of reads that came two by two. -/
def twos : List (List Byte) → List (List Byte × List Byte)
  | a :: b :: r => (a, b) :: twos r
  | _ => []

/-- What a bag adds: per column sums and the total weight (R260). -/
def poolBag (w : Nat) (used : List (F32 × List F32)) : List F32 × F32 :=
  used.foldl (fun acc e =>
    (acc.1.zipWith (fun a x => f32fma e.1 x a) e.2, f32add acc.2 e.1)) (List.replicate w 0, 0)

/-- Entries of a lookup that take part: in range, with a finite weight (R260). -/
def usedEntry (d : TabD) (row : Nat) (wt : F32) : Bool := decide (row < d.rows) && (f32v wt).isFin

/-- The counts of R260 and R264 for the entries of a lookup. -/
def countEntries (s : State) (c : Nat) (d : TabD) (es : List (Nat × F32)) : State :=
  let oor := (es.filter fun e => d.rows ≤ e.1).length
  let nf := (es.filter fun e => decide (e.1 < d.rows) && !(f32v e.2).isFin).length
  countCls (countCls s c Ev.embOor 0xFF oor) c Ev.embNonfin 0xFF nf

/-- VPOOL (R259 to R261): weighted sums or means of table rows. -/
def execVpool (c : Fin 128) (s : State) : Res :=
  .next (issueW s c.val 1 0x0C (fun w t => [lookupSpan (t.cl c.val) (gran (wA w)) (wD w)]) fun w t =>
    let x := t.cl c.val
    let l := lookupAt x (gran (wA w)) (wD w)
    match tableOf t x.part l.table (unitInv t c.val 1) with
    | none => (true, failInv t c.val 1 (refusal rsName))
    | some d =>
      if !lookupOk l then (true, failInv t c.val 1 (refusal rsFormat))
      else
        let es := l.rows.mapIdx fun i r => (r, weightAt x (wB w) i)
        let rows := dedup ((es.filter fun e => usedEntry d e.1 e.2).map (·.1))
        match unitReads t c.val 1 (rows.flatMap (rowReads d)) with
        | .wait t1 => (false, t1)
        | .bad st t1 => (true, failInv t1 c.val 1 st)
        | .ok got t1 =>
          let f := Fmt.ofCode d.fmt
          let vals : List (Nat × List F32) := (rows.zip (twos got)).map fun p => (p.1, rowVals f (elemsIn f p.2.1) p.2.2)
          let rowOf (r : Nat) : List F32 := ((vals.find? fun v => v.1 = r).map (·.2)).getD []
          let bags := (l.offs.zip l.offs.tail).map fun o =>
            let used := ((es.drop o.1).take (o.2 - o.1)).filter fun e => usedEntry d e.1 e.2
            let (acc, tw) := poolBag d.w (used.map fun e => (e.2, rowOf e.1))
            if vSub w = 1 then
              if (f32v tw).isZero then (List.replicate d.w 0, true) else (acc.map fun a => f32div a tw, false)
            else (acc, false)
          let df := vDf w
          let out := (bags.flatMap (·.1)).mapIdx fun i v =>
            if df.isPi || df.isMx then (fld (freeAt t1 i) (df.bits - 1) 0, false)
            else encElem df (rndOf t1 c.val 1 (vRnd w) i) (vNsat w) fvOne 0 (f32v v)
          let t2 := storeConv (countEntries t1 c.val d es) c.val (vSlot w) df (gran (wC w)) out
          let t3 := countCls t2 c.val Ev.embLookup 0xFF (es.filter fun e => usedEntry d e.1 e.2).length
          let t4 := countCls t3 c.val Ev.embZerobag 0xFF (bags.filter (·.2)).length
          (true, retire (skipFree (takeDraws t4 c.val (vRnd w) out.length) out.length) c.val 1))

/-- The end of the scratch that a cluster's role declares (R77), in bytes. -/
def bankEnd (s : State) (c : Nat) : Nat :=
  match (clPlan s c).bin.roles.find? fun r => r.role = (s.cl c).role with
  | some r => r.banks * tileBytes
  | none => 0

/-- The coalescer table's parts (R264): the header, hot sets, row entries. A row entry holds its row in bytes 0 to 3, its
contributions in bytes 4 to 7 (0 for a free entry), its hot set's number plus 1 in bytes 8 to 11, and its sum from byte 16, as a
combine area's entries do (R266). -/
def hotSets (area w : Nat) : Nat := if w = 0 then 0 else min 64 (area / (256 * w))
def entrySize (w : Nat) : Nat := 16 + 4 * w
def entryAddr (base h w e : Nat) : Nat := base + 64 + h * (64 * w) + e * entrySize w
def entryCount (area h w : Nat) : Nat := (area - 64 - h * (64 * w)) / entrySize w
def hotAddr (base w set j : Nat) : Nat := base + 64 + set * (64 * w) + j * (4 * w)

def rd32 (t : Tab Byte) (a : Nat) : Nat := leNat ((List.range 4).map fun i => tgetD t ((a + i) % 2097152) 0)
def wr32 (t : Tab Byte) (a v : Nat) : Tab Byte := scrWriteT t a (leBytes 4 v)
def rdVec (t : Tab Byte) (a w : Nat) : List Nat := (List.range w).map fun i => rd32 t (a + 4 * i)
def wrVec (t : Tab Byte) (a : Nat) (vs : List Nat) : Tab Byte := scrWriteT t a (vs.flatMap (leBytes 4))

/-- The entry of a row, or the first free one, among the entries of a table; the flag says the row has it already. -/
def findEntry (t : Tab Byte) (base h w row : Nat) : (fuel e : Nat) → Option (Nat × Bool)
  | 0, _ => none
  | f + 1, e =>
    let a := entryAddr base h w e
    if rd32 t (a + 4) = 0 then some (e, false)
    else if rd32 t a = row then some (e, true)
    else findEntry t base h w row f (e + 1)

/-- Entries in use, from the first. -/
def usedEntries (t : Tab Byte) (base h w : Nat) : (fuel e : Nat) → List Nat
  | 0, _ => []
  | f + 1, e =>
    let a := entryAddr base h w e
    if rd32 t (a + 4) = 0 then [] else a :: usedEntries t base h w f (e + 1)

/-- Sum of two vectors of 32-bit patterns, and how many integer sums saturated (R60, R268). -/
def addVec (int : Bool) (a b : List Nat) : List Nat × Nat :=
  if int then
    let xs := a.zipWith (fun x y => accInt (sext 32 x) (sext 32 y)) b
    (xs.map fun x => wrapTo 32 x.1, (xs.filter (·.2)).length)
  else (a.zipWith f32add b, 0)

/-- Counts of one contribution. -/
structure CoalCnt where
  taken : Nat := 0
  hot : Nat := 0
  serial : Nat := 0
  sat : Nat := 0
deriving DecidableEq, Repr

/-- One contribution joins its row (R264, R265); none when a new row finds no free entry. -/
def coalTake (int : Bool) (base area w row : Nat) (v : List Nat) (t : Tab Byte) (k : CoalCnt) :
    Option (Tab Byte × CoalCnt) :=
  let h := hotSets area w
  let n := entryCount area h w
  match findEntry t base h w row n 0 with
  | none => none
  | some (e, false) =>
    let a := entryAddr base h w e
    some (wrVec (wr32 (wr32 (wr32 t a row) (a + 4) 1) (a + 8) 0) (a + 16) v, { k with taken := k.taken + 1 })
  | some (e, true) =>
    let a := entryAddr base h w e
    let cnt := rd32 t (a + 4)
    let inUse := ((usedEntries t base h w n 0).filter fun x => rd32 t (x + 8) != 0).length
    let k1 := { k with taken := k.taken + 1 }
    -- the second contribution takes a free hot set: the accumulator becomes its sub-accumulator 0
    let (t1, hotNo, k2) :=
      if rd32 t (a + 8) = 0 && cnt = 1 && decide (inUse < h) then
        let t0 := wrVec t (hotAddr base w inUse 0) (rdVec t (a + 16) w ++ List.replicate (15 * w) 0)
        (wr32 t0 (a + 8) (inUse + 1), inUse + 1, { k1 with hot := k1.hot + 1 })
      else (t, rd32 t (a + 8), k1)
    let at_ := if hotNo = 0 then a + 16 else hotAddr base w (hotNo - 1) (cnt % 16)
    let (sum, sat) := addVec int (rdVec t1 at_ w) v
    some (wrVec (wr32 t1 (a + 4) (min (cnt + 1) 0xFFFFFFFF)) at_ sum,
      { k2 with serial := k2.serial + b2n (hotNo == 0), sat := k2.sat + sat })

/-- A contribution fp32(w × g), as FP32 or as an integer with F fraction bits (R264, R268). -/
def contribution (int : Bool) (fbits : Nat) (wt : F32) (g : List F32) : List Nat :=
  g.map fun x =>
    let p := f32mul wt x
    if int then wrapTo 32 (toIntElem .int32 .near (.scaled false 1 (-(fbits : Int))) 0 (f32v p)).1 else p

/-- Takes lookup entries in stream order until the table is full (R264): the scratch, the entries consumed and the counts. -/
def coalRun (f : Nat × F32 × List Nat → Tab Byte → CoalCnt → Option (Tab Byte × CoalCnt)) :
    List (Option (Nat × F32 × List Nat)) → Nat → Tab Byte → CoalCnt → Tab Byte × Nat × CoalCnt
  | [], n, t, k => (t, n, k)
  | none :: es, n, t, k => coalRun f es (n + 1) t k
  | some e :: es, n, t, k =>
    match f e t k with
    | none => (t, n, k)
    | some (t1, k1) => coalRun f es (n + 1) t1 k1

/-- VCOAL SUB 0 (R264, R265, R268). -/
def coalAccumulate (s : State) (c w : Nat) : State :=
  let x := s.cl c
  let l := lookupAt x (gran (wB w)) (wD w)
  match tableOf s x.part l.table (unitInv s c 1) with
  | none => failInv s c 1 (refusal rsName)
  | some d =>
    if !lookupOk l then failInv s c 1 (refusal rsFormat)
    else
      let base := gran (wC w)
      let inv := unitInv s c 1
      let start := if (tget? x.areas base).map (·.1) == some inv then rd32 x.scratch base else 0
      let bagOf (i : Nat) : Nat := ((List.range (wD w)).find? fun b => decide (i < l.offs.getD (b + 1) 0)).getD 0
      let sf := vSf w
      let gs := srcVals s c sf (gran (wA w)) (wD w * d.w)
      let int := vDf w == .int32
      -- no operand names the weights: they are free values
      let es := (List.range l.rows.length).drop start |>.map fun i =>
        (i, l.rows.getD i 0, fld (freeAt s (wD w * d.w + i)) 31 0)
      let items := es.map fun e =>
        if usedEntry d e.2.1 e.2.2 then
          some (e.2.1, e.2.2, contribution int (vClip w % 32) e.2.2 (((gs.drop (bagOf e.1 * d.w)).take d.w).map f32r))
        else none
      let area := bankEnd s c - base
      let (t, n, k) := coalRun (fun e t k => coalTake int base area d.w e.1 e.2.2 t k) items start x.scratch {}
      let s1 := s.setCl c { x with scratch := wr32 t base n, areas := tput x.areas base (inv, d.w) }
      let s2 := countEntries s1 c d ((es.take (n - start)).map fun e => (e.2.1, e.2.2))
      let s3 := countCls (countCls s2 c Ev.coalIn 0xFF k.taken) c Ev.coalHot 0xFF k.hot
      let s4 := accsatCount (countCls s3 c Ev.coalSerial 0xFF k.serial) c k.sat
      retire (skipFree s4 (wD w * d.w + l.rows.length)) c 1
where
  srcVals (s : State) (c : Nat) (f : Fmt) (a n : Nat) : List Fv :=
    if f.isPi || f.isMx then (List.range n).map fun i => f32v (fld (freeAt s i) 31 0)
    else (scrElems (s.cl c) f a n).map f.elem

/-- VCOAL SUB 0 (R264, R265, R268): OPA gradients, OPB the lookup block, OPC the table, OPD the bags. -/
def execVcoalAccumulate (c : Fin 128) (s : State) : Res :=
  .next (issueW s c.val 1 0x0F (fun w t => [lookupSpan (t.cl c.val) (gran (wB w)) (wD w)]) fun w t =>
    if vSub w = 0 then (true, coalAccumulate t c.val w) else (false, t))

/-- Adds pairs of a list of vectors, once (R266). -/
def pairUp (int : Bool) : List (List Nat) → List (List Nat) × Nat
  | a :: b :: r =>
    let (x, n) := addVec int a b
    let (xs, m) := pairUp int r
    (x :: xs, n + m)
  | r => (r, 0)

/-- The fixed tree over 16 sub-accumulators (R266): the sum and how many additions saturated. -/
def treeSum (int : Bool) : (levels : Nat) → List (List Nat) → List Nat × Nat
  | 0, xs => (xs.getD 0 [], 0)
  | k + 1, xs =>
    let (ys, n) := pairUp int xs
    let (r, m) := treeSum int k ys
    (r, n + m)

/-- The owner of a row in a role (R263). -/
def rowOwner (s : State) (c row : Nat) : Nat :=
  let cs := match (s.cl c).plan with
    | some slot => match (tgetD s.work.plans slot {}).bin.roles.find? fun (r : RoleEnt) => r.role = (s.cl c).role with
      | some r => sortBy (fun a b => decide (a ≤ b)) r.clusters
      | none => []
    | none => []
  cs.getD (row % cs.length) c

/-- A partial leaves for the owner of its row (R266). -/
def sendPartial (s : State) (p : Partial) (owner : Nat) : State :=
  let x := s.cl owner
  s.setCl owner { x with partials := tput x.partials x.nextJob p, nextJob := x.nextJob + 1 }

/-- VCOAL SUB 1 (R266, R268): every row of the table at OPA goes to its owner, and the table is cleared. A BF16 sum is rounded
before it leaves. The unit waits until its partials have been added. -/
def coalFlush (s : State) (c w : Nat) : State :=
  let x := s.cl c
  let base := gran (wA w)
  let area := bankEnd s c - base
  let wd := ((tget? x.areas base).map (·.2)).getD 0
  let h := hotSets area wd
  let int := vDf w == .int32
  let rows := if wd = 0 then [] else usedEntries x.scratch base h wd (entryCount area h wd) 0
  let one (a : Nat) : Nat × Nat × List Nat × Nat :=
    let hot := rd32 x.scratch (a + 8)
    let (sum, sat) := if hot = 0 then (rdVec x.scratch (a + 16) wd, 0)
      else treeSum int 4 ((List.range 16).map fun j => rdVec x.scratch (hotAddr base wd (hot - 1) j) wd)
    let out := if vDf w == .bf16 then sum.map fun v => f32r (Lay.bf16.decode (Lay.bf16.encode .near false (f32v v)).1) else sum
    (rd32 x.scratch a, rd32 x.scratch (a + 4), out, sat)
  let sums := rows.map one
  let clean := rows.foldl (fun t a => wr32 t (a + 4) 0) x.scratch
  let s1 := accsatCount (s.setCl c { x with scratch := clean }) c (sumOf (sums.map fun p => p.2.2.2))
  let inv := unitInv s c 1
  let s2 := sums.foldl (fun t p =>
    sendPartial t { src := c, inv := inv, area := gran (wC w), row := p.1, count := p.2.1, sum := p.2.2.1, int := int }
      (rowOwner s c p.1)) s1
  if sums.isEmpty then retire s2 c 1 else setWait s2 c 1 .xchg

def execVcoalFlush (c : Fin 128) (s : State) : Res :=
  .next (issueW s c.val 1 0x0F (fun w _ => [(gran (wA w), 64)]) fun w t =>
    if vSub w = 1 then (true, coalFlush t c.val w) else (false, t))

/-- A partial from cluster `c` is still on its way. -/
def partialsFrom (s : State) (c : Nat) : Bool := s.work.clusters.any fun kv => kv.2.partials.any fun p => p.2.src = c

/-- A partial is added into the combine area (R266): one for a new row at a full area is dropped and counted. An area that an
earlier invocation has used starts empty. -/
def combine (s : State) (c : Nat) (p : Partial) : State :=
  let x := s.cl c
  let w := p.sum.length
  let area := bankEnd s c - p.area
  let n := entryCount area 0 w
  let old := (tget? x.areas p.area).map (·.1) == some p.inv
  let t0 := if old then x.scratch
    else (usedEntries x.scratch p.area 0 w n 0).foldl (fun t a => wr32 t (a + 4) 0) (wr32 (wr32 x.scratch p.area 0) (p.area + 4) 0)
  let put (t : Tab Byte) : State := s.setCl c { x with scratch := t, areas := tput x.areas p.area (p.inv, w) }
  match findEntry t0 p.area 0 w p.row n 0 with
  | none => countCls (put (wr32 t0 (p.area + 4) (rd32 t0 (p.area + 4) + 1))) c Ev.coalDrop
  | some (e, known) =>
    let a := entryAddr p.area 0 w e
    let (sum, sat) := if known then addVec p.int (rdVec t0 (a + 16) w) p.sum else (p.sum, 0)
    let cnt := if known then rd32 t0 (a + 4) + p.count else p.count
    accsatCount (put (wrVec (wr32 (wr32 t0 a p.row) (a + 4) (min cnt 0xFFFFFFFF)) (a + 16) sum)) c sat

/-- COAL_PARTIAL_ARRIVE (R266). -/
def execCoalPartialArrive (c : Fin 128) (i : Nat) (s : State) : Res :=
  match tget? (s.cl c.val).partials i with
  | none => .next s
  | some p =>
    let x := s.cl c.val
    let s1 := combine (s.setCl c.val { x with partials := terase x.partials i }) c.val p
    .next (if partialsFrom s1 p.src then s1 else resume s1 p.src 1 .xchg)

/-- Entries of a combine area in ascending row order (R267). -/
def sortEntries (t : Tab Byte) (base w n : Nat) : Tab Byte × Nat :=
  let es := (usedEntries t base 0 w n 0).map fun a => (rd32 t a, rd32 t (a + 4), rdVec t (a + 16) w)
  let sorted := sortBy (fun a b => decide (a.1 ≤ b.1)) es
  let t1 := (sorted.mapIdx fun i e => (i, e)).foldl (fun t ie =>
    let a := entryAddr base 0 w ie.1
    wrVec (wr32 (wr32 t a ie.2.1) (a + 4) ie.2.2.1) (a + 16) ie.2.2.2) t
  (wr32 t1 base sorted.length, sorted.length)

/-- VCOAL SUB 2 (R267): sorts the combine area at OPC, once no partial is on its way to it. -/
def execVcoalCollect (c : Fin 128) (s : State) : Res :=
  .next (issueW s c.val 1 0x0F (fun w _ => [(gran (wC w), 64)]) fun w t =>
    let x := t.cl c.val
    let base := gran (wC w)
    if vSub w ≠ 2 || x.partials.any (fun p => p.2.area == base) then (false, t)
    else
      match tget? x.areas base with
      | none => (true, retire (t.setCl c.val { x with scratch := wr32 x.scratch base 0 }) c.val 1)
      | some (_, wd) =>
        let (b, n) := sortEntries x.scratch base wd (entryCount (bankEnd t c.val - base) 0 wd)
        (true, retire (countCls (t.setCl c.val { x with scratch := b }) c.val Ev.coalRows 0xFF n) c.val 1))

/-- VOPT's constant (R269). -/
structure OptK where
  table : Nat
  b1 : Nat
  b2 : Nat
  lr : F32
  eps : F32
deriving DecidableEq, Repr

def optK (k : List Byte) : OptK := ⟨getLE k 0 2, getLE k 2 2, getLE k 4 2, getLE k 8 4, getLE k 12 4⟩
/-- n / 65,536 in FP32. -/
def frac16 (n : Nat) : F32 := f32r (.fin false n 65536)

/-- A row re-encoded to MXFP8 with E4M3 elements (R68): scale bytes and elements, in blocks of 32. -/
def encMx (rnd : Nat → Rnd) (vs : List F32) : List Byte × List (Nat × Bool) :=
  let bs := chunks 32 vs.length (vs.map f32v)
  let ks := bs.map fun b => proofGroup .mxe4m3 0 b
  (ks.flatMap (leBytes 1),
   (bs.mapIdx fun i b => convGroup .mxe4m3 2 rnd false (e8m0 (ks.getD i 0)) 0 (32 * i) b).flatten)

/-- A row's parameters encoded in the table's format (R269): scale bytes and elements. -/
def encParams (f : Fmt) (rnd : Nat → Rnd) (vs : List F32) : List Byte × List (Nat × Bool) :=
  if f.isMx then encMx rnd vs
  else if f.isPi then
    let k := proofGroup f 0 (vs.map f32v)
    let z := scaleOf f k
    (leBytes 4 k, convGroup f 1 rnd false z.1 z.2 0 (vs.map f32v))
  else ([], vs.mapIdx fun i v => encElem f (rnd i) false fvOne 0 (f32v v))

/-- The new moments and parameters of a row (R269), elementwise in FP32. -/
def optRow (k : OptK) (sub t : Nat) (g p m v : List F32) : List F32 × List F32 × List F32 :=
  if sub = 0 then (m, v, p.zipWith (fun a b => f32sub a (f32mul k.lr b)) g)
  else
    let (b1, b2) := (frac16 k.b1, frac16 k.b2)
    let (c1, c2) := (f32sub f32one b1, f32sub f32one b2)
    let m1 := m.zipWith (fun a b => f32add (f32mul b1 a) (f32mul c1 b)) g
    let v1 := v.zipWith (fun a b => f32add (f32mul b2 a) (f32mul (f32mul c2 b) b)) g
    let d1 := f32sub f32one (Config.powF32 b1 t).toNat
    let d2 := f32sub f32one (Config.powF32 b2 t).toNat
    let p1 := (p.zip (m1.zip v1)).map fun e =>
      f32sub e.1 (f32div (f32mul k.lr (f32div e.2.1 d1)) (f32add (f32sqrt (f32div e.2.2 d2)) k.eps))
    (m1, v1, p1)

/-- A write of VOPT; it stops at the first that fails. -/
def optWrite (x : WrRes × State) (c : Nat) (addr : Nat) (bs : List Byte) : WrRes × State :=
  if x.1 != .ok || bs.isEmpty then x
  else
    let p := (x.2.cl c).part
    match writeSpan (regAll x.2 p (stackDraws x.2 addr bs.length)) p addr bs (some (c / 16)) with
    | (.ok, s1) =>
      let (t, n) := tilesOf addr bs.length
      (.ok, (List.range n).foldl (fun y i => hotCount y (c / 16) (t + i) 1 true) s1)
    | r => r
where
  regAll (s : State) (p : Nat) (ds : List (Nat × Nat)) : State := ds.foldl (fun x d => regCharge x p (.stack d.1) d.2) s

/-- One row of VOPT (R269, R270): moments first, then parameters; draws in that order. -/
def optOne (x : WrRes × State) (c w : Nat) (d : TabD) (k : OptK) (row : Nat) (g : List F32) (got : List (List Byte)) :
    WrRes × State :=
  if x.1 != .ok then x
  else if g.any fun v => !(f32v v).isFin then (.ok, countCls x.2 c Ev.embNonfin)
  else
    let f := Fmt.ofCode d.fmt
    let at_ (i : Nat) : List Byte := got.getD i []
    let p := rowVals f (elemsIn f (at_ 0)) (at_ 1)
    let m := rowVals .mxe4m3 (elemsIn .mxe4m3 (at_ 2)) (at_ 3)
    let v := rowVals .mxe4m3 (elemsIn .mxe4m3 (at_ 4)) (at_ 5)
    let (m1, v1, p1) := optRow k (vSub w) (unitStep x.2 c 1 + 1) g p m v
    let slot := vSlot w
    let bytes (h : Fmt) (es : List (Nat × Bool)) : List Byte := es.flatMap fun e => leBytes (h.bits / 8) e.1
    let count (s : State) (es : List (Nat × Bool)) : State := satCount s c slot es.length (es.filter (·.2)).length
    let moment (y : WrRes × State) (tile stile : Nat) (vals : List F32) : WrRes × State :=
      let (ks, es) := encMx (rndOf y.2 c 1 true) vals
      optWrite (optWrite (y.1, takeDraws (count y.2 es) c true d.w) c (rowAddr tile d.mStride row) (bytes .mxe4m3 es)) c
        (rowScales stile d.mStride row) ks
    let y1 := if vSub w = 0 then x else moment (moment x d.m1 d.m1s m1) d.m2 d.m2s v1
    let (ks, es) := encParams f (rndOf y1.2 c 1 d.sr) p1
    let y2 := optWrite (y1.1, takeDraws (count y1.2 es) c d.sr d.w) c (rowAddr d.rowTile d.stride row) (bytes f es)
    let y3 := optWrite y2 c (scalePlace d row).1 ks
    (y3.1, countCls y3.2 c Ev.optRows)

/-- The reads of one row of VOPT. -/
def optReads (d : TabD) (sub row : Nat) : List (Nat × Nat) :=
  let m (tile stile : Nat) : List (Nat × Nat) :=
    if sub = 0 then [(rowAddr d.rowTile d.stride row, 0), (rowAddr d.rowTile d.stride row, 0)]
    else [(rowAddr tile d.mStride row, d.w), (rowScales stile d.mStride row, d.w / 32)]
  rowReads d row ++ m d.m1 d.m1s ++ m d.m2 d.m2s

/-- VOPT (R68, R269, R270): one update per row of the sorted list. Integer sums come back by × 2^−F. A write that has to wait
holds the whole word. -/
def execVopt (c : Fin 128) (s : State) : Res :=
  .next (issueW s c.val 1 0x0D (fun w _ => [(gran (wA w), 64)]) fun w t =>
    let k := optK (clConst t c.val (wB w))
    let x := t.cl c.val
    match tableOf t x.part k.table (unitInv t c.val 1) with
    | none => (true, failInv t c.val 1 (refusal rsName))
    | some d =>
      if vSub w = 1 && !d.train then (true, failInv t c.val 1 (refusal rsFormat))
      else
        let back (v : Nat) : F32 :=
          if vSf w == .int32 then f32r ((f32v (f32ofInt (sext 32 v))).mul (.scaled false 1 (-((vClip w % 32 : Nat) : Int))))
          else v
        let rows := ((List.range (wD w)).map fun i =>
          let a := entryAddr (gran (wA w)) 0 d.w i
          (rd32 x.scratch a, (rdVec x.scratch (a + 16) d.w).map back)).filter fun r => decide (r.1 < d.rows)
        match unitReads t c.val 1 (rows.flatMap fun r => optReads d (vSub w) r.1) with
        | .wait t1 => (false, t1)
        | .bad st t1 => (true, failInv t1 c.val 1 st)
        | .ok got t1 =>
          match (rows.zip (chunks 6 got.length got)).foldl (fun y r => optOne y c.val w d k r.1.1 r.1.2 r.2) (.ok, t1) with
          | (.ok, t2) => (true, retire t2 c.val 1)
          | (.wait, _) => (false, t)
          | (.poisoned, t2) => (true, failInv t2 c.val 1 stPoisoned)
          | (.noSpace, t2) => (true, failInv t2 c.val 1 (refusal rsResource)))

end Sys2Proof.Machine
end

