-- ==== Sys2Proof/Machine/Vec.lean ====
section
/-!
DEFINITION. The vector unit's loads, stores, conversions, arithmetic and scans (R54 to R64, R82, R129, R147).
-/
namespace Sys2Proof.Machine

/-- The first tile that a tile constant names: bytes 0 to 3, bits [24:0]. -/
def constTile (k : List Byte) : Nat := getLE k 0 4 % tileCount

/-- VLOAD (R82): whole tiles of the tier space into scratch. -/
def execVload (c : Fin 128) (s : State) : Res :=
  .next (issueW s c.val 1 0x01 (fun _ _ => []) fun w t =>
    match unitRead t c.val 1 (constTile (clConst t c.val (wB w)) * tileBytes) (wD w * tileBytes) with
    | .ok bytes t1 => (true, retire (scrWrite t1 c.val (gran (wA w)) bytes) c.val 1)
    | .bad st _ t1 => (true, failInv t1 c.val 1 st)
    | .wait t1 => (false, t1))

/-- VSTORE (R82, R201): scratch banks to their tiles. -/
def execVstore (c : Fin 128) (s : State) : Res :=
  .next (issueW s c.val 1 0x02 (fun w _ => [(gran (wA w), wD w * tileBytes)]) fun w t =>
    match unitWrite t c.val 1 (constTile (clConst t c.val (wB w)) * tileBytes)
        (scrRead (t.cl c.val) (gran (wA w)) (wD w * tileBytes)) with
    | .ok _ t1 => (true, retire t1 c.val 1)
    | .bad st _ t1 => (true, failInv t1 c.val 1 st)
    | .wait t1 => (false, t1))

/-- The values of a source array whose elements carry no scale, or whose scales a word does not name: the latter are free
values, numbered by element. -/
def srcVals (s : State) (c : Nat) (f : Fmt) (a n : Nat) : List Fv :=
  if f.isPi || f.isMx then (List.range n).map fun i => f32v (fld (freeAt s i) 31 0)
  else (scrElems (s.cl c) f a n).map f.elem

/-- The stored scales that the proofing pass finds for a word's groups (R54 to R57); for a target without a rule they are free
values. -/
def proofScales (s : State) (w : Nat) (f : Fmt) (g : Nat) (vs : List Fv) : List Nat :=
  ((chunks (groupLen w f g vs.length) vs.length vs).mapIdx fun i grp =>
    if proofable f g then proofGroup f (vClip w) grp else fld (freeAt s (vs.length + i)) 31 0)

/-- Stored scales at consecutive places (R53): records of four bytes, E8M0 scales of one. -/
def putScales (s : State) (c : Nat) (f : Fmt) (a : Nat) (ks : List Nat) : State :=
  scrWrite s c a (ks.flatMap (leBytes (scaleBytes f)))

/-- VPROOF (R54 to R57): the scales of the groups of a source. -/
def execVproof (c : Fin 128) (s : State) : Res :=
  .next (issueR s c.val 1 0x03 (fun w _ => [(gran (wA w), fmtBytes (vSf w) (wD w))]) fun w t =>
    let vs := srcVals t c.val (vSf w) (gran (wA w)) (wD w)
    let ks := proofScales t w (vDf w) (vGran w) vs
    skipFree (nonfinCount (putScales t c.val (vDf w) (gran (wB w)) ks) c.val (nonfinite vs)) (2 * wD w))

/-- The stored scale of group `i` at a word's scale operand. -/
def groupScale (s : State) (c : Nat) (f : Fmt) (a i : Nat) : Fv × Nat :=
  scaleOf f (leNat (scrRead (s.cl c) (a + i * scaleBytes f) (scaleBytes f)))

/-- The elements of a VCONV. Where the source is a scaled format its scales stand at OPB, otherwise the target's do; where
both are scaled the target's scales are free values (no operand names them). -/
def convElems (s : State) (c w : Nat) : List (Nat × Bool) :=
  let (sf, df, g, n, a) := (vSf w, vDf w, vGran w, wD w, gran (wB w))
  let src := scaled sf g
  let raw := scrElems (s.cl c) sf (gran (wA w)) n
  let sl := groupLen w sf g n
  let vs := raw.mapIdx fun i b =>
    if src then let k := groupScale s c sf a (i / sl); valElem sf k.1 k.2 b else sf.elem b
  let dl := groupLen w df g n
  ((chunks dl n vs).mapIdx fun i grp =>
    let k : Fv × Nat :=
      if !scaled df g then (fvOne, 0)
      else if src then scaleOf df (fld (freeAt s i) 31 0)
      else groupScale s c df a i
    convGroup df g (rndOf s c 1 (vRnd w)) (vNsat w) k.1 k.2 (i * dl) grp).flatten

/-- VCONV (R58, R59, R65, R67). -/
def execVconv (c : Fin 128) (s : State) : Res :=
  .next (issueR s c.val 1 0x04 (fun w _ => [(gran (wA w), fmtBytes (vSf w) (wD w)), (gran (wB w), 4)]) fun w t =>
    let es := convElems t c.val w
    skipFree (takeDraws (storeConv t c.val (vSlot w) (vDf w) (gran (wC w)) es) c.val (vRnd w) (wD w)) (wD w))

/-- VPCONV (R54, R82): proofing in blocks of 32 and conversion in one pass. -/
def execVpconv (c : Fin 128) (s : State) : Res :=
  .next (issueR s c.val 1 0x05 (fun w _ => [(gran (wA w), fmtBytes (vSf w) (wD w))]) fun w t =>
    let (df, n) := (vDf w, wD w)
    let vs := srcVals t c.val (vSf w) (gran (wA w)) n
    let ks := proofScales t w df 2 vs
    let es := ((chunks 32 n vs).mapIdx fun i grp =>
      let k := scaleOf df (ks.getD i 0)
      convGroup df 2 (rndOf t c.val 1 (vRnd w)) (vNsat w) k.1 k.2 (32 * i) grp).flatten
    let t1 := nonfinCount (putScales t c.val df (gran (wB w)) ks) c.val (nonfinite vs)
    skipFree (takeDraws (storeConv t1 c.val (vSlot w) df (gran (wC w)) es) c.val (vRnd w) n) (2 * n))

/-- VRESCALE (R62 to R64): the input scales are named by no operand and are free values. -/
def execVrescale (c : Fin 128) (s : State) : Res :=
  .next (issueR s c.val 1 0x06
    (fun w _ => [(gran (wA w), 4 * wD w)] ++ if vSub w = 1 then [(gran (wB w), 4)] else []) fun w t =>
    let df := vDf w
    let sa := (scaleOf .pi8 (fld (freeAt t 0) 31 0)).1
    let sb := (scaleOf .pi8 (fld (freeAt t 1) 31 0)).1
    let accs := (scrElems (t.cl c.val) .int32 (gran (wA w)) (wD w)).map (sext 32)
    let es := outInts df (rndOf t c.val 1 (vRnd w && !df.isInt)) (vNsat w) (outScale t c.val (vSub w == 1) (wB w))
      (accs.map fun a => (a, sa, sb))
    skipFree (takeDraws (storeConv t c.val (vSlot w) df (gran (wC w)) es) c.val (vRnd w && !df.isInt) (wD w)) 2)

/-- One result of VEW by SUB (R82): exact on integer sources, FP32 otherwise. `none` where the spec states no result: a
compare, and a maximum or minimum with a NaN. -/
def ewVal (int : Bool) (sub : Nat) (a b d : Fv) : Option Fv :=
  let r (v : Fv) : Fv := if int then v else f32v (f32r v)
  match sub with
  | 0 => some (r (a.add b))
  | 1 => some (r (a.add b.neg))
  | 2 => some (r (a.mul b))
  | 3 => some (r ((a.mul b).add d))
  | 4 => if a == .nan || b == .nan then none else some (if a.lt b then b else a)
  | 5 => if a == .nan || b == .nan then none else some (if b.lt a then b else a)
  | 6 => some (f32v (Config.expF32 (f32r a)).toNat)
  | 7 => some (f32v (Config.rsqrtF32 (f32r a)).toNat)
  | _ => none

/-- VEW (R82): elementwise. The addend of the fused multiply-add is the destination's old value. A scaled source or target has
no scale operand: those values are free. -/
def execVew (c : Fin 128) (s : State) : Res :=
  .next (issueR s c.val 1 0x07
    (fun w _ => [(gran (wA w), fmtBytes (vSf w) (wD w)), (gran (wB w), fmtBytes (vSf w) (wD w))]) fun w t =>
    let (sf, df, n, x) := (vSf w, vDf w, wD w, t.cl c.val)
    let open_ := sf.isPi || sf.isMx || df.isPi || df.isMx
    let es := (List.range n).map fun i =>
      let a := sf.elem (scrElem x sf (gran (wA w)) i)
      let b := sf.elem (scrElem x sf (gran (wB w)) i)
      let d := df.elem (scrElem x df (gran (wC w)) i)
      match (if open_ then none else ewVal (sf.isInt && df.isInt) (vSub w) a b d) with
      | some v => encElem df (rndOf t c.val 1 (vRnd w) i) (vNsat w) fvOne 0 v
      | none => (fld (freeAt t i) (df.bits - 1) 0, false)
    skipFree (takeDraws (storeConv t c.val (vSlot w) df (gran (wC w)) es) c.val (vRnd w) n) n)

/-- VRED (R82): sum, maximum or minimum. Integers are summed exactly; the order of a floating sum is fixed and not stated. An
extreme of no element or with a NaN, and a scaled format, give a free value. -/
def execVred (c : Fin 128) (s : State) : Res :=
  .next (issueR s c.val 1 0x08 (fun w _ => [(gran (wA w), fmtBytes (vSf w) (wD w))]) fun w t =>
    let (sf, df, sub) := (vSf w, vDf w, vSub w)
    let bits := scrElems (t.cl c.val) sf (gran (wA w)) (wD w)
    let vs := bits.map sf.elem
    let res : Option Fv :=
      if sf.isPi || sf.isMx || df.isPi || df.isMx then none
      else if sub = 0 then
        if sf.isInt then some (vs.foldl Fv.add (.fin false 0 1)) else some (f32v (Config.laneSum (vs.map f32r)).toNat)
      else if vs.contains .nan then none
      else leastBy (fun (a b : Fv) => if sub = 1 then b.lt a else a.lt b) vs
    let e := match res with
      | some v => encElem df (rndOf t c.val 1 (vRnd w) 0) (vNsat w) fvOne 0 v
      | none => (fld (freeAt t 0) (df.bits - 1) 0, false)
    skipFree (takeDraws (storeConv t c.val (vSlot w) df (gran (wC w)) [e]) c.val (vRnd w) 1) 1)

/-- The index and bits of the best element, NaN skipped, lowest index on ties (R147). -/
def argBest (f : Fmt) (min_ : Bool) (bits : List Nat) : Option (Nat × Nat) :=
  let known := ((bits.mapIdx fun i b => (i, b)).filter fun e => f.elem e.2 != .nan)
  leastBy (fun a b => if min_ then (f.elem a.2).lt (f.elem b.2) else (f.elem b.2).lt (f.elem a.2)) known

/-- The bytes that VARGMAX writes (R147). -/
def argBytes (f : Fmt) (sub : Nat) (bits : List Nat) : List Byte :=
  let (i, v) := match argBest f (sub == 2) bits with
    | some (i, b) => (i, if f.isInt then wrapTo 32 (f.elemInt b) else f32r (f.elem b))
    | none => (0xFFFFFFFF, if f.isInt then 0 else f32nan)
  leBytes 4 i ++ if sub = 0 then [] else leBytes 4 v

/-- VARGMAX (R147). -/
def execVargmax (c : Fin 128) (s : State) : Res :=
  .next (issueR s c.val 1 0x09 (fun w _ => [(gran (wA w), fmtBytes (vSf w) (wD w))]) fun w t =>
    scrWrite t c.val (gran (wC w)) (argBytes (vSf w) (vSub w) (scrElems (t.cl c.val) (vSf w) (gran (wA w)) (wD w))))

/-- VDIST (R82, R109): OPD scores from compressed codes. No operand names the codebook or the code's size, so each FP32 score
is a free value; one that is NaN becomes the metric's worst value and counts NAN_SCORE. -/
def execVdist (c : Fin 128) (s : State) : Res :=
  .next (issueR s c.val 1 0x0A (fun w _ => [(gran (wA w), 32), (gran (wB w), 32)]) fun w t =>
    let sc := (List.range (wD w)).map fun i => cleanScore (vSub w) (fld (freeAt t i) 31 0)
    skipFree (countCls (scrPutElems t c.val .fp32 (gran (wC w)) (sc.map (·.1))) c.val Ev.nanScore 0xFF
      (sc.filter (·.2)).length) (wD w))

/-- The query that a unit works for. -/
def unitQuery (s : State) (c u : Nat) : Option (Nat × Query) :=
  match unitInv s c u with
  | none => none
  | some i =>
    match (tget? s.work.invs i).bind (·.qid) with
    | none => none
    | some q => (tget? s.work.queries q).map fun x => (q, x)

/-- The candidates at a scratch address: entries up to the first padding entry. -/
def candsAt (x : Cluster) (a : Nat) : (fuel i : Nat) → List REnt
  | 0, _ => []
  | f + 1, i =>
    let e := REnt.ofBytes (scrRead x (a + 16 * i) 16)
    if e.pad then [] else e :: candsAt x a f (i + 1)

/-- META_BYTES of a query's index. -/
def queryMeta (s : State) (q : Query) : Nat :=
  match tget? s.work.indexes (getLE q.desc 0x28 2) with
  | some x => getLE x.desc 0x0B 1
  | none => 64

/-- VFILT (R128, R129): the candidates whose metadata pass go to the destination in order, with padding behind them. The query
gives the metadata's size and the parameters; for other work the size is 64 and the parameters are free values. -/
def execVfilt (c : Fin 128) (s : State) : Res :=
  .next (issueW s c.val 1 0x0B (fun w _ => [(gran (wA w), 16), (gran (wB w), 16)]) fun w t =>
    let es := candsAt (t.cl c.val) (gran (wA w)) 65536 0
    let (mb, p0, p1) := match unitQuery t c.val 1 with
      | some (_, q) => (queryMeta t q, getLE q.desc 0x44 4, getLE q.desc 0x48 4)
      | none => (64, fld (freeAt t 0) 31 0, fld (freeAt t 1) 31 0)
    match filterProg (clPlan t c.val).bin.consts (wD w) with
    | none => (true, retire t c.val 1)
    | some terms =>
      if terms.any (tmPast mb) then (true, failInv t c.val 1 (refusal rsFormat))
      else
        let flags := es.mapIdx fun i e =>
          (e, filterPass terms (scrRead (t.cl c.val) (gran (wB w) + i * mb) mb) p0 p1)
        let yes := (flags.filter (·.2)).map (·.1)
        let no := es.length - yes.length
        let out := yes.flatMap REnt.bytes ++ (List.replicate (no + 1) (padEnt false).bytes).flatten
        let t1 := countCls (countCls t c.val Ev.filterPass 0xFF yes.length) c.val Ev.filterFail 0xFF no
        (true, retire (skipFree (scrWrite t1 c.val (gran (wC w)) out) 2) c.val 1))

/-- The fabric address of a constant: bytes 0 to 7. -/
def constAddr (k : List Byte) : Nat := getLE k 0 8
/-- The node number of a fabric address (R283). -/
def addrNode (a : Nat) : Nat := a / 2 ^ 52

/-- The address is in this node's own windows. -/
def ownAddr (s : State) (a : Nat) : Bool := addrNode a == s.fab.node && decide (s.fab.node < 64)

/-- An atomic of this node's own clusters on a tile in a move, or homed on flash, waits; on flash its tile's move starts (R198,
R212). -/
def localReady (s : State) (part a : Nat) : Bool × State :=
  match windowOf a with
  | .tier b =>
    let t := b / tileBytes
    let h := s.home t
    match tget? s.tier.moves t with
    | some m => (!(m.frozen || h.tier = 3), s)
    | none =>
      if h.tier = 3 && h.st != .unmapped then
        match writeHomed s part t (b % tileBytes) [] none with
        | (.ok, s1) => (false, s1)
        | _ => (false, s)
      else (true, s)
  | _ => (true, s)

/-- VATOM (R82, R287, R288, R294): the operand is at OPB, a compare value behind it, and the old value goes to OPC. The width
is 4 bytes. -/
def execVatom (c : Fin 128) (s : State) : Res :=
  .next (issueW s c.val 1 0x0E (fun w _ => [(gran (wB w), 8)]) fun w t =>
    let a := constAddr (clConst t c.val (wA w))
    let p := (t.cl c.val).part
    let operand := leNat (scrRead (t.cl c.val) (gran (wB w)) 4)
    let compare := leNat (scrRead (t.cl c.val) (gran (wB w) + 4) 4)
    if !atomicOk (vSub w) a then (true, failInv t c.val 1 (refusal rsFormat))
    else if ownAddr t a then
      match localReady t p a with
      | (false, t1) => (false, t1)
      | (true, t1) =>
        match serveAtomic t1 p t1.fab.node 0 a (vSub w) operand compare none with
        | .done st bytes t2 =>
          if st = stOk then (true, retire (scrWrite t2 c.val (gran (wC w)) bytes) c.val 1)
          else (true, failInv t2 c.val 1 st)
        | .queued t2 => (false, t2)
        | .wait t2 => (false, t2)
    else
      match regTry t p .fabric (unitReqId c.val 1) 16 with
      | (false, t1) => (false, t1)
      | (true, t1) =>
        let t2 := addPending (setWait t1 c.val 1 (.resp t1.fab.nextTag)) c.val 1 1
        (true, (request t2 kAtomic (addrNode a) p 0 a 4 (vSub w) (leBytes 8 operand ++ leBytes 8 compare) false
          (.vatom c.val (gran (wC w)) 4)).2))

/-- VSTFLAG (R82, R294): a store with FLAG, of OPD bytes. -/
def execVstflag (c : Fin 128) (s : State) : Res :=
  .next (issueW s c.val 1 0x13 (fun w _ => [(gran (wA w), wD w)]) fun w t =>
    let a := constAddr (clConst t c.val (wB w))
    let p := (t.cl c.val).part
    let bytes := scrRead (t.cl c.val) (gran (wA w)) (wD w)
    if !sizeOk a (wD w) then (true, failInv t c.val 1 (refusal rsFormat))
    else if !inDomainNum (addrNode a) then (true, failInv (count t p Ev.fabDomainErr) c.val 1 (refusal rsRange))
    else if ownAddr t a then
      if !(ordered t (.store c.val)).isEmpty then (false, t)
      else
        match serveStore t p t.fab.node (2 ^ 20 + c.val) a bytes false with
        | .done st _ t1 => (true, if st = stOk then retire t1 c.val 1 else failInv t1 c.val 1 st)
        | .queued t1 => (true, retire t1 c.val 1)
        | .wait t1 => (false, t1)
    else
      match regTry t p .fabric (unitReqId c.val 1) (wD w) with
      | (false, t1) => (false, t1)
      | (true, t1) =>
        (true, (request (retire (addPending t1 c.val 1 1) c.val 1) kStore (addrNode a) p 0 a (wD w) 0 bytes true
          (.store c.val)).2))

/-- VINVAL (R82, R298): the range constant holds a fabric address and, in bytes 8 and 9, the count of 256-byte lines. The unit
waits for the acknowledgements. -/
def execVinval (c : Fin 128) (s : State) : Res :=
  .next (issueW s c.val 1 0x12 (fun _ _ => []) fun w t =>
    let k := clConst t c.val (wA w)
    let a := constAddr k
    let t1 := addPending (setWait t c.val 1 (.resp t.fab.nextTag)) c.val 1 1
    (true, (request t1 kInval (addrNode a) (t.cl c.val).part 0 a 0 (getLE k 8 2) [] false (.inval c.val)).2))

end Sys2Proof.Machine
end

