-- ==== Sys2Proof/Machine/Select.lean ====
section
/-!
DEFINITION. The select unit and the Kneaders: SHIST, SBUCKET, SCRUMB, SEMIT and the end of merges (R82, R139 to R160).
-/
namespace Sys2Proof.Machine

/-- Modifiers of the select unit (R81). -/
def sK (w : Nat) : Nat := wMod w 39 30 + 1
def sMode (w : Nat) : Nat := wMod w 29 28
def sLower (w : Nat) : Bool := wMod w 27 26 == 1
def sNin (w : Nat) : Nat := wMod w 25 20 + 1
def sRemote (w : Nat) : Bool := wMod w 19 19 == 1

/-- A count operand: 0 stands for 65,536 (R141). -/
def count16 (n : Nat) : Nat := if n = 0 then 65536 else n

/-- The entries at OPA that a select word takes: padding is no input (R139). -/
def selInputs (x : Cluster) (w : Nat) : List REnt :=
  ((List.range (count16 (wD w))).map fun i => REnt.ofBytes (scrRead x (gran (wA w) + 16 * i) 16)).filter fun e => !e.pad

/-- Scratch that a select word reads. -/
def selSpan (w : Nat) : List (Nat × Nat) := [(gran (wA w), 16 * count16 (wD w))]

/-- Counts the NaN scores among inputs (R139). -/
def nanCount (es : List REnt) : Nat := (es.filter fun e => f32isNan e.score).length

/-- The header that a selection starts from: the query's flags, epoch and visits, or those of plan work (R158). -/
def selHead (s : State) (c : Nat) : RHead :=
  match unitQuery s c 3 with
  | some (_, q) => { hflags := q.hflags, epoch := q.epoch.getD 0, visits := min q.visits 0xFFFFFFFF }
  | none => {}

/-- The k of a select word: the query's, or the modifier's for plan work (R140). -/
def selK (s : State) (c w : Nat) : Nat :=
  match unitQuery s c 3 with
  | some (_, q) => qK q.desc
  | none => sK w

/-- SHIST (R145): range, count and histogram of the scores, in 4,112 bytes at OPC. -/
def execShist (c : Fin 128) (s : State) : Res :=
  .next (issueR s c.val 3 0x01 (fun w _ => selSpan w) fun w t =>
    let es := selInputs (t.cl c.val) w
    let (lo, hi) := keyRange (sLower w) es
    let bytes := leBytes 4 lo ++ leBytes 4 hi ++ leBytes 4 es.length ++ leBytes 4 0 ++
      (histogram (sLower w) es).flatMap (leBytes 4)
    countCls (scrWrite t c.val (gran (wC w)) bytes) c.val Ev.nanScore 0xFF (nanCount es))

/-- SBUCKET (R140 to R144, R157, R158): the result at OPC. -/
def execSbucket (c : Fin 128) (s : State) : Res :=
  .next (issueR s c.val 3 0x02 (fun w _ => selSpan w) fun w t =>
    let lower := sLower w
    let es := selInputs (t.cl c.val) w
    let k := selK t c.val w
    let r := bucketSelect lower k es
    let h0 := selHead t c.val
    let fl := if r.ties = 0 then h0.hflags else setBit h0.hflags 0
    let h := { h0 with
      hflags := if r.approx then setBit fl 1 else fl, k := k, valid := r.kept.length, tiesOut := r.ties
      tieKey := if r.kept.length = k then (r.kept.getLast?.map (REnt.key lower)).getD 0 else 0 }
    let t1 := scrWrite t c.val (gran (wC w)) (resultBytes lower h r.kept)
    let t2 := countCls (countCls t1 c.val Ev.selBucket) c.val Ev.nanScore 0xFF (nanCount es)
    let t3 := if r.approx then countCls t2 c.val Ev.selApprox else t2
    if r.ties = 0 then t3 else countCls t3 c.val Ev.selTiecut)

/-- SCRUMB (R146): the inputs enter the sorted list at OPC, which is new in each invocation. -/
def execScrumb (c : Fin 128) (s : State) : Res :=
  .next (issueR s c.val 3 0x03 (fun w _ => selSpan w) fun w t =>
    let lower := sLower w
    let x := t.cl c.val
    let es := selInputs x w
    let k := selK t c.val w
    let base := gran (wC w)
    let inv := unitInv t c.val 3
    let old := if (tget? x.areas base).map (·.1) == some inv then
        let l := MList.of (scrRead x base (32 + 16 * k)) false
        l.es.take (min l.h.valid k)
      else []
    let (list, n) := es.foldl (fun (acc : List REnt × Nat) e =>
      let (l, yes) := crumbInsert lower k acc.1 e
      (l, acc.2 + b2n yes)) (old, 0)
    let h := { selHead t c.val with
      k := k, valid := list.length, tieKey := if list.length = k then (list.getLast?.map (REnt.key lower)).getD 0 else 0 }
    let t1 := t.setCl c.val { x with areas := tput x.areas base (inv, 0) }
    let t2 := scrWrite t1 c.val base (resultBytes lower h list)
    countCls (countCls t2 c.val Ev.crumbIns 0xFF n) c.val Ev.nanScore 0xFF (nanCount es))

/-- The bytes of a list in result format at a scratch address: header and as many entries as its K says. -/
def listAt (x : Cluster) (a : Nat) : List Byte := scrRead x a (32 + 16 * min 1024 (leNat (scrRead x (a + 4) 2)))

/-- A forwarded query hands its list to its entry node (R312, R317): the list leaves as one contribution, and the query has
ended here. -/
def sendPartialList (s : State) (qid : Nat) (q : Query) (pos ctx : Nat) (bytes : List Byte) : State :=
  let rank := 2 ^ rankOf (mergeMask q.desc (shardOf s pos)) (ownShard s)
  endQuery (sendList s kPlist pos q.part ctx 0xFFFF 0 rank bytes) qid stOk

/-- SEMIT (R16, R82, R312, R377): a query's result is delivered, or becomes the entry node's own list of its merge, or goes to
the entry node; other results go to OUT_ADDR, within OUT_LEN. -/
def execSemit (c : Fin 128) (s : State) : Res :=
  .next (issueW s c.val 3 0x05 (fun w t => [(gran (wA w), (listAt (t.cl c.val) (gran (wA w))).length)]) fun w t =>
    let bytes := listAt (t.cl c.val) (gran (wA w))
    match unitQuery t c.val 3 with
    | some (qid, q) =>
      match q.entry with
      | some (pos, ctx) =>
        match regTry t q.part .fabric (unitReqId c.val 3) bytes.length with
        | (false, t1) => (false, t1)
        | (true, t1) => (true, sendPartialList (retire t1 c.val 3) qid q pos ctx bytes)
      | none =>
        let t1 := retire t c.val 3
        match q.merge with
        | some key =>
          (true, mergeReady { t1 with fab.colls := tupd t1.fab.colls key fun m =>
            { m with own := some bytes } } key)
        | none => (true, deliverQuery t1 qid q false bytes)
    | none =>
      match (unitInv t c.val 3).bind fun i => (tget? t.work.invs i).map fun v => (i, v) with
      | none => (true, retire t c.val 3)
      | some (i, v) =>
        let n := min bytes.length (v.outLen - v.outDone)
        let gen := match v.cid.bind (tget? t.host.cmds) with
          | some k => k.gen
          | none => (t.fn v.fn).gen
        let t1 := if n = 0 then t else resultWrite t v.fn gen (v.outAddr + v.outDone) (bytes.take n)
        (true, retire { t1 with work.invs := tput t1.work.invs i { v with outDone := v.outDone + n } } c.val 3))

/-- The merge waiting for a Kneader that is served next (R156): the oldest invocation, then the lowest cluster. -/
def nextMerge (ms : List Merge) : Option Merge :=
  let cl (m : Merge) : Nat := match m.cluster with
    | some (c, _) => c
    | none => 0
  leastBy (fun a b => decide (a.stamp < b.stamp) || (a.stamp == b.stamp && decide (cl a < cl b))) ms

/-- KNEADER_FREE (R156). -/
def execKneaderFree (k : Fin 16) (s : State) : Res :=
  match tget? s.work.kne k.val, nextMerge s.work.kneWait with
  | none, some m =>
    .next { s with work := { s.work with kne := tput s.work.kne k.val m, kneWait := s.work.kneWait.erase m } }
  | _, _ => .next s

/-- A Kneader's input buffers meet detector 0x05 (R392, R394): an uncorrectable error drops a list, and which one is open. -/
def kneBuffers (s : State) (k : Nat) (m : Merge) : Merge × State :=
  match injHit s 5 (· == k) with
  | (none, _) => (m, s)
  | (some false, s1) => (m, detect s1 5 sevCorr actCounted m.part k 0 0 true)
  | (some true, s1) =>
    let (w, s2) := takeFree s1
    ({ m with lists := m.lists.eraseIdx (w.toNat % m.lists.length), partialIn := true },
      detect s2 5 sevCont actEnded m.part k 0 0 true)

/-- KNEADER_MERGE_DONE (R150 to R155, R160, R163): the merged list goes to its cluster's scratch, or is delivered. -/
def execKneaderMergeDone (k : Fin 16) (s : State) : Res :=
  match tget? s.work.kne k.val with
  | none => .next s
  | some m0 =>
    if m0.inst.isSome then .next s
    else
      let (m, s0) := kneBuffers { s with work.kne := terase s.work.kne k.val } k.val m0
      let lists := m.lists.map fun l => MList.of l.1 l.2
      let r := kneMerge m.lower m.k lists m.partialIn
      let bytes := resultBytes m.lower r.head r.es
      let s1 := count (count s0 m.part Ev.kneMerge k.val) m.part Ev.kneDup k.val r.dups
      let s2 := count { s1 with work.kneErr := tmod s1.work.kneErr m.part 0 (· ||| BitVec.ofNat 64 r.err) } m.part
        Ev.kneBadlist k.val r.bad
      let s3 := count s2 m.part Ev.nanScore 0xFF (sumOf (lists.map fun l => nanCount l.es))
      let s4 := if bitOf r.head.hflags 0 then count s3 m.part Ev.selTiecut else s3
      match m.qid with
      | some qid =>
        match tget? s4.work.queries qid with
        | none => .next s4
        | some q => .next (deliverQuery s4 qid q true bytes)
      | none =>
        match m.cluster with
        | none => .next s4
        | some (c, a) => .next (resume (scrWrite s4 c a bytes) c 3 .kneader)

end Sys2Proof.Machine
end

