-- ==== Sys2Proof/Machine/Collective.lean ====
section
/-!
DEFINITION. Collectives (chapter 12): descriptors, contributions, the root's work, and SMERGE and VXCHG.
-/
namespace Sys2Proof.Machine

/-- A collective descriptor (R313). -/
structure CollD where
  op : Nat
  fmt : Nat
  outFmt : Nat
  filt : Bool
  contrib : Nat
  root : Nat
  rootLc : Nat
  elems : Nat
  itemBytes : Nat
  items : Nat
  k : Nat
  lower : Bool
  filter : Nat
  p0 : Nat
  p1 : Nat
  tmo : Nat
deriving DecidableEq, Repr

def opReduce : Nat := 1
def opGather : Nat := 2
def opMerge : Nat := 3

def collD (b : List Byte) : CollD :=
  { op := getLE b 4 1, fmt := getLE b 5 1, outFmt := getLE b 6 1, filt := bitOf (getLE b 7 1) 0, contrib := getLE b 8 8
    root := getLE b 0x10 1, rootLc := getLE b 0x11 1, elems := getLE b 0x12 2, itemBytes := getLE b 0x14 2
    items := getLE b 0x16 2, k := getLE b 0x18 2, lower := getLE b 0x1A 1 == 1, filter := getLE b 0x1C 2
    p0 := getLE b 0x20 4, p1 := getLE b 0x24 4, tmo := getLE b 0x28 4 }

/-- The four constants from `k` on. -/
def descBytes (p : Plan) (k : Nat) : List Byte := (List.range 4).flatMap fun i => slice (p.bin.consts.getD (k + i) []) 0 16

/-- The descriptor that starts at constant `k`, when one does (R313). -/
def descAt (p : Plan) (k : Nat) : Option CollD :=
  let b := descBytes p k
  if getLE b 0 2 = 0xC011 && getLE b 2 2 = 0x0200 then some (collD b) else none

/-- Bytes of one REDUCE element; of a contribution (R315); of data in one burst (R317 to R319). -/
def CollD.elemBytes (d : CollD) : Nat := if d.fmt = 6 then 2 else 4
def CollD.bytes (d : CollD) : Nat :=
  if d.op = opReduce then d.elems * d.elemBytes else if d.op = opGather then d.items * d.itemBytes else 32 + 16 * d.k
def CollD.burst (d : CollD) : Nat := if d.op = opGather then 240 / d.itemBytes * d.itemBytes else 240

/-- A contribution after its filter stage, and the items dropped (R320). -/
def filterStage (p : Plan) (d : CollD) (bytes : List Byte) : List Byte × Nat :=
  if !d.filt then (bytes, 0)
  else
    let terms := (filterProg p.bin.consts d.filter).getD []
    let pass (item : List Byte) : Bool := filterPass terms item d.p0 d.p1
    if d.op = opGather then
      let items := chunks d.itemBytes d.items bytes
      let yes := items.filter pass
      (yes.flatten, items.length - yes.length)
    else if d.op = opMerge then
      let l := MList.of bytes false
      let yes := l.es.filter fun e => pass e.bytes
      let n := l.es.length - yes.length
      if n = 0 then (bytes, 0)
      else
        (resultBytes d.lower
          { l.h with valid := yes.length, tieKey := 0, tiesOut := 0, hflags := setBit l.h.hflags 4 } yes, n)
    else (bytes, 0)

/-- The bursts of a contribution: chunk number, whether it is the last, and data. -/
def contribBursts (d : CollD) (bytes : List Byte) : List (Nat × Bool × List Byte) :=
  let cs := match chunks d.burst (bytes.length + 1) bytes with
    | [] => [[]]
    | x => x
  cs.mapIdx fun i c => (i, i + 1 == cs.length, c)

/-- The open instances of a descriptor at its root (R316). -/
def openOf (s : State) (slot k : Nat) : List Nat :=
  (s.fab.colls.filter fun kv => kv.2.desc == some (slot, k) && !kv.2.closed).map (·.1)

/-- The instance `n` of a descriptor at this root. -/
def collOf (s : State) (slot k n : Nat) : Option (Nat × Coll) :=
  tfind? s.fab.colls fun _ c => c.desc == some (slot, k) && c.n == n

/-- Opens an instance (R316): its close timer starts. -/
def openColl (s : State) (slot k n : Nat) (part : Nat) (d : CollD) : Nat × State :=
  let key := s.fab.nextColl
  let c : Coll := { desc := some (slot, k), n := n, part := part, mask := d.contrib, closeT := s.now + d.tmo * 1000 }
  (key, count { s with fab := { s.fab with colls := tput s.fab.colls key c, nextColl := key + 1 } } part Ev.swcOpen)

/-- The instance, opened when it is not; `none` while two others are open (R316). -/
def getColl (s : State) (slot k n part : Nat) (d : CollD) : Option (Nat × State) :=
  match collOf s slot k n with
  | some (key, _) => some (key, s)
  | none => if 2 ≤ (openOf s slot k).length then none else some (openColl s slot k n part d)

/-- An instance is over: its number counts as closed (R316). -/
def dropColl (s : State) (key : Nat) : State :=
  match tget? s.fab.colls key with
  | none => s
  | some c =>
    let s1 := tally { s with fab.colls := terase s.fab.colls key } c
    match c.desc with
    | none => s1
    | some (slot, k) =>
      { s1 with work.plans := tupd s1.work.plans slot fun p =>
        { p with closedInst := tput p.closedInst k (max c.n (tgetD p.closedInst k 0)) } }

/-- The bytes of chunk `ch` of a rank, from parts of that rank alone. -/
def rankChunk (ps : List CollPart) (rank ch : Nat) : Option CollPart :=
  ps.find? fun p => p.chunk = ch && bitOf p.ranks rank

/-- The chunk is there whole: a 64-bit partial has two halves (R318). -/
def chunkDone (ps : List CollPart) (rank ch : Nat) : Bool :=
  match rankChunk ps rank ch with
  | none => false
  | some p => !p.wide || (ps.any (fun q => q.chunk = ch && bitOf q.ranks rank && q.half) &&
      ps.any (fun q => q.chunk = ch && bitOf q.ranks rank && !q.half))

/-- Every burst of a rank has arrived: a filtered GATHER ends with the burst marked LAST. -/
def rankDone (d : CollD) (ps : List CollPart) (rank : Nat) : Bool :=
  let n := if d.op = opGather && d.filt then
      match ps.find? fun p => bitOf p.ranks rank && p.last with
      | some p => some (p.chunk + 1)
      | none => none
    else some (ceilDiv d.bytes d.burst)
  match n with
  | none => false
  | some m => (List.range m).all (chunkDone ps rank)

/-- The data of a rank in chunk order. -/
def rankData (ps : List CollPart) (rank : Nat) : List Byte :=
  ((sortBy (fun a b => decide (a.chunk ≤ b.chunk)) (ps.filter fun p => bitOf p.ranks rank)).map (·.data)).flatten

/-- Element `e` of a part of an INT32 reduction: 60 elements of 4 bytes, or 30 of 8 bytes in each half (R318). -/
def intElem (p : CollPart) (e : Nat) : Int :=
  let i := e % 60
  if p.chunk ≠ e / 60 then 0
  else if p.wide then (if p.half == decide (30 ≤ i) then sext 64 (getLE p.data (i % 30 * 8) 8) else 0)
  else sext 32 (getLE p.data (4 * i) 4)

/-- The exact sums of an INT32 reduction, saturated, and how many saturated (R318). -/
def reduceInt (d : CollD) (ps : List CollPart) : List Nat × Nat :=
  let sums := (List.range d.elems).map fun e => (ps.map fun p => intElem p e).foldl (· + ·) 0
  let sat (x : Int) : Int := max (-(2 ^ 31)) (min (2 ^ 31 - 1) x)
  (sums.map fun x => wrapTo 32 (sat x), (sums.filter fun x => sat x ≠ x).length)

/-- The elements of a rank in FP32; BF16 is widened exactly (R318). -/
def rankF32 (d : CollD) (bytes : List Byte) : List F32 :=
  if d.fmt = 6 then (chunks 2 (d.elems + 1) bytes).map fun b => leNat b * 65536
  else (chunks 4 (d.elems + 1) bytes).map leNat

/-- A NaN becomes 0x7FC0_0000. -/
def canonNan (b : F32) : F32 := if f32isNan b then 0x7FC00000 else b

/-- The fold of FP32 or BF16 contributions in ascending rank (R318). -/
def reduceFloat (d : CollD) (ps : List CollPart) : List F32 :=
  let vecs := (bitsSet 64 (allRanks d.contrib)).map fun r => rankF32 d (rankData ps r)
  match vecs with
  | [] => []
  | v :: vs => (vs.foldl (fun a b => a.zipWith f32add b) v).map canonNan

/-- The result of a REDUCE or GATHER as it is written at OPC, and the elements that saturated (R318, R319). -/
def collResult (d : CollD) (ps : List CollPart) : List Byte × Nat :=
  if d.op = opGather then
    let data := (bitsSet 64 (allRanks d.contrib)).flatMap (rankData ps)
    (leBytes 4 (data.length / d.itemBytes) ++ leBytes 12 0 ++ data, 0)
  else if d.fmt = 8 then
    let (xs, n) := reduceInt d ps
    (xs.flatMap (leBytes 4), n)
  else
    let xs := reduceFloat d ps
    if d.outFmt = 6 then (xs.flatMap fun x => leBytes 2 (encElem .bf16 .near true fvOne 0 (f32v x)).1, 0)
    else (xs.flatMap (leBytes 4), 0)

/-- The descriptor of an instance. -/
def Coll.d (s : State) (c : Coll) : Option CollD :=
  match c.desc with
  | some (slot, k) => (tget? s.work.plans slot).bind fun p => descAt p k
  | none => none

/-- Hands the lists of a closed MERGE to the Kneader merge that waits for them. -/
def giveLists (s : State) (key : Nat) (c : Coll) : State :=
  let fill (m : Merge) : Merge :=
    if m.inst == some key then { m with lists := c.lists, partialIn := decide (c.absent ≠ 0), inst := none } else m
  let s1 := { s with work := { s.work with kne := tmap s.work.kne fun _ m => fill m, kneWait := s.work.kneWait.map fill } }
  if s.work.kne.any (fun kv => kv.2.inst == some key) || s.work.kneWait.any fun m => m.inst == some key then dropColl s1 key
  else { s with fab.colls := tput s.fab.colls key { c with closed := true } }

/-- Closes a plan collective (R316, R325): its result is written to OPC, or it ends with a status, once the root's own
instruction has issued. -/
def closePlan (s : State) (key : Nat) (c : Coll) (d : CollD) (bad : Option Nat) : State :=
  if d.op = opMerge then giveLists s key c
  else
    match c.dst with
    | none => { s with fab.colls := tput s.fab.colls key { c with closed := true, ended := bad } }
    | some (lc, a) =>
      let s1 := dropColl s key
      match bad with
      | some st => if ((s1.cl lc).unit 1).wait == .xchg then failInv s1 lc 1 st else s1
      | none =>
        let (bytes, sat) := collResult d c.parts
        let s2 := resume (scrWrite s1 lc a bytes) lc 1 .xchg
        if sat = 0 then s2
        else count { s2 with fab.swcErr := orErr s2.fab.swcErr c.part 4 } c.part Ev.swcSat 0xFF sat

/-- Looks whether an instance is complete (R316, R325): every rank of a plan collective is taken, or is absent from a MERGE; an
absent rank ends a REDUCE or GATHER with FENCED. -/
def collCheck (s : State) (key : Nat) : State :=
  match tget? s.fab.colls key with
  | none => s
  | some c =>
    if c.qid.isSome then mergeReady s key
    else if c.closed then s
    else
      match c.d s with
      | none => s
      | some d =>
        if d.op ≠ opMerge && c.absent ≠ 0 then closePlan s key c d (some stFenced)
        else if c.missing = 0 then closePlan s key c d none
        else s

/-- Ranks are absent from an instance at once (R325). -/
def loseRanks (s : State) (key ranks : Nat) : State := collCheck (absentRanks s key ranks) key

/-- An arrival after the close (R325). -/
def lateArrival (s : State) (part : Nat) : State := countLate { s with fab.swcErr := orErr s.fab.swcErr part 1 } part

/-- A complete list at its root (R323, R325): dropped for its epoch or for ranks already taken; otherwise its ranks are
taken. -/
def takeList (s : State) (key ranks : Nat) (combined : Bool) (epoch : Option Nat) (bytes : List Byte) : State :=
  match tget? s.fab.colls key with
  | none => s
  | some c =>
    let e := (RHead.ofBytes bytes).epoch
    if epoch.isSome && epoch != some e then
      loseRanks (count { s with fab.swcErr := orErr s.fab.swcErr c.part 2 } c.part Ev.swcBadin) key ranks
    else if ranks &&& (c.taken ||| c.absent) ≠ 0 then
      loseRanks (count { s with fab.swcErr := orErr s.fab.swcErr c.part 3 } c.part Ev.swcDupin) key
        (ranks &&& ((c.taken ||| c.absent) ^^^ (2 ^ 64 - 1)))
    else
      let x : Coll := { c with taken := c.taken ||| ranks, lists := c.lists ++ [(bytes, combined)] }
      collCheck { s with fab.colls := tput s.fab.colls key x } key

/-- A burst of a REDUCE or GATHER contribution at its root (R318, R319, R323). -/
def takePart (s : State) (key : Nat) (d : CollD) (p : CollPart) : State :=
  match tget? s.fab.colls key with
  | none => s
  | some c =>
    if p.ranks &&& c.absent ≠ 0 || c.parts.any fun q => q.chunk = p.chunk && q.half == p.half && p.ranks &&& q.ranks ≠ 0 then
      count { s with fab.swcErr := orErr s.fab.swcErr c.part 3 } c.part Ev.swcDupin
    else
      let ps := c.parts ++ [p]
      let taken := ofBits ((bitsSet 64 (allRanks c.mask)).filter (rankDone d ps))
      collCheck { s with fab.colls := tput s.fab.colls key { c with parts := ps, taken := taken } } key

/-- A burst of a list: appended to what its source has sent of it; the whole list once its last burst is there. -/
def openList (s : State) (key src ranks : Nat) (last : Bool) (data : List Byte) : Option (List Byte) × State :=
  match tget? s.fab.colls key with
  | none => (none, s)
  | some c =>
    let (_, b) := tgetD c.open_ src (ranks, [])
    let bytes := b ++ data
    if last then (some bytes, { s with fab.colls := tput s.fab.colls key { c with open_ := terase c.open_ src } })
    else (none, { s with fab.colls := tput s.fab.colls key { c with open_ := tput c.open_ src (ranks, bytes) } })

/-- A burst of a plan collective's contribution at its root. -/
def takeBurst (s : State) (key : Nat) (d : CollD) (src ranks cflags cstat chunk : Nat) (data : List Byte) : State :=
  match tget? s.fab.colls key with
  | none => s
  | some c =>
    let last := bitOf cflags 1
    if c.closed || c.closeT < s.now then (if last then lateArrival s c.part else s)
    else if cstat ≠ 0 then loseRanks s key ranks
    else if d.op = opMerge then
      match openList s key src ranks last data with
      | (some bytes, s1) => takeList s1 key ranks (bitOf cflags 0) none bytes
      | (none, s1) => s1
    else takePart s key d ⟨ranks, chunk, bitOf cflags 3, bitOf cflags 0, last, data⟩

/-- The number of the instance that a word opens on this node (R316): VXCHG and SMERGE count apart. -/
def nextInst (s : State) (slot k : Nat) (merge : Bool) : Nat :=
  tgetD (tgetD s.work.plans slot {}).instances (2 * k + b2n merge) 0 + 1
def noteInst (s : State) (slot k n : Nat) (merge : Bool) : State :=
  { s with work.plans := tupd s.work.plans slot fun p => { p with instances := tput p.instances (2 * k + b2n merge) n } }

/-- The burst packets of a contribution to a remote root (R317). The low bits of ADDR carry the plan slot. -/
def sendContribution (s : State) (slot k n : Nat) (d : CollD) (part rank : Nat) (bytes : List Byte) : State :=
  (contribBursts d bytes).foldl (fun t b =>
    let fl := 2 * b2n b.2.1 + 4 * b2n d.filt
    let pay := collPrefix n b.1 fl 0 (2 ^ rank) ++ b.2.2
    sendPkt t { kind := kColl, dst := d.root, src := t.fab.node, part := part, rcls := 1, len := pay.length,
                addr := d.root * 2 ^ 52 + slot, aux := k, payload := pay }) s

/-- A contribution taken at this node's own root. -/
def contributeHere (s : State) (key : Nat) (d : CollD) (rank : Nat) (bytes : List Byte) : State :=
  (contribBursts d bytes).foldl (fun t b =>
    takeBurst t key d s.fab.node (2 ^ rank) (2 * b2n b.2.1) 0 b.1 b.2.2) s

/-- The root's cluster awaits the result at `a`: it may be there, or have ended, already. -/
def awaitResult (s : State) (key c a : Nat) (d : CollD) : State :=
  match tget? s.fab.colls key with
  | none => s
  | some x =>
    let s1 := setWait s c 1 .xchg
    let y := { x with dst := some (c, a) }
    if x.closed then closePlan s1 key y d x.ended
    else { s1 with fab.colls := tput s1.fab.colls key y }

/-- VXCHG with a collective descriptor (R315, R316). -/
def collXchg (s : State) (c w slot : Nat) (p : Plan) (d : CollD) : Bool × State :=
  let node := s.fab.node
  let k := wB w
  let isRoot := d.root = node && d.rootLc = c && d.op != opMerge
  let contributes := bitOf d.contrib node
  let n := nextInst s slot k false
  let part := (s.cl c).part
  if !contributes && !(isRoot && wD w = 0) then (true, failInv s c 1 stAdmitRefused)
  else if contributes && wD w ≠ d.bytes then (true, failInv s c 1 (refusal rsFormat))
  else
    let (bytes, dropped) := if contributes then filterStage p d (scrRead (s.cl c) (gran (wA w)) (wD w)) else ([], 0)
    let counted (t : State) : State := count (noteInst t slot k n false) part Ev.swcFiltDrop 0xFF dropped
    if d.root = node then
      match getColl s slot k n part d with
      | none => (false, s)
      | some (key, s1) =>
        let s2 := counted s1
        let s3 := if contributes then contributeHere s2 key d (rankOf d.contrib node) bytes else s2
        (true, if isRoot then awaitResult s3 key c (gran (wC w)) d else retire s3 c 1)
    else
      match regTry s part .fabric (unitReqId c 1) bytes.length with
      | (false, s1) => (false, s1)
      | (true, s1) => (true, retire (sendContribution (counted s1) slot k n d part (rankOf d.contrib node) bytes) c 1)

/-- The clusters of a peer set, a mask of 128 bits, within the role of a cluster. -/
def peersOf (s : State) (c : Nat) (k : List Byte) : List Nat :=
  let cs := match (s.cl c).plan with
    | some slot => ((tgetD s.work.plans slot {}).bin.roles.find? fun (r : RoleEnt) => r.role = (s.cl c).role).map fun (r : RoleEnt) => r.clusters
    | none => none
  (cs.getD []).filter fun x => bitOf (getLE k 0 16) x

/-- An exchange between clusters of a role (R82): when every peer stands at an exchange with the same peer set, each gets the
bytes of all, by ascending cluster number. -/
def peerXchg (s : State) (c w : Nat) : State :=
  let s1 := setWait s c 1 .xchg
  let k := clConst s c (wB w)
  let ps := peersOf s c k
  let at_ (x : Nat) : Option Nat :=
    if ((s1.cl x).unit 1).wait == .xchg then
      match (s1.cl x).word 1 with
      | some v => if slice (clConst s1 x (wB v)) 0 16 == slice k 0 16 then some v else none
      | none => none
    else none
  if !ps.contains c then retire s c 1
  else if ps.any fun x => (at_ x).isNone then s1
  else
    let words := sortBy (fun (a b : Nat × Nat) => decide (a.1 ≤ b.1)) (ps.filterMap fun x => (at_ x).map fun v => (x, v))
    let bytes := words.flatMap fun (xv : Nat × Nat) => scrRead (s1.cl xv.1) (gran (wA xv.2)) (wD xv.2)
    words.foldl (fun (t : State) (xv : Nat × Nat) =>
      resume (scrWrite t xv.1 (gran (wC xv.2)) bytes) xv.1 1 .xchg) s1

/-- VXCHG (R82, R315). -/
def execVxchg (c : Fin 128) (s : State) : Res :=
  .next (issueW s c.val 1 0x10 (fun w _ => [(gran (wA w), wD w)]) fun w t =>
    match (t.cl c.val).plan with
    | none => (true, retire t c.val 1)
    | some slot =>
      let p := tgetD t.work.plans slot {}
      match descAt p (wB w) with
      | some d => collXchg t c.val w slot p d
      | none => (true, peerXchg t c.val w))

/-- The stamp of the invocation that a unit works on. -/
def unitStamp (s : State) (c u : Nat) : Nat :=
  match (unitInv s c u).bind (tget? s.work.invs) with
  | some v => v.stamp
  | none => 0

/-- SMERGE with REMOTE = 1 (R154, R315): the arriving contributions of a MERGE go to a Kneader. -/
def remoteMerge (s : State) (c w slot : Nat) (p : Plan) : Bool × State :=
  match descAt p (wA w) with
  | none => (true, failInv s c 3 (refusal rsFormat))
  | some d =>
    let part := (s.cl c).part
    if d.op ≠ opMerge || d.root ≠ s.fab.node || d.rootLc ≠ c then (true, failInv s c 3 stAdmitRefused)
    else
      let n := nextInst s slot (wA w) true
      match getColl s slot (wA w) n part d with
      | none => (false, s)
      | some (key, s1) =>
        let s2 := setWait (noteInst s1 slot (wA w) n true) c 3 .kneader
        let m : Merge := { part := part, k := d.k, lower := d.lower, lists := [], stamp := unitStamp s c 3
                           cluster := some (c, gran (wC w)), inst := some key }
        let s3 := takeKneader s2 m
        match tget? s3.fab.colls key with
        | some x => (true, if x.closed then giveLists s3 key x else s3)
        | none => (true, s3)

/-- SMERGE with REMOTE = 0 (R149, R150, R156): NIN lists of the cluster's scratch; the list set names their addresses. -/
def localMerge (s : State) (c w : Nat) : State :=
  let x := s.cl c
  let lists := (List.range (sNin w)).map fun i =>
    listAt x (gran (getLE (slice (clConst s c (wA w + i / 8)) 0 16) (2 * (i % 8)) 2))
  let m : Merge := { part := x.part, k := selK s c w
                     lower := match unitQuery s c 3 with
                       | some (_, q) => queryLower s q
                       | none => sLower w
                     lists := lists.map fun l => (l, false), stamp := unitStamp s c 3, cluster := some (c, gran (wC w)) }
  takeKneader (setWait s c 3 .kneader) m

/-- SMERGE (R82, R150, R156). -/
def execSmerge (c : Fin 128) (s : State) : Res :=
  .next (issueW s c.val 3 0x04 (fun _ _ => []) fun w t =>
    match sRemote w, (t.cl c.val).plan with
    | true, some slot => remoteMerge t c.val w slot (tgetD t.work.plans slot {})
    | _, _ => (true, localMerge t c.val w))

/-- The prefix of a burst (R317): instance, chunk, CFLAGS, CSTAT, RANKS. -/
structure CollPre where
  inst : Nat
  chunk : Nat
  cflags : Nat
  cstat : Nat
  ranks : Nat
deriving DecidableEq, Repr

def collPre (b : List Byte) : CollPre := ⟨getLE b 0 4, getLE b 4 2, getLE b 6 1, getLE b 7 1, getLE b 8 8⟩

/-- A packet of a node that has left the rack map (R325). -/
def departed (s : State) (src : Nat) : Bool := !bitOf s.mbr.members (nodeOf src)

/-- A contribution burst at its root (R316 to R325). One for an instance that may not open yet waits. -/
def collArrive (p : Packet) (s : State) : Bool × State :=
  let pre := collPre p.payload
  let slot := p.addr % 256
  match tget? s.work.plans slot with
  | none => (true, s)
  | some plan =>
    match descAt plan p.aux with
    | none => (true, s)
    | some d =>
      if plan.part ≠ p.part || d.root ≠ s.fab.node || departed s p.src then (true, s)
      else
        match collOf s slot p.aux pre.inst with
        | none =>
          if pre.inst ≤ tgetD plan.closedInst p.aux 0 then
            (true, if bitOf pre.cflags 1 then lateArrival s p.part else s)
          else
            match getColl s slot p.aux pre.inst p.part d with
            | none => (false, s)
            | some (key, s1) =>
              (true, takeBurst s1 key d p.src pre.ranks pre.cflags pre.cstat pre.chunk (p.payload.drop 16))
        | some (key, _) => (true, takeBurst s key d p.src pre.ranks pre.cflags pre.cstat pre.chunk (p.payload.drop 16))

/-- A contribution met by detector 0x05 at the port it came by (R392): its rank is absent at the close. -/
def portBuffer (s : State) (port part : Nat) : Bool × State :=
  match injHit s 5 (· == port + 32) with
  | (none, _) => (false, s)
  | (some false, s1) => (false, detect s1 5 sevCorr actCounted part (port + 32) 0 0 true)
  | (some true, s1) => (true, detect s1 5 sevCont actEnded part (port + 32) 0 0 true)

/-- COLL (R315 to R325): at the root the burst is taken; a switch on the way forwards it unchanged. -/
def execColl (port : Fin 32) (p : Packet) (s : State) : Res :=
  .next (receive s port.val kColl p fun p t =>
    match portBuffer t port.val p.part with
    | (true, t1) => (true, t1)
    | (false, t1) => collArrive p t1)

/-- The query merge that a partial list belongs to: by the context number in its prefix (R317). -/
def mergeOf (s : State) (inst : Nat) : Option (Nat × Nat × Query) :=
  match tfind? s.work.queries fun _ q => q.entry.isNone && q.ctx == some inst && q.merge.isSome with
  | some (qid, q) => q.merge.map fun key => (key, qid, q)
  | none => none

/-- A partial list at the entry node (R312, R317, R322 to R325). -/
def plistArrive (p : Packet) (s : State) : Bool × State :=
  let pre := collPre p.payload
  let last := bitOf pre.cflags 1
  if pre.ranks = 0 || departed s p.src then (true, s)
  else
    match mergeOf s pre.inst with
    | none => (true, if last then lateArrival s p.part else s)
    | some (key, qid, q) =>
      match tget? s.fab.colls key with
      | none => (true, if last then lateArrival s p.part else s)
      | some c =>
        if c.closed || c.closeT < s.now then (true, if last then lateArrival s p.part else s)
        else if pre.cstat = 2 then (true, endQuery s qid stCtxLost)
        else if pre.cstat = 3 then (true, expireQuery s qid)
        else if pre.cstat ≠ 0 then (true, loseRanks s key pre.ranks)
        else
          match openList s key p.src pre.ranks last (p.payload.drop 16) with
          | (none, s1) => (true, s1)
          | (some bytes, s1) => (true, takeList s1 key pre.ranks (bitOf pre.cflags 0) (some (q.epoch.getD 0)) bytes)

/-- Entries of the join buffer of a port that hold bytes, and the bytes they hold (R327). -/
def joinUsed (x : Port) : Nat := sumOf (x.join.map fun kv => kv.2.bytes.length)

/-- The order that a list shows: by its padding's score, or by its first and last entries; none when they do not tell. -/
def listOrder (bytes : List Byte) (l : MList) : Option Bool :=
  if !l.joined && decide (l.h.valid < l.h.k) then
    let s := getLE bytes (32 + 16 * l.h.valid + 8) 4
    if s = 0x7F800000 then some true else if s = 0xFF800000 then some false else none
  else
    match l.es.head?, l.es.getLast? with
    | some a, some b =>
      let (ka, kb) := (orderKey false a.score, orderKey false b.score)
      if kb < ka then some false else if ka < kb then some true else none
    | _, _ => none

/-- Two lists held by one switch core may join (R321): same root, instance, K, order and epoch, and disjoint ranks; the order
is that of the list that shows it. -/
def mayJoin (a b : JoinEnt) : Option Bool :=
  let la := MList.of a.bytes a.joined
  let lb := MList.of b.bytes b.joined
  let (oa, ob) := (listOrder a.bytes la, listOrder b.bytes lb)
  let order := match oa, ob with
    | some x, some y => if x == y then some x else none
    | some x, none => some x
    | none, y => y
  match order with
  | none => none
  | some lower =>
    let j := joinLists lower la lb
    if a.dst = b.dst && a.inst = b.inst && a.part = b.part && la.h.k = lb.h.k && la.h.epoch = lb.h.epoch &&
      a.ranks &&& b.ranks = 0 && decide (j.es.length ≤ 1024) then some lower else none

/-- A joined list: header and VALID entries (R157, R321). -/
def joinedBytes (lower : Bool) (a b : JoinEnt) : List Byte :=
  let j := joinLists lower (MList.of a.bytes a.joined) (MList.of b.bytes b.joined)
  j.h.bytes ++ j.es.flatMap REnt.bytes

/-- A packet of a list without its data: it closes its places in its source's sequences. -/
def emptied (inst : Nat) (p : Packet) : Packet := { p with len := 16, payload := collPrefix inst 0 0 0 0 }

/-- Forwards a list that leaves the join buffer (R321). A joined list leaves as this node's own packets; the packets it came in
go on with an empty prefix, so that their places in their sources' sequences close. -/
def forwardJoin (s : State) (e : JoinEnt) : State :=
  if e.joined then
    let s1 := (e.pkts.map (emptied e.inst)).foldl passOn s
    sendList s1 kPlist e.dst e.part e.inst 0xFFFF 1 e.ranks e.bytes
  else e.pkts.foldl passOn s

/-- The lists that a switch core, one of the two dies, holds whole: port, number, list. -/
def heldLists (s : State) (port : Nat) : List (Nat × Nat × JoinEnt) :=
  ((List.range 16).map (port / 16 * 16 + ·)).flatMap fun t =>
    ((s.port t).join.filter fun kv => kv.2.done).map fun kv => (t, kv.1, kv.2)

/-- A whole list has arrived at a port: it joins one that is held, or is held itself until its window ends (R321). -/
def joinOrHold (s : State) (port i : Nat) (e : JoinEnt) : State :=
  let x := s.port port
  match (heldLists s port).findSome? fun h => (mayJoin h.2.2 e).map fun o => (h, o) with
  | some ((t, j, h), lower) =>
    let s1 := s.setPort port { x with join := terase x.join i }
    let y := s1.port t
    let m : JoinEnt := { h with
      pkts := h.pkts ++ e.pkts, bytes := joinedBytes lower h e, ranks := h.ranks ||| e.ranks, joined := true }
    count (s1.setPort t { y with join := tput y.join j m }) e.part Ev.swcJoin port
  | none =>
    s.setPort port { x with join := tput x.join i { e with done := true, until_ := s.now + fld s.fab.swcCfg 15 0 } }

/-- A burst of a partial list on its way to another node (R321, R327). -/
def joinBurst (port : Nat) (p : Packet) (s : State) : State :=
  let pre := collPre p.payload
  let x := s.port port
  if !flag s.fab.swcCfg 16 || p.dst = s.fab.node || pre.cstat ≠ 0 || pre.ranks = 0 then passOn s p
  else
    let last := bitOf pre.cflags 1
    let mine (e : JoinEnt) : Bool := !e.done && e.dst == p.dst && e.inst == pre.inst &&
      (e.pkts.head?.map (·.src)) == some p.src
    let (i, e, fresh) := match tfind? x.join fun _ e => mine e with
      | some (i, e) => (i, e, false)
      | none => (x.nextJoin, ({ pkts := [], dst := p.dst, inst := pre.inst, part := p.part, bytes := [], ranks := pre.ranks
                                joined := bitOf pre.cflags 0, done := false, until_ := 0 } : JoinEnt), true)
    let x1 := if fresh then { x with nextJoin := i + 1 } else x
    let keep (b : JoinEnt) : Port := { x1 with join := if last then terase x1.join i else tput x1.join i b }
    if e.bypass then passOn (s.setPort port (keep e)) (if e.ranks = 0 then emptied e.inst p else p)
    else if 32768 < joinUsed x + p.payload.length - 16 then
      let b : JoinEnt := { e with pkts := [p], bytes := [], bypass := true }
      count ((e.pkts ++ [p]).foldl passOn (s.setPort port (keep b))) p.part Ev.swcBypass port
    else
      match portBuffer s port p.part with
      | (true, s1) =>
        -- the list is dropped: the rest of it passes emptied
        let b : JoinEnt := { e with pkts := [p], bytes := [], ranks := 0, bypass := true }
        ((e.pkts ++ [p]).map (emptied e.inst)).foldl passOn (s1.setPort port (keep b))
      | (false, s1) =>
        let e1 := { e with pkts := e.pkts ++ [p], bytes := e.bytes ++ p.payload.drop 16 }
        let s2 := s1.setPort port { x1 with join := tput x1.join i e1 }
        if last then joinOrHold s2 port i e1 else s2

/-- PLIST (R312, R317, R321 to R325). -/
def execPlist (port : Fin 32) (p : Packet) (s : State) : Res :=
  .next (receive s port.val kPlist p (fun p t =>
    match portBuffer t port.val p.part with
    | (true, t1) => (true, t1)
    | (false, t1) => plistArrive p t1) (joinBurst port.val))

/-- JOIN_WINDOW_EXPIRE (R321): the list is forwarded as it stands. -/
def execJoinWindowExpire (port : Fin 32) (i : Nat) (s : State) : Res :=
  let x := s.port port.val
  match tget? x.join i with
  | none => .next s
  | some e =>
    if e.done && decide (e.until_ ≤ s.now) then
      .next (forwardJoin (s.setPort port.val { x with join := terase x.join i }) e)
    else .next s

/-- COLLECTIVE_CLOSE_EXPIRE (R325): missing ranks are absent from a merge; a REDUCE or GATHER ends with TIMEOUT. -/
def execCollectiveCloseExpire (key : Nat) (s : State) : Res :=
  match tget? s.fab.colls key with
  | none => .next s
  | some c =>
    if c.closed || s.now < c.closeT then .next s
    else if c.qid.isSome then
      let s1 := absentRanks s key c.missing
      .next (mergeReady { s1 with fab.colls := tupd s1.fab.colls key fun x => { x with closed := true } } key)
    else
      match c.d s with
      | none => .next s
      | some d =>
        let s1 := absentRanks s key c.missing
        match tget? s1.fab.colls key with
        | none => .next s1
        | some c1 => .next (closePlan s1 key c1 d (if d.op = opMerge then none else some stTimeout))

end Sys2Proof.Machine
end

