-- ==== Sys2Proof/Machine/Flash.lean ====
section
/-!
DEFINITION. The commands of flash: host reads, writes and discards, dies, media management and modules (R336 to R358, R378,
R472).
-/
namespace Sys2Proof.Machine

/-- The checks of FLASH_READ, FLASH_WRITE and FLASH_DISCARD (R345, R346, R352, R376, R377). `host` says whether the command
names a host address. -/
def flashCmdCheck (s : State) (c : Cmd) (host : Bool) : Nat × Nat × Nat :=
  let addr := getLE c.bytes 0x10 8
  let len := getLE c.bytes 0x18 4
  let fields := if host then [(0x08, 8), (0x10, 8), (0x18, 4)] else [(0x10, 8), (0x18, 4)]
  let aux := headReasons c fields ||| reasons [
    (addr % cwBytes != 0 || len % cwBytes != 0 || decide (16777216 < len) ||
      (host && getLE c.bytes 0x08 8 % 64 != 0), rsFormat),
    (!s.flash.notOpen && !inFlRange s c.part addr len, rsRange),
    (s.flash.notOpen, rsResource),
    (host && hostioOff s c, rsHostio)]
  (aux, addr, len)

/-- The refusal of a flash command also shows in FLS_ERR: RANGE, or NOSPACE while the flash space is not opened. -/
def refuseFlash (s : State) (c : Cmd) (cid aux : Nat) : State :=
  let s1 := if bitOf aux 4 then flErr s c.part 0 else s
  let s2 := if s.flash.notOpen then flErr s1 c.part 2 else s1
  refuse s2 cid aux

/-- The data of a flash read goes to host memory and the command ends (R378). -/
def finishFlashRead (s : State) (cid : Nat) : State :=
  match tget? s.host.cmds cid with
  | none => s
  | some c =>
    let addr := getLE c.bytes 0x10 8
    let len := getLE c.bytes 0x18 4
    let (bytes, bad, disc) := flashData s addr len
    let late := (tgetD s.flash.jobs (jobKey (.cmd cid)) {}).poison
    let s1 := resultWrite s c.fn c.gen (getLE c.bytes 0x08 8) bytes
    endCmd { s1 with flash.jobs := terase s1.flash.jobs (jobKey (.cmd cid)) } cid
      (if bad || late then stPoisoned else stOk) 0 0 false disc

/-- FLASH_READ (R345, R352, R378, R389): each mapped unit's codewords are read at their dies; what the map alone answers
needs none. -/
def execFlashRead (cid : Nat) (s : State) : Res :=
  match cmdOf s cid 0x30 with
  | none => .next s
  | some c =>
    let (aux, addr, len) := flashCmdCheck s c true
    if aux ≠ 0 then .next (refuseFlash s c cid aux)
    else
      let cw := addr / cwBytes
      let n := len / cwBytes
      let (ok, s1) := regTry s c.part .flash cid (16 * mappedCws s cw n)
      if !ok then .next s1
      else
        let (k, s2) := readRun (runCmd s1 cid) cw n c.part 1 none (.cmd cid)
        if k = 0 then .next (finishFlashRead s2 cid)
        else .next { s2 with flash.jobs := tput s2.flash.jobs (jobKey (.cmd cid)) { left := k } }

/-- The pieces of an interval of the logical space by unit: unit, offset, length. -/
def unitPieces : (fuel addr len : Nat) → List (Nat × Nat × Nat)
  | 0, _, _ => []
  | f + 1, addr, len =>
    if len = 0 then []
    else
      let n := min len (unitBytes - addr % unitBytes)
      (addr / unitBytes, addr % unitBytes, n) :: unitPieces f (addr + n) (len - n)

/-- One unit's part of a write or discard: a whole unit is programmed, less waits in the write buffer until the unit is
complete or 500 µs old (R348). -/
def bufferUnit (s : State) (u part : Nat) (w : Option (Nat × List Byte)) (disc : List Nat) (cid : Nat) : State :=
  match w with
  | some (off, bs) =>
    if bs.length = unitBytes then progUnit s u part 2 [(off, bs)] [] (.write [cid])
    else
      let b := tgetD s.flash.wbuf u { t := s.now, part := part, parts := [], cids := [] }
      { s with flash.wbuf := tput s.flash.wbuf u { b with
          parts := b.parts ++ [(off, bs)], cids := b.cids ++ [cid]
          disc := b.disc.filter fun i => !(decide (off < (i + 1) * cwBytes) && decide (i * cwBytes < off + bs.length)) } }
  | none =>
    let b := tgetD s.flash.wbuf u { t := s.now, part := part, parts := [], cids := [] }
    { s with flash.wbuf := tput s.flash.wbuf u { b with
        disc := dedup (b.disc ++ disc), cids := b.cids ++ [cid]
        parts := b.parts.filter fun x => !disc.contains (x.1 / cwBytes) } }

/-- FLASH_WRITE (R345 to R348, R356): all units' programs side by side; the command ends when the last has passed and its map
entry points at it. -/
def execFlashWrite (cid : Nat) (data : HostRead) (s : State) : Res :=
  match cmdOf s cid 0x31 with
  | none => .next s
  | some c =>
    let (aux, addr, len) := flashCmdCheck s c true
    if aux ≠ 0 then .next (refuseFlash s c cid aux)
    else
      match data with
      | .failed => .next (refuse s cid rsHostio)
      | .ok bytes =>
        let bs := slice bytes 0 len
        let ps := unitPieces (len / unitBytes + 2) addr len
        let fresh := (ps.filter fun x => (s.mapOf x.1).st != .mapped).length
        if fresh ≠ 0 && !spaceFor s fresh then .next (refuse (flErr s c.part 2) cid rsResource)
        else if ps.isEmpty then .next (endCmd s cid stOk)
        else
          let s1 := { runCmd s cid with flash.jobs := tput s.flash.jobs (jobKey (.cmd cid)) { left := ps.length } }
          let cut (x : Nat × Nat × Nat) : List (Nat × List Byte) :=
            (List.range (x.2.2 / cwBytes)).map fun i =>
              (x.2.1 + i * cwBytes, (bs.drop (x.1 * unitBytes + x.2.1 + i * cwBytes - addr)).take cwBytes)
          .next (ps.foldl (fun t x =>
            if x.2.2 = unitBytes then
              bufferUnit t x.1 c.part (some (0, (bs.drop (x.1 * unitBytes - addr)).take unitBytes)) [] cid
            else
              let t1 := (cut x).foldl (fun y w => bufferUnit y x.1 c.part (some w) [] cid) t
              { t1 with flash.wbuf := tupd t1.flash.wbuf x.1 fun b => { b with cids := dedup b.cids } }) s1)

/-- One unit of a flash command is done: with the last the command ends. -/
def unitDone (s : State) (cid : Nat) : State :=
  let k := jobKey (.cmd cid)
  match tget? s.flash.jobs k with
  | none => s
  | some j =>
    if j.left ≤ 1 then endCmd { s with flash.jobs := terase s.flash.jobs k } cid stOk
    else { s with flash.jobs := tput s.flash.jobs k { j with left := j.left - 1 } }

/-- The node's own discard of whole codewords (R136, R352), and the part of FLASH_DISCARD that takes effect at once: whole
units become DISCARDED, and what was buffered for one is done; nothing is written for a unit without a place. The answer lists the units with codewords to mark. -/
def discardUnits (s : State) (addr len : Nat) : List (Nat × List Nat) × State :=
  (unitPieces (len / unitBytes + 2) addr len).foldl (fun (acc : List (Nat × List Nat) × State) x =>
    let t := acc.2
    if x.2.2 = unitBytes then
      let f := t.flash
      let t1 := { t with flash := { f with
        mem := mclear f.mem (x.1 * unitBytes) unitBytes
        disc := tfilter f.disc fun k _ => k / 8 != x.1
        pois := tfilter f.pois fun k _ => k / 8 != x.1
        wbuf := terase f.wbuf x.1
        wseq := f.wseq + 1 } }
      let held := match tget? f.wbuf x.1 with
        | some b => b.cids
        | none => []
      (acc.1, held.foldl unitDone (setMap t1 x.1 { (t.mapOf x.1) with st := .discarded }))
    else if (t.mapOf x.1).st != .mapped then acc
    else (acc.1 ++ [(x.1, (List.range (x.2.2 / cwBytes)).map (x.2.1 / cwBytes + ·))], t)) ([], s)

/-- FLASH_DISCARD (R352). -/
def execFlashDiscard (cid : Nat) (s : State) : Res :=
  match cmdOf s cid 0x32 with
  | none => .next s
  | some c =>
    let (aux, addr, len) := flashCmdCheck s c false
    if aux ≠ 0 then .next (refuseFlash s c cid aux)
    else
      let (rest, s1) := discardUnits s addr len
      let s2 := count s1 c.part Ev.flsDiscard
      if rest.isEmpty then .next (endCmd s2 cid stOk)
      else
        let s3 := { runCmd s2 cid with flash.jobs := tput s2.flash.jobs (jobKey (.cmd cid)) { left := rest.length } }
        .next (rest.foldl (fun t x => bufferUnit t x.1 c.part none x.2 cid) s3)

/-- WRITE_BUFFER_EXPIRE (R348): a partly written unit is 500 µs old, or complete. -/
def execWriteBufferExpire (unit : Nat) (s : State) : Res :=
  match tget? s.flash.wbuf unit with
  | none => .next s
  | some b =>
    if s.now < b.t + 500000 then .next s
    else
      .next (progUnit { s with flash.wbuf := terase s.flash.wbuf unit } unit b.part 2 b.parts b.disc (.write b.cids))

/-- DIE_OP_DONE (R342): a die without an operation takes its next one. -/
def execDieOpDone (die : Fin 1024) (s : State) : Res := .next (serveDie s die.val)

/-- One codeword of a job has arrived, or has been dropped; `bad` marks it uncorrectable. -/
def jobCodeword (s : State) (f : ReadFor) (bad : Bool) : State :=
  let k := jobKey f
  match tget? s.flash.jobs k with
  | none => s
  | some j =>
    let s1 := { s with flash.jobs := tput s.flash.jobs k { j with left := j.left - 1, poison := j.poison || bad } }
    match f with
    | .cmd cid => if j.left ≤ 1 then finishFlashRead s1 cid else s1
    | _ => s1

/-- A codeword turns out uncorrectable (R340, R353, R355, R392): it reads POISONED from now on, its block is retired, and its
owners see FLS_ERR.POISON when patrol found it. -/
def uncorrectable (s : State) (d : Nat) (r : DieReq) (u cw : Nat) (f : ReadFor) (inj : Bool) : State :=
  let b := (s.mapOf u).at_.block
  let s1 := { s with flash.pois := tput s.flash.pois (u * 8 + cw) true }
  let s2 := count s1 r.part Ev.flsUncorr (d / 32)
  let s3 := detect s2 8 sevCont actPoison r.part (u + cw * 2 ^ 33 + 10 * 2 ^ 36) stPoisoned ((u * 8 + cw) * cwBytes) inj
  let s4 := (if f == .patrol then flOwners s3 u else []).foldl (fun t p => flErr t p 1) s3
  retireBlock s4 d b

/-- The whole block of a unit is refreshed when its data is older than its retention entry, and retired when that happens
twice within a patrol period (R353, R355). -/
def ageBlock (s : State) (d u : Nat) : State :=
  let x := s.die d
  let b := (s.mapOf u).at_.block
  let k := x.block b
  let i := if x.rated = 0 then 7 else min 7 (k.ec * 8 / x.rated)
  let days := x.retention.getD i 3650
  if !k.closed || wallSec s - k.closeS ≤ days * 86400 then s
  else
    let s1 := s.setDie d { x with blk := tput x.blk b { k with refreshed := k.refreshed + 1, closeS := wallSec s } }
    if k.refreshed ≥ 1 then retireBlock s1 d b else moveUnits s1 (unitsOfBlock s1 d b) 3 .refresh

/-- CODEWORD_READ_DONE (R339 to R341, R344, R353): a read step decodes or not; a CRC failure counts as uncorrectable; the
ladder goes on, stops at a passed deadline, or ends. An injection of detector 0x08 decides in place of the medium (R394). -/
def execCodewordReadDone (die : Fin 1024) (decoded crcOk : Bool) (s : State) : Res :=
  let d := die.val
  let x := s.die d
  match x.op with
  | none => .next s
  | some r =>
    match r.work with
    | .read u cw f =>
      let hit (t : Nat) : Bool := bitsOf t 32 0 == u && bitsOf t 35 33 == cw
      let tgt := (tgetD s.err.inj 8 {}).target
      let (ue, s0) := injHit s 8 hit
      let never := ue == some true
      let good := match ue with
        | none => decoded
        | some true => false
        | some false => decide (bitsOf tgt 39 36 ≤ r.step)
      let done (t : State) : State :=
        let t1 := count (endDieOp t d) r.part Ev.flsRead (d / 32)
        if r.step = 0 then t1 else count t1 r.part (if r.step < 8 then Ev.flsRetry else Ev.flsSoft) (d / 32)
      let patrol (t : State) : State := if f == .patrol then countNode t Ev.flsPatrol else t
      if good && (crcOk || ue.isSome) then
        let s1 := patrol (done s0)
        let s2 := if r.step = 0 then s1
          else detect s1 8 sevCorr actCounted r.part (u + cw * 2 ^ 33 + r.step * 2 ^ 36) 0 ((u * 8 + cw) * cwBytes) ue.isSome
        let s3 := if fld s2.flash.cfg 11 8 ≤ r.step then moveUnits s2 [u] 3 .refresh else s2
        let s4 := if f == .patrol then ageBlock s3 d u else s3
        .next (jobCodeword s4 f (tget? s4.flash.pois (u * 8 + cw)).isSome)
      else if !good && r.step < 9 then
        let late := match r.deadline with
          | some dl => r.cls = 0 && decide (dl ≤ s.now)
          | none => false
        if late then
          let s1 := count (endDieOp s0 d) r.part Ev.flsRefer (d / 32)
          .next (s1.setDie d { s1.die d with handed := (s1.die d).handed ++ [(u, cw)] })
        else
          -- an injected step keeps its arm until the read ends
          let s1 := if ue.isSome then { s0 with err.inj := s.err.inj } else s0
          .next (s1.setDie d { s1.die d with op := some { r with step := r.step + 1 } })
      else
        .next (jobCodeword (uncorrectable (patrol (done s0)) d r u cw f never) f true)
    | _ => .next s

/-- FLASH_DEADLINE_EXPIRE (R344): a class-0 read that has not been issued is never issued. -/
def execFlashDeadlineExpire (die : Fin 1024) (i : Nat) (s : State) : Res :=
  let x := s.die die.val
  match x.queue.find? fun r => r.id = i && r.cls = 0 && (match r.deadline with
      | some dl => decide (dl ≤ s.now)
      | none => false) with
  | none => .next s
  | some r =>
    .next (count (s.setDie die.val { x with queue := x.queue.filter fun q => q.id != i }) r.part Ev.flsExpired
      (die.val / 32))

/-- The event of a move by its cause (R359). -/
def moveEvent (f : ProgFor) : Option Nat :=
  match f with
  | .gc => some Ev.flsGcMove
  | .refresh => some Ev.flsRefresh
  | .wear => some Ev.flsWlMove
  | _ => none

/-- Modules in evacuation with no unit left are SAFE: their power goes off and their dies leave (R357, R472). -/
def settleModules (s : State) : State :=
  let done := s.flash.slots.filter fun kv =>
    kv.2.st == .evacuating && !(s.flash.map_.any fun e => e.2.st == .mapped && e.2.at_.die / 128 = kv.1)
  done.foldl (fun t kv => { t with flash := { t.flash with
    slots := tput t.flash.slots kv.1 { kv.2 with st := .safe, power := false }
    dies := tmap t.flash.dies fun d x => if d / 128 = kv.1 then { x with st := .absent, op := none, queue := [] } else x } }) s

/-- What follows a map entry's change: blocks that are empty now are erased, leaving dies and modules settle, garbage
collection starts where it is due, waiting programs try again. -/
def afterFlip (s : State) (old d : Nat) : State :=
  retryWaiting (settleModules (settleDie (gcDie (eraseEmpty s old) d) old))

/-- PROGRAM_DONE (R347, R348, R350, R355): on a pass the entry flips, unless a write changed it during a move; on a fail the
block is retired and the unit is written elsewhere. -/
def execProgramDone (die : Fin 1024) (ok : Bool) (s : State) : Res :=
  let d := die.val
  match (s.die d).op with
  | none => .next s
  | some r =>
    match r.work with
    | .program u parts disc pu f old =>
      let s1 := count (endDieOp s d) r.part Ev.flsProg (d / 32)
      if !ok then .next (progUnit (retireBlock s1 d pu.block) u r.part r.cls parts disc f)
      else
        match f with
        | .write cids =>
          let before := s1.mapOf u
          let s2 := setMap (layUnit { s1 with flash.wseq := s1.flash.wseq + 1 } u parts disc) u ⟨.mapped, pu⟩
          .next (afterFlip (cids.foldl unitDone s2) before.at_.die d)
        | _ =>
          if s1.mapOf u == old then
            let s2 := setMap { s1 with flash.wseq := s1.flash.wseq + 1 } u ⟨.mapped, pu⟩
            let s3 := match moveEvent f with
              | some ev => countNode s2 ev
              | none => s2
            .next (afterFlip s3 old.at_.die d)
          else .next (afterFlip s1 old.at_.die d)
    | _ => .next s

/-- ERASE_DONE (R349, R354, R355). -/
def execEraseDone (die : Fin 1024) (ok : Bool) (s : State) : Res :=
  let d := die.val
  match (s.die d).op with
  | none => .next s
  | some r =>
    match r.work with
    | .erase b =>
      let s1 := countNode (endDieOp s d) Ev.flsErase (d / 32)
      if !ok then .next (retireBlock s1 d b)
      else
        let x := s1.die d
        let k := x.block b
        let s2 := s1.setDie d { x with
          blk := tput x.blk b { k with ec := k.ec + 1, used := 0, closed := false, closeS := 0, refreshed := 0 } }
        .next (retryWaiting (wearLevel s2))
    | _ => .next s

/-- READY_TIMEOUT (R336, R356): the third within 1 s on one die is a die error. -/
def execReadyTimeout (die : Fin 1024) (s : State) : Res :=
  let d := die.val
  let x := s.die d
  if x.st == .absent || x.op.isNone then .next s
  else
    let ts := (x.timeouts.filter fun t => decide (s.now < t + 1000000000)) ++ [s.now]
    let s1 := s.setDie d { x with timeouts := ts }
    .next (if ts.length < 3 then s1 else retireDie s1 d)

/-- MAP_CKPT_TIMER (R351). -/
def execMapCkptTimer (s : State) : Res :=
  .next (if s.flash.ckptT + fld s.flash.cfg 23 16 * 1000000000 ≤ s.now then
      { s with flash := { s.flash with ckptSeq := s.flash.wseq, ckptT := s.now } }
    else s)

/-- ZQ_CALIBRATION (R336). -/
def execZqCalibration (s : State) : Res :=
  .next (if s.flash.zqT + 1000000000 ≤ s.now then { s with flash.zqT := s.now } else s)

/-- The codewords of a die that patrol goes round: those of its mapped units, by place. -/
def patrolList (s : State) (d : Nat) : List (Nat × Nat) :=
  let key (u : Nat) : Nat := (s.mapOf u).at_.block * 2 ^ 32 + (s.mapOf u).at_.page
  (sortBy (fun a b => decide (key a ≤ key b)) (unitsOfDie s d)).flatMap fun u => (List.range 8).map fun i => (u, i)

/-- PATROL_READ (R344, R353): codewords handed over go first, then the next of the rotation; a new round begins a new patrol
period for the die's blocks. -/
def execPatrolRead (die : Fin 1024) (s : State) : Res :=
  let d := die.val
  let x := s.die d
  let read (t : State) (w : Nat × Nat) : State :=
    enqueue t d { id := 0, cls := 3, part := ownerPart t, t := 0, work := .read w.1 w.2 .patrol }
  if x.st == .absent then .next s
  else
    match x.handed with
    | w :: ws => .next (read (s.setDie d { x with handed := ws }) w)
    | [] =>
      let l := patrolList s d
      match l[x.patrolNext]? with
      | some w => .next (read (s.setDie d { x with patrolNext := x.patrolNext + 1 }) w)
      | none =>
        let x1 := { x with patrolNext := 1, blk := tmap x.blk fun _ b => { b with refreshed := 0 } }
        match l with
        | [] => .next (s.setDie d { x1 with patrolNext := 0 })
        | w :: _ => .next (read (s.setDie d x1) w)

/-- CRC-32 of IEEE 802.3 (R337, R416): one byte, eight steps of the reflected polynomial. -/
def crcStep : (n : Nat) → BitVec 32 → BitVec 32
  | 0, c => c
  | n + 1, c => crcStep n (if c.getLsbD 0 then (c >>> 1) ^^^ 0xEDB88320#32 else c >>> 1)
def crc32 (bs : List Byte) : Nat :=
  ((bs.foldl (fun c b => crcStep 8 (c ^^^ (b.zeroExtend 32))) 0xFFFFFFFF#32) ^^^ 0xFFFFFFFF#32).toNat

/-- A module may come ONLINE (R336 to R338). -/
def moduleOk (id : ModuleId) : Bool :=
  let b := id.bytes
  let f := getLE b
  let ret := (List.range 8).map fun i => f (0x80 + 2 * i) 2
  id.present && id.paramsOk && crc32 (slice b 0 252) == f 0xFC 4 && f 0 2 == 0x0200 &&
    decide (1 ≤ f 0x12 1 ∧ f 0x12 1 ≤ 8) && decide (1 ≤ f 0x13 1 ∧ f 0x13 1 ≤ 4) &&
    decide (2 ≤ f 0x14 1 ∧ f 0x14 1 ≤ 8) && decide (2048 ≤ f 0x16 2) && ret.all fun r => decide (1 ≤ r ∧ r ≤ 3650)

/-- The trained rate of a channel (R335): the highest of 3,600 down to 1,200 MT/s in steps of 400 that the channel passes and
its module allows; 0 when none does. -/
def trainedRate (pass maxRate : Nat) : Nat :=
  ((List.range 7).map fun i => 3600 - 400 * i).find? (fun r => decide (r ≤ pass) && decide (r ≤ maxRate * 100)) |>.getD 0

/-- Brings a module's channels and dies into service (R335, R357). A block of the model is the pair of blocks that hold the
two planes' pages of its units (R347), so a die has BLOCKS / 2 of them. -/
def bringOnline (s : State) (m : Nat) (id : ModuleId) : State :=
  let f := getLE id.bytes
  let die : Die :=
    { st := .inService, blocks := f 0x1C 4 / 2, pages := f 0x18 4, suspend := id.suspend, tprog := f 0x24 4, tbers := f 0x28 4,
      rated := f 0x2C 4, retention := (List.range 8).map fun i => f (0x80 + 2 * i) 2 }
  (List.range 4).foldl (fun t i =>
    let ch := 4 * m + i
    let rate := trainedRate (id.rates.getD i 0) (f 0x15 1)
    let dies := if rate = 0 then [] else
      (List.range (f 0x12 1)).flatMap fun tg => (List.range (f 0x13 1)).map fun l => ch * 32 + tg * 4 + l
    { t with flash := { t.flash with
      chRate := tput t.flash.chRate ch rate
      chTgts := tput t.flash.chTgts ch (if rate = 0 then 0 else f 0x12 1)
      chState := tput t.flash.chState ch (if rate = 0 then 3 else 2)
      dies := dies.foldl (fun ds d => tput ds d (keepWear die (tget? ds d))) t.flash.dies } }) s
where
  /-- A die that the node knows keeps its blocks' wear, and stays retired (R356). -/
  keepWear (new : Die) (old : Option Die) : Die :=
    match old with
    | none => new
    | some o => { new with
        st := if o.st == .retired || o.st == .retiring then o.st else .inService
        blk := o.blk, retBlk := o.retBlk, patrolNext := o.patrolNext }

def State.slot13 (s : State) (m : Nat) : Slot13 := tgetD s.flash.slots m {}
def State.setSlot13 (s : State) (m : Nat) (x : Slot13) : State := { s with flash.slots := tput s.flash.slots m x }

/-- The flash power domain of a slot is on (R465). -/
def slotDomain (s : State) (m : Nat) : Bool := bitOf s.pkg.pwr.domOn (if m < 4 then 22 else 23)

/-- MODULE_INSERT (R472): presence goes active. -/
def execModuleInsert (m : Fin 8) (s : State) : Res :=
  let x := s.slot13 m.val
  .next (if x.present then s else s.setSlot13 m.val { x with present := true, debounce := some s.now })

/-- MODULE_DEBOUNCE_EXPIRE (R472): 100 ms after presence went active the insertion is recognised and the slot gets power. -/
def execModuleDebounceExpire (m : Fin 8) (s : State) : Res :=
  let x := s.slot13 m.val
  match x.debounce with
  | none => .next s
  | some t =>
    .next (if x.present && decide (t + 100000000 ≤ s.now) && slotDomain s m.val then
        s.setSlot13 m.val { x with debounce := none, power := true, powerT := s.now }
      else s)

/-- A slot in DISCOVERING is examined (R338, R357): ONLINE, or MISMATCH with its power off. -/
def discover (s : State) (m : Nat) (id : ModuleId) : State :=
  let x := s.slot13 m
  if moduleOk id then retryWaiting ((bringOnline s m id).setSlot13 m { x with st := .online, power := true })
  else s.setSlot13 m { x with st := .mismatch, power := false }

/-- MODULE_POWER_WAIT_EXPIRE (R338, R357, R472). -/
def execModulePowerWaitExpire (m : Fin 8) (id : ModuleId) (s : State) : Res :=
  let x := s.slot13 m.val
  .next (if x.power && x.st == .absent && decide (x.powerT + 20000000 ≤ s.now) then
      discover (s.setSlot13 m.val { x with st := .discovering }) m.val id
    else s)

/-- A unit is lost with its module (R358): its codewords read POISONED, its owners see MOD_LOST, and tiles homed there are
POISONED (R196). -/
def loseUnit (s : State) (u : Nat) : State :=
  let s1 := { s with flash.pois := (List.range 8).foldl (fun p i => tput p (u * 8 + i) true) s.flash.pois }
  let s2 := (flOwners s1 u).foldl (fun t p => flErr t p 3) s1
  { s2 with tier.home := tmap s2.tier.home fun t h =>
      if h.st != .unmapped && h.tier = 3 && flashBacked s2 t && flashTileAddr s2 h.loc / tileBytes = u / 2 then
        { h with st := .poisoned }
      else h }

/-- Work at a die that leaves with its module: reads end poisoned, programs of writes are made elsewhere. -/
def rescueWork (s : State) (r : DieReq) : State :=
  match r.work with
  | .read _ _ f => jobCodeword s f true
  | .program u parts disc _ f _ =>
    match f with
    | .write _ => progUnit s u r.part 2 parts disc f
    | _ => s
  | .erase _ => s

/-- MODULE_REMOVE (R357, R358, R472): presence is gone. What an ONLINE or EVACUATING module still held is lost. -/
def execModuleRemove (m : Fin 8) (s : State) : Res :=
  let x := s.slot13 m.val
  if !x.present then .next s
  else
    let mine := s.flash.dies.filter fun kv => kv.1 / 128 = m.val
    let held := (s.flash.map_.filter fun e => e.2.st == .mapped && e.2.at_.die / 128 = m.val).map (·.1)
    let live := x.st == .online || x.st == .evacuating
    let work := mine.flatMap fun kv =>
      kv.2.queue ++ kv.2.paused ++ (match kv.2.op with
        | some r => [r]
        | none => [])
    let s1 := s.setSlot13 m.val {}
    let s2 := { s1 with flash := { s1.flash with
      dies := tfilter s1.flash.dies fun d _ => d / 128 != m.val
      chState := tfilter s1.flash.chState fun c _ => c / 4 != m.val
      chRate := tfilter s1.flash.chRate fun c _ => c / 4 != m.val
      chTgts := tfilter s1.flash.chTgts fun c _ => c / 4 != m.val } }
    let s3 := held.foldl loseUnit s2
    let s4 := work.foldl rescueWork s3
    .next (if live then countNode s4 Ev.flsModLost else s4)

/-- A write of FLS_MOD_CTL.EVAC (R358): refused when fewer than 2 % of the remaining blocks would stay free. -/
def moduleEvac (s : State) (fn m : Nat) : State :=
  let x := s.slot13 m
  if !ownerFn s fn || x.st != .online then s
  else
    let rest := s.flash.dies.filter fun kv => kv.1 / 128 != m && kv.2.st == .inService
    let pages := sumOf (rest.map fun kv => liveBlocks kv.2 * kv.2.pages)
    let mapped := (s.flash.map_.filter fun e => e.2.st == .mapped).length
    if pages * 98 < mapped * 100 then flErr s (s.fn fn).part 2
    else
      let us := (s.flash.map_.filter fun e => e.2.st == .mapped && e.2.at_.die / 128 = m).map (·.1)
      let s1 := s.setSlot13 m { x with st := .evacuating }
      let s2 := { s1 with flash.dies := tmap s1.flash.dies fun d y =>
        if d / 128 = m && y.st == .inService then { y with st := .retiring, open_ := none } else y }
      settleModules (moveUnits s2 us 3 .evac)

/-- MODULE_EVAC (R358). -/
def execModuleEvac (fn : Fin 64) (m : Fin 8) (s : State) : Res := .next (moduleEvac s fn.val m.val)

/-- A write of FLS_DIELOOK.RETIRE (R356, R363): the die that the function's own copy of DIE names. -/
def dieRetire (s : State) (fn : Nat) : State := if ownerFn s fn then retireDie s (s.fn fn).dieLook else s

/-- DIE_RETIRE (R356, R363). -/
def execDieRetire (fn : Fin 64) (s : State) : Res := .next (dieRetire s fn.val)

end Sys2Proof.Machine
end

