-- ==== Sys2Proof/Machine/IndexOps.lean ====
section
/-!
DEFINITION. Index records: codes and code scores (R106 to R109), liveness (R113, R228), the pruning rule and the neighbour search
(R132, R133), and writes of records.
-/
namespace Sys2Proof.Machine

/-- A handle (R10). -/
def handleOf (gen node slot : Nat) : Nat := gen * 2 ^ 48 + node % 4096 * 2 ^ 36 + slot
def handleGen (h : Nat) : Nat := bitsOf h 63 48
def handleNode (h : Nat) : Nat := bitsOf h 47 36
def handleSlot (h : Nat) : Nat := bitsOf h 31 0

/-- Elements of a vector of VFMT in FP32. -/
def vecOf (d : IdxD) (bytes : List Byte) : List F32 :=
  let f := Fmt.ofCode d.vfmt
  ((chunks d.elemBytes (d.dims + 1) (bytes.take (d.dims * d.elemBytes))).map leNat).map fun b => f32r (f.elem b)

/-- Centroid `c` of subspace `j` of the codebook (R109). -/
def centroid (d : IdxD) (cb : List Byte) (j c : Nat) : List F32 :=
  let n := d.subDims j
  let at_ := (16 * d.subFirst j + c * n) * 4
  (List.range n).map fun i => getLE cb (at_ + 4 * i) 4

/-- Subspace `j` of a vector. -/
def subVec (d : IdxD) (v : List F32) (j : Nat) : List F32 := (v.drop (d.subFirst j)).take (d.subDims j)

/-- The lookup table of a query: entry 16 j + c (R109). -/
def lookupTable (d : IdxD) (cb : List Byte) (q : List F32) : List F32 :=
  (List.range d.m).flatMap fun j => (List.range 16).map fun c =>
    if d.metric = 2 then distF (subVec d q j) (centroid d cb j c) else dotF (subVec d q j) (centroid d cb j c)

/-- Element `j` of a code: the centroid of its subspace (R109, R50). -/
def codeElem (code : List Byte) (j : Nat) : Nat := bitsOf (getLE code (j / 2) 1) (j % 2 * 4 + 3) (j % 2 * 4)

/-- The division that a cosine score takes: by ‖q‖, and by NORM unless NORMALISED is 1. -/
def cosine (d : IdxD) (qn norm : F32) (v : F32) : F32 :=
  if d.metric ≠ 1 then v else if d.normalised then f32div v qn else f32div (f32div v qn) norm

/-- The code score of a record (R109), before a NaN is replaced: the FP32 sum of the table's entries in subspace order. -/
def codeScore (d : IdxD) (lut : List F32) (qn : F32) (r : List Byte) : F32 :=
  match (List.range d.m).map fun j => lut.getD (16 * j + codeElem (r.drop 0x10) j) 0 with
  | [] => 0
  | x :: xs => cosine d qn (recNorm r) (xs.foldl f32add x)

/-- The code of a vector: in each subspace the nearest centroid, the lower index among equals (R109). -/
def encodeVec (d : IdxD) (cb : List Byte) (v : List F32) : List Byte :=
  let idx := (List.range d.m).map fun j =>
    let ds := (List.range 16).map fun c => (c, distF (subVec d v j) (centroid d cb j c))
    ((leastBy (fun a b => f32lt a.2 b.2) ds).map (·.1)).getD 0
  (List.range d.codeBytes).map fun i => BitVec.ofNat 8 (idx.getD (2 * i) 0 + 16 * idx.getD (2 * i + 1) 0)

/-- The vector that a code stands for. -/
def decodeVec (d : IdxD) (cb code : List Byte) : List F32 := (List.range d.m).flatMap fun j => centroid d cb j (codeElem code j)

/-- A slot is live in epoch `q` (R113, R228): it has been filled, its insert belongs to `q` or earlier, and no delete of it
does. -/
def live (x : Index) (slot q : Nat) (tomb : Bool) : Bool :=
  (tget? x.used slot).isSome && decide (tgetD x.ins slot 0 ≤ q) && (match tget? x.del slot with
    | some e => decide (q < e)
    | none => !tomb)

/-- A record: GEN, DEG and TOMB, RFLAGS, NORM, code, neighbours with their tags (R106). -/
structure RecD where
  gen : Nat
  tomb : Bool
  rflags : Nat
  norm : Nat
  code : List Byte
  edges : List (Nat × Nat)
deriving DecidableEq, Repr

def RecD.bytes (r : RecD) : List Byte :=
  let etag := (r.edges.mapIdx fun i e => e.2 % 4 * 4 ^ i).foldl (· + ·) 0
  leBytes 2 r.gen ++ leBytes 1 (r.edges.length + 64 * b2n r.tomb) ++ leBytes 1 r.rflags ++ leBytes 4 r.norm ++ leBytes 8 etag ++
    slice r.code 0 112 ++ (List.range 32).flatMap fun i => leBytes 4 ((r.edges[i]?.map (·.1)).getD 0xFFFFFFFF)

def RecD.of (b : List Byte) : RecD :=
  { gen := recGen b, tomb := recTomb b, rflags := getLE b 3 1, norm := recNorm b, code := slice b 0x10 112
    edges := (List.range (min 32 (recDeg b))).map fun i => (recNbr b i, recEtag b i) }

/-- The bytes of the record of a slot in the working state, and whether they are uncorrectable. -/
def recRead (s : State) (d : IdxD) (slot : Nat) : List Byte × Bool :=
  let r := readSpan s (recAddr d slot) 256
  (slice r.bytes 0 256, r.poisoned)

/-- Stores bytes of the node's own work: charged, never held back; on a tile in a move they enter its queue (R213, R389). -/
def ownWrite (s : State) (part addr : Nat) (bs : List Byte) : State :=
  let s1 := (stackDraws s addr bs.length).foldl (fun t x => regCharge t part (.stack x.1) x.2) s
  match writeSpan s1 part addr bs none with
  | (.wait, _) => (linePieces (bs.length / 256 + 2) (addr % tileBytes) bs).foldl (fun t p =>
      queueWrite t (addr / tileBytes) { off := p.1, bytes := p.2 }) s1
  | (_, s2) => s2

/-- Writes the record of a slot whole (R240); buffered copies of it on this node are gone. -/
def writeRecord (s : State) (i part : Nat) (d : IdxD) (slot : Nat) (r : RecD) : State :=
  let s1 := ownWrite s part (recAddr d slot) r.bytes
  { s1 with work.clusters := tmap s1.work.clusters fun _ x =>
      { x with recs := x.recs.filter fun l => !(l.index == i && l.slot == slot) } }

/-- The pruning rule (R133): candidates with their codes, against the vector of record `n`. -/
def prune (d : IdxD) (cb : List Byte) (n : List F32) (cands : List (Nat × List Byte)) : List Nat :=
  let withD := cands.map fun c => let v := decodeVec d cb c.2; (c.1, v, distF v n)
  let le (a b : Nat × List F32 × F32) : Bool :=
    f32lt a.2.2 b.2.2 || (!f32lt b.2.2 a.2.2 && decide (a.1 ≤ b.1))
  let alpha := f32r (.fin false d.alpha 16)
  ((sortBy le withD).foldl (fun (kept : List (Nat × List F32)) c =>
    if kept.length < d.degMax && kept.all fun e => f32lt c.2.2 (f32mul alpha (distF e.2 c.2.1)) then kept ++ [(c.1, c.2.1)]
    else kept) []).map (·.1)

/-- The state of a neighbour search: beam, slots seen, and neighbours to look at. -/
structure Search where
  beam : List BeamEnt := []
  seen : Tab Bool := []
  cur : List (Nat × Option Nat) := []
deriving DecidableEq, Repr

/-- The visited filter (R118): 131,072 bits, each slot at two of them. -/
def seenIn (t : Tab Bool) (slot : Nat) : Bool :=
  let (a, b) := Config.visitedHash slot
  (tget? t (a % 131072)).isSome && (tget? t (b % 131072)).isSome
def markSeen (t : Tab Bool) (slot : Nat) : Tab Bool :=
  let (a, b) := Config.visitedHash slot
  tput (tput t (a % 131072) true) (b % 131072) true

/-- Beam order (R114): best key first, equal scores by lower slot. -/
def beamLe (a b : BeamEnt) : Bool := decide (b.key < a.key) || (a.key == b.key && decide (a.slot ≤ b.slot))

/-- One entry of a beam after another, the worst dropped beyond `w`. -/
def beamInsert (w : Nat) (beam : List BeamEnt) (e : BeamEnt) : List BeamEnt := (insertBy beamLe e beam).take w

/-- The best entry not yet expanded, with the beam in which it is. -/
def expandBest (beam : List BeamEnt) : Option (BeamEnt × List BeamEnt) :=
  match beam.find? fun e => !e.expanded with
  | none => none
  | some e => some (e, beam.map fun x => if x.slot = e.slot then { x with expanded := true } else x)

/-- The neighbours of an entry with their tags. -/
def entNbrs (e : BeamEnt) : List (Nat × Nat) := e.nbrs.zip e.etags

/-- A beam entry for a record. -/
def beamEnt (lower : Bool) (slot score : Nat) (r : List Byte) : BeamEnt :=
  let d := RecD.of r
  { key := orderKey lower score, slot := slot, nbrs := d.edges.map (·.1), etags := d.edges.map (·.2) }

/-- The neighbour search of an insert (R132): a walk with beam BUILD_BEAM that ignores liveness; the answer is its beam. -/
def searchRun (s : State) (d : IdxD) (lut : List F32) (qn : F32) : (fuel : Nat) → Search → Search
  | 0, x => x
  | f + 1, x =>
    match x.cur with
    | (slot, tag) :: rest =>
      if seenIn x.seen slot then searchRun s d lut qn f { x with cur := rest }
      else
        let (r, bad) := recRead s d slot
        let y := { x with cur := rest, seen := markSeen x.seen slot }
        let stale := match tag with
          | some t => t != recGen r % 4
          | none => false
        if bad || stale then searchRun s d lut qn f y
        else
          let v := (cleanScore d.metric (codeScore d lut qn r)).1
          searchRun s d lut qn f { y with beam := beamInsert d.buildBeam y.beam (beamEnt d.lower slot v r) }
    | [] =>
      match expandBest x.beam with
      | none => x
      | some (e, beam) =>
        searchRun s d lut qn f { x with beam := beam, cur := (entNbrs e).map fun n => (n.1, some n.2) }

/-- Neighbours for a vector (R132, R133). -/
def neighbours (s : State) (x : Index) (slot : Nat) (v : List F32) (code : List Byte) : List Nat :=
  let d := idxD x.desc
  let start : Search := { cur := (d.entry.take d.entries).map fun e => (e, none) }
  let r := searchRun s d (lookupTable d x.cb v) (normF v) (34 * (x.used.length + 20)) start
  let cands := (r.beam.filter fun e => e.slot != slot).map fun e => (e.slot, slice (recRead s d e.slot).1 0x10 112)
  prune d x.cb (decodeVec d x.cb code) cands

/-- Adds a reverse edge to a record (R132): its list is pruned when it would exceed DEGREE_MAX. -/
def addEdge (s : State) (i : Nat) (x : Index) (node slot tag : Nat) : State :=
  let d := idxD x.desc
  let r := RecD.of (recRead s d node).1
  if r.edges.any fun e => e.1 = slot then s
  else if r.edges.length < d.degMax then writeRecord s i x.part d node { r with edges := r.edges ++ [(slot, tag)] }
  else
    let all := r.edges ++ [(slot, tag)]
    let keep := prune d x.cb (decodeVec d x.cb r.code) (all.map fun e => (e.1, slice (recRead s d e.1).1 0x10 112))
    writeRecord s i x.part d node { r with edges := keep.filterMap fun k => all.find? fun e => e.1 = k }

/-- The change to an index. -/
def setIndex (s : State) (i : Nat) (x : Index) : State := { s with work.indexes := tput s.work.indexes i x }

/-- Context slots in all (R245). -/
def ctxCount : Nat := 262144

/-- The lowest context slot that is neither retired nor reserved, and that a further test accepts (R489). -/
def unreservedCtx (s : State) (p : Nat → Bool) : Option Nat :=
  let e := s.epo
  match leastFrom (fun k => (tget? e.ctxRetired k).isNone && (tget? e.ctxOwner k).isNone && p k)
      (e.ctxRetired.length + e.ctxOwner.length + e.ctxUsed.length + 1) 0 with
  | some k => if k < ctxCount then some k else none
  | none => none

/-- A context slot is retired until the next start (R245): a plan that reserved it takes an unreserved one in its place, when
there is one. -/
def retireCtx (s : State) (part k : Nat) : State :=
  let s1 := count { s with epo := { s.epo with
    ctxRetired := tput s.epo.ctxRetired k true, ctxRet := s.epo.ctxRet + 1, err := orErr s.epo.err part 3 } } part
    Ev.ctxRetired
  match tget? s.epo.ctxOwner k with
  | none => s1
  | some slot =>
    let s2 := { s1 with epo.ctxOwner := terase s1.epo.ctxOwner k }
    match unreservedCtx s2 fun _ => true with
    | some n => { s2 with epo.ctxOwner := tput s2.epo.ctxOwner n slot }
    | none => s2

/-- A context line meets detector 0x04 (R245, R392). The answer says that it was lost. -/
def ctxCheck (s : State) (part k : Nat) : Bool × State :=
  match injHit s 4 (· == k) with
  | (none, _) => (false, s)
  | (some false, s1) => (false, detect s1 4 sevCorr actCounted part k 0 0 true)
  | (some true, s1) => (true, retireCtx (detect s1 4 sevCont actEnded part k stCtxLost 0 true) part k)

/-- The context of a query is used (R245): lost, the query ends with CTX_LOST. -/
def queryCtx (s : State) (qid : Nat) : Bool × State :=
  match tget? s.work.queries qid with
  | none => (true, s)
  | some q =>
    match q.ctx with
    | none => (false, s)
    | some k =>
      match ctxCheck s q.part k with
      | (true, s1) => (true, endQuery s1 qid stCtxLost)
      | (false, s1) => (false, s1)

end Sys2Proof.Machine
end

