-- ==== Sys2Proof/Machine/Walker.lean ====
section
/-!
DEFINITION. The walker unit's search: WSEED, WWALK, the record buffer, rerank reads, WPREF, WCOPYA and WWAITA (R114 to R131).
-/
namespace Sys2Proof.Machine

/-- Modifiers of the walker unit (R81). -/
def kP (w : Nat) : Nat := wMod w 39 37 + 1
def kMode (w : Nat) : Nat := wMod w 36 36
def kActr (w : Nat) : Nat := wMod w 35 32

def putWalk (s : State) (c k : Nat) (w : Walk) : State :=
  let x := s.cl c
  s.setCl c { x with walks := tput x.walks k w }

/-- A line of the record buffer. -/
def lineOf (x : Cluster) (i slot : Nat) : Option RecLine := x.recs.find? fun l => l.index = i && l.slot = slot

/-- A visit uses its line, which becomes the most recently used. -/
def useLine (s : State) (c i slot : Nat) : State :=
  let x := s.cl c
  match lineOf x i slot with
  | none => s
  | some l =>
    s.setCl c { x with recs := { l with used := true } :: x.recs.filter fun y => !(y.index == i && y.slot == slot) }

/-- A record enters the buffer of 512 lines; the least recently used line leaves it, and counts when it was never used (R119). -/
def addLine (s : State) (c : Nat) (l : RecLine) : State :=
  let x := s.cl c
  let all := l :: x.recs.filter fun y => !(y.index == l.index && y.slot == l.slot)
  let gone := (all.drop 512).filter fun y => !y.used
  let s1 := s.setCl c { x with recs := all.take 512 }
  wasteSlot (countCls s1 c Ev.prefUnused 0xFF gone.length) c gone.length

/-- What a walk works on: its query, the index with its number, and the instant walk_end (R127). -/
structure WalkEnv where
  c : Nat
  k : Nat
  qid : Nat
  q : Query
  i : Nat
  x : Index
deriving DecidableEq, Repr

def WalkEnv.d (e : WalkEnv) : IdxD := idxD e.x.desc
def WalkEnv.walkEnd (e : WalkEnv) : Nat := e.q.deadline - qRrRes e.q.desc
def WalkEnv.scan (e : WalkEnv) : Bool := 2 ≤ qForm e.q.desc
def WalkEnv.rerank (e : WalkEnv) : Nat := qRerank e.q.desc

def walkEnv (s : State) (c k : Nat) (w : Walk) : Option WalkEnv :=
  match tget? s.work.queries w.qid with
  | none => none
  | some q => (queryIndex s q).map fun x => { c := c, k := k, qid := w.qid, q := q, i := getLE q.desc 0x28 2, x := x }

/-- Records to fetch ahead of their visit: those not seen, not in the buffer and not on their way. -/
def toFetch (s : State) (e : WalkEnv) (w : Walk) (slots : List Nat) : List Nat :=
  (dedup slots).filter fun n => !seenIn w.seen n && (lineOf (s.cl e.c) e.i n).isNone && !w.inflight.contains n

/-- Best-P prefetches (R114, R119). -/
def prefetch (s : State) (e : WalkEnv) (w : Walk) (slots : List Nat) : State × Walk :=
  let ns := toFetch s e w slots
  (countCls s e.c Ev.prefIssued 0xFF ns.length, { w with inflight := w.inflight ++ ns })

/-- beam_insert (R114). -/
def walkBeam (s : State) (e : WalkEnv) (w : Walk) (slot score : Nat) (r : List Byte) : State × Walk :=
  let ent := beamEnt e.d.lower slot score r
  let beam := beamInsert (qBeam e.q.desc) w.beam ent
  let w1 := { w with beam := beam }
  if ((beam.take w.p).any fun b => b.slot = slot) && !w.prefetched.contains slot then
    prefetch s e { w1 with prefetched := w1.prefetched ++ [slot] } ent.nbrs
  else (s, w1)

/-- The request identity of a vector read at the FLASH regulator. -/
def vecReqId (e : WalkEnv) (slot : Nat) : Nat := 2 ^ 80 + jobKey (.rerank e.c e.k slot)

/-- Requests the full vector of a slot (R124, R342, R389): its codewords are read in class 0 under the query's deadline. The
answer is whether the read has been issued. -/
def requestVec (s : State) (e : WalkEnv) (slot : Nat) : Bool × State :=
  let cw := vecAddr e.d slot / cwBytes
  let n := e.d.vstride / cwBytes
  match regTry s e.q.part .flash (vecReqId e slot) (16 * mappedCws s cw n) with
  | (false, s1) => (false, s1)
  | (true, s1) =>
    let f : ReadFor := .rerank e.c e.k slot
    let (left, s2) := readRun s1 cw n e.q.part 0 (some e.q.deadline) f
    (true, { s2 with flash.jobs := tput s2.flash.jobs (jobKey f) { left := left } })

/-- Candidate order (R114): best key first, equal scores by lower slot. -/
def candLe (a b : CandEnt) : Bool := decide (b.key < a.key) || (a.key == b.key && decide (a.slot ≤ b.slot))

def markReq (cs : List CandEnt) (slot : Nat) : List CandEnt := cs.map fun y => if y.slot = slot then { y with req := true } else y

/-- Reads are made before the walk ends only without a filter and without NO_SPEC (R124). -/
def speculative (e : WalkEnv) (w : Walk) : Bool :=
  qFilter e.q.desc = 0 && !qNoSpec e.q.desc && decide (w.spec < qSpecMax e.q.desc)

/-- cand_insert (R114, R124): a member that leaves the rerank window has its read discarded; one that enters it may have its
vector requested. -/
def candInsert (s : State) (e : WalkEnv) (w : Walk) (y : CandEnt) : State × Walk :=
  let rr := e.rerank
  let cs := (insertBy candLe y w.cand).take w.pool
  let lost := ((w.cand.take rr).filter fun o => o.req && !((cs.take rr).any fun n => n.slot = o.slot)).map (·.slot)
  let s1 := wasteSlot (countCls s e.c Ev.specWasted 0xFF lost.length) e.c lost.length
  let s2 := { s1 with flash.jobs := lost.foldl (fun t l => terase t (jobKey (.rerank e.c e.k l))) s1.flash.jobs }
  let w1 := { w with cand := cs }
  if ((cs.take rr).any fun n => n.slot = y.slot) && speculative e w then
    match requestVec s2 e y.slot with
    | (false, s3) => (s3, w1)
    | (true, s3) => (countCls s3 e.c Ev.specIssued, { w1 with spec := w1.spec + 1, cand := markReq cs y.slot })
  else (s2, w1)

/-- visit (R114, R116, R117, R123): the record awaited is in the buffer. -/
def visit (s : State) (e : WalkEnv) (w : Walk) (slot : Nat) (tag scan : Option Nat) (l : RecLine) : State × Walk :=
  let w1 := { w with visits := w.visits + 1, await := none }
  let s1 := countCls (useLine s e.c e.i slot) e.c Ev.visits
  let r := l.bytes
  let stale := match tag with
    | some t => t != recGen r % 4
    | none => false
  if l.poison then (countCls s1 e.c Ev.recPoison, w1)
  else if stale then (countCls s1 e.c Ev.staleEdge, w1)
  else
    let raw := match scan with
      | some v => if e.d.metric = 1 && !e.d.normalised then f32div v (recNorm r) else v
      | none => codeScore e.d w.lut w.qnorm r
    let (v, nan) := cleanScore e.d.metric raw
    let s2 := if nan then countCls s1 e.c Ev.nanScore else s1
    if live e.x slot (e.q.epoch.getD 0) (recTomb r) then
      let (s3, w2) := if e.scan then (s2, w1) else walkBeam s2 e w1 slot v r
      candInsert s3 e w2 { key := orderKey e.d.lower v, slot := slot, score := v, gen := recGen r }
    else if w1.tomb < w1.tlimit then
      let s3 := countCls s2 e.c Ev.tombExpand
      let w2 := { w1 with tomb := w1.tomb + 1 }
      if e.scan then (s3, w2) else walkBeam s3 e w2 slot v r
    else (countCls s2 e.c Ev.tombSkip, w1)

/-- One step of a walk. -/
inductive Go where
  | on (s : State) (w : Walk)
  | park (s : State) (w : Walk)
  | stop (cut : Bool) (s : State) (w : Walk)

/-- The next record is awaited: in MODE 0 a context whose record is not in the buffer is parked (R120). -/
def awaitRec (s : State) (e : WalkEnv) (w : Walk) (slot : Nat) (tag scan : Option Nat) : Go :=
  let w1 := { w with seen := markSeen w.seen slot, await := some (slot, tag, scan) }
  .on (if w.mode = 0 && (lineOf (s.cl e.c) e.i slot).isNone then countCls s e.c Ev.ctxSwitch else s) w1

/-- One step (R114, R121, R123). -/
def walkStep (s : State) (e : WalkEnv) (w : Walk) : Go :=
  let spent := w.visits == w.budget
  let late := decide (e.walkEnd ≤ s.now)
  match w.await with
  | some (slot, tag, scan) =>
    match lineOf (s.cl e.c) e.i slot with
    | none => .park s w
    | some l => let (s1, w1) := visit s e w slot tag scan l; .on s1 w1
  | none =>
    match w.seeds with
    | (slot, score) :: rest =>
      if e.scan && (spent || late) then .stop late s w
      else awaitRec s e { w with seeds := rest } slot none (if e.scan then score else none)
    | [] =>
      match w.cur with
      | (slot, tag) :: rest =>
        if seenIn w.seen slot then .on s { w with cur := rest }
        else if spent || late then .stop late s w
        else awaitRec s e { w with cur := rest } slot (some tag) none
      | [] =>
        if spent || late then .stop late s w
        else
          match expandBest w.beam with
          | none => .stop false s w
          | some (b, beam) =>
            let w1 := { w with beam := beam, cur := entNbrs b }
            if w.mode = 1 then .on s { w1 with inflight := w1.inflight ++ toFetch s e w1 b.nbrs } else .on s w1

/-- Metadata of a candidate, charged and awaited (R127, R389), and whether it is uncorrectable. -/
def metaOf (s : State) (e : WalkEnv) (slot : Nat) : List Byte × Bool × State :=
  let a := metaAddr e.d slot
  let s1 := (stackDraws s a e.d.metaBytes).foldl (fun t x => regCharge t e.q.part (.stack x.1) x.2) s
  let r := readSpan s1 a e.d.metaBytes
  (r.bytes, r.poisoned, s1)

/-- The filter runs over the candidates it has not seen (R129, R130). Whether one with uncorrectable metadata passes is open. -/
def filterCands (s : State) (e : WalkEnv) (w : Walk) : State × Walk :=
  let terms := (filterProg (clPlan s e.c).bin.consts (qFilter e.q.desc)).getD []
  let (s1, cs) := w.cand.foldl (fun (acc : State × List CandEnt) y =>
    if y.tested then (acc.1, acc.2 ++ [y])
    else
      let (m, bad, t) := metaOf acc.1 e y.slot
      let (free, t1) := if bad then takeFree t else (0, t)
      let pass := if bad then flag free 0 else filterPass terms m (getLE e.q.desc 0x44 4) (getLE e.q.desc 0x48 4)
      (countCls t1 e.c (if pass then Ev.filterPass else Ev.filterFail), acc.2 ++ [{ y with tested := true, pass := pass }]))
    (s, [])
  (s1, { w with cand := cs })

/-- The rerank window: the best RERANK passing candidates (R124). -/
def window (e : WalkEnv) (w : Walk) : List CandEnt := (w.cand.filter (·.pass)).take e.rerank

/-- A candidate as it is handed on (R10, R125, R159). -/
def candEntry (s : State) (e : WalkEnv) (inWindow : Bool) (y : CandEnt) : REnt :=
  let (score, fl) := match y.exact with
    | some v => if inWindow then (v, 1) else (y.score, 2)
    | none => (y.score, 2)
  ⟨handleOf y.gen (ownShard s) y.slot, score, fl, ownShard s % 64 + 64 * e.c⟩

/-- The end of a walk and its rerank: the candidates, best first, go to the candidate area with padding behind them; the query
learns what its walk did; the unit goes on. -/
def finishWalk (s : State) (e : WalkEnv) (w : Walk) : State :=
  let win := (window e w).map (·.slot)
  let lower := e.d.lower
  let pass := w.cand.filter (·.pass)
  let ents := pass.map fun y => let r := candEntry s e (win.contains y.slot) y; (orderKey lower r.score, y.slot, r)
  let sorted := sortBy (fun (a b : Nat × Nat × REnt) =>
    decide (b.1 < a.1) || (a.1 == b.1 && decide (a.2.1 ≤ b.2.1))) ents
  let total := min 65536 (qPool e.q.desc * 2 ^ w.widened)
  let bytes := sorted.flatMap (fun r => r.2.2.bytes) ++
    (List.replicate (total - sorted.length) (padEnt lower).bytes).flatten
  let hf := (if w.cut then 4 else 0) + (if w.widened ≠ 0 then 8 else 0) + (if qFilter e.q.desc ≠ 0 then 16 else 0)
  let q1 := { e.q with at_ := none, visits := w.visits, hflags := hf, passed := pass.length, quiet := true }
  let x := s.cl e.c
  let s1 := s.setCl e.c { x with walks := terase x.walks e.k }
  let s2 := unusedLines (scrWrite s1 e.c w.out bytes) e.c w.inflight.length
  resume { s2 with work.queries := tput s2.work.queries e.qid q1 } e.c 2 (.walk e.k)

/-- Issues the reads of window members that have none. -/
def issueReads (s : State) (e : WalkEnv) (w : Walk) : State × Walk :=
  ((window e w).filter fun y => !y.req).foldl (fun (acc : State × Walk) y =>
    match requestVec acc.1 e y.slot with
    | (false, t) => (t, acc.2)
    | (true, t) => (t, { acc.2 with cand := markReq acc.2.cand y.slot })) (s, w)

/-- Goes on with a rerank: it ends once every member's read has ended, or at the deadline D (R124, R127). -/
def rerankOn (s : State) (e : WalkEnv) (w : Walk) : State :=
  if (window e w).all (·.ended) then finishWalk s e w else putWalk s e.c e.k w

/-- A walk has stopped (R127, R130): records in flight at walk_end are dropped; the filter runs, and a widening lets the walk go
on; otherwise the rerank begins. The flag says that the walk goes on. -/
def afterWalk (s : State) (e : WalkEnv) (w : Walk) (cut : Bool) : Bool × State × Walk :=
  let late := if cut then w.inflight.length else 0
  let s1 := countCls s e.c Ev.recLate 0xFF late
  let s2 := if cut && !w.cut then countCls s1 e.c Ev.walkCut else s1
  let w1 := if cut then { w with cut := true, inflight := [] } else w
  let (s3, w2) := if qFilter e.q.desc = 0 then (s2, w1) else filterCands s2 e w1
  let few := decide ((w2.cand.filter (·.pass)).length < qK e.q.desc)
  if qFilter e.q.desc ≠ 0 && few && decide (w2.widened < qWiden e.q.desc) then
    (true, countCls s3 e.c Ev.widen, { w2 with
      widened := w2.widened + 1, budget := min (2 * w2.budget) 16384, pool := min (2 * w2.pool) 65536 })
  else (false, s3, { w2 with phase := .rerank })

/-- The rerank begins: nothing is awaited when its deadline has passed. -/
def startRerank (s : State) (e : WalkEnv) (w : Walk) : State :=
  match queryCtx s e.qid with
  | (true, s1) => s1
  | (false, s1) =>
    if e.q.deadline ≤ s1.now then finishWalk s1 e w
    else let (s2, w1) := issueReads s1 e w; rerankOn s2 e w1

/-- Runs a walk until it awaits a record or has stopped. -/
def walkRun (e : WalkEnv) : (fuel : Nat) → State → Walk → State
  | 0, s, w => putWalk s e.c e.k w
  | f + 1, s, w =>
    match walkStep s e w with
    | .on s1 w1 => walkRun e f s1 w1
    | .park s1 w1 => putWalk s1 e.c e.k w1
    | .stop cut s1 w1 =>
      match afterWalk s1 e w1 cut with
      | (true, s2, w2) => walkRun e f s2 w2
      | (false, s2, w2) => startRerank s2 e w2

/-- Steps that bound any walk: visits, neighbours and expansions of three budgets of at most 16,384 visits. -/
def walkFuel : Nat := 2000000

def runWalk (s : State) (c k : Nat) : State :=
  match tget? (s.cl c).walks k with
  | none => s
  | some w =>
    match walkEnv s c k w with
    | none => s
    | some e => walkRun e walkFuel s w

/-- The entry list of a WSEED: slots with their scores, 8 bytes each, as a near-bank result holds them (R177). -/
def seedList (x : Cluster) (a n : Nat) : List (Nat × Nat) :=
  (List.range n).map fun i => (leNat (scrRead x (a + 8 * i) 4), leNat (scrRead x (a + 8 * i + 4) 4))

/-- WSEED (R82, R114): OPD entry points from OPB for the context at OPA. -/
def execWseed (c : Fin 128) (s : State) : Res :=
  .next (issueR s c.val 2 0x01 (fun w _ => [(gran (wB w), 8 * wD w)]) fun w t =>
    let x := t.cl c.val
    t.setCl c.val { x with seeds := tput x.seeds (gran (wA w)) (unitInv t c.val 2, seedList x (gran (wB w)) (wD w)) })

/-- The seeds of a walk (R123): the fixed entry points; the best SEEDS scan entries; or all of them for a scan without a walk. -/
def walkSeeds (d : IdxD) (q : Query) (loaded : List (Nat × Nat)) : List (Nat × Option Nat) :=
  if qForm q.desc = 0 then (d.entry.take d.entries).map fun e => (e, none)
  else
    let key (e : Nat × Nat) : Nat := orderKey d.lower e.2
    let best := sortBy (fun a b => decide (key b < key a) || (key a == key b && decide (a.1 ≤ b.1))) loaded
    (if qForm q.desc = 1 then best.take (qSeeds q.desc) else best).map fun e => (e.1, some e.2)

/-- A query's walk begins in a free context (R114, R118, R122). -/
def startWalk (s : State) (c w qid : Nat) (q : Query) (x : Index) : Option State :=
  let d := idxD x.desc
  let ovr := bitOf (getLE q.desc 1 1) 3
  let pm := getLE q.desc 0x2E 1
  let mode := if ovr then bitsOf pm 3 3 else kMode w
  let cl := s.cl c
  match tfreeBelow cl.walks (if mode = 1 then 16 - kActr w else 64) with
  | none => none
  | some k =>
    let v := q.vec.getD []
    let ts := getLE q.desc 0x2F 1
    let loaded := match tget? cl.seeds (gran (wA w)) with
      | some (i, es) => if i == unitInv s c 2 then es else []
      | none => []
    let wk : Walk :=
      { qid := qid, phase := .walking, p := if ovr then pm % 8 + 1 else kP w, mode := mode, budget := qVisits q.desc
        pool := qPool q.desc, tlimit := qVisits q.desc * (if ts = 0 then d.tombShare else ts) / 256
        seeds := walkSeeds d q loaded, lut := lookupTable d x.cb v, qnorm := normF v, out := gran (wC w) }
    let s1 := putWalk (setWait s c 2 (.walk k)) c k wk
    some (runWalk { s1 with work.queries := tput s1.work.queries qid { q with at_ := some (c, k) } } c k)

/-- WWALK (R82, R112, R114, R118): the walk of the query that the invocation serves. -/
def execWwalk (c : Fin 128) (s : State) : Res :=
  .next (issueW s c.val 2 0x02 (fun _ _ => []) fun w t =>
    match unitQuery t c.val 2 with
    | none => (true, failInv t c.val 2 (refusal rsCommand))
    | some (qid, q) =>
      match queryIndex t q with
      | none => (true, failInv t c.val 2 (refusal rsName))
      | some x =>
        match queryCtx t qid with
        | (true, t1) => (true, retire t1 c.val 2)
        | (false, t1) =>
          match startWalk t1 c.val w qid q x with
          | some t2 => (true, t2)
          | none => (false, t1))

/-- Reads the record of a slot into the buffer (R119, R120, R190); what cannot be read is poisoned. It waits behind queued
writes and at its regulators. -/
def fetchRec (s : State) (c i : Nat) (x : Index) (slot : Nat) (used : Bool) : Bool × State :=
  match unitRead s c 2 (recAddr (idxD x.desc) slot) 256 with
  | .wait s1 => (false, s1)
  | .ok bytes s1 => (true, addLine s1 c { index := i, slot := slot, bytes := bytes, used := used })
  | .bad _ _ s1 => (true, addLine s1 c { index := i, slot := slot, bytes := [], poison := true, used := used })

/-- RECORD_ARRIVE (R114, R120): the record that a parked walk awaits. -/
def execRecordArrive (c : Fin 128) (ctx : Fin 64) (slot : Nat) (s : State) : Res :=
  match tget? (s.cl c.val).walks ctx.val with
  | none => .next s
  | some w =>
    match walkEnv s c.val ctx.val w with
    | none => .next s
    | some e =>
      if (w.await.map fun a => a.1) != some slot then .next s
      else
        match fetchRec s c.val e.i e.x slot true with
        | (false, s1) => .next s1
        | (true, s1) =>
          .next (runWalk (putWalk s1 c.val ctx.val { w with inflight := w.inflight.filter (· != slot) }) c.val ctx.val)

/-- PREFETCH_ARRIVE (R119, R121): a record fetched ahead; one whose query has ended is discarded. -/
def execPrefetchArrive (c : Fin 128) (ctx : Fin 64) (slot : Nat) (s : State) : Res :=
  let x := s.cl c.val
  let mine := (tget? x.walks ctx.val).bind fun w =>
    if w.inflight.contains slot then (walkEnv s c.val ctx.val w).map fun e => (w, e) else none
  match mine with
  | some (w, e) =>
    match fetchRec s c.val e.i e.x slot ((w.await.map fun a => a.1) == some slot) with
    | (false, s1) => .next s1
    | (true, s1) =>
      .next (runWalk (putWalk s1 c.val ctx.val { w with inflight := w.inflight.filter (· != slot) }) c.val ctx.val)
  | none =>
    match x.prefs.find? fun p => p.2.2 = slot with
    | none => .next s
    | some p =>
      let s1 := s.setCl c.val { x with prefs := x.prefs.erase p }
      match tget? s.work.queries p.1, tget? s.work.indexes p.2.1 with
      | some _, some ix =>
        match fetchRec s1 c.val p.2.1 ix slot false with
        | (false, s2) => .next (s2.setCl c.val { s2.cl c.val with prefs := x.prefs })
        | (true, s2) => .next s2
      | _, _ => .next (wasteSlot (countCls s1 c.val Ev.prefUnused) c.val 1)

/-- WALK_END_EXPIRE (R127): the walk stops; the record it awaits counts REC_LATE too. -/
def execWalkEndExpire (c : Fin 128) (ctx : Fin 64) (s : State) : Res :=
  match tget? (s.cl c.val).walks ctx.val with
  | none => .next s
  | some w =>
    match walkEnv s c.val ctx.val w with
    | none => .next s
    | some e =>
      if w.phase != .walking || s.now < e.walkEnd then .next s
      else
        let extra := match w.await with
          | some (slot, _, _) => if w.inflight.contains slot then 0 else 1
          | none => 0
        let s1 := countCls s c.val Ev.recLate 0xFF extra
        match afterWalk s1 e { w with await := none } true with
        | (true, s2, w2) => .next (walkRun e walkFuel s2 w2)
        | (false, s2, w2) => .next (startRerank s2 e w2)

/-- The exact score of a full vector (R108, R125). -/
def exactOf (e : WalkEnv) (w : Walk) (bytes : List Byte) : F32 × Bool :=
  let v := vecOf e.d bytes
  cleanScore e.d.metric (exactScore e.d.metric (e.q.vec.getD []) v w.qnorm (if e.d.normalised then none else some (normF v)))

/-- A read of a vector has ended: with its bytes, or without (R126). -/
def takeVector (s : State) (e : WalkEnv) (w : Walk) (slot : Nat) (poison : Bool) : State :=
  let (bytes, bad, disc) := flashData s (vecAddr e.d slot) e.d.vstride
  let s1 := { s with flash.jobs := terase s.flash.jobs (jobKey (.rerank e.c e.k slot)) }
  let upd (v : Option Nat) : Walk := { w with cand := w.cand.map fun y =>
    if y.slot = slot then { y with ended := true, exact := v } else y }
  let on (t : State) (w1 : Walk) : State := if w1.phase == .rerank then rerankOn t e w1 else putWalk t e.c e.k w1
  if e.q.deadline < s.now then on (countCls s1 e.c Ev.clsLateArrival) (upd none)
  else if poison || bad || disc then on (countCls s1 e.c Ev.rerankErr) (upd none)
  else
    let (v, nan) := exactOf e w bytes
    on (if nan then countCls s1 e.c Ev.nanScore else s1) (upd (some v))

/-- RERANK_VECTOR_ARRIVE (R15, R124 to R126): all codewords of a vector are there. A read that waits at its regulator is tried
again; one that comes after its walk is late. -/
def execRerankVectorArrive (c : Fin 128) (ctx : Fin 64) (slot : Nat) (s : State) : Res :=
  let key := jobKey (.rerank c.val ctx.val slot)
  let job := tget? s.flash.jobs key
  match tget? (s.cl c.val).walks ctx.val with
  | none =>
    match job with
    | some j =>
      if j.left = 0 then .next (countCls { s with flash.jobs := terase s.flash.jobs key } c.val Ev.clsLateArrival) else .next s
    | none => .next s
  | some w =>
    match walkEnv s c.val ctx.val w with
    | none => .next s
    | some e =>
      match w.cand.find? (fun y => y.slot = slot && !y.ended), job with
      | some y, some j => if y.req && j.left = 0 then .next (takeVector s e w slot j.poison) else .next s
      | some y, none =>
        if w.phase == .rerank && !y.req then
          let (s1, w1) := issueReads s e w
          .next (putWalk s1 c.val ctx.val w1)
        else .next s
      | none, _ => .next s

/-- RERANK_DEADLINE_EXPIRE (R15, R127): members whose vector is missing keep their code scores. -/
def execRerankDeadlineExpire (c : Fin 128) (ctx : Fin 64) (s : State) : Res :=
  match tget? (s.cl c.val).walks ctx.val with
  | none => .next s
  | some w =>
    match walkEnv s c.val ctx.val w with
    | none => .next s
    | some e => if w.phase == .rerank && decide (e.q.deadline ≤ s.now) then .next (finishWalk s e w) else .next s

/-- WPREF (R82, R119): the records of OPD handles at OPB, of the query's index. -/
def execWpref (c : Fin 128) (s : State) : Res :=
  .next (issueR s c.val 2 0x03 (fun w _ => [(gran (wB w), 8 * wD w)]) fun w t =>
    match unitQuery t c.val 2 with
    | none => t
    | some (qid, q) =>
      let i := getLE q.desc 0x28 2
      let x := t.cl c.val
      let slots := (List.range (wD w)).map fun j => handleSlot (leNat (scrRead x (gran (wB w) + 8 * j) 8))
      let new := (dedup slots).filter fun n => (lineOf x i n).isNone && !(x.prefs.any fun p => p.2.1 = i && p.2.2 = n)
      countCls (t.setCl c.val { x with prefs := x.prefs ++ new.map fun n => (qid, i, n) }) c.val Ev.prefIssued 0xFF new.length)

/-- Pieces of a copy from a fabric address: none crosses a 256-byte block (R287). -/
def loadPieces : (fuel addr len : Nat) → List (Nat × Nat)
  | 0, _, _ => []
  | f + 1, addr, len =>
    if len = 0 then []
    else
      let n := min len (256 - addr % 256)
      (addr, n) :: loadPieces f (addr + n) (len - n)

/-- WCOPYA (R82, R121): OPD bytes from a fabric address; the counter ACTR rises when they are there. -/
def execWcopya (c : Fin 128) (s : State) : Res :=
  .next (issueW s c.val 2 0x04 (fun _ _ => []) fun w t =>
    let a := constAddr (clConst t c.val (wB w))
    let p := (t.cl c.val).part
    let len := wD w
    let x := t.cl c.val
    let own := ownAddr t a
    let ps := if own then [] else loadPieces (len / 256 + 2) a len
    if !inDomainNum (addrNode a) then (true, failInv (count t p Ev.fabDomainErr) c.val 2 (refusal rsRange))
    else if !own && (a % 4 != 0 || len % 4 != 0) then (true, failInv t c.val 2 (refusal rsFormat))
    else
      match (if own then (true, t) else regTry t p .fabric (unitReqId c.val 2) len) with
      | (false, t1) => (false, t1)
      | (true, t1) =>
        let job : CopyJob := { dst := gran (wA w), addr := a, len := len, actr := kActr w, left := ps.length }
        let t2 := t1.setCl c.val { t1.cl c.val with copies := tput x.copies x.nextJob job, nextJob := x.nextJob + 1 }
        let t3 := retire (addPending t2 c.val 2 (if own then 1 else ps.length)) c.val 2
        (true, ps.foldl (fun y q =>
          (request y kLoad (addrNode a) p 0 q.1 q.2 0 [] false (.copy c.val x.nextJob)).2) t3))

/-- A copy's counter rises and the copy is over. -/
def endCopy (s : State) (c i : Nat) (j : CopyJob) : State :=
  let x := s.cl c
  s.setCl c { x with copies := terase x.copies i, actr := tmod x.actr j.actr 0 (· + 1) }

/-- COPY_COMPLETE (R121): every byte of a copy is in scratch. A copy from this node's own windows is served now. -/
def execCopyComplete (c : Fin 128) (i : Nat) (s : State) : Res :=
  match tget? (s.cl c.val).copies i with
  | none => .next s
  | some j =>
    if ownAddr s j.addr then
      let p := (s.cl c.val).part
      match windowOf j.addr with
      | .tier a =>
        match unitRead s c.val 2 a j.len with
        | .wait s1 => .next s1
        | .ok bytes s1 => .next (donePending (endCopy (scrWrite s1 c.val j.dst bytes) c.val i j) c.val 2)
        | .bad st _ s1 =>
          let s2 := donePending (endCopy s1 c.val i j) c.val 2
          match unitInv s2 c.val 2 with
          | some v => .next (endWork s2 v st)
          | none => .next s2
      | _ => .next (donePending (endCopy (count s p Ev.fabAddrErr) c.val i j) c.val 2)
    else if j.left = 0 then .next (endCopy s c.val i j)
    else .next s

/-- WWAITA (R82): waits until counter ACTR reaches OPD, then takes OPD from it. -/
def execWwaita (c : Fin 128) (s : State) : Res :=
  .next (issueNow s c.val 2 0x05 fun w t =>
    let x := t.cl c.val
    let n := tgetD x.actr (kActr w) 0
    if wD w ≤ n then some (t.setCl c.val { x with actr := tput x.actr (kActr w) (n - wD w) }) else none)

end Sys2Proof.Machine
end

