-- ==== Sys2Proof/Machine/Graph.lean ====
section
/-!
DEFINITION. Inserts and graph repair at the walker unit: WINSERT, WDELETE and WREPAIR (R132 to R136).
-/
namespace Sys2Proof.Machine

def putUpd (s : State) (uid : Nat) (u : Update) : State := { s with epo.updates := tput s.epo.updates uid u }

/-- The index that a WINSERT or WDELETE constant names; none stands for the index of the work at hand (R112). -/
def namedIndex (s : State) (c w : Nat) : Option Nat :=
  let n := constName (clConst s c (wB w))
  if n = 0xFFFF then none else some n

/-- The context of an update is used (R245): a lost slot is retired; an update whose append is complete goes on without it. -/
def updCtx (s : State) (uid : Nat) (u : Update) : Bool × State :=
  match u.ctx with
  | none => (false, s)
  | some k =>
    match ctxCheck s u.part k with
    | (false, s1) => (false, s1)
    | (true, s1) =>
      let s2 := { s1 with epo.ctxUsed := terase s1.epo.ctxUsed k }
      (true, { s2 with epo.updates := tupd s2.epo.updates uid fun x => { x with ctx := none } })

/-- The vector of an update's log record, in FP32, and its metadata (R231). -/
def recVector (d : IdxD) (r : LogRec) : List F32 := vecOf d r.payload
def recMeta (d : IdxD) (r : LogRec) : List Byte := slice r.payload d.vstride d.metaBytes

/-- Bytes of IVF list `l`: first byte address, and its entries (R105). -/
def listEntry (s : State) (d : IdxD) (l : Nat) : Nat × Nat :=
  let e := (readSpan s (d.ivfTile * tileBytes + 16 * l) 8).bytes
  (getLE e 0 4 % tileCount * tileBytes, getLE e 4 4)
def listStride (d : IdxD) : Nat := d.codeBytes + 4

/-- The list whose centroid is nearest to a vector, the lower number among equals (R132). -/
def nearestList (s : State) (d : IdxD) (v : List F32) : Option Nat :=
  if !d.ivf then none
  else
    let n := d.dims * d.elemBytes
    let ds := (List.range d.nlists).map fun l =>
      (l, distF v (vecOf d (readSpan s (d.centTile * tileBytes + l * n) n).bytes))
    (leastBy (fun a b => f32lt a.2 b.2) ds).map (·.1)

/-- Steps 1 to 3 of R132: the vector goes to flash, the code and the norm are computed, metadata and the flat code are written,
and the list is chosen. The update is PREPARED. -/
def prepare (s : State) (x : Index) (uid : Nat) (u : Update) : State :=
  let d := idxD x.desc
  let slot := u.slot.getD 0
  let v := recVector d u.lrec
  let code := encodeVec d x.cb v
  let s1 := flashStore s (vecAddr d slot) (slice u.lrec.payload 0 d.vstride)
  let s2 := if d.metaBytes = 0 then s1 else ownWrite s1 x.part (metaAddr d slot) (recMeta d u.lrec)
  let s3 := if d.flat then ownWrite s2 x.part (d.flatTile * tileBytes + slot * d.codeBytes) code else s2
  putUpd s3 uid { u with
    code := code, norm := normF v, list := nearestList s3 d v, prepDone := true
    st := if u.st == .committed then .prepared else u.st }

/-- Steps 4 and 5 of R132: neighbours by the search and the pruning rule, and the reverse edges staged in them. -/
def stageEdges (s : State) (x : Index) (uid : Nat) (u : Update) : State :=
  let d := idxD x.desc
  let slot := u.slot.getD 0
  let ns := neighbours s x slot (recVector d u.lrec) u.code
  let tag := handleGen u.lrec.handle % 4
  putUpd s uid { u with
    nbrs := ns, etags := ns.map fun n => recGen (recRead s d n).1 % 4
    edges := ns.map fun n => { node := n, nbrs := [slot], etags := [tag] }, edgesDone := true, by_ := none }

/-- The oldest insert whose preparation or edge work a walker unit may take up. -/
def insertToDo (s : State) (part : Nat) (i : Option Nat) : Option (Nat × Update) :=
  tfind? s.epo.updates fun _ u => u.part = part && u.slot.isSome && !u.edgesDone && u.by_.isNone &&
    (u.st == .committed || u.st == .prepared || u.st == .published) && (match i with
      | some n => u.lrec.index == n
      | none => true)

/-- WINSERT (R82, R132): its first run prepares the oldest insert; its second, while the unit works on, stages the edges. -/
def execWinsert (c : Fin 128) (s : State) : Res :=
  let x := s.cl c.val
  if (x.unit 2).wait == .work && (x.word 2).map wOp == some 0x06 then
    match tfind? s.epo.updates fun _ u => u.by_ == some c.val && !u.edgesDone with
    | none => .next (resume s c.val 2 .work)
    | some (uid, u) =>
      match updCtx s uid u with
      | (_, s1) =>
        let u1 := tgetD s1.epo.updates uid u
        match tget? s1.work.indexes u.lrec.index with
        | some ix => .next (resume (stageEdges s1 ix uid u1) c.val 2 .work)
        | none => .next (resume (putUpd s1 uid { u1 with edgesDone := true, by_ := none }) c.val 2 .work)
  else
    .next (issueW s c.val 2 0x06 (fun _ _ => []) fun w t =>
      match insertToDo t (t.cl c.val).part (namedIndex t c.val w) with
      | none => (false, t)
      | some (uid, u) =>
        match tget? t.work.indexes u.lrec.index with
        | none => (false, t)
        | some ix =>
          let (_, t1) := updCtx t uid u
          let u1 := { tgetD t1.epo.updates uid u with by_ := some c.val }
          (true, setWait (if u1.prepDone then putUpd t1 uid u1 else prepare t1 ix uid u1) c.val 2 .work))

/-- WDELETE (R82): the tombstone of the oldest delete is staged. -/
def execWdelete (c : Fin 128) (s : State) : Res :=
  .next (issueR s c.val 2 0x07 (fun _ _ => []) fun w t =>
    let i := namedIndex t c.val w
    match tfind? t.epo.updates fun _ u => u.part = (t.cl c.val).part && u.oldSlot.isSome && !u.staged &&
        u.st == .prepared && (match i with
          | some n => u.lrec.index == n
          | none => true) with
    | none => t
    | some (uid, u) => putUpd t uid { u with staged := true })

/-- A delete of a slot has left retention (R136, R242): its epoch is older than the oldest retained one. A tombstone without a
delete in this run is older than the start. -/
def expiredTomb (s : State) (x : Index) (slot : Nat) (tomb : Bool) : Bool :=
  tomb && (match tget? x.del slot with
    | some e => decide (e < s.epo.oldest)
    | none => true)

/-- An edge that repair removes: stale, or to a tombstone out of retention (R136). -/
def deadEdge (s : State) (d : IdxD) (x : Index) (e : Nat × Nat) : Bool :=
  let r := (recRead s d e.1).1
  recGen r % 4 != e.2 || expiredTomb s x e.1 (recTomb r)

/-- A list refilled from the neighbours of neighbours by the pruning rule (R133, R136). -/
def refill (s : State) (d : IdxD) (x : Index) (slot : Nat) (r : RecD) (kept : List (Nat × Nat)) : List (Nat × Nat) :=
  let second := kept.flatMap fun e => (RecD.of (recRead s d e.1).1).edges
  let all := dedup ((kept ++ (second.filter fun e => !deadEdge s d x e)).map (·.1))
  let cands := (all.filter (· != slot)).map fun n => (n, slice (recRead s d n).1 0x10 112)
  (prune d x.cb (decodeVec d x.cb r.code) cands).map fun n => (n, recGen (recRead s d n).1 % 4)

/-- Repair of one live record (R136). -/
def repairRec (s : State) (i : Nat) (x : Index) (slot : Nat) : State :=
  let d := idxD x.desc
  let (b, bad) := recRead s d slot
  let r := RecD.of b
  if bad || r.tomb then s
  else
    let kept := r.edges.filter fun e => !deadEdge s d x e
    let edges := if kept.length = r.edges.length then r.edges else refill s d x slot r kept
    if edges == r.edges && r.rflags = 0 then s else writeRecord s i x.part d slot { r with rflags := 0, edges := edges }

/-- Removes the list entries of slots from list `l`: the others move up, and the count falls (R136). -/
def cleanList (s : State) (d : IdxD) (part : Nat) (gone : List Nat) (l : Nat) : State :=
  let (a, n) := listEntry s d l
  let es := chunks (listStride d) (n + 1) (readSpan s a (n * listStride d)).bytes
  let keep := es.filter fun e => !gone.contains (getLE e d.codeBytes 4)
  if keep.length = es.length then s
  else
    ownWrite (ownWrite s part a keep.flatten) part (d.ivfTile * tileBytes + 16 * l + 4) (leBytes 4 keep.length)

/-- Removes list and flat entries of tombstones (R136). -/
def cleanEntries (s : State) (x : Index) (gone : List Nat) : State :=
  let d := idxD x.desc
  let s1 := if d.ivf && !gone.isEmpty then (List.range d.nlists).foldl (fun t l => cleanList t d x.part gone l) s else s
  if d.flat then
    gone.foldl (fun t n => ownWrite t x.part (d.flatTile * tileBytes + n * d.codeBytes) (List.replicate d.codeBytes 0)) s1
  else s1

/-- Reclaims a slot (R136): GEN + 1, a cleared record, a discarded vector, and the slot free. -/
def reclaim (s : State) (i slot : Nat) : State :=
  match tget? s.work.indexes i with
  | none => s
  | some x =>
    let d := idxD x.desc
    let gen := (recGen (recRead s d slot).1 + 1) % 65536
    let s1 := ownWrite s x.part (recAddr d slot) (leBytes 2 gen ++ List.replicate 254 0)
    let s2 := (discardUnits s1 (vecAddr d slot) d.vstride).2
    let cw := vecAddr d slot / cwBytes
    let s3 := { s2 with flash.disc := (List.range (d.vstride / cwBytes)).foldl (fun t k =>
      if (s2.mapOf ((cw + k) / 8)).st == .mapped then tput t (cw + k) true else t) s2.flash.disc }
    setIndex s3 i { x with
      used := terase x.used slot, ins := terase x.ins slot, del := terase x.del slot, cleaned := x.cleaned.filter (· != slot)
      reclaimed := tput x.reclaimed slot s.now }

/-- A slot may be reclaimed (R136): a full pass has removed its entries, and a full pass has run since the slot was last
reclaimed. -/
def mayReclaim (s : State) (x : Index) (slot : Nat) : Bool :=
  let r := (recRead s (idxD x.desc) slot).1
  expiredTomb s x slot (recTomb r) && x.cleaned.contains slot && x.fullEnd != 0 &&
    decide (tgetD x.reclaimed slot 0 ≤ x.fullStart)

/-- The tiles of a pass: a pass that has covered every record tile is full, and the next begins (R136). -/
def notePass (s : State) (x : Index) (tiles gone : List Nat) : Index :=
  let start := if x.passTiles.isEmpty then s.now else x.passStart
  let done := dedup (x.passTiles ++ tiles)
  let cleaning := dedup (x.cleaning ++ gone)
  if done.length = ceilDiv (idxD x.desc).slots 256 then
    { x with passStart := start, passTiles := [], cleaning := [], cleaned := dedup (x.cleaned ++ cleaning)
             fullStart := start, fullEnd := s.now }
  else { x with passStart := start, passTiles := done, cleaning := cleaning }

/-- Graph repair of the record tiles [first, first + count) of an index (R136). -/
def repairRange (s : State) (i : Nat) (x : Index) (first n : Nat) : State :=
  let d := idxD x.desc
  let total := ceilDiv d.slots 256
  let tiles := (List.range total).filter fun k => decide (first ≤ d.recTile + k) && decide (d.recTile + k < first + n)
  let slots := (x.used.map (·.1)).filter fun k => tiles.contains (k / 256)
  let s1 := slots.foldl (fun t k => repairRec t i x k) s
  let gone := slots.filter fun k => expiredTomb s1 x k (recTomb (recRead s1 d k).1) && !x.cleaned.contains k
  let y := notePass s1 x tiles gone
  let s2 := setIndex (cleanEntries s1 x gone) i y
  (slots.filter (mayReclaim s2 y)).foldl (fun t k => reclaim t i k) s2

/-- WREPAIR (R82, R112, R136): the index by its constant, the tile range by another. -/
def execWrepair (c : Fin 128) (s : State) : Res :=
  .next (issueR s c.val 2 0x08 (fun _ _ => []) fun w t =>
    let i := constName (clConst t c.val (wA w))
    let k := clConst t c.val (wB w)
    match tget? t.work.indexes i with
    | none => t
    | some x => if x.part = (t.cl c.val).part then repairRange t i x (getLE k 0 4 % tileCount) (getLE k 4 4) else t)

end Sys2Proof.Machine
end

