-- ==== Sys2Proof/Machine/Update.lean ====
section
/-!
DEFINITION. Updates up to COMMITTED or UPD_LOST: admission, the log and its peers, forwarding to the owner, voiding and the
flash log (R18 to R21, R134, R135, R228, R231 to R237, R489).
-/
namespace Sys2Proof.Machine

/-- The epoch period in ns, the epoch of a stamp, and its end boundary (R229). -/
def epochNs (s : State) : Nat := max 1 (fld s.epo.cfg 39 32) * 1000000
def epochOf (s : State) (t : Nat) : Nat := t / epochNs s
def epochEnd (s : State) (e : Nat) : Nat := (e + 1) * epochNs s

/-- Sets a bit of EPO_ERR. -/
def epoErr (s : State) (p bit : Nat) : State := { s with epo.err := orErr s.epo.err p bit }

/-- A log record as it lies in memory (R231). -/
def logBytes (r : LogRec) : List Byte :=
  leBytes 8 r.seq ++ leBytes 8 r.stamp ++ leBytes 8 r.epoch ++ leBytes 8 r.handle ++ leBytes 8 r.oldHandle ++
    leBytes 8 r.fwdId ++ leBytes 2 r.index ++ leBytes 1 r.kind ++ leBytes 1 (b2n r.void) ++ leBytes 1 r.origin ++
    leBytes 1 r.entry ++ leBytes 4 r.payload.length ++ leBytes 6 0 ++
    slice r.payload 0 (ceilDiv r.payload.length 64 * 64)

/-- Bytes that a record takes in a log. -/
def recSize (r : LogRec) : Nat := 64 + ceilDiv r.payload.length 64 * 64

/-- Bytes that the record of an update of an index takes (R231). -/
def updSize (d : IdxD) (kind : Nat) : Nat := if kind = 2 then 64 else 64 + ceilDiv (d.vstride + d.metaBytes) 64 * 64

/-- Log bytes of a partition in this node's stacks: its own records, those of updates that are not logged yet, and peer
copies (R235). -/
def logUsed (s : State) (p : Nat) : Nat :=
  let own (l : List (LogRec × Nat)) : Nat := sumOf ((l.filter fun r => r.2 = p).map fun r => recSize r.1)
  own s.epo.log + own s.epo.peerLog +
    sumOf (s.epo.updates.map fun kv =>
      if kv.2.part = p && kv.2.st == .allocated && kv.2.owner.isNone then
        match tget? s.work.indexes kv.2.lrec.index with
        | some x => updSize (idxD x.desc) kv.2.lrec.kind
        | none => 0
      else 0)

/-- The lowest free slot of an index (R135). -/
def freeSlot (x : Index) : Option Nat :=
  match leastFrom (fun i => (tget? x.used i).isNone) (x.used.length + 1) 0 with
  | some i => if i < (idxD x.desc).slots then some i else none
  | none => none

/-- An update of this node ends and holds its context no longer. -/
def freeUpdCtx (s : State) (u : Update) : State :=
  match u.ctx with
  | some k => { s with epo.ctxUsed := terase s.epo.ctxUsed k }
  | none => s

/-- What an update that applies nothing gives back: its slot and its places in the change record (R19, R228). -/
def undoUpdate (s : State) (u : Update) : State :=
  let n := if u.lrec.kind = 3 then 2 else 1
  let s1 := if u.owner.isSome then s
    else { s with epo.changes := tupd s.epo.changes u.lrec.epoch fun x => x - n }
  match u.slot with
  | none => s1
  | some k => { s1 with work.indexes := tupd s1.work.indexes u.lrec.index fun x =>
      { x with used := terase x.used k, ins := terase x.ins k } }

/-- A control message about one update's record: its number, and for a forwarded update the handle. -/
def sendUpd (s : State) (kind pos part id handle : Nat) : State :=
  sendPkt s { kind := kind, dst := pos, src := s.fab.node, part := part, len := 16, addr := pos * 2 ^ 52
              payload := leBytes 8 id ++ leBytes 8 handle }

/-- Sends a record to a log peer, or a forwarded update to its owner (R134, R232). -/
def sendLog (s : State) (part : Nat) (r : LogRec) (pos : Nat) : State :=
  let b := logBytes r
  sendPkt s { kind := kLog, dst := pos, src := s.fab.node, part := part, len := b.length, addr := pos * 2 ^ 52, payload := b }

/-- An update ends UPD_LOST (R232): it applies nothing; the entry node of a forwarded one is told. -/
def loseUpdate (s : State) (uid : Nat) : State :=
  match tget? s.epo.updates uid with
  | none => s
  | some u =>
    let s1 := undoUpdate (freeUpdCtx { s with epo.updates := terase s.epo.updates uid } u) u
    match u.cid with
    | some _ => endCmd? (count s1 u.part Ev.updLost) u.cid stUpdLost
    | none => if u.lrec.fwdId = 0 then s1 else sendUpd s1 (kLogVoid + 0x20) u.lrec.entry u.part u.lrec.fwdId 0

/-- The voiding of a record is acknowledged by every peer in the rack map that had it: the update ends (R232). -/
def voidCheck (s : State) (uid : Nat) : State :=
  match tget? s.epo.updates uid with
  | none => s
  | some u =>
    if u.st == .voiding && u.sentTo.all fun p => u.voidAcks.contains p || !bitOf s.mbr.members p then loseUpdate s uid else s

/-- Marks a record VOID. -/
def markVoid (l : List (LogRec × Nat)) (origin seq : Nat) : List (LogRec × Nat) :=
  l.map fun r => if r.1.origin = origin && r.1.seq = seq then ({ r.1 with void := true }, r.2) else r

/-- An update goes to VOIDING (R232, R245). -/
def voidUpdate (s : State) (uid : Nat) : State :=
  match tget? s.epo.updates uid with
  | none => s
  | some u =>
    let s1 := count (putUpd { s with epo.log := markVoid s.epo.log u.lrec.origin u.lrec.seq } uid { u with st := .voiding })
      u.part Ev.logVoid
    let to_ := u.sentTo.filter fun p => bitOf s1.mbr.members p
    voidCheck (to_.foldl (fun t p => sendUpd t kLogVoid p u.part u.lrec.seq 0) s1) uid

/-- An update's append is complete (R19, R232, R237): COMMITTED with the handle; a delete is PREPARED at once. -/
def commitUpdate (s : State) (uid : Nat) (u : Update) : State :=
  let st := if u.lrec.kind = 2 then UpdState.prepared else UpdState.committed
  let s1 := putUpd s uid { u with st := st, cid := none }
  match u.cid with
  | some _ => endCmd? (count s1 u.part Ev.updCommit) u.cid stCommitted 0 u.lrec.handle
  | none => if u.lrec.fwdId = 0 then s1 else sendUpd s1 (kLog + 0x20) u.lrec.entry u.part u.lrec.fwdId u.lrec.handle

/-- An update that is ready and holds its context is logged (R232): a record in the local log and at both peers, or a
forwarded one at its owner (R134). -/
def logUpdate (s : State) (uid : Nat) : State :=
  match tget? s.epo.updates uid with
  | none => s
  | some u =>
    if u.st != .allocated || !u.ready || u.ctx.isNone then s
    else
      match u.owner with
      | some v =>
        match hostOf s v with
        | some pos => putUpd (sendLog s u.part u.lrec pos) uid { u with st := .logging, logT := s.now }
        | none => loseUpdate s uid
      | none =>
        match updCtx s uid u with
        | (true, s1) => voidUpdate s1 uid
        | (false, s1) =>
          let r : LogRec := { u.lrec with seq := s1.epo.nextSeq, origin := s1.fab.node }
          let s2 : State := { s1 with epo := { s1.epo with nextSeq := s1.epo.nextSeq + 1, log := s1.epo.log ++ [(r, u.part)] } }
          let v : Update := { u with lrec := r, st := .logging, logT := s.now, sentTo := s.epo.peers }
          s.epo.peers.foldl (fun t p => sendLog t u.part r p) (putUpd s2 uid v)

/-- A free context slot for an update (R489). -/
def updCtxFree (s : State) : Option Nat := unreservedCtx s fun k => (tget? s.epo.ctxUsed k).isNone

/-- Gives an update its context, if one is free. -/
def takeUpdCtx (s : State) (uid : Nat) : State :=
  match updCtxFree s with
  | none => s
  | some k =>
    logUpdate { s with epo.ctxUsed := tput s.epo.ctxUsed k true
                       epo.updates := tupd s.epo.updates uid fun u => { u with ctx := some k } } uid

/-- A new update, and its context when one is free. -/
def addUpdate (s : State) (u : Update) : State :=
  let uid := s.epo.nextUid
  takeUpdCtx { s with epo := { s.epo with updates := tput s.epo.updates uid u, nextUid := uid + 1 } } uid

/-- The reasons that an update to a slot of this node can meet (R135, R228, R233, R235), and the state with the bits of
EPO_ERR that they set. -/
def updRoom (s : State) (p epoch kind : Nat) (x : Index) : Bool × State :=
  let full := decide (262144 < tgetD s.epo.changes epoch 0 + if kind = 3 then 2 else 1)
  let noPeer := decide (s.epo.peers.length < 2)
  let noLog := decide (tgetD s.epo.quota p 0 * 2 ^ 20 < logUsed s p + updSize (idxD x.desc) kind)
  let noSlot := kind != 2 && (freeSlot x).isNone
  let s1 := if noPeer then epoErr s p 1 else s
  let s2 := if noLog then count (epoErr s1 p 0) p Ev.logFull else s1
  let s3 := if full then epoErr s2 p 5 else s2
  (noPeer || noLog || full || noSlot, s3)

/-- The handle of a free slot: the generation that its record holds (R18). -/
def newHandle (s : State) (x : Index) (slot : Nat) : Nat × State :=
  let (r, bad) := recRead s (idxD x.desc) slot
  if bad then let (w, s1) := takeFree s; (handleOf (w.toNat % 65536) (ownShard s) slot, s1)
  else (handleOf (recGen r) (ownShard s) slot, s)

/-- Admits an update to a slot of this node (R18, R135, R228): an insert and an upsert take the lowest free slot. -/
def admitLocal (s : State) (u : Update) (x : Index) : State :=
  let e := u.lrec.epoch
  let n := if u.lrec.kind = 3 then 2 else 1
  let s1 := { s with epo.changes := tmod s.epo.changes e 0 (· + n) }
  let old := if u.lrec.kind = 2 then some (handleSlot u.lrec.handle)
    else if u.lrec.kind = 3 then some (handleSlot u.lrec.oldHandle) else none
  if u.lrec.kind = 2 then addUpdate s1 { u with oldSlot := old }
  else
    match freeSlot x with
    | none => s
    | some k =>
      let (h, s2) := newHandle s1 x k
      let y : Index := { x with used := tput x.used k true, ins := tput x.ins k e }
      addUpdate (setIndex s2 u.lrec.index y) { u with slot := some k, oldSlot := old, lrec := { u.lrec with handle := h } }

/-- A number that names an update of this node to the owner it is forwarded to (R231): the position, and a command number that
no sequence number reaches. -/
def fwdIdOf (pos uid : Nat) : Nat := pos * 2 ^ 58 + 2 ^ 57 + uid % 2 ^ 57
def isFwdId (n : Nat) : Bool := decide (2 ^ 57 ≤ n)

/-- The admission of INSERT, DELETE and UPSERT (R134, R135, R376, R377, R384, R408). -/
def admitUpdate (s : State) (cid : Nat) (c : Cmd) (kind : Nat) (fields : List (Nat × Nat)) : State :=
  let ins := kind != 2
  let h := getLE c.bytes 0x18 8
  let i := getLE c.bytes 0x20 2
  let reg := registered s c.part i
  let mb := match tget? s.work.indexes i with
    | some x => (idxD x.desc).metaBytes
    | none => 1
  let remote := kind != 1 && hostOf s (handleNode h) != some s.fab.node
  let bad := (ins && (getLE c.bytes 8 8 % 64 != 0 || getLE c.bytes 0x10 8 % 64 != 0 ||
      (reg && mb == 0 && getLE c.bytes 0x10 8 != 0))) || (kind != 1 && bitsOf h 35 32 != 0) || decide (4096 ≤ i)
  let aux0 := headReasons c fields ||| reasons [(bad, rsFormat), (!reg, rsName), (ins && hostioOff s c, rsHostio),
    (remote && (hostOf s (handleNode h)).isNone, rsSpan), (s.pkg.sec.stop != .running, rsQuiesce)]
  let epoch := epochOf s c.stamp
  let (noRoom, s1) := match tget? s.work.indexes i with
    | some x => if reg && !remote then updRoom s c.part epoch kind x else (false, s)
    | none => (false, s)
  let aux := aux0 ||| reasons [(noRoom, rsResource)]
  if aux ≠ 0 then refuse s1 cid aux
  else
    match tget? s.work.indexes i with
    | none => s
    | some x =>
      let s2 := runCmd s1 cid
      let r : LogRec :=
        { seq := 0, stamp := c.stamp, epoch := epoch, handle := if kind = 2 then h else 0
          oldHandle := if kind = 3 then h else 2 ^ 64 - 1, index := i, kind := kind, origin := s.fab.node, entry := s.fab.node
          fwdId := if remote then fwdIdOf s.fab.node s.epo.nextUid else 0, payload := [] }
      let u : Update := { cid := some cid, part := c.part, lrec := r, ready := kind = 2
                          owner := if remote then some (handleNode h) else none }
      if remote then addUpdate s2 u else admitLocal s2 u x

/-- INSERT (R18, R135, R377). -/
def execInsert (cid : Nat) (s : State) : Res :=
  match cmdOf s cid 0x21 with
  | none => .next s
  | some c => .next (admitUpdate s cid c 1 [(8, 8), (0x10, 8), (0x20, 2)])

/-- DELETE (R134, R377). -/
def execDelete (cid : Nat) (s : State) : Res :=
  match cmdOf s cid 0x22 with
  | none => .next s
  | some c => .next (admitUpdate s cid c 2 [(0x18, 8), (0x20, 2)])

/-- UPSERT (R135, R377). -/
def execUpsert (cid : Nat) (s : State) : Res :=
  match cmdOf s cid 0x23 with
  | none => .next s
  | some c => .next (admitUpdate s cid c 3 [(8, 8), (0x10, 8), (0x18, 8), (0x20, 2)])

/-- UPDATE_VECTOR_ARRIVE (R231, R232, R237): the vector and the metadata are here; the update can be logged. A host read that
fails refuses it (R368, R384). -/
def execUpdateVectorArrive (uid : Nat) (vec meta_ : HostRead) (s : State) : Res :=
  match tget? s.epo.updates uid with
  | none => .next s
  | some u =>
    match u.cid, tget? s.work.indexes u.lrec.index with
    | some cid, some x =>
      if u.ready || u.st != .allocated then .next s
      else
        let d := idxD x.desc
        let lost := undoUpdate (freeUpdCtx { s with epo.updates := terase s.epo.updates uid } u) u
        match vec, (if d.metaBytes = 0 then HostRead.ok [] else meta_) with
        | .ok v, .ok m =>
          let pay := slice (v.take (d.dims * d.elemBytes)) 0 d.vstride ++ slice m 0 d.metaBytes
          .next (logUpdate (putUpd s uid { u with ready := true, lrec := { u.lrec with payload := pay } }) uid)
        | _, _ => .next (refuse lost cid rsHostio)
    | _, _ => .next s

/-- The generation gate of control messages (R286, R238): an older one is dropped and answered by REJECT, a newer one is held
until its generation is installed. -/
def ctlGate (s : State) (src part gen : Nat) (i : Instr) (run : State → State) : State :=
  if gen < s.mbr.gen then
    sendPkt (countNode s Ev.staleGen) { kind := kReject, dst := src, src := s.fab.node, part := part, addr := 0 }
  else if s.mbr.gen < gen then { s with fab.ctlHold := s.fab.ctlHold ++ [(s.now, i)] }
  else run s

/-- A forwarded update at its owner (R134): it runs as the owner's own; what the owner cannot admit is lost. -/
def ownForwarded (s : State) (part : Nat) (r : LogRec) : State :=
  let no : State := sendUpd s (kLogVoid + 0x20) r.entry part r.fwdId 0
  if s.epo.updates.any fun kv => kv.2.lrec.fwdId = r.fwdId && kv.2.owner.isNone then s
  else
    match tget? s.work.indexes r.index with
    | none => no
    | some x =>
      if !registered s part r.index then no
      else
        let (noRoom, s1) := updRoom s part r.epoch r.kind x
        if noRoom then sendUpd s1 (kLogVoid + 0x20) r.entry part r.fwdId 0
        else admitLocal s1 { part := part, lrec := { r with seq := 0, origin := s.fab.node }, ready := true } x

/-- LOG (R134, R232): a peer's copy is written and acknowledged; a forwarded update runs at its owner. -/
def execLog (src : Fin 64) (gen : Nat) (part : Fin 32) (rec_ : LogRec) (s : State) : Res :=
  .next (ctlGate s src.val part.val gen (.log src gen part rec_) fun s =>
    if rec_.fwdId ≠ 0 && rec_.seq = 0 then ownForwarded s part.val rec_
    else
      let others := s.epo.peerLog.filter fun r => !(r.1.origin == rec_.origin && r.1.seq == rec_.seq)
      sendUpd { s with epo.peerLog := others ++ [(rec_, part.val)] } (kLog + 0x20) src.val part.val rec_.seq 0)

/-- The update that an acknowledgement is for: an own one by its sequence number, a forwarded one by its number. -/
def updOf (s : State) (id : Nat) : Option (Nat × Update) :=
  tfind? s.epo.updates fun _ u =>
    if isFwdId id then u.owner.isSome && u.lrec.fwdId == id && u.st == .logging
    else u.owner.isNone && u.lrec.seq == id && (u.st == .logging || u.st == .voiding)

/-- The append's time is up (R232, R40). -/
def logExpired (s : State) (u : Update) : Bool := decide (u.logT + fld s.epo.cfg 31 20 * 1000 ≤ s.now)

/-- LOG_ACK (R19, R40, R134, R232): the append is complete with both acknowledgements; one that comes after LOG_TMO is dropped. -/
def execLogAck (src : Fin 64) (gen seq handle : Nat) (s : State) : Res :=
  .next (ctlGate s src.val 0 gen (.logAck src gen seq handle) fun s =>
    match updOf s seq with
    | none => countLate s (ownerPart s)
    | some (uid, u) =>
      if u.owner.isSome then
        let v := if u.lrec.kind = 2 then u.lrec.handle else handle
        endCmd? (count (freeUpdCtx { s with epo.updates := terase s.epo.updates uid } u) u.part Ev.updCommit) u.cid stCommitted 0 v
      else if u.st == .voiding || decide (u.logT + fld s.epo.cfg 31 20 * 1000 < s.now) then countLate s u.part
      else if !u.sentTo.contains src.val || u.acks.contains src.val then s
      else
        let v := { u with acks := u.acks ++ [src.val] }
        if v.acks.length = 2 then commitUpdate s uid v else putUpd s uid v)

/-- LOG_TMO_EXPIRE (R232). -/
def execLogTmoExpire (seq : Nat) (s : State) : Res :=
  match updOf s seq with
  | none => .next s
  | some (uid, u) => .next (if u.owner.isNone && u.st == .logging && logExpired s u then voidUpdate s uid else s)

/-- LOG_VOID (R232): a peer marks its copy and acknowledges. -/
def execLogVoid (src : Fin 64) (gen : Nat) (origin : Fin 64) (seq : Nat) (s : State) : Res :=
  .next (ctlGate s src.val 0 gen (.logVoid src gen origin seq) fun s =>
    sendUpd { s with epo.peerLog := markVoid s.epo.peerLog origin.val seq } (kLogVoid + 0x20) src.val 0 seq 0)

/-- LOG_VOID_ACK (R134, R232): the update is lost once every peer has acknowledged, or its owner has reported it lost. -/
def execLogVoidAck (src : Fin 64) (gen seq : Nat) (s : State) : Res :=
  .next (ctlGate s src.val 0 gen (.logVoidAck src gen seq) fun s =>
    match updOf s seq with
    | none => s
    | some (uid, u) =>
      if u.owner.isSome then loseUpdate s uid
      else if u.st == .voiding then voidCheck (putUpd s uid { u with voidAcks := u.voidAcks ++ [src.val] }) uid
      else s)

/-- A record of this node's log whose update is COMMITTED or further (R234). -/
def loggedRec (s : State) (seq : Nat) : Option (LogRec × Nat) :=
  if s.epo.updates.any fun kv => kv.2.owner.isNone && kv.2.lrec.seq == seq && (kv.2.st == .logging || kv.2.st == .voiding) then
    none
  else s.epo.log.find? fun r => r.1.seq == seq && !r.1.void

/-- LOG_FLASH_WRITE (R234). -/
def execLogFlashWrite (seq : Nat) (s : State) : Res :=
  match loggedRec s seq with
  | none => .next s
  | some r =>
    .next (if s.epo.flashLog.any fun x => x.1.seq == seq && x.1.origin == r.1.origin then s
      else { s with epo := { s.epo with
        flashLog := s.epo.flashLog ++ [r]
        updates := tmap s.epo.updates fun _ u => if u.owner.isNone && u.lrec.seq = seq then { u with onFlash := true } else u } })

/-- The records that a partition's checkpoint keeps (R235). -/
def untrimmed (p d : Nat) (l : List (LogRec × Nat)) : List (LogRec × Nat) :=
  l.filter fun r => r.2 != p || decide (d < r.1.epoch)

/-- A write of EPO_CKPT (R235, R253): by the partition itself or by the owner partition. -/
def startCheckpoint (s : State) (fn p d : Nat) : State :=
  let f := s.fn fn
  if !f.bound || !(f.part == p || f.owner) then s
  else if s.epo.closed < d || d ≤ tgetD s.epo.durable p 0 then epoErr s p 4
  else { s with epo.ckpt := tput s.epo.ckpt p d }

/-- CHECKPOINT (R235). -/
def execCheckpoint (fn : Fin 64) (part : Fin 32) (epoch : W64) (s : State) : Res :=
  .next (startCheckpoint s fn.val part.val epoch.toNat)

/-- Dirty tiles of a partition that are homed elsewhere than on flash (R235). -/
def dirtyTiles (s : State) (p : Nat) : List Nat :=
  (s.tier.dirty.map (·.1)).filter fun t => inPrange s p t 1 && flashBacked s t && (s.home t).tier != 3

/-- CHECKPOINT_DONE (R235): the write-backs are complete; a tile in a move is waited for. -/
def execCheckpointDone (part : Fin 32) (s : State) : Res :=
  let p := part.val
  match tget? s.epo.ckpt p with
  | none => .next s
  | some d =>
    let ts := dirtyTiles s p
    if ts.any fun t => (s.home t).st == .moving then .next s
    else
      let s1 := ts.foldl (fun x t =>
        { flashStore x (flashTileAddr x t) (homeRead x t 0 tileBytes) with tier.dirty := terase x.tier.dirty t }) s
      .next { s1 with epo := { s1.epo with
        ckpt := terase s1.epo.ckpt p, durable := tput s1.epo.durable p d
        log := untrimmed p d s1.epo.log, peerLog := untrimmed p d s1.epo.peerLog, flashLog := untrimmed p d s1.epo.flashLog } }

end Sys2Proof.Machine
end

