-- ==== Sys2Proof/Machine/Publish.lean ====
section
/-!
DEFINITION. Publication of an epoch's changes (R132, R134, R135, R239, R240) and replay of log records (R236).
-/
namespace Sys2Proof.Machine

/-- Appends an entry to the end of an IVF list and counts it (R105, R132). -/
def addListEntry (s : State) (d : IdxD) (part l slot : Nat) (code : List Byte) : State :=
  let (a, n) := listEntry s d l
  let s1 := ownWrite s part (a + n * listStride d) (slice code 0 d.codeBytes ++ leBytes 4 slot)
  ownWrite s1 part (d.ivfTile * tileBytes + 16 * l + 4) (leBytes 4 (n + 1))

/-- Publishes the edges of an insert: the reverse edges that were staged in its neighbours (R132). -/
def publishEdges (s : State) (i : Nat) (u : Update) : State :=
  u.edges.foldl (fun t e =>
    match tget? t.work.indexes i with
    | none => t
    | some x => addEdge t i x e.node (u.slot.getD 0) (handleGen u.lrec.handle % 4)) s

/-- The record of a published insert; PENDING is RFLAGS bit 0 (R106, R132). -/
def insertRec (u : Update) : RecD :=
  { gen := handleGen u.lrec.handle, tomb := false, rflags := if u.edgesDone then 0 else 1, norm := u.norm, code := u.code
    edges := u.nbrs.zip u.etags }

/-- Publishes an insert (R132, R239): its record, its list entry and the edges staged so far. -/
def publishInsert (s : State) (u : Update) : State :=
  let i := u.lrec.index
  match tget? s.work.indexes i, u.slot with
  | some x, some k =>
    let d := idxD x.desc
    let s1 := writeRecord s i x.part d k (insertRec u)
    let s2 := match u.list with
      | some l => addListEntry s1 d x.part l k u.code
      | none => s1
    if u.edgesDone then publishEdges s2 i u else count s2 u.part Ev.linkLate
  | _, _ => s

/-- A delete names a live slot of its generation (R134). -/
def deleteFits (s : State) (x : Index) (slot gen epoch : Nat) : Bool :=
  let (r, bad) := recRead s (idxD x.desc) slot
  (tget? x.used slot).isSome && decide (tgetD x.ins slot 0 ≤ epoch) && (tget? x.del slot).isNone && !bad && !recTomb r &&
    recGen r == gen

/-- Publishes a delete (R134, R135): TOMB and the change record, or DEL_STALE. -/
def publishDelete (s : State) (u : Update) (slot : Nat) : State :=
  let i := u.lrec.index
  let h := if u.lrec.kind = 2 then u.lrec.handle else u.lrec.oldHandle
  match tget? s.work.indexes i with
  | none => s
  | some x =>
    if deleteFits s x slot (handleGen h) u.lrec.epoch then
      let d := idxD x.desc
      let s1 := writeRecord s i x.part d slot { RecD.of (recRead s d slot).1 with tomb := true }
      setIndex s1 i { x with del := tput x.del slot u.lrec.epoch }
    else count s u.part Ev.delStale

/-- Updates in the order of their stamps, sequence numbers breaking ties (R236). -/
def updLe (a b : Nat × Update) : Bool :=
  decide (a.2.lrec.stamp < b.2.lrec.stamp) ||
    (a.2.lrec.stamp == b.2.lrec.stamp && decide (a.2.lrec.seq ≤ b.2.lrec.seq))

/-- Publishes one update of the closing epoch: both halves of an upsert together (R135, R227). An update without edge work left is
LINKED, and its context is free. -/
def publishOne (s : State) (kv : Nat × Update) : State :=
  let u := kv.2
  let s1 := match u.oldSlot with
    | some k => publishDelete s u k
    | none => s
  let s2 := publishInsert s1 u
  let linked := u.slot.isNone || u.edgesDone
  if linked then putUpd (freeUpdCtx s2 u) kv.1 { u with st := .linked, ctx := none } else putUpd s2 kv.1 { u with st := .published }

/-- Publishes the rest of an insert that was PENDING (R132): its edges, and PENDING is cleared. -/
def publishLate (s : State) (kv : Nat × Update) : State :=
  let u := kv.2
  match tget? s.work.indexes u.lrec.index, u.slot with
  | some x, some k =>
    let d := idxD x.desc
    let r := RecD.of (recRead s d k).1
    let s1 := writeRecord s u.lrec.index x.part d k { r with rflags := 0, edges := u.nbrs.zip u.etags }
    putUpd (freeUpdCtx (publishEdges s1 u.lrec.index u) u) kv.1 { u with st := .linked, ctx := none }
  | _, _ => putUpd (freeUpdCtx s u) kv.1 { u with st := .linked, ctx := none }

/-- PUBLISH (R239): the changes of the closing epoch, and edges that earlier epochs left. -/
def publish (s : State) : State :=
  let s0 : State := { s with epo.updates := tfilter s.epo.updates fun _ u => u.st != .linked }
  let late := s0.epo.updates.filter fun kv => kv.2.st == .published && kv.2.edgesDone
  let now_ := s0.epo.updates.filter fun kv => kv.2.st == .prepared && kv.2.owner.isNone && decide (kv.2.lrec.epoch ≤ s.epo.closing)
  (sortBy updLe now_).foldl publishOne (late.foldl publishLate s0)

/-- A record that replay skips (R236). -/
def replaySkips (s : State) (x : Index) (r : LogRec) : Bool :=
  let d := idxD x.desc
  let k := handleSlot r.handle
  let (b, _) := recRead s d k
  let filled := (tget? x.used k).isSome
  r.void || (if r.kind = 2 then !filled || recGen b != handleGen r.handle || recTomb b
    else (filled && !recTomb b && recGen b == handleGen r.handle) || decide (handleGen r.handle < recGen b))

/-- Applies one log record to the index (R236). -/
def replayRec (s : State) (part : Nat) (r : LogRec) : State :=
  match tget? s.work.indexes r.index with
  | none => count s part Ev.replaySkip
  | some x =>
    if replaySkips s x r then count s part Ev.replaySkip
    else
      let k := handleSlot r.handle
      let u : Update := { part := part, lrec := r, st := .prepared, slot := if r.kind = 2 then none else some k }
      let s1 := if r.kind = 2 then publishDelete s u k
        else if r.kind = 3 then publishDelete s u (handleSlot r.oldHandle) else s
      if r.kind = 2 then s1
      else
        match tget? s1.work.indexes r.index with
        | none => s1
        | some y =>
          let uid := s1.epo.nextUid
          let s2 := setIndex s1 r.index { y with used := tput y.used k true, ins := tput y.ins k r.epoch, del := terase y.del k }
          let s3 := prepare s2 y uid u
          let s4 := stageEdges s3 y uid (tgetD s3.epo.updates uid u)
          let s5 := publishInsert s4 (tgetD s4.epo.updates uid u)
          { s5 with epo.updates := terase s5.epo.updates uid }

/-- The order of replay (R236): epochs rising, then stamps, then sequence numbers. -/
def recLe (a b : LogRec) : Bool :=
  decide (a.epoch < b.epoch) || (a.epoch == b.epoch && (decide (a.stamp < b.stamp) ||
    (a.stamp == b.stamp && decide (a.seq ≤ b.seq))))

/-- Replays records in order. -/
def replayAll (s : State) (rs : List (LogRec × Nat)) : State :=
  (sortBy (fun a b => recLe a.1 b.1) rs).foldl (fun t r => replayRec t r.2 r.1) s

end Sys2Proof.Machine
end

