-- ==== Sys2Proof/Machine/Barrier.lean ====
section
/-!
DEFINITION. Barriers (R238, R405, R439): numbers 0 to 2 are B1 to B3 of a close, 3 is the rack start barrier.
-/
namespace Sys2Proof.Machine

def State.barrier (s : State) (b : Nat) : Barrier := tgetD s.epo.barriers b {}
def State.setBarrier (s : State) (b : Nat) (x : Barrier) : State := { s with epo.barriers := tput s.epo.barriers b x }

/-- The release instant is set once this node has armed and holds an ARM of every other member: BAR_LEAD after the latest arm
time (R238). -/
def barrierCheck (s : State) (b : Nat) : State :=
  let x := s.barrier b
  if !x.armed || x.release.isSome || (otherMembers s).any fun p => (tget? x.arms p).isNone then s
  else
    let members := (x.arms.filter fun kv => kv.1 = s.fab.node || bitOf s.mbr.members kv.1).map (·.2)
    let r := members.foldl Nat.max 0 + fld s.epo.cfg 15 0
    s.setBarrier b { x with release := some r, late := decide (r < s.now) }

/-- Sends this node's ARM to the other members (R238). -/
def sendArms (s : State) (b t : Nat) : State :=
  (otherMembers s).foldl (fun x p => sendControl x kArm p (leBytes 8 t) b) s

/-- Arms a barrier (R238). -/
def armBarrier (s : State) (b : Nat) : State :=
  let x := s.barrier b
  if x.armed then s
  else barrierCheck (sendArms (s.setBarrier b { x with armed := true, arms := tput x.arms s.fab.node s.now }) b s.now) b

/-- Barriers in progress as a map installs (R405): ARMs are sent again, with the install time as arm time. -/
def rearm (s : State) : State :=
  (List.range 4).foldl (fun t b =>
    let x := t.barrier b
    if x.release.isSome then t
    else if x.armed then sendArms (t.setBarrier b { x with arms := [(t.fab.node, t.now)] }) b t.now
    else t.setBarrier b { x with arms := [] }) s

/-- ARM (R238). -/
def takeArm (s : State) (src b t : Nat) : State :=
  let x := s.barrier b
  barrierCheck (s.setBarrier b { x with arms := tput x.arms src t }) b

/-- ARM (R238, R286): one of an older generation is dropped. -/
def execArm (src : Fin 64) (b : Fin 4) (t gen : Nat) (s : State) : Res :=
  .next (ctlGate s src.val 0 gen (.arm src b t gen) fun s => takeArm s src.val b.val t)

/-- The calibration reference: the member with the lowest position (R438); 0x3F without a map. -/
def calRef (s : State) : Nat := if s.mbr.st == .member || s.mbr.st == .held then (bitsSet 64 s.mbr.members).headD 0x3F else 0x3F

/-- Calibration starts anew against a reference that has changed (R438). -/
def recal (s : State) : State :=
  let r := calRef s
  if r = s.pkg.tim.ref then s
  else { s with pkg := { s.pkg with tim := { s.pkg.tim with ref := r, streak := 0, cal := if r = 0x3F then 0 else 1 } } }

/-- The rack start barrier is armed once a map includes the node, its counter is calibrated and its recovery has ended
(R439). -/
def tryStartArm (s : State) : State :=
  if s.mbr.st == .member && s.pkg.sec.recovered && s.pkg.tim.cal == 2 && !s.pkg.sec.epochs && !(s.barrier 3).armed then
    armBarrier { s with pkg.sec.startArmed := true } 3
  else s

end Sys2Proof.Machine
end

