-- ==== Sys2Proof/Machine/Control.lean ====
section
/-!
DEFINITION. Control operations and invocations at the units (R82, R83, R84, R98).
-/
namespace Sys2Proof.Machine

/-- A signed word offset of OPA. -/
def offsetOf (w : Nat) : Int := sext 16 (wA w)

/-- The word a jump leads to; beyond the list it starts again at word 0 (R83). -/
def jumpTo (len : Nat) (target : Int) : Nat := if 0 ≤ target ∧ target < len then target.toNat else 0

/-- CTRL_NOP (R82): nothing; tokens still apply. -/
def execCtrlNop (c : Fin 128) (u : Fin 4) (s : State) : Res := .next (issueNow s c.val u.val 0xF0 fun _ t => some t)

/-- JMP (R82). -/
def execJmp (c : Fin 128) (u : Fin 4) (s : State) : Res :=
  .next (issue s c.val u.val 0xF1 fun w t =>
    let x := t.cl c.val
    some (retireTo t c.val u.val (jumpTo (x.list u.val).length (((x.unit u.val).pc : Int) + offsetOf w))))

/-- LOOP (R82): the words from word OPA of the list to this one are repeated OPD times; a fifth nesting level has no
effect. -/
def execLoop (c : Fin 128) (u : Fin 4) (s : State) : Res :=
  .next (issue s c.val u.val 0xF2 fun w t =>
    let x := t.cl c.val
    let y := x.unit u.val
    let len := (x.list u.val).length
    let go (ls : List (Nat × Nat)) (pc : Nat) : State :=
      retireTo (t.setCl c.val (x.setUnit u.val { y with loops := ls })) c.val u.val pc
    let on := nextPc len y.pc
    let back := jumpTo len (wA w)
    match y.loops with
    | (e, left) :: rest =>
      if e = y.pc then (if left = 0 then some (go rest on) else some (go ((e, left - 1) :: rest) back))
      else if wD w = 0 || 4 ≤ y.loops.length then some (go y.loops on)
      else some (go ((y.pc, wD w - 1) :: y.loops) back)
    | [] => if wD w = 0 then some (go [] on) else some (go [(y.pc, wD w - 1)] back))

/-- FENCEM (R82): every memory access the unit issued has completed. -/
def execFencem (c : Fin 128) (u : Fin 4) (s : State) : Res :=
  .next (issueNow s c.val u.val 0xF3 fun _ t => if ((t.cl c.val).unit u.val).pending = 0 then some t else none)

/-- CBAR (R82): the unit waits at barrier OPA. -/
def execCbar (c : Fin 128) (u : Fin 4) (s : State) : Res :=
  .next (issue s c.val u.val 0xF4 fun w t => some (setWait t c.val u.val (.cbar (wA w))))

/-- The clusters that run a role of a plan. -/
def roleClusters (s : State) (slot role : Nat) : List Nat :=
  match (tgetD s.work.plans slot {}).bin.roles.find? fun r => r.role = role with
  | some r => r.clusters
  | none => []

/-- CBAR_RELEASE (R82): every logical cluster of the role has reached the barrier. -/
def execCbarRelease (slot : Fin 256) (role : Fin 128) (b : Fin 8) (s : State) : Res :=
  let cs := roleClusters s slot.val role.val
  let at_ (c : Nat) : Bool := (List.range 4).any fun u => ((s.cl c).unit u).wait == .cbar b.val
  if cs.isEmpty || !cs.all at_ then .next s
  else .next (cs.foldl (fun t c => (List.range 4).foldl (fun y u => resume y c u (.cbar b.val)) t) s)

/-- TWAIT (R82): the unit waits until the time counter reaches invocation word OPA. -/
def execTwait (c : Fin 128) (u : Fin 4) (s : State) : Res :=
  .next (issue s c.val u.val 0xF5 fun w t =>
    let at_ := invWord t c.val u.val (wA w)
    if at_ ≤ t.now then some (retire t c.val u.val) else some (setWait t c.val u.val (.twait at_)))

/-- TWAIT_EXPIRE (R40, R82). -/
def execTwaitExpire (c : Fin 128) (u : Fin 4) (s : State) : Res :=
  match ((s.cl c.val).unit u.val).wait with
  | .twait t => .next (if t ≤ s.now then resume s c.val u.val (.twait t) else s)
  | _ => .next s

/-- The plan that a cluster runs is unloading. -/
def clUnloading (s : State) (x : Cluster) : Bool :=
  match x.plan with
  | some slot => (tgetD s.work.plans slot {}).state == PlanState.unloading
  | none => false

/-- The first invocation at or behind place `k` of a cluster's input that has not ended. Under an unload only one that a unit
of the cluster has taken already goes on (R91). -/
def nextInput (s : State) (x : Cluster) (k : Nat) : Option (Nat × Nat × Inv) :=
  let upto := if clUnloading s x then (List.range 4).foldl (fun m u => max m (x.unit u).taken) 0 else x.input.length
  (List.range (upto - k)).findSome? fun j =>
    match x.input[k + j]? with
    | none => none
    | some i => (tget? s.work.invs i).map fun v => (k + j, i, v)

/-- A unit takes the invocation at a place of its cluster's input (R80, R83): its words are loaded; the first unit to take it
zeroes the tokens and starts the invocation's draws anew. -/
def takeInv (s : State) (c u k i : Nat) (v : Inv) : State :=
  let x := s.cl c
  let first := (List.range 4).all fun o => decide ((x.unit o).taken ≤ k)
  let x1 := if first then { x with tokens := [], draws := [] } else x
  let y := { x1.unit u with taken := k + 1, inv := some i, words := v.words, wait := .none }
  retire (s.setCl c (x1.setUnit u y)) c u

/-- NEXT at a unit (R83): the invocation it worked on is behind it; it takes the next one, or idles. -/
def nextOp (s : State) (c u : Nat) : State :=
  let x := s.cl c
  let y := x.unit u
  match nextInput s x y.taken with
  | some (k, i, v) => checkDone (takeInv s c u k i v) c
  | none =>
    let taken := if clUnloading s x then y.taken else x.input.length
    checkDone (s.setCl c (x.setUnit u { y with inv := none, wait := .next, taken := taken })) c

/-- A role has ended on a cluster (R83): it leaves the role's set, and work it had not taken ends refused. -/
def endRole (s : State) (c : Nat) : State :=
  let x := s.cl c
  match x.plan with
  | none => s
  | some slot =>
    let without (r : RoleEnt) : RoleEnt := { r with clusters := r.clusters.filter (· != c) }
    let s1 := { s with work.plans := tupd s.work.plans slot fun p =>
      { p with bin := { p.bin with roles := p.bin.roles.map without } } }
    let s2 := s1.setCl c { (s1.cl c).clearUnits with st := .idle }
    ((s2.work.invs.filter fun kv => kv.2.left.contains c).map (·.1)).foldl (fun t i =>
      match tget? t.work.invs i with
      | none => t
      | some v =>
        let left := v.left.filter (· != c)
        if left.isEmpty then endWork t i (refusal rsQuiesce)
        else { t with work.invs := tput t.work.invs i { v with left := left } }) s2

/-- A unit stands at NEXT or has halted, or its list is empty. -/
def atNext (x : Cluster) (u : Nat) : Bool :=
  let y := x.unit u
  (x.list u).isEmpty || y.halted || y.wait == .next ||
    (match x.word u with
      | some w => wOp w == 0xF8
      | none => false)

/-- The role ends on a cluster once one list has halted and the others have reached NEXT or HALT (R83). -/
def haltDone (s : State) (c : Nat) : State :=
  let x := s.cl c
  if (List.range 4).any (fun u => (x.unit u).halted) && (List.range 4).all (atNext x) then endRole s c else s

/-- NEXT (R82, R83). -/
def execNext (c : Fin 128) (u : Fin 4) (s : State) : Res :=
  let x := s.cl c.val
  if (x.unit u.val).wait == .next then
    .next (if x.st == .running || x.st == .draining then haltDone (nextOp s c.val u.val) c.val else s)
  else .next (haltDone (issue s c.val u.val 0xF8 fun _ t => some (nextOp t c.val u.val)) c.val)

/-- HALT (R82, R83). -/
def execHalt (c : Fin 128) (u : Fin 4) (s : State) : Res :=
  .next (haltDone (issue s c.val u.val 0xFF fun _ t =>
    let x := t.cl c.val
    let y := x.unit u.val
    let t1 := retire t c.val u.val
    let x1 := t1.cl c.val
    some (checkDone (t1.setCl c.val (x1.setUnit u.val { x1.unit u.val with pc := y.pc, inv := none, halted := true }))
      c.val)) c.val)

/-- The clusters that an invocation goes to (R83): all of the role for an INVOKE, the one with the shortest input for a
query. -/
def placeInv (s : State) (v : Inv) : List Nat :=
  let cs := roleClusters s v.plan v.role
  if v.qid.isNone then cs
  else
    match leastBy (fun a b => decide ((s.cl a).input.length < (s.cl b).input.length)) cs with
    | some c => [c]
    | none => []

/-- An invocation enters the input queues of its clusters. -/
def enterInv (s : State) (i : Nat) (v : Inv) : State :=
  let cs := placeInv s v
  cs.foldl (fun t c => t.setCl c { t.cl c with input := (t.cl c).input ++ [i] })
    { s with work.invs := tput s.work.invs i { v with state := .running, left := cs } }

/-- INVOCATION_ARRIVE (R83): the invocations on their way to a role enter its input queues, in order. -/
def execInvocationArrive (slot : Fin 256) (role : Fin 128) (s : State) : Res :=
  let here := s.work.invs.filter fun kv => kv.2.plan = slot.val && kv.2.role = role.val && kv.2.state == .arriving
  if (roleClusters s slot.val role.val).isEmpty then .next s
  else .next (here.foldl (fun t kv => enterInv t kv.1 kv.2) s)

end Sys2Proof.Machine
end

