-- ==== Sys2Proof/Machine/Counters.lean ====
section
/-!
DEFINITION. Dumps of the counters (R451, R452).
-/
namespace Sys2Proof.Machine

/-- A cluster runs a role of a plan (R48, R453). -/
def clRuns (x : Cluster) : Bool :=
  x.plan.isSome && (x.st == .clearing || x.st == .loading || x.st == .running || x.st == .draining)

/-- A cluster runs a role of a partition. -/
def clRunsFor (s : State) (c p : Nat) : Bool := clRuns (s.cl c) && (s.cl c).part == p

/-- A 16-byte record of a dump (R452): source, event, LEVEL of the selection, and the counter. -/
def dumpRec (src ev : Nat) (level : Bool) (ctr : W64) : List Byte :=
  leBytes 2 src ++ leBytes 2 ev ++ leBytes 2 (b2n (flag ctr 48) + 2 * b2n level) ++ leBytes 2 0 ++ leBytes 8 (fld ctr 47 0)

/-- Records of the enabled counters of a table of selections, keys `lo` to `lo + n`. -/
def selRecs (sels ctrs : Tab W64) (src lo n : Nat) : List (List Byte) :=
  (List.range n).filterMap fun i =>
    let sel := tgetD sels (lo + i) selReset
    if flag sel 63 then some (dumpRec (src + i) (fld sel 15 0) (flag sel 62) (tgetD ctrs (lo + i) 0)) else none

/-- The records of a dump (R451): the partition's enabled counters, then those of every cluster that runs one of its roles. -/
def dumpRecs (s : State) (p : Nat) : List (List Byte) :=
  let m := s.pmc
  selRecs m.psel m.pctr 0x8000 (p * 32) 32 ++
    ((List.range 128).filter fun c => clRunsFor s c p).flatMap fun c =>
      selRecs m.csel m.cctr (c * 256) (c * 8) 8 ++
        (List.range 4).map fun k => dumpRec (c * 256 + 8 + k) (0x0100 + k) false (tgetD m.cfix (c * 4 + k) 0)

/-- The 64-byte header of dump `n` (R452): PHASE is 1 on the first lap and inverted on each later one. -/
def dumpHead (n time records p log : Nat) : List Byte :=
  leBytes 8 n ++ leBytes 8 time ++ leBytes 4 records ++ leBytes 4 0 ++ leBytes 1 p ++
    leBytes 1 (b2n ((n - 1) / 2 ^ log % 2 == 0)) ++ List.replicate 38 0

/-- Latch period in ns (R451, R456). -/
def dumpPeriod (d : Dump) : Nat := max 1 (fld d.cfg 63 48) * 100000

/-- Slots of a dump ring, as a power of two (R456). -/
def dumpLog (d : Dump) : Nat := min 10 (fld d.cfg 43 40)

/-- The writes of a dump through the partition's ACTIVE function (R451): records, header, then the vector. -/
def writeDump (s : State) (p f n : Nat) (d : Dump) : State :=
  let recs := dumpRecs s p
  let gen := (s.fn f).gen
  let at_ := d.base.toNat + (n - 1) % 2 ^ dumpLog d * 32768
  let s1 := if recs.isEmpty then s else hostWrite s f gen (at_ + 64) (recs.flatMap id)
  let s2 := hostWrite s1 f gen at_ (dumpHead n s.now recs.length p (dumpLog d))
  if flag d.cfg 1 && canWrite s f gen then sendMsix s2 f (fld d.cfg 31 20) else s2

/-- DUMP_LATCH (R451, R452, R456): at each multiple of PERIOD × 100 µs. A dump's writes finish at once in the model, so no latch
is skipped. While the link is down the writes are dropped, and LOST is set. -/
def execDumpLatch (part : Fin 32) (s : State) : Res :=
  let p := part.val
  let d := tgetD s.pmc.dumps p {}
  if !flag d.cfg 0 || s.now % dumpPeriod d != 0 || d.lastT == some s.now then .next s
  else
    match activeFn s p with
    | none => .next s
    | some f =>
      let n := d.n + 1
      let sent := canWrite s f (s.fn f).gen
      let d1 : Dump := { d with
        n := n, lastT := some s.now, seq := if sent then n else d.seq, lost := d.lost || !(s.pcie f).up }
      .next (writeDump { s with pmc.dumps := tput s.pmc.dumps p d1 } p f n d1)

end Sys2Proof.Machine
end

