-- ==== Sys2Proof/Machine/Member.lean ====
section
/-!
DEFINITION. The rack map: managers, election and replication, formation, leases, expulsion, fencing by generation, jobs,
stragglers, and the rebuild of a lost shard (R399 to R408).
-/
namespace Sys2Proof.Machine

/-- This node is a manager; a number of managers is a majority of the named set (R399). -/
def isMgr (s : State) : Bool := s.mbr.mgrs.contains s.fab.node
def majority (s : State) (n : Nat) : Bool := decide (s.mbr.mgrs.length < 2 * n)

/-- Sets a bit of MBR_ERR (R412). -/
def mbrErr (s : State) (bit : Nat) : State := { s with mbr.err := s.mbr.err ||| BitVec.ofNat 64 (2 ^ bit) }

/-- The installed map. -/
def mapOf (s : State) : RackMap :=
  { gen := s.mbr.gen, job := s.mbr.job, members := s.mbr.members, spares := s.mbr.spares, roles := s.mbr.roles
    idents := s.mbr.idents, hosts := s.mbr.nextHosts.foldl (fun t kv => tput t kv.1 kv.2) s.mbr.hosts, mgrs := s.mbr.mgrs
    restart := if s.mbr.jobCtl = 0 then none else some s.mbr.jobCtl }

/-- The bytes of a map in a message. -/
def mapBytes (m : RackMap) : List Byte :=
  leBytes 4 m.gen ++ leBytes 4 m.job ++ leBytes 8 m.members ++ leBytes 8 m.spares ++ leBytes 8 (m.restart.getD 0) ++
    (List.range 64).flatMap (fun i => leBytes 1 (((m.hosts.find? fun x => x.1 = i).map (·.2)).getD 0xFF)) ++
    (List.range 7).flatMap (fun i => leBytes 1 (m.mgrs.getD i 0x3F)) ++
    m.roles.flatMap (fun x => leBytes 1 x.1 ++ leBytes 1 x.2) ++ m.idents.flatMap (fun x => leBytes 1 x.1 ++ leBytes 64 x.2)

/-- What a role command at another node still has to do with the packets of a departed one: requests to it end (R214, R289,
R298), and its records of bursts and fixed streams go. -/
def dropNode (s : State) (pos : Nat) : State :=
  let s1 := { s with fab.rx := terase s.fab.rx pos }
  s1.fab.reqs.foldl (fun t kv =>
    match tget? t.fab.reqs kv.1 with
    | none => t
    | some r =>
      if r.kind = kInval then
        let wp := ofBits ((bitsSet 64 r.waitPos).filter (· != pos))
        let t1 := { t with fab.reqs := tput t.fab.reqs kv.1 { r with waitPos := wp } }
        if r.waitPos ≠ wp && wp = 0 && r.waitEp.isEmpty then completeReq t1 kv.1 stOk [] else t1
      else if nodeOf r.dst ≠ pos then t
      else completeReq t kv.1 (if r.kind = kLoad || r.kind = kGet then stPoisoned else stFenced) []) s1

/-- Copies of an INVAL that this node sent on no longer wait for a departed node (R298). -/
def dropRelays (s : State) (pos : Nat) : State :=
  let upd := s.fab.relays.map fun r => { r with waitPos := ofBits ((bitsSet 64 r.waitPos).filter (· != pos)) }
  let done := upd.filter fun r => r.waitPos = 0 && r.waitEp.isEmpty
  done.foldl (fun t r => sendPkt t { kind := 0x24, dst := r.src, src := t.fab.node, part := 0, tag := r.tag })
    { s with fab.relays := upd.filter fun r => !(r.waitPos = 0 && r.waitEp.isEmpty) }

/-- Collectives and query merges that count a departed node among their contributors, or have it as root, learn of it at once
(R325). -/
def dropRanks (s : State) (pos : Nat) : State :=
  let v := shardOf s pos
  s.fab.colls.foldl (fun t kv =>
    match tget? t.fab.colls kv.1 with
    | none => t
    | some c =>
      let x := if c.qid.isSome then v else pos
      if bitOf c.mask x then loseRanks t kv.1 (2 ^ rankOf c.mask x) else t) s

/-- VXCHGs that contribute to a root that has left the map end with FENCED (R325). -/
def dropRoot (s : State) (pos : Nat) : State :=
  s.work.clusters.foldl (fun t kv =>
    let c := kv.1
    let x := t.cl c
    let w := (x.word 1).getD 0
    let root := match x.plan.bind (tget? t.work.plans) with
      | some p => (descAt p (wB w)).map (·.root)
      | none => none
    if (x.unit 1).wait == .xchg && root == some pos then failInv t c 1 stFenced else t) s

/-- Log peers that have left the map are replaced by the next candidates, which receive every untrimmed record (R233). -/
def newPeers (s : State) : State :=
  let stays := s.epo.peers.filter fun p => bitOf s.mbr.members p
  let n := s.epo.peers.length - stays.length
  let cands := s.epo.candidates.filter fun p => bitOf s.mbr.members p
  let got := cands.take n
  let s1 := { s with epo := { s.epo with peers := stays ++ got, candidates := cands.drop n } }
  got.foldl (fun t p => s.epo.log.foldl (fun u r => sendLog u r.2 r.1 p) t) s1

/-- Records whose voiding no longer waits for a departed peer end (R232). -/
def settleVoids (s : State) : State := s.epo.updates.foldl (fun t kv => voidCheck t kv.1) s

/-- Control messages held for a generation that is now installed run; those older than GEN_HOLD are dropped (R286). -/
def replayCtl (s : State) : State :=
  let held := s.fab.ctlHold
  held.foldl (fun t x =>
    if x.1 + fld t.fab.cfg 31 24 * 10000 ≤ t.now then countNode t Ev.genAhead
    else
      let r : Res := match x.2 with
        | .arm src b at_ gen => execArm src b at_ gen t
        | .log src gen part rec_ => execLog src gen part rec_ t
        | .logAck src gen seq h => execLogAck src gen seq h t
        | .logVoid src gen origin seq => execLogVoid src gen origin seq t
        | .logVoidAck src gen seq => execLogVoidAck src gen seq t
        | _ => .next t
      match r with
      | .next u => u
      | _ => t) { s with fab.ctlHold := [] }

/-- Packets held for a generation that is now installed are taken up (R286). -/
def releaseHeld (s : State) : State :=
  let go := s.fab.genHold.filter fun kv => decide (kv.2.p.gen ≤ s.mbr.gen)
  { s with fab := { s.fab with
      genHold := tfilter s.fab.genHold fun _ h => !decide (h.p.gen ≤ s.mbr.gen)
      ready := s.fab.ready ++ go.map fun kv => (kv.2.port, kv.2.p) } }

/-- Host entries of a map (R399, R408): the first map's are in force at once, and so is the loss of a host; a new host is in force
from the next B3 release. -/
def takeHosts (s : State) (m : RackMap) : State :=
  if s.mbr.gen = 0 then { s with mbr.hosts := m.hosts.foldl (fun t x => tput t x.1 x.2) [], mbr.nextHosts := [] }
  else
    let gone := m.hosts.filter fun x => x.2 = 0xFF
    let new := m.hosts.filter fun x => x.2 ≠ 0xFF && tget? s.mbr.hosts x.1 != some x.2
    { s with
      mbr.hosts := gone.foldl (fun t x => tput t x.1 x.2) s.mbr.hosts
      mbr.nextHosts := new.foldl (fun t x => tput t x.1 x.2) [] }

/-- The node becomes a member, or stays what it is (R401, R439). One that joins a running rack takes up epochs at once, from the
epoch of its install time. -/
def join (s : State) : State :=
  let late := s.mbr.st == .pending || s.mbr.st == .rejoinWait
  match s.mbr.st with
  | .member | .held => s
  | _ =>
    let s1 := { s with mbr := { s.mbr with st := .member, pos := s.fab.node, leaseT := some s.now } }
    if late then
      let e := epochOf s s.now - 1
      { s1 with pkg.sec.epochs := true, epo := { s1.epo with closed := e, oldest := e - 7, closeT := s.now, phase := .idle
                                                             barriers := [] } }
    else s1

/-- Installs a map that includes this node (R238, R286, R399, R405). -/
def installMap (s : State) (m : RackMap) : State :=
  let left := (bitsSet 64 s.mbr.members).filter fun p => !bitOf m.members p && p != s.fab.node
  let s1 := left.foldl (fun t p => dropRoot (dropRanks (dropRelays (dropNode (loseLender t p) p) p) p) p) s
  let s2 := takeHosts s1 m
  let heard := (bitsSet 64 m.members).foldl (fun t p => if bitOf s.mbr.members p then t else tput t p s.now) s2.mbr.heard
  let s3 := { s2 with mbr := { s2.mbr with
    gen := m.gen, job := m.job, members := m.members, spares := m.spares, mgrs := m.mgrs
    roles := m.roles.foldl (fun t x => tput t x.1 x.2) [], idents := m.idents.foldl (fun t x => tput t x.1 x.2) []
    jobCtl := m.restart.getD 0, heard := heard
    silence := tfilter s2.mbr.silence fun k _ => bitOf m.members (k / 64)
    silent := tfilter s2.mbr.silent fun k _ => bitOf m.members k
    joins := s2.mbr.joins.filter fun p => !bitOf m.members p } }
  let s4 := rearm (settleVoids (newPeers (join s3)))
  let s5 := (List.range 4).foldl barrierCheck s4
  tryStartArm (replayCtl (releaseHeld (recal s5)))

/-- Tiles that are not flash-backed become UNMAPPED, with the places they hold; a sealed tile, which stays PINNED in its frame
(R207), loses its bytes (R405). -/
def dropTiles (s : State) : State :=
  let gone := (s.tier.home.map (·.1)).filter fun t => !flashBacked s t && (sealedBy s t).isNone
  let kept := (s.tier.home.map (·.1)).filter fun t => (sealedBy s t).isSome
  let s0 := kept.foldl (fun (x : State) t => { x with tier.mem := mclear x.tier.mem (t * tileBytes) tileBytes }) s
  gone.foldl (fun x t =>
    let h := x.home t
    let x1 : State := { x with tier := { x.tier with
      home := terase x.tier.home t, moves := terase x.tier.moves t, pins := terase x.tier.pins t
      moveWait := x.tier.moveWait.filter fun w => w.1 != t
      mem := mclear x.tier.mem (t * tileBytes) tileBytes } }
    freePlace x1 { tile := t, tier := h.tier, loc := h.loc, until_ := x.now }) s0

/-- HELLO to every manager (R400, R401). -/
def sendHello (s : State) : State :=
  let b := leBytes 1 s.fab.node ++ leBytes 64 s.pkg.sec.idDig.toNat ++ leBytes 64 s.pkg.sec.starterDig.toNat ++
    leBytes 1 (fld s.epo.cfg 39 32)
  (s.mbr.mgrs.filter (· != s.fab.node)).foldl (fun t p => sendMbr t p 0x01 b) { s with mbr.lastHello := s.now }

/-- REJOIN_WAIT (R405): the node has learnt that it is expelled. -/
def rejoinWait (s : State) : State :=
  let s1 := endAllWork s
  let s2 := (s1.work.plans.map (·.1)).foldl releasePlan s1
  let s3 := dropTiles { s2 with
    work := { s2.work with indexes := [], tables := [] }
    epo := { s2.epo with updates := [], log := [], peerLog := [], flashLog := [], phase := .idle, barriers := [] } }
  sendHello (mbrErr (recal { s3 with mbr := { s3.mbr with st := .rejoinWait, leading := false, joins := [], prop := none, propQ := [] } }) 1)

/-- A newer map is known (R399, R405): a member that it does not include is expelled. -/
def takeMap (s : State) (m : RackMap) : State :=
  if m.gen ≤ s.mbr.gen then s
  else if bitOf m.members s.fab.node then installMap s m
  else if s.mbr.st == .member || s.mbr.st == .held then rejoinWait s
  else s

/-- REJECT (R301, R325, R405): with a newer generation, the map that a manager gives is checked; otherwise it refuses a forwarded
query, whose rank is then absent. -/
def execReject (port : Fin 32) (p : Packet) (answer : Option RackMap) (s : State) : Res :=
  .next (receive s port.val kReject p fun p s =>
    if s.mbr.gen < p.gen then (true, (answer.map (takeMap s)).getD s)
    else
      match mergeOf s (p.addr % 2 ^ 52) with
      | none => (true, s)
      | some (key, _, q) =>
        let mask := mergeMask q.desc (ownShard s)
        let v := shardOf s p.src
        (true, if p.addr / 2 ^ 52 = p.src && bitOf mask v then loseRanks s key (2 ^ rankOf mask v) else s))

/-- The latest map that the leader has proposed or installed. -/
def latestMap (s : State) : RackMap :=
  match s.mbr.propQ.getLast?, s.mbr.prop with
  | some m, _ => m
  | none, some p => p.map_
  | none, none => mapOf s

/-- A manager writes a map (R399): to its stacks, and to its flash log. -/
def writeMap (s : State) (m : RackMap) : State :=
  { s with mbr := { s.mbr with written := some m, flashGen := max s.mbr.flashGen m.gen, flashJob := max s.mbr.flashJob m.job } }

/-- The leader starts to replicate a change (R399). -/
def startProp (s : State) (m : RackMap) : State :=
  let s1 := writeMap { s with mbr.prop := some { map_ := m, acks := [s.fab.node] } } m
  (s.mbr.mgrs.filter (· != s.fab.node)).foldl (fun t p => sendMbr t p 0x06 (leBytes 8 t.mbr.mterm ++ mapBytes m)) s1

/-- Proposes a change of the map; each adds 1 to the generation (R399). -/
def propose (s : State) (f : RackMap → RackMap) : State :=
  let l := latestMap s
  let m := { f l with gen := l.gen + 1 }
  if s.mbr.prop.isSome then { s with mbr.propQ := s.mbr.propQ ++ [m] } else startProp s m

/-- A change is committed (R399): COMMIT goes to every member, and the leader installs it too. -/
def commitMap (s : State) (m : RackMap) : State :=
  let s1 := { s with mbr.prop := none }
  let s2 := ((bitsSet 64 m.members).filter (· != s.fab.node)).foldl (fun t p => sendMbr t p 0x08 (mapBytes m)) s1
  let s3 := takeMap s2 m
  match s3.mbr.propQ with
  | [] => s3
  | n :: rest => if s3.mbr.leading then startProp { s3 with mbr.propQ := rest } n else s3

/-- Expels a member (R404): its host entries become 0xFF. -/
def expelFrom (pos : Nat) (m : RackMap) : RackMap :=
  let drop (x : Nat) : Nat := ofBits ((bitsSet 64 x).filter (· != pos))
  { m with members := drop m.members, spares := drop m.spares, roles := m.roles.filter fun x => x.1 != pos
           idents := m.idents.filter fun x => x.1 != pos
           hosts := m.hosts.map fun x => if x.2 = pos then (x.1, 0xFF) else x }

/-- Nodes join as spares with a new job (R406). -/
def joinTo (ps : List Nat) (ids : Tab Nat) (m : RackMap) : RackMap :=
  let new := ps.filter fun p => !bitOf m.members p
  { m with members := ofBits (bitsSet 64 m.members ++ new), spares := ofBits (bitsSet 64 m.spares ++ new), job := m.job + 1
           idents := m.idents ++ new.map (fun p => (p, tgetD ids p 0)), roles := m.roles ++ new.map (fun p => (p, 0))
           restart := none }

/-- The first map of the run (R402). -/
def firstMap (s : State) : RackMap :=
  let ps := s.mbr.hellos.map (·.1)
  { gen := s.mbr.foundGen + 1, job := s.mbr.foundJob + 1, members := ofBits ps, spares := 0, roles := ps.map fun p => (p, 0)
    idents := s.mbr.hellos, hosts := (List.range 64).map fun p => (p, if ps.contains p then p else 0xFF), mgrs := s.mbr.mgrs
    restart := none }

/-- A leader without a map: it commits the first one (R402). -/
def forming (s : State) : Bool := s.mbr.leading && s.mbr.gen = 0 && s.mbr.written.isNone && s.mbr.prop.isNone
def formMap (s : State) : State := if forming s then startProp s (firstMap s) else s
/-- Every expected position has sent HELLO (R402). -/
def checkForm (s : State) : State :=
  if (bitsSet 64 s.mbr.expect.toNat).all fun p => (tget? s.mbr.hellos p).isSome then formMap s else s

/-- A HELLO is accepted (R401). -/
def helloOk (s : State) (m : HelloMsg) : Bool :=
  m.identity.isSome && m.rackId == s.fab.rackId && m.period == fld s.epo.cfg 39 32

/-- The leader takes a position's HELLO (R401, R402, R404): towards the first map, as a join, or as a sign that a member has
restarted. -/
def leaderHello (s : State) (pos : Nat) : State :=
  if !s.mbr.leading then s
  else if s.mbr.gen = 0 && s.mbr.written.isNone then checkForm s
  else
    let s1 := { s with mbr.joins := s.mbr.joins.filter (· != pos) ++ [pos] }
    if bitOf (latestMap s).members pos then propose s1 (expelFrom pos) else s1

/-- HELLO (R401, R402, R404). -/
def execHello (pos : Fin 64) (msg : HelloMsg) (s : State) : Res :=
  if !isMgr s || !helloOk s msg then .next s
  else .next (leaderHello { s with mbr.hellos := tput s.mbr.hellos pos.val (msg.identity.getD 0) } pos.val)

/-- The node sends no membership traffic: it is stopped, unlocked, in reset or in a fault (R398, R434, R440). -/
def silentNode (s : State) : Bool :=
  s.pkg.sec.stop == .stopped || s.pkg.sec.testOpen || s.pkg.pwr.inReset || s.err.fault

/-- HELLO_TIMER (R401, R415): every 10 ms until the node is a member, once its recovery has ended. -/
def execHelloTimer (s : State) : Res :=
  let waiting := s.mbr.st == .alone || s.mbr.st == .pending || s.mbr.st == .rejoinWait
  if !waiting || !s.pkg.sec.recovered || silentNode s || decide (s.now < s.mbr.lastHello + 10000000) then .next s
  else
    let s1 := sendHello s
    let hasId := s1.pkg.sec.id == .ok || s1.pkg.sec.id == .uncertified
    if isMgr s1 && hasId then
      .next (leaderHello { s1 with mbr.hellos := tput s1.mbr.hellos s1.fab.node s1.pkg.sec.idDig.toNat } s1.fab.node)
    else .next s1

/-- HEARTBEAT (R399, R403, R404): a manager notes it and answers; a leader is heard by it. -/
def execHeartbeat (pos : Fin 64) (t : Nat) (s : State) : Res :=
  if !isMgr s then .next s
  else
    let s1 := { s with mbr := { s.mbr with
      heard := tput s.mbr.heard pos.val s.now, silent := terase s.mbr.silent pos.val
      leaderT := if s.mbr.leader = pos.val then s.now else s.mbr.leaderT } }
    .next (sendMbr s1 pos.val 0x03 (leBytes 4 s1.mbr.gen ++ leBytes 8 t))

/-- The send time of the latest heartbeat that a majority of the managers have acknowledged (R403). -/
def leaseStart (s : State) : Option Nat :=
  let ts := s.mbr.mgrs.filterMap fun m => tget? s.mbr.acked m
  let need := s.mbr.mgrs.length / 2 + 1
  (sortBy (fun a b => decide (b ≤ a)) ts)[need - 1]?

/-- A lease that a majority has renewed (R403): a HELD node whose lease runs again is a member again. -/
def renewLease (s : State) : State :=
  match leaseStart s with
  | none => s
  | some t =>
    let lease := max t (s.mbr.leaseT.getD 0)
    let back := s.mbr.st == .held && decide (s.now < lease + fld s.mbr.cfg 31 24 * 1000000)
    { s with mbr := { s.mbr with leaseT := some lease, st := if back then .member else s.mbr.st } }

/-- HEARTBEAT_TIMER (R400, R403). -/
def execHeartbeatTimer (s : State) : Res :=
  if silentNode s || 64 ≤ s.fab.node || s.mbr.mgrs.isEmpty || !s.pkg.sec.recovered ||
      decide (s.now < s.mbr.lastBeat + 1000000) then .next s
  else
    let s1 := (s.mbr.mgrs.filter (· != s.fab.node)).foldl (fun t p => sendMbr t p 0x02 (leBytes 8 t.now))
      { s with mbr.lastBeat := s.now }
    if isMgr s1 then
      .next (renewLease { s1 with mbr := { s1.mbr with
        acked := tput s1.mbr.acked s1.fab.node s1.now
        leaderT := if s1.mbr.leading then s1.now else s1.mbr.leaderT } })
    else .next s1

/-- HB_ACK (R401, R403): it renews the lease on a majority; a node that waits to join learns that the rack has a map. -/
def execHbAck (pos : Fin 64) (gen t : Nat) (s : State) : Res :=
  if !s.mbr.mgrs.contains pos.val then .next s
  else
    let s1 := { s with mbr.acked := tput s.mbr.acked pos.val (max t (tgetD s.mbr.acked pos.val 0)) }
    let hasId := s1.pkg.sec.id == .ok || s1.pkg.sec.id == .uncertified
    if s1.mbr.st == .alone && gen ≠ 0 && s1.mbr.lastHello ≠ 0 && hasId then .next { s1 with mbr.st := .pending }
    else if s1.mbr.st == .member || s1.mbr.st == .held then .next (renewLease s1)
    else .next s1

/-- LEASE_LAPSE (R403). -/
def execLeaseLapse (s : State) : Res :=
  match s.mbr.st, s.mbr.leaseT with
  | .member, some t =>
    .next (if t + fld s.mbr.cfg 31 24 * 1000000 ≤ s.now then
        let s1 := mbrErr (endAllWork s) 0
        { s1 with mbr.st := .held }
      else s)
  | _, _ => .next s

/-- A manager's report of a silent member at the leader (R404): a majority of them expels it. -/
def noteSilent (s : State) (pos by_ : Nat) : State :=
  let s1 := { s with mbr.silence := tput s.mbr.silence (pos * 64 + by_) true }
  let n := (s1.mbr.silence.filter fun kv => kv.1 / 64 = pos).length
  if majority s n && bitOf (latestMap s1).members pos then
    propose { s1 with mbr.silence := tfilter s1.mbr.silence fun k _ => k / 64 != pos } (expelFrom pos)
  else s1

/-- EXPEL_TIMER (R404). -/
def execExpelTimer (pos : Fin 64) (s : State) : Res :=
  let p := pos.val
  if !isMgr s || !bitOf s.mbr.members p || p = s.fab.node || (tget? s.mbr.silent p).isSome ||
      decide (s.now < tgetD s.mbr.heard p 0 + fld s.mbr.cfg 39 32 * 1000000) then .next s
  else
    let s1 := { s with mbr.silent := tput s.mbr.silent p true }
    if s1.mbr.leading then .next (noteSilent s1 p s1.fab.node)
    else .next (if s1.mbr.leader < 64 then sendMbr s1 s1.mbr.leader 0x09 (leBytes 1 p) else s1)

/-- A manager becomes leader of its term (R399, R402): it goes on with what it has written, or waits to form the first map. -/
def becomeLeader (s : State) : State :=
  let s1 := { s with mbr := { s.mbr with leading := true, leader := s.fab.node, leaderT := s.now, silence := [], prop := none
                                         propQ := [] } }
  match s1.mbr.written with
  | some m => if s1.mbr.gen < m.gen then startProp s1 m else s1
  | none => checkForm s1

/-- Votes of a majority make a leader. -/
def countVotes (s : State) : State :=
  if !s.mbr.leading && majority s s.mbr.votes.length then becomeLeader s else s

/-- ELECTION_TIMEOUT (R399): no leader has been heard for at least 2 ms. -/
def execElectionTimeout (s : State) : Res :=
  if !isMgr s || s.mbr.leading || silentNode s || decide (s.now < s.mbr.leaderT + 2000000) then .next s
  else
    let s1 := { s with mbr := { s.mbr with
      mterm := s.mbr.mterm + 1, votedFor := some s.fab.node, votes := [s.fab.node], leader := 64, leaderT := s.now
      foundGen := s.mbr.flashGen, foundJob := s.mbr.flashJob } }
    .next (countVotes ((s1.mbr.mgrs.filter (· != s1.fab.node)).foldl (fun t p =>
      sendMbr t p 0x04 (leBytes 8 t.mbr.mterm)) s1))

/-- VOTE_REQ (R399): one vote in a term. -/
def execVoteReq (pos : Fin 64) (term : Nat) (s : State) : Res :=
  if !isMgr s || !s.mbr.mgrs.contains pos.val || term < s.mbr.mterm then .next s
  else
    let s1 : State := if s.mbr.mterm < term then
        { s with mbr := { s.mbr with mterm := term, votedFor := none, leading := false, prop := none, propQ := [] } }
      else s
    if s1.mbr.votedFor.isSome && s1.mbr.votedFor != some pos.val then .next s1
    else
      .next (sendMbr { s1 with mbr := { s1.mbr with votedFor := some pos.val, leaderT := s1.now } } pos.val 0x05
        (leBytes 8 term ++ leBytes 4 s1.mbr.flashGen ++ leBytes 4 s1.mbr.flashJob))

/-- VOTE (R399, R402): a majority elects; each vote tells what its sender's flash log holds. -/
def execVote (pos : Fin 64) (term gen job : Nat) (s : State) : Res :=
  if s.mbr.leading || s.mbr.votedFor != some s.fab.node || term ≠ s.mbr.mterm || !s.mbr.mgrs.contains pos.val ||
      s.mbr.votes.contains pos.val then .next s
  else
    .next (countVotes { s with mbr := { s.mbr with
      votes := s.mbr.votes ++ [pos.val], foundGen := max s.mbr.foundGen gen, foundJob := max s.mbr.foundJob job } })

/-- APPEND (R399): a manager writes the change and acknowledges. -/
def execAppend (pos : Fin 64) (term : Nat) (map_ : RackMap) (s : State) : Res :=
  if !isMgr s || !s.mbr.mgrs.contains pos.val || term < s.mbr.mterm then .next s
  else
    let s1 := { s with mbr := { s.mbr with
      mterm := term, leading := s.mbr.leading && pos.val == s.fab.node, leader := pos.val, leaderT := s.now } }
    .next (sendMbr (writeMap s1 map_) pos.val 0x07 (leBytes 8 term ++ leBytes 4 map_.gen))

/-- APPEND_ACK (R399). -/
def execAppendAck (pos : Fin 64) (term gen : Nat) (s : State) : Res :=
  match s.mbr.prop with
  | none => .next s
  | some p =>
    if !s.mbr.leading || term ≠ s.mbr.mterm || gen ≠ p.map_.gen || !s.mbr.mgrs.contains pos.val || p.acks.contains pos.val then
      .next s
    else
      let q : Proposal := { p with acks := p.acks ++ [pos.val] }
      .next (if majority s q.acks.length then commitMap s q.map_ else { s with mbr.prop := some q })

/-- COMMIT (R399). -/
def execCommit (pos : Fin 64) (map_ : RackMap) (s : State) : Res :=
  if !s.mbr.mgrs.contains pos.val then .next s
  else .next (takeMap { s with mbr := { s.mbr with leader := pos.val, leaderT := s.now } } map_)

/-- A spare has rebuilt a shard (R408): its host entry names it, and it is a spare no longer. -/
def giveHost (shard pos : Nat) (m : RackMap) : RackMap :=
  { m with spares := ofBits ((bitsSet 64 m.spares).filter (· != pos))
           hosts := m.hosts.map fun x => if x.1 = shard then (x.1, pos) else x }

/-- Counts of a root reach the leader (R407). -/
def addCounts (s : State) (xs : List (Nat × Nat × Nat)) : State :=
  { s with mbr := { s.mbr with
      taken := xs.foldl (fun t x => tmod t x.1 0 (· + x.2.1)) s.mbr.taken
      absent := xs.foldl (fun t x => tmod t x.1 0 (· + x.2.2)) s.mbr.absent } }

/-- REPORT (R396, R404, R406 to R408) at the leader. -/
def execReport (pos : Fin 64) (msg : ReportMsg) (s : State) : Res :=
  if !s.mbr.leading then .next s
  else
    let s1 := msg.silent.foldl (fun t m => noteSilent t m pos.val) (addCounts s msg.counts)
    let s2 := match msg.restart with
      | some e => if (latestMap s1).restart.isNone then propose s1 fun m => { m with restart := some e } else s1
      | none => s1
    .next (match msg.rebuilt with
      | some v => propose s2 (giveHost v pos.val)
      | none => s2)

/-- WEIGHTS (R407): in force at the next B3 release. -/
def execWeights (pos : Fin 64) (mult : List (Nat × Nat)) (s : State) : Res :=
  .next (if pos.val = s.mbr.leader then { s with mbr.nextWeight := mult } else s)

/-- FORMATION_TIMEOUT (R402). -/
def execFormationTimeout (s : State) : Res :=
  .next (if s.mbr.leaderT + fld s.mbr.cfg 63 48 * 1000000000 ≤ s.now then formMap s else s)

/-- A write of MBR_JOB_CTL (R406). -/
def writeJobCtl (s : State) (fn e : Nat) : State :=
  if !ownerFn s fn then s
  else if e ≤ s.epo.closed || s.mbr.jobCtl ≠ 0 then mbrErr s 3
  else if s.mbr.leading then propose { s with mbr.jobCtl := e } fun m => { m with restart := some e }
  else
    let s1 := { s with mbr.jobCtl := e }
    if s.mbr.leader < 64 then sendMbr s1 s.mbr.leader 0x09 (leBytes 8 e) else s1

/-- MBR_JOB_CTL_WRITE (R406). -/
def execMbrJobCtlWrite (fn : Fin 64) (epoch : W64) (s : State) : Res := .next (writeJobCtl s fn.val epoch.toNat)

/-- Starts a rebuild (R408); one in progress goes on. -/
def rebuildGo (s : State) (fn shard : Nat) : State :=
  if !ownerFn s fn then s
  else if s.mbr.reb == .fetch || s.mbr.reb == .replay || s.mbr.reb == .host then { s with mbr.rebShard := shard }
  else { s with mbr := { s.mbr with reb := .fetch, rebShard := shard, rebFor := shard } }

/-- Drops the copies of a lost shard's records (R408). -/
def rebuildDiscard (s : State) (fn shard : Nat) : State :=
  if !ownerFn s fn then s
  else { s with mbr.rebShard := shard, epo.peerLog := s.epo.peerLog.filter fun r => r.1.origin != shard }

/-- REBUILD_GO (R408). -/
def execRebuildGo (fn : Fin 64) (shard : Fin 64) (s : State) : Res := .next (rebuildGo s fn.val shard.val)
/-- REBUILD_DISCARD (R408). -/
def execRebuildDiscard (fn : Fin 64) (shard : Fin 64) (s : State) : Res := .next (rebuildDiscard s fn.val shard.val)

/-- Records of a lost origin that apply (R246): some surviving peer holds it, none lacks it, and none has it marked VOID. -/
def applicable (lists : List (List LogRec)) : List LogRec :=
  match lists with
  | [] => []
  | l :: rest => l.filter fun r => !r.void && rest.all fun m => m.any fun x => x.seq == r.seq && !x.void

/-- REBUILD_RECORDS_ARRIVE (R236, R246, R408): the peers' trim epochs and records. -/
def execRebuildRecordsArrive (lists : List (Nat × List LogRec)) (s : State) : Res :=
  if s.mbr.reb != .fetch then .next s
  else
    let d := s.mbr.rebEpoch.toNat
    if lists.any fun l => d < l.1 then .next (mbrErr { s with mbr.reb := .refused } 2)
    else
      let rs := (applicable (lists.map (·.2))).filter fun r => decide (d < r.epoch) && decide (r.epoch ≤ s.epo.closed)
      let part (r : LogRec) : Nat := match tget? s.work.indexes r.index with
        | some x => x.part
        | none => ownerPart s
      let s1 := replayAll s (rs.map fun r => (r, part r))
      let s2 := { s1 with mbr.reb := .host }
      if s2.mbr.leading then .next (propose s2 (giveHost s2.mbr.rebFor s2.fab.node))
      else .next (if s2.mbr.leader < 64 then sendMbr s2 s2.mbr.leader 0x09 (leBytes 1 s2.mbr.rebFor) else s2)

end Sys2Proof.Machine
end

