-- ==== Sys2Proof/Machine/NearBank.lean ====
section
/-!
DEFINITION. Scoring inside the memory stacks: WNB, the start and end of near-bank operations, and share windows (R164 to R182).
-/
namespace Sys2Proof.Machine

/-- A near-bank command (R167). -/
structure NbCmd where
  op : Nat
  nq : Nat
  fmt : Nat
  omode : Nat
  cap : Nat
  range : Nat
deriving DecidableEq, Repr

def nbCmd (b : List Byte) : NbCmd :=
  { op := getLE b 2 1, nq := getLE b 3 1 % 16 + 1, fmt := getLE b 4 1, omode := getLE b 5 1 % 4, cap := getLE b 6 2
    range := getLE b 8 4 }

/-- The command breaks R168, its range entry apart. -/
def nbCmdBad (b : List Byte) : Bool :=
  let c := nbCmd b
  let scan := c.op = 1 || c.op = 2
  getLE b 0 2 != 0x0200 || c.op = 0 || decide (3 < c.op) || decide (16 ≤ getLE b 3 1) || decide (3 ≤ getLE b 5 1) ||
    decide (2 ≤ c.fmt) || (if scan then decide (2 ≤ c.omode) else c.omode != 2) || decide (4080 < c.nq * c.cap) ||
    (match c.omode with
      | 0 => c.cap == 0 || decide (64 < c.cap)
      | 1 => c.cap == 0 || decide (1024 < c.cap)
      | _ => c.cap != 0) || !allZero (slice b 0x0C 52)

/-- A request block (R169). -/
structure NbReq where
  list : Nat
  first : Nat
  count : Nat
  ra : Nat
  index : Nat
  kdim : Nat
  wTile : Nat
  rowBytes : Nat
deriving DecidableEq, Repr

def nbReq (b : List Byte) : NbReq :=
  { list := getLE b 0 4, first := getLE b 4 4, count := getLE b 8 4, ra := getLE b 0xC 4 % tileCount, index := getLE b 0x10 2
    kdim := getLE b 0x12 2, wTile := getLE b 0x14 4, rowBytes := getLE b 0x18 4 }

/-- Element bits of the command's format, and TSTRIDE (R169). -/
def NbCmd.bits (c : NbCmd) : Nat := if c.op = 3 then (if c.fmt = 1 then 8 else 4) else if c.fmt = 0 then 8 else 4
def tStride (c : NbCmd) (elems : Nat) : Nat := ceilDiv (ceilDiv (elems * c.bits) 8) 64 * 64

/-- The index of a scan, when it is registered to the partition. -/
def nbIndex (s : State) (part i : Nat) (inv : Option Nat) : Option Index :=
  match tget? s.work.indexes i with
  | some x => if x.part = part && openFor x.shut inv then some x else none
  | none => none

/-- Elements of a query's table or activation vector. -/
def nbElems (s : State) (o : NbOp) : Nat :=
  let r := nbReq o.req
  if (nbCmd o.cmd).op = 3 then r.kdim
  else match nbIndex s o.part r.index o.inv with
    | some x => (idxD x.desc).m * 16
    | none => 0

/-- The bytes an operation reads of its range: first byte address, stride, entries. -/
structure NbSpan where
  base : Nat
  stride : Nat
  n : Nat
deriving DecidableEq, Repr

/-- The range of an operation and the tile of its list table entry; none when a field lies outside its range (R169, R171,
R174). -/
def nbSpan (s : State) (o : NbOp) : Option (NbSpan × List Nat) :=
  let c := nbCmd o.cmd
  let r := nbReq o.req
  if c.op = 3 then
    if r.kdim < 64 || decide (57344 < r.kdim) || r.kdim % 64 != 0 || r.rowBytes % 64 != 0 ||
        decide (r.rowBytes * 8 < r.kdim * c.bits) || decide (8160 < r.count * c.nq) || decide (tileCount ≤ r.wTile) then none
    else some (⟨r.wTile * tileBytes + r.first * r.rowBytes, r.rowBytes, r.count⟩, [])
  else
    match nbIndex s o.part r.index o.inv with
    | none => none
    | some x =>
      let d := idxD x.desc
      if c.op = 2 then
        if !d.flat || decide (d.slots < r.first + r.count) then none
        else some (⟨d.flatTile * tileBytes + r.first * d.codeBytes, d.codeBytes, r.count⟩, [])
      else if !d.ivf || decide (d.nlists ≤ r.list) then none
      else
        let (a, n) := listEntry s d r.list
        let k := if r.count = 0 then n - r.first else r.count
        if n < r.first + k then none
        else some (⟨a + r.first * listStride d, listStride d, k⟩, [(d.ivfTile * tileBytes + 16 * r.list) / tileBytes])

/-- Tiles of an interval. -/
def NbSpan.tiles (x : NbSpan) : List Nat :=
  let (t, n) := tilesOf x.base (x.n * x.stride)
  (List.range n).map (t + ·)

/-- Reserved fields of a request block that must be zero (R169). -/
def nbReqBad (b : List Byte) : Bool :=
  decide (tileCount ≤ getLE b 0xC 4) || !allZero (slice b 0x1C 36) ||
    (List.range 16).any fun q => getLE b (0x40 + 16 * q + 12) 4 != 0

/-- A tile is homed and pinned in a stack of this node. -/
def pinnedStack (s : State) (t : Nat) : Bool := (s.home t).st == .pinned && (s.home t).tier == 1

/-- A tile lies in the index's registered ranges or in the command's range entry (R170). -/
def nbAllowed (s : State) (o : NbOp) (t : Nat) : Bool :=
  let plan := tgetD s.work.plans o.plan {}
  let inRange := match plan.bin.ranges[(nbCmd o.cmd).range]? with
    | some e => decide (e.first ≤ t) && decide (t < e.first + e.count)
    | none => false
  let inIndex := if (nbCmd o.cmd).op = 3 then false else match nbIndex s o.part (nbReq o.req).index o.inv with
    | some x => (idxRanges s (idxD x.desc)).any fun r => decide (r.1 ≤ t) && decide (t < r.1 + r.2)
    | none => false
  inRange || inIndex

/-- The checks of R170, in their order: the status of the first that fails. -/
def nbCheck (s : State) (o : NbOp) : Option Nat :=
  let ra := (nbReq o.req).ra
  let span := nbSpan s o
  let tiles := ra :: match span with
    | some (x, ts) => ts ++ x.tiles
    | none => []
  if tiles.any fun t => (sealedBy s t).isSome then some stSealed
  else if span.isNone || nbReqBad o.req || tiles.any (fun t => !nbAllowed s o t) || !pinnedStack s ra ||
      decide (tileBytes < 0x140 + (nbCmd o.cmd).nq * tStride (nbCmd o.cmd) (nbElems s o)) then some stAdmitRefused
  else none

/-- The stack and unit that an entry's bytes belong to: the one that holds its first byte; none when the vector unit of the
cluster takes it (R164, R173, R187). -/
def nbUnit (s : State) (addr len : Nat) : Option (Nat × Nat) :=
  let place (a : Nat) : Option Nat :=
    let h := s.home (a / tileBytes)
    if h.st != .unmapped && h.st != .poisoned && h.tier = 1 then some (frameStack (locFrame h.loc)) else none
  let u := addr % tileBytes / 1024
  match place addr with
  | none => none
  | some st =>
    if place (addr + len - 1) != some st || flag (tgetD s.work.nbs st {}).ufail u then none else some (st, u)

/-- An entry overlaps an uncorrectable column, or lies in a POISONED tile. -/
def nbBad (s : State) (addr len : Nat) : Bool :=
  (pieces addr len).any fun p => (s.home p.1).st == .poisoned || intervalPoisoned s p.1 p.2.1 p.2.2

/-- Bytes of an entry: a tile that moves shows its frozen old home (R173). -/
def nbBytes (s : State) (addr len : Nat) : List Byte := (pieces addr len).flatMap fun p => homeRead s p.1 p.2.1 p.2.2

/-- Table entry `i` of query `q`. -/
def nbTable (c : NbCmd) (req : List Byte) (stride q i : Nat) : Nat :=
  let base := 0x140 + q * stride
  if c.fmt = 0 then getLE req (base + i) 1 else bitsOf (getLE req (base + i / 2) 1) (i % 2 * 4 + 3) (i % 2 * 4)

/-- The score of an entry for a query (R171). -/
def nbScore (c : NbCmd) (req : List Byte) (m stride q : Nat) (code : List Byte) : F32 :=
  let a := sumOf ((List.range m).map fun j => nbTable c req stride q (16 * j + codeElem code j))
  f32fma (getLE req (0x40 + 16 * q) 4) (f32ofInt a) (getLE req (0x44 + 16 * q) 4)

/-- A scored entry: its place in the range, slot, score and key. -/
structure NbEnt where
  pos : Nat
  slot : Nat
  score : F32
  key : Nat
deriving DecidableEq, Repr

def nbLe (a b : NbEnt) : Bool := decide (b.key < a.key) || (a.key == b.key && decide (a.slot ≤ b.slot))

/-- The entries a query returns, and how many a THRESH drops (R172). -/
def nbPick (c : NbCmd) (lower : Bool) (bound : F32) (es : List NbEnt) : List NbEnt × Nat :=
  if c.omode = 0 then ((sortBy nbLe es).take c.cap, 0)
  else
    let yes := es.filter fun e => decide (orderKey lower bound < e.key)
    (sortBy nbLe (yes.take c.cap), yes.length - c.cap)

/-- Cycles a unit's datapath waits for compute (R166). -/
def nbWaits (c : NbCmd) (bytes nq : Nat) : Nat :=
  let work := (if c.op = 3 then (if c.bits = 8 then 1 else 2) else 2) * bytes * nq
  let rate := if c.op = 3 then (if c.bits = 8 then 512 else 1024) else if c.bits = 8 then 2048 else 4096
  ceilDiv work rate - ceilDiv bytes 256

/-- Counts what the units and the cluster read: bursts, compute waits, and tiles given to the cluster (R166, R173, R184). -/
def nbCount (s : State) (o : NbOp) (x : NbSpan) : State :=
  let c := nbCmd o.cmd
  let us := (List.range x.n).filterMap fun i => nbUnit s (x.base + i * x.stride) x.stride
  let s1 := (List.range 8).foldl (fun t st =>
    let mine := us.filter fun u => u.1 = st
    let waits := sumOf ((dedup (mine.map (·.2))).map fun u =>
      nbWaits c ((mine.filter fun y => y.2 = u).length * x.stride) c.nq)
    count (count t o.part Ev.nbBytes st (ceilDiv (mine.length * x.stride) 2048)) o.part Ev.nbCbound st waits) s
  let given := x.tiles.filter fun t => !((s.home t).st != .unmapped && (s.home t).st != .poisoned && (s.home t).tier = 1)
  let s2 := given.foldl (fun t k => readMarks t o.part (k * tileBytes) 1) s1
  count s2 o.part Ev.nbClTile (o.cluster / 16) given.length

/-- 64-byte columns of a range that are uncorrectable. -/
def nbColumns (s : State) (x : NbSpan) : Nat :=
  let (lo, hi) := (x.base, x.base + x.n * x.stride)
  (s.tier.pois64.filter fun kv => decide (lo < kv.1 * 64 + 64) && decide (kv.1 * 64 < hi)).length +
    4 * (s.tier.pois256.filter fun kv => decide (lo < kv.1 * 256 + 256) && decide (kv.1 * 256 < hi)).length

/-- A scan (R171, R172, R181). -/
def nbScan (s : State) (o : NbOp) (x : NbSpan) (ix : Index) : NbOp × Nat :=
  let c := nbCmd o.cmd
  let d := idxD ix.desc
  let stride := tStride c (nbElems s o)
  let all := (List.range x.n).map fun i => (i, x.base + i * x.stride)
  let good := all.filter fun e => !nbBad s e.2 x.stride
  let part := all.any fun e => (nbUnit s e.2 x.stride).isNone
  let perQ : List (List NbEnt × Nat × Nat) := (List.range c.nq).map fun q =>
    let es : List (NbEnt × Bool) := good.map fun e =>
      let b := nbBytes s e.2 x.stride
      let slot := if c.op = 2 then (nbReq o.req).first + e.1 else getLE b d.codeBytes 4
      let (v, nan) := cleanScore d.metric (nbScore c o.req d.m stride q b)
      (({ pos := e.1, slot := slot, score := v, key := orderKey d.lower v } : NbEnt), nan)
    let (kept, n) := nbPick c d.lower (getLE o.req (0x48 + 16 * q) 4) (es.map (·.1))
    (kept, n, (es.filter (·.2)).length)
  let dropped := sumOf (perQ.map fun r => r.2.1)
  let skipped := all.length - good.length
  let data := perQ.flatMap fun r =>
    r.1.flatMap (fun e => leBytes 4 e.slot ++ leBytes 4 e.score) ++ List.replicate (8 * (c.cap - r.1.length)) 0
  ({ o with
      started := true, status := stOk, scanned := good.length, skipped := skipped, dropped := dropped
      rflags := b2n (skipped != 0) + 2 * b2n (dropped != 0) + 4 * b2n part
      counts := perQ.map fun r => r.1.length, data := data }, sumOf (perQ.map fun r => r.2.2))

/-- Signed elements of a matrix row or an activation vector, packed (R50). -/
def nbInts (bits n : Nat) (b : List Byte) : List Int :=
  (List.range n).map fun i =>
    if bits = 8 then sext 8 (getLE b i 1) else sext 4 (bitsOf (getLE b (i / 2) 1) (i % 2 * 4 + 3) (i % 2 * 4))

/-- A matrix–vector product (R174, R181). -/
def nbMatvec (s : State) (o : NbOp) (x : NbSpan) : NbOp :=
  let c := nbCmd o.cmd
  let r := nbReq o.req
  let stride := tStride c r.kdim
  let rows := (List.range x.n).map fun i => x.base + i * x.stride
  let len := ceilDiv (r.kdim * c.bits) 8
  if rows.any fun a => nbBad s a len then { o with started := true, status := stPoisoned }
  else
    let ws := rows.map fun a => nbInts c.bits r.kdim (nbBytes s a len)
    let data := (List.range c.nq).flatMap fun q =>
      let v := nbInts c.bits r.kdim (o.req.drop (0x140 + q * stride))
      ws.flatMap fun w => leBytes 4 (wrapTo 32 (((w.zip v).map fun p => p.1 * p.2).foldl (· + ·) 0))
    { o with
      started := true, status := stOk, scanned := x.n, counts := List.replicate c.nq x.n, data := data
      rflags := 4 * b2n (rows.any fun a => (nbUnit s a x.stride).isNone) }

def State.nb (s : State) (st : Nat) : NbStack := tgetD s.work.nbs st {}
def State.setNb (s : State) (st : Nat) (x : NbStack) : State := { s with work.nbs := tput s.work.nbs st x }

/-- WNB (R82, R169, R180): the request goes to the stack controller of the cluster's region, which queues 64 operations. -/
def execWnb (c : Fin 128) (s : State) : Res :=
  .next (issueW s c.val 2 0x09 (fun w _ => [(gran (wB w), 0x140)]) fun w t =>
    let cl := t.cl c.val
    let st := c.val / 16
    let x := t.nb st
    let plan := cl.plan.getD 0
    let banks := match (clPlan t c.val).bin.roles.find? fun r => r.role = cl.role with
      | some r => r.banks
      | none => 0
    let bank := wB w / 2048
    if wB w % 2048 != 0 || decide (banks ≤ bank + 1) then (true, failInv t c.val 2 (refusal rsFormat))
    else if 64 ≤ x.queue.length then
      (false, if x.waiting.contains c.val then t
        else count (t.setNb st { x with waiting := x.waiting ++ [c.val] }) cl.part Ev.nbQwait st)
    else
      let o0 : NbOp := { cluster := c.val, plan := plan, part := cl.part, inv := unitInv t c.val 2
                         cmd := clConsts t c.val (wA w) 4, req := scrRead cl (gran (wB w)) 0x140, bank := bank }
      let n := 0x140 + (nbCmd o0.cmd).nq * tStride (nbCmd o0.cmd) (nbElems t o0)
      let o := { o0 with req := scrRead cl (gran (wB w)) (min tileBytes n) }
      let x1 := { x with queue := tput x.queue x.nextOp o, nextOp := x.nextOp + 1
                         waiting := x.waiting.filter (· != c.val) }
      (true, setWait (t.setNb st x1) c.val 2 (.nb x.nextOp)))

/-- No operation is active on the result tile that an operation names (R176). -/
def raFree (s : State) (o : NbOp) : Bool :=
  match tget? s.work.resTiles (nbReq o.req).ra with
  | some r => r.active.isNone
  | none => true

/-- The operation of a partition that starts next: the oldest whose result tile is free. -/
def nbNext (s : State) (x : NbStack) (p : Nat) : Option (Nat × NbOp) :=
  tfind? x.queue fun _ o => o.part = p && !o.started && raFree s o

/-- A partition's share: 0 gives an equal one among partitions with work (R188). -/
def nbShare (s : State) (ps : List Nat) (p : Nat) : Nat :=
  let v := fld (tgetD s.work.nbsShare p 0) 15 0
  if v = 0 then 65536 / max 1 ps.length else v

/-- Partition `p` is served before every other one with waiting work: it has the fewest slots for its share (R180). -/
def nbTurn (s : State) (x : NbStack) (p : Nat) : Bool :=
  let ps := dedup ((x.queue.filter fun kv => !kv.2.started).map fun kv => kv.2.part)
  let used (q : Nat) : Nat := tgetD x.slots q 0
  ps.all fun q => (nbNext s x q).isNone || decide (used p * nbShare s ps q ≤ used q * nbShare s ps p)

/-- Marks a result tile as in use by an operation; its view starts as what the tile held. -/
def holdResult (s : State) (ra : Nat) (key : Nat) : State :=
  let r : ResTile := match tget? s.work.resTiles ra with
    | some r => r
    | none => { view := homeRead s ra 0 32768 }
  { s with work.resTiles := tput s.work.resTiles ra { r with active := some key } }

/-- The number of an operation over all stacks. -/
def nbKey (st i : Nat) : Nat := i * 8 + st

/-- NB_OP_START (R170 to R174, R180): the checks; then the operation's whole result from the memory as it stands. -/
def execNbOpStart (st : Fin 8) (i : Nat) (s : State) : Res :=
  let x := s.nb st.val
  match tget? x.queue i with
  | none => .next s
  | some o =>
    if (nbNext s x o.part).map (·.1) != some i || !nbTurn s x o.part then .next s
    else
      let ra := (nbReq o.req).ra
      let put (t : State) (o1 : NbOp) (slots : Nat) : State :=
        let y := t.nb st.val
        t.setNb st.val { y with queue := tput y.queue i o1, slots := tmod y.slots o.part 0 (· + slots) }
      match nbCheck s o, nbSpan s o with
      | some bad, _ => .next (put s { o with started := true, status := bad } 0)
      | none, none => .next s
      | none, some (span, _) =>
        let s1 := holdResult (readChecks s o.part span.base (span.n * span.stride)) ra (nbKey st.val i)
        let ue := nbColumns s1 span
        let s2 := count (nbCount s1 o span) o.part Ev.nbUe st.val ue
        let slots := ceilDiv (span.n * span.stride) 2048
        if (nbCmd o.cmd).op = 3 then .next (put s2 (nbMatvec s2 o span) slots)
        else
          match nbIndex s2 o.part (nbReq o.req).index o.inv with
          | none => .next s2
          | some ix =>
            let (o1, nans) := nbScan s2 o span ix
            .next (put (countCls s2 o.cluster Ev.nanScore 0xFF nans) o1 slots)

/-- The header of a result buffer (R177). -/
def nbHeader (o : NbOp) (seq now : Nat) : List Byte :=
  let c := nbCmd o.cmd
  leBytes 2 o.status ++ leBytes 2 o.rflags ++ leBytes 1 c.op ++ leBytes 1 (c.nq - 1) ++ leBytes 2 (if c.op = 3 then 0 else c.cap) ++
    leBytes 8 seq ++ leBytes 8 now ++ leBytes 4 o.scanned ++ leBytes 4 o.skipped ++ leBytes 4 o.dropped ++
    List.replicate 28 0 ++ (List.range 16).flatMap fun q => leBytes 4 (o.counts.getD q 0)

/-- NBS_ERR bits of an ended operation (R189). -/
def nbErrBits (o : NbOp) : Nat :=
  reasons [(o.status = stAdmitRefused, 1), (o.status = stSealed, 2), (o.status = stPoisoned, 4), (bitOf o.rflags 0, 8),
    (bitOf o.rflags 1, 16)]

/-- Events of an ended operation (R184). -/
def nbEndCount (s : State) (st : Nat) (o : NbOp) : State :=
  let s1 := count s o.part Ev.nbOp st
  let s2 := if o.status = stSealed then count s1 o.part Ev.nbSealed st else s1
  let s3 := if o.status = stAdmitRefused then count s2 o.part Ev.nbRefused st else s2
  let s4 := if bitOf o.rflags 1 then count s3 o.part Ev.nbOverflow st else s3
  { s4 with work.nbsErr := tmod s4.work.nbsErr o.part 0 (· ||| BitVec.ofNat 64 (nbErrBits o)) }

/-- NB_OP_END (R175 to R177): with OK the view switches to the new buffer and the buffer is copied to bank b + 1; otherwise
only the header is. The copy to a fenced cluster is dropped. -/
def execNbOpEnd (st : Fin 8) (i : Nat) (s : State) : Res :=
  let x := s.nb st.val
  match tget? x.queue i with
  | none => .next s
  | some o =>
    if !o.started then .next s
    else
      let ra := (nbReq o.req).ra
      let r := tgetD s.work.resTiles ra {}
      let mine := r.active == some (nbKey st.val i)
      let s1 := nbEndCount (s.setNb st.val { x with queue := terase x.queue i }) st.val o
      let ok := o.status = stOk
      let seq := if ok then r.seq + 1 else r.seq
      let bytes := nbHeader o seq s.now ++ (if ok then o.data else [])
      let r1 : ResTile := { r with active := none, seq := seq, view := if ok then bytes else r.view }
      let s2 := if mine then { s1 with work.resTiles := tput s1.work.resTiles ra r1 } else s1
      let stack := frameStack (locFrame (s.home ra).loc)
      let s3 := regCharge s2 o.part (.stack stack) (if ok then 2 * bytes.length else bytes.length)
      .next (if o.gone then s3 else resume (scrWrite s3 o.cluster ((o.bank + 1) * tileBytes) bytes) o.cluster 2 (.nb i))

/-- NB_SHARE_WINDOW (R180): at each multiple of 1 µs the slots of a stack are shared afresh. -/
def execNbShareWindow (st : Fin 8) (s : State) : Res :=
  let x := s.nb st.val
  .next (if s.now % 1000 == 0 && (x.window != s.now || s.now == 0) then
      s.setNb st.val { x with slots := [], window := s.now }
    else s)

end Sys2Proof.Machine
end

