-- ==== Sys2Proof/Machine/PlanCheck.lean ====
section
/-!
DEFINITION. Plan binaries: taking them apart (R73, R74, the manifest) and the checks of every instruction word at load (R77,
R82, R84, R85, R88, R92, R95, R112, R168, R268, R288, R313).
-/
namespace Sys2Proof.Machine

/-- Reason bits of PLAN_REFUSED (R88). -/
def prVersion : Nat := 2 ^ 0
def prFeature : Nat := 2 ^ 1
def prFormat : Nat := 2 ^ 2
def prSignature : Nat := 2 ^ 3
def prUnit : Nat := 2 ^ 4
def prOpcode : Nat := 2 ^ 5
def prNdMark : Nat := 2 ^ 6
def prNumfmt : Nat := 2 ^ 7
def prScratch : Nat := 2 ^ 8
def prIstore : Nat := 2 ^ 9
def prClusters : Nat := 2 ^ 10
def prContexts : Nat := 2 ^ 11
def prModels : Nat := 2 ^ 12
def prPins : Nat := 2 ^ 13
def prCollectives : Nat := 2 ^ 14
def prSealed : Nat := 2 ^ 15
def prSpan : Nat := 2 ^ 16
def prRole : Nat := 2 ^ 17
def prSlots : Nat := 2 ^ 18
def prStartTime : Nat := 2 ^ 19
def prRange : Nat := 2 ^ 20

/-- FEAT of TOP_FEAT (R99). -/
def topFeat : Nat := 0xFF

/-- A plan version that the node accepts (R2, R92, R99): 2.0, and 1.0 to 1.3. -/
def planVersionOk (v : Nat) : Bool := v == 0x0200 || (decide (0x0100 ≤ v) && decide (v ≤ 0x0103))

/-- Whether the tag of a plan can be read, and the tag (R100). -/
def planTag (b : List Byte) : Nat := getLE b 0x0C 4

/-- A role entry at offset `o`, its lists in the role section at `ro` (manifest). -/
def roleEnt (b : List Byte) (o ro : Nat) : RoleEnt :=
  { role := getLE b o 1, banks := getLE b (o + 1) 1
    lists := (List.range 4).map fun u =>
      let n := getLE b (o + 4 + 2 * u) 2
      (List.range n).map fun k => getLE b (ro + getLE b (o + 0x20 + 4 * u) 4 + 16 * k) 16
    clusters := bitsSet 128 (getLE b (o + 0x10) 16) }

/-- A role entry breaks R74 or its ranges; its lists lie in the role section of `rl` bytes. -/
def roleEntBad (b : List Byte) (o rl : Nat) : Bool :=
  let banks := getLE b (o + 1) 1
  decide (127 < getLE b o 1) || banks == 0 || decide (32 < banks) || getLE b (o + 0x10) 16 == 0 ||
    !allZero (slice b (o + 2) 2) || !allZero (slice b (o + 0x0C) 4) || !allZero (slice b (o + 0x30) 16) ||
    (List.range 4).any fun u =>
      let off := getLE b (o + 0x20 + 4 * u) 4
      off % 16 != 0 || decide (rl < off + 16 * getLE b (o + 4 + 2 * u) 2)

def rangeEnt (b : List Byte) (o : Nat) : RangeEnt :=
  let a := getLE b (o + 8) 1
  { first := getLE b o 4 % tileCount, count := getLE b (o + 4) 4, rd := bitOf a 0, wr := bitOf a 1, nb := bitOf a 2
    pin := bitOf a 3 }
def rangeEntBad (b : List Byte) (o : Nat) : Bool :=
  decide (tileCount ≤ getLE b o 4) || decide (16 ≤ getLE b (o + 8) 1) || !allZero (slice b (o + 9) 7)

def modelEnt (b : List Byte) (o : Nat) : ModelEnt :=
  { id := getLE b o 4, prio := getLE b (o + 4) 1, layers := getLE b (o + 6) 2, range := getLE b (o + 8) 2
    maxTiles := getLE b (o + 10) 2 }
def modelEntBad (b : List Byte) (o ranges : Nat) : Bool :=
  decide (ranges ≤ getLE b (o + 8) 2) || getLE b (o + 5) 1 != 0 || !allZero (slice b (o + 12) 4)

/-- Tiles of a list of ranges, each once, as disjoint intervals: the number of tiles that ranges sorted by their first tile
cover (R74, R206). -/
def coverCount : (fuel upto : Nat) → List (Nat × Nat) → Nat
  | 0, _, _ => 0
  | _, _, [] => 0
  | f + 1, upto, (a, n) :: rs => (a + n - max a upto) + coverCount f (max upto (a + n)) rs
def distinctTiles (rs : List (Nat × Nat)) : Nat :=
  coverCount (rs.length + 1) 0 (sortBy (fun (a b : Nat × Nat) => decide (a.1 ≤ b.1)) rs)

/-- The ranges whose pin bit is set. -/
def pinRanges (rs : List RangeEnt) : List (Nat × Nat) := (rs.filter (·.pin)).map fun r => (r.first, r.count)

/-- The header breaks R73 or R74; `len` bytes were delivered. -/
def headBad (b : List Byte) (len : Nat) : Bool :=
  let g (o : Nat) : Nat := getLE b o 4
  let flags := getLE b 6 2
  let length := g 8
  decide (len < 64) || g 0 != 0x4C504E58 || decide (8 ≤ flags) || length != len || length % 64 != 0 ||
    decide (67108864 < length) || [0x10, 0x18, 0x20, 0x28].any (fun o => g o % 64 != 0) || decide (g 0x10 < 64) ||
    decide (g 0x14 < 64) || decide (g 0x18 < g 0x10 + g 0x14) || decide (g 0x20 < g 0x18 + g 0x1C) ||
    decide (g 0x28 < g 0x20 + g 0x24) || g 0x24 % 16 != 0 || decide (1048576 < g 0x24) ||
    g 0x2C != (if bitOf flags 0 then 256 else 0) || g 0x28 + g 0x2C != length || !allZero (slice b 0x38 8)

/-- The manifest's entries start behind its header: roles, then ranges, then models. -/
def manRoles (b : List Byte) : Nat := getLE b (getLE b 0x10 4) 2
def manRanges (b : List Byte) : Nat := getLE b (getLE b 0x10 4 + 0x10) 2
def manModels (b : List Byte) : Nat := getLE b (getLE b 0x10 4 + 0x0C) 2
def manRoleAt (b : List Byte) (i : Nat) : Nat := getLE b 0x10 4 + 64 + 64 * i
def manRangeAt (b : List Byte) (i : Nat) : Nat := manRoleAt b (manRoles b) + 16 * i
def manModelAt (b : List Byte) (i : Nat) : Nat := manRangeAt b (manRanges b) + 16 * i

/-- The manifest's header breaks R74 or a count lies outside its range. -/
def manBad (b : List Byte) : Bool :=
  let m := getLE b 0x10 4
  let nodes := getLE b (m + 0x12) 2
  let outs := getLE b (m + 2) 2
  manRoles b == 0 || decide (128 < manRoles b) || outs == 0 || decide (64 < outs) || decide (262144 < getLE b (m + 4) 4) ||
    decide (1024 < getLE b (m + 0x0E) 2) || decide (4096 < manRanges b) || nodes == 0 || decide (64 < nodes) ||
    (!bitOf (getLE b 6 2) 1 && nodes != 1) || decide (100000 < getLE b (m + 0x28) 4) || !allZero (slice b (m + 0x14) 4) ||
    !allZero (slice b (m + 0x2C) 20) || decide (getLE b 0x14 4 < manModelAt b (manModels b) - m)

/-- The entries of the manifest. -/
def manRoleEnts (b : List Byte) : List RoleEnt :=
  (List.range (manRoles b)).map fun i => roleEnt b (manRoleAt b i) (getLE b 0x18 4)
def manRangeEnts (b : List Byte) : List RangeEnt := (List.range (manRanges b)).map fun i => rangeEnt b (manRangeAt b i)
def manModelEnts (b : List Byte) : List ModelEnt := (List.range (manModels b)).map fun i => modelEnt b (manModelAt b i)

/-- An entry breaks R74, two roles have one number, or PINS is not the number of distinct tiles to pin. -/
def entsBad (b : List Byte) : Bool :=
  let nums := (List.range (manRoles b)).map fun i => getLE b (manRoleAt b i) 1
  (List.range (manRoles b)).any (fun i => roleEntBad b (manRoleAt b i) (getLE b 0x1C 4)) ||
    (dedup nums).length != nums.length || (List.range (manRanges b)).any (fun i => rangeEntBad b (manRangeAt b i)) ||
    (List.range (manModels b)).any (fun i => modelEntBad b (manModelAt b i) (manRanges b)) ||
    distinctTiles (pinRanges (manRangeEnts b)) != getLE b (getLE b 0x10 4 + 8) 4

/-- The binary is not well formed (R74). -/
def planFormatBad (b : List Byte) (len : Nat) : Bool := headBad b len || manBad b || entsBad b

/-- A well-formed binary taken apart (R73, R75, the manifest and the signature part). -/
def planBin (b : List Byte) : PlanBin :=
  let m := getLE b 0x10 4
  let flags := getLE b 6 2
  let so := getLE b 0x28 4
  let co := getLE b 0x20 4
  let grace := getLE b (m + 0x28) 4
  { version := getLE b 4 2, signed := bitOf flags 0, multi := bitOf flags 1, startAt := bitOf flags 2, tag := planTag b
    reqFeat := getLE b 0x30 8, outputs := getLE b (m + 2) 2, contexts := getLE b (m + 4) 4, pins := getLE b (m + 8) 4
    colls := getLE b (m + 0x0E) 2, nodes := getLE b (m + 0x12) 2, ndReach := getLE b (m + 0x18) 8
    satSlots := getLE b (m + 0x20) 8, grace := if grace = 0 then 1000 else grace
    roles := manRoleEnts b, ranges := manRangeEnts b, models := manModelEnts b
    consts := (List.range (getLE b 0x24 4 / 16)).map fun i => slice b (co + 16 * i) 16
    signer := slice b so 8, sig := slice b (so + 0x40) 132
    sigReserved := allZero (slice b (so + 8) 56) && allZero (slice b (so + 0xC4) 60)
    digest := Config.sha512 (b.take so) }

/-- What an operand slot holds (R79): a scratch address, an index to a run of `n` constants, an invocation word, a barrier
number, a number, or nothing. -/
inductive OpKind where
  | scr
  | const (n : Nat)
  | word
  | barrier
  | num
  | none
deriving DecidableEq, Repr

/-- One constant. -/
def kConst : OpKind := .const 1

/-- A SMERGE with REMOTE = 1 names a collective descriptor; one with REMOTE = 0 the list of its inputs' addresses. -/
def smergeKind (w : Nat) : OpKind := if sRemote w then .const 4 else .const (ceilDiv (sNin w) 8)

/-- The operand slots of a word, by its unit and opcode (R82's tables); none for an undefined opcode. -/
def opKinds (w : Nat) : Option (List OpKind) :=
  let ctl : Option (List OpKind) :=
    match wOp w with
    | 0xF0 | 0xF3 | 0xF8 | 0xFF => some [.none, .none, .none, .none]
    | 0xF1 => some [.num, .none, .none, .none]
    | 0xF2 => some [.num, .none, .none, .num]
    | 0xF4 => some [.barrier, .none, .none, .none]
    | 0xF5 => some [.word, .none, .none, .none]
    | _ => none
  let own : Option (List OpKind) :=
    match wUnit w, wOp w with
    | 0, 0x01 => some [.scr, .scr, .scr, match wMod w 25 24 with
        | 1 => kConst
        | 2 => .scr
        | _ => .num]
    | 0, 0x02 => some [.scr, .scr, .scr, .scr]
    | 0, 0x03 => some [.none, .none, .none, .none]
    | 1, 0x01 | 1, 0x02 => some [.scr, kConst, .none, .num]
    | 1, 0x03 => some [.scr, .scr, .none, .num]
    | 1, 0x04 | 1, 0x05 | 1, 0x07 | 1, 0x0A | 1, 0x0F => some [.scr, .scr, .scr, .num]
    | 1, 0x06 => some [.scr, if vSub w = 0 then kConst else .scr, .scr, .num]
    | 1, 0x08 | 1, 0x09 => some [.scr, .none, .scr, .num]
    | 1, 0x0B => some [.scr, .scr, .scr, kConst]
    | 1, 0x0C => some [.scr, if wB w = 0xFFFF then .num else .scr, .scr, .num]
    | 1, 0x0D => some [.scr, kConst, .scr, .num]
    | 1, 0x0E => some [kConst, .scr, .scr, .none]
    | 1, 0x10 => some [.scr, kConst, .scr, .num]
    | 1, 0x11 => some [kConst, .word, .scr, .none]
    | 1, 0x12 => some [kConst, .none, .none, .none]
    | 1, 0x13 => some [.scr, kConst, .none, .num]
    | 2, 0x01 | 2, 0x03 => some [.scr, .scr, .none, .num]
    | 2, 0x02 => some [.scr, kConst, .scr, .none]
    | 2, 0x04 => some [.scr, kConst, .none, .num]
    | 2, 0x05 => some [.none, .none, .none, .num]
    | 2, 0x06 | 2, 0x07 => some [.scr, kConst, .none, .none]
    | 2, 0x08 => some [kConst, kConst, .none, .none]
    | 2, 0x09 => some [.const 4, .scr, .none, .none]
    | 3, 0x01 | 3, 0x02 | 3, 0x03 => some [.scr, .none, .scr, .num]
    | 3, 0x04 => some [smergeKind w, .none, .scr, .none]
    | 3, 0x05 => some [.scr, .none, .none, .none]
    | _, _ => none
  if 0xF0 ≤ wOp w then ctl else own

/-- The operand slots of a word with what each holds. -/
def wordSlots (w : Nat) : List (OpKind × Nat) := ((opKinds w).getD []).zip [wA w, wB w, wC w, wD w]

/-- An operand value that R82 refuses with OPCODE; `n` constants. -/
def slotBad (n : Nat) (x : OpKind × Nat) : Bool :=
  match x.1 with
  | .const k => decide (n < x.2 + k)
  | .word => decide (15 < x.2)
  | .barrier => decide (7 < x.2)
  | .none => x.2 != 0
  | _ => false

/-- The highest SUB of a vector-unit operation (R64, R82, R147, R260, R267, R287). -/
def subMax (op : Nat) : Nat :=
  match op with
  | 0x06 => 1 | 0x07 => 8 | 0x08 => 2 | 0x09 => 2 | 0x0A => 2 | 0x0C => 1 | 0x0D => 1 | 0x0E => 3 | 0x0F => 2 | _ => 0

/-- The FIXED record that a word names (R64): TMMA with RS = 01, VRESCALE with SUB 0. -/
def fixedOf (w : Nat) : Option Nat :=
  if wUnit w = 0 && wOp w = 0x01 && wMod w 25 24 = 1 then some (wD w)
  else if wUnit w = 1 && wOp w = 0x06 && vSub w = 0 then some (wB w)
  else none

/-- The collective descriptor that a word names (R313 to R316). -/
def descOf (consts : List (List Byte)) (w : Nat) : Option Nat :=
  let marked (k : Nat) : Bool := getLE (consts.getD k []) 0 2 == 0xC011
  if wUnit w = 1 && wOp w = 0x10 && marked (wB w) then some (wB w)
  else if wUnit w = 3 && wOp w = 0x04 && sRemote w && marked (wA w) then some (wA w)
  else none

/-- A descriptor breaks the field ranges of R313, or its filter R320. -/
def descBad (consts : List (List Byte)) (k : Nat) : Bool :=
  let b := (List.range 4).flatMap fun i => slice (consts.getD (k + i) []) 0 16
  let d := collD b
  let ctl := getLE b 7 1
  let size := if d.op = opMerge then 16 else d.itemBytes
  decide (consts.length < k + 4) || getLE b 2 2 != 0x0200 || d.op == 0 || decide (3 < d.op) || decide (2 ≤ ctl) ||
    d.contrib == 0 || decide (64 ≤ d.root) || decide (128 ≤ d.rootLc) || d.tmo == 0 || decide (1000000 < d.tmo) ||
    getLE b 0x1B 1 != 0 || getLE b 0x1E 2 != 0 || !allZero (slice b 0x2C 20) ||
    (if d.op = opReduce then
      !([6, 7, 8].contains d.fmt) || (if d.fmt = 8 then d.outFmt != 8 else !(d.outFmt == 7 || d.outFmt == 6)) ||
        d.elems == 0 || decide (16384 < d.elems)
    else d.fmt != 0 || d.outFmt != 0) ||
    (d.op == opGather && (d.itemBytes < 16 || decide (240 < d.itemBytes) || d.itemBytes % 16 != 0 || d.items == 0 ||
      decide (4096 < d.items))) ||
    (d.op == opMerge && (d.k == 0 || decide (1024 < d.k) || decide (1 < getLE b 0x1A 1))) ||
    (d.filt && (match filterProg consts d.filter with
      | none => true
      | some ts => d.op != opReduce && ts.any fun t => decide (size < tmOff t + tmBytes t)))

/-- A word of a unit's own operations holds a value that R82 refuses with OPCODE, beside its operand slots. -/
def modBad (p : PlanBin) (w : Nat) : Bool :=
  let op := wOp w
  let k (i : Nat) : List Byte := p.consts.getD i []
  match wUnit w with
  | 0 => wMod w 25 24 == 3
  | 1 =>
    let clip := vClip w
    vGran w == 3 || decide (subMax op < vSub w) ||
      ((op == 0x03 || op == 0x05) && clip != 0 && decide (clip < 32768)) ||
      (op == 0x0F && wMod w 35 32 == 8 && decide (32 ≤ clip)) ||
      (op == 0x0E && decide (0x140 ≤ getLE (k (wA w)) 0 8 / 2 ^ 52)) ||
      (op == 0x0B && (filterProg p.consts (wD w)).isNone)
  | 2 =>
    let index (i : Nat) : Bool := !allZero ((k i).drop 2)
    let cmd := (List.range 4).flatMap fun i => slice (k (wA w + i)) 0 16
    wMod w 31 0 != 0 ||
      ((op == 0x02 || op == 0x06 || op == 0x07) && index (wB w)) ||
      (op == 0x08 && (index (wA w) || getLE (k (wA w)) 0 2 == 0xFFFF)) ||
      (op == 0x09 && (nbCmdBad cmd || !((p.ranges[(nbCmd cmd).range]?.map (·.nb)).getD false)))
  | _ => wMod w 18 0 != 0 || sMode w == 3 || decide (1 < wMod w 27 26) || (sMode w == 1 && decide (64 < sK w))

/-- OPCODE for a word (R82, R88). -/
def wordOpcode (p : PlanBin) (w : Nat) : Bool :=
  match opKinds w with
  | none => true
  | some _ =>
    (wordSlots w).any (slotBad p.consts.length) || (if 0xF0 ≤ wOp w then wMod w 39 0 != 0 else modBad p w) ||
      (match fixedOf w with
        | some i => !allZero ((p.consts.getD i []).drop 4)
        | none => false) ||
      (match descOf p.consts w with
        | some i => descBad p.consts i
        | none => false)

/-- NUMFMT for a word (R64, R81, R82, R147, R268). -/
def wordNumfmt (p : PlanBin) (w : Nat) : Bool :=
  let op := wOp w
  let m0 := match fixedOf w with
    | some i => decide (i < p.consts.length) && getLE (p.consts.getD i []) 0 2 == 0
    | none => false
  m0 || (match wUnit w, op with
    | 0, 0x01 =>
      let of := wMod w 31 28
      let int := (Fmt.ofCode (wMod w 39 36)).isInt && (Fmt.ofCode (wMod w 35 32)).isInt
      wMod w 39 36 == 8 || wMod w 35 32 == 8 ||
        (decide (2 ≤ wMod w 27 26) && wMod w 25 24 == 0 && !(of == 7 || (of == 8 && int)))
    | 1, 0x09 => !([1, 2, 8, 3, 4, 5, 6, 7].contains (wMod w 39 36))
    | 1, 0x0F => !([6, 7, 8].contains (wMod w 35 32))
    | _, _ => false)

/-- An operand that addresses scratch beyond the role's banks (R77). -/
def wordScratch (banks w : Nat) : Bool := (wordSlots w).any fun x => x.1 == .scr && decide (banks ≤ x.2 / 2048)

/-- The ND class (R85). -/
def ndClass (w : Nat) : Bool :=
  match wUnit w, wOp w with
  | 1, 0x0E => vSub w == 1
  | 1, 0x0F => !(Fmt.ofCode (wMod w 35 32)).isInt
  | 3, 0x03 => true
  | 3, 0x04 => sRemote w
  | _, _ => false

/-- ND of a word (R78). -/
def wNd (w : Nat) : Bool := bitOf w 117

/-- Features a format code uses (R92). -/
def fmtFeat (c : Nat) : Nat := if 0xD ≤ c then 4 else if 0x9 ≤ c then 2 else 0

/-- Features of R92 that a word uses. -/
def wordFeat (p : PlanBin) (w : Nat) : Nat :=
  if 0xF0 ≤ wOp w then 0
  else
    (match wUnit w with
      | 0 => fmtFeat (wMod w 39 36) ||| fmtFeat (wMod w 35 32) ||| fmtFeat (wMod w 31 28) ||| (if wMod w 1 1 = 1 then 64 else 0)
      | 1 => fmtFeat (wMod w 39 36) ||| fmtFeat (wMod w 35 32) ||| (if vRnd w then 64 else 0)
      | 2 => (if wMod w 36 36 = 1 then 16 else 0) ||| (if wOp w = 0x09 then 1 else 0)
      | _ => if wOp w = 0x01 || wOp w = 0x02 then 128 else 0) |||
      (if (descOf p.consts w).isSome then 8 else 0)

/-- Every word of a plan with the unit kind of its list and the banks of its role. -/
def allWords (p : PlanBin) : List (Nat × Nat × Nat) :=
  p.roles.flatMap fun (r : RoleEnt) => (r.lists.mapIdx fun u ws => ws.map fun w => (u, r.banks, w)).flatten

/-- Features a plan uses (R92). -/
def planFeat (p : PlanBin) : Nat :=
  (allWords p).foldl (fun a x => a ||| wordFeat p x.2.2) (if p.startAt then 32 else 0)

/-- VERSION (R88, R92): not accepted, or a version 1 plan with REQ_FEAT or a feature that its predecessor lacked. `p` is the
plan taken apart when it is well formed. -/
def planVersionBad (b : List Byte) (p : Option PlanBin) : Bool :=
  let v := getLE b 4 2
  !planVersionOk v || (v / 256 == 1 && (getLE b 0x30 8 != 0 || (match p with
    | some x => planFeat x != 0
    | none => false)))

/-- The descriptors that a plan names (R313). -/
def planDescs (p : PlanBin) : List Nat := dedup ((allWords p).filterMap fun x => descOf p.consts x.2.2)

/-- A role's model streams break R95. -/
def streamBad (p : PlanBin) (r : RoleEnt) : Bool :=
  let ws := (r.lists.getD 1 []).filter fun w => wOp w = 0x11
  let n := r.banks - (ws.headD 0 |> wC) / 2048
  (dedup (ws.map wC)).length > 1 || ws.any fun w =>
    match p.models[getLE (p.consts.getD (wA w) []) 0 2]? with
    | some m => decide (n / 2 < m.maxTiles)
    | none => false

/-- A near-bank command of the plan names a sealed range (R168). -/
def nbSealedRange (s : State) (p : PlanBin) : Bool :=
  (p.ranges.filter (·.nb)).any fun r => rangeSealed s r.first r.count

/-- The reasons that the binary itself gives, beyond VERSION and FORMAT (R88). -/
def binBits (p : PlanBin) : Nat :=
  let ws := allWords p
  let feat := planFeat p
  let nd := ws.any fun x => wNd x.2.2
  reasons [
    (p.version / 256 == 2 && (p.reqFeat &&& topFeat != p.reqFeat || feat &&& p.reqFeat != feat), prFeature),
    (ws.any fun x => wUnit x.2.2 != x.1, prUnit),
    (ws.any fun x => wordOpcode p x.2.2, prOpcode),
    ((ws.any fun x => ndClass x.2.2 && !wNd x.2.2) || (nd && p.ndReach == 0), prNdMark),
    (ws.any fun x => wordNumfmt p x.2.2, prNumfmt),
    ((ws.any fun x => wordScratch x.2.1 x.2.2) || p.roles.any (streamBad p), prScratch),
    (p.roles.any fun r => decide (2048 < sumOf (r.lists.map (·.length))), prIstore),
    (decide (p.colls < (planDescs p).length), prCollectives),
    (p.startAt && p.nodes == 1, prStartTime)]

end Sys2Proof.Machine
end

