-- ==== Sys2Proof/Machine/Stream.lean ====
section
/-!
DEFINITION. The resident-model hot set: model slots, and the streaming of layers into scratch (R93 to R96).
-/
namespace Sys2Proof.Machine

/-- The model entry that a VSTREAM constant names: its index in bytes 0 and 1. -/
def streamModel (s : State) (c : Nat) (w : Nat) : Option ModelEnt :=
  (clPlan s c).bin.models[getLE (clConst s c (wA w)) 0 2]?

/-- The slot that holds a model of a partition. -/
def modelSlot (s : State) (part id : Nat) : Option (Nat × Model) :=
  tfind? s.work.models fun _ m => m.part = part && m.id = id

/-- The slot that a model may take (R94): the lowest EMPTY one, else the RESIDENT one of lowest priority and oldest use that no
running invocation uses and that has not priority 255. -/
def slotToTake (s : State) : Option Nat :=
  match tfreeBelow s.work.models 32 with
  | some i => some i
  | none =>
    let cands := s.work.models.filter fun kv => kv.2.state == .resident && kv.2.users.isEmpty && kv.2.prio != 255
    (leastBy (fun a b => decide (a.2.prio < b.2.prio) || (a.2.prio == b.2.prio && decide (a.2.lastUse < b.2.lastUse)))
      cands).map (·.1)

/-- A model takes a slot and starts to load (R94). -/
def loadModel (s : State) (i part : Nat) (e : ModelEnt) (first : Nat) : State :=
  let m : Model := { id := e.id, prio := e.prio, part := part, state := .loading, lastUse := s.now, total := e.layers,
                     tile := first, step := e.maxTiles }
  { s with work.models := tput s.work.models i m }

/-- The first tile of a model's weights. -/
def modelFirst (s : State) (c : Nat) (e : ModelEnt) : Nat := ((clPlan s c).bin.ranges[e.range]?.map (·.first)).getD 0

/-- An invocation uses a model (R94). -/
def useModel (s : State) (i : Nat) (inv : Option Nat) : State :=
  { s with work.models := tupd s.work.models i fun m =>
      { m with
        lastUse := s.now
        users := match inv with
          | some v => if m.users.contains v then m.users else m.users ++ [v]
          | none => m.users } }

/-- The half of the window that a layer goes to (R95), by byte address in scratch: banks from OPC's to the role's last. -/
def windowAddr (s : State) (c w layer : Nat) : Nat :=
  let bank := wC w / 2048
  let banks := match (clPlan s c).bin.roles.find? fun r => r.role = (s.cl c).role with
    | some r => r.banks
    | none => 0
  bank * tileBytes + layer % 2 * ((banks - bank) / 2 * tileBytes)

/-- Notes that an invocation waits for a model, or no longer does. -/
def setWaitModel (s : State) (inv : Option Nat) (m : Option Nat) : State :=
  match inv with
  | none => s
  | some i => { s with work.invs := tupd s.work.invs i fun v => { v with waitModel := m } }

/-- A VSTREAM goes as far as it can (R94, R95): the layer is copied to its half of the window when it has arrived; otherwise the
unit waits for it, and a model without a slot takes one when it may. A layer that the model does not have brings nothing. -/
def streamTry (s : State) (c w : Nat) : State :=
  let inv := unitInv s c 1
  match streamModel s c w with
  | none => retire s c 1
  | some e =>
    let layer := invWord s c 1 (wB w)
    let part := (s.cl c).part
    match modelSlot s part e.id with
    | some (i, m) =>
      let s1 := setWaitModel (useModel s i inv) inv none
      match m.data[layer]? with
      | some bytes => retire (scrWrite s1 c (windowAddr s c w layer) bytes) c 1
      | none => if m.state == .loading && decide (layer < m.total) then setWait s1 c 1 .model else retire s1 c 1
    | none =>
      match slotToTake s with
      | some i => setWait (setWaitModel (useModel (loadModel s i part e (modelFirst s c e)) i inv) inv none) c 1 .model
      | none => setWait (setWaitModel s inv (some e.id)) c 1 .model

/-- VSTREAM (R82, R95). -/
def execVstream (c : Fin 128) (s : State) : Res :=
  .next (issueW s c.val 1 0x11 (fun _ _ => []) fun w t => (true, streamTry t c.val w))

/-- Clusters whose vector unit waits for a model, by ingress of the invocation and then by number. -/
def streamWaiters (s : State) : List (Nat × Nat) :=
  let stampOf (c : Nat) : Nat := match unitInv s c 1 with
    | some i => (tgetD s.work.invs i { plan := 0, role := 0, part := 0, words := [] }).stamp
    | none => 0
  let cs := s.work.clusters.filterMap fun kv =>
    if (kv.2.unit 1).wait == .model then (kv.2.word 1).map fun w => (kv.1, w) else none
  sortBy (fun a b => decide (stampOf a.1 ≤ stampOf b.1)) cs

/-- MODEL_LAYER_ARRIVE (R95): the next layer of a model in LOADING arrives, in scratch and in the slot's stack tiles; the last
one makes the model RESIDENT. A layer that cannot be read ends the invocations that use the model. -/
def execModelLayerArrive (m : Fin 32) (s : State) : Res :=
  match tget? s.work.models m.val with
  | none => .next s
  | some x =>
    if x.state != .loading then .next s
    else
      match nodeRead s x.part (2 ^ 62 + m.val) ((x.tile + x.data.length * x.step) * tileBytes) (x.step * tileBytes) with
      | .wait s1 => .next s1
      | .bad st _ s1 =>
        .next (x.users.foldl (fun t i => endWork t i st) { s1 with work.models := terase s1.work.models m.val })
      | .ok bytes s1 =>
        let data := x.data ++ [bytes]
        let y : Model := { x with data := data, state := if x.total ≤ data.length then .resident else .loading }
        let s2 : State := { s1 with work.models := tput s1.work.models m.val y }
        .next ((streamWaiters s2).foldl (fun (t : State) (cw : Nat × Nat) =>
          if (streamModel t cw.1 cw.2).map (·.id) == some x.id && (t.cl cw.1).part == x.part then streamTry t cw.1 cw.2
          else t) s2)

/-- MODEL_SLOT_FREE (R94): a slot may be taken; the invocations that wait for one go on in ingress order. -/
def execModelSlotFree (m : Fin 32) (s : State) : Res :=
  let free := match tget? s.work.models m.val with
    | none => true
    | some x => x.state == ModelState.resident && x.users.isEmpty && x.prio != 255
  if free then .next ((streamWaiters s).foldl (fun (t : State) (cw : Nat × Nat) => streamTry t cw.1 cw.2) s) else .next s

end Sys2Proof.Machine
end

