-- ==== Sys2Proof/Machine/Plan.lean ====
section
/-!
DEFINITION. Admission, loading and release of plans, and their invocations (R76, R87 to R91, R94, R97, R98, R206, R273, R327,
R334, R377, R489).
-/
namespace Sys2Proof.Machine

/-- Consumed PLAN_LOADs come before one another by ingress stamp, then by queue-pair number (R89). -/
def loadBefore (s : State) (a b : Cmd) : Bool :=
  let q (c : Cmd) : Nat := (s.fn c.fn).qbase + c.q
  decide (a.stamp < b.stamp) || (a.stamp == b.stamp && decide (q a < q b))

/-- An earlier load has not been checked yet (R89). -/
def earlierLoad (s : State) (cid : Nat) (c : Cmd) : Bool :=
  let waits (i : Nat) : Bool := s.work.plans.any fun kv => kv.2.loadCid == some i && kv.2.sigWait
  s.host.cmds.any fun kv => kv.1 != cid && kv.2.code == 0x10 && (kv.2.phase == .admitted || waits kv.1) && loadBefore s kv.2 c

/-- A refused plan (R87, R100). -/
def refusePlan (s : State) (cid part tag bits : Nat) : State :=
  endCmd { s with work.planRefuse := tput s.work.planRefuse part (mkReg [(0, bits % 2 ^ 21), (32, tag % 2 ^ 32)]) } cid
    stPlanRefused bits

/-- The signature conditions of R76. Without a signature the partition must allow unsigned plans. The answer is none while the
service complex must still check the signature, by the key that the image carries. -/
def sigBad (s : State) (part : Nat) (p : PlanBin) : Bool × Option (List Byte) :=
  let e := tgetD s.pkg.sec.parts part {}
  if !p.signed then (!e.unsignedOk, none)
  else
    let key := s.pkg.sec.keys.find? fun k => leBytes 8 0 != p.signer && nameOfKey k == p.signer
    if e.signers.contains p.signer && p.sigReserved then (key.isNone, key) else (true, none)

/-- The signature of a plan is valid (R76). -/
def sigOk (key : List Byte) (p : PlanBin) : Bool := Config.ecdsaP521 key p.digest p.sig

/-- Tiles that the plan pins, each once. -/
def pinTiles (p : PlanBin) : List Nat :=
  (pinRanges p.ranges).foldl (fun (acc : List Nat) (r : Nat × Nat) =>
    acc ++ ((List.range r.2).map (r.1 + ·)).filter fun t => !acc.contains t) []

/-- Tiles that a plan would newly pin (R206): no plan pins them yet. -/
def newPins (s : State) (p : PlanBin) : List Nat :=
  (pinTiles p).filter fun t => (tget? s.tier.pins t).isNone && (s.home t).st != .pinned

/-- Distinct tiles that the partition holds pinned, sealed ones apart (R206, R207). -/
def heldPins (s : State) (part : Nat) : Nat :=
  (s.tier.pins.filter fun kv => inPrange s part kv.1 1 && (sealedBy s kv.1).isNone).length

/-- A tile homed in a stack needs no frame (R206). -/
def inStack (s : State) (t : Nat) : Bool :=
  let h := s.home t
  h.tier == 1 && (h.st == .home || h.st == .pinned || h.st == .moving)

/-- A stack frame for a tile to be pinned (R206): a free one, else one whose tile may be evicted; that tile's move down starts,
or waits for a move slot. -/
def pinFrame (s : State) (p t : Nat) : Option (Nat × State) :=
  match freeAnyStack s with
  | some k => some (k, takeFrame s k t)
  | none =>
    match victim s p with
    | none => none
    | some (k, f) =>
      match lowHome s f.tile with
      | none => none
      | some (tier, loc, s1) =>
        let s2 := if s.tier.moves.length < 256 then beginMove s1 f.tile tier loc false false
          else { s with tier.moveWait := s.tier.moveWait ++ [(f.tile, 4, 0, false)] }
        some (k, takeFrame (count s2 (tileOwner s f.tile) Ev.evict) k t)

/-- Frames for the tiles of a list, or none (R206). -/
def pinFrames (s : State) (p : Nat) : List Nat → Option (Tab (Option Nat) × State)
  | [] => some ([], s)
  | t :: ts =>
    if inStack s t then (pinFrames s p ts).map fun x => (tput x.1 t none, x.2)
    else
      match pinFrame s p t with
      | none => none
      | some (k, s1) => (pinFrames s1 p ts).map fun x => (tput x.1 t (some k), x.2)

/-- One pin more of a tile, on the way to PINNED (R196, R206): at once for one homed in a stack or unmapped, by a move
otherwise. -/
def pinTile (s : State) (t : Nat) (frame : Option Nat) : State :=
  let h := s.home t
  let s1 := { s with tier.pins := tmod s.tier.pins t 0 (· + 1) }
  match h.st with
  | .pinned | .poisoned => s1
  | .moving => count s1 (tileOwner s t) Ev.pinWait
  | .unmapped =>
    match frame with
    | some k => s1.setHome t ⟨.pinned, 1, stackLoc k⟩
    | none => s1
  | .home =>
    if h.tier = 1 then s1.setHome t { h with st := .pinned }
    else { s1 with tier.moveWait := s1.tier.moveWait.filter (·.1 != t) ++ [(t, 1, 0, true)] }

/-- Descriptor slots that are free, lowest first (R327). -/
def freeDescs (s : State) (n : Nat) : List Nat :=
  ((List.range 4096).filter fun i => (tget? s.fab.descs i).isNone).take n

/-- Staging that the plan needs on this node as a root (R327). -/
def stagingNeed (node : Nat) (p : PlanBin) : Nat :=
  sumOf ((planDescs p).map fun k =>
    let d := collD ((List.range 4).flatMap fun i => slice (p.consts.getD (k + i) []) 0 16)
    if d.root ≠ node then 0
    else if d.op = opReduce && d.fmt ≠ 8 then d.elems * 4 * popCount 64 d.contrib
    else if d.op = opGather && d.filt then 16 + popCount 64 d.contrib * d.items * d.itemBytes
    else 0)

/-- Models of priority 255 that do not have a slot yet (R93). -/
def newModels (s : State) (part : Nat) (p : PlanBin) : List ModelEnt :=
  (p.models.filter fun e => e.prio = 255 && (modelSlot s part e.id).isNone).foldl
    (fun (acc : List ModelEnt) e => if acc.any (fun x => x.id = e.id) then acc else acc ++ [e]) []

/-- Slots that a model of priority 255 may take: EMPTY ones and those that may be evicted (R94). -/
def takeableSlots (s : State) : Nat :=
  (32 - s.work.models.length) +
    (s.work.models.filter fun kv => kv.2.state == .resident && kv.2.users.isEmpty && kv.2.prio != 255).length

/-- Context slots that no admitted plan's reservation holds and that are not retired (R489). -/
def unreservedCount (s : State) : Nat := ctxCount - s.epo.ctxRetired.length - s.epo.ctxOwner.length

/-- A cluster can be given to a plan (R34, R89). -/
def clusterFree (s : State) (c : Nat) : Bool := (s.cl c).st != .unavailable && (s.cl c).plan.isNone

/-- Positions that the plan's descriptors name, and this node (R97). -/
def spanBad (s : State) (p : PlanBin) : Bool :=
  let roots := (planDescs p).map fun k => getLE (p.consts.getD (k + 1) []) 0 1
  let inMap (x : Nat) : Bool := x == s.fab.node || bitOf s.mbr.members x
  (p.nodes == 1 && roots.any (· != s.fab.node)) || (p.nodes != 1 && (roots.any (fun x => !inMap x) ||
    decide (popCount 64 s.mbr.members < p.nodes)))

/-- The reasons that the node's resources give (R88 to R90, R93, R190, R206, R327, R334, R489). -/
def resourceBits (s : State) (part : Nat) (p : PlanBin) : Nat :=
  let cs := p.roles.flatMap fun (r : RoleEnt) => r.clusters
  let new := newPins s p
  reasons [
    (cs.any (fun c => !clusterFree s c) || (dedup cs).length != cs.length, prClusters),
    (decide (unreservedCount s < p.contexts), prContexts),
    (decide (32 < p.models.length) || decide (takeableSlots s < (newModels s part p).length), prModels),
    (decide (fld (tgetD s.tier.pguar part 0) 57 32 < heldPins s part + new.length) || (pinFrames s part new).isNone, prPins),
    (decide (4096 - s.fab.descs.length < p.colls) ||
      decide (16777216 < sumOf (s.work.plans.map fun kv => kv.2.staging) + stagingNeed s.fab.node p), prCollectives),
    (nbSealedRange s p || p.ranges.any (fun r => s.tier.sealed.any fun x =>
      x.1 != part && decide (r.first < x.2.1 + x.2.2) && decide (x.2.1 < r.first + r.count)), prSealed),
    (spanBad s p, prSpan),
    (p.ranges.any fun r => !inPrange s part r.first r.count, prRange)]

/-- The lowest-numbered context slots that are unreserved, `n` of them (R489). -/
def takeContexts (s : State) (slot : Nat) : (n : Nat) → State
  | 0 => s
  | n + 1 =>
    match unreservedCtx s fun _ => true with
    | none => s
    | some k => takeContexts { s with epo.ctxOwner := tput s.epo.ctxOwner k slot } slot n

/-- The models of priority 255 take their slots (R93). -/
def takeModels (s : State) (part : Nat) (p : PlanBin) : State :=
  p.models.foldl (fun t e =>
    if e.prio ≠ 255 then t
    else
      match modelSlot t part e.id with
      | some (i, m) => { t with work.models := tput t.work.models i { m with prio := 255 } }
      | none =>
        match slotToTake t with
        | none => t
        | some i => loadModel t i part e ((p.ranges[e.range]?.map (·.first)).getD 0)) s

/-- Reserves every resource of a plan in one step and starts to load its roles (R89, R90). -/
def reservePlan (s : State) (slot : Nat) (x : Plan) : State :=
  let p := x.bin
  match pinFrames s x.part (newPins s p) with
  | none => s
  | some (frames, s1) =>
    let pins : Tab (Option Nat) := (pinTiles p).foldl (fun (a : Tab (Option Nat)) t => tput a t (tgetD frames t none)) []
    let ds := freeDescs s1 p.colls
    let y : Plan := { x with pins := pins, descs := ds, staging := stagingNeed s.fab.node p, sigWait := false }
    let s2 : State := { s1 with work.plans := tput s1.work.plans slot y }
    let s3 := pins.foldl (fun (t : State) kv => pinTile t kv.1 kv.2) s2
    let held : Tab (Nat × Nat) := ds.foldl (fun (a : Tab (Nat × Nat)) d => tput a d (slot, x.part)) s3.fab.descs
    let s4 := takeModels (takeContexts { s3 with fab.descs := held } slot p.contexts) x.part p
    p.roles.foldl (fun (t : State) (r : RoleEnt) =>
      r.clusters.foldl (fun (u : State) c => takeRole u c slot x.part r.role) t) s4

/-- A refusal for RANGE counts as R190 says. -/
def notePlanRange (s : State) (part bits : Nat) : State := if bitOf bits 20 then rangeErr s part else s

/-- The end of a plan's checks (R87 to R90, R97): refused with every reason, or its resources are reserved. -/
def decidePlan (s : State) (slot : Option Nat) (cid : Nat) (x : Plan) (bad : Bool) : State :=
  let bits := binBits x.bin ||| resourceBits s x.part x.bin ||| (x.others % 2 ^ 21) |||
    reasons [(bad, prSignature), (slot.isNone, prSlots)]
  match slot with
  | some i =>
    if bits = 0 then reservePlan s i x
    else
      refusePlan (notePlanRange { s with work.plans := terase s.work.plans i } x.part bits) cid x.part x.bin.tag bits
  | none => refusePlan (notePlanRange s x.part bits) cid x.part x.bin.tag bits

/-- PLAN_LOAD (R87, R300): the binary as it was read, and the reasons of the span's other nodes. -/
def execPlanLoad (cid : Nat) (data : HostRead) (others : BitVec 32) (s : State) : Res :=
  match cmdOf s cid 0x10 with
  | none => .next s
  | some c =>
    let len := getLE c.bytes 0x10 4
    if s.fab.role ≠ 0 then .next (refusePlan s cid c.part 0 prRole)
    else
      let aux := headReasons c [(8, 8), (0x10, 4), (0x18, 8)] ||| reasons [(getLE c.bytes 8 8 % 64 != 0, rsFormat),
        (hostioOff s c, rsHostio)]
      if aux ≠ 0 then .next (refuse s cid aux)
      else
        match data with
        | .failed => .next (refuse s cid rsHostio)
        | .ok b0 =>
          let b := b0.take len
          let bad := planFormatBad b len
          let p := if bad then none else some (planBin b)
          let bits := reasons [(planVersionBad b p, prVersion), (bad, prFormat)]
          match p with
          | none => .next (refusePlan s cid c.part (planTag b) bits)
          | some bin =>
            if bits ≠ 0 then .next (refusePlan s cid c.part bin.tag bits)
            else if earlierLoad s cid c then .next s
            else
              let x : Plan := { part := c.part, bin := bin, seed := getLE c.bytes 0x18 8, loadCid := some cid
                                others := if bin.multi then others.toNat else 0 }
              let s1 := runCmd s cid
              match sigBad s c.part bin, tfreeBelow s.work.plans 256 with
              | (false, some _), some i => .next { s1 with work.plans := tput s1.work.plans i { x with sigWait := true } }
              | (false, some key), none => .next (decidePlan s1 none cid x (!sigOk key bin))
              | (bad, none), i => .next (decidePlan s1 i cid x bad)
              | (true, some _), i => .next (decidePlan s1 i cid x true)

/-- PLAN_SIGNATURE_VERIFIED (R76): admission goes on, or refuses with SIGNATURE among the reasons. -/
def execPlanSignatureVerified (slot : Fin 256) (s : State) : Res :=
  match tget? s.work.plans slot.val with
  | none => .next s
  | some x =>
    match x.loadCid with
    | none => .next s
    | some cid =>
      let wait := match tget? s.host.cmds cid with
        | some c => earlierLoad s cid c
        | none => false
      if !x.sigWait || wait then .next s
      else
        let bad := match sigBad s x.part x.bin with
          | (b, some key) => b || !sigOk key x.bin
          | (b, none) => b
        let unl := x.unloadCids
        let s1 := decidePlan s (some slot.val) cid x bad
        .next (if (tget? s1.work.plans slot.val).isNone then unl.foldl (fun t u => refuse t u rsName) s1 else s1)

/-- Every tile that the plan pins is PINNED in a stack, or POISONED (R206). -/
def pinsReady (s : State) (x : Plan) : Bool :=
  x.pins.all fun kv => let h := s.home kv.1; h.st == .poisoned || (h.st == .pinned && h.tier == 1)

/-- ROLE_LOAD_DONE (R90, R91, R34): every cluster of the plan has its role and every pin is in place; the load completes, and
an unload that waited for it goes on. -/
def execRoleLoadDone (slot : Fin 256) (s : State) : Res :=
  match tget? s.work.plans slot.val with
  | none => .next s
  | some x =>
    let cs := (s.work.clusters.filter fun kv => kv.2.plan == some slot.val).map (·.1)
    if x.state != .loading || x.sigWait || !pinsReady s x || cs.any (fun c => (s.cl c).st == .clearing) then .next s
    else
      let s1 := cs.foldl (fun t c => if (t.cl c).st == .loading then roleLoaded t c else t) s
      let ends := !x.unloadCids.isEmpty || x.bin.roles.any fun r => r.clusters.isEmpty
      let y : Plan := { x with state := if ends then .unloading else .admitted, loadCid := none }
      .next (endCmd? { s1 with work.plans := tput s1.work.plans slot.val y } x.loadCid stOk 0 slot.val)

/-- PLAN_UNLOAD (R91, R377, R384). -/
def execPlanUnload (cid : Nat) (s : State) : Res :=
  match cmdOf s cid 0x11 with
  | none => .next s
  | some c =>
    let i := getLE c.bytes 8 1
    let mine := match tget? s.work.plans i with
      | some x => x.part == c.part
      | none => false
    let twice := match tget? s.work.plans i with
      | some x => x.state == .unloading || !x.unloadCids.isEmpty
      | none => false
    let aux := headReasons c [(8, 1)] ||| reasons [(!mine, rsName), (mine && twice, rsQuiesce)]
    if aux ≠ 0 then .next (refuse s cid aux)
    else
      let s1 := runCmd s cid
      .next (startUnload { s1 with work.plans := tupd s1.work.plans i fun x =>
        { x with unloadCids := x.unloadCids ++ [cid] } } i)

/-- Some unit has taken this invocation (R91). -/
def invTaken (s : State) (i : Nat) : Bool :=
  s.work.clusters.any fun kv =>
    (List.range kv.2.input.length).any fun k => kv.2.input[k]? == some i && (List.range 4).any fun u => decide (k < (kv.2.unit u).taken)

/-- Queries of a plan slot, on this node. -/
def queriesOf (s : State) (slot : Nat) : List (Nat × Query) :=
  s.work.queries.filter fun kv => getLE kv.2.desc 0x2A 1 == slot &&
    (match tget? s.work.plans slot with
      | some x => x.part == kv.2.part
      | none => false)

/-- PLAN_RELEASE (R91): no invocation that a unit has taken still runs; the others end refused, the roles end, and everything
is released. -/
def execPlanRelease (slot : Fin 256) (s : State) : Res :=
  match tget? s.work.plans slot.val with
  | none => .next s
  | some x =>
    let mine := s.work.invs.filter fun kv => kv.2.plan = slot.val
    let given := (queriesOf s slot.val).any fun kv => match kv.2.inv with
      | some i => (tget? s.work.invs i).isNone || invTaken s i
      | none => false
    if x.state != .unloading || mine.any (fun kv => invTaken s kv.1) || given then .next s
    else
      let s1 := (mine.map (·.1)).foldl (fun t i => endWork t i (refusal rsQuiesce)) s
      let s2 := ((queriesOf s1 slot.val).map (·.1)).foldl (fun t q => endQuery t q (refusal rsQuiesce)) s1
      .next (releasePlan s2 slot.val)

/-- The plan of a slot, when it is admitted for a partition. -/
def admitted (s : State) (part slot : Nat) : Option Plan :=
  match tget? s.work.plans slot with
  | some x => if x.part = part && x.state == .admitted then some x else none
  | none => none

/-- Why a plan slot and role cannot take work of a partition (R90, R91, R384). -/
def planReasons (s : State) (part slot role : Nat) : Nat :=
  match tget? s.work.plans slot with
  | none => rsName
  | some x =>
    if x.part ≠ part || x.state == .loading then rsName
    else reasons [(x.state == .unloading, rsQuiesce), (!(x.bin.roles.any fun r => r.role = role), rsName)]

/-- The slot's next step, or the one given (R273). -/
def stepFor (s : State) (slot given : Nat) : Nat :=
  if given = 2 ^ 64 - 1 then ((tgetD s.work.plans slot {}).step + 1) % 2 ^ 64 else given

/-- Notes the step of an invocation (R273, R457): LEV_STEP shows the last STEP assigned or used; only an assigned one counts
on. -/
def noteStep (s : State) (slot n : Nat) (given : Bool) : State :=
  { s with work.plans := tupd s.work.plans slot fun x =>
      { x with step := if given then x.step else n, shown := n } }

/-- INVOKE (R83, R98, R273, R377). -/
def execInvoke (cid : Nat) (s : State) : Res :=
  match cmdOf s cid 0x12 with
  | none => .next s
  | some c =>
    let slot := getLE c.bytes 0x20 1
    let role := getLE c.bytes 0x21 1
    let dl := getLE c.bytes 0x1C 4
    let bad := decide (2 ≤ c.flags) || !reservedZero (c.bytes.take 128) 8 [(8, 8), (0x10, 8), (0x18, 4), (0x1C, 4), (0x20, 2)] ||
      getLE c.bytes 8 8 % 64 != 0
    let aux := reasons [(bad, rsFormat), (c.version != 0x0200, rsVersion)] ||| planReasons s c.part slot role
    if aux ≠ 0 then .next (refuse s cid aux)
    else
      let given := getLE c.bytes 0x10 8
      let step := stepFor s slot given
      let x := tgetD s.work.plans slot {}
      let ws := (List.range 16).map fun i => getLE c.bytes (128 + 8 * i) 8
      let words := if bitOf c.flags 0 then ws.set 15 c.stamp else ws
      let v : Inv := { plan := slot, role := role, part := c.part, words := words, cid := some cid, stamp := c.stamp
                       step := step, deadline := if dl = 0 then none else some (c.stamp + dl), fn := c.fn
                       outAddr := getLE c.bytes 8 8, outLen := getLE c.bytes 0x18 4
                       state := if x.bin.startAt then .held else .arriving
                       startT := if x.bin.startAt then some (words.headD 0) else none }
      let s1 := noteStep (runCmd s cid) slot step (given != 2 ^ 64 - 1)
      .next { s1 with work := { s1.work with invs := tput s1.work.invs s1.work.nextInv v, nextInv := s1.work.nextInv + 1 } }

/-- INVOKE_DEADLINE_EXPIRE (R94): an invocation that waits for a model slot ends with TIMEOUT and no data. -/
def execInvokeDeadlineExpire (inv : Nat) (s : State) : Res :=
  match tget? s.work.invs inv with
  | none => .next s
  | some v =>
    match v.deadline with
    | none => .next s
    | some d => .next (if d ≤ s.now && v.waitModel.isSome then dropInv s inv v else s)
where
  /-- The units that wait for the model for this invocation go on without it. -/
  dropInv (s : State) (inv : Nat) (v : Inv) : State :=
    let s1 := endWork s inv stTimeout
    v.left.foldl (fun t c => if unitInv t c 1 == some inv then resume t c 1 .model else t) s1

/-- START_AT_BARRIER_RELEASE (R98): the ARMs of the other nodes of the span, by position, are here, and the time has reached T;
the invocation starts. -/
def execStartAtBarrierRelease (inv : Nat) (armed : W64) (s : State) : Res :=
  match tget? s.work.invs inv with
  | none => .next s
  | some v =>
    match v.startT with
    | none => .next s
    | some t =>
      let need := (tgetD s.work.plans v.plan {}).bin.nodes
      if v.state == .held && decide (t ≤ s.now) && decide (need ≤ popCount 64 (armed.toNat ||| 2 ^ s.fab.node)) then
        .next { s with work.invs := tput s.work.invs inv { v with state := .arriving, startT := none } }
      else .next s

/-- START_GRACE_EXPIRE (R98): the barrier has not released by T + START_GRACE. -/
def execStartGraceExpire (inv : Nat) (s : State) : Res :=
  match tget? s.work.invs inv with
  | none => .next s
  | some v =>
    match v.startT with
    | none => .next s
    | some t =>
      let grace := (tgetD s.work.plans v.plan {}).bin.grace * 1000
      .next (if v.state == .held && decide (t + grace ≤ s.now) then endInv s inv stTimeout else s)

end Sys2Proof.Machine
end

