-- ==== Sys2Proof/Machine/Query.lean ====
section
/-!
DEFINITION. Admission of queries, their vectors, epochs and contexts, and forwarded queries (R14, R110 to R112, R118, R127,
R242, R243, R301, R312, R489).
-/
namespace Sys2Proof.Machine

/-- Further fields of a query descriptor (R110). -/
def qMinEp (d : List Byte) : Bool := bitOf (getLE d 1 1) 0
def qMinEpoch (d : List Byte) : Nat := getLE d 0x10 8
def qTierVec (d : List Byte) : Bool := bitOf (getLE d 0x18 8) 63
def qVecAddr (d : List Byte) : Nat := getLE d 0x18 8 % 2 ^ 63
def qFmt (d : List Byte) : Nat := getLE d 0x4C 1
def qSlot (d : List Byte) : Nat := getLE d 0x2A 1
def qRole (d : List Byte) : Nat := getLE d 0x2B 1
def qIndex (d : List Byte) : Nat := getLE d 0x28 2

/-- A field outside its range, or a reserved bit (R110, R111). -/
def qFieldBad (d : List Byte) : Bool :=
  let pool := getLE d 0x36 2
  decide (16 ≤ getLE d 1 1) || getLE d 8 8 % 64 != 0 || qVecAddr d % 64 != 0 || decide (4096 ≤ qIndex d) ||
    decide (0x4000 ≤ getLE d 0x2C 2) || qWiden d == 3 || decide (16 ≤ getLE d 0x2E 1) ||
    decide (qBeam d < 8) || decide (256 < qBeam d) || decide (qVisits d < 16) || decide (16384 < qVisits d) ||
    decide (1024 < qRerank d) || decide (qPool d < qRerank d) || (pool != 0 && decide (pool < qK d)) ||
    decide (64 < getLE d 0x3F 1) || !(5 ≤ qFmt d && qFmt d ≤ 7) || !allZero (slice d 0x4D 51)

/-- The scratch that a walk needs (R118). -/
def walkArea (d : List Byte) (m : Nat) : Nat :=
  ceilDiv (16384 + 64 * m + 8 * (qBeam d + min 65536 (qPool d * 2 ^ qWiden d))) 1024 * 1024

/-- The WWALK words of a role of a plan. -/
def walkWords (p : Plan) (role : Nat) : List Nat :=
  match p.bin.roles.find? fun r => r.role = role with
  | some r => (r.lists.getD 2 []).filter fun w => wOp w = 0x02
  | none => []

/-- A query that does not fit its index (R111). -/
def qIndexBad (d : List Byte) (x : IdxD) : Bool :=
  let f := qForm d
  (f == 0 && !x.graph) || (f == 1 && !(x.graph && x.ivf)) || (f == 2 && !x.ivf) || (f == 3 && !x.flat) ||
    ((f == 1 || f == 2) && decide (x.nlists < qNprobe d))

/-- A query that does not fit its plan's role (R111, R112, R118, R129). -/
def qRoleBad (d : List Byte) (x : IdxD) (p : Plan) : Bool :=
  let ws := walkWords p (qRole d)
  let banks := ((p.bin.roles.find? fun r => r.role = qRole d).map (·.banks)).getD 0
  let filt := filterProg p.bin.consts (qFilter d)
  ws.isEmpty ||
    ws.any (fun w => let n := constName (p.bin.consts.getD (wB w) []); n != 0xFFFF && n != qIndex d) ||
    ws.any (fun w => decide (gran (banks * 2048) < gran (wA w) + walkArea d x.m)) ||
    (qFilter d != 0 && (x.metaBytes == 0 || (match filt with
      | none => true
      | some ts => ts.any (tmPast x.metaBytes))))

/-- A position whose shard some member hosts, or that is itself in the map (R111, R408). -/
def qSpanBad (s : State) (d : List Byte) : Bool :=
  qSpan d && (bitsSet 64 (spanMask d)).any fun p => (hostOf s p).isNone && !bitOf s.mbr.members p

/-- Bytes of the query vector. -/
def qVecBytes (d : List Byte) (x : IdxD) : Nat := x.dims * if qFmt d = 7 then 4 else 2

/-- Every cause for which a query is refused before its vector is read (R111, R376, R384). -/
def queryReasons (s : State) (part : Nat) (d : List Byte) : Nat :=
  let x := (tget? s.work.indexes (qIndex d)).map fun i => idxD i.desc
  let reg := registered s part (qIndex d)
  let fit := match x with
    | some i => reg && qIndexBad d i
    | none => false
  let plan := match x, admitted s part (qSlot d) with
    | some i, some p => reg && (planReasons s part (qSlot d) (qRole d) == 0) && qRoleBad d i p
    | _, _ => false
  let range := match x with
    | some i => reg && qTierVec d && !(let t := tilesOf (qVecAddr d) (qVecBytes d i); inPrange s part t.1 t.2)
    | none => false
  reasons [(qFieldBad d || fit || plan, rsFormat), (getLE d 2 2 != 0x0200, rsVersion), (!reg, rsName),
    (qSpanBad s d, rsSpan), (range, rsRange), (s.pkg.sec.stop != .running, rsQuiesce)] ||| planReasons s part (qSlot d) (qRole d)

/-- The deadline D of a query at its entry node (R127). -/
def queryDeadline (s : State) (part stamp : Nat) (d : List Byte) : Nat :=
  let dl := getLE d 0x38 4
  stamp + if dl = 0 then fld (s.adm part).pcfg 31 0 else dl

/-- Binds a query to its epoch, when that epoch has closed (R14, R243). A forwarded query is bound to the very epoch of its
entry node. -/
def bindEpoch (s : State) (q : Query) : Option Nat :=
  if q.entry.isSome then (if qMinEpoch q.desc ≤ s.epo.closed then some (qMinEpoch q.desc) else none)
  else if !qMinEp q.desc then some s.epo.closed
  else if qMinEpoch q.desc ≤ s.epo.closed then some (max (qMinEpoch q.desc) s.epo.oldest)
  else none

/-- The context slot that a query of a plan takes (R489): a free one of the plan's reservation, else a free unreserved one. -/
def queryCtxFree (s : State) (slot : Nat) : Option Nat :=
  let free (k : Nat) : Bool := (tget? s.epo.ctxUsed k).isNone && (tget? s.epo.ctxRetired k).isNone
  match tfind? s.epo.ctxOwner fun k p => p = slot && free k with
  | some (k, _) => some k
  | none => unreservedCtx s fun k => (tget? s.epo.ctxUsed k).isNone

/-- Sixteen free values: the spec does not state a query's invocation words. -/
def freeWords (s : State) : (n : Nat) → List Nat × State
  | 0 => ([], s)
  | n + 1 => let (w, s1) := takeFree s; let (ws, s2) := freeWords s1 n; (w.toNat :: ws, s2)

/-- The descriptor that goes to the other nodes of a span: with the bound epoch, the stamp and the deadline filled in. -/
def qfwdDesc (q : Query) (epoch : Nat) : List Byte :=
  patch (patch (patch q.desc 8 (leBytes 8 q.stamp)) 0x10 (leBytes 8 epoch)) 0x38 (leBytes 4 (q.deadline - q.stamp))

/-- Sends the descriptor of a span query to the other nodes, and opens its merge (R14, R312, R316). A shard that no node hosts
is absent (R408). -/
def sendSpan (s : State) (qid : Nat) (q : Query) (ctx epoch : Nat) : State :=
  let mask := mergeMask q.desc (ownShard s)
  let key := s.fab.nextColl
  let m : Coll := { qid := some qid, n := ctx, part := q.part, mask := mask, closeT := q.deadline }
  let s1 := count { s with fab := { s.fab with colls := tput s.fab.colls key m, nextColl := key + 1 }
                           work.queries := tput s.work.queries qid { q with merge := some key } } q.part Ev.swcOpen
  (bitsSet 64 mask).foldl (fun t v =>
    match hostOf t v with
    | none => loseRanks t key (2 ^ rankOf mask v)
    | some p =>
      sendPkt t { kind := kQfwd, dst := p, src := t.fab.node, part := q.part, len := 128, addr := p * 2 ^ 52 + ctx
                  payload := slice (qfwdDesc q epoch) 0 128 }) s1

/-- A query starts once it has its vector, its epoch and its context (R110, R273): its invocation goes to the role's input
queue, and a span's descriptor to the other nodes. -/
def startQuery (s : State) (qid : Nat) : State :=
  match tget? s.work.queries qid with
  | none => s
  | some q =>
    match q.vec, q.epoch, q.ctx, admitted s q.part (qSlot q.desc) with
    | some _, some e, some k, some _ =>
      if q.inv.isSome || q.held then s
      else
        let (ws, s1) := freeWords s 16
        let i := s1.work.nextInv
        let v : Inv := { plan := qSlot q.desc, role := qRole q.desc, part := q.part, words := ws, qid := some qid
                         stamp := q.stamp, step := q.step, deadline := some q.deadline, fn := q.fn }
        let y := { q with inv := some i }
        let s2 : State := { s1 with work := { s1.work with
          invs := tput s1.work.invs i v, nextInv := i + 1, queries := tput s1.work.queries qid y } }
        if qSpan q.desc && q.entry.isNone then sendSpan s2 qid y k e else s2
    | _, _, _, _ => s

/-- Gives a query a context slot, if one is free (R489). -/
def takeQueryCtx (s : State) (qid : Nat) : State :=
  match tget? s.work.queries qid with
  | none => s
  | some q =>
    match queryCtxFree s (qSlot q.desc) with
    | none => s
    | some k =>
      let s1 := { s with epo.ctxUsed := tput s.epo.ctxUsed k true
                         work.queries := tput s.work.queries qid { q with ctx := some k } }
      match queryCtx s1 qid with
      | (true, s2) => s2
      | (false, s2) => startQuery s2 qid

/-- A query takes its number, binds to its epoch or is held for it, and takes a context (R14, R243, R489). -/
def addQuery (s : State) (q : Query) : State :=
  let qid := s.work.nextQid
  let e := bindEpoch s q
  let y := { q with epoch := e, held := e.isNone }
  let s1 : State := { s with work := { s.work with queries := tput s.work.queries qid y, nextQid := qid + 1 } }
  let s2 := if e.isNone then count s1 q.part Ev.epochWait else s1
  takeQueryCtx s2 qid

/-- QUERY (R110, R111, R14, R243, R273, R489). -/
def execQuery (cid : Nat) (s : State) : Res :=
  match cmdOf s cid 0x20 with
  | none => .next s
  | some c =>
    let d := c.bytes.take 128
    let aux := queryReasons s c.part d ||| reasons [(hostioOff s c, rsHostio)]
    if aux ≠ 0 then .next (refuseTier s c cid aux)
    else
      let step := stepFor s (qSlot d) (2 ^ 64 - 1)
      let s1 := noteStep (runCmd s cid) (qSlot d) step false
      .next (addQuery s1 { cid := some cid, fn := c.fn, part := c.part, desc := d, stamp := c.stamp
                           deadline := queryDeadline s c.part c.stamp d, step := step })

/-- The elements of a query vector in FP32 (R112). -/
def qVals (d : List Byte) (x : IdxD) (b : List Byte) : List F32 :=
  let n := if qFmt d = 7 then 4 else 2
  ((chunks n (x.dims + 1) (slice b 0 (x.dims * n))).map leNat).map fun e => f32r ((Fmt.ofCode (qFmt d)).elem e)

/-- The vector's elements before conversion are finite (R112). -/
def qFinite (d : List Byte) (x : IdxD) (b : List Byte) : Bool :=
  let n := if qFmt d = 7 then 4 else 2
  ((chunks n (x.dims + 1) (slice b 0 (x.dims * n))).map leNat).all fun e => ((Fmt.ofCode (qFmt d)).elem e).isFin

/-- A vector is here (R112): a NaN, an infinity, and under cosine a norm of zero, refuse the query. -/
def takeQueryVec (s : State) (qid : Nat) (q : Query) (x : Index) (b : List Byte) : State :=
  let d := idxD x.desc
  let v := qVals q.desc d b
  if !qFinite q.desc d b || (d.metric = 1 && (f32v (normF v)).isZero) then endQuery s qid (refusal rsData)
  else startQuery { s with work.queries := tput s.work.queries qid { q with vec := some v } } qid

/-- QUERY_VECTOR_ARRIVE (R112, R368): a vector in the entry node's tier space is read there; any other comes with the event. -/
def execQueryVectorArrive (qid : Nat) (data : HostRead) (s : State) : Res :=
  match tget? s.work.queries qid with
  | none => .next s
  | some q =>
    match queryIndex s q with
    | none => .next s
    | some x =>
      if q.vec.isSome then .next s
      else if qTierVec q.desc && q.entry.isNone then
        match nodeRead s q.part (2 ^ 62 + qid) (qVecAddr q.desc) (qVecBytes q.desc (idxD x.desc)) with
        | .wait s1 => .next s1
        | .bad st _ s1 => .next (endQuery s1 qid st)
        | .ok b s1 => .next (takeQueryVec s1 qid q x b)
      else
        match data with
        | .failed => .next (endQuery s qid (refusal rsHostio))
        | .ok b => .next (takeQueryVec s qid q x b)

/-- QUERY_HOLD_RELEASE (R14, R243). -/
def execQueryHoldRelease (qid : Nat) (s : State) : Res :=
  match tget? s.work.queries qid with
  | none => .next s
  | some q =>
    match q.held, bindEpoch s q with
    | true, some e =>
      let s1 : State := { s with work.queries := tput s.work.queries qid { q with held := false, epoch := some e } }
      .next (if q.ctx.isSome then startQuery s1 qid else takeQueryCtx s1 qid)
    | _, _ => .next s

/-- QUERY_HOLD_TIMEOUT (R14, R94, R489): a query that waits for its epoch, a context or a model slot. -/
def execQueryHoldTimeout (qid : Nat) (s : State) : Res :=
  match tget? s.work.queries qid with
  | none => .next s
  | some q =>
    let model := match q.inv.bind (tget? s.work.invs) with
      | some v => v.waitModel.isSome
      | none => false
    if q.deadline ≤ s.now && (q.held || q.ctx.isNone || model) then
      let units := match q.inv.bind (tget? s.work.invs) with
        | some v => if model then v.left else []
        | none => []
      let s1 := endQuery s qid stTimeout
      .next (units.foldl (fun t c => if unitInv t c 1 == q.inv then resume t c 1 .model else t) s1)
    else .next s

/-- The query that waits longest for a context and may take slot `k`: one of the plan that reserved it, or any when it is
unreserved. -/
def ctxQuery (s : State) (k : Nat) : Option (Nat × Query) :=
  leastBy (fun a b => decide (a.2.stamp < b.2.stamp)) (s.work.queries.filter fun kv =>
    kv.2.ctx.isNone && (match tget? s.epo.ctxOwner k with
      | none => true
      | some p => p == qSlot kv.2.desc))

/-- The update that waits longest for a context. -/
def ctxUpdate (s : State) : Option (Nat × Update) :=
  leastBy (fun a b => decide (a.2.lrec.stamp < b.2.lrec.stamp)) (s.epo.updates.filter fun kv =>
    kv.2.ctx.isNone && kv.2.st == .allocated)

/-- CONTEXT_FREE (R489): a free slot goes to the work that has waited longest. -/
def execContextFree (ctx : Fin 262144) (s : State) : Res :=
  let k := ctx.val
  if (tget? s.epo.ctxUsed k).isSome || (tget? s.epo.ctxRetired k).isSome then .next s
  else
    let upd := if (tget? s.epo.ctxOwner k).isNone then ctxUpdate s else none
    match ctxQuery s k, upd with
    | none, none => .next s
    | none, some (uid, _) => .next (takeUpdCtx s uid)
    | some (qid, _), none => .next (takeQueryCtx s qid)
    | some (qid, q), some (uid, u) =>
      .next (if u.lrec.stamp < q.stamp then takeUpdCtx s uid else takeQueryCtx s qid)

/-- REJECT from a node that does not take a forwarded query (R301): the entry node's context number comes back in it. -/
def rejectQfwd (s : State) (p : Packet) : State :=
  sendPkt s { kind := kReject, dst := p.src, src := s.fab.node, part := p.part, tag := p.tag, addr := p.addr }

/-- Forwarded work is admitted as it arrives; its partition's tag advances by the step of R387 divided by this node's
multiplier (R407). It takes no token. -/
def forwardTag (s : State) (p : Nat) : State :=
  let a := s.adm p
  let w := max 1 (fld a.pcfg 63 48)
  let m := max 1 (tgetD s.mbr.weight s.fab.node 1)
  let tag := (max s.host.tagV a.tagL + 2 ^ 24 / (w * m)) % 2 ^ 64
  let s1 := s.setAdm p { a with tagL := tag }
  { s1 with host.tagV := tag }

/-- A forwarded query on a node of its span (R14, R127, R242, R243, R301, R407). -/
def qfwdArrive (epoch stamp step_ : Nat) (p : Packet) (s : State) : Bool × State :=
  let d := patch (slice p.payload 0 128) 0x10 (leBytes 8 epoch)
  if s.fab.role ≠ 0 || queryReasons s p.part (patch d 8 (leBytes 8 0)) % 2 ^ 13 &&& (rsFormat + rsName + rsQuiesce) ≠ 0 then
    (true, rejectQfwd s p)
  else
    let q : Query := { part := p.part, desc := d, stamp := stamp, deadline := queryDeadline s p.part stamp d - qMgRes d
                       step := step_, entry := some (p.src, p.addr % 2 ^ 52) }
    let s1 := noteStep (forwardTag s p.part) (qSlot d) step_ true
    if epoch < s.epo.oldest then (true, tellEntry s1 q stEpochExpired) else (true, addQuery s1 q)

/-- QFWD (R14, R285, R301). -/
def execQfwd (port : Fin 32) (p : Packet) (epoch stamp step_ : Nat) (s : State) : Res :=
  .next (receive s port.val kQfwd p (qfwdArrive epoch stamp step_))

end Sys2Proof.Machine
end

