-- ==== Sys2Proof/Machine/Fabric.lean ====
section
/-!
DEFINITION. The commands of links and of fabric packets (R278 to R281, R289 to R299).
-/
namespace Sys2Proof.Machine

/-- Kinds whose packets carry LEN bytes of payload in flits of their own (R285). -/
def carriesPayload (p : Packet) : Bool :=
  p.len != 0 && !([kLoad, kGet, kInval, kFreeze, kDrained, kReject, 0x22, 0x24, 0x25, 0x2C, 0x2D].contains p.kind)

/-- The key of an assembly: source and burst sequence (R293). -/
def asmKey (src bseq : Nat) : Nat := src * 2 ^ 32 + bseq

/-- A whole packet waits for its own command. -/
def makeReady (s : State) (port : Nat) (p : Packet) : State := { s with fab.ready := s.fab.ready ++ [(port, p)] }

/-- One flit of an accepted frame (R285, R293): a header opens an assembly, and a new copy of a burst replaces its partial
one; a payload flit joins its open assembly, or is an orphan. -/
def takeFlit (s : State) (port : Nat) (f : Flit) : State :=
  match f with
  | .idle => s
  | .header p =>
    if !knownKind p.kind then countNode s Ev.fabBadpkt
    else if carriesPayload p then
      { s with fab.asm := tput s.fab.asm (asmKey p.src p.bseq) { p := { p with payload := [] }, t := s.now } }
    else makeReady s port p
  | .data src bseq idx bytes =>
    let k := asmKey src bseq
    match tget? s.fab.asm k with
    | none => countNode s Ev.orphanFlit
    | some a =>
      if !genExempt a.p.kind && a.p.gen < s.mbr.gen then rejectOld s a.p
      else
        let fl := tput a.flits idx (slice bytes 0 16)
        let n := ceilDiv a.p.len 16
        if (List.range n).all fun i => (tget? fl i).isSome then
          makeReady { s with fab.asm := terase s.fab.asm k } port
            { a.p with payload := slice ((List.range n).flatMap fun i => tgetD fl i []) 0 a.p.len }
        else { s with fab.asm := tput s.fab.asm k { a with flits := fl } }

/-- A request that no route leads to ends with TIMEOUT (R289). -/
def noRouteEnd (s : State) (p : Packet) : State :=
  match tget? s.fab.reqs p.tag with
  | some r => if p.src = s.fab.node && r.kind = p.kind && r.p.addr = p.addr then completeReq s p.tag stTimeout [] else s
  | none => s

/-- Routes a packet of the retry buffer again (R290). -/
def rerouteOne (s : State) (p : Packet) : State :=
  let (ok, s1) := routeSend s p []
  if ok then s1 else noRouteEnd s1 p

/-- A port leaves UP, or any other state, for DOWN (R279, R290): REASON, LINK_DOWN, the unacknowledged packets on other
routes as whole packets, and the link states. -/
def portDown (s : State) (t reason : Nat) (st : PortState := .down) : State :=
  let x := s.port t
  if x.st == .up then
    let s1 := s.setPort t { x with st := st, reason := reason, lanes := 0, retry := [], downT := s.now }
    sendLstate ((x.retry.map (·.2)).foldl rerouteOne (countNode s1 Ev.linkDown t))
  else s.setPort t { x with st := st, lanes := 0, downT := s.now }

/-- A port in a domain that is off, and an edge port whose KIND is 00, stay DOWN (R280, R311, R465). -/
def mayTrain (s : State) (t : Nat) : Bool :=
  !(s.port t).disable && bitOf s.pkg.pwr.domOn (18 + t / 16) && !(isEdge t && fld (s.port t).ep 1 0 == 0)

/-- Starts training where the port may train (R279). -/
def train (s : State) (t : Nat) : State :=
  if mayTrain s t then s.setPort t { s.port t with st := .training } else s

/-- Frames resent within the current ms, with `n` more (R279). -/
def addRetries (s : State) (t n : Nat) : State :=
  let x := s.port t
  let ms := s.now / 1000000
  s.setPort t { x with retries := (if x.retryMs = ms then x.retries else 0) + n, retryMs := ms }

/-- The sender's side of a resend request: every frame of the retry buffer from `k` goes out again, each counting LINK_RETRY;
past RETRY_LIM in one ms the port goes DOWN (R278, R279). -/
def resendFrom (s : State) (t k : Nat) : State :=
  let again := (s.port t).retry.dropWhile fun f => f.1 != k
  let s1 := addRetries (countNode s Ev.linkRetry t again.length) t again.length
  let s2 := again.foldl (fun x f => x.emit (.packet t f.2)) s1
  if fld s.fab.cfg 15 8 < (s2.port t).retries then portDown (detect s2 7 sevPart actPort 0xFF t) t 2 else s2

/-- Frames that the far end has acknowledged leave the retry buffer (R278). -/
def ackTo (s : State) (t ack : Nat) : State :=
  let x := s.port t
  if x.retry.any fun f => f.1 = ack then
    s.setPort t { x with retry := (x.retry.dropWhile fun f => f.1 != ack).drop 1 }
  else s

/-- LINK_FRAME (R278, R293, R394): a frame whose CRC fails, or that lies in an uncorrectable codeword, is requested again; a
frame in order is acknowledged and its flits are taken. -/
def execLinkFrame (port : Fin 32) (frame : Frame) (s : State) : Res :=
  let t := port.val
  if !portUp s t then .next s
  else
    let (inj, s0) := injHit s 7 fun x => bitsOf x 4 0 == t
    let bad := !frame.crcOk || frame.uncorr != 0 || inj == some true
    let fec := frame.corrected + (if inj == some false then 1 else 0)
    let unc := frame.uncorr + (if inj == some true then 1 else 0)
    let s1 := countNode (countNode s0 Ev.fecCorr t fec) Ev.fecUncorr t unc
    let x := s1.port t
    if bad then .next ((detect s1 7 sevCorr actCounted 0xFF t 0 0 inj.isSome).emit (.frameResend t x.rxSeq))
    else
      let s2 := if inj == some false then detect s1 7 sevCorr actCounted 0xFF t 0 0 true else s1
      let s3 := ackTo s2 t frame.ack
      let s4 := match frame.resend with
        | some k => resendFrom s3 t k
        | none => s3
      if !portUp s4 t then .next s4
      else if frame.seq = x.rxSeq then
        let s5 := s4.setPort t { s4.port t with rxSeq := (x.rxSeq + 1) % 4096 }
        .next (frame.flits.foldl (fun y f => takeFlit y t f) (s5.emit (.frameAck t frame.seq)))
      else if (frame.seq + 4096 - x.rxSeq) % 4096 < 2048 then .next (s4.emit (.frameResend t x.rxSeq))
      else .next (s4.emit (.frameAck t ((x.rxSeq + 4095) % 4096)))

/-- LOSS_OF_SIGNAL (R279): the port goes DOWN, and with DEGRADE retrains on the one good lane. -/
def execLossOfSignal (port : Fin 32) (lane : Fin 2) (s : State) : Res :=
  let t := port.val
  let x := s.port t
  if x.disable || x.st == .down || x.st == .disabled then .next s
  else
    let lost := if bitOf x.lost lane.val then x.lost else x.lost + 2 ^ lane.val
    let s0 := if x.st == .up then detect s 7 sevPart actPort 0xFF (t + 32 * lane.val) else s
    let s1 := portDown s0 t 1
    if flag s.fab.cfg 0 && x.st == .up && lost != 3 then
      .next (train (countNode (s1.setPort t { s1.port t with lost := lost }) Ev.laneDegrade t) t)
    else .next s1

/-- PORT_TRAINED (R279, R296): training ends with lanes trained, and the port enters IDENT, where the records of the far end's
bursts are cleared; or training has failed. -/
def execPortTrained (port : Fin 32) (lanes : Fin 3) (s : State) : Res :=
  let t := port.val
  let x := s.port t
  if !(x.st == .training || x.st == .align) then .next s
  else if lanes.val = 0 then .next (s.setPort t { x with st := .down, reason := 6, downT := s.now })
  else
    let src := if isEdge t then endpointNum s.fab.node t else (wiredTo s.fab.node t).1
    let s1 := s.setPort t { x with st := .ident, lanes := if x.lost = 0 then lanes.val else 1 }
    .next { s1 with fab.rx := tupd s1.fab.rx src fun r => { r with high := 0, some_ := [] } }

/-- The port reaches UP (R280): its link starts with empty buffers, and the link states go out (R290). -/
def portUpNow (s : State) (t far farPort : Nat) : State :=
  sendLstate (s.setPort t { s.port t with
    st := .up, far := far, farPort := farPort, txSeq := 0, rxSeq := 0, retry := [], retries := 0 })

/-- IDENT (R280). -/
def execIdent (port : Fin 32) (msg : IdentMsg) (s : State) : Res :=
  let t := port.val
  let x := s.port t
  let stay (reason : Nat) : State := s.setPort t { x with st := .down, lanes := 0, reason := reason, downT := s.now }
  if x.st != .ident then .next s
  else
    match msg with
    | .node rack pos p _ _ =>
      if isEdge t then .next (stay x.reason)
      else if rack ≠ s.fab.rackId then .next (stay 4)
      else if (pos, p) ≠ wiredTo s.fab.node t then .next (stay 3)
      else .next (portUpNow s t pos p)
    | .endpoint kind =>
      if isEdge t && kind != 0 && kind == fld x.ep 1 0 then .next (portUpNow s t (endpointNum s.fab.node t) 0)
      else .next (stay x.reason)

/-- TRAIN_RETRY (R279): a DOWN port that is not disabled retries training every 100 ms. -/
def execTrainRetry (port : Fin 32) (s : State) : Res :=
  let x := s.port port.val
  if x.st == .down && x.downT + 100000000 ≤ s.now then .next (train s port.val) else .next s

/-- A write of FAB_PORT_CTL.DISABLE (R279, R310). -/
def portDisable (s : State) (fn t : Nat) (v : Bool) : State :=
  if !ownerFn s fn then s
  else
    let s1 := s.setPort t { s.port t with disable := v }
    if v then portDown s1 t 5 .disabled
    else if (s.port t).st == .disabled then train (s1.setPort t { s1.port t with st := .down }) t
    else s1

/-- PORT_DISABLE (R279, R310). -/
def execPortDisable (fn : Fin 64) (port : Fin 32) (v : Bool) (s : State) : Res := .next (portDisable s fn.val port.val v)

/-- A write of FAB_PORT_CTL.RETRAIN (R279, R310): the port goes DOWN and retrains on both lanes. -/
def portRetrain (s : State) (fn t : Nat) : State :=
  if !ownerFn s fn || (s.port t).disable then s
  else
    let s1 := portDown s t (s.port t).reason
    train (s1.setPort t { s1.port t with lost := 0 }) t

/-- PORT_RETRAIN (R279, R310). -/
def execPortRetrain (fn : Fin 64) (port : Fin 32) (s : State) : Res := .next (portRetrain s fn.val port.val)

/-- LSTATE (R290). -/
def execLstate (src : Fin 64) (bits : W64) (s : State) : Res :=
  .next { s with fab.lstate := tput s.fab.lstate src.val bits }

/-- LSTATE_TIMER (R290): at least every 10 ms. -/
def execLstateTimer (s : State) : Res :=
  if s.fab.node < 64 && s.fab.lastLstate + 10000000 ≤ s.now then .next (sendLstate s) else .next s

/-- LOAD (R283, R284, R286, R287). -/
def execLoad (port : Fin 32) (p : Packet) (s : State) : Res :=
  .next (receive s port.val kLoad p fun p s => answer p (serveLoad s p.part p.src p.tag p.addr p.len false))

/-- STORE (R293, R294). -/
def execStore (port : Fin 32) (p : Packet) (s : State) : Res :=
  .next (receive s port.val kStore p fun p s => answer p (serveStore s p.part p.src p.tag p.addr p.payload false))

/-- ATOMIC (R287, R212): the operand is the payload's first 8 bytes, the compare value its next 8. -/
def execAtomic (port : Fin 32) (p : Packet) (s : State) : Res :=
  .next (receive s port.val kAtomic p fun p s =>
    answer p (serveAtomic s p.part p.src p.tag p.addr p.aux (getLE p.payload 0 8) (getLE p.payload 8 8)
      (some { src := p.src, tag := p.tag, port := port.val })))

/-- PUT (R299). -/
def execPut (port : Fin 32) (p : Packet) (s : State) : Res :=
  .next (receive s port.val kPut p fun p s => answer p (serveStore s p.part p.src p.tag p.addr p.payload true))

/-- GET (R299). -/
def execGet (port : Fin 32) (p : Packet) (s : State) : Res :=
  .next (receive s port.val kGet p fun p s => answer p (serveLoad s p.part p.src p.tag p.addr p.len true))

/-- An acknowledgement of an INVAL (R298). -/
def invalAck (s : State) (p : Packet) : State :=
  sendPkt s { kind := 0x24, dst := p.src, src := s.fab.node, part := p.part, tag := p.tag, addr := p.addr }

/-- What this node sends an INVAL on to (R298): a row peer of the source its column, the node of an endpoint that issued it
all its peers, and every node its endpoints. -/
def invalOnward (s : State) (p : Packet) : List Nat × List Nat :=
  let node := s.fab.node
  let peers :=
    if nodeOf p.src = node then rowPeers node ++ colPeers node
    else if p.src < 0x40 && p.src / 8 == node / 8 then colPeers node
    else []
  (peers.filter (bitOf s.mbr.members), invEndpoints s p.src)

/-- INVAL (R298). -/
def execInval (port : Fin 32) (p : Packet) (s : State) : Res :=
  .next (receive s port.val kInval p fun p s =>
    let s1 := count (dropRemote s (p.addr / 256) p.aux) p.part Ev.invalRx
    let (peers, eps) := invalOnward s1 p
    if peers.isEmpty && eps.isEmpty then (true, invalAck s1 p)
    else
      let (tag, s2) := newTag s1
      let wait := if nodeOf p.src = s.fab.node then ofBits (otherMembers s) else ofBits peers
      let r : InvalRelay := { src := p.src, tag := p.tag, myTag := tag, waitPos := wait, waitEp := eps, t := s.now }
      (true, spreadInval { s2 with fab.relays := s2.fab.relays ++ [r] } { p with tag := tag } (peers ++ eps)))

/-- Acknowledgements still awaited after one from `src`: a row peer answers for its column (R298). `whole`: the awaited set is
the whole rack map. -/
def ackedBy (s : State) (whole : Bool) (src waitPos : Nat) : Nat :=
  let node := s.fab.node
  let col := if whole && src / 8 == node / 8 then colPeers src else []
  ofBits ((bitsSet 64 waitPos).filter fun x => x != src && !col.contains x)

/-- INVAL_ACK (R298): it completes an INVAL of this node, or the copies of one that this node sent on; late ones are
dropped. -/
def execInvalAck (port : Fin 32) (p : Packet) (s : State) : Res :=
  .next (receive s port.val 0x24 p fun p s =>
    match tget? s.fab.reqs p.tag with
    | some r =>
      if r.kind ≠ kInval then (true, countLate s p.part)
      else
        let wp := ackedBy s true p.src r.waitPos
        let we := r.waitEp.filter (· != p.src)
        let s1 := { s with fab.reqs := tput s.fab.reqs p.tag { r with waitPos := wp, waitEp := we } }
        (true, if wp = 0 && we.isEmpty then completeReq s1 p.tag stOk [] else s1)
    | none =>
      match s.fab.relays.find? fun r => r.myTag = p.tag with
      | none => (true, countLate s p.part)
      | some r =>
        let wp := ackedBy s (nodeOf r.src == s.fab.node) p.src r.waitPos
        let we := r.waitEp.filter (· != p.src)
        let rest := s.fab.relays.filter fun x => x.myTag != p.tag
        if wp = 0 && we.isEmpty then
          (true, sendPkt { s with fab.relays := rest }
            { kind := 0x24, dst := r.src, src := s.fab.node, part := p.part, tag := r.tag })
        else (true, { s with fab.relays := rest ++ [{ r with waitPos := wp, waitEp := we }] }))

/-- A response arrives and ends its request; one whose request has ended is dropped (R40, R294, R297). -/
def response (s : State) (port kind : Nat) (p : Packet) : State :=
  receive s port (kind + 0x20) p fun p s =>
    match tget? s.fab.reqs p.tag with
    | some r => (true, if r.kind = kind then completeReq s p.tag p.status p.payload else countLate s p.part)
    | none => (true, countLate s p.part)

/-- LOAD_RSP (R297). -/
def execLoadRsp (port : Fin 32) (p : Packet) (s : State) : Res := .next (response s port.val kLoad p)

/-- STORE_ACK (R294). -/
def execStoreAck (port : Fin 32) (p : Packet) (s : State) : Res := .next (response s port.val kStore p)

/-- ATOMIC_RSP (R287). -/
def execAtomicRsp (port : Fin 32) (p : Packet) (s : State) : Res := .next (response s port.val kAtomic p)

/-- PUT_ACK (R299). -/
def execPutAck (port : Fin 32) (p : Packet) (s : State) : Res := .next (response s port.val kPut p)

/-- GET_RSP (R299). -/
def execGetRsp (port : Fin 32) (p : Packet) (s : State) : Res := .next (response s port.val kGet p)

/-- The source of a discarded burst learns BURST_TIMEOUT: by the response to its request, or as the end of the load whose
response was partial here (R293). -/
def burstGone (s : State) (p : Packet) : State :=
  if p.dst ≠ s.fab.node then s
  else if [kStore, kAtomic, kPut].contains p.kind then respond s p stBurstTimeout
  else if [0x21, 0x23, 0x26].contains p.kind then completeReq s p.tag stBurstTimeout []
  else s

/-- The place of a discarded fixed-class packet in its order is closed (R295). -/
def closePlace (s : State) (p : Packet) : State :=
  let r := s.rxOf p.src
  if p.rcls ≠ 1 then s
  else if p.fseq = r.fnext then fseqTake s 32 p.src
  else if seqBefore r.fnext p.fseq then
    { s with fab.rx := tput s.fab.rx p.src { r with early := tput r.early p.fseq { p with kind := 0 } } }
  else s

/-- BURST_HOLD_EXPIRE (R293): a burst still partial BHOLD µs after its header is discarded and its BSEQ consumed. -/
def execBurstHoldExpire (src : Fin 4096) (bseq : Nat) (s : State) : Res :=
  match tget? s.fab.asm (asmKey src.val bseq) with
  | none => .next s
  | some a =>
    if a.t + fld s.fab.cfg 51 42 * 1000 ≤ s.now then
      let s1 := { s with fab := { s.fab with
        asm := terase s.fab.asm (asmKey src.val bseq)
        rx := tput s.fab.rx src.val (bseqTake (s.rxOf src.val) bseq) } }
      .next (burstGone (closePlace (countNode s1 Ev.burstTimeout) a.p) a.p)
    else .next s

/-- GEN_HOLD_EXPIRE (R286): a packet held for a newer generation is dropped GEN_HOLD × 10 µs after it arrived. -/
def execGenHoldExpire (i : Nat) (s : State) : Res :=
  match tget? s.fab.genHold i with
  | none => .next s
  | some h =>
    if h.t + fld s.fab.cfg 31 24 * 10000 ≤ s.now then
      .next (countNode { s with fab.genHold := terase s.fab.genHold i } Ev.genAhead)
    else .next s

/-- MSG_TMO_EXPIRE (R297): a message beyond the rack domain ends with TIMEOUT without a response within MSG_TMO ms. -/
def execMsgTmoExpire (tag : Fin 65536) (s : State) : Res :=
  match tget? s.fab.reqs tag.val with
  | none => .next s
  | some r =>
    if (r.kind = kPut || r.kind = kGet) && !inDomainNum (r.addr / 2 ^ 52) &&
        decide (r.t + fld s.fab.cfg 23 16 * 1000000 ≤ s.now) then
      .next (completeReq s tag.val stTimeout [])
    else .next s

/-- INVAL_TMO_EXPIRE (R298). -/
def execInvalTmoExpire (tag : Fin 65536) (s : State) : Res :=
  match tget? s.fab.reqs tag.val with
  | none => .next s
  | some r =>
    if r.kind = kInval && decide (r.t + fld s.fab.cfg 41 32 * 1000 ≤ s.now) then
      .next (completeReq s tag.val stTimeout [])
    else .next s

/-- Routes a refused packet again without the intermediates that refused it, at most twice (R289). -/
def routeAgain (s : State) (p : Packet) (refused : List Nat) : State :=
  if 2 < refused.length then noRouteEnd s p
  else
    let (ok, s1) := routeSend s p refused
    if ok then s1 else noRouteEnd s1 p

/-- ROUTE_NAK (R289): an intermediate has returned a packet of this node. -/
def execRouteNak (p : Packet) (via : Fin 64) (s : State) : Res :=
  if p.src ≠ s.fab.node then .next s
  else
    let s1 := count s p.part Ev.routeNak
    match tget? s1.fab.reqs p.tag with
    | some r =>
      if r.kind = p.kind && r.p.addr = p.addr then
        let refused := r.refused ++ [via.val]
        .next (routeAgain { s1 with fab.reqs := tput s1.fab.reqs p.tag { r with refused := refused } } p refused)
      else .next (other s1)
    | none => .next (other s1)
where
  other (s : State) : State :=
    let before := match s.fab.naks.find? fun x => x.1 == p with
      | some x => x.2
      | none => []
    let refused := before ++ [via.val]
    routeAgain { s with fab.naks := s.fab.naks.filter (fun x => x.1 != p) ++ [(p, refused)] } p refused

end Sys2Proof.Machine
end

