-- ==== Sys2Proof/Machine/Errors.lean ====
section
/-!
DEFINITION. Injection, node faults, the service complex, parity of shared blocks and stack repair (R392 to R398, R409).
-/
namespace Sys2Proof.Machine

/-- What a TARGET names (R392): whether it exists for its detector. -/
def targetExists (s : State) (det t : Nat) : Bool :=
  match det with
  | 1 => decide (t < 2 ^ 23)
  | 2 => decide (t < 2 ^ 18)
  | 3 => decide (t < 2 ^ 25)
  | 4 => decide (t < 2 ^ 18)
  | 5 => decide (t < 2 ^ 6) && (bitOf t 5 || decide (t < 16))
  | 6 => decide (t < 2 ^ 33)
  | 7 => decide (t < 2 ^ 6)
  | 8 => decide (t < 2 ^ 40) && decide (bitsOf t 32 0 < fld s.flash.lcap 32 0)
  | 9 => decide (t < 2 ^ 7)
  | 10 => decide (t < 5) || decide (0x20 ≤ t ∧ t < 0x60) || t == 0x60 || t == 0x61
  | 11 => decide (t < 2 ^ 9)
  | 12 => decide (t < 3)
  | 13 => decide (t < 2 ^ 6) && decide (t % 32 < 26)
  | 14 => t == 0
  | _ => false

/-- Whether an injection can be armed (R394): its target exists, the step of detector 0x08 is one of 0 to 9 without UE, and
detectors 0x0E and 0x0D critical take NEXT_START only. -/
def injOk (s : State) (det mode t : Nat) (ue : Bool) : Bool :=
  targetExists s det t && !(det == 8 && !ue && decide (10 ≤ bitsOf t 39 36)) &&
    !((det == 14 || (det == 13 && bitOf t 5)) && mode != 2)

/-- A write of ERR_INJ with GO = 1 (R394, R411). -/
def armInj (s : State) (fn det mode : Nat) (target : W64) (ue : Bool) : State :=
  if !ownerFn s fn || det = 0 || 14 < det then s
  else
    let t := fld target 47 0
    let x := tgetD s.err.inj det {}
    let x1 := { x with reg := mkReg [(60, mode), (59, b2n ue), (0, t)] }
    if mode = 3 then { s with err.inj := tput s.err.inj det { x1 with armed := false } }
    else if injOk s det mode t ue then
      { s with err.inj := tput s.err.inj det { x1 with armed := true, mode := mode, ue := ue, target := t } }
    else
      { s with err := { s.err with
        inj := tput s.err.inj det x1, pstat := orErr s.err.pstat (s.fn fn).part 0 } }

/-- ERR_INJ_ONCE (R394). -/
def execErrInjOnce (fn : Fin 64) (det : Fin 16) (target : W64) (ue : Bool) (s : State) : Res :=
  .next (armInj s fn.val det.val 0 target ue)

/-- ERR_INJ_STICKY (R394). -/
def execErrInjSticky (fn : Fin 64) (det : Fin 16) (target : W64) (ue : Bool) (s : State) : Res :=
  .next (armInj s fn.val det.val 1 target ue)

/-- ERR_INJ_NEXT_START (R394). -/
def execErrInjNextStart (fn : Fin 64) (det : Fin 16) (target : W64) (ue : Bool) (s : State) : Res :=
  .next (armInj s fn.val det.val 2 target ue)

/-- ERR_INJ_CANCEL (R394): the detector's arm is gone; TARGET and UE stay as last written. -/
def execErrInjCancel (fn : Fin 64) (det : Fin 16) (s : State) : Res :=
  let x := tgetD s.err.inj det.val {}
  .next (armInj s fn.val det.val 3 (BitVec.ofNat 64 (fld x.reg 47 0)) (flag x.reg 59))

/-- The latest record. -/
def lastRec (s : State) : Option ErrRec := tget? s.err.recs (s.err.seq % 1024)

/-- A service core is healthy. -/
def coreHealthy (s : State) (i : Nat) : Bool := tgetD s.err.cores i .healthy == .healthy
def anyCore (s : State) : Bool := (List.range 3).any (coreHealthy s)

/-- The ports, the PCIe links, the power domains and the slots of a node that no longer runs (R398, R465, R466, R472,
R477). -/
def outputsOff (s : State) : State :=
  let down (x : State) (t : Nat) : State :=
    let reason := if portUp x t then 1 else (x.port t).reason
    let y := x.setPort t { x.port t with st := .down, lanes := 0, retry := [], downT := x.now, reason := reason }
    if portUp x t then countNode y Ev.linkDown t else y
  let s1 := (List.range 32).foldl down s
  let s2 := linkDown (linkDown s1 0) 1
  { s2 with
    pkg.pwr.domOn := 1
    flash.slots := tmap s2.flash.slots fun _ x => { x with power := false } }

/-- Writes a record to the ring of fault records of the NOR (R416). -/
def norRecord (s : State) (r : ErrRec) : State :=
  let recs := s.pkg.sec.faultRecs ++ [r.bytes]
  { s with pkg.sec.faultRecs := recs.drop (recs.length - 1024) }

/-- The node fault of R398: everything in flight ends FENCED, the transmitters and PCIe links go down, and the final record is
written to the NOR when a core still runs. A node in reset is not touched (R470). -/
def nodeFault (s : State) (r : Option ErrRec) : State :=
  if s.pkg.pwr.inReset || s.err.fault then s
  else
    let s1 := outputsOff (endAllWork s)
    let s2 := match r with
      | some x => if anyCore s1 then norRecord s1 x else s1
      | none => s1
    { s2 with err.fault := true, pkg.pwr.faultN := true }

/-- A detection of severity NODE (R393, R398). -/
def nodeDetect (s : State) (det loc : Nat) (inj : Bool) : State :=
  let s1 := detect s det sevNode actNode 0xFF loc 0 0 inj
  nodeFault s1 (lastRec s1)

/-- The primary core after a change of the cores' states (R397): it stays while it is healthy; otherwise the lowest-numbered
healthy core takes over, and TERM counts the change. -/
def settlePrimary (s : State) : State :=
  let lowest := ((List.range 3).find? (coreHealthy s)).getD 3
  let p := if s.err.primary < 3 && coreHealthy s s.err.primary then s.err.primary else lowest
  let s1 := if p = s.err.primary then s else { s with err := { s.err with primary := p, term := s.err.term + 1 } }
  { s1 with err.noCoreT := if anyCore s1 then none else (if s1.err.noCoreT.isSome then s1.err.noCoreT else some s1.now) }

/-- SC_WATCHDOG_EXPIRE (R392, R397): the core is reset, its task goes back to the queue, and another core may become
primary. -/
def execScWatchdogExpire (core : Fin 3) (s : State) : Res :=
  if !coreHealthy s core.val then .next s
  else
    let (inj, s1) := injFlag s 12 core.val
    let s2 := detect s1 12 sevPart actCore 0xFF core.val 0 0 inj
    .next (settlePrimary { s2 with err := { s2.err with
      cores := tput s2.err.cores core.val .reset, fired := tput s2.err.fired core.val true } })

/-- SERVICE_CORE_SELFTEST_DONE (R397): the core returns healthy, or has failed. -/
def execServiceCoreSelftestDone (core : Fin 3) (ok : Bool) (s : State) : Res :=
  let st := tgetD s.err.cores core.val .healthy
  if st == .reset || st == .selftest then
    .next (settlePrimary { s with err := { s.err with
      cores := tput s.err.cores core.val (if ok then .healthy else .failed)
      fired := if ok then terase s.err.fired core.val else s.err.fired } })
  else .next s

/-- NO_CORE_HEALTHY_EXPIRE (R398): 10 ms without a healthy core. -/
def execNoCoreHealthyExpire (s : State) : Res :=
  match s.err.noCoreT with
  | none => .next s
  | some t => .next (if t + 10000000 ≤ s.now && !anyCore s then nodeFault s none else s)

/-- A flash channel fails (R392, R358): the units its dies held are lost. -/
def failChannel (s : State) (ch : Nat) : State :=
  let held := (s.flash.map_.filter fun e => e.2.st == .mapped && e.2.at_.die / 32 = ch).map (·.1)
  let work := (s.flash.dies.filter fun kv => kv.1 / 32 = ch).flatMap fun kv =>
    kv.2.queue ++ kv.2.paused ++ (match kv.2.op with
      | some r => [r]
      | none => [])
  let s1 := { s with flash := { s.flash with
    chState := tput s.flash.chState ch 3
    dies := tmap s.flash.dies fun d x =>
      if d / 32 = ch then { x with st := .retired, queue := [], op := none, paused := [] }
      else x } }
  let s2 := { s1 with
    flash.pois := held.foldl (fun p u => (List.range 8).foldl (fun q i => tput q (u * 8 + i) true) p) s1.flash.pois }
  let lost (h : Home) : Bool :=
    h.st != .unmapped && h.tier = 3 && held.contains (flashTileAddr s h.loc / tileBytes * 2) ||
      h.st != .unmapped && h.tier = 3 && held.contains (flashTileAddr s h.loc / tileBytes * 2 + 1)
  let s3 := { s2 with tier.home := tmap s2.tier.home fun _ h => if lost h then { h with st := .poisoned } else h }
  work.foldl rescueWork s3

/-- STATE_MACHINE_PARITY (R392, detector 0x0A): a central block is a node fault, a port goes DOWN, a flash channel FAILED, and
a PCIe port loses its link. The spec gives no REASON code for the port. -/
def execStateMachineParity (block : Fin 128) (s : State) : Res :=
  let b := block.val
  let (inj, s1) := injFlag s 10 b
  if b < 5 then .next (nodeDetect s1 10 b inj)
  else if 0x20 ≤ b && b < 0x40 then
    let (w, s2) := takeFree (detect s1 10 sevPart actPort 0xFF b 0 0 inj)
    .next (portDown s2 (b - 0x20) (w.toNat % 256))
  else if 0x40 ≤ b && b < 0x60 then .next (failChannel (detect s1 10 sevPart actRetired 0xFF b 0 0 inj) (b - 0x40))
  else if b = 0x60 || b = 0x61 then .next (linkDown (detect s1 10 sevPart actPort 0xFF b 0 0 inj) (b - 0x60))
  else .next s

/-- ROW_REPAIR_DONE (R409): a row under repair is repaired in place; when the bank has no spare row, the frame that holds it
is retired, and its tile moves first. -/
def execRowRepairDone (st : Fin 8) (row : Nat) (ok : Bool) (s : State) : Res :=
  let k := rowKey st.val row
  if (tget? s.err.repairing k).isNone then .next s
  else
    let loc := st.val + row * 16 * 8
    let x := tgetD s.err.stk st.val {}
    let s1 := { s with err.repairing := terase s.err.repairing k }
    if ok then
      .next (detect { s1 with err := { s1.err with
        stk := tput s1.err.stk st.val { x with soft := x.soft + 1 }, softRows := tput s1.err.softRows k true } }
        6 sevPart actRow 0xFF loc)
    else
      let f := st.val * 2 ^ 20 + row / 64
      let tile := (tget? s1.tier.frames f).map (·.tile)
      let part := match tile with
        | some t => tileOwner s1 t
        | none => 0xFF
      let s2 : State := { s1 with
        err := { s1.err with
          stk := tput s1.err.stk st.val { x with frmRet := x.frmRet + 1 }, retired := tput s1.err.retired f true }
        tier := { s1.tier with
          withheld := tput s1.tier.withheld f true
          moveWait := match tile with
            | some t => s1.tier.moveWait ++ [(t, 1, st.val, false)]
            | none => s1.tier.moveWait } }
      .next (detect s2 6 sevPart actFrame part loc)

end Sys2Proof.Machine
end

