-- ==== Sys2Proof/Machine/Stop.lean ====
section
/-!
DEFINITION. The orderly stop (R197, R235, R440).
-/
namespace Sys2Proof.Machine

/-- The node begins an orderly stop (R440); while it stops, another request does nothing. -/
def beginStop (s : State) : State :=
  if s.pkg.sec.stop != .running then s
  else { s with pkg.sec.stop := .stopping, pkg.sec.stopEpoch := epochOf s s.now }

/-- What the stop waits for has come about (R440): no command is in flight, and the epoch in which it began has closed. -/
def stopReady (s : State) : Bool :=
  s.pkg.sec.stop == .stopping && s.host.cmds.isEmpty && s.work.queries.isEmpty &&
    (!s.pkg.sec.epochs || decide (s.pkg.sec.stopEpoch ≤ s.epo.closed))

/-- Every tile of a flash-backed range goes back to its flash tile (R197). -/
def tilesToFlash (s : State) : State :=
  let ts := (s.tier.home.map (·.1)).filter fun t => flashBacked s t && (s.home t).tier != 3 && (s.home t).st != .unmapped
  ts.foldl (fun x t =>
    let bad := intervalPoisoned x t 0 tileBytes
    let x1 := if bad then x else flashStore x (flashTileAddr x t) (homeRead x t 0 tileBytes)
    { x1.setHome t ⟨.home, 3, t⟩ with tier.dirty := terase x1.tier.dirty t }) s

/-- The record of a stop in the NOR. -/
def stopRecord (s : State) : ErrRec :=
  { seq := s.err.seq, time := s.now, det := 0, sev := 0, inj := false, part := 0xFF, action := 0, status := 0, loc := 0, addr := 0 }

/-- The end of an orderly stop (R440): tiles, checkpoints and the stop record; then the transmitters, the links and every domain
but AON go off. -/
def finishStop (s : State) : State :=
  let s1 := tilesToFlash s
  let ps := s1.pkg.sec.parts.map (·.1)
  let s2 := { s1 with
    epo := { s1.epo with durable := ps.foldl (fun t p => tput t p s1.epo.closed) s1.epo.durable }
    flash := { s1.flash with ckptSeq := s1.flash.wseq, ckptT := s1.now } }
  let s3 := outputsOff (norRecord s2 (stopRecord s2))
  { s3 with pkg.sec.stop := .stopped }

/-- Ends the stop once nothing holds it up. -/
def settleStop (s : State) : State := if stopReady s then finishStop s else s

end Sys2Proof.Machine
end

