-- ==== Sys2Proof/Machine/Epoch.lean ====
section
/-!
DEFINITION. The close of an epoch (R229, R230, R238 to R242, R301, R406, R407, R408).
-/
namespace Sys2Proof.Machine

/-- The close of the next epoch begins, when its boundary is reached and no close runs (R230). -/
def beginClose (s : State) : State :=
  let e := s.epo.closed + 1
  if s.pkg.sec.epochs && s.epo.phase == .idle && decide (epochEnd s e ≤ s.now) then
    { s with epo := { s.epo with phase := .drain, closing := e, closeStart := s.now } }
  else s

/-- EPOCH_BOUNDARY (R229, R230). -/
def execEpochBoundary (s : State) : Res :=
  .next (beginClose (if s.pkg.sec.epochs then { s with epo.ended := epochOf s s.now } else s))

/-- An update command, waiting in its window or consumed, belongs to the closing epoch or an earlier one (R20, R21). -/
def updateWaits (s : State) : Bool :=
  let isUpd (code : Nat) : Bool := code = 0x21 || code = 0x22 || code = 0x23
  (s.host.cmds.any fun kv => isUpd kv.2.code && kv.2.phase == .admitted && decide (epochOf s kv.2.stamp ≤ s.epo.closing)) ||
    s.host.fns.any fun f => f.2.queues.any fun q => (arrived q.2).any fun a =>
      isUpd (getLE (cmdBytes q.2 a) 0 1) && decide (epochOf s a.stamp ≤ s.epo.closing)

/-- An update of the closing epoch that has not ended, or whose preparation is not complete (R239). -/
def updateRuns (s : State) : Bool :=
  s.epo.updates.any fun kv =>
    decide (kv.2.lrec.epoch ≤ s.epo.closing) &&
      (kv.2.st == .allocated || kv.2.st == .logging || kv.2.st == .voiding || kv.2.st == .committed)

/-- CLOSE_DRAIN_DONE (R21, R239): B1 is armed. -/
def execCloseDrainDone (s : State) : Res :=
  .next (if s.epo.phase == .drain && !updateWaits s && !updateRuns s then armBarrier s 0 else s)

/-- PUBLISH_DONE (R239): B2 is armed. -/
def execPublishDone (s : State) : Res := .next (if s.epo.phase == .publish then armBarrier s 1 else s)

/-- INVAL_DONE (R239): B3 is armed. -/
def execInvalDone (s : State) : Res :=
  .next (if s.epo.phase == .inval then
      let s1 := armBarrier s 2
      { s1 with epo.phase := .release }
    else s)

/-- INVAL (R239): remote lines leave the read frames and record buffers; a remote fill in flight is not kept. -/
def dropRemoteLines (s : State) : State :=
  { s with
    tier.regions := tmap s.tier.regions fun _ r =>
      { r with lines := r.lines.filter fun l => !l.remote
               fills := r.fills.map fun f => if f.line / 256 < tileCount then f else { f with drop := true } }
    work.clusters := tmap s.work.clusters fun _ x => { x with recs := x.recs.filter fun l => !l.remote } }

/-- Queries bound to an epoch that has left retention, and still reading (R242). -/
def expireQueries (s : State) : State :=
  let out := s.work.queries.filter fun kv => !kv.2.quiet && (match kv.2.epoch with
    | some e => decide (e < s.epo.oldest)
    | none => false)
  out.foldl (fun t kv => expireQuery t kv.1) s

/-- A role shift that waits for a release takes place once every plan is unloaded (R301). -/
def shiftRole (s : State) : State :=
  match s.fab.shift with
  | none => s
  | some (role, e, cid) =>
    if e ≤ s.epo.closed && s.work.plans.isEmpty then endCmd { s with fab := { s.fab with role := role, shift := none } } cid stOk
    else s

/-- The restart of the job at its epoch (R406): plans with MULTI unload, and the leader lets the waiting nodes join. -/
def restartJob (s : State) : State :=
  if s.mbr.jobCtl = 0 || s.epo.closed < s.mbr.jobCtl then s
  else
    let s1 := (s.work.plans.filter fun kv => kv.2.bin.multi).foldl (fun t kv => startUnload t kv.1) { s with mbr.jobCtl := 0 }
    if s1.mbr.leading then propose s1 (joinTo s1.mbr.joins s1.mbr.hellos) else s1

/-- A position's multiplier after an epoch (R407). -/
def nextMult (strag m taken absent : Nat) : Nat :=
  if (taken + absent) * strag < absent * 256 then min 8 (m * 2) else max 1 (m / 2)

/-- Stragglers (R407): the counts of the epoch go to the leader, which sends new multipliers; those received before are in force
now. -/
def weigh (s : State) : State :=
  let s1 : State := { s with mbr := { s.mbr with
    weight := s.mbr.nextWeight.foldl (fun t x => tput t x.1 x.2) s.mbr.weight, nextWeight := [] } }
  let ps := dedup (s1.mbr.taken.map (·.1) ++ s1.mbr.absent.map (·.1))
  let clear (t : State) : State := { t with mbr := { t.mbr with taken := [], absent := [] } }
  if s1.mbr.leading then
    let all := dedup (ps ++ s1.mbr.weight.map (·.1))
    let ms := all.map fun p =>
      (p, nextMult (fld s1.mbr.cfg 47 40) (tgetD s1.mbr.weight p 1) (tgetD s1.mbr.taken p 0) (tgetD s1.mbr.absent p 0))
    let s2 := (otherMembers s1).foldl (fun t p => sendMbr t p 0x0A (ms.flatMap fun x => leBytes 1 x.1 ++ leBytes 1 x.2)) s1
    clear { s2 with mbr.nextWeight := ms }
  else if s1.mbr.leader < 64 && !ps.isEmpty then
    clear (sendMbr s1 s1.mbr.leader 0x09 (ps.flatMap fun p =>
      leBytes 1 p ++ leBytes 4 (tgetD s1.mbr.taken p 0) ++ leBytes 4 (tgetD s1.mbr.absent p 0)))
  else clear s1

/-- Hosts that a map has given to shards are in force (R408): the spare answers for its shard, and the peers release the
records of the shard's former node. -/
def changeHosts (s : State) : State :=
  let new := s.mbr.nextHosts
  { s with
    mbr := { s.mbr with
      hosts := new.foldl (fun t x => tput t x.1 x.2) s.mbr.hosts, nextHosts := []
      reb := if s.mbr.reb == .host && new.any (fun x => x.1 = s.mbr.rebFor && x.2 = s.fab.node) then .done else s.mbr.reb }
    epo.peerLog := s.epo.peerLog.filter fun r => !(new.any (fun x => x.1 = r.1.origin) && !bitOf s.mbr.members r.1.origin) }

/-- The release of B3 (R239, R241, R242): the epoch is closed. -/
def closeEpoch (s : State) (at_ : Nat) : State :=
  let e := s.epo.closing
  let s1 : State := { s with epo := { s.epo with
    closed := e, oldest := e - 7, closeT := at_, phase := .idle
    closeUs := min 0xFFFF ((s.now - s.epo.closeStart) / 1000) } }
  let s2 := countNode s1 Ev.epochClose
  let s3 := if epochEnd s2 (e + 1) ≤ at_ then countNode s2 Ev.closeLate else s2
  beginClose (settleStop (restartJob (weigh (changeHosts (shiftRole (expireQueries s3))))))

/-- The release of the rack start barrier (R230, R439): the node takes up epochs. -/
def startEpochs (s : State) (at_ : Nat) : State :=
  let e := epochOf s at_ - 1
  { s with pkg.sec.epochs := true, epo := { s.epo with closed := e, oldest := e - 7, closeT := at_, phase := .idle } }

/-- BARRIER_RELEASE (R238): at the release instant; a release that comes late counts BAR_LATE. -/
def execBarrierRelease (b : Fin 4) (s : State) : Res :=
  let x := s.barrier b.val
  match x.release with
  | none => .next s
  | some r =>
    if s.now < r then .next s
    else
      let s1 := { s with epo.barriers := terase s.epo.barriers b.val }
      let s2 := if x.late then countNode s1 Ev.barLate else s1
      let at_ := if x.late then s.now else r
      .next (match b.val with
        | 0 => publish { s2 with epo.phase := .publish }
        | 1 => dropRemoteLines { s2 with epo.phase := .inval }
        | 2 => closeEpoch s2 at_
        | _ => startEpochs s2 at_)

end Sys2Proof.Machine
end

