-- ==== Sys2Proof/Machine/Fencing.lean ====
section
/-!
DEFINITION. Faults of clusters, fences, clearing and takeover (R24 to R35, R46, R392).
-/
namespace Sys2Proof.Machine

/-- UNIT_FAULT (R24, R32): the cluster decides: it is fenced. Causes 0x01 and 0x09 are the detectors of those numbers; any other
cause fences without a detection of its own. -/
def execUnitFault (c : Fin 128) (_u : Fin 4) (cause : Fin 256) (s : State) : Res :=
  if cause.val = 1 then .next (fenceFor s c.val 1 c.val false)
  else if cause.val = 9 then
    let (inj, s1) := injFlag s 9 c.val
    .next (fenceFor s1 c.val 9 c.val inj)
  else .next (if (s.cl c.val).st == .unavailable then s else fencePhys s (s.cl c.val).phys)

/-- Work waits at a unit: it stands at a word and does not idle at NEXT. -/
def hasWork (x : Cluster) (u : Nat) : Bool :=
  (x.st == .running || x.st == .draining) && !(x.list u).isEmpty && !(x.unit u).halted && (x.unit u).wait != .next

/-- UNIT_WATCHDOG_EXPIRE (R32, R392, detector 0x0B). -/
def execUnitWatchdogExpire (c : Fin 128) (u : Fin 4) (s : State) : Res :=
  if hasWork (s.cl c.val) u.val then
    let loc := c.val + u.val * 2 ^ 7
    let (inj, s1) := injFlag s 11 loc
    .next (fenceFor s1 c.val 11 loc inj)
  else .next s

/-- A write of RGN_FENCE (R32, R46): PHYS, and with GO the fence of the cluster it names. -/
def writeFence (s : State) (fn region phys : Nat) (go : Bool) : State :=
  if !ownerFn s fn then s
  else
    let s1 := { s with work.rgnFence := tput s.work.rgnFence region phys }
    if go && decide (phys < 17) then fencePhys s1 (region * 17 + phys) else s1

/-- RGN_FENCE_GO (R32, R46). -/
def execRgnFenceGo (fn : Fin 64) (region : Fin 8) (phys : Fin 32) (s : State) : Res :=
  .next (writeFence s fn.val region.val phys.val true)

/-- CLEARING_DONE (R26): scratch, instruction store and unit registers are zero, and the role is loaded. -/
def execClearingDone (c : Fin 128) (s : State) : Res :=
  let x := s.cl c.val
  .next (if x.st == .clearing then s.setCl c.val { x.cleared with st := .loading } else s)

/-- SPARE_LOAD_DONE (R33): the spare has loaded the role and accepts work; one that fails its load is fenced, and the number
becomes unavailable. -/
def execSpareLoadDone (c : Fin 128) (ok : Bool) (s : State) : Res :=
  let x := s.cl c.val
  let ready := match x.plan with
    | some i => (tgetD s.work.plans i {}).state != .loading
    | none => false
  if x.st != .loading || !ready then .next s
  else if ok then .next (roleLoaded s c.val)
  else
    let r := x.phys / 17
    let s1 := { s with work := { s.work with
      phys := tput s.work.phys x.phys .fenced
      fenceHist := tmod s.work.fenceHist r 0 fun h => if bitOf h (x.phys % 17) then h else h + 2 ^ (x.phys % 17) } }
    .next (loseNumber s1 c.val)

end Sys2Proof.Machine
end

