-- ==== Sys2Proof/Machine/Power.lean ====
section
/-!
DEFINITION. Resets, clocks, rails, the tensor clock and temperatures (R413, R461 to R484).
-/
namespace Sys2Proof.Machine

/-- OVF of a counter, which a reset keeps while its count returns to 0 (R8, R444). -/
def keepOvf (t : Tab W64) : Tab W64 := (t.filter fun kv => flag kv.2 48).map fun kv => (kv.1, mkReg [(48, 1)])

/-- What a reset leaves of a logical cluster: the OVF bits of its registers (R8, R71, R72). -/
def keepCluster (x : Cluster) : Cluster :=
  let o (w : W64) : W64 := if flag w 48 then mkReg [(48, 1)] else 0
  { nonfin := o x.nonfin, accsat := o x.accsat, satConv := keepOvf x.satConv, satClip := keepOvf x.satClip }

/-- A die through a reset (R351): work at it is lost, and an open block is open no more. -/
def coolDie (x : Die) : Die :=
  { x with
    st := if x.st == .retired || x.st == .retiring then x.st else .absent
    blk := tmap x.blk fun b k => if x.open_ == some b && k.used != 0 then { k with closed := true } else k
    open_ := none, queue := [], op := none, paused := [], timeouts := [], win := 0, busyAll := 0, busy2 := 0, busy3 := 0
    handed := [] }

/-- What flash media, modules and their map are after power has gone (R346, R351, R353 to R356). -/
def coolFlash (f : FlashSt) : FlashSt :=
  { mem := f.mem, map_ := f.map_, pois := f.pois, disc := f.disc, dies := tmap f.dies fun _ x => coolDie x
    slots := tmap f.slots fun _ x => { present := x.present }
    nextReq := f.nextReq, wseq := f.wseq, ckptSeq := f.ckptSeq }

/-- What survives the loss of every supply: the NOR (R416), flash, the update log and the map entries in flash (R234, R399),
repaired rows and retired frames of the stacks (R409), and the levels of the input pins. -/
def coolState (s : State) : State :=
  let n : SecSt :=
    { slotA := s.pkg.sec.slotA, slotB := s.pkg.sec.slotB, dirOk := s.pkg.sec.dirOk, helper := s.pkg.sec.helper
      cert := s.pkg.sec.cert, faultRecs := s.pkg.sec.faultRecs, phase := 0 }
  let p : PwrSt :=
    { pgAon := s.pkg.pwr.pgAon, pgMain := s.pkg.pwr.pgMain, wrst := s.pkg.pwr.wrst, clock := s.pkg.pwr.clock
      undervolt := s.pkg.pwr.undervolt }
  let e : EpoSt :=
    { durable := s.epo.durable, flashLog := s.epo.flashLog
      oldIndexes := s.work.indexes.map fun kv => (kv.1, kv.2.part, kv.2.desc, kv.2.cb) }
  let e1 : EpoSt := if s.work.indexes.isEmpty then { e with oldIndexes := s.epo.oldIndexes } else e
  let h : HostSt := { portA := { perst := s.host.portA.perst }, portB := { perst := s.host.portB.perst } }
  let r : ErrSt := { retired := s.err.retired, stk := tmap s.err.stk fun _ x => { x with soft := 0, hard := x.hard + x.soft } }
  let b : MbrSt := { flashGen := s.mbr.flashGen, flashJob := s.mbr.flashJob }
  { pending := s.pending, out := s.out, freeCtr := s.freeCtr, host := h, epo := e1, flash := coolFlash s.flash, err := r, mbr := b
    pkg := { sec := n, pwr := p } }

/-- Loss of the always-on domain (R464, R469): everything is off. -/
def powerOff (s : State) : State := coolState s

/-- A reset that leaves AON powered (R413, R463, R469): RS fields, RGN_FENCE_HIST, NEXT_START injections, the test-access state
and the time counter keep their values; every other register returns to its reset value. The cause shows in LAST_RESET, where
a node fault before the reset takes precedence (R482). -/
def enterReset (s : State) (cause : Nat) : State :=
  if s.pkg.sec.phase = 0 then s
  else
    let c := coolState s
    let sec := c.pkg.sec
    let zero := s.pkg.sec.testOpen
    { c with
      now := s.now
      pmc := { pctr := keepOvf s.pmc.pctr, cctr := keepOvf s.pmc.cctr, cfix := keepOvf s.pmc.cfix }
      work := { fenceHist := s.work.fenceHist, clusters := tmap s.work.clusters fun _ x => keepCluster x }
      err := { c.err with inj := tfilter s.err.inj fun _ x => x.armed && x.mode == 2 }
      pkg := { c.pkg with
        sec := { sec with cold := false, testOpen := zero, id := if zero then .zeroised else .none_ }
        pwr := { c.pkg.pwr with
          lastReset := if s.err.fault then 5 else cause, thermtripN := s.pkg.pwr.thermtripN } } }

/-- Reset is released once every input allows it, and a start begins (R413, R469). -/
def release (s : State) : State :=
  let p := s.pkg.pwr
  if s.pkg.sec.phase = 0 && p.pgAon && !p.wrst && p.clock && !p.undervolt && (p.pgMain || s.pkg.sec.cold) then
    { s with pkg.sec.phase := 1 }
  else s

/-- PG_AON_RISE (R413, R462): the always-on domain rises from unpowered. -/
def execPgAonRise (s : State) : Res :=
  .next (if s.pkg.pwr.pgAon then s else release { s with pkg.pwr.pgAon := true, pkg.sec.cold := true, now := 0 })

/-- PG_AON_FALL (R464, R469). -/
def execPgAonFall (s : State) : Res := .next (powerOff { s with pkg.pwr.pgAon := false })

/-- PG_MAIN_FALL (R463): an orderly stop in progress ends at once. -/
def execPgMainFall (s : State) : Res :=
  if !s.pkg.pwr.pgMain then .next s
  else
    let s1 := enterReset s 2
    .next { s1 with pkg := { s1.pkg with pwr := { s1.pkg.pwr with pgMain := false, undervolt := false } } }

/-- PG_MAIN_RISE (R462, R469): a start that waits for it goes on, or a warm start begins. -/
def execPgMainRise (s : State) : Res := .next (release { s with pkg.pwr.pgMain := true })

/-- WRST_ASSERT (R469). -/
def execWrstAssert (s : State) : Res :=
  let s1 := enterReset s 1
  .next { s1 with pkg.pwr.wrst := true }

/-- WRST_RELEASE (R413, R469). -/
def execWrstRelease (s : State) : Res := .next (release { s with pkg.pwr.wrst := false })

/-- UNDERVOLTAGE (R464): it acts as a fall of PG_MAIN while PG_MAIN is asserted. -/
def execUndervoltage (s : State) : Res :=
  if !s.pkg.pwr.pgMain then .next s
  else
    let s1 := enterReset s 3
    .next { s1 with pkg.pwr.undervolt := true }

/-- CORE_CLOCK_LOSS (R464, R468). -/
def execCoreClockLoss (s : State) : Res :=
  let s1 := enterReset s 4
  .next { s1 with pkg.pwr.clock := false }

/-- CORE_CLOCK_RETURN (R464, R468): the clock is back, or the undervoltage has gone. -/
def execCoreClockReturn (s : State) : Res :=
  .next (release { s with pkg := { s.pkg with pwr := { s.pkg.pwr with clock := true, undervolt := false } } })

/-- PERST (R371, R469): the link goes down, and every function of the port returns to its reset configuration as for an FLR. -/
def execPerst (port : Fin 2) (s : State) : Res :=
  let s1 := linkDown s port.val
  let s2 := (s1.host.fns.filter fun kv => kv.1 / 32 = port.val).foldl (fun t kv =>
    let u := flrFn t kv.1
    u.setFn kv.1 { u.fn kv.1 with ero := true }) s1
  .next (if port.val = 0 then { s2 with host.portA := { s2.host.portA with perst := true } }
    else { s2 with host.portB := { s2.host.portB with perst := true } })

/-- PERST_RELEASE (R469): the port may train. -/
def execPerstRelease (port : Fin 2) (s : State) : Res :=
  .next (if port.val = 0 then { s with host.portA := { s.host.portA with perst := false } }
    else { s with host.portB := { s.host.portB with perst := false } })

/-- Several ports go DOWN at one instant (R279, R290): what they had not got acknowledged leaves on the routes that remain. -/
def portsDown (s : State) (ks : List Nat) (reason : Nat) : State :=
  let up := ks.filter (portUp s)
  let lost := up.flatMap fun k => (s.port k).retry.map (·.2)
  let mark (t : State) (k : Nat) : State :=
    let x := t.port k
    if portUp t k then
      countNode (t.setPort k { x with st := .down, reason := reason, lanes := 0, retry := [], downT := t.now }) Ev.linkDown k
    else t.setPort k { x with st := .down, lanes := 0, downT := t.now }
  let s1 := ks.foldl mark s
  if up.isEmpty then s1 else sendLstate (lost.foldl rerouteOne s1)

/-- FABRIC_CLOCK_LOSS (R468, R309): every port of the edge die that is not disabled goes DOWN, with REASON 6. -/
def execFabricClockLoss (die : Fin 2) (s : State) : Res :=
  .next (portsDown s (((List.range 16).map (die.val * 16 + ·)).filter fun k => (s.port k).st != .disabled) 6)

/-- The domains of ED-S (R36, R465): FE, PB and FS. -/
def southDomains : Nat := 2 ^ 19 + 2 ^ 21 + 2 ^ 23

/-- D2D_LINK_FAIL (R465): ED-S gates its own domains, and the node enters node fault. -/
def execD2dLinkFail (s : State) : Res :=
  if s.pkg.pwr.inReset then .next s
  else
    let on := ofBits ((bitsSet 24 s.pkg.pwr.domOn).filter fun b => !bitOf southDomains b)
    .next (nodeFault { s with pkg.pwr.domOn := on } none)

/-- VDD_CD in mV for a step of the tensor clock (R461): 24 is 0.6 GHz, 40 is 1.0 GHz. -/
def voltFor (step : Nat) : Nat := if step ≤ 24 then 700 else if step ≤ 40 then 750 else 800

/-- The tensor clock goes to a step (R461, R481): down at once, with the voltage after it; up once the voltage is there. While a
regulator does not answer, the clock stays. CAUSE is that of the change. -/
def setClock (s : State) (step cause : Nat) : State :=
  let k := s.pkg.clk
  if !s.pkg.pwr.avsDead.isEmpty || (step = k.tcur && k.raise.isNone) then s
  else if step ≤ k.tcur then
    { s with pkg.clk := { k with
        tcur := step, tcause := if step = k.tcur then k.tcause else cause, vddcd := voltFor step, raise := none } }
  else if voltFor step ≤ k.vddcd && k.raise.isNone then { s with pkg.clk := { k with tcur := step, tcause := cause } }
  else { s with pkg.clk := { k with raise := some (step, cause), vddcd := max k.vddcd (voltFor step) } }

/-- Some sensor is in warning or beyond (R475). -/
def warning (s : State) : Bool := s.pkg.pwr.tsens.any fun kv => kv.2.st == 1 || kv.2.st == 2
/-- THERM_N is asserted (R470). -/
def thermN (s : State) : Bool := warning s

/-- The node runs: it is neither in reset, nor in node fault, nor stopped. -/
def running (s : State) : Bool := s.pkg.sec.phase == 3 && !s.err.fault && s.pkg.sec.stop != .stopped

/-- POWER_WINDOW_TICK (R473): a 1 ms window ends, with its average in W. In warning, R475 governs the clock. -/
def execPowerWindowTick (avg : Nat) (s : State) : Res :=
  let p := s.pkg.pwr
  let k := s.pkg.clk
  if !running s || s.now % 1000000 != 0 || p.lastWin == some s.now then .next s
  else
    let limit := fld k.limit 15 0
    let low := decide (avg + fld k.limit 31 16 < limit)
    let s1 : State := { s with pkg.pwr := { p with
      avgs := (avg :: p.avgs).take 10, lastWin := some s.now, below := if low then p.below + 1 else 0 } }
    if warning s then .next s1
    else if limit < avg then
      .next (if k.tcur ≤ k.tmin then { s1 with pkg.pwr.capFloor := true } else setClock s1 (k.tcur - 1) 1)
    else if 10 ≤ s1.pkg.pwr.below then
      let s2 := { s1 with pkg.pwr.below := 0 }
      .next (if k.tcur < k.tmax then setClock s2 (k.tcur + 1) 1 else s2)
    else .next s1

/-- AVS_TELEMETRY (R461): an answer of a regulator, or one more silence; 1 ms of silence leaves the clock where it is. -/
def execAvsTelemetry (reg : Fin 2) (answered : Bool) (volts amps : Nat) (s : State) : Res :=
  let p := s.pkg.pwr
  if !running s then .next s
  else if answered then
    .next { s with pkg.pwr := { p with
      avsT := tput p.avsT reg.val s.now, volts := tput p.volts reg.val volts, amps := tput p.amps reg.val amps
      avsDead := terase p.avsDead reg.val } }
  else if tgetD p.avsT reg.val 0 + 1000000 ≤ s.now then
    .next { s with pkg := { s.pkg with
      pwr := { p with avsErr := true, avsDead := tput p.avsDead reg.val true }, clk := { s.pkg.clk with raise := none } } }
  else .next s

/-- AVS_VOLTAGE_REACHED (R461): a clock raise that waits for its voltage takes effect. -/
def execAvsVoltageReached (s : State) : Res :=
  let k := s.pkg.clk
  match k.raise with
  | none => .next s
  | some (step, cause) => .next { s with pkg.clk := { k with tcur := step, tcause := cause, raise := none } }

/-- Thresholds of a sensor in 1/16 °C (R474, R483): warning and critical. -/
def thresholds (s : State) (i : Nat) : Int × Int :=
  let c := s.pkg.pwr.tcfg
  if i < 18 then (16 * fld c 31 24, 16 * fld c 23 16) else (16 * fld c 15 8, 16 * fld c 7 0)

/-- Detector 0x0D, warning (R392, R475): the PWR block lowers the clock under R475. -/
def thermWarn (s : State) (i : Nat) (inj : Bool) : State := detect s 13 sevCorr actClock 0xFF i 0 0 inj

/-- Detector 0x0D, critical (R392, R470, R475). -/
def thermCrit (s : State) (i : Nat) (inj : Bool) : State :=
  { nodeDetect s 13 (i + 32) inj with pkg.pwr.thermtripN := true }

/-- One reading of a sensor (R475). -/
def readSensor (s : State) (i : Nat) (t : Int) : State :=
  let x := tgetD s.pkg.pwr.tsens i {}
  if x.st = 3 then s
  else if t < -640 || 2400 < t then
    thermWarn { s with pkg.pwr.tsens := tput s.pkg.pwr.tsens i ⟨3, t⟩ } i false
  else
    let (w, c) := thresholds s i
    let st := if c ≤ t then 2 else if w ≤ t || (x.st != 0 && w - 48 < t) then 1 else 0
    let s1 : State := { s with pkg.pwr := { s.pkg.pwr with
      tsens := tput s.pkg.pwr.tsens i ⟨st, t⟩, lastThermal := if warning s then s.pkg.pwr.lastThermal else s.now } }
    let (iw, s2) := injFlag s1 13 i
    let (ic, s3) := injFlag s2 13 (i + 32)
    let s4 := if (st != 0 && x.st = 0) || iw then thermWarn s3 i iw else s3
    if (st = 2 && x.st != 2) || ic then thermCrit s4 i ic else s4

/-- THERMAL_SAMPLE (R474, R475): every sensor is read; a sensor without a reading is left alone. -/
def execThermalSample (temps : List Int) (s : State) : Res :=
  if !running s then .next s
  else .next ((temps.take 26).zipIdx.foldl (fun (t : State) (x : Int × Nat) => readSensor t x.2 x.1) s)

/-- THERMAL_STEP (R475): one step down for each ms in warning. -/
def execThermalStep (s : State) : Res :=
  let k := s.pkg.clk
  if !running s || !warning s || decide (s.now < s.pkg.pwr.lastThermal + 1000000) then .next s
  else
    let s1 := { s with pkg.pwr.lastThermal := s.now }
    .next (if k.tmin < k.tcur then setClock s1 (k.tcur - 1) 2 else s1)

/-- BOARD_SENSOR_POLL (R471, R484): slot by slot a temperature, or none for a sensor that is absent or does not answer. -/
def execBoardSensorPoll (temps : List (Option Int)) (s : State) : Res :=
  if !running s then .next s
  else
    let put (t : Tab Sensor) (x : Option Int × Nat) : Tab Sensor :=
      tput t x.2 (match x.1 with
        | some v => ⟨0, v⟩
        | none => ⟨3, 0⟩)
    .next { s with pkg.pwr.bsens := (temps.take 8).zipIdx.foldl put s.pkg.pwr.bsens }

end Sys2Proof.Machine
end

