-- ==== Sys2Proof/Machine/Image.lean ====
section
/-!
DEFINITION. The Starter image (R416 to R426): its layout, its signatures, its register entries, and whether it is consistent.
-/
namespace Sys2Proof.Machine

/-- Directory entries of an image: TYPE, OFFSET and LENGTH (R418). -/
def imgDir (b : List Byte) : List (Nat × Nat × Nat) :=
  (List.range (getLE b 6 2)).map fun i => (getLE b (0x40 + 16 * i) 2, getLE b (0x44 + 16 * i) 4, getLE b (0x48 + 16 * i) 4)

/-- Blocks that do not overlap, nor reach into the header and the directory. -/
def disjoint (lo : Nat) (ds : List (Nat × Nat × Nat)) : Bool :=
  let apart (x y : Nat × Nat × Nat) : Bool := decide (x.2.1 + x.2.2 ≤ y.2.1) || decide (y.2.1 + y.2.2 ≤ x.2.1)
  match ds with
  | [] => true
  | d :: rest => decide (lo ≤ d.2.1) && rest.all (apart d) && disjoint lo rest

/-- The bytes of the blocks of a type, in directory order. -/
def blocksOf (b : List Byte) (ty : Nat) : List (List Byte) :=
  ((imgDir b).filter fun d => d.1 = ty).map fun d => slice b d.2.1 d.2.2

/-- The block of a type that comes at most once; no bytes without it. -/
def blockOf (b : List Byte) (ty : Nat) : List Byte := (blocksOf b ty).headD []

/-- Count limits and lengths of the block types (R419 to R424). -/
def blockRules : List (Nat × Nat × Nat × (Nat → Bool)) :=
  [(0x0001, 1, 1, fun n => n == 412), (0x0002, 1, 1, fun _ => true), (0x0003, 1, 1, fun n => n == 64),
   (0x0004, 1, 32, fun n => n == 96), (0x0005, 1, 1, fun n => n == 12), (0x0006, 1, 1, fun n => n == 96),
   (0x0007, 0, 1, fun n => n % 8 == 0 && decide (n ≤ 64)), (0x0008, 0, 1, fun n => n % 16 == 0),
   (0x0009, 0, 1, fun n => n % 136 == 0 && decide (n ≤ 8704))]

/-- Reserved bytes of a block, as offset and length. -/
def reservedIn (ty : Nat) (bytes : List Byte) : List (Nat × Nat) :=
  match ty with
  | 0x0001 => [(1, 7), (0x8D, 3), (0x199, 3)]
  | 0x0003 => [(2, 6), (0x0F, 1), (0x16, 42)]
  | 0x0004 => [(0x13, 13)]
  | 0x0008 => (List.range (bytes.length / 16)).flatMap fun i => [(16 * i + 1, 1), (16 * i + 4, 4)]
  | 0x0009 => (List.range (bytes.length / 136)).map fun i => (136 * i + 133, 3)
  | _ => []

/-- The image is well formed and its blocks are those of R420 (R418, R420). -/
def imgFormed (b : List Byte) : Bool :=
  let n := getLE b 6 2
  let len := getLE b 8 4
  let ds := imgDir b
  let zero (x : List Byte) (rs : List (Nat × Nat)) : Bool := rs.all fun r => allZero (slice x r.1 r.2)
  getLE b 0 4 == 0x5354524B && getLE b 4 2 == 0x0200 && decide (1 ≤ n) && decide (n ≤ 64) && len % 64 == 0 &&
    decide (len ≤ 4194304) && decide (len ≤ b.length) && decide (0x140 + 16 * n ≤ len) && getLE b 0xC 4 == len - 256 &&
    allZero (slice b 0x18 40) &&
    (List.range n).all (fun i => zero b [(0x42 + 16 * i, 2), (0x4C + 16 * i, 4)]) &&
    ds.all (fun d => d.2.1 % 64 == 0 && decide (d.2.1 + d.2.2 ≤ len - 256)) && disjoint (0x40 + 16 * n) ds &&
    zero b [(len - 256 + 8, 56), (len - 256 + 0xC4, 60)] &&
    blockRules.all (fun r =>
      let bs := blocksOf b r.1
      decide (r.2.1 ≤ bs.length) && decide (bs.length ≤ r.2.2.1) &&
        bs.all fun x => r.2.2.2 x.length && zero x (reservedIn r.1 x)) &&
    ds.all fun d => blockRules.any fun r => r.1 == d.1

/-- The Starter digest (R419). -/
def imgDigest (b : List Byte) : BitVec 512 := Config.sha512 (b.take (getLE b 0xC 4))

def rootKeyOf (b : List Byte) : List Byte := slice (blockOf b 1) 0x114 133

/-- The image is authentic (R419). -/
def imgAuthentic (b : List Byte) : Bool :=
  let cert := blockOf b 1
  let so := getLE b 0xC 4
  let idx := getLE cert 0 1
  let owner := slice cert 8 133
  decide (idx < 4) && Config.sha512 (rootKeyOf b) == Config.rootDigest (Fin.ofNat 4 idx) &&
    Config.ecdsaP521 (rootKeyOf b) (Config.sha512 (cert.take 0x90)) (slice cert 0x90 132) &&
    slice b so 8 == nameOfKey owner && Config.ecdsaP521 owner (imgDigest b) (slice b (so + 0x40) 132)

/-- A register that a REGS entry may name (R424): block, first offset, stride, instances, and its RW and RWL fields with the
values they take. -/
structure ImgReg where
  code : Nat
  base : Nat
  stride : Nat
  n : Nat
  fields : List (Nat × Nat × Nat × Nat)
deriving DecidableEq, Repr

/-- A field without a range of its own. -/
def anyField (hi lo : Nat) : Nat × Nat × Nat × Nat := (hi, lo, 0, 2 ^ (hi + 1 - lo) - 1)

/-- The registers of R424. -/
def imgRegs : List ImgReg :=
  [⟨0x04, 0x008, 8, 1, [(47, 40, 0, 64), (39, 32, 1, 255), (31, 24, 1, 255), (23, 16, 1, 64), (15, 8, 1, 255), anyField 0 0]⟩,
   ⟨0x04, 0x018, 8, 1, [(59, 32, 0, 134217728), anyField 31 0]⟩,
   ⟨0x04, 0x200, 0x10, 32, [(57, 32, 0, 33554432), anyField 31 31, anyField 24 0]⟩,
   ⟨0x04, 0x400, 0x20, 32, [anyField 57 32, anyField 25 0]⟩,
   ⟨0x04, 0x800, 8, 64, [(55, 32, 0, 2097152), anyField 22 0]⟩,
   ⟨0x04, 0xA00, 8, 64, [(55, 32, 0, 2097152), anyField 22 0]⟩,
   ⟨0x05, 0x008, 8, 1, [(39, 32, 1, 250), (31, 20, 5, 4000), (15, 0, 500, 20000)]⟩,
   ⟨0x05, 0x400, 8, 32, [anyField 63 32]⟩,
   ⟨0x07, 0x008, 8, 1, [anyField 63 32]⟩,
   ⟨0x07, 0x010, 8, 1, [(51, 42, 1, 1000), (41, 32, 1, 1000), (31, 24, 1, 255), (23, 16, 1, 255), (15, 8, 1, 255), anyField 0 0]⟩,
   ⟨0x07, 0x018, 8, 1, [anyField 10 8]⟩,
   ⟨0x07, 0x040, 8, 8, [anyField 63 63, anyField 59 48, anyField 43 32, anyField 11 0]⟩,
   ⟨0x07, 0x2D0, 0x20, 2, [anyField 12 8, anyField 2 2, (1, 0, 0, 2)]⟩,
   ⟨0x07, 0x4D0, 0x20, 2, [anyField 12 8, anyField 2 2, (1, 0, 0, 2)]⟩,
   ⟨0x08, 0x008, 8, 1, [anyField 16 16, (15, 0, 0, 10000)]⟩] ++
  [⟨0x09, 0x008, 8, 1, [(47, 32, 1, 65535), (31, 24, 1, 255), (23, 16, 1, 255), (11, 8, 1, 9), (4, 0, 1, 30)]⟩,
   ⟨0x09, 0x010, 8, 1, [anyField 19 16, anyField 15 8, anyField 7 0]⟩,
   ⟨0x09, 0x018, 8, 1, [(32, 0, 0, 6871947673)]⟩,
   ⟨0x09, 0x400, 0x10, 32, [anyField 59 32, anyField 27 0]⟩,
   ⟨0x0B, 0x000, 0x20, 32, [(63, 48, 1, 65535), anyField 31 0]⟩,
   ⟨0x0B, 0x008, 0x20, 32, [(63, 62, 0, 2), anyField 55 32, anyField 31 0]⟩,
   ⟨0x0B, 0x018, 0x20, 32, [anyField 47 32, anyField 31 16, anyField 15 0]⟩,
   ⟨0x03, 0x400, 8, 32, [anyField 15 0]⟩,
   ⟨0x0C, 0x038, 8, 1, [(63, 48, 1, 3600), (47, 40, 1, 255), anyField 39 32, (31, 24, 1, 100)]⟩,
   ⟨0x0C, 0x040, 8, 1, [anyField 63 0]⟩,
   ⟨0x11, 0x008, 8, 1, [(7, 0, 1, 255)]⟩,
   ⟨0x0E, 0x010, 8, 1, [anyField 47 32, (31, 16, 1, 65535), anyField 0 0]⟩,
   ⟨0x10, 0x008, 8, 1, [anyField 55 32]⟩,
   ⟨0x10, 0x030, 8, 1, [anyField 31 24, anyField 23 16, anyField 15 8, anyField 7 0]⟩]

/-- The register that an offset names, and its instance. -/
def imgReg (code off : Nat) : Option (ImgReg × Nat) :=
  (imgRegs.find? fun r => r.code == code && decide (r.base ≤ off) && (off - r.base) % r.stride == 0 &&
    decide ((off - r.base) / r.stride < r.n)).map fun r => (r, (off - r.base) / r.stride)

/-- The entries of a REGS block: block code, offset, VALUE. -/
def regEntries (b : List Byte) : List (Nat × Nat × W64) :=
  let x := blockOf b 8
  (List.range (x.length / 16)).map fun i =>
    (getLE x (16 * i) 1, getLE x (16 * i + 2) 2, BitVec.ofNat 64 (getLE x (16 * i + 8) 8))

/-- Bits of a register that an entry may set. -/
def ImgReg.mask (r : ImgReg) : W64 := r.fields.foldl (fun m f => m ||| maskOf f.1 f.2.1) 0

/-- An entry names an allowed register, sets only its RW and RWL bits, and keeps their ranges (R424, R425). -/
def regEntryOk (e : Nat × Nat × W64) : Bool :=
  match imgReg e.1 e.2.1 with
  | none => false
  | some (r, _) =>
    e.2.2 &&& ~~~r.mask == 0 &&
      r.fields.all (fun f => decide (f.2.2.1 ≤ fld e.2.2 f.1 f.2.1) && decide (fld e.2.2 f.1 f.2.1 ≤ f.2.2.2)) &&
      (!(e.1 == 7 && decide (0x40 ≤ e.2.1) && decide (e.2.1 < 0x80) && flag e.2.2 63) ||
        decide (0x140 ≤ fld e.2.2 59 48) && decide (0x040 ≤ fld e.2.2 11 0) && decide (fld e.2.2 11 0 ≤ 0x13F))

/-- A threshold of PWR_TCFG, clamped (R483). -/
def clampTemp (v : Nat) : Nat := min 125 (max 60 v)

/-- A partition's shaper from the image: the values in force and a full bucket (R385). -/
def startBucket (a : Adm) (v : W64) : Adm :=
  { a with
    bkt := v, rate := fld v 31 0, burst := fld v 55 32, pend := none, tok := fld v 55 32 * 65536
    tokShown := fld v 55 32 * 65536 }

/-- Sets a register of the image (R8, R424). -/
def applyReg (s : State) (e : Nat × Nat × W64) : State :=
  let v := e.2.2
  match imgReg e.1 e.2.1 with
  | none => s
  | some (r, i) =>
    match r.code, r.base with
    | 0x04, 0x008 => { s with tier.cfg := v }
    | 0x04, 0x018 => { s with tier.farea := v }
    | 0x04, 0x200 => { s with tier.prange := tput s.tier.prange i v }
    | 0x04, 0x400 => { s with tier.pguar := tput s.tier.pguar i v }
    | 0x04, 0x800 => { s with tier.win := tput s.tier.win i v }
    | 0x04, 0xA00 => { s with tier.lend := tput s.tier.lend i v }
    | 0x05, 0x008 => { s with epo.cfg := v }
    | 0x05, 0x400 => { s with epo.quota := tput s.epo.quota i (fld v 63 32) }
    | 0x07, 0x008 => { s with fab.rackId := fld v 63 32 }
    | 0x07, 0x010 => { s with fab.cfg := v }
    | 0x07, 0x018 => { s with fab.allowed := fld v 10 8 }
    | 0x07, 0x040 => { s with fab.gw := tput s.fab.gw i v }
    | 0x07, 0x2D0 => s.setPort (14 + i) { s.port (14 + i) with ep := v }
    | 0x07, 0x4D0 => s.setPort (30 + i) { s.port (30 + i) with ep := v }
    | 0x08, 0x008 => { s with fab.swcCfg := v }
    | 0x09, 0x008 => { s with flash.cfg := v }
    | 0x09, 0x010 => { s with flash.sched := v }
    | 0x09, 0x018 => { s with flash.lcap := v }
    | 0x09, 0x400 => { s with flash.prange := tput s.flash.prange i v }
    | 0x0B, 0x000 => s.setAdm i { s.adm i with pcfg := v }
    | 0x0B, 0x008 => s.setAdm i (startBucket (s.adm i) v)
    | 0x0B, 0x018 => s.setAdm i { s.adm i with reg := v }
    | 0x03, 0x400 => { s with work.nbsShare := tput s.work.nbsShare i v }
    | 0x0C, 0x038 => { s with mbr.cfg := v }
    | 0x0C, 0x040 => { s with mbr.expect := v }
    | 0x11, 0x008 => { s with err.cfg := v }
    | 0x0E, 0x010 => { s with pkg.tim.cfg := v }
    | 0x10, 0x008 => { s with pkg.pwr.domEn := fld v 55 32 }
    | 0x10, 0x030 =>
      { s with pkg.pwr.tcfg := mkReg [(24, clampTemp (fld v 31 24)), (16, clampTemp (fld v 23 16)), (8, clampTemp (fld v 15 8)),
                                     (0, clampTemp (fld v 7 0))] }
    | _, _ => s

/-- The function that PRIMARY or STANDBY names: port × 32 + function (R423). -/
def fnOf (b : Nat) : Nat := b / 128 * 32 + b % 32

/-- A function binding of a PARTITION entry: function, queue count, primary. -/
def bindings (e : List Byte) : List (Nat × Nat × Bool) :=
  let p := (fnOf (getLE e 2 1), getLE e 4 2, true)
  if bitOf (getLE e 1 1) 2 then [p, (fnOf (getLE e 3 1), getLE e 6 2, false)] else [p]

/-- A list without repeats. -/
def distinct (xs : List Nat) : Bool := (dedup xs).length == xs.length

/-- Keys of an image, and the non-zero SIGNER values of a PARTITION entry. -/
def imgKeys (b : List Byte) : List (List Byte) :=
  let x := blockOf b 9
  (List.range (x.length / 136)).map fun i => slice x (136 * i) 133
def entrySigners (e : List Byte) : List (List Byte) :=
  ((List.range 8).map fun i => slice e (0x20 + 8 * i) 8).filter fun k => !allZero k
def unlockSigners (b : List Byte) : List (List Byte) :=
  let x := blockOf b 7
  (List.range (x.length / 8)).map fun i => slice x (8 * i) 8

/-- The three frame counts of a stack (R203, R420): RESERVED, LEND, TIER. -/
def frameCounts (b : List Byte) (st : Nat) : Nat × Nat × Nat :=
  let x := blockOf b 6
  (getLE x (12 * st) 4, getLE x (12 * st + 4) 4, getLE x (12 * st + 8) 4)

/-- A PARTITION entry's own fields (R423). -/
def partEntryOk (e : List Byte) : Bool :=
  let standby := bitOf (getLE e 1 1) 2
  let portBits (x : Nat) : Bool := bitsOf x 6 5 == 0
  decide (getLE e 0 1 < 32) && decide (getLE e 1 1 < 8) && portBits (getLE e 2 1) &&
    (if standby then portBits (getLE e 3 1) && getLE e 3 1 / 128 != getLE e 2 1 / 128 else getLE e 6 2 == 0) &&
    (bindings e).all (fun x => decide (1 ≤ x.2.1) && decide (x.2.1 ≤ 2048)) && decide (getLE e 8 4 < 2 ^ 25) &&
    decide (getLE e 0x10 1 < 8) && (entrySigners e).length == getLE e 0x11 1 && decide (1 ≤ getLE e 0x12 1)

/-- A sealed range lies in its partition's range, which is not flash-backed (R425). -/
def sealOk (s : State) (e : List Byte) : Bool :=
  let r := tgetD s.tier.prange (getLE e 0 1) 0
  let n := getLE e 0xC 4
  n == 0 || (decide (fld r 24 0 ≤ getLE e 8 4) && decide (getLE e 8 4 + n ≤ fld r 24 0 + fld r 57 32) && !flag r 31)

/-- Tier ranges that do not overlap; empty ones overlap nothing. -/
def rangesApart : List (Nat × Nat) → Bool
  | [] => true
  | r :: rs => (r.2 == 0 || rs.all fun q => q.2 == 0 || decide (r.1 + r.2 ≤ q.1) || decide (q.1 + q.2 ≤ r.1)) && rangesApart rs

/-- The image is consistent (R424 to R426, R466). -/
def imgConsistent (b : List Byte) : Bool :=
  let ps := blocksOf b 4
  let node := blockOf b 3
  let fns := ps.flatMap bindings
  let keys := (imgKeys b).map nameOfKey
  let mgrs := (List.range 7).map fun i => getLE node (8 + i) 1
  let nm := getLE node 1 1
  let peers := ((List.range 6).map fun i => getLE node (0x10 + i) 1).filter (· != 0x3F)
  let s := (regEntries b).foldl applyReg ({} : State)
  let en := s.pkg.pwr.domEn
  let counts := (List.range 8).map (frameCounts b)
  (regEntries b).all regEntryOk && ps.all partEntryOk && distinct (ps.map fun e => getLE e 0 1) &&
    (ps.filter fun e => bitOf (getLE e 1 1) 0).length == 1 && distinct (fns.map (·.1)) &&
    decide (sumOf (fns.map (·.2.1)) ≤ 4096) &&
    rangesApart (s.tier.prange.map fun kv => (fld kv.2 24 0, fld kv.2 57 32)) && ps.all (sealOk s) &&
    decide (sumOf (s.tier.pguar.map fun kv => fld kv.2 25 0) ≤ sumOf (counts.map (·.2.2))) &&
    counts.all (fun c => decide (c.1 + c.2.1 + c.2.2 ≤ 1048576)) &&
    (nm == 5 || nm == 7) && (mgrs.take nm).all (fun m => decide (m < 64)) && distinct (mgrs.take nm) &&
    (mgrs.drop nm).all (· == 0x3F) && decide (getLE node 0 1 < 64) && peers.all (fun p => decide (p < 64)) &&
    distinct peers && !peers.contains (getLE node 0 1) && distinct (keys.map leNat) &&
    (ps.flatMap entrySigners ++ unlockSigners b).all keys.contains &&
    decide (fld s.mbr.cfg 31 24 + 2 ≤ fld s.mbr.cfg 39 32) && bitOf en 0 && bitOf en 1 &&
    (List.range 8).all (fun n => (!bitOf en (10 + n) || bitOf en (2 + n)) &&
      (bitOf en (10 + n) || frameCounts b n == (0, 0, 0))) &&
    fns.all fun f => bitOf en (20 + f.1 / 32)

/-- Why an image fails (R442): 1 FORMAT, 2 SIGNATURE, 3 CONSISTENCY; 0 when it passes. -/
def imgCheck (b : List Byte) : Nat :=
  if !imgFormed b then 1 else if !imgAuthentic b then 2 else if !imgConsistent b then 3 else 0

end Sys2Proof.Machine
end

