-- ==== Sys2Proof/Machine/Start.lean ====
section
/-!
DEFINITION. The start: image, identity, self-test, domains and recovery (R31, R197, R236, R394, R413 to R429, R439).
-/
namespace Sys2Proof.Machine

/-- The order n of P-521's base point (R428 names the group). -/
def p521Order : Nat :=
  0x1FFFFFFFFFFFFFFFFFFFFFFFFFFFFFFFFFFFFFFFFFFFFFFFFFFFFFFFFFFFFFFFFFFFA51868783BF2F966B7FCC0148F709A5D03BB5C9B8899C47AEBB6FB71E91386409

/-- The private key of a secret (R428). -/
def privKey (k : List Byte) : Nat :=
  let h (t : Byte) : List Byte := digestBytes (Config.sha512 (k ++ [t]))
  leNat (h 1 ++ h 2).reverse % (p521Order - 1) + 1

/-- The node takes an identity (R428, R429, R442). -/
def takeIdentity (s : State) (k : List Byte) (id : IdState) : State :=
  let key := Config.p521Public (privKey k)
  { s with pkg.sec := { s.pkg.sec with secret := k, idKey := key, idDig := Config.sha512 key, id := id } }

/-- The identity row (R428, R434): detector 0x0E leaves the node without an identity; a node whose test access is open reads no
PUF. -/
def startIdentity (s : State) (io : StartIn) : State :=
  if s.pkg.sec.testOpen then { s with pkg.sec.id := .zeroised }
  else
    let (inj, s1) := injFlag s 14 0
    if !io.healthy || inj then
      let s2 := detect s1 14 sevNode actCounted 0xFF 0 0 0 inj
      { s2 with pkg.sec.id := .none_ }
    else
      let s2 := { s1 with pkg.sec.healthy := true }
      match io.secret with
      | none => s2
      | some k => takeIdentity s2 k (if s2.pkg.sec.cert.isEmpty then .uncertified else .ok)

/-- The slots of the NOR in the order in which they are tried (R417): VALID ones, the higher SEQ first. -/
def slotOrder (s : State) : List (Nat × NorSlot) :=
  let a := s.pkg.sec.slotA
  let b := s.pkg.sec.slotB
  let l := if a.seq < b.seq then [(1, b), (0, a)] else [(0, a), (1, b)]
  if s.pkg.sec.dirOk then l.filter fun x => x.2.valid else []

/-- Binds the functions of a PARTITION entry (R369, R423). -/
def bindFns (owner : Bool) (t : Tab Fn) (e : List Byte) : Tab Fn :=
  (bindings e).foldl (fun t x =>
    tput t x.1 { bound := true, part := getLE e 0 1, active := x.2.2, owner := owner, foDelay := getLE e 0x12 1, qcount := x.2.1 }) t

/-- Node queue numbers: each bound function takes the next QCOUNT, functions in order (R369). -/
def numberQueues (t : Tab Fn) : Tab Fn :=
  (t.foldl (fun (acc : Nat × Tab Fn) kv => (acc.1 + kv.2.qcount, acc.2 ++ [(kv.1, { kv.2 with qbase := acc.1 })])) (0, [])).2

/-- The PARTITION entries (R369, R423). -/
def applyParts (s : State) (es : List (List Byte)) : State :=
  let ent (e : List Byte) : PartEnt :=
    { owner := bitOf (getLE e 1 1) 0, unsignedOk := bitOf (getLE e 1 1) 1, sealFirst := getLE e 8 4, sealCount := getLE e 0xC 4
      sealRegion := getLE e 0x10 1, signers := entrySigners e }
  let seals := es.filterMap fun e => if getLE e 0xC 4 = 0 then none else some (getLE e 0 1, getLE e 8 4, getLE e 0xC 4)
  { s with
    pkg.sec.parts := es.foldl (fun t e => tput t (getLE e 0 1) (ent e)) []
    host.fns := numberQueues (es.foldl (fun t e => bindFns (bitOf (getLE e 1 1) 0) t e) [])
    tier.sealed := seals }

/-- The NODE block (R233, R422). -/
def applyNode (s : State) (b : List Byte) : State :=
  let peers := ((List.range 6).map fun i => getLE b (0x10 + i) 1).filter (· != 0x3F)
  { s with
    fab.node := getLE b 0 1
    mbr.mgrs := (List.range (getLE b 1 1)).map fun i => getLE b (8 + i) 1
    epo := { s.epo with peers := peers.take 2, candidates := peers.drop 2 } }

/-- The FRAMES block (R203): RESERVED frames first, then LEND, then TIER. -/
def applyFrames (s : State) (b : List Byte) : State :=
  (List.range 8).foldl (fun t st =>
    let (r, l, n) := frameCounts b st
    { t with tier := { t.tier with
      tierLo := tput t.tier.tierLo st (r + l), tierHi := tput t.tier.tierHi st (r + l + n) } }) s

/-- The image is applied in one step (R425). -/
def applyImage (s : State) (slot : Nat) (x : NorSlot) : State :=
  let b := x.image
  let s1 := { s with pkg.sec := { s.pkg.sec with
    slot := slot, seq := x.seq, starterDig := imgDigest b, fwDig := Config.sha512 (blockOf b 2), keys := imgKeys b
    unlock := unlockSigners b, rootKey := rootKeyOf b, pcieBlk := blockOf b 5 } }
  (regEntries b).foldl applyReg (applyFrames (applyNode (applyParts s1 (blocksOf b 4)) (blockOf b 3)) b)

/-- The service cores leave self-test (R397). -/
def startCores (s : State) (fail : List Nat) : State :=
  let st (i : Nat) : CoreState := if fail.contains i then .failed else .healthy
  let s1 := { s with err.cores := (List.range 3).map fun i => (i, st i) }
  { s1 with err := { s1.err with
    primary := ((List.range 3).find? (coreHealthy s1)).getD 3, noCoreT := if anyCore s1 then none else some s1.now } }

/-- NEXT_START injections fire at this start (R394). -/
def armStarts (s : State) : State :=
  { s with err.inj := tmap s.err.inj fun _ x => if x.armed && x.mode == 2 then { x with mode := 0 } else x }

/-- The rows up to "Image applied" (R414, R417, R426). -/
def startRows (s : State) (io : StartIn) : State :=
  let s1 := armStarts (startCores { s with pkg := { s.pkg with
    sec := { s.pkg.sec with phase := 2, nonce := io.nonce }, pwr := { s.pkg.pwr with inReset := false } } } io.coreFail)
  if !anyCore s1 then s1
  else
    match (slotOrder s1).find? fun x => imgCheck x.2.image == 0 with
    | none => { s1 with pkg.sec.slot := 3 }
    | some (i, x) => startIdentity (applyImage s1 i x) io

/-- Self-test placement in a region (R31): clusters that pass and were not fenced serve first, then those that were. -/
def placeRegion (fail hist r : Nat) : List (Nat × PhysState) × List (Nat × Nat) :=
  let all := List.range 17
  let ok := all.filter fun i => !bitOf fail i
  let order := (ok.filter fun i => !bitOf hist i) ++ ok.filter fun i => bitOf hist i
  let serving := order.take 16
  let ps := all.map fun i =>
    (r * 17 + i, if bitOf fail i then PhysState.failed else if serving.contains i then .active else .spare)
  (ps, (List.range 16).map fun k => (r * 16 + k, match serving[k]? with
    | some i => r * 17 + i
    | none => 0xFF))

/-- Cluster self-test (R31, R45, R465): the regions of domains that are on. RGN_FENCE_HIST is read and cleared (R47). -/
def selfTest (s : State) (fails : List Nat) : State :=
  let on (r : Nat) : Bool := bitOf s.pkg.pwr.domOn (2 + r)
  let place (t : State) (r : Nat) : State :=
    let fail := ofBits ((fails.filter fun p => p / 17 = r).map (· % 17))
    let (ps, ls) := if on r then placeRegion fail (tgetD t.work.fenceHist r 0) r
      else ([], (List.range 16).map fun k => (r * 16 + k, 0xFF))
    let cls := ls.foldl (fun c x =>
      tput c x.1 { tgetD c x.1 ({} : Cluster) with phys := x.2, st := if x.2 = 0xFF then .unavailable else .idle }) t.work.clusters
    { t with work := { t.work with phys := ps.foldl (fun q x => tput q x.1 x.2) t.work.phys, clusters := cls } }
  let s1 := (List.range 8).foldl place s
  { s1 with work.fenceHist := [] }

/-- Near-bank self-test (R186, R187). -/
def unitTest (s : State) (fails : List (Nat × Nat)) : State :=
  { s with work.nbs := (List.range 8).map fun st =>
    let bad := ofBits (dedup ((fails.filter fun x => x.1 = st && x.2 < 64).map (·.2)))
    (st, { on := bitOf s.pkg.pwr.domOn (10 + st), ufail := BitVec.ofNat 64 bad }) }

/-- The modules in the slots, the flash map and its capacity (R335, R346, R351, R472). -/
def startFlash (s : State) (ms : List ModuleId) : State :=
  let one (t : State) (x : ModuleId × Nat) : State :=
    let sl := t.slot13 x.2
    if sl.present && slotDomain t x.2 then discover (t.setSlot13 x.2 { sl with st := .discovering }) x.2 x.1 else t
  let s1 := (ms.take 8).zipIdx.foldl one s
  let raw := sumOf (s1.flash.dies.map fun kv => kv.2.blocks * kv.2.pages)
  { s1 with flash := { s1.flash with
    notOpen := decide (93 * raw < fld s1.flash.lcap 32 0 * 100), ckptT := s1.now, zqT := s1.now } }

/-- Tiles that a partition's range gives a home at a start (R197). -/
def startTiles (s : State) : State :=
  let ranges := s.tier.prange.filter fun kv => flag kv.2 31
  let tiles := ranges.flatMap fun kv => (List.range (fld kv.2 57 32)).map (fld kv.2 24 0 + ·)
  { s with tier.home := tiles.foldl (fun t k => tput t k ⟨.home, 3, k⟩) s.tier.home }

/-- Sealed tiles are PINNED in zeroed frames of their region's stack (R197, R207). -/
def startSealed (s : State) : State :=
  let region (p : Nat) : Nat := (tgetD s.pkg.sec.parts p {}).sealRegion
  let tiles := s.tier.sealed.flatMap fun x => (List.range x.2.2).map fun i => (x.1, x.2.1 + i)
  tiles.foldl (fun t x =>
    match freeFrame t (region x.1) with
    | none => t
    | some k => (takeFrame t k x.2).setHome x.2 ⟨.pinned, 1, stackLoc k⟩) s

/-- Registrations of the run before, for as long as its log is replayed (R236). -/
def oldRegs (s : State) : Tab Index :=
  s.epo.oldIndexes.map fun x =>
    (x.1, { part := x.2.1, desc := x.2.2.1, cb := x.2.2.2, used := usedSlots s (idxD x.2.2.1) })

/-- The update log is recovered (R236): records above EPO_DURABLE are replayed. Registrations do not survive a start. -/
def recoverLog (s : State) : State :=
  let rs := s.epo.flashLog.filter fun r => decide (tgetD s.epo.durable r.2 0 < r.1.epoch)
  let s1 := replayAll { s with work.indexes := oldRegs s } rs
  let last := rs.foldl (fun m r => max m r.1.seq) 0
  { s1 with work.indexes := [], epo := { s1.epo with nextSeq := last + 1 } }

/-- The rows that need the power domains, once PG_MAIN is asserted (R414, R462, R465). -/
def startDomains (s : State) (io : StartIn) : State :=
  let s1 := { s with pkg := { s.pkg with
    sec := { s.pkg.sec with phase := 3 }
    pwr := { s.pkg.pwr with
      domOn := if s.pkg.sec.slot = 3 then 1 + 2 ^ 20 + 2 ^ 21 else s.pkg.pwr.domEn
      avsT := [(0, s.now), (1, s.now)] }
    clk := { s.pkg.clk with vddcd := voltFor s.pkg.clk.tcur, raise := none } } }
  if s1.pkg.sec.slot = 3 then s1
  else
    let s2 := (List.range 32).foldl train (unitTest (selfTest s1 io.clusterFail) io.unitFail)
    let s3 := startFlash { s2 with tier.withheld := s2.err.retired } io.modules
    let s4 := recoverLog (startSealed (startTiles s3))
    let s5 := { s4 with pkg.sec.recovered := true }
    if silentNode s5 then s5 else sendHello s5

/-- START_SEQUENCE (R414): the start runs; a start whose image is applied waits for PG_MAIN. -/
def execStartSequence (io : StartIn) (s : State) : Res :=
  let p := s.pkg.pwr
  if !p.pgAon || p.wrst || !p.clock || p.undervolt then .next s
  else if s.pkg.sec.phase = 1 then
    let s1 := startRows s io
    .next (if p.pgMain && anyCore s1 then startDomains s1 io else s1)
  else if s.pkg.sec.phase = 2 && p.pgMain && anyCore s then .next (startDomains s io)
  else .next s

/-- A write reaches the mailbox (R426, R442): from the owner partition, from either PF when no image has passed, or from the board
management controller. -/
def mayMbx (s : State) (via : Option (Fin 64)) : Bool :=
  match via with
  | none => s.pkg.sec.phase == 2 || s.pkg.sec.phase == 3
  | some f => ownerFn s f.val || (s.pkg.sec.slot == 3 && s.pkg.sec.phase == 3 && f.val % 32 == 0)

/-- The end of a mailbox operation (R442). -/
def mbxDone (s : State) (via : Option (Fin 64)) (op len result : Nat) : State :=
  let x := s.pkg.sec
  { s with pkg.sec := { x with
    mbxState := 2, mbxResult := result
    mbxCtl := if via.isSome then mkReg [(48, op), (0, len % 2 ^ 23)] else x.mbxCtl } }

/-- WRITE_STARTER (R427): a checked image goes into the slot not in use, its directory entry last. A
directory whose CRC failed had no VALID slot (R417), so the one written now names the new slot alone. -/
def execWriteStarter (via : Option (Fin 64)) (data : HostRead) (s : State) : Res :=
  if !mayMbx s via then .next s
  else
    match data with
    | .failed => .next (mbxDone s via 1 (fld s.pkg.sec.mbxCtl 22 0) 5)
    | .ok bs =>
      let r := imgCheck bs
      if r ≠ 0 then .next (mbxDone s via 1 bs.length r)
      else
        let n : NorSlot := { seq := s.pkg.sec.seq + 1, valid := true, image := bs.take (getLE bs 8 4) }
        let x := s.pkg.sec
        let keep (y : NorSlot) : NorSlot := { y with valid := y.valid && x.dirOk }
        let s1 := { s with pkg.sec := { x with
          slotA := if x.slot = 0 then keep x.slotA else n, slotB := if x.slot = 0 then n else keep x.slotB, dirOk := true } }
        .next (mbxDone s1 via 1 bs.length 0)

/-- Keys and secrets go, and with them what rests on them (R434). -/
def zeroise (s : State) : State :=
  let tiles := s.tier.sealed.flatMap fun x => (List.range x.2.2).map (x.2.1 + ·)
  let s1 := endAllWork s
  let home := tiles.foldl (fun t k => tput t k { tgetD t k ({} : Home) with st := .poisoned }) s1.tier.home
  { s1 with
    tier.home := home
    pkg.sec := { s1.pkg.sec with
      secret := [], id := .zeroised, testOpen := true
      spdm := tmap s1.pkg.sec.spdm fun _ c => { c with sess := [], ide := [], ideOn := [] } } }

/-- The key that an unlock token's SIGNER names (R433). -/
def unlockKey (s : State) (bs : List Byte) : Option (List Byte) :=
  let signer := slice bs 0x50 8
  let listed := if s.pkg.sec.unlock.contains signer then s.pkg.sec.keys.find? fun k => nameOfKey k == signer else none
  let extra := slice bs 336 133
  let rom := (List.range 4).any fun i => Config.sha512 extra == Config.rootDigest (Fin.ofNat 4 i)
  if listed.isSome then listed
  else if s.pkg.sec.slot != 3 && nameOfKey s.pkg.sec.rootKey == signer then some s.pkg.sec.rootKey
  else if bs.length = 472 && rom && nameOfKey extra == signer then some extra
  else none

/-- The fields of an unlock token that are fixed: its version, reserved bytes and scope. -/
def tokenFormed (bs : List Byte) : Bool :=
  (bs.length == 336 || (bs.length == 472 && allZero (slice bs 469 3))) && getLE bs 0 2 == 0x0200 && decide (getLE bs 2 2 < 4) &&
    allZero (slice bs 4 4) && allZero (slice bs 0x58 56) && allZero (slice bs 0x114 60)

/-- Why an unlock token is refused (R433, R442): 1 FORMAT, 4 NONCE, 2 SIGNATURE. -/
def tokenCheck (s : State) (bs : List Byte) : Nat :=
  if !tokenFormed bs then 1
  else if getLE bs 8 8 != s.pkg.sec.nonce.toNat || slice bs 0x10 64 != digestBytes s.pkg.sec.idDig then 4
  else
    match unlockKey s bs with
    | none => 2
    | some k => if Config.ecdsaP521 k (Config.sha512 (bs.take 0x50)) (slice bs 0x90 132) then 0 else 2

/-- UNLOCK (R433, R434). -/
def execUnlock (via : Option (Fin 64)) (data : HostRead) (s : State) : Res :=
  if !mayMbx s via then .next s
  else
    match data with
    | .failed => .next (mbxDone s via 2 (fld s.pkg.sec.mbxCtl 22 0) 5)
    | .ok bs =>
      let r := tokenCheck s bs
      .next (mbxDone (if r = 0 then zeroise s else s) via 2 bs.length r)

/-- ENROLL (R429): a new secret when the node has no identity though its PUF is healthy; otherwise RESULT STATE. -/
def execEnroll (via : Option (Fin 64)) (s : State) : Res :=
  if !mayMbx s via then .next s
  else if s.pkg.sec.id == .none_ && s.pkg.sec.healthy then
    let k := Config.randomBytes s.freeCtr 32
    let helper := Config.randomBytes (s.freeCtr + 1) 65536
    let s1 := takeIdentity { s with freeCtr := s.freeCtr + 2 } k .uncertified
    .next (mbxDone { s1 with pkg.sec := { s1.pkg.sec with helper := helper, cert := [] } } via 3 0 0)
  else .next (mbxDone s via 3 0 8)

/-- ORDERLY_STOP (R440): by the owner partition or the board management controller. -/
def execOrderlyStop (via : Option (Fin 64)) (s : State) : Res :=
  .next (if running s && mayMbx s via then settleStop (beginStop s) else s)

end Sys2Proof.Machine
end

