-- ==== Sys2Proof/Machine/Spdm.lean ====
section
/-!
DEFINITION. The SPDM responder and the attestation quote (R430 to R432). The spec names the protocol; its message layouts are those
of DMTF DSP0274 and of PCIe IDE_KM. PRESUMED.
-/
namespace Sys2Proof.Machine

/-- Request and response codes of SPDM 1.3. -/
def spErr : Nat := 0x7F
/-- Error codes: InvalidRequest, UnexpectedRequest, Unspecified, SessionRequired, VersionMismatch. -/
def seInvalid : Nat := 0x01
def seUnexpected : Nat := 0x04
def seUnspecified : Nat := 0x05
def seSession : Nat := 0x0B
def seVersion : Nat := 0x41

/-- The four header bytes of a response. -/
def spHead (code p1 p2 : Nat) : List Byte := [0x13, BitVec.ofNat 8 code, BitVec.ofNat 8 p1, BitVec.ofNat 8 p2]
def spError (code : Nat) : List Byte := spHead spErr code 0

/-- The requester a path names: a function's DOE mailbox, or MCTP (64). -/
def spKey (p : SpdmPath) : Nat :=
  match p with
  | .doe f => f.val
  | .mctp => 64

/-- The responder listens on a path (R426, R430, R471): on a bound function whose link is up, and on MCTP while AON runs and the
service firmware does. -/
def spOpen (s : State) (p : SpdmPath) : Bool :=
  s.pkg.sec.phase != 0 && s.pkg.sec.phase != 1 && anyCore s &&
    (match p with
      | .doe f => (s.fn f.val).bound && (s.pcie f.val).up
      | .mctp => true)

def State.conn (s : State) (p : SpdmPath) : SpdmConn := tgetD s.pkg.sec.spdm (spKey p) {}
def State.setConn (s : State) (p : SpdmPath) (c : SpdmConn) : State :=
  { s with pkg.sec.spdm := tput s.pkg.sec.spdm (spKey p) c }

/-- A request outside a session: its header is checked, then the answer is made and enters the transcript. An error leaves the
connection as it is. -/
def spAnswer (s : State) (p : SpdmPath) (code phase : Nat) (req : List Byte)
    (f : State → SpdmConn → Option (List Byte) × SpdmConn × State × Nat) : Res :=
  if !spOpen s p then .next s
  else
    let c := s.conn p
    let err (t : State) (e : Nat) : Res := .next (t.emit (.spdm p (spError e)))
    if getLE req 1 1 != code then err s seInvalid
    else if code != 0x84 && getLE req 0 1 != 0x13 then err s seVersion
    else if c.phase < phase then err s seUnexpected
    else
      match f s c with
      | (none, _, s1, e) => err s1 e
      | (some resp, c1, s1, _) =>
        .next ((s1.setConn p { c1 with transcript := c1.transcript ++ req ++ resp }).emit (.spdm p resp))

/-- The identity key can sign (R432). -/
def canSign (s : State) : Bool := s.pkg.sec.id == .ok || s.pkg.sec.id == .uncertified

/-- A signature by the identity key over the transcript so far (R431). -/
def spSign (s : State) (c : SpdmConn) (req resp : List Byte) : List Byte :=
  slice (Config.p521Sign (privKey s.pkg.sec.secret) (c.transcript ++ req ++ resp)) 0 132

/-- Bytes without a source in the spec. -/
def spRandom (s : State) (n : Nat) : List Byte × State :=
  (slice (Config.randomBytes s.freeCtr n) 0 n, { s with freeCtr := s.freeCtr + 1 })

/-- Certificate slot 0: the device certificate and the root certificate that signed it; empty when the identity is
UNCERTIFIED (R430). -/
def certChain (s : State) : List Byte := if s.pkg.sec.id == .uncertified then [] else s.pkg.sec.cert
def slotMask (s : State) : Nat := b2n (!(certChain s).isEmpty)

/-- SPDM_GET_VERSION (R430): the connection starts anew. -/
def execSpdmGetVersion (path : SpdmPath) (req : List Byte) (s : State) : Res :=
  spAnswer s path 0x84 0 req fun s c =>
    (some ([0x10, 0x04, 0, 0, 0, 1] ++ leBytes 2 0x1300), { c with phase := 1, transcript := [], sess := [] }, s, 0)

/-- Capabilities: CERT, CHAL, MEAS with signature, ENCRYPT, MAC, KEY_EX, HBEAT, KEY_UPD (R430). -/
def spCaps : Nat := 0x62D6

/-- SPDM_GET_CAPABILITIES (R430). -/
def execSpdmGetCapabilities (path : SpdmPath) (req : List Byte) (s : State) : Res :=
  spAnswer s path 0xE1 1 req fun s c =>
    let (r, s1) := spRandom s 9
    (some (spHead 0x61 0 0 ++ [0] ++ r.take 1 ++ [0, 0] ++ leBytes 4 spCaps ++ r.drop 1), { c with phase := 2 }, s1, 0)

/-- What a requester offers in an algorithm table of a type. -/
def offered (req : List Byte) (ty : Nat) : Nat :=
  match (List.range (getLE req 2 1)).find? fun i => getLE req (32 + 4 * i) 1 == ty with
  | some i => getLE req (34 + 4 * i) 2
  | none => 0

/-- SPDM_NEGOTIATE_ALGORITHMS (R430): ECDSA P-521, SHA-512, ECDHE on secp521r1 and AES-256-GCM, as far as they are offered. -/
def execSpdmNegotiateAlgorithms (path : SpdmPath) (req : List Byte) (s : State) : Res :=
  spAnswer s path 0xE3 2 req fun s c =>
    let pick (v bit : Nat) : Nat := if bitOf v bit then 2 ^ bit else 0
    let tbl (ty v : Nat) : List Byte := [BitVec.ofNat 8 ty, 0x20] ++ leBytes 2 v
    (some (spHead 0x63 4 0 ++ leBytes 2 52 ++ leBytes 1 (pick (getLE req 6 1) 0) ++ [0] ++ leBytes 4 8 ++
        leBytes 4 (pick (getLE req 8 4) 8) ++ leBytes 4 (pick (getLE req 12 4) 2) ++ leBytes 16 0 ++
        tbl 2 (pick (offered req 2) 5) ++ tbl 3 (pick (offered req 3) 1) ++ tbl 4 0 ++ tbl 5 (pick (offered req 5) 0)),
      { c with phase := 3 }, s, 0)

/-- SPDM_GET_DIGESTS (R430). -/
def execSpdmGetDigests (path : SpdmPath) (req : List Byte) (s : State) : Res :=
  spAnswer s path 0x81 3 req fun s c =>
    let ds := if slotMask s = 0 then [] else digestBytes (Config.sha512 (certChain s))
    (some (spHead 0x01 (slotMask s) (slotMask s) ++ ds), c, s, 0)

/-- SPDM_GET_CERTIFICATE (R430): a portion of slot 0's chain. -/
def execSpdmGetCertificate (path : SpdmPath) (req : List Byte) (s : State) : Res :=
  spAnswer s path 0x82 3 req fun s c =>
    let chain := certChain s
    let off := getLE req 4 2
    if getLE req 2 1 % 16 != 0 || chain.isEmpty || decide (chain.length ≤ off) then (none, c, s, seInvalid)
    else
      let part := (chain.drop off).take (getLE req 6 2)
      (some (spHead 0x02 0 0 ++ leBytes 2 part.length ++ leBytes 2 (chain.length - off - part.length) ++ part), c, s, 0)

/-- SEC_STAT (R442). -/
def secStat (s : State) : W64 :=
  let id := match s.pkg.sec.id with
    | .ok => 0
    | .none_ => 1
    | .zeroised => 2
    | .uncertified => 3
  mkReg [(3, b2n s.pkg.sec.cold), (4, s.pkg.sec.slot), (8, id), (10, b2n s.pkg.sec.testOpen)]

/-- MBR_STATE.STATE (R412). -/
def mbrStateCode (s : State) : Nat :=
  match s.mbr.st with
  | .alone => 0
  | .pending => 1
  | .member => 2
  | .held => 3
  | .rejoinWait => 4

/-- Plans that a quote over a path lists (R432). -/
def quotePlans (s : State) (p : SpdmPath) : List (Nat × Plan) :=
  s.work.plans.filter fun kv => kv.2.state == .admitted && (match p with
    | .mctp => true
    | .doe f => (s.fn f.val).owner || kv.2.part == (s.fn f.val).part)

/-- The content of a measurement block, and whether it is raw (R431). -/
def measurement (s : State) (p : SpdmPath) (i : Nat) : Bool × List Byte :=
  match i with
  | 1 => (false, digestBytes Config.romDigest)
  | 2 => (true, digestBytes s.pkg.sec.starterDig ++ leBytes 8 s.pkg.sec.seq)
  | 3 => (false, digestBytes s.pkg.sec.fwDig)
  | 4 => (true, (quotePlans s p).flatMap fun kv => leBytes 1 kv.1 ++ leBytes 1 kv.2.part ++ digestBytes kv.2.bin.digest)
  | 5 => (true, leBytes 8 s.epo.closed ++ leBytes 8 s.now ++ leBytes 4 s.mbr.gen ++ leBytes 4 s.mbr.job)
  | _ => (true, leBytes 8 (secStat s).toNat ++ leBytes 1 s.fab.role ++ leBytes 1 (mbrStateCode s))

/-- A measurement block in the DMTF format (R431). -/
def measBlock (s : State) (p : SpdmPath) (i : Nat) : List Byte :=
  let (raw, v) := measurement s p i
  leBytes 1 i ++ [1] ++ leBytes 2 (v.length + 3) ++ leBytes 1 (if raw then 0x80 + i else i) ++ leBytes 2 v.length ++ v

/-- The measurement blocks a request asks for: none, one, or all six. -/
def measIndices (op : Nat) : Option (List Nat) :=
  if op = 0 then some [] else if op = 0xFF then some [1, 2, 3, 4, 5, 6] else if op ≤ 6 then some [op] else none

/-- A summary of all measurements, when a request asks for one. -/
def measSummary (s : State) (p : SpdmPath) (kind : Nat) : List Byte :=
  if kind = 0 then [] else digestBytes (Config.sha512 ([1, 2, 3, 4, 5, 6].flatMap (measBlock s p)))

/-- SPDM_CHALLENGE (R430, R432). -/
def execSpdmChallenge (path : SpdmPath) (req : List Byte) (s : State) : Res :=
  spAnswer s path 0x83 3 req fun s c =>
    if !canSign s then (none, c, s, seUnspecified)
    else
      let (n, s1) := spRandom s 32
      let body := spHead 0x03 0 (slotMask s) ++ digestBytes (Config.sha512 (certChain s)) ++ n ++
        measSummary s path (getLE req 3 1) ++ leBytes 2 0 ++ slice req 36 8
      (some (body ++ spSign s c req body), c, s1, 0)

/-- SPDM_GET_MEASUREMENTS (R431, R432): the quote when a signature is asked for. -/
def execSpdmGetMeasurements (path : SpdmPath) (req : List Byte) (s : State) : Res :=
  spAnswer s path 0xE0 3 req fun s c =>
    let signed := bitOf (getLE req 2 1) 0
    match measIndices (getLE req 3 1) with
    | none => (none, c, s, seInvalid)
    | some is =>
      if signed && !canSign s then (none, c, s, seUnspecified)
      else
        let (n, s1) := spRandom s 32
        let blocks := is.flatMap (measBlock s path)
        let body := spHead 0x60 (if is.isEmpty then 6 else 0) 0 ++ leBytes 1 is.length ++ leBytes 3 blocks.length ++ blocks ++ n ++
          leBytes 2 0 ++ slice req (if signed then 37 else 4) 8
        (some (if signed then body ++ spSign s c req body else body), c, s1, 0)

/-- SPDM_KEY_EXCHANGE (R430, R432): a session begins; it is open once FINISH completes. -/
def execSpdmKeyExchange (path : SpdmPath) (req : List Byte) (s : State) : Res :=
  spAnswer s path 0xE4 3 req fun s c =>
    if !canSign s then (none, c, s, seUnspecified)
    else
      let (n, s1) := spRandom s 164
      let sid := getLE req 4 2 + 65536 * c.nextId
      let body := spHead 0x64 0 0 ++ leBytes 2 c.nextId ++ [0, 0] ++ n ++ measSummary s path (getLE req 2 1) ++ leBytes 2 0
      let resp := body ++ spSign s c req body
      let mac := slice (Config.spdmKeys (c.transcript ++ req ++ resp)) 0 64
      (some (resp ++ mac), { c with sess := c.sess ++ [{ id := sid }], nextId := c.nextId + 1 }, s1, 0)

/-- A message of a session: the session's number in 4 bytes, then the message as the session's keys give it. -/
def spSession (s : State) (p : SpdmPath) (req : List Byte) (f : State → SpdmConn → SpdmSess → List Byte → List Byte × SpdmConn) :
    Res :=
  if !spOpen s p then .next s
  else
    let c := s.conn p
    match c.sess.find? fun x => x.id == getLE req 0 4 with
    | none => .next (s.emit (.spdm p (spError seSession)))
    | some x =>
      let (resp, c1) := f s c x (req.drop 4)
      .next ((s.setConn p c1).emit (.spdm p (leBytes 4 x.id ++ resp)))

/-- The connection with a session changed. -/
def putSess (c : SpdmConn) (x : SpdmSess) : SpdmConn := { c with sess := c.sess.map fun y => if y.id = x.id then x else y }

/-- SPDM_FINISH (R430): the requester's verify data matches, and the session is open. -/
def execSpdmFinish (path : SpdmPath) (req : List Byte) (s : State) : Res :=
  spSession s path req fun _ c x m =>
    let body := m.take (m.length - 64)
    let mac := slice (Config.spdmKeys (c.transcript ++ body)) 0 64
    if getLE m 1 1 = 0xE5 && !x.open_ && m.drop (m.length - 64) == mac then
      (spHead 0x65 0 0, putSess { c with transcript := c.transcript ++ m } { x with open_ := true })
    else (spError seInvalid, c)

/-- SPDM_KEY_UPDATE (R430): operation 1 or 2 makes new keys, 3 verifies them. -/
def execSpdmKeyUpdate (path : SpdmPath) (req : List Byte) (s : State) : Res :=
  spSession s path req fun _ c x m =>
    let op := getLE m 2 1
    if getLE m 1 1 = 0xE9 && x.open_ && decide (1 ≤ op) && decide (op ≤ 3) then
      (spHead 0x69 op (getLE m 3 1), putSess c { x with keyGen := if op = 3 then x.keyGen else x.keyGen + 1 })
    else (spError seInvalid, c)

/-- SPDM_HEARTBEAT (R430). -/
def execSpdmHeartbeat (path : SpdmPath) (req : List Byte) (s : State) : Res :=
  spSession s path req fun _ c x m =>
    (if getLE m 1 1 = 0xE8 && x.open_ then spHead 0x68 0 0 else spError seInvalid, c)

/-- SPDM_END_SESSION (R430). -/
def execSpdmEndSession (path : SpdmPath) (req : List Byte) (s : State) : Res :=
  spSession s path req fun _ c x m =>
    if getLE m 1 1 = 0xEC && x.open_ then (spHead 0x6C 0 0, { c with sess := c.sess.filter fun y => y.id != x.id })
    else (spError seInvalid, c)

/-- IDE_KM (R430): QUERY, KEY_PROG, K_SET_GO and K_SET_STOP for a stream and a key set, inside an open session. -/
def execIdeKm (path : SpdmPath) (req : List Byte) (s : State) : Res :=
  spSession s path req fun _ c x m =>
    let k := getLE m 3 1 * 256 + getLE m 5 1
    let ack (code st : Nat) : List Byte :=
      leBytes 1 code ++ [0, 0] ++ slice m 3 1 ++ leBytes 1 st ++ slice m 5 1 ++ slice m 6 1
    if !x.open_ then (spError seInvalid, c)
    else
      match getLE m 0 1 with
      | 0 => (leBytes 1 1 ++ [0] ++ slice m 2 1, c)
      | 2 =>
        if m.length < 47 then (ack 3 1, c) else (ack 3 0, { c with ide := tput c.ide k ((m.drop 7).take 40) })
      | 4 => (ack 5 0, if (tget? c.ide k).isSome then { c with ideOn := tput c.ideOn k true } else c)
      | 6 => (ack 5 0, { c with ideOn := terase c.ideOn k })
      | _ => (spError seInvalid, c)

end Sys2Proof.Machine
end

