-- ==== Sys2Proof/Machine/RegRead.lean ====
section
/-!
DEFINITION. What a function reads in its control space (R485 to R487): every register of the index, with the visibility of its
block. A field that shows the node's state is computed from it.
-/
namespace Sys2Proof.Machine

/-- The instance number of a per-instance register: offset = base + number × stride, number below `n`. -/
def inst (off base stride n : Nat) : Option Nat :=
  if base ≤ off ∧ (off - base) % stride = 0 ∧ (off - base) / stride < n then some ((off - base) / stride) else none

/-- The first instance that answers; 0 where no register lies (R486). -/
def pick (xs : List (Option W64)) : W64 := (xs.findSome? id).getD 0

/-- A register of instances. -/
def per (off base stride n : Nat) (f : Nat → W64) : Option W64 := (inst off base stride n).map f

/-- A register at one offset. -/
def one (off at_ : Nat) (w : W64) : Option W64 := if off = at_ then some w else none

/-- A value that only its own partition reads (R487). -/
def ownOnly (own : Bool) (w : W64) : W64 := if own then w else 0

/-- The TOP block (R4, R99 to R103). -/
def rdTop (s : State) (p off : Nat) (bound : Bool) : W64 :=
  let mine (q : Nat) : Bool := bound && q == p
  let planStat (i : Nat) : W64 := match tget? s.work.plans i with
    | some x => ownOnly (mine x.part) (mkReg [(32, x.bin.tag), (16, x.bin.version), (8, x.part), (0, match x.state with
        | .loading => 1
        | .admitted => 2
        | .unloading => 3)])
    | none => 0
  let planNd (i : Nat) : W64 := match tget? s.work.plans i with
    | some x => ownOnly (mine x.part) (BitVec.ofNat 64 x.bin.ndReach)
    | none => 0
  let model (u : Nat) : W64 := match tget? s.work.models u with
    | some m => ownOnly (mine m.part) (mkReg [(32, m.id), (24, m.prio), (16, m.part), (0, match m.state with
        | .loading => 1
        | .resident => 2
        | .evicting => 3)])
    | none => 0
  pick [
    one off 0 (mkReg [(48, 0x9216), (40, 2), (24, 2), (16, 1)]),
    one off 8 (mkReg [(32, 3), (0, 0xFF)]),
    per off 0x800 8 32 fun q => ownOnly (mine q) (tgetD s.work.planRefuse q 0),
    per off 0x1000 0x20 256 planStat, per off 0x1008 0x20 256 planNd, per off 0x3000 0x10 32 model]

/-- The CLS block (R48, R69 to R72). -/
def rdCls (s : State) (p off : Nat) : W64 :=
  let own (c : Nat) (w : Cluster → W64) : W64 := ownOnly (clRunsFor s c p) (w (s.cl c))
  let st (x : Cluster) : Nat := match x.st with
    | .idle => 0
    | .clearing => 1
    | .loading => 2
    | .running => 3
    | .draining => 4
    | .unavailable => 15
  let sat (k : Nat) (f : Cluster → Tab W64) : W64 := own (k / 64) fun x => tgetD (f x) (k % 64) 0
  pick [
    per off 0 0x40 128 fun c => own c fun x => mkReg [(40, x.phys), (32, x.role), (24, x.part), (0, st x)],
    per off 0x08 0x40 128 fun c => own c (·.satCfg), per off 0x10 0x40 128 fun c => own c (·.satEvt),
    per off 0x18 0x40 128 fun c => own c (·.nonfin), per off 0x20 0x40 128 fun c => own c (·.accsat),
    per off 0x2000 0x10 8192 fun k => sat k (·.satConv), per off 0x2008 0x10 8192 fun k => sat k (·.satClip)]

/-- RGN_CLSTATE (R45): a region that self-test has not placed shows its reset value. -/
def clState (s : State) (r : Nat) : W64 :=
  let phys (i : Nat) : PhysState := tgetD s.work.phys (r * 17 + i) .failed
  let code (i : Nat) : Nat := match phys i with
    | .active => 0
    | .spare => 1
    | .fenced => 2
    | .failed => 3
  let placed := (List.range 17).any fun i => (tget? s.work.phys (r * 17 + i)).isSome
  let unavail := if placed then ((List.range 16).filter fun i => (s.cl (r * 16 + i)).st == .unavailable).length else 16
  mkReg ([(48, ((List.range 17).filter fun i => phys i == .spare).length), (40, unavail)] ++
    (List.range 17).map fun i => (2 * i, code i))

/-- The RGN block (R45 to R47). -/
def rdRgn (s : State) (off : Nat) : W64 :=
  pick [
    per off 0 0x100 8 (clState s), per off 0x08 0x100 8 fun r => mkReg [(0, tgetD s.work.rgnFence r 0)],
    per off 0x10 0x100 8 fun r => BitVec.ofNat 64 (tgetD s.work.fenceHist r 0)]

/-- NBS_STK (R186): operations that wait at the stack's controller, and its state. -/
def nbStk (s : State) (n : Nat) : W64 :=
  let x := tgetD s.work.nbs n {}
  let waiting := (x.queue.filter fun kv => !kv.2.started).length
  let st := if !x.on then 0 else if x.fault then 3 else if x.queue.isEmpty then 1 else 2
  mkReg [(16, min 64 waiting), (8, 64 - popCount 64 x.ufail.toNat), (0, st)]

/-- The NBS block (R185 to R189). -/
def rdNbs (s : State) (p off : Nat) : W64 :=
  pick [
    one off 0 (mkReg [(32, 0x0200), (24, 0x40), (16, 0x10), (8, 8)]),
    per off 0x100 0x20 8 (nbStk s), per off 0x108 0x20 8 fun n => (tgetD s.work.nbs n {}).ufail,
    per off 0x400 8 32 fun q => ownOnly (q == p) (tgetD s.work.nbsShare q 0),
    per off 0x600 8 32 fun q => ownOnly (q == p) (tgetD s.work.nbsErr q 0)]

/-- A Home Table entry as 32 bits (R192, R193). -/
def homeBits (h : Home) : Nat :=
  let st := match h.st with
    | .unmapped => 0
    | .home => 1
    | .pinned => 2
    | .moving => 3
    | .poisoned => 4
  if h.st == .unmapped then 0 else st * 2 ^ 29 + h.tier * 2 ^ 27 + h.loc

/-- TIER_HLOOK of a function (R219). -/
def hlookReg (s : State) (f : Nat) : W64 :=
  let x := s.fn f
  mkReg [(32, x.hlook), (0, if inPrange s x.part x.hlook 1 then homeBits (s.home x.hlook) else 0)]

/-- The TIER block (R217 to R224). -/
def rdTier (s : State) (f p off : Nat) : W64 :=
  let t := s.tier
  pick [
    one off 0 (mkReg [(32, 0x0200), (16, 0x1000), (0, 0x100)]), one off 8 t.cfg, one off 0x10 (hlookReg s f),
    one off 0x18 t.farea,
    per off 0x200 0x10 32 fun q => ownOnly (q == p) (tgetD t.prange q 0),
    per off 0x400 0x20 32 fun q => ownOnly (q == p) (tgetD t.pguar q 0),
    per off 0x408 0x20 32 fun q => ownOnly (q == p) (mkReg [(32, pinnedCount s q), (0, homedCount s q)]),
    per off 0x800 8 64 fun x => tgetD t.win x 0, per off 0xA00 8 64 fun x => tgetD t.lend x 0,
    per off 0xC00 8 32 fun q => ownOnly (q == p) (tgetD t.err q 0)]

/-- EPO_LOGPEER (R252): this node's position, its peers, and the next candidate. -/
def logPeerReg (s : State) : W64 :=
  let self := if s.fab.node < 64 then s.fab.node else 0
  mkReg [(0, self), (6, s.epo.peers.getD 0 0), (12, s.epo.peers.getD 1 0), (18, s.epo.candidates.headD 0x3F)]

/-- The EPO block (R248 to R254). -/
def rdEpo (s : State) (p off : Nat) (owner : Bool) : W64 :=
  let e := s.epo
  let phase := match e.phase with
    | .idle => 0
    | .drain => 1
    | .publish => 2
    | .inval => 3
    | .release => 4
  pick [
    one off 0 (mkReg [(32, 0x0200), (24, 8), (16, 2), (0, 0x40)]), one off 8 e.cfg,
    one off 0x10 (BitVec.ofNat 64 e.closed), one off 0x18 (BitVec.ofNat 64 e.oldest),
    one off 0x20 (mkReg [(32, min 0xFFFF e.closeUs), (0, phase)]), one off 0x28 (BitVec.ofNat 64 e.closeT),
    one off 0x30 (logPeerReg s), one off 0x38 (mkReg [(0, e.ctxRet)]),
    per off 0x200 0x10 32 fun q => ownOnly (q == p || owner) (BitVec.ofNat 64 (tgetD e.durable q 0)),
    per off 0x208 0x10 32 fun q => ownOnly (q == p || owner) (BitVec.ofNat 64 (tgetD e.ckpt q 0)),
    per off 0x400 8 32 fun q => ownOnly (q == p) (mkReg [(32, tgetD e.quota q 0), (0, ceilDiv (logUsed s q) (2 ^ 20))]),
    per off 0x600 8 32 fun q => ownOnly (q == p) (tgetD e.err q 0)]

/-- KNE_ENG (R162): a Kneader that holds a merge is at its intake. -/
def kneEng (s : State) (p r : Nat) : W64 :=
  match tget? s.work.kne r with
  | some m =>
    let entries := sumOf (m.lists.map fun l => getLE l.1 8 2)
    ownOnly (m.part == p) (mkReg [(24, min 65536 entries), (16, min 64 m.lists.length), (8, m.part), (0, 1)])
  | none => 0

/-- The KNE block (R161 to R163). -/
def rdKne (s : State) (p off : Nat) : W64 :=
  pick [
    one off 0 (mkReg [(32, 0x0200), (24, 16), (16, 64), (0, 1024)]), per off 0x100 0x10 16 (kneEng s p),
    per off 0x400 8 32 fun q => ownOnly (q == p) (tgetD s.work.kneErr q 0)]

/-- FAB_PORT_STAT (R309). -/
def portStat (s : State) (t : Nat) : W64 :=
  let x := s.port t
  let st := match x.st with
    | .down => 0
    | .training => 1
    | .align => 2
    | .ident => 3
    | .up => 4
    | .disabled => 5
  mkReg [(40, x.far), (35, x.farPort), (24, x.lanes), (16, x.reason), (0, st)]

/-- FAB_ID (R304): the node number stands once membership has assigned it. -/
def fabId (s : State) : W64 := mkReg [(32, s.fab.rackId), (0, if s.mbr.gen != 0 then s.fab.node else 0xFFF)]

/-- The FAB block (R303 to R311). -/
def rdFab (s : State) (off : Nat) : W64 :=
  let x := s.fab
  let edge (t : Nat) : Bool := t % 16 == 14 || t % 16 == 15
  pick [
    one off 0 (mkReg [(32, 0x0200), (24, 0x20), (16, 2), (8, 4), (0, 0x40)]), one off 8 (fabId s), one off 0x10 x.cfg,
    one off 0x18 (mkReg [(8, x.allowed), (0, x.role)]), per off 0x40 8 8 fun e => tgetD x.gw e 0,
    one off 0x80 (BitVec.ofNat 64 (reachMask s)), per off 0x100 0x20 32 (portStat s),
    per off 0x108 0x20 32 fun t => mkReg [(0, b2n (s.port t).disable)],
    per off 0x110 0x20 32 fun t => if edge t then (s.port t).ep else 0]

/-- SWC_DESC (R334): the reservation of a slot and the instances of its descriptor that are open here. -/
def swcDesc (s : State) (p d : Nat) : W64 :=
  match tget? s.fab.descs d with
  | some (plan, part) =>
    let ds := (tgetD s.work.plans plan {}).descs
    let mine (k : Nat) : Bool := ds[k]? == some d
    let ks := (planDescs (tgetD s.work.plans plan {}).bin).zipIdx.filterMap fun (x : Nat × Nat) => if mine x.2 then some x.1 else none
    let n := (s.fab.colls.filter fun kv => !kv.2.closed && ks.any fun k => kv.2.desc == some (plan, k)).length
    ownOnly (part == p) (mkReg [(32, plan), (24, part), (0, min 2 n)])
  | none => 0

/-- The SWC block (R329 to R334). Which edge die holds a plan's staging is left open: a free value within the total. -/
def rdSwc (s : State) (p off : Nat) : W64 :=
  let x := s.fab
  let total := ceilDiv (sumOf (s.work.plans.map fun kv => kv.2.staging)) 1024
  let north := min total (Config.stagingNorth total)
  pick [
    one off 0 (mkReg [(32, 0x0200), (16, 0x1000), (8, 0x40)]), one off 8 x.swcCfg,
    one off 0x10 (mkReg [(32, total - north), (0, north)]),
    per off 0x100 0x10 32 fun t => mkReg [(0, min 2048 (ceilDiv (joinUsed (s.port t)) 16))],
    per off 0x800 8 32 fun q => ownOnly (q == p) (tgetD x.swcErr q 0), per off 0x1000 0x10 4096 (swcDesc s p)]

/-- Dies of a module slot (R364): slot m holds channels 4m to 4m + 3. -/
def modDies (s : State) (m : Nat) (st : DieState) : Nat :=
  (s.flash.dies.filter fun kv => kv.1 / 128 = m && kv.2.st == st).length

/-- FLS_MOD (R364). -/
def flsMod (s : State) (m : Nat) : W64 :=
  let st := match (s.slot13 m).st with
    | .absent => 0
    | .discovering => 1
    | .online => 2
    | .mismatch => 3
    | .evacuating => 4
    | .safe => 5
  mkReg [(48, modDies s m .inService), (40, modDies s m .retired), (0, st)]

/-- FLS_DIELOOK of a function (R363). -/
def dieLookReg (s : State) (f : Nat) : W64 :=
  let d := (s.fn f).dieLook
  let x := s.die d
  let st := match x.st with
    | .inService => 0
    | .retiring => 1
    | .retired => 2
    | .absent => 3
  mkReg [(32, d), (30, st), (0, x.retBlk)]

/-- FLS_USE (R362): the share of free blocks is rounded down. -/
def flsUse (s : State) : W64 :=
  let ds := s.flash.dies.filter fun kv => kv.2.st == .inService
  let live := sumOf (ds.map fun kv => liveBlocks kv.2)
  let free := sumOf (ds.map fun kv => freeBlocks kv.2)
  mkReg [(40, if live = 0 then 0 else min 255 (free * 256 / live)),
    (0, (s.flash.map_.filter fun kv => kv.2.st == .mapped).length)]

/-- The FLS block (R360 to R366). -/
def rdFls (s : State) (f p off : Nat) : W64 :=
  let x := s.flash
  let (hi, lo) := wearOf s
  pick [
    one off 0 (mkReg [(32, 0x0200), (24, 0x20), (16, 8), (8, 8), (0, 4)]), one off 8 x.cfg, one off 0x10 x.sched,
    one off 0x18 x.lcap, one off 0x20 (flsUse s), one off 0x28 (mkReg [(32, hi), (0, lo)]), one off 0x30 (dieLookReg s f),
    per off 0x100 0x10 8 (flsMod s),
    per off 0x200 8 32 fun c => mkReg [(32, tgetD x.chRate c 0), (8, tgetD x.chTgts c 0), (0, tgetD x.chState c 0)],
    per off 0x400 0x10 32 fun q => ownOnly (q == p) (tgetD x.prange q 0),
    per off 0x600 8 32 fun q => ownOnly (q == p) (tgetD x.err q 0)]

/-- HIF_FUNC (R391). -/
def hifFunc (s : State) (f : Nat) : W64 :=
  let x := s.fn f
  mkReg [(48, x.foDelay), (47, b2n x.roEn), (46, b2n x.active), (45, b2n x.owner), (44, f / 32), (32, f % 32), (24, x.part),
    (12, x.qbase), (0, x.qcount)]

/-- The HIF block (R391): a function's own registers. -/
def rdHif (s : State) (f off : Nat) : W64 :=
  let x := s.fn f
  let qs (base : Nat) (g : Nat → W64) : Option W64 := per off base 0x40 x.qcount g
  pick [
    one off 0 (mkReg [(32, 0x0200), (16, 0x1000), (0, 0x800)]), one off 8 (hifFunc s f),
    qs 0x1000 fun q => (s.q f q).cfg, qs 0x1008 fun q => (s.q f q).cqBase, qs 0x1010 fun q => (s.q f q).cqHeadp,
    qs 0x1018 fun q => (s.q f q).srBase,
    qs 0x1020 fun q => mkReg [(16, inflight s f q), (12, qState (s.q f q)), (0, (s.q f q).sqHead)],
    qs 0x1028 fun q => (s.q f q).err]

/-- The ADM block (R385, R389, R391). -/
def rdAdm (s : State) (p off : Nat) : W64 :=
  let own (base : Nat) (g : Adm → W64) : Option W64 := per off base 0x20 32 fun q => ownOnly (q == p) (g (s.adm q))
  pick [own 0 (·.pcfg), own 8 (·.bkt), own 0x10 fun a => BitVec.ofNat 64 (a.tokShown % 2 ^ 40), own 0x18 (·.reg)]

/-- The MBR block (R412). -/
def rdMbr (s : State) (off : Nat) : W64 :=
  let m := s.mbr
  let mgrs := mkReg ((m.mgrs.zipIdx.map fun (x : Nat × Nat) => (6 * x.2, x.1 % 64)) ++
    [(42, m.mgrs.length % 8), (58, min 0x3F m.leader)])
  let reb := match m.reb with
    | .idle => 0
    | .fetch => 1
    | .replay => 2
    | .host => 3
    | .done => 4
    | .refused => 5
  pick [
    one off 0 (mkReg [(32, 0x0200), (0, 7)]),
    one off 8 (mkReg [(32, m.gen), (8, if s.fab.node < 64 then s.fab.node else 0x3F), (0, mbrStateCode s)]),
    one off 0x10 (BitVec.ofNat 64 m.members), one off 0x18 (BitVec.ofNat 64 m.spares), one off 0x20 mgrs,
    one off 0x28 (mkReg [(32, m.job)]), one off 0x30 (BitVec.ofNat 64 m.jobCtl), one off 0x38 m.cfg, one off 0x40 m.expect,
    one off 0x48 (mkReg [(59, reb), (0, m.rebShard)]), one off 0x50 m.rebEpoch, one off 0x58 m.err,
    per off 0x100 8 64 fun v => mkReg [(0, tgetD m.hosts v 0xFF)], per off 0x300 8 64 fun n => mkReg [(0, tgetD m.weight n 1)]]

/-- 64-bit word `w` of a digest (R442): bytes 8w to 8w + 7. -/
def digWord (d : BitVec 512) (w : Nat) : W64 := BitVec.ofNat 64 (getLE (digestBytes d) (8 * w) 8)

/-- The SEC block (R442). -/
def rdSec (s : State) (off : Nat) : W64 :=
  let x := s.pkg.sec
  let stop := match x.stop with
    | .running => 0
    | .stopping => 1
    | .stopped => 2
  pick [
    one off 0 (mkReg [(32, 0x0200), (24, 4), (16, 2)]), one off 8 (secStat s), one off 0x10 (BitVec.ofNat 64 x.seq),
    per off 0x40 8 8 (digWord x.starterDig), per off 0x80 8 8 (digWord x.idDig), one off 0xC0 x.nonce,
    one off 0x100 x.mbxAddr, one off 0x108 x.mbxCtl, one off 0x110 (mkReg [(8, x.mbxResult), (0, x.mbxState)]),
    one off 0x118 (mkReg [(0, stop)])]

/-- The TIM block (R443). -/
def rdTim (s : State) (off : Nat) : W64 :=
  let x := s.pkg.tim
  let stat := mkReg [(32, wrapTo 32 x.perr), (8, x.ref), (4, x.cal), (3, b2n (x.slew != 0)), (0, x.src)]
  pick [
    one off 0 (BitVec.ofNat 64 s.now), one off 8 x.nextSec, one off 0x10 x.cfg, one off 0x18 (mkReg [(0, wrapTo 32 x.trim)]),
    one off 0x20 stat, one off 0x28 (BitVec.ofNat 64 x.ppsT), one off 0x30 (mkReg [(0, wrapTo 32 x.calOff)])]

/-- The PMC block (R453 to R456). -/
def rdPmc (s : State) (p off : Nat) : W64 :=
  let m := s.pmc
  let cl (c : Nat) (w : W64) : W64 := ownOnly (clRunsFor s c p) w
  let sel (cls : Bool) (w : W64) : W64 := setFld w 61 61 (b2n (selBad cls w))
  let dump (q : Nat) (g : Dump → W64) : W64 := ownOnly (q == p) (g (tgetD m.dumps q {}))
  let stat (d : Dump) : W64 := mkReg [(32, d.seq % 2 ^ 32), (0, b2n d.lost)]
  pick [
    one off 0 (mkReg [(32, 0x0200), (24, 8), (16, 4), (8, 0x20), (0, 0x30)]),
    per off 0x1000 0x10 2048 fun k =>
      if k % 16 < 8 then cl (k / 16) (sel true (tgetD m.csel (k / 16 * 8 + k % 16) selReset))
      else if k % 16 < 10 then cl (k / 16) (tgetD m.cfix (k / 16 * 4 + (k % 16 - 8) * 2) 0) else 0,
    per off 0x1008 0x10 2048 fun k =>
      if k % 16 < 8 then cl (k / 16) (tgetD m.cctr (k / 16 * 8 + k % 16) 0)
      else if k % 16 < 10 then cl (k / 16) (tgetD m.cfix (k / 16 * 4 + (k % 16 - 8) * 2 + 1) 0) else 0,
    per off 0x10000 0x10 2048 fun k => if k % 64 < 32 then ownOnly (k / 64 == p) (sel false (tgetD m.psel (k / 64 * 32 + k % 64) selReset)) else 0,
    per off 0x10008 0x10 2048 fun k => if k % 64 < 32 then ownOnly (k / 64 == p) (tgetD m.pctr (k / 64 * 32 + k % 64) 0) else 0,
    per off 0x20000 0x20 32 fun q => dump q (·.base), per off 0x20008 0x20 32 fun q => dump q (·.cfg),
    per off 0x20010 0x20 32 fun q => dump q stat]

/-- A sensor's register (R484). -/
def sensorReg (x : Sensor) : W64 := mkReg [(16, x.st), (0, wrapTo 16 x.temp)]

/-- The PWR block (R480 to R484). -/
def rdPwr (s : State) (off : Nat) : W64 :=
  let p := s.pkg.pwr
  let k := s.pkg.clk
  pick [
    one off 0 (mkReg [(32, 0x0200), (8, 0x1A), (0, 0x18)]), one off 8 (mkReg [(32, p.domEn), (0, p.domOn)]), one off 0x10 k.limit,
    one off 0x18 (mkReg [(24, k.tcause), (16, k.tmin), (8, k.tmax), (0, k.tcur)]),
    one off 0x20 (mkReg [(32, min 0xFFFF (sumOf p.avgs / 10)), (0, min 0xFFFF (p.avgs.headD 0))]),
    one off 0x28 (mkReg [(8, p.lastReset), (1, b2n p.avsErr), (0, b2n p.capFloor)]), one off 0x30 p.tcfg,
    per off 0x100 8 26 fun h => sensorReg (tgetD p.tsens h {}), per off 0x200 8 8 fun m => sensorReg (tgetD p.bsens m {})]

/-- A word of the error ring (R395, R396): a partition reads its own records, the owner every record. -/
def errRecWord (s : State) (p : Nat) (owner : Bool) (k : Nat) : W64 :=
  match tget? s.err.recs (k / 8) with
  | some r => ownOnly (owner || r.part == p) (BitVec.ofNat 64 (getLE r.bytes (8 * (k % 8)) 8))
  | none => 0

/-- ERR_SC (R411). -/
def errSc (s : State) : W64 :=
  let code (i : Nat) : Nat := match tgetD s.err.cores i .healthy with
    | .healthy => 0
    | .reset => 1
    | .selftest => 2
    | .failed => 3
  mkReg ([(32, s.err.term % 2 ^ 32), (8, s.err.primary)] ++ (List.range 3).map fun i => (2 * i, code i))

/-- The ERR block (R411). -/
def rdErr (s : State) (p off : Nat) (owner : Bool) : W64 :=
  let e := s.err
  let inj (v : Nat) : W64 :=
    let x := tgetD e.inj (v + 1) {}
    ownOnly owner (setFld x.reg 62 62 (b2n x.armed))
  let stk (n : Nat) : W64 :=
    let x := tgetD e.stk n {}
    mkReg [(32, x.frmRet % 65536), (16, x.hard % 65536), (0, x.soft % 65536)]
  pick [
    one off 0 (mkReg [(32, 0x0200), (16, 0x400), (8, 0x0E)]), one off 8 e.cfg, one off 0x10 (BitVec.ofNat 64 e.seq), one off 0x18 (errSc s),
    per off 0x40 8 8 stk, per off 0x110 0x10 14 inj,
    per off 0x400 8 32 fun q => ownOnly (q == p) (tgetD e.pstat q 0),
    per off 0x800 0x10 32 fun q => ownOnly (q == p) (tgetD e.noteBase q 0),
    per off 0x808 0x10 32 fun q => ownOnly (q == p) (tgetD e.noteCfg q 0),
    per off 0x10000 8 8192 (errRecWord s p owner)]

/-- The LEV block (R457). -/
def rdLev (s : State) (p off : Nat) : W64 :=
  let plan (i : Nat) (g : Plan → Nat) : W64 := match tget? s.work.plans i with
    | some x => ownOnly (x.part == p) (BitVec.ofNat 64 (g x))
    | none => 0
  pick [one off 0 (mkReg [(32, 0x0200), (0, 1)]), per off 0x100 0x10 256 fun i => plan i (·.seed),
    per off 0x108 0x10 256 fun i => plan i (·.shown)]

/-- Whether a function reaches a block (R369, R426, R487). -/
def reaches (s : State) (f blk : Nat) : Bool :=
  blk == 0 || (if s.pkg.sec.slot = 3 then f % 32 == 0 && blk == 0x0D else (s.fn f).bound)

/-- A register as a function reads it, whole (R485 to R487); `off` is its offset in its block. -/
def readReg (s : State) (f blk off : Nat) : W64 :=
  let x := s.fn f
  if !reaches s f blk then 0
  else match blk with
    | 0x00 => rdTop s x.part off x.bound
    | 0x01 => rdCls s x.part off
    | 0x02 => rdRgn s off
    | 0x03 => rdNbs s x.part off
    | 0x04 => rdTier s f x.part off
    | 0x05 => rdEpo s x.part off x.owner
    | 0x06 => rdKne s x.part off
    | 0x07 => rdFab s off
    | 0x08 => rdSwc s x.part off
    | 0x09 => rdFls s f x.part off
    | 0x0A => rdHif s f off
    | 0x0B => rdAdm s x.part off
    | 0x0C => rdMbr s off
    | 0x0D => rdSec s off
    | 0x0E => rdTim s off
    | 0x0F => rdPmc s x.part off
    | 0x10 => rdPwr s off
    | 0x11 => rdErr s x.part off x.owner
    | 0x12 => rdLev s x.part off
    | _ => 0

/-- An access is one that R7 takes: 8 bytes or 4, naturally aligned, inside the control space. -/
def barOk (addr size : Nat) : Bool := (size == 8 || size == 4) && addr % size == 0 && decide (addr < 2 ^ 24)

/-- What a read of the control space returns (R7): none for an Unsupported Request, else the register or the addressed half. -/
def readBar (s : State) (f addr size : Nat) : Option W64 :=
  if !barOk addr size then none
  else
    let w := readReg s f (addr / 0x80000) (addr % 0x80000 / 8 * 8)
    some (if size = 8 then w else if addr % 8 = 0 then mkReg [(0, fld w 31 0)] else mkReg [(0, fld w 63 32)])

end Sys2Proof.Machine
end

