-- ==== Sys2Proof/Machine/Time.lean ====
section
/-!
DEFINITION. The time counter, PPS and calibration (R435 to R438, R441, R443).
-/
namespace Sys2Proof.Machine

/-- TRIM is clamped to 200 ppm (R435). -/
def clampTrim (x : Int) : Int := max (-858993) (min 858993 x)

/-- x divided by a positive y, rounded to the nearest, ties to even. -/
def roundDiv (x : Int) (y : Nat) : Int :=
  let q := x / y
  let r := (x % y).toNat
  if 2 * r < y then q else if y < 2 * r then q + 1 else if q % 2 = 0 then q else q + 1

/-- TRIM after a correction e applied I ns after the one before it (R435). -/
def trimStep (trim e : Int) (i : Nat) : Int := if i = 0 then trim else clampTrim (trim + roundDiv (e * 2 ^ 32) (2 * i))

/-- An instant moved with the counter. -/
def shiftTime (t : Nat) (e : Int) : Nat := ((t : Int) + e).toNat

/-- Applies a correction (R435). The interval to the previous one runs between corrected instants, as the worked example of R437
has it. -/
def correct (s : State) (e : Int) : State :=
  let x := s.pkg.tim
  let here := shiftTime s.now e
  let keep := !flag x.cfg 0 || x.keepTrim || (match x.lastCorr with
    | none => true
    | some t => decide (10000000000 < here - t))
  let trim := if keep then x.trim else trimStep x.trim e (here - x.lastCorr.getD 0)
  let slewing := s.pkg.sec.startArmed && decide (e < 0)
  let y : TimSt := { x with
    trim := trim, lastCorr := some here, keepTrim := false, slew := if slewing then x.slew + 2 * e.natAbs else x.slew }
  { s with now := if slewing then s.now else here, pkg := { s.pkg with tim := y } }

/-- A signed value of a field of 32 bits, saturating. -/
def sat32 (e : Int) : Int := max (-2147483648) (min 2147483647 e)

/-- The target of an edge (R436). -/
def ppsTarget (x : TimSt) : Option Nat :=
  if flag x.nextSec 63 then some (fld x.nextSec 34 0 * 1000000000 + fld x.cfg 47 32) else x.target.map (· + 1000000000)

/-- The node is not a member, or it is the calibration reference (R436, R438). -/
def ownTime (s : State) : Bool := !(s.mbr.st == .member || s.mbr.st == .held) || calRef s == s.fab.node

/-- PPS_EDGE (R436, R437, R441). A node in reset timestamps nothing. -/
def execPpsEdge (s : State) : Res :=
  let x := s.pkg.tim
  let glitch := match x.lastEdge with
    | none => false
    | some t => decide (s.now < t + 900000000)
  if s.pkg.sec.phase = 0 then .next s
  else if glitch then .next (countNode s Ev.ppsGlitch)
  else
    let s0 := countNode s Ev.ppsEdge
    let y : TimSt := { x with ppsT := s.now, nextSec := setFld x.nextSec 63 63 0, resync := false }
    match ppsTarget x with
    | none =>
      .next { s0 with pkg.tim := { y with lastEdge := some s.now, expected := some (s.now + 1000000000) } }
    | some t =>
      let e : Int := (t : Int) - (s.now : Int)
      let free := x.target.isNone || x.resync
      let tooFar := decide (fld x.cfg 31 16 * 1000 < e.natAbs) && !free
      let apply := (ownTime s || free) && !tooFar
      let z : TimSt := { y with
        target := some t, perr := sat32 e, src := if ownTime s then 1 else if x.src = 2 then (if x.cal = 0 then 0 else 3) else x.src }
      let s1 := { s0 with pkg.tim := z }
      let s2 := if tooFar then countNode s1 Ev.ppsReject else if apply then correct s1 e else s1
      let at_ := if apply then shiftTime s.now e else s.now
      .next { s2 with pkg := { s2.pkg with tim := { s2.pkg.tim with
        lastEdge := some (min at_ s2.now), expected := some (at_ + 1000000000) } } }

/-- PPS_MISS (R437): 1,100 ms past the instant at which an edge was expected, the counter holds over. -/
def execPpsMiss (s : State) : Res :=
  let x := s.pkg.tim
  match x.expected with
  | none => .next s
  | some t =>
    if s.now < t + 1100000000 then .next s
    else
      .next (countNode { s with pkg := { s.pkg with tim := { x with
        src := 2, keepTrim := true, expected := some (t + 1000000000) } } } Ev.ppsMiss)

/-- A write of TIM_NEXT_SEC.SEC (R436, R443). -/
def nextSecWrite (s : State) (fn sec : Nat) : State :=
  if ownerFn s fn then { s with pkg.tim.nextSec := mkReg [(63, 1), (0, sec)] } else s

/-- TIM_NEXT_SEC_WRITE (R436, R443). -/
def execTimNextSecWrite (fn : Fin 64) (value : W64) (s : State) : Res := .next (nextSecWrite s fn.val (fld value 34 0))

/-- A write of TIM_CFG.RESYNC (R436, R443). -/
def resyncWrite (s : State) (fn : Nat) : State :=
  if ownerFn s fn then { s with pkg := { s.pkg with tim := { s.pkg.tim with resync := true, keepTrim := true } } } else s

/-- TIM_RESYNC (R436, R443). -/
def execTimResync (fn : Fin 64) (s : State) : Res := .next (resyncWrite s fn.val)

/-- CALIBRATION_TICK (R438): the offset to the reference, in 0.25 ns. The reference's own is 0, and it applies nothing. -/
def execCalibrationTick (offset : Int) (s0 : State) : Res :=
  let s := recal s0
  if !(s.mbr.st == .member || s.mbr.st == .held) then .next s
  else
    let ref := calRef s == s.fab.node
    let o := if ref then 0 else offset
    let x := s.pkg.tim
    let n := if o.natAbs ≤ 8 then x.streak + 1 else 0
    let y : TimSt := { x with
      calOff := o, streak := n, cal := if 3 ≤ n then 2 else x.cal, src := if ref then x.src else 3 }
    let s1 := { s with pkg.tim := y }
    .next (tryStartArm (if ref then s1 else countNode (correct s1 (roundDiv (-o) 4)) Ev.calUpdate))

/-- One nanosecond of the time clock (R435): what the counter gains, and the accumulator and slew after it. -/
def timeStep (x : TimSt) : Nat × TimSt :=
  let a := x.acc + x.trim
  let (n, a1) := if (2 ^ 32 : Int) ≤ a then (2, a - 2 ^ 32) else if a ≤ -(2 ^ 32 : Int) then (0, a + 2 ^ 32) else (1, a)
  if x.slew = 0 then (n, { x with acc := a1, half := false })
  else (if x.half then n else n - 1, { x with acc := a1, slew := x.slew - 1, half := !x.half })

end Sys2Proof.Machine
end

