-- ==== Sys2Proof/Machine/RegWrite.lean ====
section
/-!
DEFINITION. Writes of a function to its control space (R7, R8, R485 to R487). A write of 4 bytes reaches only its half: `m` is
the mask of the half or whole that the write reaches, `v` the value in its place. Fields that the Starter image alone sets
(RWL) and fields that show the node's state (RO) do not change.
-/
namespace Sys2Proof.Machine

/-- A register with its writable fields replaced in the part that a write reaches. -/
def rwMerge (old v m fields : W64) : W64 := (old &&& ~~~(fields &&& m)) ||| (v &&& fields &&& m)

/-- Whether a write reaches a bit, and writes 1 to it. -/
def wrote1 (v m : W64) (bit : Nat) : Bool := flag (v &&& m) bit

/-- Whether a write reaches a field in part or whole. -/
def touches (m : W64) (hi lo : Nat) : Bool := (m &&& maskOf hi lo) != 0

/-- The instance of a per-instance register that an offset names, if the writer may write it. -/
def instIf (off base stride n : Nat) (ok : Nat → Bool) : Option Nat := (inst off base stride n).filter ok

/-- Bits of a table's register cleared by writing 1 (W1C and RS, R8). -/
def clearTab (t : Tab W64) (k : Nat) (v m fields : W64) : Tab W64 := tmod t k 0 fun w => w1c w (v &&& m) fields

/-- The CLS block (R69 to R72): the partition whose role the cluster runs. -/
def wrCls (s : State) (p off : Nat) (v m : W64) : State :=
  let ok (c : Nat) : Bool := clRunsFor s c p
  let ovf : W64 := maskOf 48 48
  match instIf off 0x08 0x40 128 ok, instIf off 0x10 0x40 128 ok, instIf off 0x18 0x40 128 ok, instIf off 0x20 0x40 128 ok,
      instIf off 0x2000 0x10 8192 (fun k => ok (k / 64)), instIf off 0x2008 0x10 8192 (fun k => ok (k / 64)) with
  | some c, _, _, _, _, _ => s.setCl c { s.cl c with satCfg := rwMerge (s.cl c).satCfg v m (maskOf 40 0) }
  | _, some c, _, _, _, _ => s.setCl c { s.cl c with satEvt := w1c (s.cl c).satEvt (v &&& m) (maskOf 63 0) }
  | _, _, some c, _, _, _ => s.setCl c { s.cl c with nonfin := w1c (s.cl c).nonfin (v &&& m) ovf }
  | _, _, _, some c, _, _ => s.setCl c { s.cl c with accsat := w1c (s.cl c).accsat (v &&& m) ovf }
  | _, _, _, _, some k, _ => s.setCl (k / 64) { s.cl (k / 64) with satConv := clearTab (s.cl (k / 64)).satConv (k % 64) v m ovf }
  | _, _, _, _, _, some k => s.setCl (k / 64) { s.cl (k / 64) with satClip := clearTab (s.cl (k / 64)).satClip (k % 64) v m ovf }
  | _, _, _, _, _, _ => s

/-- The RGN block (R46, R47): the owner partition. -/
def wrRgn (s : State) (f off : Nat) (v m : W64) : State :=
  match inst off 0x08 0x100 8, inst off 0x10 0x100 8 with
  | some r, _ => if touches m 5 0 then writeFence s f r (fld v 4 0) (wrote1 v m 5) else s
  | _, some r =>
    let w := w1c (BitVec.ofNat 64 (tgetD s.work.fenceHist r 0)) (v &&& m) (maskOf 16 0)
    if ownerFn s f then { s with work.fenceHist := tput s.work.fenceHist r w.toNat } else s
  | _, _ => s

/-- The TIER block (R219, R224): each function its own TILE, and a partition its own errors. -/
def wrTier (s : State) (f p off : Nat) (v m : W64) : State :=
  if off = 0x10 then
    if touches m 56 32 then s.setFn f { s.fn f with hlook := fld v 56 32 } else s
  else if off = 0xC00 + 8 * p then { s with tier.err := clearTab s.tier.err p v m (maskOf 5 0) }
  else s

/-- The EPO block (R235, R253, R254). -/
def wrEpo (s : State) (f p off : Nat) (v m : W64) : State :=
  match inst off 0x208 0x10 32 with
  | some q => startCheckpoint s f q (rwMerge (BitVec.ofNat 64 (tgetD s.epo.ckpt q 0)) v m (maskOf 63 0)).toNat
  | none => if off = 0x600 + 8 * p then { s with epo.err := clearTab s.epo.err p v m (maskOf 5 0) } else s

/-- FAB_PORT_CTL (R310): the owner partition. -/
def wrFab (s : State) (f off : Nat) (v m : W64) : State :=
  match inst off 0x108 0x20 32 with
  | some t =>
    if !touches m 2 0 then s
    else
      let s1 := if flag v 0 == (s.port t).disable then s else portDisable s f t (flag v 0)
      if flag v 2 then portRetrain s1 f t else s1
  | none => s

/-- The FLS block (R363, R364, R366): DIE is the function's own; RETIRE and EVAC are the owner partition's. -/
def wrFls (s : State) (f p off : Nat) (v m : W64) : State :=
  if off = 0x30 then
    if touches m 42 32 then
      let s1 := s.setFn f { s.fn f with dieLook := fld v 41 32 }
      if flag v 42 then dieRetire s1 f else s1
    else s
  else if off = 0x600 + 8 * p then { s with flash.err := clearTab s.flash.err p v m (maskOf 3 0) }
  else
    match inst off 0x108 0x10 8 with
    | some k => if wrote1 v m 0 then moduleEvac s f k else s
    | none => s

/-- A queue's base registers (R391): written only while EN is 0. -/
def wrBase (s : State) (f q : Nat) (g : Queue → Queue) : State := if flag (s.q f q).cfg 0 then s else s.setQ f q (g (s.q f q))

/-- The HIF block (R370, R381, R391): the function's own registers. -/
def wrHif (s : State) (f off : Nat) (v m : W64) : State :=
  let n := (s.fn f).qcount
  let addr : W64 := maskOf 63 3
  if off = 8 then
    if touches m 63 47 then
      let s1 := s.setFn f { s.fn f with roEn := flag v 47 }
      if flag v 63 && !(s1.fn f).active then changePlaces s1 f else s1
    else s
  else match inst off 0x1000 0x40 n, inst off 0x1008 0x40 n, inst off 0x1010 0x40 n, inst off 0x1018 0x40 n,
      inst off 0x1028 0x40 n with
  | some q, _, _, _, _ => writeQcfg s f q (rwMerge (s.q f q).cfg v m (maskOf 63 0))
  | _, some q, _, _, _ => wrBase s f q fun x => { x with cqBase := rwMerge x.cqBase v m addr }
  | _, _, some q, _, _ => wrBase s f q fun x => { x with cqHeadp := rwMerge x.cqHeadp v m addr }
  | _, _, _, some q, _ => wrBase s f q fun x => { x with srBase := rwMerge x.srBase v m addr }
  | _, _, _, _, some q => s.setQ f q { s.q f q with err := w1c (s.q f q).err (v &&& m) (maskOf 4 0) }
  | _, _, _, _, _ => s

/-- The ADM block (R386, R389, R391): the owner partition, for any partition. -/
def wrAdm (s : State) (f off : Nat) (v m : W64) : State :=
  match inst off 0x08 0x20 32, inst off 0x18 0x20 32 with
  | some q, _ =>
    let w := rwMerge (s.adm q).bkt v m (maskOf 63 62 ||| maskOf 55 0)
    writeBkt s f q (fld w 63 62) (fld w 31 0) (fld w 55 32)
  | _, some q => if ownerFn s f then s.setAdm q { s.adm q with reg := rwMerge (s.adm q).reg v m (maskOf 47 0) } else s
  | _, _ => s

/-- MBR_REBUILD (R408, R412): SHARD, and a rebuild or a drop of its records. -/
def wrRebuild (s : State) (f : Nat) (v m : W64) : State :=
  let s1 := if touches m 5 0 then { s with mbr.rebShard := fld v 5 0 } else s
  if wrote1 v m 63 then rebuildGo s1 f s1.mbr.rebShard
  else if wrote1 v m 62 then rebuildDiscard s1 f s1.mbr.rebShard
  else s1

/-- The MBR block (R406, R408, R412): the owner partition. -/
def wrMbr (s : State) (f off : Nat) (v m : W64) : State :=
  if !ownerFn s f then s
  else if off = 0x30 then writeJobCtl s f (rwMerge (BitVec.ofNat 64 s.mbr.jobCtl) v m (maskOf 63 0)).toNat
  else if off = 0x48 then wrRebuild s f v m
  else if off = 0x50 then { s with mbr.rebEpoch := rwMerge s.mbr.rebEpoch v m (maskOf 63 0) }
  else if off = 0x58 then { s with mbr.err := w1c s.mbr.err (v &&& m) (maskOf 3 0) }
  else s

/-- The SEC block (R427, R440, R442). A write of GO is the mailbox operation's own command, which carries the data that the
node reads; here it leaves OP and LEN. -/
def wrSec (s : State) (fn : Fin 64) (off : Nat) (v m : W64) : State :=
  let x := s.pkg.sec
  if !mayMbx s (some fn) then s
  else if off = 0x100 then { s with pkg.sec.mbxAddr := rwMerge x.mbxAddr v m (maskOf 63 6) }
  else if off = 0x108 then { s with pkg.sec.mbxCtl := rwMerge x.mbxCtl v m (maskOf 55 48 ||| maskOf 22 0) }
  else if off = 0x118 && wrote1 v m 63 then (if running s then settleStop (beginStop s) else s)
  else s

/-- The TIM block (R435, R436, R443): the owner partition. -/
def wrTim (s : State) (f off : Nat) (v m : W64) : State :=
  let x := s.pkg.tim
  if !ownerFn s f then s
  else if off = 0x08 then nextSecWrite s f (fld (rwMerge x.nextSec v m (maskOf 34 0)) 34 0)
  else if off = 0x10 then
    let s1 := { s with pkg.tim.cfg := rwMerge x.cfg v m (maskOf 0 0) }
    if wrote1 v m 1 then resyncWrite s1 f else s1
  else if off = 0x18 then (if touches m 31 0 then { s with pkg.tim.trim := clampTrim (sext 32 (fld v 31 0)) } else s)
  else s

/-- PMC_DUMP_CFG (R456): LOG and PERIOD change only while EN is 0; setting EN starts the numbering anew. -/
def wrDumpCfg (d : Dump) (v m : W64) : Dump :=
  let free := maskOf 31 20 ||| maskOf 1 0
  let all := free ||| maskOf 63 48 ||| maskOf 43 40
  let w := rwMerge d.cfg v m (if flag d.cfg 0 then free else all)
  if flag w 0 && !flag d.cfg 0 then { d with cfg := w, n := 0, lastT := none } else { d with cfg := w }

/-- A counter after a write (R444, R455): COUNT takes the value, OVF is cleared by writing 1. -/
def wrCtr (old v m : W64) : W64 := w1c (rwMerge old v m (maskOf 47 0)) (v &&& m) (maskOf 48 48)

/-- Fields of a selection that are written (R455). -/
def selMask : W64 := maskOf 63 62 ||| maskOf 55 48 ||| maskOf 15 0

/-- A cluster's selection, counter or fixed counter (R448, R453, R455). -/
def wrCtrCls (s : State) (k : Nat) (hi : Bool) (v m : W64) : State :=
  let c := k / 16
  let j := k % 16
  let x := s.pmc
  let fix := c * 4 + (j - 8) * 2 + b2n hi
  if j < 8 then
    if hi then { s with pmc.cctr := tmod x.cctr (c * 8 + j) 0 fun w => wrCtr w v m }
    else { s with pmc.csel := tmod x.csel (c * 8 + j) selReset fun w => rwMerge w v m selMask }
  else if j < 10 then { s with pmc.cfix := tmod x.cfix fix 0 fun w => wrCtr w v m }
  else s

/-- The PMC block (R453 to R456): the partition itself. -/
def wrPmc (s : State) (p off : Nat) (v m : W64) : State :=
  let ok (k : Nat) : Bool := clRunsFor s (k / 16) p
  let mine (k : Nat) : Bool := k / 64 == p && decide (k % 64 < 32)
  let key (k : Nat) : Nat := k / 64 * 32 + k % 64
  let x := s.pmc
  match instIf off 0x1000 0x10 2048 ok, instIf off 0x1008 0x10 2048 ok, instIf off 0x10000 0x10 2048 mine,
      instIf off 0x10008 0x10 2048 mine with
  | some k, _, _, _ => wrCtrCls s k false v m
  | _, some k, _, _ => wrCtrCls s k true v m
  | _, _, some k, _ => { s with pmc.psel := tmod x.psel (key k) selReset fun w => rwMerge w v m selMask }
  | _, _, _, some k => { s with pmc.pctr := tmod x.pctr (key k) 0 fun w => wrCtr w v m }
  | _, _, _, _ =>
    if off = 0x20000 + 0x20 * p then
      { s with pmc.dumps := tmod x.dumps p {} fun d =>
          if flag d.cfg 0 then d else { d with base := rwMerge d.base v m (maskOf 63 15) } }
    else if off = 0x20008 + 0x20 * p then { s with pmc.dumps := tmod x.dumps p {} fun d => wrDumpCfg d v m }
    else if off = 0x20010 + 0x20 * p && wrote1 v m 0 then
      { s with pmc.dumps := tmod x.dumps p {} fun d => { d with lost := false } }
    else s

/-- PWR_LIMIT after a write (R481): LIMIT is clamped to 400–1,100. -/
def wrLimit (old v m : W64) : W64 :=
  let w := rwMerge old v m (maskOf 31 0)
  setFld w 15 0 (max 400 (min 1100 (fld w 15 0)))

/-- PWR_TCLK (R473, R481): MIN above MAX, or a value outside 16–42, has no effect. The clock never leaves the two: it falls to
MAX even while a regulator does not answer, a raise above MAX is dropped, and the clock is not raised to MIN while a sensor is
in warning (R475). -/
def wrTclk (s : State) (v m : W64) : State :=
  let k := s.pkg.clk
  let w := rwMerge (mkReg [(16, k.tmin), (8, k.tmax)]) v m (maskOf 23 8)
  let lo := fld w 23 16
  let hi := fld w 15 8
  if !touches m 23 8 || hi < lo || lo < 16 || 42 < hi then s
  else
    let down := decide (hi < k.tcur)
    let s1 : State := { s with pkg.clk := { k with
      tmin := lo, tmax := hi, tcur := min k.tcur hi, tcause := if down then 3 else k.tcause
      vddcd := if down && s.pkg.pwr.avsDead.isEmpty then voltFor hi else k.vddcd
      raise := if down then none else k.raise.filter fun r => decide (r.1 ≤ hi) } }
    if k.tcur < lo && !warning s then setClock s1 lo 3 else s1

/-- The PWR block (R480 to R482): the owner partition. -/
def wrPwr (s : State) (f off : Nat) (v m : W64) : State :=
  let p := s.pkg.pwr
  if !ownerFn s f then s
  else if off = 0x10 then { s with pkg.clk.limit := wrLimit s.pkg.clk.limit v m }
  else if off = 0x18 then wrTclk s v m
  else if off = 0x28 then
    { s with pkg := { s.pkg with pwr := { p with avsErr := p.avsErr && !wrote1 v m 1, capFloor := p.capFloor && !wrote1 v m 0 } } }
  else s

/-- ERR_INJ of a detector (R394, R411): MODE, UE and TARGET as written; with GO they are applied. -/
def wrInj (s : State) (f det : Nat) (v m : W64) : State :=
  let x := tgetD s.err.inj det {}
  let w := rwMerge x.reg v m (maskOf 61 59 ||| maskOf 47 0)
  if wrote1 v m 63 then armInj s f det (fld w 61 60) w (flag w 59)
  else { s with err.inj := tput s.err.inj det { x with reg := w } }

/-- The ERR block (R396, R411). -/
def wrErr (s : State) (f p off : Nat) (v m : W64) : State :=
  let e := s.err
  match inst off 0x110 0x10 14 with
  | some d => if ownerFn s f then wrInj s f (d + 1) v m else s
  | none =>
    if off = 0x400 + 8 * p then { s with err.pstat := clearTab e.pstat p v m (maskOf 1 0) }
    else if off = 0x800 + 0x10 * p then { s with err.noteBase := tmod e.noteBase p 0 fun w => rwMerge w v m (maskOf 63 12) }
    else if off = 0x808 + 0x10 * p then
      let old := tgetD e.noteCfg p 0
      let w := rwMerge old v m (maskOf 31 16 ||| maskOf 0 0)
      let next := if flag w 0 && !flag old 0 then terase e.noteNext p else e.noteNext
      { s with err := { e with noteCfg := tput e.noteCfg p w, noteNext := next } }
    else s

/-- A write to a register of a block that the function reaches (R485 to R487). -/
def writeReg (s : State) (fn : Fin 64) (blk off : Nat) (v m : W64) : State :=
  let f := fn.val
  let p := (s.fn f).part
  if !reaches s f blk then s
  else match blk with
    | 0x01 => wrCls s p off v m
    | 0x02 => wrRgn s f off v m
    | 0x03 => if off = 0x600 + 8 * p then { s with work.nbsErr := clearTab s.work.nbsErr p v m (maskOf 4 0) } else s
    | 0x04 => wrTier s f p off v m
    | 0x05 => wrEpo s f p off v m
    | 0x06 => if off = 0x400 + 8 * p then { s with work.kneErr := clearTab s.work.kneErr p v m (maskOf 3 0) } else s
    | 0x07 => wrFab s f off v m
    | 0x08 => if off = 0x800 + 8 * p then { s with fab.swcErr := clearTab s.fab.swcErr p v m (maskOf 4 0) } else s
    | 0x09 => wrFls s f p off v m
    | 0x0A => wrHif s f off v m
    | 0x0B => wrAdm s f off v m
    | 0x0C => wrMbr s f off v m
    | 0x0D => wrSec s fn off v m
    | 0x0E => wrTim s f off v m
    | 0x0F => wrPmc s p off v m
    | 0x10 => wrPwr s f off v m
    | 0x11 => wrErr s f p off v m
    | _ => s

/-- REGISTER_WRITE (R7, R8, R485 to R487): an access of another size or alignment is an Unsupported Request without effect. -/
def execRegisterWrite (fn : Fin 64) (addr : Nat) (size : Nat) (value : W64) (s : State) : Res :=
  if !barOk addr size then .next s
  else
    let high := size == 4 && addr % 8 == 4
    let m : W64 := if size = 8 then maskOf 63 0 else if high then maskOf 63 32 else maskOf 31 0
    let v : W64 := if high then value <<< 32 else value
    .next (writeReg s fn (addr / 0x80000) (addr % 0x80000 / 8 * 8) v m)

end Sys2Proof.Machine
end

