-- ==== Sys2Proof/Machine/Dispatch.lean ====
section
/-!
DEFINITION. Which meaning each command has: one arm per constructor, each one call.
-/
namespace Sys2Proof.Machine

/-- The effect of a command on everything but the queue. -/
def exec (i : Instr) (s : State) : Host.Outcome State Fault Refusal :=
  match i with
  | .windowWrite fn off data => Sys2Proof.Machine.execWindowWrite fn off data s
  | .winPartial fn q => Sys2Proof.Machine.execWinPartial fn q s
  | .admissionDecision => Sys2Proof.Machine.execAdmissionDecision s
  | .headDeadlineExpire fn q => Sys2Proof.Machine.execHeadDeadlineExpire fn q s
  | .tokenRefill => Sys2Proof.Machine.execTokenRefill s
  | .admBktNext fn part rate burst => Sys2Proof.Machine.execAdmBktNext fn part rate burst s
  | .admBktFull fn part rate burst => Sys2Proof.Machine.execAdmBktFull fn part rate burst s
  | .admBktEmpty fn part rate burst => Sys2Proof.Machine.execAdmBktEmpty fn part rate burst s
  | .nop cid => Sys2Proof.Machine.execNop cid s
  | .planLoad cid data others => Sys2Proof.Machine.execPlanLoad cid data others s
  | .planSignatureVerified slot => Sys2Proof.Machine.execPlanSignatureVerified slot s
  | .roleLoadDone slot => Sys2Proof.Machine.execRoleLoadDone slot s
  | .planUnload cid => Sys2Proof.Machine.execPlanUnload cid s
  | .planRelease slot => Sys2Proof.Machine.execPlanRelease slot s
  | .invoke cid => Sys2Proof.Machine.execInvoke cid s
  | .indexOpen cid => Sys2Proof.Machine.execIndexOpen cid s
  | .indexClose cid => Sys2Proof.Machine.execIndexClose cid s
  | .tableOpen cid => Sys2Proof.Machine.execTableOpen cid s
  | .tableClose cid => Sys2Proof.Machine.execTableClose cid s
  | .query cid => Sys2Proof.Machine.execQuery cid s
  | .queryVectorArrive qid data => Sys2Proof.Machine.execQueryVectorArrive qid data s
  | .queryHoldRelease qid => Sys2Proof.Machine.execQueryHoldRelease qid s
  | .queryHoldTimeout qid => Sys2Proof.Machine.execQueryHoldTimeout qid s
  | .contextFree ctx => Sys2Proof.Machine.execContextFree ctx s
  | .insert cid => Sys2Proof.Machine.execInsert cid s
  | .delete cid => Sys2Proof.Machine.execDelete cid s
  | .upsert cid => Sys2Proof.Machine.execUpsert cid s
  | .updateVectorArrive uid vec meta_ => Sys2Proof.Machine.execUpdateVectorArrive uid vec meta_ s
  | .flashRead cid => Sys2Proof.Machine.execFlashRead cid s
  | .flashWrite cid data => Sys2Proof.Machine.execFlashWrite cid data s
  | .flashDiscard cid => Sys2Proof.Machine.execFlashDiscard cid s
  | .tierRead cid => Sys2Proof.Machine.execTierRead cid s
  | .tierWrite cid data => Sys2Proof.Machine.execTierWrite cid data s
  | .roleSet cid => Sys2Proof.Machine.execRoleSet cid s
  | .cqHeadpPoll fn q word => Sys2Proof.Machine.execCqHeadpPoll fn q word s
  | .imodTimerExpire fn q => Sys2Proof.Machine.execImodTimerExpire fn q s
  | .queueEnable fn q value => Sys2Proof.Machine.execQueueEnable fn q value s
  | .queueDisable fn q value => Sys2Proof.Machine.execQueueDisable fn q value s
  | .sampleLatch => Sys2Proof.Machine.execSampleLatch s
  | .takeover fn => Sys2Proof.Machine.execTakeover fn s
  | .failoverTimerExpire part => Sys2Proof.Machine.execFailoverTimerExpire part s
  | .flr fn => Sys2Proof.Machine.execFlr fn s
  | .busMasterClear fn => Sys2Proof.Machine.execBusMasterClear fn s
  | .regWindowTick => Sys2Proof.Machine.execRegWindowTick s
  | .tmma c => Sys2Proof.Machine.execTmma c s
  | .tdist c => Sys2Proof.Machine.execTdist c s
  | .tzero c => Sys2Proof.Machine.execTzero c s
  | .vload c => Sys2Proof.Machine.execVload c s
  | .vstore c => Sys2Proof.Machine.execVstore c s
  | .vproof c => Sys2Proof.Machine.execVproof c s
  | .vconv c => Sys2Proof.Machine.execVconv c s
  | .vpconv c => Sys2Proof.Machine.execVpconv c s
  | .vrescale c => Sys2Proof.Machine.execVrescale c s
  | .vew c => Sys2Proof.Machine.execVew c s
  | .vred c => Sys2Proof.Machine.execVred c s
  | .vargmax c => Sys2Proof.Machine.execVargmax c s
  | .vdist c => Sys2Proof.Machine.execVdist c s
  | .vfilt c => Sys2Proof.Machine.execVfilt c s
  | .vpool c => Sys2Proof.Machine.execVpool c s
  | .vopt c => Sys2Proof.Machine.execVopt c s
  | .vatom c => Sys2Proof.Machine.execVatom c s
  | .vcoalAccumulate c => Sys2Proof.Machine.execVcoalAccumulate c s
  | .vcoalFlush c => Sys2Proof.Machine.execVcoalFlush c s
  | .vcoalCollect c => Sys2Proof.Machine.execVcoalCollect c s
  | .coalPartialArrive c j => Sys2Proof.Machine.execCoalPartialArrive c j s
  | .vxchg c => Sys2Proof.Machine.execVxchg c s
  | .vstream c => Sys2Proof.Machine.execVstream c s
  | .modelLayerArrive m => Sys2Proof.Machine.execModelLayerArrive m s
  | .modelSlotFree m => Sys2Proof.Machine.execModelSlotFree m s
  | .vinval c => Sys2Proof.Machine.execVinval c s
  | .vstflag c => Sys2Proof.Machine.execVstflag c s
  | .wseed c => Sys2Proof.Machine.execWseed c s
  | .wwalk c => Sys2Proof.Machine.execWwalk c s
  | .recordArrive c ctx slot => Sys2Proof.Machine.execRecordArrive c ctx slot s
  | .prefetchArrive c ctx slot => Sys2Proof.Machine.execPrefetchArrive c ctx slot s
  | .walkEndExpire c ctx => Sys2Proof.Machine.execWalkEndExpire c ctx s
  | .rerankVectorArrive c ctx slot => Sys2Proof.Machine.execRerankVectorArrive c ctx slot s
  | .rerankDeadlineExpire c ctx => Sys2Proof.Machine.execRerankDeadlineExpire c ctx s
  | .wpref c => Sys2Proof.Machine.execWpref c s
  | .wcopya c => Sys2Proof.Machine.execWcopya c s
  | .copyComplete c j => Sys2Proof.Machine.execCopyComplete c j s
  | .wwaita c => Sys2Proof.Machine.execWwaita c s
  | .winsert c => Sys2Proof.Machine.execWinsert c s
  | .wdelete c => Sys2Proof.Machine.execWdelete c s
  | .wrepair c => Sys2Proof.Machine.execWrepair c s
  | .wnb c => Sys2Proof.Machine.execWnb c s
  | .nbOpStart st j => Sys2Proof.Machine.execNbOpStart st j s
  | .nbOpEnd st j => Sys2Proof.Machine.execNbOpEnd st j s
  | .nbShareWindow st => Sys2Proof.Machine.execNbShareWindow st s
  | .shist c => Sys2Proof.Machine.execShist c s
  | .sbucket c => Sys2Proof.Machine.execSbucket c s
  | .scrumb c => Sys2Proof.Machine.execScrumb c s
  | .smerge c => Sys2Proof.Machine.execSmerge c s
  | .kneaderFree k => Sys2Proof.Machine.execKneaderFree k s
  | .kneaderMergeDone k => Sys2Proof.Machine.execKneaderMergeDone k s
  | .semit c => Sys2Proof.Machine.execSemit c s
  | .ctrlNop c u => Sys2Proof.Machine.execCtrlNop c u s
  | .jmp c u => Sys2Proof.Machine.execJmp c u s
  | .loop c u => Sys2Proof.Machine.execLoop c u s
  | .fencem c u => Sys2Proof.Machine.execFencem c u s
  | .cbar c u => Sys2Proof.Machine.execCbar c u s
  | .cbarRelease slot role b => Sys2Proof.Machine.execCbarRelease slot role b s
  | .twait c u => Sys2Proof.Machine.execTwait c u s
  | .twaitExpire c u => Sys2Proof.Machine.execTwaitExpire c u s
  | .next c u => Sys2Proof.Machine.execNext c u s
  | .invocationArrive slot role => Sys2Proof.Machine.execInvocationArrive slot role s
  | .halt c u => Sys2Proof.Machine.execHalt c u s
  | .startAtBarrierRelease inv armed => Sys2Proof.Machine.execStartAtBarrierRelease inv armed s
  | .startGraceExpire inv => Sys2Proof.Machine.execStartGraceExpire inv s
  | .unitFault c u cause => Sys2Proof.Machine.execUnitFault c u cause s
  | .unitWatchdogExpire c u => Sys2Proof.Machine.execUnitWatchdogExpire c u s
  | .rgnFenceGo fn region phys => Sys2Proof.Machine.execRgnFenceGo fn region phys s
  | .clearingDone c => Sys2Proof.Machine.execClearingDone c s
  | .spareLoadDone c ok => Sys2Proof.Machine.execSpareLoadDone c ok s
  | .hotWindowTick r => Sys2Proof.Machine.execHotWindowTick r s
  | .ageTick => Sys2Proof.Machine.execAgeTick s
  | .moveStart tile => Sys2Proof.Machine.execMoveStart tile s
  | .freeze ref => Sys2Proof.Machine.execFreeze ref s
  | .copy ref what => Sys2Proof.Machine.execCopy ref what s
  | .drained ref => Sys2Proof.Machine.execDrained ref s
  | .stubExpire j => Sys2Proof.Machine.execStubExpire j s
  | .fillArrive r line => Sys2Proof.Machine.execFillArrive r line s
  | .epochBoundary => Sys2Proof.Machine.execEpochBoundary s
  | .closeDrainDone => Sys2Proof.Machine.execCloseDrainDone s
  | .arm src b t gen => Sys2Proof.Machine.execArm src b t gen s
  | .barrierRelease b => Sys2Proof.Machine.execBarrierRelease b s
  | .publishDone => Sys2Proof.Machine.execPublishDone s
  | .invalDone => Sys2Proof.Machine.execInvalDone s
  | .log src gen part rec => Sys2Proof.Machine.execLog src gen part rec s
  | .logAck src gen seq handle => Sys2Proof.Machine.execLogAck src gen seq handle s
  | .logTmoExpire seq => Sys2Proof.Machine.execLogTmoExpire seq s
  | .logVoid src gen origin seq => Sys2Proof.Machine.execLogVoid src gen origin seq s
  | .logVoidAck src gen seq => Sys2Proof.Machine.execLogVoidAck src gen seq s
  | .logFlashWrite seq => Sys2Proof.Machine.execLogFlashWrite seq s
  | .checkpoint fn part epoch => Sys2Proof.Machine.execCheckpoint fn part epoch s
  | .checkpointDone part => Sys2Proof.Machine.execCheckpointDone part s
  | .linkFrame port frame => Sys2Proof.Machine.execLinkFrame port frame s
  | .lossOfSignal port lane => Sys2Proof.Machine.execLossOfSignal port lane s
  | .portTrained port lanes => Sys2Proof.Machine.execPortTrained port lanes s
  | .ident port msg => Sys2Proof.Machine.execIdent port msg s
  | .trainRetry port => Sys2Proof.Machine.execTrainRetry port s
  | .portDisable fn port v => Sys2Proof.Machine.execPortDisable fn port v s
  | .portRetrain fn port => Sys2Proof.Machine.execPortRetrain fn port s
  | .lstate src bits => Sys2Proof.Machine.execLstate src bits s
  | .lstateTimer => Sys2Proof.Machine.execLstateTimer s
  | .load port p => Sys2Proof.Machine.execLoad port p s
  | .store port p => Sys2Proof.Machine.execStore port p s
  | .atomic port p => Sys2Proof.Machine.execAtomic port p s
  | .inval port p => Sys2Proof.Machine.execInval port p s
  | .put port p => Sys2Proof.Machine.execPut port p s
  | .get port p => Sys2Proof.Machine.execGet port p s
  | .loadRsp port p => Sys2Proof.Machine.execLoadRsp port p s
  | .storeAck port p => Sys2Proof.Machine.execStoreAck port p s
  | .atomicRsp port p => Sys2Proof.Machine.execAtomicRsp port p s
  | .invalAck port p => Sys2Proof.Machine.execInvalAck port p s
  | .putAck port p => Sys2Proof.Machine.execPutAck port p s
  | .getRsp port p => Sys2Proof.Machine.execGetRsp port p s
  | .qfwd port p epoch stamp step_ => Sys2Proof.Machine.execQfwd port p epoch stamp step_ s
  | .plist port p => Sys2Proof.Machine.execPlist port p s
  | .coll port p => Sys2Proof.Machine.execColl port p s
  | .reject port p answer => Sys2Proof.Machine.execReject port p answer s
  | .burstHoldExpire src bseq => Sys2Proof.Machine.execBurstHoldExpire src bseq s
  | .genHoldExpire j => Sys2Proof.Machine.execGenHoldExpire j s
  | .msgTmoExpire tag => Sys2Proof.Machine.execMsgTmoExpire tag s
  | .invalTmoExpire tag => Sys2Proof.Machine.execInvalTmoExpire tag s
  | .joinWindowExpire port j => Sys2Proof.Machine.execJoinWindowExpire port j s
  | .collectiveCloseExpire key => Sys2Proof.Machine.execCollectiveCloseExpire key s
  | .hello pos msg => Sys2Proof.Machine.execHello pos msg s
  | .helloTimer => Sys2Proof.Machine.execHelloTimer s
  | .heartbeat pos t => Sys2Proof.Machine.execHeartbeat pos t s
  | .heartbeatTimer => Sys2Proof.Machine.execHeartbeatTimer s
  | .hbAck pos gen t => Sys2Proof.Machine.execHbAck pos gen t s
  | .leaseLapse => Sys2Proof.Machine.execLeaseLapse s
  | .expelTimer pos => Sys2Proof.Machine.execExpelTimer pos s
  | .electionTimeout => Sys2Proof.Machine.execElectionTimeout s
  | .voteReq pos term => Sys2Proof.Machine.execVoteReq pos term s
  | .vote pos term gen job => Sys2Proof.Machine.execVote pos term gen job s
  | .append pos term map_ => Sys2Proof.Machine.execAppend pos term map_ s
  | .appendAck pos term gen => Sys2Proof.Machine.execAppendAck pos term gen s
  | .commit pos map_ => Sys2Proof.Machine.execCommit pos map_ s
  | .report pos msg => Sys2Proof.Machine.execReport pos msg s
  | .weights pos mult => Sys2Proof.Machine.execWeights pos mult s
  | .formationTimeout => Sys2Proof.Machine.execFormationTimeout s
  | .mbrJobCtlWrite fn epoch => Sys2Proof.Machine.execMbrJobCtlWrite fn epoch s
  | .rebuildGo fn shard => Sys2Proof.Machine.execRebuildGo fn shard s
  | .rebuildDiscard fn shard => Sys2Proof.Machine.execRebuildDiscard fn shard s
  | .rebuildRecordsArrive lists => Sys2Proof.Machine.execRebuildRecordsArrive lists s
  | .errInjOnce fn det target ue => Sys2Proof.Machine.execErrInjOnce fn det target ue s
  | .errInjSticky fn det target ue => Sys2Proof.Machine.execErrInjSticky fn det target ue s
  | .errInjNextStart fn det target ue => Sys2Proof.Machine.execErrInjNextStart fn det target ue s
  | .errInjCancel fn det => Sys2Proof.Machine.execErrInjCancel fn det s
  | .scWatchdogExpire core => Sys2Proof.Machine.execScWatchdogExpire core s
  | .noCoreHealthyExpire => Sys2Proof.Machine.execNoCoreHealthyExpire s
  | .rowRepairDone st row ok => Sys2Proof.Machine.execRowRepairDone st row ok s
  | .dieOpDone die => Sys2Proof.Machine.execDieOpDone die s
  | .codewordReadDone die decoded crcOk => Sys2Proof.Machine.execCodewordReadDone die decoded crcOk s
  | .flashDeadlineExpire die j => Sys2Proof.Machine.execFlashDeadlineExpire die j s
  | .programDone die ok => Sys2Proof.Machine.execProgramDone die ok s
  | .eraseDone die ok => Sys2Proof.Machine.execEraseDone die ok s
  | .readyTimeout die => Sys2Proof.Machine.execReadyTimeout die s
  | .writeBufferExpire unit => Sys2Proof.Machine.execWriteBufferExpire unit s
  | .mapCkptTimer => Sys2Proof.Machine.execMapCkptTimer s
  | .zqCalibration => Sys2Proof.Machine.execZqCalibration s
  | .patrolRead die => Sys2Proof.Machine.execPatrolRead die s
  | .moduleInsert m => Sys2Proof.Machine.execModuleInsert m s
  | .moduleDebounceExpire m => Sys2Proof.Machine.execModuleDebounceExpire m s
  | .modulePowerWaitExpire m id => Sys2Proof.Machine.execModulePowerWaitExpire m id s
  | .moduleRemove m => Sys2Proof.Machine.execModuleRemove m s
  | .moduleEvac fn m => Sys2Proof.Machine.execModuleEvac fn m s
  | .dieRetire fn => Sys2Proof.Machine.execDieRetire fn s
  | .pgAonRise => Sys2Proof.Machine.execPgAonRise s
  | .pgAonFall => Sys2Proof.Machine.execPgAonFall s
  | .pgMainFall => Sys2Proof.Machine.execPgMainFall s
  | .pgMainRise => Sys2Proof.Machine.execPgMainRise s
  | .wrstAssert => Sys2Proof.Machine.execWrstAssert s
  | .wrstRelease => Sys2Proof.Machine.execWrstRelease s
  | .perst port => Sys2Proof.Machine.execPerst port s
  | .undervoltage => Sys2Proof.Machine.execUndervoltage s
  | .coreClockLoss => Sys2Proof.Machine.execCoreClockLoss s
  | .fabricClockLoss die => Sys2Proof.Machine.execFabricClockLoss die s
  | .pcieLinkDown port => Sys2Proof.Machine.execPcieLinkDown port s
  | .d2dLinkFail => Sys2Proof.Machine.execD2dLinkFail s
  | .startSequence io => Sys2Proof.Machine.execStartSequence io s
  | .calibrationTick offset => Sys2Proof.Machine.execCalibrationTick offset s
  | .ppsEdge => Sys2Proof.Machine.execPpsEdge s
  | .ppsMiss => Sys2Proof.Machine.execPpsMiss s
  | .timNextSecWrite fn value => Sys2Proof.Machine.execTimNextSecWrite fn value s
  | .timResync fn => Sys2Proof.Machine.execTimResync fn s
  | .writeStarter via data => Sys2Proof.Machine.execWriteStarter via data s
  | .unlock via data => Sys2Proof.Machine.execUnlock via data s
  | .enroll via => Sys2Proof.Machine.execEnroll via s
  | .orderlyStop via => Sys2Proof.Machine.execOrderlyStop via s
  | .spdmGetVersion path req => Sys2Proof.Machine.execSpdmGetVersion path req s
  | .spdmGetCapabilities path req => Sys2Proof.Machine.execSpdmGetCapabilities path req s
  | .spdmNegotiateAlgorithms path req => Sys2Proof.Machine.execSpdmNegotiateAlgorithms path req s
  | .spdmGetDigests path req => Sys2Proof.Machine.execSpdmGetDigests path req s
  | .spdmGetCertificate path req => Sys2Proof.Machine.execSpdmGetCertificate path req s
  | .spdmChallenge path req => Sys2Proof.Machine.execSpdmChallenge path req s
  | .spdmGetMeasurements path req => Sys2Proof.Machine.execSpdmGetMeasurements path req s
  | .spdmKeyExchange path req => Sys2Proof.Machine.execSpdmKeyExchange path req s
  | .spdmFinish path req => Sys2Proof.Machine.execSpdmFinish path req s
  | .spdmKeyUpdate path req => Sys2Proof.Machine.execSpdmKeyUpdate path req s
  | .spdmHeartbeat path req => Sys2Proof.Machine.execSpdmHeartbeat path req s
  | .spdmEndSession path req => Sys2Proof.Machine.execSpdmEndSession path req s
  | .powerWindowTick avg => Sys2Proof.Machine.execPowerWindowTick avg s
  | .avsTelemetry reg answered volts amps => Sys2Proof.Machine.execAvsTelemetry reg answered volts amps s
  | .avsVoltageReached => Sys2Proof.Machine.execAvsVoltageReached s
  | .thermalSample temps => Sys2Proof.Machine.execThermalSample temps s
  | .thermalStep => Sys2Proof.Machine.execThermalStep s
  | .dumpLatch part => Sys2Proof.Machine.execDumpLatch part s
  | .registerWrite fn addr size value => Sys2Proof.Machine.execRegisterWrite fn addr size value s
  | .stateMachineParity block => Sys2Proof.Machine.execStateMachineParity block s
  | .serviceCoreSelftestDone core ok => Sys2Proof.Machine.execServiceCoreSelftestDone core ok s
  | .pcieLinkUp port => Sys2Proof.Machine.execPcieLinkUp port s
  | .perstRelease port => Sys2Proof.Machine.execPerstRelease port s
  | .coreClockReturn => Sys2Proof.Machine.execCoreClockReturn s
  | .routeNak p via => Sys2Proof.Machine.execRouteNak p via s
  | .busMasterSet fn => Sys2Proof.Machine.execBusMasterSet fn s
  | .ideKm path req => Sys2Proof.Machine.execIdeKm path req s
  | .boardSensorPoll temps => Sys2Proof.Machine.execBoardSensorPoll temps s
  | .invokeDeadlineExpire inv => Sys2Proof.Machine.execInvokeDeadlineExpire inv s

end Sys2Proof.Machine
end

