-- ==== Sys2Proof/Machine/Tick.lean ====
section
/-!
DEFINITION. The tick of the node time counter that a step on an empty queue stands for (R10, R435), and the level counters that
count with it (R445).
-/
namespace Sys2Proof.Machine

/-- Whether a request of a partition waits for the reason an event names (R445, R446), with the event's qualifier. -/
def waitHolds (s : State) (p ev qual : Nat) : Bool :=
  let q (n : Nat) : Bool := qual == 0xFF || qual == n
  if ev = Ev.nbQwait then
    s.work.nbs.any fun kv => q kv.1 && kv.2.waiting.any fun c => (s.cl c).part == p
  else if ev = Ev.fwdqFull then s.tier.moves.any fun kv => !kv.2.held.isEmpty && tileOwner s kv.1 == p
  else if ev = Ev.pinWait then
    s.tier.moves.any fun kv => !kv.2.pin && (tget? s.tier.pins kv.1).isSome && tileOwner s kv.1 == p
  else if ev = Ev.epochWait then s.work.queries.any fun kv => kv.2.held && kv.2.part == p
  else if ev = Ev.kneWait then s.work.kneWait.any fun m => m.part == p
  else if ev = Ev.cqWait then
    s.host.fns.any fun kv => kv.2.part == p && kv.2.queues.any fun x => !x.2.cqWait.isEmpty
  else if ev = Ev.tokWait then !hasToken (s.adm p) && (heads s).any fun h => h.part == p
  else if ev = Ev.regHold then s.host.held.any fun h => h.part == p
  else false

/-- A selection in LEVEL mode counts this nanosecond (R445). -/
def levelCounts (s : State) (p : Nat) (sel : W64) : Bool :=
  flag sel 63 && flag sel 62 && !selBad false sel && waitHolds s p (fld sel 15 0) (fld sel 55 48)

/-- Level counters gain the nanosecond in which their condition holds (R445). -/
def countLevels (s : State) : State :=
  { s with pmc.pctr := s.pmc.psel.foldl (fun t kv =>
    if levelCounts s (kv.1 / 32) kv.2 then tput t kv.1 (bump (tgetD t kv.1 0) 1) else t) s.pmc.pctr }

/-- One nanosecond of the time clock, which runs while AON and its reference clock are there (R467, R468). -/
def tick (s : State) : State :=
  if !s.pkg.pwr.pgAon || !s.pkg.pwr.clock then s
  else
    let x := timeStep s.pkg.tim
    let s1 := countLevels s
    settleStop { s1 with now := s1.now + x.1, pkg := { s1.pkg with tim := x.2 } }

end Sys2Proof.Machine
end

