-- ==== Sys2Proof/WellFormed.lean ====
section
/-!
DEFINITION. Which commands a sender can form: every number within the width of the field, register or address space that carries
it, and every structure with the lengths its layout gives. The meanings do not need it; it says what the table's operands are.
-/
namespace Sys2Proof

/-- A number of so many bits. -/
def bitsFit (w n : Nat) : Bool := decide (n < 2 ^ w)

/-- The fields of an XF packet (R285): every number in its field, RCLS not reserved, at most 256 bytes of access and payload. -/
def Packet.wf (p : Packet) : Bool :=
  bitsFit 6 p.kind && bitsFit 12 p.dst && bitsFit 12 p.src && bitsFit 5 p.part && decide (p.rcls < 3) && decide (p.len ≤ 256) &&
    bitsFit 16 p.tag && bitsFit 64 p.addr && bitsFit 32 p.gen && bitsFit 32 p.bseq && bitsFit 32 p.fseq && bitsFit 16 p.status &&
    bitsFit 16 p.aux && decide (p.payload.length ≤ 256)

/-- A flit (R278, R285): 16 bytes of a payload of 256. -/
def Flit.wf (f : Flit) : Bool :=
  match f with
  | .header p => p.wf
  | .data src bseq idx bytes => bitsFit 12 src && bitsFit 32 bseq && decide (idx < 16) && bytes.length == 16
  | .idle => true

/-- A link frame (R278): 12-bit sequence numbers and at most 32 flits. -/
def Frame.wf (f : Frame) : Bool :=
  bitsFit 12 f.seq && bitsFit 12 f.ack && f.resend.all (bitsFit 12) && decide (f.flits.length ≤ 32) && f.flits.all Flit.wf

/-- What IDENT carries (R280). -/
def IdentMsg.wf (m : IdentMsg) : Bool :=
  match m with
  | .node rackId pos port role gen =>
    bitsFit 32 rackId && bitsFit 6 pos && bitsFit 5 port && decide (role < 3) && bitsFit 32 gen
  | .endpoint kind => bitsFit 2 kind

/-- A copy stream's item stays in its tile (R210). -/
def CopyItem.wf (x : CopyItem) : Bool :=
  match x with
  | .burst _ bytes _ => bytes.length == 256
  | .write off bytes => !bytes.isEmpty && decide (off.val + bytes.length ≤ 65536)
  | .atomic _ op operand compare => bitsFit 16 op && bitsFit 64 operand && bitsFit 64 compare

/-- A log record (R231): a delete has no payload. -/
def LogRec.wf (r : LogRec) : Bool :=
  bitsFit 64 r.seq && bitsFit 64 r.stamp && bitsFit 64 r.epoch && bitsFit 64 r.handle && bitsFit 64 r.oldHandle &&
    bitsFit 64 r.fwdId && bitsFit 16 r.index && decide (1 ≤ r.kind) && decide (r.kind ≤ 3) && bitsFit 6 r.origin &&
    bitsFit 6 r.entry && bitsFit 32 r.payload.length && (r.kind != 2 || r.payload.isEmpty)

/-- The rack map (R399): spares are members, the host table names positions or none, and there are 5 or 7 managers. -/
def RackMap.wf (m : RackMap) : Bool :=
  bitsFit 32 m.gen && bitsFit 32 m.job && bitsFit 64 m.members && decide (m.spares &&& m.members = m.spares) &&
    (m.roles.all fun x => bitsFit 6 x.1 && decide (x.2 < 3)) && (m.idents.all fun x => bitsFit 6 x.1 && bitsFit 512 x.2) &&
    (m.hosts.all fun x => bitsFit 6 x.1 && (bitsFit 6 x.2 || x.2 == 0xFF)) &&
    (m.mgrs.length == 5 || m.mgrs.length == 7) && m.mgrs.all (bitsFit 6) && m.restart.all (bitsFit 64)

/-- A HELLO (R229, R401): a period of 1 to 250 ms. -/
def HelloMsg.wf (m : HelloMsg) : Bool :=
  m.identity.all (bitsFit 512) && bitsFit 32 m.rackId && decide (1 ≤ m.period) && decide (m.period ≤ 250) && bitsFit 512 m.starter

/-- A REPORT: positions, and error records of 64 bytes (R395). -/
def ReportMsg.wf (m : ReportMsg) : Bool :=
  m.silent.all (bitsFit 6) && (m.counts.all fun x => bitsFit 6 x.1) && (m.records.all fun r => r.length == 64) &&
    m.restart.all (bitsFit 64) && m.rebuilt.all (bitsFit 6)

/-- Forwarding multipliers (R407, R412): 1, 2, 4 or 8. -/
def weightsWf (ws : List (Nat × Nat)) : Bool := ws.all fun x => bitsFit 6 x.1 && [1, 2, 4, 8].contains x.2

/-- A module has four channels (R335). -/
def ModuleId.wf (m : ModuleId) : Bool := m.rates.length == 4

/-- What a start finds (R31, R414): clusters 0 to 135, stacks and units, cores, a secret of 32 bytes and eight slots. -/
def StartIn.wf (x : StartIn) : Bool :=
  (x.clusterFail.all fun c => decide (c < 136)) && (x.unitFail.all fun u => decide (u.1 < 8) && bitsFit 6 u.2) &&
    (x.coreFail.all fun c => decide (c < 3)) && (x.secret.all fun k => k.length == 32) && x.modules.length == 8 &&
    x.modules.all ModuleId.wf

/-- What the peers of a lost origin answer (R408). -/
def recordListsWf (ls : List (Nat × List LogRec)) : Bool := ls.all fun l => bitsFit 64 l.1 && l.2.all LogRec.wf

/-- Detectors 0x01 to 0x0E (R392). -/
def detectorWf (d : Fin 16) : Bool := decide (1 ≤ d.val) && decide (d.val ≤ 14)

/-- The bytes of a window write stay in BAR2 (R372, R373). -/
def windowWf (off : Nat) (data : List Byte) : Bool := !data.isEmpty && decide (off + data.length ≤ 2048 * 16384)

/-- Whether a command is one that its sender can form. -/
def Instr.wf (i : Instr) : Bool :=
  match i with
  | .windowWrite _ off data => windowWf off data
  | .winPartial _ q => decide (q < 2048)
  | .admissionDecision => true
  | .headDeadlineExpire _ q => decide (q < 2048)
  | .tokenRefill => true
  | .admBktNext _ _ rate burst => bitsFit 32 rate && bitsFit 24 burst
  | .admBktFull _ _ rate burst => bitsFit 32 rate && bitsFit 24 burst
  | .admBktEmpty _ _ rate burst => bitsFit 32 rate && bitsFit 24 burst
  | .nop _ => true
  | .planLoad _ _ _ => true
  | .planSignatureVerified _ => true
  | .roleLoadDone _ => true
  | .planUnload _ => true
  | .planRelease _ => true
  | .invoke _ => true
  | .indexOpen _ => true
  | .indexClose _ => true
  | .tableOpen _ => true
  | .tableClose _ => true
  | .query _ => true
  | .queryVectorArrive _ _ => true
  | .queryHoldRelease _ => true
  | .queryHoldTimeout _ => true
  | .contextFree _ => true
  | .insert _ => true
  | .delete _ => true
  | .upsert _ => true
  | .updateVectorArrive _ _ _ => true
  | .flashRead _ => true
  | .flashWrite _ _ => true
  | .flashDiscard _ => true
  | .tierRead _ => true
  | .tierWrite _ _ => true
  | .roleSet _ => true
  | .cqHeadpPoll _ q _ => decide (q < 2048)
  | .imodTimerExpire _ q => decide (q < 2048)
  | .queueEnable _ q _ => decide (q < 2048)
  | .queueDisable _ q _ => decide (q < 2048)
  | .sampleLatch => true
  | .takeover _ => true
  | .failoverTimerExpire _ => true
  | .flr _ => true
  | .busMasterClear _ => true
  | .regWindowTick => true
  | .tmma _ => true
  | .tdist _ => true
  | .tzero _ => true
  | .vload _ => true
  | .vstore _ => true
  | .vproof _ => true
  | .vconv _ => true
  | .vpconv _ => true
  | .vrescale _ => true
  | .vew _ => true
  | .vred _ => true
  | .vargmax _ => true
  | .vdist _ => true
  | .vfilt _ => true
  | .vpool _ => true
  | .vopt _ => true
  | .vatom _ => true
  | .vcoalAccumulate _ => true
  | .vcoalFlush _ => true
  | .vcoalCollect _ => true
  | .coalPartialArrive _ _ => true
  | .vxchg _ => true
  | .vstream _ => true
  | .modelLayerArrive _ => true
  | .modelSlotFree _ => true
  | .vinval _ => true
  | .vstflag _ => true
  | .wseed _ => true
  | .wwalk _ => true
  | .recordArrive _ _ slot => bitsFit 32 slot
  | .prefetchArrive _ _ slot => bitsFit 32 slot
  | .walkEndExpire _ _ => true
  | .rerankVectorArrive _ _ slot => bitsFit 32 slot
  | .rerankDeadlineExpire _ _ => true
  | .wpref _ => true
  | .wcopya _ => true
  | .copyComplete _ _ => true
  | .wwaita _ => true
  | .winsert _ => true
  | .wdelete _ => true
  | .wrepair _ => true
  | .wnb _ => true
  | .nbOpStart _ _ => true
  | .nbOpEnd _ _ => true
  | .nbShareWindow _ => true
  | .shist _ => true
  | .sbucket _ => true
  | .scrumb _ => true
  | .smerge _ => true
  | .kneaderFree _ => true
  | .kneaderMergeDone _ => true
  | .semit _ => true
  | .ctrlNop _ _ => true
  | .jmp _ _ => true
  | .loop _ _ => true
  | .fencem _ _ => true
  | .cbar _ _ => true
  | .cbarRelease _ _ _ => true
  | .twait _ _ => true
  | .twaitExpire _ _ => true
  | .next _ _ => true
  | .invocationArrive _ _ => true
  | .halt _ _ => true
  | .startAtBarrierRelease _ _ => true
  | .startGraceExpire _ => true
  | .unitFault _ _ _ => true
  | .unitWatchdogExpire _ _ => true
  | .rgnFenceGo _ _ _ => true
  | .clearingDone _ => true
  | .spareLoadDone _ _ => true
  | .hotWindowTick _ => true
  | .ageTick => true
  | .moveStart _ => true
  | .freeze _ => true
  | .copy _ what => what.wf
  | .drained _ => true
  | .stubExpire _ => true
  | .fillArrive _ line => bitsFit 40 line
  | .epochBoundary => true
  | .closeDrainDone => true
  | .arm _ _ t gen => bitsFit 64 t && bitsFit 32 gen
  | .barrierRelease _ => true
  | .publishDone => true
  | .invalDone => true
  | .log _ gen _ rec => bitsFit 32 gen && rec.wf
  | .logAck _ gen seq handle => bitsFit 32 gen && bitsFit 64 seq && bitsFit 64 handle
  | .logTmoExpire seq => bitsFit 64 seq
  | .logVoid _ gen _ seq => bitsFit 32 gen && bitsFit 64 seq
  | .logVoidAck _ gen seq => bitsFit 32 gen && bitsFit 64 seq
  | .logFlashWrite seq => bitsFit 64 seq
  | .checkpoint _ _ _ => true
  | .checkpointDone _ => true
  | .linkFrame _ frame => frame.wf
  | .lossOfSignal _ _ => true
  | .portTrained _ _ => true
  | .ident _ msg => msg.wf
  | .trainRetry _ => true
  | .portDisable _ _ _ => true
  | .portRetrain _ _ => true
  | .lstate _ _ => true
  | .lstateTimer => true
  | .load _ p => p.wf
  | .store _ p => p.wf
  | .atomic _ p => p.wf
  | .inval _ p => p.wf
  | .put _ p => p.wf
  | .get _ p => p.wf
  | .loadRsp _ p => p.wf
  | .storeAck _ p => p.wf
  | .atomicRsp _ p => p.wf
  | .invalAck _ p => p.wf
  | .putAck _ p => p.wf
  | .getRsp _ p => p.wf
  | .qfwd _ p epoch stamp step_ => p.wf && bitsFit 64 epoch && bitsFit 64 stamp && bitsFit 64 step_
  | .plist _ p => p.wf
  | .coll _ p => p.wf
  | .reject _ p answer => p.wf && answer.all RackMap.wf
  | .burstHoldExpire _ bseq => bitsFit 32 bseq
  | .genHoldExpire _ => true
  | .msgTmoExpire _ => true
  | .invalTmoExpire _ => true
  | .joinWindowExpire _ _ => true
  | .collectiveCloseExpire _ => true
  | .hello _ msg => msg.wf
  | .helloTimer => true
  | .heartbeat _ t => bitsFit 64 t
  | .heartbeatTimer => true
  | .hbAck _ gen t => bitsFit 32 gen && bitsFit 64 t
  | .leaseLapse => true
  | .expelTimer _ => true
  | .electionTimeout => true
  | .voteReq _ term => bitsFit 32 term
  | .vote _ term gen job => bitsFit 32 term && bitsFit 32 gen && bitsFit 32 job
  | .append _ term map_ => bitsFit 32 term && map_.wf
  | .appendAck _ term gen => bitsFit 32 term && bitsFit 32 gen
  | .commit _ map_ => map_.wf
  | .report _ msg => msg.wf
  | .weights _ mult => weightsWf mult
  | .formationTimeout => true
  | .mbrJobCtlWrite _ _ => true
  | .rebuildGo _ _ => true
  | .rebuildDiscard _ _ => true
  | .rebuildRecordsArrive lists => recordListsWf lists
  | .errInjOnce _ det target _ => detectorWf det && bitsFit 48 target.toNat
  | .errInjSticky _ det target _ => detectorWf det && bitsFit 48 target.toNat
  | .errInjNextStart _ det target _ => detectorWf det && bitsFit 48 target.toNat
  | .errInjCancel _ det => detectorWf det
  | .scWatchdogExpire _ => true
  | .noCoreHealthyExpire => true
  | .rowRepairDone _ row _ => bitsFit 26 row
  | .dieOpDone _ => true
  | .codewordReadDone _ _ _ => true
  | .flashDeadlineExpire _ _ => true
  | .programDone _ _ => true
  | .eraseDone _ _ => true
  | .readyTimeout _ => true
  | .writeBufferExpire unit => bitsFit 33 unit
  | .mapCkptTimer => true
  | .zqCalibration => true
  | .patrolRead _ => true
  | .moduleInsert _ => true
  | .moduleDebounceExpire _ => true
  | .modulePowerWaitExpire _ id => id.wf
  | .moduleRemove _ => true
  | .moduleEvac _ _ => true
  | .dieRetire _ => true
  | .pgAonRise => true
  | .pgAonFall => true
  | .pgMainFall => true
  | .pgMainRise => true
  | .wrstAssert => true
  | .wrstRelease => true
  | .perst _ => true
  | .undervoltage => true
  | .coreClockLoss => true
  | .fabricClockLoss _ => true
  | .pcieLinkDown _ => true
  | .d2dLinkFail => true
  | .startSequence io => io.wf
  | .calibrationTick offset => decide (offset.natAbs < 2 ^ 31)
  | .ppsEdge => true
  | .ppsMiss => true
  | .timNextSecWrite _ _ => true
  | .timResync _ => true
  | .writeStarter _ _ => true
  | .unlock _ _ => true
  | .enroll _ => true
  | .orderlyStop _ => true
  | .spdmGetVersion _ req => decide (4 ≤ req.length)
  | .spdmGetCapabilities _ req => decide (4 ≤ req.length)
  | .spdmNegotiateAlgorithms _ req => decide (4 ≤ req.length)
  | .spdmGetDigests _ req => decide (4 ≤ req.length)
  | .spdmGetCertificate _ req => decide (4 ≤ req.length)
  | .spdmChallenge _ req => decide (4 ≤ req.length)
  | .spdmGetMeasurements _ req => decide (4 ≤ req.length)
  | .spdmKeyExchange _ req => decide (4 ≤ req.length)
  | .spdmFinish _ req => decide (4 ≤ req.length)
  | .spdmKeyUpdate _ req => decide (4 ≤ req.length)
  | .spdmHeartbeat _ req => decide (4 ≤ req.length)
  | .spdmEndSession _ req => decide (4 ≤ req.length)
  | .powerWindowTick avg => bitsFit 16 avg
  | .avsTelemetry _ _ volts amps => bitsFit 16 volts && bitsFit 16 amps
  | .avsVoltageReached => true
  | .thermalSample temps => decide (temps.length ≤ 26)
  | .thermalStep => true
  | .dumpLatch _ => true
  | .registerWrite _ addr size _ => bitsFit 24 addr && decide (1 ≤ size) && decide (size ≤ 8)
  | .stateMachineParity _ => true
  | .serviceCoreSelftestDone _ _ => true
  | .pcieLinkUp _ => true
  | .perstRelease _ => true
  | .coreClockReturn => true
  | .routeNak p _ => p.wf
  | .busMasterSet _ => true
  | .ideKm _ req => decide (4 ≤ req.length)
  | .boardSensorPoll temps => decide (temps.length ≤ 8)
  | .invokeDeadlineExpire _ => true

end Sys2Proof
end

