-- ==== Sys2Proof/Safety.lean ====
section
/-!
DEFINITION. The words that the statements use: which part of the state a command may touch, and the invariants of the node.
-/
namespace Sys2Proof.Machine

/-- Only queue `q` of function `f`, what the node has sent and the counters differ. -/
def onlyQueue (s t : State) (f q : Nat) : Prop :=
  t = { s with host := { s.host with fns := t.host.fns }, out := t.out, pmc := t.pmc } ∧
  (∀ g, g ≠ f → tget? t.host.fns g = tget? s.host.fns g) ∧
  t.fn f = { s.fn f with queues := (t.fn f).queues } ∧
  ∀ p, p ≠ q → tget? (t.fn f).queues p = tget? (s.fn f).queues p

/-- The completion of a consumed command can be written at once and unsignalled: its queue has not been disabled or reset since,
the link and Bus Master Enable let it out, and the ring has a free entry (R371, R380, R488). -/
abbrev ringReady (s : State) (c : Cmd) : Prop :=
  canWrite s c.fn c.gen = true ∧ (s.q c.fn c.q).enables = c.en ∧ flag (s.q c.fn c.q).cfg 0 = true ∧
  flag (s.q c.fn c.q).cfg 2 = false ∧ (s.q c.fn c.q).cqWait = [] ∧ (s.q c.fn c.q).cqFree ≠ 0

/-- The completion entry of a command (R379), at the ring entry that comes next. -/
def completion (s : State) (c : Cmd) (status aux value : Nat) : Out :=
  let q := s.q c.fn c.q
  .hostWrite c.fn (q.cqBase.toNat + 32 * q.cqNext)
    (entryBytes { cmdId := c.cmdId, status := status, cmd := c.code, aux := aux, value := value, stamp := c.stamp } q.cqPhase
      q.sqHead c.q) false

/-- The completion entry of a command with its marks (R379): ND where the work that served it is not replayable bit for bit,
DISCARDED where a flash read met discarded data. -/
def completionMarked (s : State) (c : Cmd) (status value : Nat) (nd disc : Bool) : Out :=
  let q := s.q c.fn c.q
  .hostWrite c.fn (q.cqBase.toNat + 32 * q.cqNext)
    (entryBytes { cmdId := c.cmdId, status := status, nd := nd, discarded := disc, cmd := c.code, value := value
                  stamp := c.stamp } q.cqPhase q.sqHead c.q) false

/-- As `completionMarked`, with ND alone. -/
abbrev completionNd (s : State) (c : Cmd) (status value : Nat) (nd : Bool) : Out := completionMarked s c status value nd false

/-- `m` is `m0` with `bs` stored at `a`: every byte outside reads as before. -/
def storesAt (m0 m : Mem) (a : Nat) (bs : List Byte) : Prop :=
  ∀ x, mread m x = if a ≤ x then bs.getD (x - a) (mread m0 x) else mread m0 x

/-- The tensor clock, its limits and its supply agree (R461, R473, R481): LIMIT is between 400 and 1,100 W; the clock lies
between the lowest step and MAX, and the supply is at least what the clock needs; a raise that waits for its voltage is to a step
within MAX whose voltage the supply is set to. -/
def ClockInv (s : State) : Prop :=
  let c := s.pkg.clk
  400 ≤ fld c.limit 15 0 ∧ fld c.limit 15 0 ≤ 1100 ∧
  16 ≤ c.tmin ∧ c.tmin ≤ c.tmax ∧ c.tmax ≤ 42 ∧ 16 ≤ c.tcur ∧ c.tcur ≤ c.tmax ∧ voltFor c.tcur ≤ c.vddcd ∧
  ∀ r, c.raise = some r → 16 ≤ r.1 ∧ r.1 ≤ c.tmax ∧ voltFor r.1 ≤ c.vddcd

/-- The byte memories keep their one form: keys strictly rising and no byte that an unlisted address reads as. -/
def MemInv (s : State) : Prop :=
  memWf s.tier.mem = true ∧ memWf s.tier.lendMem = true ∧ memWf s.flash.mem = true ∧
  ∀ k m, (k, m) ∈ s.tier.moves → memWf m.dmem = true

/-- The keys of a table are strictly rising and not below `lo`. -/
def tabFrom {α : Type} : Nat → Tab α → Bool
  | _, [] => true
  | lo, (k, _) :: t => decide (lo ≤ k) && tabFrom (k + 1) t

/-- A table's one form: each key listed once, rising. -/
def tabWf {α : Type} (t : Tab α) : Bool := tabFrom 0 t

/-- The tables of work keep their one form: invocations, queries, collective instances, and every cluster's scratch. -/
def WorkInv (s : State) : Prop :=
  tabWf s.work.invs = true ∧ tabWf s.work.queries = true ∧ tabWf s.work.clusters = true ∧ tabWf s.fab.colls = true ∧
  ∀ k x, (k, x) ∈ s.work.clusters → tabWf x.scratch = true

/-- Unit `u` of cluster `c` stands ready at word `w` under opcode `op` (R78, R80, R84): the cluster is running or draining, the
unit has not halted and waits for nothing, the word carries its unit's number, the tokens the word names are there, and no error
injection is armed; the cluster's scratch table is in its one form (`WorkInv`). -/
abbrev unitAt (s : State) (c u op w : Nat) : Prop :=
  (s.cl c).word u = some w ∧ ((s.cl c).st = .running ∨ (s.cl c).st = .draining) ∧ ((s.cl c).unit u).halted = false ∧
  ((s.cl c).unit u).wait = .none ∧ wUnit w = u ∧ wOp w = op ∧ tokensReady (s.cl c).tokens (wWaitt w) = true ∧ s.err.inj = [] ∧
  tabWf (s.cl c).scratch = true

/-- The state in which a word has taken the tokens it names (R80). -/
def taken (s : State) (c w : Nat) : State :=
  s.setCl c { s.cl c with tokens := takeTokens (s.cl c).tokens (wWaitt w) }

/-- Unit `u` of cluster `c` goes to word `pc`; nothing else changes. -/
def unitTo (s : State) (c u pc : Nat) : State :=
  s.setCl c ((s.cl c).setUnit u { (s.cl c).unit u with pc := pc, wait := .none })

/-- Nothing but cluster `c`, its counters and the count of free values differs. -/
def onlyCluster (s t : State) (c : Nat) : Prop :=
  t = { s with work.clusters := tput s.work.clusters c (t.cl c), pmc := t.pmc, freeCtr := t.freeCtr }

/-- Within its cluster a word of the tensor or vector unit has touched only scratch, tokens, the units, the conversion counts of
its slot, the draws, and the accumulator with its counters. -/
def onlyCompute (s t : State) (c : Nat) : Prop :=
  t.cl c = { s.cl c with
    scratch := (t.cl c).scratch, tokens := (t.cl c).tokens, units := (t.cl c).units, satConv := (t.cl c).satConv
    satClip := (t.cl c).satClip, conv := (t.cl c).conv, satEvt := (t.cl c).satEvt, draws := (t.cl c).draws
    nonfin := (t.cl c).nonfin, accsat := (t.cl c).accsat, acc := (t.cl c).acc, accInt := (t.cl c).accInt }

/-- Unit `u` of cluster `c` stands behind word `w`: at the next word and waiting for nothing, the tokens that the word names
taken and its own signalled; the other units are where they were. -/
def behind (s t : State) (c u w : Nat) : Prop :=
  (t.cl c).units = tput (s.cl c).units u
    { (s.cl c).unit u with pc := nextPc ((s.cl c).list u).length ((s.cl c).unit u).pc, wait := .none } ∧
  (t.cl c).tokens =
    if wSigen w then signalToken (takeTokens (s.cl c).tokens (wWaitt w)) (wSigt w)
    else takeTokens (s.cl c).tokens (wWaitt w)

/-- Every scratch byte of cluster `c` outside the `n` bytes at `a` reads as before. -/
def scrSame (s t : State) (c a n : Nat) : Prop :=
  ∀ x, x < 2097152 → (∀ i, i < n → (a + i) % 2097152 ≠ x) → scr (t.cl c) x = scr (s.cl c) x

/-- Running work of a partition reads the interval as stored: it lies in the partition's range and in no other's sealed tiles, and
each tile it touches has a home in a stack, no move under way, no result buffer and no uncorrectable line. -/
abbrev readable (s : State) (part addr len : Nat) : Prop :=
  accessCheck s part (tilesOf addr len).1 (tilesOf addr len).2 = none ∧
  ∀ i < (tilesOf addr len).2, (s.home (addr / tileBytes + i)).st ≠ .unmapped ∧ (s.home (addr / tileBytes + i)).st ≠ .poisoned ∧
    (s.home (addr / tileBytes + i)).tier = 1 ∧ tget? s.work.resTiles (addr / tileBytes + i) = none ∧
    tget? s.tier.moves (addr / tileBytes + i) = none ∧ intervalPoisoned s (addr / tileBytes + i) 0 tileBytes = false

/-- A tile is HOME in a stack, shows no result buffer and is in no move. -/
abbrev homed (s : State) (t : Nat) : Prop :=
  (s.home t).st = .home ∧ (s.home t).tier = 1 ∧ tget? s.work.resTiles t = none ∧ tget? s.tier.moves t = none

/-- A packet of `kind` reaches this node by a mesh port (R286, R292, R295): the port is UP, the packet is of this node's
generation where its kind is checked, and it is neither a burst seen before nor early in the fixed class. -/
abbrev arrives (s : State) (port kind : Nat) (p : Packet) : Prop :=
  portUp s port = true ∧ isEdge port = false ∧ p.kind = kind ∧ (genExempt kind = true ∨ p.gen = s.mbr.gen) ∧
  p.dst = s.fab.node ∧ p.dst < 64 ∧ (p.payload = [] ∨ bseqDone (s.rxOf p.src) p.bseq = false) ∧
  (p.rcls = 1 → p.fseq = (s.rxOf p.src).fnext)

/-- A packet for another node reaches this one by a mesh port (R286, R289). -/
abbrev passes (s : State) (port kind : Nat) (p : Packet) : Prop :=
  portUp s port = true ∧ isEdge port = false ∧ p.kind = kind ∧ (genExempt kind = true ∨ p.gen = s.mbr.gen) ∧
  nodeOf p.dst ≠ s.fab.node

/-- One live link, at port `port`, leads straight to position `pos`. -/
abbrev oneWay (s : State) (pos port : Nat) : Prop := (linkPorts s.fab.node pos).filter (portUp s) = [port]

/-- A packet of this node as it leaves by `port`: under the current generation, a burst with the next BSEQ and a packet of the
fixed class with the next FSEQ towards its destination (R286, R292, R295). -/
def sent (s : State) (port : Nat) (p : Packet) : Out :=
  .packet port { p with gen := s.mbr.gen, bseq := if p.payload = [] then 0 else tgetD s.fab.bseq p.dst 1
                        fseq := if p.rcls = 1 then tgetD s.fab.fseq p.dst 1 else 0 }

end Sys2Proof.Machine
end

