-- ==== Sys2Proof/Certificates/Slice0/Obligations.lean ====
section
/-!
DEFINITION. The statements for the provers, family by family. Each is a conjunction of clauses, one per command or form;
a clause gives, under conditions on the state and the operands alone, the state that the command answers: what it changes, and
by record equations what it leaves alone.
-/
open Sys2Proof Sys2Proof.Machine

/-- With a command at the front of the queue, a step is the command's execution on the state with the queue's rest.
On an empty queue, by the model's choice, the step is one nanosecond of the time clock: without AON or its reference
clock nothing changes; otherwise the counter gains one increment, or two or none when the TRIM accumulator overflows,
every second of them while it slews, and only the level counters change besides. -/
def Obligations.StepRunsFrontCommand : Prop :=
  (∀ (s : State) (c : Instr) (cs : List Instr),
   s.pending = c :: cs →
   Machine.step s = Machine.exec c { s with pending := cs })
  ∧ (∀ (s : State),
     s.pending = [] → s.pkg.pwr.pgAon = false ∨ s.pkg.pwr.clock = false →
     Machine.step s = .next s)
  ∧ (∀ (s : State),
     s.pending = [] → s.pkg.pwr.pgAon = true ∧ s.pkg.pwr.clock = true ∧ s.pkg.sec.stop ≠ .stopping →
     s.pkg.tim.slew = 0 →
     ∃ t, Machine.step s = .next t ∧
       t.now = s.now + (if (2 ^ 32 : Int) ≤ (s.pkg.tim.acc + s.pkg.tim.trim) then 2 else if
           (s.pkg.tim.acc + s.pkg.tim.trim) ≤ -(2 ^ 32 : Int) then 0 else 1) ∧
       t.pkg.tim = { s.pkg.tim with
           acc := (if (2 ^ 32 : Int) ≤ (s.pkg.tim.acc + s.pkg.tim.trim) then (s.pkg.tim.acc + s.pkg.tim.trim) - 2 ^
               32 else if (s.pkg.tim.acc + s.pkg.tim.trim) ≤ -(2 ^ 32 : Int) then (s.pkg.tim.acc + s.pkg.tim.trim) +
               2 ^ 32 else (s.pkg.tim.acc + s.pkg.tim.trim)), half := false } ∧
       t = { s with now := t.now, pmc := { s.pmc with pctr := t.pmc.pctr }, pkg := { s.pkg with tim := t.pkg.tim } })
  ∧ (∀ (s : State),
     s.pending = [] → s.pkg.pwr.pgAon = true ∧ s.pkg.pwr.clock = true ∧ s.pkg.sec.stop ≠ .stopping →
     s.pkg.tim.slew ≠ 0 →
     ∃ t, Machine.step s = .next t ∧
       t.now = s.now + (if s.pkg.tim.half then (if (2 ^ 32 : Int) ≤ (s.pkg.tim.acc + s.pkg.tim.trim) then 2 else if
             (s.pkg.tim.acc + s.pkg.tim.trim) ≤ -(2 ^ 32 : Int) then 0 else 1) else (if (2 ^ 32 : Int) ≤
             (s.pkg.tim.acc + s.pkg.tim.trim) then 2 else if (s.pkg.tim.acc + s.pkg.tim.trim) ≤ -(2 ^ 32 : Int) then
             0 else 1) - 1) ∧
       t.pkg.tim = { s.pkg.tim with
           acc := (if (2 ^ 32 : Int) ≤ (s.pkg.tim.acc + s.pkg.tim.trim) then (s.pkg.tim.acc + s.pkg.tim.trim) - 2 ^
               32 else if (s.pkg.tim.acc + s.pkg.tim.trim) ≤ -(2 ^ 32 : Int) then (s.pkg.tim.acc + s.pkg.tim.trim) +
               2 ^ 32 else (s.pkg.tim.acc + s.pkg.tim.trim)), slew := s.pkg.tim.slew - 1, half := !s.pkg.tim.half } ∧
       t = { s with now := t.now, pmc := { s.pmc with pctr := t.pmc.pctr }, pkg := { s.pkg with tim := t.pkg.tim } })

/-- Right after reset the queue is empty and the node waits for its start with AON on and PG_MAIN low; the registers
named have the reset values their tables give; no plan, invocation, query, index, table, tile, port or member is
there; nothing has been sent. The clock invariant, the memories' one form and the tables' one form hold. That the
model starts at the instant after AON power-good, before the start sequence, is the model's choice. -/
def Obligations.ResetLeavesTheManualsState : Prop :=
  State.reset.pending = [] ∧ State.reset.out = [] ∧ State.reset.now = 0 ∧ State.reset.pkg.pwr.pgAon = true ∧
    State.reset.pkg.pwr.pgMain = false ∧ State.reset.pkg.pwr.domOn = 1 ∧ State.reset.pkg.pwr.domEn = 0xFFFFFF ∧
    State.reset.pkg.pwr.tcfg = 0x5F6E5564#64 ∧ State.reset.pkg.pwr.lastReset = 0 ∧
    State.reset.pkg.clk.limit = 0x0032044C#64 ∧ State.reset.pkg.clk.tmin = 0x10 ∧ State.reset.pkg.clk.tmax = 0x28 ∧
    State.reset.pkg.clk.tcur = 0x28 ∧ State.reset.pkg.clk.tcause = 0 ∧ State.reset.pkg.sec.slot = 3 ∧
    State.reset.pkg.sec.id = .none_ ∧ State.reset.pkg.sec.testOpen = false ∧ State.reset.pkg.sec.cold = true ∧
    State.reset.pkg.sec.seq = 0 ∧ State.reset.pkg.sec.stop = .running ∧ State.reset.pkg.sec.mbxState = 0 ∧
    State.reset.pkg.tim.cfg = 0x640001#64 ∧ State.reset.pkg.tim.trim = 0 ∧ State.reset.pkg.tim.ref = 0x3F ∧
    State.reset.pkg.tim.cal = 0 ∧ State.reset.pkg.tim.src = 0 ∧ fld State.reset.epo.cfg 39 32 = 0x0A ∧
    fld State.reset.epo.cfg 31 20 = 0x14 ∧ fld State.reset.epo.cfg 15 0 = 0x5DC ∧ State.reset.fab.allowed = 1 ∧
    State.reset.fab.role = 0 ∧ State.reset.mbr.gen = 0 ∧ State.reset.mbr.st = .alone ∧ State.reset.epo.closed = 0 ∧
    State.reset.work.plans = [] ∧ State.reset.work.invs = [] ∧ State.reset.work.queries = [] ∧
    State.reset.work.indexes = [] ∧ State.reset.work.tables = [] ∧ State.reset.work.fenceHist = [] ∧
    State.reset.host.cmds = [] ∧ State.reset.tier.mem = [] ∧ State.reset.flash.mem = [] ∧
    (∀ k : Fin 32, (State.reset.port k.val).st = .down) ∧ (∀ k : Fin 64, (State.reset.fn k.val).bound = false) ∧
    (∀ k : Fin 128, (State.reset.cl k.val).scratch = [] ∧ (State.reset.cl k.val).tokens = []) ∧
    ClockInv State.reset ∧ MemInv State.reset ∧ WorkInv State.reset

/-- For every command and every state, execution answers a next state, neither a fault nor a refusal, and the
commands that wait are those that waited. -/
def Obligations.EveryCommandCompletes : Prop :=
  ∀ (c : Instr) (s : State),
  ∃ t, Machine.exec c s = .next t ∧ t.pending = s.pending

/-- From every state in which LIMIT lies within 400 to 1,100 W, MIN and MAX within 16 to 42 with MIN at most MAX, the
clock within 16 and MAX on a supply that carries it, and a waiting raise within MAX on a supply set for it, every
step leads to such a state. -/
def Obligations.EveryStepKeepsTheClockInLimits : Prop :=
  ∀ (s t : State),
  ClockInv s → Machine.step s = .next t →
  ClockInv t

/-- From every state in which the tier memory, the memory lent, the flash content and the frozen copies of moves list
addresses rising and no zero byte, every step leads to such a state; and from every state in which the tables of
invocations, queries, clusters and collective instances and each cluster's scratch list keys rising, every step leads
to such a state. Equal contents are then equal data: the form is the model's own. -/
def Obligations.EveryStepKeepsMemoryForm : Prop :=
  (∀ (s t : State),
   MemInv s → Machine.step s = .next t →
   MemInv t)
  ∧ (∀ (s t : State),
     WorkInv s → Machine.step s = .next t →
     WorkInv t)

/-- Every function that reaches the block reads TOP_FEAT with MIN1 3 and features 0xFF, NBS_CAP, EPO_CAP, FAB_CAP,
FLS_CAP and PMC_CAP with the values of their tables; the fields are RO: a write of any value changes nothing. -/
def Obligations.CapabilityRegistersAreFixed : Prop :=
  (∀ (s : State) (f : Nat),
   reaches s f 0x00 = true →
   readReg s f 0x00 0x8 = 0x0000_0003_0000_00FF#64)
  ∧ (∀ (s : State) (f : Nat),
     reaches s f 0x03 = true →
     readReg s f 0x03 0 = 0x0000_0200_4010_0800#64)
  ∧ (∀ (s : State) (f : Nat),
     reaches s f 0x05 = true →
     readReg s f 0x05 0 = 0x0000_0200_0802_0040#64)
  ∧ (∀ (s : State) (f : Nat),
     reaches s f 0x07 = true →
     readReg s f 0x07 0 = 0x0000_0200_2002_0440#64)
  ∧ (∀ (s : State) (f : Nat),
     reaches s f 0x09 = true →
     readReg s f 0x09 0 = 0x0000_0200_2008_0804#64)
  ∧ (∀ (s : State) (f : Nat),
     reaches s f 0x0F = true →
     readReg s f 0x0F 0 = 0x0000_0200_0804_2030#64)
  ∧ (∀ (s : State) (fn : Fin 64) (v : W64),
     Machine.exec (.registerWrite fn (0x00 * 0x80000 + 0x8) 8 v) s = .next (s))
  ∧ (∀ (s : State) (fn : Fin 64) (v : W64),
     Machine.exec (.registerWrite fn (0x03 * 0x80000 + 0) 8 v) s = .next (s))
  ∧ (∀ (s : State) (fn : Fin 64) (v : W64),
     Machine.exec (.registerWrite fn (0x05 * 0x80000 + 0) 8 v) s = .next (s))
  ∧ (∀ (s : State) (fn : Fin 64) (v : W64),
     Machine.exec (.registerWrite fn (0x07 * 0x80000 + 0) 8 v) s = .next (s))
  ∧ (∀ (s : State) (fn : Fin 64) (v : W64),
     Machine.exec (.registerWrite fn (0x09 * 0x80000 + 0) 8 v) s = .next (s))
  ∧ (∀ (s : State) (fn : Fin 64) (v : W64),
     Machine.exec (.registerWrite fn (0x0F * 0x80000 + 0) 8 v) s = .next (s))

/-- In a start with a service core out of self-test, the image used is that of the first slot that passes its checks:
the VALID slot with the higher SEQ, then the other; none when the directory's CRC fails or neither passes.
SEC_STAT.SLOT reads 0 for A, 1 for B and 3 for none. Two VALID slots of one SEQ are left out: the rule does not order
them. -/
def Obligations.HigherValidSlotIsTriedFirst : Prop :=
  ∀ (s : State) (io : StartIn),
  s.pkg.sec.phase = 1 ∧ s.pkg.pwr.pgAon = true ∧ s.pkg.pwr.wrst = false ∧ s.pkg.pwr.clock = true ∧
    s.pkg.pwr.undervolt = false →
  [0, 1, 2].any (fun (i : Nat) => !io.coreFail.contains i) = true →
  (s.pkg.sec.slotA.seq = s.pkg.sec.slotB.seq → s.pkg.sec.slotA.valid = false ∨ s.pkg.sec.slotB.valid = false) →
  ∃ t, Machine.exec (.startSequence io) s = .next t ∧
    t.pkg.sec.slot = (if s.pkg.sec.dirOk = false then 3 else if s.pkg.sec.slotA.seq < s.pkg.sec.slotB.seq then
        (if (s.pkg.sec.slotB.valid = true ∧ imgCheck s.pkg.sec.slotB.image = 0) then 1 else if (s.pkg.sec.slotA.valid
              = true ∧ imgCheck s.pkg.sec.slotA.image = 0) then 0 else 3) else (if (s.pkg.sec.slotA.valid = true ∧
            imgCheck s.pkg.sec.slotA.image = 0) then 0 else if (s.pkg.sec.slotB.valid = true ∧
            imgCheck s.pkg.sec.slotB.image = 0) then 1 else 3)) ∧
    fld (secStat t) 5 4 = (if s.pkg.sec.dirOk = false then 3 else if s.pkg.sec.slotA.seq < s.pkg.sec.slotB.seq then
        (if (s.pkg.sec.slotB.valid = true ∧ imgCheck s.pkg.sec.slotB.image = 0) then 1 else if (s.pkg.sec.slotA.valid
              = true ∧ imgCheck s.pkg.sec.slotA.image = 0) then 0 else 3) else (if (s.pkg.sec.slotA.valid = true ∧
            imgCheck s.pkg.sec.slotA.image = 0) then 0 else if (s.pkg.sec.slotB.valid = true ∧
            imgCheck s.pkg.sec.slotB.image = 0) then 1 else 3))

/-- In a node out of reset, an edge less than 900 ms after the last accepted edge changes nothing and counts
PPS_GLITCH. When no edge has come 1,100 ms after the instant at which one was expected, PPS_MISS is counted and SRC
becomes HOLDOVER. In HOLDOVER each nanosecond adds TRIM to the accumulator, and the counter gains one increment, two
when it reaches 2^32, none when it reaches −2^32. The worked example's two steps of TRIM come out as it gives them. -/
def Obligations.GlitchesAndMissesHoldTheCounter : Prop :=
  (∀ (s : State) (u : Nat),
   s.pkg.sec.phase ≠ 0 → s.pkg.tim.lastEdge = some u ∧ s.now < u + 900000000 →
   Machine.exec (.ppsEdge) s = .next (countNode s Ev.ppsGlitch))
  ∧ (∀ (s : State) (u : Nat),
     s.pkg.tim.expected = some u ∧ u + 1100000000 ≤ s.now →
     ∃ t, Machine.exec (.ppsMiss) s = .next t ∧
       t.pkg.tim.src = 2 ∧ t.pmc = (countNode s Ev.ppsMiss).pmc ∧ t.now = s.now ∧ t.pkg.tim.trim = s.pkg.tim.trim ∧
         t.pkg.tim.acc = s.pkg.tim.acc)
  ∧ (∀ (s : State),
     s.pending = [] → s.pkg.pwr.pgAon = true ∧ s.pkg.pwr.clock = true ∧ s.pkg.sec.stop ≠ .stopping →
     s.pkg.tim.slew = 0 ∧ s.pkg.tim.src = 2 →
     ∃ t, Machine.step s = .next t ∧
       t.now = s.now + (if (2 ^ 32 : Int) ≤ (s.pkg.tim.acc + s.pkg.tim.trim) then 2 else if
           (s.pkg.tim.acc + s.pkg.tim.trim) ≤ -(2 ^ 32 : Int) then 0 else 1) ∧
       t.pkg.tim = { s.pkg.tim with
           acc := (if (2 ^ 32 : Int) ≤ (s.pkg.tim.acc + s.pkg.tim.trim) then (s.pkg.tim.acc + s.pkg.tim.trim) - 2 ^
               32 else if (s.pkg.tim.acc + s.pkg.tim.trim) ≤ -(2 ^ 32 : Int) then (s.pkg.tim.acc + s.pkg.tim.trim) +
               2 ^ 32 else (s.pkg.tim.acc + s.pkg.tim.trim)), half := false } ∧
       t = { s with now := t.now, pmc := { s.pmc with pctr := t.pmc.pctr }, pkg := { s.pkg with tim := t.pkg.tim } })
  ∧ (trimStep 0 (-12000) 1000000000 = -25770 ∧ trimStep (-25770) (-6000) 1000000000 = -38655)

/-- Data written within one empty slot of an enabled queue's window (not in WINERR) appears in that slot byte for
byte, the slot's instants are now, and nothing but the queue's slots and the counters changes. When the data is a
whole one-line command at SQ_HEAD, the command has arrived there with the ingress stamp now. A write to a queue in
WINERR is dropped and counts WIN_ORPHAN for the function's partition; a write to a disabled queue, an unbound
function or a window at or above QCOUNT has no effect. With room in the completion ring: WIN_PARTIAL on an enabled
queue with a slot still partial 1 ms after its first byte, and a WINDOW_WRITE of a byte to a line that has arrived,
both leave the queue in WINERR with every slot clear and the cause in HIF_QERR (PARTIAL 0, OVERWRITE 1); the first
thing written to host memory is the window-error entry in the next ring entry, with status ADMIT_REFUSED, AUX the
WINDOW reason, CFL.WINERR and SQ_HEAD naming the slot. Nothing else but the counters changes. While no slot is late,
WIN_PARTIAL has no effect. -/
def Obligations.WindowWritesFillSlots : Prop :=
  (∀ (s : State) (fn : Fin 64) (q i o : Nat) (data : List Byte),
   (s.fn fn.val).bound = true → q < (s.fn fn.val).qcount → flag (s.q fn.val q).cfg 0 = true →
   (s.q fn.val q).winerr = false → i < 128 → data ≠ [] → o + data.length ≤ 128 →
   tget? (s.q fn.val q).slots i = none →
   ∃ t, Machine.exec (.windowWrite fn (q * 16384 + i * 128 + o) data) s = .next t ∧
     t = { s.setQ fn.val q { s.q fn.val q with slots := (t.q fn.val q).slots } with pmc := t.pmc } ∧
     (∃ sl, (t.q fn.val q).slots = tput (s.q fn.val q).slots i sl ∧ sl.first = s.now ∧ sl.last = s.now ∧
         ∀ k, tget? sl.bytes k = if o ≤ k then data[k - o]? else none) ∧
     (o = 0 → data.length = 128 → i = (s.q fn.val q).sqHead → data.head? ≠ some 0x12 →
         headCmd (t.q fn.val q) = some ⟨i, 1, s.now⟩))
  ∧ (∀ (s : State) (fn : Fin 64) (off : Nat) (data : List Byte),
     (s.fn fn.val).bound = true → off / 16384 < (s.fn fn.val).qcount →
     flag (s.q fn.val (off / 16384)).cfg 0 = true → (s.q fn.val (off / 16384)).winerr = true →
     Machine.exec (.windowWrite fn off data) s = .next ({ s with
           pmc.pctr := bumpSel false s.pmc.psel s.pmc.pctr ((s.fn fn.val).part * 32) 32 Ev.winOrphan 0xFF 1 }))
  ∧ (∀ (s : State) (fn : Fin 64) (off : Nat) (data : List Byte),
     off % 16384 + data.length ≤ 16384 →
     (s.fn fn.val).bound = false ∨ (s.fn fn.val).qcount ≤ off / 16384 ∨ flag (s.q fn.val (off / 16384)).cfg 0 =
       false →
     Machine.exec (.windowWrite fn off data) s = .next (s))
  ∧ (∀ (s : State) (fn : Fin 64) (q i : Nat) (sl : Slot),
     flag (s.q fn.val q).cfg 0 = true → (s.q fn.val q).winerr = false → canWrite s fn.val (s.fn fn.val).gen = true →
     (s.q fn.val q).cqWait = [] → (s.q fn.val q).cqFree ≠ 0 → (s.q fn.val q).slots = [(i, sl)] → sl.bytes ≠ [] →
     sl.bytes.length < 128 → sl.first + 1000000 ≤ s.now →
     ∃ t, Machine.exec (.winPartial fn q) s = .next t ∧
       onlyQueue s t fn.val q ∧
       (t.q fn.val q).winerr = true ∧
       (t.q fn.val q).slots = [] ∧
       (t.q fn.val q).err = (s.q fn.val q).err ||| 1 ∧
       t.out[s.out.length]? = some (Out.hostWrite fn.val ((s.q fn.val q).cqBase.toNat + 32 * (s.q fn.val q).cqNext)
           (entryBytes { status := 0x0101, winerr := true, aux := 128 } (s.q fn.val q).cqPhase i q) false))
  ∧ (∀ (s : State) (fn : Fin 64) (q i o : Nat) (b : Byte),
     (s.fn fn.val).bound = true → q < (s.fn fn.val).qcount → flag (s.q fn.val q).cfg 0 = true →
     (s.q fn.val q).winerr = false → canWrite s fn.val (s.fn fn.val).gen = true → (s.q fn.val q).cqWait = [] →
     (s.q fn.val q).cqFree ≠ 0 → i < 128 → o < 128 → (tgetD (s.q fn.val q).slots i {}).bytes.length = 128 →
     ∃ t, Machine.exec (.windowWrite fn (q * 16384 + i * 128 + o) [b]) s = .next t ∧
       onlyQueue s t fn.val q ∧
       (t.q fn.val q).winerr = true ∧
       (t.q fn.val q).slots = [] ∧
       (t.q fn.val q).err = (s.q fn.val q).err ||| 2 ∧
       t.out[s.out.length]? = some (Out.hostWrite fn.val ((s.q fn.val q).cqBase.toNat + 32 * (s.q fn.val q).cqNext)
           (entryBytes { status := 0x0101, winerr := true, aux := 128 } (s.q fn.val q).cqPhase i q) false))
  ∧ (∀ (s : State) (fn : Fin 64) (q : Nat),
     (∀ kv ∈ (s.q fn.val q).slots, kv.2.bytes = [] ∨ kv.2.bytes.length = 128 ∨ s.now < kv.2.first + 1000000) →
     Machine.exec (.winPartial fn q) s = .next (s))

/-- A write of HIF_QCFG with EN 1 to a disabled queue of a bound function (below QCOUNT, sampling not asked for)
stores the register's writable bits, clears every line, sets SQ_HEAD and the ring index to 0, PHASE to 1 and the free
entries to 2^(6 + CQ_LOG). A write with EN 0 to an enabled queue discards every line, every waiting completion and
every unwritten sample, and keeps CQ_LOG and SR_LOG. Each other queue and function, and everything outside the host
interface, stays. Both commands do nothing on an unbound function or a queue at or above QCOUNT. An FLR gives every
queue of the function its reset registers (disabled, no bases, nothing waiting), clears RO_EN, Bus Master Enable and
the banked lookup registers, and starts a new generation, so that a command consumed before it writes no more host
memory. A clear of Bus Master Enable disables every queue, discards its lines and waiting completions and starts a
new generation, keeping the other registers. Both leave plans, indexes, tables, tiles, log records and ADM settings:
only the function and the counters differ. A set of Bus Master Enable changes that bit alone. For a partition bound
to two functions, one ACTIVE and one STANDBY, neither with an arrived command: TAKEOVER by the STANDBY function makes
it ACTIVE and the other STANDBY and counts FAILOVER; by the ACTIVE function it does nothing. The failover timer does
the same once the ACTIVE function's link has been down for FO_DELAY ms while the other port's link is up, and nothing
while either condition is missing. Only the two functions' ACTIVE and the counters change. -/
def Obligations.QueuesAndFunctionsStartAndStop : Prop :=
  (∀ (s : State) (fn : Fin 64) (q : Nat) (v : W64),
   (s.fn fn.val).bound = true → q < (s.fn fn.val).qcount → flag (s.q fn.val q).cfg 0 = false → flag v 12 = false →
   Machine.exec (.queueEnable fn q v) s = .next (s.setQ fn.val q { s.q fn.val q with
         cfg := (v ||| 1) &&& 0x0000_FFFF_000F_1F05, sqHead := 0, winerr := false, slots := [], cqNext := 0,
         cqPhase := true, cqFree := 2 ^ (6 + fld v 11 8), cqWait := [], unsig := 0, srNext := 0, srGroup := [],
         enables := (s.q fn.val q).enables + 1 }))
  ∧ (∀ (s : State) (fn : Fin 64) (q : Nat) (v : W64),
     (s.fn fn.val).bound = true → q < (s.fn fn.val).qcount → flag (s.q fn.val q).cfg 0 = true →
     ∃ t, Machine.exec (.queueDisable fn q v) s = .next t ∧
       t = { s.setQ fn.val q (t.q fn.val q) with pmc := t.pmc } ∧
       (let x := t.q fn.val q
        flag x.cfg 0 = false ∧ fld x.cfg 11 8 = fld (s.q fn.val q).cfg 11 8 ∧
          fld x.cfg 19 16 = fld (s.q fn.val q).cfg 19 16 ∧ fld x.cfg 47 32 = fld v 47 32 ∧
          flag x.cfg 2 = flag v 2) ∧
       t.q fn.val q = { s.q fn.val q with
           cfg := (t.q fn.val q).cfg, slots := [], cqWait := [], unsig := 0, srGroup := [], winerr := false })
  ∧ (∀ (s : State) (fn : Fin 64) (q : Nat) (v : W64),
     (s.fn fn.val).bound = false ∨ (s.fn fn.val).qcount ≤ q →
     Machine.exec (.queueEnable fn q v) s = .next (s))
  ∧ (∀ (s : State) (fn : Fin 64) (q : Nat) (v : W64),
     (s.fn fn.val).bound = false ∨ (s.fn fn.val).qcount ≤ q →
     Machine.exec (.queueDisable fn q v) s = .next (s))
  ∧ (∀ (s : State) (fn : Fin 64),
     ∃ t, Machine.exec (.flr fn) s = .next t ∧
       t = { s.setFn fn.val (t.fn fn.val) with pmc := t.pmc } ∧
       (let x := t.fn fn.val
        x = { s.fn fn.val with
            roEn := false, busMaster := false, gen := (s.fn fn.val).gen + 1, hlook := 0, dieLook := 0, aer := 0,
            queues := x.queues }) ∧
       (∀ q x, (q, x) ∈ (t.fn fn.val).queues → x = { ({} : Queue) with enables := x.enables }) ∧
       canWrite t fn.val (s.fn fn.val).gen = false)
  ∧ (∀ (s : State) (fn : Fin 64),
     ∃ t, Machine.exec (.busMasterClear fn) s = .next t ∧
       t = { s.setFn fn.val (t.fn fn.val) with pmc := t.pmc } ∧
       t.fn fn.val = { s.fn fn.val with
           busMaster := false, gen := (s.fn fn.val).gen + 1, queues := (t.fn fn.val).queues } ∧
       (t.fn fn.val).queues = (s.fn fn.val).queues.map (fun (kv : Nat × Queue) => (kv.1, { kv.2 with
               cfg := setFld kv.2.cfg 0 0 0, slots := [], winerr := false, cqWait := [], unsig := 0,
               srGroup := [] })) ∧
       canWrite t fn.val (s.fn fn.val).gen = false)
  ∧ (∀ (s : State) (fn : Fin 64),
     Machine.exec (.busMasterSet fn) s = .next (s.setFn fn.val { s.fn fn.val with busMaster := true }))
  ∧ (∀ (s : State) (fn : Fin 64) (a b : Nat) (fa fb : Fn),
     s.host.fns = [(a, fa), (b, fb)] → a < b → fa.bound = true ∧ fb.bound = true ∧ fa.part = fb.part →
     fa.queues = [] ∧ fb.queues = [] →
     (fn.val = a ∧ fb.active = true ∧ fa.active = false) ∨ (fn.val = b ∧ fa.active = true ∧ fb.active = false) →
     ∃ t, Machine.exec (.takeover fn) s = .next t ∧
       t = { s with
           host := { s.host with
               fns := [(a, { fa with active := !fa.active }), (b, { fb with active := !fb.active })] },
           pmc := t.pmc } ∧
       t.pmc.pctr = bumpSel false s.pmc.psel s.pmc.pctr (fa.part * 32) 32 Ev.failover 0xFF 1)
  ∧ (∀ (s : State) (fn : Fin 64),
     (s.fn fn.val).active = true →
     Machine.exec (.takeover fn) s = .next (s))
  ∧ (∀ (s : State) (part : Fin 32) (a b : Nat) (fa fb : Fn),
     s.host.fns = [(a, fa), (b, fb)] → a < b → fa.bound = true ∧ fb.bound = true →
     fa.part = part.val ∧ fb.part = part.val → fa.queues = [] ∧ fb.queues = [] →
     fa.active = true ∧ fb.active = false → (s.pcie a).up = false → (s.pcie b).up = true →
     (s.pcie a).downT + fa.foDelay * 1000000 ≤ s.now →
     ∃ t, Machine.exec (.failoverTimerExpire part) s = .next t ∧
       t = { s with
           host := { s.host with fns := [(a, { fa with active := false }), (b, { fb with active := true })] },
           pmc := t.pmc } ∧
       t.pmc.pctr = bumpSel false s.pmc.psel s.pmc.pctr (part.val * 32) 32 Ev.failover 0xFF 1)
  ∧ (∀ (s : State) (part : Fin 32) (a b : Nat) (fa fb : Fn),
     s.host.fns = [(a, fa), (b, fb)] → fa.bound = true ∧ fb.bound = true → fa.part = part.val ∧ fb.part = part.val →
     fa.active = true ∧ fb.active = false →
     (s.pcie a).up = true ∨ (s.pcie b).up = false ∨ s.now < (s.pcie a).downT + fa.foDelay * 1000000 →
     Machine.exec (.failoverTimerExpire part) s = .next (s))

/-- CQ_HEADP_POLL on an enabled queue with one waiting completion and Bus Master Enable set (link up): a head word
below the ring size and other than the next index frees the entries between them, and the waiting completion is
written at the next ring entry; a word at or above the ring size frees nothing and sets HIF_QERR.HEADP.
IMOD_TIMER_EXPIRE signals vector q once the oldest unsignalled completion is IMOD_US µs old, and before that does
nothing. At a multiple of 4,096 ns not latched yet, with one enabled sampling queue in the node and no sample group
begun, SAMPLE_LATCH starts a group with the queue's 16-byte sample: the instant, the depth, HIF_QSTAT.STATE, the
delay of the head command in units of 64 ns (saturating) and the commands in flight. REG_WINDOW_TICK, once at each
multiple of 1,000 ns, lowers every regulator's USED by its budget (to 0 without a budget). PCIE_LINK_DOWN starts the
countdown of R370 at the instant of the loss; PCIE_LINK_UP brings a port up whose domain is on and which PERST does
not hold. -/
def Obligations.RingsSamplesAndWindows : Prop :=
  (∀ (s : State) (fn : Fin 64) (q : Nat) (w : BitVec 32) (e : Entry),
   flag (s.q fn.val q).cfg 0 = true → flag (s.q fn.val q).cfg 2 = false →
   canWrite s fn.val (s.fn fn.val).gen = true → (s.q fn.val q).cqWait = [e] → e.winerr = false →
   w.toNat < cqSize (s.q fn.val q) → w.toNat ≠ (s.q fn.val q).cqNext →
   (s.q fn.val q).cqNext < cqSize (s.q fn.val q) →
   ∃ t, Machine.exec (.cqHeadpPoll fn q (some w)) s = .next t ∧
     onlyQueue s t fn.val q ∧
     t.out = s.out ++ [Out.hostWrite fn.val ((s.q fn.val q).cqBase.toNat + 32 * (s.q fn.val q).cqNext) (entryBytes e
           (s.q fn.val q).cqPhase (s.q fn.val q).sqHead q) false] ∧
     (t.q fn.val q).cqWait = [] ∧
     (t.q fn.val q).cqFree + 1 = (w.toNat + cqSize (s.q fn.val q) - (s.q fn.val q).cqNext) % cqSize (s.q fn.val q) ∧
     (t.q fn.val q).cqNext = ((s.q fn.val q).cqNext + 1) % cqSize (s.q fn.val q))
  ∧ (∀ (s : State) (fn : Fin 64) (q : Nat) (w : BitVec 32),
     flag (s.q fn.val q).cfg 0 = true → (s.fn fn.val).busMaster = true → (s.q fn.val q).cqWait ≠ [] →
     cqSize (s.q fn.val q) ≤ w.toNat →
     Machine.exec (.cqHeadpPoll fn q (some w)) s = .next (s.setQ fn.val q { s.q fn.val q with
           err := (s.q fn.val q).err ||| 16 }))
  ∧ (∀ (s : State) (fn : Fin 64) (q : Nat),
     flag (s.q fn.val q).cfg 2 = true → fld (s.q fn.val q).cfg 47 40 ≠ 0 → (s.q fn.val q).unsig ≠ 0 →
     (s.q fn.val q).unsigT + fld (s.q fn.val q).cfg 47 40 * 1000 ≤ s.now → (s.pcie fn.val).up = true →
     (s.fn fn.val).busMaster = true →
     ∃ t, Machine.exec (.imodTimerExpire fn q) s = .next t ∧
       t = { s.setQ fn.val q { s.q fn.val q with unsig := 0 } with
           out := s.out ++ [Out.msix fn.val q], pmc := t.pmc } ∧
       t.pmc.pctr = bumpSel false s.pmc.psel s.pmc.pctr ((s.fn fn.val).part * 32) 32 Ev.msixSent 0xFF 1)
  ∧ (∀ (s : State) (fn : Fin 64) (q : Nat),
     s.now < (s.q fn.val q).unsigT + fld (s.q fn.val q).cfg 47 40 * 1000 →
     Machine.exec (.imodTimerExpire fn q) s = .next (s))
  ∧ (∀ (s : State) (f : Nat) (x : Fn) (q : Nat) (y : Queue),
     s.now % 4096 = 0 → s.host.lastSample ≠ some s.now → s.host.fns = [(f, x)] → x.queues = [(q, y)] →
     flag y.cfg 0 = true ∧ flag y.cfg 12 = true → y.srGroup = [] →
     Machine.exec (.sampleLatch) s = .next ({ s with
           host := { s.host with
               lastSample := some s.now,
               fns := [(f, { x with
                       queues := [(q, { y with
                               srGroup := [leBytes 8 s.now ++ leBytes 1 (arrived y).length ++ leBytes 1
                                   (if y.winerr then 2 else 1) ++ leBytes 2 ((headCmd y).elim 0
                                     (fun a => min 0xFFFF ((s.now - a.stamp) / 64))) ++ leBytes 4 ((s.host.cmds.filter
                                       fun (c : Nat × Cmd) => c.2.fn = f && c.2.q = q && c.2.en == y.enables).length
                                     + y.cqWait.length)] })] })] } }))
  ∧ (∀ (s : State),
     s.now % 1000 = 0 → s.host.lastWindow ≠ some s.now →
     Machine.exec (.regWindowTick) s = .next ({ s with
           host := { s.host with
               lastWindow := some s.now,
               adm := s.host.adm.map (fun (kv : Nat × Adm) => (kv.1, { kv.2 with
                       usedStack := kv.2.usedStack.map (fun (ru : Nat × Nat) => (ru.1, if fld kv.2.reg 47 32 = 0
                             then 0 else ru.2 - fld kv.2.reg 47 32 * 256)),
                       usedFlash := if fld kv.2.reg 31 16 = 0 then 0 else kv.2.usedFlash - fld kv.2.reg 31 16,
                       usedFabric := if fld kv.2.reg 15 0 = 0 then 0 else kv.2.usedFabric - fld kv.2.reg 15 0 * 256 })) } }))
  ∧ (∀ (s : State),
     Machine.exec (.pcieLinkDown 0) s = .next ({ s with
           host := { s.host with
               portA := { s.host.portA with
                   up := false, downT := if s.host.portA.up then s.now else s.host.portA.downT } } }))
  ∧ (∀ (s : State),
     Machine.exec (.pcieLinkDown 1) s = .next ({ s with
           host := { s.host with
               portB := { s.host.portB with
                   up := false, downT := if s.host.portB.up then s.now else s.host.portB.downT } } }))
  ∧ (∀ (s : State),
     bitOf s.pkg.pwr.domOn 20 = true → s.host.portA.perst = false →
     Machine.exec (.pcieLinkUp 0) s = .next ({ s with
           host := { s.host with portA := { s.host.portA with up := true } } }))
  ∧ (∀ (s : State),
     bitOf s.pkg.pwr.domOn 21 = true → s.host.portB.perst = false →
     Machine.exec (.pcieLinkUp 1) s = .next ({ s with
           host := { s.host with portB := { s.host.portB with up := true } } }))

/-- At a multiple of 1,024 ns not ticked yet, every partition's TOK becomes min(TOK + RATE, BURST × 65,536) with the
settings in force, and ADM_TOK shows it; a change written strictly before the tick applies at it: NEXT refills at the
new RATE and clamps to the new burst, FULL sets TOK to BURST × 65,536 and EMPTY to 0. A change written at the tick's
instant waits. The three commands that write ADM_BKT from a function of the owner partition show MODE, BURST and RATE
at once and leave the change pending with the instant now; from any other function they have no effect. On a
Search-role member whose epochs run, with every head command known and from an ACTIVE function, no head expired, at
least 10 ns after the last decision, and some partition eligible: the decision consumes one head command. No eligible
head has a lower tag F_p, or the same tag and a lower partition number; among the heads of its partition none is
older, or as old with a lower node queue number. The partition gives up one token when it is shaped, L_p and V become
F_p, SQ_HEAD passes the command's lines, and the command's bytes and stamp are kept under the next command number. A
head whose deadline has been reached is consumed with TIMEOUT by HEAD_DEADLINE_EXPIRE, without a token or a tag. -/
def Obligations.TokensAndAdmissionOrder : Prop :=
  (∀ (s : State) (p : Nat) (a : Adm),
   s.now % 1024 = 0 → s.host.lastRefill ≠ some s.now → tget? s.host.adm p = some a →
   ∃ t, Machine.exec (.tokenRefill) s = .next t ∧
     t = { s with host := { s.host with lastRefill := some s.now, adm := t.host.adm } } ∧
     (∃ b, tget? t.host.adm p = some b ∧
         b = { a with rate := b.rate, burst := b.burst, pend := b.pend, tok := b.tok, tokShown := b.tok } ∧
         (a.pend = none →
             b.rate = a.rate ∧ b.burst = a.burst ∧ b.pend = none ∧ b.tok = min (a.tok + a.rate) (a.burst * 65536)) ∧
         (∀ c, a.pend = some c → s.now ≤ c.time →
             b.rate = a.rate ∧ b.burst = a.burst ∧ b.pend = some c ∧ b.tok = min (a.tok + a.rate) (a.burst * 65536)) ∧
         (∀ c, a.pend = some c → c.time < s.now →
             b.rate = c.rate ∧ b.burst = c.burst ∧ b.pend = none ∧
             (c.mode = 0 → b.tok = min (a.tok + c.rate) (c.burst * 65536)) ∧
             (c.mode = 1 → b.tok = c.burst * 65536) ∧ (c.mode = 2 → b.tok = 0))))
  ∧ (∀ (s : State) (fn : Fin 64) (part : Fin 32) (rate burst : Nat),
     (s.fn fn.val).bound = true → (s.fn fn.val).owner = true → rate < 2 ^ 32 → burst < 2 ^ 24 →
     Machine.exec (.admBktNext fn part rate burst) s = .next (s.setAdm part.val { s.adm part.val with
           bkt := BitVec.ofNat 64 (rate + burst * 2 ^ 32 + 0 * 2 ^ 62), pend := some ⟨0, rate, burst, s.now⟩ }))
  ∧ (∀ (s : State) (fn : Fin 64) (part : Fin 32) (rate burst : Nat),
     (s.fn fn.val).bound = true → (s.fn fn.val).owner = true → rate < 2 ^ 32 → burst < 2 ^ 24 →
     Machine.exec (.admBktFull fn part rate burst) s = .next (s.setAdm part.val { s.adm part.val with
           bkt := BitVec.ofNat 64 (rate + burst * 2 ^ 32 + 1 * 2 ^ 62), pend := some ⟨1, rate, burst, s.now⟩ }))
  ∧ (∀ (s : State) (fn : Fin 64) (part : Fin 32) (rate burst : Nat),
     (s.fn fn.val).bound = true → (s.fn fn.val).owner = true → rate < 2 ^ 32 → burst < 2 ^ 24 →
     Machine.exec (.admBktEmpty fn part rate burst) s = .next (s.setAdm part.val { s.adm part.val with
           bkt := BitVec.ofNat 64 (rate + burst * 2 ^ 32 + 2 * 2 ^ 62), pend := some ⟨2, rate, burst, s.now⟩ }))
  ∧ (∀ (s : State) (fn : Fin 64) (part : Fin 32) (rate burst : Nat),
     (s.fn fn.val).bound = false ∨ (s.fn fn.val).owner = false →
     Machine.exec (.admBktNext fn part rate burst) s = .next (s))
  ∧ (∀ (s : State) (fn : Fin 64) (part : Fin 32) (rate burst : Nat),
     (s.fn fn.val).bound = false ∨ (s.fn fn.val).owner = false →
     Machine.exec (.admBktFull fn part rate burst) s = .next (s))
  ∧ (∀ (s : State) (fn : Fin 64) (part : Fin 32) (rate burst : Nat),
     (s.fn fn.val).bound = false ∨ (s.fn fn.val).owner = false →
     Machine.exec (.admBktEmpty fn part rate burst) s = .next (s))
  ∧ (∀ (s : State),
     s.mbr.st = .member → s.pkg.sec.epochs = true → s.fab.role = 0 →
     (∀ t0, s.host.lastDec = some t0 → t0 + 10 ≤ s.now) →
     (∀ h ∈ heads s, headExpired s h = false ∧ (s.fn h.fn).active = true ∧
         knownCode (getLE (cmdBytes (s.q h.fn h.q) h.cmd) 0 1) = true) →
     (∃ h ∈ heads s, hasToken (s.adm h.part) = true) →
     ∃ t, Machine.exec (.admissionDecision) s = .next t ∧
       (∃ h ∈ heads s, hasToken (s.adm h.part) = true ∧
           (∀ g ∈ heads s, hasToken (s.adm g.part) = true →
               fairTag s h.part < fairTag s g.part ∨ (fairTag s h.part = fairTag s g.part ∧ h.part ≤ g.part)) ∧
           (∀ g ∈ heads s, g.part = h.part →
               h.cmd.stamp < g.cmd.stamp ∨ (h.cmd.stamp = g.cmd.stamp ∧ h.nodeQ ≤ g.nodeQ)) ∧
           t.host.tagV = fairTag s h.part ∧ (t.adm h.part).tagL = fairTag s h.part ∧
           (t.adm h.part).tok = (if (s.adm h.part).burst = 0 then (s.adm h.part).tok else (s.adm h.part).tok - 65536) ∧
           t.host.lastDec = some s.now ∧ t.host.nextCid = s.host.nextCid + 1 ∧
           (t.q h.fn h.q).sqHead = ((s.q h.fn h.q).sqHead + h.cmd.lines) % 128 ∧
           tget? t.host.cmds s.host.nextCid = some { fn := h.fn, q := h.q, en := (s.q h.fn h.q).enables,
                                                     gen := (s.fn h.fn).gen, part := h.part, slot := h.cmd.slot,
                                                     bytes := cmdBytes (s.q h.fn h.q) h.cmd, stamp := h.cmd.stamp,
                                                     phase := .admitted }) ∧
       t = { s with
           host := { s.host with
               fns := t.host.fns, adm := t.host.adm, tagV := t.host.tagV, lastDec := t.host.lastDec,
               cmds := t.host.cmds, nextCid := t.host.nextCid }, pmc := t.pmc })
  ∧ (∀ (s : State) (fn : Fin 64) (q : Nat) (h : Head),
     (heads s).find? (fun g => g.fn = fn.val && g.q = q) = some h → headExpired s h = true →
     flag (s.q fn.val q).cfg 0 = true → flag (s.q fn.val q).cfg 2 = false →
     canWrite s fn.val (s.fn fn.val).gen = true → (s.q fn.val q).cqWait = [] → (s.q fn.val q).cqFree ≠ 0 →
     ∃ t, Machine.exec (.headDeadlineExpire fn q) s = .next t ∧
       t.out = s.out ++ [Out.hostWrite fn.val ((s.q fn.val q).cqBase.toNat + 32 * (s.q fn.val q).cqNext) (entryBytes
             { cmdId := getLE (cmdBytes (s.q fn.val q) h.cmd) 4 4, status := 0x0201,
               cmd := getLE (cmdBytes (s.q fn.val q) h.cmd) 0 1, stamp := h.cmd.stamp } (s.q fn.val q).cqPhase
             (((s.q fn.val q).sqHead + h.cmd.lines) % 128) q) false] ∧
       (t.q fn.val q).sqHead = ((s.q fn.val q).sqHead + h.cmd.lines) % 128 ∧
       t = { s with
           host := { s.host with fns := t.host.fns, cmds := t.host.cmds, nextCid := s.host.nextCid + 1 },
           out := t.out, pmc := t.pmc })
  ∧ (∀ (s : State) (fn : Fin 64) (q : Nat),
     (∀ h ∈ heads s, h.fn = fn.val → h.q = q → headExpired s h = false) →
     Machine.exec (.headDeadlineExpire fn q) s = .next (s))

/-- A consumed NOP with no reserved bit set ends with status OK: the command leaves the node and its 32-byte entry is
written at the next ring entry, with the queue's PHASE and SQ_HEAD, the command's CMD_ID, code and ingress stamp, and
no value. With a reserved byte set it ends with ADMIT_REFUSED, AUX the FORMAT bit. When its queue has been disabled
or its function reset since, it ends without an entry and counts PEEL_DROP. For an interval within one tile, checks
passed and the STACK regulator unlimited. TIER_READ of a tile HOME in a stack that is no result tile, has no move
under way and no uncorrectable line writes exactly the stored bytes to the host address and then a completion OK; no
byte of the tier space changes. TIER_WRITE of LEN bytes to such a tile stores them there, leaves every other byte,
and ends OK. TIER_WRITE to an UNMAPPED tile first gives it the lowest free frame of the lowest-numbered stack that
has one. A TIER_READ of an UNMAPPED tile brings zeros. -/
def Obligations.CommandsEndAndMoveBytes : Prop :=
  (∀ (s : State) (cid : Nat) (c : Cmd),
   cmdOf s cid 0x01 = some c → c.flags = 0 → c.version = 0x0200 → allZero (c.bytes.drop 8) = true → ringReady s c →
   (s.q c.fn c.q).cqNext < cqSize (s.q c.fn c.q) →
   ∃ t, Machine.exec (.nop cid) s = .next t ∧
     t.out = s.out ++ [completion s c 0x0000 0 0] ∧
     t.host.cmds = terase s.host.cmds cid ∧
     t = { s with host := { s.host with fns := t.host.fns, cmds := t.host.cmds }, out := t.out } ∧
     t.fn c.fn = { s.fn c.fn with queues := (t.fn c.fn).queues } ∧
     t.q c.fn c.q = { s.q c.fn c.q with
         cqNext := ((s.q c.fn c.q).cqNext + 1) % cqSize (s.q c.fn c.q),
         cqPhase := (if (s.q c.fn c.q).cqNext + 1 = cqSize (s.q c.fn c.q) then !(s.q c.fn c.q).cqPhase else
             (s.q c.fn c.q).cqPhase), cqFree := (s.q c.fn c.q).cqFree - 1 })
  ∧ (∀ (s : State) (cid : Nat) (c : Cmd),
     cmdOf s cid 0x01 = some c → c.version = 0x0200 → c.flags ≠ 0 ∨ allZero (c.bytes.drop 8) = false →
     ringReady s c →
     ∃ t, Machine.exec (.nop cid) s = .next t ∧
       t.out = s.out ++ [completion s c 0x0101 1 0] ∧
       t.host.cmds = terase s.host.cmds cid)
  ∧ (∀ (s : State) (cid : Nat) (c : Cmd),
     cmdOf s cid 0x01 = some c → c.flags = 0 → c.version = 0x0200 → allZero (c.bytes.drop 8) = true →
     (s.fn c.fn).gen ≠ c.gen ∨ (s.q c.fn c.q).enables ≠ c.en ∨ flag (s.q c.fn c.q).cfg 0 = false →
     Machine.exec (.nop cid) s = .next ({ s with
           host.cmds := terase s.host.cmds cid,
           pmc.pctr := bumpSel false s.pmc.psel s.pmc.pctr (c.part * 32) 32 Ev.peelDrop 0xFF 1 }))
  ∧ (∀ (s : State) (cid loc : Nat) (c : Cmd),
     cmdOf s cid 0x38 = some c → (tierCmdCheck s c).1 = 0 → 0 < getLE c.bytes 0x18 4 →
     getLE c.bytes 0x10 8 % 65536 + getLE c.bytes 0x18 4 ≤ 65536 → fld (s.adm c.part).reg 47 32 = 0 →
     s.home (getLE c.bytes 0x10 8 / 65536) = ⟨.home, 1, loc⟩ →
     tget? s.work.resTiles (getLE c.bytes 0x10 8 / 65536) = none →
     tget? s.tier.moves (getLE c.bytes 0x10 8 / 65536) = none →
     intervalPoisoned s (getLE c.bytes 0x10 8 / 65536) (getLE c.bytes 0x10 8 % 65536) (getLE c.bytes 0x18 4) = false →
     s.err.inj = [] → ringReady s c →
     ∃ t, Machine.exec (.tierRead cid) s = .next t ∧
       t.out = s.out ++ [Out.hostWrite c.fn (getLE c.bytes 0x08 8) (mreadN s.tier.mem (getLE c.bytes 0x10 8)
             (getLE c.bytes 0x18 4)) ((s.fn c.fn).roEn && (s.fn c.fn).ero), completion s c 0x0000 0 0] ∧
       t = { s with
           host := { s.host with
               fns := t.host.fns, cmds := terase s.host.cmds cid, adm := t.host.adm, held := t.host.held },
           tier := { s.tier with frames := t.tier.frames, ageClock := t.tier.ageClock }, out := t.out,
           pmc := t.pmc })
  ∧ (∀ (s : State) (cid : Nat) (c : Cmd),
     cmdOf s cid 0x38 = some c → (tierCmdCheck s c).1 = 0 → 0 < getLE c.bytes 0x18 4 →
     getLE c.bytes 0x10 8 % 65536 + getLE c.bytes 0x18 4 ≤ 65536 → fld (s.adm c.part).reg 47 32 = 0 →
     s.home (getLE c.bytes 0x10 8 / 65536) = {} → tget? s.work.resTiles (getLE c.bytes 0x10 8 / 65536) = none →
     tget? s.tier.moves (getLE c.bytes 0x10 8 / 65536) = none → s.err.inj = [] → ringReady s c →
     ∃ t, Machine.exec (.tierRead cid) s = .next t ∧
       t.out = s.out ++ [Out.hostWrite c.fn (getLE c.bytes 0x08 8) (List.replicate (getLE c.bytes 0x18 4) 0)
           ((s.fn c.fn).roEn && (s.fn c.fn).ero), completion s c 0x0000 0 0] ∧
       t.tier = s.tier)
  ∧ (∀ (s : State) (cid loc : Nat) (c : Cmd) (bytes : List Byte),
     cmdOf s cid 0x39 = some c → (tierCmdCheck s c).1 = 0 → 0 < getLE c.bytes 0x18 4 →
     getLE c.bytes 0x10 8 % 65536 + getLE c.bytes 0x18 4 ≤ 65536 → fld (s.adm c.part).reg 47 32 = 0 →
     s.home (getLE c.bytes 0x10 8 / 65536) = ⟨.home, 1, loc⟩ →
     tget? s.work.resTiles (getLE c.bytes 0x10 8 / 65536) = none → bytes.length = getLE c.bytes 0x18 4 →
     memWf s.tier.mem = true → ringReady s c →
     ∃ t, Machine.exec (.tierWrite cid (.ok bytes)) s = .next t ∧
       t.out = s.out ++ [completion s c 0x0000 0 0] ∧
       storesAt s.tier.mem t.tier.mem (getLE c.bytes 0x10 8) bytes ∧
       t.tier.home = s.tier.home ∧
       t = { s with
           host := { s.host with
               fns := t.host.fns, cmds := terase s.host.cmds cid, adm := t.host.adm, held := t.host.held },
           tier := { s.tier with
               mem := t.tier.mem, pois64 := t.tier.pois64, pois256 := t.tier.pois256, dirty := t.tier.dirty,
               frames := t.tier.frames, ageClock := t.tier.ageClock, regions := t.tier.regions }, out := t.out,
           pmc := t.pmc })
  ∧ (∀ (s : State) (cid k : Nat) (c : Cmd) (bytes : List Byte),
     cmdOf s cid 0x39 = some c → (tierCmdCheck s c).1 = 0 → 0 < getLE c.bytes 0x18 4 →
     getLE c.bytes 0x10 8 % 65536 + getLE c.bytes 0x18 4 ≤ 65536 → fld (s.adm c.part).reg 47 32 = 0 →
     s.home (getLE c.bytes 0x10 8 / 65536) = {} → tget? s.work.resTiles (getLE c.bytes 0x10 8 / 65536) = none →
     freeAnyStack s = some k → k < 2 ^ 23 → bytes.length = getLE c.bytes 0x18 4 → memWf s.tier.mem = true →
     ringReady s c →
     ∃ t, Machine.exec (.tierWrite cid (.ok bytes)) s = .next t ∧
       t.out = s.out ++ [completion s c 0x0000 0 0] ∧
       storesAt s.tier.mem t.tier.mem (getLE c.bytes 0x10 8) bytes ∧
       t.home (getLE c.bytes 0x10 8 / 65536) = ⟨.home, 1, stackLoc k⟩ ∧
       (∀ u, u ≠ (getLE c.bytes 0x10 8 / 65536) → t.home u = s.home u) ∧
       (tget? t.tier.frames k).map (·.tile) = some (getLE c.bytes 0x10 8 / 65536))

/-- INDEX_OPEN of a well-formed descriptor (R104) whose ranges lie in the partition's range and hold no sealed list
tile registers the index under the lowest free number, with the partition, the descriptor's 128 bytes, the codebook's
copy and the slots its record tiles hold, and ends OK with that number; TABLE_OPEN registers the table's 64-byte
descriptor the same way. INDEX_CLOSE and TABLE_CLOSE of a number that the partition has registered and that no plan
of it names shut it for everything consumed later and end OK. Nothing else changes but the completion. -/
def Obligations.RegistrationsOpenAndClose : Prop :=
  (∀ (s : State) (cid i : Nat) (c : Cmd),
   cmdOf s cid 0x18 = some c → c.flags = 0 → c.version = 0x0200 → reservedZero c.bytes 8 [(8, 4)] = true →
   getLE c.bytes 8 4 < tileCount → inPrange s c.part (getLE c.bytes 8 4) 1 = true → freeIndex s = some i →
   (let r := readSpan s (getLE c.bytes 8 4 * 65536) 128
    r.held = false ∧ r.poisoned = false ∧ idxBad r.bytes = false ∧ getLE r.bytes 0 2 = 0x0200 ∧
      (∀ x ∈ idxRanges s (idxD r.bytes), inPrange s c.part x.1 x.2 = true) ∧ (idxD r.bytes).ivf = false ∧
      (idxD r.bytes).flat = false ∧
      (readSpan s ((idxD r.bytes).cbTile * 65536) ((idxD r.bytes).dims * 64)).held = false ∧
      (readSpan s ((idxD r.bytes).cbTile * 65536) ((idxD r.bytes).dims * 64)).poisoned = false) →
   Machine.exec (.indexOpen cid) s = .next (let r := readSpan s (getLE c.bytes 8 4 * 65536) 128
                                            endCmd { s with
                                                work.indexes := tput s.work.indexes i
                                                  { part := c.part, desc := r.bytes,
                                                    cb := (readSpan s ((idxD r.bytes).cbTile * 65536)
                                                        ((idxD r.bytes).dims * 64)).bytes,
                                                    used := usedSlots s (idxD r.bytes) } } cid 0x0000 0 i))
  ∧ (∀ (s : State) (cid i : Nat) (c : Cmd),
     cmdOf s cid 0x1A = some c → c.flags = 0 → c.version = 0x0200 → reservedZero c.bytes 8 [(8, 4)] = true →
     getLE c.bytes 8 4 < tileCount → inPrange s c.part (getLE c.bytes 8 4) 1 = true → freeTable s = some i →
     (let r := readSpan s (getLE c.bytes 8 4 * 65536) 64
      r.held = false ∧ r.poisoned = false ∧ tabBad r.bytes = false ∧ getLE r.bytes 0 2 = 0x0200 ∧
        (∀ x ∈ tabRanges (tabD r.bytes), inPrange s c.part x.1 x.2 = true)) →
     Machine.exec (.tableOpen cid) s = .next (endCmd { s with
           work.tables := tput s.work.tables i { part := c.part,
                                                 desc := (readSpan s (getLE c.bytes 8 4 * 65536) 64).bytes } } cid
         0x0000 0 i))
  ∧ (∀ (s : State) (cid : Nat) (c : Cmd) (x : Index),
     cmdOf s cid 0x19 = some c → c.flags = 0 → c.version = 0x0200 → reservedZero c.bytes 8 [(8, 2)] = true →
     getLE c.bytes 8 2 < 4096 → tget? s.work.indexes (getLE c.bytes 8 2) = some x → x.part = c.part →
     x.shut = none → (∀ p ∈ plansOf s c.part, planNamesIndex p (getLE c.bytes 8 2) = false) →
     Machine.exec (.indexClose cid) s = .next (endCmd { s with
           work.indexes := tput s.work.indexes (getLE c.bytes 8 2) { x with shut := some s.work.nextInv } } cid
         0x0000))
  ∧ (∀ (s : State) (cid : Nat) (c : Cmd) (x : Table),
     cmdOf s cid 0x1B = some c → c.flags = 0 → c.version = 0x0200 → reservedZero c.bytes 8 [(8, 2)] = true →
     getLE c.bytes 8 2 < 1024 → tget? s.work.tables (getLE c.bytes 8 2) = some x → x.part = c.part → x.shut = none →
     (∀ p ∈ plansOf s c.part, planNamesTable p (getLE c.bytes 8 2) = false) →
     Machine.exec (.tableClose cid) s = .next (endCmd { s with
           work.tables := tput s.work.tables (getLE c.bytes 8 2) { x with shut := some s.work.nextInv } } cid 0x0000))
  ∧ (∀ (s : State) (cid : Nat) (c : Cmd),
     cmdOf s cid 0x40 = some c → c.flags = 0 → c.version = 0x0200 →
     reservedZero c.bytes 8 [(8, 8), (16, 1)] = true → (s.fn c.fn).owner = true → getLE c.bytes 16 1 ≤ 2 →
     bitOf s.fab.allowed (getLE c.bytes 16 1) = true → s.epo.closed < getLE c.bytes 8 8 → s.fab.shift = none →
     s.work.plans = [] ∧ s.work.indexes = [] ∧ s.work.tables = [] ∧ s.tier.home = [] →
     Machine.exec (.roleSet cid) s = .next ({ s with
           host.cmds := tupd s.host.cmds cid (fun x => { x with phase := .running }),
           fab.shift := some (getLE c.bytes 16 1, getLE c.bytes 8 8, cid) }))
  ∧ (∀ (s : State) (cid : Nat) (c : Cmd),
     cmdOf s cid 0x40 = some c → c.flags = 0 → c.version = 0x0200 →
     reservedZero c.bytes 8 [(8, 8), (16, 1)] = true → (s.fn c.fn).owner = false → getLE c.bytes 16 1 ≤ 2 →
     bitOf s.fab.allowed (getLE c.bytes 16 1) = true → s.epo.closed < getLE c.bytes 8 8 → s.fab.shift = none →
     s.work.plans = [] ∧ s.work.indexes = [] ∧ s.work.tables = [] ∧ s.tier.home = [] →
     Machine.exec (.roleSet cid) s = .next (endCmd s cid 0x0101 8))

/-- An unsigned single-node plan that the partition may load, well formed, of an accepted version and without a
reason of R88 against it, takes the lowest free slot in state LOADING with the partition, the binary's content and
the command's seed, and every cluster of every role is given to it; the command runs on and nothing is sent. Outside
Search role the load ends PLAN_REFUSED with reason ROLE alone, and a malformed binary with FORMAT and whatever
VERSION gives; the refusal shows in TOP_PLAN_REFUSE. PLAN_SIGNATURE_VERIFIED reserves the plan's resources in the
same way when the signature holds, and otherwise frees the slot and refuses with SIGNATURE. ROLE_LOAD_DONE, with
every pin in place and no cluster still clearing, makes the plan ADMITTED and every cluster of it RUNNING with its
role's instruction lists, and completes the load with VALUE the slot. PLAN_UNLOAD of a slot of the partition that is
not unloading yet takes the command up and moves an ADMITTED plan to UNLOADING. PLAN_RELEASE of an unloading plan
without invocations or queries frees the slot, makes its clusters IDLE with empty instruction stores, frees its
contexts and descriptors and completes the unloads with OK. -/
def Obligations.PlansLoadAndUnload : Prop :=
  (∀ (s : State) (cid i : Nat) (c : Cmd) (b0 : List Byte) (others : BitVec 32),
   cmdOf s cid 0x10 = some c → s.fab.role = 0 → headReasons c [(8, 8), (0x10, 4), (0x18, 8)] = 0 →
   getLE c.bytes 8 8 % 64 = 0 → (s.fn c.fn).busMaster = true →
   planFormatBad (b0.take (getLE c.bytes 0x10 4)) (getLE c.bytes 0x10 4) = false →
   (let p := planBin (b0.take (getLE c.bytes 0x10 4))
    planVersionBad (b0.take (getLE c.bytes 0x10 4)) (some p) = false ∧ p.multi = false ∧
      sigBad s c.part p = (false, none) ∧ binBits p = 0 ∧ resourceBits (runCmd s cid) c.part p = 0) →
   earlierLoad s cid c = false → tfreeBelow s.work.plans 256 = some i →
   ∃ t, Machine.exec (.planLoad cid (.ok b0) others) s = .next t ∧
     (∃ y, tget? t.work.plans i = some y ∧ y.state = .loading ∧ y.part = c.part ∧
         y.bin = planBin (b0.take (getLE c.bytes 0x10 4)) ∧ y.seed = getLE c.bytes 0x18 8 ∧ y.loadCid = some cid ∧
         y.sigWait = false) ∧
     (∀ r ∈ (planBin (b0.take (getLE c.bytes 0x10 4))).roles, ∀ k ∈ r.clusters, (t.cl k).plan = some i ∧
         (t.cl k).role = r.role ∧ (t.cl k).part = c.part ∧ ((t.cl k).st = .loading ∨ (t.cl k).st = .clearing)) ∧
     t.host = { s.host with cmds := tupd s.host.cmds cid (fun x => { x with phase := .running }) } ∧
       t.out = s.out ∧ t.flash = s.flash ∧ t.mbr = s.mbr ∧ t.pkg = s.pkg ∧ t.err = s.err)
  ∧ (∀ (s : State) (cid : Nat) (c : Cmd) (data : HostRead) (others : BitVec 32),
     cmdOf s cid 0x10 = some c → s.fab.role ≠ 0 →
     Machine.exec (.planLoad cid data others) s = .next (endCmd { s with
           work.planRefuse := tput s.work.planRefuse c.part 0x0002_0000 } cid 0x0102 0x0002_0000))
  ∧ (∀ (s : State) (cid : Nat) (c : Cmd) (b0 : List Byte) (others : BitVec 32),
     cmdOf s cid 0x10 = some c → s.fab.role = 0 → headReasons c [(8, 8), (0x10, 4), (0x18, 8)] = 0 →
     getLE c.bytes 8 8 % 64 = 0 → (s.fn c.fn).busMaster = true →
     planFormatBad (b0.take (getLE c.bytes 0x10 4)) (getLE c.bytes 0x10 4) = true →
     planVersionBad (b0.take (getLE c.bytes 0x10 4)) none = false →
     Machine.exec (.planLoad cid (.ok b0) others) s = .next (endCmd { s with
           work.planRefuse := tput s.work.planRefuse c.part (BitVec.ofNat 64 (4 + getLE
                 (b0.take (getLE c.bytes 0x10 4)) 0x0C 4 % 2 ^ 32 * 2 ^ 32)) } cid 0x0102 4))
  ∧ (∀ (s : State) (slot : Fin 256) (cid : Nat) (c : Cmd) (x : Plan),
     tget? s.work.plans slot.val = some x → x.loadCid = some cid → x.sigWait = true → x.unloadCids = [] →
     tget? s.host.cmds cid = some c → earlierLoad s cid c = false → binBits x.bin = 0 →
     resourceBits s x.part x.bin = 0 → x.others = 0 →
     ∃ t, Machine.exec (.planSignatureVerified slot) s = .next t ∧
       (∀ key, sigBad s x.part x.bin = (false, some key) → sigOk key x.bin = true →
           ∃ y, tget? t.work.plans slot.val = some y ∧ y.state = x.state ∧ y.bin = x.bin ∧ y.loadCid = some cid ∧
           y.sigWait = false ∧ t.out = s.out ∧ ∀ r ∈ x.bin.roles, ∀ k ∈ r.clusters, (t.cl k).plan = some slot.val ∧
           (t.cl k).role = r.role) ∧
       (((sigBad s x.part x.bin).1 = true ∨ ∃ key, sigBad s x.part x.bin = (false, some key) ∧
             sigOk key x.bin = false) →
           t = endCmd { s with
             work.plans := terase s.work.plans slot.val,
             work.planRefuse := tput s.work.planRefuse x.part (BitVec.ofNat 64 (8 + x.bin.tag % 2 ^ 32 * 2 ^ 32)) }
           cid 0x0102 8))
  ∧ (∀ (s : State) (slot : Fin 256) (cid : Nat) (c : Cmd) (x : Plan),
     tget? s.work.plans slot.val = some x → x.state = .loading → x.sigWait = false → x.unloadCids = [] →
     x.loadCid = some cid → (∀ r ∈ x.bin.roles, r.clusters ≠ []) → pinsReady s x = true →
     (∀ kv ∈ s.work.clusters, kv.2.plan = some slot.val → (s.cl kv.1).st ≠ .clearing) →
     tget? s.host.cmds cid = some c → ringReady s c →
     ∃ t, Machine.exec (.roleLoadDone slot) s = .next t ∧
       tget? t.work.plans slot.val = some { x with state := .admitted, loadCid := none } ∧
       (∀ k, (s.cl k).plan = some slot.val → (s.cl k).st = .loading →
           t.cl k = { s.cl k with
             st := .running, served := some (s.cl k).part,
             istore := ((x.bin.roles.find? (fun r => r.role = (s.cl k).role)).map (·.lists)).getD [] }) ∧
       t.out = s.out ++ [completion s c 0x0000 0 slot.val] ∧
       t = { s with
           host := { s.host with fns := t.host.fns, cmds := terase s.host.cmds cid },
           work := { s.work with plans := t.work.plans, clusters := t.work.clusters }, out := t.out })
  ∧ (∀ (s : State) (cid : Nat) (c : Cmd) (x : Plan),
     cmdOf s cid 0x11 = some c → headReasons c [(8, 1)] = 0 → tget? s.work.plans (getLE c.bytes 8 1) = some x →
     x.part = c.part → x.state ≠ .unloading → x.unloadCids = [] →
     ∃ t, Machine.exec (.planUnload cid) s = .next t ∧
       (∃ y, tget? t.work.plans (getLE c.bytes 8 1) = some y ∧
           y = { x with unloadCids := [cid], state := (if x.state = .admitted then .unloading else x.state) }) ∧
       t = { s with
           host := { s.host with cmds := tupd s.host.cmds cid (fun k => { k with phase := .running }) },
           work := { s.work with plans := t.work.plans } } ∧
       (∀ k, k ≠ getLE c.bytes 8 1 → tget? t.work.plans k = tget? s.work.plans k))
  ∧ (∀ (s : State) (slot : Fin 256) (x : Plan),
     tget? s.work.plans slot.val = some x → x.state = .unloading → (∀ kv ∈ s.work.invs, kv.2.plan ≠ slot.val) →
     queriesOf s slot.val = [] → x.pins = [] →
     ∃ t, Machine.exec (.planRelease slot) s = .next t ∧
       t.work.plans = terase s.work.plans slot.val ∧
       (∀ k, (s.cl k).plan = some slot.val → (t.cl k).st = .idle ∧ (t.cl k).plan = none ∧ (t.cl k).istore = []) ∧
       (∀ k, (s.cl k).plan ≠ some slot.val → t.cl k = s.cl k) ∧
       (∀ kv ∈ t.epo.ctxOwner, kv.2 ≠ slot.val) ∧
       (∀ kv ∈ t.fab.descs, kv.2.1 ≠ slot.val) ∧
       (∃ u, u.work = t.work ∧ u.tier = s.tier ∧ u.epo = t.epo ∧ u.fab = t.fab ∧ u.host = s.host ∧ u.out = s.out ∧
           u.pmc = s.pmc ∧ u.now = s.now ∧ t = x.unloadCids.foldl (fun v k => endCmd v k 0x0000) u))

/-- INVOKE of a role of an admitted plan of the partition takes the next STEP of the slot (or the one given, which
does not count on), reads the 16 invocation words, replaces word 15 by the ingress stamp when STAMP_W15 is set, and
leaves an invocation on its way to its role's queue, or held until its start time when the plan uses START_AT. The
barrier releases a held invocation once time has reached T and every node of the plan has armed; by T + START_GRACE
without a release it ends with TIMEOUT and VALUE its step. An invocation that waits for a model slot ends with
TIMEOUT at its deadline, and not before. -/
def Obligations.InvocationsStartAndEnd : Prop :=
  (∀ (s : State) (cid : Nat) (c : Cmd) (x : Plan),
   cmdOf s cid 0x12 = some c → c.flags < 2 → c.version = 0x0200 →
   reservedZero (c.bytes.take 128) 8 [(8, 8), (0x10, 8), (0x18, 4), (0x1C, 4), (0x20, 2)] = true →
   getLE c.bytes 8 8 % 64 = 0 → tget? s.work.plans (getLE c.bytes 0x20 1) = some x → x.part = c.part →
   x.state = .admitted → (∃ r ∈ x.bin.roles, r.role = getLE c.bytes 0x21 1) →
   ∃ t, Machine.exec (.invoke cid) s = .next t ∧
     (let given := getLE c.bytes 0x10 8
      let step := if given = 2 ^ 64 - 1 then (x.step + 1) % 2 ^ 64 else given
      let ws := (List.range 16).map (fun i => getLE c.bytes (128 + 8 * i) 8)
      t = { s with
          host := { s.host with cmds := tupd s.host.cmds cid (fun k => { k with phase := .running }) },
          work := { s.work with
              plans := tput s.work.plans (getLE c.bytes 0x20 1) { x with
                  step := (if given = 2 ^ 64 - 1 then step else x.step), shown := step },
              nextInv := s.work.nextInv + 1,
              invs := tput s.work.invs s.work.nextInv { plan := getLE c.bytes 0x20 1,
                                                        role := getLE c.bytes 0x21 1, part := c.part,
                                                        words := (if c.flags = 1 then ws.set 15 c.stamp else ws),
                                                        cid := some cid, stamp := c.stamp, step := step,
                                                        deadline := (if getLE c.bytes 0x1C 4 = 0 then none else some
                                                            (c.stamp + getLE c.bytes 0x1C 4)), fn := c.fn,
                                                        outAddr := getLE c.bytes 8 8,
                                                        outLen := getLE c.bytes 0x18 4,
                                                        state := (if x.bin.startAt then .held else .arriving),
                                                        startT :=
                                                          (if x.bin.startAt then some (ws.headD 0) else none) } } }))
  ∧ (∀ (s : State) (i t0 : Nat) (armed : W64) (v : Inv),
     tget? s.work.invs i = some v → v.startT = some t0 → v.state = .held → t0 ≤ s.now →
     (tgetD s.work.plans v.plan {}).bin.nodes ≤ popCount 64 (armed.toNat ||| 2 ^ s.fab.node) →
     Machine.exec (.startAtBarrierRelease i armed) s = .next ({ s with
           work.invs := tput s.work.invs i { v with state := .arriving, startT := none } }))
  ∧ (∀ (s : State) (i t0 : Nat) (armed : W64) (v : Inv),
     tget? s.work.invs i = some v → v.startT = some t0 →
     s.now < t0 ∨ popCount 64 (armed.toNat ||| 2 ^ s.fab.node) < (tgetD s.work.plans v.plan {}).bin.nodes →
     Machine.exec (.startAtBarrierRelease i armed) s = .next (s))
  ∧ (∀ (s : State) (i t0 cid : Nat) (v : Inv),
     tget? s.work.invs i = some v → v.startT = some t0 → v.state = .held → v.cid = some cid →
     t0 + (tgetD s.work.plans v.plan {}).bin.grace * 1000 ≤ s.now →
     Machine.exec (.startGraceExpire i) s = .next (endCmd { s with
           work.invs := terase s.work.invs i,
           work.models := s.work.models.map (fun (kv : Nat × Model) =>
               (kv.1, { kv.2 with users := kv.2.users.filter (· != i) })) } cid 0x0201 0 v.step
         ((tgetD s.work.plans v.plan {}).bin.ndReach != 0)))
  ∧ (∀ (s : State) (i t0 : Nat) (v : Inv),
     tget? s.work.invs i = some v → v.startT = some t0 →
     s.now < t0 + (tgetD s.work.plans v.plan {}).bin.grace * 1000 →
     Machine.exec (.startGraceExpire i) s = .next (s))
  ∧ (∀ (s : State) (i d cid : Nat) (v : Inv),
     tget? s.work.invs i = some v → v.deadline = some d → d ≤ s.now → v.waitModel ≠ none → v.qid = none →
     v.cid = some cid → v.left = [] →
     Machine.exec (.invokeDeadlineExpire i) s = .next (endCmd { s with
           work.invs := terase s.work.invs i,
           work.models := s.work.models.map (fun (kv : Nat × Model) =>
               (kv.1, { kv.2 with users := kv.2.users.filter (· != i) })) } cid 0x0201 0 v.step
         ((tgetD s.work.plans v.plan {}).bin.ndReach != 0)))
  ∧ (∀ (s : State) (i d : Nat) (v : Inv),
     tget? s.work.invs i = some v → v.deadline = some d → s.now < d →
     Machine.exec (.invokeDeadlineExpire i) s = .next (s))

/-- A QUERY without a reason against it (R111) makes a query with the command's descriptor, its ingress stamp, its
deadline, and the next STEP of its plan's slot; it binds to the most recent closed epoch, or, when its descriptor
asks for MIN_EPOCH and that has closed, to MIN_EPOCH or the oldest retained epoch, whichever is later; when it has
not closed it is held and counts EPOCH_WAIT. It takes a free context slot that it may take. A held query whose epoch
has closed is released and bound; one whose deadline has been reached while it is held or without a context ends with
TIMEOUT, its context free again; before those instants nothing happens. With room for the change, the record and two
log peers: INSERT and UPSERT take the lowest free slot of the index, give it the handle of its record's generation,
this node's owning value and the slot, note the slot as filled in the epoch of the ingress stamp, count one change
(two for an upsert) in that epoch and take a free unreserved context; the update is not logged before its vector has
arrived. DELETE takes no slot and no vector and is logged at once: a record with the next sequence number in the
local log, sent to the log peers. With fewer than two log peers the update is refused with RESOURCE. -/
def Obligations.QueriesAndUpdatesAreAdmitted : Prop :=
  (∀ (s : State) (cid k : Nat) (c : Cmd) (x : Plan),
   cmdOf s cid 0x20 = some c → queryReasons s c.part (c.bytes.take 128) = 0 → (s.fn c.fn).busMaster = true →
   s.err.inj = [] → tget? s.work.plans (qSlot (c.bytes.take 128)) = some x →
   queryCtxFree s (qSlot (c.bytes.take 128)) = some k →
   ∃ t, Machine.exec (.query cid) s = .next t ∧
     (let d := c.bytes.take 128
      let e := (if qMinEp d = false then some s.epo.closed else if qMinEpoch d ≤ s.epo.closed then some
          (max (qMinEpoch d) s.epo.oldest) else none)
      t = { s with
          host := { s.host with cmds := tupd s.host.cmds cid (fun y => { y with phase := .running }) },
          epo := { s.epo with ctxUsed := tput s.epo.ctxUsed k true },
          work := { s.work with
              plans := tput s.work.plans (qSlot d) { x with
                  step := (x.step + 1) % 2 ^ 64, shown := (x.step + 1) % 2 ^ 64 }, nextQid := s.work.nextQid + 1,
              queries := tput s.work.queries s.work.nextQid { cid := some cid, fn := c.fn, part := c.part,
                                                              desc := d, stamp := c.stamp,
                                                              deadline := c.stamp + (if getLE d 0x38 4 = 0 then fld
                                                                  (s.adm c.part).pcfg 31 0 else getLE d 0x38 4),
                                                              step := (x.step + 1) % 2 ^ 64, epoch := e,
                                                              held := e.isNone, ctx := some k } },
          pmc := (if e.isNone then { s.pmc with
                pctr := bumpSel false s.pmc.psel s.pmc.pctr (c.part * 32) 32 Ev.epochWait 0xFF 1 } else s.pmc) }))
  ∧ (∀ (s : State) (qid e k : Nat) (q : Query),
     tget? s.work.queries qid = some q → q.held = true → q.entry = none → qMinEp q.desc = true →
     qMinEpoch q.desc ≤ s.epo.closed → e = max (qMinEpoch q.desc) s.epo.oldest → q.ctx = some k → q.vec = none →
     Machine.exec (.queryHoldRelease qid) s = .next ({ s with
           work.queries := tput s.work.queries qid { q with held := false, epoch := some e } }))
  ∧ (∀ (s : State) (qid : Nat) (q : Query),
     tget? s.work.queries qid = some q → s.epo.closed < qMinEpoch q.desc → q.entry ≠ none ∨ qMinEp q.desc = true →
     Machine.exec (.queryHoldRelease qid) s = .next (s))
  ∧ (∀ (s : State) (qid cid : Nat) (q : Query) (c : Cmd),
     tget? s.work.queries qid = some q → q.deadline ≤ s.now → q.held = true ∨ q.ctx = none → q.inv = none →
     q.at_ = none → q.entry = none → q.cid = some cid → tget? s.host.cmds cid = some c → ringReady s c →
     ∃ t, Machine.exec (.queryHoldTimeout qid) s = .next t ∧
       t.out = s.out ++ [completion s c 0x0201 0 (q.epoch.getD 0)] ∧
       t.work.queries = terase s.work.queries qid ∧
       (∀ k, q.ctx = some k → t.epo.ctxUsed = terase s.epo.ctxUsed k) ∧
       (q.ctx = none → t.epo = s.epo) ∧
       t = { s with
           host := { s.host with fns := t.host.fns, cmds := terase s.host.cmds cid },
           epo := { s.epo with ctxUsed := t.epo.ctxUsed },
           work := { s.work with queries := t.work.queries, kne := t.work.kne, kneWait := t.work.kneWait },
           fab := { s.fab with colls := t.fab.colls }, out := t.out })
  ∧ (∀ (s : State) (qid : Nat) (q : Query),
     tget? s.work.queries qid = some q → s.now < q.deadline →
     Machine.exec (.queryHoldTimeout qid) s = .next (s))
  ∧ (∀ (s : State) (cid k g : Nat) (c : Cmd) (x : Index),
     cmdOf s cid 0x21 = some c → headReasons c [(8, 8), (0x10, 8), (0x20, 2)] = 0 →
     tget? s.work.indexes (getLE c.bytes 0x20 2) = some x → x.part = c.part → x.shut = none →
     getLE c.bytes 0x20 2 < 4096 → s.pkg.sec.stop = .running → 2 ≤ s.epo.peers.length → s.epo.updates = [] →
     getLE c.bytes 8 8 % 64 = 0 → getLE c.bytes 0x10 8 % 64 = 0 →
     (idxD x.desc).metaBytes ≠ 0 ∨ getLE c.bytes 0x10 8 = 0 → (s.fn c.fn).busMaster = true → freeSlot x = some k →
     (recRead s (idxD x.desc) k).2 = false →
     logUsed s c.part + updSize (idxD x.desc) 1 ≤ tgetD s.epo.quota c.part 0 * 2 ^ 20 →
     tgetD s.epo.changes (epochOf s c.stamp) 0 < 262144 → updCtxFree s = some g →
     Machine.exec (.insert cid) s = .next ({ s with
           host := { s.host with cmds := tupd s.host.cmds cid (fun y => { y with phase := .running }) },
           work.indexes := tput s.work.indexes (getLE c.bytes 0x20 2) { x with
               used := tput x.used k true, ins := tput x.ins k (epochOf s c.stamp) },
           epo := { s.epo with
               changes := tput s.epo.changes (epochOf s c.stamp) (tgetD s.epo.changes (epochOf s c.stamp) 0 + 1),
               ctxUsed := tput s.epo.ctxUsed g true, nextUid := s.epo.nextUid + 1,
               updates := [(s.epo.nextUid, { cid := some cid, part := c.part,
                                             lrec := { seq := 0, stamp := c.stamp, epoch := epochOf s c.stamp,
                                                       handle := (handleOf (recGen (recRead s (idxD x.desc) k).1)
                                                           (ownShard s) k), oldHandle := 2 ^ 64 - 1, fwdId := 0,
                                                       index := getLE c.bytes 0x20 2, kind := 1,
                                                       origin := s.fab.node, entry := s.fab.node, payload := [] },
                                             ready := false, slot := some k, oldSlot := none, ctx := some g })] } }))
  ∧ (∀ (s : State) (cid k g : Nat) (c : Cmd) (x : Index),
     cmdOf s cid 0x23 = some c → headReasons c [(8, 8), (0x10, 8), (0x18, 8), (0x20, 2)] = 0 →
     tget? s.work.indexes (getLE c.bytes 0x20 2) = some x → x.part = c.part → x.shut = none →
     getLE c.bytes 0x20 2 < 4096 → s.pkg.sec.stop = .running → 2 ≤ s.epo.peers.length → s.epo.updates = [] →
     getLE c.bytes 8 8 % 64 = 0 → getLE c.bytes 0x10 8 % 64 = 0 →
     (idxD x.desc).metaBytes ≠ 0 ∨ getLE c.bytes 0x10 8 = 0 → (s.fn c.fn).busMaster = true → freeSlot x = some k →
     (recRead s (idxD x.desc) k).2 = false → bitsOf (getLE c.bytes 0x18 8) 35 32 = 0 →
     hostOf s (handleNode (getLE c.bytes 0x18 8)) = some s.fab.node →
     logUsed s c.part + updSize (idxD x.desc) 3 ≤ tgetD s.epo.quota c.part 0 * 2 ^ 20 →
     tgetD s.epo.changes (epochOf s c.stamp) 0 + 2 ≤ 262144 → updCtxFree s = some g →
     Machine.exec (.upsert cid) s = .next ({ s with
           host := { s.host with cmds := tupd s.host.cmds cid (fun y => { y with phase := .running }) },
           work.indexes := tput s.work.indexes (getLE c.bytes 0x20 2) { x with
               used := tput x.used k true, ins := tput x.ins k (epochOf s c.stamp) },
           epo := { s.epo with
               changes := tput s.epo.changes (epochOf s c.stamp) (tgetD s.epo.changes (epochOf s c.stamp) 0 + 2),
               ctxUsed := tput s.epo.ctxUsed g true, nextUid := s.epo.nextUid + 1,
               updates := [(s.epo.nextUid, { cid := some cid, part := c.part,
                                             lrec := { seq := 0, stamp := c.stamp, epoch := epochOf s c.stamp,
                                                       handle := (handleOf (recGen (recRead s (idxD x.desc) k).1)
                                                           (ownShard s) k), oldHandle := getLE c.bytes 0x18 8,
                                                       fwdId := 0, index := getLE c.bytes 0x20 2, kind := 3,
                                                       origin := s.fab.node, entry := s.fab.node, payload := [] },
                                             ready := false, slot := some k,
                                             oldSlot := some (handleSlot (getLE c.bytes 0x18 8)), ctx := some g })] } }))
  ∧ (∀ (s : State) (cid g : Nat) (c : Cmd) (x : Index),
     cmdOf s cid 0x22 = some c → headReasons c [(0x18, 8), (0x20, 2)] = 0 →
     tget? s.work.indexes (getLE c.bytes 0x20 2) = some x → x.part = c.part → x.shut = none →
     getLE c.bytes 0x20 2 < 4096 → s.pkg.sec.stop = .running → 2 ≤ s.epo.peers.length → s.epo.updates = [] →
     bitsOf (getLE c.bytes 0x18 8) 35 32 = 0 → hostOf s (handleNode (getLE c.bytes 0x18 8)) = some s.fab.node →
     logUsed s c.part + updSize (idxD x.desc) 2 ≤ tgetD s.epo.quota c.part 0 * 2 ^ 20 →
     tgetD s.epo.changes (epochOf s c.stamp) 0 < 262144 → updCtxFree s = some g → s.err.inj = [] →
     ∃ t, Machine.exec (.delete cid) s = .next t ∧
       (let h := getLE c.bytes 0x18 8
        let r : LogRec := { seq := s.epo.nextSeq, stamp := c.stamp, epoch := epochOf s c.stamp, handle := h,
                            oldHandle := 2 ^ 64 - 1, fwdId := 0, index := getLE c.bytes 0x20 2, kind := 2,
                            origin := s.fab.node, entry := s.fab.node, payload := [] }
        t.epo = { s.epo with
            changes := tput s.epo.changes (epochOf s c.stamp) (tgetD s.epo.changes (epochOf s c.stamp) 0 + 1),
            ctxUsed := tput s.epo.ctxUsed g true, nextUid := s.epo.nextUid + 1, nextSeq := s.epo.nextSeq + 1,
            log := s.epo.log ++ [(r, c.part)],
            updates := [(s.epo.nextUid, { cid := some cid, part := c.part, lrec := r, st := .logging,
                                          ready := true, oldSlot := some (handleSlot h), ctx := some g,
                                          logT := s.now, sentTo := s.epo.peers })] }) ∧
       t = { s with
           host := { s.host with cmds := tupd s.host.cmds cid (fun y => { y with phase := .running }) },
           epo := t.epo, fab := t.fab, out := t.out, pmc := t.pmc, freeCtr := t.freeCtr })
  ∧ (∀ (s : State) (cid : Nat) (c : Cmd) (x : Index),
     cmdOf s cid 0x22 = some c → headReasons c [(0x18, 8), (0x20, 2)] = 0 →
     tget? s.work.indexes (getLE c.bytes 0x20 2) = some x → x.part = c.part → x.shut = none →
     getLE c.bytes 0x20 2 < 4096 → s.pkg.sec.stop = .running → s.epo.peers.length < 2 →
     bitsOf (getLE c.bytes 0x18 8) 35 32 = 0 → hostOf s (handleNode (getLE c.bytes 0x18 8)) = some s.fab.node →
     logUsed s c.part + updSize (idxD x.desc) 2 ≤ tgetD s.epo.quota c.part 0 * 2 ^ 20 →
     tgetD s.epo.changes (epochOf s c.stamp) 0 < 262144 →
     Machine.exec (.delete cid) s = .next (endCmd { s with
           epo.err := tput s.epo.err c.part (tgetD s.epo.err c.part 0 ||| 2) } cid 0x0101 64))

/-- A finite query vector (of a norm above 0 under cosine) is kept in FP32; when the query has its epoch and its
context and its plan is admitted, its invocation is made for the plan's role with the query's step and deadline (16
invocation words the spec leaves open). A NaN, an infinity, or a zero norm under cosine ends it with ADMIT_REFUSED
and DATA; a failed host read with HOSTIO. A freed context slot that no plan reserves goes to the query or update
whose ingress stamp is lowest, and with nothing waiting nothing happens. -/
def Obligations.QueryVectorsAndContexts : Prop :=
  (∀ (s : State) (qid : Nat) (q : Query) (x : Index) (b : List Byte),
   tget? s.work.queries qid = some q → queryIndex s q = some x → q.vec = none →
   qTierVec q.desc = false ∨ q.entry ≠ none → qFinite q.desc (idxD x.desc) b = true → (idxD x.desc).metric ≠ 1 →
   q.ctx = none ∨ q.epoch = none →
   Machine.exec (.queryVectorArrive qid (.ok b)) s = .next ({ s with
         work.queries := tput s.work.queries qid { q with vec := some (qVals q.desc (idxD x.desc) b) } }))
  ∧ (∀ (s : State) (qid k e : Nat) (q : Query) (x : Index) (b : List Byte),
     tget? s.work.queries qid = some q → queryIndex s q = some x → q.vec = none →
     qTierVec q.desc = false ∨ q.entry ≠ none → qFinite q.desc (idxD x.desc) b = true → (idxD x.desc).metric ≠ 1 →
     q.ctx = some k → q.epoch = some e → q.inv = none → q.held = false →
     (admitted s q.part (qSlot q.desc)).isSome = true → qSpan q.desc = false →
     ∃ t, Machine.exec (.queryVectorArrive qid (.ok b)) s = .next t ∧
       t = { s with
           freeCtr := s.freeCtr + 16,
           work := { s.work with
               nextInv := s.work.nextInv + 1,
               queries := tput s.work.queries qid { q with
                   vec := some (qVals q.desc (idxD x.desc) b), inv := some s.work.nextInv }, invs := t.work.invs } } ∧
       (∃ ws, ws.length = 16 ∧
           t.work.invs = tput s.work.invs s.work.nextInv { plan := qSlot q.desc, role := qRole q.desc,
                                                           part := q.part, words := ws, qid := some qid,
                                                           stamp := q.stamp, step := q.step,
                                                           deadline := some q.deadline, fn := q.fn }))
  ∧ (∀ (s : State) (qid cid : Nat) (q : Query) (x : Index) (b : List Byte) (c : Cmd),
     tget? s.work.queries qid = some q → queryIndex s q = some x → q.vec = none → qTierVec q.desc = false →
     q.entry = none → qFinite q.desc (idxD x.desc) b = false → q.inv = none → q.at_ = none → q.cid = some cid →
     tget? s.host.cmds cid = some c → ringReady s c →
     ∃ t, Machine.exec (.queryVectorArrive qid (.ok b)) s = .next t ∧
       t.out = s.out ++ [completion s c 0x0101 1024 (q.epoch.getD 0)] ∧
       t.work.queries = terase s.work.queries qid)
  ∧ (∀ (s : State) (qid cid : Nat) (q : Query) (x : Index) (c : Cmd),
     tget? s.work.queries qid = some q → queryIndex s q = some x → q.vec = none → qTierVec q.desc = false →
     q.entry = none → q.inv = none → q.at_ = none → q.cid = some cid → tget? s.host.cmds cid = some c →
     ringReady s c →
     ∃ t, Machine.exec (.queryVectorArrive qid .failed) s = .next t ∧
       t.out = s.out ++ [completion s c 0x0101 512 (q.epoch.getD 0)] ∧
       t.work.queries = terase s.work.queries qid)
  ∧ (∀ (s : State) (ctx : Fin 262144) (qid k : Nat) (q : Query),
     tget? s.epo.ctxUsed ctx.val = none → tget? s.epo.ctxRetired ctx.val = none → s.work.queries = [(qid, q)] →
     q.ctx = none → q.vec = none → s.err.inj = [] →
     tget? s.epo.ctxOwner ctx.val = none ∨ tget? s.epo.ctxOwner ctx.val = some (qSlot q.desc) →
     (∀ kv ∈ s.epo.updates, kv.2.ctx = none → kv.2.st = .allocated → q.stamp ≤ kv.2.lrec.stamp) →
     queryCtxFree s (qSlot q.desc) = some k →
     Machine.exec (.contextFree ctx) s = .next ({ s with
           epo.ctxUsed := tput s.epo.ctxUsed k true, work.queries := [(qid, { q with ctx := some k })] }))
  ∧ (∀ (s : State) (ctx : Fin 262144) (uid k : Nat) (u : Update),
     tget? s.epo.ctxUsed ctx.val = none → tget? s.epo.ctxRetired ctx.val = none →
     tget? s.epo.ctxOwner ctx.val = none → s.epo.updates = [(uid, u)] → u.ctx = none → u.st = .allocated →
     u.ready = false → (∀ kv ∈ s.work.queries, kv.2.ctx = none → u.lrec.stamp < kv.2.stamp) →
     updCtxFree s = some k →
     Machine.exec (.contextFree ctx) s = .next ({ s with
           epo := { s.epo with ctxUsed := tput s.epo.ctxUsed k true, updates := [(uid, { u with ctx := some k })] } }))
  ∧ (∀ (s : State) (ctx : Fin 262144),
     (∀ kv ∈ s.work.queries, kv.2.ctx ≠ none) → (∀ kv ∈ s.epo.updates, kv.2.ctx ≠ none ∨ kv.2.st ≠ .allocated) →
     Machine.exec (.contextFree ctx) s = .next (s))

/-- A vector that arrives for an update in wait of it becomes its record's payload; with its context in hand the
record enters the local log under the next sequence number and goes to the log peers. The first acknowledgement of a
peer is only noted; the second, within LOG_TMO of the local write, makes the update COMMITTED and completes its
command with its handle. One that comes later is dropped and counted in LATE_ARRIVAL, and undoes no voiding. At
LOG_TMO without both, the origin marks its record VOID and sends VOID; before that nothing happens. When every peer
in the rack map has acknowledged the VOID, the update ends UPD_LOST and its slot, its context and its places in the
change record are free again. -/
def Obligations.CommitNeedsBothPeers : Prop :=
  (∀ (s : State) (uid cid g : Nat) (u : Update) (x : Index) (v : List Byte),
   tget? s.epo.updates uid = some u → u.cid = some cid → tget? s.work.indexes u.lrec.index = some x →
   (idxD x.desc).metaBytes = 0 → u.ready = false → u.st = .allocated → u.ctx = some g → u.owner = none →
   s.err.inj = [] →
   ∃ t, Machine.exec (.updateVectorArrive uid (.ok v) .failed) s = .next t ∧
     (let r : LogRec := { u.lrec with
          seq := s.epo.nextSeq, origin := s.fab.node,
          payload := slice (v.take ((idxD x.desc).dims * (idxD x.desc).elemBytes)) 0 (idxD x.desc).vstride ++ [] }
      t.epo = { s.epo with
          nextSeq := s.epo.nextSeq + 1, log := s.epo.log ++ [(r, u.part)],
          updates := tput s.epo.updates uid { u with
              ready := true, lrec := r, st := .logging, logT := s.now, sentTo := s.epo.peers } }) ∧
     t = { s with epo := t.epo, fab := t.fab, out := t.out, pmc := t.pmc, freeCtr := t.freeCtr })
  ∧ (∀ (s : State) (src : Fin 64) (seq handle uid : Nat) (u : Update),
     tfind? s.epo.updates (fun _ u => if isFwdId seq then u.owner.isSome && u.lrec.fwdId == seq && u.st == .logging
         else u.owner.isNone && u.lrec.seq == seq && (u.st == .logging || u.st == .voiding)) = some (uid, u) →
     u.owner = none → u.st = .logging → s.now ≤ u.logT + fld s.epo.cfg 31 20 * 1000 → src.val ∈ u.sentTo →
     u.acks = [] →
     Machine.exec (.logAck src s.mbr.gen seq handle) s = .next ({ s with
           epo.updates := tput s.epo.updates uid { u with acks := [src.val] } }))
  ∧ (∀ (s : State) (src : Fin 64) (seq handle uid a cid : Nat) (u : Update),
     tfind? s.epo.updates (fun _ u => if isFwdId seq then u.owner.isSome && u.lrec.fwdId == seq && u.st == .logging
         else u.owner.isNone && u.lrec.seq == seq && (u.st == .logging || u.st == .voiding)) = some (uid, u) →
     u.owner = none → u.st = .logging → s.now ≤ u.logT + fld s.epo.cfg 31 20 * 1000 → src.val ∈ u.sentTo →
     u.acks = [a] → a ≠ src.val → u.cid = some cid →
     Machine.exec (.logAck src s.mbr.gen seq handle) s = .next (endCmd { s with
           epo.updates := tput s.epo.updates uid { u with
               acks := [a, src.val], st := (if u.lrec.kind = 2 then .prepared else .committed), cid := none },
           pmc.pctr := bumpSel false s.pmc.psel s.pmc.pctr (u.part * 32) 32 Ev.updCommit 0xFF 1 } cid 0x0003 0
         u.lrec.handle))
  ∧ (∀ (s : State) (src : Fin 64) (seq handle uid : Nat) (u : Update),
     tfind? s.epo.updates (fun _ u => if isFwdId seq then u.owner.isSome && u.lrec.fwdId == seq && u.st == .logging
         else u.owner.isNone && u.lrec.seq == seq && (u.st == .logging || u.st == .voiding)) = some (uid, u) →
     u.owner = none → u.st = .voiding ∨ u.logT + fld s.epo.cfg 31 20 * 1000 < s.now →
     Machine.exec (.logAck src s.mbr.gen seq handle) s = .next ({ s with
           pmc.pctr := bumpSel false s.pmc.psel s.pmc.pctr (u.part * 32) 32 Ev.lateArrival 0xFF 1 }))
  ∧ (∀ (s : State) (seq uid : Nat) (u : Update),
     tfind? s.epo.updates (fun _ u => if isFwdId seq then u.owner.isSome && u.lrec.fwdId == seq && u.st == .logging
         else u.owner.isNone && u.lrec.seq == seq && (u.st == .logging || u.st == .voiding)) = some (uid, u) →
     u.owner = none → u.st = .logging → u.logT + fld s.epo.cfg 31 20 * 1000 ≤ s.now →
     (∃ p ∈ u.sentTo, p ∉ u.voidAcks ∧ bitOf s.mbr.members p = true) →
     ∃ t, Machine.exec (.logTmoExpire seq) s = .next t ∧
       t.epo = { s.epo with
           log := s.epo.log.map (fun (r : LogRec × Nat) => if r.1.origin = u.lrec.origin ∧
               r.1.seq = u.lrec.seq then ({ r.1 with void := true }, r.2) else r),
           updates := tput s.epo.updates uid { u with st := .voiding } } ∧
       t = { s with epo := t.epo, fab := t.fab, out := t.out, pmc := t.pmc, freeCtr := t.freeCtr })
  ∧ (∀ (s : State) (seq uid : Nat) (u : Update),
     tfind? s.epo.updates (fun _ u => if isFwdId seq then u.owner.isSome && u.lrec.fwdId == seq && u.st == .logging
         else u.owner.isNone && u.lrec.seq == seq && (u.st == .logging || u.st == .voiding)) = some (uid, u) →
     s.now < u.logT + fld s.epo.cfg 31 20 * 1000 ∨ u.st = .voiding →
     Machine.exec (.logTmoExpire seq) s = .next (s))
  ∧ (∀ (s : State) (src : Fin 64) (seq uid cid : Nat) (u : Update),
     tfind? s.epo.updates (fun _ u => if isFwdId seq then u.owner.isSome && u.lrec.fwdId == seq && u.st == .logging
         else u.owner.isNone && u.lrec.seq == seq && (u.st == .logging || u.st == .voiding)) = some (uid, u) →
     u.owner = none → u.st = .voiding →
     (∀ p ∈ u.sentTo, p = src.val ∨ p ∈ u.voidAcks ∨ bitOf s.mbr.members p = false) → u.cid = some cid →
     ∃ t, Machine.exec (.logVoidAck src s.mbr.gen seq) s = .next t ∧
       t.epo.updates = terase (tput s.epo.updates uid { u with voidAcks := u.voidAcks ++ [src.val] }) uid ∧
       (∀ g, u.ctx = some g → t.epo.ctxUsed = terase s.epo.ctxUsed g) ∧
       t.epo.changes = tupd s.epo.changes u.lrec.epoch (fun n => n - if u.lrec.kind = 3 then 2 else 1) ∧
       (∀ k x, u.slot = some k → tget? s.work.indexes u.lrec.index = some x →
           tget? t.work.indexes u.lrec.index = some { x with used := terase x.used k, ins := terase x.ins k }) ∧
       (∃ v, v.host = s.host ∧ v.out = s.out ∧ v.now = s.now ∧ t = endCmd v cid 0x0302))

/-- A LOG of this generation writes the record (once per origin and sequence number) to the peer log and acknowledges
it; one of an older generation is dropped, counted STALE_GEN and answered by REJECT; one of a newer generation is
held. LOG_VOID marks the peer's copy and acknowledges. LOG_FLASH_WRITE copies a logged, not void record whose update
is COMMITTED or further into the flash log area, once. A write of EPO_CKPT by the partition or the owner starts a
checkpoint to an epoch that has closed and is above EPO_DURABLE, any other epoch is refused with CKPT_BAD; a function
of another partition has no effect. When no dirty tile of the partition is in a move, the checkpoint's end sets
EPO_DURABLE and trims the records of the partition up to that epoch from the log, the peer copies and the flash log. -/
def Obligations.PeersAndCheckpoints : Prop :=
  (∀ (s : State) (src : Fin 64) (part : Fin 32) (r : LogRec),
   r.fwdId = 0 ∨ r.seq ≠ 0 →
   ∃ t, Machine.exec (.log src s.mbr.gen part r) s = .next t ∧
     t.epo = { s.epo with
         peerLog := s.epo.peerLog.filter (fun (y : LogRec × Nat) => !(y.1.origin == r.origin && y.1.seq == r.seq))
           ++ [(r, part.val)] } ∧
     t = { s with epo := t.epo, fab := t.fab, out := t.out, pmc := t.pmc, freeCtr := t.freeCtr })
  ∧ (∀ (s : State) (src : Fin 64) (gen : Nat) (part : Fin 32) (r : LogRec),
     gen < s.mbr.gen →
     ∃ t, Machine.exec (.log src gen part r) s = .next t ∧
       t.epo = s.epo ∧
       t = { s with fab := t.fab, out := t.out, pmc := t.pmc, freeCtr := t.freeCtr })
  ∧ (∀ (s : State) (src : Fin 64) (gen : Nat) (part : Fin 32) (r : LogRec),
     s.mbr.gen < gen →
     Machine.exec (.log src gen part r) s = .next ({ s with
           fab.ctlHold := s.fab.ctlHold ++ [(s.now, Instr.log src gen part r)] }))
  ∧ (∀ (s : State) (src origin : Fin 64) (seq : Nat),
     ∃ t, Machine.exec (.logVoid src s.mbr.gen origin seq) s = .next t ∧
       t.epo = { s.epo with
           peerLog := s.epo.peerLog.map (fun (r : LogRec × Nat) => if r.1.origin = origin.val ∧
               r.1.seq = seq then ({ r.1 with void := true }, r.2) else r) } ∧
       t = { s with epo := t.epo, fab := t.fab, out := t.out, pmc := t.pmc, freeCtr := t.freeCtr })
  ∧ (∀ (s : State) (seq : Nat) (r : LogRec × Nat),
     s.epo.log.find? (fun x => x.1.seq == seq && !x.1.void) = some r →
     (∀ kv ∈ s.epo.updates, kv.2.owner = none → kv.2.lrec.seq = seq → kv.2.st ≠ .logging ∧ kv.2.st ≠ .voiding) →
     (∀ x ∈ s.epo.flashLog, x.1.seq ≠ seq ∨ x.1.origin ≠ r.1.origin) →
     Machine.exec (.logFlashWrite seq) s = .next ({ s with
           epo := { s.epo with
               flashLog := s.epo.flashLog ++ [r],
               updates := s.epo.updates.map (fun (kv : Nat × Update) => (kv.1, if kv.2.owner = none ∧
                     kv.2.lrec.seq = seq then { kv.2 with onFlash := true } else kv.2)) } }))
  ∧ (∀ (s : State) (fn : Fin 64) (part : Fin 32) (d : W64),
     (s.fn fn.val).bound = true → (s.fn fn.val).part = part.val ∨ (s.fn fn.val).owner = true →
     d.toNat ≤ s.epo.closed → tgetD s.epo.durable part.val 0 < d.toNat →
     Machine.exec (.checkpoint fn part d) s = .next ({ s with epo.ckpt := tput s.epo.ckpt part.val d.toNat }))
  ∧ (∀ (s : State) (fn : Fin 64) (part : Fin 32) (d : W64),
     (s.fn fn.val).bound = true → (s.fn fn.val).part = part.val ∨ (s.fn fn.val).owner = true →
     s.epo.closed < d.toNat ∨ d.toNat ≤ tgetD s.epo.durable part.val 0 →
     Machine.exec (.checkpoint fn part d) s = .next ({ s with
           epo.err := tput s.epo.err part.val (tgetD s.epo.err part.val 0 ||| 16) }))
  ∧ (∀ (s : State) (fn : Fin 64) (part : Fin 32) (d : W64),
     (s.fn fn.val).bound = false ∨ ((s.fn fn.val).part ≠ part.val ∧ (s.fn fn.val).owner = false) →
     Machine.exec (.checkpoint fn part d) s = .next (s))
  ∧ (∀ (s : State) (part : Fin 32) (d : Nat),
     tget? s.epo.ckpt part.val = some d → dirtyTiles s part.val = [] →
     ∃ t, Machine.exec (.checkpointDone part) s = .next t ∧
       (let keep := fun (l : List (LogRec × Nat)) => l.filter (fun (r : LogRec × Nat) => r.2 != part.val || decide
            (d < r.1.epoch))
        t = { s with
            epo := { s.epo with
                ckpt := terase s.epo.ckpt part.val, durable := tput s.epo.durable part.val d,
                log := keep s.epo.log, peerLog := keep s.epo.peerLog, flashLog := keep s.epo.flashLog } }))
  ∧ (∀ (s : State) (part : Fin 32),
     (∃ u ∈ dirtyTiles s part.val, (s.home u).st = .moving) →
     Machine.exec (.checkpointDone part) s = .next (s))

/-- Once AGE_PERIOD ms have passed since the last tick, every frame's age above 0 drops by 1 and nothing else of the
frames changes. Once a region's heat window has ended, its table is empty and the next window begins now; the stacks'
counts of fabric accesses for tiles homed in that region's stack start anew. Before those instants nothing happens. A
fill that arrives leaves the fills in flight, and unless an invalidation has marked it, its line is the most recently
used of the region's read frames with the bytes of its home, the oldest line giving way when the frames are full. -/
def Obligations.AgesHeatAndFills : Prop :=
  (∀ (s : State),
   s.tier.lastAge + fld s.tier.cfg 23 16 * 1000000 ≤ s.now →
   ∃ t, Machine.exec (.ageTick) s = .next t ∧
     (∀ k f, tget? s.tier.frames k = some f →
         ∃ g, tget? t.tier.frames k = some g ∧ g.tile = f.tile ∧ g.age = f.age - 1) ∧
     t.tier.frames.map (·.1) = s.tier.frames.map (·.1) ∧
     (∀ r k f, tget? (s.region r).odFrames k = some f →
         ∃ g, tget? (t.region r).odFrames k = some g ∧ g.tile = f.tile ∧ g.age = f.age - 1) ∧
     t = { s with
         tier := { s.tier with
             frames := t.tier.frames, regions := t.tier.regions, ageClock := s.tier.ageClock + 1,
             lastAge := s.now } } ∧
     (∀ r, t.region r = { s.region r with odFrames := (t.region r).odFrames }))
  ∧ (∀ (s : State),
     s.now < s.tier.lastAge + fld s.tier.cfg 23 16 * 1000000 →
     Machine.exec (.ageTick) s = .next (s))
  ∧ (∀ (s : State) (r : Fin 8),
     (s.region r.val).hotStart + fld s.tier.cfg 31 24 * 10000 ≤ s.now →
     ∃ t, Machine.exec (.hotWindowTick r) s = .next t ∧
       t.region r.val = { s.region r.val with hot := [], hotStart := s.now } ∧
       (∀ q, q ≠ r.val → t.region q = s.region q) ∧
       (∀ kv, kv ∈ t.tier.fabHot ↔ kv ∈ s.tier.fabHot ∧
           ¬((s.home (kv.1 / 64)).tier = 1 ∧ frameStack (locFrame (s.home (kv.1 / 64)).loc) = r.val)) ∧
       t = { s with tier := { s.tier with regions := t.tier.regions, fabHot := t.tier.fabHot } })
  ∧ (∀ (s : State) (r : Fin 8),
     s.now < (s.region r.val).hotStart + fld s.tier.cfg 31 24 * 10000 →
     Machine.exec (.hotWindowTick r) s = .next (s))
  ∧ (∀ (s : State) (r : Fin 8) (line : Nat) (f : Fill),
     (s.region r.val).fills.find? (fun g => g.line = line) = some f → f.drop = false → line / 256 < tileCount →
     (s.home (line / 256)).st ≠ .poisoned →
     Machine.exec (.fillArrive r line) s = .next (s.setRegion r.val { s.region r.val with
           fills := (s.region r.val).fills.filter (fun g => g.line != line),
           lines := (({ line := line, remote := false, bytes := homeRead s (line / 256) (line % 256 * 256) 256 } :
                 RfLine) :: (s.region r.val).lines.filter (fun (l : RfLine) => l.remote || l.line != line)).take
             ((128 - fld s.tier.cfg 47 40) * 256) }))
  ∧ (∀ (s : State) (r : Fin 8) (line : Nat) (f : Fill),
     (s.region r.val).fills.find? (fun g => g.line = line) = some f → f.drop = true →
     Machine.exec (.fillArrive r line) s = .next (s.setRegion r.val { s.region r.val with
           fills := (s.region r.val).fills.filter (fun g => g.line != line) }))

/-- A move wanted by a region for a tile that is HOME outside the pool takes a move slot and a free frame of that
region's stack, marks the tile MOVING at its old place, and leaves the waiting list; with all 256 slots taken it
waits. FREEZE marks the tile's move, or the frame lent to a position, as frozen. Copy bursts of a frozen tile arrive
in order: burst i brings the 256 bytes of the frozen frame to offset i × 256 of the destination; a burst out of order
has no effect. A burst for a lent frame stores the bytes it carries. -/
def Obligations.MovesStartAndFreeze : Prop :=
  (∀ (s : State) (tile : Fin 33554432) (r k : Nat),
   s.tier.moveWait.find? (fun w => w.1 == tile.val) = some (tile.val, 1, r, false) → s.tier.moves.length < 256 →
   (s.home tile.val).st = .home → (s.home tile.val).tier ≠ 2 → freeFrame s r = some k →
   Machine.exec (.moveStart tile) s = .next ({ s with
         tier := { s.tier with
             moveWait := s.tier.moveWait.filter (fun w => w.1 != tile.val),
             frames := tput s.tier.frames k { tile := tile.val, order := s.tier.ageClock },
             ageClock := s.tier.ageClock + 1,
             home := tput s.tier.home tile.val { s.home tile.val with st := .moving },
             moves := tput s.tier.moves tile.val { old := s.home tile.val, tier := 1, loc := stackLoc k,
                                                   hot := true } } }))
  ∧ (∀ (s : State) (tile : Fin 33554432),
     256 ≤ s.tier.moves.length →
     Machine.exec (.moveStart tile) s = .next (s))
  ∧ (∀ (s : State) (tile : Fin 33554432) (m : Move),
     tget? s.tier.moves tile.val = some m →
     Machine.exec (.freeze (.own tile)) s = .next ({ s with
           tier.moves := tput s.tier.moves tile.val { m with frozen := true } }))
  ∧ (∀ (s : State) (pos : Fin 64) (off : Fin 2097152),
     Machine.exec (.freeze (.lent pos off)) s = .next ({ s with
           tier.lendMoves := tput s.tier.lendMoves (pos.val * 2097152 + off.val) { frozen := true } }))
  ∧ (∀ (s : State) (tile : Fin 33554432) (i : Fin 256) (m : Move) (bs : List Byte) (p : Bool),
     tget? s.tier.moves tile.val = some m → m.frozen = true → i.val = m.copied → m.old.tier ≠ 2 →
     memWf m.dmem = true → intervalPoisoned s tile.val (i.val * 256) 256 = false →
     ∃ t, Machine.exec (.copy (.own tile) (.burst i bs p)) s = .next t ∧
       (∃ n, tget? t.tier.moves tile.val = some n ∧ n = { m with copied := m.copied + 1, dmem := n.dmem } ∧
           storesAt m.dmem n.dmem (i.val * 256) (homeRead s tile.val (i.val * 256) 256)) ∧
       (∀ u, u ≠ tile.val → tget? t.tier.moves u = tget? s.tier.moves u) ∧
       t = { s with tier := { s.tier with moves := t.tier.moves }, host := { s.host with adm := t.host.adm } })
  ∧ (∀ (s : State) (tile : Fin 33554432) (i : Fin 256) (m : Move) (bs : List Byte) (p : Bool),
     tget? s.tier.moves tile.val = some m → m.frozen = false ∨ i.val ≠ m.copied →
     Machine.exec (.copy (.own tile) (.burst i bs p)) s = .next (s))
  ∧ (∀ (s : State) (pos : Fin 64) (off : Fin 2097152) (i : Fin 256) (bs : List Byte),
     i.val = (tgetD s.tier.lendMoves (pos.val * 2097152 + off.val) {}).copied → bs.length = 256 →
     memWf s.tier.lendMem = true →
     ∃ t, Machine.exec (.copy (.lent pos off) (.burst i bs false)) s = .next t ∧
       storesAt s.tier.lendMem t.tier.lendMem ((pos.val * 2097152 + off.val) * 65536 + i.val * 256) bs ∧
       t = { s with
           tier := { s.tier with
               lendMem := t.tier.lendMem,
               lendPois := terase s.tier.lendPois ((pos.val * 2097152 + off.val) * 256 + i.val),
               lendMoves := tput s.tier.lendMoves (pos.val * 2097152 + off.val) { tgetD s.tier.lendMoves
                   (pos.val * 2097152 + off.val) {} with
                   copied := i.val + 1 } } })

/-- Behind the last copy burst, the write or atomic at the front of the forwarding queue is applied at the
destination, the atomic with the value found there, and the first held write enters the queue. DRAINED with the
stream complete and the queue empty gives the tile its new place: HOME, or PINNED for a pin move; a stack destination
then holds exactly the bytes the stream brought and no byte outside the tile changes; the move slot is free, a stub
remains for 2 ms and TILE_MOVE counts. While writes are queued or no stub is free DRAINED waits. When a stub ends, an
old stack frame that still belongs to its tile is freed, not before. -/
def Obligations.MovesReplayAndFlip : Prop :=
  (∀ (s : State) (tile : Fin 33554432) (off : Fin 65536) (bs : List Byte) (m : Move) (w : QWrite) (rest : List QWrite),
   tget? s.tier.moves tile.val = some m → m.copied = 256 → m.fwdq = w :: rest → m.held = [] →
   w.off = off.val ∧ w.bytes = bs ∧ w.atomic = none → memWf m.dmem = true →
   ∃ t, Machine.exec (.copy (.own tile) (.write off bs)) s = .next t ∧
     (∃ n, tget? t.tier.moves tile.val = some n ∧ n = { m with dmem := n.dmem, dpois := n.dpois, fwdq := rest } ∧
         storesAt m.dmem n.dmem off.val bs) ∧
     t = { s with tier := { s.tier with moves := t.tier.moves } } ∧
     (∀ u, u ≠ tile.val → tget? t.tier.moves u = tget? s.tier.moves u))
  ∧ (∀ (s : State) (tile : Fin 33554432) (off : Fin 65536) (op a b : Nat) (m : Move) (w h : QWrite) (rest hs : List QWrite),
     tget? s.tier.moves tile.val = some m → m.copied = 256 → m.fwdq = w :: rest → m.held = h :: hs →
     w.off = off.val ∧ w.atomic = some (op, a, b) ∧ w.asker = none → memWf m.dmem = true →
     ∃ t, Machine.exec (.copy (.own tile) (.atomic off op a b)) s = .next t ∧
       (∃ n, tget? t.tier.moves tile.val = some n ∧
           n = { m with dmem := n.dmem, fwdq := rest ++ [h], held := hs } ∧
           storesAt m.dmem n.dmem off.val (leBytes (if bitOf op 4 then 8 else 4) (atomicNew op
                 (if bitOf op 4 then 8 else 4) (leNat (mreadN m.dmem off.val (if bitOf op 4 then 8 else 4))) a b))) ∧
       t = { s with tier := { s.tier with moves := t.tier.moves } })
  ∧ (∀ (s : State) (tile : Fin 33554432) (m : Move),
     tget? s.tier.moves tile.val = some m → 256 ≤ m.copied → m.fwdq = [] ∧ m.held = [] →
     s.tier.stubs.length < 4096 → m.tier = 1 → memWf s.tier.mem = true →
     pinWanted s tile.val = false ∨ m.pin = true →
     ∃ t, Machine.exec (.drained (.own tile)) s = .next t ∧
       t.home tile.val = ⟨if m.pin then .pinned else .home, 1, m.loc⟩ ∧
       (∀ u, u ≠ tile.val → t.home u = s.home u) ∧
       (∀ o, o < 65536 → mread t.tier.mem (tile.val * 65536 + o) = mread m.dmem o) ∧
       (∀ x, x < tile.val * 65536 ∨ tile.val * 65536 + 65536 ≤ x → mread t.tier.mem x = mread s.tier.mem x) ∧
       t.tier.moves = terase s.tier.moves tile.val ∧
       t.tier.stubs = tput s.tier.stubs s.tier.nextStub { tile := tile.val, tier := m.old.tier, loc := m.old.loc,
                                                          until_ := s.now + 2000000 } ∧
       t = { s with
           tier := { s.tier with
               home := t.tier.home, mem := t.tier.mem, pois64 := t.tier.pois64, pois256 := t.tier.pois256,
               moves := t.tier.moves, stubs := t.tier.stubs, nextStub := s.tier.nextStub + 1,
               flipT := t.tier.flipT }, pmc := t.pmc })
  ∧ (∀ (s : State) (tile : Fin 33554432) (m : Move),
     tget? s.tier.moves tile.val = some m →
     m.copied < 256 ∨ m.fwdq ≠ [] ∨ m.held ≠ [] ∨ 4096 ≤ s.tier.stubs.length →
     Machine.exec (.drained (.own tile)) s = .next (s))
  ∧ (∀ (s : State) (pos : Fin 64) (off : Fin 2097152),
     Machine.exec (.drained (.lent pos off)) s = .next ({ s with
           tier.lendMoves := terase s.tier.lendMoves (pos.val * 2097152 + off.val) }))
  ∧ (∀ (s : State) (i : Nat) (x : Stub) (f : TFrame),
     tget? s.tier.stubs i = some x → x.until_ ≤ s.now → x.tier = 1 → tget? s.tier.frames (locFrame x.loc) = some f →
     f.tile = x.tile → (s.home x.tile).loc ≠ x.loc →
     Machine.exec (.stubExpire i) s = .next ({ s with
           tier := { s.tier with stubs := terase s.tier.stubs i, frames := terase s.tier.frames (locFrame x.loc) } }))
  ∧ (∀ (s : State) (i : Nat) (x : Stub),
     tget? s.tier.stubs i = some x → s.now < x.until_ →
     Machine.exec (.stubExpire i) s = .next (s))

/-- While the node takes part in epochs, the boundary ends the epochs before the current one, and with no close
running the close of EPO_CLOSED + 1 begins once its end boundary is reached. When draining has ended (no update of
the closing epoch waits, runs or is committed and unprepared) B1 is armed, when publication has ended B2, when
invalidation has ended B3: the arm time is now, and when the ARM of every other member is here the release instant is
the latest arm time plus BAR_LEAD. The last ARM to arrive sets the same instant; one of an older generation is
dropped, one of a newer one is held. In any other phase the three completions have no effect. -/
def Obligations.CloseArmsItsBarriers : Prop :=
  (∀ (s : State),
   s.pkg.sec.epochs = true → s.epo.phase = .idle →
   (s.epo.closed + 2) * (max 1 (fld s.epo.cfg 39 32) * 1000000) ≤ s.now →
   Machine.exec (.epochBoundary) s = .next ({ s with
         epo := { s.epo with
             ended := s.now / (max 1 (fld s.epo.cfg 39 32) * 1000000), phase := .drain,
             closing := s.epo.closed + 1, closeStart := s.now } }))
  ∧ (∀ (s : State),
     s.pkg.sec.epochs = true →
     s.epo.phase ≠ .idle ∨ s.now < (s.epo.closed + 2) * (max 1 (fld s.epo.cfg 39 32) * 1000000) →
     Machine.exec (.epochBoundary) s = .next ({ s with
           epo.ended := s.now / (max 1 (fld s.epo.cfg 39 32) * 1000000) }))
  ∧ (∀ (s : State),
     s.pkg.sec.epochs = false →
     Machine.exec (.epochBoundary) s = .next (s))
  ∧ (∀ (s : State),
     s.epo.phase = .drain → updateWaits s = false → updateRuns s = false → (s.barrier 0).armed = false →
     (s.barrier 0).release = none → (∀ p ∈ otherMembers s, (tget? (s.barrier 0).arms p).isSome = true) →
     ∃ t, Machine.exec (.closeDrainDone) s = .next t ∧
       t.barrier 0 = { s.barrier 0 with
           armed := true, arms := tput (s.barrier 0).arms s.fab.node s.now,
           release := some ((((tput (s.barrier 0).arms s.fab.node s.now).filter (fun (kv : Nat × Nat) => kv.1 =
                     s.fab.node || bitOf s.mbr.members kv.1)).map (·.2)).foldl Nat.max 0 + fld s.epo.cfg 15 0),
           late := decide ((((tput (s.barrier 0).arms s.fab.node s.now).filter (fun (kv : Nat × Nat) => kv.1 =
                     s.fab.node || bitOf s.mbr.members kv.1)).map (·.2)).foldl Nat.max 0 + fld s.epo.cfg 15 0 <
               s.now) } ∧
       (∀ k, k ≠ 0 → t.barrier k = s.barrier k) ∧
       t = { s with
           epo := { s.epo with barriers := t.epo.barriers }, fab := t.fab, out := t.out, pmc := t.pmc,
           freeCtr := t.freeCtr })
  ∧ (∀ (s : State),
     s.epo.phase ≠ .drain ∨ updateWaits s = true ∨ updateRuns s = true →
     Machine.exec (.closeDrainDone) s = .next (s))
  ∧ (∀ (s : State),
     s.epo.phase = .publish → (s.barrier 1).armed = false → (s.barrier 1).release = none →
     (∀ p ∈ otherMembers s, (tget? (s.barrier 1).arms p).isSome = true) →
     ∃ t, Machine.exec (.publishDone) s = .next t ∧
       t.barrier 1 = { s.barrier 1 with
           armed := true, arms := tput (s.barrier 1).arms s.fab.node s.now,
           release := some ((((tput (s.barrier 1).arms s.fab.node s.now).filter (fun (kv : Nat × Nat) => kv.1 =
                     s.fab.node || bitOf s.mbr.members kv.1)).map (·.2)).foldl Nat.max 0 + fld s.epo.cfg 15 0),
           late := decide ((((tput (s.barrier 1).arms s.fab.node s.now).filter (fun (kv : Nat × Nat) => kv.1 =
                     s.fab.node || bitOf s.mbr.members kv.1)).map (·.2)).foldl Nat.max 0 + fld s.epo.cfg 15 0 <
               s.now) } ∧
       (∀ k, k ≠ 1 → t.barrier k = s.barrier k) ∧
       t = { s with
           epo := { s.epo with barriers := t.epo.barriers }, fab := t.fab, out := t.out, pmc := t.pmc,
           freeCtr := t.freeCtr })
  ∧ (∀ (s : State),
     s.epo.phase ≠ .publish →
     Machine.exec (.publishDone) s = .next (s))
  ∧ (∀ (s : State),
     s.epo.phase = .inval → (s.barrier 2).armed = false → (s.barrier 2).release = none →
     (∀ p ∈ otherMembers s, (tget? (s.barrier 2).arms p).isSome = true) →
     ∃ t, Machine.exec (.invalDone) s = .next t ∧
       t.barrier 2 = { s.barrier 2 with
           armed := true, arms := tput (s.barrier 2).arms s.fab.node s.now,
           release := some ((((tput (s.barrier 2).arms s.fab.node s.now).filter (fun (kv : Nat × Nat) => kv.1 =
                     s.fab.node || bitOf s.mbr.members kv.1)).map (·.2)).foldl Nat.max 0 + fld s.epo.cfg 15 0),
           late := decide ((((tput (s.barrier 2).arms s.fab.node s.now).filter (fun (kv : Nat × Nat) => kv.1 =
                     s.fab.node || bitOf s.mbr.members kv.1)).map (·.2)).foldl Nat.max 0 + fld s.epo.cfg 15 0 <
               s.now) } ∧
       (∀ k, k ≠ 2 → t.barrier k = s.barrier k) ∧
       t = { s with
           epo := { s.epo with barriers := t.epo.barriers, phase := .release }, fab := t.fab, out := t.out,
           pmc := t.pmc, freeCtr := t.freeCtr })
  ∧ (∀ (s : State),
     s.epo.phase ≠ .inval →
     Machine.exec (.invalDone) s = .next (s))
  ∧ (∀ (s : State) (src : Fin 64) (b : Fin 4) (a : Nat),
     (s.barrier b.val).armed = true → (s.barrier b.val).release = none →
     (∀ p ∈ otherMembers s, p = src.val ∨ (tget? (s.barrier b.val).arms p).isSome = true) →
     ∃ t, Machine.exec (.arm src b a s.mbr.gen) s = .next t ∧
       (let arms := tput (s.barrier b.val).arms src.val a
        let r := ((arms.filter (fun (kv : Nat × Nat) => kv.1 = s.fab.node || bitOf s.mbr.members kv.1)).map (·.2)).foldl
          Nat.max 0 + fld s.epo.cfg 15 0
        t = s.setBarrier b.val { s.barrier b.val with arms := arms, release := some r, late := decide (r < s.now) }))
  ∧ (∀ (s : State) (src : Fin 64) (b : Fin 4) (a : Nat),
     (s.barrier b.val).armed = false ∨ ∃ p ∈ otherMembers s, p ≠ src.val ∧ tget? (s.barrier b.val).arms p = none →
     Machine.exec (.arm src b a s.mbr.gen) s = .next (s.setBarrier b.val { s.barrier b.val with
           arms := tput (s.barrier b.val).arms src.val a }))
  ∧ (∀ (s : State) (src : Fin 64) (b : Fin 4) (a g : Nat),
     g < s.mbr.gen →
     ∃ t, Machine.exec (.arm src b a g) s = .next t ∧
       t = { s with fab := t.fab, out := t.out, pmc := t.pmc, freeCtr := t.freeCtr })

/-- Before its release instant a barrier does nothing. B1's release starts PUBLISH: with no update of the closing
epoch left to publish, only the phase changes; a delete whose slot is live at its generation marks the slot deleted
in its epoch and is LINKED with its context free, one that no longer fits counts DEL_STALE. B2's release drops every
remote line of the read frames and record buffers, and marks remote fills so that they are not kept. B3's release
sets EPO_CLOSED to the closing epoch, EPO_OLDEST to seven before it and EPO_CLOSE_T to the release instant (the
present one when the release is late), and ends every query bound to an epoch that has left retention and still
reading. The rack start barrier's release sets EPO_CLOSED to the epoch before the one it falls in. -/
def Obligations.BarrierReleaseClosesEpoch : Prop :=
  (∀ (s : State) (b : Fin 4),
   (s.barrier b.val).release = none ∨ ∃ r, (s.barrier b.val).release = some r ∧ s.now < r →
   Machine.exec (.barrierRelease b) s = .next (s))
  ∧ (∀ (s : State) (r : Nat),
     (s.barrier 0).release = some r → r ≤ s.now → (s.barrier 0).late = false → s.epo.updates = [] →
     Machine.exec (.barrierRelease 0) s = .next ({ s with
           epo := { s.epo with barriers := terase s.epo.barriers 0, phase := .publish } }))
  ∧ (∀ (s : State) (r uid k : Nat) (u : Update) (x : Index),
     (s.barrier 0).release = some r → r ≤ s.now → (s.barrier 0).late = false → s.epo.updates = [(uid, u)] →
     u.st = .prepared → u.owner = none → u.lrec.kind = 2 → u.slot = none → u.oldSlot = some k →
     u.lrec.epoch ≤ s.epo.closing → tget? s.work.indexes u.lrec.index = some x →
     deleteFits s x k (handleGen u.lrec.handle) u.lrec.epoch = true →
     ∃ t, Machine.exec (.barrierRelease 0) s = .next t ∧
       tget? t.work.indexes u.lrec.index = some { x with del := tput x.del k u.lrec.epoch } ∧
       t.epo.updates = [(uid, { u with st := .linked, ctx := none })] ∧
       (∀ g, u.ctx = some g → t.epo.ctxUsed = terase s.epo.ctxUsed g) ∧
       t.epo.phase = .publish ∧ t.epo.closed = s.epo.closed ∧ t.out = s.out ∧ t.fab = s.fab ∧ t.mbr = s.mbr ∧
         t.pkg = s.pkg)
  ∧ (∀ (s : State) (r uid k : Nat) (u : Update) (x : Index),
     (s.barrier 0).release = some r → r ≤ s.now → (s.barrier 0).late = false → s.epo.updates = [(uid, u)] →
     u.st = .prepared → u.owner = none → u.lrec.kind = 2 → u.slot = none → u.oldSlot = some k → u.ctx = none →
     u.lrec.epoch ≤ s.epo.closing → tget? s.work.indexes u.lrec.index = some x →
     deleteFits s x k (handleGen u.lrec.handle) u.lrec.epoch = false →
     Machine.exec (.barrierRelease 0) s = .next ({ s with
           epo := { s.epo with
               barriers := terase s.epo.barriers 0, phase := .publish,
               updates := [(uid, { u with st := .linked })] },
           pmc.pctr := bumpSel false s.pmc.psel s.pmc.pctr (u.part * 32) 32 Ev.delStale 0xFF 1 }))
  ∧ (∀ (s : State) (r : Nat),
     (s.barrier 1).release = some r → r ≤ s.now → (s.barrier 1).late = false →
     ∃ t, Machine.exec (.barrierRelease 1) s = .next t ∧
       t = { s with
           epo := { s.epo with barriers := terase s.epo.barriers 1, phase := .inval },
           tier := { s.tier with regions := t.tier.regions }, work := { s.work with clusters := t.work.clusters } } ∧
       (∀ k, (t.region k).lines = (s.region k).lines.filter (fun (l : RfLine) => !l.remote) ∧
           (t.region k).fills = (s.region k).fills.map (fun (f : Fill) => if f.line / 256 < tileCount then f else { f with
                 drop := true })) ∧
       (∀ c, t.cl c = { s.cl c with recs := (s.cl c).recs.filter (fun (l : RecLine) => !l.remote) }))
  ∧ (∀ (s : State) (r : Nat),
     (s.barrier 2).release = some r → r ≤ s.now → s.mbr.jobCtl = 0 → tabWf s.work.queries = true →
     ∃ t, Machine.exec (.barrierRelease 2) s = .next t ∧
       t.epo.closed = s.epo.closing ∧
       t.epo.oldest = s.epo.closing - 7 ∧
       t.epo.closeT = (if (s.barrier 2).late then s.now else r) ∧
       (∀ kv : Nat × Query, kv ∈ t.work.queries → kv ∈ s.work.queries ∧ ∀ e, kv.2.epoch = some e →
           kv.2.quiet = false → s.epo.closing - 7 ≤ e))
  ∧ (∀ (s : State) (r : Nat),
     (s.barrier 3).release = some r → r ≤ s.now → (s.barrier 3).late = false →
     Machine.exec (.barrierRelease 3) s = .next ({ s with
           pkg.sec.epochs := true,
           epo := { s.epo with
               barriers := terase s.epo.barriers 3, closed := r / (max 1 (fld s.epo.cfg 39 32) * 1000000) - 1,
               oldest := r / (max 1 (fld s.epo.cfg 39 32) * 1000000) - 1 - 7, closeT := r, phase := .idle } }))

/-- At a word of a list (shown on NOP, whose own effect is nothing): when all tokens that WAITT names are non-zero
the word completes: each named token falls by one, SIGT rises by one when SIGEN is set and stays at 15, the unit goes
to the next word (word 0 behind the last one) and nothing else changes. While a named token is zero nothing happens.
A word whose UNIT field is another's is not executed: the cluster is fenced by detector 0x01. A LAST word of the
tensor or vector unit ends a conversion on its slot. -/
def Obligations.WordsTakeAndSignalTokens : Prop :=
  (∀ (s : State) (c : Fin 128) (u : Fin 4) (w : Nat),
   unitAt s c.val u.val 0xF0 w → wLast w = false ∨ 2 ≤ u.val →
   ∃ t, Machine.exec (.ctrlNop c u) s = .next t ∧
     (∀ k : Fin 8, tgetD (t.cl c.val).tokens k.val 0 = (if wSigen w = true ∧
           wSigt w = k.val then min 15 (tgetD (s.cl c.val).tokens k.val 0 -
               (if bitOf (wWaitt w) k.val then 1 else 0) + 1) else tgetD (s.cl c.val).tokens k.val 0 -
             (if bitOf (wWaitt w) k.val then 1 else 0))) ∧
     t = s.setCl c.val ({ (s.cl c.val) with tokens := (t.cl c.val).tokens }.setUnit u.val { ((s.cl c.val).unit u.val) with
           pc := nextPc ((s.cl c.val).list u.val).length ((s.cl c.val).unit u.val).pc, wait := .none }))
  ∧ (∀ (s : State) (c : Fin 128) (u : Fin 4) (w : Nat),
     (s.cl c.val).word u.val = some w → wUnit w = u.val → tokensReady (s.cl c.val).tokens (wWaitt w) = false →
     s.err.inj = [] →
     Machine.exec (.ctrlNop c u) s = .next (s))
  ∧ (∀ (s : State) (c : Fin 128) (u : Fin 4) (w : Nat),
     (s.cl c.val).word u.val = some w → wUnit w ≠ u.val → (s.cl c.val).st = .running →
     ((s.cl c.val).unit u.val).halted = false → ((s.cl c.val).unit u.val).wait = .none → s.err.inj = [] →
     Machine.exec (.ctrlNop c u) s = .next (fenceFor s c.val 1 (c.val + 31 * 2 ^ 7) false))
  ∧ (∀ (s : State) (c : Fin 128) (u : Fin 4) (w : Nat),
     unitAt s c.val u.val 0xF0 w →
     Machine.exec (.ctrlNop c u) s = .next (retire (taken s c.val w) c.val u.val))

/-- For a ready control word without tokens: JMP goes to the word its signed offset names, and to word 0 when that
lies outside the list. LOOP with a count of 0 falls through; one met for the first time with fewer than four loops
open goes back to its first word with the count less one; the innermost loop's word goes back while repetitions are
left and then on. FENCEM completes only with no memory access of its unit outstanding. CBAR makes its unit wait until
every cluster of the role has a unit at that barrier, and the release lets exactly those units go on. TWAIT lets the
unit wait until the counter reaches the word's value, at once when it has; nothing else of the node changes. -/
def Obligations.ControlOperationsMoveUnits : Prop :=
  (∀ (s : State) (c : Fin 128) (u : Fin 4) (w : Nat),
   unitAt s c.val u.val 0xF1 w → wWaitt w = 0 → wSigen w = false → wLast w = false ∨ 2 ≤ u.val →
   0 ≤ (((s.cl c.val).unit u.val).pc : Int) + offsetOf w →
   (((s.cl c.val).unit u.val).pc : Int) + offsetOf w < ((s.cl c.val).list u.val).length →
   Machine.exec (.jmp c u) s = .next (unitTo s c.val u.val ((((s.cl c.val).unit u.val).pc : Int) + offsetOf w).toNat))
  ∧ (∀ (s : State) (c : Fin 128) (u : Fin 4) (w : Nat),
     unitAt s c.val u.val 0xF1 w → wWaitt w = 0 → wSigen w = false → wLast w = false ∨ 2 ≤ u.val →
     (((s.cl c.val).unit u.val).pc : Int) + offsetOf w < 0 ∨ (((s.cl c.val).list u.val).length : Int) ≤
       ((s.cl c.val).unit u.val).pc + offsetOf w →
     Machine.exec (.jmp c u) s = .next (unitTo s c.val u.val 0))
  ∧ (∀ (s : State) (c : Fin 128) (u : Fin 4) (w : Nat),
     unitAt s c.val u.val 0xF2 w → wWaitt w = 0 → wSigen w = false → wLast w = false ∨ 2 ≤ u.val →
     ((s.cl c.val).unit u.val).loops.length < 4 →
     (∀ p ∈ ((s.cl c.val).unit u.val).loops.head?, p.1 ≠ ((s.cl c.val).unit u.val).pc) → wD w ≠ 0 →
     wA w < ((s.cl c.val).list u.val).length → wA w < 32768 →
     Machine.exec (.loop c u) s = .next (s.setCl c.val ((s.cl c.val).setUnit u.val { ((s.cl c.val).unit u.val) with
             pc := wA w, loops := (((s.cl c.val).unit u.val).pc, wD w - 1) :: ((s.cl c.val).unit u.val).loops,
             wait := .none })))
  ∧ (∀ (s : State) (c : Fin 128) (u : Fin 4) (w : Nat),
     unitAt s c.val u.val 0xF2 w → wWaitt w = 0 → wSigen w = false → wLast w = false ∨ 2 ≤ u.val →
     (∀ p ∈ ((s.cl c.val).unit u.val).loops.head?, p.1 ≠ ((s.cl c.val).unit u.val).pc) →
     wD w = 0 ∨ 4 ≤ ((s.cl c.val).unit u.val).loops.length →
     Machine.exec (.loop c u) s = .next (unitTo s c.val u.val (nextPc ((s.cl c.val).list u.val).length
           ((s.cl c.val).unit u.val).pc)))
  ∧ (∀ (s : State) (c : Fin 128) (u : Fin 4) (w : Nat) (n : Nat) (rest : List (Nat × Nat)),
     unitAt s c.val u.val 0xF2 w → wWaitt w = 0 → wSigen w = false → wLast w = false ∨ 2 ≤ u.val →
     ((s.cl c.val).unit u.val).loops = (((s.cl c.val).unit u.val).pc, n) :: rest →
     Machine.exec (.loop c u) s = .next (s.setCl c.val ((s.cl c.val).setUnit u.val { ((s.cl c.val).unit u.val) with
             pc := (if n = 0 then nextPc ((s.cl c.val).list u.val).length ((s.cl c.val).unit u.val).pc else jumpTo
                 ((s.cl c.val).list u.val).length (wA w)),
             loops := (if n = 0 then rest else (((s.cl c.val).unit u.val).pc, n - 1) :: rest), wait := .none })))
  ∧ (∀ (s : State) (c : Fin 128) (u : Fin 4) (w : Nat),
     unitAt s c.val u.val 0xF3 w → wWaitt w = 0 → wSigen w = false → wLast w = false ∨ 2 ≤ u.val →
     ((s.cl c.val).unit u.val).pending = 0 →
     Machine.exec (.fencem c u) s = .next (unitTo s c.val u.val (nextPc ((s.cl c.val).list u.val).length
           ((s.cl c.val).unit u.val).pc)))
  ∧ (∀ (s : State) (c : Fin 128) (u : Fin 4) (w : Nat),
     unitAt s c.val u.val 0xF3 w → ((s.cl c.val).unit u.val).pending ≠ 0 →
     Machine.exec (.fencem c u) s = .next (s))
  ∧ (∀ (s : State) (c : Fin 128) (u : Fin 4) (w : Nat),
     unitAt s c.val u.val 0xF4 w → wWaitt w = 0 → wSigen w = false → wLast w = false ∨ 2 ≤ u.val →
     Machine.exec (.cbar c u) s = .next (s.setCl c.val ((s.cl c.val).setUnit u.val { ((s.cl c.val).unit u.val) with
             wait := .cbar (wA w) })))
  ∧ (∀ (s : State) (slot : Fin 256) (role : Fin 128) (b : Fin 8),
     roleClusters s slot.val role.val ≠ [] →
     (∀ k ∈ roleClusters s slot.val role.val, ∃ u < 4, ((s.cl k).unit u).wait = .cbar b.val) →
     (∀ k ∈ roleClusters s slot.val role.val, ∀ u < 4, ((s.cl k).word u).map (fun w => (wLast w, wSigen w)) = some
         (false, false) ∨ ((s.cl k).unit u).wait ≠ .cbar b.val) →
     ∃ t, Machine.exec (.cbarRelease slot role b) s = .next t ∧
       (∀ k < 128, ∀ u < 4, (t.cl k).unit u = (if k ∈ roleClusters s slot.val role.val ∧
             ((s.cl k).unit u).wait = UWait.cbar b.val then { (s.cl k).unit u with
                 pc := nextPc ((s.cl k).list u).length ((s.cl k).unit u).pc, wait := .none } else (s.cl k).unit u)) ∧
       t = { s with work := { s.work with clusters := t.work.clusters } } ∧
       (∀ k, t.cl k = { s.cl k with units := (t.cl k).units }))
  ∧ (∀ (s : State) (slot : Fin 256) (role : Fin 128) (b : Fin 8),
     (∃ k ∈ roleClusters s slot.val role.val, ∀ u < 4, ((s.cl k).unit u).wait ≠ .cbar b.val) →
     Machine.exec (.cbarRelease slot role b) s = .next (s))
  ∧ (∀ (s : State) (c : Fin 128) (u : Fin 4) (w : Nat),
     unitAt s c.val u.val 0xF5 w → wWaitt w = 0 → wSigen w = false → wLast w = false ∨ 2 ≤ u.val →
     s.now < invWord s c.val u.val (wA w) →
     Machine.exec (.twait c u) s = .next (s.setCl c.val ((s.cl c.val).setUnit u.val { ((s.cl c.val).unit u.val) with
             wait := .twait (invWord s c.val u.val (wA w)) })))
  ∧ (∀ (s : State) (c : Fin 128) (u : Fin 4) (w : Nat),
     unitAt s c.val u.val 0xF5 w → wWaitt w = 0 → wSigen w = false → wLast w = false ∨ 2 ≤ u.val →
     invWord s c.val u.val (wA w) ≤ s.now →
     Machine.exec (.twait c u) s = .next (unitTo s c.val u.val (nextPc ((s.cl c.val).list u.val).length
           ((s.cl c.val).unit u.val).pc)))
  ∧ (∀ (s : State) (c : Fin 128) (u : Fin 4) (w : Nat) (a : Nat),
     (s.cl c.val).word u.val = some w → wSigen w = false → wLast w = false ∨ 2 ≤ u.val →
     ((s.cl c.val).unit u.val).wait = .twait a → a ≤ s.now →
     Machine.exec (.twaitExpire c u) s = .next (unitTo s c.val u.val (nextPc ((s.cl c.val).list u.val).length
           ((s.cl c.val).unit u.val).pc)))
  ∧ (∀ (s : State) (c : Fin 128) (u : Fin 4) (a : Nat),
     ((s.cl c.val).unit u.val).wait = .twait a → s.now < a →
     Machine.exec (.twaitExpire c u) s = .next (s))

/-- An invocation that arrives for a role enters the input queue of every cluster of the role's set (an INVOKE), or
of the one with the shortest queue (a query), and runs. NEXT with an empty input queue leaves its unit idle. NEXT
that finds the cluster's first invocation loads its words and zeroes the tokens when it is the first unit to take it,
and the unit goes on behind NEXT. HALT retires its unit's list; once one list has halted and the others stand at NEXT
or have halted, the role has ended on the cluster, which becomes idle. -/
def Obligations.UnitsTakeInvocationsInTurn : Prop :=
  (∀ (s : State) (slot : Fin 256) (role : Fin 128) (i : Nat) (v : Inv),
   roleClusters s slot.val role.val ≠ [] → (roleClusters s slot.val role.val).Nodup →
   (s.work.invs.filter (fun (kv : Nat × Inv) => kv.2.plan = slot.val && kv.2.role = role.val && kv.2.state ==
         .arriving)) = [(i, v)] →
   v.qid = none →
   ∃ t, Machine.exec (.invocationArrive slot role) s = .next t ∧
     tget? t.work.invs i = some { v with state := .running, left := roleClusters s slot.val role.val } ∧
     (∀ k, t.cl k = (if k ∈ roleClusters s slot.val role.val then { s.cl k with input := (s.cl k).input ++ [i] }
           else s.cl k)) ∧
     t = { s with
         work := { s.work with
             invs := tput s.work.invs i { v with state := .running, left := roleClusters s slot.val role.val },
             clusters := t.work.clusters } })
  ∧ (∀ (s : State) (slot : Fin 256) (role : Fin 128) (i q k : Nat) (v : Inv),
     roleClusters s slot.val role.val ≠ [] →
     (s.work.invs.filter (fun (kv : Nat × Inv) => kv.2.plan = slot.val && kv.2.role = role.val && kv.2.state ==
           .arriving)) = [(i, v)] →
     v.qid = some q → k ∈ roleClusters s slot.val role.val →
     (∀ j ∈ roleClusters s slot.val role.val, j = k ∨ (s.cl k).input.length < (s.cl j).input.length) →
     Machine.exec (.invocationArrive slot role) s = .next ({ s with
           work := { s.work with
               invs := tput s.work.invs i { v with state := .running, left := [k] },
               clusters := tput s.work.clusters k { s.cl k with input := (s.cl k).input ++ [i] } } }))
  ∧ (∀ (s : State) (c : Fin 128) (u : Fin 4) (w : Nat),
     unitAt s c.val u.val 0xF8 w → wWaitt w = 0 → (s.cl c.val).input = [] →
     (∀ k < 4, ((s.cl c.val).unit k).halted = false) →
     Machine.exec (.next c u) s = .next (s.setCl c.val ((s.cl c.val).setUnit u.val { ((s.cl c.val).unit u.val) with
             inv := none, wait := .next,
             taken := (if clUnloading s (s.cl c.val) then ((s.cl c.val).unit u.val).taken else 0) })))
  ∧ (∀ (s : State) (c : Fin 128) (u : Fin 4) (w : Nat) (i : Nat) (v : Inv),
     unitAt s c.val u.val 0xF8 w → wWaitt w = 0 → wLast w = false ∨ 2 ≤ u.val → (s.cl c.val).input.head? = some i →
     tget? s.work.invs i = some v → clUnloading s (s.cl c.val) = false →
     (∀ k < 4, ((s.cl c.val).unit k).halted = false ∧ ((s.cl c.val).unit k).taken = 0) →
     Machine.exec (.next c u) s = .next (s.setCl c.val ({ (s.cl c.val) with
             tokens := (if wSigen w then [(wSigt w, 1)] else []), draws := [] }.setUnit u.val { ((s.cl c.val).unit
               u.val) with
             taken := 1, inv := some i, words := v.words,
             pc := nextPc ((s.cl c.val).list u.val).length ((s.cl c.val).unit u.val).pc, wait := .none })))
  ∧ (∀ (s : State) (c : Fin 128) (u : Fin 4) (w : Nat),
     unitAt s c.val u.val 0xFF w → wWaitt w = 0 → wSigen w = false → wLast w = false ∨ 2 ≤ u.val →
     (s.cl c.val).input = [] → (∃ k < 4, k ≠ u.val ∧ atNext (s.cl c.val) k = false) →
     Machine.exec (.halt c u) s = .next (s.setCl c.val ((s.cl c.val).setUnit u.val { ((s.cl c.val).unit u.val) with
             inv := none, halted := true, wait := .none })))
  ∧ (∀ (s : State) (c : Fin 128) (u : Fin 4) (w : Nat) (slot : Nat),
     unitAt s c.val u.val 0xFF w → (s.cl c.val).input = [] → (∀ k < 4, k ≠ u.val → atNext (s.cl c.val) k = true) →
     (s.cl c.val).plan = some slot → (∀ p ∈ s.work.invs, c.val ∉ p.2.left) → s.err.inj = [] →
     ∃ t, Machine.exec (.halt c u) s = .next t ∧
       (t.cl c.val).st = .idle ∧
       c.val ∉ roleClusters t slot (s.cl c.val).role ∧
       (∀ k, k ≠ c.val → t.cl k = s.cl k) ∧
       t.host = s.host ∧ t.tier = s.tier ∧ t.fab = s.fab ∧ t.epo = s.epo ∧ t.flash = s.flash ∧ t.mbr = s.mbr ∧
         t.pkg = s.pkg ∧ t.out = s.out)

/-- Ready words of the tensor unit. Every TMMA ends at once, touching only its cluster's scratch, accumulator,
conversion counts and draws. With integer operands and a cleared accumulator each accumulator is the exact sum of the
K products: it never saturates. Accumulating, the old value joins and the sum saturates at the INT32 bounds. Unscaled
floating operands accumulate in FP32, each product joining exactly with one rounding. A raw INT32 write-out stores
the sums at OPC row by row; one with a FIXED record to an integer format stores them through MULT and SHIFT. TDIST on
unscaled operands writes the squared distance or the inner product in dimension order, a NaN replaced by the worst
score. TZERO zeroes the accumulator. -/
def Obligations.TensorUnitMultiplies : Prop :=
  (∀ (s : State) (c : Fin 128) (w : Nat),
   unitAt s c.val 0 0x01 w →
   ∃ t, Machine.exec (.tmma c) s = .next t ∧
     onlyCluster s t c.val ∧
     onlyCompute s t c.val ∧
     behind s t c.val 0 w ∧
     (tAcc w < 2 → (t.cl c.val).scratch = (s.cl c.val).scratch ∧ (t.cl c.val).satConv = (s.cl c.val).satConv) ∧
     scrSame s t c.val (gran (wC w)) (fmtBytes (tOf w) (tM w * tN w)))
  ∧ (∀ (s : State) (c : Fin 128) (w : Nat) (i j : Nat),
     unitAt s c.val 0 0x01 w → (tAf w).isInt = true ∧ (tBf w).isInt = true ∧ tAf w ≠ .int32 ∧ tBf w ≠ .int32 →
     tAcc w % 2 = 0 → i < tM w → j < tN w →
     ∃ t, Machine.exec (.tmma c) s = .next t ∧
       sext 32 (tgetD (t.cl c.val).acc (i * 1024 + j) 0) = ((List.range (tK w)).map (fun (k : Nat) => (tAf w).elemInt
             (scrElem (s.cl c.val) (tAf w) (gran (wA w)) (i * tK w + k)) * (tBf w).elemInt
             (scrElem (s.cl c.val) (tBf w) (gran (wB w)) (k * tN w + j)))).foldl (fun (m n : Int) => m + n) 0 ∧
       (t.cl c.val).accInt = true ∧
       (t.cl c.val).accsat = (s.cl c.val).accsat)
  ∧ (∀ (s : State) (c : Fin 128) (w : Nat) (i j : Nat),
     unitAt s c.val 0 0x01 w → (tAf w).isInt = true ∧ (tBf w).isInt = true ∧ tAf w ≠ .int32 ∧ tBf w ≠ .int32 →
     tAcc w % 2 = 1 → (s.cl c.val).accInt = true → i < tM w → j < tN w →
     ∃ t, Machine.exec (.tmma c) s = .next t ∧
       tgetD (t.cl c.val).acc (i * 1024 + j) 0 = wrapTo 32 (dotInt (tAf w) (tBf w)
           (sext 32 (tgetD (s.cl c.val).acc (i * 1024 + j) 0)) (((List.range (tK w)).map (fun (k : Nat) => scrElem
                 (s.cl c.val) (tAf w) (gran (wA w)) (i * tK w + k))).zip ((List.range (tK w)).map (fun (k : Nat) =>
                 scrElem (s.cl c.val) (tBf w) (gran (wB w)) (k * tN w + j))))).1)
  ∧ (∀ (s : State) (c : Fin 128) (w : Nat) (i j : Nat),
     unitAt s c.val 0 0x01 w → (tAf w).isInt = false ∨ (tBf w).isInt = false →
     (tAf w).isPi = false ∧ (tAf w).isMx = false → (tBf w).isPi = false ∧ (tBf w).isMx = false →
     tAcc w % 2 = 0 ∨ (s.cl c.val).accInt = false → i < tM w → j < tN w →
     ∃ t, Machine.exec (.tmma c) s = .next t ∧
       tgetD (t.cl c.val).acc (i * 1024 + j) 0 = dotFp (tAf w) (tBf w) (if tAcc w % 2 = 1 then tgetD (s.cl c.val).acc
           (i * 1024 + j) 0 else 0) (((List.range (tK w)).map (fun (k : Nat) => scrElem (s.cl c.val) (tAf w)
               (gran (wA w)) (i * tK w + k))).zip ((List.range (tK w)).map (fun (k : Nat) => scrElem (s.cl c.val)
               (tBf w) (gran (wB w)) (k * tN w + j)))) ∧
       (t.cl c.val).accInt = false)
  ∧ (∀ (s : State) (c : Fin 128) (w : Nat) (i j : Nat),
     unitAt s c.val 0 0x01 w → (tAf w).isInt = true ∧ (tBf w).isInt = true ∧ tAf w ≠ .int32 ∧ tBf w ≠ .int32 →
     tAcc w = 2 → tRs w = 0 → tOf w = .int32 → i < tM w → j < tN w →
     ∃ t, Machine.exec (.tmma c) s = .next t ∧
       sext 32 (scrElem (t.cl c.val) .int32 (gran (wC w)) (i * tN w + j)) = ((List.range (tK w)).map (fun (k : Nat)
             => (tAf w).elemInt (scrElem (s.cl c.val) (tAf w) (gran (wA w)) (i * tK w + k)) * (tBf w).elemInt
             (scrElem (s.cl c.val) (tBf w) (gran (wB w)) (k * tN w + j)))).foldl (fun (m n : Int) => m + n) 0)
  ∧ (∀ (s : State) (c : Fin 128) (w : Nat) (i j : Nat),
     unitAt s c.val 0 0x01 w → (tAf w).isInt = true ∧ (tBf w).isInt = true ∧ tAf w ≠ .int32 ∧ tBf w ≠ .int32 →
     (tAf w).isPi = false ∧ (tAf w).isMx = false → (tBf w).isPi = false ∧ (tBf w).isMx = false → tAcc w = 2 →
     tRs w = 1 → (tOf w).isInt = true → i < tM w → j < tN w →
     ∃ t, Machine.exec (.tmma c) s = .next t ∧
       (let so := Scale.ofBits (getLE (clConst s c.val (wD w)) 0 4)
        let f := rescaleFactor fvOne fvOne so.val
        scrElem (t.cl c.val) (tOf w) (gran (wC w)) (i * tN w + j) = wrapTo (tOf w).bits (rescale (multShift f.1 f.2).1
            (multShift f.1 f.2).2 so.zp (tOf w).range.1 (tOf w).range.2 (((List.range (tK w)).map (fun (k : Nat) =>
                  (tAf w).elemInt (scrElem (s.cl c.val) (tAf w) (gran (wA w)) (i * tK w + k)) * (tBf w).elemInt
                  (scrElem (s.cl c.val) (tBf w) (gran (wB w)) (k * tN w + j)))).foldl (fun (m n : Int) => m + n) 0)).1
          % 2 ^ (tOf w).bits) ∧
       tgetD (t.cl c.val).satConv (wSlot 0 w) 0 = bump (tgetD (s.cl c.val).satConv (wSlot 0 w) 0) (tM w * tN w))
  ∧ (∀ (s : State) (c : Fin 128) (w : Nat) (i j : Nat),
     unitAt s c.val 0 0x02 w → (tAf w).isPi = false ∧ (tAf w).isMx = false →
     (tBf w).isPi = false ∧ (tBf w).isMx = false → tRs w ≠ 1 → i < tM w → j < tN w →
     ∃ t, Machine.exec (.tdist c) s = .next t ∧
       onlyCluster s t c.val ∧
       onlyCompute s t c.val ∧
       behind s t c.val 0 w ∧
       scrSame s t c.val (gran (wC w)) (4 * tM w * tN w) ∧
       (t.cl c.val).acc = (s.cl c.val).acc ∧
       (let q := (List.range (tK w)).map (fun (k : Nat) => f32r ((tAf w).elem
              (scrElem (s.cl c.val) (tAf w) (gran (wA w)) (i * tK w + k))))
        let v := (List.range (tK w)).map (fun (k : Nat) => f32r ((tBf w).elem
              (scrElem (s.cl c.val) (tBf w) (gran (wB w)) (j * tK w + k))))
        scrElem (t.cl c.val) .fp32 (gran (wC w)) (i * tN w + j) = (cleanScore (tRs w)
            (if tRs w = 2 then distF q v else dotF q v)).1))
  ∧ (∀ (s : State) (c : Fin 128) (w : Nat),
     unitAt s c.val 0 0x03 w →
     ∃ t, Machine.exec (.tzero c) s = .next t ∧
       onlyCluster s t c.val ∧
       onlyCompute s t c.val ∧
       behind s t c.val 0 w ∧
       (t.cl c.val).acc = [] ∧ (t.cl c.val).accInt = true ∧ (t.cl c.val).scratch = (s.cl c.val).scratch ∧
         (t.cl c.val).accsat = (s.cl c.val).accsat)

/-- A ready VSTREAM of a model in a slot copies its layer, once it has arrived, into its half of the window, goes on,
and marks the slot used by its invocation now; while the model is loading and the layer is not there the unit waits.
A model without a slot takes the lowest EMPTY one, which starts LOADING, or its invocation waits. An arriving layer
is added to the slot's, with the bytes of its tiles; with the last one the slot is RESIDENT. A free slot starts the
model of the unit that waits for one. -/
def Obligations.ModelsStreamByLayers : Prop :=
  (∀ (s : State) (c : Fin 128) (w : Nat) (e : ModelEnt) (i : Nat) (m : Model) (bytes : List Byte),
   unitAt s c.val 1 0x11 w → streamModel s c.val w = some e → modelSlot s (s.cl c.val).part e.id = some (i, m) →
   m.data[invWord s c.val 1 (wB w)]? = some bytes → bytes.length ≤ 1048576 → unitInv s c.val 1 = none →
   (tget? s.work.models i) = some m →
   ∃ t, Machine.exec (.vstream c) s = .next t ∧
     scrRead (t.cl c.val) (windowAddr s c.val w (invWord s c.val 1 (wB w))) bytes.length = bytes ∧
     scrSame s t c.val (windowAddr s c.val w (invWord s c.val 1 (wB w))) bytes.length ∧
     onlyCompute s t c.val ∧
     behind s t c.val 1 w ∧
     t = { s with
         work := { s.work with
             clusters := tput s.work.clusters c.val (t.cl c.val),
             models := tput s.work.models i { m with lastUse := s.now } }, pmc := t.pmc })
  ∧ (∀ (s : State) (c : Fin 128) (w : Nat) (e : ModelEnt) (i : Nat) (m : Model),
     unitAt s c.val 1 0x11 w → streamModel s c.val w = some e → modelSlot s (s.cl c.val).part e.id = some (i, m) →
     m.data[invWord s c.val 1 (wB w)]? = none → m.state = .loading → invWord s c.val 1 (wB w) < m.total →
     unitInv s c.val 1 = none → (tget? s.work.models i) = some m →
     ∃ t, Machine.exec (.vstream c) s = .next t ∧
       ((t.cl c.val).unit 1).wait = .model ∧ ((t.cl c.val).unit 1).pc = ((s.cl c.val).unit 1).pc ∧
         (t.cl c.val).scratch = (s.cl c.val).scratch ∧
       t.work.models = tput s.work.models i { m with lastUse := s.now })
  ∧ (∀ (s : State) (c : Fin 128) (w : Nat) (e : ModelEnt) (i : Nat),
     unitAt s c.val 1 0x11 w → streamModel s c.val w = some e → modelSlot s (s.cl c.val).part e.id = none →
     tfreeBelow s.work.models 32 = some i → unitInv s c.val 1 = none →
     ∃ t, Machine.exec (.vstream c) s = .next t ∧
       ((t.cl c.val).unit 1).wait = .model ∧ ((t.cl c.val).unit 1).pc = ((s.cl c.val).unit 1).pc ∧
       tget? t.work.models i = some { id := e.id, prio := e.prio, part := (s.cl c.val).part, state := .loading,
                                      lastUse := s.now, users := [], total := e.layers,
                                      tile := modelFirst s c.val e, step := e.maxTiles, data := [] } ∧
       (∀ k, k ≠ i → tget? t.work.models k = tget? s.work.models k))
  ∧ (∀ (s : State) (c : Fin 128) (w : Nat) (e : ModelEnt) (i : Nat) (v : Inv),
     unitAt s c.val 1 0x11 w → streamModel s c.val w = some e → modelSlot s (s.cl c.val).part e.id = none →
     slotToTake s = none → unitInv s c.val 1 = some i → tget? s.work.invs i = some v →
     ∃ t, Machine.exec (.vstream c) s = .next t ∧
       ((t.cl c.val).unit 1).wait = .model ∧
       t.work.models = s.work.models ∧ tget? t.work.invs i = some { v with waitModel := some e.id })
  ∧ (∀ (s : State) (m : Fin 32) (x : Model),
     tget? s.work.models m.val = some x → x.state = .loading → x.step = 1 →
     streamWaiters { s with work.models := [] } = [] → s.err.inj = [] ∧ s.err.repairing = [] →
     fld (s.adm x.part).reg 47 32 = 0 →
     (s.home (x.tile + x.data.length)).st = .home ∧ (s.home (x.tile + x.data.length)).tier = 1 ∧
       tget? s.work.resTiles (x.tile + x.data.length) = none ∧ tget? s.tier.moves (x.tile + x.data.length) = none ∧
       intervalPoisoned s (x.tile + x.data.length) 0 65536 = false →
     ∃ t, Machine.exec (.modelLayerArrive m) s = .next t ∧
       tget? t.work.models m.val = some { x with
           data := x.data ++ [mreadN s.tier.mem ((x.tile + x.data.length) * 65536) 65536],
           state := (if x.total ≤ x.data.length + 1 then .resident else .loading) } ∧
       t.work.clusters = s.work.clusters ∧ t.tier.mem = s.tier.mem ∧ t.out = s.out)
  ∧ (∀ (s : State) (m : Fin 32) (c w i : Nat) (e : ModelEnt),
     tget? s.work.models m.val = none → streamWaiters s = [(c, w)] → streamModel s c w = some e →
     modelSlot s (s.cl c).part e.id = none → tfreeBelow s.work.models 32 = some i → unitInv s c 1 = none →
     ∃ t, Machine.exec (.modelSlotFree m) s = .next t ∧
       (tget? t.work.models i).map (fun m => (m.id, m.part, m.state, m.total)) = some
         (e.id, (s.cl c).part, .loading, e.layers) ∧
       (∀ k, k ≠ i → tget? t.work.models k = tget? s.work.models k))

/-- A ready word of the vector unit that converts. VCONV to an unscaled format writes OPD elements at OPC, element i
the source element (under its group's stored scale when the source is scaled) rounded to the target under RND and
NSAT; to a scaled target under the group's scale stored at OPB, zero for a group without a finite non-zero value.
VPROOF writes at OPB one scale per group, the one of R54 to R56, and counts non-finite inputs. VPCONV does both over
blocks of 32. VRESCALE SUB 0 brings INT32 sums to an integer target by MULT and SHIFT under free input scales. Each
conversion adds OPD to the slot's SAT_CONV; scratch outside what is written, the accumulator and everything else of
the node is unchanged. -/
def Obligations.ConversionsWriteElements : Prop :=
  (∀ (s : State) (c : Fin 128) (w : Nat) (i : Nat),
   unitAt s c.val 1 0x04 w → i < wD w → (vSf w).bits ≤ 32 → scaled (vSf w) (vGran w) = false →
   scaled (vDf w) (vGran w) = false →
   ∃ t, Machine.exec (.vconv c) s = .next t ∧
     onlyCluster s t c.val ∧
     onlyCompute s t c.val ∧
     behind s t c.val 1 w ∧
     scrSame s t c.val (gran (wC w)) (fmtBytes (vDf w) (wD w)) ∧
     (t.cl c.val).acc = (s.cl c.val).acc ∧ (t.cl c.val).accInt = (s.cl c.val).accInt ∧
       (t.cl c.val).accsat = (s.cl c.val).accsat ∧
     tgetD (t.cl c.val).satConv (vSlot w) 0 = bump (tgetD (s.cl c.val).satConv (vSlot w) 0) (wD w) ∧
     scrElem (t.cl c.val) (vDf w) (gran (wC w)) i = (encElem (vDf w) (rndOf s c.val 1 (vRnd w) i) (vNsat w) fvOne 0
         ((vSf w).elem (scrElem (s.cl c.val) (vSf w) (gran (wA w)) i))).1 % 2 ^ (vDf w).bits)
  ∧ (∀ (s : State) (c : Fin 128) (w : Nat) (i : Nat),
     unitAt s c.val 1 0x04 w → i < wD w → scaled (vSf w) (vGran w) = true → scaled (vDf w) (vGran w) = false →
     ∃ t, Machine.exec (.vconv c) s = .next t ∧
       onlyCluster s t c.val ∧
       onlyCompute s t c.val ∧
       behind s t c.val 1 w ∧
       scrSame s t c.val (gran (wC w)) (fmtBytes (vDf w) (wD w)) ∧
       (t.cl c.val).acc = (s.cl c.val).acc ∧ (t.cl c.val).accInt = (s.cl c.val).accInt ∧
         (t.cl c.val).accsat = (s.cl c.val).accsat ∧
       tgetD (t.cl c.val).satConv (vSlot w) 0 = bump (tgetD (s.cl c.val).satConv (vSlot w) 0) (wD w) ∧
       (let k := groupScale s c.val (vSf w) (gran (wB w)) (i / groupLen w (vSf w) (vGran w) (wD w))
        let e := valElem (vSf w) k.1 k.2 (scrElem (s.cl c.val) (vSf w) (gran (wA w)) i)
        scrElem (t.cl c.val) (vDf w) (gran (wC w)) i = (encElem (vDf w) (rndOf s c.val 1 (vRnd w) i) (vNsat w) fvOne
            0 e).1 % 2 ^ (vDf w).bits))
  ∧ (∀ (s : State) (c : Fin 128) (w : Nat) (i : Nat),
     unitAt s c.val 1 0x04 w → wD w ≤ 32 → i < wD w → scaled (vSf w) (vGran w) = false →
     scaled (vDf w) (vGran w) = true → vGran w = 2 ∨ (vDf w).isMx = true →
     ∃ t, Machine.exec (.vconv c) s = .next t ∧
       onlyCluster s t c.val ∧
       onlyCompute s t c.val ∧
       behind s t c.val 1 w ∧
       scrSame s t c.val (gran (wC w)) (fmtBytes (vDf w) (wD w)) ∧
       (t.cl c.val).acc = (s.cl c.val).acc ∧ (t.cl c.val).accInt = (s.cl c.val).accInt ∧
         (t.cl c.val).accsat = (s.cl c.val).accsat ∧
       tgetD (t.cl c.val).satConv (vSlot w) 0 = bump (tgetD (s.cl c.val).satConv (vSlot w) 0) (wD w) ∧
       (let vs := (scrElems (s.cl c.val) (vSf w) (gran (wA w)) (wD w)).map (vSf w).elem
        let k := groupScale s c.val (vDf w) (gran (wB w)) 0
        scrElem (t.cl c.val) (vDf w) (gran (wC w)) i = (if (maxMag vs).1 = 0 ∨ k.1.isZero = true then 0 else
            (encElem (vDf w) (rndOf s c.val 1 (vRnd w) i) (vNsat w) k.1 k.2 (vs.getD i .nan)).1 % 2 ^ (vDf w).bits)))
  ∧ (∀ (s : State) (c : Fin 128) (w : Nat) (g : Nat),
     unitAt s c.val 1 0x03 w → proofable (vDf w) (vGran w) = true → (vSf w).isPi = false → (vSf w).isMx = false →
     g * groupLen w (vDf w) (vGran w) (wD w) < wD w →
     ∃ t, Machine.exec (.vproof c) s = .next t ∧
       onlyCluster s t c.val ∧
       onlyCompute s t c.val ∧
       behind s t c.val 1 w ∧
       scrSame s t c.val (gran (wB w)) (scaleBytes (vDf w) * ceilDiv (wD w) (groupLen w (vDf w) (vGran w) (wD w))) ∧
       (t.cl c.val).acc = (s.cl c.val).acc ∧ (t.cl c.val).accInt = (s.cl c.val).accInt ∧
         (t.cl c.val).accsat = (s.cl c.val).accsat ∧
       (let vs := (scrElems (s.cl c.val) (vSf w) (gran (wA w)) (wD w)).map (vSf w).elem
        let m := groupLen w (vDf w) (vGran w) (wD w)
        leNat (scrRead (t.cl c.val) (gran (wB w) + g * scaleBytes (vDf w)) (scaleBytes (vDf w))) = proofGroup
          (vDf w) (vClip w) ((vs.drop (g * m)).take m) % 2 ^ (8 * scaleBytes (vDf w))) ∧
       (t.cl c.val).nonfin = (if nonfinite ((scrElems (s.cl c.val) (vSf w) (gran (wA w)) (wD w)).map (vSf w).elem) =
           0 then (s.cl c.val).nonfin else bump (s.cl c.val).nonfin (nonfinite ((scrElems (s.cl c.val) (vSf w)
                 (gran (wA w)) (wD w)).map (vSf w).elem))))
  ∧ (∀ (s : State) (c : Fin 128) (w : Nat) (i : Nat),
     unitAt s c.val 1 0x05 w → proofable (vDf w) 2 = true → (vSf w).isPi = false → (vSf w).isMx = false →
     wD w ≤ 32 → i < wD w → gran (wB w) + 4 ≤ gran (wC w) ∨ gran (wC w) + 32 ≤ gran (wB w) → wC w < 65535 →
     ∃ t, Machine.exec (.vpconv c) s = .next t ∧
       onlyCluster s t c.val ∧
       onlyCompute s t c.val ∧
       behind s t c.val 1 w ∧
       (t.cl c.val).acc = (s.cl c.val).acc ∧ (t.cl c.val).accInt = (s.cl c.val).accInt ∧
         (t.cl c.val).accsat = (s.cl c.val).accsat ∧
       tgetD (t.cl c.val).satConv (vSlot w) 0 = bump (tgetD (s.cl c.val).satConv (vSlot w) 0) (wD w) ∧
       (let vs := (scrElems (s.cl c.val) (vSf w) (gran (wA w)) (wD w)).map (vSf w).elem
        let k := proofGroup (vDf w) (vClip w) vs
        leNat (scrRead (t.cl c.val) (gran (wB w)) (scaleBytes (vDf w))) = k % 2 ^ (8 * scaleBytes (vDf w)) ∧
          scrElem (t.cl c.val) (vDf w) (gran (wC w)) i = (if (maxMag vs).1 = 0 ∨ (scaleOf (vDf w) k).1.isZero = true
              then 0 else (encElem (vDf w) (rndOf s c.val 1 (vRnd w) i) (vNsat w) (scaleOf (vDf w) k).1
                (scaleOf (vDf w) k).2 (vs.getD i .nan)).1 % 2 ^ (vDf w).bits)))
  ∧ (∀ (s : State) (c : Fin 128) (w : Nat) (i : Nat),
     unitAt s c.val 1 0x06 w → i < wD w → (vDf w).isInt = true → vSub w = 0 →
     ∃ t, Machine.exec (.vrescale c) s = .next t ∧
       onlyCluster s t c.val ∧
       onlyCompute s t c.val ∧
       behind s t c.val 1 w ∧
       scrSame s t c.val (gran (wC w)) (fmtBytes (vDf w) (wD w)) ∧
       (t.cl c.val).acc = (s.cl c.val).acc ∧ (t.cl c.val).accInt = (s.cl c.val).accInt ∧
         (t.cl c.val).accsat = (s.cl c.val).accsat ∧
       tgetD (t.cl c.val).satConv (vSlot w) 0 = bump (tgetD (s.cl c.val).satConv (vSlot w) 0) (wD w) ∧
       (let f := rescaleFactor (scaleOf .pi8 (fld (Config.freeWord s.freeCtr) 31 0)).1
          (scaleOf .pi8 (fld (Config.freeWord (s.freeCtr + 1)) 31 0)).1
          (Scale.ofBits (getLE (clConst s c.val (wB w)) 0 4)).val
        let so := Scale.ofBits (getLE (clConst s c.val (wB w)) 0 4)
        scrElem (t.cl c.val) (vDf w) (gran (wC w)) i = wrapTo (vDf w).bits (rescale (multShift f.1 f.2).1
            (multShift f.1 f.2).2 so.zp (vDf w).range.1 (vDf w).range.2
            (sext 32 (scrElem (s.cl c.val) .int32 (gran (wA w)) i))).1 % 2 ^ (vDf w).bits))

/-- A ready word of the vector unit on unscaled operands. VEW on integer formats is exact before its conversion: sum,
difference, product, product plus the destination's old element, maximum and minimum; on floating formats it is the
FP32 result. VRED of an integer source writes the exact sum. VARGMAX writes the index of the first maximum (minimum
for SUB 2), NaN skipped, 0xFFFFFFFF when there is none, and for SUB 1 and 2 the value. VDIST writes OPD free scores,
a NaN replaced by the worst one. VFILT writes the candidates that pass the program, in order, and padding behind
them, and counts both. Each writes only its destination. -/
def Obligations.VectorArithmeticAndScans : Prop :=
  (∀ (s : State) (c : Fin 128) (w : Nat) (i : Nat) (v : Fv),
   unitAt s c.val 1 0x07 w → i < wD w →
   (vSf w).isPi = false ∧ (vSf w).isMx = false ∧ (vDf w).isPi = false ∧ (vDf w).isMx = false →
   ewVal ((vSf w).isInt && (vDf w).isInt) (vSub w) ((vSf w).elem (scrElem (s.cl c.val) (vSf w) (gran (wA w)) i))
     ((vSf w).elem (scrElem (s.cl c.val) (vSf w) (gran (wB w)) i)) ((vDf w).elem
       (scrElem (s.cl c.val) (vDf w) (gran (wC w)) i)) = some v →
   ∃ t, Machine.exec (.vew c) s = .next t ∧
     onlyCluster s t c.val ∧
     onlyCompute s t c.val ∧
     behind s t c.val 1 w ∧
     scrSame s t c.val (gran (wC w)) (fmtBytes (vDf w) (wD w)) ∧
     (t.cl c.val).acc = (s.cl c.val).acc ∧ (t.cl c.val).accInt = (s.cl c.val).accInt ∧
       (t.cl c.val).accsat = (s.cl c.val).accsat ∧
     tgetD (t.cl c.val).satConv (vSlot w) 0 = bump (tgetD (s.cl c.val).satConv (vSlot w) 0) (wD w) ∧
     scrElem (t.cl c.val) (vDf w) (gran (wC w)) i = (encElem (vDf w) (rndOf s c.val 1 (vRnd w) i) (vNsat w) fvOne 0
         v).1 % 2 ^ (vDf w).bits)
  ∧ (∀ (s : State) (c : Fin 128) (w : Nat),
     unitAt s c.val 1 0x08 w → vSub w = 0 → vSf w = .int8 ∨ vSf w = .int4 ∨ vSf w = .uint8 ∨ vSf w = .int32 →
     vDf w = .int32 → vRnd w = false →
     ∃ t, Machine.exec (.vred c) s = .next t ∧
       onlyCluster s t c.val ∧
       onlyCompute s t c.val ∧
       behind s t c.val 1 w ∧
       scrSame s t c.val (gran (wC w)) (4) ∧
       (t.cl c.val).acc = (s.cl c.val).acc ∧ (t.cl c.val).accInt = (s.cl c.val).accInt ∧
         (t.cl c.val).accsat = (s.cl c.val).accsat ∧
       tgetD (t.cl c.val).satConv (vSlot w) 0 = bump (tgetD (s.cl c.val).satConv (vSlot w) 0) (1) ∧
       sext 32 (scrElem (t.cl c.val) .int32 (gran (wC w)) 0) = (clampI (-(2 ^ 31)) (2 ^ 31 - 1) (((scrElems
                 (s.cl c.val) (vSf w) (gran (wA w)) (wD w)).map (vSf w).elemInt).foldl (· + ·) 0)).1)
  ∧ (∀ (s : State) (c : Fin 128) (w : Nat) (i : Nat),
     unitAt s c.val 1 0x09 w → vSf w ∈ [Fmt.int8, .uint8, .int32, .e4m3, .e5m2, .fp16, .bf16, .fp32] → vSub w ≤ 2 →
     i < wD w → (vSf w).elem (scrElem (s.cl c.val) (vSf w) (gran (wA w)) i) ≠ .nan →
     (∀ j < wD w, if vSub w = 2 then ((vSf w).elem (scrElem (s.cl c.val) (vSf w) (gran (wA w)) j)).lt ((vSf w).elem
           (scrElem (s.cl c.val) (vSf w) (gran (wA w)) i)) = false else ((vSf w).elem
           (scrElem (s.cl c.val) (vSf w) (gran (wA w)) i)).lt ((vSf w).elem
           (scrElem (s.cl c.val) (vSf w) (gran (wA w)) j)) = false) →
     (∀ j < i, (vSf w).elem (scrElem (s.cl c.val) (vSf w) (gran (wA w)) j) = .nan ∨ (if vSub w = 2 then ((vSf w).elem
             (scrElem (s.cl c.val) (vSf w) (gran (wA w)) i)).lt ((vSf w).elem
             (scrElem (s.cl c.val) (vSf w) (gran (wA w)) j)) = true else ((vSf w).elem
             (scrElem (s.cl c.val) (vSf w) (gran (wA w)) j)).lt ((vSf w).elem
             (scrElem (s.cl c.val) (vSf w) (gran (wA w)) i)) = true)) →
     ∃ t, Machine.exec (.vargmax c) s = .next t ∧
       onlyCluster s t c.val ∧
       onlyCompute s t c.val ∧
       behind s t c.val 1 w ∧
       scrSame s t c.val (gran (wC w)) (if vSub w = 0 then 4 else 8) ∧
       (t.cl c.val).acc = (s.cl c.val).acc ∧ (t.cl c.val).accInt = (s.cl c.val).accInt ∧
         (t.cl c.val).accsat = (s.cl c.val).accsat ∧
       leNat (scrRead (t.cl c.val) (gran (wC w)) 4) = i ∧
       (vSub w ≠ 0 →
           scrElem (t.cl c.val) .fp32 (gran (wC w)) 1 = (if (vSf w).isInt then wrapTo 32 ((vSf w).elemInt
               (scrElem (s.cl c.val) (vSf w) (gran (wA w)) i)) else f32r ((vSf w).elem
               (scrElem (s.cl c.val) (vSf w) (gran (wA w)) i)))))
  ∧ (∀ (s : State) (c : Fin 128) (w : Nat),
     unitAt s c.val 1 0x09 w → (∀ j < wD w, (vSf w).elem (scrElem (s.cl c.val) (vSf w) (gran (wA w)) j) = .nan) →
     vSub w ≤ 2 →
     ∃ t, Machine.exec (.vargmax c) s = .next t ∧
       onlyCluster s t c.val ∧
       onlyCompute s t c.val ∧
       behind s t c.val 1 w ∧
       scrSame s t c.val (gran (wC w)) (if vSub w = 0 then 4 else 8) ∧
       leNat (scrRead (t.cl c.val) (gran (wC w)) 4) = 0xFFFFFFFF ∧
       (vSub w ≠ 0 → scrElem (t.cl c.val) .fp32 (gran (wC w)) 1 = (if (vSf w).isInt then 0 else 0x7FC00000)))
  ∧ (∀ (s : State) (c : Fin 128) (w : Nat) (i : Nat),
     unitAt s c.val 1 0x0A w → i < wD w →
     ∃ t, Machine.exec (.vdist c) s = .next t ∧
       onlyCluster s t c.val ∧
       onlyCompute s t c.val ∧
       behind s t c.val 1 w ∧
       scrSame s t c.val (gran (wC w)) (4 * wD w) ∧
       (t.cl c.val).acc = (s.cl c.val).acc ∧ (t.cl c.val).accInt = (s.cl c.val).accInt ∧
         (t.cl c.val).accsat = (s.cl c.val).accsat ∧
       scrElem (t.cl c.val) .fp32 (gran (wC w)) i = (if f32isNan (fld (Config.freeWord (s.freeCtr + i)) 31 0) then
           worstScore (vSub w) else fld (Config.freeWord (s.freeCtr + i)) 31 0))
  ∧ (∀ (s : State) (c : Fin 128) (w : Nat) (terms : List Term) (qid : Nat) (q : Query),
     unitAt s c.val 1 0x0B w → unitQuery s c.val 1 = some (qid, q) →
     filterProg (clPlan s c.val).bin.consts (wD w) = some terms → (∀ m ∈ terms, tmPast (queryMeta s q) m = false) →
     ∃ t, Machine.exec (.vfilt c) s = .next t ∧
       (let es := candsAt (s.cl c.val) (gran (wA w)) 65536 0
        let flags := es.mapIdx (fun i e => (e, filterPass terms (scrRead (s.cl c.val)
                (gran (wB w) + i * queryMeta s q) (queryMeta s q)) (getLE q.desc 0x44 4) (getLE q.desc 0x48 4)))
        let yes := (flags.filter (·.2)).map (·.1)
        scrRead (t.cl c.val) (gran (wC w)) (16 * yes.length) = yes.flatMap REnt.bytes ∧ ∀ i, yes.length ≤ i →
          i ≤ es.length → (REnt.ofBytes (scrRead (t.cl c.val) (gran (wC w) + 16 * i) 16)).pad = true) ∧
       onlyCluster s t c.val ∧
       onlyCompute s t c.val ∧
       behind s t c.val 1 w ∧
       scrSame s t c.val (gran (wC w)) (16 * ((candsAt (s.cl c.val) (gran (wA w)) 65536 0).length + 1)))
  ∧ (∀ (s : State) (c : Fin 128) (w : Nat) (terms : List Term) (qid : Nat) (q : Query),
     unitAt s c.val 1 0x0B w → unitQuery s c.val 1 = some (qid, q) →
     filterProg (clPlan s c.val).bin.consts (wD w) = some terms → (∃ m ∈ terms, tmPast (queryMeta s q) m = true) →
     ∃ t, Machine.exec (.vfilt c) s = .next t ∧
       tget? t.work.queries qid = none ∧
       t.tier = s.tier ∧ t.flash = s.flash ∧ t.mbr = s.mbr ∧ t.pkg = s.pkg)

/-- Ready words of the vector unit, regulators unlimited, no error injected. VLOAD of tiles HOME in a stack brings
exactly their bytes to OPA; an UNMAPPED tile brings zeros; outside the partition's range the work ends. VSTORE stores
the scratch bytes in the tile and leaves every other byte of the tier space. VATOM on this node's own tier space
stores the new value and brings the old one to OPC; on another node it sends an ATOMIC and waits for the answer.
VSTFLAG sends a STORE with FLAG and goes on, unless an earlier store, put or atomic of the cluster is out, behind
which it waits unsent. VINVAL drops the range's remote lines, asks every row and column peer of the map, and waits
for all members. -/
def Obligations.VectorUnitReachesMemory : Prop :=
  (∀ (s : State) (c : Fin 128) (w : Nat),
   unitAt s c.val 1 0x01 w → 1 ≤ wD w ∧ wD w ≤ 32 →
   accessCheck s (s.cl c.val).part (constTile (clConst s c.val (wB w))) (wD w) = none →
   fld (s.adm (s.cl c.val).part).reg 47 32 = 0 → s.err.repairing = [] →
   (∀ i < wD w, (s.home (constTile (clConst s c.val (wB w)) + i)).st ≠ .unmapped ∧
       (s.home (constTile (clConst s c.val (wB w)) + i)).st ≠ .poisoned ∧
       (s.home (constTile (clConst s c.val (wB w)) + i)).tier = 1 ∧
       tget? s.work.resTiles (constTile (clConst s c.val (wB w)) + i) = none ∧
       tget? s.tier.moves (constTile (clConst s c.val (wB w)) + i) = none ∧
       intervalPoisoned s (constTile (clConst s c.val (wB w)) + i) 0 65536 = false) →
   ∃ t, Machine.exec (.vload c) s = .next t ∧
     scrRead (t.cl c.val) (gran (wA w)) (wD w * 65536) = mreadN s.tier.mem
       (constTile (clConst s c.val (wB w)) * 65536) (wD w * 65536) ∧
     scrSame s t c.val (gran (wA w)) (wD w * 65536) ∧
     onlyCompute s t c.val ∧
     behind s t c.val 1 w ∧
     t = { s with
         host := { s.host with adm := t.host.adm, held := t.host.held },
         work := { s.work with clusters := tput s.work.clusters c.val (t.cl c.val) },
         tier := { s.tier with
             frames := t.tier.frames, ageClock := t.tier.ageClock, regions := t.tier.regions,
             moveWait := t.tier.moveWait }, pmc := t.pmc })
  ∧ (∀ (s : State) (c : Fin 128) (w : Nat),
     unitAt s c.val 1 0x01 w → wD w = 1 →
     accessCheck s (s.cl c.val).part (constTile (clConst s c.val (wB w))) 1 = none →
     fld (s.adm (s.cl c.val).part).reg 47 32 = 0 → s.err.repairing = [] →
     s.home (constTile (clConst s c.val (wB w))) = {} →
     tget? s.work.resTiles (constTile (clConst s c.val (wB w))) = none →
     tget? s.tier.moves (constTile (clConst s c.val (wB w))) = none →
     ∃ t, Machine.exec (.vload c) s = .next t ∧
       scrRead (t.cl c.val) (gran (wA w)) 65536 = List.replicate 65536 0 ∧
       scrSame s t c.val (gran (wA w)) 65536 ∧
       behind s t c.val 1 w ∧
       t = { s with
           host := { s.host with adm := t.host.adm, held := t.host.held },
           work := { s.work with clusters := tput s.work.clusters c.val (t.cl c.val) },
           tier := { s.tier with
               frames := t.tier.frames, ageClock := t.tier.ageClock, regions := t.tier.regions,
               moveWait := t.tier.moveWait }, pmc := t.pmc })
  ∧ (∀ (s : State) (c : Fin 128) (w : Nat) (i : Nat) (v : Inv),
     unitAt s c.val 1 0x01 w → 1 ≤ wD w →
     accessCheck s (s.cl c.val).part (constTile (clConst s c.val (wB w))) (wD w) = some stAdmitRefused →
     unitInv s c.val 1 = some i → tget? s.work.invs i = some v → v.qid = none → v.cid = none →
     tabWf s.work.invs = true →
     ∃ t, Machine.exec (.vload c) s = .next t ∧
       tget? t.work.invs i = none ∧
       bitOf (tgetD t.tier.err (s.cl c.val).part 0).toNat 0 = true ∧
       t.tier.mem = s.tier.mem ∧ (t.cl c.val).scratch = (s.cl c.val).scratch)
  ∧ (∀ (s : State) (c : Fin 128) (w : Nat),
     unitAt s c.val 1 0x02 w → wD w = 1 →
     accessCheck s (s.cl c.val).part (constTile (clConst s c.val (wB w))) 1 = none →
     fld (s.adm (s.cl c.val).part).reg 47 32 = 0 →
     (s.home (constTile (clConst s c.val (wB w)))).st = .home ∧
       (s.home (constTile (clConst s c.val (wB w)))).tier = 1 ∧
       tget? s.work.resTiles (constTile (clConst s c.val (wB w))) = none ∧
       tget? s.tier.moves (constTile (clConst s c.val (wB w))) = none →
     memWf s.tier.mem = true →
     ∃ t, Machine.exec (.vstore c) s = .next t ∧
       storesAt s.tier.mem t.tier.mem (constTile (clConst s c.val (wB w)) * 65536)
         (scrRead (s.cl c.val) (gran (wA w)) 65536) ∧
       (t.cl c.val).scratch = (s.cl c.val).scratch ∧
       behind s t c.val 1 w ∧
       t = { s with
           host := { s.host with adm := t.host.adm, held := t.host.held },
           work := { s.work with clusters := tput s.work.clusters c.val (t.cl c.val) },
           tier := { s.tier with
               mem := t.tier.mem, pois64 := t.tier.pois64, pois256 := t.tier.pois256, dirty := t.tier.dirty,
               frames := t.tier.frames, ageClock := t.tier.ageClock, regions := t.tier.regions,
               moveWait := t.tier.moveWait }, pmc := t.pmc })
  ∧ (∀ (s : State) (c : Fin 128) (w : Nat) (b : Nat),
     unitAt s c.val 1 0x0E w → atomicOk (vSub w) (constAddr (clConst s c.val (wA w))) = true →
     ownAddr s (constAddr (clConst s c.val (wA w))) = true →
     windowOf (constAddr (clConst s c.val (wA w))) = .tier b → fabTierCheck s (s.cl c.val).part b = none →
     fld (s.adm (s.cl c.val).part).reg 47 32 = 0 → s.err.repairing = [] → s.tier.stubs = [] →
     (s.home (b / 65536)).st = .home ∧ (s.home (b / 65536)).tier = 1 ∧ tget? s.work.resTiles (b / 65536) = none ∧
       tget? s.tier.moves (b / 65536) = none →
     intervalPoisoned s (b / 65536) (b % 65536) 4 = false → bitOf (vSub w) 4 = false → memWf s.tier.mem = true →
     ∃ t, Machine.exec (.vatom c) s = .next t ∧
       (let old := leNat (mreadN s.tier.mem b 4)
        let new := atomicNew (vSub w) 4 old (leNat (scrRead (s.cl c.val) (gran (wB w)) 4))
          (leNat (scrRead (s.cl c.val) (gran (wB w) + 4) 4))
        storesAt s.tier.mem t.tier.mem b (leBytes 4 new) ∧ leNat (scrRead (t.cl c.val) (gran (wC w)) 4) = old) ∧
       scrSame s t c.val (gran (wC w)) 4 ∧
       behind s t c.val 1 w ∧
       t.fab = s.fab ∧ t.out = s.out ∧ t.tier.home = s.tier.home)
  ∧ (∀ (s : State) (c : Fin 128) (w : Nat),
     unitAt s c.val 1 0x0E w → atomicOk (vSub w) (constAddr (clConst s c.val (wA w))) = true →
     ownAddr s (constAddr (clConst s c.val (wA w))) = false →
     nodeOf (addrNode (constAddr (clConst s c.val (wA w)))) ≠ s.fab.node →
     fld (s.adm (s.cl c.val).part).reg 15 0 = 0 →
     routeCands s (nodeOf (addrNode (constAddr (clConst s c.val (wA w))))) [] ≠ [] →
     ∃ t, Machine.exec (.vatom c) s = .next t ∧
       ((t.cl c.val).unit 1).wait = .resp s.fab.nextTag ∧
         ((t.cl c.val).unit 1).pending = ((s.cl c.val).unit 1).pending + 1 ∧
         ((t.cl c.val).unit 1).pc = ((s.cl c.val).unit 1).pc ∧
       (∃ port ∈ routeCands s (nodeOf (addrNode (constAddr (clConst s c.val (wA w))))) [], t.out = s.out ++
           [.packet port (stampPacket s { kind := kAtomic, dst := addrNode (constAddr (clConst s c.val (wA w))),
                                          src := s.fab.node, part := (s.cl c.val).part, flag := false, rcls := 0,
                                          len := 4, tag := s.fab.nextTag,
                                          addr := constAddr (clConst s c.val (wA w)), aux := vSub w,
                                          payload := leBytes 8 (leNat (scrRead (s.cl c.val) (gran (wB w)) 4)) ++
                                            leBytes 8 (leNat (scrRead (s.cl c.val) (gran (wB w) + 4) 4)) }).1]) ∧
       (tget? t.fab.reqs s.fab.nextTag).map (fun r => (r.kind, r.dst, r.addr, r.len, r.for_, r.t)) = some
         (kAtomic, addrNode (constAddr (clConst s c.val (wA w))), constAddr (clConst s c.val (wA w)), 4, .vatom
           c.val (gran (wC w)) 4, s.now) ∧
       t.tier = s.tier ∧ (t.cl c.val).scratch = (s.cl c.val).scratch)
  ∧ (∀ (s : State) (c : Fin 128) (w : Nat),
     unitAt s c.val 1 0x13 w → sizeOk (constAddr (clConst s c.val (wB w))) (wD w) = true →
     inDomainNum (addrNode (constAddr (clConst s c.val (wB w)))) = true →
     ownAddr s (constAddr (clConst s c.val (wB w))) = false →
     nodeOf (addrNode (constAddr (clConst s c.val (wB w)))) ≠ s.fab.node →
     fld (s.adm (s.cl c.val).part).reg 15 0 = 0 →
     routeCands s (nodeOf (addrNode (constAddr (clConst s c.val (wB w))))) [] ≠ [] → ordered s (.store c.val) = [] →
     ∃ t, Machine.exec (.vstflag c) s = .next t ∧
       ((t.cl c.val).unit 1).wait = .none ∧ ((t.cl c.val).unit 1).pending = ((s.cl c.val).unit 1).pending + 1 ∧
         ((t.cl c.val).unit 1).pc = nextPc ((s.cl c.val).list 1).length ((s.cl c.val).unit 1).pc ∧
       (∃ port ∈ routeCands s (nodeOf (addrNode (constAddr (clConst s c.val (wB w))))) [], t.out = s.out ++
           [.packet port (stampPacket s { kind := kStore, dst := addrNode (constAddr (clConst s c.val (wB w))),
                                          src := s.fab.node, part := (s.cl c.val).part, flag := true, rcls := 0,
                                          len := wD w, tag := s.fab.nextTag,
                                          addr := constAddr (clConst s c.val (wB w)), aux := 0,
                                          payload := scrRead (s.cl c.val) (gran (wA w)) (wD w) }).1]) ∧
       (tget? t.fab.reqs s.fab.nextTag).map (fun r => (r.kind, r.dst, r.addr, r.len, r.for_, r.t)) = some
         (kStore, addrNode (constAddr (clConst s c.val (wB w))), constAddr (clConst s c.val (wB w)), wD w, .store
           c.val, s.now))
  ∧ (∀ (s : State) (c : Fin 128) (w : Nat) (k : Nat) (ks : List Nat),
     unitAt s c.val 1 0x13 w → sizeOk (constAddr (clConst s c.val (wB w))) (wD w) = true →
     inDomainNum (addrNode (constAddr (clConst s c.val (wB w)))) = true →
     ownAddr s (constAddr (clConst s c.val (wB w))) = false → fld (s.adm (s.cl c.val).part).reg 15 0 = 0 →
     ordered s (.store c.val) = k :: ks →
     ∃ t, Machine.exec (.vstflag c) s = .next t ∧
       t.out = s.out ∧ t.fab.reqs = s.fab.reqs ∧
         t.fab.flagWait.map (fun f => (f.tag, f.awaits)) = s.fab.flagWait.map (fun f => (f.tag, f.awaits)) ++
           [(s.fab.nextTag, k :: ks)] ∧
       ((t.cl c.val).unit 1).pc = nextPc ((s.cl c.val).list 1).length ((s.cl c.val).unit 1).pc)
  ∧ (∀ (s : State) (c : Fin 128) (w : Nat),
     unitAt s c.val 1 0x12 w → ordered s (.inval c.val) = [] → otherMembers s ≠ [] →
     (∀ q < 64, bitOf s.mbr.members q = true → q ∉ rowPeers s.fab.node ++ colPeers s.fab.node) →
     invEndpoints s s.fab.node = [] → s.mbr.members < 2 ^ 64 →
     ∃ t, Machine.exec (.vinval c) s = .next t ∧
       ((t.cl c.val).unit 1).wait = .resp s.fab.nextTag ∧ ((t.cl c.val).unit 1).pc = ((s.cl c.val).unit 1).pc ∧
       (tget? t.fab.reqs s.fab.nextTag).map (fun r => (r.kind, r.waitPos)) = some (kInval, ofBits (otherMembers s)) ∧
       (∀ k, (t.region k).lines = (s.region k).lines.filter (fun (l : RfLine) => !(l.remote && decide
               (constAddr (clConst s c.val (wA w)) / 256 ≤ l.line) && decide (l.line < constAddr
                 (clConst s c.val (wA w)) / 256 + getLE (clConst s c.val (wA w)) 8 2)))) ∧
       t.tier.mem = s.tier.mem)

/-- A ready VPOOL whose lookup block is in order and whose rows can be read, with an FP32 result: element j of bag b
is the chain of fused multiply-adds over the bag's used entries in entry order, starting from +0; for SUB 1 it is
divided by the sum of the used weights, or 0 when that is 0. Entries whose row is out of range or whose weight is not
finite take no part. Only the output area is written. A block whose offsets do not rise from 0 to N ends the
invocation. Ready words. SUB 0 of one entry into a table without rows makes the row's entry: its number, count 1 and
the contribution as its sum, CONSUMED 1; an entry out of range or with a non-finite weight only counts. SUB 1 with no
rows ends at once; with one row of count 1 it sends the row, its count and its sum to the owner, frees the entry, and
waits until its partials have been added. A partial for a new row makes an entry of the combine area; the last one
lets its sender go on; one that finds the area full is dropped and counted. SUB 2 sorts the combine area by row,
keeping its entries, and writes their number. VOPT SUB 0 stores p − lr·g in the row's format and leaves every other
byte. -/
def Obligations.TableRowsArePooledAndGathered : Prop :=
  (∀ (s : State) (c : Fin 128) (w : Nat) (d : TabD) (b j : Nat),
   unitAt s c.val 1 0x0C w → s.err.repairing = [] → fld (s.adm (s.cl c.val).part).reg 47 32 = 0 →
   tableOf s (s.cl c.val).part (lookupAt (s.cl c.val) (gran (wA w)) (wD w)).table (unitInv s c.val 1) = some d →
   lookupOk (lookupAt (s.cl c.val) (gran (wA w)) (wD w)) = true →
   (∀ r ∈ (lookupAt (s.cl c.val) (gran (wA w)) (wD w)).rows, r < d.rows →
       readable s (s.cl c.val).part (rowAddr d.rowTile d.stride r) (d.w * d.elemBytes) ∧
       readable s (s.cl c.val).part (scalePlace d r).1 (scalePlace d r).2) →
   d.w * d.elemBytes ≠ 0 → vDf w = .fp32 → vSub w ≤ 1 → b < wD w → j < d.w →
   ∃ t, Machine.exec (.vpool c) s = .next t ∧
     (let lk := lookupAt (s.cl c.val) (gran (wA w)) (wD w)
      let es := (lk.rows.mapIdx (fun i r => (r, weightAt (s.cl c.val) (wB w) i))).drop (lk.offs.getD b 0) |>.take
        (lk.offs.getD (b + 1) 0 - lk.offs.getD b 0)
      let u := (es.filter (fun e => usedEntry d e.1 e.2)).map (fun e => (e.2, (fun (r : Nat) => rowVals
              (Fmt.ofCode d.fmt) (elemsIn (Fmt.ofCode d.fmt) (mreadN s.tier.mem (rowAddr d.rowTile d.stride r)
                  (d.w * d.elemBytes))) (mreadN s.tier.mem (scalePlace d r).1 (scalePlace d r).2)) e.1))
      let z := poolBag d.w u
      scrElem (t.cl c.val) .fp32 (gran (wC w)) (b * d.w + j) = (encElem .fp32
          (rndOf s c.val 1 (vRnd w) (b * d.w + j)) (vNsat w) fvOne 0 (f32v (if vSub w = 0 then z.1.getD j 0 else if
              (f32v z.2).isZero = true then 0 else f32div (z.1.getD j 0) z.2))).1 % 2 ^ 32) ∧
     scrSame s t c.val (gran (wC w)) (4 * (wD w * d.w)) ∧
     onlyCompute s t c.val ∧
     behind s t c.val 1 w ∧
     t.tier.mem = s.tier.mem ∧ t.tier.home = s.tier.home ∧ t.fab = s.fab ∧ t.out = s.out ∧ t.epo = s.epo ∧
       t.flash = s.flash ∧ t.work.invs = s.work.invs ∧ t.work.plans = s.work.plans)
  ∧ (∀ (s : State) (c : Fin 128) (w : Nat) (d : TabD) (i : Nat) (v : Inv),
     unitAt s c.val 1 0x0C w →
     tableOf s (s.cl c.val).part (lookupAt (s.cl c.val) (gran (wA w)) (wD w)).table (unitInv s c.val 1) = some d →
     lookupOk (lookupAt (s.cl c.val) (gran (wA w)) (wD w)) = false → unitInv s c.val 1 = some i →
     tget? s.work.invs i = some v → v.qid = none → v.cid = none → tabWf s.work.invs = true →
     ∃ t, Machine.exec (.vpool c) s = .next t ∧
       tget? t.work.invs i = none ∧
       t.tier = s.tier ∧ (t.cl c.val).scratch = (s.cl c.val).scratch)
  ∧ (∀ (s : State) (c : Fin 128) (w : Nat) (d : TabD) (r : Nat),
     unitAt s c.val 1 0x0F w → vSub w = 0 →
     tableOf s (s.cl c.val).part (lookupAt (s.cl c.val) (gran (wB w)) (wD w)).table (unitInv s c.val 1) = some d →
     (lookupAt (s.cl c.val) (gran (wB w)) (wD w)).rows = [r] →
     lookupOk (lookupAt (s.cl c.val) (gran (wB w)) (wD w)) = true →
     (lookupAt (s.cl c.val) (gran (wB w)) (wD w)).offs.getD 1 0 = 1 → vDf w = .fp32 → vSf w = .fp32 →
     tget? (s.cl c.val).areas (gran (wC w)) = none →
     1 ≤ entryCount (bankEnd s c.val - gran (wC w)) (hotSets (bankEnd s c.val - gran (wC w)) d.w) d.w →
     bankEnd s c.val ≤ 2097152 →
     rd32 (s.cl c.val).scratch (entryAddr (gran (wC w)) (hotSets (bankEnd s c.val - gran (wC w)) d.w) d.w 0 + 4) = 0 →
     ∃ t, Machine.exec (.vcoalAccumulate c) s = .next t ∧
       rd32 (t.cl c.val).scratch (gran (wC w)) = 1 ∧
         tget? (t.cl c.val).areas (gran (wC w)) = some (unitInv s c.val 1, d.w) ∧
       if r < d.rows ∧
         (f32v (fld (Config.freeWord (s.freeCtr + (wD w * d.w))) 31 0)).isFin = true then rd32 (t.cl c.val).scratch
           (entryAddr (gran (wC w)) (hotSets (bankEnd s c.val - gran (wC w)) d.w) d.w 0) = r ∧
         rd32 (t.cl c.val).scratch (entryAddr (gran (wC w)) (hotSets (bankEnd s c.val - gran (wC w)) d.w) d.w 0 + 4)
           = 1 ∧
         rdVec (t.cl c.val).scratch (entryAddr (gran (wC w)) (hotSets (bankEnd s c.val - gran (wC w)) d.w) d.w 0 +
             16) d.w = (List.range d.w).map (fun (i : Nat) => f32mul
             (fld (Config.freeWord (s.freeCtr + (wD w * d.w))) 31 0)
             (f32r (f32v (scrElem (s.cl c.val) .fp32 (gran (wA w)) i)))) else scrSame s t c.val (gran (wC w)) 4 ∧
       behind s t c.val 1 w ∧
       onlyCluster s t c.val)
  ∧ (∀ (s : State) (c : Fin 128) (w : Nat),
     unitAt s c.val 1 0x0F w → vSub w = 1 →
     (tget? (s.cl c.val).areas (gran (wA w))).map (fun (a : Option Nat × Nat) => a.2) = none →
     ∃ t, Machine.exec (.vcoalFlush c) s = .next t ∧
       onlyCluster s t c.val ∧
       behind s t c.val 1 w ∧
       (t.cl c.val).partials = (s.cl c.val).partials ∧ (t.cl c.val).scratch = (s.cl c.val).scratch)
  ∧ (∀ (s : State) (c : Fin 128) (w : Nat) (inv : Option Nat) (n : Nat),
     unitAt s c.val 1 0x0F w → vSub w = 1 → vDf w = .fp32 → tget? (s.cl c.val).areas (gran (wA w)) = some (inv, n) →
     n ≠ 0 → bankEnd s c.val ≤ 2097152 →
     (let area := bankEnd s c.val - gran (wA w)
      let h := hotSets area n
      1 ≤ entryCount area h n ∧
        usedEntries (s.cl c.val).scratch (gran (wA w)) h n (entryCount area h n) 0 = [entryAddr (gran (wA w)) h n 0] ∧
        rd32 (s.cl c.val).scratch (entryAddr (gran (wA w)) h n 0 + 8) = 0) →
     ∃ t, Machine.exec (.vcoalFlush c) s = .next t ∧
       (let e := entryAddr (gran (wA w)) (hotSets (bankEnd s c.val - gran (wA w)) n) n 0
        let o := rowOwner s c.val (rd32 (s.cl c.val).scratch e)
        tget? (t.cl o).partials (s.cl o).nextJob = some { src := c.val, inv := unitInv s c.val 1,
                                                          area := gran (wC w), row := rd32 (s.cl c.val).scratch e,
                                                          count := rd32 (s.cl c.val).scratch (e + 4),
                                                          sum := rdVec (s.cl c.val).scratch (e + 16) n,
                                                          int := false } ∧ rd32 (t.cl c.val).scratch (e + 4) = 0) ∧
       ((t.cl c.val).unit 1).wait = .xchg ∧ ((t.cl c.val).unit 1).pc = ((s.cl c.val).unit 1).pc ∧
       t.tier = s.tier ∧ t.fab = s.fab ∧ t.out = s.out)
  ∧ (∀ (s : State) (c : Fin 128) (i : Nat) (q : Partial),
     tget? (s.cl c.val).partials i = some q → tabWf (s.cl c.val).scratch = true →
     tget? (s.cl c.val).areas q.area = some (q.inv, q.sum.length) → bankEnd s c.val ≤ 2097152 →
     (∀ v ∈ q.sum, v < 2 ^ 32) →
     findEntry (s.cl c.val).scratch q.area 0 q.sum.length q.row
       (entryCount (bankEnd s c.val - q.area) 0 q.sum.length) 0 = some (0, false) →
     q.row < 2 ^ 32 → q.src < 128 →
     ∃ t, Machine.exec (.coalPartialArrive c i) s = .next t ∧
       (let e := entryAddr q.area 0 q.sum.length 0
        rd32 (t.cl c.val).scratch e = q.row ∧ rd32 (t.cl c.val).scratch (e + 4) = min q.count 0xFFFFFFFF ∧
          rdVec (t.cl c.val).scratch (e + 16) q.sum.length = q.sum) ∧
       tget? (t.cl c.val).partials i = none ∧
       (∀ k, k ≠ c.val → k ≠ q.src → t.cl k = s.cl k) ∧
       (partialsFrom t q.src = false →
           (t.cl q.src).unit 1 = (if ((s.cl q.src).unit 1).wait = .xchg then { (s.cl q.src).unit 1 with
               pc := nextPc ((s.cl q.src).list 1).length ((s.cl q.src).unit 1).pc, wait := .none } else (s.cl q.src).unit
             1) ∨ ((s.cl q.src).word 1 = none)))
  ∧ (∀ (s : State) (c : Fin 128) (i : Nat) (q : Partial),
     tget? (s.cl c.val).partials i = some q → tabWf (s.cl c.val).scratch = true →
     tget? (s.cl c.val).areas q.area = some (q.inv, q.sum.length) →
     findEntry (s.cl c.val).scratch q.area 0 q.sum.length q.row
       (entryCount (bankEnd s c.val - q.area) 0 q.sum.length) 0 = none →
     rd32 (s.cl c.val).scratch (q.area + 4) < 2 ^ 32 - 1 →
     ∃ t, Machine.exec (.coalPartialArrive c i) s = .next t ∧
       rd32 (t.cl c.val).scratch (q.area + 4) = rd32 (s.cl c.val).scratch (q.area + 4) + 1 ∧
       tget? (t.cl c.val).partials i = none ∧
       scrSame s t c.val (q.area + 4) 4)
  ∧ (∀ (s : State) (c : Fin 128) (w : Nat) (inv : Option Nat) (n : Nat),
     unitAt s c.val 1 0x0F w → vSub w = 2 → (∀ q ∈ (s.cl c.val).partials, q.2.area ≠ gran (wC w)) →
     tget? (s.cl c.val).areas (gran (wC w)) = some (inv, n) → bankEnd s c.val ≤ 2097152 →
     ∃ t, Machine.exec (.vcoalCollect c) s = .next t ∧
       (let k := entryCount (bankEnd s c.val - gran (wC w)) 0 n
        let f := fun (m : Tab Byte) => (usedEntries m (gran (wC w)) 0 n k 0).map
          (fun a => (rd32 m a, rd32 m (a + 4), rdVec m (a + 16) n))
        (f (t.cl c.val).scratch).Perm (f (s.cl c.val).scratch) ∧
          (f (t.cl c.val).scratch).Pairwise (fun a b => a.1 ≤ b.1) ∧
          rd32 (t.cl c.val).scratch (gran (wC w)) = (f (s.cl c.val).scratch).length) ∧
       onlyCluster s t c.val ∧
       onlyCompute s t c.val ∧
       behind s t c.val 1 w)
  ∧ (∀ (s : State) (c : Fin 128) (w : Nat) (d : TabD),
     unitAt s c.val 1 0x0D w → s.err.repairing = [] → fld (s.adm (s.cl c.val).part).reg 47 32 = 0 → vSub w = 0 →
     wD w = 1 → vSf w = .fp32 →
     tableOf s (s.cl c.val).part (optK (clConst s c.val (wB w))).table (unitInv s c.val 1) = some d →
     (Fmt.ofCode d.fmt).isPi = false ∧ (Fmt.ofCode d.fmt).isMx = false →
     (let r := rd32 (s.cl c.val).scratch (gran (wA w) + 64)
      r < d.rows ∧ readable s (s.cl c.val).part (rowAddr d.rowTile d.stride r) (d.w * d.elemBytes) ∧
        (s.home (rowAddr d.rowTile d.stride r / 65536)).st ≠ .moving ∧
        rowAddr d.rowTile d.stride r % 65536 + d.w * d.elemBytes ≤ 65536) →
     d.w * d.elemBytes ≠ 0 →
     (rdVec (s.cl c.val).scratch (gran (wA w) + 80) d.w).all (fun v => (f32v v).isFin) = true →
     memWf s.tier.mem = true →
     ∃ t, Machine.exec (.vopt c) s = .next t ∧
       (let r := rd32 (s.cl c.val).scratch (gran (wA w) + 64)
        let a := rowAddr d.rowTile d.stride r
        let k := optK (clConst s c.val (wB w))
        let f := Fmt.ofCode d.fmt
        let old := (elemsIn f (mreadN s.tier.mem a (d.w * d.elemBytes))).map (fun b => f32r (f.elem b))
        let new := old.zipWith (fun m n => f32sub m (f32mul k.lr n))
          (rdVec (s.cl c.val).scratch (gran (wA w) + 80) d.w)
        storesAt s.tier.mem t.tier.mem a ((new.mapIdx (fun i v => encElem f (rndOf s c.val 1 d.sr i) false fvOne 0
                (f32v v))).flatMap (fun e => leBytes (f.bits / 8) e.1))) ∧
       (t.cl c.val).scratch = (s.cl c.val).scratch ∧
       behind s t c.val 1 w ∧
       t.tier.home = s.tier.home ∧ t.fab = s.fab ∧ t.out = s.out ∧ t.epo = s.epo)

/-- Ready words of the walker unit. WSEED keeps OPD entries of 8 bytes, slot and score, for the context address.
WPREF adds the handles' slots that are neither in the record buffer nor on their way to the prefetches, and counts
them. WCOPYA from this node's own windows starts one copy job with one access outstanding; from another node it sends
a LOAD per 256-byte block. A finished copy adds one to its arrival counter and, for an own address, puts the stored
bytes in scratch. WWAITA takes OPD from its counter when it has reached it, and waits otherwise. -/
def Obligations.WalkerCopiesAndSeeds : Prop :=
  (∀ (s : State) (c : Fin 128) (w : Nat),
   unitAt s c.val 2 0x01 w →
   ∃ t, Machine.exec (.wseed c) s = .next t ∧
     tget? (t.cl c.val).seeds (gran (wA w)) = some (((s.cl c.val).unit 2).inv, (List.range (wD w)).map (fun
           (i : Nat) => (leNat (scrRead (s.cl c.val) (gran (wB w) + 8 * i) 4), leNat
             (scrRead (s.cl c.val) (gran (wB w) + 8 * i + 4) 4)))) ∧
     t = { s with
         work.clusters := tput s.work.clusters c.val { (s.cl c.val) with
             seeds := (t.cl c.val).seeds, tokens := (t.cl c.val).tokens, units := (t.cl c.val).units } } ∧
     behind s t c.val 2 w)
  ∧ (∀ (s : State) (c : Fin 128) (w : Nat) (qid : Nat) (q : Query),
     unitAt s c.val 2 0x03 w → unitQuery s c.val 2 = some (qid, q) →
     ∃ t, Machine.exec (.wpref c) s = .next t ∧
       (let i := getLE q.desc 0x28 2
        (t.cl c.val).prefs = (s.cl c.val).prefs ++ ((dedup ((List.range (wD w)).map (fun (j : Nat) => handleSlot
                  (leNat (scrRead (s.cl c.val) (gran (wB w) + 8 * j) 8))))).filter (fun (k : Nat) =>
              (lineOf (s.cl c.val) i k).isNone && !((s.cl c.val).prefs.any
                (fun (g : Nat × Nat × Nat) => g.2.1 = i && g.2.2 = k)))).map (fun (k : Nat) => (qid, i, k))) ∧
       t = { s with work.clusters := tput s.work.clusters c.val (t.cl c.val), pmc := t.pmc } ∧
       behind s t c.val 2 w)
  ∧ (∀ (s : State) (c : Fin 128) (w : Nat),
     unitAt s c.val 2 0x04 w → ownAddr s (constAddr (clConst s c.val (wB w))) = true →
     ∃ t, Machine.exec (.wcopya c) s = .next t ∧
       tget? (t.cl c.val).copies (s.cl c.val).nextJob = some
         { dst := gran (wA w), addr := constAddr (clConst s c.val (wB w)), len := wD w, actr := kActr w,
           left := 0 } ∧
       ((t.cl c.val).unit 2).pending = ((s.cl c.val).unit 2).pending + 1 ∧
         ((t.cl c.val).unit 2).pc = nextPc ((s.cl c.val).list 2).length ((s.cl c.val).unit 2).pc ∧
         (t.cl c.val).actr = (s.cl c.val).actr ∧ (t.cl c.val).scratch = (s.cl c.val).scratch ∧
       t.tier = s.tier ∧ t.fab = s.fab ∧ t.out = s.out ∧ t.epo = s.epo ∧ t.flash = s.flash ∧ t.host = s.host)
  ∧ (∀ (s : State) (c : Fin 128) (w : Nat),
     unitAt s c.val 2 0x04 w → ownAddr s (constAddr (clConst s c.val (wB w))) = false →
     inDomainNum (addrNode (constAddr (clConst s c.val (wB w)))) = true →
     nodeOf (addrNode (constAddr (clConst s c.val (wB w)))) ≠ s.fab.node →
     fld (s.adm (s.cl c.val).part).reg 15 0 = 0 →
     routeCands s (nodeOf (addrNode (constAddr (clConst s c.val (wB w))))) [] ≠ [] → wD w % 4 = 0 →
     constAddr (clConst s c.val (wB w)) % 4 = 0 → 4 ≤ wD w → constAddr (clConst s c.val (wB w)) % 256 + wD w ≤ 256 →
     ∃ t, Machine.exec (.wcopya c) s = .next t ∧
       tget? (t.cl c.val).copies (s.cl c.val).nextJob = some
         { dst := gran (wA w), addr := constAddr (clConst s c.val (wB w)), len := wD w, actr := kActr w,
           left := 1 } ∧
       ((t.cl c.val).unit 2).pending = ((s.cl c.val).unit 2).pending + 1 ∧
         ((t.cl c.val).unit 2).pc = nextPc ((s.cl c.val).list 2).length ((s.cl c.val).unit 2).pc ∧
       (tget? t.fab.reqs s.fab.nextTag).map (fun r => (r.kind, r.dst, r.addr, r.len, r.for_)) = some (kLoad,
           addrNode (constAddr (clConst s c.val (wB w))), constAddr (clConst s c.val (wB w)), wD w, .copy c.val
           (s.cl c.val).nextJob) ∧
       t.out.length = s.out.length + 1)
  ∧ (∀ (s : State) (c : Fin 128) (i a : Nat) (j : CopyJob),
     tget? (s.cl c.val).copies i = some j → ownAddr s j.addr = true → windowOf j.addr = .tier a → 1 ≤ j.len →
     readable s (s.cl c.val).part a j.len → s.err.inj = [] ∧ s.err.repairing = [] →
     fld (s.adm (s.cl c.val).part).reg 47 32 = 0 → j.len ≤ 65536 → tabWf (s.cl c.val).scratch = true →
     ∃ t, Machine.exec (.copyComplete c i) s = .next t ∧
       scrRead (t.cl c.val) j.dst j.len = mreadN s.tier.mem a j.len ∧
       scrSame s t c.val j.dst j.len ∧
       (t.cl c.val).copies = terase (s.cl c.val).copies i ∧
         (t.cl c.val).actr = tput (s.cl c.val).actr j.actr (tgetD (s.cl c.val).actr j.actr 0 + 1) ∧
         ((t.cl c.val).unit 2).pending = ((s.cl c.val).unit 2).pending - 1 ∧
       t.tier.mem = s.tier.mem)
  ∧ (∀ (s : State) (c : Fin 128) (i : Nat) (j : CopyJob),
     tget? (s.cl c.val).copies i = some j → ownAddr s j.addr = false → j.left = 0 →
     Machine.exec (.copyComplete c i) s = .next (s.setCl c.val { (s.cl c.val) with
           copies := terase (s.cl c.val).copies i,
           actr := tput (s.cl c.val).actr j.actr (tgetD (s.cl c.val).actr j.actr 0 + 1) }))
  ∧ (∀ (s : State) (c : Fin 128) (w : Nat),
     unitAt s c.val 2 0x05 w → wD w ≤ tgetD (s.cl c.val).actr (kActr w) 0 →
     ∃ t, Machine.exec (.wwaita c) s = .next t ∧
       tgetD (t.cl c.val).actr (kActr w) 0 = tgetD (s.cl c.val).actr (kActr w) 0 - wD w ∧
         (∀ k : Fin 16, k.val ≠ kActr w → tgetD (t.cl c.val).actr k.val 0 = tgetD (s.cl c.val).actr k.val 0) ∧
       behind s t c.val 2 w ∧
       t = { s with
           work.clusters := tput s.work.clusters c.val { (s.cl c.val) with
               actr := (t.cl c.val).actr, tokens := (t.cl c.val).tokens, units := (t.cl c.val).units } })
  ∧ (∀ (s : State) (c : Fin 128) (w : Nat),
     unitAt s c.val 2 0x05 w → tgetD (s.cl c.val).actr (kActr w) 0 < wD w →
     Machine.exec (.wwaita c) s = .next (s))

/-- A ready WWALK of the invocation's query takes the lowest free context and awaits the record of its first entry
point, not in the buffer, parked in MODE 0; without a query it ends the invocation. The awaited record, when it
arrives and is neither poisoned nor stale, is one visit: it enters the beam and, when its slot is live in the bound
epoch, the candidate list in their orders, and the walk awaits the next entry point. A poisoned one only counts. A
prefetched record enters the buffer. At walk_end the walk stops with WALK_CUT and, with no candidate, the candidate
area holds padding only and the unit goes on; before it nothing happens. -/
def Obligations.WalksVisitRecords : Prop :=
  (∀ (s : State) (c : Fin 128) (w : Nat) (qid n : Nat) (q : Query) (ix : Index),
   unitAt s c.val 2 0x02 w → wWaitt w = 0 → unitQuery s c.val 2 = some (qid, q) → queryIndex s q = some ix →
   q.ctx = none → qForm q.desc = 0 → bitOf (getLE q.desc 1 1) 3 = false → kMode w = 0 → (s.cl c.val).walks = [] →
   (s.cl c.val).recs = [] → (idxD ix.desc).entry.head? = some n → 1 ≤ (idxD ix.desc).entries → s.err.inj = [] →
   ∃ t, Machine.exec (.wwalk c) s = .next t ∧
     (tget? (t.cl c.val).walks 0).map (fun k => (k.qid, k.phase, k.await, k.visits, k.budget, k.pool, k.p, k.out)) =
       some (qid, .walking, some (n, none, none), 0, qVisits q.desc, qPool q.desc, kP w, gran (wC w)) ∧
     ((t.cl c.val).unit 2).wait = .walk 0 ∧ ((t.cl c.val).unit 2).pc = ((s.cl c.val).unit 2).pc ∧
     tget? t.work.queries qid = some { q with at_ := some (c.val, 0) } ∧
     t.tier = s.tier ∧ t.fab = s.fab ∧ t.out = s.out ∧ t.epo = s.epo ∧ t.flash = s.flash ∧ t.host = s.host)
  ∧ (∀ (s : State) (c : Fin 128) (w : Nat) (i : Nat) (v : Inv),
     unitAt s c.val 2 0x02 w → unitQuery s c.val 2 = none → unitInv s c.val 2 = some i →
     tget? s.work.invs i = some v → v.qid = none → v.cid = none →
     ∃ t, Machine.exec (.wwalk c) s = .next t ∧
       t.work.invs = terase s.work.invs i ∧
       t.tier = s.tier ∧ t.fab = s.fab ∧ t.out = s.out ∧ t.epo = s.epo ∧ t.flash = s.flash ∧ t.host = s.host)
  ∧ (∀ (s : State) (c : Fin 128) (ctx : Fin 64) (slot n : Nat) (wk : Walk) (q : Query) (ix : Index) (rst : List (Nat × Option Nat)),
     tget? (s.cl c.val).walks ctx.val = some wk → tget? s.work.queries wk.qid = some q → queryIndex s q = some ix →
     wk.await = some (slot, none, none) → wk.seeds = (n, none) :: rst → qForm q.desc = 0 → qNoSpec q.desc = true →
     wk.mode = 0 → wk.inflight = [] → wk.prefetched = [] → lineOf (s.cl c.val) (getLE q.desc 0x28 2) n = none →
     n ≠ slot → readable s (s.cl c.val).part (recAddr (idxD ix.desc) slot) 256 →
     s.err.inj = [] ∧ s.err.repairing = [] → fld (s.adm (s.cl c.val).part).reg 47 32 = 0 →
     live ix slot (q.epoch.getD 0) (recTomb (mreadN s.tier.mem (recAddr (idxD ix.desc) slot) 256)) = true →
     ∃ t, Machine.exec (.recordArrive c ctx slot) s = .next t ∧
       (let r := mreadN s.tier.mem (recAddr (idxD ix.desc) slot) 256
        let v := (cleanScore (idxD ix.desc).metric (codeScore (idxD ix.desc) wk.lut wk.qnorm r)).1
        (tget? (t.cl c.val).walks ctx.val).map (fun k => (k.visits, k.await, k.seeds, k.tomb)) = some
            (wk.visits + 1, some (n, none, none), rst, wk.tomb) ∧
          (tget? (t.cl c.val).walks ctx.val).map (fun k => (k.beam, k.cand)) = some (beamInsert (qBeam q.desc)
              wk.beam (beamEnt (idxD ix.desc).lower slot v r), (insertBy candLe
                { key := orderKey (idxD ix.desc).lower v, slot := slot, score := v, gen := recGen r } wk.cand).take
              wk.pool)) ∧
       t.tier.mem = s.tier.mem ∧ t.work.queries = s.work.queries ∧ t.out = s.out ∧ t.fab = s.fab ∧
         t.flash = { s.flash with jobs := t.flash.jobs })
  ∧ (∀ (s : State) (c : Fin 128) (ctx : Fin 64) (slot : Nat) (wk : Walk) (q : Query) (ix : Index),
     tget? (s.cl c.val).walks ctx.val = some wk → tget? s.work.queries wk.qid = some q → queryIndex s q = some ix →
     wk.await.map (fun a => a.1) ≠ some slot →
     Machine.exec (.recordArrive c ctx slot) s = .next (s))
  ∧ (∀ (s : State) (c : Fin 128) (ctx : Fin 64) (slot n : Nat) (wk : Walk) (q : Query) (ix : Index),
     tget? (s.cl c.val).walks ctx.val = some wk → tget? s.work.queries wk.qid = some q → queryIndex s q = some ix →
     wk.await = some (n, none, none) → n ≠ slot → lineOf (s.cl c.val) (getLE q.desc 0x28 2) n = none →
     lineOf (s.cl c.val) (getLE q.desc 0x28 2) slot = none → slot ∈ wk.inflight → (s.cl c.val).recs.length < 512 →
     readable s (s.cl c.val).part (recAddr (idxD ix.desc) slot) 256 → s.err.inj = [] ∧ s.err.repairing = [] →
     fld (s.adm (s.cl c.val).part).reg 47 32 = 0 →
     ∃ t, Machine.exec (.prefetchArrive c ctx slot) s = .next t ∧
       (t.cl c.val).recs = { index := getLE q.desc 0x28 2, slot := slot,
                             bytes := mreadN s.tier.mem (recAddr (idxD ix.desc) slot) 256 } :: (s.cl c.val).recs ∧
       tget? (t.cl c.val).walks ctx.val = some { wk with
           inflight := wk.inflight.filter (fun (k : Nat) => k != slot) })
  ∧ (∀ (s : State) (c : Fin 128) (ctx : Fin 64) (wk : Walk) (q : Query) (ix : Index),
     tget? (s.cl c.val).walks ctx.val = some wk → tget? s.work.queries wk.qid = some q → queryIndex s q = some ix →
     wk.phase = .walking → q.deadline - qRrRes q.desc ≤ s.now → wk.cand = [] → qFilter q.desc = 0 → q.ctx = none →
     wk.cut = false → tabWf (s.cl c.val).scratch = true → ((s.cl c.val).unit 2).wait = .walk ctx.val →
     ((s.cl c.val).word 2).map wLast = some false →
     ∃ t, Machine.exec (.walkEndExpire c ctx) s = .next t ∧
       (t.cl c.val).walks = terase (s.cl c.val).walks ctx.val ∧
       ((t.cl c.val).unit 2).wait = .none ∧
         ((t.cl c.val).unit 2).pc = nextPc ((s.cl c.val).list 2).length ((s.cl c.val).unit 2).pc ∧
       tget? t.work.queries wk.qid = some { q with
           at_ := none, visits := wk.visits, hflags := (if wk.widened ≠ 0 then 12 else 4), passed := 0,
           quiet := true } ∧
       (∀ i : Fin 65536, i.val < min 65536 (qPool q.desc * 2 ^ wk.widened) →
           scrRead (t.cl c.val) (wk.out + 16 * i.val) 16 = (padEnt (idxD ix.desc).lower).bytes))
  ∧ (∀ (s : State) (c : Fin 128) (ctx : Fin 64) (wk : Walk) (q : Query) (ix : Index),
     tget? (s.cl c.val).walks ctx.val = some wk → tget? s.work.queries wk.qid = some q → queryIndex s q = some ix →
     wk.phase ≠ .walking ∨ s.now < q.deadline - qRrRes q.desc →
     Machine.exec (.walkEndExpire c ctx) s = .next (s))

/-- A vector whose codewords are all there, readable and not discarded, within the deadline: its candidate takes the
exact metric of the query and the stored vector, a NaN replaced by the worst score; while another member of the
window is awaited the walk stays. A vector that is uncorrectable or discarded leaves its candidate's score and counts
RERANK_ERR; one after the deadline counts CLS_LATE_ARRIVAL, as does one whose walk has ended. At the deadline the
rerank ends: the walk's context is free and its unit goes on; before it nothing happens. -/
def Obligations.RerankScoresExactly : Prop :=
  (∀ (s : State) (c : Fin 128) (ctx : Fin 64) (slot : Nat) (wk : Walk) (q : Query) (ix : Index) (z : CandEnt) (j : FlJob),
   tget? (s.cl c.val).walks ctx.val = some wk → tget? s.work.queries wk.qid = some q → queryIndex s q = some ix →
   wk.phase = .rerank → wk.cand.find? (fun a => a.slot = slot && !a.ended) = some z →
   tget? s.flash.jobs (jobKey (.rerank c.val ctx.val slot)) = some j → z.req = true → j.left = 0 →
   j.poison = false → s.now ≤ q.deadline →
   (flashData s (vecAddr (idxD ix.desc) slot) (idxD ix.desc).vstride).2 = (false, false) →
   (∃ a ∈ (wk.cand.filter (fun (a : CandEnt) => a.pass)).take (qRerank q.desc), a.slot ≠ slot ∧ a.ended = false) →
   ∃ t, Machine.exec (.rerankVectorArrive c ctx slot) s = .next t ∧
     (let v := vecOf (idxD ix.desc) (flashData s (vecAddr (idxD ix.desc) slot) (idxD ix.desc).vstride).1
      let e := cleanScore (idxD ix.desc).metric (exactScore (idxD ix.desc).metric (q.vec.getD []) v wk.qnorm
          (if (idxD ix.desc).normalised then none else some (normF v)))
      tget? (t.cl c.val).walks ctx.val = some { wk with
          cand := wk.cand.map (fun (a : CandEnt) => if a.slot = slot then { a with
                ended := true, exact := some e.1 } else a) }) ∧
     t.flash.jobs = terase s.flash.jobs (jobKey (.rerank c.val ctx.val slot)) ∧ t.tier = s.tier ∧ t.out = s.out ∧
       t.work.queries = s.work.queries)
  ∧ (∀ (s : State) (c : Fin 128) (ctx : Fin 64) (slot : Nat) (wk : Walk) (q : Query) (ix : Index) (z : CandEnt) (j : FlJob),
     tget? (s.cl c.val).walks ctx.val = some wk → tget? s.work.queries wk.qid = some q → queryIndex s q = some ix →
     wk.phase = .rerank → wk.cand.find? (fun a => a.slot = slot && !a.ended) = some z →
     tget? s.flash.jobs (jobKey (.rerank c.val ctx.val slot)) = some j → z.req = true → j.left = 0 →
     j.poison = true ∨ q.deadline < s.now →
     (∃ a ∈ (wk.cand.filter (fun (a : CandEnt) => a.pass)).take (qRerank q.desc), a.slot ≠ slot ∧ a.ended = false) →
     ∃ t, Machine.exec (.rerankVectorArrive c ctx slot) s = .next t ∧
       tget? (t.cl c.val).walks ctx.val = some { wk with
           cand := wk.cand.map (fun (a : CandEnt) => if a.slot = slot then { a with ended := true, exact := none }
               else a) } ∧
       t.pmc = (countCls s c.val (if q.deadline < s.now then Ev.clsLateArrival else Ev.rerankErr)).pmc)
  ∧ (∀ (s : State) (c : Fin 128) (ctx : Fin 64) (slot : Nat) (j : FlJob),
     tget? (s.cl c.val).walks ctx.val = none → tget? s.flash.jobs (jobKey (.rerank c.val ctx.val slot)) = some j →
     j.left = 0 →
     Machine.exec (.rerankVectorArrive c ctx slot) s = .next (countCls { s with
           flash.jobs := terase s.flash.jobs (jobKey (.rerank c.val ctx.val slot)) } c.val Ev.clsLateArrival))
  ∧ (∀ (s : State) (c : Fin 128) (ctx : Fin 64) (wk : Walk) (q : Query) (ix : Index),
     tget? (s.cl c.val).walks ctx.val = some wk → tget? s.work.queries wk.qid = some q → queryIndex s q = some ix →
     wk.phase = .rerank → q.deadline ≤ s.now → tabWf (s.cl c.val).scratch = true →
     ((s.cl c.val).unit 2).wait = .walk ctx.val → ((s.cl c.val).word 2).map wLast = some false →
     ∃ t, Machine.exec (.rerankDeadlineExpire c ctx) s = .next t ∧
       (t.cl c.val).walks = terase (s.cl c.val).walks ctx.val ∧
       ((t.cl c.val).unit 2).wait = .none ∧
         ((t.cl c.val).unit 2).pc = nextPc ((s.cl c.val).list 2).length ((s.cl c.val).unit 2).pc ∧
       (tget? t.work.queries wk.qid).map (fun z => (z.at_, z.quiet, z.visits, z.passed)) = some (none, true,
           wk.visits, (wk.cand.filter (fun (a : CandEnt) => a.pass)).length) ∧
       (∀ i : Fin 65536, wk.cand = [] → i.val < min 65536 (qPool q.desc * 2 ^ wk.widened) →
           scrRead (t.cl c.val) (wk.out + 16 * i.val) 16 = (padEnt (idxD ix.desc).lower).bytes))
  ∧ (∀ (s : State) (c : Fin 128) (ctx : Fin 64) (wk : Walk) (q : Query) (ix : Index),
     tget? (s.cl c.val).walks ctx.val = some wk → tget? s.work.queries wk.qid = some q → queryIndex s q = some ix →
     wk.phase ≠ .rerank ∨ s.now < q.deadline →
     Machine.exec (.rerankDeadlineExpire c ctx) s = .next (s))

/-- A ready WINSERT takes up the oldest insert of its partition and index: the vector is on flash, the code and the
norm are computed, a COMMITTED update becomes PREPARED, and the unit works on; its second run chooses the neighbours
by the search and the pruning rule, stages one reverse edge in each, and the unit goes on. Without an insert it
waits. WDELETE marks the oldest prepared delete as staged. WREPAIR over an index without records only covers its
tiles; a live record all of whose edges stand, marked for repair, is written whole with its marks cleared. -/
def Obligations.InsertsPrepareAndRepairRuns : Prop :=
  (∀ (s : State) (c : Fin 128) (w : Nat) (uid : Nat) (u : Update) (ix : Index),
   unitAt s c.val 2 0x06 w → wWaitt w = 0 → insertToDo s (s.cl c.val).part (namedIndex s c.val w) = some (uid, u) →
   tget? s.work.indexes u.lrec.index = some ix → u.ctx = none → u.prepDone = false →
   tget? s.epo.updates uid = some u → (idxD ix.desc).metaBytes = 0 →
   (idxD ix.desc).flat = false ∧ (idxD ix.desc).ivf = false → memWf s.flash.mem = true →
   ∃ t, Machine.exec (.winsert c) s = .next t ∧
     (let v := recVector (idxD ix.desc) u.lrec
      tget? t.epo.updates uid = some { u with
          by_ := some c.val, code := encodeVec (idxD ix.desc) ix.cb v, norm := normF v, list := none,
          prepDone := true, st := (if u.st = .committed then .prepared else u.st) }) ∧
     mreadN t.flash.mem (vecAddr (idxD ix.desc) (u.slot.getD 0)) (idxD ix.desc).vstride = slice u.lrec.payload 0
       (idxD ix.desc).vstride ∧
     ((t.cl c.val).unit 2).wait = .work ∧ ((t.cl c.val).unit 2).pc = ((s.cl c.val).unit 2).pc ∧
       (t.cl c.val).scratch = (s.cl c.val).scratch ∧
     t.tier.mem = s.tier.mem ∧ t.work.indexes = s.work.indexes ∧ t.host = s.host)
  ∧ (∀ (s : State) (c : Fin 128) (w : Nat),
     unitAt s c.val 2 0x06 w → insertToDo s (s.cl c.val).part (namedIndex s c.val w) = none →
     ∃ t, Machine.exec (.winsert c) s = .next t ∧
       t = { s with work.clusters := t.work.clusters } ∧
       (∀ k, t.cl k = s.cl k))
  ∧ (∀ (s : State) (c : Fin 128) (w : Nat) (uid : Nat) (u : Update) (ix : Index),
     ((s.cl c.val).unit 2).wait = .work → (s.cl c.val).word 2 = some w → wOp w = 6 → wLast w = false ∨ 2 ≤ 2 →
     wSigen w = false → tfind? s.epo.updates (fun _ u => u.by_ == some c.val && !u.edgesDone) = some (uid, u) →
     u.ctx = none → tget? s.epo.updates uid = some u → tget? s.work.indexes u.lrec.index = some ix →
     ∃ t, Machine.exec (.winsert c) s = .next t ∧
       (let ns := neighbours s ix (u.slot.getD 0) (recVector (idxD ix.desc) u.lrec) u.code
        tget? t.epo.updates uid = some { u with
            nbrs := ns, etags := ns.map (fun (n : Nat) => recGen (recRead s (idxD ix.desc) n).1 % 4),
            edges := ns.map (fun (n : Nat) => { node := n, nbrs := [u.slot.getD 0],
                                                etags := [handleGen u.lrec.handle % 4] }), edgesDone := true,
            by_ := none }) ∧
       ((t.cl c.val).unit 2).wait = .none ∧
         ((t.cl c.val).unit 2).pc = nextPc ((s.cl c.val).list 2).length ((s.cl c.val).unit 2).pc ∧
       t.tier = s.tier ∧ t.flash = s.flash ∧ t.host = s.host)
  ∧ (∀ (s : State) (c : Fin 128) (w : Nat) (uid : Nat) (u : Update),
     unitAt s c.val 2 0x07 w →
     tfind? s.epo.updates (fun _ u => u.part = (s.cl c.val).part && u.oldSlot.isSome && !u.staged && u.st ==
         .prepared && (match namedIndex s c.val w with | some n => u.lrec.index == n | none => true)) = some
       (uid, u) →
     ∃ t, Machine.exec (.wdelete c) s = .next t ∧
       t.epo = { s.epo with updates := tput s.epo.updates uid { u with staged := true } } ∧
       behind s t c.val 2 w ∧
       t.tier = s.tier ∧ t.flash = s.flash ∧ t.work.indexes = s.work.indexes)
  ∧ (∀ (s : State) (c : Fin 128) (w : Nat) (ix : Index),
     unitAt s c.val 2 0x08 w → tget? s.work.indexes (constName (clConst s c.val (wA w))) = some ix →
     ix.part = (s.cl c.val).part → ix.used = [] → 2 ≤ ceilDiv (idxD ix.desc).slots 256 →
     getLE (clConst s c.val (wB w)) 0 4 % tileCount = (idxD ix.desc).recTile →
     getLE (clConst s c.val (wB w)) 4 4 = 1 → ix.passTiles = [] → ix.cleaning = [] →
     ∃ t, Machine.exec (.wrepair c) s = .next t ∧
       tget? t.work.indexes (constName (clConst s c.val (wA w))) = some { ix with
           passStart := s.now, passTiles := [0] } ∧
       behind s t c.val 2 w ∧
       t.tier = s.tier ∧ t.flash = s.flash ∧ t.epo = s.epo)
  ∧ (∀ (s : State) (c : Fin 128) (w : Nat) (ix : Index) (slot : Nat),
     unitAt s c.val 2 0x08 w → tget? s.work.indexes (constName (clConst s c.val (wA w))) = some ix →
     ix.part = (s.cl c.val).part → ix.used = [(slot, true)] → ceilDiv (idxD ix.desc).slots 256 = 1 → slot < 256 →
     getLE (clConst s c.val (wB w)) 0 4 % tileCount = (idxD ix.desc).recTile →
     getLE (clConst s c.val (wB w)) 4 4 = 1 →
     (s.home (idxD ix.desc).recTile).st = .home ∧ (s.home (idxD ix.desc).recTile).tier = 1 ∧
       tget? s.work.resTiles (idxD ix.desc).recTile = none ∧ tget? s.tier.moves (idxD ix.desc).recTile = none ∧
       intervalPoisoned s (idxD ix.desc).recTile 0 65536 = false →
     memWf s.tier.mem = true →
     (let r := RecD.of (recRead s (idxD ix.desc) slot).1
      r.tomb = false ∧ r.rflags ≠ 0 ∧ ∀ e ∈ r.edges, deadEdge s (idxD ix.desc) ix e = false) →
     ∃ t, Machine.exec (.wrepair c) s = .next t ∧
       storesAt s.tier.mem t.tier.mem (recAddr (idxD ix.desc) slot) { RecD.of (recRead s (idxD ix.desc) slot).1 with
           rflags := 0 }.bytes ∧
       behind s t c.val 2 w ∧
       t.flash = s.flash ∧ t.epo = s.epo ∧ t.tier.home = s.tier.home)

/-- Ready words of the select unit on plan work, over the entries at OPA that are no padding. SHIST writes the least
and greatest key, the count, and per bucket the number of keys in it. SBUCKET writes min(k, n) entries, all of them
inputs, best key first and equal keys by handle; with n up to k these are all the inputs, and when the boundary
bucket was not cut in input order no input left out has a better key than one kept. SCRUMB on a list that is new in
this invocation keeps, best first, the first k of the inputs sorted by key with input order among equals. Each writes
only its result. -/
def Obligations.SelectionKeepsTheBest : Prop :=
  (∀ (s : State) (c : Fin 128) (w : Nat),
   unitAt s c.val 3 0x01 w →
   ∃ t, Machine.exec (.shist c) s = .next t ∧
     (let ks := (selInputs (s.cl c.val) w).map (REnt.key (sLower w))
      leNat (scrRead (t.cl c.val) (gran (wC w)) 4) = minD 0 ks ∧
        leNat (scrRead (t.cl c.val) (gran (wC w) + 4) 4) = ks.foldl Nat.max 0 ∧
        leNat (scrRead (t.cl c.val) (gran (wC w) + 8) 4) = ks.length ∧
        ∀ b : Fin 1024, leNat (scrRead (t.cl c.val) (gran (wC w) + 16 + 4 * b.val) 4) = (ks.filter (fun (k : Nat) =>
              (k - minD 0 ks) * 1024 / (ks.foldl Nat.max 0 - minD 0 ks + 1) = b.val)).length) ∧
     scrSame s t c.val (gran (wC w)) 4112 ∧
     behind s t c.val 3 w ∧
     t = { s with work.clusters := tput s.work.clusters c.val (t.cl c.val), pmc := t.pmc })
  ∧ (∀ (s : State) (c : Fin 128) (w : Nat),
     unitAt s c.val 3 0x02 w → unitQuery s c.val 3 = none →
     (bucketSelect (sLower w) (sK w) (selInputs (s.cl c.val) w)).approx = false →
     ∃ t, Machine.exec (.sbucket c) s = .next t ∧
       (let n := min (sK w) (selInputs (s.cl c.val) w).length
        leNat (scrRead (t.cl c.val) (gran (wC w) + 6) 2) = n ∧
          leNat (scrRead (t.cl c.val) (gran (wC w) + 4) 2) = sK w ∧
          (entsOf (n) (scrRead (t.cl c.val) (gran (wC w) + 32) (16 * (n)))).Pairwise
            (fun a b => byKeyHandle (sLower w) a b = true) ∧
          (∃ l : List REnt, ((entsOf (n) (scrRead (t.cl c.val) (gran (wC w) + 32) (16 * (n)))) ++ l).Perm
                (selInputs (s.cl c.val) w) ∧
              ∀ a ∈ (entsOf (n) (scrRead (t.cl c.val) (gran (wC w) + 32) (16 * (n)))), ∀ b ∈ l, b.key (sLower w) ≤
                a.key (sLower w))) ∧
       scrSame s t c.val (gran (wC w)) (32 + 16 * sK w) ∧
       behind s t c.val 3 w ∧
       t = { s with work.clusters := tput s.work.clusters c.val (t.cl c.val), pmc := t.pmc })
  ∧ (∀ (s : State) (c : Fin 128) (w : Nat),
     unitAt s c.val 3 0x02 w → unitQuery s c.val 3 = none → (selInputs (s.cl c.val) w).length ≤ sK w →
     ∃ t, Machine.exec (.sbucket c) s = .next t ∧
       (entsOf ((selInputs (s.cl c.val) w).length) (scrRead (t.cl c.val) (gran (wC w) + 32)
             (16 * ((selInputs (s.cl c.val) w).length)))).Perm (selInputs (s.cl c.val) w) ∧
       (∀ i, (selInputs (s.cl c.val) w).length ≤ i → i < sK w →
           scrRead (t.cl c.val) (gran (wC w) + 32 + 16 * i) 16 = (padEnt (sLower w)).bytes))
  ∧ (∀ (s : State) (c : Fin 128) (w : Nat),
     unitAt s c.val 3 0x03 w → unitQuery s c.val 3 = none →
     (tget? (s.cl c.val).areas (gran (wC w))).map (fun (a : Option Nat × Nat) => a.1) ≠ some (unitInv s c.val 3) →
     ∃ t, Machine.exec (.scrumb c) s = .next t ∧
       (let l := (sortBy (byKey (sLower w)) (selInputs (s.cl c.val) w)).take (sK w)
        scrRead (t.cl c.val) (gran (wC w) + 32) (16 * l.length) = l.flatMap REnt.bytes ∧
          leNat (scrRead (t.cl c.val) (gran (wC w) + 6) 2) = l.length) ∧
       scrSame s t c.val (gran (wC w)) (32 + 16 * sK w) ∧
       behind s t c.val 3 w ∧
       tget? (t.cl c.val).areas (gran (wC w)) = some (unitInv s c.val 3, 0))

/-- SMERGE of the cluster's own lists takes the lowest free Kneader, or waits behind those that wait, and its unit
waits. A free Kneader takes the waiting merge of the oldest invocation. A finished merge of a cluster writes its
result at OPC, keeps one entry per handle, best key first, frees the Kneader, and the unit goes on. SEMIT of a
query's result on its entry node writes the result with its status to the query's address and then its completion,
and the query has ended; of plan work, it writes the result's bytes behind what its output already holds. SEMIT of a
query forwarded to this node sends the list to the entry node and the query ends here. -/
def Obligations.ResultsAreMergedAndDelivered : Prop :=
  (∀ (s : State) (c : Fin 128) (w : Nat),
   unitAt s c.val 3 0x04 w → sRemote w = false → unitQuery s c.val 3 = none → s.work.kneWait = [] →
   ∃ t, Machine.exec (.smerge c) s = .next t ∧
     (tfreeBelow s.work.kne 16).elim (t.work.kneWait = [{ part := (s.cl c.val).part, k := selK s c.val w,
                                                          lower := sLower w,
                                                          lists := (List.range (sNin w)).map (fun (i : Nat) =>
                                                              (listAt (s.cl c.val) (gran (getLE
                                                                    (slice (clConst s c.val (wA w + i / 8)) 0 16)
                                                                    (2 * (i % 8)) 2)), false)),
                                                          stamp := unitStamp s c.val 3,
                                                          cluster := some (c.val, gran (wC w)) }] ∧
         t.work.kne = s.work.kne) (fun k => t.work.kne = tput s.work.kne k (
             { part := (s.cl c.val).part, k := selK s c.val w, lower := sLower w,
               lists := (List.range (sNin w)).map (fun (i : Nat) => (listAt (s.cl c.val) (gran (getLE
                         (slice (clConst s c.val (wA w + i / 8)) 0 16) (2 * (i % 8)) 2)), false)),
               stamp := unitStamp s c.val 3, cluster := some (c.val, gran (wC w)) }) ∧ t.work.kneWait = []) ∧
     ((t.cl c.val).unit 3).wait = .kneader ∧ ((t.cl c.val).unit 3).pc = ((s.cl c.val).unit 3).pc ∧
     t.tier = s.tier ∧ t.fab = s.fab ∧ t.out = s.out)
  ∧ (∀ (s : State) (c : Fin 128) (w : Nat),
     unitAt s c.val 3 0x04 w → sRemote w = false → unitQuery s c.val 3 = none → s.work.kneWait ≠ [] →
     ∃ t, Machine.exec (.smerge c) s = .next t ∧
       t.work.kneWait = s.work.kneWait ++ [{ part := (s.cl c.val).part, k := selK s c.val w, lower := sLower w,
                                             lists := (List.range (sNin w)).map (fun (i : Nat) => (listAt
                                                   (s.cl c.val) (gran (getLE
                                                       (slice (clConst s c.val (wA w + i / 8)) 0 16) (2 * (i % 8)) 2)),
                                                   false)), stamp := unitStamp s c.val 3,
                                             cluster := some (c.val, gran (wC w)) }] ∧ t.work.kne = s.work.kne ∧
       ((t.cl c.val).unit 3).wait = .kneader)
  ∧ (∀ (s : State) (k : Fin 16) (m : Merge),
     tget? s.work.kne k.val = none → nextMerge s.work.kneWait = some m →
     Machine.exec (.kneaderFree k) s = .next ({ s with
           work := { s.work with kne := tput s.work.kne k.val m, kneWait := s.work.kneWait.erase m } }))
  ∧ (∀ (s : State) (k : Fin 16),
     (tget? s.work.kne k.val).isSome = true ∨ s.work.kneWait = [] →
     Machine.exec (.kneaderFree k) s = .next (s))
  ∧ (∀ (s : State) (k : Fin 16) (m : Merge) (c a : Nat),
     tget? s.work.kne k.val = some m → m.inst = none → m.qid = none → m.cluster = some (c, a) → s.err.inj = [] →
     tabWf (s.cl c).scratch = true → m.k ≤ 1024 →
     ∃ t, Machine.exec (.kneaderMergeDone k) s = .next t ∧
       (let r := kneMerge m.lower m.k (m.lists.map (fun (l : List Byte × Bool) => MList.of l.1 l.2)) m.partialIn
        scrRead (t.cl c) a (32 + 16 * m.k) = resultBytes m.lower { r.head with k := m.k } r.es ∧
          (r.es.map (fun (e : REnt) => e.handle)).Nodup ∧ r.es.Pairwise (fun a b => byKey m.lower a b = true) ∧
          r.es.length ≤ m.k) ∧
       scrSame s t c a (32 + 16 * m.k) ∧
       t.work.kne = terase s.work.kne k.val ∧
       (((s.cl c).unit 3).wait = .kneader → ((s.cl c).word 3).isSome = true → ((t.cl c).unit 3).wait = .none))
  ∧ (∀ (s : State) (c : Fin 128) (w : Nat) (qid cid : Nat) (q : Query) (cm : Cmd),
     unitAt s c.val 3 0x05 w → unitQuery s c.val 3 = some (qid, q) → q.entry = none → q.merge = none →
     q.cid = some cid → tget? s.host.cmds cid = some cm → ringReady s cm →
     ∃ t, Machine.exec (.semit c) s = .next t ∧
       (let bytes := listAt (s.cl c.val) (gran (wA w))
        let st := queryStatus q false (getLE bytes 6 2)
        t.out = s.out ++ [Out.hostWrite cm.fn (getLE q.desc 8 8) (patch bytes 0 (leBytes 2 st))
            ((s.fn cm.fn).roEn && (s.fn cm.fn).ero), completionNd s cm st (q.epoch.getD 0)
            ((q.inv.bind (tget? s.work.invs)).elim false (invNd s))]) ∧
       t.host.cmds = terase s.host.cmds cid ∧ t.work.queries = terase s.work.queries qid)
  ∧ (∀ (s : State) (c : Fin 128) (w : Nat) (i : Nat) (v : Inv) (cid : Nat) (cm : Cmd),
     unitAt s c.val 3 0x05 w → unitQuery s c.val 3 = none → unitInv s c.val 3 = some i →
     tget? s.work.invs i = some v → v.cid = some cid → tget? s.host.cmds cid = some cm →
     canWrite s v.fn cm.gen = true → v.outDone < v.outLen →
     ∃ t, Machine.exec (.semit c) s = .next t ∧
       (let n := min (listAt (s.cl c.val) (gran (wA w))).length (v.outLen - v.outDone)
        t.out = s.out ++ [Out.hostWrite v.fn (v.outAddr + v.outDone) ((listAt (s.cl c.val) (gran (wA w))).take n)
              ((s.fn v.fn).roEn && (s.fn v.fn).ero)] ∧
          tget? t.work.invs i = some { v with outDone := v.outDone + n }) ∧
       behind s t c.val 3 w ∧
       t.host.cmds = s.host.cmds ∧ t.tier = s.tier ∧ t.fab = s.fab)
  ∧ (∀ (s : State) (c : Fin 128) (w : Nat) (qid pos ctx : Nat) (q : Query),
     unitAt s c.val 3 0x05 w → unitQuery s c.val 3 = some (qid, q) → q.entry = some (pos, ctx) → q.cid = none →
     fld (s.adm q.part).reg 15 0 = 0 → pos < 64 →
     ∃ t, Machine.exec (.semit c) s = .next t ∧
       t.work.queries = terase s.work.queries qid ∧
       t.host.cmds = s.host.cmds ∧
       t.tier = s.tier)

/-- A ready WNB queues its command and request at the controller of the cluster's region and waits; with 64
operations there it is not queued. An operation starts when it is its partition's next and the partition's turn: one
that fails its checks gets its status and reads nothing. An ended operation leaves the queue; with OK the result tile
shows the new buffer, its SEQ one higher, and header and data are in the cluster's bank b + 1; with another status
only the header, with the old SEQ, is. At each multiple of 1 µs the slots that share a stack start anew. -/
def Obligations.NearBankOperationsRun : Prop :=
  (∀ (s : State) (c : Fin 128) (w : Nat),
   unitAt s c.val 2 0x09 w → wB w % 2048 = 0 →
   ((clPlan s c.val).bin.roles.find? (fun r => r.role = (s.cl c.val).role)).elim 0 (fun r => r.banks) > wB w / 2048
     + 1 →
   (s.nb (c.val / 16)).queue.length < 64 →
   ∃ t, Machine.exec (.wnb c) s = .next t ∧
     (tget? (t.nb (c.val / 16)).queue (s.nb (c.val / 16)).nextOp).map (fun o =>
         (o.cluster, o.part, o.inv, o.cmd, o.bank, o.started)) = some (c.val, (s.cl c.val).part, unitInv s c.val 2,
         clConsts s c.val (wA w) 4, wB w / 2048, false) ∧
     (((t.cl c.val)).unit 2).wait = .nb (s.nb (c.val / 16)).nextOp ∧
       (((t.cl c.val)).unit 2).pc = (((s.cl c.val)).unit 2).pc ∧
     (∀ k, k ≠ c.val / 16 → t.nb k = s.nb k) ∧
     t.tier = s.tier ∧ t.fab = s.fab ∧ t.out = s.out)
  ∧ (∀ (s : State) (c : Fin 128) (w : Nat),
     unitAt s c.val 2 0x09 w → wB w % 2048 = 0 →
     ((clPlan s c.val).bin.roles.find? (fun r => r.role = (s.cl c.val).role)).elim 0 (fun r => r.banks) > wB w /
       2048 + 1 →
     64 ≤ (s.nb (c.val / 16)).queue.length →
     ∃ t, Machine.exec (.wnb c) s = .next t ∧
       (t.nb (c.val / 16)).queue = (s.nb (c.val / 16)).queue ∧ c.val ∈ (t.nb (c.val / 16)).waiting ∧
       (∀ k, t.cl k = s.cl k))
  ∧ (∀ (s : State) (st : Fin 8) (i bad : Nat) (o : NbOp),
     tget? (s.nb st.val).queue i = some o →
     (nbNext s (s.nb st.val) o.part).map (fun (a : Nat × NbOp) => a.1) = some i →
     nbTurn s (s.nb st.val) o.part = true → nbCheck s o = some bad →
     Machine.exec (.nbOpStart st i) s = .next (s.setNb st.val { (s.nb st.val) with
           queue := tput (s.nb st.val).queue i { o with started := true, status := bad },
           slots := tput (s.nb st.val).slots o.part (tgetD (s.nb st.val).slots o.part 0) }))
  ∧ (∀ (s : State) (st : Fin 8) (i : Nat) (o : NbOp),
     tget? (s.nb st.val).queue i = some o →
     (nbNext s (s.nb st.val) o.part).map (fun (a : Nat × NbOp) => a.1) ≠ some i ∨ nbTurn s (s.nb st.val) o.part =
       false →
     Machine.exec (.nbOpStart st i) s = .next (s))
  ∧ (∀ (s : State) (st : Fin 8) (i : Nat) (o : NbOp) (span : NbSpan) (ts : List Nat),
     tget? (s.nb st.val).queue i = some o →
     (nbNext s (s.nb st.val) o.part).map (fun (a : Nat × NbOp) => a.1) = some i →
     nbTurn s (s.nb st.val) o.part = true → nbCheck s o = none → nbSpan s o = some (span, ts) →
     (nbCmd o.cmd).op = 3 → s.err.inj = [] ∧ s.err.repairing = [] → span.n = 1 →
     nbBad s span.base (ceilDiv ((nbReq o.req).kdim * (nbCmd o.cmd).bits) 8) = false →
     (nbReq o.req).ra ∉ span.tiles → (nbCmd o.cmd).nq = 1 →
     (pieces span.base (ceilDiv ((nbReq o.req).kdim * (nbCmd o.cmd).bits) 8)).all (fun p => p.1 != (nbReq o.req).ra)
       = true →
     ∃ t, Machine.exec (.nbOpStart st i) s = .next t ∧
       (let wv := nbInts (nbCmd o.cmd).bits (nbReq o.req).kdim (nbBytes s span.base
            (ceilDiv ((nbReq o.req).kdim * (nbCmd o.cmd).bits) 8))
        let v := nbInts (nbCmd o.cmd).bits (nbReq o.req).kdim (o.req.drop 0x140)
        (tget? (t.nb st.val).queue i).map (fun (a : NbOp) => (a.started, a.status, a.data, a.counts)) = some
          (true, 0, leBytes 4 (wrapTo 32 (((wv.zip v).map (fun (p : Int × Int) => p.1 * p.2)).foldl
                (fun (m n : Int) => m + n) 0)), [1])) ∧
       (tgetD t.work.resTiles (nbReq o.req).ra {}).active = some (i * 8 + st.val) ∧
       t.tier.mem = s.tier.mem ∧ t.fab = s.fab ∧ t.out = s.out ∧ t.work.clusters = s.work.clusters)
  ∧ (∀ (s : State) (st : Fin 8) (i : Nat) (o : NbOp) (r : ResTile),
     tget? (s.nb st.val).queue i = some o → o.started = true → o.gone = false → o.status = 0 →
     tget? s.work.resTiles (nbReq o.req).ra = some r → r.active = some (i * 8 + st.val) →
     tabWf (s.cl o.cluster).scratch = true → ((s.cl o.cluster).unit 2).wait = .nb i →
     ((s.cl o.cluster).word 2).map (fun v => (wLast v, wSigen v)) = some (false, false) → o.data.length ≤ 65408 →
     ∃ t, Machine.exec (.nbOpEnd st i) s = .next t ∧
       (t.nb st.val).queue = terase (s.nb st.val).queue i ∧
       tget? t.work.resTiles (nbReq o.req).ra = some { r with
           active := none, seq := r.seq + 1, view := nbHeader o (r.seq + 1) s.now ++ o.data } ∧
       scrRead (t.cl o.cluster) ((o.bank + 1) * 65536) (128 + o.data.length) = nbHeader o (r.seq + 1) s.now ++
         o.data ∧
       ((t.cl o.cluster).unit 2).wait = .none ∧
       t.tier = s.tier ∧ t.fab = s.fab ∧ t.out = s.out)
  ∧ (∀ (s : State) (st : Fin 8) (i : Nat) (o : NbOp) (r : ResTile),
     tget? (s.nb st.val).queue i = some o → o.started = true → o.gone = false → o.status ≠ 0 →
     tget? s.work.resTiles (nbReq o.req).ra = some r → r.active = some (i * 8 + st.val) →
     tabWf (s.cl o.cluster).scratch = true →
     ∃ t, Machine.exec (.nbOpEnd st i) s = .next t ∧
       tget? t.work.resTiles (nbReq o.req).ra = some { r with active := none } ∧
       scrRead (t.cl o.cluster) ((o.bank + 1) * 65536) 128 = nbHeader o r.seq s.now ∧
       scrSame s t o.cluster ((o.bank + 1) * 65536) 128)
  ∧ (∀ (s : State) (st : Fin 8),
     s.now % 1000 = 0 → (s.nb st.val).window ≠ s.now →
     Machine.exec (.nbShareWindow st) s = .next (s.setNb st.val { (s.nb st.val) with slots := [], window := s.now }))
  ∧ (∀ (s : State) (st : Fin 8),
     s.now % 1000 ≠ 0 →
     Machine.exec (.nbShareWindow st) s = .next (s))

/-- Ready words VXCHG. With a peer set, the unit waits until every peer stands at an exchange with the same set; when
the last of two does, the bytes of both, the lower cluster first, are in both clusters' scratch and both units go on.
With a descriptor whose root is elsewhere and whose contribution fits one burst, the bytes go out as one COLL packet
with instance number and rank, and the unit goes on. At the root cluster the instance is open, holds this node's
part, and the unit waits for the result; with two instances open nothing is sent and the unit stays. -/
def Obligations.ClustersExchangeBytes : Prop :=
  (∀ (s : State) (c : Fin 128) (w : Nat) (slot : Nat),
   unitAt s c.val 1 0x10 w → (s.cl c.val).plan = some slot → descAt (tgetD s.work.plans slot {}) (wB w) = none →
   c.val ∈ peersOf s c.val (clConst s c.val (wB w)) →
   (∃ z ∈ peersOf s c.val (clConst s c.val (wB w)), z ≠ c.val ∧ ((s.cl z).unit 1).wait ≠ UWait.xchg) →
   ∃ t, Machine.exec (.vxchg c) s = .next t ∧
     ((t.cl c.val).unit 1).wait = .xchg ∧ ((t.cl c.val).unit 1).pc = ((s.cl c.val).unit 1).pc ∧
       (t.cl c.val).scratch = (s.cl c.val).scratch ∧
     (∀ z, z ≠ c.val → t.cl z = s.cl z) ∧
     t.tier = s.tier ∧ t.host = s.host ∧ t.epo = s.epo ∧ t.flash = s.flash ∧ t.fab = s.fab ∧ t.out = s.out)
  ∧ (∀ (s : State) (c : Fin 128) (w : Nat) (slot c2 v : Nat),
     unitAt s c.val 1 0x10 w → (s.cl c.val).plan = some slot → descAt (tgetD s.work.plans slot {}) (wB w) = none →
     peersOf s c.val (clConst s c.val (wB w)) = [c.val, c2] → c.val < c2 → ((s.cl c2).unit 1).wait = UWait.xchg →
     (s.cl c2).word 1 = some v → slice (clConst s c2 (wB v)) 0 16 = slice (clConst s c.val (wB w)) 0 16 →
     tabWf (s.cl c2).scratch = true → wD w + wD v ≤ 2097152 → wLast w = false ∧ wLast v = false →
     ∃ t, Machine.exec (.vxchg c) s = .next t ∧
       scrRead (t.cl c.val) (gran (wC w)) (wD w + wD v) = scrRead (s.cl c.val) (gran (wA w)) (wD w) ++ scrRead
         (s.cl c2) (gran (wA v)) (wD v) ∧
       scrRead (t.cl c2) (gran (wC v)) (wD w + wD v) = scrRead (s.cl c.val) (gran (wA w)) (wD w) ++ scrRead
         (s.cl c2) (gran (wA v)) (wD v) ∧
       ((t.cl c.val).unit 1).wait = .none ∧ ((t.cl c2).unit 1).wait = .none ∧
       scrSame s t c.val (gran (wC w)) (wD w + wD v) ∧ scrSame s t c2 (gran (wC v)) (wD w + wD v) ∧
       (∀ z, z ≠ c.val → z ≠ c2 → t.cl z = s.cl z) ∧
       t.tier = s.tier ∧ t.host = s.host ∧ t.epo = s.epo ∧ t.flash = s.flash ∧ t.fab = s.fab ∧ t.out = s.out)
  ∧ (∀ (s : State) (c : Fin 128) (w : Nat) (slot port : Nat) (d : CollD),
     unitAt s c.val 1 0x10 w → (s.cl c.val).plan = some slot → descAt (tgetD s.work.plans slot {}) (wB w) = some d →
     d.root ≠ s.fab.node → d.root < 64 → bitOf d.contrib s.fab.node = true → wD w = d.bytes → d.filt = false →
     0 < wD w ∧ wD w ≤ d.burst ∧ d.burst ≤ 240 → regMay s (s.cl c.val).part .fabric (unitReqId c.val 1) = true →
     oneWay s d.root port → (tget? s.work.plans slot).isSome = true →
     ∃ t, Machine.exec (.vxchg c) s = .next t ∧
       t.out = s.out ++ [sent s port { kind := 0x16, dst := d.root, src := s.fab.node, part := (s.cl c.val).part,
                                       rcls := 1, len := 16 + wD w, addr := d.root * 2 ^ 52 + slot, aux := wB w,
                                       payload := collPrefix (nextInst s slot (wB w) false) 0 2 0
                                         (2 ^ rankOf d.contrib s.fab.node) ++ scrRead (s.cl c.val) (gran (wA w))
                                         (wD w) }] ∧
       nextInst t slot (wB w) false = nextInst s slot (wB w) false + 1 ∧
       behind s t c.val 1 w ∧
       (t.cl c.val).scratch = (s.cl c.val).scratch ∧ t.tier = s.tier ∧ t.epo = s.epo ∧ t.fab.colls = s.fab.colls)
  ∧ (∀ (s : State) (c : Fin 128) (w : Nat) (slot : Nat) (d : CollD),
     unitAt s c.val 1 0x10 w → (s.cl c.val).plan = some slot → descAt (tgetD s.work.plans slot {}) (wB w) = some d →
     (tget? s.work.plans slot).isSome = true → d.root = s.fab.node ∧ d.rootLc = c.val ∧ d.op ≠ 3 →
     bitOf d.contrib s.fab.node = true → wD w = d.bytes → d.filt = false →
     0 < wD w ∧ wD w ≤ d.burst ∧ d.burst ≤ 240 → openOf s slot (wB w) = [] →
     collOf s slot (wB w) (nextInst s slot (wB w) false) = none →
     rankDone d [⟨2 ^ rankOf d.contrib s.fab.node, 0, false, false, true, scrRead (s.cl c.val) (gran (wA w)) (wD w)⟩]
       (rankOf d.contrib s.fab.node) = true →
     1 < popCount 64 d.contrib →
     ∃ t, Machine.exec (.vxchg c) s = .next t ∧
       (tget? t.fab.colls s.fab.nextColl).map (fun (a : Coll) => (a.desc, a.n, a.part, a.mask, a.absent, a.closeT,
             a.dst, a.closed)) = some (some (slot, wB w), nextInst s slot (wB w) false, (s.cl c.val).part,
           d.contrib, 0, s.now + d.tmo * 1000, some (c.val, gran (wC w)), false) ∧
       (tget? t.fab.colls s.fab.nextColl).map (fun (a : Coll) => a.parts) = some [⟨2 ^ rankOf d.contrib s.fab.node,
             0, false, false, true, scrRead (s.cl c.val) (gran (wA w)) (wD w)⟩] ∧
       ((t.cl c.val).unit 1).wait = .xchg ∧ (t.cl c.val).scratch = (s.cl c.val).scratch ∧ t.out = s.out ∧
         t.tier = s.tier ∧ t.fab.nextColl = s.fab.nextColl + 1)
  ∧ (∀ (s : State) (c : Fin 128) (w : Nat) (slot : Nat) (d : CollD),
     unitAt s c.val 1 0x10 w → (s.cl c.val).plan = some slot → descAt (tgetD s.work.plans slot {}) (wB w) = some d →
     d.root = s.fab.node → bitOf d.contrib s.fab.node = true → wD w = d.bytes → 2 ≤ (openOf s slot (wB w)).length →
     collOf s slot (wB w) (nextInst s slot (wB w) false) = none →
     ∃ t, Machine.exec (.vxchg c) s = .next t ∧
       (t.cl c.val).units = (s.cl c.val).units ∧ (t.cl c.val).tokens = (s.cl c.val).tokens ∧
         (t.cl c.val).scratch = (s.cl c.val).scratch ∧
       t.fab = s.fab ∧ t.out = s.out ∧ t.tier = s.tier ∧ t.host = s.host ∧ t.epo = s.epo ∧ t.flash = s.flash)

/-- A COLL burst reaches the root of an open instance. While ranks are missing it is held and no cluster changes.
With the last rank of an INT32 REDUCE in single bursts, element e at OPC is the exact sum of all parts, saturated to
INT32; with the second of two FP32 ranks, the fold in ascending rank whatever the order of arrival, a NaN as
0x7FC0_0000; of two GATHER ranks, the item count and the items by rank. The unit that waited goes on and the instance
is gone. A list of a MERGE that completes it goes to the Kneader that waits for it. A last burst after the close is
dropped and noted as late. At the close, an instance that awaits ranks is closed with TIMEOUT, and the root's
invocation that waits ends with it. -/
def Obligations.RootTakesContributions : Prop :=
  (∀ (s : State) (port : Fin 32) (p : Packet) (key slot : Nat) (g : Coll) (d : CollD) (plan : Plan),
   arrives s port.val 0x16 p → s.err.inj = [] → slot = p.addr % 256 → tget? s.work.plans slot = some plan →
   descAt plan p.aux = some d → plan.part = p.part ∧ d.root = s.fab.node →
   bitOf s.mbr.members (nodeOf p.src) = true → collOf s slot p.aux (collPre p.payload).inst = some (key, g) →
   tget? s.fab.colls key = some g ∧ tabWf s.fab.colls = true →
   g.qid = none ∧ g.desc = some (slot, p.aux) ∧ g.closed = false ∧ g.absent = 0 →
   s.now ≤ g.closeT ∧ (collPre p.payload).cstat = 0 → d.op ≠ 3 →
   g.parts.all (fun (q : CollPart) => !(q.chunk == (collPre p.payload).chunk && q.half == bitOf (collPre p.payload).cflags
         3 && (collPre p.payload).ranks &&& q.ranks != 0)) = true →
   allRanks g.mask &&& ((ofBits ((bitsSet 64 (allRanks g.mask)).filter (rankDone d (g.parts ++ [(
                   { ranks := (collPre p.payload).ranks, chunk := (collPre p.payload).chunk,
                     half := bitOf (collPre p.payload).cflags 3, wide := bitOf (collPre p.payload).cflags 0,
                     last := bitOf (collPre p.payload).cflags 1, data := p.payload.drop 16 } : CollPart)])))) ^^^
       (2 ^ 64 - 1)) ≠ 0 →
   ∃ t, Machine.exec (.coll port p) s = .next t ∧
     t.fab.colls = tput s.fab.colls key { g with
         parts := g.parts ++ [({ ranks := (collPre p.payload).ranks, chunk := (collPre p.payload).chunk,
                                 half := bitOf (collPre p.payload).cflags 3,
                                 wide := bitOf (collPre p.payload).cflags 0,
                                 last := bitOf (collPre p.payload).cflags 1, data := p.payload.drop 16 } : CollPart)],
         taken := (ofBits ((bitsSet 64 (allRanks g.mask)).filter (rankDone d (g.parts ++ [(
                       { ranks := (collPre p.payload).ranks, chunk := (collPre p.payload).chunk,
                         half := bitOf (collPre p.payload).cflags 3, wide := bitOf (collPre p.payload).cflags 0,
                         last := bitOf (collPre p.payload).cflags 1, data := p.payload.drop 16 } : CollPart)])))) } ∧
     t.work = s.work ∧ t.tier = s.tier ∧ t.out = s.out ∧ t.pmc = s.pmc)
  ∧ (∀ (s : State) (port : Fin 32) (p : Packet) (key slot : Nat) (g : Coll) (d : CollD) (plan : Plan) (lc a e : Nat),
     arrives s port.val 0x16 p → s.err.inj = [] → slot = p.addr % 256 → tget? s.work.plans slot = some plan →
     descAt plan p.aux = some d → plan.part = p.part ∧ d.root = s.fab.node →
     bitOf s.mbr.members (nodeOf p.src) = true → collOf s slot p.aux (collPre p.payload).inst = some (key, g) →
     tget? s.fab.colls key = some g ∧ tabWf s.fab.colls = true →
     g.qid = none ∧ g.desc = some (slot, p.aux) ∧ g.closed = false ∧ g.absent = 0 →
     s.now ≤ g.closeT ∧ (collPre p.payload).cstat = 0 → d.op = 1 ∧ d.fmt = 8 → d.elems ≤ 60 ∧ e < d.elems →
     g.parts.all (fun (q : CollPart) => !(q.chunk == (collPre p.payload).chunk && q.half == bitOf
           (collPre p.payload).cflags 3 && (collPre p.payload).ranks &&& q.ranks != 0)) = true →
     allRanks g.mask &&& ((ofBits ((bitsSet 64 (allRanks g.mask)).filter (rankDone d (g.parts ++ [(
                     { ranks := (collPre p.payload).ranks, chunk := (collPre p.payload).chunk,
                       half := bitOf (collPre p.payload).cflags 3, wide := bitOf (collPre p.payload).cflags 0,
                       last := bitOf (collPre p.payload).cflags 1, data := p.payload.drop 16 } : CollPart)])))) ^^^
         (2 ^ 64 - 1)) = 0 →
     (g.parts ++ [({ ranks := (collPre p.payload).ranks, chunk := (collPre p.payload).chunk,
                     half := bitOf (collPre p.payload).cflags 3, wide := bitOf (collPre p.payload).cflags 0,
                     last := bitOf (collPre p.payload).cflags 1, data := p.payload.drop 16 } : CollPart)]).all
       (fun (q : CollPart) => q.chunk == 0 && !q.wide) = true →
     g.dst = some (lc, a) → tabWf (s.cl lc).scratch = true → ((s.cl lc).unit 1).wait = UWait.xchg →
     ((s.cl lc).word 1).isSome = true →
     ∃ t, Machine.exec (.coll port p) s = .next t ∧
       getLE (scrRead (t.cl lc) a (4 * d.elems)) (4 * e) 4 = wrapTo 32 (max (-2 ^ 31) (min (2 ^ 31 - 1) ((g.parts ++
                 [({ ranks := (collPre p.payload).ranks, chunk := (collPre p.payload).chunk,
                     half := bitOf (collPre p.payload).cflags 3, wide := bitOf (collPre p.payload).cflags 0,
                     last := bitOf (collPre p.payload).cflags 1, data := p.payload.drop 16 } : CollPart)]).map
               (fun (q : CollPart) => sext 32 (getLE q.data (4 * e) 4))).sum)) ∧
       scrSame s t lc a (4 * d.elems) ∧ ((t.cl lc).unit 1).wait = .none ∧ tget? t.fab.colls key = none ∧
         t.out = s.out)
  ∧ (∀ (s : State) (port : Fin 32) (p : Packet) (key slot : Nat) (g : Coll) (d : CollD) (plan : Plan) (lc a e : Nat) (q : CollPart),
     arrives s port.val 0x16 p → s.err.inj = [] → slot = p.addr % 256 → tget? s.work.plans slot = some plan →
     descAt plan p.aux = some d → plan.part = p.part ∧ d.root = s.fab.node →
     bitOf s.mbr.members (nodeOf p.src) = true → collOf s slot p.aux (collPre p.payload).inst = some (key, g) →
     tget? s.fab.colls key = some g ∧ tabWf s.fab.colls = true →
     g.qid = none ∧ g.desc = some (slot, p.aux) ∧ g.closed = false ∧ g.absent = 0 →
     s.now ≤ g.closeT ∧ (collPre p.payload).cstat = 0 → d.op = 1 ∧ d.fmt = 7 ∧ d.outFmt = 7 →
     d.elems ≤ 60 ∧ e < d.elems →
     g.parts = [q] ∧ q.chunk = 0 ∧ q.wide = false ∧ q.ranks = 2 ∧ q.data.length = 4 * d.elems →
     (collPre p.payload).ranks = 1 ∧ (collPre p.payload).chunk = 0 ∧ bitOf (collPre p.payload).cflags 0 = false ∧
       p.payload.length = 16 + 4 * d.elems →
     popCount 64 g.mask = 2 ∧ popCount 64 d.contrib = 2 → g.dst = some (lc, a) → tabWf (s.cl lc).scratch = true →
     ((s.cl lc).unit 1).wait = UWait.xchg → ((s.cl lc).word 1).isSome = true →
     ∃ t, Machine.exec (.coll port p) s = .next t ∧
       getLE (scrRead (t.cl lc) a (4 * d.elems)) (4 * e) 4 = canonNan (f32add (getLE (p.payload.drop 16) (4 * e) 4)
           (getLE q.data (4 * e) 4)) % 2 ^ 32 ∧
       scrSame s t lc a (4 * d.elems) ∧ ((t.cl lc).unit 1).wait = .none ∧ tget? t.fab.colls key = none ∧
         t.out = s.out)
  ∧ (∀ (s : State) (port : Fin 32) (p : Packet) (key slot : Nat) (g : Coll) (d : CollD) (plan : Plan) (lc a : Nat) (q : CollPart),
     arrives s port.val 0x16 p → s.err.inj = [] → slot = p.addr % 256 → tget? s.work.plans slot = some plan →
     descAt plan p.aux = some d → plan.part = p.part ∧ d.root = s.fab.node →
     bitOf s.mbr.members (nodeOf p.src) = true → collOf s slot p.aux (collPre p.payload).inst = some (key, g) →
     tget? s.fab.colls key = some g ∧ tabWf s.fab.colls = true →
     g.qid = none ∧ g.desc = some (slot, p.aux) ∧ g.closed = false ∧ g.absent = 0 →
     s.now ≤ g.closeT ∧ (collPre p.payload).cstat = 0 →
     d.op = 2 ∧ d.filt = false ∧ d.items * d.itemBytes = d.bytes ∧ 0 < d.bytes ∧ d.bytes ≤ 240 ∧ d.bytes ≤ d.burst →
     g.parts = [q] ∧ q.chunk = 0 ∧ q.wide = false ∧ q.ranks = 2 ∧ q.data.length = d.bytes →
     (collPre p.payload).ranks = 1 ∧ (collPre p.payload).chunk = 0 ∧ bitOf (collPre p.payload).cflags 0 = false ∧
       p.payload.length = 16 + d.bytes →
     popCount 64 g.mask = 2 ∧ popCount 64 d.contrib = 2 → g.dst = some (lc, a) → tabWf (s.cl lc).scratch = true →
     ((s.cl lc).unit 1).wait = UWait.xchg → ((s.cl lc).word 1).isSome = true →
     ∃ t, Machine.exec (.coll port p) s = .next t ∧
       scrRead (t.cl lc) a (16 + 2 * d.bytes) = leBytes 4 (2 * d.items) ++ List.replicate 12 0 ++ p.payload.drop 16
         ++ q.data ∧
       scrSame s t lc a (16 + 2 * d.bytes) ∧ ((t.cl lc).unit 1).wait = .none ∧ tget? t.fab.colls key = none ∧
         t.out = s.out)
  ∧ (∀ (s : State) (port : Fin 32) (p : Packet) (key slot : Nat) (g : Coll) (d : CollD) (plan : Plan) (k : Fin 16) (m : Merge),
     arrives s port.val 0x16 p → s.err.inj = [] → slot = p.addr % 256 → tget? s.work.plans slot = some plan →
     descAt plan p.aux = some d → plan.part = p.part ∧ d.root = s.fab.node →
     bitOf s.mbr.members (nodeOf p.src) = true → collOf s slot p.aux (collPre p.payload).inst = some (key, g) →
     tget? s.fab.colls key = some g ∧ tabWf s.fab.colls = true →
     g.qid = none ∧ g.desc = some (slot, p.aux) ∧ g.closed = false ∧ g.absent = 0 →
     s.now ≤ g.closeT ∧ (collPre p.payload).cstat = 0 → d.op = 3 →
     bitOf (collPre p.payload).cflags 1 = true ∧ (collPre p.payload).ranks &&& g.taken = 0 →
     tget? g.open_ p.src = none →
     allRanks g.mask &&& ((g.taken ||| (collPre p.payload).ranks) ^^^ (2 ^ 64 - 1)) = 0 →
     tget? s.work.kne k.val = some m ∧ m.inst = some key →
     ∃ t, Machine.exec (.coll port p) s = .next t ∧
       tget? t.work.kne k.val = some { m with
           lists := g.lists ++ [(p.payload.drop 16, bitOf (collPre p.payload).cflags 0)], partialIn := false,
           inst := none } ∧
       tget? t.fab.colls key = none ∧ t.work.clusters = s.work.clusters ∧ t.out = s.out)
  ∧ (∀ (s : State) (port : Fin 32) (p : Packet) (key slot : Nat) (g : Coll) (d : CollD) (plan : Plan),
     arrives s port.val 0x16 p → s.err.inj = [] → slot = p.addr % 256 → tget? s.work.plans slot = some plan →
     descAt plan p.aux = some d → plan.part = p.part ∧ d.root = s.fab.node →
     bitOf s.mbr.members (nodeOf p.src) = true → collOf s slot p.aux (collPre p.payload).inst = some (key, g) →
     tget? s.fab.colls key = some g ∧ tabWf s.fab.colls = true →
     g.qid = none ∧ g.desc = some (slot, p.aux) ∧ g.closed = false ∧ g.absent = 0 →
     g.part = p.part ∧ g.closeT < s.now ∧ bitOf (collPre p.payload).cflags 1 = true →
     ∃ t, Machine.exec (.coll port p) s = .next t ∧
       t.fab.colls = s.fab.colls ∧ t.work = s.work ∧ t.out = s.out ∧
       t.fab.swcErr = tput s.fab.swcErr p.part (tgetD s.fab.swcErr p.part 0 ||| 2))
  ∧ (∀ (s : State) (key slot k : Nat) (g : Coll) (d : CollD) (plan : Plan),
     tget? s.fab.colls key = some g ∧ tabWf s.fab.colls = true →
     g.qid = none ∧ g.desc = some (slot, k) ∧ g.closed = false ∧ g.dst = none →
     tget? s.work.plans slot = some plan → descAt plan k = some d → d.op ≠ 3 → g.closeT ≤ s.now → g.missing ≠ 0 →
     ∃ t, Machine.exec (.collectiveCloseExpire key) s = .next t ∧
       t.fab.colls = tput (tput s.fab.colls key { g with absent := g.absent ||| g.missing }) key { g with
           absent := g.absent ||| g.missing, closed := true, ended := some 0x0201 } ∧
       t.work = s.work ∧ t.tier = s.tier ∧ t.out = s.out ∧ t.host = s.host)
  ∧ (∀ (s : State) (key slot k lc a i cid : Nat) (g : Coll) (d : CollD) (plan : Plan) (v : Inv) (cm : Cmd),
     tget? s.fab.colls key = some g ∧ tabWf s.fab.colls = true →
     g.qid = none ∧ g.desc = some (slot, k) ∧ g.closed = false ∧ g.dst = some (lc, a) →
     tget? s.work.plans slot = some plan → descAt plan k = some d → d.op ≠ 3 → g.closeT ≤ s.now → g.missing ≠ 0 →
     ((s.cl lc).unit 1).wait = UWait.xchg → unitInv s lc 1 = some i →
     tget? s.work.invs i = some v ∧ tabWf s.work.invs = true → v.qid = none ∧ v.cid = some cid →
     tget? s.host.cmds cid = some cm → ringReady s cm →
     ∃ t, Machine.exec (.collectiveCloseExpire key) s = .next t ∧
       t.out = s.out ++ [completionNd s cm 0x0201 v.step (invNd s v)] ∧
       tget? t.work.invs i = none ∧ t.host.cmds = terase s.host.cmds cid ∧
       tget? t.fab.colls key = none ∧
       (t.cl lc).scratch = (s.cl lc).scratch ∧ t.tier = s.tier)
  ∧ (∀ (s : State) (key : Nat),
     (tget? s.fab.colls key).all (fun (g : Coll) => g.closed || decide (s.now < g.closeT)) = true →
     Machine.exec (.collectiveCloseExpire key) s = .next (s))

/-- A whole partial list in one burst. At the entry node of its query, with the bound epoch and new ranks, it is
taken; with the last rank and the own list there, the lists go to the lowest free Kneader. At a switch on the way it
is forwarded unchanged with JOIN_EN 0; with JOIN_EN 1 it is held, or joined with a held list of the same merge and
disjoint ranks. A held list whose window has ended leaves in the packets it came in; before, nothing happens. At its
deadline an open query merge goes to a Kneader without the missing ranks. -/
def Obligations.PartialListsMeetAndMerge : Prop :=
  (∀ (s : State) (port : Fin 32) (p : Packet) (key qid : Nat) (q : Query) (g : Coll),
   arrives s port.val 0x15 p → s.err.inj = [] →
   (collPre p.payload).ranks ≠ 0 ∧ bitOf s.mbr.members (nodeOf p.src) = true ∧ (collPre p.payload).cstat = 0 ∧
     bitOf (collPre p.payload).cflags 1 = true →
   mergeOf s (collPre p.payload).inst = some (key, qid, q) → tget? s.work.queries qid = some q →
   tget? s.fab.colls key = some g ∧ tabWf s.fab.colls = true →
   g.qid = some qid ∧ g.closed = false ∧ s.now ≤ g.closeT ∧ tget? g.open_ p.src = none →
   (RHead.ofBytes (p.payload.drop 16)).epoch = q.epoch.getD 0 →
   (collPre p.payload).ranks &&& (g.taken ||| g.absent) = 0 → g.own = none →
   ∃ t, Machine.exec (.plist port p) s = .next t ∧
     t.fab.colls = tput (tput s.fab.colls key { g with open_ := terase g.open_ p.src }) key ({ g with
           taken := g.taken ||| (collPre p.payload).ranks,
           lists := g.lists ++ [(p.payload.drop 16, bitOf (collPre p.payload).cflags 0)],
           open_ := terase g.open_ p.src }) ∧
     t.work = s.work ∧ t.tier = s.tier ∧ t.out = s.out ∧ t.host = s.host ∧ t.epo = s.epo)
  ∧ (∀ (s : State) (port : Fin 32) (p : Packet) (key qid : Nat) (q : Query) (g : Coll) (own : List Byte) (k : Nat),
     arrives s port.val 0x15 p → s.err.inj = [] →
     (collPre p.payload).ranks ≠ 0 ∧ bitOf s.mbr.members (nodeOf p.src) = true ∧ (collPre p.payload).cstat = 0 ∧
       bitOf (collPre p.payload).cflags 1 = true →
     mergeOf s (collPre p.payload).inst = some (key, qid, q) → tget? s.work.queries qid = some q →
     tget? s.fab.colls key = some g ∧ tabWf s.fab.colls = true →
     g.qid = some qid ∧ g.closed = false ∧ s.now ≤ g.closeT ∧ tget? g.open_ p.src = none →
     (RHead.ofBytes (p.payload.drop 16)).epoch = q.epoch.getD 0 →
     (collPre p.payload).ranks &&& (g.taken ||| g.absent) = 0 → g.own = some own →
     allRanks g.mask &&& ((g.taken ||| (collPre p.payload).ranks ||| g.absent) ^^^ (2 ^ 64 - 1)) = 0 →
     s.work.kneWait = [] → tfreeBelow s.work.kne 16 = some k →
     ∃ t, Machine.exec (.plist port p) s = .next t ∧
       t.work.kne = tput s.work.kne k ({ part := g.part, k := qK q.desc, lower := queryLower s q,
                                         lists := (own, false) :: (g.lists ++
                                             [(p.payload.drop 16, bitOf (collPre p.payload).cflags 0)]),
                                         partialIn := decide (g.absent ≠ 0), stamp := q.stamp, qid := some qid }) ∧
       tget? t.fab.colls key = none ∧ t.tier = s.tier ∧ t.out = s.out ∧ t.host = s.host ∧
         t.work.clusters = s.work.clusters)
  ∧ (∀ (s : State) (port : Fin 32) (p : Packet) (po : Nat),
     passes s port.val 0x15 p → p.dst < 64 → flag s.fab.swcCfg 16 = false → oneWay s p.dst po →
     ∃ t, Machine.exec (.plist port p) s = .next t ∧
       t.out = s.out ++ [.packet po p] ∧
       t.work = s.work ∧ t.tier = s.tier ∧ t.host = s.host ∧ t.fab.colls = s.fab.colls ∧
         ∀ k, (t.port k).join = (s.port k).join)
  ∧ (∀ (s : State) (port : Fin 32) (p : Packet),
     passes s port.val 0x15 p → p.dst < 64 → flag s.fab.swcCfg 16 = true →
     (collPre p.payload).cstat = 0 ∧ (collPre p.payload).ranks ≠ 0 ∧ bitOf (collPre p.payload).cflags 1 = true →
     s.err.inj = [] →
     (tfind? (s.port port.val).join (fun _ (e : JoinEnt) => !e.done && e.dst == p.dst && e.inst ==
           (collPre p.payload).inst && (e.pkts.head?.map (fun (z : Packet) => z.src)) == some p.src)) = none →
     joinUsed (s.port port.val) + (p.payload.length - 16) ≤ 32768 → 16 ≤ p.payload.length →
     heldLists s port.val = [] →
     ∃ t, Machine.exec (.plist port p) s = .next t ∧
       tget? (t.port port.val).join (s.port port.val).nextJoin = some (
           { pkts := [p], dst := p.dst, inst := (collPre p.payload).inst, part := p.part,
             bytes := p.payload.drop 16, ranks := (collPre p.payload).ranks,
             joined := bitOf (collPre p.payload).cflags 0, done := true, until_ := s.now + fld s.fab.swcCfg 15 0 }) ∧
       t.out = s.out ∧ t.work = s.work ∧ t.fab.colls = s.fab.colls)
  ∧ (∀ (s : State) (port : Fin 32) (p : Packet) (j : Nat) (e : JoinEnt) (lower : Bool),
     passes s port.val 0x15 p → p.dst < 64 → flag s.fab.swcCfg 16 = true →
     (collPre p.payload).cstat = 0 ∧ (collPre p.payload).ranks ≠ 0 ∧ bitOf (collPre p.payload).cflags 1 = true →
     s.err.inj = [] →
     (tfind? (s.port port.val).join (fun _ (e : JoinEnt) => !e.done && e.dst == p.dst && e.inst ==
           (collPre p.payload).inst && (e.pkts.head?.map (fun (z : Packet) => z.src)) == some p.src)) = none →
     joinUsed (s.port port.val) + (p.payload.length - 16) ≤ 32768 → 16 ≤ p.payload.length →
     tget? (s.port port.val).join j = some e ∧ e.done = true ∧ j ≠ (s.port port.val).nextJoin →
     heldLists s port.val = [(port.val, j, e)] →
     mayJoin e ({ pkts := [p], dst := p.dst, inst := (collPre p.payload).inst, part := p.part,
                  bytes := p.payload.drop 16, ranks := (collPre p.payload).ranks,
                  joined := bitOf (collPre p.payload).cflags 0, done := false, until_ := 0 }) = some lower →
     ∃ t, Machine.exec (.plist port p) s = .next t ∧
       tget? (t.port port.val).join j = some { e with
           pkts := e.pkts ++ [p],
           bytes := joinedBytes lower e ({ pkts := [p], dst := p.dst, inst := (collPre p.payload).inst,
                                           part := p.part, bytes := p.payload.drop 16,
                                           ranks := (collPre p.payload).ranks,
                                           joined := bitOf (collPre p.payload).cflags 0, done := false,
                                           until_ := 0 }), ranks := e.ranks ||| (collPre p.payload).ranks,
           joined := true } ∧
       t.out = s.out ∧ t.work = s.work ∧ t.fab.colls = s.fab.colls)
  ∧ (∀ (s : State) (port : Fin 32) (i po : Nat) (e : JoinEnt),
     tget? (s.port port.val).join i = some e → e.done = true ∧ e.joined = false ∧ e.until_ ≤ s.now →
     e.dst < 64 ∧ e.dst ≠ s.fab.node → (∀ z ∈ e.pkts, z.dst = e.dst) → oneWay s e.dst po →
     ∃ t, Machine.exec (.joinWindowExpire port i) s = .next t ∧
       t.out = s.out ++ e.pkts.map (fun (z : Packet) => Out.packet po z) ∧
       (t.port port.val).join = terase (s.port port.val).join i ∧
       t.work = s.work ∧ t.tier = s.tier ∧ t.host = s.host)
  ∧ (∀ (s : State) (port : Fin 32) (i : Nat),
     (tget? (s.port port.val).join i).all (fun (e : JoinEnt) => !e.done || decide (s.now < e.until_)) = true →
     Machine.exec (.joinWindowExpire port i) s = .next (s))
  ∧ (∀ (s : State) (key qid k : Nat) (q : Query) (g : Coll) (own : List Byte),
     tget? s.fab.colls key = some g ∧ tabWf s.fab.colls = true →
     g.qid = some qid ∧ g.closed = false ∧ g.own = some own ∧ g.closeT ≤ s.now ∧ g.missing ≠ 0 →
     tget? s.work.queries qid = some q → s.work.kneWait = [] → tfreeBelow s.work.kne 16 = some k →
     ∃ t, Machine.exec (.collectiveCloseExpire key) s = .next t ∧
       t.work.kne = tput s.work.kne k ({ part := g.part, k := qK q.desc, lower := queryLower s q,
                                         lists := (own, false) :: g.lists, partialIn := true, stamp := q.stamp,
                                         qid := some qid }) ∧
       tget? t.fab.colls key = none ∧ t.fab.swcErr = tput s.fab.swcErr g.part (tgetD s.fab.swcErr g.part 0 ||| 1) ∧
       t.tier = s.tier ∧ t.out = s.out ∧ t.host = s.host)

/-- LINK_FRAME at an UP port: a frame in order is acknowledged, its far end's acknowledgement empties the retry
buffer up to it, and its flit opens an assembly, completes a packet, or is dropped as an orphan; a damaged frame or
one beyond a gap is asked for again, an old one acknowledged again, and a resend request puts the frames out again.
LOSS_OF_SIGNAL takes an UP port DOWN, or to training on the good lane with DEGRADE. PORT_TRAINED leads to IDENT, and
IDENT to UP only for the wired far end of this rack. TRAIN_RETRY, PORT_DISABLE, PORT_RETRAIN, LSTATE and LSTATE_TIMER
do what R279, R290 and R310 say. -/
def Obligations.LinksCarryFramesAndTrain : Prop :=
  (∀ (s : State) (port : Fin 32) (f : Frame) (p : Packet),
   portUp s port.val = true → s.err.inj = [] →
   f.crcOk = true ∧ f.uncorr = 0 ∧ f.resend = none ∧ f.seq = (s.port port.val).rxSeq → f.flits = [.header p] →
   knownKind p.kind = true → carriesPayload p = true →
   ∃ t, Machine.exec (.linkFrame port f) s = .next t ∧
     t.fab.asm = tput s.fab.asm (asmKey p.src p.bseq) { p := { p with payload := [] }, t := s.now } ∧
     t.out = s.out ++ [.frameAck port.val f.seq] ∧ (t.port port.val).rxSeq = (f.seq + 1) % 4096 ∧
     t.work = s.work ∧ t.tier = s.tier ∧ t.host = s.host ∧ t.epo = s.epo)
  ∧ (∀ (s : State) (port : Fin 32) (f : Frame) (p : Packet),
     portUp s port.val = true → s.err.inj = [] →
     f.crcOk = true ∧ f.uncorr = 0 ∧ f.resend = none ∧ f.seq = (s.port port.val).rxSeq → f.flits = [.header p] →
     knownKind p.kind = true → carriesPayload p = false →
     ∃ t, Machine.exec (.linkFrame port f) s = .next t ∧
       t.fab.ready = s.fab.ready ++ [(port.val, p)] ∧ t.fab.asm = s.fab.asm ∧
       t.out = s.out ++ [.frameAck port.val f.seq] ∧ (t.port port.val).rxSeq = (f.seq + 1) % 4096 ∧
       t.work = s.work ∧ t.tier = s.tier ∧ t.host = s.host ∧ t.epo = s.epo)
  ∧ (∀ (s : State) (port : Fin 32) (f : Frame) (src b : Nat) (bs : List Byte) (a : Assembly),
     portUp s port.val = true → s.err.inj = [] →
     f.crcOk = true ∧ f.uncorr = 0 ∧ f.resend = none ∧ f.seq = (s.port port.val).rxSeq →
     f.flits = [.data src b 0 bs] → tget? s.fab.asm (asmKey src b) = some a →
     a.p.gen = s.mbr.gen ∧ 0 < a.p.len ∧ a.p.len ≤ 16 ∧ a.flits = [] →
     ∃ t, Machine.exec (.linkFrame port f) s = .next t ∧
       t.fab.ready = s.fab.ready ++ [(port.val, { a.p with payload := slice (slice bs 0 16) 0 a.p.len })] ∧
         t.fab.asm = terase s.fab.asm (asmKey src b) ∧
       t.out = s.out ++ [.frameAck port.val f.seq] ∧ (t.port port.val).rxSeq = (f.seq + 1) % 4096 ∧
       t.work = s.work ∧ t.tier = s.tier ∧ t.host = s.host ∧ t.epo = s.epo)
  ∧ (∀ (s : State) (port : Fin 32) (f : Frame) (src b i : Nat) (bs : List Byte),
     portUp s port.val = true → s.err.inj = [] →
     f.crcOk = true ∧ f.uncorr = 0 ∧ f.resend = none ∧ f.seq = (s.port port.val).rxSeq →
     f.flits = [.data src b i bs] → tget? s.fab.asm (asmKey src b) = none →
     ∃ t, Machine.exec (.linkFrame port f) s = .next t ∧
       t.fab.ready = s.fab.ready ∧ t.fab.asm = s.fab.asm ∧
       t.out = s.out ++ [.frameAck port.val f.seq] ∧ (t.port port.val).rxSeq = (f.seq + 1) % 4096 ∧
       t.work = s.work ∧ t.tier = s.tier ∧ t.host = s.host ∧ t.epo = s.epo)
  ∧ (∀ (s : State) (port : Fin 32) (f : Frame) (l1 l2 : List (Nat × Packet)) (q : Packet),
     portUp s port.val = true → s.err.inj = [] →
     f.crcOk = true ∧ f.uncorr = 0 ∧ f.resend = none ∧ f.seq = (s.port port.val).rxSeq → f.flits = [] →
     (s.port port.val).retry = l1 ++ (f.ack, q) :: l2 → (∀ x ∈ l1, x.1 ≠ f.ack) →
     ∃ t, Machine.exec (.linkFrame port f) s = .next t ∧
       (t.port port.val).retry = l2 ∧
       t.out = s.out ++ [.frameAck port.val f.seq] ∧ (t.port port.val).rxSeq = (f.seq + 1) % 4096 ∧
       t.work = s.work ∧ t.tier = s.tier ∧ t.host = s.host ∧ t.epo = s.epo)
  ∧ (∀ (s : State) (port : Fin 32) (f : Frame),
     portUp s port.val = true → s.err.inj = [] → f.crcOk = false ∨ f.uncorr ≠ 0 →
     ∃ t, Machine.exec (.linkFrame port f) s = .next t ∧
       t.out = s.out ++ [.frameResend port.val (s.port port.val).rxSeq] ∧
       t.fab = s.fab ∧ t.work = s.work ∧ t.tier = s.tier ∧ t.host = s.host ∧ t.epo = s.epo)
  ∧ (∀ (s : State) (port : Fin 32) (f : Frame),
     portUp s port.val = true → s.err.inj = [] → f.crcOk = true ∧ f.uncorr = 0 ∧ f.resend = none →
     (s.port port.val).rxSeq < 4096 ∧ f.seq < 4096 ∧ f.seq ≠ (s.port port.val).rxSeq →
     ∃ t, Machine.exec (.linkFrame port f) s = .next t ∧
       t.out = s.out ++ [if (f.seq + 4096 - (s.port port.val).rxSeq) % 4096 < 2048 then .frameResend port.val
           (s.port port.val).rxSeq else .frameAck port.val (((s.port port.val).rxSeq + 4095) % 4096)] ∧
       t.fab.ready = s.fab.ready ∧ t.fab.asm = s.fab.asm ∧ t.work = s.work ∧ t.tier = s.tier ∧ t.host = s.host ∧
         t.epo = s.epo)
  ∧ (∀ (s : State) (port : Fin 32) (f : Frame) (k : Nat) (l1 l2 : List (Nat × Packet)) (q : Packet),
     portUp s port.val = true → s.err.inj = [] →
     f.crcOk = true ∧ f.uncorr = 0 ∧ f.resend = some k ∧ f.seq = (s.port port.val).rxSeq ∧ f.flits = [] →
     (s.port port.val).retry = l1 ++ (k, q) :: l2 → (∀ x ∈ l1, x.1 ≠ k) ∧ ∀ x ∈ l1 ++ (k, q) :: l2, x.1 ≠ f.ack →
     (if (s.port port.val).retryMs = s.now / 1000000 then (s.port port.val).retries else 0) + (l2.length + 1) ≤ fld
       s.fab.cfg 15 8 →
     ∃ t, Machine.exec (.linkFrame port f) s = .next t ∧
       t.out = s.out ++ (q :: l2.map (fun (x : Nat × Packet) => x.2)).map (Out.packet port.val) ++
         [.frameAck port.val f.seq] ∧
       (t.port port.val).retry = (s.port port.val).retry ∧ (t.port port.val).st = .up ∧
       t.work = s.work ∧ t.tier = s.tier ∧ t.host = s.host ∧ t.epo = s.epo)
  ∧ (∀ (s : State) (port : Fin 32) (f : Frame),
     portUp s port.val = false →
     Machine.exec (.linkFrame port f) s = .next (s))
  ∧ (∀ (s : State) (port : Fin 32) (lane : Fin 2),
     portUp s port.val = true → flag s.fab.cfg 0 = false ∨ (s.port port.val).lost ||| 2 ^ lane.val = 3 →
     (s.port port.val).lost < 4 ∧ (s.port port.val).disable = false → (s.port port.val).retry = [] →
     ∃ t, Machine.exec (.lossOfSignal port lane) s = .next t ∧
       (t.port port.val).st = .down ∧ (t.port port.val).reason = 1 ∧ (t.port port.val).lanes = 0 ∧
         (t.port port.val).downT = s.now ∧ (t.port port.val).retry = [] ∧
       t.work = s.work ∧ t.tier = s.tier ∧ t.host = s.host ∧ t.epo = s.epo)
  ∧ (∀ (s : State) (port : Fin 32) (lane : Fin 2),
     portUp s port.val = true → flag s.fab.cfg 0 = true →
     (s.port port.val).lost = 0 ∧ (s.port port.val).retry = [] →
     (s.port port.val).disable = false ∧ bitOf s.pkg.pwr.domOn (18 + port.val / 16) = true ∧
       (isEdge port.val && fld (s.port port.val).ep 1 0 == 0) = false →
     ∃ t, Machine.exec (.lossOfSignal port lane) s = .next t ∧
       (t.port port.val).st = .training ∧ (t.port port.val).reason = 1 ∧ (t.port port.val).lost = 2 ^ lane.val ∧
       t.work = s.work ∧ t.tier = s.tier ∧ t.host = s.host ∧ t.epo = s.epo)
  ∧ (∀ (s : State) (port : Fin 32) (lane : Fin 2) (k po : Nat) (q : Packet),
     portUp s port.val = true → flag s.fab.cfg 0 = false ∧ (s.port port.val).disable = false →
     (s.port port.val).retry = [(k, q)] ∧ nodeOf q.dst ≠ s.fab.node ∧ q.rcls = 1 →
     routeCands (s.setPort port.val { (s.port port.val) with st := .down }) (nodeOf q.dst) [] = [po] →
     ∃ t, Machine.exec (.lossOfSignal port lane) s = .next t ∧
       Out.packet po q ∈ t.out ∧
       (t.port port.val).st = .down ∧ (t.port port.val).retry = [] ∧
         (po, q) ∈ (t.port po).retry.map (fun (x : Nat × Packet) => (po, x.2)) ∧
       t.work = s.work ∧ t.tier = s.tier ∧ t.host = s.host ∧ t.epo = s.epo)
  ∧ (∀ (s : State) (port : Fin 32) (lanes : Fin 3),
     (s.port port.val).st = .training ∨ (s.port port.val).st = .align → 0 < lanes.val →
     Machine.exec (.portTrained port lanes) s = .next ({ s with
           fab := { s.fab with
               ports := tput s.fab.ports port.val { (s.port port.val) with
                   st := .ident, lanes := if (s.port port.val).lost = 0 then lanes.val else 1 },
               rx := tupd s.fab.rx (if isEdge port.val then endpointNum s.fab.node port.val else
                   (wiredTo s.fab.node port.val).1) (fun r => { r with high := 0, some_ := [] }) } }))
  ∧ (∀ (s : State) (port : Fin 32) (lanes : Fin 3),
     (s.port port.val).st = .training ∨ (s.port port.val).st = .align → lanes.val = 0 →
     Machine.exec (.portTrained port lanes) s = .next (s.setPort port.val { (s.port port.val) with
           st := .down, reason := 6, downT := s.now }))
  ∧ (∀ (s : State) (port : Fin 32) (rack pos q role gen : Nat),
     (s.port port.val).st = .ident → isEdge port.val = false → rack = s.fab.rackId →
     (pos, q) = wiredTo s.fab.node port.val →
     ∃ t, Machine.exec (.ident port (.node rack pos q role gen)) s = .next t ∧
       (t.port port.val).st = .up ∧ (t.port port.val).far = pos ∧ (t.port port.val).farPort = q ∧
       t.work = s.work ∧ t.tier = s.tier ∧ t.host = s.host ∧ t.epo = s.epo)
  ∧ (∀ (s : State) (port : Fin 32) (rack pos q role gen : Nat),
     (s.port port.val).st = .ident → isEdge port.val = false →
     rack ≠ s.fab.rackId ∨ (pos, q) ≠ wiredTo s.fab.node port.val →
     Machine.exec (.ident port (.node rack pos q role gen)) s = .next (s.setPort port.val { (s.port port.val) with
           st := .down, lanes := 0, reason := if rack ≠ s.fab.rackId then 4 else 3, downT := s.now }))
  ∧ (∀ (s : State) (port : Fin 32) (kind : Nat),
     (s.port port.val).st = .ident → isEdge port.val = true → kind ≠ 0 → kind = fld (s.port port.val).ep 1 0 →
     ∃ t, Machine.exec (.ident port (.endpoint kind)) s = .next t ∧
       (t.port port.val).st = .up ∧ (t.port port.val).far = endpointNum s.fab.node port.val ∧
       t.work = s.work ∧ t.tier = s.tier ∧ t.host = s.host ∧ t.epo = s.epo)
  ∧ (∀ (s : State) (port : Fin 32),
     (s.port port.val).st = .down → (s.port port.val).downT + 100000000 ≤ s.now →
     (s.port port.val).disable = false ∧ bitOf s.pkg.pwr.domOn (18 + port.val / 16) = true ∧
       (isEdge port.val && fld (s.port port.val).ep 1 0 == 0) = false →
     Machine.exec (.trainRetry port) s = .next (s.setPort port.val { (s.port port.val) with st := .training }))
  ∧ (∀ (s : State) (port : Fin 32),
     (s.port port.val).st ≠ .down ∨ s.now < (s.port port.val).downT + 100000000 →
     Machine.exec (.trainRetry port) s = .next (s))
  ∧ (∀ (s : State) (port : Fin 32) (fn : Fin 64),
     ownerFn s fn.val = true → (s.port port.val).retry = [] ∨ (s.port port.val).st ≠ .up →
     ∃ t, Machine.exec (.portDisable fn port true) s = .next t ∧
       (t.port port.val).st = .disabled ∧ (t.port port.val).disable = true ∧ (t.port port.val).lanes = 0 ∧
       t.work = s.work ∧ t.tier = s.tier ∧ t.host = s.host ∧ t.epo = s.epo)
  ∧ (∀ (s : State) (port : Fin 32) (fn : Fin 64),
     ownerFn s fn.val = true → (s.port port.val).st = .disabled →
     bitOf s.pkg.pwr.domOn (18 + port.val / 16) = true ∧
       (isEdge port.val && fld (s.port port.val).ep 1 0 == 0) = false →
     ∃ t, Machine.exec (.portDisable fn port false) s = .next t ∧
       (t.port port.val).st = .training ∧ (t.port port.val).disable = false ∧
       t.work = s.work ∧ t.tier = s.tier ∧ t.host = s.host ∧ t.epo = s.epo)
  ∧ (∀ (s : State) (port : Fin 32) (fn : Fin 64) (v : Bool),
     ownerFn s fn.val = false →
     Machine.exec (.portDisable fn port v) s = .next (s))
  ∧ (∀ (s : State) (port : Fin 32) (fn : Fin 64),
     ownerFn s fn.val = true → (s.port port.val).st ≠ .up →
     (s.port port.val).disable = false ∧ bitOf s.pkg.pwr.domOn (18 + port.val / 16) = true ∧
       (isEdge port.val && fld (s.port port.val).ep 1 0 == 0) = false →
     ∃ t, Machine.exec (.portRetrain fn port) s = .next t ∧
       (t.port port.val).st = .training ∧ (t.port port.val).lost = 0 ∧
       t.work = s.work ∧ t.tier = s.tier ∧ t.host = s.host ∧ t.epo = s.epo)
  ∧ (∀ (s : State) (src : Fin 64) (bits : W64),
     Machine.exec (.lstate src bits) s = .next ({ s with fab.lstate := tput s.fab.lstate src.val bits }))
  ∧ (∀ (s : State) (pos port : Nat),
     s.fab.node < 64 → s.fab.lastLstate + 10000000 ≤ s.now → pos ∈ rowPeers s.fab.node ++ colPeers s.fab.node →
     oneWay s pos port →
     ∃ t, Machine.exec (.lstateTimer) s = .next t ∧
       sent s port { kind := 0x12, dst := pos, src := s.fab.node, part := 0, len := 8,
                     payload := leBytes 8 (ownLstate s) } ∈ t.out ∧
       t.fab.lastLstate = s.now ∧ t.work = s.work ∧ t.tier = s.tier ∧ t.host = s.host ∧ t.epo = s.epo)

/-- Packets that reach this node in order. On a tile HOME in a stack: LOAD and GET answer its bytes and change none;
STORE and PUT store the payload, every other byte reads as before, and answer OK; ATOMIC stores the new value and
answers the old. In the lend window of the source STORE and LOAD act on the lent frame. A size or window that R287 or
R283 excludes, or a tile outside the partition's range, is answered ADMIT_REFUSED without an access. INVAL drops the
remote copies and is acknowledged when it goes no further. A burst seen before, an early fixed-class packet, one of
an older and one of a newer generation are dropped, held, rejected and held. -/
def Obligations.PacketsReadAndWriteTheHome : Prop :=
  (∀ (s : State) (port : Fin 32) (p : Packet) (a po : Nat),
   arrives s port.val 0x01 p → sizeOk p.addr p.len = true → windowOf p.addr = .tier a →
   fabTierCheck s p.part a = none → homed s (a / 65536) → fld (s.adm p.part).reg 47 32 = 0 →
   s.err.inj = [] ∧ s.err.repairing = [] ∧ s.tier.stubs = [] →
   intervalPoisoned s (a / 65536) (a % 65536) p.len = false → oneWay s p.src po ∧ p.src < 64 ∧ p.src ≠ s.fab.node →
   ∃ t, Machine.exec (.load port p) s = .next t ∧
     t.out = s.out ++ [sent s po { kind := 0x21, dst := p.src, src := s.fab.node, part := p.part, len := p.len,
                                   tag := p.tag, addr := p.addr, status := 0, aux := p.aux,
                                   payload := mreadN s.tier.mem a p.len }] ∧
     t.tier.mem = s.tier.mem ∧ t.tier.home = s.tier.home ∧ t.work.clusters = s.work.clusters ∧ t.epo = s.epo ∧
       t.flash = s.flash ∧ t.host.fns = s.host.fns ∧ t.host.cmds = s.host.cmds ∧ t.fab.reqs = s.fab.reqs)
  ∧ (∀ (s : State) (port : Fin 32) (p : Packet) (a po : Nat),
     arrives s port.val 0x06 p → sizeOk p.addr p.len = true → windowOf p.addr = .tier a →
     fabTierCheck s p.part a = none → homed s (a / 65536) → fld (s.adm p.part).reg 47 32 = 0 →
     s.err.inj = [] ∧ s.err.repairing = [] ∧ s.tier.stubs = [] →
     intervalPoisoned s (a / 65536) (a % 65536) p.len = false →
     oneWay s p.src po ∧ p.src < 64 ∧ p.src ≠ s.fab.node →
     ∃ t, Machine.exec (.get port p) s = .next t ∧
       t.out = s.out ++ [sent s po { kind := 0x26, dst := p.src, src := s.fab.node, part := p.part, len := p.len,
                                     tag := p.tag, addr := p.addr, status := 0, aux := p.aux,
                                     payload := mreadN s.tier.mem a p.len }] ∧
       t.tier.mem = s.tier.mem ∧ t.tier.home = s.tier.home ∧ t.work.clusters = s.work.clusters ∧ t.epo = s.epo ∧
         t.flash = s.flash ∧ t.host.fns = s.host.fns ∧ t.host.cmds = s.host.cmds ∧ t.fab.reqs = s.fab.reqs)
  ∧ (∀ (s : State) (port : Fin 32) (p : Packet) (a po : Nat),
     arrives s port.val 0x02 p → sizeOk p.addr p.payload.length = true → windowOf p.addr = .tier a →
     fabTierCheck s p.part a = none → homed s (a / 65536) → fld (s.adm p.part).reg 47 32 = 0 →
     s.err.inj = [] ∧ s.err.repairing = [] ∧ s.tier.stubs = [] → memWf s.tier.mem = true →
     oneWay s p.src po ∧ p.src < 64 ∧ p.src ≠ s.fab.node →
     ∃ t, Machine.exec (.store port p) s = .next t ∧
       t.out = s.out ++ [sent s po { kind := 0x22, dst := p.src, src := s.fab.node, part := p.part, len := 0,
                                     tag := p.tag, addr := p.addr, status := 0, aux := p.aux, payload := [] }] ∧
       storesAt s.tier.mem t.tier.mem a p.payload ∧ t.tier.home = s.tier.home ∧ t.work.clusters = s.work.clusters ∧
         t.epo = s.epo ∧ t.flash = s.flash ∧ t.host.fns = s.host.fns ∧ t.host.cmds = s.host.cmds ∧
         t.fab.reqs = s.fab.reqs)
  ∧ (∀ (s : State) (port : Fin 32) (p : Packet) (a po : Nat),
     arrives s port.val 0x05 p → sizeOk p.addr p.payload.length = true → windowOf p.addr = .tier a →
     fabTierCheck s p.part a = none → homed s (a / 65536) → fld (s.adm p.part).reg 47 32 = 0 →
     s.err.inj = [] ∧ s.err.repairing = [] ∧ s.tier.stubs = [] → memWf s.tier.mem = true →
     oneWay s p.src po ∧ p.src < 64 ∧ p.src ≠ s.fab.node →
     ∃ t, Machine.exec (.put port p) s = .next t ∧
       t.out = s.out ++ [sent s po { kind := 0x25, dst := p.src, src := s.fab.node, part := p.part, len := 0,
                                     tag := p.tag, addr := p.addr, status := 0, aux := p.aux, payload := [] }] ∧
       storesAt s.tier.mem t.tier.mem a p.payload ∧ t.tier.home = s.tier.home ∧ t.work.clusters = s.work.clusters ∧
         t.epo = s.epo ∧ t.flash = s.flash ∧ t.host.fns = s.host.fns ∧ t.host.cmds = s.host.cmds ∧
         t.fab.reqs = s.fab.reqs)
  ∧ (∀ (s : State) (port : Fin 32) (p : Packet) (a po : Nat),
     arrives s port.val 0x03 p → atomicOk p.aux p.addr = true → windowOf p.addr = .tier a →
     fabTierCheck s p.part a = none → homed s (a / 65536) → fld (s.adm p.part).reg 47 32 = 0 →
     s.err.inj = [] ∧ s.err.repairing = [] ∧ s.tier.stubs = [] →
     intervalPoisoned s (a / 65536) (a % 65536) (atomicWidth p.aux) = false → memWf s.tier.mem = true →
     oneWay s p.src po ∧ p.src < 64 ∧ p.src ≠ s.fab.node →
     ∃ t, Machine.exec (.atomic port p) s = .next t ∧
       (let n := atomicWidth p.aux
        let old := leNat (mreadN s.tier.mem a n)
        storesAt s.tier.mem t.tier.mem a (leBytes n (atomicNew p.aux n old (getLE p.payload 0 8)
                (getLE p.payload 8 8))) ∧
          t.out = s.out ++ [sent s po { kind := 0x23, dst := p.src, src := s.fab.node, part := p.part, len := n,
                                        tag := p.tag, addr := p.addr, status := 0, aux := p.aux,
                                        payload := leBytes n old }]) ∧
       t.work.clusters = s.work.clusters ∧ t.epo = s.epo ∧ t.flash = s.flash ∧ t.host.fns = s.host.fns ∧
         t.host.cmds = s.host.cmds ∧ t.fab.reqs = s.fab.reqs)
  ∧ (∀ (s : State) (port : Fin 32) (p : Packet) (f o k po : Nat),
     arrives s port.val 0x02 p → sizeOk p.addr p.payload.length = true → windowOf p.addr = .lend f o →
     lentFrame s p.src f = some k → memWf s.tier.lendMem = true →
     oneWay s p.src po ∧ p.src < 64 ∧ p.src ≠ s.fab.node →
     ∃ t, Machine.exec (.store port p) s = .next t ∧
       storesAt s.tier.lendMem t.tier.lendMem (k * 65536 + o) p.payload ∧ t.tier.mem = s.tier.mem ∧
         t.tier.home = s.tier.home ∧
       t.out = s.out ++ [sent s po { kind := 0x22, dst := p.src, src := s.fab.node, part := p.part, len := 0,
                                     tag := p.tag, addr := p.addr, status := 0, aux := p.aux, payload := [] }] ∧
       t.work.clusters = s.work.clusters ∧ t.epo = s.epo ∧ t.flash = s.flash ∧ t.host.fns = s.host.fns ∧
         t.host.cmds = s.host.cmds ∧ t.fab.reqs = s.fab.reqs)
  ∧ (∀ (s : State) (port : Fin 32) (p : Packet) (f o k po : Nat),
     arrives s port.val 0x01 p → sizeOk p.addr p.len = true → windowOf p.addr = .lend f o →
     lentFrame s p.src f = some k → s.tier.lendPois = [] → oneWay s p.src po ∧ p.src < 64 ∧ p.src ≠ s.fab.node →
     ∃ t, Machine.exec (.load port p) s = .next t ∧
       t.tier = s.tier ∧
       t.out = s.out ++ [sent s po { kind := 0x21, dst := p.src, src := s.fab.node, part := p.part, len := p.len,
                                     tag := p.tag, addr := p.addr, status := 0, aux := p.aux,
                                     payload := mreadN s.tier.lendMem (k * 65536 + o) p.len }] ∧
       t.work.clusters = s.work.clusters ∧ t.epo = s.epo ∧ t.flash = s.flash ∧ t.host.fns = s.host.fns ∧
         t.host.cmds = s.host.cmds ∧ t.fab.reqs = s.fab.reqs)
  ∧ (∀ (s : State) (port : Fin 32) (p : Packet) (po : Nat),
     arrives s port.val 0x01 p → sizeOk p.addr p.len = false ∨ windowOf p.addr = .none →
     oneWay s p.src po ∧ p.src < 64 ∧ p.src ≠ s.fab.node →
     ∃ t, Machine.exec (.load port p) s = .next t ∧
       t.tier = s.tier ∧
       t.out = s.out ++ [sent s po { kind := 0x21, dst := p.src, src := s.fab.node, part := p.part, len := 0,
                                     tag := p.tag, addr := p.addr, status := 0x0101, aux := p.aux, payload := [] }] ∧
       t.work.clusters = s.work.clusters ∧ t.epo = s.epo ∧ t.flash = s.flash ∧ t.host.fns = s.host.fns ∧
         t.host.cmds = s.host.cmds ∧ t.fab.reqs = s.fab.reqs)
  ∧ (∀ (s : State) (port : Fin 32) (p : Packet) (a po : Nat),
     arrives s port.val 0x02 p → sizeOk p.addr p.payload.length = true → windowOf p.addr = .tier a →
     s.fab.role ≠ 2 ∧ inPrange s p.part (a / 65536) 1 = false →
     oneWay s p.src po ∧ p.src < 64 ∧ p.src ≠ s.fab.node →
     ∃ t, Machine.exec (.store port p) s = .next t ∧
       t.tier = { s.tier with err := tput s.tier.err p.part (tgetD s.tier.err p.part 0 ||| 1) } ∧
       t.out = s.out ++ [sent s po { kind := 0x22, dst := p.src, src := s.fab.node, part := p.part, len := 0,
                                     tag := p.tag, addr := p.addr, status := 0x0101, aux := p.aux, payload := [] }] ∧
       t.work.clusters = s.work.clusters ∧ t.epo = s.epo ∧ t.flash = s.flash ∧ t.host.fns = s.host.fns ∧
         t.host.cmds = s.host.cmds ∧ t.fab.reqs = s.fab.reqs)
  ∧ (∀ (s : State) (port : Fin 32) (p : Packet) (po : Nat),
     arrives s port.val 0x04 p → (invalOnward s p) = ([], []) →
     oneWay s p.src po ∧ p.src < 64 ∧ p.src ≠ s.fab.node →
     ∃ t, Machine.exec (.inval port p) s = .next t ∧
       t.out = s.out ++ [sent s po { kind := 0x24, dst := p.src, src := s.fab.node, part := p.part, tag := p.tag,
                                     addr := p.addr }] ∧
       (∀ k, (t.region k).lines = (s.region k).lines.filter (fun (l : RfLine) => !(l.remote && decide
               (p.addr / 256 ≤ l.line) && decide (l.line < p.addr / 256 + p.aux)))) ∧
       (∀ k, (t.cl k).recs = (s.cl k).recs.filter (fun l => !l.remote)) ∧
       t.tier.mem = s.tier.mem ∧ t.tier.home = s.tier.home ∧ t.fab.relays = s.fab.relays)
  ∧ (∀ (s : State) (port : Fin 32) (p : Packet) (peers eps : List Nat),
     arrives s port.val 0x04 p → (invalOnward s p) = (peers, eps) ∧ peers ≠ [] → nodeOf p.src ≠ s.fab.node →
     ∃ t, Machine.exec (.inval port p) s = .next t ∧
       t.fab.relays = s.fab.relays ++ [{ src := p.src, tag := p.tag, myTag := s.fab.nextTag,
                                         waitPos := ofBits peers, waitEp := eps, t := s.now }] ∧
       t.tier.mem = s.tier.mem ∧ t.tier.home = s.tier.home)
  ∧ (∀ (s : State) (port : Fin 32) (p : Packet),
     portUp s port.val = true → isEdge port.val = false →
     p.kind = 0x02 ∧ p.gen = s.mbr.gen ∧ p.dst = s.fab.node ∧ p.dst < 64 →
     p.payload ≠ [] ∧ bseqDone (s.rxOf p.src) p.bseq = true →
     ∃ t, Machine.exec (.store port p) s = .next t ∧
       t = { s with fab := { s.fab with ready := s.fab.ready.erase (port.val, p) }, pmc := t.pmc })
  ∧ (∀ (s : State) (port : Fin 32) (p : Packet),
     portUp s port.val = true → isEdge port.val = false →
     p.kind = 0x15 ∧ p.gen = s.mbr.gen ∧ p.dst = s.fab.node ∧ p.dst < 64 →
     p.payload = [] ∨ bseqDone (s.rxOf p.src) p.bseq = false →
     p.rcls = 1 ∧ seqBefore (s.rxOf p.src).fnext p.fseq = true ∧ earlyHeld s < 512 →
     Machine.exec (.plist port p) s = .next ({ s with
           fab := { s.fab with
               ready := s.fab.ready.erase (port.val, p),
               rx := tput s.fab.rx p.src { s.rxOf p.src with early := tput (s.rxOf p.src).early p.fseq p } } }))
  ∧ (∀ (s : State) (port : Fin 32) (p : Packet) (po : Nat),
     portUp s port.val = true → isEdge port.val = false → p.kind = 0x02 ∧ p.gen < s.mbr.gen →
     oneWay s p.src po ∧ p.src < 64 ∧ p.src ≠ s.fab.node →
     ∃ t, Machine.exec (.store port p) s = .next t ∧
       t.out = s.out ++ [sent s po { kind := 0x3E, dst := p.src, src := s.fab.node, part := p.part, tag := p.tag,
                                     addr := p.addr }] ∧
       t.tier = s.tier ∧ t.fab.rx = s.fab.rx)
  ∧ (∀ (s : State) (port : Fin 32) (p : Packet),
     portUp s port.val = true → isEdge port.val = false → p.kind = 0x02 ∧ s.mbr.gen < p.gen →
     Machine.exec (.store port p) s = .next ({ s with
           fab := { s.fab with
               ready := s.fab.ready.erase (port.val, p),
               genHold := tput s.fab.genHold s.fab.nextHold ⟨port.val, p, s.now⟩, nextHold := s.fab.nextHold + 1 } }))

/-- STORE_ACK and PUT_ACK end a store of a cluster, which its FENCEM no longer awaits; LOAD_RSP and GET_RSP with OK
bring their bytes to the copy's place in scratch; ATOMIC_RSP brings the old value to scratch and the unit goes on;
INVAL_ACK lets the unit go on once every member has acknowledged, and before that is only noted. A request that
waited with FLAG for the one that ended leaves then. An answer without a request changes no request. A request
refused by an intermediate is routed again without it, and after the third refusal ends with TIMEOUT. -/
def Obligations.ResponsesEndRequests : Prop :=
  (∀ (s : State) (port : Fin 32) (p : Packet) (r : Req) (c : Nat),
   arrives s port.val 0x22 p → tget? s.fab.reqs p.tag = some r → r.kind = 0x02 ∧ r.for_ = .store c →
   s.fab.flagWait = [] → p.status = 0 →
   ∃ t, Machine.exec (.storeAck port p) s = .next t ∧
     ((t.cl c).unit 1).pending = ((s.cl c).unit 1).pending - 1 ∧ ((t.cl c).unit 1).wait = ((s.cl c).unit 1).wait ∧
       (t.cl c).scratch = (s.cl c).scratch ∧
     t.fab.reqs = terase s.fab.reqs p.tag ∧ t.tier = s.tier ∧ t.host = s.host ∧ t.out = s.out)
  ∧ (∀ (s : State) (port : Fin 32) (p : Packet) (r : Req) (c : Nat),
     arrives s port.val 0x25 p → tget? s.fab.reqs p.tag = some r → r.kind = 0x05 ∧ r.for_ = .store c →
     s.fab.flagWait = [] → p.status = 0 →
     ∃ t, Machine.exec (.putAck port p) s = .next t ∧
       ((t.cl c).unit 1).pending = ((s.cl c).unit 1).pending - 1 ∧
         ((t.cl c).unit 1).wait = ((s.cl c).unit 1).wait ∧ (t.cl c).scratch = (s.cl c).scratch ∧
       t.fab.reqs = terase s.fab.reqs p.tag ∧ t.tier = s.tier ∧ t.host = s.host ∧ t.out = s.out)
  ∧ (∀ (s : State) (port : Fin 32) (p : Packet) (r : Req) (c j : Nat) (x : CopyJob),
     arrives s port.val 0x21 p → tget? s.fab.reqs p.tag = some r → r.kind = 0x01 ∧ r.for_ = .copy c j →
     s.fab.flagWait = [] → p.status = 0 ∧ p.payload.length = r.len ∧ r.len ≤ 256 →
     tget? (s.cl c).copies j = some x → tabWf (s.cl c).scratch = true →
     ∃ t, Machine.exec (.loadRsp port p) s = .next t ∧
       scrRead (t.cl c) (x.dst + (r.addr - x.addr)) r.len = p.payload ∧
         scrSame s t c (x.dst + (r.addr - x.addr)) r.len ∧
       (t.cl c).copies = tput (s.cl c).copies j { x with left := x.left - 1 } ∧
         ((t.cl c).unit 2).pending = ((s.cl c).unit 2).pending - 1 ∧
       t.fab.reqs = terase s.fab.reqs p.tag ∧ t.tier = s.tier ∧ t.host = s.host ∧ t.out = s.out)
  ∧ (∀ (s : State) (port : Fin 32) (p : Packet) (r : Req) (c j : Nat) (x : CopyJob),
     arrives s port.val 0x26 p → tget? s.fab.reqs p.tag = some r → r.kind = 0x06 ∧ r.for_ = .copy c j →
     s.fab.flagWait = [] → p.status = 0 ∧ p.payload.length = r.len ∧ r.len ≤ 256 →
     tget? (s.cl c).copies j = some x → tabWf (s.cl c).scratch = true →
     ∃ t, Machine.exec (.getRsp port p) s = .next t ∧
       scrRead (t.cl c) (x.dst + (r.addr - x.addr)) r.len = p.payload ∧
         scrSame s t c (x.dst + (r.addr - x.addr)) r.len ∧
       (t.cl c).copies = tput (s.cl c).copies j { x with left := x.left - 1 } ∧
         ((t.cl c).unit 2).pending = ((s.cl c).unit 2).pending - 1 ∧
       t.fab.reqs = terase s.fab.reqs p.tag ∧ t.tier = s.tier ∧ t.host = s.host ∧ t.out = s.out)
  ∧ (∀ (s : State) (port : Fin 32) (p : Packet) (r : Req) (c off n : Nat),
     arrives s port.val 0x23 p → tget? s.fab.reqs p.tag = some r → r.kind = 0x03 ∧ r.for_ = .vatom c off n →
     s.fab.flagWait = [] → p.status = 0 ∧ p.payload.length = n ∧ n ≤ 8 → tabWf (s.cl c).scratch = true →
     ((s.cl c).unit 1).wait = UWait.resp p.tag →
     ((s.cl c).word 1).map (fun v => (wSigen v, wLast v)) = some (false, false) →
     ∃ t, Machine.exec (.atomicRsp port p) s = .next t ∧
       scrRead (t.cl c) off n = p.payload ∧ scrSame s t c off n ∧
       ((t.cl c).unit 1).wait = .none ∧ ((t.cl c).unit 1).pending = ((s.cl c).unit 1).pending - 1 ∧
         (t.cl c).tokens = (s.cl c).tokens ∧
       t.fab.reqs = terase s.fab.reqs p.tag ∧ t.tier = s.tier ∧ t.host = s.host ∧ t.out = s.out)
  ∧ (∀ (s : State) (port : Fin 32) (p : Packet) (r : Req) (c : Nat),
     arrives s port.val 0x24 p → tget? s.fab.reqs p.tag = some r →
     r.kind = 0x04 ∧ r.for_ = .inval c ∧ r.waitEp = [] → s.fab.flagWait = [] → ackedBy s true p.src r.waitPos = 0 →
     ((s.cl c).unit 1).wait = UWait.resp p.tag → ((s.cl c).word 1).isSome = true → tabWf s.fab.reqs = true →
     ∃ t, Machine.exec (.invalAck port p) s = .next t ∧
       ((t.cl c).unit 1).wait = .none ∧ ((t.cl c).unit 1).pending = ((s.cl c).unit 1).pending - 1 ∧
       tget? t.fab.reqs p.tag = none ∧ t.tier = s.tier ∧ t.host = s.host ∧ t.out = s.out)
  ∧ (∀ (s : State) (port : Fin 32) (p : Packet) (r : Req),
     arrives s port.val 0x24 p → tget? s.fab.reqs p.tag = some r → r.kind = 0x04 →
     ackedBy s true p.src r.waitPos ≠ 0 →
     ∃ t, Machine.exec (.invalAck port p) s = .next t ∧
       t.fab.reqs = tput s.fab.reqs p.tag { r with
           waitPos := ackedBy s true p.src r.waitPos, waitEp := r.waitEp.filter (· != p.src) } ∧
       t.work = s.work ∧ t.tier = s.tier ∧ t.out = s.out)
  ∧ (∀ (s : State) (port : Fin 32) (p : Packet) (r : InvalRelay) (po : Nat),
     arrives s port.val 0x24 p → tget? s.fab.reqs p.tag = none →
     s.fab.relays = [r] ∧ r.myTag = p.tag ∧ r.waitEp = [] →
     ackedBy s (nodeOf r.src == s.fab.node) p.src r.waitPos = 0 →
     oneWay s r.src po ∧ r.src < 64 ∧ r.src ≠ s.fab.node →
     ∃ t, Machine.exec (.invalAck port p) s = .next t ∧
       t.out = s.out ++ [sent s po { kind := 0x24, dst := r.src, src := s.fab.node, part := p.part, tag := r.tag }] ∧
       t.fab.relays = [] ∧ t.work = s.work ∧ t.tier = s.tier)
  ∧ (∀ (s : State) (port : Fin 32) (p : Packet) (r : Req) (c : Nat) (q : FlagWait) (po : Nat),
     arrives s port.val 0x22 p → tget? s.fab.reqs p.tag = some r → r.kind = 0x02 ∧ r.for_ = .store c →
     p.status = 0 → s.fab.flagWait = [q] ∧ q.awaits = [p.tag] ∧ q.bad = [] ∧ q.req.kind = 0x02 ∧ q.req.p.dst < 64 →
     oneWay s q.req.p.dst po → q.tag ≠ p.tag →
     ∃ t, Machine.exec (.storeAck port p) s = .next t ∧
       t.out = s.out ++ [sent s po q.req.p] ∧ t.fab.flagWait = [] ∧
         tget? t.fab.reqs q.tag = some { q.req with t := s.now } ∧
       t.tier = s.tier ∧ t.host = s.host)
  ∧ (∀ (s : State) (port : Fin 32) (p : Packet),
     arrives s port.val 0x21 p → tget? s.fab.reqs p.tag = none →
     ∃ t, Machine.exec (.loadRsp port p) s = .next t ∧
       t = { s with fab := { s.fab with rx := t.fab.rx, ready := t.fab.ready }, pmc := t.pmc })
  ∧ (∀ (s : State) (port : Fin 32) (p : Packet),
     arrives s port.val 0x22 p → tget? s.fab.reqs p.tag = none →
     ∃ t, Machine.exec (.storeAck port p) s = .next t ∧
       t = { s with fab := { s.fab with rx := t.fab.rx, ready := t.fab.ready }, pmc := t.pmc })
  ∧ (∀ (s : State) (port : Fin 32) (p : Packet),
     arrives s port.val 0x23 p → tget? s.fab.reqs p.tag = none →
     ∃ t, Machine.exec (.atomicRsp port p) s = .next t ∧
       t = { s with fab := { s.fab with rx := t.fab.rx, ready := t.fab.ready }, pmc := t.pmc })
  ∧ (∀ (s : State) (port : Fin 32) (p : Packet),
     arrives s port.val 0x24 p → tget? s.fab.reqs p.tag = none ∧ s.fab.relays = [] →
     ∃ t, Machine.exec (.invalAck port p) s = .next t ∧
       t = { s with fab := { s.fab with rx := t.fab.rx, ready := t.fab.ready }, pmc := t.pmc })
  ∧ (∀ (s : State) (port : Fin 32) (p : Packet),
     arrives s port.val 0x25 p → tget? s.fab.reqs p.tag = none →
     ∃ t, Machine.exec (.putAck port p) s = .next t ∧
       t = { s with fab := { s.fab with rx := t.fab.rx, ready := t.fab.ready }, pmc := t.pmc })
  ∧ (∀ (s : State) (port : Fin 32) (p : Packet),
     arrives s port.val 0x26 p → tget? s.fab.reqs p.tag = none →
     ∃ t, Machine.exec (.getRsp port p) s = .next t ∧
       t = { s with fab := { s.fab with rx := t.fab.rx, ready := t.fab.ready }, pmc := t.pmc })
  ∧ (∀ (s : State) (p : Packet) (via : Fin 64) (r : Req) (po : Nat),
     p.src = s.fab.node → tget? s.fab.reqs p.tag = some r ∧ r.kind = p.kind ∧ r.p.addr = p.addr →
     r.refused.length < 2 → nodeOf p.dst ≠ s.fab.node ∧ p.rcls = 1 →
     routeCands s (nodeOf p.dst) (r.refused ++ [via.val]) = [po] →
     ∃ t, Machine.exec (.routeNak p via) s = .next t ∧
       t.out = s.out ++ [.packet po p] ∧
         t.fab.reqs = tput s.fab.reqs p.tag { r with refused := r.refused ++ [via.val] } ∧
       t.work = s.work ∧ t.tier = s.tier ∧ t.host = s.host)
  ∧ (∀ (s : State) (p : Packet) (via : Fin 64) (r : Req) (c : Nat),
     p.src = s.fab.node →
     tget? s.fab.reqs p.tag = some r ∧ r.kind = p.kind ∧ r.p.addr = p.addr ∧ r.for_ = .store c ∧ r.inv = none →
     r.refused.length = 2 → s.fab.flagWait = [] → tabWf s.fab.reqs = true →
     ∃ t, Machine.exec (.routeNak p via) s = .next t ∧
       t.out = s.out ∧ tget? t.fab.reqs p.tag = none ∧ ((t.cl c).unit 1).pending = ((s.cl c).unit 1).pending - 1 ∧
       t.tier = s.tier ∧ t.host = s.host)
  ∧ (∀ (s : State) (p : Packet) (via : Fin 64),
     p.src ≠ s.fab.node →
     Machine.exec (.routeNak p via) s = .next (s))

/-- BURST_HOLD_EXPIRE discards a burst that is partial BHOLD after its header, consumes its BSEQ and answers a
store's source with BURST_TIMEOUT; GEN_HOLD_EXPIRE drops a packet GEN_HOLD after its arrival; MSG_TMO_EXPIRE and
INVAL_TMO_EXPIRE end a message beyond the domain and an invalidation with TIMEOUT; each before its time, or without
its object, changes nothing. QFWD on a node with no role shift enters a query with this node's share of the deadline;
on another it is answered with REJECT. REJECT without a newer map leaves a refusing rank absent from its merge. -/
def Obligations.FabricHoldsAndTimeoutsExpire : Prop :=
  (∀ (s : State) (src : Fin 4096) (b po : Nat) (a : Assembly),
   tget? s.fab.asm (asmKey src.val b) = some a → a.t + fld s.fab.cfg 51 42 * 1000 ≤ s.now →
   a.p.kind = 0x02 ∧ a.p.rcls = 0 ∧ a.p.dst = s.fab.node →
   oneWay s a.p.src po ∧ a.p.src < 64 ∧ a.p.src ≠ s.fab.node →
   ∃ t, Machine.exec (.burstHoldExpire src b) s = .next t ∧
     t.fab.asm = terase s.fab.asm (asmKey src.val b) ∧
       t.fab.rx = tput s.fab.rx src.val (bseqTake (s.rxOf src.val) b) ∧
     t.out = s.out ++ [sent s po { kind := 0x22, dst := a.p.src, src := s.fab.node, part := a.p.part,
                                   tag := a.p.tag, addr := a.p.addr, status := 0x0203, aux := a.p.aux }] ∧
     t.tier = s.tier ∧ t.work = s.work ∧ t.host = s.host)
  ∧ (∀ (s : State) (src : Fin 4096) (b : Nat),
     (tget? s.fab.asm (asmKey src.val b)).all (fun (a : Assembly) => decide
         (s.now < a.t + fld s.fab.cfg 51 42 * 1000)) = true →
     Machine.exec (.burstHoldExpire src b) s = .next (s))
  ∧ (∀ (s : State) (i : Nat) (h : HeldPkt),
     tget? s.fab.genHold i = some h → h.t + fld s.fab.cfg 31 24 * 10000 ≤ s.now →
     ∃ t, Machine.exec (.genHoldExpire i) s = .next t ∧
       t = { s with fab := { s.fab with genHold := terase s.fab.genHold i }, pmc := t.pmc })
  ∧ (∀ (s : State) (i : Nat),
     (tget? s.fab.genHold i).all (fun (h : HeldPkt) => decide (s.now < h.t + fld s.fab.cfg 31 24 * 10000)) = true →
     Machine.exec (.genHoldExpire i) s = .next (s))
  ∧ (∀ (s : State) (tag : Fin 65536) (r : Req) (c : Nat),
     tget? s.fab.reqs tag.val = some r → (r.kind = 0x05 ∨ r.kind = 0x06) ∧ inDomainNum (r.addr / 2 ^ 52) = false →
     r.t + fld s.fab.cfg 23 16 * 1000000 ≤ s.now → r.for_ = .store c ∧ r.inv = none → s.fab.flagWait = [] →
     ∃ t, Machine.exec (.msgTmoExpire tag) s = .next t ∧
       ((t.cl c).unit 1).pending = ((s.cl c).unit 1).pending - 1 ∧ t.fab.reqs = terase s.fab.reqs tag.val ∧
       t.tier = s.tier ∧ t.out = s.out ∧ t.host = s.host)
  ∧ (∀ (s : State) (tag : Fin 65536),
     (tget? s.fab.reqs tag.val).all (fun (r : Req) => inDomainNum (r.addr / 2 ^ 52) || decide
         (s.now < r.t + fld s.fab.cfg 23 16 * 1000000)) = true →
     Machine.exec (.msgTmoExpire tag) s = .next (s))
  ∧ (∀ (s : State) (tag : Fin 65536) (r : Req) (c : Nat),
     tget? s.fab.reqs tag.val = some r → r.kind = 0x04 ∧ r.for_ = .inval c ∧ r.inv = none →
     r.t + fld s.fab.cfg 41 32 * 1000 ≤ s.now → s.fab.flagWait = [] → ((s.cl c).unit 1).wait = UWait.resp tag.val →
     ((s.cl c).word 1).isSome = true →
     ∃ t, Machine.exec (.invalTmoExpire tag) s = .next t ∧
       ((t.cl c).unit 1).wait = .none ∧ ((t.cl c).unit 1).pending = ((s.cl c).unit 1).pending - 1 ∧
         t.fab.reqs = terase s.fab.reqs tag.val ∧
       t.tier = s.tier ∧ t.out = s.out ∧ t.host = s.host)
  ∧ (∀ (s : State) (tag : Fin 65536),
     (tget? s.fab.reqs tag.val).all (fun (r : Req) => r.kind != 0x04 || decide
         (s.now < r.t + fld s.fab.cfg 41 32 * 1000)) = true →
     Machine.exec (.invalTmoExpire tag) s = .next (s))
  ∧ (∀ (s : State) (port : Fin 32) (p : Packet) (epoch stamp step_ : Nat),
     arrives s port.val 0x14 p → s.fab.role = 0 →
     (let d := patch (slice p.payload 0 128) 0x10 (leBytes 8 epoch)
      queryReasons s p.part (patch d 8 (leBytes 8 0)) % 2 ^ 13 &&& (rsFormat + rsName + rsQuiesce) = 0) →
     s.epo.oldest ≤ epoch →
     ∃ t, Machine.exec (.qfwd port p epoch stamp step_) s = .next t ∧
       (tget? t.work.queries s.work.nextQid).map (fun (q : Query) =>
           (q.part, q.stamp, q.step, q.entry, q.cid, q.epoch)) = some (p.part, stamp, step_, some
           (p.src, p.addr % 2 ^ 52), none, some epoch) ∧
       (tget? t.work.queries s.work.nextQid).map (fun (q : Query) => (q.desc, q.deadline)) = (let d := patch
                                                                                                (slice p.payload 0
                                                                                                  128) 0x10
                                                                                                (leBytes 8 epoch)
                                                                                              some
                                                                                                (d, queryDeadline s
                                                                                                  p.part stamp d -
                                                                                                  qMgRes d)) ∧
       t.tier = s.tier ∧ t.host.cmds = s.host.cmds)
  ∧ (∀ (s : State) (port : Fin 32) (p : Packet) (epoch stamp step_ po : Nat),
     arrives s port.val 0x14 p → s.fab.role ≠ 0 → oneWay s p.src po ∧ p.src < 64 ∧ p.src ≠ s.fab.node →
     ∃ t, Machine.exec (.qfwd port p epoch stamp step_) s = .next t ∧
       t.out = s.out ++ [sent s po { kind := 0x3E, dst := p.src, src := s.fab.node, part := p.part, tag := p.tag,
                                     addr := p.addr }] ∧
       t.work = s.work ∧ t.host = s.host ∧ t.tier = s.tier)
  ∧ (∀ (s : State) (port : Fin 32) (p : Packet) (ans : Option RackMap) (key qid : Nat) (q : Query) (g : Coll),
     arrives s port.val 0x3E p → p.gen ≤ s.mbr.gen → mergeOf s (p.addr % 2 ^ 52) = some (key, qid, q) →
     p.addr / 2 ^ 52 = p.src ∧ bitOf (mergeMask q.desc (ownShard s)) (shardOf s p.src) = true →
     tget? s.fab.colls key = some g ∧ g.qid = some qid ∧ g.own = none →
     bitOf g.missing (rankOf (mergeMask q.desc (ownShard s)) (shardOf s p.src)) = true →
     ∃ t, Machine.exec (.reject port p ans) s = .next t ∧
       t.fab.colls = tput s.fab.colls key { g with
           absent := g.absent ||| 2 ^ rankOf (mergeMask q.desc (ownShard s)) (shardOf s p.src) } ∧
       t.work = s.work ∧ t.tier = s.tier ∧ t.out = s.out ∧ t.host = s.host ∧ t.mbr = s.mbr)
  ∧ (∀ (s : State) (port : Fin 32) (p : Packet),
     arrives s port.val 0x3E p → s.mbr.gen < p.gen →
     ∃ t, Machine.exec (.reject port p none) s = .next t ∧
       t = { s with fab := { s.fab with rx := t.fab.rx, ready := t.fab.ready } })

/-- FLASH_READ of unmapped or discarded data answers zeros at once, DISCARDED where it is; of one mapped codeword it
queues its read at the die. The read's end brings the bytes to the host and ends the command; a failed step goes up
the ladder, and past step 9 the codeword is POISONED and its block retired. FLASH_WRITE of a whole unit queues its
program; part of a unit waits in the write buffer until 500 µs have passed. A program that passes points the map at
its unit, which then shows its bytes, and ends the command; one that fails retires the block. FLASH_DISCARD of a
whole unit leaves it DISCARDED. Fields or ranges that R345 excludes are refused. -/
def Obligations.FlashCommandsReadWriteAndDiscard : Prop :=
  (∀ (s : State) (cid a n : Nat) (c : Cmd),
   cmdOf s cid 0x30 = some c → ringReady s c ∧ tget? s.host.cmds cid = some c → flashCmdCheck s c true = (0, a, n) →
   fld (s.adm c.part).reg 31 16 = 0 →
   (∀ i < n / 4096, (s.mapOf ((a / 4096 + i) / 8)).st ≠ .mapped ∧ tget? s.flash.pois (a / 4096 + i) = none) →
   tget? s.flash.jobs (cid * 3) = none →
   ∃ t, Machine.exec (.flashRead cid) s = .next t ∧
     (let disc := (List.range (n / 4096)).any (fun (i : Nat) => cwDiscarded s (a / 4096 + i))
      t.out = s.out ++ [Out.hostWrite c.fn (getLE c.bytes 8 8) ((List.range (n / 4096)).flatMap (fun (i : Nat) => if
              cwDiscarded s (a / 4096 + i) then List.replicate 4096 0 else mreadN s.flash.mem
              ((a / 4096 + i) * 4096) 4096)) ((s.fn c.fn).roEn && (s.fn c.fn).ero), completionMarked s c 0 0 false
          disc]) ∧
     t.host.cmds = terase (tput s.host.cmds cid { c with phase := .running }) cid ∧ t.flash = s.flash ∧
       t.tier = s.tier ∧ t.fab = s.fab ∧ t.epo = s.epo ∧ t.work = s.work)
  ∧ (∀ (s : State) (cid a : Nat) (c : Cmd),
     cmdOf s cid 0x30 = some c → flashCmdCheck s c true = (0, a, 4096) → fld (s.adm c.part).reg 31 16 = 0 →
     (s.mapOf (a / 32768)).st = .mapped →
     (let x := s.die (s.mapOf (a / 32768)).at_.die; x.st ≠ .absent ∧ x.op = none ∧ x.queue = [] ∧ x.paused = []) →
     ∃ t, Machine.exec (.flashRead cid) s = .next t ∧
       (let d := (s.mapOf (a / 32768)).at_.die
        (t.die d).op = some { id := s.flash.nextReq, cls := 1, part := c.part, t := s.now,
                              work := .read (a / 32768) (a / 4096 % 8) (.cmd cid), issued := s.now }) ∧
       tget? t.flash.jobs (cid * 3) = some { left := 1 } ∧ t.out = s.out ∧ t.flash.map_ = s.flash.map_ ∧
         t.flash.mem = s.flash.mem ∧
       t.tier = s.tier ∧ t.fab = s.fab ∧ t.epo = s.epo ∧ t.work = s.work)
  ∧ (∀ (s : State) (cid aux a n : Nat) (c : Cmd),
     cmdOf s cid 0x30 = some c → flashCmdCheck s c true = (aux, a, n) ∧ aux ≠ 0 → s.flash.notOpen = false →
     Machine.exec (.flashRead cid) s = .next (endCmd (if bitOf aux 4 then { s with
             flash.err := tput s.flash.err c.part (tgetD s.flash.err c.part 0 ||| 1) } else s) cid 0x0101 aux))
  ∧ (∀ (s : State) (die : Fin 1024) (r : DieReq) (u cw cid : Nat) (c : Cmd) (j : FlJob),
     (s.die die.val).op = some r ∧ r.work = .read u cw (.cmd cid) → (r.step = 0) →
     tget? s.flash.jobs (cid * 3) = some j ∧ j.left = 1 ∧ j.poison = false →
     u * 8 + cw = getLE c.bytes 0x10 8 / 4096 ∧ getLE c.bytes 0x18 4 = 4096 ∧ getLE c.bytes 0x10 8 % 4096 = 0 →
     ringReady s c ∧ tget? s.host.cmds cid = some c → s.err.inj = [] →
     tget? s.flash.pois (u * 8 + cw) = none ∧ cwDiscarded s (u * 8 + cw) = false → 0 < fld s.flash.cfg 11 8 →
     ∃ t, Machine.exec (.codewordReadDone die true true) s = .next t ∧
       t.out = s.out ++ [Out.hostWrite c.fn (getLE c.bytes 8 8) (mreadN s.flash.mem ((u * 8 + cw) * 4096) 4096)
           ((s.fn c.fn).roEn && (s.fn c.fn).ero), completion s c 0 0 0] ∧
       (t.die die.val).op = none ∧ (t.die die.val).queue = (s.die die.val).queue ∧ t.flash.map_ = s.flash.map_ ∧
         t.flash.mem = s.flash.mem ∧ t.host.cmds = terase s.host.cmds cid ∧
       t.tier = s.tier ∧ t.fab = s.fab ∧ t.epo = s.epo ∧ t.work = s.work)
  ∧ (∀ (s : State) (die : Fin 1024) (crc : Bool) (r : DieReq) (u cw cid : Nat),
     (s.die die.val).op = some r ∧ r.work = .read u cw (.cmd cid) → r.step < 9 ∧ r.cls ≠ 0 → s.err.inj = [] →
     Machine.exec (.codewordReadDone die false crc) s = .next (s.setDie die.val { (s.die die.val) with
           op := some { r with step := r.step + 1 } }))
  ∧ (∀ (s : State) (die : Fin 1024) (crc : Bool) (r : DieReq) (u cw cid : Nat),
     (s.die die.val).op = some r ∧ r.work = .read u cw (.cmd cid) → r.step = 9 → s.err.inj = [] →
     (s.mapOf u).at_.die = die.val → ((s.die die.val).block (s.mapOf u).at_.block).retired = false →
     2 ≤ ((tget? s.flash.jobs (cid * 3)).getD { left := 2 }).left →
     ∃ t, Machine.exec (.codewordReadDone die false crc) s = .next t ∧
       (tget? t.flash.pois (u * 8 + cw)) = some true ∧
       ((t.die die.val).block (s.mapOf u).at_.block).retired = true ∧
         (t.die die.val).retBlk = (s.die die.val).retBlk + 1 ∧
       (tget? s.flash.jobs (cid * 3)).all (fun (j : FlJob) => tget? t.flash.jobs (cid * 3) == some { j with
             left := j.left - 1, poison := true }) = true ∧
       t.flash.mem = s.flash.mem ∧ t.host.cmds = s.host.cmds)
  ∧ (∀ (s : State) (cid a : Nat) (c : Cmd) (bs : List Byte) (pu : PhysUnit) (s1 : State),
     cmdOf s cid 0x31 = some c → flashCmdCheck s c true = (0, a, 32768) → bs.length = 32768 ∧ a % 32768 = 0 →
     (s.mapOf (a / 32768)).st = .mapped ∨ spaceFor s 1 = true → unitBusy s (a / 32768) = false →
     allocUnit s = some (pu, s1) →
     (s1.die pu.die).op = none ∧ (s1.die pu.die).queue = [] ∧ (s1.die pu.die).paused = [] ∧
       (s1.die pu.die).st ≠ .absent →
     ∃ t, Machine.exec (.flashWrite cid (.ok bs)) s = .next t ∧
       ((t.die pu.die).op).map (fun (r : DieReq) => (r.cls, r.work)) = some (2, .program (a / 32768) [(0, bs)] [] pu
           (.write [cid]) (s.mapOf (a / 32768))) ∧
       tget? t.flash.jobs (cid * 3) = some { left := 1 } ∧ t.out = s.out ∧ t.flash.map_ = s.flash.map_ ∧
         t.flash.mem = s.flash.mem ∧
       t.tier = s.tier ∧ t.fab = s.fab ∧ t.epo = s.epo ∧ t.work = s.work)
  ∧ (∀ (s : State) (cid a : Nat) (c : Cmd) (bs : List Byte),
     cmdOf s cid 0x31 = some c → flashCmdCheck s c true = (0, a, 4096) → bs.length = 4096 →
     (s.mapOf (a / 32768)).st = .mapped → tget? s.flash.wbuf (a / 32768) = none →
     ∃ t, Machine.exec (.flashWrite cid (.ok bs)) s = .next t ∧
       t.flash.wbuf = tput (tput s.flash.wbuf (a / 32768) { t := s.now, part := c.part,
                                                            parts := [(a % 32768, bs)], cids := [cid] }) (a / 32768)
         { t := s.now, part := c.part, parts := [(a % 32768, bs)], cids := [cid] } ∧
       tget? t.flash.jobs (cid * 3) = some { left := 1 } ∧ t.out = s.out ∧ t.flash.map_ = s.flash.map_ ∧
         t.flash.mem = s.flash.mem ∧ t.flash.dies = s.flash.dies ∧
       t.tier = s.tier ∧ t.fab = s.fab ∧ t.epo = s.epo ∧ t.work = s.work)
  ∧ (∀ (s : State) (cid a n : Nat) (c : Cmd),
     cmdOf s cid 0x31 = some c → flashCmdCheck s c true = (0, a, n) →
     Machine.exec (.flashWrite cid .failed) s = .next (endCmd s cid 0x0101 512))
  ∧ (∀ (s : State) (u : Nat) (b : BufUnit) (pu : PhysUnit) (s1 : State),
     tget? s.flash.wbuf u = some b → b.t + 500000 ≤ s.now → unitBusy s u = false →
     allocUnit { s with flash.wbuf := terase s.flash.wbuf u } = some (pu, s1) →
     (s1.die pu.die).op = none ∧ (s1.die pu.die).queue = [] ∧ (s1.die pu.die).paused = [] ∧
       (s1.die pu.die).st ≠ .absent →
     ∃ t, Machine.exec (.writeBufferExpire u) s = .next t ∧
       ((t.die pu.die).op).map (fun (r : DieReq) => (r.cls, r.work)) = some (2, .program u b.parts b.disc pu
           (.write b.cids) (s.mapOf u)) ∧
       t.flash.wbuf = terase s.flash.wbuf u ∧ t.out = s.out ∧ t.flash.map_ = s.flash.map_ ∧
         t.flash.mem = s.flash.mem ∧
       t.tier = s.tier ∧ t.fab = s.fab ∧ t.epo = s.epo ∧ t.work = s.work ∧ t.host = s.host)
  ∧ (∀ (s : State) (u : Nat),
     (tget? s.flash.wbuf u).all (fun (b : BufUnit) => decide (s.now < b.t + 500000)) = true →
     Machine.exec (.writeBufferExpire u) s = .next (s))
  ∧ (∀ (s : State) (die : Fin 1024) (r : DieReq) (u cid off : Nat) (bs : List Byte) (pu : PhysUnit) (old : MapEnt) (c : Cmd) (j : FlJob),
     (s.die die.val).op = some r ∧ r.work = .program u [(off, bs)] [] pu (.write [cid]) old →
     tget? s.flash.jobs (cid * 3) = some j ∧ j.left = 1 → ringReady s c ∧ tget? s.host.cmds cid = some c →
     s.flash.waiting = [] ∧ s.flash.slots = [] → (s.mapOf u).st ≠ .discarded → memWf s.flash.mem = true →
     (s.die die.val).st = .inService ∧ (s.die die.val).emptying = [] ∧
       liveBlocks (s.die die.val) ≤ freeBlocks (s.die die.val) * 50 →
     (s.die (s.mapOf u).at_.die).st = .inService ∧ (s.die (s.mapOf u).at_.die).emptying = [] →
     ∃ t, Machine.exec (.programDone die true) s = .next t ∧
       t.flash.map_ = tput s.flash.map_ u ⟨.mapped, pu⟩ ∧ storesAt s.flash.mem t.flash.mem (u * 32768 + off) bs ∧
       t.out = s.out ++ [completion s c 0 0 0] ∧ (t.die die.val).op = none ∧ t.flash.wseq = s.flash.wseq + 1 ∧
         t.host.cmds = terase s.host.cmds cid ∧
       t.tier = s.tier ∧ t.fab = s.fab ∧ t.epo = s.epo ∧ t.work = s.work)
  ∧ (∀ (s : State) (die : Fin 1024) (r : DieReq) (u : Nat) (parts : List (Nat × List Byte)) (ds cids : List Nat) (pu : PhysUnit) (old : MapEnt),
     (s.die die.val).op = some r ∧ r.work = .program u parts ds pu (.write cids) old ∧ pu.die = die.val →
     ((s.die die.val).block pu.block).retired = false →
     ∃ t, Machine.exec (.programDone die false) s = .next t ∧
       ((t.die die.val).block pu.block).retired = true ∧ (t.die die.val).retBlk = (s.die die.val).retBlk + 1 ∧
       t.flash.map_ = s.flash.map_ ∧ t.flash.mem = s.flash.mem ∧ t.flash.jobs = s.flash.jobs ∧ t.out = s.out ∧
         t.host.cmds = s.host.cmds)
  ∧ (∀ (s : State) (cid a : Nat) (c : Cmd),
     cmdOf s cid 0x32 = some c → ringReady s c ∧ tget? s.host.cmds cid = some c →
     flashCmdCheck s c false = (0, a, 32768) → a % 32768 = 0 →
     memWf s.flash.mem = true ∧ tget? s.flash.wbuf (a / 32768) = none →
     ∃ t, Machine.exec (.flashDiscard cid) s = .next t ∧
       (t.mapOf (a / 32768)).st = .discarded ∧ (t.mapOf (a / 32768)).at_ = (s.mapOf (a / 32768)).at_ ∧
       (∀ x, mread t.flash.mem x = if a ≤ x ∧ x < a + 32768 then 0 else mread s.flash.mem x) ∧
       t.out = s.out ++ [completion s c 0 0 0] ∧ t.host.cmds = terase s.host.cmds cid ∧
       t.tier = s.tier ∧ t.fab = s.fab ∧ t.epo = s.epo ∧ t.work = s.work)
  ∧ (∀ (s : State) (cid a : Nat) (c : Cmd),
     cmdOf s cid 0x32 = some c → flashCmdCheck s c false = (0, a, 4096) →
     (s.mapOf (a / 32768)).st = .mapped ∧ tget? s.flash.wbuf (a / 32768) = none →
     ∃ t, Machine.exec (.flashDiscard cid) s = .next t ∧
       t.flash.wbuf = tput s.flash.wbuf (a / 32768) { t := s.now, part := c.part, parts := [],
                                                      disc := [a % 32768 / 4096], cids := [cid] } ∧
       tget? t.flash.jobs (cid * 3) = some { left := 1 } ∧ t.out = s.out ∧ t.flash.map_ = s.flash.map_ ∧
         t.flash.mem = s.flash.mem ∧
       t.tier = s.tier ∧ t.fab = s.fab ∧ t.epo = s.epo ∧ t.work = s.work)
  ∧ (∀ (s : State) (die : Fin 1024) (i : Nat) (r : DieReq) (l1 l2 : List DieReq),
     (s.die die.val).queue = l1 ++ r :: l2 →
     r.id = i ∧ r.cls = 0 ∧ r.deadline.all (fun (d : Nat) => decide (d ≤ s.now)) = true ∧ r.deadline.isSome = true →
     (∀ q ∈ l1 ++ l2, q.id ≠ i) →
     ∃ t, Machine.exec (.flashDeadlineExpire die i) s = .next t ∧
       t = { s.setDie die.val { (s.die die.val) with queue := l1 ++ l2 } with pmc := t.pmc })
  ∧ (∀ (s : State) (die : Fin 1024) (i : Nat),
     (∀ r ∈ (s.die die.val).queue, r.id = i →
         r.cls ≠ 0 ∨ r.deadline.all (fun (d : Nat) => decide (s.now < d)) = true) →
     Machine.exec (.flashDeadlineExpire die i) s = .next (s))
  ∧ (∀ (s : State) (die : Fin 1024) (r : DieReq) (l : List DieReq),
     (s.die die.val).op = none ∧ (s.die die.val).st ≠ .absent ∧ (s.die die.val).paused = r :: l →
     ∃ t, Machine.exec (.dieOpDone die) s = .next t ∧
       (t.die die.val).op = some { r with issued := s.now } ∧ (t.die die.val).paused = l ∧
         (t.die die.val).queue = (s.die die.val).queue ∧
       (∀ d, d ≠ die.val → t.die d = s.die d) ∧
       t.tier = s.tier ∧ t.fab = s.fab ∧ t.epo = s.epo ∧ t.work = s.work ∧ t.host = s.host ∧ t.out = s.out)
  ∧ (∀ (s : State) (die : Fin 1024) (r : DieReq),
     (s.die die.val).op = none ∧ (s.die die.val).st ≠ .absent ∧ (s.die die.val).paused = [] ∧
       (s.die die.val).queue = [r] →
     r.cls < 4 →
     ∃ t, Machine.exec (.dieOpDone die) s = .next t ∧
       (t.die die.val).op = some { r with issued := s.now } ∧ (t.die die.val).queue = [] ∧
       (∀ d, d ≠ die.val → t.die d = s.die d) ∧
       t.tier = s.tier ∧ t.fab = s.fab ∧ t.epo = s.epo ∧ t.work = s.work ∧ t.host = s.host ∧ t.out = s.out)

/-- ERASE_DONE that passes frees the block with one more erase, one that fails retires it; the third READY_TIMEOUT
within a second retires the die, earlier ones are noted; PATROL_READ queues the next codeword of a die in class 3;
MAP_CKPT_TIMER and ZQ_CALIBRATION note their instants when due; DIE_RETIRE and MODULE_EVAC by the owner take a die
and a module out of service, an EVAC without room is refused. A module's presence is debounced for 100 ms, then it
gets power, and after 20 ms more it is ONLINE when its identity is good and MISMATCH otherwise; removed while ONLINE,
its units read POISONED and their marks show it. -/
def Obligations.MediaAndModulesAreKept : Prop :=
  (∀ (s : State) (die : Fin 1024) (r : DieReq) (b : Nat),
   (s.die die.val).op = some r ∧ r.work = .erase b → s.flash.waiting = [] →
   s.flash.dies = [(die.val, (s.die die.val))] → (∀ x ∈ (s.die die.val).blk, x.2.closed = false) →
   ∃ t, Machine.exec (.eraseDone die true) s = .next t ∧
     (t.die die.val).blk = tput (s.die die.val).blk b { (s.die die.val).block b with
           ec := ((s.die die.val).block b).ec + 1, used := 0, closed := false, closeS := 0, refreshed := 0 } ∧
       (t.die die.val).op = none ∧
     t.flash.map_ = s.flash.map_ ∧ t.flash.mem = s.flash.mem ∧ t.tier = s.tier ∧ t.fab = s.fab ∧ t.host = s.host ∧
       t.out = s.out ∧ t.work = s.work)
  ∧ (∀ (s : State) (die : Fin 1024) (r : DieReq) (b : Nat),
     (s.die die.val).op = some r ∧ r.work = .erase b → ((s.die die.val).block b).retired = false →
     ∃ t, Machine.exec (.eraseDone die false) s = .next t ∧
       ((t.die die.val).block b).retired = true ∧ (t.die die.val).retBlk = (s.die die.val).retBlk + 1 ∧
         t.flash.map_ = s.flash.map_ ∧ t.flash.mem = s.flash.mem ∧ t.tier = s.tier ∧ t.fab = s.fab ∧
         t.host = s.host ∧ t.out = s.out ∧ t.work = s.work)
  ∧ (∀ (s : State) (die : Fin 1024),
     (s.die die.val).st ≠ .absent ∧ (s.die die.val).op.isSome = true →
     ((s.die die.val).timeouts.filter (fun (x : Nat) => decide (s.now < x + 1000000000))).length < 2 →
     Machine.exec (.readyTimeout die) s = .next (s.setDie die.val { (s.die die.val) with
           timeouts := (s.die die.val).timeouts.filter (fun (x : Nat) => decide (s.now < x + 1000000000)) ++ [s.now] }))
  ∧ (∀ (s : State) (die : Fin 1024),
     (s.die die.val).st = .inService ∧ (s.die die.val).op.isSome = true →
     2 ≤ ((s.die die.val).timeouts.filter (fun (x : Nat) => decide (s.now < x + 1000000000))).length →
     unitsOfDie s die.val = [] →
     ∃ t, Machine.exec (.readyTimeout die) s = .next t ∧
       (t.die die.val).st = .retired ∧ (t.die die.val).open_ = none ∧ t.flash.map_ = s.flash.map_ ∧
         t.tier = s.tier ∧ t.fab = s.fab ∧ t.host = s.host ∧ t.out = s.out ∧ t.work = s.work)
  ∧ (∀ (s : State) (die : Fin 1024) (w : Nat × Nat),
     (s.die die.val).st ≠ .absent ∧ (s.die die.val).handed = [] →
     (patrolList s die.val)[(s.die die.val).patrolNext]? = some w →
     (s.die die.val).op = none ∧ (s.die die.val).queue = [] ∧ (s.die die.val).paused = [] →
     ∃ t, Machine.exec (.patrolRead die) s = .next t ∧
       ((t.die die.val).op).map (fun (r : DieReq) => (r.cls, r.work)) = some (3, .read w.1 w.2 .patrol) ∧
         (t.die die.val).patrolNext = (s.die die.val).patrolNext + 1 ∧
       t.flash.map_ = s.flash.map_ ∧ t.tier = s.tier ∧ t.fab = s.fab ∧ t.host = s.host ∧ t.out = s.out ∧
         t.work = s.work)
  ∧ (∀ (s : State) (die : Fin 1024) (w : Nat × Nat) (l : List (Nat × Nat)),
     (s.die die.val).st ≠ .absent ∧ (s.die die.val).handed = w :: l →
     (s.die die.val).op = none ∧ (s.die die.val).queue = [] ∧ (s.die die.val).paused = [] →
     ∃ t, Machine.exec (.patrolRead die) s = .next t ∧
       ((t.die die.val).op).map (fun (r : DieReq) => (r.cls, r.work)) = some (3, .read w.1 w.2 .patrol) ∧
         (t.die die.val).handed = l ∧
       t.flash.map_ = s.flash.map_ ∧ t.tier = s.tier ∧ t.fab = s.fab ∧ t.host = s.host ∧ t.out = s.out ∧
         t.work = s.work)
  ∧ (∀ (s : State),
     s.flash.ckptT + fld s.flash.cfg 23 16 * 1000000000 ≤ s.now →
     Machine.exec (.mapCkptTimer) s = .next ({ s with
           flash := { s.flash with ckptSeq := s.flash.wseq, ckptT := s.now } }))
  ∧ (∀ (s : State),
     s.now < s.flash.ckptT + fld s.flash.cfg 23 16 * 1000000000 →
     Machine.exec (.mapCkptTimer) s = .next (s))
  ∧ (∀ (s : State),
     s.flash.zqT + 1000000000 ≤ s.now →
     Machine.exec (.zqCalibration) s = .next ({ s with flash.zqT := s.now }))
  ∧ (∀ (s : State),
     s.now < s.flash.zqT + 1000000000 →
     Machine.exec (.zqCalibration) s = .next (s))
  ∧ (∀ (s : State) (fn : Fin 64) (x : Die),
     ownerFn s fn.val = true →
     s.die (s.fn fn.val).dieLook = x ∧ x.st = .inService ∧ unitsOfDie s (s.fn fn.val).dieLook = [] →
     ∃ t, Machine.exec (.dieRetire fn) s = .next t ∧
       (t.die (s.fn fn.val).dieLook).st = .retired ∧ (t.die (s.fn fn.val).dieLook).blk = x.blk ∧
         t.flash.map_ = s.flash.map_ ∧ t.tier = s.tier ∧ t.fab = s.fab ∧ t.host = s.host ∧ t.out = s.out ∧
         t.work = s.work)
  ∧ (∀ (s : State) (fn : Fin 64),
     ownerFn s fn.val = false →
     Machine.exec (.dieRetire fn) s = .next (s))
  ∧ (∀ (s : State) (fn : Fin 64) (m : Fin 8),
     ownerFn s fn.val = true → (s.slot13 m.val).st = .online →
     (s.flash.map_.filter (fun (e : Nat × MapEnt) => e.2.st == .mapped)) = [] →
     s.flash.slots = [(m.val, (s.slot13 m.val))] →
     ∃ t, Machine.exec (.moduleEvac fn m) s = .next t ∧
       (t.slot13 m.val).st = .safe ∧ (t.slot13 m.val).power = false ∧
       (∀ d, d / 128 = m.val → (t.die d).st = .absent ∧ (t.die d).op = none) ∧
       t.flash.map_ = s.flash.map_ ∧ t.tier = s.tier ∧ t.fab = s.fab ∧ t.host = s.host ∧ t.out = s.out ∧
         t.work = s.work)
  ∧ (∀ (s : State) (fn : Fin 64) (m : Fin 8),
     ownerFn s fn.val = true → (s.slot13 m.val).st = .online →
     sumOf ((s.flash.dies.filter (fun (kv : Nat × Die) => kv.1 / 128 != m.val && kv.2.st == .inService)).map
         (fun (kv : Nat × Die) => liveBlocks kv.2 * kv.2.pages)) * 98 < (s.flash.map_.filter
         (fun (e : Nat × MapEnt) => e.2.st == .mapped)).length * 100 →
     Machine.exec (.moduleEvac fn m) s = .next ({ s with
           flash.err := tput s.flash.err (s.fn fn.val).part (tgetD s.flash.err (s.fn fn.val).part 0 ||| 4) }))
  ∧ (∀ (s : State) (m : Fin 8),
     (s.slot13 m.val).present = false →
     Machine.exec (.moduleInsert m) s = .next (s.setSlot13 m.val { (s.slot13 m.val) with
           present := true, debounce := some s.now }))
  ∧ (∀ (s : State) (m : Fin 8),
     (s.slot13 m.val).present = true →
     Machine.exec (.moduleInsert m) s = .next (s))
  ∧ (∀ (s : State) (m : Fin 8) (x : Nat),
     (s.slot13 m.val).present = true ∧ (s.slot13 m.val).debounce = some x → x + 100000000 ≤ s.now →
     slotDomain s m.val = true →
     Machine.exec (.moduleDebounceExpire m) s = .next (s.setSlot13 m.val { (s.slot13 m.val) with
           debounce := none, power := true, powerT := s.now }))
  ∧ (∀ (s : State) (m : Fin 8),
     (s.slot13 m.val).debounce.all (fun (x : Nat) => decide (s.now < x + 100000000)) = true →
     Machine.exec (.moduleDebounceExpire m) s = .next (s))
  ∧ (∀ (s : State) (m : Fin 8) (id : ModuleId),
     (s.slot13 m.val).power = true ∧ (s.slot13 m.val).st = .absent ∧ (s.slot13 m.val).powerT + 20000000 ≤ s.now →
     moduleOk id = true → s.flash.waiting = [] → (∀ kv ∈ s.flash.dies, kv.1 / 128 ≠ m.val) →
     ∃ t, Machine.exec (.modulePowerWaitExpire m id) s = .next t ∧
       (t.slot13 m.val).st = .online ∧
       (∀ i : Fin 4, tgetD t.flash.chRate (4 * m.val + i.val) 0 = trainedRate (id.rates.getD i.val 0)
           (getLE id.bytes 0x15 1)) ∧
       (trainedRate (id.rates.getD 0 0) (getLE id.bytes 0x15 1) ≠ 0 →
           (t.die (m.val * 128)).st = .inService ∧ (t.die (m.val * 128)).blocks = getLE id.bytes 0x1C 4 / 2 ∧
           (t.die (m.val * 128)).pages = getLE id.bytes 0x18 4) ∧
       t.flash.map_ = s.flash.map_ ∧ t.tier = s.tier ∧ t.fab = s.fab ∧ t.host = s.host ∧ t.out = s.out ∧
         t.work = s.work)
  ∧ (∀ (s : State) (m : Fin 8) (id : ModuleId),
     (s.slot13 m.val).power = true ∧ (s.slot13 m.val).st = .absent ∧ (s.slot13 m.val).powerT + 20000000 ≤ s.now →
     moduleOk id = false →
     Machine.exec (.modulePowerWaitExpire m id) s = .next (s.setSlot13 m.val { (s.slot13 m.val) with
           st := .discovering } |>.setSlot13 m.val { (s.slot13 m.val) with st := .mismatch, power := false }))
  ∧ (∀ (s : State) (m : Fin 8) (u : Nat) (d : Die),
     (s.slot13 m.val).present = true ∧ (s.slot13 m.val).st = .online →
     s.flash.map_ = [(u, ⟨.mapped, ⟨m.val * 128, 1, 2⟩⟩)] →
     s.flash.dies = [(m.val * 128, d)] ∧ d.queue = [] ∧ d.paused = [] ∧ d.op = none →
     ∃ t, Machine.exec (.moduleRemove m) s = .next t ∧
       (t.slot13 m.val) = {} ∧ t.flash.dies = [] ∧
       (∀ i : Fin 8, tget? t.flash.pois (u * 8 + i.val) = some true) ∧
       (∀ p ∈ flOwners s u, bitOf (tgetD t.flash.err p 0).toNat 3 = true) ∧
       t.tier.mem = s.tier.mem ∧ t.fab = s.fab ∧ t.host = s.host ∧ t.out = s.out ∧ t.work = s.work)
  ∧ (∀ (s : State) (m : Fin 8),
     (s.slot13 m.val).present = false →
     Machine.exec (.moduleRemove m) s = .next (s))

/-- UNIT_FAULT, UNIT_WATCHDOG_EXPIRE with work waiting and RGN_FENCE_GO by the owner fence the physical cluster: it
is FENCED and noted for the next start, the invocation it worked on ends with FENCED, and the lowest spare of its
region takes the number with empty scratch, store and tokens; the two detectors leave a record. Without a spare the
number becomes UNAVAILABLE. A watchdog without waiting work, and a write by another function, change nothing.
CLEARING_DONE leaves everything zero and the role to load; SPARE_LOAD_DONE sets the cluster running with its lists,
or a failed spare is fenced and the number lost. -/
def Obligations.FencedClustersAreTakenOver : Prop :=
  (∀ (s : State) (c : Fin 128) (u : Fin 4) (cause : Fin 256) (k i cid : Nat) (v : Inv) (cm : Cmd),
   cause.val ≠ 1 ∧ cause.val ≠ 9 →
   tget? s.work.phys (s.cl c.val).phys = some PhysState.active ∧ (s.cl c.val).st ≠ .unavailable ∧
     (s.cl c.val).phys / 17 = c.val / 16 →
   s.work.clusters = [(c.val, (s.cl c.val))] →
   s.work.queries = [] ∧ s.work.kne = [] ∧ s.work.kneWait = [] ∧ s.fab.reqs = [] →
   spareOf s (c.val / 16) = some k ∧ k ≠ (s.cl c.val).phys →
   s.work.invs = [(i, v)] ∧ v.left.contains c.val = true ∧ v.qid = none ∧ v.cid = some cid ∧
     tget? s.host.cmds cid = some cm →
   ringReady s cm →
   ∃ t, Machine.exec (.unitFault c u cause) s = .next t ∧
     tget? t.work.phys (s.cl c.val).phys = some PhysState.fenced ∧
     tget? t.work.phys k = some PhysState.active ∧
     (t.cl c.val).phys = k ∧
       (t.cl c.val).st = (if (s.cl c.val).plan.isSome then ClState.loading else ClState.idle) ∧
       (t.cl c.val).plan = (s.cl c.val).plan ∧ (t.cl c.val).role = (s.cl c.val).role ∧ (t.cl c.val).scratch = [] ∧
       (t.cl c.val).istore = [] ∧ (t.cl c.val).tokens = [] ∧ (t.cl c.val).units = [] ∧
     bitOf (tgetD t.work.fenceHist ((s.cl c.val).phys / 17) 0) ((s.cl c.val).phys % 17) = true ∧
     t.work.invs = [] ∧ t.out = s.out ++ [completionNd s cm 0x0303 v.step (invNd s v)] ∧
       t.host.cmds = terase s.host.cmds cid ∧
     t.tier = s.tier ∧ t.flash = s.flash ∧ t.mbr = s.mbr)
  ∧ (∀ (s : State) (c : Fin 128) (u : Fin 4) (cause : Fin 256) (k : Nat),
     cause.val = 1 ∨ cause.val = 9 →
     tget? s.work.phys (s.cl c.val).phys = some PhysState.active ∧ (s.cl c.val).st ≠ .unavailable ∧
       (s.cl c.val).phys / 17 = c.val / 16 →
     s.work.clusters = [(c.val, (s.cl c.val))] →
     s.work.queries = [] ∧ s.work.kne = [] ∧ s.work.kneWait = [] ∧ s.fab.reqs = [] → s.work.invs = [] →
     spareOf s (c.val / 16) = some k ∧ k ≠ (s.cl c.val).phys →
     mergeInto s cause.val (c.val) 3 = none ∧ s.pkg.sec.parts = [] ∧ s.err.inj = [] →
     ∃ t, Machine.exec (.unitFault c u cause) s = .next t ∧
       tget? t.work.phys (s.cl c.val).phys = some PhysState.fenced ∧
       tget? t.work.phys k = some PhysState.active ∧
       (t.cl c.val).phys = k ∧
         (t.cl c.val).st = (if (s.cl c.val).plan.isSome then ClState.loading else ClState.idle) ∧
         (t.cl c.val).plan = (s.cl c.val).plan ∧ (t.cl c.val).role = (s.cl c.val).role ∧
         (t.cl c.val).scratch = [] ∧ (t.cl c.val).istore = [] ∧ (t.cl c.val).tokens = [] ∧
         (t.cl c.val).units = [] ∧
       bitOf (tgetD t.work.fenceHist ((s.cl c.val).phys / 17) 0) ((s.cl c.val).phys % 17) = true ∧
       (tget? t.err.recs ((s.err.seq + 1) % 1024)).map (fun (r : ErrRec) => (r.seq, r.time, r.det, r.sev, r.action,
             r.status, r.loc, r.count)) = some (s.err.seq + 1, s.now, cause.val, 2, 3, 0x0303, c.val, 1) ∧
       t.tier = s.tier ∧ t.flash = s.flash ∧ t.mbr = s.mbr ∧ t.out = s.out)
  ∧ (∀ (s : State) (c : Fin 128) (u : Fin 4) (cause : Fin 256) (slot : Nat),
     cause.val ≠ 1 ∧ cause.val ≠ 9 → (s.cl c.val).plan = some slot ∧ (tget? s.work.plans slot).isSome = true →
     tget? s.work.phys (s.cl c.val).phys = some PhysState.active ∧ (s.cl c.val).st ≠ .unavailable ∧
       (s.cl c.val).phys / 17 = c.val / 16 →
     s.work.clusters = [(c.val, (s.cl c.val))] →
     s.work.queries = [] ∧ s.work.kne = [] ∧ s.work.kneWait = [] ∧ s.fab.reqs = [] → s.work.invs = [] →
     spareOf s (c.val / 16) = none →
     ∃ t, Machine.exec (.unitFault c u cause) s = .next t ∧
       tget? t.work.phys (s.cl c.val).phys = some PhysState.fenced ∧
       (t.cl c.val).st = .unavailable ∧ (t.cl c.val).phys = 0xFF ∧ (t.cl c.val).plan = none ∧
         (t.cl c.val).scratch = [] ∧
       (tget? t.work.plans slot).map (fun (p : Plan) => p.bin.roles.all (fun r => !r.clusters.contains c.val)) =
         some true ∧
       t.tier = s.tier ∧ t.flash = s.flash ∧ t.mbr = s.mbr ∧ t.out = s.out)
  ∧ (∀ (s : State) (c : Fin 128) (u : Fin 4) (k : Nat),
     hasWork (s.cl c.val) u.val = true →
     tget? s.work.phys (s.cl c.val).phys = some PhysState.active ∧ (s.cl c.val).st ≠ .unavailable ∧
       (s.cl c.val).phys / 17 = c.val / 16 →
     s.work.clusters = [(c.val, (s.cl c.val))] →
     s.work.queries = [] ∧ s.work.kne = [] ∧ s.work.kneWait = [] ∧ s.fab.reqs = [] → s.work.invs = [] →
     spareOf s (c.val / 16) = some k ∧ k ≠ (s.cl c.val).phys →
     mergeInto s 11 (c.val + u.val * 2 ^ 7) 3 = none ∧ s.pkg.sec.parts = [] ∧ s.err.inj = [] →
     ∃ t, Machine.exec (.unitWatchdogExpire c u) s = .next t ∧
       tget? t.work.phys (s.cl c.val).phys = some PhysState.fenced ∧
       tget? t.work.phys k = some PhysState.active ∧
       (t.cl c.val).phys = k ∧
         (t.cl c.val).st = (if (s.cl c.val).plan.isSome then ClState.loading else ClState.idle) ∧
         (t.cl c.val).plan = (s.cl c.val).plan ∧ (t.cl c.val).role = (s.cl c.val).role ∧
         (t.cl c.val).scratch = [] ∧ (t.cl c.val).istore = [] ∧ (t.cl c.val).tokens = [] ∧
         (t.cl c.val).units = [] ∧
       bitOf (tgetD t.work.fenceHist ((s.cl c.val).phys / 17) 0) ((s.cl c.val).phys % 17) = true ∧
       (tget? t.err.recs ((s.err.seq + 1) % 1024)).map (fun (r : ErrRec) => (r.seq, r.time, r.det, r.sev, r.action,
             r.status, r.loc, r.count)) = some (s.err.seq + 1, s.now, 11, 2, 3, 0x0303, c.val + u.val * 2 ^ 7, 1) ∧
       t.tier = s.tier ∧ t.flash = s.flash ∧ t.mbr = s.mbr ∧ t.out = s.out)
  ∧ (∀ (s : State) (c : Fin 128) (u : Fin 4),
     hasWork (s.cl c.val) u.val = false →
     Machine.exec (.unitWatchdogExpire c u) s = .next (s))
  ∧ (∀ (s : State) (fn : Fin 64) (region : Fin 8) (phys : Fin 32) (c : Fin 128) (k : Nat),
     ownerFn s fn.val = true →
     phys.val < 17 ∧ region.val = c.val / 16 ∧ (s.cl c.val).phys = region.val * 17 + phys.val →
     tget? s.work.phys (s.cl c.val).phys = some PhysState.active ∧ (s.cl c.val).st ≠ .unavailable ∧
       (s.cl c.val).phys / 17 = c.val / 16 →
     s.work.clusters = [(c.val, (s.cl c.val))] →
     s.work.queries = [] ∧ s.work.kne = [] ∧ s.work.kneWait = [] ∧ s.fab.reqs = [] → s.work.invs = [] →
     spareOf s (c.val / 16) = some k ∧ k ≠ (s.cl c.val).phys →
     ∃ t, Machine.exec (.rgnFenceGo fn region phys) s = .next t ∧
       tget? t.work.phys (s.cl c.val).phys = some PhysState.fenced ∧
       tget? t.work.phys k = some PhysState.active ∧
       (t.cl c.val).phys = k ∧
         (t.cl c.val).st = (if (s.cl c.val).plan.isSome then ClState.loading else ClState.idle) ∧
         (t.cl c.val).plan = (s.cl c.val).plan ∧ (t.cl c.val).role = (s.cl c.val).role ∧
         (t.cl c.val).scratch = [] ∧ (t.cl c.val).istore = [] ∧ (t.cl c.val).tokens = [] ∧
         (t.cl c.val).units = [] ∧
       bitOf (tgetD t.work.fenceHist ((s.cl c.val).phys / 17) 0) ((s.cl c.val).phys % 17) = true ∧
       tget? t.work.rgnFence region.val = some phys.val ∧
       t.tier = s.tier ∧ t.flash = s.flash ∧ t.mbr = s.mbr ∧ t.out = s.out)
  ∧ (∀ (s : State) (fn : Fin 64) (region : Fin 8) (phys : Fin 32),
     ownerFn s fn.val = true →
     17 ≤ phys.val ∨ tget? s.work.phys (region.val * 17 + phys.val) = some PhysState.fenced →
     Machine.exec (.rgnFenceGo fn region phys) s = .next ({ s with
           work.rgnFence := tput s.work.rgnFence region.val phys.val }))
  ∧ (∀ (s : State) (fn : Fin 64) (region : Fin 8) (phys : Fin 32),
     ownerFn s fn.val = false →
     Machine.exec (.rgnFenceGo fn region phys) s = .next (s))
  ∧ (∀ (s : State) (c : Fin 128),
     (s.cl c.val).st = .clearing →
     Machine.exec (.clearingDone c) s = .next (s.setCl c.val { (s.cl c.val) with
           st := .loading, acc := [], accInt := true, tokens := [], actr := [], input := [], units := [],
           conv := [], draws := [], walks := [], seeds := [], prefs := [], recs := [], copies := [],
           partials := [], areas := [], istore := [], scratch := [] }))
  ∧ (∀ (s : State) (c : Fin 128),
     (s.cl c.val).st ≠ .clearing →
     Machine.exec (.clearingDone c) s = .next (s))
  ∧ (∀ (s : State) (c : Fin 128) (i : Nat),
     (s.cl c.val).st = .loading ∧ (s.cl c.val).plan = some i → (tgetD s.work.plans i {}).state ≠ .loading →
     Machine.exec (.spareLoadDone c true) s = .next (s.setCl c.val { (s.cl c.val) with
           st := .running, served := some (s.cl c.val).part, istore := roleLists s i (s.cl c.val).role }))
  ∧ (∀ (s : State) (c : Fin 128) (i : Nat),
     (s.cl c.val).st = .loading ∧ (s.cl c.val).plan = some i → (tgetD s.work.plans i {}).state ≠ .loading →
     ∃ t, Machine.exec (.spareLoadDone c false) s = .next t ∧
       tget? t.work.phys (s.cl c.val).phys = some PhysState.fenced ∧
       (t.cl c.val).st = .unavailable ∧ (t.cl c.val).phys = 0xFF ∧ (t.cl c.val).plan = none ∧
       bitOf (tgetD t.work.fenceHist ((s.cl c.val).phys / 17) 0) ((s.cl c.val).phys % 17) = true ∧
       t.tier = s.tier)

/-- An injection whose target exists arms its detector in its mode and CANCEL disarms it; one that names nothing sets
INJ_BAD and arms nothing; another function changes nothing. SC_WATCHDOG_EXPIRE resets a healthy core with a record,
and the lowest healthy one is primary when it was; SERVICE_CORE_SELFTEST_DONE brings the core back or fails it. Ten
ms without a healthy core, and parity in a central block, are a node fault: every port and PCIe link down, the
domains off, FAULT_N. Parity takes a port, a flash channel or a PCIe link down. ROW_REPAIR_DONE counts a repaired
row, or retires the frame and moves its tile. -/
def Obligations.ErrorsAreInjectedAndContained : Prop :=
  (∀ (s : State) (fn : Fin 64) (det : Fin 16) (w : W64) (ue : Bool),
   ownerFn s fn.val = true → 1 ≤ det.val ∧ det.val ≤ 14 → injOk s det.val 0 (fld w 47 0) ue = true →
   Machine.exec (.errInjOnce fn det w ue) s = .next ({ s with
         err.inj := tput s.err.inj det.val { tgetD s.err.inj det.val {} with
             reg := mkReg [(60, 0), (59, b2n ue), (0, fld w 47 0)], armed := true, mode := 0, ue := ue,
             target := fld w 47 0 } }))
  ∧ (∀ (s : State) (fn : Fin 64) (det : Fin 16) (w : W64) (ue : Bool),
     ownerFn s fn.val = true → 1 ≤ det.val ∧ det.val ≤ 14 → injOk s det.val 1 (fld w 47 0) ue = true →
     Machine.exec (.errInjSticky fn det w ue) s = .next ({ s with
           err.inj := tput s.err.inj det.val { tgetD s.err.inj det.val {} with
               reg := mkReg [(60, 1), (59, b2n ue), (0, fld w 47 0)], armed := true, mode := 1, ue := ue,
               target := fld w 47 0 } }))
  ∧ (∀ (s : State) (fn : Fin 64) (det : Fin 16) (w : W64) (ue : Bool),
     ownerFn s fn.val = true → 1 ≤ det.val ∧ det.val ≤ 14 → injOk s det.val 2 (fld w 47 0) ue = true →
     Machine.exec (.errInjNextStart fn det w ue) s = .next ({ s with
           err.inj := tput s.err.inj det.val { tgetD s.err.inj det.val {} with
               reg := mkReg [(60, 2), (59, b2n ue), (0, fld w 47 0)], armed := true, mode := 2, ue := ue,
               target := fld w 47 0 } }))
  ∧ (∀ (s : State) (fn : Fin 64) (det : Fin 16) (w : W64) (ue : Bool),
     ownerFn s fn.val = true → 1 ≤ det.val ∧ det.val ≤ 14 → injOk s det.val 0 (fld w 47 0) ue = false →
     Machine.exec (.errInjOnce fn det w ue) s = .next ({ s with
           err := { s.err with
               inj := tput s.err.inj det.val { tgetD s.err.inj det.val {} with
                   reg := mkReg [(60, 0), (59, b2n ue), (0, fld w 47 0)] },
               pstat := tput s.err.pstat (s.fn fn.val).part (tgetD s.err.pstat (s.fn fn.val).part 0 ||| 1) } }))
  ∧ (∀ (s : State) (fn : Fin 64) (det : Fin 16) (w : W64) (ue : Bool),
     ownerFn s fn.val = true → 1 ≤ det.val ∧ det.val ≤ 14 → injOk s det.val 1 (fld w 47 0) ue = false →
     Machine.exec (.errInjSticky fn det w ue) s = .next ({ s with
           err := { s.err with
               inj := tput s.err.inj det.val { tgetD s.err.inj det.val {} with
                   reg := mkReg [(60, 1), (59, b2n ue), (0, fld w 47 0)] },
               pstat := tput s.err.pstat (s.fn fn.val).part (tgetD s.err.pstat (s.fn fn.val).part 0 ||| 1) } }))
  ∧ (∀ (s : State) (fn : Fin 64) (det : Fin 16) (w : W64) (ue : Bool),
     ownerFn s fn.val = true → 1 ≤ det.val ∧ det.val ≤ 14 → injOk s det.val 2 (fld w 47 0) ue = false →
     Machine.exec (.errInjNextStart fn det w ue) s = .next ({ s with
           err := { s.err with
               inj := tput s.err.inj det.val { tgetD s.err.inj det.val {} with
                   reg := mkReg [(60, 2), (59, b2n ue), (0, fld w 47 0)] },
               pstat := tput s.err.pstat (s.fn fn.val).part (tgetD s.err.pstat (s.fn fn.val).part 0 ||| 1) } }))
  ∧ (∀ (s : State) (fn : Fin 64) (det : Fin 16) (w : W64) (ue : Bool),
     ownerFn s fn.val = false ∨ det.val = 0 ∨ det.val = 15 →
     Machine.exec (.errInjOnce fn det w ue) s = .next (s))
  ∧ (∀ (s : State) (fn : Fin 64) (det : Fin 16),
     ownerFn s fn.val = true → 1 ≤ det.val ∧ det.val ≤ 14 →
     Machine.exec (.errInjCancel fn det) s = .next ({ s with
           err.inj := tput s.err.inj det.val { tgetD s.err.inj det.val {} with
               reg := mkReg [(60, 3), (59, b2n (flag (tgetD s.err.inj det.val {}).reg 59)), (0, fld (BitVec.ofNat 64
                       (fld (tgetD s.err.inj det.val {}).reg 47 0)) 47 0)], armed := false } }))
  ∧ (∀ (s : State) (core : Fin 3),
     tgetD s.err.cores core.val .healthy = .healthy →
     mergeInto s 12 (core.val) 8 = none ∧ s.pkg.sec.parts = [] ∧ s.err.inj = [] → s.mbr.leader ≥ 64 →
     ∃ t, Machine.exec (.scWatchdogExpire core) s = .next t ∧
       t.err.cores = tput s.err.cores core.val .reset ∧
       (tget? t.err.recs ((s.err.seq + 1) % 1024)).map (fun (r : ErrRec) => (r.seq, r.time, r.det, r.sev, r.action,
             r.status, r.loc, r.count)) = some (s.err.seq + 1, s.now, 12, 3, 8, 0, core.val, 1) ∧
       t.err.primary = (if s.err.primary < 3 ∧ s.err.primary ≠ core.val ∧
           tgetD s.err.cores s.err.primary .healthy = .healthy then s.err.primary else ((List.range 3).find?
               (fun (k : Nat) => k != core.val && tgetD s.err.cores k .healthy == .healthy)).getD 3) ∧
       t.err.term = (if t.err.primary = s.err.primary then s.err.term else s.err.term + 1) ∧ t.work = s.work ∧
         t.tier = s.tier ∧ t.out = s.out)
  ∧ (∀ (s : State) (core : Fin 3) (ok : Bool),
     tgetD s.err.cores core.val .healthy = .reset ∨ tgetD s.err.cores core.val .healthy = .selftest →
     ∃ t, Machine.exec (.serviceCoreSelftestDone core ok) s = .next t ∧
       t.err.cores = tput s.err.cores core.val (if ok then .healthy else .failed) ∧
       (ok = true → t.err.noCoreT = none) ∧
       t.work = s.work ∧ t.tier = s.tier ∧ t.out = s.out ∧ t.host = s.host)
  ∧ (∀ (s : State) (x : Nat),
     s.err.noCoreT = some x ∧ x + 10000000 ≤ s.now ∧ anyCore s = false →
     s.pkg.pwr.inReset = false ∧ s.err.fault = false →
     ∃ t, Machine.exec (.noCoreHealthyExpire) s = .next t ∧
       t.err.fault = true ∧ t.pkg.pwr.faultN = true ∧ t.pkg.pwr.domOn = 1 ∧ t.host.portA.up = false ∧
         t.host.portB.up = false ∧
       (∀ k : Fin 32, (t.port k.val).st = .down) ∧ t.work.invs = [] ∧ t.fab.reqs = [] ∧ t.fab.colls = [] ∧
       t.pkg.sec.faultRecs = s.pkg.sec.faultRecs)
  ∧ (∀ (s : State),
     s.err.noCoreT.all (fun (x : Nat) => decide (s.now < x + 10000000) || anyCore s) = true →
     Machine.exec (.noCoreHealthyExpire) s = .next (s))
  ∧ (∀ (s : State) (b : Fin 128),
     b.val < 5 → s.pkg.pwr.inReset = false ∧ s.err.fault = false →
     mergeInto s 10 (b.val) 10 = none ∧ s.pkg.sec.parts = [] ∧ s.err.inj = [] → s.mbr.leader ≥ 64 →
     ∃ t, Machine.exec (.stateMachineParity b) s = .next t ∧
       (tget? t.err.recs ((s.err.seq + 1) % 1024)).map (fun (r : ErrRec) => (r.seq, r.time, r.det, r.sev, r.action,
             r.status, r.loc, r.count)) = some (s.err.seq + 1, s.now, 10, 4, 10, 0, b.val, 1) ∧
       t.err.fault = true ∧ t.pkg.pwr.faultN = true ∧ t.pkg.pwr.domOn = 1 ∧ t.host.portA.up = false ∧
         t.host.portB.up = false ∧
       (∀ k : Fin 32, (t.port k.val).st = .down) ∧ t.work.invs = [] ∧ t.fab.reqs = [])
  ∧ (∀ (s : State) (b : Fin 128),
     0x20 ≤ b.val ∧ b.val < 0x40 → (s.port (b.val - 0x20)).st ≠ .up →
     mergeInto s 10 (b.val) 4 = none ∧ s.pkg.sec.parts = [] ∧ s.err.inj = [] → s.mbr.leader ≥ 64 →
     ∃ t, Machine.exec (.stateMachineParity b) s = .next t ∧
       (tget? t.err.recs ((s.err.seq + 1) % 1024)).map (fun (r : ErrRec) => (r.seq, r.time, r.det, r.sev, r.action,
             r.status, r.loc, r.count)) = some (s.err.seq + 1, s.now, 10, 3, 4, 0, b.val, 1) ∧
       (t.port (b.val - 0x20)).st = .down ∧ (t.port (b.val - 0x20)).lanes = 0 ∧ t.work = s.work ∧ t.tier = s.tier)
  ∧ (∀ (s : State) (b : Fin 128),
     0x40 ≤ b.val ∧ b.val < 0x60 → (∀ kv ∈ s.flash.dies, kv.1 / 32 ≠ b.val - 0x40) →
     mergeInto s 10 (b.val) 5 = none ∧ s.pkg.sec.parts = [] ∧ s.err.inj = [] → s.mbr.leader ≥ 64 →
     ∃ t, Machine.exec (.stateMachineParity b) s = .next t ∧
       (tget? t.err.recs ((s.err.seq + 1) % 1024)).map (fun (r : ErrRec) => (r.seq, r.time, r.det, r.sev, r.action,
             r.status, r.loc, r.count)) = some (s.err.seq + 1, s.now, 10, 3, 5, 0, b.val, 1) ∧
       tget? t.flash.chState (b.val - 0x40) = some 3 ∧ t.work = s.work ∧ t.fab = s.fab ∧ t.tier.mem = s.tier.mem)
  ∧ (∀ (s : State) (b : Fin 128),
     b.val = 0x60 ∨ b.val = 0x61 → mergeInto s 10 (b.val) 4 = none ∧ s.pkg.sec.parts = [] ∧ s.err.inj = [] →
     s.mbr.leader ≥ 64 →
     ∃ t, Machine.exec (.stateMachineParity b) s = .next t ∧
       (tget? t.err.recs ((s.err.seq + 1) % 1024)).map (fun (r : ErrRec) => (r.seq, r.time, r.det, r.sev, r.action,
             r.status, r.loc, r.count)) = some (s.err.seq + 1, s.now, 10, 3, 4, 0, b.val, 1) ∧
       (if b.val = 0x60 then t.host.portA.up else t.host.portB.up) = false ∧ t.work = s.work ∧ t.tier = s.tier ∧
         t.fab = s.fab)
  ∧ (∀ (s : State) (st : Fin 8) (row : Nat),
     (tget? s.err.repairing (rowKey st.val row)).isSome = true →
     mergeInto s 6 (st.val + row * 16 * 8) 6 = none ∧ s.pkg.sec.parts = [] → s.mbr.leader ≥ 64 →
     ∃ t, Machine.exec (.rowRepairDone st row true) s = .next t ∧
       t.err.repairing = terase s.err.repairing (rowKey st.val row) ∧
         tget? t.err.stk st.val = some { tgetD s.err.stk st.val {} with
             soft := (tgetD s.err.stk st.val {}).soft + 1 } ∧
       (tget? t.err.recs ((s.err.seq + 1) % 1024)).map (fun (r : ErrRec) => (r.seq, r.time, r.det, r.sev, r.action,
             r.status, r.loc, r.count)) = some (s.err.seq + 1, s.now, 6, 3, 6, 0, st.val + row * 16 * 8, 1) ∧
       t.work = s.work ∧ t.tier = s.tier ∧ t.out = s.out)
  ∧ (∀ (s : State) (st : Fin 8) (row : Nat) (f : TFrame),
     (tget? s.err.repairing (rowKey st.val row)).isSome = true →
     tget? s.tier.frames (st.val * 2 ^ 20 + row / 64) = some f →
     mergeInto s 6 (st.val + row * 16 * 8) 7 = none ∧ s.pkg.sec.parts = [] → s.mbr.leader ≥ 64 →
     ∃ t, Machine.exec (.rowRepairDone st row false) s = .next t ∧
       t.err.retired = tput s.err.retired (st.val * 2 ^ 20 + row / 64) true ∧
         (tgetD t.err.stk st.val {}).frmRet = (tgetD s.err.stk st.val {}).frmRet + 1 ∧
       (tget? t.err.recs ((s.err.seq + 1) % 1024)).map (fun (r : ErrRec) => (r.seq, r.time, r.det, r.sev, r.action,
             r.status, r.loc, r.count)) = some (s.err.seq + 1, s.now, 6, 3, 7, 0, st.val + row * 16 * 8, 1) ∧
       t.tier = { s.tier with
             withheld := tput s.tier.withheld (st.val * 2 ^ 20 + row / 64) true,
             moveWait := s.tier.moveWait ++ [(f.tile, 1, st.val, false)] } ∧ t.work = s.work ∧ t.out = s.out)
  ∧ (∀ (s : State) (st : Fin 8) (row : Nat) (ok : Bool),
     (tget? s.err.repairing (rowKey st.val row)) = none →
     Machine.exec (.rowRepairDone st row ok) s = .next (s))

/-- A manager counts accepted HELLOs; a leader without a map proposes the first one once every expected position has
said HELLO or FORM_S has passed: every node heard is a member, generation and job one above the highest found. A
leader with a map queues a HELLO as a join and proposes to expel a member that has restarted. A manager that hears no
leader starts an election, votes once in a term, and leads with a majority. APPEND is written and acknowledged; with
a majority's acknowledgements the change is committed. A member that a newer committed map includes installs it; one
that it leaves out goes to REJOIN_WAIT without its log, indexes and work. Messages that do not apply change nothing. -/
def Obligations.MapIsFormedAndCommitted : Prop :=
  (∀ (s : State) (pos : Fin 64) (msg : HelloMsg),
   isMgr s = false ∨ helloOk s msg = false →
   Machine.exec (.hello pos msg) s = .next (s))
  ∧ (∀ (s : State) (pos : Fin 64) (msg : HelloMsg),
     isMgr s = true → helloOk s msg = true →
     s.mbr.leading = false ∨ (s.mbr.gen = 0 ∧ s.mbr.written = none ∧
         ((bitsSet 64 s.mbr.expect.toNat).all (fun p => (tget? (tput s.mbr.hellos pos.val (msg.identity.getD 0)) p).isSome))
           = false) →
     Machine.exec (.hello pos msg) s = .next ({ s with
           mbr.hellos := tput s.mbr.hellos pos.val (msg.identity.getD 0) }))
  ∧ (∀ (s : State) (pos : Fin 64) (msg : HelloMsg),
     isMgr s = true → helloOk s msg = true → s.mbr.leading = true →
     s.mbr.gen = 0 ∧ s.mbr.written = none ∧ s.mbr.prop = none →
     ((bitsSet 64 s.mbr.expect.toNat).all (fun p => (tget? (tput s.mbr.hellos pos.val (msg.identity.getD 0)) p).isSome))
       = true →
     ∃ t, Machine.exec (.hello pos msg) s = .next t ∧
       t.mbr.prop.map (fun (p : Proposal) => (p.map_.gen, p.map_.job, p.map_.members, p.map_.idents, p.map_.mgrs,
             p.acks)) = some (s.mbr.foundGen + 1, s.mbr.foundJob + 1, ofBits ((tput s.mbr.hellos pos.val
               (msg.identity.getD 0)).map (fun (kv : Nat × Nat) => kv.1)), tput s.mbr.hellos pos.val
           (msg.identity.getD 0), s.mbr.mgrs, [s.fab.node]) ∧
       t.work = s.work ∧ t.tier = s.tier ∧ t.host = s.host ∧ t.epo = s.epo)
  ∧ (∀ (s : State) (pos : Fin 64) (msg : HelloMsg),
     isMgr s = true → helloOk s msg = true → s.mbr.leading = true → s.mbr.gen ≠ 0 →
     bitOf (latestMap s).members pos.val = false →
     Machine.exec (.hello pos msg) s = .next ({ s with
           mbr := { s.mbr with
               hellos := tput s.mbr.hellos pos.val (msg.identity.getD 0),
               joins := s.mbr.joins.filter (· != pos.val) ++ [pos.val] } }))
  ∧ (∀ (s : State) (pos : Fin 64) (msg : HelloMsg),
     isMgr s = true → helloOk s msg = true → s.mbr.leading = true → s.mbr.gen ≠ 0 →
     bitOf (latestMap s).members pos.val = true → s.mbr.prop = none ∧ s.mbr.propQ = [] →
     ∃ t, Machine.exec (.hello pos msg) s = .next t ∧
       t.mbr.prop.map (fun (p : Proposal) => (p.map_.gen, p.map_.members, p.acks)) = some (s.mbr.gen + 1, ofBits
           ((bitsSet 64 (latestMap s).members).filter (· != pos.val)), [s.fab.node]) ∧
       t.mbr.joins = s.mbr.joins.filter (· != pos.val) ++ [pos.val] ∧ t.mbr.gen = s.mbr.gen ∧ t.work = s.work ∧
         t.tier = s.tier ∧ t.host = s.host ∧ t.epo = s.epo)
  ∧ (∀ (s : State) (p po : Nat),
     s.mbr.st = .alone ∨ s.mbr.st = .pending ∨ s.mbr.st = .rejoinWait → s.pkg.sec.recovered = true →
     silentNode s = false → s.mbr.lastHello + 10000000 ≤ s.now → isMgr s = false → s.mbr.mgrs = [p] ∧ p < 64 →
     oneWay s p po →
     ∃ t, Machine.exec (.helloTimer) s = .next t ∧
       t.mbr.lastHello = s.now ∧
       t.out = s.out ++ [sent s po { kind := 0x11, dst := p, src := s.fab.node, part := 0,
                                     len := (leBytes 1 s.fab.node ++ leBytes 64 s.pkg.sec.idDig.toNat ++ leBytes 64
                                         s.pkg.sec.starterDig.toNat ++ leBytes 1 (fld s.epo.cfg 39 32)).length,
                                     aux := 0x01,
                                     payload := leBytes 1 s.fab.node ++ leBytes 64 s.pkg.sec.idDig.toNat ++ leBytes
                                       64 s.pkg.sec.starterDig.toNat ++ leBytes 1 (fld s.epo.cfg 39 32) }] ∧
       t.work = s.work ∧ t.tier = s.tier ∧ t.host = s.host ∧ t.epo = s.epo)
  ∧ (∀ (s : State),
     s.mbr.st = .member ∨ s.mbr.st = .held ∨ s.now < s.mbr.lastHello + 10000000 ∨ s.pkg.sec.recovered = false →
     Machine.exec (.helloTimer) s = .next (s))
  ∧ (∀ (s : State),
     isMgr s = true → s.mbr.leading = false → silentNode s = false → s.mbr.leaderT + 2000000 ≤ s.now →
     2 ≤ s.mbr.mgrs.length →
     ∃ t, Machine.exec (.electionTimeout) s = .next t ∧
       t.mbr.mterm = s.mbr.mterm + 1 ∧ t.mbr.votedFor = some s.fab.node ∧ t.mbr.votes = [s.fab.node] ∧
         t.mbr.leader = 64 ∧ t.mbr.leading = false ∧ t.mbr.leaderT = s.now ∧ t.mbr.gen = s.mbr.gen ∧
       t.work = s.work ∧ t.tier = s.tier ∧ t.host = s.host ∧ t.epo = s.epo)
  ∧ (∀ (s : State),
     isMgr s = false ∨ s.mbr.leading = true ∨ s.now < s.mbr.leaderT + 2000000 →
     Machine.exec (.electionTimeout) s = .next (s))
  ∧ (∀ (s : State) (pos : Fin 64) (term po : Nat),
     isMgr s = true → s.mbr.mgrs.contains pos.val = true → s.mbr.mterm < term → oneWay s pos.val po →
     ∃ t, Machine.exec (.voteReq pos term) s = .next t ∧
       t.mbr.mterm = term ∧ t.mbr.votedFor = some pos.val ∧ t.mbr.leading = false ∧ t.mbr.leaderT = s.now ∧
       t.out = s.out ++ [sent s po { kind := 0x11, dst := pos.val, src := s.fab.node, part := 0,
                                     len := (leBytes 8 term ++ leBytes 4 s.mbr.flashGen ++ leBytes 4 s.mbr.flashJob).length,
                                     aux := 0x05,
                                     payload := leBytes 8 term ++ leBytes 4 s.mbr.flashGen ++ leBytes 4
                                       s.mbr.flashJob }] ∧
       t.work = s.work ∧ t.tier = s.tier ∧ t.host = s.host ∧ t.epo = s.epo)
  ∧ (∀ (s : State) (pos : Fin 64) (term : Nat),
     isMgr s = false ∨ term < s.mbr.mterm ∨ (term = s.mbr.mterm ∧ s.mbr.votedFor.isSome = true ∧
         s.mbr.votedFor ≠ some pos.val) →
     Machine.exec (.voteReq pos term) s = .next (s))
  ∧ (∀ (s : State) (pos : Fin 64) (gen job : Nat),
     s.mbr.leading = false ∧ s.mbr.votedFor = some s.fab.node ∧ s.mbr.mgrs.contains pos.val = true ∧
       s.mbr.votes.contains pos.val = false →
     2 * (s.mbr.votes.length + 1) ≤ s.mbr.mgrs.length →
     Machine.exec (.vote pos s.mbr.mterm gen job) s = .next ({ s with
           mbr := { s.mbr with
               votes := s.mbr.votes ++ [pos.val], foundGen := max s.mbr.foundGen gen,
               foundJob := max s.mbr.foundJob job } }))
  ∧ (∀ (s : State) (pos : Fin 64) (gen job : Nat),
     s.mbr.leading = false ∧ s.mbr.votedFor = some s.fab.node ∧ s.mbr.mgrs.contains pos.val = true ∧
       s.mbr.votes.contains pos.val = false →
     s.mbr.mgrs.length < 2 * (s.mbr.votes.length + 1) →
     ∃ t, Machine.exec (.vote pos s.mbr.mterm gen job) s = .next t ∧
       t.mbr.leading = true ∧ t.mbr.leader = s.fab.node ∧ t.mbr.mterm = s.mbr.mterm ∧ t.mbr.gen = s.mbr.gen ∧
         t.mbr.foundGen = max s.mbr.foundGen gen ∧
       t.work = s.work ∧ t.tier = s.tier ∧ t.host = s.host ∧ t.epo = s.epo)
  ∧ (∀ (s : State) (pos : Fin 64) (term gen job : Nat),
     s.mbr.leading = true ∨ term ≠ s.mbr.mterm ∨ s.mbr.votes.contains pos.val = true →
     Machine.exec (.vote pos term gen job) s = .next (s))
  ∧ (∀ (s : State) (pos : Fin 64) (term po : Nat) (m : RackMap),
     isMgr s = true → s.mbr.mgrs.contains pos.val = true → s.mbr.mterm ≤ term → oneWay s pos.val po →
     ∃ t, Machine.exec (.append pos term m) s = .next t ∧
       t.mbr.written = some m ∧ t.mbr.mterm = term ∧ t.mbr.leader = pos.val ∧ t.mbr.leaderT = s.now ∧
         t.mbr.gen = s.mbr.gen ∧
       t.out = s.out ++ [sent s po { kind := 0x11, dst := pos.val, src := s.fab.node, part := 0,
                                     len := (leBytes 8 term ++ leBytes 4 m.gen).length, aux := 0x07,
                                     payload := leBytes 8 term ++ leBytes 4 m.gen }] ∧
       t.work = s.work ∧ t.tier = s.tier ∧ t.host = s.host ∧ t.epo = s.epo)
  ∧ (∀ (s : State) (pos : Fin 64) (term : Nat) (m : RackMap),
     isMgr s = false ∨ s.mbr.mgrs.contains pos.val = false ∨ term < s.mbr.mterm →
     Machine.exec (.append pos term m) s = .next (s))
  ∧ (∀ (s : State) (pos : Fin 64) (p : Proposal),
     s.mbr.prop = some p ∧ s.mbr.leading = true ∧ s.mbr.mgrs.contains pos.val = true ∧
       p.acks.contains pos.val = false →
     2 * (p.acks.length + 1) ≤ s.mbr.mgrs.length →
     Machine.exec (.appendAck pos s.mbr.mterm p.map_.gen) s = .next ({ s with
           mbr.prop := some { p with acks := p.acks ++ [pos.val] } }))
  ∧ (∀ (s : State) (pos : Fin 64) (m : RackMap) (acks : List Nat),
     s.mbr.prop = some { map_ := m, acks := acks } ∧ s.mbr.propQ = [] ∧ s.mbr.leading = true ∧
       s.mbr.mgrs.contains pos.val = true ∧ acks.contains pos.val = false →
     s.mbr.mgrs.length < 2 * (acks.length + 1) → s.mbr.gen < m.gen ∧ bitOf m.members s.fab.node = true →
     s.fab.ctlHold = [] →
     ∃ t, Machine.exec (.appendAck pos s.mbr.mterm m.gen) s = .next t ∧
       t.mbr.gen = m.gen ∧ t.mbr.members = m.members ∧ t.mbr.spares = m.spares ∧ t.mbr.job = m.job ∧
         t.mbr.mgrs = m.mgrs ∧ t.mbr.jobCtl = m.restart.getD 0 ∧
       t.mbr.prop = none ∧ t.mbr.leading = true)
  ∧ (∀ (s : State) (pos : Fin 64) (term gen : Nat),
     s.mbr.prop = none ∨ s.mbr.leading = false ∨ term ≠ s.mbr.mterm →
     Machine.exec (.appendAck pos term gen) s = .next (s))
  ∧ (∀ (s : State) (pos : Fin 64) (m : RackMap),
     s.mbr.mgrs.contains pos.val = true → s.mbr.gen < m.gen ∧ bitOf m.members s.fab.node = true →
     s.fab.ctlHold = [] →
     ∃ t, Machine.exec (.commit pos m) s = .next t ∧
       t.mbr.gen = m.gen ∧ t.mbr.members = m.members ∧ t.mbr.spares = m.spares ∧ t.mbr.job = m.job ∧
         t.mbr.mgrs = m.mgrs ∧ t.mbr.jobCtl = m.restart.getD 0 ∧
       t.mbr.leader = pos.val ∧ (t.mbr.st = .member ∨ (s.mbr.st = .held ∧ t.mbr.st = .held)) ∧
         (s.mbr.st = .alone → t.mbr.pos = s.fab.node))
  ∧ (∀ (s : State) (pos : Fin 64) (m : RackMap),
     s.mbr.mgrs.contains pos.val = true → s.mbr.gen < m.gen ∧ bitOf m.members s.fab.node = false →
     s.mbr.st = .member ∨ s.mbr.st = .held →
     ∃ t, Machine.exec (.commit pos m) s = .next t ∧
       t.mbr.st = .rejoinWait ∧ t.work.indexes = [] ∧ t.work.tables = [] ∧ t.work.invs = [] ∧ t.epo.log = [] ∧
         t.epo.peerLog = [] ∧ t.epo.updates = [] ∧ t.mbr.gen = s.mbr.gen ∧ t.mbr.err = s.mbr.err ||| 2)
  ∧ (∀ (s : State) (pos : Fin 64) (m : RackMap),
     s.mbr.mgrs.contains pos.val = true → m.gen ≤ s.mbr.gen →
     Machine.exec (.commit pos m) s = .next ({ s with mbr := { s.mbr with leader := pos.val, leaderT := s.now } }))
  ∧ (∀ (s : State) (pos : Fin 64) (m : RackMap),
     s.mbr.mgrs.contains pos.val = false →
     Machine.exec (.commit pos m) s = .next (s))
  ∧ (∀ (s : State) (port : Fin 32) (p : Packet) (m : RackMap),
     arrives s port.val 0x3E p → s.mbr.gen < p.gen → s.mbr.gen < m.gen ∧ bitOf m.members s.fab.node = false →
     s.mbr.st = .member ∨ s.mbr.st = .held →
     ∃ t, Machine.exec (.reject port p (some m)) s = .next t ∧
       t.mbr.st = .rejoinWait ∧ t.work.indexes = [] ∧ t.work.tables = [] ∧ t.work.invs = [] ∧ t.epo.log = [] ∧
         t.epo.peerLog = [] ∧ t.epo.updates = [] ∧ t.mbr.gen = s.mbr.gen ∧ t.mbr.err = s.mbr.err ||| 2)
  ∧ (∀ (s : State) (pos : Fin 64) (x : Nat) (msg : ReportMsg),
     s.mbr.leading = true → msg.silent = [x] ∧ msg.counts = [] ∧ msg.restart = none ∧ msg.rebuilt = none →
     bitOf (latestMap s).members x = true → s.mbr.prop = none ∧ s.mbr.propQ = [] →
     s.mbr.mgrs.length < 2 * ((tput s.mbr.silence (x * 64 + pos.val) true).filter (fun kv => kv.1 / 64 = x)).length →
     ∃ t, Machine.exec (.report pos msg) s = .next t ∧
       t.mbr.prop.map (fun (p : Proposal) => (p.map_.gen, p.map_.members, p.acks)) = some (s.mbr.gen + 1, ofBits
           ((bitsSet 64 (latestMap s).members).filter (· != x)), [s.fab.node]) ∧
       t.work = s.work ∧ t.tier = s.tier ∧ t.host = s.host ∧ t.epo = s.epo)
  ∧ (∀ (s : State) (pos : Fin 64) (v : Nat) (msg : ReportMsg),
     s.mbr.leading = true → msg.silent = [] ∧ msg.counts = [] ∧ msg.restart = none ∧ msg.rebuilt = some v →
     s.mbr.prop = none ∧ s.mbr.propQ = [] →
     ∃ t, Machine.exec (.report pos msg) s = .next t ∧
       t.mbr.prop.map (fun (p : Proposal) => (p.map_.gen, p.map_.spares, p.map_.hosts)) = some (s.mbr.gen + 1,
           ofBits ((bitsSet 64 (latestMap s).spares).filter (· != pos.val)), (latestMap s).hosts.map
           (fun x => if x.1 = v then (x.1, pos.val) else x)) ∧
       t.work = s.work ∧ t.tier = s.tier ∧ t.host = s.host ∧ t.epo = s.epo)
  ∧ (∀ (s : State) (pos : Fin 64) (e : Nat) (msg : ReportMsg),
     s.mbr.leading = true → msg.silent = [] ∧ msg.counts = [] ∧ msg.restart = some e ∧ msg.rebuilt = none →
     s.mbr.prop = none ∧ s.mbr.propQ = [] → (latestMap s).restart = none →
     ∃ t, Machine.exec (.report pos msg) s = .next t ∧
       t.mbr.prop.map (fun (p : Proposal) => (p.map_.gen, p.map_.restart)) = some (s.mbr.gen + 1, some e) ∧
       t.work = s.work ∧ t.tier = s.tier ∧ t.host = s.host ∧ t.epo = s.epo)
  ∧ (∀ (s : State) (pos : Fin 64) (msg : ReportMsg),
     s.mbr.leading = false →
     Machine.exec (.report pos msg) s = .next (s))
  ∧ (∀ (s : State),
     s.mbr.leaderT + fld s.mbr.cfg 63 48 * 1000000000 ≤ s.now → s.mbr.leading = true →
     s.mbr.gen = 0 ∧ s.mbr.written = none ∧ s.mbr.prop = none →
     ∃ t, Machine.exec (.formationTimeout) s = .next t ∧
       t.mbr.prop.map (fun (p : Proposal) => (p.map_.gen, p.map_.job, p.map_.members, p.map_.idents, p.map_.mgrs,
             p.acks)) = some (s.mbr.foundGen + 1, s.mbr.foundJob + 1, ofBits
           ((s.mbr.hellos).map (fun (kv : Nat × Nat) => kv.1)), s.mbr.hellos, s.mbr.mgrs, [s.fab.node]) ∧
       t.work = s.work ∧ t.tier = s.tier ∧ t.host = s.host ∧ t.epo = s.epo)
  ∧ (∀ (s : State),
     s.now < s.mbr.leaderT + fld s.mbr.cfg 63 48 * 1000000000 ∨ s.mbr.leading = false ∨ s.mbr.gen ≠ 0 →
     Machine.exec (.formationTimeout) s = .next (s))

/-- A manager answers a HEARTBEAT and notes it; HEARTBEAT_TIMER sends one to each manager every ms. HB_ACK moves the
lease to the latest heartbeat that a majority has acknowledged and brings a HELD node back; a node that is ALONE
learns of a map by it. A lease that has lapsed ends every command with FENCED and holds the node. A manager reports a
member silent for EXPEL ms. WEIGHTS of the leader wait for the next close. MBR_JOB_CTL takes one future epoch, and
refuses others. REBUILD_GO and REBUILD_DISCARD by the owner start a rebuild and drop a shard's copies;
REBUILD_RECORDS_ARRIVE is refused on a gap, or replays the records that apply and asks for the host entry. -/
def Obligations.LeasesJobsAndRebuildsRun : Prop :=
  (∀ (s : State) (pos : Fin 64) (x po : Nat),
   isMgr s = true → oneWay s pos.val po →
   ∃ t, Machine.exec (.heartbeat pos x) s = .next t ∧
     t.mbr = { s.mbr with
         heard := tput s.mbr.heard pos.val s.now, silent := terase s.mbr.silent pos.val,
         leaderT := if s.mbr.leader = pos.val then s.now else s.mbr.leaderT } ∧
     t.out = s.out ++ [sent s po { kind := 0x11, dst := pos.val, src := s.fab.node, part := 0,
                                   len := (leBytes 4 s.mbr.gen ++ leBytes 8 x).length, aux := 0x03,
                                   payload := leBytes 4 s.mbr.gen ++ leBytes 8 x }] ∧
     t.work = s.work ∧ t.tier = s.tier ∧ t.host = s.host ∧ t.epo = s.epo)
  ∧ (∀ (s : State) (pos : Fin 64) (x : Nat),
     isMgr s = false →
     Machine.exec (.heartbeat pos x) s = .next (s))
  ∧ (∀ (s : State) (p po : Nat),
     silentNode s = false → s.fab.node < 64 ∧ s.pkg.sec.recovered = true ∧ s.mbr.lastBeat + 1000000 ≤ s.now →
     s.mbr.mgrs = [p] ∧ p ≠ s.fab.node → oneWay s p po →
     ∃ t, Machine.exec (.heartbeatTimer) s = .next t ∧
       t.mbr = { s.mbr with lastBeat := s.now } ∧
       t.out = s.out ++ [sent s po { kind := 0x11, dst := p, src := s.fab.node, part := 0,
                                     len := (leBytes 8 s.now).length, aux := 0x02, payload := leBytes 8 s.now }] ∧
       t.work = s.work ∧ t.tier = s.tier ∧ t.host = s.host ∧ t.epo = s.epo)
  ∧ (∀ (s : State),
     s.now < s.mbr.lastBeat + 1000000 ∨ s.mbr.mgrs = [] →
     Machine.exec (.heartbeatTimer) s = .next (s))
  ∧ (∀ (s : State) (pos : Fin 64) (g x b : Nat),
     s.mbr.mgrs.contains pos.val = true → s.mbr.st = .held ∨ s.mbr.st = .member →
     leaseStart { s with mbr.acked := tput s.mbr.acked pos.val (max x (tgetD s.mbr.acked pos.val 0)) } = some b →
     Machine.exec (.hbAck pos g x) s = .next (let l := max b (s.mbr.leaseT.getD 0)
                                              { s with
                                                  mbr := { s.mbr with
                                                      acked := tput s.mbr.acked pos.val
                                                        (max x (tgetD s.mbr.acked pos.val 0)), leaseT := some l,
                                                      st := if s.mbr.st = MbrState.held ∧
                                                        s.now < l + fld s.mbr.cfg 31 24 * 1000000 then
                                                          MbrState.member else s.mbr.st } }))
  ∧ (∀ (s : State) (pos : Fin 64) (g x : Nat),
     s.mbr.mgrs.contains pos.val = true → s.mbr.st = .alone ∧ g ≠ 0 ∧ s.mbr.lastHello ≠ 0 ∧ s.pkg.sec.id = .ok →
     Machine.exec (.hbAck pos g x) s = .next ({ s with
           mbr := { s.mbr with
               acked := tput s.mbr.acked pos.val (max x (tgetD s.mbr.acked pos.val 0)), st := .pending } }))
  ∧ (∀ (s : State) (pos : Fin 64) (g x : Nat),
     s.mbr.mgrs.contains pos.val = false →
     Machine.exec (.hbAck pos g x) s = .next (s))
  ∧ (∀ (s : State) (x cid : Nat) (c : Cmd),
     s.mbr.st = .member ∧ s.mbr.leaseT = some x ∧ x + fld s.mbr.cfg 31 24 * 1000000 ≤ s.now →
     s.work.invs = [] ∧ s.work.queries = [] ∧ s.epo.updates = [] ∧ s.work.plans = [] ∧ s.host.cmds = [(cid, c)] →
     ringReady s c →
     ∃ t, Machine.exec (.leaseLapse) s = .next t ∧
       t.mbr.st = .held ∧ t.mbr.err = s.mbr.err ||| 1 ∧ t.mbr.gen = s.mbr.gen ∧ t.mbr.members = s.mbr.members ∧
       t.host.cmds = [] ∧ t.out = s.out ++ [completion s c 0x0303 0 0] ∧
       t.tier = s.tier ∧ t.work.indexes = s.work.indexes)
  ∧ (∀ (s : State),
     s.mbr.st ≠ .member ∨ s.mbr.leaseT.all (fun (x : Nat) => decide (s.now < x + fld s.mbr.cfg 31 24 * 1000000)) =
       true →
     Machine.exec (.leaseLapse) s = .next (s))
  ∧ (∀ (s : State) (pos : Fin 64) (po : Nat),
     isMgr s = true →
     bitOf s.mbr.members pos.val = true ∧ pos.val ≠ s.fab.node ∧ tget? s.mbr.silent pos.val = none →
     tgetD s.mbr.heard pos.val 0 + fld s.mbr.cfg 39 32 * 1000000 ≤ s.now →
     s.mbr.leading = false ∧ s.mbr.leader < 64 → oneWay s s.mbr.leader po →
     ∃ t, Machine.exec (.expelTimer pos) s = .next t ∧
       t.mbr = { s.mbr with silent := tput s.mbr.silent pos.val true } ∧
       t.out = s.out ++ [sent s po { kind := 0x11, dst := s.mbr.leader, src := s.fab.node, part := 0,
                                     len := (leBytes 1 pos.val).length, aux := 0x09, payload := leBytes 1 pos.val }] ∧
       t.work = s.work ∧ t.tier = s.tier ∧ t.host = s.host ∧ t.epo = s.epo)
  ∧ (∀ (s : State) (pos : Fin 64),
     isMgr s = true →
     bitOf s.mbr.members pos.val = true ∧ pos.val ≠ s.fab.node ∧ tget? s.mbr.silent pos.val = none →
     tgetD s.mbr.heard pos.val 0 + fld s.mbr.cfg 39 32 * 1000000 ≤ s.now → s.mbr.leading = true →
     2 * ((tput s.mbr.silence (pos.val * 64 + s.fab.node) true).filter (fun kv => kv.1 / 64 = pos.val)).length ≤
       s.mbr.mgrs.length →
     Machine.exec (.expelTimer pos) s = .next ({ s with
           mbr := { s.mbr with
               silent := tput s.mbr.silent pos.val true,
               silence := tput s.mbr.silence (pos.val * 64 + s.fab.node) true } }))
  ∧ (∀ (s : State) (pos : Fin 64),
     isMgr s = false ∨ bitOf s.mbr.members pos.val = false ∨ s.now < tgetD s.mbr.heard pos.val 0 + fld s.mbr.cfg 39
       32 * 1000000 →
     Machine.exec (.expelTimer pos) s = .next (s))
  ∧ (∀ (s : State) (pos : Fin 64) (m : List (Nat × Nat)),
     pos.val = s.mbr.leader →
     Machine.exec (.weights pos m) s = .next ({ s with mbr.nextWeight := m }))
  ∧ (∀ (s : State) (pos : Fin 64) (m : List (Nat × Nat)),
     pos.val ≠ s.mbr.leader →
     Machine.exec (.weights pos m) s = .next (s))
  ∧ (∀ (s : State) (fn : Fin 64) (e : W64) (po : Nat),
     ownerFn s fn.val = true → s.epo.closed < e.toNat ∧ s.mbr.jobCtl = 0 →
     s.mbr.leading = false ∧ s.mbr.leader < 64 → oneWay s s.mbr.leader po →
     ∃ t, Machine.exec (.mbrJobCtlWrite fn e) s = .next t ∧
       t.mbr = { s.mbr with jobCtl := e.toNat } ∧
       t.out = s.out ++ [sent s po { kind := 0x11, dst := s.mbr.leader, src := s.fab.node, part := 0,
                                     len := (leBytes 8 e.toNat).length, aux := 0x09, payload := leBytes 8 e.toNat }] ∧
       t.work = s.work ∧ t.tier = s.tier ∧ t.host = s.host ∧ t.epo = s.epo)
  ∧ (∀ (s : State) (fn : Fin 64) (e : W64),
     ownerFn s fn.val = true → s.epo.closed < e.toNat ∧ s.mbr.jobCtl = 0 → s.mbr.leading = true →
     s.mbr.prop = none ∧ s.mbr.propQ = [] →
     ∃ t, Machine.exec (.mbrJobCtlWrite fn e) s = .next t ∧
       t.mbr.jobCtl = e.toNat ∧
         t.mbr.prop.map (fun (p : Proposal) => (p.map_.gen, p.map_.restart)) = some (s.mbr.gen + 1, some e.toNat) ∧
       t.work = s.work ∧ t.tier = s.tier ∧ t.host = s.host ∧ t.epo = s.epo)
  ∧ (∀ (s : State) (fn : Fin 64) (e : W64),
     ownerFn s fn.val = true → e.toNat ≤ s.epo.closed ∨ s.mbr.jobCtl ≠ 0 →
     Machine.exec (.mbrJobCtlWrite fn e) s = .next ({ s with mbr.err := s.mbr.err ||| 8 }))
  ∧ (∀ (s : State) (fn : Fin 64) (e : W64),
     ownerFn s fn.val = false →
     Machine.exec (.mbrJobCtlWrite fn e) s = .next (s))
  ∧ (∀ (s : State) (fn shard : Fin 64),
     ownerFn s fn.val = true → s.mbr.reb = .idle ∨ s.mbr.reb = .done ∨ s.mbr.reb = .refused →
     Machine.exec (.rebuildGo fn shard) s = .next ({ s with
           mbr := { s.mbr with reb := .fetch, rebShard := shard.val, rebFor := shard.val } }))
  ∧ (∀ (s : State) (fn shard : Fin 64),
     ownerFn s fn.val = false →
     Machine.exec (.rebuildGo fn shard) s = .next (s))
  ∧ (∀ (s : State) (fn shard : Fin 64),
     ownerFn s fn.val = true →
     Machine.exec (.rebuildDiscard fn shard) s = .next ({ s with
           mbr.rebShard := shard.val, epo.peerLog := s.epo.peerLog.filter (fun r => r.1.origin != shard.val) }))
  ∧ (∀ (s : State) (fn shard : Fin 64),
     ownerFn s fn.val = false →
     Machine.exec (.rebuildDiscard fn shard) s = .next (s))
  ∧ (∀ (s : State) (ls : List (Nat × List LogRec)),
     s.mbr.reb = .fetch → ls.any (fun l => decide (s.mbr.rebEpoch.toNat < l.1)) = true →
     Machine.exec (.rebuildRecordsArrive ls) s = .next ({ s with
           mbr := { s.mbr with reb := .refused, err := s.mbr.err ||| 4 } }))
  ∧ (∀ (s : State) (ls : List (Nat × List LogRec)),
     s.mbr.reb = .fetch → ls.any (fun l => decide (s.mbr.rebEpoch.toNat < l.1)) = false → s.mbr.leading = true →
     s.mbr.prop = none ∧ s.mbr.propQ = [] →
     ∃ t, Machine.exec (.rebuildRecordsArrive ls) s = .next t ∧
       (let u := replayAll s (((applicable (ls.map (fun (l : Nat × List LogRec) => l.2))).filter (fun (r : LogRec)
                => decide (s.mbr.rebEpoch.toNat < r.epoch) && decide (r.epoch ≤ s.epo.closed))).map (fun
              (r : LogRec) => (r, match tget? s.work.indexes r.index with | some x => x.part | none => ownerPart s)))
        t.work = u.work ∧ t.tier = u.tier ∧ t.epo = u.epo ∧ t.flash = u.flash) ∧
       t.mbr.reb = .host ∧
         t.mbr.prop.map (fun (p : Proposal) => p.map_.hosts) = some ((latestMap s).hosts.map (fun x => if x.1 =
               s.mbr.rebFor then (x.1, s.fab.node) else x)))
  ∧ (∀ (s : State) (ls : List (Nat × List LogRec)),
     s.mbr.reb ≠ .fetch →
     Machine.exec (.rebuildRecordsArrive ls) s = .next (s))

/-- START_SEQUENCE changes nothing while the pins hold reset, outside a start, or while a start waits for PG_MAIN. In
the first half the cores that pass serve, the first slot whose image passes gives SLOT, SEQ, Starter digest, keys,
rack position and managers, or SLOT reads NONE; with every core failed the start stops there. Once PG_MAIN is high
the enabled domains are on (only AON, PA and PB with SLOT NONE), every cluster that passes serves its own number with
one spare, near-bank units follow their stacks, flash-backed tiles have their flash homes, no registration is left
and the first HELLO is sent. WRITE_STARTER writes a passing image into the slot not in use with SEQ + 1; UNLOCK with
a good token erases secrets, sessions and sealed tiles and opens test access; ENROLL makes a new identity only when
the node has none and its PUF is healthy; each leaves its RESULT. ORDERLY_STOP waits for work in flight, and
otherwise ends with tiles in flash, EPO_DURABLE set, links down and only AON powered. A sender who may not use the
mailbox changes nothing. The slot left when none passes and the synchronous mailbox are the model's choice. -/
def Obligations.StartRunsAndMailboxServes : Prop :=
  (∀ (s : State) (io : StartIn),
   s.pkg.pwr.pgAon = false ∨ s.pkg.pwr.wrst = true ∨ s.pkg.pwr.clock = false ∨ s.pkg.pwr.undervolt = true ∨
     (s.pkg.sec.phase ≠ 1 ∧ s.pkg.sec.phase ≠ 2) ∨ (s.pkg.sec.phase = 2 ∧
       (s.pkg.pwr.pgMain = false ∨ anyCore s = false)) →
   Machine.exec (.startSequence io) s = .next (s))
  ∧ (∀ (s : State) (io : StartIn),
     s.pkg.sec.phase = 1 ∧ s.pkg.pwr.pgMain = false →
     s.pkg.pwr.pgAon = true ∧ s.pkg.pwr.wrst = false ∧ s.pkg.pwr.clock = true ∧ s.pkg.pwr.undervolt = false →
     [0, 1, 2].any (fun (i : Nat) => !io.coreFail.contains i) = true →
     ∃ t, Machine.exec (.startSequence io) s = .next t ∧
       t.pkg.sec.phase = 2 ∧ t.pkg.sec.nonce = io.nonce ∧ t.pkg.pwr.inReset = false ∧
       t.pkg.sec.slot = ((slotOrder s).find? (fun (x : Nat × NorSlot) => imgCheck x.2.image == 0)).elim 3
         (fun (x : Nat × NorSlot) => x.1) ∧
       t.pkg.sec.seq = ((slotOrder s).find? (fun (x : Nat × NorSlot) => imgCheck x.2.image == 0)).elim s.pkg.sec.seq
         (fun (x : Nat × NorSlot) => x.2.seq) ∧
       t.pkg.sec.starterDig = ((slotOrder s).find? (fun (x : Nat × NorSlot) => imgCheck x.2.image == 0)).elim
         s.pkg.sec.starterDig (fun (x : Nat × NorSlot) => imgDigest x.2.image) ∧
       t.pkg.sec.keys = ((slotOrder s).find? (fun (x : Nat × NorSlot) => imgCheck x.2.image == 0)).elim
         s.pkg.sec.keys (fun (x : Nat × NorSlot) => imgKeys x.2.image) ∧
       t.fab.node = ((slotOrder s).find? (fun (x : Nat × NorSlot) => imgCheck x.2.image == 0)).elim s.fab.node
         (fun (x : Nat × NorSlot) => getLE (blockOf x.2.image 3) 0 1) ∧
       t.mbr.mgrs = ((slotOrder s).find? (fun (x : Nat × NorSlot) => imgCheck x.2.image == 0)).elim s.mbr.mgrs
         (fun (x : Nat × NorSlot) => (List.range (getLE (blockOf x.2.image 3) 1 1)).map
           (fun (i : Nat) => getLE (blockOf x.2.image 3) (8 + i) 1)) ∧
       (∀ i : Nat, i < 3 →
           tget? t.err.cores i = some (if io.coreFail.contains i then CoreState.failed else CoreState.healthy)))
  ∧ (∀ (s : State) (io : StartIn),
     s.pkg.sec.phase = 1 →
     s.pkg.pwr.pgAon = true ∧ s.pkg.pwr.wrst = false ∧ s.pkg.pwr.clock = true ∧ s.pkg.pwr.undervolt = false →
     [0, 1, 2].all (fun (i : Nat) => io.coreFail.contains i) = true →
     ∃ t, Machine.exec (.startSequence io) s = .next t ∧
       t.pkg.sec.phase = 2 ∧ t.pkg.sec.slot = s.pkg.sec.slot ∧ t.err.primary = 3 ∧ t.err.noCoreT = some s.now ∧
       t.out = s.out ∧ t.pkg.pwr.domOn = s.pkg.pwr.domOn ∧ t.work = s.work ∧ t.tier = s.tier ∧ t.host = s.host)
  ∧ (∀ (s : State) (io : StartIn),
     s.pkg.sec.phase = 2 ∧ s.pkg.pwr.pgMain = true ∧ s.pkg.sec.slot = 3 ∧ anyCore s = true →
     s.pkg.pwr.pgAon = true ∧ s.pkg.pwr.wrst = false ∧ s.pkg.pwr.clock = true ∧ s.pkg.pwr.undervolt = false →
     Machine.exec (.startSequence io) s = .next ({ s with
           pkg := { s.pkg with
               sec := { s.pkg.sec with phase := 3 },
               pwr := { s.pkg.pwr with domOn := 1 + 2 ^ 20 + 2 ^ 21, avsT := [(0, s.now), (1, s.now)] },
               clk := { s.pkg.clk with vddcd := voltFor s.pkg.clk.tcur, raise := none } } }))
  ∧ (∀ (s : State) (io : StartIn),
     s.pkg.sec.phase = 2 ∧ s.pkg.pwr.pgMain = true ∧ s.pkg.sec.slot ≠ 3 ∧ anyCore s = true →
     s.pkg.pwr.pgAon = true ∧ s.pkg.pwr.wrst = false ∧ s.pkg.pwr.clock = true ∧ s.pkg.pwr.undervolt = false →
     io.clusterFail = [] ∧ s.work.fenceHist = [] ∧ s.epo.flashLog = [] ∧ s.tier.sealed = [] →
     ∃ t, Machine.exec (.startSequence io) s = .next t ∧
       t.pkg.sec.phase = 3 ∧ t.pkg.pwr.domOn = s.pkg.pwr.domEn ∧ t.pkg.sec.recovered = true ∧ t.work.indexes = [] ∧
         t.work.fenceHist = [] ∧ t.tier.withheld = s.err.retired ∧
       (∀ r k : Nat, r < 8 → k < 16 →
           (t.cl (r * 16 + k)).phys = (if bitOf s.pkg.pwr.domEn (2 + r) then r * 17 + k else 0xFF) ∧
           (t.cl (r * 16 + k)).st = (if bitOf s.pkg.pwr.domEn (2 + r) then ClState.idle else ClState.unavailable)) ∧
       (∀ r : Nat, r < 8 → bitOf s.pkg.pwr.domEn (2 + r) = true →
           tget? t.work.phys (r * 17 + 16) = some PhysState.spare) ∧
       (∀ k : Nat, k < 8 →
           (tget? t.work.nbs k).map (fun (n : NbStack) => n.on) = some (bitOf s.pkg.pwr.domEn (10 + k))) ∧
       (∀ (kv : Nat × W64) (i : Nat), kv ∈ s.tier.prange → flag kv.2 31 = true → i < fld kv.2 57 32 →
           tget? t.tier.home (fld kv.2 24 0 + i) = some ⟨.home, 3, fld kv.2 24 0 + i⟩) ∧
       (s.err.fault = false ∧ s.pkg.sec.stop ≠ .stopped ∧ s.pkg.sec.testOpen = false ∧ s.pkg.pwr.inReset = false →
           t.mbr.lastHello = s.now))
  ∧ (∀ (s : State) (via : Option (Fin 64)) (data : HostRead),
     mayMbx s via = false →
     Machine.exec (.writeStarter via data) s = .next (s))
  ∧ (∀ (s : State) (via : Option (Fin 64)),
     mayMbx s via = true →
     Machine.exec (.writeStarter via .failed) s = .next ({ s with
           pkg.sec := { s.pkg.sec with
               mbxState := 2, mbxResult := 5,
               mbxCtl := if via.isSome then mkReg [(48, 1), (0, fld s.pkg.sec.mbxCtl 22 0 % 2 ^ 23)] else
                 s.pkg.sec.mbxCtl } }))
  ∧ (∀ (s : State) (via : Option (Fin 64)) (bs : List Byte),
     mayMbx s via = true →
     ∃ t, Machine.exec (.writeStarter via (.ok bs)) s = .next t ∧
       (imgCheck bs ≠ 0 →
           t = { s with
             pkg.sec := { s.pkg.sec with
                 mbxState := 2, mbxResult := imgCheck bs,
                 mbxCtl := if via.isSome then mkReg [(48, 1), (0, bs.length % 2 ^ 23)] else s.pkg.sec.mbxCtl } }) ∧
       (imgCheck bs = 0 →
           t = { s with
             pkg.sec := { s.pkg.sec with
                 slotA := if s.pkg.sec.slot = 0 then { s.pkg.sec.slotA with
                     valid := s.pkg.sec.slotA.valid && s.pkg.sec.dirOk } else
                   { seq := s.pkg.sec.seq + 1, valid := true, image := bs.take (getLE bs 8 4) },
                 slotB := if s.pkg.sec.slot = 0 then { seq := s.pkg.sec.seq + 1, valid := true,
                                                       image := bs.take (getLE bs 8 4) } else { s.pkg.sec.slotB with
                     valid := s.pkg.sec.slotB.valid && s.pkg.sec.dirOk }, dirOk := true, mbxState := 2,
                 mbxResult := 0,
                 mbxCtl := if via.isSome then mkReg [(48, 1), (0, bs.length % 2 ^ 23)] else s.pkg.sec.mbxCtl } }))
  ∧ (∀ (s : State) (via : Option (Fin 64)) (data : HostRead),
     mayMbx s via = false →
     Machine.exec (.unlock via data) s = .next (s))
  ∧ (∀ (s : State) (via : Option (Fin 64)),
     mayMbx s via = true →
     Machine.exec (.unlock via .failed) s = .next ({ s with
           pkg.sec := { s.pkg.sec with
               mbxState := 2, mbxResult := 5,
               mbxCtl := if via.isSome then mkReg [(48, 2), (0, fld s.pkg.sec.mbxCtl 22 0 % 2 ^ 23)] else
                 s.pkg.sec.mbxCtl } }))
  ∧ (∀ (s : State) (via : Option (Fin 64)) (bs : List Byte),
     mayMbx s via = true →
     ∃ t, Machine.exec (.unlock via (.ok bs)) s = .next t ∧
       t.pkg.sec.mbxState = 2 ∧ t.pkg.sec.mbxResult = tokenCheck s bs ∧
       (tokenCheck s bs ≠ 0 →
           t = { s with
             pkg.sec := { s.pkg.sec with
                 mbxState := 2, mbxResult := tokenCheck s bs,
                 mbxCtl := if via.isSome then mkReg [(48, 2), (0, bs.length % 2 ^ 23)] else s.pkg.sec.mbxCtl } }) ∧
       (tokenCheck s bs = 0 →
           t.pkg.sec.id = .zeroised ∧ t.pkg.sec.testOpen = true ∧ t.pkg.sec.secret = [] ∧
           (∀ kv ∈ t.pkg.sec.spdm, kv.2.sess = [] ∧ kv.2.ide = [] ∧ kv.2.ideOn = []) ∧
           (∀ x ∈ s.tier.sealed, ∀ i : Nat, i < x.2.2 → (t.home (x.2.1 + i)).st = .poisoned)))
  ∧ (∀ (s : State) (via : Option (Fin 64)),
     mayMbx s via = false →
     Machine.exec (.enroll via) s = .next (s))
  ∧ (∀ (s : State) (via : Option (Fin 64)),
     mayMbx s via = true → s.pkg.sec.id = .none_ ∧ s.pkg.sec.healthy = true →
     Machine.exec (.enroll via) s = .next (let k := Config.randomBytes s.freeCtr 32
                                           let key := Config.p521Public (privKey k)
                                           { s with
                                               freeCtr := s.freeCtr + 2,
                                               pkg.sec := { s.pkg.sec with
                                                   secret := k, idKey := key, idDig := Config.sha512 key,
                                                   id := .uncertified,
                                                   helper := Config.randomBytes (s.freeCtr + 1) 65536, cert := [],
                                                   mbxState := 2, mbxResult := 0,
                                                   mbxCtl := if via.isSome then mkReg [(48, 3), (0, 0 % 2 ^ 23)]
                                                     else s.pkg.sec.mbxCtl } }))
  ∧ (∀ (s : State) (via : Option (Fin 64)),
     mayMbx s via = true → s.pkg.sec.id ≠ .none_ ∨ s.pkg.sec.healthy = false →
     Machine.exec (.enroll via) s = .next ({ s with
           pkg.sec := { s.pkg.sec with
               mbxState := 2, mbxResult := 8,
               mbxCtl := if via.isSome then mkReg [(48, 3), (0, 0 % 2 ^ 23)] else s.pkg.sec.mbxCtl } }))
  ∧ (∀ (s : State) (via : Option (Fin 64)),
     mayMbx s via = false ∨ running s = false ∨ (s.pkg.sec.stop = .stopping ∧ stopReady s = false) →
     Machine.exec (.orderlyStop via) s = .next (s))
  ∧ (∀ (s : State) (via : Option (Fin 64)),
     mayMbx s via = true ∧ running s = true ∧ s.pkg.sec.stop = .running → s.host.cmds ≠ [] ∨ s.work.queries ≠ [] →
     Machine.exec (.orderlyStop via) s = .next ({ s with
           pkg.sec := { s.pkg.sec with stop := .stopping, stopEpoch := epochOf s s.now } }))
  ∧ (∀ (s : State) (via : Option (Fin 64)),
     mayMbx s via = true ∧ running s = true ∧ s.pkg.sec.stop = .running →
     s.host.cmds = [] ∧ s.work.queries = [] ∧ s.pkg.sec.epochs = false →
     ∃ t, Machine.exec (.orderlyStop via) s = .next t ∧
       t.pkg.sec.stop = .stopped ∧ t.pkg.pwr.domOn = 1 ∧ t.host.portA.up = false ∧ t.host.portB.up = false ∧
       (∀ k : Nat, k < 32 → (t.port k).st = .down) ∧
       (∀ k : Nat, (s.pkg.sec.parts.map (fun (kv : Nat × PartEnt) => kv.1)).contains k = true →
           tget? t.epo.durable k = some s.epo.closed) ∧
       (∀ (k : Nat) (h : Home), tget? s.tier.home k = some h → flashBacked s k = true → h.tier ≠ 3 →
           h.st ≠ .unmapped → tget? t.tier.home k = some ⟨.home, 3, k⟩) ∧
       t.flash.ckptSeq = t.flash.wseq ∧ t.err.fault = s.err.fault)

/-- While the responder does not listen on a path no message there changes anything. Outside sessions, a wrong code,
version or order is answered by an error and changes nothing else; GET_VERSION starts the connection anew;
capabilities and algorithms are fixed as R430 lists them; digests and certificate give slot 0, empty while
UNCERTIFIED; CHALLENGE, a signed GET_MEASUREMENTS and KEY_EXCHANGE sign the transcript with the identity key, and
answer Unspecified without an identity. A quote lists in block 4 only the admitted plans of the function's partition,
or all through the owner or MCTP. FINISH with the right verify data opens the session, KEY_UPDATE makes new keys,
HEARTBEAT answers, END_SESSION removes the session, and IDE_KM sets, starts and stops keys inside an open session.
Message layouts, capability bits, error codes and the answer to an unsigned request are presumed, after the protocol
the spec names; random bytes are free values. -/
def Obligations.ResponderAttestsAndKeysSessions : Prop :=
  (∀ (s : State) (p : SpdmPath) (req : List Byte) (c : Instr),
   spOpen s p = false →
   c ∈ ([.spdmGetVersion p req, .spdmGetCapabilities p req, .spdmNegotiateAlgorithms p req, .spdmGetDigests p req,
         .spdmGetCertificate p req, .spdmChallenge p req, .spdmGetMeasurements p req, .spdmKeyExchange p req,
         .spdmFinish p req, .spdmKeyUpdate p req, .spdmHeartbeat p req, .spdmEndSession p req, .ideKm p req] : List
       Instr) →
   Machine.exec (c) s = .next (s))
  ∧ (∀ (s : State) (p : SpdmPath) (req : List Byte) (x : Instr × Nat × Nat),
     spOpen s p = true →
     x ∈ (([(.spdmGetVersion p req, 0x84, 0), (.spdmGetCapabilities p req, 0xE1, 1),
             (.spdmNegotiateAlgorithms p req, 0xE3, 2), (.spdmGetDigests p req, 0x81, 3),
             (.spdmGetCertificate p req, 0x82, 3), (.spdmChallenge p req, 0x83, 3),
             (.spdmGetMeasurements p req, 0xE0, 3), (.spdmKeyExchange p req, 0xE4, 3)] : List (Instr × Nat × Nat))) →
     getLE req 1 1 ≠ x.2.1 ∨ (x.2.1 ≠ 0x84 ∧ getLE req 0 1 ≠ 0x13) ∨ (s.conn p).phase < x.2.2 →
     Machine.exec (x.1) s = .next (s.emit (.spdm p (spError (if getLE req 1 1 ≠ x.2.1 then 0x01 else if x.2.1 ≠ 0x84 ∧
               getLE req 0 1 ≠ 0x13 then 0x41 else 0x04)))))
  ∧ (∀ (s : State) (p : SpdmPath) (req : List Byte) (c : Instr),
     spOpen s p = true →
     c ∈ ([.spdmFinish p req, .spdmKeyUpdate p req, .spdmHeartbeat p req, .spdmEndSession p req, .ideKm p req] :
         List Instr) →
     (∀ x ∈ (s.conn p).sess, x.id ≠ getLE req 0 4) →
     Machine.exec (c) s = .next (s.emit (.spdm p (spError 0x0B))))
  ∧ (∀ (s : State) (p : SpdmPath) (req : List Byte),
     spOpen s p = true → getLE req 1 1 = 0x84 →
     Machine.exec (.spdmGetVersion p req) s = .next (let resp : List Byte := [0x10, 0x04, 0, 0, 0, 1, 0, 0x13]
                                                     (s.setConn p { s.conn p with
                                                           phase := 1, sess := [], transcript := req ++ resp }).emit
                                                       (.spdm p resp)))
  ∧ (∀ (s : State) (p : SpdmPath) (req : List Byte),
     spOpen s p = true → getLE req 1 1 = 0xE1 ∧ getLE req 0 1 = 0x13 ∧ 1 ≤ (s.conn p).phase →
     Machine.exec (.spdmGetCapabilities p req) s = .next (let r := slice (Config.randomBytes s.freeCtr 9) 0 9
                                                          let resp : List Byte := [0x13, 0x61, 0, 0, 0] ++ r.take 1
                                                            ++ [0, 0] ++ leBytes 4 0x62D6 ++ r.drop 1
                                                          (({ s with freeCtr := s.freeCtr + 1 }).setConn p { s.conn
                                                                p with
                                                                phase := 2,
                                                                transcript := (s.conn p).transcript ++ req ++ resp }).emit
                                                            (.spdm p resp)))
  ∧ (∀ (s : State) (p : SpdmPath) (req : List Byte),
     spOpen s p = true → getLE req 1 1 = 0xE3 ∧ getLE req 0 1 = 0x13 ∧ 2 ≤ (s.conn p).phase →
     Machine.exec (.spdmNegotiateAlgorithms p req) s = .next (let resp : List Byte := [0x13, 0x63, 4, 0, 52, 0] ++
                                                                leBytes 1 (if bitOf (getLE req 6 1) 0 then 1 else 0)
                                                                ++ [0, 8, 0, 0, 0] ++ leBytes 4
                                                                (if bitOf (getLE req 8 4) 8 then 256 else 0) ++
                                                                leBytes 4
                                                                (if bitOf (getLE req 12 4) 2 then 4 else 0) ++
                                                                leBytes 16 0 ++ [2, 0x20] ++ leBytes 2
                                                                (if bitOf (offered req 2) 5 then 32 else 0) ++
                                                                [3, 0x20] ++ leBytes 2
                                                                (if bitOf (offered req 3) 1 then 2 else 0) ++
                                                                [4, 0x20, 0, 0, 5, 0x20] ++ leBytes 2
                                                                (if bitOf (offered req 5) 0 then 1 else 0)
                                                              ((s).setConn p { s.conn p with
                                                                    phase := 3,
                                                                    transcript := (s.conn p).transcript ++ req ++
                                                                      resp }).emit (.spdm p resp)))
  ∧ (∀ (s : State) (p : SpdmPath) (req : List Byte),
     spOpen s p = true → getLE req 1 1 = 0x81 ∧ getLE req 0 1 = 0x13 ∧ 3 ≤ (s.conn p).phase →
     Machine.exec (.spdmGetDigests p req) s = .next (let resp : List Byte := if certChain s = [] then
                                                       [0x13, 0x01, 0, 0] else [0x13, 0x01, 1, 1] ++ digestBytes
                                                       (Config.sha512 (certChain s))
                                                     ((s).setConn p { s.conn p with
                                                           transcript := (s.conn p).transcript ++ req ++ resp }).emit
                                                       (.spdm p resp)))
  ∧ (∀ (s : State) (p : SpdmPath) (req : List Byte),
     spOpen s p = true → getLE req 1 1 = 0x82 ∧ getLE req 0 1 = 0x13 ∧ 3 ≤ (s.conn p).phase →
     getLE req 2 1 % 16 = 0 ∧ getLE req 4 2 < (certChain s).length →
     Machine.exec (.spdmGetCertificate p req) s = .next (let part : List Byte :=
                                                           ((certChain s).drop (getLE req 4 2)).take (getLE req 6 2)
                                                         let resp : List Byte := [0x13, 0x02, 0, 0] ++ leBytes 2
                                                           part.length ++ leBytes 2
                                                           ((certChain s).length - getLE req 4 2 - part.length) ++
                                                           part
                                                         ((s).setConn p { s.conn p with
                                                               transcript := (s.conn p).transcript ++ req ++ resp }).emit
                                                           (.spdm p resp)))
  ∧ (∀ (s : State) (p : SpdmPath) (req : List Byte),
     spOpen s p = true → getLE req 1 1 = 0x82 ∧ getLE req 0 1 = 0x13 ∧ 3 ≤ (s.conn p).phase →
     getLE req 2 1 % 16 ≠ 0 ∨ (certChain s).length ≤ getLE req 4 2 →
     Machine.exec (.spdmGetCertificate p req) s = .next (s.emit (.spdm p (spError 0x01))))
  ∧ (∀ (s : State) (p : SpdmPath) (req : List Byte),
     spOpen s p = true → getLE req 1 1 = 0x83 ∧ getLE req 0 1 = 0x13 ∧ 3 ≤ (s.conn p).phase →
     s.pkg.sec.id = .ok ∨ s.pkg.sec.id = .uncertified →
     Machine.exec (.spdmChallenge p req) s = .next (let body : List Byte := [0x13, 0x03, 0] ++ leBytes 1
                                                      (slotMask s) ++ digestBytes (Config.sha512 (certChain s)) ++
                                                      slice (Config.randomBytes s.freeCtr 32) 0 32 ++ measSummary s
                                                      p (getLE req 3 1) ++ [0, 0] ++ slice req 36 8
                                                    let resp : List Byte := body ++ slice (Config.p521Sign
                                                        (privKey s.pkg.sec.secret)
                                                        ((s.conn p).transcript ++ req ++ body)) 0 132
                                                    (({ s with freeCtr := s.freeCtr + 1 }).setConn p { s.conn p with
                                                          transcript := (s.conn p).transcript ++ req ++ resp }).emit
                                                      (.spdm p resp)))
  ∧ (∀ (s : State) (p : SpdmPath) (req : List Byte),
     spOpen s p = true → getLE req 1 1 = 0x83 ∧ getLE req 0 1 = 0x13 ∧ 3 ≤ (s.conn p).phase →
     s.pkg.sec.id = .none_ ∨ s.pkg.sec.id = .zeroised →
     Machine.exec (.spdmChallenge p req) s = .next (s.emit (.spdm p (spError 0x05))))
  ∧ (∀ (s : State) (p : SpdmPath) (req : List Byte) (is : List Nat),
     spOpen s p = true → getLE req 1 1 = 0xE0 ∧ getLE req 0 1 = 0x13 ∧ 3 ≤ (s.conn p).phase →
     measIndices (getLE req 3 1) = some is → bitOf (getLE req 2 1) 0 = true →
     s.pkg.sec.id = .ok ∨ s.pkg.sec.id = .uncertified →
     Machine.exec (.spdmGetMeasurements p req) s = .next (let blocks : List Byte := is.flatMap (measBlock s p)
                                                          let body : List Byte :=
                                                            [0x13, 0x60, if is.isEmpty then 6 else 0, 0] ++ leBytes
                                                            1 is.length ++ leBytes 3 blocks.length ++ blocks ++
                                                            slice (Config.randomBytes s.freeCtr 32) 0 32 ++ [0, 0]
                                                            ++ slice req 37 8
                                                          let resp : List Byte := body ++ slice (Config.p521Sign
                                                              (privKey s.pkg.sec.secret)
                                                              ((s.conn p).transcript ++ req ++ body)) 0 132
                                                          (({ s with freeCtr := s.freeCtr + 1 }).setConn p { s.conn
                                                                p with
                                                                transcript := (s.conn p).transcript ++ req ++ resp }).emit
                                                            (.spdm p resp)))
  ∧ (∀ (s : State) (p : SpdmPath) (req : List Byte) (is : List Nat),
     spOpen s p = true → getLE req 1 1 = 0xE0 ∧ getLE req 0 1 = 0x13 ∧ 3 ≤ (s.conn p).phase →
     measIndices (getLE req 3 1) = some is → bitOf (getLE req 2 1) 0 = false →
     Machine.exec (.spdmGetMeasurements p req) s = .next (let blocks : List Byte := is.flatMap (measBlock s p)
                                                          let resp : List Byte :=
                                                            [0x13, 0x60, if is.isEmpty then 6 else 0, 0] ++ leBytes
                                                            1 is.length ++ leBytes 3 blocks.length ++ blocks ++
                                                            slice (Config.randomBytes s.freeCtr 32) 0 32 ++ [0, 0]
                                                            ++ slice req 4 8
                                                          (({ s with freeCtr := s.freeCtr + 1 }).setConn p { s.conn
                                                                p with
                                                                transcript := (s.conn p).transcript ++ req ++ resp }).emit
                                                            (.spdm p resp)))
  ∧ (∀ (s : State) (p : SpdmPath) (req : List Byte),
     spOpen s p = true → getLE req 1 1 = 0xE0 ∧ getLE req 0 1 = 0x13 ∧ 3 ≤ (s.conn p).phase →
     measIndices (getLE req 3 1) ≠ none ∧ bitOf (getLE req 2 1) 0 = true ∧
       (s.pkg.sec.id = .none_ ∨ s.pkg.sec.id = .zeroised) →
     Machine.exec (.spdmGetMeasurements p req) s = .next (s.emit (.spdm p (spError 0x05))))
  ∧ (∀ (s : State) (p : SpdmPath) (req : List Byte),
     spOpen s p = true → getLE req 1 1 = 0xE0 ∧ getLE req 0 1 = 0x13 ∧ 3 ≤ (s.conn p).phase →
     measIndices (getLE req 3 1) = none →
     Machine.exec (.spdmGetMeasurements p req) s = .next (s.emit (.spdm p (spError 0x01))))
  ∧ (∀ (s : State) (f : Fin 64),
     (∀ kv, kv ∈ quotePlans s (.doe f) ↔ kv ∈ s.work.plans ∧ kv.2.state = .admitted ∧
           ((s.fn f.val).owner = true ∨ kv.2.part = (s.fn f.val).part)) ∧
       (∀ kv, kv ∈ quotePlans s .mctp ↔ kv ∈ s.work.plans ∧ kv.2.state = .admitted))
  ∧ (∀ (s : State) (p : SpdmPath) (req : List Byte),
     spOpen s p = true → getLE req 1 1 = 0xE4 ∧ getLE req 0 1 = 0x13 ∧ 3 ≤ (s.conn p).phase →
     s.pkg.sec.id = .ok ∨ s.pkg.sec.id = .uncertified →
     Machine.exec (.spdmKeyExchange p req) s = .next (let sid : Nat := getLE req 4 2 + 65536 * (s.conn p).nextId
                                                      let body : List Byte := [0x13, 0x64, 0, 0] ++ leBytes 2
                                                        (s.conn p).nextId ++ [0, 0] ++ slice
                                                        (Config.randomBytes s.freeCtr 164) 0 164 ++ measSummary s p
                                                        (getLE req 2 1) ++ [0, 0]
                                                      let sig : List Byte := body ++ slice (Config.p521Sign
                                                          (privKey s.pkg.sec.secret)
                                                          ((s.conn p).transcript ++ req ++ body)) 0 132
                                                      let resp : List Byte := sig ++ slice
                                                        (Config.spdmKeys ((s.conn p).transcript ++ req ++ sig)) 0 64
                                                      (({ s with freeCtr := s.freeCtr + 1 }).setConn p { s.conn p with
                                                            sess := (s.conn p).sess ++
                                                              [({ id := sid, open_ := false } : SpdmSess)],
                                                            nextId := (s.conn p).nextId + 1,
                                                            transcript := (s.conn p).transcript ++ req ++ resp }).emit
                                                        (.spdm p resp)))
  ∧ (∀ (s : State) (p : SpdmPath) (req : List Byte),
     spOpen s p = true → getLE req 1 1 = 0xE4 ∧ getLE req 0 1 = 0x13 ∧ 3 ≤ (s.conn p).phase →
     s.pkg.sec.id = .none_ ∨ s.pkg.sec.id = .zeroised →
     Machine.exec (.spdmKeyExchange p req) s = .next (s.emit (.spdm p (spError 0x05))))
  ∧ (∀ (s : State) (p : SpdmPath) (req : List Byte) (x : SpdmSess),
     spOpen s p = true → (s.conn p).sess.find? (fun (y : SpdmSess) => y.id == getLE req 0 4) = some x →
     Machine.exec (.spdmFinish p req) s = .next (let k : Nat := (req.drop 4).length - 64
                                                 let good : Bool := getLE (req.drop 4) 1 1 == 0xE5 && !x.open_ &&
                                                   (req.drop 4).drop k == slice (Config.spdmKeys
                                                     ((s.conn p).transcript ++ (req.drop 4).take k)) 0 64
                                                 if good then (s.setConn p { s.conn p with
                                                       transcript := (s.conn p).transcript ++ (req.drop 4),
                                                       sess := (s.conn p).sess.map (fun (y : SpdmSess) => if y.id =
                                                           x.id then { x with open_ := true } else y) }).emit
                                                   (.spdm p (leBytes 4 x.id ++ [0x13, 0x65, 0, 0])) else
                                                   (s.setConn p (s.conn p)).emit
                                                   (.spdm p (leBytes 4 x.id ++ spError 0x01))))
  ∧ (∀ (s : State) (p : SpdmPath) (req : List Byte) (x : SpdmSess),
     spOpen s p = true → (s.conn p).sess.find? (fun (y : SpdmSess) => y.id == getLE req 0 4) = some x →
     getLE (req.drop 4) 1 1 = 0xE9 ∧ x.open_ = true ∧ 1 ≤ getLE (req.drop 4) 2 1 ∧ getLE (req.drop 4) 2 1 ≤ 3 →
     Machine.exec (.spdmKeyUpdate p req) s = .next ((s.setConn p { s.conn p with
             sess := (s.conn p).sess.map (fun (y : SpdmSess) => if y.id = x.id then { x with
                   keyGen := if getLE (req.drop 4) 2 1 = 3 then x.keyGen else x.keyGen + 1 } else y) }).emit
         (.spdm p (leBytes 4 x.id ++ spHead 0x69 (getLE (req.drop 4) 2 1) (getLE (req.drop 4) 3 1)))))
  ∧ (∀ (s : State) (p : SpdmPath) (req : List Byte) (x : SpdmSess),
     spOpen s p = true → (s.conn p).sess.find? (fun (y : SpdmSess) => y.id == getLE req 0 4) = some x →
     getLE (req.drop 4) 1 1 = 0xE8 ∧ x.open_ = true →
     Machine.exec (.spdmHeartbeat p req) s = .next ((s.setConn p (s.conn p)).emit
         (.spdm p (leBytes 4 x.id ++ [0x13, 0x68, 0, 0]))))
  ∧ (∀ (s : State) (p : SpdmPath) (req : List Byte) (x : SpdmSess),
     spOpen s p = true → (s.conn p).sess.find? (fun (y : SpdmSess) => y.id == getLE req 0 4) = some x →
     getLE (req.drop 4) 1 1 = 0xEC ∧ x.open_ = true →
     Machine.exec (.spdmEndSession p req) s = .next ((s.setConn p { s.conn p with
             sess := (s.conn p).sess.filter (fun (y : SpdmSess) => y.id != x.id) }).emit
         (.spdm p (leBytes 4 x.id ++ [0x13, 0x6C, 0, 0]))))
  ∧ (∀ (s : State) (p : SpdmPath) (req : List Byte) (x : SpdmSess),
     spOpen s p = true → (s.conn p).sess.find? (fun (y : SpdmSess) => y.id == getLE req 0 4) = some x →
     getLE (req.drop 4) 1 1 ≠ 0xE9 ∨ x.open_ = false ∨ getLE (req.drop 4) 2 1 = 0 ∨ 3 < getLE (req.drop 4) 2 1 →
     Machine.exec (.spdmKeyUpdate p req) s = .next ((s.setConn p (s.conn p)).emit
         (.spdm p (leBytes 4 x.id ++ spError 0x01))))
  ∧ (∀ (s : State) (p : SpdmPath) (req : List Byte) (x : SpdmSess),
     spOpen s p = true → (s.conn p).sess.find? (fun (y : SpdmSess) => y.id == getLE req 0 4) = some x →
     getLE (req.drop 4) 1 1 ≠ 0xE8 ∨ x.open_ = false →
     Machine.exec (.spdmHeartbeat p req) s = .next ((s.setConn p (s.conn p)).emit
         (.spdm p (leBytes 4 x.id ++ spError 0x01))))
  ∧ (∀ (s : State) (p : SpdmPath) (req : List Byte) (x : SpdmSess),
     spOpen s p = true → (s.conn p).sess.find? (fun (y : SpdmSess) => y.id == getLE req 0 4) = some x →
     getLE (req.drop 4) 1 1 ≠ 0xEC ∨ x.open_ = false →
     Machine.exec (.spdmEndSession p req) s = .next ((s.setConn p (s.conn p)).emit
         (.spdm p (leBytes 4 x.id ++ spError 0x01))))
  ∧ (∀ (s : State) (p : SpdmPath) (req : List Byte) (x : SpdmSess),
     spOpen s p = true → (s.conn p).sess.find? (fun (y : SpdmSess) => y.id == getLE req 0 4) = some x →
     x.open_ = false ∨ getLE (req.drop 4) 0 1 ∉ [0, 2, 4, 6] →
     Machine.exec (.ideKm p req) s = .next ((s.setConn p (s.conn p)).emit (.spdm p (leBytes 4 x.id ++ spError 0x01))))
  ∧ (∀ (s : State) (p : SpdmPath) (req : List Byte) (x : SpdmSess),
     spOpen s p = true → (s.conn p).sess.find? (fun (y : SpdmSess) => y.id == getLE req 0 4) = some x →
     x.open_ = true ∧ getLE (req.drop 4) 0 1 = 0 →
     Machine.exec (.ideKm p req) s = .next ((s.setConn p (s.conn p)).emit (.spdm p
           (leBytes 4 x.id ++ ([1, 0] ++ slice (req.drop 4) 2 1)))))
  ∧ (∀ (s : State) (p : SpdmPath) (req : List Byte) (x : SpdmSess),
     spOpen s p = true → (s.conn p).sess.find? (fun (y : SpdmSess) => y.id == getLE req 0 4) = some x →
     x.open_ = true ∧ getLE (req.drop 4) 0 1 = 2 → 47 ≤ (req.drop 4).length →
     Machine.exec (.ideKm p req) s = .next ((s.setConn p { s.conn p with
             ide := tput (s.conn p).ide (getLE (req.drop 4) 3 1 * 256 + getLE (req.drop 4) 5 1)
               (((req.drop 4).drop 7).take 40) }).emit (.spdm p (leBytes 4 x.id ++ ([3, 0, 0] ++ slice (req.drop 4)
               3 1 ++ [0] ++ slice (req.drop 4) 5 1 ++ slice (req.drop 4) 6 1)))))
  ∧ (∀ (s : State) (p : SpdmPath) (req : List Byte) (x : SpdmSess),
     spOpen s p = true → (s.conn p).sess.find? (fun (y : SpdmSess) => y.id == getLE req 0 4) = some x →
     x.open_ = true ∧ getLE (req.drop 4) 0 1 = 2 → (req.drop 4).length < 47 →
     Machine.exec (.ideKm p req) s = .next ((s.setConn p (s.conn p)).emit (.spdm p (leBytes 4 x.id ++ ([3, 0, 0] ++
               slice (req.drop 4) 3 1 ++ [1] ++ slice (req.drop 4) 5 1 ++ slice (req.drop 4) 6 1)))))
  ∧ (∀ (s : State) (p : SpdmPath) (req : List Byte) (x : SpdmSess),
     spOpen s p = true → (s.conn p).sess.find? (fun (y : SpdmSess) => y.id == getLE req 0 4) = some x →
     x.open_ = true ∧ getLE (req.drop 4) 0 1 = 4 →
     Machine.exec (.ideKm p req) s = .next (if (tget? (s.conn p).ide
           (getLE (req.drop 4) 3 1 * 256 + getLE (req.drop 4) 5 1)).isSome then (s.setConn p { s.conn p with
             ideOn := tput (s.conn p).ideOn (getLE (req.drop 4) 3 1 * 256 + getLE (req.drop 4) 5 1) true }).emit
         (.spdm p (leBytes 4 x.id ++ ([5, 0, 0] ++ slice (req.drop 4) 3 1 ++ [0] ++ slice (req.drop 4) 5 1 ++ slice
               (req.drop 4) 6 1))) else (s.setConn p (s.conn p)).emit (.spdm p (leBytes 4 x.id ++ ([5, 0, 0] ++
               slice (req.drop 4) 3 1 ++ [0] ++ slice (req.drop 4) 5 1 ++ slice (req.drop 4) 6 1)))))
  ∧ (∀ (s : State) (p : SpdmPath) (req : List Byte) (x : SpdmSess),
     spOpen s p = true → (s.conn p).sess.find? (fun (y : SpdmSess) => y.id == getLE req 0 4) = some x →
     x.open_ = true ∧ getLE (req.drop 4) 0 1 = 6 →
     Machine.exec (.ideKm p req) s = .next ((s.setConn p { s.conn p with
             ideOn := terase (s.conn p).ideOn (getLE (req.drop 4) 3 1 * 256 + getLE (req.drop 4) 5 1) }).emit
         (.spdm p (leBytes 4 x.id ++ ([5, 0, 0] ++ slice (req.drop 4) 3 1 ++ [0] ++ slice (req.drop 4) 5 1 ++ slice
               (req.drop 4) 6 1)))))

/-- A fall of PG_MAIN, WRST_N, an undervoltage and the loss of REFCLK_CORE put a node that is not in reset into
reset: the time counter, test access, RGN_FENCE_HIST, NEXT_START injections, OVF bits, THERMTRIP_N, retired frames,
the NOR, flash and the update log stay, all else returns to reset, and LAST_RESET names the cause, or node fault. In
reset only the pin changes. PG_AON low loses what has no supply of its own; its rise begins a cold start with the
counter at 0, and the other releases begin a warm start once every input allows it. PERST takes the port down and its
functions to their reset configuration. The loss of a fabric clock takes every port of the edge die DOWN with REASON
6; D2D_LINK_FAIL is a node fault. Not moving the cause while in reset is the model's choice. -/
def Obligations.ResetsKeepWhatTheManualNames : Prop :=
  (∀ (s : State),
   s.pkg.pwr.pgMain = true → s.pkg.sec.phase ≠ 0 →
   ∃ t, Machine.exec (.pgMainFall) s = .next t ∧
     t.now = s.now ∧ t.pkg.sec.phase = 0 ∧ t.pkg.sec.cold = false ∧ t.pkg.sec.testOpen = s.pkg.sec.testOpen ∧
       t.pkg.sec.id = (if s.pkg.sec.testOpen then IdState.zeroised else IdState.none_) ∧
     t.pkg.pwr.lastReset = (if s.err.fault then 5 else 2) ∧ t.pkg.pwr.thermtripN = s.pkg.pwr.thermtripN ∧
       t.pkg.pwr.faultN = false ∧ t.pkg.pwr.inReset = true ∧ t.pkg.pwr.domOn = 1 ∧
     t.work.fenceHist = s.work.fenceHist ∧ t.work.plans = [] ∧ t.work.invs = [] ∧ t.work.queries = [] ∧
       t.work.indexes = [] ∧ t.work.tables = [] ∧ t.work.phys = [] ∧ t.work.nbs = [] ∧
     t.tier = {} ∧ t.fab = {} ∧ t.pkg.tim = {} ∧ t.pkg.clk = {} ∧ t.host.cmds = [] ∧ t.host.fns = [] ∧
       t.host.held = [] ∧ t.mbr.st = .alone ∧ t.mbr.gen = 0 ∧
     t.err.inj = s.err.inj.filter (fun (kv : Nat × InjReg) => kv.2.armed && kv.2.mode == 2) ∧ t.err.recs = [] ∧
       t.err.fault = false ∧ t.err.retired = s.err.retired ∧
     t.pmc.pctr = (s.pmc.pctr.filter (fun (kv : Nat × W64) => flag kv.2 48)).map
       (fun (kv : Nat × W64) => (kv.1, mkReg [(48, 1)])) ∧
     t.pkg.sec.slotA = s.pkg.sec.slotA ∧ t.pkg.sec.slotB = s.pkg.sec.slotB ∧ t.pkg.sec.helper = s.pkg.sec.helper ∧
       t.pkg.sec.cert = s.pkg.sec.cert ∧ t.pkg.sec.faultRecs = s.pkg.sec.faultRecs ∧ t.flash.mem = s.flash.mem ∧
       t.flash.map_ = s.flash.map_ ∧ t.epo.flashLog = s.epo.flashLog ∧ t.epo.durable = s.epo.durable ∧
       t.mbr.flashGen = s.mbr.flashGen ∧ t.mbr.flashJob = s.mbr.flashJob ∧ t.out = s.out ∧
     t.pkg.pwr.pgAon = s.pkg.pwr.pgAon ∧ t.pkg.pwr.pgMain = false ∧ t.pkg.pwr.wrst = s.pkg.pwr.wrst ∧
       t.pkg.pwr.clock = s.pkg.pwr.clock ∧ t.pkg.pwr.undervolt = false)
  ∧ (∀ (s : State),
     s.pkg.pwr.pgMain = true → s.pkg.sec.phase = 0 →
     Machine.exec (.pgMainFall) s = .next ({ s with
           pkg := { s.pkg with pwr := { s.pkg.pwr with pgMain := false, undervolt := false } } }))
  ∧ (∀ (s : State),
     s.pkg.pwr.pgMain = false →
     Machine.exec (.pgMainFall) s = .next (s))
  ∧ (∀ (s : State),
     s.pkg.sec.phase ≠ 0 →
     ∃ t, Machine.exec (.wrstAssert) s = .next t ∧
       t.now = s.now ∧ t.pkg.sec.phase = 0 ∧ t.pkg.sec.cold = false ∧ t.pkg.sec.testOpen = s.pkg.sec.testOpen ∧
         t.pkg.sec.id = (if s.pkg.sec.testOpen then IdState.zeroised else IdState.none_) ∧
       t.pkg.pwr.lastReset = (if s.err.fault then 5 else 1) ∧ t.pkg.pwr.thermtripN = s.pkg.pwr.thermtripN ∧
         t.pkg.pwr.faultN = false ∧ t.pkg.pwr.inReset = true ∧ t.pkg.pwr.domOn = 1 ∧
       t.work.fenceHist = s.work.fenceHist ∧ t.work.plans = [] ∧ t.work.invs = [] ∧ t.work.queries = [] ∧
         t.work.indexes = [] ∧ t.work.tables = [] ∧ t.work.phys = [] ∧ t.work.nbs = [] ∧
       t.tier = {} ∧ t.fab = {} ∧ t.pkg.tim = {} ∧ t.pkg.clk = {} ∧ t.host.cmds = [] ∧ t.host.fns = [] ∧
         t.host.held = [] ∧ t.mbr.st = .alone ∧ t.mbr.gen = 0 ∧
       t.err.inj = s.err.inj.filter (fun (kv : Nat × InjReg) => kv.2.armed && kv.2.mode == 2) ∧ t.err.recs = [] ∧
         t.err.fault = false ∧ t.err.retired = s.err.retired ∧
       t.pmc.pctr = (s.pmc.pctr.filter (fun (kv : Nat × W64) => flag kv.2 48)).map
         (fun (kv : Nat × W64) => (kv.1, mkReg [(48, 1)])) ∧
       t.pkg.sec.slotA = s.pkg.sec.slotA ∧ t.pkg.sec.slotB = s.pkg.sec.slotB ∧
         t.pkg.sec.helper = s.pkg.sec.helper ∧ t.pkg.sec.cert = s.pkg.sec.cert ∧
         t.pkg.sec.faultRecs = s.pkg.sec.faultRecs ∧ t.flash.mem = s.flash.mem ∧ t.flash.map_ = s.flash.map_ ∧
         t.epo.flashLog = s.epo.flashLog ∧ t.epo.durable = s.epo.durable ∧ t.mbr.flashGen = s.mbr.flashGen ∧
         t.mbr.flashJob = s.mbr.flashJob ∧ t.out = s.out ∧
       t.pkg.pwr.pgAon = s.pkg.pwr.pgAon ∧ t.pkg.pwr.pgMain = s.pkg.pwr.pgMain ∧ t.pkg.pwr.wrst = true ∧
         t.pkg.pwr.clock = s.pkg.pwr.clock ∧ t.pkg.pwr.undervolt = s.pkg.pwr.undervolt)
  ∧ (∀ (s : State),
     s.pkg.sec.phase = 0 →
     Machine.exec (.wrstAssert) s = .next ({ s with pkg := { s.pkg with pwr := { s.pkg.pwr with wrst := true } } }))
  ∧ (∀ (s : State),
     s.pkg.pwr.pgMain = true → s.pkg.sec.phase ≠ 0 →
     ∃ t, Machine.exec (.undervoltage) s = .next t ∧
       t.now = s.now ∧ t.pkg.sec.phase = 0 ∧ t.pkg.sec.cold = false ∧ t.pkg.sec.testOpen = s.pkg.sec.testOpen ∧
         t.pkg.sec.id = (if s.pkg.sec.testOpen then IdState.zeroised else IdState.none_) ∧
       t.pkg.pwr.lastReset = (if s.err.fault then 5 else 3) ∧ t.pkg.pwr.thermtripN = s.pkg.pwr.thermtripN ∧
         t.pkg.pwr.faultN = false ∧ t.pkg.pwr.inReset = true ∧ t.pkg.pwr.domOn = 1 ∧
       t.work.fenceHist = s.work.fenceHist ∧ t.work.plans = [] ∧ t.work.invs = [] ∧ t.work.queries = [] ∧
         t.work.indexes = [] ∧ t.work.tables = [] ∧ t.work.phys = [] ∧ t.work.nbs = [] ∧
       t.tier = {} ∧ t.fab = {} ∧ t.pkg.tim = {} ∧ t.pkg.clk = {} ∧ t.host.cmds = [] ∧ t.host.fns = [] ∧
         t.host.held = [] ∧ t.mbr.st = .alone ∧ t.mbr.gen = 0 ∧
       t.err.inj = s.err.inj.filter (fun (kv : Nat × InjReg) => kv.2.armed && kv.2.mode == 2) ∧ t.err.recs = [] ∧
         t.err.fault = false ∧ t.err.retired = s.err.retired ∧
       t.pmc.pctr = (s.pmc.pctr.filter (fun (kv : Nat × W64) => flag kv.2 48)).map
         (fun (kv : Nat × W64) => (kv.1, mkReg [(48, 1)])) ∧
       t.pkg.sec.slotA = s.pkg.sec.slotA ∧ t.pkg.sec.slotB = s.pkg.sec.slotB ∧
         t.pkg.sec.helper = s.pkg.sec.helper ∧ t.pkg.sec.cert = s.pkg.sec.cert ∧
         t.pkg.sec.faultRecs = s.pkg.sec.faultRecs ∧ t.flash.mem = s.flash.mem ∧ t.flash.map_ = s.flash.map_ ∧
         t.epo.flashLog = s.epo.flashLog ∧ t.epo.durable = s.epo.durable ∧ t.mbr.flashGen = s.mbr.flashGen ∧
         t.mbr.flashJob = s.mbr.flashJob ∧ t.out = s.out ∧
       t.pkg.pwr.pgAon = s.pkg.pwr.pgAon ∧ t.pkg.pwr.pgMain = s.pkg.pwr.pgMain ∧ t.pkg.pwr.wrst = s.pkg.pwr.wrst ∧
         t.pkg.pwr.clock = s.pkg.pwr.clock ∧ t.pkg.pwr.undervolt = true)
  ∧ (∀ (s : State),
     s.pkg.pwr.pgMain = true → s.pkg.sec.phase = 0 →
     Machine.exec (.undervoltage) s = .next ({ s with
           pkg := { s.pkg with pwr := { s.pkg.pwr with undervolt := true } } }))
  ∧ (∀ (s : State),
     s.pkg.pwr.pgMain = false →
     Machine.exec (.undervoltage) s = .next (s))
  ∧ (∀ (s : State),
     s.pkg.sec.phase ≠ 0 →
     ∃ t, Machine.exec (.coreClockLoss) s = .next t ∧
       t.now = s.now ∧ t.pkg.sec.phase = 0 ∧ t.pkg.sec.cold = false ∧ t.pkg.sec.testOpen = s.pkg.sec.testOpen ∧
         t.pkg.sec.id = (if s.pkg.sec.testOpen then IdState.zeroised else IdState.none_) ∧
       t.pkg.pwr.lastReset = (if s.err.fault then 5 else 4) ∧ t.pkg.pwr.thermtripN = s.pkg.pwr.thermtripN ∧
         t.pkg.pwr.faultN = false ∧ t.pkg.pwr.inReset = true ∧ t.pkg.pwr.domOn = 1 ∧
       t.work.fenceHist = s.work.fenceHist ∧ t.work.plans = [] ∧ t.work.invs = [] ∧ t.work.queries = [] ∧
         t.work.indexes = [] ∧ t.work.tables = [] ∧ t.work.phys = [] ∧ t.work.nbs = [] ∧
       t.tier = {} ∧ t.fab = {} ∧ t.pkg.tim = {} ∧ t.pkg.clk = {} ∧ t.host.cmds = [] ∧ t.host.fns = [] ∧
         t.host.held = [] ∧ t.mbr.st = .alone ∧ t.mbr.gen = 0 ∧
       t.err.inj = s.err.inj.filter (fun (kv : Nat × InjReg) => kv.2.armed && kv.2.mode == 2) ∧ t.err.recs = [] ∧
         t.err.fault = false ∧ t.err.retired = s.err.retired ∧
       t.pmc.pctr = (s.pmc.pctr.filter (fun (kv : Nat × W64) => flag kv.2 48)).map
         (fun (kv : Nat × W64) => (kv.1, mkReg [(48, 1)])) ∧
       t.pkg.sec.slotA = s.pkg.sec.slotA ∧ t.pkg.sec.slotB = s.pkg.sec.slotB ∧
         t.pkg.sec.helper = s.pkg.sec.helper ∧ t.pkg.sec.cert = s.pkg.sec.cert ∧
         t.pkg.sec.faultRecs = s.pkg.sec.faultRecs ∧ t.flash.mem = s.flash.mem ∧ t.flash.map_ = s.flash.map_ ∧
         t.epo.flashLog = s.epo.flashLog ∧ t.epo.durable = s.epo.durable ∧ t.mbr.flashGen = s.mbr.flashGen ∧
         t.mbr.flashJob = s.mbr.flashJob ∧ t.out = s.out ∧
       t.pkg.pwr.pgAon = s.pkg.pwr.pgAon ∧ t.pkg.pwr.pgMain = s.pkg.pwr.pgMain ∧ t.pkg.pwr.wrst = s.pkg.pwr.wrst ∧
         t.pkg.pwr.clock = false ∧ t.pkg.pwr.undervolt = s.pkg.pwr.undervolt)
  ∧ (∀ (s : State),
     s.pkg.sec.phase = 0 →
     Machine.exec (.coreClockLoss) s = .next ({ s with
           pkg := { s.pkg with pwr := { s.pkg.pwr with clock := false } } }))
  ∧ (∀ (s : State),
     ∃ t, Machine.exec (.pgAonFall) s = .next t ∧
       t.now = 0 ∧ t.pkg.sec.phase = 0 ∧ t.pkg.sec.testOpen = false ∧ t.pkg.pwr.lastReset = 0 ∧
         t.pkg.pwr.thermtripN = false ∧ t.pkg.pwr.faultN = false ∧ t.pmc = {} ∧ t.work = {} ∧ t.tier = {} ∧
         t.fab = {} ∧ t.err.inj = [] ∧ t.host.cmds = [] ∧
       t.pkg.sec.slotA = s.pkg.sec.slotA ∧ t.pkg.sec.slotB = s.pkg.sec.slotB ∧
         t.pkg.sec.helper = s.pkg.sec.helper ∧ t.pkg.sec.cert = s.pkg.sec.cert ∧
         t.pkg.sec.faultRecs = s.pkg.sec.faultRecs ∧ t.flash.mem = s.flash.mem ∧ t.flash.map_ = s.flash.map_ ∧
         t.epo.flashLog = s.epo.flashLog ∧ t.epo.durable = s.epo.durable ∧ t.mbr.flashGen = s.mbr.flashGen ∧
         t.mbr.flashJob = s.mbr.flashJob ∧ t.out = s.out ∧
       t.pkg.pwr.pgAon = false ∧ t.pkg.pwr.pgMain = s.pkg.pwr.pgMain ∧ t.pkg.pwr.wrst = s.pkg.pwr.wrst ∧
         t.pkg.pwr.clock = s.pkg.pwr.clock ∧ t.pkg.pwr.undervolt = s.pkg.pwr.undervolt)
  ∧ (∀ (s : State),
     s.pkg.pwr.pgAon = true →
     Machine.exec (.pgAonRise) s = .next (s))
  ∧ (∀ (s : State),
     s.pkg.pwr.pgAon = false → s.pkg.sec.phase = 0 →
     s.pkg.pwr.wrst = false ∧ s.pkg.pwr.clock = true ∧ s.pkg.pwr.undervolt = false →
     Machine.exec (.pgAonRise) s = .next ({ s with
           now := 0,
           pkg := { s.pkg with
               pwr := { s.pkg.pwr with pgAon := true }, sec := { s.pkg.sec with cold := true, phase := 1 } } }))
  ∧ (∀ (s : State),
     s.pkg.pwr.pgAon = false →
     s.pkg.sec.phase ≠ 0 ∨ s.pkg.pwr.wrst = true ∨ s.pkg.pwr.clock = false ∨ s.pkg.pwr.undervolt = true →
     Machine.exec (.pgAonRise) s = .next ({ s with
           now := 0,
           pkg := { s.pkg with pwr := { s.pkg.pwr with pgAon := true }, sec := { s.pkg.sec with cold := true } } }))
  ∧ (∀ (s : State),
     s.pkg.sec.phase = 0 →
     s.pkg.pwr.pgAon = true ∧ s.pkg.pwr.wrst = false ∧ s.pkg.pwr.clock = true ∧ s.pkg.pwr.undervolt = false →
     Machine.exec (.pgMainRise) s = .next ({ s with
           pkg := { s.pkg with pwr := { s.pkg.pwr with pgMain := true }, sec := { s.pkg.sec with phase := 1 } } }))
  ∧ (∀ (s : State),
     s.pkg.sec.phase ≠ 0 ∨ s.pkg.pwr.pgAon = false ∨ s.pkg.pwr.wrst = true ∨ s.pkg.pwr.clock = false ∨
       s.pkg.pwr.undervolt = true →
     Machine.exec (.pgMainRise) s = .next ({ s with pkg := { s.pkg with pwr := { s.pkg.pwr with pgMain := true } } }))
  ∧ (∀ (s : State),
     s.pkg.sec.phase = 0 →
     s.pkg.pwr.pgAon = true ∧ s.pkg.pwr.clock = true ∧ s.pkg.pwr.undervolt = false ∧
       (s.pkg.pwr.pgMain = true ∨ s.pkg.sec.cold = true) →
     Machine.exec (.wrstRelease) s = .next ({ s with
           pkg := { s.pkg with pwr := { s.pkg.pwr with wrst := false }, sec := { s.pkg.sec with phase := 1 } } }))
  ∧ (∀ (s : State),
     s.pkg.sec.phase ≠ 0 ∨ s.pkg.pwr.pgAon = false ∨ s.pkg.pwr.clock = false ∨ s.pkg.pwr.undervolt = true ∨
       (s.pkg.pwr.pgMain = false ∧ s.pkg.sec.cold = false) →
     Machine.exec (.wrstRelease) s = .next ({ s with pkg := { s.pkg with pwr := { s.pkg.pwr with wrst := false } } }))
  ∧ (∀ (s : State),
     s.pkg.sec.phase = 0 →
     s.pkg.pwr.pgAon = true ∧ s.pkg.pwr.wrst = false ∧ (s.pkg.pwr.pgMain = true ∨ s.pkg.sec.cold = true) →
     Machine.exec (.coreClockReturn) s = .next ({ s with
           pkg := { s.pkg with
               pwr := { s.pkg.pwr with clock := true, undervolt := false }, sec := { s.pkg.sec with phase := 1 } } }))
  ∧ (∀ (s : State),
     s.pkg.sec.phase ≠ 0 ∨ s.pkg.pwr.pgAon = false ∨ s.pkg.pwr.wrst = true ∨
       (s.pkg.pwr.pgMain = false ∧ s.pkg.sec.cold = false) →
     Machine.exec (.coreClockReturn) s = .next ({ s with
           pkg := { s.pkg with pwr := { s.pkg.pwr with clock := true, undervolt := false } } }))
  ∧ (∀ (s : State) (port : Fin 2) (f : Nat) (x : Fn),
     s.host.fns = [(f, x)] → f / 32 = port.val →
     ∃ t, Machine.exec (.perst port) s = .next t ∧
       t.host.portA = (if port.val = 0 then { s.host.portA with
             perst := true, up := false, downT := if s.host.portA.up then s.now else s.host.portA.downT } else
           s.host.portA) ∧
       t.host.portB = (if port.val = 0 then s.host.portB else { s.host.portB with
             perst := true, up := false, downT := if s.host.portB.up then s.now else s.host.portB.downT }) ∧
       t.host.fns = [(f, { x with
               roEn := false, ero := true, busMaster := false, gen := x.gen + 1, hlook := 0, dieLook := 0,
               aer := 0,
               queues := x.queues.map (fun (kv : Nat × Queue) => (kv.1, ({ enables := kv.2.enables } : Queue))) })] ∧
       t.host.cmds = s.host.cmds ∧ t.work = s.work ∧ t.tier = s.tier ∧ t.fab = s.fab ∧ t.pkg = s.pkg ∧ t.out = s.out)
  ∧ (∀ (s : State) (port : Fin 2),
     (∀ kv ∈ s.host.fns, kv.1 / 32 ≠ port.val) →
     ∃ t, Machine.exec (.perst port) s = .next t ∧
       t.host.fns = s.host.fns ∧
       t.host.portA = (if port.val = 0 then { s.host.portA with
             perst := true, up := false, downT := if s.host.portA.up then s.now else s.host.portA.downT } else
           s.host.portA) ∧
       t.host.portB = (if port.val = 0 then s.host.portB else { s.host.portB with
             perst := true, up := false, downT := if s.host.portB.up then s.now else s.host.portB.downT }))
  ∧ (∀ (s : State),
     Machine.exec (.perstRelease 0) s = .next ({ s with host.portA := { s.host.portA with perst := false } }))
  ∧ (∀ (s : State),
     Machine.exec (.perstRelease 1) s = .next ({ s with host.portB := { s.host.portB with perst := false } }))
  ∧ (∀ (s : State) (die : Fin 2),
     ∃ t, Machine.exec (.fabricClockLoss die) s = .next t ∧
       (∀ k : Nat, k < 16 →
           (t.port (die.val * 16 + k)).st = (if (s.port (die.val * 16 + k)).st = .disabled then PortState.disabled
             else PortState.down)) ∧
       (∀ k : Nat, k < 16 → (s.port (die.val * 16 + k)).st = .up → (t.port (die.val * 16 + k)).reason = 6) ∧
       (∀ k : Nat, k < 16 → (t.port (16 - die.val * 16 + k)).st = (s.port (16 - die.val * 16 + k)).st))
  ∧ (∀ (s : State),
     s.pkg.pwr.inReset = true →
     Machine.exec (.d2dLinkFail) s = .next (s))
  ∧ (∀ (s : State),
     s.pkg.pwr.inReset = false ∧ s.err.fault = false →
     ∃ t, Machine.exec (.d2dLinkFail) s = .next t ∧
       t.err.fault = true ∧ t.pkg.pwr.faultN = true ∧ t.pkg.pwr.domOn = 1 ∧ t.host.portA.up = false ∧
         t.host.portB.up = false ∧
       (∀ k : Fin 32, (t.port k.val).st = .down) ∧ t.work.invs = [] ∧ t.fab.reqs = [] ∧
       t.pkg.sec.faultRecs = s.pkg.sec.faultRecs)
  ∧ (∀ (s : State),
     s.pkg.pwr.inReset = false ∧ s.err.fault = true →
     Machine.exec (.d2dLinkFail) s = .next ({ s with
           pkg := { s.pkg with
               pwr := { s.pkg.pwr with
                   domOn := ofBits ((bitsSet 24 s.pkg.pwr.domOn).filter
                       (fun (b : Nat) => !(b == 19 || b == 21 || b == 23))) } } }))

/-- At the end of a 1 ms window the average is kept, and unless a sensor warns: above LIMIT the clock falls one step,
or CAP_FLOOR is set at MIN; after ten windows below LIMIT − HYST it rises one step up to MAX, at once where VDD_CD
suffices and otherwise when AVS_VOLTAGE_REACHED says so. A silent regulator sets AVS_ERR and leaves the clock.
THERMAL_SAMPLE sets each sensor: warning at its threshold and until 3 °C below it, with detector 0x0D on entry;
critical asserts THERMTRIP_N and is a node fault; outside −40 to 150 °C the sensor has failed and is ignored from
then on. THERMAL_STEP lowers the clock one step per ms of warning. BOARD_SENSOR_POLL keeps a temperature or absence
per slot. A node that does not run does none of this. Restarting the count of ten windows, and a silent regulator's
effect on a pending raise, are the model's choice. -/
def Obligations.PowerAndHeatGovernTheClock : Prop :=
  (∀ (s : State) (avg : Nat),
   running s = false ∨ s.now % 1000000 ≠ 0 ∨ s.pkg.pwr.lastWin = some s.now →
   Machine.exec (.powerWindowTick avg) s = .next (s))
  ∧ (∀ (s : State) (avg : Nat),
     running s = true → s.now % 1000000 = 0 ∧ s.pkg.pwr.lastWin ≠ some s.now → warning s = true →
     Machine.exec (.powerWindowTick avg) s = .next ({ s with
           pkg := { s.pkg with
               pwr := { s.pkg.pwr with
                   avgs := (avg :: s.pkg.pwr.avgs).take 10, lastWin := some s.now,
                   below := if avg + fld s.pkg.clk.limit 31 16 < fld s.pkg.clk.limit 15 0 then s.pkg.pwr.below + 1
                     else 0 } } }))
  ∧ (∀ (s : State) (avg : Nat),
     running s = true → s.now % 1000000 = 0 ∧ s.pkg.pwr.lastWin ≠ some s.now → warning s = false →
     fld s.pkg.clk.limit 15 0 < avg ∧ s.pkg.clk.tcur ≤ s.pkg.clk.tmin →
     Machine.exec (.powerWindowTick avg) s = .next ({ s with
           pkg := { s.pkg with
               pwr := { s.pkg.pwr with
                   avgs := (avg :: s.pkg.pwr.avgs).take 10, lastWin := some s.now, below := 0, capFloor := true } } }))
  ∧ (∀ (s : State) (avg : Nat),
     running s = true → s.now % 1000000 = 0 ∧ s.pkg.pwr.lastWin ≠ some s.now → warning s = false →
     fld s.pkg.clk.limit 15 0 < avg ∧ s.pkg.clk.tmin < s.pkg.clk.tcur → s.pkg.pwr.avsDead = [] →
     Machine.exec (.powerWindowTick avg) s = .next ({ s with
           pkg := { s.pkg with
               pwr := { s.pkg.pwr with avgs := (avg :: s.pkg.pwr.avgs).take 10, lastWin := some s.now, below := 0 },
               clk := { s.pkg.clk with
                   tcur := s.pkg.clk.tcur - 1, tcause := 1, vddcd := voltFor (s.pkg.clk.tcur - 1), raise := none } } }))
  ∧ (∀ (s : State) (avg : Nat),
     running s = true → s.now % 1000000 = 0 ∧ s.pkg.pwr.lastWin ≠ some s.now → warning s = false →
     fld s.pkg.clk.limit 15 0 < avg ∧ s.pkg.clk.tmin < s.pkg.clk.tcur → s.pkg.pwr.avsDead ≠ [] →
     Machine.exec (.powerWindowTick avg) s = .next ({ s with
           pkg := { s.pkg with
               pwr := { s.pkg.pwr with avgs := (avg :: s.pkg.pwr.avgs).take 10, lastWin := some s.now, below := 0 } } }))
  ∧ (∀ (s : State) (avg : Nat),
     running s = true → s.now % 1000000 = 0 ∧ s.pkg.pwr.lastWin ≠ some s.now → warning s = false →
     avg + fld s.pkg.clk.limit 31 16 < fld s.pkg.clk.limit 15 0 →
     9 ≤ s.pkg.pwr.below ∧ s.pkg.clk.tcur < s.pkg.clk.tmax ∧ s.pkg.pwr.avsDead = [] →
     voltFor (s.pkg.clk.tcur + 1) ≤ s.pkg.clk.vddcd ∧ s.pkg.clk.raise = none →
     Machine.exec (.powerWindowTick avg) s = .next ({ s with
           pkg := { s.pkg with
               pwr := { s.pkg.pwr with avgs := (avg :: s.pkg.pwr.avgs).take 10, lastWin := some s.now, below := 0 },
               clk := { s.pkg.clk with tcur := s.pkg.clk.tcur + 1, tcause := 1 } } }))
  ∧ (∀ (s : State) (avg : Nat),
     running s = true → s.now % 1000000 = 0 ∧ s.pkg.pwr.lastWin ≠ some s.now → warning s = false →
     avg + fld s.pkg.clk.limit 31 16 < fld s.pkg.clk.limit 15 0 →
     9 ≤ s.pkg.pwr.below ∧ s.pkg.clk.tcur < s.pkg.clk.tmax ∧ s.pkg.pwr.avsDead = [] →
     s.pkg.clk.vddcd < voltFor (s.pkg.clk.tcur + 1) ∨ s.pkg.clk.raise ≠ none →
     Machine.exec (.powerWindowTick avg) s = .next ({ s with
           pkg := { s.pkg with
               pwr := { s.pkg.pwr with avgs := (avg :: s.pkg.pwr.avgs).take 10, lastWin := some s.now, below := 0 },
               clk := { s.pkg.clk with
                   raise := some (s.pkg.clk.tcur + 1, 1),
                   vddcd := max s.pkg.clk.vddcd (voltFor (s.pkg.clk.tcur + 1)) } } }))
  ∧ (∀ (s : State) (avg : Nat),
     running s = true → s.now % 1000000 = 0 ∧ s.pkg.pwr.lastWin ≠ some s.now → warning s = false →
     avg + fld s.pkg.clk.limit 31 16 < fld s.pkg.clk.limit 15 0 →
     9 ≤ s.pkg.pwr.below ∧ (s.pkg.clk.tmax ≤ s.pkg.clk.tcur ∨ s.pkg.pwr.avsDead ≠ []) →
     Machine.exec (.powerWindowTick avg) s = .next ({ s with
           pkg := { s.pkg with
               pwr := { s.pkg.pwr with avgs := (avg :: s.pkg.pwr.avgs).take 10, lastWin := some s.now, below := 0 } } }))
  ∧ (∀ (s : State) (avg : Nat),
     running s = true → s.now % 1000000 = 0 ∧ s.pkg.pwr.lastWin ≠ some s.now → warning s = false →
     avg ≤ fld s.pkg.clk.limit 15 0 →
     ¬ (avg + fld s.pkg.clk.limit 31 16 < fld s.pkg.clk.limit 15 0) ∨ s.pkg.pwr.below < 9 →
     Machine.exec (.powerWindowTick avg) s = .next ({ s with
           pkg := { s.pkg with
               pwr := { s.pkg.pwr with
                   avgs := (avg :: s.pkg.pwr.avgs).take 10, lastWin := some s.now,
                   below := if avg + fld s.pkg.clk.limit 31 16 < fld s.pkg.clk.limit 15 0 then s.pkg.pwr.below + 1
                     else 0 } } }))
  ∧ (∀ (s : State) (reg : Fin 2) (ok : Bool) (v a : Nat),
     running s = false ∨ (ok = false ∧ s.now < tgetD s.pkg.pwr.avsT reg.val 0 + 1000000) →
     Machine.exec (.avsTelemetry reg ok v a) s = .next (s))
  ∧ (∀ (s : State) (reg : Fin 2) (v a : Nat),
     running s = true →
     Machine.exec (.avsTelemetry reg true v a) s = .next ({ s with
           pkg := { s.pkg with
               pwr := { s.pkg.pwr with
                   avsT := tput s.pkg.pwr.avsT reg.val s.now, volts := tput s.pkg.pwr.volts reg.val v,
                   amps := tput s.pkg.pwr.amps reg.val a, avsDead := terase s.pkg.pwr.avsDead reg.val } } }))
  ∧ (∀ (s : State) (reg : Fin 2) (v a : Nat),
     running s = true → tgetD s.pkg.pwr.avsT reg.val 0 + 1000000 ≤ s.now →
     Machine.exec (.avsTelemetry reg false v a) s = .next ({ s with
           pkg := { s.pkg with
               pwr := { s.pkg.pwr with avsErr := true, avsDead := tput s.pkg.pwr.avsDead reg.val true },
               clk := { s.pkg.clk with raise := none } } }))
  ∧ (∀ (s : State) (st c : Nat),
     s.pkg.clk.raise = some (st, c) →
     Machine.exec (.avsVoltageReached) s = .next ({ s with
           pkg := { s.pkg with clk := { s.pkg.clk with tcur := st, tcause := c, raise := none } } }))
  ∧ (∀ (s : State),
     s.pkg.clk.raise = none →
     Machine.exec (.avsVoltageReached) s = .next (s))
  ∧ (∀ (s : State) (l : List Int),
     running s = false →
     Machine.exec (.thermalSample l) s = .next (s))
  ∧ (∀ (s : State) (l : List Int),
     running s = true → s.err.inj = [] →
     (∀ j : Nat, j < 26 → ∀ v : Int, l[j]? = some v →
         (tgetD s.pkg.pwr.tsens j {}).st = 3 ∨ (-640 ≤ v ∧ v < (thresholds s j).1 ∧ v < (thresholds s j).2 ∧
           v ≤ 2400 ∧ ((tgetD s.pkg.pwr.tsens j {}).st = 0 ∨ v ≤ (thresholds s j).1 - 48))) →
     ∃ t, Machine.exec (.thermalSample l) s = .next t ∧
       t.err = s.err ∧ t.out = s.out ∧ t.pmc = s.pmc ∧ t.pkg.clk = s.pkg.clk ∧ t.work = s.work ∧
         t.pkg.pwr.thermtripN = s.pkg.pwr.thermtripN ∧
       (∀ j : Nat, j < 26 → ∀ v : Int, l[j]? = some v →
           tgetD t.pkg.pwr.tsens j {} = (if (tgetD s.pkg.pwr.tsens j {}).st = 3 then tgetD s.pkg.pwr.tsens j {} else
             ⟨0, v⟩)) ∧
       (∀ j : Nat, l.length ≤ j ∨ 26 ≤ j → tget? t.pkg.pwr.tsens j = tget? s.pkg.pwr.tsens j))
  ∧ (∀ (s : State) (pre : List Int) (v : Int),
     running s = true → s.err.inj = [] →
     (pre.length < 26 ∧ ∀ j : Nat, j < pre.length → (tgetD s.pkg.pwr.tsens j {}).st = 3) → (-640 ≤ v ∧ v ≤ 2400) →
     (tgetD s.pkg.pwr.tsens pre.length {}).st = 0 ∧ (thresholds s pre.length).1 ≤ v ∧
       v < (thresholds s pre.length).2 →
     Machine.exec (.thermalSample (pre ++ [v])) s = .next ({ count s (ownerPart s) 0x110D with
           pkg := { s.pkg with
               pwr := { s.pkg.pwr with
                   tsens := tput s.pkg.pwr.tsens pre.length ⟨1, v⟩,
                   lastThermal := if warning s then s.pkg.pwr.lastThermal else s.now } } }))
  ∧ (∀ (s : State) (pre : List Int) (v : Int),
     running s = true → s.err.inj = [] →
     (pre.length < 26 ∧ ∀ j : Nat, j < pre.length → (tgetD s.pkg.pwr.tsens j {}).st = 3) → (-640 ≤ v ∧ v ≤ 2400) →
     ((tgetD s.pkg.pwr.tsens pre.length {}).st = 1 ∨ (tgetD s.pkg.pwr.tsens pre.length {}).st = 2) ∧
       (thresholds s pre.length).1 - 48 < v ∧ v < (thresholds s pre.length).2 →
     Machine.exec (.thermalSample (pre ++ [v])) s = .next ({ s with
           pkg := { s.pkg with
               pwr := { s.pkg.pwr with
                   tsens := tput s.pkg.pwr.tsens pre.length ⟨1, v⟩,
                   lastThermal := if warning s then s.pkg.pwr.lastThermal else s.now } } }))
  ∧ (∀ (s : State) (pre : List Int) (v : Int),
     running s = true → s.err.inj = [] →
     (pre.length < 26 ∧ ∀ j : Nat, j < pre.length → (tgetD s.pkg.pwr.tsens j {}).st = 3) → (-640 ≤ v ∧ v ≤ 2400) →
     ((tgetD s.pkg.pwr.tsens pre.length {}).st = 0 ∨ (tgetD s.pkg.pwr.tsens pre.length {}).st = 1) ∧
       (thresholds s pre.length).2 ≤ v →
     s.pkg.pwr.inReset = false ∧ mergeInto s 13 (pre.length + 32) 10 = none ∧ s.pkg.sec.parts = [] ∧
       64 ≤ s.mbr.leader →
     ∃ t, Machine.exec (.thermalSample (pre ++ [v])) s = .next t ∧
       tget? t.pkg.pwr.tsens pre.length = some ⟨2, v⟩ ∧
       t.pkg.pwr.thermtripN = true ∧ t.err.fault = true ∧ t.pkg.pwr.faultN = true ∧ t.pkg.pwr.domOn = 1 ∧
       (tget? t.err.recs ((s.err.seq + 1) % 1024)).map (fun (r : ErrRec) => (r.seq, r.det, r.sev, r.action, r.loc))
         = some (s.err.seq + 1, 13, 4, 10, pre.length + 32))
  ∧ (∀ (s : State) (pre : List Int) (v : Int),
     running s = true → s.err.inj = [] →
     (pre.length < 26 ∧ ∀ j : Nat, j < pre.length → (tgetD s.pkg.pwr.tsens j {}).st = 3) →
     (tgetD s.pkg.pwr.tsens pre.length {}).st = 2 ∧ v ≤ 2400 ∧ (thresholds s pre.length).2 ≤ v ∧ -640 ≤ v →
     Machine.exec (.thermalSample (pre ++ [v])) s = .next ({ s with
           pkg := { s.pkg with
               pwr := { s.pkg.pwr with
                   tsens := tput s.pkg.pwr.tsens pre.length ⟨2, v⟩,
                   lastThermal := if warning s then s.pkg.pwr.lastThermal else s.now } } }))
  ∧ (∀ (s : State) (pre : List Int) (v : Int),
     running s = true → s.err.inj = [] →
     (pre.length < 26 ∧ ∀ j : Nat, j < pre.length → (tgetD s.pkg.pwr.tsens j {}).st = 3) →
     (tgetD s.pkg.pwr.tsens pre.length {}).st ≠ 3 ∧ (v < -640 ∨ 2400 < v) →
     Machine.exec (.thermalSample (pre ++ [v])) s = .next ({ count s (ownerPart s) 0x110D with
           pkg := { s.pkg with pwr := { s.pkg.pwr with tsens := tput s.pkg.pwr.tsens pre.length ⟨3, v⟩ } } }))
  ∧ (∀ (s : State),
     running s = false ∨ warning s = false ∨ s.now < s.pkg.pwr.lastThermal + 1000000 →
     Machine.exec (.thermalStep) s = .next (s))
  ∧ (∀ (s : State),
     running s = true → warning s = true ∧ s.pkg.pwr.lastThermal + 1000000 ≤ s.now →
     s.pkg.clk.tmin < s.pkg.clk.tcur ∧ s.pkg.pwr.avsDead = [] →
     Machine.exec (.thermalStep) s = .next ({ s with
           pkg := { s.pkg with
               pwr := { s.pkg.pwr with lastThermal := s.now },
               clk := { s.pkg.clk with
                   tcur := s.pkg.clk.tcur - 1, tcause := 2, vddcd := voltFor (s.pkg.clk.tcur - 1), raise := none } } }))
  ∧ (∀ (s : State),
     running s = true → warning s = true ∧ s.pkg.pwr.lastThermal + 1000000 ≤ s.now →
     s.pkg.clk.tcur ≤ s.pkg.clk.tmin ∨ s.pkg.pwr.avsDead ≠ [] →
     Machine.exec (.thermalStep) s = .next ({ s with
           pkg := { s.pkg with pwr := { s.pkg.pwr with lastThermal := s.now } } }))
  ∧ (∀ (s : State) (l : List (Option Int)),
     running s = false →
     Machine.exec (.boardSensorPoll l) s = .next (s))
  ∧ (∀ (s : State) (l : List (Option Int)),
     running s = true →
     ∃ t, Machine.exec (.boardSensorPoll l) s = .next t ∧
       (∀ j : Nat, j < 8 → ∀ v : Option Int, l[j]? = some v →
           tget? t.pkg.pwr.bsens j = some (v.elim (⟨3, 0⟩ : Sensor) (fun (x : Int) => ⟨0, x⟩))) ∧
       (∀ j : Nat, l.length ≤ j ∨ 8 ≤ j → tget? t.pkg.pwr.bsens j = tget? s.pkg.pwr.bsens j) ∧
       t = { s with pkg := { s.pkg with pwr := { s.pkg.pwr with bsens := t.pkg.pwr.bsens } } })

/-- PPS_EDGE in a node out of reset: within 900 ms of the last accepted edge it counts PPS_GLITCH and does nothing
else; without a target it is only recorded; otherwise the target comes from NEXT_SEC, consumed, or from the last
target plus a second, and e is recorded. Where the node applies it, the counter becomes the target, or slews for 2|e|
ns when the start barrier has been armed and e is negative, and TRIM follows R435 unless AUTO is off, it is the first
correction, the first after HOLDOVER or RESYNC, or more than 10 s have passed. Beyond MAXERR it only counts
PPS_REJECT, and a member that is not the reference only records. PPS_MISS is counted 1,100 ms after the expected edge
and holds over. CALIBRATION_TICK applies minus the offset in a member other than the reference, keeps the offset, and
locks after three within 2 ns, which arms the start barrier of a recovered member. TIM_NEXT_SEC and RESYNC take the
owner's writes alone. Measuring I between corrected instants follows R437's worked example by inference. -/
def Obligations.CounterFollowsPpsAndCalibration : Prop :=
  (∀ (s : State),
   s.pkg.sec.phase = 0 →
   Machine.exec (.ppsEdge) s = .next (s))
  ∧ (∀ (s : State) (u : Nat),
     s.pkg.sec.phase ≠ 0 → s.pkg.tim.lastEdge = some u ∧ s.now < u + 900000000 →
     Machine.exec (.ppsEdge) s = .next (countNode s Ev.ppsGlitch))
  ∧ (∀ (s : State),
     s.pkg.sec.phase ≠ 0 → s.pkg.tim.lastEdge.all (fun (u : Nat) => decide (u + 900000000 ≤ s.now)) = true →
     (if flag s.pkg.tim.nextSec 63 then some (fld s.pkg.tim.nextSec 34 0 * 1000000000 + fld s.pkg.tim.cfg 47 32)
         else s.pkg.tim.target.map (fun (u : Nat) => u + 1000000000)) = none →
     Machine.exec (.ppsEdge) s = .next ({ countNode s Ev.ppsEdge with
           pkg := { s.pkg with
               tim := { s.pkg.tim with
                   ppsT := s.now, nextSec := setFld s.pkg.tim.nextSec 63 63 0, resync := false,
                   lastEdge := some s.now, expected := some (s.now + 1000000000) } } }))
  ∧ (∀ (s : State) (T : Nat),
     s.pkg.sec.phase ≠ 0 → s.pkg.tim.lastEdge.all (fun (u : Nat) => decide (u + 900000000 ≤ s.now)) = true →
     (if flag s.pkg.tim.nextSec 63 then some (fld s.pkg.tim.nextSec 34 0 * 1000000000 + fld s.pkg.tim.cfg 47 32)
         else s.pkg.tim.target.map (fun (u : Nat) => u + 1000000000)) = some T →
     (s.mbr.st ≠ .member ∧ s.mbr.st ≠ .held) ∨ calRef s = s.fab.node ∨ s.pkg.tim.target = none ∨ s.pkg.tim.resync =
       true →
     ((T : Int) - (s.now : Int)).natAbs ≤ fld s.pkg.tim.cfg 31 16 * 1000 ∨ s.pkg.tim.target = none ∨
       s.pkg.tim.resync = true →
     Machine.exec (.ppsEdge) s = .next ({ countNode s Ev.ppsEdge with
           now := if s.pkg.sec.startArmed = true ∧ ((T : Int) - (s.now : Int)) < 0 then s.now else T,
           pkg := { s.pkg with
               tim := { s.pkg.tim with
                   ppsT := s.now, nextSec := setFld s.pkg.tim.nextSec 63 63 0, resync := false, target := some T,
                   perr := max (-2147483648) (min 2147483647 ((T : Int) - (s.now : Int))),
                   src := if (s.mbr.st ≠ MbrState.member ∧ s.mbr.st ≠ MbrState.held) ∨ calRef s = s.fab.node then 1
                     else if s.pkg.tim.src = 2 then (if s.pkg.tim.cal = 0 then 0 else 3) else s.pkg.tim.src,
                   trim := if flag s.pkg.tim.cfg 0 = true ∧ s.pkg.tim.keepTrim = false ∧
                     0 < T - s.pkg.tim.lastCorr.getD T ∧
                     T - s.pkg.tim.lastCorr.getD T ≤ 10000000000 then max (-858993) (min 858993 (s.pkg.tim.trim +
                           roundDiv (((T : Int) - (s.now : Int)) * 2 ^ 32) (2 * (T - s.pkg.tim.lastCorr.getD T))))
                       else s.pkg.tim.trim, lastCorr := some (T), keepTrim := false,
                   slew := if s.pkg.sec.startArmed = true ∧
                     ((T : Int) - (s.now : Int)) < 0 then s.pkg.tim.slew + 2 * ((T : Int) - (s.now : Int)).natAbs
                       else s.pkg.tim.slew, lastEdge := some T, expected := some (T + 1000000000) } } }))
  ∧ (∀ (s : State) (T : Nat),
     s.pkg.sec.phase ≠ 0 → s.pkg.tim.lastEdge.all (fun (u : Nat) => decide (u + 900000000 ≤ s.now)) = true →
     (if flag s.pkg.tim.nextSec 63 then some (fld s.pkg.tim.nextSec 34 0 * 1000000000 + fld s.pkg.tim.cfg 47 32)
         else s.pkg.tim.target.map (fun (u : Nat) => u + 1000000000)) = some T →
     ¬ (((T : Int) - (s.now : Int)).natAbs ≤ fld s.pkg.tim.cfg 31 16 * 1000) ∧
       ¬ (s.pkg.tim.target = none ∨ s.pkg.tim.resync = true) →
     Machine.exec (.ppsEdge) s = .next ({ countNode (countNode s Ev.ppsEdge) Ev.ppsReject with
           pkg := { s.pkg with
               tim := { s.pkg.tim with
                   ppsT := s.now, nextSec := setFld s.pkg.tim.nextSec 63 63 0, resync := false, target := some T,
                   perr := max (-2147483648) (min 2147483647 ((T : Int) - (s.now : Int))),
                   src := if (s.mbr.st ≠ MbrState.member ∧ s.mbr.st ≠ MbrState.held) ∨ calRef s = s.fab.node then 1
                     else if s.pkg.tim.src = 2 then (if s.pkg.tim.cal = 0 then 0 else 3) else s.pkg.tim.src,
                   lastEdge := some s.now, expected := some (s.now + 1000000000) } } }))
  ∧ (∀ (s : State) (T : Nat),
     s.pkg.sec.phase ≠ 0 → s.pkg.tim.lastEdge.all (fun (u : Nat) => decide (u + 900000000 ≤ s.now)) = true →
     (if flag s.pkg.tim.nextSec 63 then some (fld s.pkg.tim.nextSec 34 0 * 1000000000 + fld s.pkg.tim.cfg 47 32)
         else s.pkg.tim.target.map (fun (u : Nat) => u + 1000000000)) = some T →
     ¬ ((s.mbr.st ≠ .member ∧ s.mbr.st ≠ .held) ∨ calRef s = s.fab.node) ∧
       ¬ (s.pkg.tim.target = none ∨ s.pkg.tim.resync = true) ∧
       ((T : Int) - (s.now : Int)).natAbs ≤ fld s.pkg.tim.cfg 31 16 * 1000 →
     Machine.exec (.ppsEdge) s = .next ({ countNode s Ev.ppsEdge with
           pkg := { s.pkg with
               tim := { s.pkg.tim with
                   ppsT := s.now, nextSec := setFld s.pkg.tim.nextSec 63 63 0, resync := false, target := some T,
                   perr := max (-2147483648) (min 2147483647 ((T : Int) - (s.now : Int))),
                   src := if (s.mbr.st ≠ MbrState.member ∧ s.mbr.st ≠ MbrState.held) ∨ calRef s = s.fab.node then 1
                     else if s.pkg.tim.src = 2 then (if s.pkg.tim.cal = 0 then 0 else 3) else s.pkg.tim.src,
                   lastEdge := some s.now, expected := some (s.now + 1000000000) } } }))
  ∧ (∀ (s : State),
     s.pkg.tim.expected.all (fun (u : Nat) => decide (s.now < u + 1100000000)) = true →
     Machine.exec (.ppsMiss) s = .next (s))
  ∧ (∀ (s : State) (u : Nat),
     s.pkg.tim.expected = some u ∧ u + 1100000000 ≤ s.now →
     Machine.exec (.ppsMiss) s = .next ({ countNode s Ev.ppsMiss with
           pkg := { s.pkg with
               tim := { s.pkg.tim with src := 2, keepTrim := true, expected := some (u + 1000000000) } } }))
  ∧ (∀ (s : State) (fn : Fin 64) (v : W64),
     ownerFn s fn.val = true →
     Machine.exec (.timNextSecWrite fn v) s = .next ({ s with
           pkg := { s.pkg with tim := { s.pkg.tim with nextSec := mkReg [(63, 1), (0, fld v 34 0)] } } }))
  ∧ (∀ (s : State) (fn : Fin 64) (v : W64),
     ownerFn s fn.val = false →
     Machine.exec (.timNextSecWrite fn v) s = .next (s))
  ∧ (∀ (s : State) (fn : Fin 64),
     ownerFn s fn.val = true →
     Machine.exec (.timResync fn) s = .next ({ s with
           pkg := { s.pkg with tim := { s.pkg.tim with resync := true, keepTrim := true } } }))
  ∧ (∀ (s : State) (fn : Fin 64),
     ownerFn s fn.val = false →
     Machine.exec (.timResync fn) s = .next (s))
  ∧ (∀ (s : State) (o : Int),
     s.mbr.st ≠ .member ∧ s.mbr.st ≠ .held →
     Machine.exec (.calibrationTick o) s = .next (if s.pkg.tim.ref = 0x3F then s else { s with
           pkg := { s.pkg with tim := { s.pkg.tim with ref := 0x3F, streak := 0, cal := 0 } } }))
  ∧ (∀ (s : State) (o : Int),
     (s.mbr.st = .member ∨ s.mbr.st = .held) ∧ calRef s ≠ s.pkg.tim.ref ∧ calRef s ≠ s.fab.node ∧ calRef s ≠ 0x3F →
     s.pkg.sec.epochs = true →
     ∃ t, Machine.exec (.calibrationTick o) s = .next t ∧
       t.pkg.tim.ref = calRef s ∧ t.pkg.tim.cal = 1 ∧ t.pkg.tim.streak = (if o.natAbs ≤ 8 then 1 else 0) ∧
         t.pkg.tim.calOff = o ∧ t.pkg.tim.src = 3)
  ∧ (∀ (s : State) (o : Int),
     (s.mbr.st = .member ∨ s.mbr.st = .held) ∧ calRef s ≠ s.pkg.tim.ref ∧ calRef s = s.fab.node ∧ calRef s ≠ 0x3F →
     s.pkg.sec.epochs = true →
     Machine.exec (.calibrationTick o) s = .next ({ s with
           pkg := { s.pkg with tim := { s.pkg.tim with ref := s.fab.node, calOff := 0, streak := 1, cal := 1 } } }))
  ∧ (∀ (s : State) (o : Int),
     (s.mbr.st = .member ∨ s.mbr.st = .held) ∧ calRef s = s.pkg.tim.ref → calRef s ≠ s.fab.node →
     s.pkg.sec.epochs = true ∨ s.mbr.st = .held ∨ s.pkg.sec.recovered = false ∨ ((if o.natAbs ≤ 8 then
             s.pkg.tim.streak + 1 else 0) < 3 ∧ s.pkg.tim.cal ≠ 2) →
     Machine.exec (.calibrationTick o) s = .next ({ countNode s Ev.calUpdate with
           now := if s.pkg.sec.startArmed = true ∧
             (roundDiv (-o) 4) < 0 then s.now else ((s.now : Int) + roundDiv (-o) 4).toNat,
           pkg := { s.pkg with
               tim := { s.pkg.tim with
                   calOff := o, streak := (if o.natAbs ≤ 8 then s.pkg.tim.streak + 1 else 0),
                   cal := if 3 ≤ (if o.natAbs ≤ 8 then s.pkg.tim.streak + 1 else 0) then 2 else s.pkg.tim.cal,
                   src := 3,
                   trim := if flag s.pkg.tim.cfg 0 = true ∧ s.pkg.tim.keepTrim = false ∧
                     0 < ((s.now : Int) + roundDiv (-o) 4).toNat - s.pkg.tim.lastCorr.getD
                       ((s.now : Int) + roundDiv (-o) 4).toNat ∧
                     ((s.now : Int) + roundDiv (-o) 4).toNat - s.pkg.tim.lastCorr.getD
                       ((s.now : Int) + roundDiv (-o) 4).toNat ≤ 10000000000 then max (-858993) (min 858993
                         (s.pkg.tim.trim + roundDiv ((roundDiv (-o) 4) * 2 ^ 32) (2 * (((s.now : Int) + roundDiv
                                 (-o) 4).toNat - s.pkg.tim.lastCorr.getD ((s.now : Int) + roundDiv (-o) 4).toNat))))
                       else s.pkg.tim.trim, lastCorr := some (((s.now : Int) + roundDiv (-o) 4).toNat),
                   keepTrim := false,
                   slew := if s.pkg.sec.startArmed = true ∧
                     (roundDiv (-o) 4) < 0 then s.pkg.tim.slew + 2 * (roundDiv (-o) 4).natAbs else s.pkg.tim.slew } } }))
  ∧ (∀ (s : State) (o : Int),
     (s.mbr.st = .member ∨ s.mbr.st = .held) ∧ calRef s = s.pkg.tim.ref → calRef s ≠ s.fab.node →
     s.mbr.st = .member ∧ s.pkg.sec.recovered = true ∧ s.pkg.sec.epochs = false ∧ (s.barrier 3).armed = false ∧
       s.pkg.sec.startArmed = false ∧ 3 ≤ (if o.natAbs ≤ 8 then s.pkg.tim.streak + 1 else 0) →
     ∃ t, Machine.exec (.calibrationTick o) s = .next t ∧
       t.pkg.tim.cal = 2 ∧ t.pkg.sec.startArmed = true ∧ (t.barrier 3).armed = true ∧
         tget? (t.barrier 3).arms s.fab.node = some t.now ∧ t.now = ((s.now : Int) + roundDiv (-o) 4).toNat ∧
         t.pkg.tim.calOff = o)
  ∧ (∀ (s : State) (o : Int),
     (s.mbr.st = .member ∨ s.mbr.st = .held) ∧ calRef s = s.pkg.tim.ref → calRef s = s.fab.node →
     s.pkg.sec.epochs = true ∨ s.mbr.st = .held ∨ s.pkg.sec.recovered = false ∨
       (s.pkg.tim.streak + 1 < 3 ∧ s.pkg.tim.cal ≠ 2) →
     Machine.exec (.calibrationTick o) s = .next ({ s with
           pkg := { s.pkg with
               tim := { s.pkg.tim with
                   calOff := 0, streak := s.pkg.tim.streak + 1,
                   cal := if 3 ≤ s.pkg.tim.streak + 1 then 2 else s.pkg.tim.cal } } }))

/-- DUMP_LATCH of a partition whose dump is enabled, at a multiple of its period, writes the records of the enabled
counters and then the header with number, instant, count and phase through the ACTIVE function, and the vector when
asked for; a link that is down drops the writes and sets LOST. REGISTER_WRITE of another size or alignment, to a
block that the function does not reach, or to TOP changes nothing. W1C fields clear where 1 is written; MIN above MAX
or outside 16 to 42 has no effect; LIMIT and TRIM are clamped; ADM, PWR and TIM take the owner's writes only; a
partition writes only its own counters and its own clusters' saturation; queue base registers only while EN is 0; the
mailbox address keeps bits 63:6. That a dump's writes end at once is the model's choice. -/
def Obligations.RegistersAndDumps : Prop :=
  (∀ (s : State) (part : Fin 32),
   flag (tgetD s.pmc.dumps part.val {}).cfg 0 = false ∨ s.now % (max 1
       (fld (tgetD s.pmc.dumps part.val {}).cfg 63 48) * 100000) ≠ 0 ∨ (tgetD s.pmc.dumps part.val {}).lastT = some
     s.now ∨ activeFn s part.val = none →
   Machine.exec (.dumpLatch part) s = .next (s))
  ∧ (∀ (s : State) (part : Fin 32) (f : Nat),
     flag (tgetD s.pmc.dumps part.val {}).cfg 0 = true ∧
       s.now % (max 1 (fld (tgetD s.pmc.dumps part.val {}).cfg 63 48) * 100000) = 0 ∧
       (tgetD s.pmc.dumps part.val {}).lastT ≠ some s.now →
     activeFn s part.val = some f → (s.pcie f).up = true ∧ (s.fn f).busMaster = true →
     ∃ t, Machine.exec (.dumpLatch part) s = .next t ∧
       t.out = s.out ++ (if (dumpRecs s part.val) = [] then [] else [Out.hostWrite f (((tgetD s.pmc.dumps part.val
                   {  }).base.toNat + (tgetD s.pmc.dumps part.val {}).n % 2 ^ min 10
                 (fld (tgetD s.pmc.dumps part.val {}).cfg 43 40) * 32768) + 64) ((dumpRecs s part.val).flatMap id)
             false]) ++ [Out.hostWrite f ((tgetD s.pmc.dumps part.val {}).base.toNat +
             (tgetD s.pmc.dumps part.val {}).n % 2 ^ min 10 (fld (tgetD s.pmc.dumps part.val {}).cfg 43 40) * 32768)
           (leBytes 8 ((tgetD s.pmc.dumps part.val {}).n + 1) ++ leBytes 8 s.now ++ leBytes 4 (dumpRecs s part.val).length
             ++ leBytes 4 0 ++ leBytes 1 part.val ++ leBytes 1 (if (tgetD s.pmc.dumps part.val {}).n / 2 ^ min 10
               (fld (tgetD s.pmc.dumps part.val {}).cfg 43 40) % 2 = 0 then 1 else 0) ++ List.replicate 38 0) false]
         ++ (if flag (tgetD s.pmc.dumps part.val {}).cfg 1 then [Out.msix f
             (fld (tgetD s.pmc.dumps part.val {}).cfg 31 20)] else []) ∧
       t.pmc.dumps = tput s.pmc.dumps part.val { (tgetD s.pmc.dumps part.val {}) with
           n := (tgetD s.pmc.dumps part.val {}).n + 1, lastT := some s.now,
           seq := (tgetD s.pmc.dumps part.val {}).n + 1 } ∧
       t = { s with out := t.out, pmc := t.pmc })
  ∧ (∀ (s : State) (part : Fin 32) (f : Nat),
     flag (tgetD s.pmc.dumps part.val {}).cfg 0 = true ∧
       s.now % (max 1 (fld (tgetD s.pmc.dumps part.val {}).cfg 63 48) * 100000) = 0 ∧
       (tgetD s.pmc.dumps part.val {}).lastT ≠ some s.now →
     activeFn s part.val = some f → (s.pcie f).up = false →
     ∃ t, Machine.exec (.dumpLatch part) s = .next t ∧
       t.out = s.out ∧
         t.pmc.dumps = tput s.pmc.dumps part.val { (tgetD s.pmc.dumps part.val {}) with
             n := (tgetD s.pmc.dumps part.val {}).n + 1, lastT := some s.now, lost := true } ∧
       t = { s with pmc := t.pmc })
  ∧ (∀ (s : State) (fn : Fin 64) (addr size : Nat) (v : W64),
     (size ≠ 8 ∧ size ≠ 4) ∨ addr % size ≠ 0 ∨ 2 ^ 24 ≤ addr ∨ reaches s fn.val (addr / 0x80000) = false ∨ addr <
       0x80000 →
     Machine.exec (.registerWrite fn addr size v) s = .next (s))
  ∧ (∀ (s : State) (fn : Fin 64) (v : W64),
     reaches s fn.val 0x04 = true →
     Machine.exec (.registerWrite fn (0x04 * 0x80000 + 0x10) 8 v) s = .next ({ s with
           host := { s.host with fns := tput s.host.fns fn.val { s.fn fn.val with hlook := fld v 56 32 } } }))
  ∧ (∀ (s : State) (fn : Fin 64) (v : W64),
     reaches s fn.val 0x03 = true → (s.fn fn.val).part < 32 →
     Machine.exec (.registerWrite fn (0x03 * 0x80000 + 0x600 + 8 * (s.fn fn.val).part) 8 v) s = .next ({ s with
           work := { s.work with
               nbsErr := tmod s.work.nbsErr (s.fn fn.val).part 0 (fun (w : W64) => w &&& ~~~(v &&& 31#64)) } }))
  ∧ (∀ (s : State) (fn : Fin 64) (v : W64),
     reaches s fn.val 0x04 = true → (s.fn fn.val).part < 32 →
     Machine.exec (.registerWrite fn (0x04 * 0x80000 + 0xC00 + 8 * (s.fn fn.val).part) 8 v) s = .next ({ s with
           tier := { s.tier with
               err := tmod s.tier.err (s.fn fn.val).part 0 (fun (w : W64) => w &&& ~~~(v &&& 63#64)) } }))
  ∧ (∀ (s : State) (fn : Fin 64) (v : W64),
     reaches s fn.val 0x05 = true → (s.fn fn.val).part < 32 →
     Machine.exec (.registerWrite fn (0x05 * 0x80000 + 0x600 + 8 * (s.fn fn.val).part) 8 v) s = .next ({ s with
           epo := { s.epo with
               err := tmod s.epo.err (s.fn fn.val).part 0 (fun (w : W64) => w &&& ~~~(v &&& 63#64)) } }))
  ∧ (∀ (s : State) (fn : Fin 64) (v : W64),
     reaches s fn.val 0x06 = true → (s.fn fn.val).part < 32 →
     Machine.exec (.registerWrite fn (0x06 * 0x80000 + 0x400 + 8 * (s.fn fn.val).part) 8 v) s = .next ({ s with
           work := { s.work with
               kneErr := tmod s.work.kneErr (s.fn fn.val).part 0 (fun (w : W64) => w &&& ~~~(v &&& 15#64)) } }))
  ∧ (∀ (s : State) (fn : Fin 64) (v : W64),
     reaches s fn.val 0x08 = true → (s.fn fn.val).part < 32 →
     Machine.exec (.registerWrite fn (0x08 * 0x80000 + 0x800 + 8 * (s.fn fn.val).part) 8 v) s = .next ({ s with
           fab := { s.fab with
               swcErr := tmod s.fab.swcErr (s.fn fn.val).part 0 (fun (w : W64) => w &&& ~~~(v &&& 31#64)) } }))
  ∧ (∀ (s : State) (fn : Fin 64) (v : W64),
     reaches s fn.val 0x09 = true → (s.fn fn.val).part < 32 →
     Machine.exec (.registerWrite fn (0x09 * 0x80000 + 0x600 + 8 * (s.fn fn.val).part) 8 v) s = .next ({ s with
           flash := { s.flash with
               err := tmod s.flash.err (s.fn fn.val).part 0 (fun (w : W64) => w &&& ~~~(v &&& 15#64)) } }))
  ∧ (∀ (s : State) (fn : Fin 64) (v : W64) (q : Nat),
     reaches s fn.val 0x0A = true → q < (s.fn fn.val).qcount ∧ (s.fn fn.val).qcount ≤ 2048 →
     Machine.exec (.registerWrite fn (0x0A * 0x80000 + (0x1028 + 0x40 * q)) 8 v) s = .next (s.setQ fn.val q { s.q
           fn.val q with
           err := (s.q fn.val q).err &&& ~~~(v &&& 0x1F#64) }))
  ∧ (∀ (s : State) (fn : Fin 64) (v : W64) (q : Nat),
     reaches s fn.val 0x0A = true → q < (s.fn fn.val).qcount ∧ (s.fn fn.val).qcount ≤ 2048 →
     flag (s.q fn.val q).cfg 0 = true →
     Machine.exec (.registerWrite fn (0x0A * 0x80000 + (0x1008 + 0x40 * q)) 8 v) s = .next (s))
  ∧ (∀ (s : State) (fn : Fin 64) (v : W64) (q : Nat),
     reaches s fn.val 0x0A = true → q < (s.fn fn.val).qcount ∧ (s.fn fn.val).qcount ≤ 2048 →
     flag (s.q fn.val q).cfg 0 = false →
     ∃ t, Machine.exec (.registerWrite fn (0x0A * 0x80000 + (0x1008 + 0x40 * q)) 8 v) s = .next t ∧
       t = s.setQ fn.val q { s.q fn.val q with cqBase := (t.q fn.val q).cqBase } ∧
       fld (t.q fn.val q).cqBase 63 3 = fld v 63 3)
  ∧ (∀ (s : State) (fn : Fin 64) (v : W64) (q : Nat),
     reaches s fn.val 0x0B = true → ownerFn s fn.val = true → q < 32 →
     ∃ t, Machine.exec (.registerWrite fn (0x0B * 0x80000 + (0x18 + 0x20 * q)) 8 v) s = .next t ∧
       t = s.setAdm q { s.adm q with reg := (t.adm q).reg } ∧
       fld (t.adm q).reg 47 0 = fld v 47 0 ∧ fld (t.adm q).reg 63 48 = fld (s.adm q).reg 63 48)
  ∧ (∀ (s : State) (fn : Fin 64) (v : W64) (off : Nat),
     ownerFn s fn.val = false → off < 0x80000 ∧ off % 8 = 0 →
     Machine.exec (.registerWrite fn (0x10 * 0x80000 + off) 8 v) s = .next (s))
  ∧ (∀ (s : State) (fn : Fin 64) (v : W64) (off : Nat),
     ownerFn s fn.val = false → off < 0x80000 ∧ off % 8 = 0 →
     Machine.exec (.registerWrite fn (0x0E * 0x80000 + off) 8 v) s = .next (s))
  ∧ (∀ (s : State) (fn : Fin 64) (v : W64),
     reaches s fn.val 0x10 = true → ownerFn s fn.val = true →
     ∃ t, Machine.exec (.registerWrite fn (0x10 * 0x80000 + 0x10) 8 v) s = .next t ∧
       t = { s with pkg := { s.pkg with clk := { s.pkg.clk with limit := t.pkg.clk.limit } } } ∧
       fld t.pkg.clk.limit 15 0 = max 400 (min 1100 (fld v 15 0)) ∧ fld t.pkg.clk.limit 31 16 = fld v 31 16)
  ∧ (∀ (s : State) (fn : Fin 64) (v : W64),
     reaches s fn.val 0x10 = true → fld v 15 8 < fld v 23 16 ∨ fld v 23 16 < 16 ∨ 42 < fld v 15 8 →
     Machine.exec (.registerWrite fn (0x10 * 0x80000 + 0x18) 8 v) s = .next (s))
  ∧ (∀ (s : State) (fn : Fin 64) (v : W64),
     reaches s fn.val 0x10 = true → ownerFn s fn.val = true →
     fld v 23 16 ≤ fld v 15 8 ∧ 16 ≤ fld v 23 16 ∧ fld v 15 8 ≤ 42 →
     fld v 23 16 ≤ s.pkg.clk.tcur ∧ fld v 15 8 < s.pkg.clk.tcur →
     Machine.exec (.registerWrite fn (0x10 * 0x80000 + 0x18) 8 v) s = .next ({ s with
           pkg := { s.pkg with
               clk := { s.pkg.clk with
                   tmin := fld v 23 16, tmax := fld v 15 8, tcur := fld v 15 8, tcause := 3,
                   vddcd := if s.pkg.pwr.avsDead = [] then voltFor (fld v 15 8) else s.pkg.clk.vddcd,
                   raise := none } } }))
  ∧ (∀ (s : State) (fn : Fin 64) (v : W64),
     reaches s fn.val 0x0E = true → ownerFn s fn.val = true →
     Machine.exec (.registerWrite fn (0x0E * 0x80000 + 0x18) 8 v) s = .next ({ s with
           pkg := { s.pkg with tim := { s.pkg.tim with trim := max (-858993) (min 858993 (sext 32 (fld v 31 0))) } } }))
  ∧ (∀ (s : State) (fn : Fin 64) (v : W64),
     reaches s fn.val 0x0D = true → mayMbx s (some fn) = true →
     ∃ t, Machine.exec (.registerWrite fn (0x0D * 0x80000 + 0x100) 8 v) s = .next t ∧
       t = { s with pkg := { s.pkg with sec := { s.pkg.sec with mbxAddr := t.pkg.sec.mbxAddr } } } ∧
       fld t.pkg.sec.mbxAddr 63 6 = fld v 63 6 ∧ fld t.pkg.sec.mbxAddr 5 0 = fld s.pkg.sec.mbxAddr 5 0)
  ∧ (∀ (s : State) (fn : Fin 64) (v : W64) (k : Nat),
     reaches s fn.val 0x0F = true → (s.fn fn.val).part < 32 ∧ k < 32 →
     ∃ t, Machine.exec (.registerWrite fn (0x0F * 0x80000 + (0x10008 + 0x10 * ((s.fn fn.val).part * 64 + k))) 8 v) s = .next t ∧
       t = { s with pmc := { s.pmc with pctr := t.pmc.pctr } } ∧
       (∀ j : Nat, j ≠ (s.fn fn.val).part * 32 + k → tget? t.pmc.pctr j = tget? s.pmc.pctr j) ∧
       (tget? t.pmc.pctr ((s.fn fn.val).part * 32 + k)).map (fun (w : W64) => (fld w 47 0, flag w 48)) = some
         (fld v 47 0, flag (tgetD s.pmc.pctr ((s.fn fn.val).part * 32 + k) 0) 48 && !flag v 48))
  ∧ (∀ (s : State) (fn : Fin 64) (v : W64) (k o : Nat),
     (s.fn fn.val).part < 32 ∧ o < 32 ∧ o ≠ (s.fn fn.val).part ∧ k < 32 →
     Machine.exec (.registerWrite fn (0x0F * 0x80000 + (0x10008 + 0x10 * (o * 64 + k))) 8 v) s = .next (s))
  ∧ (∀ (s : State) (fn : Fin 64) (v : W64) (c : Nat),
     reaches s fn.val 0x01 = true → c < 128 ∧ clRunsFor s c (s.fn fn.val).part = true →
     Machine.exec (.registerWrite fn (0x01 * 0x80000 + (0x10 + 0x40 * c)) 8 v) s = .next (s.setCl c { s.cl c with
           satEvt := (s.cl c).satEvt &&& ~~~v }))
  ∧ (∀ (s : State) (fn : Fin 64) (v : W64) (c : Nat),
     c < 128 ∧ clRunsFor s c (s.fn fn.val).part = false →
     Machine.exec (.registerWrite fn (0x01 * 0x80000 + (0x10 + 0x40 * c)) 8 v) s = .next (s))
end

