-- ==== Sys2Proof/Laws/Tab.lean ====
section
/-!
SUPPORT. What reading a table or a byte memory gives after a change, and that every change keeps the one form.
-/
namespace Sys2Proof.Machine
variable {α : Type}

@[simp] theorem tget?_nil (k : Nat) : tget? ([] : Tab α) k = none := rfl

@[simp] theorem tget?_tput_same (t : Tab α) (k : Nat) (a : α) : tget? (tput t k a) k = some a := by
  induction t with
  | nil => simp [tput, tget?]
  | cons x t ih =>
    obtain ⟨j, b⟩ := x
    simp only [tput]
    split
    · simp [tget?]
    · split
      · simp [tget?]
      · rename_i h _
        simp [tget?, h, ih]

theorem tget?_tput_ne (t : Tab α) (k j : Nat) (a : α) (h : j ≠ k) : tget? (tput t k a) j = tget? t j := by
  induction t with
  | nil => simp [tput, tget?, h]
  | cons x t ih =>
    obtain ⟨i, b⟩ := x
    simp only [tput]
    split
    · rename_i e; subst e; simp [tget?, h]
    · split
      · simp [tget?, h]
      · simp only [tget?, ih]

theorem tget?_tput (t : Tab α) (k j : Nat) (a : α) : tget? (tput t k a) j = if j = k then some a else tget? t j := by
  split
  · rename_i h; subst h; simp
  · rename_i h; exact tget?_tput_ne t k j a h

@[simp] theorem tgetD_tput_same (t : Tab α) (k : Nat) (a d : α) : tgetD (tput t k a) k d = a := by simp [tgetD]

theorem tgetD_tput_ne (t : Tab α) (k j : Nat) (a d : α) (h : j ≠ k) : tgetD (tput t k a) j d = tgetD t j d := by
  simp [tgetD, tget?_tput_ne t k j a h]

theorem tget?_terase_ne (t : Tab α) (k j : Nat) (h : j ≠ k) : tget? (terase t k) j = tget? t j := by
  induction t with
  | nil => rfl
  | cons x t ih =>
    obtain ⟨i, b⟩ := x
    simp only [terase]
    split
    · rename_i e; subst e; simp [tget?, h]
    · simp only [tget?, ih]

@[simp] theorem tput_tput_same (t : Tab α) (k : Nat) (a b : α) : tput (tput t k a) k b = tput t k b := by
  induction t with
  | nil => simp [tput]
  | cons x t ih =>
    obtain ⟨i, c⟩ := x
    simp only [tput]
    split
    · simp [tput]
    · split
      · simp [tput]
      · rename_i h1 h2; simp [tput, h1, h2, ih]

/-! The form of a table. -/

theorem tabFrom_le {lo lo' : Nat} {t : Tab α} (h : tabFrom lo t = true) (l : lo' ≤ lo) : tabFrom lo' t = true := by
  cases t with
  | nil => rfl
  | cons x t => obtain ⟨k, v⟩ := x; simp [tabFrom] at *; exact ⟨by omega, h.2⟩

theorem tget?_below {lo k : Nat} {t : Tab α} (h : tabFrom lo t = true) (l : k < lo) : tget? t k = none := by
  induction t generalizing lo with
  | nil => rfl
  | cons x t ih =>
    obtain ⟨j, v⟩ := x
    simp [tabFrom] at h
    have : k ≠ j := by omega
    simp only [tget?, this, if_false]
    exact ih h.2 (by omega)

theorem tabFrom_tput {lo : Nat} {t : Tab α} (k : Nat) (a : α) (h : tabFrom lo t = true) (l : lo ≤ k) :
    tabFrom lo (tput t k a) = true := by
  induction t generalizing lo with
  | nil => simp [tput, tabFrom, l]
  | cons x t ih =>
    obtain ⟨j, v⟩ := x
    simp [tabFrom] at h
    simp only [tput]
    split
    · rename_i e; subst e; simp [tabFrom, h]
    · split
      · simp [tabFrom, l]; exact ⟨by omega, h.2⟩
      · simp [tabFrom, h.1]; exact ih h.2 (by omega)

theorem tabWf_tput {t : Tab α} (k : Nat) (a : α) (h : tabWf t = true) : tabWf (tput t k a) = true := tabFrom_tput k a h (by omega)

theorem tabFrom_terase {lo : Nat} {t : Tab α} (k : Nat) (h : tabFrom lo t = true) : tabFrom lo (terase t k) = true := by
  induction t generalizing lo with
  | nil => rfl
  | cons x t ih =>
    obtain ⟨j, v⟩ := x
    simp [tabFrom] at h
    simp only [terase]
    split
    · exact tabFrom_le h.2 (by omega)
    · simp [tabFrom, h.1]; exact ih h.2

theorem tabWf_terase {t : Tab α} (k : Nat) (h : tabWf t = true) : tabWf (terase t k) = true := tabFrom_terase k h

theorem tget?_terase_same {t : Tab α} (k : Nat) (h : tabWf t = true) : tget? (terase t k) k = none := by
  have gen : ∀ (lo : Nat) (t : Tab α), tabFrom lo t = true → tget? (terase t k) k = none := by
    intro lo t
    induction t generalizing lo with
    | nil => intro _; rfl
    | cons x t ih =>
      obtain ⟨j, v⟩ := x
      intro h
      simp [tabFrom] at h
      simp only [terase]
      split
      · rename_i e; subst e; exact tget?_below h.2 (by omega)
      · rename_i e; simp only [tget?, e, if_false]; exact ih _ h.2
  exact gen 0 t h

theorem tabFrom_filter {lo : Nat} {t : Tab α} (p : Nat × α → Bool) (h : tabFrom lo t = true) : tabFrom lo (t.filter p) = true := by
  induction t generalizing lo with
  | nil => rfl
  | cons x t ih =>
    obtain ⟨j, v⟩ := x
    simp [tabFrom] at h
    simp only [List.filter_cons]
    split
    · simp [tabFrom, h.1]; exact ih h.2
    · exact tabFrom_le (ih h.2) (by omega)

theorem tabWf_tfilter {t : Tab α} (p : Nat → α → Bool) (h : tabWf t = true) : tabWf (tfilter t p) = true := tabFrom_filter _ h

theorem tabFrom_tmap {lo : Nat} {t : Tab α} (f : Nat → α → α) (h : tabFrom lo t = true) : tabFrom lo (tmap t f) = true := by
  induction t generalizing lo with
  | nil => rfl
  | cons x t ih =>
    obtain ⟨j, v⟩ := x
    simp [tabFrom] at h
    simp [tmap, tabFrom, h.1]
    simpa [tmap] using ih h.2

theorem tabWf_tmap {t : Tab α} (f : Nat → α → α) (h : tabWf t = true) : tabWf (tmap t f) = true := tabFrom_tmap f h

theorem tabWf_tupd {t : Tab α} (k : Nat) (f : α → α) (h : tabWf t = true) : tabWf (tupd t k f) = true := by
  unfold tupd; split
  · exact h
  · exact tabWf_tput _ _ h

theorem tabWf_tmod {t : Tab α} (k : Nat) (d : α) (f : α → α) (h : tabWf t = true) : tabWf (tmod t k d f) = true :=
  tabWf_tput _ _ h

theorem tget?_tmap (t : Tab α) (f : Nat → α → α) (k : Nat) : tget? (tmap t f) k = (tget? t k).map (f k) := by
  induction t with
  | nil => rfl
  | cons x t ih =>
    obtain ⟨j, v⟩ := x
    simp only [tmap, List.map_cons, tget?]
    split
    · rename_i e; subst e; rfl
    · simpa [tmap] using ih

/-! Byte memories. -/

theorem memFrom_le {lo lo' : Nat} {m : Mem} (h : memFrom lo m = true) (l : lo' ≤ lo) : memFrom lo' m = true := by
  cases m with
  | nil => rfl
  | cons x m => obtain ⟨k, v⟩ := x; simp [memFrom] at *; exact ⟨⟨by omega, h.1.2⟩, h.2⟩

theorem mread_below {lo a : Nat} {m : Mem} (h : memFrom lo m = true) (l : a < lo) : mread m a = 0 := by
  induction m generalizing lo with
  | nil => rfl
  | cons x m ih =>
    obtain ⟨k, v⟩ := x
    simp [memFrom] at h
    have : a ≠ k := by omega
    simp only [mread, this, if_false]
    exact ih h.2 (by omega)

theorem memFrom_mwrite {lo : Nat} {m : Mem} (a : Nat) (b : Byte) (h : memFrom lo m = true) (l : lo ≤ a) :
    memFrom lo (mwrite m a b) = true := by
  induction m generalizing lo with
  | nil => unfold mwrite; split <;> simp_all [memFrom]
  | cons x m ih =>
    obtain ⟨k, v⟩ := x
    simp [memFrom] at h
    simp only [mwrite]
    split
    · rename_i e; subst e
      split
      · exact memFrom_le h.2 (by omega)
      · rename_i z; simp only [memFrom, h.2, Bool.and_true, Bool.and_eq_true, decide_eq_true_eq, bne_iff_ne]; exact ⟨l, z⟩
    · split
      · split
        · simp [memFrom, h]
        · rename_i z
          simp only [memFrom, h.2, Bool.and_true, Bool.and_eq_true, decide_eq_true_eq, bne_iff_ne]
          exact ⟨⟨l, z⟩, by omega, h.1.2⟩
      · simp [memFrom, h]; exact ih h.2 (by omega)

theorem memWf_mwrite {m : Mem} (a : Nat) (b : Byte) (h : memWf m = true) : memWf (mwrite m a b) = true :=
  memFrom_mwrite a b h (by omega)

theorem memWf_mwriteN {m : Mem} (a : Nat) (bs : List Byte) (h : memWf m = true) : memWf (mwriteN m a bs) = true := by
  induction bs generalizing m a with
  | nil => exact h
  | cons b bs ih => exact ih (a + 1) (memWf_mwrite a b h)

theorem memFrom_filter {lo : Nat} {m : Mem} (p : Nat × Byte → Bool) (h : memFrom lo m = true) : memFrom lo (m.filter p) = true := by
  induction m generalizing lo with
  | nil => rfl
  | cons x m ih =>
    obtain ⟨k, v⟩ := x
    simp [memFrom] at h
    simp only [List.filter_cons]
    split
    · simp [memFrom, h.1]; exact ih h.2
    · exact memFrom_le (ih h.2) (by omega)

theorem memWf_mclear {m : Mem} (a n : Nat) (h : memWf m = true) : memWf (mclear m a n) = true := memFrom_filter _ h

theorem mread_mwrite {m : Mem} (a x : Nat) (b : Byte) (h : memWf m = true) :
    mread (mwrite m a b) x = if x = a then b else mread m x := by
  have gen : ∀ (lo : Nat) (m : Mem), memFrom lo m = true → lo ≤ a → mread (mwrite m a b) x = if x = a then b else mread m x := by
    intro lo m
    induction m generalizing lo with
    | nil => intro _ _; unfold mwrite; split <;> simp_all [mread]
    | cons y m ih =>
      obtain ⟨k, v⟩ := y
      intro h l
      simp [memFrom] at h
      simp only [mwrite]
      split
      · rename_i e; subst e
        split
        · rename_i z
          simp only [mread]
          split
          · rename_i e; subst e; rw [mread_below h.2 (by omega), z]
          · rfl
        · simp only [mread]; split <;> rfl
      · rename_i ne
        split
        · rename_i lt
          split
          · rename_i z
            split
            · rename_i e; subst e; subst z
              exact mread_below (lo := x + 1) (m := (k, v) :: m) (by simp [memFrom, h]; omega) (by omega)
            · rfl
          · simp [mread]
        · simp only [mread, ih _ h.2 (by omega)]
          split
          · rename_i e; subst e; simp [Ne.symm ne]
          · rfl
  exact gen 0 m h (by omega)

/-- A memory after a store: every byte outside reads as before. -/
theorem storesAt_mwriteN {m : Mem} (a : Nat) (bs : List Byte) (h : memWf m = true) : storesAt m (mwriteN m a bs) a bs := by
  induction bs generalizing m a with
  | nil => intro x; simp [mwriteN]
  | cons b bs ih =>
    intro x
    have := ih (m := mwrite m a b) (a + 1) (memWf_mwrite a b h) x
    simp only [mwriteN, this, mread_mwrite a x b h]
    by_cases h1 : a + 1 ≤ x
    · have : x ≠ a := by omega
      have h2 : a ≤ x := by omega
      have h3 : x - a = (x - (a + 1)) + 1 := by omega
      simp [h1, h2, this, h3]
    · by_cases h2 : x = a
      · subst h2; simp
      · have : ¬ a ≤ x := by omega
        simp [h1, h2, this]

theorem mread_mclear {m : Mem} (a n x : Nat) : mread (mclear m a n) x = if a ≤ x ∧ x < a + n then 0 else mread m x := by
  induction m with
  | nil => simp [mclear, mread]
  | cons y m ih =>
    obtain ⟨k, v⟩ := y
    unfold mclear at *
    simp only [List.filter_cons]
    by_cases hk : a ≤ k ∧ k < a + n
    · simp only [hk.1, hk.2, decide_true, Bool.and_self, Bool.not_true, Bool.false_eq_true, if_false, ih, mread]
      by_cases hx : x = k
      · subst hx; simp [hk]
      · simp [hx]
    · have : (!(decide (a ≤ k) && decide (k < a + n))) = true := by
        simp only [Bool.not_eq_true', Bool.and_eq_false_iff, decide_eq_false_iff_not]; omega
      simp only [this, if_true, mread, ih]
      by_cases hx : x = k
      · subst hx; simp [hk]
      · simp [hx]

/-! The state after reset meets the forms. -/

theorem reset_memWf : memWf State.reset.tier.mem = true ∧ memWf State.reset.tier.lendMem = true ∧ memWf State.reset.flash.mem = true :=
  ⟨rfl, rfl, rfl⟩

end Sys2Proof.Machine
end

