-- ==== Sys2Proof/Laws/State.lean ====
section
/-!
SUPPORT. What each update of the state leaves and what it changes, field by field.
-/
namespace Sys2Proof.Machine
variable (s : State)

@[simp] theorem State.setCl_pending (c : Nat) (x : Cluster) : (s.setCl c x).pending = s.pending := rfl
@[simp] theorem State.setCl_now (c : Nat) (x : Cluster) : (s.setCl c x).now = s.now := rfl
@[simp] theorem State.setCl_freeCtr (c : Nat) (x : Cluster) : (s.setCl c x).freeCtr = s.freeCtr := rfl
@[simp] theorem State.setCl_out (c : Nat) (x : Cluster) : (s.setCl c x).out = s.out := rfl
@[simp] theorem State.setCl_host (c : Nat) (x : Cluster) : (s.setCl c x).host = s.host := rfl
@[simp] theorem State.setCl_pmc (c : Nat) (x : Cluster) : (s.setCl c x).pmc = s.pmc := rfl
@[simp] theorem State.setCl_work (c : Nat) (x : Cluster) : (s.setCl c x).work = { s.work with clusters := tput s.work.clusters c x } := rfl
@[simp] theorem State.setCl_tier (c : Nat) (x : Cluster) : (s.setCl c x).tier = s.tier := rfl
@[simp] theorem State.setCl_epo (c : Nat) (x : Cluster) : (s.setCl c x).epo = s.epo := rfl
@[simp] theorem State.setCl_fab (c : Nat) (x : Cluster) : (s.setCl c x).fab = s.fab := rfl
@[simp] theorem State.setCl_flash (c : Nat) (x : Cluster) : (s.setCl c x).flash = s.flash := rfl
@[simp] theorem State.setCl_err (c : Nat) (x : Cluster) : (s.setCl c x).err = s.err := rfl
@[simp] theorem State.setCl_mbr (c : Nat) (x : Cluster) : (s.setCl c x).mbr = s.mbr := rfl
@[simp] theorem State.setCl_pkg (c : Nat) (x : Cluster) : (s.setCl c x).pkg = s.pkg := rfl

@[simp] theorem State.setNb_pending (c : Nat) (x : NbStack) : (s.setNb c x).pending = s.pending := rfl
@[simp] theorem State.setNb_now (c : Nat) (x : NbStack) : (s.setNb c x).now = s.now := rfl
@[simp] theorem State.setNb_freeCtr (c : Nat) (x : NbStack) : (s.setNb c x).freeCtr = s.freeCtr := rfl
@[simp] theorem State.setNb_out (c : Nat) (x : NbStack) : (s.setNb c x).out = s.out := rfl
@[simp] theorem State.setNb_host (c : Nat) (x : NbStack) : (s.setNb c x).host = s.host := rfl
@[simp] theorem State.setNb_pmc (c : Nat) (x : NbStack) : (s.setNb c x).pmc = s.pmc := rfl
@[simp] theorem State.setNb_work (c : Nat) (x : NbStack) : (s.setNb c x).work = { s.work with nbs := tput s.work.nbs c x } := rfl
@[simp] theorem State.setNb_tier (c : Nat) (x : NbStack) : (s.setNb c x).tier = s.tier := rfl
@[simp] theorem State.setNb_epo (c : Nat) (x : NbStack) : (s.setNb c x).epo = s.epo := rfl
@[simp] theorem State.setNb_fab (c : Nat) (x : NbStack) : (s.setNb c x).fab = s.fab := rfl
@[simp] theorem State.setNb_flash (c : Nat) (x : NbStack) : (s.setNb c x).flash = s.flash := rfl
@[simp] theorem State.setNb_err (c : Nat) (x : NbStack) : (s.setNb c x).err = s.err := rfl
@[simp] theorem State.setNb_mbr (c : Nat) (x : NbStack) : (s.setNb c x).mbr = s.mbr := rfl
@[simp] theorem State.setNb_pkg (c : Nat) (x : NbStack) : (s.setNb c x).pkg = s.pkg := rfl

@[simp] theorem State.setPort_pending (k : Nat) (x : Port) : (s.setPort k x).pending = s.pending := rfl
@[simp] theorem State.setPort_now (k : Nat) (x : Port) : (s.setPort k x).now = s.now := rfl
@[simp] theorem State.setPort_freeCtr (k : Nat) (x : Port) : (s.setPort k x).freeCtr = s.freeCtr := rfl
@[simp] theorem State.setPort_out (k : Nat) (x : Port) : (s.setPort k x).out = s.out := rfl
@[simp] theorem State.setPort_host (k : Nat) (x : Port) : (s.setPort k x).host = s.host := rfl
@[simp] theorem State.setPort_pmc (k : Nat) (x : Port) : (s.setPort k x).pmc = s.pmc := rfl
@[simp] theorem State.setPort_work (k : Nat) (x : Port) : (s.setPort k x).work = s.work := rfl
@[simp] theorem State.setPort_tier (k : Nat) (x : Port) : (s.setPort k x).tier = s.tier := rfl
@[simp] theorem State.setPort_epo (k : Nat) (x : Port) : (s.setPort k x).epo = s.epo := rfl
@[simp] theorem State.setPort_fab (k : Nat) (x : Port) : (s.setPort k x).fab = { s.fab with ports := tput s.fab.ports k x } := rfl
@[simp] theorem State.setPort_flash (k : Nat) (x : Port) : (s.setPort k x).flash = s.flash := rfl
@[simp] theorem State.setPort_err (k : Nat) (x : Port) : (s.setPort k x).err = s.err := rfl
@[simp] theorem State.setPort_mbr (k : Nat) (x : Port) : (s.setPort k x).mbr = s.mbr := rfl
@[simp] theorem State.setPort_pkg (k : Nat) (x : Port) : (s.setPort k x).pkg = s.pkg := rfl

@[simp] theorem State.setFn_pending (f : Nat) (x : Fn) : (s.setFn f x).pending = s.pending := rfl
@[simp] theorem State.setFn_now (f : Nat) (x : Fn) : (s.setFn f x).now = s.now := rfl
@[simp] theorem State.setFn_freeCtr (f : Nat) (x : Fn) : (s.setFn f x).freeCtr = s.freeCtr := rfl
@[simp] theorem State.setFn_out (f : Nat) (x : Fn) : (s.setFn f x).out = s.out := rfl
@[simp] theorem State.setFn_host (f : Nat) (x : Fn) : (s.setFn f x).host = { s.host with fns := tput s.host.fns f x } := rfl
@[simp] theorem State.setFn_pmc (f : Nat) (x : Fn) : (s.setFn f x).pmc = s.pmc := rfl
@[simp] theorem State.setFn_work (f : Nat) (x : Fn) : (s.setFn f x).work = s.work := rfl
@[simp] theorem State.setFn_tier (f : Nat) (x : Fn) : (s.setFn f x).tier = s.tier := rfl
@[simp] theorem State.setFn_epo (f : Nat) (x : Fn) : (s.setFn f x).epo = s.epo := rfl
@[simp] theorem State.setFn_fab (f : Nat) (x : Fn) : (s.setFn f x).fab = s.fab := rfl
@[simp] theorem State.setFn_flash (f : Nat) (x : Fn) : (s.setFn f x).flash = s.flash := rfl
@[simp] theorem State.setFn_err (f : Nat) (x : Fn) : (s.setFn f x).err = s.err := rfl
@[simp] theorem State.setFn_mbr (f : Nat) (x : Fn) : (s.setFn f x).mbr = s.mbr := rfl
@[simp] theorem State.setFn_pkg (f : Nat) (x : Fn) : (s.setFn f x).pkg = s.pkg := rfl

@[simp] theorem State.setQ_pending (f q : Nat) (x : Queue) : (s.setQ f q x).pending = s.pending := rfl
@[simp] theorem State.setQ_now (f q : Nat) (x : Queue) : (s.setQ f q x).now = s.now := rfl
@[simp] theorem State.setQ_freeCtr (f q : Nat) (x : Queue) : (s.setQ f q x).freeCtr = s.freeCtr := rfl
@[simp] theorem State.setQ_out (f q : Nat) (x : Queue) : (s.setQ f q x).out = s.out := rfl
@[simp] theorem State.setQ_host (f q : Nat) (x : Queue) : (s.setQ f q x).host = { s.host with fns := tput s.host.fns f { s.fn f with queues := tput (s.fn f).queues q x } } := rfl
@[simp] theorem State.setQ_pmc (f q : Nat) (x : Queue) : (s.setQ f q x).pmc = s.pmc := rfl
@[simp] theorem State.setQ_work (f q : Nat) (x : Queue) : (s.setQ f q x).work = s.work := rfl
@[simp] theorem State.setQ_tier (f q : Nat) (x : Queue) : (s.setQ f q x).tier = s.tier := rfl
@[simp] theorem State.setQ_epo (f q : Nat) (x : Queue) : (s.setQ f q x).epo = s.epo := rfl
@[simp] theorem State.setQ_fab (f q : Nat) (x : Queue) : (s.setQ f q x).fab = s.fab := rfl
@[simp] theorem State.setQ_flash (f q : Nat) (x : Queue) : (s.setQ f q x).flash = s.flash := rfl
@[simp] theorem State.setQ_err (f q : Nat) (x : Queue) : (s.setQ f q x).err = s.err := rfl
@[simp] theorem State.setQ_mbr (f q : Nat) (x : Queue) : (s.setQ f q x).mbr = s.mbr := rfl
@[simp] theorem State.setQ_pkg (f q : Nat) (x : Queue) : (s.setQ f q x).pkg = s.pkg := rfl

@[simp] theorem State.setAdm_pending (p : Nat) (x : Adm) : (s.setAdm p x).pending = s.pending := rfl
@[simp] theorem State.setAdm_now (p : Nat) (x : Adm) : (s.setAdm p x).now = s.now := rfl
@[simp] theorem State.setAdm_freeCtr (p : Nat) (x : Adm) : (s.setAdm p x).freeCtr = s.freeCtr := rfl
@[simp] theorem State.setAdm_out (p : Nat) (x : Adm) : (s.setAdm p x).out = s.out := rfl
@[simp] theorem State.setAdm_host (p : Nat) (x : Adm) : (s.setAdm p x).host = { s.host with adm := tput s.host.adm p x } := rfl
@[simp] theorem State.setAdm_pmc (p : Nat) (x : Adm) : (s.setAdm p x).pmc = s.pmc := rfl
@[simp] theorem State.setAdm_work (p : Nat) (x : Adm) : (s.setAdm p x).work = s.work := rfl
@[simp] theorem State.setAdm_tier (p : Nat) (x : Adm) : (s.setAdm p x).tier = s.tier := rfl
@[simp] theorem State.setAdm_epo (p : Nat) (x : Adm) : (s.setAdm p x).epo = s.epo := rfl
@[simp] theorem State.setAdm_fab (p : Nat) (x : Adm) : (s.setAdm p x).fab = s.fab := rfl
@[simp] theorem State.setAdm_flash (p : Nat) (x : Adm) : (s.setAdm p x).flash = s.flash := rfl
@[simp] theorem State.setAdm_err (p : Nat) (x : Adm) : (s.setAdm p x).err = s.err := rfl
@[simp] theorem State.setAdm_mbr (p : Nat) (x : Adm) : (s.setAdm p x).mbr = s.mbr := rfl
@[simp] theorem State.setAdm_pkg (p : Nat) (x : Adm) : (s.setAdm p x).pkg = s.pkg := rfl

@[simp] theorem State.setBarrier_pending (b : Nat) (x : Barrier) : (s.setBarrier b x).pending = s.pending := rfl
@[simp] theorem State.setBarrier_now (b : Nat) (x : Barrier) : (s.setBarrier b x).now = s.now := rfl
@[simp] theorem State.setBarrier_freeCtr (b : Nat) (x : Barrier) : (s.setBarrier b x).freeCtr = s.freeCtr := rfl
@[simp] theorem State.setBarrier_out (b : Nat) (x : Barrier) : (s.setBarrier b x).out = s.out := rfl
@[simp] theorem State.setBarrier_host (b : Nat) (x : Barrier) : (s.setBarrier b x).host = s.host := rfl
@[simp] theorem State.setBarrier_pmc (b : Nat) (x : Barrier) : (s.setBarrier b x).pmc = s.pmc := rfl
@[simp] theorem State.setBarrier_work (b : Nat) (x : Barrier) : (s.setBarrier b x).work = s.work := rfl
@[simp] theorem State.setBarrier_tier (b : Nat) (x : Barrier) : (s.setBarrier b x).tier = s.tier := rfl
@[simp] theorem State.setBarrier_epo (b : Nat) (x : Barrier) : (s.setBarrier b x).epo = { s.epo with barriers := tput s.epo.barriers b x } := rfl
@[simp] theorem State.setBarrier_fab (b : Nat) (x : Barrier) : (s.setBarrier b x).fab = s.fab := rfl
@[simp] theorem State.setBarrier_flash (b : Nat) (x : Barrier) : (s.setBarrier b x).flash = s.flash := rfl
@[simp] theorem State.setBarrier_err (b : Nat) (x : Barrier) : (s.setBarrier b x).err = s.err := rfl
@[simp] theorem State.setBarrier_mbr (b : Nat) (x : Barrier) : (s.setBarrier b x).mbr = s.mbr := rfl
@[simp] theorem State.setBarrier_pkg (b : Nat) (x : Barrier) : (s.setBarrier b x).pkg = s.pkg := rfl

@[simp] theorem State.setSlot13_pending (m : Nat) (x : Slot13) : (s.setSlot13 m x).pending = s.pending := rfl
@[simp] theorem State.setSlot13_now (m : Nat) (x : Slot13) : (s.setSlot13 m x).now = s.now := rfl
@[simp] theorem State.setSlot13_freeCtr (m : Nat) (x : Slot13) : (s.setSlot13 m x).freeCtr = s.freeCtr := rfl
@[simp] theorem State.setSlot13_out (m : Nat) (x : Slot13) : (s.setSlot13 m x).out = s.out := rfl
@[simp] theorem State.setSlot13_host (m : Nat) (x : Slot13) : (s.setSlot13 m x).host = s.host := rfl
@[simp] theorem State.setSlot13_pmc (m : Nat) (x : Slot13) : (s.setSlot13 m x).pmc = s.pmc := rfl
@[simp] theorem State.setSlot13_work (m : Nat) (x : Slot13) : (s.setSlot13 m x).work = s.work := rfl
@[simp] theorem State.setSlot13_tier (m : Nat) (x : Slot13) : (s.setSlot13 m x).tier = s.tier := rfl
@[simp] theorem State.setSlot13_epo (m : Nat) (x : Slot13) : (s.setSlot13 m x).epo = s.epo := rfl
@[simp] theorem State.setSlot13_fab (m : Nat) (x : Slot13) : (s.setSlot13 m x).fab = s.fab := rfl
@[simp] theorem State.setSlot13_flash (m : Nat) (x : Slot13) : (s.setSlot13 m x).flash = { s.flash with slots := tput s.flash.slots m x } := rfl
@[simp] theorem State.setSlot13_err (m : Nat) (x : Slot13) : (s.setSlot13 m x).err = s.err := rfl
@[simp] theorem State.setSlot13_mbr (m : Nat) (x : Slot13) : (s.setSlot13 m x).mbr = s.mbr := rfl
@[simp] theorem State.setSlot13_pkg (m : Nat) (x : Slot13) : (s.setSlot13 m x).pkg = s.pkg := rfl

@[simp] theorem State.setDie_pending (d : Nat) (x : Die) : (s.setDie d x).pending = s.pending := rfl
@[simp] theorem State.setDie_now (d : Nat) (x : Die) : (s.setDie d x).now = s.now := rfl
@[simp] theorem State.setDie_freeCtr (d : Nat) (x : Die) : (s.setDie d x).freeCtr = s.freeCtr := rfl
@[simp] theorem State.setDie_out (d : Nat) (x : Die) : (s.setDie d x).out = s.out := rfl
@[simp] theorem State.setDie_host (d : Nat) (x : Die) : (s.setDie d x).host = s.host := rfl
@[simp] theorem State.setDie_pmc (d : Nat) (x : Die) : (s.setDie d x).pmc = s.pmc := rfl
@[simp] theorem State.setDie_work (d : Nat) (x : Die) : (s.setDie d x).work = s.work := rfl
@[simp] theorem State.setDie_tier (d : Nat) (x : Die) : (s.setDie d x).tier = s.tier := rfl
@[simp] theorem State.setDie_epo (d : Nat) (x : Die) : (s.setDie d x).epo = s.epo := rfl
@[simp] theorem State.setDie_fab (d : Nat) (x : Die) : (s.setDie d x).fab = s.fab := rfl
@[simp] theorem State.setDie_flash (d : Nat) (x : Die) : (s.setDie d x).flash = { s.flash with dies := tput s.flash.dies d x } := rfl
@[simp] theorem State.setDie_err (d : Nat) (x : Die) : (s.setDie d x).err = s.err := rfl
@[simp] theorem State.setDie_mbr (d : Nat) (x : Die) : (s.setDie d x).mbr = s.mbr := rfl
@[simp] theorem State.setDie_pkg (d : Nat) (x : Die) : (s.setDie d x).pkg = s.pkg := rfl

@[simp] theorem State.setHome_pending (t : Nat) (h : Home) : (s.setHome t h).pending = s.pending := rfl
@[simp] theorem State.setHome_now (t : Nat) (h : Home) : (s.setHome t h).now = s.now := rfl
@[simp] theorem State.setHome_freeCtr (t : Nat) (h : Home) : (s.setHome t h).freeCtr = s.freeCtr := rfl
@[simp] theorem State.setHome_out (t : Nat) (h : Home) : (s.setHome t h).out = s.out := rfl
@[simp] theorem State.setHome_host (t : Nat) (h : Home) : (s.setHome t h).host = s.host := rfl
@[simp] theorem State.setHome_pmc (t : Nat) (h : Home) : (s.setHome t h).pmc = s.pmc := rfl
@[simp] theorem State.setHome_work (t : Nat) (h : Home) : (s.setHome t h).work = s.work := rfl
@[simp] theorem State.setHome_epo (t : Nat) (h : Home) : (s.setHome t h).epo = s.epo := rfl
@[simp] theorem State.setHome_fab (t : Nat) (h : Home) : (s.setHome t h).fab = s.fab := rfl
@[simp] theorem State.setHome_flash (t : Nat) (h : Home) : (s.setHome t h).flash = s.flash := rfl
@[simp] theorem State.setHome_err (t : Nat) (h : Home) : (s.setHome t h).err = s.err := rfl
@[simp] theorem State.setHome_mbr (t : Nat) (h : Home) : (s.setHome t h).mbr = s.mbr := rfl
@[simp] theorem State.setHome_pkg (t : Nat) (h : Home) : (s.setHome t h).pkg = s.pkg := rfl

@[simp] theorem State.setRegion_pending (r : Nat) (x : RegionSt) : (s.setRegion r x).pending = s.pending := rfl
@[simp] theorem State.setRegion_now (r : Nat) (x : RegionSt) : (s.setRegion r x).now = s.now := rfl
@[simp] theorem State.setRegion_freeCtr (r : Nat) (x : RegionSt) : (s.setRegion r x).freeCtr = s.freeCtr := rfl
@[simp] theorem State.setRegion_out (r : Nat) (x : RegionSt) : (s.setRegion r x).out = s.out := rfl
@[simp] theorem State.setRegion_host (r : Nat) (x : RegionSt) : (s.setRegion r x).host = s.host := rfl
@[simp] theorem State.setRegion_pmc (r : Nat) (x : RegionSt) : (s.setRegion r x).pmc = s.pmc := rfl
@[simp] theorem State.setRegion_work (r : Nat) (x : RegionSt) : (s.setRegion r x).work = s.work := rfl
@[simp] theorem State.setRegion_tier (r : Nat) (x : RegionSt) : (s.setRegion r x).tier = { s.tier with regions := tput s.tier.regions r x } := rfl
@[simp] theorem State.setRegion_epo (r : Nat) (x : RegionSt) : (s.setRegion r x).epo = s.epo := rfl
@[simp] theorem State.setRegion_fab (r : Nat) (x : RegionSt) : (s.setRegion r x).fab = s.fab := rfl
@[simp] theorem State.setRegion_flash (r : Nat) (x : RegionSt) : (s.setRegion r x).flash = s.flash := rfl
@[simp] theorem State.setRegion_err (r : Nat) (x : RegionSt) : (s.setRegion r x).err = s.err := rfl
@[simp] theorem State.setRegion_mbr (r : Nat) (x : RegionSt) : (s.setRegion r x).mbr = s.mbr := rfl
@[simp] theorem State.setRegion_pkg (r : Nat) (x : RegionSt) : (s.setRegion r x).pkg = s.pkg := rfl

@[simp] theorem State.setConn_pending (p : SpdmPath) (c : SpdmConn) : (s.setConn p c).pending = s.pending := rfl
@[simp] theorem State.setConn_now (p : SpdmPath) (c : SpdmConn) : (s.setConn p c).now = s.now := rfl
@[simp] theorem State.setConn_freeCtr (p : SpdmPath) (c : SpdmConn) : (s.setConn p c).freeCtr = s.freeCtr := rfl
@[simp] theorem State.setConn_out (p : SpdmPath) (c : SpdmConn) : (s.setConn p c).out = s.out := rfl
@[simp] theorem State.setConn_host (p : SpdmPath) (c : SpdmConn) : (s.setConn p c).host = s.host := rfl
@[simp] theorem State.setConn_pmc (p : SpdmPath) (c : SpdmConn) : (s.setConn p c).pmc = s.pmc := rfl
@[simp] theorem State.setConn_work (p : SpdmPath) (c : SpdmConn) : (s.setConn p c).work = s.work := rfl
@[simp] theorem State.setConn_tier (p : SpdmPath) (c : SpdmConn) : (s.setConn p c).tier = s.tier := rfl
@[simp] theorem State.setConn_epo (p : SpdmPath) (c : SpdmConn) : (s.setConn p c).epo = s.epo := rfl
@[simp] theorem State.setConn_fab (p : SpdmPath) (c : SpdmConn) : (s.setConn p c).fab = s.fab := rfl
@[simp] theorem State.setConn_flash (p : SpdmPath) (c : SpdmConn) : (s.setConn p c).flash = s.flash := rfl
@[simp] theorem State.setConn_err (p : SpdmPath) (c : SpdmConn) : (s.setConn p c).err = s.err := rfl
@[simp] theorem State.setConn_mbr (p : SpdmPath) (c : SpdmConn) : (s.setConn p c).mbr = s.mbr := rfl

@[simp] theorem State.emit_pending (o : Out) : (s.emit o).pending = s.pending := rfl
@[simp] theorem State.emit_now (o : Out) : (s.emit o).now = s.now := rfl
@[simp] theorem State.emit_freeCtr (o : Out) : (s.emit o).freeCtr = s.freeCtr := rfl
@[simp] theorem State.emit_out (o : Out) : (s.emit o).out = s.out ++ [o] := rfl
@[simp] theorem State.emit_host (o : Out) : (s.emit o).host = s.host := rfl
@[simp] theorem State.emit_pmc (o : Out) : (s.emit o).pmc = s.pmc := rfl
@[simp] theorem State.emit_work (o : Out) : (s.emit o).work = s.work := rfl
@[simp] theorem State.emit_tier (o : Out) : (s.emit o).tier = s.tier := rfl
@[simp] theorem State.emit_epo (o : Out) : (s.emit o).epo = s.epo := rfl
@[simp] theorem State.emit_fab (o : Out) : (s.emit o).fab = s.fab := rfl
@[simp] theorem State.emit_flash (o : Out) : (s.emit o).flash = s.flash := rfl
@[simp] theorem State.emit_err (o : Out) : (s.emit o).err = s.err := rfl
@[simp] theorem State.emit_mbr (o : Out) : (s.emit o).mbr = s.mbr := rfl
@[simp] theorem State.emit_pkg (o : Out) : (s.emit o).pkg = s.pkg := rfl

@[simp] theorem count_pending (p ev q n : Nat) : (count s p ev q n).pending = s.pending := by unfold count; split <;> rfl
@[simp] theorem count_now (p ev q n : Nat) : (count s p ev q n).now = s.now := by unfold count; split <;> rfl
@[simp] theorem count_freeCtr (p ev q n : Nat) : (count s p ev q n).freeCtr = s.freeCtr := by unfold count; split <;> rfl
@[simp] theorem count_out (p ev q n : Nat) : (count s p ev q n).out = s.out := by unfold count; split <;> rfl
@[simp] theorem count_host (p ev q n : Nat) : (count s p ev q n).host = s.host := by unfold count; split <;> rfl
@[simp] theorem count_work (p ev q n : Nat) : (count s p ev q n).work = s.work := by unfold count; split <;> rfl
@[simp] theorem count_tier (p ev q n : Nat) : (count s p ev q n).tier = s.tier := by unfold count; split <;> rfl
@[simp] theorem count_epo (p ev q n : Nat) : (count s p ev q n).epo = s.epo := by unfold count; split <;> rfl
@[simp] theorem count_fab (p ev q n : Nat) : (count s p ev q n).fab = s.fab := by unfold count; split <;> rfl
@[simp] theorem count_flash (p ev q n : Nat) : (count s p ev q n).flash = s.flash := by unfold count; split <;> rfl
@[simp] theorem count_err (p ev q n : Nat) : (count s p ev q n).err = s.err := by unfold count; split <;> rfl
@[simp] theorem count_mbr (p ev q n : Nat) : (count s p ev q n).mbr = s.mbr := by unfold count; split <;> rfl
@[simp] theorem count_pkg (p ev q n : Nat) : (count s p ev q n).pkg = s.pkg := by unfold count; split <;> rfl

@[simp] theorem countNode_pending (ev q n : Nat) : (countNode s ev q n).pending = s.pending := by simp [countNode]
@[simp] theorem countNode_now (ev q n : Nat) : (countNode s ev q n).now = s.now := by simp [countNode]
@[simp] theorem countNode_freeCtr (ev q n : Nat) : (countNode s ev q n).freeCtr = s.freeCtr := by simp [countNode]
@[simp] theorem countNode_out (ev q n : Nat) : (countNode s ev q n).out = s.out := by simp [countNode]
@[simp] theorem countNode_host (ev q n : Nat) : (countNode s ev q n).host = s.host := by simp [countNode]
@[simp] theorem countNode_work (ev q n : Nat) : (countNode s ev q n).work = s.work := by simp [countNode]
@[simp] theorem countNode_tier (ev q n : Nat) : (countNode s ev q n).tier = s.tier := by simp [countNode]
@[simp] theorem countNode_epo (ev q n : Nat) : (countNode s ev q n).epo = s.epo := by simp [countNode]
@[simp] theorem countNode_fab (ev q n : Nat) : (countNode s ev q n).fab = s.fab := by simp [countNode]
@[simp] theorem countNode_flash (ev q n : Nat) : (countNode s ev q n).flash = s.flash := by simp [countNode]
@[simp] theorem countNode_err (ev q n : Nat) : (countNode s ev q n).err = s.err := by simp [countNode]
@[simp] theorem countNode_mbr (ev q n : Nat) : (countNode s ev q n).mbr = s.mbr := by simp [countNode]
@[simp] theorem countNode_pkg (ev q n : Nat) : (countNode s ev q n).pkg = s.pkg := by simp [countNode]

@[simp] theorem countCls_pending (c ev q n : Nat) : (countCls s c ev q n).pending = s.pending := by unfold countCls; (repeat' split) <;> simp
@[simp] theorem countCls_now (c ev q n : Nat) : (countCls s c ev q n).now = s.now := by unfold countCls; (repeat' split) <;> simp
@[simp] theorem countCls_freeCtr (c ev q n : Nat) : (countCls s c ev q n).freeCtr = s.freeCtr := by unfold countCls; (repeat' split) <;> simp
@[simp] theorem countCls_out (c ev q n : Nat) : (countCls s c ev q n).out = s.out := by unfold countCls; (repeat' split) <;> simp
@[simp] theorem countCls_host (c ev q n : Nat) : (countCls s c ev q n).host = s.host := by unfold countCls; (repeat' split) <;> simp
@[simp] theorem countCls_work (c ev q n : Nat) : (countCls s c ev q n).work = s.work := by unfold countCls; (repeat' split) <;> simp
@[simp] theorem countCls_tier (c ev q n : Nat) : (countCls s c ev q n).tier = s.tier := by unfold countCls; (repeat' split) <;> simp
@[simp] theorem countCls_epo (c ev q n : Nat) : (countCls s c ev q n).epo = s.epo := by unfold countCls; (repeat' split) <;> simp
@[simp] theorem countCls_fab (c ev q n : Nat) : (countCls s c ev q n).fab = s.fab := by unfold countCls; (repeat' split) <;> simp
@[simp] theorem countCls_flash (c ev q n : Nat) : (countCls s c ev q n).flash = s.flash := by unfold countCls; (repeat' split) <;> simp
@[simp] theorem countCls_err (c ev q n : Nat) : (countCls s c ev q n).err = s.err := by unfold countCls; (repeat' split) <;> simp
@[simp] theorem countCls_mbr (c ev q n : Nat) : (countCls s c ev q n).mbr = s.mbr := by unfold countCls; (repeat' split) <;> simp
@[simp] theorem countCls_pkg (c ev q n : Nat) : (countCls s c ev q n).pkg = s.pkg := by unfold countCls; (repeat' split) <;> simp

@[simp] theorem State.cl_setCl_same (k : Nat) (x : Cluster) : (s.setCl k x).cl k = x := by simp [State.cl, State.setCl]
theorem State.cl_setCl_ne (j k : Nat) (x : Cluster) (h : j ≠ k) : (s.setCl k x).cl j = s.cl j := by
  simp [State.cl, State.setCl, tgetD_tput_ne _ _ _ _ _ h]
@[simp] theorem State.port_setPort_same (k : Nat) (x : Port) : (s.setPort k x).port k = x := by simp [State.port, State.setPort]
theorem State.port_setPort_ne (j k : Nat) (x : Port) (h : j ≠ k) : (s.setPort k x).port j = s.port j := by
  simp [State.port, State.setPort, tgetD_tput_ne _ _ _ _ _ h]
@[simp] theorem State.fn_setFn_same (k : Nat) (x : Fn) : (s.setFn k x).fn k = x := by simp [State.fn, State.setFn]
theorem State.fn_setFn_ne (j k : Nat) (x : Fn) (h : j ≠ k) : (s.setFn k x).fn j = s.fn j := by
  simp [State.fn, State.setFn, tgetD_tput_ne _ _ _ _ _ h]
@[simp] theorem State.adm_setAdm_same (k : Nat) (x : Adm) : (s.setAdm k x).adm k = x := by simp [State.adm, State.setAdm]
theorem State.adm_setAdm_ne (j k : Nat) (x : Adm) (h : j ≠ k) : (s.setAdm k x).adm j = s.adm j := by
  simp [State.adm, State.setAdm, tgetD_tput_ne _ _ _ _ _ h]
@[simp] theorem State.barrier_setBarrier_same (k : Nat) (x : Barrier) : (s.setBarrier k x).barrier k = x := by simp [State.barrier, State.setBarrier]
theorem State.barrier_setBarrier_ne (j k : Nat) (x : Barrier) (h : j ≠ k) : (s.setBarrier k x).barrier j = s.barrier j := by
  simp [State.barrier, State.setBarrier, tgetD_tput_ne _ _ _ _ _ h]
@[simp] theorem State.slot13_setSlot13_same (k : Nat) (x : Slot13) : (s.setSlot13 k x).slot13 k = x := by simp [State.slot13, State.setSlot13]
theorem State.slot13_setSlot13_ne (j k : Nat) (x : Slot13) (h : j ≠ k) : (s.setSlot13 k x).slot13 j = s.slot13 j := by
  simp [State.slot13, State.setSlot13, tgetD_tput_ne _ _ _ _ _ h]
@[simp] theorem State.die_setDie_same (k : Nat) (x : Die) : (s.setDie k x).die k = x := by simp [State.die, State.setDie]
theorem State.die_setDie_ne (j k : Nat) (x : Die) (h : j ≠ k) : (s.setDie k x).die j = s.die j := by
  simp [State.die, State.setDie, tgetD_tput_ne _ _ _ _ _ h]
theorem State.home_setHome_ne (j k : Nat) (x : Home) (h : j ≠ k) : (s.setHome k x).home j = s.home j := by
  simp only [State.home, State.setHome]
  split
  · simp [tgetD, tget?_terase_ne _ _ _ h]
  · simp [tgetD_tput_ne _ _ _ _ _ h]
theorem State.home_setHome_same (k : Nat) (x : Home) (h : tabWf s.tier.home = true) : (s.setHome k x).home k = x := by
  simp only [State.home, State.setHome]
  split
  · rename_i e; simp [tgetD, tget?_terase_same _ h, e]
  · simp
theorem State.home_setHome_listed (k : Nat) (x : Home) (h : x ≠ {}) : (s.setHome k x).home k = x := by
  simp [State.home, State.setHome, h]

end Sys2Proof.Machine
end

