-- ==== Sys2Proof/Tests/Slice0.lean ====
section
/-!
SUPPORT. Ill-formed terms that WellFormed refuses; small tests from the spec's worked examples; and for every statement that has hypotheses, a state
and operands that meet them, clause by clause.
-/
set_option maxRecDepth 20000
set_option Elab.async false
set_option linter.unusedVariables false
open Sys2Proof Sys2Proof.Machine

/-! Ill-formed terms, one or more for each check of WellFormed. -/

def okPacket : Packet := { kind := 1, dst := 0, src := 1, part := 0 }
def okFrame : Frame := { seq := 0, ack := 0, resend := none, crcOk := true, corrected := 0, uncorr := 0, flits := [] }
def okRec : LogRec := ⟨1, 0, 0, 0, 2 ^ 64 - 1, 0, 0, 1, false, 0, 0, []⟩
def okMap : RackMap :=
  { gen := 1, job := 1, members := 3, spares := 0, roles := [], idents := [], hosts := [], mgrs := [0, 1, 8, 9, 2], restart := none }
def okModule (r : List Nat) : ModuleId := { present := true, bytes := [], paramsOk := true, suspend := true, rates := r }
def okStart : StartIn :=
  { clusterFail := [], unitFail := [], coreFail := [], healthy := true, secret := none, nonce := 0,
    modules := List.replicate 8 (okModule [1, 1, 1, 1]) }
def okReport : ReportMsg := { silent := [], counts := [], records := [] }
def okHelloMsg : HelloMsg := { identity := none, rackId := 0, period := 10, starter := 0 }

theorem test_wf_packet_fields :
    [{ okPacket with kind := 64 }, { okPacket with dst := 4096 }, { okPacket with src := 4096 }, { okPacket with part := 32 },
     { okPacket with rcls := 3 }, { okPacket with len := 257 }, { okPacket with tag := 65536 }, { okPacket with addr := 2 ^ 64 },
     { okPacket with gen := 2 ^ 32 }, { okPacket with bseq := 2 ^ 32 }, { okPacket with fseq := 2 ^ 32 },
     { okPacket with status := 65536 }, { okPacket with aux := 65536 }, { okPacket with payload := List.replicate 257 0 }].all
      (fun p => !Instr.wf (.load 0 p)) = true ∧ Instr.wf (.load 0 okPacket) = true := by decide +kernel
theorem test_wf_frames :
    [{ okFrame with seq := 4096 }, { okFrame with ack := 4096 }, { okFrame with resend := some 4096 },
     { okFrame with flits := List.replicate 33 .idle }, { okFrame with flits := [.data 4096 0 0 (List.replicate 16 0)] },
     { okFrame with flits := [.data 0 (2 ^ 32) 0 (List.replicate 16 0)] }, { okFrame with flits := [.data 0 0 16 (List.replicate 16 0)] },
     { okFrame with flits := [.data 0 0 0 [1]] }, { okFrame with flits := [.header { okPacket with kind := 64 }] }].all
      (fun f => !Instr.wf (.linkFrame 0 f)) = true := by decide +kernel
theorem test_wf_ident :
    [IdentMsg.node (2 ^ 32) 0 0 0 0, .node 0 64 0 0 0, .node 0 0 32 0 0, .node 0 0 0 3 0, .node 0 0 0 0 (2 ^ 32), .endpoint 4].all
      (fun m => !Instr.wf (.ident 0 m)) = true := by decide +kernel
theorem test_wf_copy :
    [CopyItem.burst 0 [1] false, .write 0 [], .write 65535 [1, 2], .atomic 0 65536 0 0, .atomic 0 0 (2 ^ 64) 0,
     .atomic 0 0 0 (2 ^ 64)].all
      (fun x => !Instr.wf (.copy (.own 0) x)) = true := by decide +kernel
theorem test_wf_log :
    [{ okRec with seq := 2 ^ 64 }, { okRec with stamp := 2 ^ 64 }, { okRec with epoch := 2 ^ 64 }, { okRec with handle := 2 ^ 64 },
     { okRec with oldHandle := 2 ^ 64 }, { okRec with fwdId := 2 ^ 64 }, { okRec with index := 65536 }, { okRec with kind := 0 },
     { okRec with kind := 4 }, { okRec with origin := 64 }, { okRec with entry := 64 }, { okRec with kind := 2, payload := [1] }].all
      (fun r => !Instr.wf (.log 0 0 0 r)) = true := by decide +kernel
theorem test_wf_maps :
    [{ okMap with gen := 2 ^ 32 }, { okMap with job := 2 ^ 32 }, { okMap with members := 2 ^ 64 }, { okMap with spares := 4 },
     { okMap with roles := [(64, 0)] }, { okMap with roles := [(0, 3)] }, { okMap with idents := [(64, 0)] },
     { okMap with idents := [(0, 2 ^ 512)] }, { okMap with hosts := [(64, 0)] }, { okMap with hosts := [(0, 64)] },
     { okMap with mgrs := [0] }, { okMap with mgrs := [0, 1, 2, 3, 64] }, { okMap with restart := some (2 ^ 64) }].all
      (fun m => !Instr.wf (.commit 0 m)) = true := by decide +kernel
theorem test_wf_membership :
    [Instr.hello 0 { okHelloMsg with identity := some (2 ^ 512) }, .hello 0 { okHelloMsg with rackId := 2 ^ 32 },
     .hello 0 { okHelloMsg with period := 0 }, .hello 0 { okHelloMsg with period := 251 }, .hello 0 { okHelloMsg with starter := 2 ^ 512 },
     .report 0 { okReport with silent := [64] }, .report 0 { okReport with counts := [(64, 0, 0)] },
     .report 0 { okReport with records := [[]] }, .report 0 { okReport with restart := some (2 ^ 64) },
     .report 0 { okReport with rebuilt := some 64 }, .weights 0 [(0, 3)], .weights 0 [(64, 1)], .heartbeat 0 (2 ^ 64),
     .hbAck 0 (2 ^ 32) 0, .hbAck 0 0 (2 ^ 64), .voteReq 0 (2 ^ 32), .vote 0 (2 ^ 32) 0 0, .vote 0 0 (2 ^ 32) 0, .vote 0 0 0 (2 ^ 32),
     .append 0 (2 ^ 32) okMap, .append 0 0 { okMap with mgrs := [] }, .appendAck 0 (2 ^ 32) 0, .appendAck 0 0 (2 ^ 32),
     .rebuildRecordsArrive [(2 ^ 64, [])], .rebuildRecordsArrive [(0, [{ okRec with kind := 0 }])],
     .reject 0 okPacket (some { okMap with mgrs := [] }), .arm 0 0 (2 ^ 64) 0, .arm 0 0 0 (2 ^ 32)].all
      (fun c => !c.wf) = true := by decide +kernel
theorem test_wf_start :
    [{ okStart with clusterFail := [136] }, { okStart with unitFail := [(8, 0)] }, { okStart with unitFail := [(0, 64)] },
     { okStart with coreFail := [3] }, { okStart with secret := some [1] }, { okStart with modules := [] },
     { okStart with modules := List.replicate 8 (okModule []) }].all
      (fun x => !Instr.wf (.startSequence x)) = true ∧ Instr.wf (.startSequence okStart) = true := by decide +kernel
theorem test_wf_numbers :
    [Instr.windowWrite 0 0 [], .windowWrite 0 33554432 [1], .winPartial 0 2048, .headDeadlineExpire 0 2048, .cqHeadpPoll 0 2048 none,
     .imodTimerExpire 0 2048, .queueEnable 0 2048 0, .queueDisable 0 2048 0, .admBktNext 0 0 (2 ^ 32) 0, .admBktFull 0 0 0 (2 ^ 24),
     .admBktEmpty 0 0 (2 ^ 32) 0, .recordArrive 0 0 (2 ^ 32), .prefetchArrive 0 0 (2 ^ 32), .rerankVectorArrive 0 0 (2 ^ 32),
     .fillArrive 0 (2 ^ 40), .logAck 0 (2 ^ 32) 0 0, .logAck 0 0 (2 ^ 64) 0, .logAck 0 0 0 (2 ^ 64), .logTmoExpire (2 ^ 64),
     .logVoid 0 (2 ^ 32) 0 0, .logVoid 0 0 0 (2 ^ 64), .logVoidAck 0 (2 ^ 32) 0, .logVoidAck 0 0 (2 ^ 64), .logFlashWrite (2 ^ 64),
     .log 0 (2 ^ 32) 0 okRec, .qfwd 0 okPacket (2 ^ 64) 0 0, .qfwd 0 okPacket 0 (2 ^ 64) 0, .qfwd 0 okPacket 0 0 (2 ^ 64),
     .burstHoldExpire 0 (2 ^ 32), .errInjOnce 0 0 0 false, .errInjSticky 0 15 0 false, .errInjCancel 0 0,
     .errInjNextStart 0 1 (BitVec.ofNat 64 (2 ^ 48)) false, .rowRepairDone 0 (2 ^ 26) true, .writeBufferExpire (2 ^ 33),
     .modulePowerWaitExpire 0 (okModule []), .calibrationTick (2 ^ 31), .spdmGetDigests .mctp [1],
     .ideKm .mctp [], .powerWindowTick 65536, .avsTelemetry 0 true 65536 0, .avsTelemetry 0 true 0 65536,
     .thermalSample (List.replicate 27 0), .boardSensorPoll (List.replicate 9 none), .registerWrite 0 (2 ^ 24) 8 0,
     .registerWrite 0 0 0 0, .registerWrite 0 0 9 0].all (fun c => !c.wf) = true := by decide +kernel

/-! Worked examples of the spec. -/

/-- R57: the scale of a block whose largest magnitude is 3.17, proofed to PI8. -/
theorem test_scale_example : Scale.encode 317 12700 0 = ⟨0, -6, 52347⟩ := by decide +kernel
/-- R62: 40,000 rescales to 125, 45,000 clamps to 127 and counts. -/
theorem test_rescale_example :
    multShift 52347 (2 ^ 24) = (52347, 24) ∧ rescale 52347 24 0 (-127) 127 40000 = (125, false) ∧
      rescale 52347 24 0 (-127) 127 45000 = (127, true) := by decide +kernel
/-- R62: the tie rule with MULT 1 and SHIFT 2. -/
theorem test_rescale_ties :
    [10, 6, -6, -10, 7].map (fun x => (rescale 1 2 0 (-127) 127 x).1) = [2, 2, -2, -2, 2] := by decide +kernel
/-- R67: 0.3 to E4M3 rounds up for draws 0 to 39,320 and down otherwise. -/
theorem test_stochastic_example :
    Lay.e4m3.encode (.stoch 39320) true (.fin false 3 10) = Lay.e4m3.encode .near true (.fin false 5 16) ∧
      Lay.e4m3.encode (.stoch 39321) true (.fin false 3 10) = Lay.e4m3.encode .near true (.fin false 9 32) := by decide +kernel
/-- R139: keys under inner product and under squared Euclidean. -/
theorem test_key_example :
    [0x3F400000, 0x3F000000, 0xBF000000].map (orderKey false) = [0xBF400000, 0xBF000000, 0x40FFFFFF] ∧
      orderKey true 0x3F000000 = 0x40FFFFFF := by decide +kernel
/-- The example word of chapter 4: TMMA, token 1 awaited, token 1 signalled, 64 by 64 by 256, operands, formats, slot 2. -/
theorem test_word_example :
    let w := 0x01101900004000800000051119000308
    (wOp w, wUnit w, wLast w, wWaitt w, wSigen w, wSigt w) = (1, 0, true, 1, true, 1) ∧
      (wA w, wB w, wC w, wD w) = (0, 0x4000, 0x8000, 5) ∧ (tM w, tN w, tK w, tAcc w, tRs w) = (64, 64, 256, 2, 1) ∧
      (tAf w, tBf w, tOf w, tRnd w, tNsat w) = (.ofCode 1, .ofCode 1, .ofCode 1, false, false) := by decide +kernel
/-- R155: the span of three nodes: H8, H1, H2, H3 with TIES_OUT 8 and one duplicate. -/
theorem test_merge_example :
    let e (h score approx : Nat) : REnt := ⟨h, score, approx, 0⟩
    let k78 := orderKey false 0x3F47AE14
    let a : MList := ⟨{ k := 4, valid := 4, tieKey := k78 }, [e 1 0x3F68F5C3 1, e 2 0x3F6147AE 1, e 3 0x3F4CCCCD 2, e 4 0x3F47AE14 1], false⟩
    let b : MList := ⟨{ k := 4, valid := 4, tieKey := orderKey false 0x3F333333 },
      [e 3 0x3F47AE14 1, e 5 0x3F47AE14 1, e 6 0x3F47AE14 1, e 7 0x3F333333 1], false⟩
    let c : MList := ⟨{ k := 4, valid := 4, tieKey := k78, tiesOut := 2 },
      [e 8 0x3F733333 2, e 9 0x3F47AE14 1, e 10 0x3F47AE14 1, e 11 0x3F47AE14 1], false⟩
    let r := kneMerge false 4 [a, b, c] false
    r.es.map (fun x => x.handle) = [8, 1, 2, 3] ∧ r.head.tiesOut = 8 ∧ r.dups = 1 ∧ bitOf r.head.hflags 0 = true := by decide +kernel
/-- R281: port 5 of node 19 leads to port 3 of node 22, and port 21 to port 19. -/
theorem test_wiring_example : wiredTo 19 5 = (22, 3) ∧ wiredTo 19 21 = (22, 19) := by decide +kernel
/-- R437: an oscillator 12 ppm fast. -/
theorem test_trim_example :
    trimStep 0 (-12000) 1000000000 = -25770 ∧ trimStep (-25770) (-6000) 1000000000 = -38655 := by decide +kernel
/-- R486: CLS_SAT_CLIP of slot 2 of cluster 37 lies at 0x8_B428. -/
theorem test_address_example :
    0x8B428 / 0x80000 = 1 ∧ inst (0x8B428 % 0x80000) 0x2008 0x10 8192 = some (37 * 64 + 2) := by decide +kernel
/-- R461: VDD_CD for the steps at the edges of its table. -/
theorem test_voltage_table : [16, 24, 25, 40, 41, 42].map voltFor = [700, 700, 750, 750, 800, 800] := by decide +kernel
/-- R481: a write of MIN above MAX has no effect. -/
theorem test_tclk_refused : (wrTclk State.reset 0x0030_2800 (maskOf 63 0)).pkg.clk = State.reset.pkg.clk := by decide +kernel
/-- R413: after PG_AON falls and rises the counter is 0 and a cold start begins. -/
theorem test_cold_start :
    ((match execPgAonFall { State.reset with now := 77 } with
      | .next s => execPgAonRise s
      | o => o) |> fun o => match o with
        | .next s => (s.now, s.pkg.sec.phase, s.pkg.sec.cold)
        | _ => (1, 0, false)) = (0, 1, true) := by decide +kernel

namespace W
def host0 : State := { State.reset with host.fns := [(0, { bound := true, part := 0, active := true, owner := true, qcount := 2, busMaster := true, queues := [(0, { cfg := 0x1005, cqFree := 64, enables := 1 })] }), (32, { bound := true, part := 0, qcount := 1, queues := [] })], host.portA.up := true, now := 8192000 }
def q1 (f : Queue → Queue) : State := host0.setQ 0 0 (f (host0.q 0 0))
def line : List Byte := 0x01#8 :: List.replicate 127 0#8
def full (t : Nat) (b : Byte) : Slot := { bytes := (0, b) :: (List.range 127).map (fun i => (i + 1, 0#8)), first := t, last := t }

/-- a command of 128 bytes: code, fields at offsets -/
def cmdB (code : Nat) (fs : List (Nat × Nat × Nat)) (flags : Nat := 0) : List Byte :=
  fs.foldl (fun b f => patch b f.1 (leBytes f.2.1 f.2.2)) (leBytes 1 code ++ leBytes 1 flags ++ leBytes 2 0x200 ++ List.replicate 124 0)
def cmd (code : Nat) (fs : List (Nat × Nat × Nat)) (flags : Nat := 0) : Cmd := { en := 1, bytes := cmdB code fs flags }
def withCmd (s : State) (c : Cmd) : State := { s with host.cmds := [(7, c)] }
def h1 : State := { q1 (fun q => { q with cfg := 1 }) with tier.prange := [(0, 0x0100_0000_0000_0000)] }
def tierS : State := { h1 with tier.home := [(3, ⟨.home, 1, 0⟩)], tier.mem := [(196608, 9)], tier.frames := [(0, { tile := 3 })] , tier.tierHi := [(0, 8)] }

def idxDesc : List Byte :=
  [(0, 2, 0x200), (2, 1, 1), (3, 1, 0), (4, 2, 16), (6, 1, 5), (7, 1, 8), (8, 1, 32), (0x10, 4, 256), (0x14, 4, 4), (0x18, 4, 5), (0x1C, 4, 6), (0x30, 1, 1), (0x40, 4, 0)].foldl
    (fun b f => patch b f.1 (leBytes f.2.1 f.2.2)) (List.replicate 0x44 0 ++ List.replicate 60 0xFF)
def idxS : State := { h1 with tier.home := [(3, ⟨.home, 1, 0⟩)], tier.mem := mwriteN [] 196608 idxDesc }
def tabDesc : List Byte :=
  [(0, 2, 0x200), (2, 1, 7), (4, 4, 1), (8, 2, 32), (0xA, 1, 1), (0xC, 4, 128), (0x10, 4, 4)].foldl
    (fun b f => patch b f.1 (leBytes f.2.1 f.2.2)) (List.replicate 64 0)
def tabS : State := { h1 with tier.home := [(3, ⟨.home, 1, 0⟩)], tier.mem := mwriteN [] 196608 tabDesc }

def planB : List Byte :=
  [(0, 4, 0x4C504E58), (4, 2, 0x200), (8, 4, 256), (0x10, 4, 64), (0x14, 4, 128), (0x18, 4, 192), (0x1C, 4, 64), (0x20, 4, 256), (0x28, 4, 256),
    (64, 2, 1), (66, 2, 1), (82, 2, 1), (128, 1, 5), (129, 1, 1), (132, 2, 1), (144, 16, 1), (192, 16, 0xFF * 2 ^ 120)].foldl
    (fun b f => patch b f.1 (leBytes f.2.1 f.2.2)) (List.replicate 256 0)
def planC : Cmd := cmd 0x10 [(0x10, 4, 256), (0x18, 8, 99)]
def planS : State := { withCmd h1 planC with pkg.sec.parts := [(0, { unsignedOk := true })] }
def planBin' : PlanBin := { outputs := 1, version := 0x200, roles := [{ role := 5, banks := 1, lists := [[0xFF * 2 ^ 120], [], [], []], clusters := [0] }] }
def plan1 (st : PlanState) : Plan := { state := st, bin := planBin' }
def invC : Cmd := { cmd 0x12 [(0x10, 8, 2 ^ 64 - 1), (0x21, 1, 5)] with bytes := cmdB 0x12 [(0x10, 8, 2 ^ 64 - 1), (0x21, 1, 5)] ++ List.replicate 128 0 }
def invS (v : Inv) : State := { withCmd h1 (cmd 0x12 []) with work.plans := [(0, plan1 .admitted)], work.invs := [(3, v)], work.nextInv := 4 }

def qDesc : List Byte := cmdB 0x20 [(0x28, 2, 4), (0x2A, 1, 0), (0x2B, 1, 5), (0x2C, 2, 9), (0x30, 2, 8), (0x32, 2, 16), (0x34, 2, 10), (0x4C, 1, 5)]
def qC : Cmd := { cmd 0x20 [] with bytes := qDesc }
def qPlan : Plan := { state := .admitted, bin := { planBin' with roles := [{ role := 5, banks := 32, lists := [[], [], [0x02 * 2 ^ 120 + 2 * 2 ^ 118], []], clusters := [0] }], consts := [[4#8]] } }
def qIdx : Index := { part := 0, desc := idxDesc, cb := [] }
def qS : State := { withCmd h1 qC with work.plans := [(0, qPlan)], work.indexes := [(4, qIdx)], epo.closed := 5 }
def qq : Query := { cid := some 7, desc := qDesc, deadline := 9000000 }
def qqS (q : Query) : State := { qS with work.queries := [(2, q)], work.nextQid := 3 }

def rec0 : LogRec := ⟨0, 5, 0, 0, 2 ^ 64 - 1, 0, 4, 1, false, 4095, 4095, []⟩
def updS : State := { h1 with work.indexes := [(4, qIdx)], epo.peers := [1, 2], epo.quota := [(0, 1)], host.cmds := [(7, cmd 0x21 [(0x20, 2, 4)])], fab.node := 0 }
def insC : Cmd := cmd 0x21 [(8, 8, 64), (0x10, 8, 128), (0x20, 2, 4)]
def idx16 : Index := { qIdx with desc := patch idxDesc 0x0B [16] }

def mvS (m : Move) : State := { tierS with tier.moves := [(3, m)], tier.home := [(3, ⟨.moving, 1, 0⟩)] }
def mv0 : Move := { old := ⟨.home, 1, 0⟩, tier := 1, loc := 16777216 }

def epS : State := { h1 with pkg.sec.epochs := true, epo.phase := .drain, epo.closing := 1, fab.node := 2, mbr.members := 4, mbr.st := .member }

/-- cluster 5 runs role 5 of a plan in slot 0; unit `u` holds the words -/
def unitS (u : Nat) (ws : List Nat) (toks : Tab Nat) : State :=
  { h1 with work.plans := [(0, { plan1 .admitted with bin := { planBin' with roles := [{ role := 5, banks := 1, lists := [], clusters := [5] }], consts := [[3#8], List.replicate 16 0#8] } })], work.clusters := [(5, { st := .running, phys := 5, role := 5, plan := some 0, served := some 0, istore := (List.replicate u []) ++ [ws], tokens := toks })], work.phys := [(5, .active)], tier.home := [(3, ⟨.home, 1, 0⟩)], tier.mem := [(196608, 9)], tier.frames := [(0, { tile := 3 })] }
def barS : State := (unitS 0 [0xF4 * 2 ^ 120 + 7 * 2 ^ 88] []).setCl 5 ((unitS 0 [0xF4 * 2 ^ 120 + 7 * 2 ^ 88] []).cl 5 |>.setUnit 0 { wait := .cbar 7 })
def nextS : State := { unitS 2 [0xF8 * 2 ^ 120 + 2 * 2 ^ 118] [(1, 4)] with work.invs := [(3, { plan := 0, role := 5, part := 0, words := [1, 2], state := .running, left := [5] })] } |> fun s => s.setCl 5 { s.cl 5 with input := [3] }
def haltS : State := unitS 0 [0xFF * 2 ^ 120] []

def scrS (s : State) (bs : Tab Byte) : State := s.setCl 5 { s.cl 5 with scratch := bs }

def filt (term : Nat) : List (List Byte) := [leBytes 16 1, leBytes 16 term]
def candB : List Byte := (REnt.mk 5 0 0 0).bytes ++ (padEnt false).bytes
def vfS (term : Nat) : State :=
  let s := unitS 1 [0x0B * 2 ^ 120 + 1 * 2 ^ 118 + 16 * 2 ^ 72 + 32 * 2 ^ 56] []
  let s := { s with work.plans := [(0, { plan1 .admitted with bin := { planBin' with roles := [{ role := 5, banks := 1, lists := [], clusters := [5] }], consts := filt term } })], work.queries := [(2, qq)], work.indexes := [(4, idx16)], work.invs := [(3, { plan := 0, role := 5, part := 0, words := [], qid := some 2, state := .running, left := [5] })] }
  s.setCl 5 ({ s.cl 5 with scratch := scrWriteT [] 0 candB, input := [3] }.setUnit 1 { inv := some 3, taken := 1 })
def vfiltS : State := vfS 0
def vfiltS2 : State := vfS (63 * 2 ^ 26 + 2 ^ 24)

/-- unit 1 of cluster 5 stands at a word; constants are given -/
def cS (w : Nat) (cs : List (List Byte)) : State :=
  let s := unitS 1 [w] []
  { s with work.plans := [(0, { plan1 .admitted with bin := { planBin' with roles := [{ role := 5, banks := 1, lists := [], clusters := [5] }], consts := cs } })] }
def vldW (b : Nat) : Nat := 0x01 * 2 ^ 120 + 1 * 2 ^ 118 + 4 * 2 ^ 88 + b * 2 ^ 72 + 1 * 2 ^ 40
def vldS : State := (cS (vldW 1) [leBytes 16 7, leBytes 16 3]) |> fun s => s.setCl 5 { s.cl 5 with istore := [[], [vldW 1]] }
def vldS0 : State := cS (vldW 0) [leBytes 16 7, leBytes 16 3]
def vldS3 : State := let s := cS (vldW 1) [leBytes 16 7, leBytes 16 3]
  let s := { s with tier.prange := [], work.invs := [(3, { plan := 0, role := 5, part := 0, words := [], state := .running, left := [5] })] }
  s.setCl 5 ({ s.cl 5 with input := [3] }.setUnit 1 { inv := some 3, taken := 1 })
def vldS2 : State := cS (0x02 * 2 ^ 120 + 1 * 2 ^ 118 + 4 * 2 ^ 88 + 1 * 2 ^ 72 + 1 * 2 ^ 40) [leBytes 16 7, leBytes 16 3]
def ports1 : Tab Port := [(0, { st := .up })]
def vatS (a : Nat) : State :=
  let s := scrS (cS (0x0E * 2 ^ 120 + 1 * 2 ^ 118 + 4 * 2 ^ 72 + 8 * 2 ^ 56) [leBytes 16 a]) [(128, 7)]
  { s with fab.node := 0, fab.ports := ports1 }
def vflS (a : Nat) : State :=
  let s := cS (0x13 * 2 ^ 120 + 1 * 2 ^ 118 + 4 * 2 ^ 40) [leBytes 16 a]
  { s with fab.node := 0, fab.ports := ports1 }
def vatS2 (a : Nat) : State := { vflS a with fab.reqs := [(9, { kind := 2, dst := 1, src := 0, part := 0, t := 0, for_ := .store 5, addr := a, len := 4, p := { kind := 2, dst := 1, src := 0, part := 0 } })] }
def invS' : State := { cS (0x12 * 2 ^ 120 + 1 * 2 ^ 118) [leBytes 16 (4 * 2 ^ 64)] with fab.node := 0, mbr.members := 2 ^ 63 + 1 }

def strW : Nat := 0x11 * 2 ^ 120 + 1 * 2 ^ 118
def strS (ms : Tab Model) : State :=
  let s := cS strW [leBytes 16 0]
  { s with work.plans := [(0, { plan1 .admitted with bin := { planBin' with roles := [{ role := 5, banks := 4, lists := [], clusters := [5] }], consts := [leBytes 16 0], models := [{ id := 77, prio := 3, layers := 2, maxTiles := 1, range := 0 }], ranges := [] } })], work.models := ms }
def strFull : State :=
  let s := strS ((List.range 32).map fun i => (i, { id := i, prio := 255, part := 0, state := .resident }))
  let s := { s with work.invs := [(3, { plan := 0, role := 5, part := 0, words := [], state := .running, left := [5] })] }
  s.setCl 5 ({ s.cl 5 with input := [3] }.setUnit 1 { inv := some 3, taken := 1 })
def strWait : State := let s := strS []
  s.setCl 5 ((s.cl 5).setUnit 1 { wait := .model })

def tabDesc' : List Byte := patch tabDesc 0x10 (leBytes 4 3)
/-- a table in slot 0 whose only row is in tile 3; cluster 5's scratch holds the bytes given by address -/
def tabW (w : Nat) (cs : List (List Byte)) (bs : List (Nat × Nat × Nat)) : State :=
  let s := { cS w cs with work.tables := [(0, { part := 0, desc := tabDesc' })] }
  s.setCl 5 { s.cl 5 with scratch := bs.foldl (fun t b => scrWriteT t b.1 (leBytes b.2.1 b.2.2)) [] }
def poolW : Nat := 0x0C * 2 ^ 120 + 1 * 2 ^ 118 + 0xFFFF * 2 ^ 72 + 64 * 2 ^ 56 + 1 * 2 ^ 40 + 7 * 2 ^ 32
def poolS : State := tabW poolW [] [(4, 4, 1), (20, 4, 1)]
def poolBadS : State := let s := tabW poolW [] [(4, 4, 1), (20, 4, 2)]
  let s := { s with work.invs := [(3, { plan := 0, role := 5, part := 0, words := [], state := .running, left := [5] })] }
  s.setCl 5 ({ s.cl 5 with input := [3] }.setUnit 1 { inv := some 3, taken := 1 })
def coalW : Nat := 0x0F * 2 ^ 120 + 1 * 2 ^ 118 + 0 * 2 ^ 88 + 32 * 2 ^ 72 + 64 * 2 ^ 56 + 1 * 2 ^ 40 + 7 * 2 ^ 36 + 7 * 2 ^ 32
def coalS : State := tabW coalW [] [(1028, 4, 1), (1044, 4, 1), (1024 + 64, 4, 7), (0, 4, 0x3F800000)]
def flushS : State := let s := tabW (0x0F * 2 ^ 120 + 1 * 2 ^ 118 + 64 * 2 ^ 56 + (7 * 2 ^ 32 + 1)) [] []
  let e := entryAddr 0 (hotSets 65536 32) 32 0
  s.setCl 5 { s.cl 5 with areas := [(0, (none, 32))], scratch := scrWriteT (scrWriteT [] e (leBytes 4 7)) (e + 4) (leBytes 4 1) }
def partS : State := let s := tabW 0 [] []
  s.setCl 5 { s.cl 5 with partials := [(0, { src := 6, inv := none, area := 2048, row := 7, count := 3, sum := [5, 6], int := false })], areas := [(2048, (none, 2))], nextJob := 1 }
def partFull : State := let s := tabW 0 [] []
  s.setCl 5 { s.cl 5 with plan := none, partials := [(0, { src := 6, inv := none, area := 2048, row := 7, count := 3, sum := [5, 6], int := false })], areas := [(2048, (none, 2))], nextJob := 1 }
def collS : State := let s := tabW (0x0F * 2 ^ 120 + 1 * 2 ^ 118 + 64 * 2 ^ 56 + (7 * 2 ^ 32 + 2)) [] [(2048 + 64, 4, 9), (2048 + 68, 4, 1), (2048 + 64 + 24, 4, 3), (2048 + 68 + 24, 4, 2)]
  s.setCl 5 { s.cl 5 with areas := [(2048, (none, 2))] }
def optS : State := tabW (0x0D * 2 ^ 120 + 1 * 2 ^ 118 + 1 * 2 ^ 40 + 7 * 2 ^ 36) [leBytes 16 (0x3F800000 * 2 ^ 64)] [(80, 4, 0x3F800000)]

def inv3 : Inv := { plan := 0, role := 5, part := 0, words := [], qid := some 2, state := .running, left := [5] }
/-- the walker unit of cluster 5 at a word, its invocation serving query 2 -/
def wqS (w : Nat) : State :=
  let s := unitS 2 [w] []
  let s := { s with work.queries := [(2, qq)], work.indexes := [(4, qIdx)], work.invs := [(3, inv3)] }
  s.setCl 5 ({ s.cl 5 with input := [3] }.setUnit 2 { inv := some 3, taken := 1 })
def wiS (w : Nat) : State :=
  let s := wqS w
  { s with work.invs := [(3, { inv3 with qid := none })] }
def cpS (a : Nat) : State :=
  let w := 0x04 * 2 ^ 120 + 2 * 2 ^ 118 + 5 * 2 ^ 88 + 8 * 2 ^ 40 + 3 * 2 ^ 32
  let s := { cS 0 [leBytes 16 a] with fab.node := 0, fab.ports := ports1 }
  s.setCl 5 { s.cl 5 with istore := [[], [], [w]] }
def cpD (j : CopyJob) : State := let s := cpS 0
  s.setCl 5 ({ s.cl 5 with copies := [(0, j)], nextJob := 1 }.setUnit 2 { pending := 1 })
def actS (w : Nat) : State := let s := unitS 2 [w] []
  s.setCl 5 { s.cl 5 with actr := [(3, 2)] }
def idxDescN : List Byte := patch idxDesc 0x14 (leBytes 4 3)
def ixN : Index := { part := 0, desc := idxDescN, cb := [], used := [(0, true), (1, true)] }
/-- NO_SPEC set -/
def qNS : Query := { qq with desc := patch qDesc 1 (leBytes 1 4) }
def wkS (k : Walk) : State :=
  let s := wqS (0x02 * 2 ^ 120 + 2 * 2 ^ 118)
  let s := { s with work.queries := [(2, qNS)], work.indexes := [(4, ixN)] }
  s.setCl 5 ({ s.cl 5 with walks := [(7, k)] }.setUnit 2 { inv := some 3, taken := 1, wait := .walk 7 })
def wkS' (k : Walk) : State := { wkS { k with phase := .walking } with now := 9000000 }
def rrW : Walk := { qid := 2, phase := .rerank, cand := [{ key := 0, slot := 0, score := 0, gen := 0, req := true }, { key := 0, slot := 1, score := 0, gen := 0, req := true }] }
def rrS : State := { wkS rrW with flash.jobs := [(jobKey (.rerank 5 7 0), { left := 0 })] }
def insU : Update := { lrec := { rec0 with payload := 7#8 :: List.replicate 4095 0 }, st := .committed, slot := some 0 }
def insW : State :=
  let s := cS 0 [leBytes 16 0xFFFF]
  let s := { s with work.indexes := [(4, ixN)], epo.updates := [(1, insU)] }
  s.setCl 5 { s.cl 5 with istore := [[], [], [0x06 * 2 ^ 120 + 2 * 2 ^ 118]] }
def insW2 : State :=
  let s := { insW with epo.updates := [(1, { insU with by_ := some 5, prepDone := true })] }
  s.setCl 5 ((s.cl 5).setUnit 2 { wait := .work })
def delW : State :=
  let s := cS 0 [leBytes 16 0xFFFF]
  let s := { s with work.indexes := [(4, ixN)], epo.updates := [(1, { lrec := { rec0 with kind := 2 }, st := .prepared, oldSlot := some 0 })] }
  s.setCl 5 { s.cl 5 with istore := [[], [], [0x07 * 2 ^ 120 + 2 * 2 ^ 118]] }
def repS (x : Index) : State :=
  let s := cS 0 [leBytes 16 4, leBytes 16 (2 ^ 32 + (idxD x.desc).recTile)]
  let s := { s with work.indexes := [(4, x)] }
  s.setCl 5 { s.cl 5 with istore := [[], [], [0x08 * 2 ^ 120 + 2 * 2 ^ 118 + 1 * 2 ^ 72]] }
def ixR : Index := { ixN with used := [(0, true)] }
def repS2 : State := { repS ixR with tier.mem := [(196608 + 3, 1)] }

def ents : Tab Byte := scrWriteT [] 0 ((REnt.mk 5 0x3F800000 0 0).bytes ++ (REnt.mk 6 0x40000000 0 0).bytes)
def cS3 (w : Nat) (cs : List (List Byte)) : State := let s := cS 0 cs
  s.setCl 5 ({ s.cl 5 with istore := [[], [], [], [w]] }.setUnit 3 { wait := if w = 0 then .kneader else .none })
def resL : List Byte := resultBytes false { k := 1, valid := 1 } [⟨5, 0x3F800000, 0, 0⟩]
def semS : State :=
  let s := cS3 (0x05 * 2 ^ 120 + 3 * 2 ^ 118) []
  let s := { s with work.queries := [(2, qq)], work.indexes := [(4, qIdx)], work.invs := [(3, inv3)], host.cmds := [(7, cmd 0x20 [])] }
  s.setCl 5 ({ s.cl 5 with input := [3], scratch := scrWriteT [] 0 resL }.setUnit 3 { inv := some 3, taken := 1 })
def semP : State := { semS with work.queries := [], work.invs := [(3, { plan := 0, role := 5, part := 0, words := [], cid := some 7, outAddr := 4096, outLen := 64, state := .running, left := [5] })], host.cmds := [(7, cmd 0x12 [])] }
def semF : State := { semS with work.queries := [(2, { qq with cid := none, entry := some (1, 9) })], fab.node := 0, fab.ports := ports1 }
def nbW : State :=
  let s := unitS 2 [0x09 * 2 ^ 120 + 2 * 2 ^ 118] []
  { s with work.plans := [(0, { plan1 .admitted with bin := { planBin' with roles := [{ role := 5, banks := 4, lists := [], clusters := [5] }], consts := [] } })] }
def nbQ (o : NbOp) : State := { unitS 2 [0x09 * 2 ^ 120 + 2 * 2 ^ 118] [] with work.nbs := [(0, { queue := [(4, o)] })] }
def nbO3 : NbOp := { cluster := 5, plan := 0, part := 0, inv := none, bank := 0
                     cmd := [(0, 2, 0x200), (2, 1, 3), (4, 1, 1), (5, 1, 2)].foldl (fun b f => patch b f.1 (leBytes f.2.1 f.2.2)) (List.replicate 64 0)
                     req := [(8, 4, 1), (0xC, 4, 4), (0x12, 2, 64), (0x14, 4, 3), (0x18, 4, 64), (0x140, 1, 2)].foldl (fun b f => patch b f.1 (leBytes f.2.1 f.2.2)) (List.replicate 384 0) }
def nbRun : State :=
  let s := nbQ nbO3
  { s with tier.home := [(3, ⟨.home, 1, 0⟩), (4, ⟨.pinned, 1, 1⟩)], tier.frames := [(0, { tile := 3 }), (1, { tile := 4 })]
           work.plans := [(0, { plan1 .admitted with bin := { planBin' with roles := [], ranges := [{ first := 3, count := 2, rd := true, wr := true, nb := true, pin := false }] } })] }
def nbDone (st : Nat) : NbOp := { cluster := 5, plan := 0, part := 0, inv := none, cmd := [], req := [], bank := 0, started := true, status := st, data := [7] }
def nbEnd (st : Nat) : State :=
  let s := { nbQ (nbDone st) with work.resTiles := [(0, { seq := 3, active := some 32 })] }
  s.setCl 5 ((s.cl 5).setUnit 2 { wait := .nb 4 })

/-- a collective descriptor in four constants -/
def collC (fs : List (Nat × Nat × Nat)) : List (List Byte) :=
  let b := ([(0, 2, 0xC011), (2, 2, 0x200), (0x28, 4, 100)] ++ fs).foldl (fun b (f : Nat × Nat × Nat) => patch b f.1 (leBytes f.2.1 f.2.2)) (List.replicate 64 0)
  [slice b 0 16, slice b 16 16, slice b 32 16, slice b 48 16]
/-- cluster 5's vector unit at VXCHG of descriptor 0; this node is position 0, position 1 is a neighbour -/
def xcS (fs : List (Nat × Nat × Nat)) (n : Nat) (f : Coll → Coll) (has : Bool) : State :=
  let s := cS (0x10 * 2 ^ 120 + 1 * 2 ^ 118 + n * 2 ^ 40) (collC fs)
  { s with fab.node := 0, fab.ports := ports1, mbr.members := 2 ^ 63 + 1, fab.colls := if has then [(2, f { desc := some (0, 0), n := 1, mask := 3, closeT := 9000000 })] else [], fab.nextColl := 3 }
def redF : List (Nat × Nat × Nat) := [(4, 1, 1), (5, 1, 8), (6, 1, 8), (8, 8, 3), (0x11, 1, 5), (0x12, 2, 2)]
def redP (ranks inst : Nat) (data : List Byte) : Packet :=
  { kind := 0x16, dst := 0, src := 1, part := 0, rcls := 1, fseq := 1, bseq := 1, payload := collPrefix inst 0 2 0 ranks ++ data }
def xcWait (fs : List (Nat × Nat × Nat)) (f : Coll → Coll) : State := let s := xcS fs 8 f true
  let s := { s with mbr.members := 2 ^ 63 + 2 ^ 62 + 3 }
  s.setCl 5 ((s.cl 5).setUnit 1 { wait := .xchg })
def xcInv (fs : List (Nat × Nat × Nat)) (f : Coll → Coll) : State :=
  let s := xcWait fs f
  let s := { s with now := 9000000, work.invs := [(3, { plan := 0, role := 5, part := 0, words := [], cid := some 7, state := .running, left := [5] })], host.cmds := [(7, cmd 0x12 [])] }
  s.setCl 5 ({ s.cl 5 with input := [3] }.setUnit 1 { inv := some 3, taken := 1, wait := .xchg })
def plS (f : Coll → Coll) : State :=
  { qqS { qq with ctx := some 9, merge := some 2, epoch := some 0, stamp := 4 } with fab.node := 0, fab.ports := ports1, mbr.members := 3, fab.colls := [(2, f { qid := some 2, n := 9, mask := 6, closeT := 9000000 })] }
def plP (dst : Nat) : Packet :=
  { kind := 0x15, dst := dst, src := 1, part := 0, rcls := 1, fseq := 1, bseq := 1, payload := collPrefix 9 0 2 0 1 ++ resL, aux := 0xFFFF }
def swS (en : Nat) (j : Tab JoinEnt) : State :=
  { h1 with fab.node := 0, fab.ports := [(0, { st := .up, join := j }), (1, { st := .up })], fab.swcCfg := BitVec.ofNat 64 (en * 65536 + 500) }
def jE : JoinEnt := { pkts := [plP 2], dst := 2, inst := 9, part := 0, bytes := resL, ranks := 2, joined := false, done := true, until_ := 8192000 }
def resL2 (h : Nat) : List Byte := resultBytes false { k := 2, valid := 1 } [⟨h, 0x3F800000, 0, 0⟩]
def plP2 (dst : Nat) : Packet := { plP dst with payload := collPrefix 9 0 2 0 1 ++ resL2 6 }
def jE2 : JoinEnt := { jE with bytes := resL2 5 }
/-- clusters 5 and 6 exchange with each other -/
def pxS (ready : Bool) : State :=
  let w := 0x10 * 2 ^ 120 + 1 * 2 ^ 118 + 64 * 2 ^ 56 + 4 * 2 ^ 40
  let s := cS w [leBytes 16 (32 + 64)]
  let s := { s with work.plans := [(0, { plan1 .admitted with bin := { planBin' with roles := [{ role := 5, banks := 1, lists := [], clusters := [5, 6] }], consts := [leBytes 16 96] } })] }
  let s := s.setCl 6 { st := .running, phys := 6, role := 5, plan := some 0, served := some 0, istore := [[], [w]], scratch := [(0, 4)] }
  if ready then s.setCl 6 ((s.cl 6).setUnit 1 { wait := .xchg }) else s

/-- node 0 with a live link to position 1, and tile 3 home in a stack -/
def fabS : State := { tierS with fab.node := 0, fab.ports := ports1, mbr.members := 2 ^ 63 + 2 ^ 62 }
def pk (kind addr len : Nat) (pay : List Byte) (aux : Nat := 0) : Packet :=
  { kind := kind, dst := 0, src := 1, part := 0, len := len, tag := 77, addr := addr, aux := aux, payload := pay, bseq := 1 }
def lendS : State := { fabS with tier.lend := [(1, BitVec.ofNat 64 (4 * 2 ^ 32))], tier.lendMem := [(2097152 * 65536 + 8, 5)] }
def rq (kind : Nat) (f : ReqFor) : Req := { kind := kind, dst := 1, src := 0, part := 0, t := 0, for_ := f, addr := 2 ^ 52, len := 4, p := { kind := kind, dst := 1, src := 0, part := 0, addr := 2 ^ 52 }, waitPos := 2 }
/-- a request 77 of cluster 5; its vector unit stands at a word that waits for the answer -/
def rqS (r : Req) : State :=
  let s := cS 0 []
  let s := { s with fab.node := 0, fab.ports := ports1, fab.reqs := [(77, r)], mbr.members := 2 ^ 63 + 2 ^ 62 }
  s.setCl 5 ({ s.cl 5 with copies := [(0, { dst := 64, addr := 2 ^ 52, len := 4, actr := 0, left := 1 })] }.setUnit 1 { wait := .resp 77, pending := 1 } |>.setUnit 2 { pending := 1 })
def rsp (kind : Nat) (pay : List Byte) : Packet := { kind := kind, dst := 0, src := 1, part := 0, tag := 77, len := pay.length, payload := pay, bseq := 1 }
def frm (fl : List Flit) : Frame := { seq := 0, ack := 4095, resend := none, crcOk := true, corrected := 0, uncorr := 0, flits := fl }
def prt (p : Port) : State := { h1 with fab.node := 0, fab.ports := [(0, p)], pkg.pwr.domOn := 0xFFFFFFFF }

def qfS : State := { qS with fab.node := 0, fab.ports := ports1, mbr.members := 3, host.cmds := [] }
def qfP : Packet := { kind := 0x14, dst := 0, src := 1, part := 0, len := 128, addr := 2 ^ 52 + 9, payload := patch (patch qDesc 1 (leBytes 1 2)) 0x20 (leBytes 8 3), bseq := 1 }
def rejQ : Query := { qq with ctx := some 9, merge := some 2, epoch := some 0, stamp := 4, desc := patch (patch qDesc 1 (leBytes 1 2)) 0x20 (leBytes 8 3) }
def rejS : State := { qqS rejQ with fab.node := 0, fab.ports := ports1, mbr.members := 3, fab.colls := [(2, { qid := some 2, n := 9, mask := 2, closeT := 9000000 })] }

def die0 : Die := { st := .inService, blocks := 400, pages := 4, suspend := true, tprog := 1000, tbers := 2000, rated := 3000, retention := List.replicate 8 90 }
def flC (code : Nat) (addr len : Nat) : Cmd := cmd code [(0x08, 8, 4096), (0x10, 8, addr), (0x18, 4, len)]
def flD (addr len : Nat) : Cmd := cmd 0x32 [(0x10, 8, addr), (0x18, 4, len)]
def flS (c : Cmd) (m : Tab MapEnt) (d : Die) : State :=
  { withCmd h1 c with flash.prange := [(0, BitVec.ofNat 64 (16 * 2 ^ 32))], flash.lcap := 1024, flash.dies := [(0, d)], flash.map_ := m, flash.mem := [(5, 9)] }
def mp : MapEnt := ⟨.mapped, ⟨0, 1, 2⟩⟩
def runC (c : Cmd) : Cmd := { c with phase := .running }
def rdOp (step : Nat) (f : ReadFor) : DieReq := { id := 3, cls := 1, part := 0, t := 0, work := .read 0 0 f, step := step }
def prOp (parts : List (Nat × List Byte)) : DieReq := { id := 3, cls := 2, part := 0, t := 0, work := .program 0 parts [] ⟨0, 1, 2⟩ (.write [7]) {} }
def flJ (op : DieReq) (c : Cmd) : State := { flS (runC c) [(0, mp)] { die0 with op := some op } with flash.jobs := [(21, { left := 1 })] }
def slotS (x : Slot13) : State := { flS (cmd 1 []) [(0, mp)] die0 with flash.slots := [(0, x)], pkg.pwr.domOn := 0xFFFFFFFF, now := 200000000 }
def modId : ModuleId :=
  let b := [(0, 2, 0x200), (0x12, 1, 1), (0x13, 1, 1), (0x14, 1, 2), (0x15, 1, 36), (0x16, 2, 2048), (0x18, 4, 4), (0x1C, 4, 800), (0x24, 4, 1000), (0x28, 4, 2000), (0x2C, 4, 3000)].foldl (fun b (f : Nat × Nat × Nat) => patch b f.1 (leBytes f.2.1 f.2.2)) (List.replicate 256 0)
  let b := (List.range 8).foldl (fun b i => patch b (0x80 + 2 * i) (leBytes 2 90)) b
  { present := true, bytes := patch b 0xFC (leBytes 4 (crc32 (slice b 0 252))), paramsOk := true, suspend := true, rates := [3600, 3600, 3600, 3600] }

def wbU : BufUnit := { t := 0, part := 0, parts := [(4096, [1, 2])], cids := [7] }
def wbS : State := { flS (cmd 0x31 []) [(0, mp)] die0 with flash.wbuf := [(0, wbU)] }

/-- cluster 5 runs role 5, its vector unit at a word; physical cluster 16 is the spare; an invocation runs on it -/
def fnS : State :=
  let s := cS 0 []
  { s with work.phys := [(5, .active), (16, .spare)], work.invs := [(3, { plan := 0, role := 5, part := 0, words := [], cid := some 7, state := .running, left := [5] })], host.cmds := [(7, cmd 0x12 [])] }

def mgS : State := { fabS with mbr.mgrs := [0, 1, 8, 9, 2], mbr.members := 0, mbr.st := .alone, pkg.sec.recovered := true, pkg.pwr.inReset := false, mbr.expect := 3, now := 20000000, mbr.leader := 64 }
def okHello : HelloMsg := { identity := some 5, rackId := 0, period := fld mgS.epo.cfg 39 32, starter := 0 }
def ldS : State := { mgS with mbr.leading := true, mbr.leader := 0, mbr.mterm := 2 }
def map1 : RackMap := { gen := 4, job := 1, members := 3, spares := 0, roles := [(0, 0), (1, 0)], idents := [], hosts := [(0, 0), (1, 1)], mgrs := [0, 1, 8, 9, 2], restart := none }
def memS : State := { mgS with mbr.gen := 3, mbr.job := 1, mbr.members := 3, mbr.st := .member, mbr.pos := 0, mbr.leader := 1, mbr.leaseT := some 19000000 }
def ldM : State := { memS with mbr.leading := true, mbr.leader := 0, mbr.mterm := 2 }

def io0 : StartIn := { clusterFail := [], unitFail := [], coreFail := [], healthy := true, secret := none, nonce := 9, modules := [] }
def stS (ph : Nat) : State :=
  { tierS with pkg.sec.phase := ph, pkg.pwr.pgAon := true, err.cores := [(0, .healthy)], pkg.sec.parts := [(0, {})], host.cmds := [] }

def spS (ph : Nat) : State :=
  { stS 3 with pkg.sec.id := .ok, pkg.sec.cert := [1, 2, 3], pkg.sec.spdm := [(64, { phase := ph, sess := [{ id := 5, open_ := true }] })] }

def rgS : State :=
  let s := unitS 0 [] []
  { s with host := host0.host, now := 5000000, pkg.sec.slot := 0, pmc.dumps := [(0, { cfg := 0x000A_0000_0030_0003, base := 0x100000 })], pmc.psel := [(2, 0x8000_0000_0000_0102)], pmc.pctr := [(2, 77)] }
    |> fun s => s.setCl 5 { s.cl 5 with plan := some 0, role := 5, part := 0, st := .running, satEvt := 7 }
end W

theorem wit_StepRunsFrontCommand :
  (∃ (s : State) (c : Instr) (cs : List Instr),
    (s.pending = c :: cs)) ∧
  (∃ (s : State),
    (s.pending = []) ∧ (s.pkg.pwr.pgAon = false ∨ s.pkg.pwr.clock = false)) ∧
  (∃ (s : State),
    (s.pending = []) ∧ (s.pkg.pwr.pgAon = true ∧ s.pkg.pwr.clock = true ∧ s.pkg.sec.stop ≠ .stopping) ∧
    (s.pkg.tim.slew = 0)) ∧
  (∃ (s : State),
    (s.pending = []) ∧ (s.pkg.pwr.pgAon = true ∧ s.pkg.pwr.clock = true ∧ s.pkg.sec.stop ≠ .stopping) ∧
    (s.pkg.tim.slew ≠ 0)) :=
  ⟨⟨{ W.h1 with pending := [.admissionDecision, .tokenRefill] }, .admissionDecision, [.tokenRefill], by decide +kernel⟩,
   ⟨{ State.reset with pkg.pwr.clock := false }, by decide +kernel⟩,
   ⟨State.reset, by decide +kernel⟩,
   ⟨{ State.reset with pkg.tim.slew := 8 }, by decide +kernel⟩⟩



theorem wit_EveryStepKeepsTheClockInLimits :
  (∃ (s t : State),
    (ClockInv s) ∧ (Machine.step s = .next t)) :=
  ⟨State.reset, tick State.reset, ⟨by decide, by decide, by decide, by decide, by decide, by decide, by decide, by decide, fun _ h => nomatch h⟩, rfl⟩

theorem wit_EveryStepKeepsMemoryForm :
  (∃ (s t : State),
    (MemInv s) ∧ (Machine.step s = .next t)) ∧
  (∃ (s t : State),
    (WorkInv s) ∧ (Machine.step s = .next t)) :=
  ⟨⟨State.reset, tick State.reset, ⟨by decide, by decide, by decide, fun _ _ h => nomatch h⟩, rfl⟩,
   ⟨State.reset, tick State.reset, ⟨by decide, by decide, by decide, by decide, fun _ _ h => nomatch h⟩, rfl⟩⟩

theorem wit_CapabilityRegistersAreFixed_1 :
  (∃ (s : State) (f : Nat),
    (reaches s f 0x00 = true)) ∧
  (∃ (s : State) (f : Nat),
    (reaches s f 0x03 = true)) ∧
  (∃ (s : State) (f : Nat),
    (reaches s f 0x05 = true)) ∧
  (∃ (s : State) (f : Nat),
    (reaches s f 0x07 = true)) ∧
  (∃ (s : State) (f : Nat),
    (reaches s f 0x09 = true)) :=
  ⟨⟨W.rgS, 0, by decide +kernel⟩,
   ⟨W.rgS, 0, by decide +kernel⟩,
   ⟨W.rgS, 0, by decide +kernel⟩,
   ⟨W.rgS, 0, by decide +kernel⟩,
   ⟨W.rgS, 0, by decide +kernel⟩⟩
theorem wit_CapabilityRegistersAreFixed_2 :
  (∃ (s : State) (f : Nat),
    (reaches s f 0x0F = true)) :=
  ⟨W.rgS, 0, by decide +kernel⟩

theorem wit_HigherValidSlotIsTriedFirst :
  (∃ (s : State) (io : StartIn),
    (s.pkg.sec.phase = 1 ∧ s.pkg.pwr.pgAon = true ∧ s.pkg.pwr.wrst = false ∧ s.pkg.pwr.clock = true ∧
      s.pkg.pwr.undervolt = false) ∧
    ([0, 1, 2].any (fun (i : Nat) => !io.coreFail.contains i) = true) ∧
    (s.pkg.sec.slotA.seq = s.pkg.sec.slotB.seq → s.pkg.sec.slotA.valid = false ∨ s.pkg.sec.slotB.valid = false)) :=
  ⟨{ W.stS 1 with pkg.sec.slotA := { seq := 4, valid := true, image := [1] }, pkg.sec.slotB := { seq := 5, valid := true, image := [2] } }, W.io0, by decide +kernel⟩

theorem wit_GlitchesAndMissesHoldTheCounter :
  (∃ (s : State) (u : Nat),
    (s.pkg.sec.phase ≠ 0) ∧ (s.pkg.tim.lastEdge = some u ∧ s.now < u + 900000000)) ∧
  (∃ (s : State) (u : Nat),
    (s.pkg.tim.expected = some u ∧ u + 1100000000 ≤ s.now)) ∧
  (∃ (s : State),
    (s.pending = []) ∧ (s.pkg.pwr.pgAon = true ∧ s.pkg.pwr.clock = true ∧ s.pkg.sec.stop ≠ .stopping) ∧
    (s.pkg.tim.slew = 0 ∧ s.pkg.tim.src = 2)) :=
  ⟨⟨{ W.stS 3 with now := 5000000000, pkg.tim.lastEdge := some 4500000000 }, 4500000000, by decide +kernel⟩,
   ⟨{ W.stS 3 with now := 5000000000, pkg.tim.expected := some 3500000000 }, 3500000000, by decide +kernel⟩,
   ⟨{ State.reset with pkg.tim.src := 2 }, by decide +kernel⟩⟩

theorem wit_WindowWritesFillSlots_1 :
  (∃ (s : State) (fn : Fin 64) (q i o : Nat) (data : List Byte),
    ((s.fn fn.val).bound = true) ∧ (q < (s.fn fn.val).qcount) ∧ (flag (s.q fn.val q).cfg 0 = true) ∧
    ((s.q fn.val q).winerr = false) ∧ (i < 128) ∧ (data ≠ []) ∧ (o + data.length ≤ 128) ∧
    (tget? (s.q fn.val q).slots i = none)) ∧
  (∃ (s : State) (fn : Fin 64) (off : Nat) (data : List Byte),
    ((s.fn fn.val).bound = true) ∧ (off / 16384 < (s.fn fn.val).qcount) ∧
    (flag (s.q fn.val (off / 16384)).cfg 0 = true) ∧ ((s.q fn.val (off / 16384)).winerr = true)) ∧
  (∃ (s : State) (fn : Fin 64) (off : Nat) (data : List Byte),
    (off % 16384 + data.length ≤ 16384) ∧
    ((s.fn fn.val).bound = false ∨ (s.fn fn.val).qcount ≤ off / 16384 ∨ flag (s.q fn.val (off / 16384)).cfg 0 =
      false)) ∧
  (∃ (s : State) (fn : Fin 64) (q i : Nat) (sl : Slot),
    (flag (s.q fn.val q).cfg 0 = true) ∧ ((s.q fn.val q).winerr = false) ∧
    (canWrite s fn.val (s.fn fn.val).gen = true) ∧ ((s.q fn.val q).cqWait = []) ∧ ((s.q fn.val q).cqFree ≠ 0) ∧
    ((s.q fn.val q).slots = [(i, sl)]) ∧ (sl.bytes ≠ []) ∧ (sl.bytes.length < 128) ∧ (sl.first + 1000000 ≤ s.now)) ∧
  (∃ (s : State) (fn : Fin 64) (q i o : Nat) (b : Byte),
    ((s.fn fn.val).bound = true) ∧ (q < (s.fn fn.val).qcount) ∧ (flag (s.q fn.val q).cfg 0 = true) ∧
    ((s.q fn.val q).winerr = false) ∧ (canWrite s fn.val (s.fn fn.val).gen = true) ∧
    ((s.q fn.val q).cqWait = []) ∧ ((s.q fn.val q).cqFree ≠ 0) ∧ (i < 128) ∧ (o < 128) ∧
    ((tgetD (s.q fn.val q).slots i {}).bytes.length = 128)) :=
  ⟨⟨W.host0, 0, 0, 0, 0, W.line, by decide +kernel⟩,
   ⟨W.q1 (fun q => { q with winerr := true }), 0, 0, W.line, by decide +kernel⟩,
   ⟨W.host0, 1, 0, W.line, by decide +kernel⟩,
   ⟨W.q1 (fun q => { q with slots := [(3, { bytes := [(0, 1)], first := 0, last := 0 })] }), 0, 0, 3, { bytes := [(0, 1)], first := 0, last := 0 }, by decide +kernel⟩,
   ⟨W.q1 (fun q => { q with slots := [(127, W.full 0 1)] }), 0, 0, 127, 5, 7, by decide +kernel⟩⟩
theorem wit_WindowWritesFillSlots_2 :
  (∃ (s : State) (fn : Fin 64) (q : Nat),
    (∀ kv ∈ (s.q fn.val q).slots, kv.2.bytes = [] ∨ kv.2.bytes.length = 128 ∨ s.now < kv.2.first + 1000000)) :=
  ⟨W.q1 (fun q => { q with slots := [(3, { bytes := [(0, 1)], first := 7192001, last := 0 })] }), 0, 0, by decide +kernel⟩

theorem wit_QueuesAndFunctionsStartAndStop_1 :
  (∃ (s : State) (fn : Fin 64) (q : Nat) (v : W64),
    ((s.fn fn.val).bound = true) ∧ (q < (s.fn fn.val).qcount) ∧ (flag (s.q fn.val q).cfg 0 = false) ∧
    (flag v 12 = false)) ∧
  (∃ (s : State) (fn : Fin 64) (q : Nat) (v : W64),
    ((s.fn fn.val).bound = true) ∧ (q < (s.fn fn.val).qcount) ∧ (flag (s.q fn.val q).cfg 0 = true)) ∧
  (∃ (s : State) (fn : Fin 64) (q : Nat) (v : W64),
    ((s.fn fn.val).bound = false ∨ (s.fn fn.val).qcount ≤ q)) ∧
  (∃ (s : State) (fn : Fin 64) (q : Nat) (v : W64),
    ((s.fn fn.val).bound = false ∨ (s.fn fn.val).qcount ≤ q)) ∧
  (∃ (s : State) (fn : Fin 64) (a b : Nat) (fa fb : Fn),
    (s.host.fns = [(a, fa), (b, fb)]) ∧ (a < b) ∧ (fa.bound = true ∧ fb.bound = true ∧ fa.part = fb.part) ∧
    (fa.queues = [] ∧ fb.queues = []) ∧
    ((fn.val = a ∧ fb.active = true ∧ fa.active = false) ∨ (fn.val = b ∧ fa.active = true ∧ fb.active = false))) :=
  ⟨⟨W.q1 (fun q => { q with cfg := 0 }), 0, 0, 0x104, by decide +kernel⟩,
   ⟨W.host0, 0, 0, 0x101, by decide +kernel⟩,
   ⟨W.host0, 1, 0, 1, by decide +kernel⟩,
   ⟨W.host0, 0, 2, 1, by decide +kernel⟩,
   ⟨{ State.reset with host.fns := [(0, { bound := true, active := true }), (32, { bound := true })] }, 32, 0, 32, { bound := true, active := true }, { bound := true }, by decide +kernel⟩⟩
theorem wit_QueuesAndFunctionsStartAndStop_2 :
  (∃ (s : State) (fn : Fin 64),
    ((s.fn fn.val).active = true)) ∧
  (∃ (s : State) (part : Fin 32) (a b : Nat) (fa fb : Fn),
    (s.host.fns = [(a, fa), (b, fb)]) ∧ (a < b) ∧ (fa.bound = true ∧ fb.bound = true) ∧
    (fa.part = part.val ∧ fb.part = part.val) ∧ (fa.queues = [] ∧ fb.queues = []) ∧
    (fa.active = true ∧ fb.active = false) ∧ ((s.pcie a).up = false) ∧ ((s.pcie b).up = true) ∧
    ((s.pcie a).downT + fa.foDelay * 1000000 ≤ s.now)) ∧
  (∃ (s : State) (part : Fin 32) (a b : Nat) (fa fb : Fn),
    (s.host.fns = [(a, fa), (b, fb)]) ∧ (fa.bound = true ∧ fb.bound = true) ∧
    (fa.part = part.val ∧ fb.part = part.val) ∧ (fa.active = true ∧ fb.active = false) ∧
    ((s.pcie a).up = true ∨ (s.pcie b).up = false ∨ s.now < (s.pcie a).downT + fa.foDelay * 1000000)) :=
  ⟨⟨W.host0, 0, by decide +kernel⟩,
   ⟨{ State.reset with now := 10000000, host.portB.up := true, host.fns := [(0, { bound := true, active := true }), (32, { bound := true })] }, 0, 0, 32, { bound := true, active := true }, { bound := true }, by decide +kernel⟩,
   ⟨{ State.reset with now := 9999999, host.portB.up := true, host.fns := [(0, { bound := true, active := true }), (32, { bound := true })] }, 0, 0, 32, { bound := true, active := true }, { bound := true }, by decide +kernel⟩⟩

theorem wit_RingsSamplesAndWindows_1 :
  (∃ (s : State) (fn : Fin 64) (q : Nat) (w : BitVec 32) (e : Entry),
    (flag (s.q fn.val q).cfg 0 = true) ∧ (flag (s.q fn.val q).cfg 2 = false) ∧
    (canWrite s fn.val (s.fn fn.val).gen = true) ∧ ((s.q fn.val q).cqWait = [e]) ∧ (e.winerr = false) ∧
    (w.toNat < cqSize (s.q fn.val q)) ∧ (w.toNat ≠ (s.q fn.val q).cqNext) ∧
    ((s.q fn.val q).cqNext < cqSize (s.q fn.val q))) ∧
  (∃ (s : State) (fn : Fin 64) (q : Nat) (w : BitVec 32),
    (flag (s.q fn.val q).cfg 0 = true) ∧ ((s.fn fn.val).busMaster = true) ∧ ((s.q fn.val q).cqWait ≠ []) ∧
    (cqSize (s.q fn.val q) ≤ w.toNat)) ∧
  (∃ (s : State) (fn : Fin 64) (q : Nat),
    (flag (s.q fn.val q).cfg 2 = true) ∧ (fld (s.q fn.val q).cfg 47 40 ≠ 0) ∧ ((s.q fn.val q).unsig ≠ 0) ∧
    ((s.q fn.val q).unsigT + fld (s.q fn.val q).cfg 47 40 * 1000 ≤ s.now) ∧ ((s.pcie fn.val).up = true) ∧
    ((s.fn fn.val).busMaster = true)) ∧
  (∃ (s : State) (fn : Fin 64) (q : Nat),
    (s.now < (s.q fn.val q).unsigT + fld (s.q fn.val q).cfg 47 40 * 1000)) ∧
  (∃ (s : State) (f : Nat) (x : Fn) (q : Nat) (y : Queue),
    (s.now % 4096 = 0) ∧ (s.host.lastSample ≠ some s.now) ∧ (s.host.fns = [(f, x)]) ∧ (x.queues = [(q, y)]) ∧
    (flag y.cfg 0 = true ∧ flag y.cfg 12 = true) ∧ (y.srGroup = [])) :=
  ⟨⟨W.q1 (fun q => { q with cfg := 1, cqFree := 0, cqNext := 5, cqWait := [{ cmdId := 9 }] }), 0, 0, 4, { cmdId := 9 }, by decide +kernel⟩,
   ⟨W.q1 (fun q => { q with cfg := 1, cqFree := 0, cqNext := 5, cqWait := [{ cmdId := 9 }] }), 0, 0, 64, by decide +kernel⟩,
   ⟨W.q1 (fun q => { q with cfg := 0x0000_0100_0000_0005, unsig := 1, unsigT := 8191000 }), 0, 0, by decide +kernel⟩,
   ⟨W.q1 (fun q => { q with cfg := 0x0000_0100_0000_0005, unsig := 1, unsigT := 8191001 }), 0, 0, by decide +kernel⟩,
   ⟨{ State.reset with now := 4096, host.fns := [(3, { bound := true, queues := [(0, { cfg := 0x1001 })] })] }, 3, { bound := true, queues := [(0, { cfg := 0x1001 })] }, 0, { cfg := 0x1001 }, by decide +kernel⟩⟩
theorem wit_RingsSamplesAndWindows_2 :
  (∃ (s : State),
    (s.now % 1000 = 0) ∧ (s.host.lastWindow ≠ some s.now)) ∧
  (∃ (s : State),
    (bitOf s.pkg.pwr.domOn 20 = true) ∧ (s.host.portA.perst = false)) ∧
  (∃ (s : State),
    (bitOf s.pkg.pwr.domOn 21 = true) ∧ (s.host.portB.perst = false)) :=
  ⟨⟨{ State.reset with host.adm := [(1, { reg := 0x0001_0001_0001, usedStack := [(0, 300)], usedFlash := 9, usedFabric := 100 })] }, by decide +kernel⟩,
   ⟨{ State.reset with pkg.pwr.domOn := 2 ^ 20, host.portA.perst := false }, by decide +kernel⟩,
   ⟨{ State.reset with pkg.pwr.domOn := 2 ^ 21, host.portB.perst := false }, by decide +kernel⟩⟩

theorem wit_TokensAndAdmissionOrder_1 :
  (∃ (s : State) (p : Nat) (a : Adm),
    (s.now % 1024 = 0) ∧ (s.host.lastRefill ≠ some s.now) ∧ (tget? s.host.adm p = some a)) ∧
  (∃ (s : State) (fn : Fin 64) (part : Fin 32) (rate burst : Nat),
    ((s.fn fn.val).bound = true) ∧ ((s.fn fn.val).owner = true) ∧ (rate < 2 ^ 32) ∧ (burst < 2 ^ 24)) ∧
  (∃ (s : State) (fn : Fin 64) (part : Fin 32) (rate burst : Nat),
    ((s.fn fn.val).bound = true) ∧ ((s.fn fn.val).owner = true) ∧ (rate < 2 ^ 32) ∧ (burst < 2 ^ 24)) ∧
  (∃ (s : State) (fn : Fin 64) (part : Fin 32) (rate burst : Nat),
    ((s.fn fn.val).bound = true) ∧ ((s.fn fn.val).owner = true) ∧ (rate < 2 ^ 32) ∧ (burst < 2 ^ 24)) ∧
  (∃ (s : State) (fn : Fin 64) (part : Fin 32) (rate burst : Nat),
    ((s.fn fn.val).bound = false ∨ (s.fn fn.val).owner = false)) :=
  ⟨⟨{ State.reset with now := 1024, host.adm := [(31, { rate := 5, burst := 1, tok := 65535 })] }, 31, { rate := 5, burst := 1, tok := 65535 }, by decide +kernel⟩,
   ⟨W.host0, 0, 31, 4294967295, 16777215, by decide +kernel⟩,
   ⟨W.host0, 0, 31, 4294967295, 16777215, by decide +kernel⟩,
   ⟨W.host0, 0, 31, 4294967295, 16777215, by decide +kernel⟩,
   ⟨W.host0, 32, 31, 0, 1, by decide +kernel⟩⟩
theorem wit_TokensAndAdmissionOrder_2 :
  (∃ (s : State) (fn : Fin 64) (part : Fin 32) (rate burst : Nat),
    ((s.fn fn.val).bound = false ∨ (s.fn fn.val).owner = false)) ∧
  (∃ (s : State) (fn : Fin 64) (part : Fin 32) (rate burst : Nat),
    ((s.fn fn.val).bound = false ∨ (s.fn fn.val).owner = false)) ∧
  (∃ (s : State),
    (s.mbr.st = .member) ∧ (s.pkg.sec.epochs = true) ∧ (s.fab.role = 0) ∧
    (∀ t0, s.host.lastDec = some t0 → t0 + 10 ≤ s.now) ∧
    (∀ h ∈ heads s, headExpired s h = false ∧ (s.fn h.fn).active = true ∧
        knownCode (getLE (cmdBytes (s.q h.fn h.q) h.cmd) 0 1) = true) ∧
    (∃ h ∈ heads s, hasToken (s.adm h.part) = true)) ∧
  (∃ (s : State) (fn : Fin 64) (q : Nat) (h : Head),
    ((heads s).find? (fun g => g.fn = fn.val && g.q = q) = some h) ∧ (headExpired s h = true) ∧
    (flag (s.q fn.val q).cfg 0 = true) ∧ (flag (s.q fn.val q).cfg 2 = false) ∧
    (canWrite s fn.val (s.fn fn.val).gen = true) ∧ ((s.q fn.val q).cqWait = []) ∧ ((s.q fn.val q).cqFree ≠ 0)) ∧
  (∃ (s : State) (fn : Fin 64) (q : Nat),
    (∀ h ∈ heads s, h.fn = fn.val → h.q = q → headExpired s h = false)) :=
  ⟨⟨W.host0, 32, 31, 0, 1, by decide +kernel⟩,
   ⟨W.host0, 32, 31, 0, 1, by decide +kernel⟩,
   ⟨{ W.q1 (fun q => { q with slots := [(0, W.full 5 1)] }) with mbr.st := .member, pkg.sec.epochs := true }, by decide +kernel⟩,
   ⟨W.q1 (fun q => { q with cfg := 1, slots := [(0, { bytes := (0, 0x20) :: (List.range 127).map (fun i => (i + 1, 0)), first := 5, last := 5 })] }), 0, 0, ⟨0, 0, 0, 0, ⟨0, 1, 5⟩⟩, by decide +kernel⟩,
   ⟨W.q1 (fun q => { q with slots := [(0, W.full 5 1)] }), 0, 0, by decide +kernel⟩⟩

theorem wit_CommandsEndAndMoveBytes_1 :
  (∃ (s : State) (cid : Nat) (c : Cmd),
    (cmdOf s cid 0x01 = some c) ∧ (c.flags = 0) ∧ (c.version = 0x0200) ∧ (allZero (c.bytes.drop 8) = true) ∧
    (ringReady s c) ∧ ((s.q c.fn c.q).cqNext < cqSize (s.q c.fn c.q))) ∧
  (∃ (s : State) (cid : Nat) (c : Cmd),
    (cmdOf s cid 0x01 = some c) ∧ (c.version = 0x0200) ∧ (c.flags ≠ 0 ∨ allZero (c.bytes.drop 8) = false) ∧
    (ringReady s c)) ∧
  (∃ (s : State) (cid : Nat) (c : Cmd),
    (cmdOf s cid 0x01 = some c) ∧ (c.flags = 0) ∧ (c.version = 0x0200) ∧ (allZero (c.bytes.drop 8) = true) ∧
    ((s.fn c.fn).gen ≠ c.gen ∨ (s.q c.fn c.q).enables ≠ c.en ∨ flag (s.q c.fn c.q).cfg 0 = false)) ∧
  (∃ (s : State) (cid loc : Nat) (c : Cmd),
    (cmdOf s cid 0x38 = some c) ∧ ((tierCmdCheck s c).1 = 0) ∧ (0 < getLE c.bytes 0x18 4) ∧
    (getLE c.bytes 0x10 8 % 65536 + getLE c.bytes 0x18 4 ≤ 65536) ∧ (fld (s.adm c.part).reg 47 32 = 0) ∧
    (s.home (getLE c.bytes 0x10 8 / 65536) = ⟨.home, 1, loc⟩) ∧
    (tget? s.work.resTiles (getLE c.bytes 0x10 8 / 65536) = none) ∧
    (tget? s.tier.moves (getLE c.bytes 0x10 8 / 65536) = none) ∧
    (intervalPoisoned s (getLE c.bytes 0x10 8 / 65536) (getLE c.bytes 0x10 8 % 65536) (getLE c.bytes 0x18 4) = false) ∧
    (s.err.inj = []) ∧ (ringReady s c)) ∧
  (∃ (s : State) (cid : Nat) (c : Cmd),
    (cmdOf s cid 0x38 = some c) ∧ ((tierCmdCheck s c).1 = 0) ∧ (0 < getLE c.bytes 0x18 4) ∧
    (getLE c.bytes 0x10 8 % 65536 + getLE c.bytes 0x18 4 ≤ 65536) ∧ (fld (s.adm c.part).reg 47 32 = 0) ∧
    (s.home (getLE c.bytes 0x10 8 / 65536) = {}) ∧
    (tget? s.work.resTiles (getLE c.bytes 0x10 8 / 65536) = none) ∧
    (tget? s.tier.moves (getLE c.bytes 0x10 8 / 65536) = none) ∧ (s.err.inj = []) ∧ (ringReady s c)) :=
  ⟨⟨W.withCmd W.h1 (W.cmd 1 []), 7, W.cmd 1 [], by decide +kernel⟩,
   ⟨W.withCmd W.h1 (W.cmd 1 [(127, 1, 1)]), 7, W.cmd 1 [(127, 1, 1)], by decide +kernel⟩,
   ⟨W.withCmd State.reset (W.cmd 1 []), 7, W.cmd 1 [], by decide +kernel⟩,
   ⟨W.withCmd W.tierS (W.cmd 0x38 [(8, 8, 64), (16, 8, 196608), (24, 4, 64)]), 7, 0, W.cmd 0x38 [(8, 8, 64), (16, 8, 196608), (24, 4, 64)], by decide +kernel⟩,
   ⟨W.withCmd W.tierS (W.cmd 0x38 [(16, 8, 262144), (24, 4, 64)]), 7, W.cmd 0x38 [(16, 8, 262144), (24, 4, 64)], by decide +kernel⟩⟩
theorem wit_CommandsEndAndMoveBytes_2 :
  (∃ (s : State) (cid loc : Nat) (c : Cmd) (bytes : List Byte),
    (cmdOf s cid 0x39 = some c) ∧ ((tierCmdCheck s c).1 = 0) ∧ (0 < getLE c.bytes 0x18 4) ∧
    (getLE c.bytes 0x10 8 % 65536 + getLE c.bytes 0x18 4 ≤ 65536) ∧ (fld (s.adm c.part).reg 47 32 = 0) ∧
    (s.home (getLE c.bytes 0x10 8 / 65536) = ⟨.home, 1, loc⟩) ∧
    (tget? s.work.resTiles (getLE c.bytes 0x10 8 / 65536) = none) ∧ (bytes.length = getLE c.bytes 0x18 4) ∧
    (memWf s.tier.mem = true) ∧ (ringReady s c)) ∧
  (∃ (s : State) (cid k : Nat) (c : Cmd) (bytes : List Byte),
    (cmdOf s cid 0x39 = some c) ∧ ((tierCmdCheck s c).1 = 0) ∧ (0 < getLE c.bytes 0x18 4) ∧
    (getLE c.bytes 0x10 8 % 65536 + getLE c.bytes 0x18 4 ≤ 65536) ∧ (fld (s.adm c.part).reg 47 32 = 0) ∧
    (s.home (getLE c.bytes 0x10 8 / 65536) = {}) ∧
    (tget? s.work.resTiles (getLE c.bytes 0x10 8 / 65536) = none) ∧ (freeAnyStack s = some k) ∧ (k < 2 ^ 23) ∧
    (bytes.length = getLE c.bytes 0x18 4) ∧ (memWf s.tier.mem = true) ∧ (ringReady s c)) :=
  ⟨⟨W.withCmd W.tierS (W.cmd 0x39 [(16, 8, 196608), (24, 4, 64)]), 7, 0, W.cmd 0x39 [(16, 8, 196608), (24, 4, 64)], List.replicate 64 1, by decide +kernel⟩,
   ⟨W.withCmd W.tierS (W.cmd 0x39 [(16, 8, 262144), (24, 4, 64)]), 7, 1, W.cmd 0x39 [(16, 8, 262144), (24, 4, 64)], List.replicate 64 1, by decide +kernel⟩⟩

theorem wit_RegistrationsOpenAndClose_1 :
  (∃ (s : State) (cid i : Nat) (c : Cmd),
    (cmdOf s cid 0x18 = some c) ∧ (c.flags = 0) ∧ (c.version = 0x0200) ∧
    (reservedZero c.bytes 8 [(8, 4)] = true) ∧ (getLE c.bytes 8 4 < tileCount) ∧
    (inPrange s c.part (getLE c.bytes 8 4) 1 = true) ∧ (freeIndex s = some i) ∧
    (let r := readSpan s (getLE c.bytes 8 4 * 65536) 128
     r.held = false ∧ r.poisoned = false ∧ idxBad r.bytes = false ∧ getLE r.bytes 0 2 = 0x0200 ∧
       (∀ x ∈ idxRanges s (idxD r.bytes), inPrange s c.part x.1 x.2 = true) ∧ (idxD r.bytes).ivf = false ∧
       (idxD r.bytes).flat = false ∧
       (readSpan s ((idxD r.bytes).cbTile * 65536) ((idxD r.bytes).dims * 64)).held = false ∧
       (readSpan s ((idxD r.bytes).cbTile * 65536) ((idxD r.bytes).dims * 64)).poisoned = false)) ∧
  (∃ (s : State) (cid i : Nat) (c : Cmd),
    (cmdOf s cid 0x1A = some c) ∧ (c.flags = 0) ∧ (c.version = 0x0200) ∧
    (reservedZero c.bytes 8 [(8, 4)] = true) ∧ (getLE c.bytes 8 4 < tileCount) ∧
    (inPrange s c.part (getLE c.bytes 8 4) 1 = true) ∧ (freeTable s = some i) ∧
    (let r := readSpan s (getLE c.bytes 8 4 * 65536) 64
     r.held = false ∧ r.poisoned = false ∧ tabBad r.bytes = false ∧ getLE r.bytes 0 2 = 0x0200 ∧
       (∀ x ∈ tabRanges (tabD r.bytes), inPrange s c.part x.1 x.2 = true))) ∧
  (∃ (s : State) (cid : Nat) (c : Cmd) (x : Index),
    (cmdOf s cid 0x19 = some c) ∧ (c.flags = 0) ∧ (c.version = 0x0200) ∧
    (reservedZero c.bytes 8 [(8, 2)] = true) ∧ (getLE c.bytes 8 2 < 4096) ∧
    (tget? s.work.indexes (getLE c.bytes 8 2) = some x) ∧ (x.part = c.part) ∧ (x.shut = none) ∧
    (∀ p ∈ plansOf s c.part, planNamesIndex p (getLE c.bytes 8 2) = false)) ∧
  (∃ (s : State) (cid : Nat) (c : Cmd) (x : Table),
    (cmdOf s cid 0x1B = some c) ∧ (c.flags = 0) ∧ (c.version = 0x0200) ∧
    (reservedZero c.bytes 8 [(8, 2)] = true) ∧ (getLE c.bytes 8 2 < 1024) ∧
    (tget? s.work.tables (getLE c.bytes 8 2) = some x) ∧ (x.part = c.part) ∧ (x.shut = none) ∧
    (∀ p ∈ plansOf s c.part, planNamesTable p (getLE c.bytes 8 2) = false)) ∧
  (∃ (s : State) (cid : Nat) (c : Cmd),
    (cmdOf s cid 0x40 = some c) ∧ (c.flags = 0) ∧ (c.version = 0x0200) ∧
    (reservedZero c.bytes 8 [(8, 8), (16, 1)] = true) ∧ ((s.fn c.fn).owner = true) ∧ (getLE c.bytes 16 1 ≤ 2) ∧
    (bitOf s.fab.allowed (getLE c.bytes 16 1) = true) ∧ (s.epo.closed < getLE c.bytes 8 8) ∧
    (s.fab.shift = none) ∧ (s.work.plans = [] ∧ s.work.indexes = [] ∧ s.work.tables = [] ∧ s.tier.home = [])) :=
  ⟨⟨W.withCmd W.idxS (W.cmd 0x18 [(8, 4, 3)]), 7, 0, W.cmd 0x18 [(8, 4, 3)], by decide +kernel⟩,
   ⟨W.withCmd W.tabS (W.cmd 0x1A [(8, 4, 3)]), 7, 0, W.cmd 0x1A [(8, 4, 3)], by decide +kernel⟩,
   ⟨{ W.withCmd W.h1 (W.cmd 0x19 [(8, 2, 4095)]) with work.indexes := [(4095, { part := 0, desc := [], cb := [] })] }, 7, W.cmd 0x19 [(8, 2, 4095)], { part := 0, desc := [], cb := [] }, by decide +kernel⟩,
   ⟨{ W.withCmd W.h1 (W.cmd 0x1B [(8, 2, 1023)]) with work.tables := [(1023, { part := 0, desc := [] })] }, 7, W.cmd 0x1B [(8, 2, 1023)], { part := 0, desc := [] }, by decide +kernel⟩,
   ⟨{ W.withCmd W.h1 (W.cmd 0x40 [(8, 8, 9), (16, 1, 2)]) with fab.allowed := 7 }, 7, W.cmd 0x40 [(8, 8, 9), (16, 1, 2)], by decide +kernel⟩⟩
theorem wit_RegistrationsOpenAndClose_2 :
  (∃ (s : State) (cid : Nat) (c : Cmd),
    (cmdOf s cid 0x40 = some c) ∧ (c.flags = 0) ∧ (c.version = 0x0200) ∧
    (reservedZero c.bytes 8 [(8, 8), (16, 1)] = true) ∧ ((s.fn c.fn).owner = false) ∧ (getLE c.bytes 16 1 ≤ 2) ∧
    (bitOf s.fab.allowed (getLE c.bytes 16 1) = true) ∧ (s.epo.closed < getLE c.bytes 8 8) ∧
    (s.fab.shift = none) ∧ (s.work.plans = [] ∧ s.work.indexes = [] ∧ s.work.tables = [] ∧ s.tier.home = [])) :=
  ⟨{ W.withCmd W.h1 { W.cmd 0x40 [(8, 8, 9), (16, 1, 0)] with fn := 1 } with fab.allowed := 7 }, 7, { W.cmd 0x40 [(8, 8, 9), (16, 1, 0)] with fn := 1 }, by decide +kernel⟩

theorem wit_PlansLoadAndUnload_1 :
  (∃ (s : State) (cid i : Nat) (c : Cmd) (b0 : List Byte) (others : BitVec 32),
    (cmdOf s cid 0x10 = some c) ∧ (s.fab.role = 0) ∧ (headReasons c [(8, 8), (0x10, 4), (0x18, 8)] = 0) ∧
    (getLE c.bytes 8 8 % 64 = 0) ∧ ((s.fn c.fn).busMaster = true) ∧
    (planFormatBad (b0.take (getLE c.bytes 0x10 4)) (getLE c.bytes 0x10 4) = false) ∧
    (let p := planBin (b0.take (getLE c.bytes 0x10 4))
     planVersionBad (b0.take (getLE c.bytes 0x10 4)) (some p) = false ∧ p.multi = false ∧
       sigBad s c.part p = (false, none) ∧ binBits p = 0 ∧ resourceBits (runCmd s cid) c.part p = 0) ∧
    (earlierLoad s cid c = false) ∧ (tfreeBelow s.work.plans 256 = some i)) ∧
  (∃ (s : State) (cid : Nat) (c : Cmd) (data : HostRead) (others : BitVec 32),
    (cmdOf s cid 0x10 = some c) ∧ (s.fab.role ≠ 0)) ∧
  (∃ (s : State) (cid : Nat) (c : Cmd) (b0 : List Byte) (others : BitVec 32),
    (cmdOf s cid 0x10 = some c) ∧ (s.fab.role = 0) ∧ (headReasons c [(8, 8), (0x10, 4), (0x18, 8)] = 0) ∧
    (getLE c.bytes 8 8 % 64 = 0) ∧ ((s.fn c.fn).busMaster = true) ∧
    (planFormatBad (b0.take (getLE c.bytes 0x10 4)) (getLE c.bytes 0x10 4) = true) ∧
    (planVersionBad (b0.take (getLE c.bytes 0x10 4)) none = false)) ∧
  (∃ (s : State) (slot : Fin 256) (cid : Nat) (c : Cmd) (x : Plan),
    (tget? s.work.plans slot.val = some x) ∧ (x.loadCid = some cid) ∧ (x.sigWait = true) ∧ (x.unloadCids = []) ∧
    (tget? s.host.cmds cid = some c) ∧ (earlierLoad s cid c = false) ∧ (binBits x.bin = 0) ∧
    (resourceBits s x.part x.bin = 0) ∧ (x.others = 0)) ∧
  (∃ (s : State) (slot : Fin 256) (cid : Nat) (c : Cmd) (x : Plan),
    (tget? s.work.plans slot.val = some x) ∧ (x.state = .loading) ∧ (x.sigWait = false) ∧ (x.unloadCids = []) ∧
    (x.loadCid = some cid) ∧ (∀ r ∈ x.bin.roles, r.clusters ≠ []) ∧ (pinsReady s x = true) ∧
    (∀ kv ∈ s.work.clusters, kv.2.plan = some slot.val → (s.cl kv.1).st ≠ .clearing) ∧
    (tget? s.host.cmds cid = some c) ∧ (ringReady s c)) :=
  ⟨⟨W.planS, 7, 0, W.planC, W.planB, 0, by decide +kernel⟩,
   ⟨{ W.planS with fab.role := 2 }, 7, W.planC, .failed, 0, by decide +kernel⟩,
   ⟨W.planS, 7, W.planC, patch W.planB 0 [0], 0, by decide +kernel⟩,
   ⟨{ W.planS with work.plans := [(255, { W.plan1 .loading with loadCid := some 7, sigWait := true })] }, 255, 7, W.planC, { W.plan1 .loading with loadCid := some 7, sigWait := true }, by decide +kernel⟩,
   ⟨{ W.planS with work.plans := [(0, { W.plan1 .loading with loadCid := some 7 })], work.clusters := [(0, { plan := some 0, st := .loading, role := 5 })] }, 0, 7, W.planC, { W.plan1 .loading with loadCid := some 7 }, by decide +kernel⟩⟩
theorem wit_PlansLoadAndUnload_2 :
  (∃ (s : State) (cid : Nat) (c : Cmd) (x : Plan),
    (cmdOf s cid 0x11 = some c) ∧ (headReasons c [(8, 1)] = 0) ∧
    (tget? s.work.plans (getLE c.bytes 8 1) = some x) ∧ (x.part = c.part) ∧ (x.state ≠ .unloading) ∧
    (x.unloadCids = [])) ∧
  (∃ (s : State) (slot : Fin 256) (x : Plan),
    (tget? s.work.plans slot.val = some x) ∧ (x.state = .unloading) ∧
    (∀ kv ∈ s.work.invs, kv.2.plan ≠ slot.val) ∧ (queriesOf s slot.val = []) ∧ (x.pins = [])) :=
  ⟨⟨{ W.withCmd W.h1 (W.cmd 0x11 []) with work.plans := [(0, W.plan1 .admitted)] }, 7, W.cmd 0x11 [], W.plan1 .admitted, by decide +kernel⟩,
   ⟨{ W.planS with work.plans := [(0, W.plan1 .unloading)], work.clusters := [(0, { plan := some 0, st := .running, role := 5 })] }, 0, W.plan1 .unloading, by decide +kernel⟩⟩

theorem wit_InvocationsStartAndEnd_1 :
  (∃ (s : State) (cid : Nat) (c : Cmd) (x : Plan),
    (cmdOf s cid 0x12 = some c) ∧ (c.flags < 2) ∧ (c.version = 0x0200) ∧
    (reservedZero (c.bytes.take 128) 8 [(8, 8), (0x10, 8), (0x18, 4), (0x1C, 4), (0x20, 2)] = true) ∧
    (getLE c.bytes 8 8 % 64 = 0) ∧ (tget? s.work.plans (getLE c.bytes 0x20 1) = some x) ∧ (x.part = c.part) ∧
    (x.state = .admitted) ∧ (∃ r ∈ x.bin.roles, r.role = getLE c.bytes 0x21 1)) ∧
  (∃ (s : State) (i t0 : Nat) (armed : W64) (v : Inv),
    (tget? s.work.invs i = some v) ∧ (v.startT = some t0) ∧ (v.state = .held) ∧ (t0 ≤ s.now) ∧
    ((tgetD s.work.plans v.plan {}).bin.nodes ≤ popCount 64 (armed.toNat ||| 2 ^ s.fab.node))) ∧
  (∃ (s : State) (i t0 : Nat) (armed : W64) (v : Inv),
    (tget? s.work.invs i = some v) ∧ (v.startT = some t0) ∧
    (s.now < t0 ∨ popCount 64 (armed.toNat ||| 2 ^ s.fab.node) < (tgetD s.work.plans v.plan {}).bin.nodes)) ∧
  (∃ (s : State) (i t0 cid : Nat) (v : Inv),
    (tget? s.work.invs i = some v) ∧ (v.startT = some t0) ∧ (v.state = .held) ∧ (v.cid = some cid) ∧
    (t0 + (tgetD s.work.plans v.plan {}).bin.grace * 1000 ≤ s.now)) ∧
  (∃ (s : State) (i t0 : Nat) (v : Inv),
    (tget? s.work.invs i = some v) ∧ (v.startT = some t0) ∧
    (s.now < t0 + (tgetD s.work.plans v.plan {}).bin.grace * 1000)) :=
  ⟨⟨{ W.withCmd W.h1 W.invC with work.plans := [(0, W.plan1 .admitted)] }, 7, W.invC, W.plan1 .admitted, by decide +kernel⟩,
   ⟨W.invS { plan := 0, role := 5, part := 0, words := [], state := .held, startT := some 8192000 }, 3, 8192000, 1, { plan := 0, role := 5, part := 0, words := [], state := .held, startT := some 8192000 }, by decide +kernel⟩,
   ⟨W.invS { plan := 0, role := 5, part := 0, words := [], state := .held, startT := some 8192001 }, 3, 8192001, 1, { plan := 0, role := 5, part := 0, words := [], state := .held, startT := some 8192001 }, by decide +kernel⟩,
   ⟨W.invS { plan := 0, role := 5, part := 0, words := [], cid := some 7, state := .held, startT := some 8192000 }, 3, 8192000, 7, { plan := 0, role := 5, part := 0, words := [], cid := some 7, state := .held, startT := some 8192000 }, by decide +kernel⟩,
   ⟨{ W.invS { plan := 1, role := 5, part := 0, words := [], state := .held, startT := some 8191001 } with work.plans := [(1, { bin := { grace := 1 } })] }, 3, 8191001, { plan := 1, role := 5, part := 0, words := [], state := .held, startT := some 8191001 }, by decide +kernel⟩⟩
theorem wit_InvocationsStartAndEnd_2 :
  (∃ (s : State) (i d cid : Nat) (v : Inv),
    (tget? s.work.invs i = some v) ∧ (v.deadline = some d) ∧ (d ≤ s.now) ∧ (v.waitModel ≠ none) ∧
    (v.qid = none) ∧ (v.cid = some cid) ∧ (v.left = [])) ∧
  (∃ (s : State) (i d : Nat) (v : Inv),
    (tget? s.work.invs i = some v) ∧ (v.deadline = some d) ∧ (s.now < d)) :=
  ⟨⟨W.invS { plan := 0, role := 5, part := 0, words := [], cid := some 7, deadline := some 8192000, waitModel := some 2 }, 3, 8192000, 7, { plan := 0, role := 5, part := 0, words := [], cid := some 7, deadline := some 8192000, waitModel := some 2 }, by decide +kernel⟩,
   ⟨W.invS { plan := 0, role := 5, part := 0, words := [], deadline := some 8192001, waitModel := some 2 }, 3, 8192001, { plan := 0, role := 5, part := 0, words := [], deadline := some 8192001, waitModel := some 2 }, by decide +kernel⟩⟩

theorem wit_QueriesAndUpdatesAreAdmitted_1 :
  (∃ (s : State) (cid k : Nat) (c : Cmd) (x : Plan),
    (cmdOf s cid 0x20 = some c) ∧ (queryReasons s c.part (c.bytes.take 128) = 0) ∧
    ((s.fn c.fn).busMaster = true) ∧ (s.err.inj = []) ∧
    (tget? s.work.plans (qSlot (c.bytes.take 128)) = some x) ∧
    (queryCtxFree s (qSlot (c.bytes.take 128)) = some k)) ∧
  (∃ (s : State) (qid e k : Nat) (q : Query),
    (tget? s.work.queries qid = some q) ∧ (q.held = true) ∧ (q.entry = none) ∧ (qMinEp q.desc = true) ∧
    (qMinEpoch q.desc ≤ s.epo.closed) ∧ (e = max (qMinEpoch q.desc) s.epo.oldest) ∧ (q.ctx = some k) ∧
    (q.vec = none)) ∧
  (∃ (s : State) (qid : Nat) (q : Query),
    (tget? s.work.queries qid = some q) ∧ (s.epo.closed < qMinEpoch q.desc) ∧
    (q.entry ≠ none ∨ qMinEp q.desc = true)) ∧
  (∃ (s : State) (qid cid : Nat) (q : Query) (c : Cmd),
    (tget? s.work.queries qid = some q) ∧ (q.deadline ≤ s.now) ∧ (q.held = true ∨ q.ctx = none) ∧
    (q.inv = none) ∧ (q.at_ = none) ∧ (q.entry = none) ∧ (q.cid = some cid) ∧ (tget? s.host.cmds cid = some c) ∧
    (ringReady s c)) ∧
  (∃ (s : State) (qid : Nat) (q : Query),
    (tget? s.work.queries qid = some q) ∧ (s.now < q.deadline)) :=
  ⟨⟨W.qS, 7, 0, W.qC, W.qPlan, by decide +kernel⟩,
   ⟨W.qqS { W.qq with held := true, ctx := some 1, desc := patch (patch W.qDesc 1 [1]) 0x10 [5] }, 2, 5, 1, { W.qq with held := true, ctx := some 1, desc := patch (patch W.qDesc 1 [1]) 0x10 [5] }, by decide +kernel⟩,
   ⟨W.qqS { W.qq with held := true, desc := patch (patch W.qDesc 1 [1]) 0x10 [6] }, 2, { W.qq with held := true, desc := patch (patch W.qDesc 1 [1]) 0x10 [6] }, by decide +kernel⟩,
   ⟨W.qqS { W.qq with held := true, deadline := 8192000 }, 2, 7, { W.qq with held := true, deadline := 8192000 }, W.qC, by decide +kernel⟩,
   ⟨W.qqS { W.qq with held := true, deadline := 8192001 }, 2, { W.qq with held := true, deadline := 8192001 }, by decide +kernel⟩⟩
theorem wit_QueriesAndUpdatesAreAdmitted_2 :
  (∃ (s : State) (cid k g : Nat) (c : Cmd) (x : Index),
    (cmdOf s cid 0x21 = some c) ∧ (headReasons c [(8, 8), (0x10, 8), (0x20, 2)] = 0) ∧
    (tget? s.work.indexes (getLE c.bytes 0x20 2) = some x) ∧ (x.part = c.part) ∧ (x.shut = none) ∧
    (getLE c.bytes 0x20 2 < 4096) ∧ (s.pkg.sec.stop = .running) ∧ (2 ≤ s.epo.peers.length) ∧
    (s.epo.updates = []) ∧ (getLE c.bytes 8 8 % 64 = 0) ∧ (getLE c.bytes 0x10 8 % 64 = 0) ∧
    ((idxD x.desc).metaBytes ≠ 0 ∨ getLE c.bytes 0x10 8 = 0) ∧ ((s.fn c.fn).busMaster = true) ∧
    (freeSlot x = some k) ∧ ((recRead s (idxD x.desc) k).2 = false) ∧
    (logUsed s c.part + updSize (idxD x.desc) 1 ≤ tgetD s.epo.quota c.part 0 * 2 ^ 20) ∧
    (tgetD s.epo.changes (epochOf s c.stamp) 0 < 262144) ∧ (updCtxFree s = some g)) ∧
  (∃ (s : State) (cid k g : Nat) (c : Cmd) (x : Index),
    (cmdOf s cid 0x23 = some c) ∧ (headReasons c [(8, 8), (0x10, 8), (0x18, 8), (0x20, 2)] = 0) ∧
    (tget? s.work.indexes (getLE c.bytes 0x20 2) = some x) ∧ (x.part = c.part) ∧ (x.shut = none) ∧
    (getLE c.bytes 0x20 2 < 4096) ∧ (s.pkg.sec.stop = .running) ∧ (2 ≤ s.epo.peers.length) ∧
    (s.epo.updates = []) ∧ (getLE c.bytes 8 8 % 64 = 0) ∧ (getLE c.bytes 0x10 8 % 64 = 0) ∧
    ((idxD x.desc).metaBytes ≠ 0 ∨ getLE c.bytes 0x10 8 = 0) ∧ ((s.fn c.fn).busMaster = true) ∧
    (freeSlot x = some k) ∧ ((recRead s (idxD x.desc) k).2 = false) ∧ (bitsOf (getLE c.bytes 0x18 8) 35 32 = 0) ∧
    (hostOf s (handleNode (getLE c.bytes 0x18 8)) = some s.fab.node) ∧
    (logUsed s c.part + updSize (idxD x.desc) 3 ≤ tgetD s.epo.quota c.part 0 * 2 ^ 20) ∧
    (tgetD s.epo.changes (epochOf s c.stamp) 0 + 2 ≤ 262144) ∧ (updCtxFree s = some g)) ∧
  (∃ (s : State) (cid g : Nat) (c : Cmd) (x : Index),
    (cmdOf s cid 0x22 = some c) ∧ (headReasons c [(0x18, 8), (0x20, 2)] = 0) ∧
    (tget? s.work.indexes (getLE c.bytes 0x20 2) = some x) ∧ (x.part = c.part) ∧ (x.shut = none) ∧
    (getLE c.bytes 0x20 2 < 4096) ∧ (s.pkg.sec.stop = .running) ∧ (2 ≤ s.epo.peers.length) ∧
    (s.epo.updates = []) ∧ (bitsOf (getLE c.bytes 0x18 8) 35 32 = 0) ∧
    (hostOf s (handleNode (getLE c.bytes 0x18 8)) = some s.fab.node) ∧
    (logUsed s c.part + updSize (idxD x.desc) 2 ≤ tgetD s.epo.quota c.part 0 * 2 ^ 20) ∧
    (tgetD s.epo.changes (epochOf s c.stamp) 0 < 262144) ∧ (updCtxFree s = some g) ∧ (s.err.inj = [])) ∧
  (∃ (s : State) (cid : Nat) (c : Cmd) (x : Index),
    (cmdOf s cid 0x22 = some c) ∧ (headReasons c [(0x18, 8), (0x20, 2)] = 0) ∧
    (tget? s.work.indexes (getLE c.bytes 0x20 2) = some x) ∧ (x.part = c.part) ∧ (x.shut = none) ∧
    (getLE c.bytes 0x20 2 < 4096) ∧ (s.pkg.sec.stop = .running) ∧ (s.epo.peers.length < 2) ∧
    (bitsOf (getLE c.bytes 0x18 8) 35 32 = 0) ∧
    (hostOf s (handleNode (getLE c.bytes 0x18 8)) = some s.fab.node) ∧
    (logUsed s c.part + updSize (idxD x.desc) 2 ≤ tgetD s.epo.quota c.part 0 * 2 ^ 20) ∧
    (tgetD s.epo.changes (epochOf s c.stamp) 0 < 262144)) :=
  ⟨⟨{ W.updS with host.cmds := [(7, W.insC)], work.indexes := [(4, W.idx16)] }, 7, 0, 0, W.insC, W.idx16, by decide +kernel⟩,
   ⟨{ W.updS with host.cmds := [(7, W.cmd 0x23 [(0x18, 8, 9), (0x20, 2, 4)])] }, 7, 0, 0, W.cmd 0x23 [(0x18, 8, 9), (0x20, 2, 4)], W.qIdx, by decide +kernel⟩,
   ⟨{ W.updS with host.cmds := [(7, W.cmd 0x22 [(0x18, 8, 9), (0x20, 2, 4)])] }, 7, 0, W.cmd 0x22 [(0x18, 8, 9), (0x20, 2, 4)], W.qIdx, by decide +kernel⟩,
   ⟨{ W.updS with epo.peers := [1], host.cmds := [(7, W.cmd 0x22 [(0x18, 8, 9), (0x20, 2, 4)])] }, 7, W.cmd 0x22 [(0x18, 8, 9), (0x20, 2, 4)], W.qIdx, by decide +kernel⟩⟩

theorem wit_QueryVectorsAndContexts_1 :
  (∃ (s : State) (qid : Nat) (q : Query) (x : Index) (b : List Byte),
    (tget? s.work.queries qid = some q) ∧ (queryIndex s q = some x) ∧ (q.vec = none) ∧
    (qTierVec q.desc = false ∨ q.entry ≠ none) ∧ (qFinite q.desc (idxD x.desc) b = true) ∧
    ((idxD x.desc).metric ≠ 1) ∧ (q.ctx = none ∨ q.epoch = none)) ∧
  (∃ (s : State) (qid k e : Nat) (q : Query) (x : Index) (b : List Byte),
    (tget? s.work.queries qid = some q) ∧ (queryIndex s q = some x) ∧ (q.vec = none) ∧
    (qTierVec q.desc = false ∨ q.entry ≠ none) ∧ (qFinite q.desc (idxD x.desc) b = true) ∧
    ((idxD x.desc).metric ≠ 1) ∧ (q.ctx = some k) ∧ (q.epoch = some e) ∧ (q.inv = none) ∧ (q.held = false) ∧
    ((admitted s q.part (qSlot q.desc)).isSome = true) ∧ (qSpan q.desc = false)) ∧
  (∃ (s : State) (qid cid : Nat) (q : Query) (x : Index) (b : List Byte) (c : Cmd),
    (tget? s.work.queries qid = some q) ∧ (queryIndex s q = some x) ∧ (q.vec = none) ∧
    (qTierVec q.desc = false) ∧ (q.entry = none) ∧ (qFinite q.desc (idxD x.desc) b = false) ∧ (q.inv = none) ∧
    (q.at_ = none) ∧ (q.cid = some cid) ∧ (tget? s.host.cmds cid = some c) ∧ (ringReady s c)) ∧
  (∃ (s : State) (qid cid : Nat) (q : Query) (x : Index) (c : Cmd),
    (tget? s.work.queries qid = some q) ∧ (queryIndex s q = some x) ∧ (q.vec = none) ∧
    (qTierVec q.desc = false) ∧ (q.entry = none) ∧ (q.inv = none) ∧ (q.at_ = none) ∧ (q.cid = some cid) ∧
    (tget? s.host.cmds cid = some c) ∧ (ringReady s c)) ∧
  (∃ (s : State) (ctx : Fin 262144) (qid k : Nat) (q : Query),
    (tget? s.epo.ctxUsed ctx.val = none) ∧ (tget? s.epo.ctxRetired ctx.val = none) ∧
    (s.work.queries = [(qid, q)]) ∧ (q.ctx = none) ∧ (q.vec = none) ∧ (s.err.inj = []) ∧
    (tget? s.epo.ctxOwner ctx.val = none ∨ tget? s.epo.ctxOwner ctx.val = some (qSlot q.desc)) ∧
    (∀ kv ∈ s.epo.updates, kv.2.ctx = none → kv.2.st = .allocated → q.stamp ≤ kv.2.lrec.stamp) ∧
    (queryCtxFree s (qSlot q.desc) = some k)) :=
  ⟨⟨W.qqS W.qq, 2, W.qq, W.qIdx, List.replicate 32 0, by decide +kernel⟩,
   ⟨W.qqS { W.qq with ctx := some 3, epoch := some 5 }, 2, 3, 5, { W.qq with ctx := some 3, epoch := some 5 }, W.qIdx, List.replicate 32 0, by decide +kernel⟩,
   ⟨W.qqS W.qq, 2, 7, W.qq, W.qIdx, (List.replicate 31 0xFF ++ [0x7F]), W.qC, by decide +kernel⟩,
   ⟨W.qqS W.qq, 2, 7, W.qq, W.qIdx, W.qC, by decide +kernel⟩,
   ⟨W.qqS W.qq, 262143, 2, 0, W.qq, by decide +kernel⟩⟩
theorem wit_QueryVectorsAndContexts_2 :
  (∃ (s : State) (ctx : Fin 262144) (uid k : Nat) (u : Update),
    (tget? s.epo.ctxUsed ctx.val = none) ∧ (tget? s.epo.ctxRetired ctx.val = none) ∧
    (tget? s.epo.ctxOwner ctx.val = none) ∧ (s.epo.updates = [(uid, u)]) ∧ (u.ctx = none) ∧ (u.st = .allocated) ∧
    (u.ready = false) ∧ (∀ kv ∈ s.work.queries, kv.2.ctx = none → u.lrec.stamp < kv.2.stamp) ∧
    (updCtxFree s = some k)) ∧
  (∃ (s : State) (ctx : Fin 262144),
    (∀ kv ∈ s.work.queries, kv.2.ctx ≠ none) ∧ (∀ kv ∈ s.epo.updates, kv.2.ctx ≠ none ∨ kv.2.st ≠ .allocated)) :=
  ⟨⟨{ W.qS with epo.updates := [(1, { lrec := W.rec0 })] }, 0, 1, 0, { lrec := W.rec0 }, by decide +kernel⟩,
   ⟨W.qqS { W.qq with ctx := some 5 }, 5, by decide +kernel⟩⟩

theorem wit_CommitNeedsBothPeers_1 :
  (∃ (s : State) (uid cid g : Nat) (u : Update) (x : Index) (v : List Byte),
    (tget? s.epo.updates uid = some u) ∧ (u.cid = some cid) ∧ (tget? s.work.indexes u.lrec.index = some x) ∧
    ((idxD x.desc).metaBytes = 0) ∧ (u.ready = false) ∧ (u.st = .allocated) ∧ (u.ctx = some g) ∧
    (u.owner = none) ∧ (s.err.inj = [])) ∧
  (∃ (s : State) (src : Fin 64) (seq handle uid : Nat) (u : Update),
    (tfind? s.epo.updates (fun _ u => if isFwdId seq then u.owner.isSome && u.lrec.fwdId == seq && u.st == .logging
        else u.owner.isNone && u.lrec.seq == seq && (u.st == .logging || u.st == .voiding)) = some (uid, u)) ∧
    (u.owner = none) ∧ (u.st = .logging) ∧ (s.now ≤ u.logT + fld s.epo.cfg 31 20 * 1000) ∧ (src.val ∈ u.sentTo) ∧
    (u.acks = [])) ∧
  (∃ (s : State) (src : Fin 64) (seq handle uid a cid : Nat) (u : Update),
    (tfind? s.epo.updates (fun _ u => if isFwdId seq then u.owner.isSome && u.lrec.fwdId == seq && u.st == .logging
        else u.owner.isNone && u.lrec.seq == seq && (u.st == .logging || u.st == .voiding)) = some (uid, u)) ∧
    (u.owner = none) ∧ (u.st = .logging) ∧ (s.now ≤ u.logT + fld s.epo.cfg 31 20 * 1000) ∧ (src.val ∈ u.sentTo) ∧
    (u.acks = [a]) ∧ (a ≠ src.val) ∧ (u.cid = some cid)) ∧
  (∃ (s : State) (src : Fin 64) (seq handle uid : Nat) (u : Update),
    (tfind? s.epo.updates (fun _ u => if isFwdId seq then u.owner.isSome && u.lrec.fwdId == seq && u.st == .logging
        else u.owner.isNone && u.lrec.seq == seq && (u.st == .logging || u.st == .voiding)) = some (uid, u)) ∧
    (u.owner = none) ∧ (u.st = .voiding ∨ u.logT + fld s.epo.cfg 31 20 * 1000 < s.now)) ∧
  (∃ (s : State) (seq uid : Nat) (u : Update),
    (tfind? s.epo.updates (fun _ u => if isFwdId seq then u.owner.isSome && u.lrec.fwdId == seq && u.st == .logging
        else u.owner.isNone && u.lrec.seq == seq && (u.st == .logging || u.st == .voiding)) = some (uid, u)) ∧
    (u.owner = none) ∧ (u.st = .logging) ∧ (u.logT + fld s.epo.cfg 31 20 * 1000 ≤ s.now) ∧
    (∃ p ∈ u.sentTo, p ∉ u.voidAcks ∧ bitOf s.mbr.members p = true)) :=
  ⟨⟨{ W.updS with epo.updates := [(1, { lrec := W.rec0, cid := some 7, ctx := some 0 })] }, 1, 7, 0, { lrec := W.rec0, cid := some 7, ctx := some 0 }, W.qIdx, [1], by decide +kernel⟩,
   ⟨{ W.updS with epo.updates := [(1, { lrec := { W.rec0 with seq := 9 }, st := .logging, sentTo := [1, 2], logT := 8192000 })] }, 1, 9, 0, 1, { lrec := { W.rec0 with seq := 9 }, st := .logging, sentTo := [1, 2], logT := 8192000 }, by decide +kernel⟩,
   ⟨{ W.updS with epo.updates := [(1, { lrec := { W.rec0 with seq := 9 }, cid := some 7, st := .logging, acks := [2], sentTo := [1, 2], logT := 8172000 })] }, 1, 9, 0, 1, 2, 7, { lrec := { W.rec0 with seq := 9 }, cid := some 7, st := .logging, acks := [2], sentTo := [1, 2], logT := 8172000 }, by decide +kernel⟩,
   ⟨{ W.updS with epo.updates := [(1, { lrec := { W.rec0 with seq := 9 }, st := .logging, logT := 8171999 })] }, 1, 9, 0, 1, { lrec := { W.rec0 with seq := 9 }, st := .logging, logT := 8171999 }, by decide +kernel⟩,
   ⟨{ W.updS with mbr.members := 6, epo.updates := [(1, { lrec := { W.rec0 with seq := 9 }, st := .logging, sentTo := [1, 2], logT := 8172000 })] }, 9, 1, { lrec := { W.rec0 with seq := 9 }, st := .logging, sentTo := [1, 2], logT := 8172000 }, by decide +kernel⟩⟩
theorem wit_CommitNeedsBothPeers_2 :
  (∃ (s : State) (seq uid : Nat) (u : Update),
    (tfind? s.epo.updates (fun _ u => if isFwdId seq then u.owner.isSome && u.lrec.fwdId == seq && u.st == .logging
        else u.owner.isNone && u.lrec.seq == seq && (u.st == .logging || u.st == .voiding)) = some (uid, u)) ∧
    (s.now < u.logT + fld s.epo.cfg 31 20 * 1000 ∨ u.st = .voiding)) ∧
  (∃ (s : State) (src : Fin 64) (seq uid cid : Nat) (u : Update),
    (tfind? s.epo.updates (fun _ u => if isFwdId seq then u.owner.isSome && u.lrec.fwdId == seq && u.st == .logging
        else u.owner.isNone && u.lrec.seq == seq && (u.st == .logging || u.st == .voiding)) = some (uid, u)) ∧
    (u.owner = none) ∧ (u.st = .voiding) ∧
    (∀ p ∈ u.sentTo, p = src.val ∨ p ∈ u.voidAcks ∨ bitOf s.mbr.members p = false) ∧ (u.cid = some cid)) :=
  ⟨⟨{ W.updS with epo.updates := [(1, { lrec := { W.rec0 with seq := 9 }, st := .logging, logT := 8172001 })] }, 9, 1, { lrec := { W.rec0 with seq := 9 }, st := .logging, logT := 8172001 }, by decide +kernel⟩,
   ⟨{ W.updS with epo.updates := [(1, { lrec := { W.rec0 with seq := 9 }, cid := some 7, st := .voiding, sentTo := [1, 2] })] }, 1, 9, 1, 7, { lrec := { W.rec0 with seq := 9 }, cid := some 7, st := .voiding, sentTo := [1, 2] }, by decide +kernel⟩⟩

theorem wit_PeersAndCheckpoints_1 :
  (∃ (s : State) (src : Fin 64) (part : Fin 32) (r : LogRec),
    (r.fwdId = 0 ∨ r.seq ≠ 0)) ∧
  (∃ (s : State) (src : Fin 64) (gen : Nat) (part : Fin 32) (r : LogRec),
    (gen < s.mbr.gen)) ∧
  (∃ (s : State) (src : Fin 64) (gen : Nat) (part : Fin 32) (r : LogRec),
    (s.mbr.gen < gen)) ∧
  (∃ (s : State) (seq : Nat) (r : LogRec × Nat),
    (s.epo.log.find? (fun x => x.1.seq == seq && !x.1.void) = some r) ∧
    (∀ kv ∈ s.epo.updates, kv.2.owner = none → kv.2.lrec.seq = seq → kv.2.st ≠ .logging ∧ kv.2.st ≠ .voiding) ∧
    (∀ x ∈ s.epo.flashLog, x.1.seq ≠ seq ∨ x.1.origin ≠ r.1.origin)) ∧
  (∃ (s : State) (fn : Fin 64) (part : Fin 32) (d : W64),
    ((s.fn fn.val).bound = true) ∧ ((s.fn fn.val).part = part.val ∨ (s.fn fn.val).owner = true) ∧
    (d.toNat ≤ s.epo.closed) ∧ (tgetD s.epo.durable part.val 0 < d.toNat)) :=
  ⟨⟨W.updS, 63, 31, { W.rec0 with seq := 1 }, by decide +kernel⟩,
   ⟨{ W.updS with mbr.gen := 2 }, 63, 1, 31, W.rec0, by decide +kernel⟩,
   ⟨W.updS, 63, 1, 31, W.rec0, by decide +kernel⟩,
   ⟨{ W.updS with epo.log := [({ W.rec0 with seq := 9 }, 0)], epo.updates := [(1, { lrec := { W.rec0 with seq := 9 }, st := .committed })] }, 9, ({ W.rec0 with seq := 9 }, 0), by decide +kernel⟩,
   ⟨{ W.updS with epo.closed := 5 }, 0, 31, 5, by decide +kernel⟩⟩
theorem wit_PeersAndCheckpoints_2 :
  (∃ (s : State) (fn : Fin 64) (part : Fin 32) (d : W64),
    ((s.fn fn.val).bound = true) ∧ ((s.fn fn.val).part = part.val ∨ (s.fn fn.val).owner = true) ∧
    (s.epo.closed < d.toNat ∨ d.toNat ≤ tgetD s.epo.durable part.val 0)) ∧
  (∃ (s : State) (fn : Fin 64) (part : Fin 32) (d : W64),
    ((s.fn fn.val).bound = false ∨ ((s.fn fn.val).part ≠ part.val ∧ (s.fn fn.val).owner = false))) ∧
  (∃ (s : State) (part : Fin 32) (d : Nat),
    (tget? s.epo.ckpt part.val = some d) ∧ (dirtyTiles s part.val = [])) ∧
  (∃ (s : State) (part : Fin 32),
    (∃ u ∈ dirtyTiles s part.val, (s.home u).st = .moving)) :=
  ⟨⟨{ W.updS with epo.closed := 5 }, 0, 0, 6, by decide +kernel⟩,
   ⟨{ W.updS with epo.closed := 5 }, 1, 0, 5, by decide +kernel⟩,
   ⟨{ W.updS with epo.ckpt := [(0, 5)], epo.log := [(W.rec0, 0)] }, 0, 5, by decide +kernel⟩,
   ⟨{ W.updS with epo.ckpt := [(0, 5)], tier.prange := [(0, 0x0100_0000_8000_0000)], tier.home := [(3, ⟨.moving, 1, 0⟩)], tier.dirty := [(3, true)] }, 0, by decide +kernel⟩⟩

theorem wit_AgesHeatAndFills_1 :
  (∃ (s : State),
    (s.tier.lastAge + fld s.tier.cfg 23 16 * 1000000 ≤ s.now)) ∧
  (∃ (s : State),
    (s.now < s.tier.lastAge + fld s.tier.cfg 23 16 * 1000000)) ∧
  (∃ (s : State) (r : Fin 8),
    ((s.region r.val).hotStart + fld s.tier.cfg 31 24 * 10000 ≤ s.now)) ∧
  (∃ (s : State) (r : Fin 8),
    (s.now < (s.region r.val).hotStart + fld s.tier.cfg 31 24 * 10000)) ∧
  (∃ (s : State) (r : Fin 8) (line : Nat) (f : Fill),
    ((s.region r.val).fills.find? (fun g => g.line = line) = some f) ∧ (f.drop = false) ∧
    (line / 256 < tileCount) ∧ ((s.home (line / 256)).st ≠ .poisoned)) :=
  ⟨⟨W.tierS, by decide +kernel⟩,
   ⟨{ W.tierS with tier.lastAge := 4192001 }, by decide +kernel⟩,
   ⟨W.tierS, 7, by decide +kernel⟩,
   ⟨{ W.tierS with tier.regions := [(7, { hotStart := 8092001 })] }, 7, by decide +kernel⟩,
   ⟨{ W.tierS with tier.regions := [(7, { fills := [{ line := 768 }] })] }, 7, 768, { line := 768 }, by decide +kernel⟩⟩
theorem wit_AgesHeatAndFills_2 :
  (∃ (s : State) (r : Fin 8) (line : Nat) (f : Fill),
    ((s.region r.val).fills.find? (fun g => g.line = line) = some f) ∧ (f.drop = true)) :=
  ⟨{ W.tierS with tier.regions := [(7, { fills := [{ line := 768, drop := true }] })] }, 7, 768, { line := 768, drop := true }, by decide +kernel⟩

theorem wit_MovesStartAndFreeze_1 :
  (∃ (s : State) (tile : Fin 33554432) (r k : Nat),
    (s.tier.moveWait.find? (fun w => w.1 == tile.val) = some (tile.val, 1, r, false)) ∧
    (s.tier.moves.length < 256) ∧ ((s.home tile.val).st = .home) ∧ ((s.home tile.val).tier ≠ 2) ∧
    (freeFrame s r = some k)) ∧
  (∃ (s : State) (tile : Fin 33554432),
    (256 ≤ s.tier.moves.length)) ∧
  (∃ (s : State) (tile : Fin 33554432) (m : Move),
    (tget? s.tier.moves tile.val = some m)) ∧
  (∃ (s : State) (tile : Fin 33554432) (i : Fin 256) (m : Move) (bs : List Byte) (p : Bool),
    (tget? s.tier.moves tile.val = some m) ∧ (m.frozen = true) ∧ (i.val = m.copied) ∧ (m.old.tier ≠ 2) ∧
    (memWf m.dmem = true) ∧ (intervalPoisoned s tile.val (i.val * 256) 256 = false)) ∧
  (∃ (s : State) (tile : Fin 33554432) (i : Fin 256) (m : Move) (bs : List Byte) (p : Bool),
    (tget? s.tier.moves tile.val = some m) ∧ (m.frozen = false ∨ i.val ≠ m.copied)) :=
  ⟨⟨{ W.tierS with tier.moveWait := [(3, 1, 0, false)] }, 3, 0, 1, by decide +kernel⟩,
   ⟨{ W.tierS with tier.moves := (List.range 256).map (fun i => (i, W.mv0)) }, 3, by decide +kernel⟩,
   ⟨W.mvS W.mv0, 3, W.mv0, by decide +kernel⟩,
   ⟨W.mvS { W.mv0 with frozen := true, copied := 255 }, 3, 255, { W.mv0 with frozen := true, copied := 255 }, [], false, by decide +kernel⟩,
   ⟨W.mvS { W.mv0 with frozen := true, copied := 254 }, 3, 255, { W.mv0 with frozen := true, copied := 254 }, [], false, by decide +kernel⟩⟩
theorem wit_MovesStartAndFreeze_2 :
  (∃ (s : State) (pos : Fin 64) (off : Fin 2097152) (i : Fin 256) (bs : List Byte),
    (i.val = (tgetD s.tier.lendMoves (pos.val * 2097152 + off.val) {}).copied) ∧ (bs.length = 256) ∧
    (memWf s.tier.lendMem = true)) :=
  ⟨W.mvS W.mv0, 63, 0, 0, List.replicate 256 1, by decide +kernel⟩

theorem wit_MovesReplayAndFlip_1 :
  (∃ (s : State) (tile : Fin 33554432) (off : Fin 65536) (bs : List Byte) (m : Move) (w : QWrite) (rest : List QWrite),
    (tget? s.tier.moves tile.val = some m) ∧ (m.copied = 256) ∧ (m.fwdq = w :: rest) ∧ (m.held = []) ∧
    (w.off = off.val ∧ w.bytes = bs ∧ w.atomic = none) ∧ (memWf m.dmem = true)) ∧
  (∃ (s : State) (tile : Fin 33554432) (off : Fin 65536) (op a b : Nat) (m : Move) (w h : QWrite) (rest hs : List QWrite),
    (tget? s.tier.moves tile.val = some m) ∧ (m.copied = 256) ∧ (m.fwdq = w :: rest) ∧ (m.held = h :: hs) ∧
    (w.off = off.val ∧ w.atomic = some (op, a, b) ∧ w.asker = none) ∧ (memWf m.dmem = true)) ∧
  (∃ (s : State) (tile : Fin 33554432) (m : Move),
    (tget? s.tier.moves tile.val = some m) ∧ (256 ≤ m.copied) ∧ (m.fwdq = [] ∧ m.held = []) ∧
    (s.tier.stubs.length < 4096) ∧ (m.tier = 1) ∧ (memWf s.tier.mem = true) ∧
    (pinWanted s tile.val = false ∨ m.pin = true)) ∧
  (∃ (s : State) (tile : Fin 33554432) (m : Move),
    (tget? s.tier.moves tile.val = some m) ∧
    (m.copied < 256 ∨ m.fwdq ≠ [] ∨ m.held ≠ [] ∨ 4096 ≤ s.tier.stubs.length)) ∧
  (∃ (s : State) (i : Nat) (x : Stub) (f : TFrame),
    (tget? s.tier.stubs i = some x) ∧ (x.until_ ≤ s.now) ∧ (x.tier = 1) ∧
    (tget? s.tier.frames (locFrame x.loc) = some f) ∧ (f.tile = x.tile) ∧ ((s.home x.tile).loc ≠ x.loc)) :=
  ⟨⟨W.mvS { W.mv0 with copied := 256, fwdq := [{ off := 5, bytes := [7] }] }, 3, 5, [7], { W.mv0 with copied := 256, fwdq := [{ off := 5, bytes := [7] }] }, { off := 5, bytes := [7] }, [], by decide +kernel⟩,
   ⟨W.mvS { W.mv0 with copied := 256, fwdq := [{ off := 5, bytes := [], atomic := some (0, 1, 0) }], held := [{ off := 6, bytes := [7] }] }, 3, 5, 0, 1, 0, { W.mv0 with copied := 256, fwdq := [{ off := 5, bytes := [], atomic := some (0, 1, 0) }], held := [{ off := 6, bytes := [7] }] }, { off := 5, bytes := [], atomic := some (0, 1, 0) }, { off := 6, bytes := [7] }, [], [], by decide +kernel⟩,
   ⟨W.mvS { W.mv0 with copied := 256, dmem := [(5, 1)] }, 3, { W.mv0 with copied := 256, dmem := [(5, 1)] }, by decide +kernel⟩,
   ⟨W.mvS { W.mv0 with copied := 255 }, 3, { W.mv0 with copied := 255 }, by decide +kernel⟩,
   ⟨{ W.tierS with tier.stubs := [(9, ⟨3, 1, 0, 8192000⟩)], tier.home := [(3, ⟨.home, 1, 16777216⟩)] }, 9, ⟨3, 1, 0, 8192000⟩, { tile := 3 }, by decide +kernel⟩⟩
theorem wit_MovesReplayAndFlip_2 :
  (∃ (s : State) (i : Nat) (x : Stub),
    (tget? s.tier.stubs i = some x) ∧ (s.now < x.until_)) :=
  ⟨{ W.tierS with tier.stubs := [(9, ⟨3, 1, 0, 8192001⟩)] }, 9, ⟨3, 1, 0, 8192001⟩, by decide +kernel⟩

theorem wit_CloseArmsItsBarriers_1 :
  (∃ (s : State),
    (s.pkg.sec.epochs = true) ∧ (s.epo.phase = .idle) ∧
    ((s.epo.closed + 2) * (max 1 (fld s.epo.cfg 39 32) * 1000000) ≤ s.now)) ∧
  (∃ (s : State),
    (s.pkg.sec.epochs = true) ∧
    (s.epo.phase ≠ .idle ∨ s.now < (s.epo.closed + 2) * (max 1 (fld s.epo.cfg 39 32) * 1000000))) ∧
  (∃ (s : State),
    (s.pkg.sec.epochs = false)) ∧
  (∃ (s : State),
    (s.epo.phase = .drain) ∧ (updateWaits s = false) ∧ (updateRuns s = false) ∧ ((s.barrier 0).armed = false) ∧
    ((s.barrier 0).release = none) ∧ (∀ p ∈ otherMembers s, (tget? (s.barrier 0).arms p).isSome = true)) ∧
  (∃ (s : State),
    (s.epo.phase ≠ .drain ∨ updateWaits s = true ∨ updateRuns s = true)) :=
  ⟨⟨{ W.epS with epo.phase := .idle, now := 20000000 }, by decide +kernel⟩,
   ⟨W.epS, by decide +kernel⟩,
   ⟨W.h1, by decide +kernel⟩,
   ⟨W.epS, by decide +kernel⟩,
   ⟨{ W.epS with epo.updates := [(0, { lrec := { W.rec0 with epoch := 1 }, st := .committed })] }, by decide +kernel⟩⟩
theorem wit_CloseArmsItsBarriers_2 :
  (∃ (s : State),
    (s.epo.phase = .publish) ∧ ((s.barrier 1).armed = false) ∧ ((s.barrier 1).release = none) ∧
    (∀ p ∈ otherMembers s, (tget? (s.barrier 1).arms p).isSome = true)) ∧
  (∃ (s : State),
    (s.epo.phase ≠ .publish)) ∧
  (∃ (s : State),
    (s.epo.phase = .inval) ∧ ((s.barrier 2).armed = false) ∧ ((s.barrier 2).release = none) ∧
    (∀ p ∈ otherMembers s, (tget? (s.barrier 2).arms p).isSome = true)) ∧
  (∃ (s : State),
    (s.epo.phase ≠ .inval)) ∧
  (∃ (s : State) (src : Fin 64) (b : Fin 4) (a : Nat),
    ((s.barrier b.val).armed = true) ∧ ((s.barrier b.val).release = none) ∧
    (∀ p ∈ otherMembers s, p = src.val ∨ (tget? (s.barrier b.val).arms p).isSome = true)) :=
  ⟨⟨{ W.epS with epo.phase := .publish }, by decide +kernel⟩,
   ⟨W.epS, by decide +kernel⟩,
   ⟨{ W.epS with epo.phase := .inval }, by decide +kernel⟩,
   ⟨W.epS, by decide +kernel⟩,
   ⟨{ W.epS with mbr.members := 0x8000_0000_0000_0004, epo.barriers := [(2, { armed := true, arms := [(2, 8191000)] })] }, 63, 2, 8191500, by decide +kernel⟩⟩
theorem wit_CloseArmsItsBarriers_3 :
  (∃ (s : State) (src : Fin 64) (b : Fin 4) (a : Nat),
    ((s.barrier b.val).armed = false ∨ ∃ p ∈ otherMembers s, p ≠ src.val ∧ tget? (s.barrier b.val).arms p = none)) ∧
  (∃ (s : State) (src : Fin 64) (b : Fin 4) (a g : Nat),
    (g < s.mbr.gen)) :=
  ⟨⟨W.epS, 63, 3, 5, by decide +kernel⟩,
   ⟨{ W.epS with mbr.gen := 2 }, 63, 3, 5, 1, by decide +kernel⟩⟩

theorem wit_BarrierReleaseClosesEpoch_1 :
  (∃ (s : State) (b : Fin 4),
    ((s.barrier b.val).release = none ∨ ∃ r, (s.barrier b.val).release = some r ∧ s.now < r)) ∧
  (∃ (s : State) (r : Nat),
    ((s.barrier 0).release = some r) ∧ (r ≤ s.now) ∧ ((s.barrier 0).late = false) ∧ (s.epo.updates = [])) ∧
  (∃ (s : State) (r uid k : Nat) (u : Update) (x : Index),
    ((s.barrier 0).release = some r) ∧ (r ≤ s.now) ∧ ((s.barrier 0).late = false) ∧
    (s.epo.updates = [(uid, u)]) ∧ (u.st = .prepared) ∧ (u.owner = none) ∧ (u.lrec.kind = 2) ∧ (u.slot = none) ∧
    (u.oldSlot = some k) ∧ (u.lrec.epoch ≤ s.epo.closing) ∧ (tget? s.work.indexes u.lrec.index = some x) ∧
    (deleteFits s x k (handleGen u.lrec.handle) u.lrec.epoch = true)) ∧
  (∃ (s : State) (r uid k : Nat) (u : Update) (x : Index),
    ((s.barrier 0).release = some r) ∧ (r ≤ s.now) ∧ ((s.barrier 0).late = false) ∧
    (s.epo.updates = [(uid, u)]) ∧ (u.st = .prepared) ∧ (u.owner = none) ∧ (u.lrec.kind = 2) ∧ (u.slot = none) ∧
    (u.oldSlot = some k) ∧ (u.ctx = none) ∧ (u.lrec.epoch ≤ s.epo.closing) ∧
    (tget? s.work.indexes u.lrec.index = some x) ∧
    (deleteFits s x k (handleGen u.lrec.handle) u.lrec.epoch = false)) ∧
  (∃ (s : State) (r : Nat),
    ((s.barrier 1).release = some r) ∧ (r ≤ s.now) ∧ ((s.barrier 1).late = false)) :=
  ⟨⟨{ W.epS with epo.barriers := [(0, { armed := true, release := some 8192001 })] }, 0, by decide +kernel⟩,
   ⟨{ W.epS with epo.barriers := [(0, { armed := true, release := some 8192000 })] }, 8192000, by decide +kernel⟩,
   ⟨{ W.idxS with epo.barriers := [(0, { armed := true, release := some 5 })], epo.closing := 7, work.indexes := [(4, { W.qIdx with used := [(0, true)] })], epo.updates := [(1, { lrec := { W.rec0 with kind := 2, epoch := 7 }, st := .prepared, oldSlot := some 0 })] }, 5, 1, 0, { lrec := { W.rec0 with kind := 2, epoch := 7 }, st := .prepared, oldSlot := some 0 }, { W.qIdx with used := [(0, true)] }, by decide +kernel⟩,
   ⟨{ W.idxS with epo.barriers := [(0, { armed := true, release := some 5 })], epo.closing := 7, work.indexes := [(4, W.qIdx)], epo.updates := [(1, { lrec := { W.rec0 with kind := 2, epoch := 7 }, st := .prepared, oldSlot := some 0 })] }, 5, 1, 0, { lrec := { W.rec0 with kind := 2, epoch := 7 }, st := .prepared, oldSlot := some 0 }, W.qIdx, by decide +kernel⟩,
   ⟨{ W.epS with epo.barriers := [(1, { armed := true, release := some 8192000 })] }, 8192000, by decide +kernel⟩⟩
theorem wit_BarrierReleaseClosesEpoch_2 :
  (∃ (s : State) (r : Nat),
    ((s.barrier 2).release = some r) ∧ (r ≤ s.now) ∧ (s.mbr.jobCtl = 0) ∧ (tabWf s.work.queries = true)) ∧
  (∃ (s : State) (r : Nat),
    ((s.barrier 3).release = some r) ∧ (r ≤ s.now) ∧ ((s.barrier 3).late = false)) :=
  ⟨⟨{ W.epS with epo.phase := .release, epo.barriers := [(2, { armed := true, release := some 8192000 })], work.queries := [(2, W.qq)] }, 8192000, by decide +kernel⟩,
   ⟨{ W.h1 with epo.barriers := [(3, { armed := true, release := some 8192000 })] }, 8192000, by decide +kernel⟩⟩

theorem wit_WordsTakeAndSignalTokens :
  (∃ (s : State) (c : Fin 128) (u : Fin 4) (w : Nat),
    (unitAt s c.val u.val 0xF0 w) ∧ (wLast w = false ∨ 2 ≤ u.val)) ∧
  (∃ (s : State) (c : Fin 128) (u : Fin 4) (w : Nat),
    ((s.cl c.val).word u.val = some w) ∧ (wUnit w = u.val) ∧
    (tokensReady (s.cl c.val).tokens (wWaitt w) = false) ∧ (s.err.inj = [])) ∧
  (∃ (s : State) (c : Fin 128) (u : Fin 4) (w : Nat),
    ((s.cl c.val).word u.val = some w) ∧ (wUnit w ≠ u.val) ∧ ((s.cl c.val).st = .running) ∧
    (((s.cl c.val).unit u.val).halted = false) ∧ (((s.cl c.val).unit u.val).wait = .none) ∧ (s.err.inj = [])) ∧
  (∃ (s : State) (c : Fin 128) (u : Fin 4) (w : Nat),
    (unitAt s c.val u.val 0xF0 w)) :=
  ⟨⟨W.unitS 2 [0xF0 * 2 ^ 120 + 2 * 2 ^ 118 + 24 * 2 ^ 108 + 2 ^ 107 + 3 * 2 ^ 104] [(3, 15), (4, 1)], 5, 2, 0xF0 * 2 ^ 120 + 2 * 2 ^ 118 + 24 * 2 ^ 108 + 2 ^ 107 + 3 * 2 ^ 104, by decide +kernel⟩,
   ⟨W.unitS 1 [0xF0 * 2 ^ 120 + 2 ^ 118 + 2 ^ 108] [], 5, 1, 0xF0 * 2 ^ 120 + 2 ^ 118 + 2 ^ 108, by decide +kernel⟩,
   ⟨W.unitS 1 [0xF0 * 2 ^ 120] [], 5, 1, 0xF0 * 2 ^ 120, by decide +kernel⟩,
   ⟨W.unitS 1 [0xF0 * 2 ^ 120 + 2 ^ 118 + 2 ^ 116] [], 5, 1, 0xF0 * 2 ^ 120 + 2 ^ 118 + 2 ^ 116, by decide +kernel⟩⟩

theorem wit_ControlOperationsMoveUnits_1 :
  (∃ (s : State) (c : Fin 128) (u : Fin 4) (w : Nat),
    (unitAt s c.val u.val 0xF1 w) ∧ (wWaitt w = 0) ∧ (wSigen w = false) ∧ (wLast w = false ∨ 2 ≤ u.val) ∧
    (0 ≤ (((s.cl c.val).unit u.val).pc : Int) + offsetOf w) ∧
    ((((s.cl c.val).unit u.val).pc : Int) + offsetOf w < ((s.cl c.val).list u.val).length)) ∧
  (∃ (s : State) (c : Fin 128) (u : Fin 4) (w : Nat),
    (unitAt s c.val u.val 0xF1 w) ∧ (wWaitt w = 0) ∧ (wSigen w = false) ∧ (wLast w = false ∨ 2 ≤ u.val) ∧
    ((((s.cl c.val).unit u.val).pc : Int) + offsetOf w < 0 ∨ (((s.cl c.val).list u.val).length : Int) ≤
      ((s.cl c.val).unit u.val).pc + offsetOf w)) ∧
  (∃ (s : State) (c : Fin 128) (u : Fin 4) (w : Nat),
    (unitAt s c.val u.val 0xF2 w) ∧ (wWaitt w = 0) ∧ (wSigen w = false) ∧ (wLast w = false ∨ 2 ≤ u.val) ∧
    (((s.cl c.val).unit u.val).loops.length < 4) ∧
    (∀ p ∈ ((s.cl c.val).unit u.val).loops.head?, p.1 ≠ ((s.cl c.val).unit u.val).pc) ∧ (wD w ≠ 0) ∧
    (wA w < ((s.cl c.val).list u.val).length) ∧ (wA w < 32768)) ∧
  (∃ (s : State) (c : Fin 128) (u : Fin 4) (w : Nat),
    (unitAt s c.val u.val 0xF2 w) ∧ (wWaitt w = 0) ∧ (wSigen w = false) ∧ (wLast w = false ∨ 2 ≤ u.val) ∧
    (∀ p ∈ ((s.cl c.val).unit u.val).loops.head?, p.1 ≠ ((s.cl c.val).unit u.val).pc) ∧
    (wD w = 0 ∨ 4 ≤ ((s.cl c.val).unit u.val).loops.length)) ∧
  (∃ (s : State) (c : Fin 128) (u : Fin 4) (w : Nat) (n : Nat) (rest : List (Nat × Nat)),
    (unitAt s c.val u.val 0xF2 w) ∧ (wWaitt w = 0) ∧ (wSigen w = false) ∧ (wLast w = false ∨ 2 ≤ u.val) ∧
    (((s.cl c.val).unit u.val).loops = (((s.cl c.val).unit u.val).pc, n) :: rest)) :=
  ⟨⟨(W.unitS 3 [0, 0, 0xF1 * 2 ^ 120 + 3 * 2 ^ 118 + 0xFFFE * 2 ^ 88] []).setCl 5 ((W.unitS 3 [0, 0, 0xF1 * 2 ^ 120 + 3 * 2 ^ 118 + 0xFFFE * 2 ^ 88] []).cl 5 |>.setUnit 3 { pc := 2 }), 5, 3, 0xF1 * 2 ^ 120 + 3 * 2 ^ 118 + 0xFFFE * 2 ^ 88, by decide +kernel⟩,
   ⟨W.unitS 3 [0xF1 * 2 ^ 120 + 3 * 2 ^ 118 + 0x7FFF * 2 ^ 88] [], 5, 3, 0xF1 * 2 ^ 120 + 3 * 2 ^ 118 + 0x7FFF * 2 ^ 88, by decide +kernel⟩,
   ⟨W.unitS 0 [0xF2 * 2 ^ 120 + 3 * 2 ^ 40] [], 5, 0, 0xF2 * 2 ^ 120 + 3 * 2 ^ 40, by decide +kernel⟩,
   ⟨W.unitS 0 [0xF2 * 2 ^ 120] [], 5, 0, 0xF2 * 2 ^ 120, by decide +kernel⟩,
   ⟨(W.unitS 0 [0xF2 * 2 ^ 120 + 3 * 2 ^ 40] []).setCl 5 ((W.unitS 0 [0xF2 * 2 ^ 120 + 3 * 2 ^ 40] []).cl 5 |>.setUnit 0 { loops := [(0, 2)] }), 5, 0, 0xF2 * 2 ^ 120 + 3 * 2 ^ 40, 2, [], by decide +kernel⟩⟩
theorem wit_ControlOperationsMoveUnits_2 :
  (∃ (s : State) (c : Fin 128) (u : Fin 4) (w : Nat),
    (unitAt s c.val u.val 0xF3 w) ∧ (wWaitt w = 0) ∧ (wSigen w = false) ∧ (wLast w = false ∨ 2 ≤ u.val) ∧
    (((s.cl c.val).unit u.val).pending = 0)) ∧
  (∃ (s : State) (c : Fin 128) (u : Fin 4) (w : Nat),
    (unitAt s c.val u.val 0xF3 w) ∧ (((s.cl c.val).unit u.val).pending ≠ 0)) ∧
  (∃ (s : State) (c : Fin 128) (u : Fin 4) (w : Nat),
    (unitAt s c.val u.val 0xF4 w) ∧ (wWaitt w = 0) ∧ (wSigen w = false) ∧ (wLast w = false ∨ 2 ≤ u.val)) ∧
  (∃ (s : State) (slot : Fin 256) (role : Fin 128) (b : Fin 8),
    (roleClusters s slot.val role.val ≠ []) ∧
    (∀ k ∈ roleClusters s slot.val role.val, ∃ u < 4, ((s.cl k).unit u).wait = .cbar b.val) ∧
    (∀ k ∈ roleClusters s slot.val role.val, ∀ u < 4, ((s.cl k).word u).map (fun w => (wLast w, wSigen w)) = some
        (false, false) ∨ ((s.cl k).unit u).wait ≠ .cbar b.val)) ∧
  (∃ (s : State) (slot : Fin 256) (role : Fin 128) (b : Fin 8),
    (∃ k ∈ roleClusters s slot.val role.val, ∀ u < 4, ((s.cl k).unit u).wait ≠ .cbar b.val)) :=
  ⟨⟨W.unitS 0 [0xF3 * 2 ^ 120] [], 5, 0, 0xF3 * 2 ^ 120, by decide +kernel⟩,
   ⟨(W.unitS 0 [0xF3 * 2 ^ 120] []).setCl 5 ((W.unitS 0 [0xF3 * 2 ^ 120] []).cl 5 |>.setUnit 0 { pending := 1 }), 5, 0, 0xF3 * 2 ^ 120, by decide +kernel⟩,
   ⟨W.unitS 0 [0xF4 * 2 ^ 120 + 7 * 2 ^ 88] [], 5, 0, 0xF4 * 2 ^ 120 + 7 * 2 ^ 88, by decide +kernel⟩,
   ⟨W.barS, 0, 5, 7, by decide +kernel⟩,
   ⟨W.barS, 0, 5, 6, by decide +kernel⟩⟩
theorem wit_ControlOperationsMoveUnits_3 :
  (∃ (s : State) (c : Fin 128) (u : Fin 4) (w : Nat),
    (unitAt s c.val u.val 0xF5 w) ∧ (wWaitt w = 0) ∧ (wSigen w = false) ∧ (wLast w = false ∨ 2 ≤ u.val) ∧
    (s.now < invWord s c.val u.val (wA w))) ∧
  (∃ (s : State) (c : Fin 128) (u : Fin 4) (w : Nat),
    (unitAt s c.val u.val 0xF5 w) ∧ (wWaitt w = 0) ∧ (wSigen w = false) ∧ (wLast w = false ∨ 2 ≤ u.val) ∧
    (invWord s c.val u.val (wA w) ≤ s.now)) ∧
  (∃ (s : State) (c : Fin 128) (u : Fin 4) (w : Nat) (a : Nat),
    ((s.cl c.val).word u.val = some w) ∧ (wSigen w = false) ∧ (wLast w = false ∨ 2 ≤ u.val) ∧
    (((s.cl c.val).unit u.val).wait = .twait a) ∧ (a ≤ s.now)) ∧
  (∃ (s : State) (c : Fin 128) (u : Fin 4) (a : Nat),
    (((s.cl c.val).unit u.val).wait = .twait a) ∧ (s.now < a)) :=
  ⟨⟨(W.unitS 0 [0xF5 * 2 ^ 120] []).setCl 5 ((W.unitS 0 [0xF5 * 2 ^ 120] []).cl 5 |>.setUnit 0 { words := [9000000] }), 5, 0, 0xF5 * 2 ^ 120, by decide +kernel⟩,
   ⟨W.unitS 0 [0xF5 * 2 ^ 120] [], 5, 0, 0xF5 * 2 ^ 120, by decide +kernel⟩,
   ⟨(W.unitS 0 [0xF5 * 2 ^ 120] []).setCl 5 ((W.unitS 0 [0xF5 * 2 ^ 120] []).cl 5 |>.setUnit 0 { wait := .twait 5 }), 5, 0, 0xF5 * 2 ^ 120, 5, by decide +kernel⟩,
   ⟨(W.unitS 0 [0xF5 * 2 ^ 120] []).setCl 5 ((W.unitS 0 [0xF5 * 2 ^ 120] []).cl 5 |>.setUnit 0 { wait := .twait 9000000 }), 5, 0, 9000000, by decide +kernel⟩⟩

theorem wit_UnitsTakeInvocationsInTurn_1 :
  (∃ (s : State) (slot : Fin 256) (role : Fin 128) (i : Nat) (v : Inv),
    (roleClusters s slot.val role.val ≠ []) ∧ ((roleClusters s slot.val role.val).Nodup) ∧
    ((s.work.invs.filter (fun (kv : Nat × Inv) => kv.2.plan = slot.val && kv.2.role = role.val && kv.2.state ==
          .arriving)) = [(i, v)]) ∧
    (v.qid = none)) ∧
  (∃ (s : State) (slot : Fin 256) (role : Fin 128) (i q k : Nat) (v : Inv),
    (roleClusters s slot.val role.val ≠ []) ∧
    ((s.work.invs.filter (fun (kv : Nat × Inv) => kv.2.plan = slot.val && kv.2.role = role.val && kv.2.state ==
          .arriving)) = [(i, v)]) ∧
    (v.qid = some q) ∧ (k ∈ roleClusters s slot.val role.val) ∧
    (∀ j ∈ roleClusters s slot.val role.val, j = k ∨ (s.cl k).input.length < (s.cl j).input.length)) ∧
  (∃ (s : State) (c : Fin 128) (u : Fin 4) (w : Nat),
    (unitAt s c.val u.val 0xF8 w) ∧ (wWaitt w = 0) ∧ ((s.cl c.val).input = []) ∧
    (∀ k < 4, ((s.cl c.val).unit k).halted = false)) ∧
  (∃ (s : State) (c : Fin 128) (u : Fin 4) (w : Nat) (i : Nat) (v : Inv),
    (unitAt s c.val u.val 0xF8 w) ∧ (wWaitt w = 0) ∧ (wLast w = false ∨ 2 ≤ u.val) ∧
    ((s.cl c.val).input.head? = some i) ∧ (tget? s.work.invs i = some v) ∧ (clUnloading s (s.cl c.val) = false) ∧
    (∀ k < 4, ((s.cl c.val).unit k).halted = false ∧ ((s.cl c.val).unit k).taken = 0)) ∧
  (∃ (s : State) (c : Fin 128) (u : Fin 4) (w : Nat),
    (unitAt s c.val u.val 0xFF w) ∧ (wWaitt w = 0) ∧ (wSigen w = false) ∧ (wLast w = false ∨ 2 ≤ u.val) ∧
    ((s.cl c.val).input = []) ∧ (∃ k < 4, k ≠ u.val ∧ atNext (s.cl c.val) k = false)) :=
  ⟨⟨W.invS { plan := 0, role := 5, part := 0, words := [], state := .arriving }, 0, 5, 3, { plan := 0, role := 5, part := 0, words := [], state := .arriving }, by decide +kernel⟩,
   ⟨W.invS { plan := 0, role := 5, part := 0, words := [], state := .arriving, qid := some 2 }, 0, 5, 3, 2, 0, { plan := 0, role := 5, part := 0, words := [], state := .arriving, qid := some 2 }, by decide +kernel⟩,
   ⟨W.unitS 0 [0xF8 * 2 ^ 120] [], 5, 0, 0xF8 * 2 ^ 120, by decide +kernel⟩,
   ⟨W.nextS, 5, 2, 0xF8 * 2 ^ 120 + 2 * 2 ^ 118, 3, { plan := 0, role := 5, part := 0, words := [1, 2], state := .running, left := [5] }, by decide +kernel⟩,
   ⟨(W.unitS 0 [0xFF * 2 ^ 120] []).setCl 5 { (W.unitS 0 [0xFF * 2 ^ 120] []).cl 5 with istore := [[0xFF * 2 ^ 120], [0]] }, 5, 0, 0xFF * 2 ^ 120, by decide +kernel⟩⟩
theorem wit_UnitsTakeInvocationsInTurn_2 :
  (∃ (s : State) (c : Fin 128) (u : Fin 4) (w : Nat) (slot : Nat),
    (unitAt s c.val u.val 0xFF w) ∧ ((s.cl c.val).input = []) ∧
    (∀ k < 4, k ≠ u.val → atNext (s.cl c.val) k = true) ∧ ((s.cl c.val).plan = some slot) ∧
    (∀ p ∈ s.work.invs, c.val ∉ p.2.left) ∧ (s.err.inj = [])) :=
  ⟨W.haltS, 5, 0, 0xFF * 2 ^ 120, 0, by decide +kernel⟩

theorem wit_TensorUnitMultiplies_1 :
  (∃ (s : State) (c : Fin 128) (w : Nat),
    (unitAt s c.val 0 0x01 w)) ∧
  (∃ (s : State) (c : Fin 128) (w : Nat) (i j : Nat),
    (unitAt s c.val 0 0x01 w) ∧ ((tAf w).isInt = true ∧ (tBf w).isInt = true ∧ tAf w ≠ .int32 ∧ tBf w ≠ .int32) ∧
    (tAcc w % 2 = 0) ∧ (i < tM w) ∧ (j < tN w)) ∧
  (∃ (s : State) (c : Fin 128) (w : Nat) (i j : Nat),
    (unitAt s c.val 0 0x01 w) ∧ ((tAf w).isInt = true ∧ (tBf w).isInt = true ∧ tAf w ≠ .int32 ∧ tBf w ≠ .int32) ∧
    (tAcc w % 2 = 1) ∧ ((s.cl c.val).accInt = true) ∧ (i < tM w) ∧ (j < tN w)) ∧
  (∃ (s : State) (c : Fin 128) (w : Nat) (i j : Nat),
    (unitAt s c.val 0 0x01 w) ∧ ((tAf w).isInt = false ∨ (tBf w).isInt = false) ∧
    ((tAf w).isPi = false ∧ (tAf w).isMx = false) ∧ ((tBf w).isPi = false ∧ (tBf w).isMx = false) ∧
    (tAcc w % 2 = 0 ∨ (s.cl c.val).accInt = false) ∧ (i < tM w) ∧ (j < tN w)) ∧
  (∃ (s : State) (c : Fin 128) (w : Nat) (i j : Nat),
    (unitAt s c.val 0 0x01 w) ∧ ((tAf w).isInt = true ∧ (tBf w).isInt = true ∧ tAf w ≠ .int32 ∧ tBf w ≠ .int32) ∧
    (tAcc w = 2) ∧ (tRs w = 0) ∧ (tOf w = .int32) ∧ (i < tM w) ∧ (j < tN w)) :=
  ⟨⟨W.scrS (W.unitS 0 [0x01 * 2 ^ 120 + 0 * 2 ^ 118 + 0 * 2 ^ 88 + 2 * 2 ^ 72 + 4 * 2 ^ 56 + 0 * 2 ^ 40 + (1 * 2 ^ 36 + 1 * 2 ^ 32 + 8 * 2 ^ 28)] []) [(0, 127), (1, 200), (64, 9), (65, 9)], 5, 0x01 * 2 ^ 120 + 0 * 2 ^ 118 + 0 * 2 ^ 88 + 2 * 2 ^ 72 + 4 * 2 ^ 56 + 0 * 2 ^ 40 + (1 * 2 ^ 36 + 1 * 2 ^ 32 + 8 * 2 ^ 28), by decide +kernel⟩,
   ⟨W.scrS (W.unitS 0 [0x01 * 2 ^ 120 + 0 * 2 ^ 118 + 0 * 2 ^ 88 + 2 * 2 ^ 72 + 4 * 2 ^ 56 + 0 * 2 ^ 40 + (1 * 2 ^ 36 + 1 * 2 ^ 32 + 8 * 2 ^ 28)] []) [(0, 127), (1, 200), (64, 9), (65, 9)], 5, 0x01 * 2 ^ 120 + 0 * 2 ^ 118 + 0 * 2 ^ 88 + 2 * 2 ^ 72 + 4 * 2 ^ 56 + 0 * 2 ^ 40 + (1 * 2 ^ 36 + 1 * 2 ^ 32 + 8 * 2 ^ 28), 0, 0, by decide +kernel⟩,
   ⟨W.scrS (W.unitS 0 [0x01 * 2 ^ 120 + 0 * 2 ^ 118 + 0 * 2 ^ 88 + 2 * 2 ^ 72 + 4 * 2 ^ 56 + 0 * 2 ^ 40 + (1 * 2 ^ 36 + 1 * 2 ^ 32 + 8 * 2 ^ 28 + 2 ^ 26)] []) [(0, 127), (1, 200), (64, 9), (65, 9)], 5, 0x01 * 2 ^ 120 + 0 * 2 ^ 118 + 0 * 2 ^ 88 + 2 * 2 ^ 72 + 4 * 2 ^ 56 + 0 * 2 ^ 40 + (1 * 2 ^ 36 + 1 * 2 ^ 32 + 8 * 2 ^ 28 + 2 ^ 26), 0, 0, by decide +kernel⟩,
   ⟨W.scrS (W.unitS 0 [0x01 * 2 ^ 120 + 0 * 2 ^ 118 + 0 * 2 ^ 88 + 2 * 2 ^ 72 + 4 * 2 ^ 56 + 0 * 2 ^ 40 + (7 * 2 ^ 36 + 1 * 2 ^ 32 + 7 * 2 ^ 28)] []) [(0, 127), (1, 200), (64, 9), (65, 9)], 5, 0x01 * 2 ^ 120 + 0 * 2 ^ 118 + 0 * 2 ^ 88 + 2 * 2 ^ 72 + 4 * 2 ^ 56 + 0 * 2 ^ 40 + (7 * 2 ^ 36 + 1 * 2 ^ 32 + 7 * 2 ^ 28), 0, 0, by decide +kernel⟩,
   ⟨W.scrS (W.unitS 0 [0x01 * 2 ^ 120 + 0 * 2 ^ 118 + 0 * 2 ^ 88 + 2 * 2 ^ 72 + 4 * 2 ^ 56 + 0 * 2 ^ 40 + (1 * 2 ^ 36 + 1 * 2 ^ 32 + 8 * 2 ^ 28 + 2 * 2 ^ 26)] []) [(0, 127), (1, 200), (64, 9), (65, 9)], 5, 0x01 * 2 ^ 120 + 0 * 2 ^ 118 + 0 * 2 ^ 88 + 2 * 2 ^ 72 + 4 * 2 ^ 56 + 0 * 2 ^ 40 + (1 * 2 ^ 36 + 1 * 2 ^ 32 + 8 * 2 ^ 28 + 2 * 2 ^ 26), 0, 0, by decide +kernel⟩⟩
theorem wit_TensorUnitMultiplies_2 :
  (∃ (s : State) (c : Fin 128) (w : Nat) (i j : Nat),
    (unitAt s c.val 0 0x01 w) ∧ ((tAf w).isInt = true ∧ (tBf w).isInt = true ∧ tAf w ≠ .int32 ∧ tBf w ≠ .int32) ∧
    ((tAf w).isPi = false ∧ (tAf w).isMx = false) ∧ ((tBf w).isPi = false ∧ (tBf w).isMx = false) ∧
    (tAcc w = 2) ∧ (tRs w = 1) ∧ ((tOf w).isInt = true) ∧ (i < tM w) ∧ (j < tN w)) ∧
  (∃ (s : State) (c : Fin 128) (w : Nat) (i j : Nat),
    (unitAt s c.val 0 0x02 w) ∧ ((tAf w).isPi = false ∧ (tAf w).isMx = false) ∧
    ((tBf w).isPi = false ∧ (tBf w).isMx = false) ∧ (tRs w ≠ 1) ∧ (i < tM w) ∧ (j < tN w)) ∧
  (∃ (s : State) (c : Fin 128) (w : Nat),
    (unitAt s c.val 0 0x03 w)) :=
  ⟨⟨W.scrS (W.unitS 0 [0x01 * 2 ^ 120 + 0 * 2 ^ 118 + 0 * 2 ^ 88 + 2 * 2 ^ 72 + 4 * 2 ^ 56 + 0 * 2 ^ 40 + (1 * 2 ^ 36 + 1 * 2 ^ 32 + 1 * 2 ^ 28 + 2 * 2 ^ 26 + 2 ^ 24)] []) [(0, 127), (1, 200), (64, 9), (65, 9)], 5, 0x01 * 2 ^ 120 + 0 * 2 ^ 118 + 0 * 2 ^ 88 + 2 * 2 ^ 72 + 4 * 2 ^ 56 + 0 * 2 ^ 40 + (1 * 2 ^ 36 + 1 * 2 ^ 32 + 1 * 2 ^ 28 + 2 * 2 ^ 26 + 2 ^ 24), 0, 0, by decide +kernel⟩,
   ⟨W.scrS (W.unitS 0 [0x02 * 2 ^ 120 + 0 * 2 ^ 118 + 0 * 2 ^ 88 + 2 * 2 ^ 72 + 4 * 2 ^ 56 + 0 * 2 ^ 40 + (7 * 2 ^ 36 + 7 * 2 ^ 32 + 2 * 2 ^ 24)] []) [(0, 127), (1, 200), (64, 9), (65, 9)], 5, 0x02 * 2 ^ 120 + 0 * 2 ^ 118 + 0 * 2 ^ 88 + 2 * 2 ^ 72 + 4 * 2 ^ 56 + 0 * 2 ^ 40 + (7 * 2 ^ 36 + 7 * 2 ^ 32 + 2 * 2 ^ 24), 0, 0, by decide +kernel⟩,
   ⟨W.scrS (W.unitS 0 [0x03 * 2 ^ 120 + 0 * 2 ^ 118 + 0 * 2 ^ 88 + 0 * 2 ^ 72 + 0 * 2 ^ 56 + 0 * 2 ^ 40 + (0)] []) [(0, 127), (1, 200), (64, 9), (65, 9)], 5, 0x03 * 2 ^ 120 + 0 * 2 ^ 118 + 0 * 2 ^ 88 + 0 * 2 ^ 72 + 0 * 2 ^ 56 + 0 * 2 ^ 40 + (0), by decide +kernel⟩⟩

theorem wit_ModelsStreamByLayers_1 :
  (∃ (s : State) (c : Fin 128) (w : Nat) (e : ModelEnt) (i : Nat) (m : Model) (bytes : List Byte),
    (unitAt s c.val 1 0x11 w) ∧ (streamModel s c.val w = some e) ∧
    (modelSlot s (s.cl c.val).part e.id = some (i, m)) ∧ (m.data[invWord s c.val 1 (wB w)]? = some bytes) ∧
    (bytes.length ≤ 1048576) ∧ (unitInv s c.val 1 = none) ∧ ((tget? s.work.models i) = some m)) ∧
  (∃ (s : State) (c : Fin 128) (w : Nat) (e : ModelEnt) (i : Nat) (m : Model),
    (unitAt s c.val 1 0x11 w) ∧ (streamModel s c.val w = some e) ∧
    (modelSlot s (s.cl c.val).part e.id = some (i, m)) ∧ (m.data[invWord s c.val 1 (wB w)]? = none) ∧
    (m.state = .loading) ∧ (invWord s c.val 1 (wB w) < m.total) ∧ (unitInv s c.val 1 = none) ∧
    ((tget? s.work.models i) = some m)) ∧
  (∃ (s : State) (c : Fin 128) (w : Nat) (e : ModelEnt) (i : Nat),
    (unitAt s c.val 1 0x11 w) ∧ (streamModel s c.val w = some e) ∧ (modelSlot s (s.cl c.val).part e.id = none) ∧
    (tfreeBelow s.work.models 32 = some i) ∧ (unitInv s c.val 1 = none)) ∧
  (∃ (s : State) (c : Fin 128) (w : Nat) (e : ModelEnt) (i : Nat) (v : Inv),
    (unitAt s c.val 1 0x11 w) ∧ (streamModel s c.val w = some e) ∧ (modelSlot s (s.cl c.val).part e.id = none) ∧
    (slotToTake s = none) ∧ (unitInv s c.val 1 = some i) ∧ (tget? s.work.invs i = some v)) ∧
  (∃ (s : State) (m : Fin 32) (x : Model),
    (tget? s.work.models m.val = some x) ∧ (x.state = .loading) ∧ (x.step = 1) ∧
    (streamWaiters { s with work.models := [] } = []) ∧ (s.err.inj = [] ∧ s.err.repairing = []) ∧
    (fld (s.adm x.part).reg 47 32 = 0) ∧
    ((s.home (x.tile + x.data.length)).st = .home ∧ (s.home (x.tile + x.data.length)).tier = 1 ∧
      tget? s.work.resTiles (x.tile + x.data.length) = none ∧ tget? s.tier.moves (x.tile + x.data.length) = none ∧
      intervalPoisoned s (x.tile + x.data.length) 0 65536 = false)) :=
  ⟨⟨W.strS [(4, { id := 77, prio := 3, part := 0, state := .resident, total := 1, data := [[1, 2]] })], 5, W.strW, { id := 77, prio := 3, layers := 2, maxTiles := 1, range := 0 }, 4, { id := 77, prio := 3, part := 0, state := .resident, total := 1, data := [[1, 2]] }, [1, 2], by decide +kernel⟩,
   ⟨W.strS [(4, { id := 77, prio := 3, part := 0, state := .loading, total := 2, data := [] })], 5, W.strW, { id := 77, prio := 3, layers := 2, maxTiles := 1, range := 0 }, 4, { id := 77, prio := 3, part := 0, state := .loading, total := 2, data := [] }, by decide +kernel⟩,
   ⟨W.strS [(0, { id := 78, prio := 3, part := 0, state := .resident })], 5, W.strW, { id := 77, prio := 3, layers := 2, maxTiles := 1, range := 0 }, 1, by decide +kernel⟩,
   ⟨W.strFull, 5, W.strW, { id := 77, prio := 3, layers := 2, maxTiles := 1, range := 0 }, 3, { plan := 0, role := 5, part := 0, words := [], state := .running, left := [5] }, by decide +kernel⟩,
   ⟨W.strS [(4, { id := 77, prio := 3, part := 0, state := .loading, total := 1, tile := 3, step := 1, data := [] })], 4, { id := 77, prio := 3, part := 0, state := .loading, total := 1, tile := 3, step := 1, data := [] }, by decide +kernel⟩⟩
theorem wit_ModelsStreamByLayers_2 :
  (∃ (s : State) (m : Fin 32) (c w i : Nat) (e : ModelEnt),
    (tget? s.work.models m.val = none) ∧ (streamWaiters s = [(c, w)]) ∧ (streamModel s c w = some e) ∧
    (modelSlot s (s.cl c).part e.id = none) ∧ (tfreeBelow s.work.models 32 = some i) ∧ (unitInv s c 1 = none)) :=
  ⟨W.strWait, 1, 5, W.strW, 0, { id := 77, prio := 3, layers := 2, maxTiles := 1, range := 0 }, by decide +kernel⟩

theorem wit_ConversionsWriteElements_1 :
  (∃ (s : State) (c : Fin 128) (w : Nat) (i : Nat),
    (unitAt s c.val 1 0x04 w) ∧ (i < wD w) ∧ ((vSf w).bits ≤ 32) ∧ (scaled (vSf w) (vGran w) = false) ∧
    (scaled (vDf w) (vGran w) = false)) ∧
  (∃ (s : State) (c : Fin 128) (w : Nat) (i : Nat),
    (unitAt s c.val 1 0x04 w) ∧ (i < wD w) ∧ (scaled (vSf w) (vGran w) = true) ∧
    (scaled (vDf w) (vGran w) = false)) ∧
  (∃ (s : State) (c : Fin 128) (w : Nat) (i : Nat),
    (unitAt s c.val 1 0x04 w) ∧ (wD w ≤ 32) ∧ (i < wD w) ∧ (scaled (vSf w) (vGran w) = false) ∧
    (scaled (vDf w) (vGran w) = true) ∧ (vGran w = 2 ∨ (vDf w).isMx = true)) ∧
  (∃ (s : State) (c : Fin 128) (w : Nat) (g : Nat),
    (unitAt s c.val 1 0x03 w) ∧ (proofable (vDf w) (vGran w) = true) ∧ ((vSf w).isPi = false) ∧
    ((vSf w).isMx = false) ∧ (g * groupLen w (vDf w) (vGran w) (wD w) < wD w)) ∧
  (∃ (s : State) (c : Fin 128) (w : Nat) (i : Nat),
    (unitAt s c.val 1 0x05 w) ∧ (proofable (vDf w) 2 = true) ∧ ((vSf w).isPi = false) ∧ ((vSf w).isMx = false) ∧
    (wD w ≤ 32) ∧ (i < wD w) ∧ (gran (wB w) + 4 ≤ gran (wC w) ∨ gran (wC w) + 32 ≤ gran (wB w)) ∧ (wC w < 65535)) :=
  ⟨⟨W.scrS (W.unitS 1 [0x04 * 2 ^ 120 + 1 * 2 ^ 118 + 0 * 2 ^ 88 + 0 * 2 ^ 72 + 4 * 2 ^ 56 + 2 * 2 ^ 40 + 7 * 2 ^ 36 + 1 * 2 ^ 32] []) [(0, 127), (1, 200), (2, 5), (3, 6), (4, 0), (5, 0), (6, 128), (7, 63), (64, 9), (65, 9)], 5, 0x04 * 2 ^ 120 + 1 * 2 ^ 118 + 0 * 2 ^ 88 + 0 * 2 ^ 72 + 4 * 2 ^ 56 + 2 * 2 ^ 40 + 7 * 2 ^ 36 + 1 * 2 ^ 32, 1, by decide +kernel⟩,
   ⟨W.scrS (W.unitS 1 [0x04 * 2 ^ 120 + 1 * 2 ^ 118 + 0 * 2 ^ 88 + 2 * 2 ^ 72 + 4 * 2 ^ 56 + 2 * 2 ^ 40 + 13 * 2 ^ 36 + 7 * 2 ^ 32] []) [(0, 127), (1, 200), (2, 5), (3, 6), (4, 0), (5, 0), (6, 128), (7, 63), (64, 9), (65, 9)], 5, 0x04 * 2 ^ 120 + 1 * 2 ^ 118 + 0 * 2 ^ 88 + 2 * 2 ^ 72 + 4 * 2 ^ 56 + 2 * 2 ^ 40 + 13 * 2 ^ 36 + 7 * 2 ^ 32, 1, by decide +kernel⟩,
   ⟨W.scrS (W.unitS 1 [0x04 * 2 ^ 120 + 1 * 2 ^ 118 + 0 * 2 ^ 88 + 2 * 2 ^ 72 + 4 * 2 ^ 56 + 2 * 2 ^ 40 + 7 * 2 ^ 36 + 13 * 2 ^ 32 + 2 * 2 ^ 30] []) [(0, 127), (1, 200), (2, 5), (3, 6), (4, 0), (5, 0), (6, 128), (7, 63), (64, 9), (65, 9)], 5, 0x04 * 2 ^ 120 + 1 * 2 ^ 118 + 0 * 2 ^ 88 + 2 * 2 ^ 72 + 4 * 2 ^ 56 + 2 * 2 ^ 40 + 7 * 2 ^ 36 + 13 * 2 ^ 32 + 2 * 2 ^ 30, 1, by decide +kernel⟩,
   ⟨W.scrS (W.unitS 1 [0x03 * 2 ^ 120 + 1 * 2 ^ 118 + 0 * 2 ^ 88 + 4 * 2 ^ 72 + 0 * 2 ^ 56 + 2 * 2 ^ 40 + 7 * 2 ^ 36 + 13 * 2 ^ 32] []) [(0, 127), (1, 200), (2, 5), (3, 6), (4, 0), (5, 0), (6, 128), (7, 63), (64, 9), (65, 9)], 5, 0x03 * 2 ^ 120 + 1 * 2 ^ 118 + 0 * 2 ^ 88 + 4 * 2 ^ 72 + 0 * 2 ^ 56 + 2 * 2 ^ 40 + 7 * 2 ^ 36 + 13 * 2 ^ 32, 0, by decide +kernel⟩,
   ⟨W.scrS (W.unitS 1 [0x05 * 2 ^ 120 + 1 * 2 ^ 118 + 0 * 2 ^ 88 + 6 * 2 ^ 72 + 4 * 2 ^ 56 + 2 * 2 ^ 40 + 7 * 2 ^ 36 + 13 * 2 ^ 32] []) [(0, 127), (1, 200), (2, 5), (3, 6), (4, 0), (5, 0), (6, 128), (7, 63), (64, 9), (65, 9)], 5, 0x05 * 2 ^ 120 + 1 * 2 ^ 118 + 0 * 2 ^ 88 + 6 * 2 ^ 72 + 4 * 2 ^ 56 + 2 * 2 ^ 40 + 7 * 2 ^ 36 + 13 * 2 ^ 32, 1, by decide +kernel⟩⟩
theorem wit_ConversionsWriteElements_2 :
  (∃ (s : State) (c : Fin 128) (w : Nat) (i : Nat),
    (unitAt s c.val 1 0x06 w) ∧ (i < wD w) ∧ ((vDf w).isInt = true) ∧ (vSub w = 0)) :=
  ⟨W.scrS (W.unitS 1 [0x06 * 2 ^ 120 + 1 * 2 ^ 118 + 0 * 2 ^ 88 + 0 * 2 ^ 72 + 4 * 2 ^ 56 + 2 * 2 ^ 40 + 8 * 2 ^ 36 + 1 * 2 ^ 32] []) [(0, 127), (1, 200), (2, 5), (3, 6), (4, 0), (5, 0), (6, 128), (7, 63), (64, 9), (65, 9)], 5, 0x06 * 2 ^ 120 + 1 * 2 ^ 118 + 0 * 2 ^ 88 + 0 * 2 ^ 72 + 4 * 2 ^ 56 + 2 * 2 ^ 40 + 8 * 2 ^ 36 + 1 * 2 ^ 32, 1, by decide +kernel⟩

theorem wit_VectorArithmeticAndScans_1 :
  (∃ (s : State) (c : Fin 128) (w : Nat) (i : Nat) (v : Fv),
    (unitAt s c.val 1 0x07 w) ∧ (i < wD w) ∧
    ((vSf w).isPi = false ∧ (vSf w).isMx = false ∧ (vDf w).isPi = false ∧ (vDf w).isMx = false) ∧
    (ewVal ((vSf w).isInt && (vDf w).isInt) (vSub w) ((vSf w).elem (scrElem (s.cl c.val) (vSf w) (gran (wA w)) i))
      ((vSf w).elem (scrElem (s.cl c.val) (vSf w) (gran (wB w)) i)) ((vDf w).elem
        (scrElem (s.cl c.val) (vDf w) (gran (wC w)) i)) = some v)) ∧
  (∃ (s : State) (c : Fin 128) (w : Nat),
    (unitAt s c.val 1 0x08 w) ∧ (vSub w = 0) ∧
    (vSf w = .int8 ∨ vSf w = .int4 ∨ vSf w = .uint8 ∨ vSf w = .int32) ∧ (vDf w = .int32) ∧ (vRnd w = false)) ∧
  (∃ (s : State) (c : Fin 128) (w : Nat) (i : Nat),
    (unitAt s c.val 1 0x09 w) ∧ (vSf w ∈ [Fmt.int8, .uint8, .int32, .e4m3, .e5m2, .fp16, .bf16, .fp32]) ∧
    (vSub w ≤ 2) ∧ (i < wD w) ∧ ((vSf w).elem (scrElem (s.cl c.val) (vSf w) (gran (wA w)) i) ≠ .nan) ∧
    (∀ j < wD w, if vSub w = 2 then ((vSf w).elem (scrElem (s.cl c.val) (vSf w) (gran (wA w)) j)).lt ((vSf w).elem
          (scrElem (s.cl c.val) (vSf w) (gran (wA w)) i)) = false else ((vSf w).elem
          (scrElem (s.cl c.val) (vSf w) (gran (wA w)) i)).lt ((vSf w).elem
          (scrElem (s.cl c.val) (vSf w) (gran (wA w)) j)) = false) ∧
    (∀ j < i, (vSf w).elem (scrElem (s.cl c.val) (vSf w) (gran (wA w)) j) = .nan ∨ (if vSub w = 2 then ((vSf w).elem
            (scrElem (s.cl c.val) (vSf w) (gran (wA w)) i)).lt ((vSf w).elem
            (scrElem (s.cl c.val) (vSf w) (gran (wA w)) j)) = true else ((vSf w).elem
            (scrElem (s.cl c.val) (vSf w) (gran (wA w)) j)).lt ((vSf w).elem
            (scrElem (s.cl c.val) (vSf w) (gran (wA w)) i)) = true))) ∧
  (∃ (s : State) (c : Fin 128) (w : Nat),
    (unitAt s c.val 1 0x09 w) ∧
    (∀ j < wD w, (vSf w).elem (scrElem (s.cl c.val) (vSf w) (gran (wA w)) j) = .nan) ∧ (vSub w ≤ 2)) ∧
  (∃ (s : State) (c : Fin 128) (w : Nat) (i : Nat),
    (unitAt s c.val 1 0x0A w) ∧ (i < wD w)) :=
  ⟨⟨W.scrS (W.unitS 1 [0x07 * 2 ^ 120 + 1 * 2 ^ 118 + 0 * 2 ^ 88 + 2 * 2 ^ 72 + 4 * 2 ^ 56 + 2 * 2 ^ 40 + 1 * 2 ^ 36 + 1 * 2 ^ 32] []) [(0, 127), (1, 200), (2, 5), (3, 6), (4, 0), (5, 0), (6, 128), (7, 63), (64, 9), (65, 9)], 5, 0x07 * 2 ^ 120 + 1 * 2 ^ 118 + 0 * 2 ^ 88 + 2 * 2 ^ 72 + 4 * 2 ^ 56 + 2 * 2 ^ 40 + 1 * 2 ^ 36 + 1 * 2 ^ 32, 1, (Fmt.int8.elem 200).add (Fmt.int8.elem 9), by decide +kernel⟩,
   ⟨W.scrS (W.unitS 1 [0x08 * 2 ^ 120 + 1 * 2 ^ 118 + 0 * 2 ^ 88 + 0 * 2 ^ 72 + 4 * 2 ^ 56 + 8 * 2 ^ 40 + 1 * 2 ^ 36 + 8 * 2 ^ 32] []) [(0, 127), (1, 200), (2, 5), (3, 6), (4, 0), (5, 0), (6, 128), (7, 63), (64, 9), (65, 9)], 5, 0x08 * 2 ^ 120 + 1 * 2 ^ 118 + 0 * 2 ^ 88 + 0 * 2 ^ 72 + 4 * 2 ^ 56 + 8 * 2 ^ 40 + 1 * 2 ^ 36 + 8 * 2 ^ 32, by decide +kernel⟩,
   ⟨W.scrS (W.unitS 1 [0x09 * 2 ^ 120 + 1 * 2 ^ 118 + 0 * 2 ^ 88 + 0 * 2 ^ 72 + 4 * 2 ^ 56 + 3 * 2 ^ 40 + 1 * 2 ^ 36 + 1] []) [(0, 127), (1, 200), (2, 5), (3, 6), (4, 0), (5, 0), (6, 128), (7, 63), (64, 9), (65, 9)], 5, 0x09 * 2 ^ 120 + 1 * 2 ^ 118 + 0 * 2 ^ 88 + 0 * 2 ^ 72 + 4 * 2 ^ 56 + 3 * 2 ^ 40 + 1 * 2 ^ 36 + 1, 0, by decide +kernel⟩,
   ⟨W.scrS (W.unitS 1 [0x09 * 2 ^ 120 + 1 * 2 ^ 118 + 0 * 2 ^ 88 + 0 * 2 ^ 72 + 4 * 2 ^ 56 + 0 * 2 ^ 40 + 7 * 2 ^ 36 + 2] []) [(0, 127), (1, 200), (2, 5), (3, 6), (4, 0), (5, 0), (6, 128), (7, 63), (64, 9), (65, 9)], 5, 0x09 * 2 ^ 120 + 1 * 2 ^ 118 + 0 * 2 ^ 88 + 0 * 2 ^ 72 + 4 * 2 ^ 56 + 0 * 2 ^ 40 + 7 * 2 ^ 36 + 2, by decide +kernel⟩,
   ⟨W.scrS (W.unitS 1 [0x0A * 2 ^ 120 + 1 * 2 ^ 118 + 0 * 2 ^ 88 + 2 * 2 ^ 72 + 4 * 2 ^ 56 + 3 * 2 ^ 40 + 0] []) [(0, 127), (1, 200), (2, 5), (3, 6), (4, 0), (5, 0), (6, 128), (7, 63), (64, 9), (65, 9)], 5, 0x0A * 2 ^ 120 + 1 * 2 ^ 118 + 0 * 2 ^ 88 + 2 * 2 ^ 72 + 4 * 2 ^ 56 + 3 * 2 ^ 40 + 0, 2, by decide +kernel⟩⟩
theorem wit_VectorArithmeticAndScans_2 :
  (∃ (s : State) (c : Fin 128) (w : Nat) (terms : List Term) (qid : Nat) (q : Query),
    (unitAt s c.val 1 0x0B w) ∧ (unitQuery s c.val 1 = some (qid, q)) ∧
    (filterProg (clPlan s c.val).bin.consts (wD w) = some terms) ∧
    (∀ m ∈ terms, tmPast (queryMeta s q) m = false)) ∧
  (∃ (s : State) (c : Fin 128) (w : Nat) (terms : List Term) (qid : Nat) (q : Query),
    (unitAt s c.val 1 0x0B w) ∧ (unitQuery s c.val 1 = some (qid, q)) ∧
    (filterProg (clPlan s c.val).bin.consts (wD w) = some terms) ∧ (∃ m ∈ terms, tmPast (queryMeta s q) m = true)) :=
  ⟨⟨W.vfiltS, 5, 0x0B * 2 ^ 120 + 1 * 2 ^ 118 + 0 * 2 ^ 88 + 16 * 2 ^ 72 + 32 * 2 ^ 56 + 0 * 2 ^ 40 + 0, [0], 2, W.qq, by decide +kernel⟩,
   ⟨W.vfiltS2, 5, 0x0B * 2 ^ 120 + 1 * 2 ^ 118 + 0 * 2 ^ 88 + 16 * 2 ^ 72 + 32 * 2 ^ 56 + 0 * 2 ^ 40 + 0, [63 * 2 ^ 26 + 2 ^ 24], 2, W.qq, by decide +kernel⟩⟩

theorem wit_VectorUnitReachesMemory_1 :
  (∃ (s : State) (c : Fin 128) (w : Nat),
    (unitAt s c.val 1 0x01 w) ∧ (1 ≤ wD w ∧ wD w ≤ 32) ∧
    (accessCheck s (s.cl c.val).part (constTile (clConst s c.val (wB w))) (wD w) = none) ∧
    (fld (s.adm (s.cl c.val).part).reg 47 32 = 0) ∧ (s.err.repairing = []) ∧
    (∀ i < wD w, (s.home (constTile (clConst s c.val (wB w)) + i)).st ≠ .unmapped ∧
        (s.home (constTile (clConst s c.val (wB w)) + i)).st ≠ .poisoned ∧
        (s.home (constTile (clConst s c.val (wB w)) + i)).tier = 1 ∧
        tget? s.work.resTiles (constTile (clConst s c.val (wB w)) + i) = none ∧
        tget? s.tier.moves (constTile (clConst s c.val (wB w)) + i) = none ∧
        intervalPoisoned s (constTile (clConst s c.val (wB w)) + i) 0 65536 = false)) ∧
  (∃ (s : State) (c : Fin 128) (w : Nat),
    (unitAt s c.val 1 0x01 w) ∧ (wD w = 1) ∧
    (accessCheck s (s.cl c.val).part (constTile (clConst s c.val (wB w))) 1 = none) ∧
    (fld (s.adm (s.cl c.val).part).reg 47 32 = 0) ∧ (s.err.repairing = []) ∧
    (s.home (constTile (clConst s c.val (wB w))) = {}) ∧
    (tget? s.work.resTiles (constTile (clConst s c.val (wB w))) = none) ∧
    (tget? s.tier.moves (constTile (clConst s c.val (wB w))) = none)) ∧
  (∃ (s : State) (c : Fin 128) (w : Nat) (i : Nat) (v : Inv),
    (unitAt s c.val 1 0x01 w) ∧ (1 ≤ wD w) ∧
    (accessCheck s (s.cl c.val).part (constTile (clConst s c.val (wB w))) (wD w) = some stAdmitRefused) ∧
    (unitInv s c.val 1 = some i) ∧ (tget? s.work.invs i = some v) ∧ (v.qid = none) ∧ (v.cid = none) ∧
    (tabWf s.work.invs = true)) ∧
  (∃ (s : State) (c : Fin 128) (w : Nat),
    (unitAt s c.val 1 0x02 w) ∧ (wD w = 1) ∧
    (accessCheck s (s.cl c.val).part (constTile (clConst s c.val (wB w))) 1 = none) ∧
    (fld (s.adm (s.cl c.val).part).reg 47 32 = 0) ∧
    ((s.home (constTile (clConst s c.val (wB w)))).st = .home ∧
      (s.home (constTile (clConst s c.val (wB w)))).tier = 1 ∧
      tget? s.work.resTiles (constTile (clConst s c.val (wB w))) = none ∧
      tget? s.tier.moves (constTile (clConst s c.val (wB w))) = none) ∧
    (memWf s.tier.mem = true)) ∧
  (∃ (s : State) (c : Fin 128) (w : Nat) (b : Nat),
    (unitAt s c.val 1 0x0E w) ∧ (atomicOk (vSub w) (constAddr (clConst s c.val (wA w))) = true) ∧
    (ownAddr s (constAddr (clConst s c.val (wA w))) = true) ∧
    (windowOf (constAddr (clConst s c.val (wA w))) = .tier b) ∧ (fabTierCheck s (s.cl c.val).part b = none) ∧
    (fld (s.adm (s.cl c.val).part).reg 47 32 = 0) ∧ (s.err.repairing = []) ∧ (s.tier.stubs = []) ∧
    ((s.home (b / 65536)).st = .home ∧ (s.home (b / 65536)).tier = 1 ∧ tget? s.work.resTiles (b / 65536) = none ∧
      tget? s.tier.moves (b / 65536) = none) ∧
    (intervalPoisoned s (b / 65536) (b % 65536) 4 = false) ∧ (bitOf (vSub w) 4 = false) ∧
    (memWf s.tier.mem = true)) :=
  ⟨⟨W.vldS, 5, 0x01 * 2 ^ 120 + 1 * 2 ^ 118 + 4 * 2 ^ 88 + 1 * 2 ^ 72 + 0 * 2 ^ 56 + 1 * 2 ^ 40 + 0, by decide +kernel⟩,
   ⟨W.vldS0, 5, 0x01 * 2 ^ 120 + 1 * 2 ^ 118 + 4 * 2 ^ 88 + 0 * 2 ^ 72 + 0 * 2 ^ 56 + 1 * 2 ^ 40 + 0, by decide +kernel⟩,
   ⟨W.vldS3, 5, 0x01 * 2 ^ 120 + 1 * 2 ^ 118 + 4 * 2 ^ 88 + 1 * 2 ^ 72 + 0 * 2 ^ 56 + 1 * 2 ^ 40 + 0, 3, { plan := 0, role := 5, part := 0, words := [], state := .running, left := [5] }, by decide +kernel⟩,
   ⟨W.vldS2, 5, 0x02 * 2 ^ 120 + 1 * 2 ^ 118 + 4 * 2 ^ 88 + 1 * 2 ^ 72 + 0 * 2 ^ 56 + 1 * 2 ^ 40 + 0, by decide +kernel⟩,
   ⟨W.vatS 196608, 5, 0x0E * 2 ^ 120 + 1 * 2 ^ 118 + 0 * 2 ^ 88 + 4 * 2 ^ 72 + 8 * 2 ^ 56 + 0 * 2 ^ 40 + 0, 196608, by decide +kernel⟩⟩
theorem wit_VectorUnitReachesMemory_2 :
  (∃ (s : State) (c : Fin 128) (w : Nat),
    (unitAt s c.val 1 0x0E w) ∧ (atomicOk (vSub w) (constAddr (clConst s c.val (wA w))) = true) ∧
    (ownAddr s (constAddr (clConst s c.val (wA w))) = false) ∧
    (nodeOf (addrNode (constAddr (clConst s c.val (wA w)))) ≠ s.fab.node) ∧
    (fld (s.adm (s.cl c.val).part).reg 15 0 = 0) ∧
    (routeCands s (nodeOf (addrNode (constAddr (clConst s c.val (wA w))))) [] ≠ [])) ∧
  (∃ (s : State) (c : Fin 128) (w : Nat),
    (unitAt s c.val 1 0x13 w) ∧ (sizeOk (constAddr (clConst s c.val (wB w))) (wD w) = true) ∧
    (inDomainNum (addrNode (constAddr (clConst s c.val (wB w)))) = true) ∧
    (ownAddr s (constAddr (clConst s c.val (wB w))) = false) ∧
    (nodeOf (addrNode (constAddr (clConst s c.val (wB w)))) ≠ s.fab.node) ∧
    (fld (s.adm (s.cl c.val).part).reg 15 0 = 0) ∧
    (routeCands s (nodeOf (addrNode (constAddr (clConst s c.val (wB w))))) [] ≠ []) ∧
    (ordered s (.store c.val) = [])) ∧
  (∃ (s : State) (c : Fin 128) (w : Nat) (k : Nat) (ks : List Nat),
    (unitAt s c.val 1 0x13 w) ∧ (sizeOk (constAddr (clConst s c.val (wB w))) (wD w) = true) ∧
    (inDomainNum (addrNode (constAddr (clConst s c.val (wB w)))) = true) ∧
    (ownAddr s (constAddr (clConst s c.val (wB w))) = false) ∧ (fld (s.adm (s.cl c.val).part).reg 15 0 = 0) ∧
    (ordered s (.store c.val) = k :: ks)) ∧
  (∃ (s : State) (c : Fin 128) (w : Nat),
    (unitAt s c.val 1 0x12 w) ∧ (ordered s (.inval c.val) = []) ∧ (otherMembers s ≠ []) ∧
    (∀ q < 64, bitOf s.mbr.members q = true → q ∉ rowPeers s.fab.node ++ colPeers s.fab.node) ∧
    (invEndpoints s s.fab.node = []) ∧ (s.mbr.members < 2 ^ 64)) :=
  ⟨⟨W.vatS (2 ^ 52 + 196608), 5, 0x0E * 2 ^ 120 + 1 * 2 ^ 118 + 0 * 2 ^ 88 + 4 * 2 ^ 72 + 8 * 2 ^ 56 + 0 * 2 ^ 40 + 0, by decide +kernel⟩,
   ⟨W.vflS (2 ^ 52 + 196608), 5, 0x13 * 2 ^ 120 + 1 * 2 ^ 118 + 0 * 2 ^ 88 + 0 * 2 ^ 72 + 0 * 2 ^ 56 + 4 * 2 ^ 40 + 0, by decide +kernel⟩,
   ⟨W.vatS2 (2 ^ 52 + 196608), 5, 0x13 * 2 ^ 120 + 1 * 2 ^ 118 + 0 * 2 ^ 88 + 0 * 2 ^ 72 + 0 * 2 ^ 56 + 4 * 2 ^ 40 + 0, 9, [], by decide +kernel⟩,
   ⟨W.invS', 5, 0x12 * 2 ^ 120 + 1 * 2 ^ 118 + 0 * 2 ^ 88 + 0 * 2 ^ 72 + 0 * 2 ^ 56 + 0 * 2 ^ 40 + 0, by decide +kernel⟩⟩

theorem wit_TableRowsArePooledAndGathered_1 :
  (∃ (s : State) (c : Fin 128) (w : Nat) (d : TabD) (b j : Nat),
    (unitAt s c.val 1 0x0C w) ∧ (s.err.repairing = []) ∧ (fld (s.adm (s.cl c.val).part).reg 47 32 = 0) ∧
    (tableOf s (s.cl c.val).part (lookupAt (s.cl c.val) (gran (wA w)) (wD w)).table (unitInv s c.val 1) = some d) ∧
    (lookupOk (lookupAt (s.cl c.val) (gran (wA w)) (wD w)) = true) ∧
    (∀ r ∈ (lookupAt (s.cl c.val) (gran (wA w)) (wD w)).rows, r < d.rows →
        readable s (s.cl c.val).part (rowAddr d.rowTile d.stride r) (d.w * d.elemBytes) ∧
        readable s (s.cl c.val).part (scalePlace d r).1 (scalePlace d r).2) ∧
    (d.w * d.elemBytes ≠ 0) ∧ (vDf w = .fp32) ∧ (vSub w ≤ 1) ∧ (b < wD w) ∧ (j < d.w)) ∧
  (∃ (s : State) (c : Fin 128) (w : Nat) (d : TabD) (i : Nat) (v : Inv),
    (unitAt s c.val 1 0x0C w) ∧
    (tableOf s (s.cl c.val).part (lookupAt (s.cl c.val) (gran (wA w)) (wD w)).table (unitInv s c.val 1) = some d) ∧
    (lookupOk (lookupAt (s.cl c.val) (gran (wA w)) (wD w)) = false) ∧ (unitInv s c.val 1 = some i) ∧
    (tget? s.work.invs i = some v) ∧ (v.qid = none) ∧ (v.cid = none) ∧ (tabWf s.work.invs = true)) ∧
  (∃ (s : State) (c : Fin 128) (w : Nat) (d : TabD) (r : Nat),
    (unitAt s c.val 1 0x0F w) ∧ (vSub w = 0) ∧
    (tableOf s (s.cl c.val).part (lookupAt (s.cl c.val) (gran (wB w)) (wD w)).table (unitInv s c.val 1) = some d) ∧
    ((lookupAt (s.cl c.val) (gran (wB w)) (wD w)).rows = [r]) ∧
    (lookupOk (lookupAt (s.cl c.val) (gran (wB w)) (wD w)) = true) ∧
    ((lookupAt (s.cl c.val) (gran (wB w)) (wD w)).offs.getD 1 0 = 1) ∧ (vDf w = .fp32) ∧ (vSf w = .fp32) ∧
    (tget? (s.cl c.val).areas (gran (wC w)) = none) ∧
    (1 ≤ entryCount (bankEnd s c.val - gran (wC w)) (hotSets (bankEnd s c.val - gran (wC w)) d.w) d.w) ∧
    (bankEnd s c.val ≤ 2097152) ∧
    (rd32 (s.cl c.val).scratch (entryAddr (gran (wC w)) (hotSets (bankEnd s c.val - gran (wC w)) d.w) d.w 0 + 4) = 0)) ∧
  (∃ (s : State) (c : Fin 128) (w : Nat),
    (unitAt s c.val 1 0x0F w) ∧ (vSub w = 1) ∧
    ((tget? (s.cl c.val).areas (gran (wA w))).map (fun (a : Option Nat × Nat) => a.2) = none)) ∧
  (∃ (s : State) (c : Fin 128) (w : Nat) (inv : Option Nat) (n : Nat),
    (unitAt s c.val 1 0x0F w) ∧ (vSub w = 1) ∧ (vDf w = .fp32) ∧
    (tget? (s.cl c.val).areas (gran (wA w)) = some (inv, n)) ∧ (n ≠ 0) ∧ (bankEnd s c.val ≤ 2097152) ∧
    (let area := bankEnd s c.val - gran (wA w)
     let h := hotSets area n
     1 ≤ entryCount area h n ∧
       usedEntries (s.cl c.val).scratch (gran (wA w)) h n (entryCount area h n) 0 = [entryAddr (gran (wA w)) h n 0] ∧
       rd32 (s.cl c.val).scratch (entryAddr (gran (wA w)) h n 0 + 8) = 0)) :=
  ⟨⟨W.poolS, 5, W.poolW, tabD W.tabDesc', 0, 1, by decide +kernel⟩,
   ⟨W.poolBadS, 5, W.poolW, tabD W.tabDesc', 3, { plan := 0, role := 5, part := 0, words := [], state := .running, left := [5] }, by decide +kernel⟩,
   ⟨W.coalS, 5, W.coalW, tabD W.tabDesc', 7, by decide +kernel⟩,
   ⟨W.cS (0x0F * 2 ^ 120 + 1 * 2 ^ 118 + 0 * 2 ^ 88 + 0 * 2 ^ 72 + 0 * 2 ^ 56 + 0 * 2 ^ 40 + (1)) [], 5, 0x0F * 2 ^ 120 + 1 * 2 ^ 118 + 0 * 2 ^ 88 + 0 * 2 ^ 72 + 0 * 2 ^ 56 + 0 * 2 ^ 40 + (1), by decide +kernel⟩,
   ⟨W.flushS, 5, 0x0F * 2 ^ 120 + 1 * 2 ^ 118 + 0 * 2 ^ 88 + 0 * 2 ^ 72 + 64 * 2 ^ 56 + 0 * 2 ^ 40 + (7 * 2 ^ 32 + 1), none, 32, by decide +kernel⟩⟩
theorem wit_TableRowsArePooledAndGathered_2 :
  (∃ (s : State) (c : Fin 128) (i : Nat) (q : Partial),
    (tget? (s.cl c.val).partials i = some q) ∧ (tabWf (s.cl c.val).scratch = true) ∧
    (tget? (s.cl c.val).areas q.area = some (q.inv, q.sum.length)) ∧ (bankEnd s c.val ≤ 2097152) ∧
    (∀ v ∈ q.sum, v < 2 ^ 32) ∧
    (findEntry (s.cl c.val).scratch q.area 0 q.sum.length q.row
      (entryCount (bankEnd s c.val - q.area) 0 q.sum.length) 0 = some (0, false)) ∧
    (q.row < 2 ^ 32) ∧ (q.src < 128)) ∧
  (∃ (s : State) (c : Fin 128) (i : Nat) (q : Partial),
    (tget? (s.cl c.val).partials i = some q) ∧ (tabWf (s.cl c.val).scratch = true) ∧
    (tget? (s.cl c.val).areas q.area = some (q.inv, q.sum.length)) ∧
    (findEntry (s.cl c.val).scratch q.area 0 q.sum.length q.row
      (entryCount (bankEnd s c.val - q.area) 0 q.sum.length) 0 = none) ∧
    (rd32 (s.cl c.val).scratch (q.area + 4) < 2 ^ 32 - 1)) ∧
  (∃ (s : State) (c : Fin 128) (w : Nat) (inv : Option Nat) (n : Nat),
    (unitAt s c.val 1 0x0F w) ∧ (vSub w = 2) ∧ (∀ q ∈ (s.cl c.val).partials, q.2.area ≠ gran (wC w)) ∧
    (tget? (s.cl c.val).areas (gran (wC w)) = some (inv, n)) ∧ (bankEnd s c.val ≤ 2097152)) ∧
  (∃ (s : State) (c : Fin 128) (w : Nat) (d : TabD),
    (unitAt s c.val 1 0x0D w) ∧ (s.err.repairing = []) ∧ (fld (s.adm (s.cl c.val).part).reg 47 32 = 0) ∧
    (vSub w = 0) ∧ (wD w = 1) ∧ (vSf w = .fp32) ∧
    (tableOf s (s.cl c.val).part (optK (clConst s c.val (wB w))).table (unitInv s c.val 1) = some d) ∧
    ((Fmt.ofCode d.fmt).isPi = false ∧ (Fmt.ofCode d.fmt).isMx = false) ∧
    (let r := rd32 (s.cl c.val).scratch (gran (wA w) + 64)
     r < d.rows ∧ readable s (s.cl c.val).part (rowAddr d.rowTile d.stride r) (d.w * d.elemBytes) ∧
       (s.home (rowAddr d.rowTile d.stride r / 65536)).st ≠ .moving ∧
       rowAddr d.rowTile d.stride r % 65536 + d.w * d.elemBytes ≤ 65536) ∧
    (d.w * d.elemBytes ≠ 0) ∧
    ((rdVec (s.cl c.val).scratch (gran (wA w) + 80) d.w).all (fun v => (f32v v).isFin) = true) ∧
    (memWf s.tier.mem = true)) :=
  ⟨⟨W.partS, 5, 0, { src := 6, inv := none, area := 2048, row := 7, count := 3, sum := [5, 6], int := false }, by decide +kernel⟩,
   ⟨W.partFull, 5, 0, { src := 6, inv := none, area := 2048, row := 7, count := 3, sum := [5, 6], int := false }, by decide +kernel⟩,
   ⟨W.collS, 5, 0x0F * 2 ^ 120 + 1 * 2 ^ 118 + 0 * 2 ^ 88 + 0 * 2 ^ 72 + 64 * 2 ^ 56 + 0 * 2 ^ 40 + (7 * 2 ^ 32 + 2), none, 2, by decide +kernel⟩,
   ⟨W.optS, 5, 0x0D * 2 ^ 120 + 1 * 2 ^ 118 + 0 * 2 ^ 88 + 0 * 2 ^ 72 + 0 * 2 ^ 56 + 1 * 2 ^ 40 + (7 * 2 ^ 36), tabD W.tabDesc', by decide +kernel⟩⟩

theorem wit_WalkerCopiesAndSeeds_1 :
  (∃ (s : State) (c : Fin 128) (w : Nat),
    (unitAt s c.val 2 0x01 w)) ∧
  (∃ (s : State) (c : Fin 128) (w : Nat) (qid : Nat) (q : Query),
    (unitAt s c.val 2 0x03 w) ∧ (unitQuery s c.val 2 = some (qid, q))) ∧
  (∃ (s : State) (c : Fin 128) (w : Nat),
    (unitAt s c.val 2 0x04 w) ∧ (ownAddr s (constAddr (clConst s c.val (wB w))) = true)) ∧
  (∃ (s : State) (c : Fin 128) (w : Nat),
    (unitAt s c.val 2 0x04 w) ∧ (ownAddr s (constAddr (clConst s c.val (wB w))) = false) ∧
    (inDomainNum (addrNode (constAddr (clConst s c.val (wB w)))) = true) ∧
    (nodeOf (addrNode (constAddr (clConst s c.val (wB w)))) ≠ s.fab.node) ∧
    (fld (s.adm (s.cl c.val).part).reg 15 0 = 0) ∧
    (routeCands s (nodeOf (addrNode (constAddr (clConst s c.val (wB w))))) [] ≠ []) ∧ (wD w % 4 = 0) ∧
    (constAddr (clConst s c.val (wB w)) % 4 = 0) ∧ (4 ≤ wD w) ∧
    (constAddr (clConst s c.val (wB w)) % 256 + wD w ≤ 256)) ∧
  (∃ (s : State) (c : Fin 128) (i a : Nat) (j : CopyJob),
    (tget? (s.cl c.val).copies i = some j) ∧ (ownAddr s j.addr = true) ∧ (windowOf j.addr = .tier a) ∧
    (1 ≤ j.len) ∧ (readable s (s.cl c.val).part a j.len) ∧ (s.err.inj = [] ∧ s.err.repairing = []) ∧
    (fld (s.adm (s.cl c.val).part).reg 47 32 = 0) ∧ (j.len ≤ 65536) ∧ (tabWf (s.cl c.val).scratch = true)) :=
  ⟨⟨W.scrS (W.unitS 2 [0x01 * 2 ^ 120 + 2 * 2 ^ 118 + 5 * 2 ^ 88 + 0 * 2 ^ 72 + 0 * 2 ^ 56 + 1 * 2 ^ 40 + (0)] []) [(0, 3), (4, 9)], 5, 0x01 * 2 ^ 120 + 2 * 2 ^ 118 + 5 * 2 ^ 88 + 0 * 2 ^ 72 + 0 * 2 ^ 56 + 1 * 2 ^ 40 + (0), by decide +kernel⟩,
   ⟨W.wqS (0x03 * 2 ^ 120 + 2 * 2 ^ 118 + 0 * 2 ^ 88 + 0 * 2 ^ 72 + 0 * 2 ^ 56 + 2 * 2 ^ 40 + (0)), 5, 0x03 * 2 ^ 120 + 2 * 2 ^ 118 + 0 * 2 ^ 88 + 0 * 2 ^ 72 + 0 * 2 ^ 56 + 2 * 2 ^ 40 + (0), 2, W.qq, by decide +kernel⟩,
   ⟨W.cpS 196608, 5, 0x04 * 2 ^ 120 + 2 * 2 ^ 118 + 5 * 2 ^ 88 + 0 * 2 ^ 72 + 0 * 2 ^ 56 + 8 * 2 ^ 40 + (3 * 2 ^ 32), by decide +kernel⟩,
   ⟨W.cpS (2 ^ 52 + 196608), 5, 0x04 * 2 ^ 120 + 2 * 2 ^ 118 + 5 * 2 ^ 88 + 0 * 2 ^ 72 + 0 * 2 ^ 56 + 8 * 2 ^ 40 + (3 * 2 ^ 32), by decide +kernel⟩,
   ⟨W.cpD { dst := 64, addr := 196608, len := 8, actr := 3, left := 0 }, 5, 0, 196608, { dst := 64, addr := 196608, len := 8, actr := 3, left := 0 }, by decide +kernel⟩⟩
theorem wit_WalkerCopiesAndSeeds_2 :
  (∃ (s : State) (c : Fin 128) (i : Nat) (j : CopyJob),
    (tget? (s.cl c.val).copies i = some j) ∧ (ownAddr s j.addr = false) ∧ (j.left = 0)) ∧
  (∃ (s : State) (c : Fin 128) (w : Nat),
    (unitAt s c.val 2 0x05 w) ∧ (wD w ≤ tgetD (s.cl c.val).actr (kActr w) 0)) ∧
  (∃ (s : State) (c : Fin 128) (w : Nat),
    (unitAt s c.val 2 0x05 w) ∧ (tgetD (s.cl c.val).actr (kActr w) 0 < wD w)) :=
  ⟨⟨W.cpD { dst := 64, addr := 2 ^ 52, len := 8, actr := 3, left := 0 }, 5, 0, { dst := 64, addr := 2 ^ 52, len := 8, actr := 3, left := 0 }, by decide +kernel⟩,
   ⟨W.actS (0x05 * 2 ^ 120 + 2 * 2 ^ 118 + 0 * 2 ^ 88 + 0 * 2 ^ 72 + 0 * 2 ^ 56 + 2 * 2 ^ 40 + (3 * 2 ^ 32)), 5, 0x05 * 2 ^ 120 + 2 * 2 ^ 118 + 0 * 2 ^ 88 + 0 * 2 ^ 72 + 0 * 2 ^ 56 + 2 * 2 ^ 40 + (3 * 2 ^ 32), by decide +kernel⟩,
   ⟨W.actS (0x05 * 2 ^ 120 + 2 * 2 ^ 118 + 0 * 2 ^ 88 + 0 * 2 ^ 72 + 0 * 2 ^ 56 + 3 * 2 ^ 40 + (3 * 2 ^ 32)), 5, 0x05 * 2 ^ 120 + 2 * 2 ^ 118 + 0 * 2 ^ 88 + 0 * 2 ^ 72 + 0 * 2 ^ 56 + 3 * 2 ^ 40 + (3 * 2 ^ 32), by decide +kernel⟩⟩

theorem wit_WalksVisitRecords_1 :
  (∃ (s : State) (c : Fin 128) (w : Nat) (qid n : Nat) (q : Query) (ix : Index),
    (unitAt s c.val 2 0x02 w) ∧ (wWaitt w = 0) ∧ (unitQuery s c.val 2 = some (qid, q)) ∧
    (queryIndex s q = some ix) ∧ (q.ctx = none) ∧ (qForm q.desc = 0) ∧ (bitOf (getLE q.desc 1 1) 3 = false) ∧
    (kMode w = 0) ∧ ((s.cl c.val).walks = []) ∧ ((s.cl c.val).recs = []) ∧
    ((idxD ix.desc).entry.head? = some n) ∧ (1 ≤ (idxD ix.desc).entries) ∧ (s.err.inj = [])) ∧
  (∃ (s : State) (c : Fin 128) (w : Nat) (i : Nat) (v : Inv),
    (unitAt s c.val 2 0x02 w) ∧ (unitQuery s c.val 2 = none) ∧ (unitInv s c.val 2 = some i) ∧
    (tget? s.work.invs i = some v) ∧ (v.qid = none) ∧ (v.cid = none)) ∧
  (∃ (s : State) (c : Fin 128) (ctx : Fin 64) (slot n : Nat) (wk : Walk) (q : Query) (ix : Index) (rst : List (Nat × Option Nat)),
    (tget? (s.cl c.val).walks ctx.val = some wk) ∧ (tget? s.work.queries wk.qid = some q) ∧
    (queryIndex s q = some ix) ∧ (wk.await = some (slot, none, none)) ∧ (wk.seeds = (n, none) :: rst) ∧
    (qForm q.desc = 0) ∧ (qNoSpec q.desc = true) ∧ (wk.mode = 0) ∧ (wk.inflight = []) ∧ (wk.prefetched = []) ∧
    (lineOf (s.cl c.val) (getLE q.desc 0x28 2) n = none) ∧ (n ≠ slot) ∧
    (readable s (s.cl c.val).part (recAddr (idxD ix.desc) slot) 256) ∧ (s.err.inj = [] ∧ s.err.repairing = []) ∧
    (fld (s.adm (s.cl c.val).part).reg 47 32 = 0) ∧
    (live ix slot (q.epoch.getD 0) (recTomb (mreadN s.tier.mem (recAddr (idxD ix.desc) slot) 256)) = true)) ∧
  (∃ (s : State) (c : Fin 128) (ctx : Fin 64) (slot : Nat) (wk : Walk) (q : Query) (ix : Index),
    (tget? (s.cl c.val).walks ctx.val = some wk) ∧ (tget? s.work.queries wk.qid = some q) ∧
    (queryIndex s q = some ix) ∧ (wk.await.map (fun a => a.1) ≠ some slot)) ∧
  (∃ (s : State) (c : Fin 128) (ctx : Fin 64) (slot n : Nat) (wk : Walk) (q : Query) (ix : Index),
    (tget? (s.cl c.val).walks ctx.val = some wk) ∧ (tget? s.work.queries wk.qid = some q) ∧
    (queryIndex s q = some ix) ∧ (wk.await = some (n, none, none)) ∧ (n ≠ slot) ∧
    (lineOf (s.cl c.val) (getLE q.desc 0x28 2) n = none) ∧
    (lineOf (s.cl c.val) (getLE q.desc 0x28 2) slot = none) ∧ (slot ∈ wk.inflight) ∧
    ((s.cl c.val).recs.length < 512) ∧ (readable s (s.cl c.val).part (recAddr (idxD ix.desc) slot) 256) ∧
    (s.err.inj = [] ∧ s.err.repairing = []) ∧ (fld (s.adm (s.cl c.val).part).reg 47 32 = 0)) :=
  ⟨⟨W.wqS (0x02 * 2 ^ 120 + 2 * 2 ^ 118 + 0 * 2 ^ 88 + 0 * 2 ^ 72 + 0 * 2 ^ 56 + 0 * 2 ^ 40 + (0)), 5, 0x02 * 2 ^ 120 + 2 * 2 ^ 118 + 0 * 2 ^ 88 + 0 * 2 ^ 72 + 0 * 2 ^ 56 + 0 * 2 ^ 40 + (0), 2, 0, W.qq, W.qIdx, by decide +kernel⟩,
   ⟨W.wiS (0x02 * 2 ^ 120 + 2 * 2 ^ 118 + 0 * 2 ^ 88 + 0 * 2 ^ 72 + 0 * 2 ^ 56 + 0 * 2 ^ 40 + (0)), 5, 0x02 * 2 ^ 120 + 2 * 2 ^ 118 + 0 * 2 ^ 88 + 0 * 2 ^ 72 + 0 * 2 ^ 56 + 0 * 2 ^ 40 + (0), 3, { plan := 0, role := 5, part := 0, words := [], state := .running, left := [5] }, by decide +kernel⟩,
   ⟨W.wkS { qid := 2, phase := .walking, await := some (0, none, none), seeds := [(1, none)], pool := 16, budget := 16 }, 5, 7, 0, 1, { qid := 2, phase := .walking, await := some (0, none, none), seeds := [(1, none)], pool := 16, budget := 16 }, W.qNS, W.ixN, [], by decide +kernel⟩,
   ⟨W.wkS { qid := 2 }, 5, 7, 0, { qid := 2 }, W.qNS, W.ixN, by decide +kernel⟩,
   ⟨W.wkS { qid := 2, await := some (1, none, none), inflight := [0] }, 5, 7, 0, 1, { qid := 2, await := some (1, none, none), inflight := [0] }, W.qNS, W.ixN, by decide +kernel⟩⟩
theorem wit_WalksVisitRecords_2 :
  (∃ (s : State) (c : Fin 128) (ctx : Fin 64) (wk : Walk) (q : Query) (ix : Index),
    (tget? (s.cl c.val).walks ctx.val = some wk) ∧ (tget? s.work.queries wk.qid = some q) ∧
    (queryIndex s q = some ix) ∧ (wk.phase = .walking) ∧ (q.deadline - qRrRes q.desc ≤ s.now) ∧ (wk.cand = []) ∧
    (qFilter q.desc = 0) ∧ (q.ctx = none) ∧ (wk.cut = false) ∧ (tabWf (s.cl c.val).scratch = true) ∧
    (((s.cl c.val).unit 2).wait = .walk ctx.val) ∧ (((s.cl c.val).word 2).map wLast = some false)) ∧
  (∃ (s : State) (c : Fin 128) (ctx : Fin 64) (wk : Walk) (q : Query) (ix : Index),
    (tget? (s.cl c.val).walks ctx.val = some wk) ∧ (tget? s.work.queries wk.qid = some q) ∧
    (queryIndex s q = some ix) ∧ (wk.phase ≠ .walking ∨ s.now < q.deadline - qRrRes q.desc)) :=
  ⟨⟨W.wkS' { qid := 2, await := some (1, none, none), out := 64 }, 5, 7, { qid := 2, await := some (1, none, none), phase := .walking, out := 64 }, W.qNS, W.ixN, by decide +kernel⟩,
   ⟨W.wkS { qid := 2 }, 5, 7, { qid := 2 }, W.qNS, W.ixN, by decide +kernel⟩⟩

theorem wit_RerankScoresExactly :
  (∃ (s : State) (c : Fin 128) (ctx : Fin 64) (slot : Nat) (wk : Walk) (q : Query) (ix : Index) (z : CandEnt) (j : FlJob),
    (tget? (s.cl c.val).walks ctx.val = some wk) ∧ (tget? s.work.queries wk.qid = some q) ∧
    (queryIndex s q = some ix) ∧ (wk.phase = .rerank) ∧
    (wk.cand.find? (fun a => a.slot = slot && !a.ended) = some z) ∧
    (tget? s.flash.jobs (jobKey (.rerank c.val ctx.val slot)) = some j) ∧ (z.req = true) ∧ (j.left = 0) ∧
    (j.poison = false) ∧ (s.now ≤ q.deadline) ∧
    ((flashData s (vecAddr (idxD ix.desc) slot) (idxD ix.desc).vstride).2 = (false, false)) ∧
    (∃ a ∈ (wk.cand.filter (fun (a : CandEnt) => a.pass)).take (qRerank q.desc), a.slot ≠ slot ∧ a.ended = false)) ∧
  (∃ (s : State) (c : Fin 128) (ctx : Fin 64) (slot : Nat) (wk : Walk) (q : Query) (ix : Index) (z : CandEnt) (j : FlJob),
    (tget? (s.cl c.val).walks ctx.val = some wk) ∧ (tget? s.work.queries wk.qid = some q) ∧
    (queryIndex s q = some ix) ∧ (wk.phase = .rerank) ∧
    (wk.cand.find? (fun a => a.slot = slot && !a.ended) = some z) ∧
    (tget? s.flash.jobs (jobKey (.rerank c.val ctx.val slot)) = some j) ∧ (z.req = true) ∧ (j.left = 0) ∧
    (j.poison = true ∨ q.deadline < s.now) ∧
    (∃ a ∈ (wk.cand.filter (fun (a : CandEnt) => a.pass)).take (qRerank q.desc), a.slot ≠ slot ∧ a.ended = false)) ∧
  (∃ (s : State) (c : Fin 128) (ctx : Fin 64) (slot : Nat) (j : FlJob),
    (tget? (s.cl c.val).walks ctx.val = none) ∧
    (tget? s.flash.jobs (jobKey (.rerank c.val ctx.val slot)) = some j) ∧ (j.left = 0)) ∧
  (∃ (s : State) (c : Fin 128) (ctx : Fin 64) (wk : Walk) (q : Query) (ix : Index),
    (tget? (s.cl c.val).walks ctx.val = some wk) ∧ (tget? s.work.queries wk.qid = some q) ∧
    (queryIndex s q = some ix) ∧ (wk.phase = .rerank) ∧ (q.deadline ≤ s.now) ∧
    (tabWf (s.cl c.val).scratch = true) ∧ (((s.cl c.val).unit 2).wait = .walk ctx.val) ∧
    (((s.cl c.val).word 2).map wLast = some false)) ∧
  (∃ (s : State) (c : Fin 128) (ctx : Fin 64) (wk : Walk) (q : Query) (ix : Index),
    (tget? (s.cl c.val).walks ctx.val = some wk) ∧ (tget? s.work.queries wk.qid = some q) ∧
    (queryIndex s q = some ix) ∧ (wk.phase ≠ .rerank ∨ s.now < q.deadline)) :=
  ⟨⟨W.rrS, 5, 7, 0, W.rrW, W.qNS, W.ixN, { key := 0, slot := 0, score := 0, gen := 0, req := true }, { left := 0 }, by decide +kernel⟩,
   ⟨{ W.rrS with flash.jobs := [(jobKey (.rerank 5 7 0), { left := 0, poison := true })] }, 5, 7, 0, W.rrW, W.qNS, W.ixN, { key := 0, slot := 0, score := 0, gen := 0, req := true }, { left := 0, poison := true }, by decide +kernel⟩,
   ⟨{ W.rrS with flash.jobs := [(jobKey (.rerank 5 8 0), { left := 0 })] }, 5, 8, 0, { left := 0 }, by decide +kernel⟩,
   ⟨{ W.rrS with now := 9000000 }, 5, 7, W.rrW, W.qNS, W.ixN, by decide +kernel⟩,
   ⟨W.rrS, 5, 7, W.rrW, W.qNS, W.ixN, by decide +kernel⟩⟩

theorem wit_InsertsPrepareAndRepairRuns_1 :
  (∃ (s : State) (c : Fin 128) (w : Nat) (uid : Nat) (u : Update) (ix : Index),
    (unitAt s c.val 2 0x06 w) ∧ (wWaitt w = 0) ∧
    (insertToDo s (s.cl c.val).part (namedIndex s c.val w) = some (uid, u)) ∧
    (tget? s.work.indexes u.lrec.index = some ix) ∧ (u.ctx = none) ∧ (u.prepDone = false) ∧
    (tget? s.epo.updates uid = some u) ∧ ((idxD ix.desc).metaBytes = 0) ∧
    ((idxD ix.desc).flat = false ∧ (idxD ix.desc).ivf = false) ∧ (memWf s.flash.mem = true)) ∧
  (∃ (s : State) (c : Fin 128) (w : Nat),
    (unitAt s c.val 2 0x06 w) ∧ (insertToDo s (s.cl c.val).part (namedIndex s c.val w) = none)) ∧
  (∃ (s : State) (c : Fin 128) (w : Nat) (uid : Nat) (u : Update) (ix : Index),
    (((s.cl c.val).unit 2).wait = .work) ∧ ((s.cl c.val).word 2 = some w) ∧ (wOp w = 6) ∧
    (wLast w = false ∨ 2 ≤ 2) ∧ (wSigen w = false) ∧
    (tfind? s.epo.updates (fun _ u => u.by_ == some c.val && !u.edgesDone) = some (uid, u)) ∧ (u.ctx = none) ∧
    (tget? s.epo.updates uid = some u) ∧ (tget? s.work.indexes u.lrec.index = some ix)) ∧
  (∃ (s : State) (c : Fin 128) (w : Nat) (uid : Nat) (u : Update),
    (unitAt s c.val 2 0x07 w) ∧
    (tfind? s.epo.updates (fun _ u => u.part = (s.cl c.val).part && u.oldSlot.isSome && !u.staged && u.st ==
        .prepared && (match namedIndex s c.val w with | some n => u.lrec.index == n | none => true)) = some (uid, u))) ∧
  (∃ (s : State) (c : Fin 128) (w : Nat) (ix : Index),
    (unitAt s c.val 2 0x08 w) ∧ (tget? s.work.indexes (constName (clConst s c.val (wA w))) = some ix) ∧
    (ix.part = (s.cl c.val).part) ∧ (ix.used = []) ∧ (2 ≤ ceilDiv (idxD ix.desc).slots 256) ∧
    (getLE (clConst s c.val (wB w)) 0 4 % tileCount = (idxD ix.desc).recTile) ∧
    (getLE (clConst s c.val (wB w)) 4 4 = 1) ∧ (ix.passTiles = []) ∧ (ix.cleaning = [])) :=
  ⟨⟨W.insW, 5, 0x06 * 2 ^ 120 + 2 * 2 ^ 118 + 0 * 2 ^ 88 + 0 * 2 ^ 72 + 0 * 2 ^ 56 + 0 * 2 ^ 40 + (0), 1, W.insU, W.ixN, by decide +kernel⟩,
   ⟨W.unitS 2 [0x06 * 2 ^ 120 + 2 * 2 ^ 118 + 0 * 2 ^ 88 + 0 * 2 ^ 72 + 0 * 2 ^ 56 + 0 * 2 ^ 40 + (0)] [], 5, 0x06 * 2 ^ 120 + 2 * 2 ^ 118 + 0 * 2 ^ 88 + 0 * 2 ^ 72 + 0 * 2 ^ 56 + 0 * 2 ^ 40 + (0), by decide +kernel⟩,
   ⟨W.insW2, 5, 0x06 * 2 ^ 120 + 2 * 2 ^ 118 + 0 * 2 ^ 88 + 0 * 2 ^ 72 + 0 * 2 ^ 56 + 0 * 2 ^ 40 + (0), 1, { W.insU with by_ := some 5, prepDone := true }, W.ixN, by decide +kernel⟩,
   ⟨W.delW, 5, 0x07 * 2 ^ 120 + 2 * 2 ^ 118 + 0 * 2 ^ 88 + 0 * 2 ^ 72 + 0 * 2 ^ 56 + 0 * 2 ^ 40 + (0), 1, { lrec := { W.rec0 with kind := 2 }, st := .prepared, oldSlot := some 0 }, by decide +kernel⟩,
   ⟨W.repS { W.ixN with used := [], desc := patch W.idxDesc 0x10 (leBytes 4 512) }, 5, 0x08 * 2 ^ 120 + 2 * 2 ^ 118 + 0 * 2 ^ 88 + 1 * 2 ^ 72 + 0 * 2 ^ 56 + 0 * 2 ^ 40 + (0), { W.ixN with used := [], desc := patch W.idxDesc 0x10 (leBytes 4 512) }, by decide +kernel⟩⟩
theorem wit_InsertsPrepareAndRepairRuns_2 :
  (∃ (s : State) (c : Fin 128) (w : Nat) (ix : Index) (slot : Nat),
    (unitAt s c.val 2 0x08 w) ∧ (tget? s.work.indexes (constName (clConst s c.val (wA w))) = some ix) ∧
    (ix.part = (s.cl c.val).part) ∧ (ix.used = [(slot, true)]) ∧ (ceilDiv (idxD ix.desc).slots 256 = 1) ∧
    (slot < 256) ∧ (getLE (clConst s c.val (wB w)) 0 4 % tileCount = (idxD ix.desc).recTile) ∧
    (getLE (clConst s c.val (wB w)) 4 4 = 1) ∧
    ((s.home (idxD ix.desc).recTile).st = .home ∧ (s.home (idxD ix.desc).recTile).tier = 1 ∧
      tget? s.work.resTiles (idxD ix.desc).recTile = none ∧ tget? s.tier.moves (idxD ix.desc).recTile = none ∧
      intervalPoisoned s (idxD ix.desc).recTile 0 65536 = false) ∧
    (memWf s.tier.mem = true) ∧
    (let r := RecD.of (recRead s (idxD ix.desc) slot).1
     r.tomb = false ∧ r.rflags ≠ 0 ∧ ∀ e ∈ r.edges, deadEdge s (idxD ix.desc) ix e = false)) :=
  ⟨W.repS2, 5, 0x08 * 2 ^ 120 + 2 * 2 ^ 118 + 0 * 2 ^ 88 + 1 * 2 ^ 72 + 0 * 2 ^ 56 + 0 * 2 ^ 40 + (0), W.ixR, 0, by decide +kernel⟩

theorem wit_SelectionKeepsTheBest :
  (∃ (s : State) (c : Fin 128) (w : Nat),
    (unitAt s c.val 3 0x01 w)) ∧
  (∃ (s : State) (c : Fin 128) (w : Nat),
    (unitAt s c.val 3 0x02 w) ∧ (unitQuery s c.val 3 = none) ∧
    ((bucketSelect (sLower w) (sK w) (selInputs (s.cl c.val) w)).approx = false)) ∧
  (∃ (s : State) (c : Fin 128) (w : Nat),
    (unitAt s c.val 3 0x02 w) ∧ (unitQuery s c.val 3 = none) ∧ ((selInputs (s.cl c.val) w).length ≤ sK w)) ∧
  (∃ (s : State) (c : Fin 128) (w : Nat),
    (unitAt s c.val 3 0x03 w) ∧ (unitQuery s c.val 3 = none) ∧
    ((tget? (s.cl c.val).areas (gran (wC w))).map (fun (a : Option Nat × Nat) => a.1) ≠ some (unitInv s c.val 3))) :=
  ⟨⟨W.scrS (W.unitS 3 [0x01 * 2 ^ 120 + 3 * 2 ^ 118 + 0 * 2 ^ 88 + 0 * 2 ^ 72 + 128 * 2 ^ 56 + 2 * 2 ^ 40 + (0)] []) W.ents, 5, 0x01 * 2 ^ 120 + 3 * 2 ^ 118 + 0 * 2 ^ 88 + 0 * 2 ^ 72 + 128 * 2 ^ 56 + 2 * 2 ^ 40 + (0), by decide +kernel⟩,
   ⟨W.scrS (W.unitS 3 [0x02 * 2 ^ 120 + 3 * 2 ^ 118 + 0 * 2 ^ 88 + 0 * 2 ^ 72 + 128 * 2 ^ 56 + 2 * 2 ^ 40 + (0)] []) W.ents, 5, 0x02 * 2 ^ 120 + 3 * 2 ^ 118 + 0 * 2 ^ 88 + 0 * 2 ^ 72 + 128 * 2 ^ 56 + 2 * 2 ^ 40 + (0), by decide +kernel⟩,
   ⟨W.scrS (W.unitS 3 [0x02 * 2 ^ 120 + 3 * 2 ^ 118 + 0 * 2 ^ 88 + 0 * 2 ^ 72 + 128 * 2 ^ 56 + 2 * 2 ^ 40 + (3 * 2 ^ 30)] []) W.ents, 5, 0x02 * 2 ^ 120 + 3 * 2 ^ 118 + 0 * 2 ^ 88 + 0 * 2 ^ 72 + 128 * 2 ^ 56 + 2 * 2 ^ 40 + (3 * 2 ^ 30), by decide +kernel⟩,
   ⟨W.scrS (W.unitS 3 [0x03 * 2 ^ 120 + 3 * 2 ^ 118 + 0 * 2 ^ 88 + 0 * 2 ^ 72 + 128 * 2 ^ 56 + 2 * 2 ^ 40 + (2 ^ 30)] []) W.ents, 5, 0x03 * 2 ^ 120 + 3 * 2 ^ 118 + 0 * 2 ^ 88 + 0 * 2 ^ 72 + 128 * 2 ^ 56 + 2 * 2 ^ 40 + (2 ^ 30), by decide +kernel⟩⟩

theorem wit_ResultsAreMergedAndDelivered_1 :
  (∃ (s : State) (c : Fin 128) (w : Nat),
    (unitAt s c.val 3 0x04 w) ∧ (sRemote w = false) ∧ (unitQuery s c.val 3 = none) ∧ (s.work.kneWait = [])) ∧
  (∃ (s : State) (c : Fin 128) (w : Nat),
    (unitAt s c.val 3 0x04 w) ∧ (sRemote w = false) ∧ (unitQuery s c.val 3 = none) ∧ (s.work.kneWait ≠ [])) ∧
  (∃ (s : State) (k : Fin 16) (m : Merge),
    (tget? s.work.kne k.val = none) ∧ (nextMerge s.work.kneWait = some m)) ∧
  (∃ (s : State) (k : Fin 16),
    ((tget? s.work.kne k.val).isSome = true ∨ s.work.kneWait = [])) ∧
  (∃ (s : State) (k : Fin 16) (m : Merge) (c a : Nat),
    (tget? s.work.kne k.val = some m) ∧ (m.inst = none) ∧ (m.qid = none) ∧ (m.cluster = some (c, a)) ∧
    (s.err.inj = []) ∧ (tabWf (s.cl c).scratch = true) ∧ (m.k ≤ 1024)) :=
  ⟨⟨W.cS3 (0x04 * 2 ^ 120 + 3 * 2 ^ 118 + 0 * 2 ^ 88 + 0 * 2 ^ 72 + 0 * 2 ^ 56 + 0 * 2 ^ 40 + (2 ^ 20)) [leBytes 16 0], 5, 0x04 * 2 ^ 120 + 3 * 2 ^ 118 + 0 * 2 ^ 88 + 0 * 2 ^ 72 + 0 * 2 ^ 56 + 0 * 2 ^ 40 + (2 ^ 20), by decide +kernel⟩,
   ⟨{ W.cS3 (0x04 * 2 ^ 120 + 3 * 2 ^ 118 + 0 * 2 ^ 88 + 0 * 2 ^ 72 + 0 * 2 ^ 56 + 0 * 2 ^ 40 + (2 ^ 20)) [leBytes 16 0] with work.kneWait := [{ part := 0, k := 1, lower := false, lists := [], stamp := 0 }] }, 5, 0x04 * 2 ^ 120 + 3 * 2 ^ 118 + 0 * 2 ^ 88 + 0 * 2 ^ 72 + 0 * 2 ^ 56 + 0 * 2 ^ 40 + (2 ^ 20), by decide +kernel⟩,
   ⟨{ W.h1 with work.kneWait := [{ part := 0, k := 1, lower := false, lists := [], stamp := 0 }] }, 3, { part := 0, k := 1, lower := false, lists := [], stamp := 0 }, by decide +kernel⟩,
   ⟨W.h1, 3, by decide +kernel⟩,
   ⟨{ W.cS3 0 [] with work.kne := [(3, { part := 0, k := 1, lower := false, lists := [(W.resL, false)], stamp := 0, cluster := some (5, 64) })] }, 3, { part := 0, k := 1, lower := false, lists := [(W.resL, false)], stamp := 0, cluster := some (5, 64) }, 5, 64, by decide +kernel⟩⟩
theorem wit_ResultsAreMergedAndDelivered_2 :
  (∃ (s : State) (c : Fin 128) (w : Nat) (qid cid : Nat) (q : Query) (cm : Cmd),
    (unitAt s c.val 3 0x05 w) ∧ (unitQuery s c.val 3 = some (qid, q)) ∧ (q.entry = none) ∧ (q.merge = none) ∧
    (q.cid = some cid) ∧ (tget? s.host.cmds cid = some cm) ∧ (ringReady s cm)) ∧
  (∃ (s : State) (c : Fin 128) (w : Nat) (i : Nat) (v : Inv) (cid : Nat) (cm : Cmd),
    (unitAt s c.val 3 0x05 w) ∧ (unitQuery s c.val 3 = none) ∧ (unitInv s c.val 3 = some i) ∧
    (tget? s.work.invs i = some v) ∧ (v.cid = some cid) ∧ (tget? s.host.cmds cid = some cm) ∧
    (canWrite s v.fn cm.gen = true) ∧ (v.outDone < v.outLen)) ∧
  (∃ (s : State) (c : Fin 128) (w : Nat) (qid pos ctx : Nat) (q : Query),
    (unitAt s c.val 3 0x05 w) ∧ (unitQuery s c.val 3 = some (qid, q)) ∧ (q.entry = some (pos, ctx)) ∧
    (q.cid = none) ∧ (fld (s.adm q.part).reg 15 0 = 0) ∧ (pos < 64)) :=
  ⟨⟨W.semS, 5, 0x05 * 2 ^ 120 + 3 * 2 ^ 118 + 0 * 2 ^ 88 + 0 * 2 ^ 72 + 0 * 2 ^ 56 + 0 * 2 ^ 40 + (0), 2, 7, W.qq, W.cmd 0x20 [], by decide +kernel⟩,
   ⟨W.semP, 5, 0x05 * 2 ^ 120 + 3 * 2 ^ 118 + 0 * 2 ^ 88 + 0 * 2 ^ 72 + 0 * 2 ^ 56 + 0 * 2 ^ 40 + (0), 3, { plan := 0, role := 5, part := 0, words := [], cid := some 7, outAddr := 4096, outLen := 64, state := .running, left := [5] }, 7, W.cmd 0x12 [], by decide +kernel⟩,
   ⟨W.semF, 5, 0x05 * 2 ^ 120 + 3 * 2 ^ 118 + 0 * 2 ^ 88 + 0 * 2 ^ 72 + 0 * 2 ^ 56 + 0 * 2 ^ 40 + (0), 2, 1, 9, { W.qq with cid := none, entry := some (1, 9) }, by decide +kernel⟩⟩

theorem wit_NearBankOperationsRun_1 :
  (∃ (s : State) (c : Fin 128) (w : Nat),
    (unitAt s c.val 2 0x09 w) ∧ (wB w % 2048 = 0) ∧
    (((clPlan s c.val).bin.roles.find? (fun r => r.role = (s.cl c.val).role)).elim 0 (fun r => r.banks) > wB w /
      2048 + 1) ∧
    ((s.nb (c.val / 16)).queue.length < 64)) ∧
  (∃ (s : State) (c : Fin 128) (w : Nat),
    (unitAt s c.val 2 0x09 w) ∧ (wB w % 2048 = 0) ∧
    (((clPlan s c.val).bin.roles.find? (fun r => r.role = (s.cl c.val).role)).elim 0 (fun r => r.banks) > wB w /
      2048 + 1) ∧
    (64 ≤ (s.nb (c.val / 16)).queue.length)) ∧
  (∃ (s : State) (st : Fin 8) (i bad : Nat) (o : NbOp),
    (tget? (s.nb st.val).queue i = some o) ∧
    ((nbNext s (s.nb st.val) o.part).map (fun (a : Nat × NbOp) => a.1) = some i) ∧
    (nbTurn s (s.nb st.val) o.part = true) ∧ (nbCheck s o = some bad)) ∧
  (∃ (s : State) (st : Fin 8) (i : Nat) (o : NbOp),
    (tget? (s.nb st.val).queue i = some o) ∧
    ((nbNext s (s.nb st.val) o.part).map (fun (a : Nat × NbOp) => a.1) ≠ some i ∨ nbTurn s (s.nb st.val) o.part =
      false)) ∧
  (∃ (s : State) (st : Fin 8) (i : Nat) (o : NbOp) (span : NbSpan) (ts : List Nat),
    (tget? (s.nb st.val).queue i = some o) ∧
    ((nbNext s (s.nb st.val) o.part).map (fun (a : Nat × NbOp) => a.1) = some i) ∧
    (nbTurn s (s.nb st.val) o.part = true) ∧ (nbCheck s o = none) ∧ (nbSpan s o = some (span, ts)) ∧
    ((nbCmd o.cmd).op = 3) ∧ (s.err.inj = [] ∧ s.err.repairing = []) ∧ (span.n = 1) ∧
    (nbBad s span.base (ceilDiv ((nbReq o.req).kdim * (nbCmd o.cmd).bits) 8) = false) ∧
    ((nbReq o.req).ra ∉ span.tiles) ∧ ((nbCmd o.cmd).nq = 1) ∧
    ((pieces span.base (ceilDiv ((nbReq o.req).kdim * (nbCmd o.cmd).bits) 8)).all (fun p => p.1 != (nbReq o.req).ra)
      = true)) :=
  ⟨⟨W.nbW, 5, 0x09 * 2 ^ 120 + 2 * 2 ^ 118 + 0 * 2 ^ 88 + 0 * 2 ^ 72 + 0 * 2 ^ 56 + 0 * 2 ^ 40 + (0), by decide +kernel⟩,
   ⟨{ W.nbW with work.nbs := [(0, { queue := (List.range 64).map fun i => (i, { cluster := 0, plan := 0, part := 0, inv := none, cmd := [], req := [], bank := 0 }) })] }, 5, 0x09 * 2 ^ 120 + 2 * 2 ^ 118 + 0 * 2 ^ 88 + 0 * 2 ^ 72 + 0 * 2 ^ 56 + 0 * 2 ^ 40 + (0), by decide +kernel⟩,
   ⟨W.nbQ { cluster := 5, plan := 0, part := 0, inv := none, cmd := [], req := [], bank := 0 }, 0, 4, 0x0101, { cluster := 5, plan := 0, part := 0, inv := none, cmd := [], req := [], bank := 0 }, by decide +kernel⟩,
   ⟨W.nbQ { cluster := 5, plan := 0, part := 0, inv := none, cmd := [], req := [], bank := 0, started := true }, 0, 4, { cluster := 5, plan := 0, part := 0, inv := none, cmd := [], req := [], bank := 0, started := true }, by decide +kernel⟩,
   ⟨W.nbRun, 0, 4, W.nbO3, ⟨196608, 64, 1⟩, [], by decide +kernel⟩⟩
theorem wit_NearBankOperationsRun_2 :
  (∃ (s : State) (st : Fin 8) (i : Nat) (o : NbOp) (r : ResTile),
    (tget? (s.nb st.val).queue i = some o) ∧ (o.started = true) ∧ (o.gone = false) ∧ (o.status = 0) ∧
    (tget? s.work.resTiles (nbReq o.req).ra = some r) ∧ (r.active = some (i * 8 + st.val)) ∧
    (tabWf (s.cl o.cluster).scratch = true) ∧ (((s.cl o.cluster).unit 2).wait = .nb i) ∧
    (((s.cl o.cluster).word 2).map (fun v => (wLast v, wSigen v)) = some (false, false)) ∧
    (o.data.length ≤ 65408)) ∧
  (∃ (s : State) (st : Fin 8) (i : Nat) (o : NbOp) (r : ResTile),
    (tget? (s.nb st.val).queue i = some o) ∧ (o.started = true) ∧ (o.gone = false) ∧ (o.status ≠ 0) ∧
    (tget? s.work.resTiles (nbReq o.req).ra = some r) ∧ (r.active = some (i * 8 + st.val)) ∧
    (tabWf (s.cl o.cluster).scratch = true)) ∧
  (∃ (s : State) (st : Fin 8),
    (s.now % 1000 = 0) ∧ ((s.nb st.val).window ≠ s.now)) ∧
  (∃ (s : State) (st : Fin 8),
    (s.now % 1000 ≠ 0)) :=
  ⟨⟨W.nbEnd 0, 0, 4, W.nbDone 0, { seq := 3, active := some 32 }, by decide +kernel⟩,
   ⟨W.nbEnd 0x0304, 0, 4, W.nbDone 0x0304, { seq := 3, active := some 32 }, by decide +kernel⟩,
   ⟨W.h1, 7, by decide +kernel⟩,
   ⟨{ W.h1 with now := 1 }, 7, by decide +kernel⟩⟩

theorem wit_ClustersExchangeBytes :
  (∃ (s : State) (c : Fin 128) (w : Nat) (slot : Nat),
    (unitAt s c.val 1 0x10 w) ∧ ((s.cl c.val).plan = some slot) ∧
    (descAt (tgetD s.work.plans slot {}) (wB w) = none) ∧ (c.val ∈ peersOf s c.val (clConst s c.val (wB w))) ∧
    (∃ z ∈ peersOf s c.val (clConst s c.val (wB w)), z ≠ c.val ∧ ((s.cl z).unit 1).wait ≠ UWait.xchg)) ∧
  (∃ (s : State) (c : Fin 128) (w : Nat) (slot c2 v : Nat),
    (unitAt s c.val 1 0x10 w) ∧ ((s.cl c.val).plan = some slot) ∧
    (descAt (tgetD s.work.plans slot {}) (wB w) = none) ∧
    (peersOf s c.val (clConst s c.val (wB w)) = [c.val, c2]) ∧ (c.val < c2) ∧
    (((s.cl c2).unit 1).wait = UWait.xchg) ∧ ((s.cl c2).word 1 = some v) ∧
    (slice (clConst s c2 (wB v)) 0 16 = slice (clConst s c.val (wB w)) 0 16) ∧ (tabWf (s.cl c2).scratch = true) ∧
    (wD w + wD v ≤ 2097152) ∧ (wLast w = false ∧ wLast v = false)) ∧
  (∃ (s : State) (c : Fin 128) (w : Nat) (slot port : Nat) (d : CollD),
    (unitAt s c.val 1 0x10 w) ∧ ((s.cl c.val).plan = some slot) ∧
    (descAt (tgetD s.work.plans slot {}) (wB w) = some d) ∧ (d.root ≠ s.fab.node) ∧ (d.root < 64) ∧
    (bitOf d.contrib s.fab.node = true) ∧ (wD w = d.bytes) ∧ (d.filt = false) ∧
    (0 < wD w ∧ wD w ≤ d.burst ∧ d.burst ≤ 240) ∧
    (regMay s (s.cl c.val).part .fabric (unitReqId c.val 1) = true) ∧ (oneWay s d.root port) ∧
    ((tget? s.work.plans slot).isSome = true)) ∧
  (∃ (s : State) (c : Fin 128) (w : Nat) (slot : Nat) (d : CollD),
    (unitAt s c.val 1 0x10 w) ∧ ((s.cl c.val).plan = some slot) ∧
    (descAt (tgetD s.work.plans slot {}) (wB w) = some d) ∧ ((tget? s.work.plans slot).isSome = true) ∧
    (d.root = s.fab.node ∧ d.rootLc = c.val ∧ d.op ≠ 3) ∧ (bitOf d.contrib s.fab.node = true) ∧
    (wD w = d.bytes) ∧ (d.filt = false) ∧ (0 < wD w ∧ wD w ≤ d.burst ∧ d.burst ≤ 240) ∧
    (openOf s slot (wB w) = []) ∧ (collOf s slot (wB w) (nextInst s slot (wB w) false) = none) ∧
    (rankDone d [⟨2 ^ rankOf d.contrib s.fab.node, 0, false, false, true, scrRead (s.cl c.val) (gran (wA w)) (wD w)⟩]
      (rankOf d.contrib s.fab.node) = true) ∧
    (1 < popCount 64 d.contrib)) ∧
  (∃ (s : State) (c : Fin 128) (w : Nat) (slot : Nat) (d : CollD),
    (unitAt s c.val 1 0x10 w) ∧ ((s.cl c.val).plan = some slot) ∧
    (descAt (tgetD s.work.plans slot {}) (wB w) = some d) ∧ (d.root = s.fab.node) ∧
    (bitOf d.contrib s.fab.node = true) ∧ (wD w = d.bytes) ∧ (2 ≤ (openOf s slot (wB w)).length) ∧
    (collOf s slot (wB w) (nextInst s slot (wB w) false) = none)) :=
  ⟨⟨W.pxS false, 5, 0x10 * 2 ^ 120 + 1 * 2 ^ 118 + 64 * 2 ^ 56 + 4 * 2 ^ 40, 0, by decide +kernel⟩,
   ⟨W.pxS true, 5, 0x10 * 2 ^ 120 + 1 * 2 ^ 118 + 64 * 2 ^ 56 + 4 * 2 ^ 40, 0, 6, 0x10 * 2 ^ 120 + 1 * 2 ^ 118 + 64 * 2 ^ 56 + 4 * 2 ^ 40, by decide +kernel⟩,
   ⟨W.xcS (W.redF ++ [(0x10, 1, 1)]) 8 id false, 5, 0x10 * 2 ^ 120 + 1 * 2 ^ 118 + 8 * 2 ^ 40, 0, 0, (descAt (tgetD (W.xcS (W.redF ++ [(0x10, 1, 1)]) 8 id false).work.plans 0 {}) 0).getD ⟨0, 0, 0, false, 0, 0, 0, 0, 0, 0, 0, false, 0, 0, 0, 0⟩, by decide +kernel⟩,
   ⟨W.xcS W.redF 8 id false, 5, 0x10 * 2 ^ 120 + 1 * 2 ^ 118 + 8 * 2 ^ 40, 0, (descAt (tgetD (W.xcS W.redF 8 id false).work.plans 0 {}) 0).getD ⟨0, 0, 0, false, 0, 0, 0, 0, 0, 0, 0, false, 0, 0, 0, 0⟩, by decide +kernel⟩,
   ⟨{ W.xcS W.redF 8 id false with fab.colls := [(1, { desc := some (0, 0), n := 7 }), (2, { desc := some (0, 0), n := 8 })] }, 5, 0x10 * 2 ^ 120 + 1 * 2 ^ 118 + 8 * 2 ^ 40, 0, (descAt (tgetD (W.xcS W.redF 8 id false).work.plans 0 {}) 0).getD ⟨0, 0, 0, false, 0, 0, 0, 0, 0, 0, 0, false, 0, 0, 0, 0⟩, by decide +kernel⟩⟩

theorem wit_RootTakesContributions_1 :
  (∃ (s : State) (port : Fin 32) (p : Packet) (key slot : Nat) (g : Coll) (d : CollD) (plan : Plan),
    (arrives s port.val 0x16 p) ∧ (s.err.inj = []) ∧ (slot = p.addr % 256) ∧
    (tget? s.work.plans slot = some plan) ∧ (descAt plan p.aux = some d) ∧
    (plan.part = p.part ∧ d.root = s.fab.node) ∧ (bitOf s.mbr.members (nodeOf p.src) = true) ∧
    (collOf s slot p.aux (collPre p.payload).inst = some (key, g)) ∧
    (tget? s.fab.colls key = some g ∧ tabWf s.fab.colls = true) ∧
    (g.qid = none ∧ g.desc = some (slot, p.aux) ∧ g.closed = false ∧ g.absent = 0) ∧
    (s.now ≤ g.closeT ∧ (collPre p.payload).cstat = 0) ∧ (d.op ≠ 3) ∧
    (g.parts.all (fun (q : CollPart) => !(q.chunk == (collPre p.payload).chunk && q.half == bitOf
          (collPre p.payload).cflags 3 && (collPre p.payload).ranks &&& q.ranks != 0)) = true) ∧
    (allRanks g.mask &&& ((ofBits ((bitsSet 64 (allRanks g.mask)).filter (rankDone d (g.parts ++ [(
                    { ranks := (collPre p.payload).ranks, chunk := (collPre p.payload).chunk,
                      half := bitOf (collPre p.payload).cflags 3, wide := bitOf (collPre p.payload).cflags 0,
                      last := bitOf (collPre p.payload).cflags 1, data := p.payload.drop 16 } : CollPart)])))) ^^^
        (2 ^ 64 - 1)) ≠ 0)) ∧
  (∃ (s : State) (port : Fin 32) (p : Packet) (key slot : Nat) (g : Coll) (d : CollD) (plan : Plan) (lc a e : Nat),
    (arrives s port.val 0x16 p) ∧ (s.err.inj = []) ∧ (slot = p.addr % 256) ∧
    (tget? s.work.plans slot = some plan) ∧ (descAt plan p.aux = some d) ∧
    (plan.part = p.part ∧ d.root = s.fab.node) ∧ (bitOf s.mbr.members (nodeOf p.src) = true) ∧
    (collOf s slot p.aux (collPre p.payload).inst = some (key, g)) ∧
    (tget? s.fab.colls key = some g ∧ tabWf s.fab.colls = true) ∧
    (g.qid = none ∧ g.desc = some (slot, p.aux) ∧ g.closed = false ∧ g.absent = 0) ∧
    (s.now ≤ g.closeT ∧ (collPre p.payload).cstat = 0) ∧ (d.op = 1 ∧ d.fmt = 8) ∧ (d.elems ≤ 60 ∧ e < d.elems) ∧
    (g.parts.all (fun (q : CollPart) => !(q.chunk == (collPre p.payload).chunk && q.half == bitOf
          (collPre p.payload).cflags 3 && (collPre p.payload).ranks &&& q.ranks != 0)) = true) ∧
    (allRanks g.mask &&& ((ofBits ((bitsSet 64 (allRanks g.mask)).filter (rankDone d (g.parts ++ [(
                    { ranks := (collPre p.payload).ranks, chunk := (collPre p.payload).chunk,
                      half := bitOf (collPre p.payload).cflags 3, wide := bitOf (collPre p.payload).cflags 0,
                      last := bitOf (collPre p.payload).cflags 1, data := p.payload.drop 16 } : CollPart)])))) ^^^
        (2 ^ 64 - 1)) = 0) ∧
    ((g.parts ++ [({ ranks := (collPre p.payload).ranks, chunk := (collPre p.payload).chunk,
                     half := bitOf (collPre p.payload).cflags 3, wide := bitOf (collPre p.payload).cflags 0,
                     last := bitOf (collPre p.payload).cflags 1, data := p.payload.drop 16 } : CollPart)]).all
      (fun (q : CollPart) => q.chunk == 0 && !q.wide) = true) ∧
    (g.dst = some (lc, a)) ∧ (tabWf (s.cl lc).scratch = true) ∧ (((s.cl lc).unit 1).wait = UWait.xchg) ∧
    (((s.cl lc).word 1).isSome = true)) ∧
  (∃ (s : State) (port : Fin 32) (p : Packet) (key slot : Nat) (g : Coll) (d : CollD) (plan : Plan) (lc a e : Nat) (q : CollPart),
    (arrives s port.val 0x16 p) ∧ (s.err.inj = []) ∧ (slot = p.addr % 256) ∧
    (tget? s.work.plans slot = some plan) ∧ (descAt plan p.aux = some d) ∧
    (plan.part = p.part ∧ d.root = s.fab.node) ∧ (bitOf s.mbr.members (nodeOf p.src) = true) ∧
    (collOf s slot p.aux (collPre p.payload).inst = some (key, g)) ∧
    (tget? s.fab.colls key = some g ∧ tabWf s.fab.colls = true) ∧
    (g.qid = none ∧ g.desc = some (slot, p.aux) ∧ g.closed = false ∧ g.absent = 0) ∧
    (s.now ≤ g.closeT ∧ (collPre p.payload).cstat = 0) ∧ (d.op = 1 ∧ d.fmt = 7 ∧ d.outFmt = 7) ∧
    (d.elems ≤ 60 ∧ e < d.elems) ∧
    (g.parts = [q] ∧ q.chunk = 0 ∧ q.wide = false ∧ q.ranks = 2 ∧ q.data.length = 4 * d.elems) ∧
    ((collPre p.payload).ranks = 1 ∧ (collPre p.payload).chunk = 0 ∧ bitOf (collPre p.payload).cflags 0 = false ∧
      p.payload.length = 16 + 4 * d.elems) ∧
    (popCount 64 g.mask = 2 ∧ popCount 64 d.contrib = 2) ∧ (g.dst = some (lc, a)) ∧
    (tabWf (s.cl lc).scratch = true) ∧ (((s.cl lc).unit 1).wait = UWait.xchg) ∧
    (((s.cl lc).word 1).isSome = true)) ∧
  (∃ (s : State) (port : Fin 32) (p : Packet) (key slot : Nat) (g : Coll) (d : CollD) (plan : Plan) (lc a : Nat) (q : CollPart),
    (arrives s port.val 0x16 p) ∧ (s.err.inj = []) ∧ (slot = p.addr % 256) ∧
    (tget? s.work.plans slot = some plan) ∧ (descAt plan p.aux = some d) ∧
    (plan.part = p.part ∧ d.root = s.fab.node) ∧ (bitOf s.mbr.members (nodeOf p.src) = true) ∧
    (collOf s slot p.aux (collPre p.payload).inst = some (key, g)) ∧
    (tget? s.fab.colls key = some g ∧ tabWf s.fab.colls = true) ∧
    (g.qid = none ∧ g.desc = some (slot, p.aux) ∧ g.closed = false ∧ g.absent = 0) ∧
    (s.now ≤ g.closeT ∧ (collPre p.payload).cstat = 0) ∧
    (d.op = 2 ∧ d.filt = false ∧ d.items * d.itemBytes = d.bytes ∧ 0 < d.bytes ∧ d.bytes ≤ 240 ∧ d.bytes ≤ d.burst) ∧
    (g.parts = [q] ∧ q.chunk = 0 ∧ q.wide = false ∧ q.ranks = 2 ∧ q.data.length = d.bytes) ∧
    ((collPre p.payload).ranks = 1 ∧ (collPre p.payload).chunk = 0 ∧ bitOf (collPre p.payload).cflags 0 = false ∧
      p.payload.length = 16 + d.bytes) ∧
    (popCount 64 g.mask = 2 ∧ popCount 64 d.contrib = 2) ∧ (g.dst = some (lc, a)) ∧
    (tabWf (s.cl lc).scratch = true) ∧ (((s.cl lc).unit 1).wait = UWait.xchg) ∧
    (((s.cl lc).word 1).isSome = true)) ∧
  (∃ (s : State) (port : Fin 32) (p : Packet) (key slot : Nat) (g : Coll) (d : CollD) (plan : Plan) (k : Fin 16) (m : Merge),
    (arrives s port.val 0x16 p) ∧ (s.err.inj = []) ∧ (slot = p.addr % 256) ∧
    (tget? s.work.plans slot = some plan) ∧ (descAt plan p.aux = some d) ∧
    (plan.part = p.part ∧ d.root = s.fab.node) ∧ (bitOf s.mbr.members (nodeOf p.src) = true) ∧
    (collOf s slot p.aux (collPre p.payload).inst = some (key, g)) ∧
    (tget? s.fab.colls key = some g ∧ tabWf s.fab.colls = true) ∧
    (g.qid = none ∧ g.desc = some (slot, p.aux) ∧ g.closed = false ∧ g.absent = 0) ∧
    (s.now ≤ g.closeT ∧ (collPre p.payload).cstat = 0) ∧ (d.op = 3) ∧
    (bitOf (collPre p.payload).cflags 1 = true ∧ (collPre p.payload).ranks &&& g.taken = 0) ∧
    (tget? g.open_ p.src = none) ∧
    (allRanks g.mask &&& ((g.taken ||| (collPre p.payload).ranks) ^^^ (2 ^ 64 - 1)) = 0) ∧
    (tget? s.work.kne k.val = some m ∧ m.inst = some key)) :=
  ⟨⟨W.xcWait (W.redF) (fun g => { g with dst := none }), 0, W.redP 1 1 (List.replicate 8 1), 2, 0, { desc := some (0, 0), n := 1, mask := 3, closeT := 9000000 }, (descAt (tgetD (W.xcS W.redF 8 id false).work.plans 0 {}) 0).getD ⟨0, 0, 0, false, 0, 0, 0, 0, 0, 0, 0, false, 0, 0, 0, 0⟩, tgetD (W.xcWait (W.redF) (fun g => { g with dst := none })).work.plans 0 {}, by decide +kernel⟩,
   ⟨W.xcWait (W.redF) (fun g => { g with parts := [⟨2, 0, false, false, true, leBytes 4 (2 ^ 31 - 1) ++ leBytes 4 9⟩], dst := some (5, 64) }), 0, W.redP 1 1 (leBytes 4 5 ++ leBytes 4 6), 2, 0, { desc := some (0, 0), n := 1, mask := 3, closeT := 9000000, parts := [⟨2, 0, false, false, true, leBytes 4 (2 ^ 31 - 1) ++ leBytes 4 9⟩], dst := some (5, 64) }, (descAt (tgetD (W.xcS W.redF 8 id false).work.plans 0 {}) 0).getD ⟨0, 0, 0, false, 0, 0, 0, 0, 0, 0, 0, false, 0, 0, 0, 0⟩, tgetD (W.xcWait (W.redF) (fun g => { g with parts := [⟨2, 0, false, false, true, leBytes 4 (2 ^ 31 - 1) ++ leBytes 4 9⟩], dst := some (5, 64) })).work.plans 0 {}, 5, 64, 0, by decide +kernel⟩,
   ⟨W.xcWait ([(4, 1, 1), (5, 1, 7), (6, 1, 7), (8, 8, 3), (0x11, 1, 5), (0x12, 2, 2)]) (fun g => { g with parts := [⟨2, 0, false, false, true, leBytes 4 0x3F800000 ++ leBytes 4 0x7F800001⟩], dst := some (5, 64) }), 0, W.redP 1 1 (leBytes 4 0x40000000 ++ leBytes 4 6), 2, 0, { desc := some (0, 0), n := 1, mask := 3, closeT := 9000000, parts := [⟨2, 0, false, false, true, leBytes 4 0x3F800000 ++ leBytes 4 0x7F800001⟩], dst := some (5, 64) }, (descAt (tgetD (W.xcS ([(4, 1, 1), (5, 1, 7), (6, 1, 7), (8, 8, 3), (0x11, 1, 5), (0x12, 2, 2)]) 8 id false).work.plans 0 {}) 0).getD ⟨0, 0, 0, false, 0, 0, 0, 0, 0, 0, 0, false, 0, 0, 0, 0⟩, tgetD (W.xcWait ([(4, 1, 1), (5, 1, 7), (6, 1, 7), (8, 8, 3), (0x11, 1, 5), (0x12, 2, 2)]) (fun g => { g with parts := [⟨2, 0, false, false, true, leBytes 4 0x3F800000 ++ leBytes 4 0x7F800001⟩], dst := some (5, 64) })).work.plans 0 {}, 5, 64, 1, ⟨2, 0, false, false, true, leBytes 4 0x3F800000 ++ leBytes 4 0x7F800001⟩, by decide +kernel⟩,
   ⟨W.xcWait ([(4, 1, 2), (8, 8, 3), (0x11, 1, 5), (0x14, 2, 16), (0x16, 2, 1)]) (fun g => { g with parts := [⟨2, 0, false, false, true, List.replicate 16 7⟩], dst := some (5, 64) }), 0, W.redP 1 1 (List.replicate 16 5), 2, 0, { desc := some (0, 0), n := 1, mask := 3, closeT := 9000000, parts := [⟨2, 0, false, false, true, List.replicate 16 7⟩], dst := some (5, 64) }, (descAt (tgetD (W.xcS ([(4, 1, 2), (8, 8, 3), (0x11, 1, 5), (0x14, 2, 16), (0x16, 2, 1)]) 8 id false).work.plans 0 {}) 0).getD ⟨0, 0, 0, false, 0, 0, 0, 0, 0, 0, 0, false, 0, 0, 0, 0⟩, tgetD (W.xcWait ([(4, 1, 2), (8, 8, 3), (0x11, 1, 5), (0x14, 2, 16), (0x16, 2, 1)]) (fun g => { g with parts := [⟨2, 0, false, false, true, List.replicate 16 7⟩], dst := some (5, 64) })).work.plans 0 {}, 5, 64, ⟨2, 0, false, false, true, List.replicate 16 7⟩, by decide +kernel⟩,
   ⟨{ W.xcWait ([(4, 1, 3), (8, 8, 3), (0x18, 2, 1)]) (fun g => { g with taken := 2 }) with work.kne := [(4, { part := 0, k := 1, lower := false, lists := [], stamp := 0, inst := some 2 })] }, 0, W.redP 1 1 W.resL, 2, 0, { desc := some (0, 0), n := 1, mask := 3, closeT := 9000000, taken := 2 }, (descAt (tgetD (W.xcS [(4, 1, 3), (8, 8, 3), (0x18, 2, 1)] 8 id false).work.plans 0 {}) 0).getD ⟨0, 0, 0, false, 0, 0, 0, 0, 0, 0, 0, false, 0, 0, 0, 0⟩, tgetD ({ W.xcWait ([(4, 1, 3), (8, 8, 3), (0x18, 2, 1)]) (fun g => { g with taken := 2 }) with work.kne := [(4, { part := 0, k := 1, lower := false, lists := [], stamp := 0, inst := some 2 })] }).work.plans 0 {}, 4, { part := 0, k := 1, lower := false, lists := [], stamp := 0, inst := some 2 }, by decide +kernel⟩⟩
theorem wit_RootTakesContributions_2 :
  (∃ (s : State) (port : Fin 32) (p : Packet) (key slot : Nat) (g : Coll) (d : CollD) (plan : Plan),
    (arrives s port.val 0x16 p) ∧ (s.err.inj = []) ∧ (slot = p.addr % 256) ∧
    (tget? s.work.plans slot = some plan) ∧ (descAt plan p.aux = some d) ∧
    (plan.part = p.part ∧ d.root = s.fab.node) ∧ (bitOf s.mbr.members (nodeOf p.src) = true) ∧
    (collOf s slot p.aux (collPre p.payload).inst = some (key, g)) ∧
    (tget? s.fab.colls key = some g ∧ tabWf s.fab.colls = true) ∧
    (g.qid = none ∧ g.desc = some (slot, p.aux) ∧ g.closed = false ∧ g.absent = 0) ∧
    (g.part = p.part ∧ g.closeT < s.now ∧ bitOf (collPre p.payload).cflags 1 = true)) ∧
  (∃ (s : State) (key slot k : Nat) (g : Coll) (d : CollD) (plan : Plan),
    (tget? s.fab.colls key = some g ∧ tabWf s.fab.colls = true) ∧
    (g.qid = none ∧ g.desc = some (slot, k) ∧ g.closed = false ∧ g.dst = none) ∧
    (tget? s.work.plans slot = some plan) ∧ (descAt plan k = some d) ∧ (d.op ≠ 3) ∧ (g.closeT ≤ s.now) ∧
    (g.missing ≠ 0)) ∧
  (∃ (s : State) (key slot k lc a i cid : Nat) (g : Coll) (d : CollD) (plan : Plan) (v : Inv) (cm : Cmd),
    (tget? s.fab.colls key = some g ∧ tabWf s.fab.colls = true) ∧
    (g.qid = none ∧ g.desc = some (slot, k) ∧ g.closed = false ∧ g.dst = some (lc, a)) ∧
    (tget? s.work.plans slot = some plan) ∧ (descAt plan k = some d) ∧ (d.op ≠ 3) ∧ (g.closeT ≤ s.now) ∧
    (g.missing ≠ 0) ∧ (((s.cl lc).unit 1).wait = UWait.xchg) ∧ (unitInv s lc 1 = some i) ∧
    (tget? s.work.invs i = some v ∧ tabWf s.work.invs = true) ∧ (v.qid = none ∧ v.cid = some cid) ∧
    (tget? s.host.cmds cid = some cm) ∧ (ringReady s cm)) ∧
  (∃ (s : State) (key : Nat),
    ((tget? s.fab.colls key).all (fun (g : Coll) => g.closed || decide (s.now < g.closeT)) = true)) :=
  ⟨⟨{ W.xcWait (W.redF) (fun g => { g with dst := none }) with now := 9000001 }, 0, W.redP 1 1 (List.replicate 8 1), 2, 0, { desc := some (0, 0), n := 1, mask := 3, closeT := 9000000 }, (descAt (tgetD (W.xcS W.redF 8 id false).work.plans 0 {}) 0).getD ⟨0, 0, 0, false, 0, 0, 0, 0, 0, 0, 0, false, 0, 0, 0, 0⟩, tgetD ({ W.xcWait (W.redF) (fun g => { g with dst := none }) with now := 9000001 }).work.plans 0 {}, by decide +kernel⟩,
   ⟨{ W.xcWait (W.redF) (fun g => { g with dst := none }) with now := 9000000 }, 2, 0, 0, { desc := some (0, 0), n := 1, mask := 3, closeT := 9000000 }, (descAt (tgetD (W.xcS W.redF 8 id false).work.plans 0 {}) 0).getD ⟨0, 0, 0, false, 0, 0, 0, 0, 0, 0, 0, false, 0, 0, 0, 0⟩, tgetD (W.xcWait (W.redF) (fun g => { g with dst := none })).work.plans 0 {}, by decide +kernel⟩,
   ⟨W.xcInv W.redF (fun g => { g with dst := some (5, 64) }), 2, 0, 0, 5, 64, 3, 7, { desc := some (0, 0), n := 1, mask := 3, closeT := 9000000, dst := some (5, 64) }, (descAt (tgetD (W.xcS W.redF 8 id false).work.plans 0 {}) 0).getD ⟨0, 0, 0, false, 0, 0, 0, 0, 0, 0, 0, false, 0, 0, 0, 0⟩, tgetD (W.xcInv W.redF id).work.plans 0 {}, { plan := 0, role := 5, part := 0, words := [], cid := some 7, state := .running, left := [5] }, W.cmd 0x12 [], by decide +kernel⟩,
   ⟨W.h1, 3, by decide +kernel⟩⟩

theorem wit_PartialListsMeetAndMerge_1 :
  (∃ (s : State) (port : Fin 32) (p : Packet) (key qid : Nat) (q : Query) (g : Coll),
    (arrives s port.val 0x15 p) ∧ (s.err.inj = []) ∧
    ((collPre p.payload).ranks ≠ 0 ∧ bitOf s.mbr.members (nodeOf p.src) = true ∧ (collPre p.payload).cstat = 0 ∧
      bitOf (collPre p.payload).cflags 1 = true) ∧
    (mergeOf s (collPre p.payload).inst = some (key, qid, q)) ∧ (tget? s.work.queries qid = some q) ∧
    (tget? s.fab.colls key = some g ∧ tabWf s.fab.colls = true) ∧
    (g.qid = some qid ∧ g.closed = false ∧ s.now ≤ g.closeT ∧ tget? g.open_ p.src = none) ∧
    ((RHead.ofBytes (p.payload.drop 16)).epoch = q.epoch.getD 0) ∧
    ((collPre p.payload).ranks &&& (g.taken ||| g.absent) = 0) ∧ (g.own = none)) ∧
  (∃ (s : State) (port : Fin 32) (p : Packet) (key qid : Nat) (q : Query) (g : Coll) (own : List Byte) (k : Nat),
    (arrives s port.val 0x15 p) ∧ (s.err.inj = []) ∧
    ((collPre p.payload).ranks ≠ 0 ∧ bitOf s.mbr.members (nodeOf p.src) = true ∧ (collPre p.payload).cstat = 0 ∧
      bitOf (collPre p.payload).cflags 1 = true) ∧
    (mergeOf s (collPre p.payload).inst = some (key, qid, q)) ∧ (tget? s.work.queries qid = some q) ∧
    (tget? s.fab.colls key = some g ∧ tabWf s.fab.colls = true) ∧
    (g.qid = some qid ∧ g.closed = false ∧ s.now ≤ g.closeT ∧ tget? g.open_ p.src = none) ∧
    ((RHead.ofBytes (p.payload.drop 16)).epoch = q.epoch.getD 0) ∧
    ((collPre p.payload).ranks &&& (g.taken ||| g.absent) = 0) ∧ (g.own = some own) ∧
    (allRanks g.mask &&& ((g.taken ||| (collPre p.payload).ranks ||| g.absent) ^^^ (2 ^ 64 - 1)) = 0) ∧
    (s.work.kneWait = []) ∧ (tfreeBelow s.work.kne 16 = some k)) ∧
  (∃ (s : State) (port : Fin 32) (p : Packet) (po : Nat),
    (passes s port.val 0x15 p) ∧ (p.dst < 64) ∧ (flag s.fab.swcCfg 16 = false) ∧ (oneWay s p.dst po)) ∧
  (∃ (s : State) (port : Fin 32) (p : Packet),
    (passes s port.val 0x15 p) ∧ (p.dst < 64) ∧ (flag s.fab.swcCfg 16 = true) ∧
    ((collPre p.payload).cstat = 0 ∧ (collPre p.payload).ranks ≠ 0 ∧ bitOf (collPre p.payload).cflags 1 = true) ∧
    (s.err.inj = []) ∧
    ((tfind? (s.port port.val).join (fun _ (e : JoinEnt) => !e.done && e.dst == p.dst && e.inst ==
          (collPre p.payload).inst && (e.pkts.head?.map (fun (z : Packet) => z.src)) == some p.src)) = none) ∧
    (joinUsed (s.port port.val) + (p.payload.length - 16) ≤ 32768) ∧ (16 ≤ p.payload.length) ∧
    (heldLists s port.val = [])) ∧
  (∃ (s : State) (port : Fin 32) (p : Packet) (j : Nat) (e : JoinEnt) (lower : Bool),
    (passes s port.val 0x15 p) ∧ (p.dst < 64) ∧ (flag s.fab.swcCfg 16 = true) ∧
    ((collPre p.payload).cstat = 0 ∧ (collPre p.payload).ranks ≠ 0 ∧ bitOf (collPre p.payload).cflags 1 = true) ∧
    (s.err.inj = []) ∧
    ((tfind? (s.port port.val).join (fun _ (e : JoinEnt) => !e.done && e.dst == p.dst && e.inst ==
          (collPre p.payload).inst && (e.pkts.head?.map (fun (z : Packet) => z.src)) == some p.src)) = none) ∧
    (joinUsed (s.port port.val) + (p.payload.length - 16) ≤ 32768) ∧ (16 ≤ p.payload.length) ∧
    (tget? (s.port port.val).join j = some e ∧ e.done = true ∧ j ≠ (s.port port.val).nextJoin) ∧
    (heldLists s port.val = [(port.val, j, e)]) ∧
    (mayJoin e ({ pkts := [p], dst := p.dst, inst := (collPre p.payload).inst, part := p.part,
                  bytes := p.payload.drop 16, ranks := (collPre p.payload).ranks,
                  joined := bitOf (collPre p.payload).cflags 0, done := false, until_ := 0 }) = some lower)) :=
  ⟨⟨W.plS id, 0, W.plP 0, 2, 2, { W.qq with ctx := some 9, merge := some 2, epoch := some 0, stamp := 4 }, { qid := some 2, n := 9, mask := 6, closeT := 9000000 }, by decide +kernel⟩,
   ⟨W.plS (fun g => { g with taken := 2, own := some W.resL }), 0, W.plP 0, 2, 2, { W.qq with ctx := some 9, merge := some 2, epoch := some 0, stamp := 4 }, { qid := some 2, n := 9, mask := 6, closeT := 9000000, taken := 2, own := some W.resL }, W.resL, 0, by decide +kernel⟩,
   ⟨W.swS 0 [], 0, W.plP 2, 1, by decide +kernel⟩,
   ⟨W.swS 1 [], 0, W.plP 2, by decide +kernel⟩,
   ⟨W.swS 1 [(4, W.jE2)], 0, W.plP2 2, 4, W.jE2, false, by decide +kernel⟩⟩
theorem wit_PartialListsMeetAndMerge_2 :
  (∃ (s : State) (port : Fin 32) (i po : Nat) (e : JoinEnt),
    (tget? (s.port port.val).join i = some e) ∧ (e.done = true ∧ e.joined = false ∧ e.until_ ≤ s.now) ∧
    (e.dst < 64 ∧ e.dst ≠ s.fab.node) ∧ (∀ z ∈ e.pkts, z.dst = e.dst) ∧ (oneWay s e.dst po)) ∧
  (∃ (s : State) (port : Fin 32) (i : Nat),
    ((tget? (s.port port.val).join i).all (fun (e : JoinEnt) => !e.done || decide (s.now < e.until_)) = true)) ∧
  (∃ (s : State) (key qid k : Nat) (q : Query) (g : Coll) (own : List Byte),
    (tget? s.fab.colls key = some g ∧ tabWf s.fab.colls = true) ∧
    (g.qid = some qid ∧ g.closed = false ∧ g.own = some own ∧ g.closeT ≤ s.now ∧ g.missing ≠ 0) ∧
    (tget? s.work.queries qid = some q) ∧ (s.work.kneWait = []) ∧ (tfreeBelow s.work.kne 16 = some k)) :=
  ⟨⟨W.swS 1 [(4, W.jE)], 0, 4, 1, W.jE, by decide +kernel⟩,
   ⟨W.swS 1 [], 0, 4, by decide +kernel⟩,
   ⟨{ W.plS (fun g => { g with own := some W.resL }) with now := 9000000 }, 2, 2, 0, { W.qq with ctx := some 9, merge := some 2, epoch := some 0, stamp := 4 }, { qid := some 2, n := 9, mask := 6, closeT := 9000000, own := some W.resL }, W.resL, by decide +kernel⟩⟩

theorem wit_LinksCarryFramesAndTrain_1 :
  (∃ (s : State) (port : Fin 32) (f : Frame) (p : Packet),
    (portUp s port.val = true) ∧ (s.err.inj = []) ∧
    (f.crcOk = true ∧ f.uncorr = 0 ∧ f.resend = none ∧ f.seq = (s.port port.val).rxSeq) ∧
    (f.flits = [.header p]) ∧ (knownKind p.kind = true) ∧ (carriesPayload p = true)) ∧
  (∃ (s : State) (port : Fin 32) (f : Frame) (p : Packet),
    (portUp s port.val = true) ∧ (s.err.inj = []) ∧
    (f.crcOk = true ∧ f.uncorr = 0 ∧ f.resend = none ∧ f.seq = (s.port port.val).rxSeq) ∧
    (f.flits = [.header p]) ∧ (knownKind p.kind = true) ∧ (carriesPayload p = false)) ∧
  (∃ (s : State) (port : Fin 32) (f : Frame) (src b : Nat) (bs : List Byte) (a : Assembly),
    (portUp s port.val = true) ∧ (s.err.inj = []) ∧
    (f.crcOk = true ∧ f.uncorr = 0 ∧ f.resend = none ∧ f.seq = (s.port port.val).rxSeq) ∧
    (f.flits = [.data src b 0 bs]) ∧ (tget? s.fab.asm (asmKey src b) = some a) ∧
    (a.p.gen = s.mbr.gen ∧ 0 < a.p.len ∧ a.p.len ≤ 16 ∧ a.flits = [])) ∧
  (∃ (s : State) (port : Fin 32) (f : Frame) (src b i : Nat) (bs : List Byte),
    (portUp s port.val = true) ∧ (s.err.inj = []) ∧
    (f.crcOk = true ∧ f.uncorr = 0 ∧ f.resend = none ∧ f.seq = (s.port port.val).rxSeq) ∧
    (f.flits = [.data src b i bs]) ∧ (tget? s.fab.asm (asmKey src b) = none)) ∧
  (∃ (s : State) (port : Fin 32) (f : Frame) (l1 l2 : List (Nat × Packet)) (q : Packet),
    (portUp s port.val = true) ∧ (s.err.inj = []) ∧
    (f.crcOk = true ∧ f.uncorr = 0 ∧ f.resend = none ∧ f.seq = (s.port port.val).rxSeq) ∧ (f.flits = []) ∧
    ((s.port port.val).retry = l1 ++ (f.ack, q) :: l2) ∧ (∀ x ∈ l1, x.1 ≠ f.ack)) :=
  ⟨⟨W.fabS, 0, W.frm [.header (W.pk 2 0 4 [])], W.pk 2 0 4 [], by decide +kernel⟩,
   ⟨W.fabS, 0, W.frm [.header (W.pk 1 0 4 [])], W.pk 1 0 4 [], by decide +kernel⟩,
   ⟨{ W.fabS with fab.asm := [(asmKey 1 1, { p := W.pk 2 0 4 [], t := 0 })] }, 0, W.frm [.data 1 1 0 [7, 7, 7, 7]], 1, 1, [7, 7, 7, 7], { p := W.pk 2 0 4 [], t := 0 }, by decide +kernel⟩,
   ⟨W.fabS, 0, W.frm [.data 1 1 0 []], 1, 1, 0, [], by decide +kernel⟩,
   ⟨W.prt { st := .up, retry := [(4094, W.pk 1 0 4 []), (4095, W.pk 1 0 4 []), (0, W.pk 1 0 4 [])] }, 0, W.frm [], [(4094, W.pk 1 0 4 [])], [(0, W.pk 1 0 4 [])], W.pk 1 0 4 [], by decide +kernel⟩⟩
theorem wit_LinksCarryFramesAndTrain_2 :
  (∃ (s : State) (port : Fin 32) (f : Frame),
    (portUp s port.val = true) ∧ (s.err.inj = []) ∧ (f.crcOk = false ∨ f.uncorr ≠ 0)) ∧
  (∃ (s : State) (port : Fin 32) (f : Frame),
    (portUp s port.val = true) ∧ (s.err.inj = []) ∧ (f.crcOk = true ∧ f.uncorr = 0 ∧ f.resend = none) ∧
    ((s.port port.val).rxSeq < 4096 ∧ f.seq < 4096 ∧ f.seq ≠ (s.port port.val).rxSeq)) ∧
  (∃ (s : State) (port : Fin 32) (f : Frame) (k : Nat) (l1 l2 : List (Nat × Packet)) (q : Packet),
    (portUp s port.val = true) ∧ (s.err.inj = []) ∧
    (f.crcOk = true ∧ f.uncorr = 0 ∧ f.resend = some k ∧ f.seq = (s.port port.val).rxSeq ∧ f.flits = []) ∧
    ((s.port port.val).retry = l1 ++ (k, q) :: l2) ∧
    ((∀ x ∈ l1, x.1 ≠ k) ∧ ∀ x ∈ l1 ++ (k, q) :: l2, x.1 ≠ f.ack) ∧
    ((if (s.port port.val).retryMs = s.now / 1000000 then (s.port port.val).retries else 0) + (l2.length + 1) ≤ fld
      s.fab.cfg 15 8)) ∧
  (∃ (s : State) (port : Fin 32) (f : Frame),
    (portUp s port.val = false)) ∧
  (∃ (s : State) (port : Fin 32) (lane : Fin 2),
    (portUp s port.val = true) ∧ (flag s.fab.cfg 0 = false ∨ (s.port port.val).lost ||| 2 ^ lane.val = 3) ∧
    ((s.port port.val).lost < 4 ∧ (s.port port.val).disable = false) ∧ ((s.port port.val).retry = [])) :=
  ⟨⟨W.fabS, 0, { W.frm [] with crcOk := false }, by decide +kernel⟩,
   ⟨W.fabS, 0, { W.frm [] with seq := 3 }, by decide +kernel⟩,
   ⟨W.prt { st := .up, retry := [(4094, W.pk 1 0 4 []), (7, W.pk 1 0 4 []), (0, W.pk 1 0 4 [])] }, 0, { W.frm [] with resend := some 7 }, 7, [(4094, W.pk 1 0 4 [])], [(0, W.pk 1 0 4 [])], W.pk 1 0 4 [], by decide +kernel⟩,
   ⟨W.h1, 0, W.frm [], by decide +kernel⟩,
   ⟨W.prt { st := .up, lost := 2 }, 0, 0, by decide +kernel⟩⟩
theorem wit_LinksCarryFramesAndTrain_3 :
  (∃ (s : State) (port : Fin 32) (lane : Fin 2),
    (portUp s port.val = true) ∧ (flag s.fab.cfg 0 = true) ∧
    ((s.port port.val).lost = 0 ∧ (s.port port.val).retry = []) ∧
    ((s.port port.val).disable = false ∧ bitOf s.pkg.pwr.domOn (18 + port.val / 16) = true ∧
      (isEdge port.val && fld (s.port port.val).ep 1 0 == 0) = false)) ∧
  (∃ (s : State) (port : Fin 32) (lane : Fin 2) (k po : Nat) (q : Packet),
    (portUp s port.val = true) ∧ (flag s.fab.cfg 0 = false ∧ (s.port port.val).disable = false) ∧
    ((s.port port.val).retry = [(k, q)] ∧ nodeOf q.dst ≠ s.fab.node ∧ q.rcls = 1) ∧
    (routeCands (s.setPort port.val { (s.port port.val) with st := .down }) (nodeOf q.dst) [] = [po])) ∧
  (∃ (s : State) (port : Fin 32) (lanes : Fin 3),
    ((s.port port.val).st = .training ∨ (s.port port.val).st = .align) ∧ (0 < lanes.val)) ∧
  (∃ (s : State) (port : Fin 32) (lanes : Fin 3),
    ((s.port port.val).st = .training ∨ (s.port port.val).st = .align) ∧ (lanes.val = 0)) ∧
  (∃ (s : State) (port : Fin 32) (rack pos q role gen : Nat),
    ((s.port port.val).st = .ident) ∧ (isEdge port.val = false) ∧ (rack = s.fab.rackId) ∧
    ((pos, q) = wiredTo s.fab.node port.val)) :=
  ⟨⟨W.prt { st := .up }, 0, 1, by decide +kernel⟩,
   ⟨{ W.h1 with fab.node := 0, fab.cfg := 0, fab.ports := [(0, { st := .up, retry := [(7, { W.pk 2 0 4 [] with dst := 1, rcls := 1 })] }), (16, { st := .up })] }, 0, 0, 7, 16, { W.pk 2 0 4 [] with dst := 1, rcls := 1 }, by decide +kernel⟩,
   ⟨W.prt { st := .training }, 0, 2, by decide +kernel⟩,
   ⟨W.prt { st := .training }, 0, 0, by decide +kernel⟩,
   ⟨W.prt { st := .ident }, 0, 0, 1, 0, 0, 0, by decide +kernel⟩⟩
theorem wit_LinksCarryFramesAndTrain_4 :
  (∃ (s : State) (port : Fin 32) (rack pos q role gen : Nat),
    ((s.port port.val).st = .ident) ∧ (isEdge port.val = false) ∧
    (rack ≠ s.fab.rackId ∨ (pos, q) ≠ wiredTo s.fab.node port.val)) ∧
  (∃ (s : State) (port : Fin 32) (kind : Nat),
    ((s.port port.val).st = .ident) ∧ (isEdge port.val = true) ∧ (kind ≠ 0) ∧
    (kind = fld (s.port port.val).ep 1 0)) ∧
  (∃ (s : State) (port : Fin 32),
    ((s.port port.val).st = .down) ∧ ((s.port port.val).downT + 100000000 ≤ s.now) ∧
    ((s.port port.val).disable = false ∧ bitOf s.pkg.pwr.domOn (18 + port.val / 16) = true ∧
      (isEdge port.val && fld (s.port port.val).ep 1 0 == 0) = false)) ∧
  (∃ (s : State) (port : Fin 32),
    ((s.port port.val).st ≠ .down ∨ s.now < (s.port port.val).downT + 100000000)) ∧
  (∃ (s : State) (port : Fin 32) (fn : Fin 64),
    (ownerFn s fn.val = true) ∧ ((s.port port.val).retry = [] ∨ (s.port port.val).st ≠ .up)) :=
  ⟨⟨W.prt { st := .ident }, 0, 0, 2, 0, 0, 0, by decide +kernel⟩,
   ⟨{ W.h1 with fab.node := 0, fab.ports := [(14, { st := .ident, ep := 1 })] }, 14, 1, by decide +kernel⟩,
   ⟨{ W.prt {} with now := 100000000 }, 0, by decide +kernel⟩,
   ⟨W.fabS, 0, by decide +kernel⟩,
   ⟨W.fabS, 0, 0, by decide +kernel⟩⟩
theorem wit_LinksCarryFramesAndTrain_5 :
  (∃ (s : State) (port : Fin 32) (fn : Fin 64),
    (ownerFn s fn.val = true) ∧ ((s.port port.val).st = .disabled) ∧
    (bitOf s.pkg.pwr.domOn (18 + port.val / 16) = true ∧
      (isEdge port.val && fld (s.port port.val).ep 1 0 == 0) = false)) ∧
  (∃ (s : State) (port : Fin 32) (fn : Fin 64) (v : Bool),
    (ownerFn s fn.val = false)) ∧
  (∃ (s : State) (port : Fin 32) (fn : Fin 64),
    (ownerFn s fn.val = true) ∧ ((s.port port.val).st ≠ .up) ∧
    ((s.port port.val).disable = false ∧ bitOf s.pkg.pwr.domOn (18 + port.val / 16) = true ∧
      (isEdge port.val && fld (s.port port.val).ep 1 0 == 0) = false)) ∧
  (∃ (s : State) (pos port : Nat),
    (s.fab.node < 64) ∧ (s.fab.lastLstate + 10000000 ≤ s.now) ∧
    (pos ∈ rowPeers s.fab.node ++ colPeers s.fab.node) ∧ (oneWay s pos port)) :=
  ⟨⟨W.prt { st := .disabled, disable := true }, 0, 0, by decide +kernel⟩,
   ⟨W.h1, 0, 32, true, by decide +kernel⟩,
   ⟨W.prt { lost := 1 }, 0, 0, by decide +kernel⟩,
   ⟨{ W.fabS with now := 10000000 }, 1, 0, by decide +kernel⟩⟩

theorem wit_PacketsReadAndWriteTheHome_1 :
  (∃ (s : State) (port : Fin 32) (p : Packet) (a po : Nat),
    (arrives s port.val 0x01 p) ∧ (sizeOk p.addr p.len = true) ∧ (windowOf p.addr = .tier a) ∧
    (fabTierCheck s p.part a = none) ∧ (homed s (a / 65536)) ∧ (fld (s.adm p.part).reg 47 32 = 0) ∧
    (s.err.inj = [] ∧ s.err.repairing = [] ∧ s.tier.stubs = []) ∧
    (intervalPoisoned s (a / 65536) (a % 65536) p.len = false) ∧
    (oneWay s p.src po ∧ p.src < 64 ∧ p.src ≠ s.fab.node)) ∧
  (∃ (s : State) (port : Fin 32) (p : Packet) (a po : Nat),
    (arrives s port.val 0x06 p) ∧ (sizeOk p.addr p.len = true) ∧ (windowOf p.addr = .tier a) ∧
    (fabTierCheck s p.part a = none) ∧ (homed s (a / 65536)) ∧ (fld (s.adm p.part).reg 47 32 = 0) ∧
    (s.err.inj = [] ∧ s.err.repairing = [] ∧ s.tier.stubs = []) ∧
    (intervalPoisoned s (a / 65536) (a % 65536) p.len = false) ∧
    (oneWay s p.src po ∧ p.src < 64 ∧ p.src ≠ s.fab.node)) ∧
  (∃ (s : State) (port : Fin 32) (p : Packet) (a po : Nat),
    (arrives s port.val 0x02 p) ∧ (sizeOk p.addr p.payload.length = true) ∧ (windowOf p.addr = .tier a) ∧
    (fabTierCheck s p.part a = none) ∧ (homed s (a / 65536)) ∧ (fld (s.adm p.part).reg 47 32 = 0) ∧
    (s.err.inj = [] ∧ s.err.repairing = [] ∧ s.tier.stubs = []) ∧ (memWf s.tier.mem = true) ∧
    (oneWay s p.src po ∧ p.src < 64 ∧ p.src ≠ s.fab.node)) ∧
  (∃ (s : State) (port : Fin 32) (p : Packet) (a po : Nat),
    (arrives s port.val 0x05 p) ∧ (sizeOk p.addr p.payload.length = true) ∧ (windowOf p.addr = .tier a) ∧
    (fabTierCheck s p.part a = none) ∧ (homed s (a / 65536)) ∧ (fld (s.adm p.part).reg 47 32 = 0) ∧
    (s.err.inj = [] ∧ s.err.repairing = [] ∧ s.tier.stubs = []) ∧ (memWf s.tier.mem = true) ∧
    (oneWay s p.src po ∧ p.src < 64 ∧ p.src ≠ s.fab.node)) ∧
  (∃ (s : State) (port : Fin 32) (p : Packet) (a po : Nat),
    (arrives s port.val 0x03 p) ∧ (atomicOk p.aux p.addr = true) ∧ (windowOf p.addr = .tier a) ∧
    (fabTierCheck s p.part a = none) ∧ (homed s (a / 65536)) ∧ (fld (s.adm p.part).reg 47 32 = 0) ∧
    (s.err.inj = [] ∧ s.err.repairing = [] ∧ s.tier.stubs = []) ∧
    (intervalPoisoned s (a / 65536) (a % 65536) (atomicWidth p.aux) = false) ∧ (memWf s.tier.mem = true) ∧
    (oneWay s p.src po ∧ p.src < 64 ∧ p.src ≠ s.fab.node)) :=
  ⟨⟨W.fabS, 0, W.pk 0x01 196608 4 [], 196608, 0, by decide +kernel⟩,
   ⟨W.fabS, 0, W.pk 0x06 196608 4 [], 196608, 0, by decide +kernel⟩,
   ⟨W.fabS, 0, W.pk 0x02 196608 4 [7, 7, 7, 7], 196608, 0, by decide +kernel⟩,
   ⟨W.fabS, 0, W.pk 0x05 196608 4 [7, 7, 7, 7], 196608, 0, by decide +kernel⟩,
   ⟨W.fabS, 0, W.pk 0x03 196608 16 (leBytes 8 5 ++ leBytes 8 0), 196608, 0, by decide +kernel⟩⟩
theorem wit_PacketsReadAndWriteTheHome_2 :
  (∃ (s : State) (port : Fin 32) (p : Packet) (f o k po : Nat),
    (arrives s port.val 0x02 p) ∧ (sizeOk p.addr p.payload.length = true) ∧ (windowOf p.addr = .lend f o) ∧
    (lentFrame s p.src f = some k) ∧ (memWf s.tier.lendMem = true) ∧
    (oneWay s p.src po ∧ p.src < 64 ∧ p.src ≠ s.fab.node)) ∧
  (∃ (s : State) (port : Fin 32) (p : Packet) (f o k po : Nat),
    (arrives s port.val 0x01 p) ∧ (sizeOk p.addr p.len = true) ∧ (windowOf p.addr = .lend f o) ∧
    (lentFrame s p.src f = some k) ∧ (s.tier.lendPois = []) ∧
    (oneWay s p.src po ∧ p.src < 64 ∧ p.src ≠ s.fab.node)) ∧
  (∃ (s : State) (port : Fin 32) (p : Packet) (po : Nat),
    (arrives s port.val 0x01 p) ∧ (sizeOk p.addr p.len = false ∨ windowOf p.addr = .none) ∧
    (oneWay s p.src po ∧ p.src < 64 ∧ p.src ≠ s.fab.node)) ∧
  (∃ (s : State) (port : Fin 32) (p : Packet) (a po : Nat),
    (arrives s port.val 0x02 p) ∧ (sizeOk p.addr p.payload.length = true) ∧ (windowOf p.addr = .tier a) ∧
    (s.fab.role ≠ 2 ∧ inPrange s p.part (a / 65536) 1 = false) ∧
    (oneWay s p.src po ∧ p.src < 64 ∧ p.src ≠ s.fab.node)) ∧
  (∃ (s : State) (port : Fin 32) (p : Packet) (po : Nat),
    (arrives s port.val 0x04 p) ∧ ((invalOnward s p) = ([], [])) ∧
    (oneWay s p.src po ∧ p.src < 64 ∧ p.src ≠ s.fab.node)) :=
  ⟨⟨W.lendS, 0, W.pk 0x02 (2 ^ 50 + 8) 4 [1, 2, 3, 4], 0, 8, 2097152, 0, by decide +kernel⟩,
   ⟨W.lendS, 0, W.pk 0x01 (2 ^ 50 + 8) 4 [], 0, 8, 2097152, 0, by decide +kernel⟩,
   ⟨W.fabS, 0, W.pk 0x01 196608 3 [], 0, by decide +kernel⟩,
   ⟨W.fabS, 0, W.pk 0x02 (2 ^ 40 + 2 ^ 39) 4 [7, 7, 7, 7], 2 ^ 40 + 2 ^ 39, 0, by decide +kernel⟩,
   ⟨W.fabS, 0, W.pk 0x04 (2 ^ 52) 0 [] 4, 0, by decide +kernel⟩⟩
theorem wit_PacketsReadAndWriteTheHome_3 :
  (∃ (s : State) (port : Fin 32) (p : Packet) (peers eps : List Nat),
    (arrives s port.val 0x04 p) ∧ ((invalOnward s p) = (peers, eps) ∧ peers ≠ []) ∧ (nodeOf p.src ≠ s.fab.node)) ∧
  (∃ (s : State) (port : Fin 32) (p : Packet),
    (portUp s port.val = true) ∧ (isEdge port.val = false) ∧
    (p.kind = 0x02 ∧ p.gen = s.mbr.gen ∧ p.dst = s.fab.node ∧ p.dst < 64) ∧
    (p.payload ≠ [] ∧ bseqDone (s.rxOf p.src) p.bseq = true)) ∧
  (∃ (s : State) (port : Fin 32) (p : Packet),
    (portUp s port.val = true) ∧ (isEdge port.val = false) ∧
    (p.kind = 0x15 ∧ p.gen = s.mbr.gen ∧ p.dst = s.fab.node ∧ p.dst < 64) ∧
    (p.payload = [] ∨ bseqDone (s.rxOf p.src) p.bseq = false) ∧
    (p.rcls = 1 ∧ seqBefore (s.rxOf p.src).fnext p.fseq = true ∧ earlyHeld s < 512)) ∧
  (∃ (s : State) (port : Fin 32) (p : Packet) (po : Nat),
    (portUp s port.val = true) ∧ (isEdge port.val = false) ∧ (p.kind = 0x02 ∧ p.gen < s.mbr.gen) ∧
    (oneWay s p.src po ∧ p.src < 64 ∧ p.src ≠ s.fab.node)) ∧
  (∃ (s : State) (port : Fin 32) (p : Packet),
    (portUp s port.val = true) ∧ (isEdge port.val = false) ∧ (p.kind = 0x02 ∧ s.mbr.gen < p.gen)) :=
  ⟨⟨{ W.fabS with mbr.members := 2 ^ 8 }, 0, W.pk 0x04 (2 ^ 52) 0 [] 4, [8], [], by decide +kernel⟩,
   ⟨W.fabS, 0, { W.pk 0x02 196608 4 [1, 2, 3, 4] with bseq := 0 }, by decide +kernel⟩,
   ⟨W.fabS, 0, { W.plP 0 with fseq := 3 }, by decide +kernel⟩,
   ⟨{ W.fabS with mbr.gen := 1 }, 0, W.pk 0x02 196608 4 [1, 2, 3, 4], 0, by decide +kernel⟩,
   ⟨W.fabS, 0, { W.pk 0x02 196608 4 [1, 2, 3, 4] with gen := 1 }, by decide +kernel⟩⟩

theorem wit_ResponsesEndRequests_1 :
  (∃ (s : State) (port : Fin 32) (p : Packet) (r : Req) (c : Nat),
    (arrives s port.val 0x22 p) ∧ (tget? s.fab.reqs p.tag = some r) ∧ (r.kind = 0x02 ∧ r.for_ = .store c) ∧
    (s.fab.flagWait = []) ∧ (p.status = 0)) ∧
  (∃ (s : State) (port : Fin 32) (p : Packet) (r : Req) (c : Nat),
    (arrives s port.val 0x25 p) ∧ (tget? s.fab.reqs p.tag = some r) ∧ (r.kind = 0x05 ∧ r.for_ = .store c) ∧
    (s.fab.flagWait = []) ∧ (p.status = 0)) ∧
  (∃ (s : State) (port : Fin 32) (p : Packet) (r : Req) (c j : Nat) (x : CopyJob),
    (arrives s port.val 0x21 p) ∧ (tget? s.fab.reqs p.tag = some r) ∧ (r.kind = 0x01 ∧ r.for_ = .copy c j) ∧
    (s.fab.flagWait = []) ∧ (p.status = 0 ∧ p.payload.length = r.len ∧ r.len ≤ 256) ∧
    (tget? (s.cl c).copies j = some x) ∧ (tabWf (s.cl c).scratch = true)) ∧
  (∃ (s : State) (port : Fin 32) (p : Packet) (r : Req) (c j : Nat) (x : CopyJob),
    (arrives s port.val 0x26 p) ∧ (tget? s.fab.reqs p.tag = some r) ∧ (r.kind = 0x06 ∧ r.for_ = .copy c j) ∧
    (s.fab.flagWait = []) ∧ (p.status = 0 ∧ p.payload.length = r.len ∧ r.len ≤ 256) ∧
    (tget? (s.cl c).copies j = some x) ∧ (tabWf (s.cl c).scratch = true)) ∧
  (∃ (s : State) (port : Fin 32) (p : Packet) (r : Req) (c off n : Nat),
    (arrives s port.val 0x23 p) ∧ (tget? s.fab.reqs p.tag = some r) ∧ (r.kind = 0x03 ∧ r.for_ = .vatom c off n) ∧
    (s.fab.flagWait = []) ∧ (p.status = 0 ∧ p.payload.length = n ∧ n ≤ 8) ∧ (tabWf (s.cl c).scratch = true) ∧
    (((s.cl c).unit 1).wait = UWait.resp p.tag) ∧
    (((s.cl c).word 1).map (fun v => (wSigen v, wLast v)) = some (false, false))) :=
  ⟨⟨W.rqS (W.rq 0x02 (.store 5)), 0, W.rsp 0x22 [], W.rq 0x02 (.store 5), 5, by decide +kernel⟩,
   ⟨W.rqS (W.rq 0x05 (.store 5)), 0, W.rsp 0x25 [], W.rq 0x05 (.store 5), 5, by decide +kernel⟩,
   ⟨W.rqS (W.rq 0x01 (.copy 5 0)), 0, W.rsp 0x21 [1, 2, 3, 4], W.rq 0x01 (.copy 5 0), 5, 0, { dst := 64, addr := 2 ^ 52, len := 4, actr := 0, left := 1 }, by decide +kernel⟩,
   ⟨W.rqS (W.rq 0x06 (.copy 5 0)), 0, W.rsp 0x26 [1, 2, 3, 4], W.rq 0x06 (.copy 5 0), 5, 0, { dst := 64, addr := 2 ^ 52, len := 4, actr := 0, left := 1 }, by decide +kernel⟩,
   ⟨W.rqS (W.rq 3 (.vatom 5 96 4)), 0, W.rsp 0x23 [1, 2, 3, 4], W.rq 3 (.vatom 5 96 4), 5, 96, 4, by decide +kernel⟩⟩
theorem wit_ResponsesEndRequests_2 :
  (∃ (s : State) (port : Fin 32) (p : Packet) (r : Req) (c : Nat),
    (arrives s port.val 0x24 p) ∧ (tget? s.fab.reqs p.tag = some r) ∧
    (r.kind = 0x04 ∧ r.for_ = .inval c ∧ r.waitEp = []) ∧ (s.fab.flagWait = []) ∧
    (ackedBy s true p.src r.waitPos = 0) ∧ (((s.cl c).unit 1).wait = UWait.resp p.tag) ∧
    (((s.cl c).word 1).isSome = true) ∧ (tabWf s.fab.reqs = true)) ∧
  (∃ (s : State) (port : Fin 32) (p : Packet) (r : Req),
    (arrives s port.val 0x24 p) ∧ (tget? s.fab.reqs p.tag = some r) ∧ (r.kind = 0x04) ∧
    (ackedBy s true p.src r.waitPos ≠ 0)) ∧
  (∃ (s : State) (port : Fin 32) (p : Packet) (r : InvalRelay) (po : Nat),
    (arrives s port.val 0x24 p) ∧ (tget? s.fab.reqs p.tag = none) ∧
    (s.fab.relays = [r] ∧ r.myTag = p.tag ∧ r.waitEp = []) ∧
    (ackedBy s (nodeOf r.src == s.fab.node) p.src r.waitPos = 0) ∧
    (oneWay s r.src po ∧ r.src < 64 ∧ r.src ≠ s.fab.node)) ∧
  (∃ (s : State) (port : Fin 32) (p : Packet) (r : Req) (c : Nat) (q : FlagWait) (po : Nat),
    (arrives s port.val 0x22 p) ∧ (tget? s.fab.reqs p.tag = some r) ∧ (r.kind = 0x02 ∧ r.for_ = .store c) ∧
    (p.status = 0) ∧
    (s.fab.flagWait = [q] ∧ q.awaits = [p.tag] ∧ q.bad = [] ∧ q.req.kind = 0x02 ∧ q.req.p.dst < 64) ∧
    (oneWay s q.req.p.dst po) ∧ (q.tag ≠ p.tag)) ∧
  (∃ (s : State) (port : Fin 32) (p : Packet),
    (arrives s port.val 0x21 p) ∧ (tget? s.fab.reqs p.tag = none)) :=
  ⟨⟨W.rqS (W.rq 4 (.inval 5)), 0, W.rsp 0x24 [], W.rq 4 (.inval 5), 5, by decide +kernel⟩,
   ⟨W.rqS { W.rq 4 (.inval 5) with waitPos := 6 }, 0, W.rsp 0x24 [], { W.rq 4 (.inval 5) with waitPos := 6 }, by decide +kernel⟩,
   ⟨{ W.fabS with fab.relays := [⟨1, 9, 77, 2, [], 0⟩] }, 0, W.rsp 0x24 [], ⟨1, 9, 77, 2, [], 0⟩, 0, by decide +kernel⟩,
   ⟨{ W.rqS (W.rq 2 (.store 5)) with fab.flagWait := [{ req := W.rq 2 (.store 5), tag := 78, awaits := [77] }] }, 0, W.rsp 0x22 [], W.rq 2 (.store 5), 5, { req := W.rq 2 (.store 5), tag := 78, awaits := [77] }, 0, by decide +kernel⟩,
   ⟨W.fabS, 0, W.rsp 0x21 [], by decide +kernel⟩⟩
theorem wit_ResponsesEndRequests_3 :
  (∃ (s : State) (port : Fin 32) (p : Packet),
    (arrives s port.val 0x22 p) ∧ (tget? s.fab.reqs p.tag = none)) ∧
  (∃ (s : State) (port : Fin 32) (p : Packet),
    (arrives s port.val 0x23 p) ∧ (tget? s.fab.reqs p.tag = none)) ∧
  (∃ (s : State) (port : Fin 32) (p : Packet),
    (arrives s port.val 0x24 p) ∧ (tget? s.fab.reqs p.tag = none ∧ s.fab.relays = [])) ∧
  (∃ (s : State) (port : Fin 32) (p : Packet),
    (arrives s port.val 0x25 p) ∧ (tget? s.fab.reqs p.tag = none)) ∧
  (∃ (s : State) (port : Fin 32) (p : Packet),
    (arrives s port.val 0x26 p) ∧ (tget? s.fab.reqs p.tag = none)) :=
  ⟨⟨W.fabS, 0, W.rsp 0x22 [], by decide +kernel⟩,
   ⟨W.fabS, 0, W.rsp 0x23 [], by decide +kernel⟩,
   ⟨W.fabS, 0, W.rsp 0x24 [], by decide +kernel⟩,
   ⟨W.fabS, 0, W.rsp 0x25 [], by decide +kernel⟩,
   ⟨W.fabS, 0, W.rsp 0x26 [], by decide +kernel⟩⟩
theorem wit_ResponsesEndRequests_4 :
  (∃ (s : State) (p : Packet) (via : Fin 64) (r : Req) (po : Nat),
    (p.src = s.fab.node) ∧ (tget? s.fab.reqs p.tag = some r ∧ r.kind = p.kind ∧ r.p.addr = p.addr) ∧
    (r.refused.length < 2) ∧ (nodeOf p.dst ≠ s.fab.node ∧ p.rcls = 1) ∧
    (routeCands s (nodeOf p.dst) (r.refused ++ [via.val]) = [po])) ∧
  (∃ (s : State) (p : Packet) (via : Fin 64) (r : Req) (c : Nat),
    (p.src = s.fab.node) ∧
    (tget? s.fab.reqs p.tag = some r ∧ r.kind = p.kind ∧ r.p.addr = p.addr ∧ r.for_ = .store c ∧ r.inv = none) ∧
    (r.refused.length = 2) ∧ (s.fab.flagWait = []) ∧ (tabWf s.fab.reqs = true)) ∧
  (∃ (s : State) (p : Packet) (via : Fin 64),
    (p.src ≠ s.fab.node)) :=
  ⟨⟨W.rqS (W.rq 2 (.store 5)), { kind := 2, dst := 1, src := 0, part := 0, addr := 2 ^ 52, tag := 77, rcls := 1 }, 8, W.rq 2 (.store 5), 0, by decide +kernel⟩,
   ⟨W.rqS { W.rq 2 (.store 5) with refused := [8, 9] }, { kind := 2, dst := 1, src := 0, part := 0, addr := 2 ^ 52, tag := 77 }, 8, { W.rq 2 (.store 5) with refused := [8, 9] }, 5, by decide +kernel⟩,
   ⟨W.fabS, W.pk 1 0 4 [], 8, by decide +kernel⟩⟩

theorem wit_FabricHoldsAndTimeoutsExpire_1 :
  (∃ (s : State) (src : Fin 4096) (b po : Nat) (a : Assembly),
    (tget? s.fab.asm (asmKey src.val b) = some a) ∧ (a.t + fld s.fab.cfg 51 42 * 1000 ≤ s.now) ∧
    (a.p.kind = 0x02 ∧ a.p.rcls = 0 ∧ a.p.dst = s.fab.node) ∧
    (oneWay s a.p.src po ∧ a.p.src < 64 ∧ a.p.src ≠ s.fab.node)) ∧
  (∃ (s : State) (src : Fin 4096) (b : Nat),
    ((tget? s.fab.asm (asmKey src.val b)).all (fun (a : Assembly) => decide
        (s.now < a.t + fld s.fab.cfg 51 42 * 1000)) = true)) ∧
  (∃ (s : State) (i : Nat) (h : HeldPkt),
    (tget? s.fab.genHold i = some h) ∧ (h.t + fld s.fab.cfg 31 24 * 10000 ≤ s.now)) ∧
  (∃ (s : State) (i : Nat),
    ((tget? s.fab.genHold i).all (fun (h : HeldPkt) => decide (s.now < h.t + fld s.fab.cfg 31 24 * 10000)) = true)) ∧
  (∃ (s : State) (tag : Fin 65536) (r : Req) (c : Nat),
    (tget? s.fab.reqs tag.val = some r) ∧
    ((r.kind = 0x05 ∨ r.kind = 0x06) ∧ inDomainNum (r.addr / 2 ^ 52) = false) ∧
    (r.t + fld s.fab.cfg 23 16 * 1000000 ≤ s.now) ∧ (r.for_ = .store c ∧ r.inv = none) ∧ (s.fab.flagWait = [])) :=
  ⟨⟨{ W.fabS with fab.asm := [(asmKey 1 1, { p := W.pk 2 0 4 [], t := 0 })], now := 50000 }, 1, 1, 0, { p := W.pk 2 0 4 [], t := 0 }, by decide +kernel⟩,
   ⟨W.fabS, 1, 1, by decide +kernel⟩,
   ⟨{ W.fabS with fab.genHold := [(3, ⟨0, W.pk 2 0 4 [], 0⟩)], now := 200000 }, 3, ⟨0, W.pk 2 0 4 [], 0⟩, by decide +kernel⟩,
   ⟨W.fabS, 1, by decide +kernel⟩,
   ⟨{ W.rqS { W.rq 5 (.store 5) with addr := 0x140 * 2 ^ 52 } with now := 10000000 }, 77, { W.rq 5 (.store 5) with addr := 0x140 * 2 ^ 52 }, 5, by decide +kernel⟩⟩
theorem wit_FabricHoldsAndTimeoutsExpire_2 :
  (∃ (s : State) (tag : Fin 65536),
    ((tget? s.fab.reqs tag.val).all (fun (r : Req) => inDomainNum (r.addr / 2 ^ 52) || decide
        (s.now < r.t + fld s.fab.cfg 23 16 * 1000000)) = true)) ∧
  (∃ (s : State) (tag : Fin 65536) (r : Req) (c : Nat),
    (tget? s.fab.reqs tag.val = some r) ∧ (r.kind = 0x04 ∧ r.for_ = .inval c ∧ r.inv = none) ∧
    (r.t + fld s.fab.cfg 41 32 * 1000 ≤ s.now) ∧ (s.fab.flagWait = []) ∧
    (((s.cl c).unit 1).wait = UWait.resp tag.val) ∧ (((s.cl c).word 1).isSome = true)) ∧
  (∃ (s : State) (tag : Fin 65536),
    ((tget? s.fab.reqs tag.val).all (fun (r : Req) => r.kind != 0x04 || decide
        (s.now < r.t + fld s.fab.cfg 41 32 * 1000)) = true)) ∧
  (∃ (s : State) (port : Fin 32) (p : Packet) (epoch stamp step_ : Nat),
    (arrives s port.val 0x14 p) ∧ (s.fab.role = 0) ∧
    (let d := patch (slice p.payload 0 128) 0x10 (leBytes 8 epoch)
     queryReasons s p.part (patch d 8 (leBytes 8 0)) % 2 ^ 13 &&& (rsFormat + rsName + rsQuiesce) = 0) ∧
    (s.epo.oldest ≤ epoch)) ∧
  (∃ (s : State) (port : Fin 32) (p : Packet) (epoch stamp step_ po : Nat),
    (arrives s port.val 0x14 p) ∧ (s.fab.role ≠ 0) ∧ (oneWay s p.src po ∧ p.src < 64 ∧ p.src ≠ s.fab.node)) :=
  ⟨⟨W.rqS (W.rq 5 (.store 5)), 77, by decide +kernel⟩,
   ⟨{ W.rqS (W.rq 4 (.inval 5)) with now := 100000 }, 77, W.rq 4 (.inval 5), 5, by decide +kernel⟩,
   ⟨W.rqS (W.rq 5 (.store 5)), 77, by decide +kernel⟩,
   ⟨W.qfS, 0, W.qfP, 0, 8191000, 4, by decide +kernel⟩,
   ⟨{ W.qfS with fab.role := 1 }, 0, W.qfP, 0, 8191000, 4, 0, by decide +kernel⟩⟩
theorem wit_FabricHoldsAndTimeoutsExpire_3 :
  (∃ (s : State) (port : Fin 32) (p : Packet) (ans : Option RackMap) (key qid : Nat) (q : Query) (g : Coll),
    (arrives s port.val 0x3E p) ∧ (p.gen ≤ s.mbr.gen) ∧ (mergeOf s (p.addr % 2 ^ 52) = some (key, qid, q)) ∧
    (p.addr / 2 ^ 52 = p.src ∧ bitOf (mergeMask q.desc (ownShard s)) (shardOf s p.src) = true) ∧
    (tget? s.fab.colls key = some g ∧ g.qid = some qid ∧ g.own = none) ∧
    (bitOf g.missing (rankOf (mergeMask q.desc (ownShard s)) (shardOf s p.src)) = true)) ∧
  (∃ (s : State) (port : Fin 32) (p : Packet),
    (arrives s port.val 0x3E p) ∧ (s.mbr.gen < p.gen)) :=
  ⟨⟨W.rejS, 0, { W.rsp 0x3E [] with addr := 2 ^ 52 + 9 }, none, 2, 2, W.rejQ, { qid := some 2, n := 9, mask := 2, closeT := 9000000 }, by decide +kernel⟩,
   ⟨W.fabS, 0, { W.rsp 0x3E [] with gen := 4 }, by decide +kernel⟩⟩

theorem wit_FlashCommandsReadWriteAndDiscard_1 :
  (∃ (s : State) (cid a n : Nat) (c : Cmd),
    (cmdOf s cid 0x30 = some c) ∧ (ringReady s c ∧ tget? s.host.cmds cid = some c) ∧
    (flashCmdCheck s c true = (0, a, n)) ∧ (fld (s.adm c.part).reg 31 16 = 0) ∧
    (∀ i < n / 4096, (s.mapOf ((a / 4096 + i) / 8)).st ≠ .mapped ∧ tget? s.flash.pois (a / 4096 + i) = none) ∧
    (tget? s.flash.jobs (cid * 3) = none)) ∧
  (∃ (s : State) (cid a : Nat) (c : Cmd),
    (cmdOf s cid 0x30 = some c) ∧ (flashCmdCheck s c true = (0, a, 4096)) ∧ (fld (s.adm c.part).reg 31 16 = 0) ∧
    ((s.mapOf (a / 32768)).st = .mapped) ∧
    (let x := s.die (s.mapOf (a / 32768)).at_.die; x.st ≠ .absent ∧ x.op = none ∧ x.queue = [] ∧ x.paused = [])) ∧
  (∃ (s : State) (cid aux a n : Nat) (c : Cmd),
    (cmdOf s cid 0x30 = some c) ∧ (flashCmdCheck s c true = (aux, a, n) ∧ aux ≠ 0) ∧ (s.flash.notOpen = false)) ∧
  (∃ (s : State) (die : Fin 1024) (r : DieReq) (u cw cid : Nat) (c : Cmd) (j : FlJob),
    ((s.die die.val).op = some r ∧ r.work = .read u cw (.cmd cid)) ∧ (r.step = 0) ∧
    (tget? s.flash.jobs (cid * 3) = some j ∧ j.left = 1 ∧ j.poison = false) ∧
    (u * 8 + cw = getLE c.bytes 0x10 8 / 4096 ∧ getLE c.bytes 0x18 4 = 4096 ∧ getLE c.bytes 0x10 8 % 4096 = 0) ∧
    (ringReady s c ∧ tget? s.host.cmds cid = some c) ∧ (s.err.inj = []) ∧
    (tget? s.flash.pois (u * 8 + cw) = none ∧ cwDiscarded s (u * 8 + cw) = false) ∧ (0 < fld s.flash.cfg 11 8)) ∧
  (∃ (s : State) (die : Fin 1024) (crc : Bool) (r : DieReq) (u cw cid : Nat),
    ((s.die die.val).op = some r ∧ r.work = .read u cw (.cmd cid)) ∧ (r.step < 9 ∧ r.cls ≠ 0) ∧ (s.err.inj = [])) :=
  ⟨⟨W.flS (W.flC 0x30 4096 8192) [(0, { st := .discarded })] W.die0, 7, 4096, 8192, W.flC 0x30 4096 8192, by decide +kernel⟩,
   ⟨W.flS (W.flC 0x30 4096 4096) [(0, W.mp)] W.die0, 7, 4096, W.flC 0x30 4096 4096, by decide +kernel⟩,
   ⟨W.flS (W.flC 0x30 (2 ^ 40) 4096) [] W.die0, 7, 16, 2 ^ 40, 4096, W.flC 0x30 (2 ^ 40) 4096, by decide +kernel⟩,
   ⟨W.flJ (W.rdOp 0 (.cmd 7)) (W.flC 0x30 0 4096), 0, W.rdOp 0 (.cmd 7), 0, 0, 7, W.runC (W.flC 0x30 0 4096), { left := 1 }, by decide +kernel⟩,
   ⟨W.flJ (W.rdOp 3 (.cmd 7)) (W.flC 0x30 0 4096), 0, true, W.rdOp 3 (.cmd 7), 0, 0, 7, by decide +kernel⟩⟩
theorem wit_FlashCommandsReadWriteAndDiscard_2 :
  (∃ (s : State) (die : Fin 1024) (crc : Bool) (r : DieReq) (u cw cid : Nat),
    ((s.die die.val).op = some r ∧ r.work = .read u cw (.cmd cid)) ∧ (r.step = 9) ∧ (s.err.inj = []) ∧
    ((s.mapOf u).at_.die = die.val) ∧ (((s.die die.val).block (s.mapOf u).at_.block).retired = false) ∧
    (2 ≤ ((tget? s.flash.jobs (cid * 3)).getD { left := 2 }).left)) ∧
  (∃ (s : State) (cid a : Nat) (c : Cmd) (bs : List Byte) (pu : PhysUnit) (s1 : State),
    (cmdOf s cid 0x31 = some c) ∧ (flashCmdCheck s c true = (0, a, 32768)) ∧
    (bs.length = 32768 ∧ a % 32768 = 0) ∧ ((s.mapOf (a / 32768)).st = .mapped ∨ spaceFor s 1 = true) ∧
    (unitBusy s (a / 32768) = false) ∧ (allocUnit s = some (pu, s1)) ∧
    ((s1.die pu.die).op = none ∧ (s1.die pu.die).queue = [] ∧ (s1.die pu.die).paused = [] ∧
      (s1.die pu.die).st ≠ .absent)) ∧
  (∃ (s : State) (cid a : Nat) (c : Cmd) (bs : List Byte),
    (cmdOf s cid 0x31 = some c) ∧ (flashCmdCheck s c true = (0, a, 4096)) ∧ (bs.length = 4096) ∧
    ((s.mapOf (a / 32768)).st = .mapped) ∧ (tget? s.flash.wbuf (a / 32768) = none)) ∧
  (∃ (s : State) (cid a n : Nat) (c : Cmd),
    (cmdOf s cid 0x31 = some c) ∧ (flashCmdCheck s c true = (0, a, n))) ∧
  (∃ (s : State) (u : Nat) (b : BufUnit) (pu : PhysUnit) (s1 : State),
    (tget? s.flash.wbuf u = some b) ∧ (b.t + 500000 ≤ s.now) ∧ (unitBusy s u = false) ∧
    (allocUnit { s with flash.wbuf := terase s.flash.wbuf u } = some (pu, s1)) ∧
    ((s1.die pu.die).op = none ∧ (s1.die pu.die).queue = [] ∧ (s1.die pu.die).paused = [] ∧
      (s1.die pu.die).st ≠ .absent)) :=
  ⟨⟨{ W.flJ (W.rdOp 9 (.cmd 7)) (W.flC 0x30 0 4096) with flash.jobs := [(21, { left := 3 })] }, 0, true, W.rdOp 9 (.cmd 7), 0, 0, 7, by decide +kernel⟩,
   ⟨W.flS (W.flC 0x31 0 32768) [] W.die0, 7, 0, W.flC 0x31 0 32768, List.replicate 32768 1, ((allocUnit (W.flS (W.flC 0x31 0 32768) [] W.die0)).getD (⟨0, 0, 0⟩, W.h1)).1, ((allocUnit (W.flS (W.flC 0x31 0 32768) [] W.die0)).getD (⟨0, 0, 0⟩, W.h1)).2, by decide +kernel⟩,
   ⟨W.flS (W.flC 0x31 4096 4096) [(0, W.mp)] W.die0, 7, 4096, W.flC 0x31 4096 4096, List.replicate 4096 1, by decide +kernel⟩,
   ⟨W.flS (W.flC 0x31 4096 4096) [(0, W.mp)] W.die0, 7, 4096, 4096, W.flC 0x31 4096 4096, by decide +kernel⟩,
   ⟨W.wbS, 0, W.wbU, ((allocUnit { W.wbS with flash.wbuf := [] }).getD (⟨0, 0, 0⟩, W.h1)).1, ((allocUnit { W.wbS with flash.wbuf := [] }).getD (⟨0, 0, 0⟩, W.h1)).2, by decide +kernel⟩⟩
theorem wit_FlashCommandsReadWriteAndDiscard_3 :
  (∃ (s : State) (u : Nat),
    ((tget? s.flash.wbuf u).all (fun (b : BufUnit) => decide (s.now < b.t + 500000)) = true)) ∧
  (∃ (s : State) (die : Fin 1024) (r : DieReq) (u cid off : Nat) (bs : List Byte) (pu : PhysUnit) (old : MapEnt) (c : Cmd) (j : FlJob),
    ((s.die die.val).op = some r ∧ r.work = .program u [(off, bs)] [] pu (.write [cid]) old) ∧
    (tget? s.flash.jobs (cid * 3) = some j ∧ j.left = 1) ∧ (ringReady s c ∧ tget? s.host.cmds cid = some c) ∧
    (s.flash.waiting = [] ∧ s.flash.slots = []) ∧ ((s.mapOf u).st ≠ .discarded) ∧ (memWf s.flash.mem = true) ∧
    ((s.die die.val).st = .inService ∧ (s.die die.val).emptying = [] ∧
      liveBlocks (s.die die.val) ≤ freeBlocks (s.die die.val) * 50) ∧
    ((s.die (s.mapOf u).at_.die).st = .inService ∧ (s.die (s.mapOf u).at_.die).emptying = [])) ∧
  (∃ (s : State) (die : Fin 1024) (r : DieReq) (u : Nat) (parts : List (Nat × List Byte)) (ds cids : List Nat) (pu : PhysUnit) (old : MapEnt),
    ((s.die die.val).op = some r ∧ r.work = .program u parts ds pu (.write cids) old ∧ pu.die = die.val) ∧
    (((s.die die.val).block pu.block).retired = false)) ∧
  (∃ (s : State) (cid a : Nat) (c : Cmd),
    (cmdOf s cid 0x32 = some c) ∧ (ringReady s c ∧ tget? s.host.cmds cid = some c) ∧
    (flashCmdCheck s c false = (0, a, 32768)) ∧ (a % 32768 = 0) ∧
    (memWf s.flash.mem = true ∧ tget? s.flash.wbuf (a / 32768) = none)) ∧
  (∃ (s : State) (cid a : Nat) (c : Cmd),
    (cmdOf s cid 0x32 = some c) ∧ (flashCmdCheck s c false = (0, a, 4096)) ∧
    ((s.mapOf (a / 32768)).st = .mapped ∧ tget? s.flash.wbuf (a / 32768) = none)) :=
  ⟨⟨W.h1, 3, by decide +kernel⟩,
   ⟨W.flJ (W.prOp [(4096, [1, 2])]) (W.flC 0x31 0 32768), 0, W.prOp [(4096, [1, 2])], 0, 7, 4096, [1, 2], ⟨0, 1, 2⟩, {}, W.runC (W.flC 0x31 0 32768), { left := 1 }, by decide +kernel⟩,
   ⟨W.flJ (W.prOp [(4096, [1, 2])]) (W.flC 0x31 0 32768), 0, W.prOp [(4096, [1, 2])], 0, [(4096, [1, 2])], [], [7], ⟨0, 1, 2⟩, {}, by decide +kernel⟩,
   ⟨W.flS (W.flD 0 32768) [(0, W.mp)] W.die0, 7, 0, W.flD 0 32768, by decide +kernel⟩,
   ⟨W.flS (W.flD 4096 4096) [(0, W.mp)] W.die0, 7, 4096, W.flD 4096 4096, by decide +kernel⟩⟩
theorem wit_FlashCommandsReadWriteAndDiscard_4 :
  (∃ (s : State) (die : Fin 1024) (i : Nat) (r : DieReq) (l1 l2 : List DieReq),
    ((s.die die.val).queue = l1 ++ r :: l2) ∧
    (r.id = i ∧ r.cls = 0 ∧ r.deadline.all (fun (d : Nat) => decide (d ≤ s.now)) = true ∧ r.deadline.isSome = true) ∧
    (∀ q ∈ l1 ++ l2, q.id ≠ i)) ∧
  (∃ (s : State) (die : Fin 1024) (i : Nat),
    (∀ r ∈ (s.die die.val).queue, r.id = i → r.cls ≠ 0 ∨ r.deadline.all (fun (d : Nat) => decide (s.now < d)) = true)) ∧
  (∃ (s : State) (die : Fin 1024) (r : DieReq) (l : List DieReq),
    ((s.die die.val).op = none ∧ (s.die die.val).st ≠ .absent ∧ (s.die die.val).paused = r :: l)) ∧
  (∃ (s : State) (die : Fin 1024) (r : DieReq),
    ((s.die die.val).op = none ∧ (s.die die.val).st ≠ .absent ∧ (s.die die.val).paused = [] ∧
      (s.die die.val).queue = [r]) ∧
    (r.cls < 4)) :=
  ⟨⟨W.flS (W.cmd 1 []) [] { W.die0 with queue := [{ W.rdOp 0 (.cmd 7) with cls := 0, deadline := some 5 }] }, 0, 3, { W.rdOp 0 (.cmd 7) with cls := 0, deadline := some 5 }, [], [], by decide +kernel⟩,
   ⟨W.h1, 0, 3, by decide +kernel⟩,
   ⟨W.flS (W.cmd 1 []) [] { W.die0 with paused := [W.rdOp 0 (.cmd 7)] }, 0, W.rdOp 0 (.cmd 7), [], by decide +kernel⟩,
   ⟨W.flS (W.cmd 1 []) [] { W.die0 with queue := [W.rdOp 0 (.cmd 7)] }, 0, W.rdOp 0 (.cmd 7), by decide +kernel⟩⟩

theorem wit_MediaAndModulesAreKept_1 :
  (∃ (s : State) (die : Fin 1024) (r : DieReq) (b : Nat),
    ((s.die die.val).op = some r ∧ r.work = .erase b) ∧ (s.flash.waiting = []) ∧
    (s.flash.dies = [(die.val, (s.die die.val))]) ∧ (∀ x ∈ (s.die die.val).blk, x.2.closed = false)) ∧
  (∃ (s : State) (die : Fin 1024) (r : DieReq) (b : Nat),
    ((s.die die.val).op = some r ∧ r.work = .erase b) ∧ (((s.die die.val).block b).retired = false)) ∧
  (∃ (s : State) (die : Fin 1024),
    ((s.die die.val).st ≠ .absent ∧ (s.die die.val).op.isSome = true) ∧
    (((s.die die.val).timeouts.filter (fun (x : Nat) => decide (s.now < x + 1000000000))).length < 2)) ∧
  (∃ (s : State) (die : Fin 1024),
    ((s.die die.val).st = .inService ∧ (s.die die.val).op.isSome = true) ∧
    (2 ≤ ((s.die die.val).timeouts.filter (fun (x : Nat) => decide (s.now < x + 1000000000))).length) ∧
    (unitsOfDie s die.val = [])) ∧
  (∃ (s : State) (die : Fin 1024) (w : Nat × Nat),
    ((s.die die.val).st ≠ .absent ∧ (s.die die.val).handed = []) ∧
    ((patrolList s die.val)[(s.die die.val).patrolNext]? = some w) ∧
    ((s.die die.val).op = none ∧ (s.die die.val).queue = [] ∧ (s.die die.val).paused = [])) :=
  ⟨⟨W.flS (W.cmd 1 []) [] { W.die0 with op := some { W.rdOp 0 (.cmd 7) with work := .erase 1 } }, 0, { W.rdOp 0 (.cmd 7) with work := .erase 1 }, 1, by decide +kernel⟩,
   ⟨W.flS (W.cmd 1 []) [] { W.die0 with op := some { W.rdOp 0 (.cmd 7) with work := .erase 1 } }, 0, { W.rdOp 0 (.cmd 7) with work := .erase 1 }, 1, by decide +kernel⟩,
   ⟨W.flS (W.cmd 1 []) [] { W.die0 with op := some (W.rdOp 0 (.cmd 7)) }, 0, by decide +kernel⟩,
   ⟨W.flS (W.cmd 1 []) [] { W.die0 with op := some (W.rdOp 0 (.cmd 7)), timeouts := [8192000, 8192000] }, 0, by decide +kernel⟩,
   ⟨W.flS (W.cmd 1 []) [(0, W.mp)] W.die0, 0, (0, 0), by decide +kernel⟩⟩
theorem wit_MediaAndModulesAreKept_2 :
  (∃ (s : State) (die : Fin 1024) (w : Nat × Nat) (l : List (Nat × Nat)),
    ((s.die die.val).st ≠ .absent ∧ (s.die die.val).handed = w :: l) ∧
    ((s.die die.val).op = none ∧ (s.die die.val).queue = [] ∧ (s.die die.val).paused = [])) ∧
  (∃ (s : State),
    (s.flash.ckptT + fld s.flash.cfg 23 16 * 1000000000 ≤ s.now)) ∧
  (∃ (s : State),
    (s.now < s.flash.ckptT + fld s.flash.cfg 23 16 * 1000000000)) ∧
  (∃ (s : State),
    (s.flash.zqT + 1000000000 ≤ s.now)) ∧
  (∃ (s : State),
    (s.now < s.flash.zqT + 1000000000)) :=
  ⟨⟨W.flS (W.cmd 1 []) [(0, W.mp)] { W.die0 with handed := [(0, 5)] }, 0, (0, 5), [], by decide +kernel⟩,
   ⟨{ W.h1 with now := 30000000000 }, by decide +kernel⟩,
   ⟨W.h1, by decide +kernel⟩,
   ⟨{ W.h1 with now := 30000000000 }, by decide +kernel⟩,
   ⟨W.h1, by decide +kernel⟩⟩
theorem wit_MediaAndModulesAreKept_3 :
  (∃ (s : State) (fn : Fin 64) (x : Die),
    (ownerFn s fn.val = true) ∧
    (s.die (s.fn fn.val).dieLook = x ∧ x.st = .inService ∧ unitsOfDie s (s.fn fn.val).dieLook = [])) ∧
  (∃ (s : State) (fn : Fin 64),
    (ownerFn s fn.val = false)) ∧
  (∃ (s : State) (fn : Fin 64) (m : Fin 8),
    (ownerFn s fn.val = true) ∧ ((s.slot13 m.val).st = .online) ∧
    ((s.flash.map_.filter (fun (e : Nat × MapEnt) => e.2.st == .mapped)) = []) ∧
    (s.flash.slots = [(m.val, (s.slot13 m.val))])) ∧
  (∃ (s : State) (fn : Fin 64) (m : Fin 8),
    (ownerFn s fn.val = true) ∧ ((s.slot13 m.val).st = .online) ∧
    (sumOf ((s.flash.dies.filter (fun (kv : Nat × Die) => kv.1 / 128 != m.val && kv.2.st == .inService)).map
        (fun (kv : Nat × Die) => liveBlocks kv.2 * kv.2.pages)) * 98 < (s.flash.map_.filter
        (fun (e : Nat × MapEnt) => e.2.st == .mapped)).length * 100)) ∧
  (∃ (s : State) (m : Fin 8),
    ((s.slot13 m.val).present = false)) :=
  ⟨⟨W.flS (W.cmd 1 []) [] W.die0, 0, W.die0, by decide +kernel⟩,
   ⟨W.h1, 32, by decide +kernel⟩,
   ⟨{ W.slotS { st := .online, present := true, power := true } with flash.map_ := [] }, 0, 0, by decide +kernel⟩,
   ⟨W.slotS { st := .online, present := true, power := true }, 0, 0, by decide +kernel⟩,
   ⟨W.slotS {}, 0, by decide +kernel⟩⟩
theorem wit_MediaAndModulesAreKept_4 :
  (∃ (s : State) (m : Fin 8),
    ((s.slot13 m.val).present = true)) ∧
  (∃ (s : State) (m : Fin 8) (x : Nat),
    ((s.slot13 m.val).present = true ∧ (s.slot13 m.val).debounce = some x) ∧ (x + 100000000 ≤ s.now) ∧
    (slotDomain s m.val = true)) ∧
  (∃ (s : State) (m : Fin 8),
    ((s.slot13 m.val).debounce.all (fun (x : Nat) => decide (s.now < x + 100000000)) = true)) ∧
  (∃ (s : State) (m : Fin 8) (id : ModuleId),
    ((s.slot13 m.val).power = true ∧ (s.slot13 m.val).st = .absent ∧ (s.slot13 m.val).powerT + 20000000 ≤ s.now) ∧
    (moduleOk id = true) ∧ (s.flash.waiting = []) ∧ (∀ kv ∈ s.flash.dies, kv.1 / 128 ≠ m.val)) ∧
  (∃ (s : State) (m : Fin 8) (id : ModuleId),
    ((s.slot13 m.val).power = true ∧ (s.slot13 m.val).st = .absent ∧ (s.slot13 m.val).powerT + 20000000 ≤ s.now) ∧
    (moduleOk id = false)) :=
  ⟨⟨W.slotS { present := true }, 0, by decide +kernel⟩,
   ⟨W.slotS { present := true, debounce := some 0 }, 0, 0, by decide +kernel⟩,
   ⟨W.slotS { present := true }, 0, by decide +kernel⟩,
   ⟨{ W.slotS { present := true, power := true } with flash.dies := [] }, 0, W.modId, by decide +kernel⟩,
   ⟨W.slotS { present := true, power := true }, 0, { W.modId with present := false }, by decide +kernel⟩⟩
theorem wit_MediaAndModulesAreKept_5 :
  (∃ (s : State) (m : Fin 8) (u : Nat) (d : Die),
    ((s.slot13 m.val).present = true ∧ (s.slot13 m.val).st = .online) ∧
    (s.flash.map_ = [(u, ⟨.mapped, ⟨m.val * 128, 1, 2⟩⟩)]) ∧
    (s.flash.dies = [(m.val * 128, d)] ∧ d.queue = [] ∧ d.paused = [] ∧ d.op = none)) ∧
  (∃ (s : State) (m : Fin 8),
    ((s.slot13 m.val).present = false)) :=
  ⟨⟨{ W.slotS { st := .online, present := true, power := true } with flash.map_ := [(0, ⟨.mapped, ⟨0, 1, 2⟩⟩)] }, 0, 0, W.die0, by decide +kernel⟩,
   ⟨W.slotS {}, 0, by decide +kernel⟩⟩

theorem wit_FencedClustersAreTakenOver_1 :
  (∃ (s : State) (c : Fin 128) (u : Fin 4) (cause : Fin 256) (k i cid : Nat) (v : Inv) (cm : Cmd),
    (cause.val ≠ 1 ∧ cause.val ≠ 9) ∧
    (tget? s.work.phys (s.cl c.val).phys = some PhysState.active ∧ (s.cl c.val).st ≠ .unavailable ∧
      (s.cl c.val).phys / 17 = c.val / 16) ∧
    (s.work.clusters = [(c.val, (s.cl c.val))]) ∧
    (s.work.queries = [] ∧ s.work.kne = [] ∧ s.work.kneWait = [] ∧ s.fab.reqs = []) ∧
    (spareOf s (c.val / 16) = some k ∧ k ≠ (s.cl c.val).phys) ∧
    (s.work.invs = [(i, v)] ∧ v.left.contains c.val = true ∧ v.qid = none ∧ v.cid = some cid ∧
      tget? s.host.cmds cid = some cm) ∧
    (ringReady s cm)) ∧
  (∃ (s : State) (c : Fin 128) (u : Fin 4) (cause : Fin 256) (k : Nat),
    (cause.val = 1 ∨ cause.val = 9) ∧
    (tget? s.work.phys (s.cl c.val).phys = some PhysState.active ∧ (s.cl c.val).st ≠ .unavailable ∧
      (s.cl c.val).phys / 17 = c.val / 16) ∧
    (s.work.clusters = [(c.val, (s.cl c.val))]) ∧
    (s.work.queries = [] ∧ s.work.kne = [] ∧ s.work.kneWait = [] ∧ s.fab.reqs = []) ∧ (s.work.invs = []) ∧
    (spareOf s (c.val / 16) = some k ∧ k ≠ (s.cl c.val).phys) ∧
    (mergeInto s cause.val (c.val) 3 = none ∧ s.pkg.sec.parts = [] ∧ s.err.inj = [])) ∧
  (∃ (s : State) (c : Fin 128) (u : Fin 4) (cause : Fin 256) (slot : Nat),
    (cause.val ≠ 1 ∧ cause.val ≠ 9) ∧ ((s.cl c.val).plan = some slot ∧ (tget? s.work.plans slot).isSome = true) ∧
    (tget? s.work.phys (s.cl c.val).phys = some PhysState.active ∧ (s.cl c.val).st ≠ .unavailable ∧
      (s.cl c.val).phys / 17 = c.val / 16) ∧
    (s.work.clusters = [(c.val, (s.cl c.val))]) ∧
    (s.work.queries = [] ∧ s.work.kne = [] ∧ s.work.kneWait = [] ∧ s.fab.reqs = []) ∧ (s.work.invs = []) ∧
    (spareOf s (c.val / 16) = none)) ∧
  (∃ (s : State) (c : Fin 128) (u : Fin 4) (k : Nat),
    (hasWork (s.cl c.val) u.val = true) ∧
    (tget? s.work.phys (s.cl c.val).phys = some PhysState.active ∧ (s.cl c.val).st ≠ .unavailable ∧
      (s.cl c.val).phys / 17 = c.val / 16) ∧
    (s.work.clusters = [(c.val, (s.cl c.val))]) ∧
    (s.work.queries = [] ∧ s.work.kne = [] ∧ s.work.kneWait = [] ∧ s.fab.reqs = []) ∧ (s.work.invs = []) ∧
    (spareOf s (c.val / 16) = some k ∧ k ≠ (s.cl c.val).phys) ∧
    (mergeInto s 11 (c.val + u.val * 2 ^ 7) 3 = none ∧ s.pkg.sec.parts = [] ∧ s.err.inj = [])) ∧
  (∃ (s : State) (c : Fin 128) (u : Fin 4),
    (hasWork (s.cl c.val) u.val = false)) :=
  ⟨⟨W.fnS, 5, 1, 7, 16, 3, 7, { plan := 0, role := 5, part := 0, words := [], cid := some 7, state := .running, left := [5] }, W.cmd 0x12 [], by decide +kernel⟩,
   ⟨{ W.fnS with work.invs := [] }, 5, 1, 9, 16, by decide +kernel⟩,
   ⟨{ W.fnS with work.invs := [], work.phys := [(5, .active)] }, 5, 1, 7, 0, by decide +kernel⟩,
   ⟨{ W.fnS with work.invs := [] }, 5, 1, 16, by decide +kernel⟩,
   ⟨W.h1, 5, 1, by decide +kernel⟩⟩
theorem wit_FencedClustersAreTakenOver_2 :
  (∃ (s : State) (fn : Fin 64) (region : Fin 8) (phys : Fin 32) (c : Fin 128) (k : Nat),
    (ownerFn s fn.val = true) ∧
    (phys.val < 17 ∧ region.val = c.val / 16 ∧ (s.cl c.val).phys = region.val * 17 + phys.val) ∧
    (tget? s.work.phys (s.cl c.val).phys = some PhysState.active ∧ (s.cl c.val).st ≠ .unavailable ∧
      (s.cl c.val).phys / 17 = c.val / 16) ∧
    (s.work.clusters = [(c.val, (s.cl c.val))]) ∧
    (s.work.queries = [] ∧ s.work.kne = [] ∧ s.work.kneWait = [] ∧ s.fab.reqs = []) ∧ (s.work.invs = []) ∧
    (spareOf s (c.val / 16) = some k ∧ k ≠ (s.cl c.val).phys)) ∧
  (∃ (s : State) (fn : Fin 64) (region : Fin 8) (phys : Fin 32),
    (ownerFn s fn.val = true) ∧
    (17 ≤ phys.val ∨ tget? s.work.phys (region.val * 17 + phys.val) = some PhysState.fenced)) ∧
  (∃ (s : State) (fn : Fin 64) (region : Fin 8) (phys : Fin 32),
    (ownerFn s fn.val = false)) ∧
  (∃ (s : State) (c : Fin 128),
    ((s.cl c.val).st = .clearing)) ∧
  (∃ (s : State) (c : Fin 128),
    ((s.cl c.val).st ≠ .clearing)) :=
  ⟨⟨{ W.fnS with work.invs := [] }, 0, 0, 5, 5, 16, by decide +kernel⟩,
   ⟨W.h1, 0, 0, 20, by decide +kernel⟩,
   ⟨W.h1, 32, 0, 5, by decide +kernel⟩,
   ⟨W.fnS.setCl 5 { W.fnS.cl 5 with st := .clearing }, 5, by decide +kernel⟩,
   ⟨W.h1, 5, by decide +kernel⟩⟩
theorem wit_FencedClustersAreTakenOver_3 :
  (∃ (s : State) (c : Fin 128) (i : Nat),
    ((s.cl c.val).st = .loading ∧ (s.cl c.val).plan = some i) ∧ ((tgetD s.work.plans i {}).state ≠ .loading)) ∧
  (∃ (s : State) (c : Fin 128) (i : Nat),
    ((s.cl c.val).st = .loading ∧ (s.cl c.val).plan = some i) ∧ ((tgetD s.work.plans i {}).state ≠ .loading)) :=
  ⟨⟨W.fnS.setCl 5 { W.fnS.cl 5 with st := .loading }, 5, 0, by decide +kernel⟩,
   ⟨{ W.fnS.setCl 5 { W.fnS.cl 5 with st := .loading } with work.invs := [] }, 5, 0, by decide +kernel⟩⟩

theorem wit_ErrorsAreInjectedAndContained_1 :
  (∃ (s : State) (fn : Fin 64) (det : Fin 16) (w : W64) (ue : Bool),
    (ownerFn s fn.val = true) ∧ (1 ≤ det.val ∧ det.val ≤ 14) ∧ (injOk s det.val 0 (fld w 47 0) ue = true)) ∧
  (∃ (s : State) (fn : Fin 64) (det : Fin 16) (w : W64) (ue : Bool),
    (ownerFn s fn.val = true) ∧ (1 ≤ det.val ∧ det.val ≤ 14) ∧ (injOk s det.val 1 (fld w 47 0) ue = true)) ∧
  (∃ (s : State) (fn : Fin 64) (det : Fin 16) (w : W64) (ue : Bool),
    (ownerFn s fn.val = true) ∧ (1 ≤ det.val ∧ det.val ≤ 14) ∧ (injOk s det.val 2 (fld w 47 0) ue = true)) ∧
  (∃ (s : State) (fn : Fin 64) (det : Fin 16) (w : W64) (ue : Bool),
    (ownerFn s fn.val = true) ∧ (1 ≤ det.val ∧ det.val ≤ 14) ∧ (injOk s det.val 0 (fld w 47 0) ue = false)) ∧
  (∃ (s : State) (fn : Fin 64) (det : Fin 16) (w : W64) (ue : Bool),
    (ownerFn s fn.val = true) ∧ (1 ≤ det.val ∧ det.val ≤ 14) ∧ (injOk s det.val 1 (fld w 47 0) ue = false)) :=
  ⟨⟨W.h1, 0, 9, 5, true, by decide +kernel⟩,
   ⟨W.h1, 0, 9, 5, true, by decide +kernel⟩,
   ⟨W.h1, 0, 14, 0, true, by decide +kernel⟩,
   ⟨W.h1, 0, 14, 0, true, by decide +kernel⟩,
   ⟨W.h1, 0, 9, 200, true, by decide +kernel⟩⟩
theorem wit_ErrorsAreInjectedAndContained_2 :
  (∃ (s : State) (fn : Fin 64) (det : Fin 16) (w : W64) (ue : Bool),
    (ownerFn s fn.val = true) ∧ (1 ≤ det.val ∧ det.val ≤ 14) ∧ (injOk s det.val 2 (fld w 47 0) ue = false)) ∧
  (∃ (s : State) (fn : Fin 64) (det : Fin 16) (w : W64) (ue : Bool),
    (ownerFn s fn.val = false ∨ det.val = 0 ∨ det.val = 15)) ∧
  (∃ (s : State) (fn : Fin 64) (det : Fin 16),
    (ownerFn s fn.val = true) ∧ (1 ≤ det.val ∧ det.val ≤ 14)) ∧
  (∃ (s : State) (core : Fin 3),
    (tgetD s.err.cores core.val .healthy = .healthy) ∧
    (mergeInto s 12 (core.val) 8 = none ∧ s.pkg.sec.parts = [] ∧ s.err.inj = []) ∧ (s.mbr.leader ≥ 64)) ∧
  (∃ (s : State) (core : Fin 3) (ok : Bool),
    (tgetD s.err.cores core.val .healthy = .reset ∨ tgetD s.err.cores core.val .healthy = .selftest)) :=
  ⟨⟨W.h1, 0, 9, 200, true, by decide +kernel⟩,
   ⟨W.h1, 32, 9, 5, true, by decide +kernel⟩,
   ⟨W.h1, 0, 9, by decide +kernel⟩,
   ⟨W.h1, 0, by decide +kernel⟩,
   ⟨{ W.h1 with err.cores := [(1, .reset)] }, 1, true, by decide +kernel⟩⟩
theorem wit_ErrorsAreInjectedAndContained_3 :
  (∃ (s : State) (x : Nat),
    (s.err.noCoreT = some x ∧ x + 10000000 ≤ s.now ∧ anyCore s = false) ∧
    (s.pkg.pwr.inReset = false ∧ s.err.fault = false)) ∧
  (∃ (s : State),
    (s.err.noCoreT.all (fun (x : Nat) => decide (s.now < x + 10000000) || anyCore s) = true)) ∧
  (∃ (s : State) (b : Fin 128),
    (b.val < 5) ∧ (s.pkg.pwr.inReset = false ∧ s.err.fault = false) ∧
    (mergeInto s 10 (b.val) 10 = none ∧ s.pkg.sec.parts = [] ∧ s.err.inj = []) ∧ (s.mbr.leader ≥ 64)) ∧
  (∃ (s : State) (b : Fin 128),
    (0x20 ≤ b.val ∧ b.val < 0x40) ∧ ((s.port (b.val - 0x20)).st ≠ .up) ∧
    (mergeInto s 10 (b.val) 4 = none ∧ s.pkg.sec.parts = [] ∧ s.err.inj = []) ∧ (s.mbr.leader ≥ 64)) ∧
  (∃ (s : State) (b : Fin 128),
    (0x40 ≤ b.val ∧ b.val < 0x60) ∧ (∀ kv ∈ s.flash.dies, kv.1 / 32 ≠ b.val - 0x40) ∧
    (mergeInto s 10 (b.val) 5 = none ∧ s.pkg.sec.parts = [] ∧ s.err.inj = []) ∧ (s.mbr.leader ≥ 64)) :=
  ⟨⟨{ W.h1 with err.cores := [(0, .reset), (1, .failed), (2, .failed)], err.noCoreT := some 0, now := 10000000, pkg.pwr.inReset := false }, 0, by decide +kernel⟩,
   ⟨W.h1, by decide +kernel⟩,
   ⟨{ W.h1 with pkg.pwr.inReset := false }, 3, by decide +kernel⟩,
   ⟨W.h1, 0x21, by decide +kernel⟩,
   ⟨W.h1, 0x41, by decide +kernel⟩⟩
theorem wit_ErrorsAreInjectedAndContained_4 :
  (∃ (s : State) (b : Fin 128),
    (b.val = 0x60 ∨ b.val = 0x61) ∧ (mergeInto s 10 (b.val) 4 = none ∧ s.pkg.sec.parts = [] ∧ s.err.inj = []) ∧
    (s.mbr.leader ≥ 64)) ∧
  (∃ (s : State) (st : Fin 8) (row : Nat),
    ((tget? s.err.repairing (rowKey st.val row)).isSome = true) ∧
    (mergeInto s 6 (st.val + row * 16 * 8) 6 = none ∧ s.pkg.sec.parts = []) ∧ (s.mbr.leader ≥ 64)) ∧
  (∃ (s : State) (st : Fin 8) (row : Nat) (f : TFrame),
    ((tget? s.err.repairing (rowKey st.val row)).isSome = true) ∧
    (tget? s.tier.frames (st.val * 2 ^ 20 + row / 64) = some f) ∧
    (mergeInto s 6 (st.val + row * 16 * 8) 7 = none ∧ s.pkg.sec.parts = []) ∧ (s.mbr.leader ≥ 64)) ∧
  (∃ (s : State) (st : Fin 8) (row : Nat) (ok : Bool),
    ((tget? s.err.repairing (rowKey st.val row)) = none)) :=
  ⟨⟨W.h1, 0x60, by decide +kernel⟩,
   ⟨{ W.h1 with err.repairing := [(64, true)] }, 0, 64, by decide +kernel⟩,
   ⟨{ W.tierS with err.repairing := [(5, true)] }, 0, 5, { tile := 3 }, by decide +kernel⟩,
   ⟨W.h1, 0, 5, true, by decide +kernel⟩⟩

theorem wit_MapIsFormedAndCommitted_1 :
  (∃ (s : State) (pos : Fin 64) (msg : HelloMsg),
    (isMgr s = false ∨ helloOk s msg = false)) ∧
  (∃ (s : State) (pos : Fin 64) (msg : HelloMsg),
    (isMgr s = true) ∧ (helloOk s msg = true) ∧
    (s.mbr.leading = false ∨ (s.mbr.gen = 0 ∧ s.mbr.written = none ∧
        ((bitsSet 64 s.mbr.expect.toNat).all (fun p => (tget? (tput s.mbr.hellos pos.val (msg.identity.getD 0)) p).isSome))
          = false))) ∧
  (∃ (s : State) (pos : Fin 64) (msg : HelloMsg),
    (isMgr s = true) ∧ (helloOk s msg = true) ∧ (s.mbr.leading = true) ∧
    (s.mbr.gen = 0 ∧ s.mbr.written = none ∧ s.mbr.prop = none) ∧
    (((bitsSet 64 s.mbr.expect.toNat).all (fun p => (tget? (tput s.mbr.hellos pos.val (msg.identity.getD 0)) p).isSome))
      = true)) ∧
  (∃ (s : State) (pos : Fin 64) (msg : HelloMsg),
    (isMgr s = true) ∧ (helloOk s msg = true) ∧ (s.mbr.leading = true) ∧ (s.mbr.gen ≠ 0) ∧
    (bitOf (latestMap s).members pos.val = false)) ∧
  (∃ (s : State) (pos : Fin 64) (msg : HelloMsg),
    (isMgr s = true) ∧ (helloOk s msg = true) ∧ (s.mbr.leading = true) ∧ (s.mbr.gen ≠ 0) ∧
    (bitOf (latestMap s).members pos.val = true) ∧ (s.mbr.prop = none ∧ s.mbr.propQ = [])) :=
  ⟨⟨W.h1, 1, W.okHello, by decide +kernel⟩,
   ⟨W.ldS, 1, W.okHello, by decide +kernel⟩,
   ⟨{ W.ldS with mbr.hellos := [(0, 9)] }, 1, W.okHello, by decide +kernel⟩,
   ⟨W.ldM, 8, W.okHello, by decide +kernel⟩,
   ⟨W.ldM, 1, W.okHello, by decide +kernel⟩⟩
theorem wit_MapIsFormedAndCommitted_2 :
  (∃ (s : State) (p po : Nat),
    (s.mbr.st = .alone ∨ s.mbr.st = .pending ∨ s.mbr.st = .rejoinWait) ∧ (s.pkg.sec.recovered = true) ∧
    (silentNode s = false) ∧ (s.mbr.lastHello + 10000000 ≤ s.now) ∧ (isMgr s = false) ∧
    (s.mbr.mgrs = [p] ∧ p < 64) ∧ (oneWay s p po)) ∧
  (∃ (s : State),
    (s.mbr.st = .member ∨ s.mbr.st = .held ∨ s.now < s.mbr.lastHello + 10000000 ∨ s.pkg.sec.recovered = false)) ∧
  (∃ (s : State),
    (isMgr s = true) ∧ (s.mbr.leading = false) ∧ (silentNode s = false) ∧ (s.mbr.leaderT + 2000000 ≤ s.now) ∧
    (2 ≤ s.mbr.mgrs.length)) ∧
  (∃ (s : State),
    (isMgr s = false ∨ s.mbr.leading = true ∨ s.now < s.mbr.leaderT + 2000000)) ∧
  (∃ (s : State) (pos : Fin 64) (term po : Nat),
    (isMgr s = true) ∧ (s.mbr.mgrs.contains pos.val = true) ∧ (s.mbr.mterm < term) ∧ (oneWay s pos.val po)) :=
  ⟨⟨{ W.mgS with mbr.mgrs := [1] }, 1, 0, by decide +kernel⟩,
   ⟨W.memS, by decide +kernel⟩,
   ⟨W.mgS, by decide +kernel⟩,
   ⟨W.h1, by decide +kernel⟩,
   ⟨W.mgS, 1, 3, 0, by decide +kernel⟩⟩
theorem wit_MapIsFormedAndCommitted_3 :
  (∃ (s : State) (pos : Fin 64) (term : Nat),
    (isMgr s = false ∨ term < s.mbr.mterm ∨ (term = s.mbr.mterm ∧ s.mbr.votedFor.isSome = true ∧
        s.mbr.votedFor ≠ some pos.val))) ∧
  (∃ (s : State) (pos : Fin 64) (gen job : Nat),
    (s.mbr.leading = false ∧ s.mbr.votedFor = some s.fab.node ∧ s.mbr.mgrs.contains pos.val = true ∧
      s.mbr.votes.contains pos.val = false) ∧
    (2 * (s.mbr.votes.length + 1) ≤ s.mbr.mgrs.length)) ∧
  (∃ (s : State) (pos : Fin 64) (gen job : Nat),
    (s.mbr.leading = false ∧ s.mbr.votedFor = some s.fab.node ∧ s.mbr.mgrs.contains pos.val = true ∧
      s.mbr.votes.contains pos.val = false) ∧
    (s.mbr.mgrs.length < 2 * (s.mbr.votes.length + 1))) ∧
  (∃ (s : State) (pos : Fin 64) (term gen job : Nat),
    (s.mbr.leading = true ∨ term ≠ s.mbr.mterm ∨ s.mbr.votes.contains pos.val = true)) ∧
  (∃ (s : State) (pos : Fin 64) (term po : Nat) (m : RackMap),
    (isMgr s = true) ∧ (s.mbr.mgrs.contains pos.val = true) ∧ (s.mbr.mterm ≤ term) ∧ (oneWay s pos.val po)) :=
  ⟨⟨{ W.mgS with mbr.votedFor := some 8 }, 1, 0, by decide +kernel⟩,
   ⟨{ W.mgS with mbr.votedFor := some 0, mbr.votes := [0] }, 1, 0, 0, by decide +kernel⟩,
   ⟨{ W.mgS with mbr.votedFor := some 0, mbr.votes := [0, 8] }, 1, 0, 0, by decide +kernel⟩,
   ⟨W.ldS, 1, 2, 0, 0, by decide +kernel⟩,
   ⟨W.memS, 1, 2, 0, W.map1, by decide +kernel⟩⟩
theorem wit_MapIsFormedAndCommitted_4 :
  (∃ (s : State) (pos : Fin 64) (term : Nat) (m : RackMap),
    (isMgr s = false ∨ s.mbr.mgrs.contains pos.val = false ∨ term < s.mbr.mterm)) ∧
  (∃ (s : State) (pos : Fin 64) (p : Proposal),
    (s.mbr.prop = some p ∧ s.mbr.leading = true ∧ s.mbr.mgrs.contains pos.val = true ∧
      p.acks.contains pos.val = false) ∧
    (2 * (p.acks.length + 1) ≤ s.mbr.mgrs.length)) ∧
  (∃ (s : State) (pos : Fin 64) (m : RackMap) (acks : List Nat),
    (s.mbr.prop = some { map_ := m, acks := acks } ∧ s.mbr.propQ = [] ∧ s.mbr.leading = true ∧
      s.mbr.mgrs.contains pos.val = true ∧ acks.contains pos.val = false) ∧
    (s.mbr.mgrs.length < 2 * (acks.length + 1)) ∧ (s.mbr.gen < m.gen ∧ bitOf m.members s.fab.node = true) ∧
    (s.fab.ctlHold = [])) ∧
  (∃ (s : State) (pos : Fin 64) (term gen : Nat),
    (s.mbr.prop = none ∨ s.mbr.leading = false ∨ term ≠ s.mbr.mterm)) ∧
  (∃ (s : State) (pos : Fin 64) (m : RackMap),
    (s.mbr.mgrs.contains pos.val = true) ∧ (s.mbr.gen < m.gen ∧ bitOf m.members s.fab.node = true) ∧
    (s.fab.ctlHold = [])) :=
  ⟨⟨W.memS, 60, 2, W.map1, by decide +kernel⟩,
   ⟨{ W.ldM with mbr.prop := some { map_ := W.map1, acks := [0] } }, 1, { map_ := W.map1, acks := [0] }, by decide +kernel⟩,
   ⟨{ W.ldM with mbr.prop := some { map_ := W.map1, acks := [0, 8] } }, 1, W.map1, [0, 8], by decide +kernel⟩,
   ⟨W.ldM, 1, 2, 4, by decide +kernel⟩,
   ⟨W.memS, 1, W.map1, by decide +kernel⟩⟩
theorem wit_MapIsFormedAndCommitted_5 :
  (∃ (s : State) (pos : Fin 64) (m : RackMap),
    (s.mbr.mgrs.contains pos.val = true) ∧ (s.mbr.gen < m.gen ∧ bitOf m.members s.fab.node = false) ∧
    (s.mbr.st = .member ∨ s.mbr.st = .held)) ∧
  (∃ (s : State) (pos : Fin 64) (m : RackMap),
    (s.mbr.mgrs.contains pos.val = true) ∧ (m.gen ≤ s.mbr.gen)) ∧
  (∃ (s : State) (pos : Fin 64) (m : RackMap),
    (s.mbr.mgrs.contains pos.val = false)) ∧
  (∃ (s : State) (port : Fin 32) (p : Packet) (m : RackMap),
    (arrives s port.val 0x3E p) ∧ (s.mbr.gen < p.gen) ∧
    (s.mbr.gen < m.gen ∧ bitOf m.members s.fab.node = false) ∧ (s.mbr.st = .member ∨ s.mbr.st = .held)) ∧
  (∃ (s : State) (pos : Fin 64) (x : Nat) (msg : ReportMsg),
    (s.mbr.leading = true) ∧ (msg.silent = [x] ∧ msg.counts = [] ∧ msg.restart = none ∧ msg.rebuilt = none) ∧
    (bitOf (latestMap s).members x = true) ∧ (s.mbr.prop = none ∧ s.mbr.propQ = []) ∧
    (s.mbr.mgrs.length < 2 * ((tput s.mbr.silence (x * 64 + pos.val) true).filter (fun kv => kv.1 / 64 = x)).length)) :=
  ⟨⟨W.memS, 1, { W.map1 with members := 2 }, by decide +kernel⟩,
   ⟨W.memS, 1, { W.map1 with gen := 3 }, by decide +kernel⟩,
   ⟨W.memS, 60, W.map1, by decide +kernel⟩,
   ⟨W.memS, 0, { W.rsp 0x3E [] with gen := 4 }, { W.map1 with members := 2 }, by decide +kernel⟩,
   ⟨{ W.ldM with mbr.silence := [(64, true), (72, true)] }, 9, 1, { silent := [1], counts := [], records := [] }, by decide +kernel⟩⟩
theorem wit_MapIsFormedAndCommitted_6 :
  (∃ (s : State) (pos : Fin 64) (v : Nat) (msg : ReportMsg),
    (s.mbr.leading = true) ∧ (msg.silent = [] ∧ msg.counts = [] ∧ msg.restart = none ∧ msg.rebuilt = some v) ∧
    (s.mbr.prop = none ∧ s.mbr.propQ = [])) ∧
  (∃ (s : State) (pos : Fin 64) (e : Nat) (msg : ReportMsg),
    (s.mbr.leading = true) ∧ (msg.silent = [] ∧ msg.counts = [] ∧ msg.restart = some e ∧ msg.rebuilt = none) ∧
    (s.mbr.prop = none ∧ s.mbr.propQ = []) ∧ ((latestMap s).restart = none)) ∧
  (∃ (s : State) (pos : Fin 64) (msg : ReportMsg),
    (s.mbr.leading = false)) ∧
  (∃ (s : State),
    (s.mbr.leaderT + fld s.mbr.cfg 63 48 * 1000000000 ≤ s.now) ∧ (s.mbr.leading = true) ∧
    (s.mbr.gen = 0 ∧ s.mbr.written = none ∧ s.mbr.prop = none)) ∧
  (∃ (s : State),
    (s.now < s.mbr.leaderT + fld s.mbr.cfg 63 48 * 1000000000 ∨ s.mbr.leading = false ∨ s.mbr.gen ≠ 0)) :=
  ⟨⟨W.ldM, 9, 1, { silent := [], counts := [], records := [], rebuilt := some 1 }, by decide +kernel⟩,
   ⟨W.ldM, 9, 7, { silent := [], counts := [], records := [], restart := some 7 }, by decide +kernel⟩,
   ⟨W.memS, 9, { silent := [1], counts := [], records := [] }, by decide +kernel⟩,
   ⟨{ W.ldS with mbr.hellos := [(0, 9)], now := 60000000000 }, by decide +kernel⟩,
   ⟨W.ldS, by decide +kernel⟩⟩

theorem wit_LeasesJobsAndRebuildsRun_1 :
  (∃ (s : State) (pos : Fin 64) (x po : Nat),
    (isMgr s = true) ∧ (oneWay s pos.val po)) ∧
  (∃ (s : State) (pos : Fin 64) (x : Nat),
    (isMgr s = false)) ∧
  (∃ (s : State) (p po : Nat),
    (silentNode s = false) ∧ (s.fab.node < 64 ∧ s.pkg.sec.recovered = true ∧ s.mbr.lastBeat + 1000000 ≤ s.now) ∧
    (s.mbr.mgrs = [p] ∧ p ≠ s.fab.node) ∧ (oneWay s p po)) ∧
  (∃ (s : State),
    (s.now < s.mbr.lastBeat + 1000000 ∨ s.mbr.mgrs = [])) ∧
  (∃ (s : State) (pos : Fin 64) (g x b : Nat),
    (s.mbr.mgrs.contains pos.val = true) ∧ (s.mbr.st = .held ∨ s.mbr.st = .member) ∧
    (leaseStart { s with mbr.acked := tput s.mbr.acked pos.val (max x (tgetD s.mbr.acked pos.val 0)) } = some b)) :=
  ⟨⟨W.memS, 1, 5, 0, by decide +kernel⟩,
   ⟨W.h1, 1, 5, by decide +kernel⟩,
   ⟨{ W.memS with mbr.mgrs := [1] }, 1, 0, by decide +kernel⟩,
   ⟨W.h1, by decide +kernel⟩,
   ⟨{ W.memS with mbr.st := .held, mbr.acked := [(0, 19500000), (8, 19600000)] }, 1, 3, 19700000, 19500000, by decide +kernel⟩⟩
theorem wit_LeasesJobsAndRebuildsRun_2 :
  (∃ (s : State) (pos : Fin 64) (g x : Nat),
    (s.mbr.mgrs.contains pos.val = true) ∧ (s.mbr.st = .alone ∧ g ≠ 0 ∧ s.mbr.lastHello ≠ 0 ∧ s.pkg.sec.id = .ok)) ∧
  (∃ (s : State) (pos : Fin 64) (g x : Nat),
    (s.mbr.mgrs.contains pos.val = false)) ∧
  (∃ (s : State) (x cid : Nat) (c : Cmd),
    (s.mbr.st = .member ∧ s.mbr.leaseT = some x ∧ x + fld s.mbr.cfg 31 24 * 1000000 ≤ s.now) ∧
    (s.work.invs = [] ∧ s.work.queries = [] ∧ s.epo.updates = [] ∧ s.work.plans = [] ∧ s.host.cmds = [(cid, c)]) ∧
    (ringReady s c)) ∧
  (∃ (s : State),
    (s.mbr.st ≠ .member ∨ s.mbr.leaseT.all (fun (x : Nat) => decide (s.now < x + fld s.mbr.cfg 31 24 * 1000000)) =
      true)) ∧
  (∃ (s : State) (pos : Fin 64) (po : Nat),
    (isMgr s = true) ∧
    (bitOf s.mbr.members pos.val = true ∧ pos.val ≠ s.fab.node ∧ tget? s.mbr.silent pos.val = none) ∧
    (tgetD s.mbr.heard pos.val 0 + fld s.mbr.cfg 39 32 * 1000000 ≤ s.now) ∧
    (s.mbr.leading = false ∧ s.mbr.leader < 64) ∧ (oneWay s s.mbr.leader po)) :=
  ⟨⟨{ W.mgS with mbr.lastHello := 1, pkg.sec.id := .ok }, 1, 3, 5, by decide +kernel⟩,
   ⟨W.memS, 60, 3, 5, by decide +kernel⟩,
   ⟨{ W.memS with now := 30000000, host.cmds := [(7, W.cmd 1 [])] }, 19000000, 7, W.cmd 1 [], by decide +kernel⟩,
   ⟨W.memS, by decide +kernel⟩,
   ⟨W.memS, 1, 0, by decide +kernel⟩⟩
theorem wit_LeasesJobsAndRebuildsRun_3 :
  (∃ (s : State) (pos : Fin 64),
    (isMgr s = true) ∧
    (bitOf s.mbr.members pos.val = true ∧ pos.val ≠ s.fab.node ∧ tget? s.mbr.silent pos.val = none) ∧
    (tgetD s.mbr.heard pos.val 0 + fld s.mbr.cfg 39 32 * 1000000 ≤ s.now) ∧ (s.mbr.leading = true) ∧
    (2 * ((tput s.mbr.silence (pos.val * 64 + s.fab.node) true).filter (fun kv => kv.1 / 64 = pos.val)).length ≤
      s.mbr.mgrs.length)) ∧
  (∃ (s : State) (pos : Fin 64),
    (isMgr s = false ∨ bitOf s.mbr.members pos.val = false ∨ s.now < tgetD s.mbr.heard pos.val 0 + fld s.mbr.cfg 39
      32 * 1000000)) ∧
  (∃ (s : State) (pos : Fin 64) (m : List (Nat × Nat)),
    (pos.val = s.mbr.leader)) ∧
  (∃ (s : State) (pos : Fin 64) (m : List (Nat × Nat)),
    (pos.val ≠ s.mbr.leader)) ∧
  (∃ (s : State) (fn : Fin 64) (e : W64) (po : Nat),
    (ownerFn s fn.val = true) ∧ (s.epo.closed < e.toNat ∧ s.mbr.jobCtl = 0) ∧
    (s.mbr.leading = false ∧ s.mbr.leader < 64) ∧ (oneWay s s.mbr.leader po)) :=
  ⟨⟨W.ldM, 1, by decide +kernel⟩,
   ⟨W.memS, 60, by decide +kernel⟩,
   ⟨W.memS, 1, [(0, 2)], by decide +kernel⟩,
   ⟨W.memS, 2, [(0, 2)], by decide +kernel⟩,
   ⟨W.memS, 0, 9, 0, by decide +kernel⟩⟩
theorem wit_LeasesJobsAndRebuildsRun_4 :
  (∃ (s : State) (fn : Fin 64) (e : W64),
    (ownerFn s fn.val = true) ∧ (s.epo.closed < e.toNat ∧ s.mbr.jobCtl = 0) ∧ (s.mbr.leading = true) ∧
    (s.mbr.prop = none ∧ s.mbr.propQ = [])) ∧
  (∃ (s : State) (fn : Fin 64) (e : W64),
    (ownerFn s fn.val = true) ∧ (e.toNat ≤ s.epo.closed ∨ s.mbr.jobCtl ≠ 0)) ∧
  (∃ (s : State) (fn : Fin 64) (e : W64),
    (ownerFn s fn.val = false)) ∧
  (∃ (s : State) (fn shard : Fin 64),
    (ownerFn s fn.val = true) ∧ (s.mbr.reb = .idle ∨ s.mbr.reb = .done ∨ s.mbr.reb = .refused)) ∧
  (∃ (s : State) (fn shard : Fin 64),
    (ownerFn s fn.val = false)) :=
  ⟨⟨W.ldM, 0, 9, by decide +kernel⟩,
   ⟨{ W.memS with mbr.jobCtl := 4 }, 0, 9, by decide +kernel⟩,
   ⟨W.memS, 32, 9, by decide +kernel⟩,
   ⟨W.memS, 0, 1, by decide +kernel⟩,
   ⟨W.memS, 32, 1, by decide +kernel⟩⟩
theorem wit_LeasesJobsAndRebuildsRun_5 :
  (∃ (s : State) (fn shard : Fin 64),
    (ownerFn s fn.val = true)) ∧
  (∃ (s : State) (fn shard : Fin 64),
    (ownerFn s fn.val = false)) ∧
  (∃ (s : State) (ls : List (Nat × List LogRec)),
    (s.mbr.reb = .fetch) ∧ (ls.any (fun l => decide (s.mbr.rebEpoch.toNat < l.1)) = true)) ∧
  (∃ (s : State) (ls : List (Nat × List LogRec)),
    (s.mbr.reb = .fetch) ∧ (ls.any (fun l => decide (s.mbr.rebEpoch.toNat < l.1)) = false) ∧
    (s.mbr.leading = true) ∧ (s.mbr.prop = none ∧ s.mbr.propQ = [])) ∧
  (∃ (s : State) (ls : List (Nat × List LogRec)),
    (s.mbr.reb ≠ .fetch)) :=
  ⟨⟨W.memS, 0, 1, by decide +kernel⟩,
   ⟨W.memS, 32, 1, by decide +kernel⟩,
   ⟨{ W.memS with mbr.reb := .fetch }, [(4, [])], by decide +kernel⟩,
   ⟨{ W.ldM with mbr.reb := .fetch }, [(0, [])], by decide +kernel⟩,
   ⟨W.memS, [], by decide +kernel⟩⟩

theorem wit_StartRunsAndMailboxServes_1 :
  (∃ (s : State) (io : StartIn),
    (s.pkg.pwr.pgAon = false ∨ s.pkg.pwr.wrst = true ∨ s.pkg.pwr.clock = false ∨ s.pkg.pwr.undervolt = true ∨
      (s.pkg.sec.phase ≠ 1 ∧ s.pkg.sec.phase ≠ 2) ∨ (s.pkg.sec.phase = 2 ∧
        (s.pkg.pwr.pgMain = false ∨ anyCore s = false)))) ∧
  (∃ (s : State) (io : StartIn),
    (s.pkg.sec.phase = 1 ∧ s.pkg.pwr.pgMain = false) ∧
    (s.pkg.pwr.pgAon = true ∧ s.pkg.pwr.wrst = false ∧ s.pkg.pwr.clock = true ∧ s.pkg.pwr.undervolt = false) ∧
    ([0, 1, 2].any (fun (i : Nat) => !io.coreFail.contains i) = true)) ∧
  (∃ (s : State) (io : StartIn),
    (s.pkg.sec.phase = 1) ∧
    (s.pkg.pwr.pgAon = true ∧ s.pkg.pwr.wrst = false ∧ s.pkg.pwr.clock = true ∧ s.pkg.pwr.undervolt = false) ∧
    ([0, 1, 2].all (fun (i : Nat) => io.coreFail.contains i) = true)) ∧
  (∃ (s : State) (io : StartIn),
    (s.pkg.sec.phase = 2 ∧ s.pkg.pwr.pgMain = true ∧ s.pkg.sec.slot = 3 ∧ anyCore s = true) ∧
    (s.pkg.pwr.pgAon = true ∧ s.pkg.pwr.wrst = false ∧ s.pkg.pwr.clock = true ∧ s.pkg.pwr.undervolt = false)) ∧
  (∃ (s : State) (io : StartIn),
    (s.pkg.sec.phase = 2 ∧ s.pkg.pwr.pgMain = true ∧ s.pkg.sec.slot ≠ 3 ∧ anyCore s = true) ∧
    (s.pkg.pwr.pgAon = true ∧ s.pkg.pwr.wrst = false ∧ s.pkg.pwr.clock = true ∧ s.pkg.pwr.undervolt = false) ∧
    (io.clusterFail = [] ∧ s.work.fenceHist = [] ∧ s.epo.flashLog = [] ∧ s.tier.sealed = [])) :=
  ⟨⟨{ W.h1 with pkg.sec.phase := 3 }, W.io0, by decide +kernel⟩,
   ⟨W.stS 1, W.io0, by decide +kernel⟩,
   ⟨W.stS 1, { W.io0 with coreFail := [0, 1, 2] }, by decide +kernel⟩,
   ⟨{ W.stS 2 with pkg.pwr.pgMain := true }, W.io0, by decide +kernel⟩,
   ⟨{ W.stS 2 with pkg.pwr.pgMain := true, pkg.sec.slot := 0, tier.prange := [(0, 0x0000_0002_8000_0003)] }, W.io0, by decide +kernel⟩⟩
theorem wit_StartRunsAndMailboxServes_2 :
  (∃ (s : State) (via : Option (Fin 64)) (data : HostRead),
    (mayMbx s via = false)) ∧
  (∃ (s : State) (via : Option (Fin 64)),
    (mayMbx s via = true)) ∧
  (∃ (s : State) (via : Option (Fin 64)) (bs : List Byte),
    (mayMbx s via = true)) ∧
  (∃ (s : State) (via : Option (Fin 64)) (data : HostRead),
    (mayMbx s via = false)) ∧
  (∃ (s : State) (via : Option (Fin 64)),
    (mayMbx s via = true)) :=
  ⟨⟨W.stS 3, some 5, .ok [], by decide +kernel⟩,
   ⟨W.stS 3, some 0, by decide +kernel⟩,
   ⟨W.stS 3, some 0, [1, 2], by decide +kernel⟩,
   ⟨W.stS 3, some 5, .ok [], by decide +kernel⟩,
   ⟨W.stS 3, some 0, by decide +kernel⟩⟩
theorem wit_StartRunsAndMailboxServes_3 :
  (∃ (s : State) (via : Option (Fin 64)) (bs : List Byte),
    (mayMbx s via = true)) ∧
  (∃ (s : State) (via : Option (Fin 64)),
    (mayMbx s via = false)) ∧
  (∃ (s : State) (via : Option (Fin 64)),
    (mayMbx s via = true) ∧ (s.pkg.sec.id = .none_ ∧ s.pkg.sec.healthy = true)) ∧
  (∃ (s : State) (via : Option (Fin 64)),
    (mayMbx s via = true) ∧ (s.pkg.sec.id ≠ .none_ ∨ s.pkg.sec.healthy = false)) ∧
  (∃ (s : State) (via : Option (Fin 64)),
    (mayMbx s via = false ∨ running s = false ∨ (s.pkg.sec.stop = .stopping ∧ stopReady s = false))) :=
  ⟨⟨W.stS 3, none, [1, 2], by decide +kernel⟩,
   ⟨W.stS 3, some 5, by decide +kernel⟩,
   ⟨{ W.stS 3 with pkg.sec.healthy := true }, some 0, by decide +kernel⟩,
   ⟨W.stS 3, some 0, by decide +kernel⟩,
   ⟨W.stS 3, some 5, by decide +kernel⟩⟩
theorem wit_StartRunsAndMailboxServes_4 :
  (∃ (s : State) (via : Option (Fin 64)),
    (mayMbx s via = true ∧ running s = true ∧ s.pkg.sec.stop = .running) ∧
    (s.host.cmds ≠ [] ∨ s.work.queries ≠ [])) ∧
  (∃ (s : State) (via : Option (Fin 64)),
    (mayMbx s via = true ∧ running s = true ∧ s.pkg.sec.stop = .running) ∧
    (s.host.cmds = [] ∧ s.work.queries = [] ∧ s.pkg.sec.epochs = false)) :=
  ⟨⟨{ W.stS 3 with host.cmds := [(7, W.cmd 1 [])] }, some 0, by decide +kernel⟩,
   ⟨W.stS 3, none, by decide +kernel⟩⟩

theorem wit_ResponderAttestsAndKeysSessions_1 :
  (∃ (s : State) (p : SpdmPath) (req : List Byte) (c : Instr),
    (spOpen s p = false) ∧
    (c ∈ ([.spdmGetVersion p req, .spdmGetCapabilities p req, .spdmNegotiateAlgorithms p req, .spdmGetDigests p req,
          .spdmGetCertificate p req, .spdmChallenge p req, .spdmGetMeasurements p req, .spdmKeyExchange p req,
          .spdmFinish p req, .spdmKeyUpdate p req, .spdmHeartbeat p req, .spdmEndSession p req, .ideKm p req] : List
        Instr))) ∧
  (∃ (s : State) (p : SpdmPath) (req : List Byte) (x : Instr × Nat × Nat),
    (spOpen s p = true) ∧
    (x ∈ (([(.spdmGetVersion p req, 0x84, 0), (.spdmGetCapabilities p req, 0xE1, 1),
            (.spdmNegotiateAlgorithms p req, 0xE3, 2), (.spdmGetDigests p req, 0x81, 3),
            (.spdmGetCertificate p req, 0x82, 3), (.spdmChallenge p req, 0x83, 3),
            (.spdmGetMeasurements p req, 0xE0, 3), (.spdmKeyExchange p req, 0xE4, 3)] : List (Instr × Nat × Nat)))) ∧
    (getLE req 1 1 ≠ x.2.1 ∨ (x.2.1 ≠ 0x84 ∧ getLE req 0 1 ≠ 0x13) ∨ (s.conn p).phase < x.2.2)) ∧
  (∃ (s : State) (p : SpdmPath) (req : List Byte) (c : Instr),
    (spOpen s p = true) ∧
    (c ∈ ([.spdmFinish p req, .spdmKeyUpdate p req, .spdmHeartbeat p req, .spdmEndSession p req, .ideKm p req] :
        List Instr)) ∧
    (∀ x ∈ (s.conn p).sess, x.id ≠ getLE req 0 4)) ∧
  (∃ (s : State) (p : SpdmPath) (req : List Byte),
    (spOpen s p = true) ∧ (getLE req 1 1 = 0x84)) ∧
  (∃ (s : State) (p : SpdmPath) (req : List Byte),
    (spOpen s p = true) ∧ (getLE req 1 1 = 0xE1 ∧ getLE req 0 1 = 0x13 ∧ 1 ≤ (s.conn p).phase)) :=
  ⟨⟨{ W.spS 3 with pkg.sec.phase := 1 }, .mctp, [], .ideKm .mctp [], by decide +kernel⟩,
   ⟨W.spS 1, .mctp, [0x13, 0x81], (.spdmGetDigests .mctp [0x13, 0x81], 0x81, 3), by decide +kernel⟩,
   ⟨W.spS 3, .mctp, [9, 0, 0, 0], .spdmHeartbeat .mctp [9, 0, 0, 0], by decide +kernel⟩,
   ⟨W.spS 3, .mctp, [0x10, 0x84], by decide +kernel⟩,
   ⟨W.spS 1, .mctp, [0x13, 0xE1], by decide +kernel⟩⟩
theorem wit_ResponderAttestsAndKeysSessions_2 :
  (∃ (s : State) (p : SpdmPath) (req : List Byte),
    (spOpen s p = true) ∧ (getLE req 1 1 = 0xE3 ∧ getLE req 0 1 = 0x13 ∧ 2 ≤ (s.conn p).phase)) ∧
  (∃ (s : State) (p : SpdmPath) (req : List Byte),
    (spOpen s p = true) ∧ (getLE req 1 1 = 0x81 ∧ getLE req 0 1 = 0x13 ∧ 3 ≤ (s.conn p).phase)) ∧
  (∃ (s : State) (p : SpdmPath) (req : List Byte),
    (spOpen s p = true) ∧ (getLE req 1 1 = 0x82 ∧ getLE req 0 1 = 0x13 ∧ 3 ≤ (s.conn p).phase) ∧
    (getLE req 2 1 % 16 = 0 ∧ getLE req 4 2 < (certChain s).length)) ∧
  (∃ (s : State) (p : SpdmPath) (req : List Byte),
    (spOpen s p = true) ∧ (getLE req 1 1 = 0x82 ∧ getLE req 0 1 = 0x13 ∧ 3 ≤ (s.conn p).phase) ∧
    (getLE req 2 1 % 16 ≠ 0 ∨ (certChain s).length ≤ getLE req 4 2)) ∧
  (∃ (s : State) (p : SpdmPath) (req : List Byte),
    (spOpen s p = true) ∧ (getLE req 1 1 = 0x83 ∧ getLE req 0 1 = 0x13 ∧ 3 ≤ (s.conn p).phase) ∧
    (s.pkg.sec.id = .ok ∨ s.pkg.sec.id = .uncertified)) :=
  ⟨⟨W.spS 2, .mctp, [0x13, 0xE3], by decide +kernel⟩,
   ⟨W.spS 3, .mctp, [0x13, 0x81], by decide +kernel⟩,
   ⟨W.spS 3, .mctp, [0x13, 0x82, 0, 0, 1, 0, 1, 0], by decide +kernel⟩,
   ⟨W.spS 3, .mctp, [0x13, 0x82, 1, 0, 1, 0, 1, 0], by decide +kernel⟩,
   ⟨W.spS 3, .mctp, [0x13, 0x83], by decide +kernel⟩⟩
theorem wit_ResponderAttestsAndKeysSessions_3 :
  (∃ (s : State) (p : SpdmPath) (req : List Byte),
    (spOpen s p = true) ∧ (getLE req 1 1 = 0x83 ∧ getLE req 0 1 = 0x13 ∧ 3 ≤ (s.conn p).phase) ∧
    (s.pkg.sec.id = .none_ ∨ s.pkg.sec.id = .zeroised)) ∧
  (∃ (s : State) (p : SpdmPath) (req : List Byte) (is : List Nat),
    (spOpen s p = true) ∧ (getLE req 1 1 = 0xE0 ∧ getLE req 0 1 = 0x13 ∧ 3 ≤ (s.conn p).phase) ∧
    (measIndices (getLE req 3 1) = some is) ∧ (bitOf (getLE req 2 1) 0 = true) ∧
    (s.pkg.sec.id = .ok ∨ s.pkg.sec.id = .uncertified)) ∧
  (∃ (s : State) (p : SpdmPath) (req : List Byte) (is : List Nat),
    (spOpen s p = true) ∧ (getLE req 1 1 = 0xE0 ∧ getLE req 0 1 = 0x13 ∧ 3 ≤ (s.conn p).phase) ∧
    (measIndices (getLE req 3 1) = some is) ∧ (bitOf (getLE req 2 1) 0 = false)) ∧
  (∃ (s : State) (p : SpdmPath) (req : List Byte),
    (spOpen s p = true) ∧ (getLE req 1 1 = 0xE0 ∧ getLE req 0 1 = 0x13 ∧ 3 ≤ (s.conn p).phase) ∧
    (measIndices (getLE req 3 1) ≠ none ∧ bitOf (getLE req 2 1) 0 = true ∧
      (s.pkg.sec.id = .none_ ∨ s.pkg.sec.id = .zeroised))) ∧
  (∃ (s : State) (p : SpdmPath) (req : List Byte),
    (spOpen s p = true) ∧ (getLE req 1 1 = 0xE0 ∧ getLE req 0 1 = 0x13 ∧ 3 ≤ (s.conn p).phase) ∧
    (measIndices (getLE req 3 1) = none)) :=
  ⟨⟨{ W.spS 3 with pkg.sec.id := .none_ }, .mctp, [0x13, 0x83], by decide +kernel⟩,
   ⟨W.spS 3, .mctp, [0x13, 0xE0, 1, 2], [2], by decide +kernel⟩,
   ⟨W.spS 3, .mctp, [0x13, 0xE0, 0, 0], [], by decide +kernel⟩,
   ⟨{ W.spS 3 with pkg.sec.id := .zeroised }, .mctp, [0x13, 0xE0, 1, 2], by decide +kernel⟩,
   ⟨W.spS 3, .mctp, [0x13, 0xE0, 1, 9], by decide +kernel⟩⟩
theorem wit_ResponderAttestsAndKeysSessions_4 :
  (∃ (s : State) (p : SpdmPath) (req : List Byte),
    (spOpen s p = true) ∧ (getLE req 1 1 = 0xE4 ∧ getLE req 0 1 = 0x13 ∧ 3 ≤ (s.conn p).phase) ∧
    (s.pkg.sec.id = .ok ∨ s.pkg.sec.id = .uncertified)) ∧
  (∃ (s : State) (p : SpdmPath) (req : List Byte),
    (spOpen s p = true) ∧ (getLE req 1 1 = 0xE4 ∧ getLE req 0 1 = 0x13 ∧ 3 ≤ (s.conn p).phase) ∧
    (s.pkg.sec.id = .none_ ∨ s.pkg.sec.id = .zeroised)) ∧
  (∃ (s : State) (p : SpdmPath) (req : List Byte) (x : SpdmSess),
    (spOpen s p = true) ∧ ((s.conn p).sess.find? (fun (y : SpdmSess) => y.id == getLE req 0 4) = some x)) ∧
  (∃ (s : State) (p : SpdmPath) (req : List Byte) (x : SpdmSess),
    (spOpen s p = true) ∧ ((s.conn p).sess.find? (fun (y : SpdmSess) => y.id == getLE req 0 4) = some x) ∧
    (getLE (req.drop 4) 1 1 = 0xE9 ∧ x.open_ = true ∧ 1 ≤ getLE (req.drop 4) 2 1 ∧ getLE (req.drop 4) 2 1 ≤ 3)) ∧
  (∃ (s : State) (p : SpdmPath) (req : List Byte) (x : SpdmSess),
    (spOpen s p = true) ∧ ((s.conn p).sess.find? (fun (y : SpdmSess) => y.id == getLE req 0 4) = some x) ∧
    (getLE (req.drop 4) 1 1 = 0xE8 ∧ x.open_ = true)) :=
  ⟨⟨W.spS 3, .mctp, [0x13, 0xE4, 0, 0, 5, 0], by decide +kernel⟩,
   ⟨{ W.spS 3 with pkg.sec.id := .none_ }, .mctp, [0x13, 0xE4], by decide +kernel⟩,
   ⟨W.spS 3, .mctp, [5, 0, 0, 0, 0x13, 0xE5], { id := 5, open_ := true }, by decide +kernel⟩,
   ⟨W.spS 3, .mctp, [5, 0, 0, 0, 0x13, 0xE9, 1, 7], { id := 5, open_ := true }, by decide +kernel⟩,
   ⟨W.spS 3, .mctp, [5, 0, 0, 0, 0x13, 0xE8], { id := 5, open_ := true }, by decide +kernel⟩⟩
theorem wit_ResponderAttestsAndKeysSessions_5 :
  (∃ (s : State) (p : SpdmPath) (req : List Byte) (x : SpdmSess),
    (spOpen s p = true) ∧ ((s.conn p).sess.find? (fun (y : SpdmSess) => y.id == getLE req 0 4) = some x) ∧
    (getLE (req.drop 4) 1 1 = 0xEC ∧ x.open_ = true)) ∧
  (∃ (s : State) (p : SpdmPath) (req : List Byte) (x : SpdmSess),
    (spOpen s p = true) ∧ ((s.conn p).sess.find? (fun (y : SpdmSess) => y.id == getLE req 0 4) = some x) ∧
    (getLE (req.drop 4) 1 1 ≠ 0xE9 ∨ x.open_ = false ∨ getLE (req.drop 4) 2 1 = 0 ∨ 3 < getLE (req.drop 4) 2 1)) ∧
  (∃ (s : State) (p : SpdmPath) (req : List Byte) (x : SpdmSess),
    (spOpen s p = true) ∧ ((s.conn p).sess.find? (fun (y : SpdmSess) => y.id == getLE req 0 4) = some x) ∧
    (getLE (req.drop 4) 1 1 ≠ 0xE8 ∨ x.open_ = false)) ∧
  (∃ (s : State) (p : SpdmPath) (req : List Byte) (x : SpdmSess),
    (spOpen s p = true) ∧ ((s.conn p).sess.find? (fun (y : SpdmSess) => y.id == getLE req 0 4) = some x) ∧
    (getLE (req.drop 4) 1 1 ≠ 0xEC ∨ x.open_ = false)) ∧
  (∃ (s : State) (p : SpdmPath) (req : List Byte) (x : SpdmSess),
    (spOpen s p = true) ∧ ((s.conn p).sess.find? (fun (y : SpdmSess) => y.id == getLE req 0 4) = some x) ∧
    (x.open_ = false ∨ getLE (req.drop 4) 0 1 ∉ [0, 2, 4, 6])) :=
  ⟨⟨W.spS 3, .mctp, [5, 0, 0, 0, 0x13, 0xEC], { id := 5, open_ := true }, by decide +kernel⟩,
   ⟨W.spS 3, .mctp, [5, 0, 0, 0, 0x13, 1], { id := 5, open_ := true }, by decide +kernel⟩,
   ⟨W.spS 3, .mctp, [5, 0, 0, 0, 0x13, 1], { id := 5, open_ := true }, by decide +kernel⟩,
   ⟨W.spS 3, .mctp, [5, 0, 0, 0, 0x13, 1], { id := 5, open_ := true }, by decide +kernel⟩,
   ⟨W.spS 3, .mctp, [5, 0, 0, 0, 0x13, 1], { id := 5, open_ := true }, by decide +kernel⟩⟩
theorem wit_ResponderAttestsAndKeysSessions_6 :
  (∃ (s : State) (p : SpdmPath) (req : List Byte) (x : SpdmSess),
    (spOpen s p = true) ∧ ((s.conn p).sess.find? (fun (y : SpdmSess) => y.id == getLE req 0 4) = some x) ∧
    (x.open_ = true ∧ getLE (req.drop 4) 0 1 = 0)) ∧
  (∃ (s : State) (p : SpdmPath) (req : List Byte) (x : SpdmSess),
    (spOpen s p = true) ∧ ((s.conn p).sess.find? (fun (y : SpdmSess) => y.id == getLE req 0 4) = some x) ∧
    (x.open_ = true ∧ getLE (req.drop 4) 0 1 = 2) ∧ (47 ≤ (req.drop 4).length)) ∧
  (∃ (s : State) (p : SpdmPath) (req : List Byte) (x : SpdmSess),
    (spOpen s p = true) ∧ ((s.conn p).sess.find? (fun (y : SpdmSess) => y.id == getLE req 0 4) = some x) ∧
    (x.open_ = true ∧ getLE (req.drop 4) 0 1 = 2) ∧ ((req.drop 4).length < 47)) ∧
  (∃ (s : State) (p : SpdmPath) (req : List Byte) (x : SpdmSess),
    (spOpen s p = true) ∧ ((s.conn p).sess.find? (fun (y : SpdmSess) => y.id == getLE req 0 4) = some x) ∧
    (x.open_ = true ∧ getLE (req.drop 4) 0 1 = 4)) ∧
  (∃ (s : State) (p : SpdmPath) (req : List Byte) (x : SpdmSess),
    (spOpen s p = true) ∧ ((s.conn p).sess.find? (fun (y : SpdmSess) => y.id == getLE req 0 4) = some x) ∧
    (x.open_ = true ∧ getLE (req.drop 4) 0 1 = 6)) :=
  ⟨⟨W.spS 3, .mctp, [5, 0, 0, 0, 0], { id := 5, open_ := true }, by decide +kernel⟩,
   ⟨W.spS 3, .mctp, [5, 0, 0, 0, 2] ++ List.replicate 46 1, { id := 5, open_ := true }, by decide +kernel⟩,
   ⟨W.spS 3, .mctp, [5, 0, 0, 0, 2], { id := 5, open_ := true }, by decide +kernel⟩,
   ⟨W.spS 3, .mctp, [5, 0, 0, 0, 4], { id := 5, open_ := true }, by decide +kernel⟩,
   ⟨W.spS 3, .mctp, [5, 0, 0, 0, 6], { id := 5, open_ := true }, by decide +kernel⟩⟩

theorem wit_ResetsKeepWhatTheManualNames_1 :
  (∃ (s : State),
    (s.pkg.pwr.pgMain = true) ∧ (s.pkg.sec.phase ≠ 0)) ∧
  (∃ (s : State),
    (s.pkg.pwr.pgMain = true) ∧ (s.pkg.sec.phase = 0)) ∧
  (∃ (s : State),
    (s.pkg.pwr.pgMain = false)) ∧
  (∃ (s : State),
    (s.pkg.sec.phase ≠ 0)) ∧
  (∃ (s : State),
    (s.pkg.sec.phase = 0)) :=
  ⟨⟨{ W.stS 3 with pkg.pwr.pgMain := true, pkg.pwr.inReset := false }, by decide +kernel⟩,
   ⟨{ { State.reset with pkg.sec.phase := 0, pkg.sec.cold := false } with pkg.pwr.pgMain := true }, by decide +kernel⟩,
   ⟨{ State.reset with pkg.sec.phase := 0, pkg.sec.cold := false }, by decide +kernel⟩,
   ⟨{ W.stS 3 with pkg.pwr.pgMain := true, pkg.pwr.inReset := false }, by decide +kernel⟩,
   ⟨{ State.reset with pkg.sec.phase := 0, pkg.sec.cold := false }, by decide +kernel⟩⟩
theorem wit_ResetsKeepWhatTheManualNames_2 :
  (∃ (s : State),
    (s.pkg.pwr.pgMain = true) ∧ (s.pkg.sec.phase ≠ 0)) ∧
  (∃ (s : State),
    (s.pkg.pwr.pgMain = true) ∧ (s.pkg.sec.phase = 0)) ∧
  (∃ (s : State),
    (s.pkg.pwr.pgMain = false)) ∧
  (∃ (s : State),
    (s.pkg.sec.phase ≠ 0)) ∧
  (∃ (s : State),
    (s.pkg.sec.phase = 0)) :=
  ⟨⟨{ W.stS 3 with pkg.pwr.pgMain := true, pkg.pwr.inReset := false }, by decide +kernel⟩,
   ⟨{ { State.reset with pkg.sec.phase := 0, pkg.sec.cold := false } with pkg.pwr.pgMain := true }, by decide +kernel⟩,
   ⟨{ State.reset with pkg.sec.phase := 0, pkg.sec.cold := false }, by decide +kernel⟩,
   ⟨{ W.stS 3 with pkg.pwr.pgMain := true, pkg.pwr.inReset := false }, by decide +kernel⟩,
   ⟨{ State.reset with pkg.sec.phase := 0, pkg.sec.cold := false }, by decide +kernel⟩⟩
theorem wit_ResetsKeepWhatTheManualNames_3 :
  (∃ (s : State),
    (s.pkg.pwr.pgAon = true)) ∧
  (∃ (s : State),
    (s.pkg.pwr.pgAon = false) ∧ (s.pkg.sec.phase = 0) ∧
    (s.pkg.pwr.wrst = false ∧ s.pkg.pwr.clock = true ∧ s.pkg.pwr.undervolt = false)) ∧
  (∃ (s : State),
    (s.pkg.pwr.pgAon = false) ∧
    (s.pkg.sec.phase ≠ 0 ∨ s.pkg.pwr.wrst = true ∨ s.pkg.pwr.clock = false ∨ s.pkg.pwr.undervolt = true)) ∧
  (∃ (s : State),
    (s.pkg.sec.phase = 0) ∧
    (s.pkg.pwr.pgAon = true ∧ s.pkg.pwr.wrst = false ∧ s.pkg.pwr.clock = true ∧ s.pkg.pwr.undervolt = false)) ∧
  (∃ (s : State),
    (s.pkg.sec.phase ≠ 0 ∨ s.pkg.pwr.pgAon = false ∨ s.pkg.pwr.wrst = true ∨ s.pkg.pwr.clock = false ∨
      s.pkg.pwr.undervolt = true)) :=
  ⟨⟨{ W.stS 3 with pkg.pwr.pgMain := true, pkg.pwr.inReset := false }, by decide +kernel⟩,
   ⟨{ { State.reset with pkg.sec.phase := 0, pkg.sec.cold := false } with pkg.pwr.pgAon := false }, by decide +kernel⟩,
   ⟨{ { State.reset with pkg.sec.phase := 0, pkg.sec.cold := false } with pkg.pwr.pgAon := false, pkg.pwr.wrst := true }, by decide +kernel⟩,
   ⟨{ State.reset with pkg.sec.phase := 0, pkg.sec.cold := false }, by decide +kernel⟩,
   ⟨State.reset, by decide +kernel⟩⟩
theorem wit_ResetsKeepWhatTheManualNames_4 :
  (∃ (s : State),
    (s.pkg.sec.phase = 0) ∧
    (s.pkg.pwr.pgAon = true ∧ s.pkg.pwr.clock = true ∧ s.pkg.pwr.undervolt = false ∧
      (s.pkg.pwr.pgMain = true ∨ s.pkg.sec.cold = true))) ∧
  (∃ (s : State),
    (s.pkg.sec.phase ≠ 0 ∨ s.pkg.pwr.pgAon = false ∨ s.pkg.pwr.clock = false ∨ s.pkg.pwr.undervolt = true ∨
      (s.pkg.pwr.pgMain = false ∧ s.pkg.sec.cold = false))) ∧
  (∃ (s : State),
    (s.pkg.sec.phase = 0) ∧
    (s.pkg.pwr.pgAon = true ∧ s.pkg.pwr.wrst = false ∧ (s.pkg.pwr.pgMain = true ∨ s.pkg.sec.cold = true))) ∧
  (∃ (s : State),
    (s.pkg.sec.phase ≠ 0 ∨ s.pkg.pwr.pgAon = false ∨ s.pkg.pwr.wrst = true ∨
      (s.pkg.pwr.pgMain = false ∧ s.pkg.sec.cold = false))) ∧
  (∃ (s : State) (port : Fin 2) (f : Nat) (x : Fn),
    (s.host.fns = [(f, x)]) ∧ (f / 32 = port.val)) :=
  ⟨⟨{ { State.reset with pkg.sec.phase := 0, pkg.sec.cold := false } with pkg.pwr.pgMain := true, pkg.pwr.wrst := true }, by decide +kernel⟩,
   ⟨{ State.reset with pkg.sec.phase := 0, pkg.sec.cold := false }, by decide +kernel⟩,
   ⟨{ { State.reset with pkg.sec.phase := 0, pkg.sec.cold := false } with pkg.pwr.pgMain := true, pkg.pwr.clock := false }, by decide +kernel⟩,
   ⟨{ State.reset with pkg.sec.phase := 0, pkg.sec.cold := false }, by decide +kernel⟩,
   ⟨{ State.reset with host.fns := [(33, { bound := true })] }, 1, 33, { bound := true }, by decide +kernel⟩⟩
theorem wit_ResetsKeepWhatTheManualNames_5 :
  (∃ (s : State) (port : Fin 2),
    (∀ kv ∈ s.host.fns, kv.1 / 32 ≠ port.val)) ∧
  (∃ (s : State),
    (s.pkg.pwr.inReset = true)) ∧
  (∃ (s : State),
    (s.pkg.pwr.inReset = false ∧ s.err.fault = false)) ∧
  (∃ (s : State),
    (s.pkg.pwr.inReset = false ∧ s.err.fault = true)) :=
  ⟨⟨State.reset, 1, by decide +kernel⟩,
   ⟨State.reset, by decide +kernel⟩,
   ⟨{ W.h1 with pkg.pwr.inReset := false }, by decide +kernel⟩,
   ⟨{ W.h1 with pkg.pwr.inReset := false, err.fault := true }, by decide +kernel⟩⟩

theorem wit_PowerAndHeatGovernTheClock_1 :
  (∃ (s : State) (avg : Nat),
    (running s = false ∨ s.now % 1000000 ≠ 0 ∨ s.pkg.pwr.lastWin = some s.now)) ∧
  (∃ (s : State) (avg : Nat),
    (running s = true) ∧ (s.now % 1000000 = 0 ∧ s.pkg.pwr.lastWin ≠ some s.now) ∧ (warning s = true)) ∧
  (∃ (s : State) (avg : Nat),
    (running s = true) ∧ (s.now % 1000000 = 0 ∧ s.pkg.pwr.lastWin ≠ some s.now) ∧ (warning s = false) ∧
    (fld s.pkg.clk.limit 15 0 < avg ∧ s.pkg.clk.tcur ≤ s.pkg.clk.tmin)) ∧
  (∃ (s : State) (avg : Nat),
    (running s = true) ∧ (s.now % 1000000 = 0 ∧ s.pkg.pwr.lastWin ≠ some s.now) ∧ (warning s = false) ∧
    (fld s.pkg.clk.limit 15 0 < avg ∧ s.pkg.clk.tmin < s.pkg.clk.tcur) ∧ (s.pkg.pwr.avsDead = [])) ∧
  (∃ (s : State) (avg : Nat),
    (running s = true) ∧ (s.now % 1000000 = 0 ∧ s.pkg.pwr.lastWin ≠ some s.now) ∧ (warning s = false) ∧
    (fld s.pkg.clk.limit 15 0 < avg ∧ s.pkg.clk.tmin < s.pkg.clk.tcur) ∧ (s.pkg.pwr.avsDead ≠ [])) :=
  ⟨⟨W.stS 1, 900, by decide +kernel⟩,
   ⟨{ { W.stS 3 with now := 8000000 } with pkg.pwr.tsens := [(2, ⟨1, 1600⟩)] }, 900, by decide +kernel⟩,
   ⟨{ { W.stS 3 with now := 8000000 } with pkg.clk.tcur := 16 }, 1200, by decide +kernel⟩,
   ⟨{ W.stS 3 with now := 8000000 }, 1200, by decide +kernel⟩,
   ⟨{ { W.stS 3 with now := 8000000 } with pkg.pwr.avsDead := [(0, true)] }, 1200, by decide +kernel⟩⟩
theorem wit_PowerAndHeatGovernTheClock_2 :
  (∃ (s : State) (avg : Nat),
    (running s = true) ∧ (s.now % 1000000 = 0 ∧ s.pkg.pwr.lastWin ≠ some s.now) ∧ (warning s = false) ∧
    (avg + fld s.pkg.clk.limit 31 16 < fld s.pkg.clk.limit 15 0) ∧
    (9 ≤ s.pkg.pwr.below ∧ s.pkg.clk.tcur < s.pkg.clk.tmax ∧ s.pkg.pwr.avsDead = []) ∧
    (voltFor (s.pkg.clk.tcur + 1) ≤ s.pkg.clk.vddcd ∧ s.pkg.clk.raise = none)) ∧
  (∃ (s : State) (avg : Nat),
    (running s = true) ∧ (s.now % 1000000 = 0 ∧ s.pkg.pwr.lastWin ≠ some s.now) ∧ (warning s = false) ∧
    (avg + fld s.pkg.clk.limit 31 16 < fld s.pkg.clk.limit 15 0) ∧
    (9 ≤ s.pkg.pwr.below ∧ s.pkg.clk.tcur < s.pkg.clk.tmax ∧ s.pkg.pwr.avsDead = []) ∧
    (s.pkg.clk.vddcd < voltFor (s.pkg.clk.tcur + 1) ∨ s.pkg.clk.raise ≠ none)) ∧
  (∃ (s : State) (avg : Nat),
    (running s = true) ∧ (s.now % 1000000 = 0 ∧ s.pkg.pwr.lastWin ≠ some s.now) ∧ (warning s = false) ∧
    (avg + fld s.pkg.clk.limit 31 16 < fld s.pkg.clk.limit 15 0) ∧
    (9 ≤ s.pkg.pwr.below ∧ (s.pkg.clk.tmax ≤ s.pkg.clk.tcur ∨ s.pkg.pwr.avsDead ≠ []))) ∧
  (∃ (s : State) (avg : Nat),
    (running s = true) ∧ (s.now % 1000000 = 0 ∧ s.pkg.pwr.lastWin ≠ some s.now) ∧ (warning s = false) ∧
    (avg ≤ fld s.pkg.clk.limit 15 0) ∧
    (¬ (avg + fld s.pkg.clk.limit 31 16 < fld s.pkg.clk.limit 15 0) ∨ s.pkg.pwr.below < 9)) ∧
  (∃ (s : State) (reg : Fin 2) (ok : Bool) (v a : Nat),
    (running s = false ∨ (ok = false ∧ s.now < tgetD s.pkg.pwr.avsT reg.val 0 + 1000000))) :=
  ⟨⟨{ { W.stS 3 with now := 8000000 } with pkg.pwr.below := 9, pkg.clk.tcur := 30 }, 900, by decide +kernel⟩,
   ⟨{ { W.stS 3 with now := 8000000 } with pkg.pwr.below := 9, pkg.clk.tmax := 42 }, 900, by decide +kernel⟩,
   ⟨{ { W.stS 3 with now := 8000000 } with pkg.pwr.below := 9 }, 900, by decide +kernel⟩,
   ⟨{ W.stS 3 with now := 8000000 }, 900, by decide +kernel⟩,
   ⟨W.stS 1, 0, true, 750, 9, by decide +kernel⟩⟩
theorem wit_PowerAndHeatGovernTheClock_3 :
  (∃ (s : State) (reg : Fin 2) (v a : Nat),
    (running s = true)) ∧
  (∃ (s : State) (reg : Fin 2) (v a : Nat),
    (running s = true) ∧ (tgetD s.pkg.pwr.avsT reg.val 0 + 1000000 ≤ s.now)) ∧
  (∃ (s : State) (st c : Nat),
    (s.pkg.clk.raise = some (st, c))) ∧
  (∃ (s : State),
    (s.pkg.clk.raise = none)) ∧
  (∃ (s : State) (l : List Int),
    (running s = false)) :=
  ⟨⟨{ W.stS 3 with now := 8000000 }, 0, 750, 9, by decide +kernel⟩,
   ⟨{ W.stS 3 with now := 8000000 }, 0, 750, 9, by decide +kernel⟩,
   ⟨{ W.h1 with pkg.clk.raise := some (41, 1) }, 41, 1, by decide +kernel⟩,
   ⟨W.h1, by decide +kernel⟩,
   ⟨W.stS 1, [], by decide +kernel⟩⟩
theorem wit_PowerAndHeatGovernTheClock_4 :
  (∃ (s : State) (l : List Int),
    (running s = true) ∧ (s.err.inj = []) ∧
    (∀ j : Nat, j < 26 → ∀ v : Int, l[j]? = some v →
        (tgetD s.pkg.pwr.tsens j {}).st = 3 ∨ (-640 ≤ v ∧ v < (thresholds s j).1 ∧ v < (thresholds s j).2 ∧
          v ≤ 2400 ∧ ((tgetD s.pkg.pwr.tsens j {}).st = 0 ∨ v ≤ (thresholds s j).1 - 48)))) ∧
  (∃ (s : State) (pre : List Int) (v : Int),
    (running s = true) ∧ (s.err.inj = []) ∧
    (pre.length < 26 ∧ ∀ j : Nat, j < pre.length → (tgetD s.pkg.pwr.tsens j {}).st = 3) ∧ (-640 ≤ v ∧ v ≤ 2400) ∧
    ((tgetD s.pkg.pwr.tsens pre.length {}).st = 0 ∧ (thresholds s pre.length).1 ≤ v ∧
      v < (thresholds s pre.length).2)) ∧
  (∃ (s : State) (pre : List Int) (v : Int),
    (running s = true) ∧ (s.err.inj = []) ∧
    (pre.length < 26 ∧ ∀ j : Nat, j < pre.length → (tgetD s.pkg.pwr.tsens j {}).st = 3) ∧ (-640 ≤ v ∧ v ≤ 2400) ∧
    (((tgetD s.pkg.pwr.tsens pre.length {}).st = 1 ∨ (tgetD s.pkg.pwr.tsens pre.length {}).st = 2) ∧
      (thresholds s pre.length).1 - 48 < v ∧ v < (thresholds s pre.length).2)) ∧
  (∃ (s : State) (pre : List Int) (v : Int),
    (running s = true) ∧ (s.err.inj = []) ∧
    (pre.length < 26 ∧ ∀ j : Nat, j < pre.length → (tgetD s.pkg.pwr.tsens j {}).st = 3) ∧ (-640 ≤ v ∧ v ≤ 2400) ∧
    (((tgetD s.pkg.pwr.tsens pre.length {}).st = 0 ∨ (tgetD s.pkg.pwr.tsens pre.length {}).st = 1) ∧
      (thresholds s pre.length).2 ≤ v) ∧
    (s.pkg.pwr.inReset = false ∧ mergeInto s 13 (pre.length + 32) 10 = none ∧ s.pkg.sec.parts = [] ∧
      64 ≤ s.mbr.leader)) ∧
  (∃ (s : State) (pre : List Int) (v : Int),
    (running s = true) ∧ (s.err.inj = []) ∧
    (pre.length < 26 ∧ ∀ j : Nat, j < pre.length → (tgetD s.pkg.pwr.tsens j {}).st = 3) ∧
    ((tgetD s.pkg.pwr.tsens pre.length {}).st = 2 ∧ v ≤ 2400 ∧ (thresholds s pre.length).2 ≤ v ∧ -640 ≤ v)) :=
  ⟨⟨{ W.stS 3 with now := 8000000 }, [400, 500], by decide +kernel⟩,
   ⟨{ W.stS 3 with now := 8000000 }, [], 1520, by decide +kernel⟩,
   ⟨{ { W.stS 3 with now := 8000000 } with pkg.pwr.tsens := [(0, ⟨3, 0⟩), (1, ⟨1, 1530⟩)] }, [7], 1473, by decide +kernel⟩,
   ⟨{ { W.stS 3 with now := 8000000 } with pkg.pwr.inReset := false, pkg.sec.parts := [], mbr.leader := 64 }, [], 1760, by decide +kernel⟩,
   ⟨{ { W.stS 3 with now := 8000000 } with pkg.pwr.tsens := [(0, ⟨2, 1800⟩)] }, [], 1790, by decide +kernel⟩⟩
theorem wit_PowerAndHeatGovernTheClock_5 :
  (∃ (s : State) (pre : List Int) (v : Int),
    (running s = true) ∧ (s.err.inj = []) ∧
    (pre.length < 26 ∧ ∀ j : Nat, j < pre.length → (tgetD s.pkg.pwr.tsens j {}).st = 3) ∧
    ((tgetD s.pkg.pwr.tsens pre.length {}).st ≠ 3 ∧ (v < -640 ∨ 2400 < v))) ∧
  (∃ (s : State),
    (running s = false ∨ warning s = false ∨ s.now < s.pkg.pwr.lastThermal + 1000000)) ∧
  (∃ (s : State),
    (running s = true) ∧ (warning s = true ∧ s.pkg.pwr.lastThermal + 1000000 ≤ s.now) ∧
    (s.pkg.clk.tmin < s.pkg.clk.tcur ∧ s.pkg.pwr.avsDead = [])) ∧
  (∃ (s : State),
    (running s = true) ∧ (warning s = true ∧ s.pkg.pwr.lastThermal + 1000000 ≤ s.now) ∧
    (s.pkg.clk.tcur ≤ s.pkg.clk.tmin ∨ s.pkg.pwr.avsDead ≠ [])) ∧
  (∃ (s : State) (l : List (Option Int)),
    (running s = false)) :=
  ⟨⟨{ W.stS 3 with now := 8000000 }, [], 2401, by decide +kernel⟩,
   ⟨W.stS 3, by decide +kernel⟩,
   ⟨{ { W.stS 3 with now := 8000000 } with pkg.pwr.tsens := [(2, ⟨1, 1600⟩)] }, by decide +kernel⟩,
   ⟨{ { W.stS 3 with now := 8000000 } with pkg.pwr.tsens := [(2, ⟨1, 1600⟩)], pkg.clk.tcur := 16 }, by decide +kernel⟩,
   ⟨W.stS 1, [], by decide +kernel⟩⟩
theorem wit_PowerAndHeatGovernTheClock_6 :
  (∃ (s : State) (l : List (Option Int)),
    (running s = true)) :=
  ⟨{ W.stS 3 with now := 8000000 }, [some 400, none], by decide +kernel⟩

theorem wit_CounterFollowsPpsAndCalibration_1 :
  (∃ (s : State),
    (s.pkg.sec.phase = 0)) ∧
  (∃ (s : State) (u : Nat),
    (s.pkg.sec.phase ≠ 0) ∧ (s.pkg.tim.lastEdge = some u ∧ s.now < u + 900000000)) ∧
  (∃ (s : State),
    (s.pkg.sec.phase ≠ 0) ∧ (s.pkg.tim.lastEdge.all (fun (u : Nat) => decide (u + 900000000 ≤ s.now)) = true) ∧
    ((if flag s.pkg.tim.nextSec 63 then some (fld s.pkg.tim.nextSec 34 0 * 1000000000 + fld s.pkg.tim.cfg 47 32)
        else s.pkg.tim.target.map (fun (u : Nat) => u + 1000000000)) = none)) ∧
  (∃ (s : State) (T : Nat),
    (s.pkg.sec.phase ≠ 0) ∧ (s.pkg.tim.lastEdge.all (fun (u : Nat) => decide (u + 900000000 ≤ s.now)) = true) ∧
    ((if flag s.pkg.tim.nextSec 63 then some (fld s.pkg.tim.nextSec 34 0 * 1000000000 + fld s.pkg.tim.cfg 47 32)
        else s.pkg.tim.target.map (fun (u : Nat) => u + 1000000000)) = some T) ∧
    ((s.mbr.st ≠ .member ∧ s.mbr.st ≠ .held) ∨ calRef s = s.fab.node ∨ s.pkg.tim.target = none ∨ s.pkg.tim.resync =
      true) ∧
    (((T : Int) - (s.now : Int)).natAbs ≤ fld s.pkg.tim.cfg 31 16 * 1000 ∨ s.pkg.tim.target = none ∨
      s.pkg.tim.resync = true)) ∧
  (∃ (s : State) (T : Nat),
    (s.pkg.sec.phase ≠ 0) ∧ (s.pkg.tim.lastEdge.all (fun (u : Nat) => decide (u + 900000000 ≤ s.now)) = true) ∧
    ((if flag s.pkg.tim.nextSec 63 then some (fld s.pkg.tim.nextSec 34 0 * 1000000000 + fld s.pkg.tim.cfg 47 32)
        else s.pkg.tim.target.map (fun (u : Nat) => u + 1000000000)) = some T) ∧
    (¬ (((T : Int) - (s.now : Int)).natAbs ≤ fld s.pkg.tim.cfg 31 16 * 1000) ∧
      ¬ (s.pkg.tim.target = none ∨ s.pkg.tim.resync = true))) :=
  ⟨⟨W.stS 0, by decide +kernel⟩,
   ⟨{ { W.stS 3 with now := 5000000000 } with pkg.tim.lastEdge := some 4500000000 }, 4500000000, by decide +kernel⟩,
   ⟨{ W.stS 3 with now := 5000000000 }, by decide +kernel⟩,
   ⟨{ { W.stS 3 with now := 5000000000 } with pkg.tim.target := some 3999990000, pkg.tim.lastCorr := some 4000000000 }, 4999990000, by decide +kernel⟩,
   ⟨{ { W.stS 3 with now := 5000000000 } with pkg.tim.target := some 3000000000 }, 4000000000, by decide +kernel⟩⟩
theorem wit_CounterFollowsPpsAndCalibration_2 :
  (∃ (s : State) (T : Nat),
    (s.pkg.sec.phase ≠ 0) ∧ (s.pkg.tim.lastEdge.all (fun (u : Nat) => decide (u + 900000000 ≤ s.now)) = true) ∧
    ((if flag s.pkg.tim.nextSec 63 then some (fld s.pkg.tim.nextSec 34 0 * 1000000000 + fld s.pkg.tim.cfg 47 32)
        else s.pkg.tim.target.map (fun (u : Nat) => u + 1000000000)) = some T) ∧
    (¬ ((s.mbr.st ≠ .member ∧ s.mbr.st ≠ .held) ∨ calRef s = s.fab.node) ∧
      ¬ (s.pkg.tim.target = none ∨ s.pkg.tim.resync = true) ∧
      ((T : Int) - (s.now : Int)).natAbs ≤ fld s.pkg.tim.cfg 31 16 * 1000)) ∧
  (∃ (s : State),
    (s.pkg.tim.expected.all (fun (u : Nat) => decide (s.now < u + 1100000000)) = true)) ∧
  (∃ (s : State) (u : Nat),
    (s.pkg.tim.expected = some u ∧ u + 1100000000 ≤ s.now)) ∧
  (∃ (s : State) (fn : Fin 64) (v : W64),
    (ownerFn s fn.val = true)) ∧
  (∃ (s : State) (fn : Fin 64) (v : W64),
    (ownerFn s fn.val = false)) :=
  ⟨⟨{ { { W.stS 3 with now := 5000000000 } with mbr.st := .member, mbr.members := 6, fab.node := 2, pkg.tim.ref := 1 } with pkg.tim.target := some 3999990000 }, 4999990000, by decide +kernel⟩,
   ⟨{ W.stS 3 with now := 5000000000 }, by decide +kernel⟩,
   ⟨{ { W.stS 3 with now := 5000000000 } with pkg.tim.expected := some 3500000000 }, 3500000000, by decide +kernel⟩,
   ⟨W.h1, 0, 9, by decide +kernel⟩,
   ⟨W.h1, 5, 9, by decide +kernel⟩⟩
theorem wit_CounterFollowsPpsAndCalibration_3 :
  (∃ (s : State) (fn : Fin 64),
    (ownerFn s fn.val = true)) ∧
  (∃ (s : State) (fn : Fin 64),
    (ownerFn s fn.val = false)) ∧
  (∃ (s : State) (o : Int),
    (s.mbr.st ≠ .member ∧ s.mbr.st ≠ .held)) ∧
  (∃ (s : State) (o : Int),
    ((s.mbr.st = .member ∨ s.mbr.st = .held) ∧ calRef s ≠ s.pkg.tim.ref ∧ calRef s ≠ s.fab.node ∧ calRef s ≠ 0x3F) ∧
    (s.pkg.sec.epochs = true)) ∧
  (∃ (s : State) (o : Int),
    ((s.mbr.st = .member ∨ s.mbr.st = .held) ∧ calRef s ≠ s.pkg.tim.ref ∧ calRef s = s.fab.node ∧ calRef s ≠ 0x3F) ∧
    (s.pkg.sec.epochs = true)) :=
  ⟨⟨W.h1, 0, by decide +kernel⟩,
   ⟨W.h1, 5, by decide +kernel⟩,
   ⟨{ W.stS 3 with now := 5000000000 }, 5, by decide +kernel⟩,
   ⟨{ { { W.stS 3 with now := 5000000000 } with mbr.st := .member, mbr.members := 6, fab.node := 2, pkg.tim.ref := 1 } with pkg.tim.ref := 9, pkg.sec.epochs := true }, 5, by decide +kernel⟩,
   ⟨{ { { W.stS 3 with now := 5000000000 } with mbr.st := .member, mbr.members := 6, fab.node := 2, pkg.tim.ref := 1 } with fab.node := 1, pkg.tim.ref := 9, pkg.sec.epochs := true }, 5, by decide +kernel⟩⟩
theorem wit_CounterFollowsPpsAndCalibration_4 :
  (∃ (s : State) (o : Int),
    ((s.mbr.st = .member ∨ s.mbr.st = .held) ∧ calRef s = s.pkg.tim.ref) ∧ (calRef s ≠ s.fab.node) ∧
    (s.pkg.sec.epochs = true ∨ s.mbr.st = .held ∨ s.pkg.sec.recovered = false ∨ ((if o.natAbs ≤ 8 then
            s.pkg.tim.streak + 1 else 0) < 3 ∧ s.pkg.tim.cal ≠ 2))) ∧
  (∃ (s : State) (o : Int),
    ((s.mbr.st = .member ∨ s.mbr.st = .held) ∧ calRef s = s.pkg.tim.ref) ∧ (calRef s ≠ s.fab.node) ∧
    (s.mbr.st = .member ∧ s.pkg.sec.recovered = true ∧ s.pkg.sec.epochs = false ∧ (s.barrier 3).armed = false ∧
      s.pkg.sec.startArmed = false ∧ 3 ≤ (if o.natAbs ≤ 8 then s.pkg.tim.streak + 1 else 0))) ∧
  (∃ (s : State) (o : Int),
    ((s.mbr.st = .member ∨ s.mbr.st = .held) ∧ calRef s = s.pkg.tim.ref) ∧ (calRef s = s.fab.node) ∧
    (s.pkg.sec.epochs = true ∨ s.mbr.st = .held ∨ s.pkg.sec.recovered = false ∨
      (s.pkg.tim.streak + 1 < 3 ∧ s.pkg.tim.cal ≠ 2))) :=
  ⟨⟨{ { W.stS 3 with now := 5000000000 } with mbr.st := .member, mbr.members := 6, fab.node := 2, pkg.tim.ref := 1 }, 10, by decide +kernel⟩,
   ⟨{ { { W.stS 3 with now := 5000000000 } with mbr.st := .member, mbr.members := 6, fab.node := 2, pkg.tim.ref := 1 } with pkg.tim.streak := 2, pkg.sec.recovered := true }, 8, by decide +kernel⟩,
   ⟨{ { { W.stS 3 with now := 5000000000 } with mbr.st := .member, mbr.members := 6, fab.node := 2, pkg.tim.ref := 1 } with fab.node := 1 }, 8, by decide +kernel⟩⟩

theorem wit_RegistersAndDumps_1 :
  (∃ (s : State) (part : Fin 32),
    (flag (tgetD s.pmc.dumps part.val {}).cfg 0 = false ∨ s.now % (max 1
        (fld (tgetD s.pmc.dumps part.val {}).cfg 63 48) * 100000) ≠ 0 ∨ (tgetD s.pmc.dumps part.val {}).lastT = some
      s.now ∨ activeFn s part.val = none)) ∧
  (∃ (s : State) (part : Fin 32) (f : Nat),
    (flag (tgetD s.pmc.dumps part.val {}).cfg 0 = true ∧
      s.now % (max 1 (fld (tgetD s.pmc.dumps part.val {}).cfg 63 48) * 100000) = 0 ∧
      (tgetD s.pmc.dumps part.val {}).lastT ≠ some s.now) ∧
    (activeFn s part.val = some f) ∧ ((s.pcie f).up = true ∧ (s.fn f).busMaster = true)) ∧
  (∃ (s : State) (part : Fin 32) (f : Nat),
    (flag (tgetD s.pmc.dumps part.val {}).cfg 0 = true ∧
      s.now % (max 1 (fld (tgetD s.pmc.dumps part.val {}).cfg 63 48) * 100000) = 0 ∧
      (tgetD s.pmc.dumps part.val {}).lastT ≠ some s.now) ∧
    (activeFn s part.val = some f) ∧ ((s.pcie f).up = false)) ∧
  (∃ (s : State) (fn : Fin 64) (addr size : Nat) (v : W64),
    ((size ≠ 8 ∧ size ≠ 4) ∨ addr % size ≠ 0 ∨ 2 ^ 24 ≤ addr ∨ reaches s fn.val (addr / 0x80000) = false ∨ addr <
      0x80000)) ∧
  (∃ (s : State) (fn : Fin 64) (v : W64),
    (reaches s fn.val 0x04 = true)) :=
  ⟨⟨W.h1, 3, by decide +kernel⟩,
   ⟨W.rgS, 0, 0, by decide +kernel⟩,
   ⟨{ W.rgS with host.portA := {} }, 0, 0, by decide +kernel⟩,
   ⟨W.h1, 0, 0x200010, 2, 9, by decide +kernel⟩,
   ⟨W.rgS, 0, 0xFF, by decide +kernel⟩⟩
theorem wit_RegistersAndDumps_2 :
  (∃ (s : State) (fn : Fin 64) (v : W64),
    (reaches s fn.val 0x03 = true) ∧ ((s.fn fn.val).part < 32)) ∧
  (∃ (s : State) (fn : Fin 64) (v : W64),
    (reaches s fn.val 0x04 = true) ∧ ((s.fn fn.val).part < 32)) ∧
  (∃ (s : State) (fn : Fin 64) (v : W64),
    (reaches s fn.val 0x05 = true) ∧ ((s.fn fn.val).part < 32)) ∧
  (∃ (s : State) (fn : Fin 64) (v : W64),
    (reaches s fn.val 0x06 = true) ∧ ((s.fn fn.val).part < 32)) ∧
  (∃ (s : State) (fn : Fin 64) (v : W64),
    (reaches s fn.val 0x08 = true) ∧ ((s.fn fn.val).part < 32)) :=
  ⟨⟨W.rgS, 0, 0xFF, by decide +kernel⟩,
   ⟨W.rgS, 0, 0xFF, by decide +kernel⟩,
   ⟨W.rgS, 0, 0xFF, by decide +kernel⟩,
   ⟨W.rgS, 0, 0xFF, by decide +kernel⟩,
   ⟨W.rgS, 0, 0xFF, by decide +kernel⟩⟩
theorem wit_RegistersAndDumps_3 :
  (∃ (s : State) (fn : Fin 64) (v : W64),
    (reaches s fn.val 0x09 = true) ∧ ((s.fn fn.val).part < 32)) ∧
  (∃ (s : State) (fn : Fin 64) (v : W64) (q : Nat),
    (reaches s fn.val 0x0A = true) ∧ (q < (s.fn fn.val).qcount ∧ (s.fn fn.val).qcount ≤ 2048)) ∧
  (∃ (s : State) (fn : Fin 64) (v : W64) (q : Nat),
    (reaches s fn.val 0x0A = true) ∧ (q < (s.fn fn.val).qcount ∧ (s.fn fn.val).qcount ≤ 2048) ∧
    (flag (s.q fn.val q).cfg 0 = true)) ∧
  (∃ (s : State) (fn : Fin 64) (v : W64) (q : Nat),
    (reaches s fn.val 0x0A = true) ∧ (q < (s.fn fn.val).qcount ∧ (s.fn fn.val).qcount ≤ 2048) ∧
    (flag (s.q fn.val q).cfg 0 = false)) ∧
  (∃ (s : State) (fn : Fin 64) (v : W64) (q : Nat),
    (reaches s fn.val 0x0B = true) ∧ (ownerFn s fn.val = true) ∧ (q < 32)) :=
  ⟨⟨W.rgS, 0, 0xFF, by decide +kernel⟩,
   ⟨W.rgS, 0, 0xFF, 0, by decide +kernel⟩,
   ⟨W.rgS, 0, 0xFF, 0, by decide +kernel⟩,
   ⟨W.q1 (fun q => { q with cfg := 0 }) |> fun s => { s with pkg.sec.slot := 0 }, 0, 0xFF, 0, by decide +kernel⟩,
   ⟨W.rgS, 0, 0xFF, 4, by decide +kernel⟩⟩
theorem wit_RegistersAndDumps_4 :
  (∃ (s : State) (fn : Fin 64) (v : W64) (off : Nat),
    (ownerFn s fn.val = false) ∧ (off < 0x80000 ∧ off % 8 = 0)) ∧
  (∃ (s : State) (fn : Fin 64) (v : W64) (off : Nat),
    (ownerFn s fn.val = false) ∧ (off < 0x80000 ∧ off % 8 = 0)) ∧
  (∃ (s : State) (fn : Fin 64) (v : W64),
    (reaches s fn.val 0x10 = true) ∧ (ownerFn s fn.val = true)) ∧
  (∃ (s : State) (fn : Fin 64) (v : W64),
    (reaches s fn.val 0x10 = true) ∧ (fld v 15 8 < fld v 23 16 ∨ fld v 23 16 < 16 ∨ 42 < fld v 15 8)) ∧
  (∃ (s : State) (fn : Fin 64) (v : W64),
    (reaches s fn.val 0x10 = true) ∧ (ownerFn s fn.val = true) ∧
    (fld v 23 16 ≤ fld v 15 8 ∧ 16 ≤ fld v 23 16 ∧ fld v 15 8 ≤ 42) ∧
    (fld v 23 16 ≤ s.pkg.clk.tcur ∧ fld v 15 8 < s.pkg.clk.tcur)) :=
  ⟨⟨W.h1, 5, 7, 16, by decide +kernel⟩,
   ⟨W.h1, 5, 7, 16, by decide +kernel⟩,
   ⟨W.rgS, 0, 0x100, by decide +kernel⟩,
   ⟨W.rgS, 0, 0x300000, by decide +kernel⟩,
   ⟨W.rgS, 0, 0x141800, by decide +kernel⟩⟩
theorem wit_RegistersAndDumps_5 :
  (∃ (s : State) (fn : Fin 64) (v : W64),
    (reaches s fn.val 0x0E = true) ∧ (ownerFn s fn.val = true)) ∧
  (∃ (s : State) (fn : Fin 64) (v : W64),
    (reaches s fn.val 0x0D = true) ∧ (mayMbx s (some fn) = true)) ∧
  (∃ (s : State) (fn : Fin 64) (v : W64) (k : Nat),
    (reaches s fn.val 0x0F = true) ∧ ((s.fn fn.val).part < 32 ∧ k < 32)) ∧
  (∃ (s : State) (fn : Fin 64) (v : W64) (k o : Nat),
    ((s.fn fn.val).part < 32 ∧ o < 32 ∧ o ≠ (s.fn fn.val).part ∧ k < 32)) ∧
  (∃ (s : State) (fn : Fin 64) (v : W64) (c : Nat),
    (reaches s fn.val 0x01 = true) ∧ (c < 128 ∧ clRunsFor s c (s.fn fn.val).part = true)) :=
  ⟨⟨W.rgS, 0, 0xFF, by decide +kernel⟩,
   ⟨{ W.rgS with pkg.sec.phase := 3 }, 0, 0x1234, by decide +kernel⟩,
   ⟨W.rgS, 0, 0xFF, 3, by decide +kernel⟩,
   ⟨W.rgS, 0, 0xFF, 3, 9, by decide +kernel⟩,
   ⟨W.rgS, 0, 0xFF, 5, by decide +kernel⟩⟩
theorem wit_RegistersAndDumps_6 :
  (∃ (s : State) (fn : Fin 64) (v : W64) (c : Nat),
    (c < 128 ∧ clRunsFor s c (s.fn fn.val).part = false)) :=
  ⟨W.h1, 0, 0xFF, 6, by decide +kernel⟩
end

section
/-!
A step: the command in front, or a tick of the time clock (R10, R435).
-/
namespace Sys2Proof.Machine

theorem step_of_pending_cons {s : State} {c : Instr} {cs : List Instr} (h : s.pending = c :: cs) :
    step s = exec c { s with pending := cs } := by simp only [step, h]

theorem step_of_pending_nil {s : State} (h : s.pending = []) : step s = .next (tick s) := by simp only [step, h]

/-- Increments of the counter in a nanosecond without slewing: the TRIM accumulator adds or drops one as it overflows. -/
def increments (x : TimSt) : Nat :=
  if (2 ^ 32 : Int) ≤ x.acc + x.trim then 2 else if x.acc + x.trim ≤ -(2 ^ 32 : Int) then 0 else 1

/-- The TRIM accumulator after a nanosecond. -/
def accNext (x : TimSt) : Int :=
  if (2 ^ 32 : Int) ≤ x.acc + x.trim then x.acc + x.trim - 2 ^ 32
  else if x.acc + x.trim ≤ -(2 ^ 32 : Int) then x.acc + x.trim + 2 ^ 32 else x.acc + x.trim

theorem timeStep_of_slew_zero {x : TimSt} (h : x.slew = 0) :
    timeStep x = (increments x, { x with acc := accNext x, half := false }) := by
  simp only [timeStep, increments, accNext, h, if_true, apply_ite Prod.fst, apply_ite Prod.snd]

theorem timeStep_of_slew_ne_zero {x : TimSt} (h : x.slew ≠ 0) :
    timeStep x = (if x.half then increments x else increments x - 1,
      { x with acc := accNext x, slew := x.slew - 1, half := !x.half }) := by
  simp only [timeStep, increments, accNext, h, if_false, apply_ite Prod.fst, apply_ite Prod.snd]

theorem settleStop_of_not_stopping {s : State} (h : s.pkg.sec.stop ≠ .stopping) : settleStop s = s := by
  simp [settleStop, stopReady, h]

theorem tick_of_dark {s : State} (h : s.pkg.pwr.pgAon = false ∨ s.pkg.pwr.clock = false) : tick s = s := by
  rcases h with h | h <;> simp [tick, h]

theorem tick_of_lit {s : State} (h : s.pkg.pwr.pgAon = true ∧ s.pkg.pwr.clock = true ∧ s.pkg.sec.stop ≠ .stopping) :
    tick s = { countLevels s with
      now := s.now + (timeStep s.pkg.tim).1, pkg := { s.pkg with tim := (timeStep s.pkg.tim).2 } } := by
  obtain ⟨hAon, hClock, hStop⟩ := h
  simp only [tick, hAon, hClock, Bool.not_true, Bool.or_self, Bool.false_eq_true, if_false]
  exact settleStop_of_not_stopping hStop

/-- Settles O1: the equation of a step for each form of the queue, and of a tick for each state of the time clock. -/
theorem stepRunsFrontCommand : Obligations.StepRunsFrontCommand := by
  refine ⟨fun s c cs h => step_of_pending_cons h, fun s hq hd => ?dark, fun s hq hl hz => ?steady,
    fun s hq hl hz => ?slewing⟩
  case dark => rw [step_of_pending_nil hq, tick_of_dark hd]
  case steady =>
    refine ⟨_, step_of_pending_nil hq, ?_⟩
    rw [tick_of_lit hl, timeStep_of_slew_zero hz]
    exact ⟨rfl, rfl, rfl⟩
  case slewing =>
    refine ⟨_, step_of_pending_nil hq, ?_⟩
    rw [tick_of_lit hl, timeStep_of_slew_ne_zero hz]
    exact ⟨rfl, rfl, rfl⟩

end Sys2Proof.Machine
end

section
/-!
How a consumed command ends: the counters it touches, the entry it writes, and what that leaves alone (R11, R379, R380).
-/
namespace Sys2Proof.Machine

theorem count_eq (s : State) (p ev q n : Nat) : count s p ev q n = { s with pmc := (count s p ev q n).pmc } := by
  unfold count; split <;> rfl

theorem count_dumps (s : State) (p ev q n : Nat) : (count s p ev q n).pmc.dumps = s.pmc.dumps := by
  unfold count; split <;> rfl

theorem cmdOf_some {s : State} {cid code : Nat} {c : Cmd} (h : cmdOf s cid code = some c) :
    tget? s.host.cmds cid = some c ∧ c.code = code ∧ c.phase = .admitted := by
  unfold cmdOf at h
  split at h
  · cases h
  · split at h
    · next hc =>
      cases h
      simp only [Bool.and_eq_true, decide_eq_true_eq, beq_iff_eq] at hc
      exact ⟨‹_›, hc⟩
    · cases h

theorem hostWrite_of_canWrite {s : State} {f gen : Nat} (h : canWrite s f gen = true) (addr : Nat) (bs : List Byte)
    (ro : Bool) : hostWrite s f gen addr bs ro = s.emit (.hostWrite f addr bs ro) := by simp [hostWrite, h]

theorem hostWrite_of_not_canWrite {s : State} {f gen : Nat} (h : canWrite s f gen = false) (addr : Nat) (bs : List Byte)
    (ro : Bool) : hostWrite s f gen addr bs ro = count s (s.fn f).part Ev.peelDrop := by simp [hostWrite, h]

theorem canWrite_own_gen {s : State} {f gen : Nat} (h : canWrite s f gen = true) :
    (s.fn f).gen = gen ∧ canWrite s f (s.fn f).gen = true := by
  simp only [canWrite, Bool.and_eq_true, beq_iff_eq] at *
  exact ⟨h.2, h.1, trivial⟩

/-- A queue once an entry has been written into its ring (R380). -/
def Queue.afterEntry (q : Queue) : Queue :=
  { q with
    cqNext := if q.cqNext + 1 = cqSize q then 0 else q.cqNext + 1
    cqPhase := if q.cqNext + 1 = cqSize q then !q.cqPhase else q.cqPhase
    cqFree := q.cqFree - 1 }

theorem Queue.afterEntry_of_lt {q : Queue} (h : q.cqNext < cqSize q) :
    q.afterEntry = { q with
      cqNext := (q.cqNext + 1) % cqSize q
      cqPhase := if q.cqNext + 1 = cqSize q then !q.cqPhase else q.cqPhase
      cqFree := q.cqFree - 1 } := by
  have hNext : (if q.cqNext + 1 = cqSize q then 0 else q.cqNext + 1) = (q.cqNext + 1) % cqSize q := by
    split
    · next hLast => rw [hLast, Nat.mod_self]
    · exact (Nat.mod_eq_of_lt (by omega)).symm
  simp only [Queue.afterEntry, hNext]

/-- The write of an entry into the ring of a queue, at the place that comes next (R379, R380). -/
def entryOut (s : State) (f q : Nat) (e : Entry) : Out :=
  .hostWrite f ((s.q f q).cqBase.toNat + 32 * (s.q f q).cqNext)
    (entryBytes e (s.q f q).cqPhase (if e.winerr then e.slot else (s.q f q).sqHead) q) false

theorem ringWrite_of_canWrite {s : State} {f q : Nat} (e : Entry) (hw : canWrite s f (s.fn f).gen = true) :
    ringWrite s f q e = (s.emit (entryOut s f q e)).setQ f q (s.q f q).afterEntry := by
  simp only [ringWrite, hostWrite_of_canWrite hw, beq_iff_eq, Queue.afterEntry, entryOut]

/-- A completion of an enabled queue whose ring has room and whose vector is off: the entry goes out, and the ring advances. -/
theorem postEntry_of_room {s : State} {f q : Nat} (e : Entry) (hw : canWrite s f (s.fn f).gen = true)
    (hv : flag (s.q f q).cfg 2 = false) (hq : (s.q f q).cqWait = []) (hf : (s.q f q).cqFree ≠ 0) :
    postEntry s f q e = (s.emit (entryOut s f q e)).setQ f q (s.q f q).afterEntry := by
  have hs : signalCount (ringWrite s f q e) f q = ringWrite s f q e := by
    have hcfg : ((ringWrite s f q e).q f q).cfg = (s.q f q).cfg := by
      rw [ringWrite_of_canWrite e hw]; simp [State.q, State.fn, State.setQ, State.setFn, Queue.afterEntry]
    simp only [signalCount, hcfg, hv, Bool.not_false, if_true]
  simp only [postEntry, hw, hq, hf, hs, Bool.not_true, Bool.false_eq_true, if_false, List.isEmpty_nil, Bool.or_self,
    decide_false, ite_self]
  exact ringWrite_of_canWrite e hw

/-- The state in which command `cid` has left the node and `o` is its completion (R11, R379). -/
def completed (s : State) (cid : Nat) (c : Cmd) (o : Out) : State :=
  ({ s with host.cmds := terase s.host.cmds cid }.emit o).setQ c.fn c.q (s.q c.fn c.q).afterEntry

/-- The completion of a command that can be written at once, with its marks. -/
theorem postCmd_of_ringReady {s : State} {c : Cmd} (h : ringReady s c) (cid st aux v : Nat) (nd disc : Bool) :
    postCmd { s with host.cmds := terase s.host.cmds cid } c st aux v nd disc =
      completed s cid c (entryOut s c.fn c.q
        { cmdId := c.cmdId, status := st, nd := nd, discarded := disc, cmd := c.code, aux := aux, value := v
          stamp := c.stamp }) := by
  obtain ⟨hw, hen, hon, hv, hq, hf⟩ := h
  obtain ⟨hgen, hw'⟩ := canWrite_own_gen hw
  have hlive : ((s.fn c.fn).gen != c.gen || (s.q c.fn c.q).enables != c.en || !flag (s.q c.fn c.q).cfg 0) = false := by
    simp [hgen, hen, hon]
  exact (if_neg (Bool.eq_false_iff.mp hlive)).trans
    (postEntry_of_room (s := { s with host.cmds := terase s.host.cmds cid }) _ hw' hv hq hf)

theorem endCmd_of_ringReady {s : State} {cid : Nat} {c : Cmd} (hc : tget? s.host.cmds cid = some c) (h : ringReady s c)
    {st : Nat} (hst : st ≠ stAdmitRefused) (aux v : Nat) :
    endCmd s cid st aux v = completed s cid c (completion s c st aux v) := by
  simp only [endCmd, hc, hst, if_false]
  exact postCmd_of_ringReady h cid st aux v false false

theorem refuse_of_ringReady {s : State} {cid : Nat} {c : Cmd} (hc : tget? s.host.cmds cid = some c) (h : ringReady s c)
    (aux : Nat) :
    refuse s cid aux = count (completed s cid c (completion s c stAdmitRefused aux 0)) c.part Ev.cmdRefused := by
  simp only [refuse, endCmd, hc, if_true]
  rw [postCmd_of_ringReady h]
  rfl

/-- A command whose queue was disabled or whose function was reset since ends without an entry (R371, R488). -/
theorem endCmd_of_gone {s : State} {cid : Nat} {c : Cmd} (hc : tget? s.host.cmds cid = some c)
    (h : (s.fn c.fn).gen ≠ c.gen ∨ (s.q c.fn c.q).enables ≠ c.en ∨ flag (s.q c.fn c.q).cfg 0 = false)
    {st : Nat} (hst : st ≠ stAdmitRefused) (aux v : Nat) :
    endCmd s cid st aux v = count { s with host.cmds := terase s.host.cmds cid } c.part Ev.peelDrop := by
  have hgone : ((s.fn c.fn).gen != c.gen || (s.q c.fn c.q).enables != c.en || !flag (s.q c.fn c.q).cfg 0) = true := by
    simpa [or_assoc] using h
  simp only [endCmd, hc, hst, if_false]
  exact if_pos hgone

/-- Whether a completion can be written depends on the functions and the ports alone. -/
theorem ringReady_congr {s t : State} {c : Cmd} (hf : t.host.fns = s.host.fns) (ha : t.host.portA = s.host.portA)
    (hb : t.host.portB = s.host.portB) (h : ringReady s c) : ringReady t c := by
  simpa only [ringReady, canWrite, State.pcie, State.q, State.fn, hf, ha, hb] using h

/-! Commands without operands. -/

theorem headReasons_of_clean {c : Cmd} {fields : List (Nat × Nat)} (hf : c.flags = 0)
    (hr : reservedZero c.bytes 8 fields = true) (hv : c.version = 0x0200) : headReasons c fields = 0 := by
  simp [headReasons, reasons, hf, hr, hv]

theorem headReasons_of_reserved {c : Cmd} {fields : List (Nat × Nat)}
    (h : c.flags ≠ 0 ∨ reservedZero c.bytes 8 fields = false) (hv : c.version = 0x0200) :
    headReasons c fields = rsFormat := by
  have hb : (c.flags != 0 || !reservedZero c.bytes 8 fields) = true := by simpa using h
  simp [headReasons, reasons, hb, hv]

theorem execNop_of_clean {s : State} {cid : Nat} {c : Cmd} (hc : cmdOf s cid 0x01 = some c)
    (hf : c.flags = 0) (hv : c.version = 0x0200) (hz : allZero (c.bytes.drop 8) = true) :
    exec (.nop cid) s = .next (endCmd s cid stOk) := by
  show execNop cid s = _
  simp [execNop, hc, headReasons_of_clean hf (fields := []) hz hv]

theorem execNop_of_reserved {s : State} {cid : Nat} {c : Cmd} (hc : cmdOf s cid 0x01 = some c)
    (hv : c.version = 0x0200) (h : c.flags ≠ 0 ∨ allZero (c.bytes.drop 8) = false) :
    exec (.nop cid) s = .next (refuse s cid rsFormat) := by
  show execNop cid s = _
  simp only [execNop, hc, headReasons_of_reserved (fields := []) h hv]
  rfl

end Sys2Proof.Machine
end

section
/-!
Reads and writes of tier bytes within one tile (R191, R201, R378, R389).
-/
namespace Sys2Proof.Machine

/-! The regulators. -/

/-- Nothing but the regulators' accounts, the requests they hold and the counters differs. -/
def onlyRegulators (s t : State) : Prop :=
  ∃ adm held pmc, t = { s with host := { s.host with adm := adm, held := held }, pmc := pmc }

theorem onlyRegulators.refl (s : State) : onlyRegulators s s := ⟨_, _, _, rfl⟩

theorem onlyRegulators.trans {s t u : State} (h : onlyRegulators s t) (h' : onlyRegulators t u) : onlyRegulators s u := by
  obtain ⟨_, _, _, rfl⟩ := h
  obtain ⟨adm, held, pmc, rfl⟩ := h'
  exact ⟨adm, held, pmc, rfl⟩

/-- Nothing but the counters differs. -/
def onlyCounters (s t : State) : Prop := ∃ pmc, t = { s with pmc := pmc }

theorem count_onlyCounters (s : State) (p ev q n : Nat) : onlyCounters s (count s p ev q n) := ⟨_, count_eq ..⟩

theorem onlyCounters.onlyRegulators {s t : State} (h : onlyCounters s t) : onlyRegulators s t := by
  obtain ⟨pmc, rfl⟩ := h
  exact ⟨_, _, pmc, rfl⟩

theorem onlyRegulators.tier {s t : State} (h : onlyRegulators s t) : t.tier = s.tier := by
  obtain ⟨_, _, _, rfl⟩ := h; rfl

theorem onlyRegulators.work {s t : State} (h : onlyRegulators s t) : t.work = s.work := by
  obtain ⟨_, _, _, rfl⟩ := h; rfl

theorem onlyRegulators.err {s t : State} (h : onlyRegulators s t) : t.err = s.err := by
  obtain ⟨_, _, _, rfl⟩ := h; rfl

theorem onlyRegulators.home {s t : State} (h : onlyRegulators s t) : t.home = s.home := by
  obtain ⟨_, _, _, rfl⟩ := h; rfl

theorem onlyRegulators.freeAnyStack_eq {s t : State} (h : onlyRegulators s t) : freeAnyStack t = freeAnyStack s := by
  obtain ⟨_, _, _, rfl⟩ := h; rfl

theorem onlyRegulators.readSpan_eq {s t : State} (h : onlyRegulators s t) : readSpan t = readSpan s := by
  obtain ⟨_, _, _, rfl⟩ := h; rfl

theorem regTry_onlyRegulators (s : State) (p : Nat) (k : RegKind) (id n : Nat) : onlyRegulators s (regTry s p k id n).2 := by
  unfold regTry
  split
  · exact ⟨_, _, _, rfl⟩
  · dsimp only
    split
    · exact .refl s
    · have hCount := count_onlyCounters { s with host.held := s.host.held ++ [⟨k, p, id⟩] } p Ev.regHold 0xFF 1
      exact .trans ⟨_, _, _, rfl⟩ hCount.onlyRegulators

theorem regMay_stack_of_unlimited {s : State} {p : Nat} (h : fld (s.adm p).reg 47 32 = 0) (r id : Nat) :
    regMay s p (.stack r) id = true := by
  simp [regMay, regBudget, h]

theorem stackTry_of_unlimited {s : State} {p : Nat} (h : fld (s.adm p).reg 47 32 = 0) (id : Nat) (ds : List (Nat × Nat)) :
    (stackTry s p id ds).1 = true ∧ onlyRegulators s (stackTry s p id ds).2 := by
  have hNone : ds.find? (fun d => !regMay s p (.stack d.1) id) = none := by
    simp [regMay_stack_of_unlimited h]
  simp only [stackTry, hNone, true_and]
  exact List.foldlRecOn ds _ (motive := onlyRegulators s) (.refl s) fun t ht d _ =>
    ht.trans (regTry_onlyRegulators t p _ id _)

/-! The detectors, when no injection is armed. -/

theorem injHit_of_none_armed {s : State} (h : s.err.inj = []) (det : Nat) (at_ : Nat → Bool) :
    injHit s det at_ = (none, s) := by simp [injHit, h]

theorem injectHome_of_none_armed {s : State} (h : s.err.inj = []) (p t : Nat) : injectHome s p t = s := by
  simp only [injectHome, injHit_of_none_armed h]

theorem injectOnDie_of_none_armed {s : State} (h : s.err.inj = []) (p t off n : Nat) : injectOnDie s p t off n = s := by
  simp only [injectOnDie, injHit_of_none_armed h, ite_self]

theorem pprWait_onlyCounters (s : State) (p st lo hi : Nat) : onlyCounters s (pprWait s p st lo hi) := by
  unfold pprWait
  split
  · exact count_onlyCounters ..
  · exact ⟨_, rfl⟩

theorem injectStack_onlyCounters {s : State} (h : s.err.inj = []) (p t off n : Nat) :
    onlyCounters s (injectStack s p t off n) := by
  simp only [injectStack]
  split
  · exact ⟨_, rfl⟩
  · obtain ⟨pmc, hs⟩ := pprWait_onlyCounters s p ((s.home t).loc / 2 ^ 24 % 8) ((s.home t).loc % 2 ^ 20 * 1024 + off / 64)
      ((s.home t).loc % 2 ^ 20 * 1024 + (off + n - 1) / 64)
    rw [hs, injHit_of_none_armed (s := { s with pmc := pmc }) h]
    exact ⟨pmc, rfl⟩

theorem readChecks_onlyCounters {s : State} (h : s.err.inj = []) (p addr len : Nat) :
    onlyCounters s (readChecks s p addr len) := by
  unfold readChecks
  split
  · exact ⟨_, rfl⟩
  · refine List.foldlRecOn _ _ (motive := onlyCounters s) ⟨_, rfl⟩ ?_
    rintro _ ⟨pmc, rfl⟩ w _
    rw [injectHome_of_none_armed (s := { s with pmc := pmc }) h, injectOnDie_of_none_armed (s := { s with pmc := pmc }) h]
    obtain ⟨pmc', h'⟩ := injectStack_onlyCounters (s := { s with pmc := pmc }) h p w.1 w.2.1 w.2.2
    exact ⟨pmc', h'⟩

/-! An interval within one tile. -/

theorem pieces_within_tile {addr len : Nat} (h0 : 0 < len) (hfit : addr % 65536 + len ≤ 65536) :
    pieces addr len = [(addr / 65536, addr % 65536, len)] := by
  have hn : min len (65536 - addr % 65536) = len := by omega
  simp [pieces, tilePieces, tileBytes, hn, Nat.ne_of_gt h0]

theorem writeQueued_of_no_move {s : State} {t : Nat} (h : tget? s.tier.moves t = none) (off n : Nat) :
    writeQueued s t off n = false := by simp only [writeQueued, h]

theorem intervalPoisoned_of_unmapped {s : State} {t : Nat} (h : (s.home t).st = .unmapped) (off n : Nat) :
    intervalPoisoned s t off n = false := by simp [intervalPoisoned, h]

theorem readTile_of_clean {s : State} {t off n : Nat} (hst : (s.home t).st ≠ .poisoned)
    (hmv : tget? s.tier.moves t = none) (hpois : intervalPoisoned s t off n = false) :
    readTile s t off n = ⟨homeRead s t off n, false, false⟩ := by
  simp [readTile, hst, writeQueued_of_no_move hmv, hpois]

section
variable {s : State} {addr len : Nat} (h0 : 0 < len) (hfit : addr % 65536 + len ≤ 65536)
include h0 hfit

theorem readSpan_within_tile (hst : (s.home (addr / 65536)).st ≠ .poisoned)
    (hmv : tget? s.tier.moves (addr / 65536) = none)
    (hpois : intervalPoisoned s (addr / 65536) (addr % 65536) len = false) :
    readSpan s addr len = ⟨homeRead s (addr / 65536) (addr % 65536) len, false, false⟩ := by
  simp [readSpan, pieces_within_tile h0 hfit, readTile_of_clean hst hmv hpois]

theorem flashDraw_within_tile (ht : (s.home (addr / 65536)).tier ≠ 3) : flashDraw s addr len = 0 := by
  simp [flashDraw, pieces_within_tile h0 hfit, ht, sumOf]

theorem readMarks_within_tile (ht : (s.home (addr / 65536)).tier ≠ 3) (p : Nat) :
    readMarks s p addr len = touch s (addr / 65536) := by
  simp [readMarks, pieces_within_tile h0 hfit, ht]

theorem readTry_within_tile {p : Nat} (hreg : fld (s.adm p).reg 47 32 = 0) (ht : (s.home (addr / 65536)).tier ≠ 3)
    (id : Nat) : (readTry s p id addr len).1 = true ∧ onlyRegulators s (readTry s p id addr len).2 := by
  simp only [readTry, flashDraw_within_tile h0 hfit ht, ne_eq, not_true, decide_false, Bool.false_and, Bool.and_false,
    Bool.false_eq_true, if_false]
  exact stackTry_of_unlimited hreg id _

/-- A read within one tile that nothing holds up or spoils brings the tile's bytes; it leaves its charge at the regulators, its
counts and the age of the tile's frame. -/
theorem nodeRead_within_tile {p : Nat} (id : Nat) (hreg : fld (s.adm p).reg 47 32 = 0)
    (ht : (s.home (addr / 65536)).tier ≠ 3) (hst : (s.home (addr / 65536)).st ≠ .poisoned)
    (hmv : tget? s.tier.moves (addr / 65536) = none)
    (hpois : intervalPoisoned s (addr / 65536) (addr % 65536) len = false) (hinj : s.err.inj = []) :
    ∃ t, onlyRegulators s t ∧
      nodeRead s p id addr len =
        .ok (homeRead s (addr / 65536) (addr % 65536) len) (touch t (addr / 65536)) := by
  obtain ⟨hok, htry⟩ := readTry_within_tile h0 hfit hreg ht id
  have hleft : onlyRegulators s (readChecks (readTry s p id addr len).2 p addr len) :=
    htry.trans (readChecks_onlyCounters (by rw [htry.err]; exact hinj) p addr len).onlyRegulators
  refine ⟨_, hleft, ?_⟩
  simp only [nodeRead, Nat.ne_of_gt h0, readSpan_within_tile h0 hfit hst hmv hpois, hok, hleft.readSpan_eq, Bool.not_true,
    Bool.false_eq_true, if_false]
  rw [readMarks_within_tile h0 hfit (by rw [hleft.home]; exact ht)]

end

end Sys2Proof.Machine
end

section
/-!
Stores into a tile homed in a stack, new homes, and TIER_READ and TIER_WRITE (R201, R377).
-/
namespace Sys2Proof.Machine

/-! An access sets its frame's age; no frame changes its tile. -/

theorem touch_eq (s : State) (t : Nat) :
    touch s t = { s with tier := { s.tier with
      frames := (touch s t).tier.frames, ageClock := (touch s t).tier.ageClock } } := by
  unfold touch
  dsimp only
  split
  · split
    · rfl
    · split <;> rfl
  · rfl

theorem touch_frame_tile (s : State) (t k : Nat) :
    (tget? (touch s t).tier.frames k).map (·.tile) = (tget? s.tier.frames k).map (·.tile) := by
  unfold touch
  dsimp only
  split
  · split
    · rfl
    · next f hf =>
      split
      · rfl
      · by_cases hk : k = locFrame (s.home t).loc
        · subst hk; simp [hf]
        · simp [tget?_tput_ne _ _ _ _ hk]
  · rfl

theorem touch_of_unmapped {s : State} {t : Nat} (h : (s.home t).st = .unmapped) : touch s t = s := by
  simp [touch, h]

/-! Stores. -/

/-- A store changes the tile's bytes, the marks on lines and read frames, and ages; a frame keeps its tile. -/
theorem applyBytes_eq {s : State} {t : Nat} {bs : List Byte} (hbs : bs ≠ [])
    (hres : tget? s.work.resTiles t = none) (off : Nat) :
    ∃ p64 p256 dirty frames age regions,
      applyBytes s t off bs = { s with tier := { s.tier with
        mem := mwriteN s.tier.mem (t * 65536 + off) bs, pois64 := p64, pois256 := p256, dirty := dirty, frames := frames
        ageClock := age, regions := regions } } ∧
      ∀ k, (tget? frames k).map (·.tile) = (tget? s.tier.frames k).map (·.tile) := by
  have hne : bs.isEmpty = false := by simpa using hbs
  simp only [applyBytes, hne, resTile?, hres, Option.isSome_none, Bool.false_eq_true, if_false]
  rw [touch_eq]
  exact ⟨_, _, _, _, _, _, rfl, touch_frame_tile _ t⟩

theorem writeHomed_of_stack_home {s : State} {t loc : Nat} (h : s.home t = ⟨.home, 1, loc⟩) (p off : Nat)
    (bs : List Byte) (want : Option Nat) : writeHomed s p t off bs want = (.ok, applyBytes s t off bs) := by
  simp [writeHomed, h]

/-- The state in which tile `t` has stack frame `k` for its home. -/
def mapTile (s : State) (k t : Nat) : State := (takeFrame s k t).setHome t ⟨.home, 1, stackLoc k⟩

theorem mapTile_home_same (s : State) (k t : Nat) : (mapTile s k t).home t = ⟨.home, 1, stackLoc k⟩ :=
  State.home_setHome_listed _ _ _ (by simp)

theorem mapTile_home_ne (s : State) (k : Nat) {t u : Nat} (h : u ≠ t) : (mapTile s k t).home u = s.home u :=
  State.home_setHome_ne _ _ _ _ h

theorem mapTile_frame_tile (s : State) (k t : Nat) :
    (tget? (mapTile s k t).tier.frames k).map (·.tile) = some t := by
  simp [mapTile, State.setHome, takeFrame]

/-- A tile that needs a home gets the free frame that comes first (R201). -/
theorem giveHome_of_free_frame {s : State} {t k : Nat} (h : s.home t = {}) (hk : freeAnyStack s = some k) (p : Nat) :
    giveHome s p t none = some (mapTile s k t) := by
  simp [giveHome, h, findHome, stackFrameFor, hk, mapTile]

section
variable {s : State} {addr : Nat} {bs : List Byte} (hbs : bs ≠ []) (hfit : addr % 65536 + bs.length ≤ 65536)
include hbs hfit

theorem writeSpan_of_homes {s1 : State} {p loc : Nat} {want : Option Nat}
    (hgive : giveHomes s p want [(addr / 65536, bs.length == 65536)] = some s1)
    (h1 : s1.home (addr / 65536) = ⟨.home, 1, loc⟩) :
    writeSpan s p addr bs want = (.ok, applyBytes s1 (addr / 65536) (addr % 65536) bs) := by
  have hoff : addr / 65536 * 65536 + addr % 65536 - addr = 0 := by omega
  simp only [writeSpan, pieces_within_tile (List.length_pos_iff.mpr hbs) hfit, tileBytes, List.map_cons, List.map_nil,
    hgive, List.foldl_cons, List.foldl_nil, hoff, List.drop_zero, List.take_length, writeHomed_of_stack_home h1]
  rfl

theorem writeSpan_of_stack_home {loc : Nat} (h : s.home (addr / 65536) = ⟨.home, 1, loc⟩) (p : Nat) (want : Option Nat) :
    writeSpan s p addr bs want = (.ok, applyBytes s (addr / 65536) (addr % 65536) bs) :=
  writeSpan_of_homes hbs hfit (by simp [giveHomes, needsHome, h]) h

theorem writeSpan_of_unmapped {k : Nat} (h : s.home (addr / 65536) = {}) (hk : freeAnyStack s = some k) (p : Nat) :
    writeSpan s p addr bs none =
      (.ok, applyBytes (mapTile s k (addr / 65536)) (addr / 65536) (addr % 65536) bs) :=
  writeSpan_of_homes hbs hfit (by simp [giveHomes, needsHome, h, giveHome_of_free_frame h hk]) (mapTile_home_same ..)

end

/-! The two commands, their checks passed. -/

theorem tierCmdCheck_of_passed {s : State} {c : Cmd} (h : (tierCmdCheck s c).1 = 0) :
    tierCmdCheck s c = (0, getLE c.bytes 0x08 8, getLE c.bytes 0x10 8, getLE c.bytes 0x18 4) :=
  Prod.ext h rfl

theorem slice_whole (bs : List Byte) : slice bs 0 bs.length = bs := by simp [slice]

/-- A TIER_READ whose bytes come at once writes them to the host, and ends. -/
theorem execTierRead_of_read {s t : State} {cid : Nat} {c : Cmd} {bytes : List Byte} (hc : cmdOf s cid 0x38 = some c)
    (hck : (tierCmdCheck s c).1 = 0)
    (hrd : nodeRead s c.part cid (getLE c.bytes 0x10 8) (getLE c.bytes 0x18 4) = .ok bytes t) :
    exec (.tierRead cid) s = .next (endCmd (resultWrite t c.fn c.gen (getLE c.bytes 0x08 8) bytes) cid stOk) := by
  show execTierRead cid s = _
  simp only [execTierRead, hc, tierCmdCheck_of_passed hck, hrd, ne_eq, not_true, if_false]

/-- A TIER_WRITE that its regulators let pass and whose store succeeds ends. -/
theorem execTierWrite_of_store {s t : State} {cid : Nat} {c : Cmd} {bytes : List Byte} (hc : cmdOf s cid 0x39 = some c)
    (hck : (tierCmdCheck s c).1 = 0) (hlen : bytes.length = getLE c.bytes 0x18 4)
    (hreg : (stackTry s c.part cid (stackDraws s (getLE c.bytes 0x10 8) (getLE c.bytes 0x18 4))).1 = true)
    (hst : writeSpan (stackTry s c.part cid (stackDraws s (getLE c.bytes 0x10 8) (getLE c.bytes 0x18 4))).2 c.part
      (getLE c.bytes 0x10 8) bytes none = (.ok, t)) :
    exec (.tierWrite cid (.ok bytes)) s = .next (endCmd t cid stOk) := by
  show execTierWrite cid (.ok bytes) s = _
  simp only [execTierWrite, hc, tierCmdCheck_of_passed hck, ne_eq, not_true, if_false, ← hlen, slice_whole]
  simp only [hlen, hreg, hst, Bool.not_true, Bool.false_eq_true, if_false]

end Sys2Proof.Machine
end

section
/-!
What commands on tier bytes leave behind, and O13.
-/
namespace Sys2Proof.Machine

theorem resultWrite_of_canWrite {s : State} {f gen : Nat} (h : canWrite s f gen = true) (addr : Nat) (bs : List Byte) :
    resultWrite s f gen addr bs = s.emit (.hostWrite f addr bs ((s.fn f).roEn && (s.fn f).ero)) :=
  hostWrite_of_canWrite h ..

/-- Nothing of the host interface differs but the regulators' accounts and the requests they hold. -/
def hostButRegulators (s t : State) : Prop := ∃ adm held, t.host = { s.host with adm := adm, held := held }

theorem onlyRegulators.hostButRegulators {s t : State} (h : onlyRegulators s t) : hostButRegulators s t := by
  obtain ⟨adm, held, pmc, rfl⟩ := h
  exact ⟨adm, held, rfl⟩

section
variable {s t : State} (h : hostButRegulators s t)
include h

theorem hostButRegulators.fn : t.fn = s.fn := by
  obtain ⟨_, _, h⟩ := h; funext f; simp only [State.fn, h]

theorem hostButRegulators.cmds : t.host.cmds = s.host.cmds := by
  obtain ⟨_, _, h⟩ := h; rw [h]

theorem hostButRegulators.keeps_ringReady {c : Cmd} (hr : ringReady s c) : ringReady t c := by
  obtain ⟨_, _, h⟩ := h
  exact ringReady_congr (by rw [h]) (by rw [h]) (by rw [h]) hr

theorem hostButRegulators.completion_eq (c : Cmd) (st aux v : Nat) : completion t c st aux v = completion s c st aux v := by
  simp only [completion, State.q, h.fn]

/-- A command that has charged its regulators ends with the completion that it had before. -/
theorem hostButRegulators.endCmd_eq {cid : Nat} {c : Cmd} (hc : tget? s.host.cmds cid = some c) (hr : ringReady s c)
    {st : Nat} (hst : st ≠ stAdmitRefused) (aux v : Nat) :
    endCmd t cid st aux v = completed t cid c (completion s c st aux v) := by
  rw [endCmd_of_ringReady (by rw [h.cmds]; exact hc) (h.keeps_ringReady hr) hst, h.completion_eq]

end

theorem touch_hostButRegulators {s t : State} (h : hostButRegulators s t) (k : Nat) : hostButRegulators s (touch t k) := by
  rw [touch_eq]; exact h

theorem homeRead_of_unmapped {s : State} {t : Nat} (hres : tget? s.work.resTiles t = none)
    (h : (s.home t).st = .unmapped) (off n : Nat) : homeRead s t off n = List.replicate n 0 := by
  simp [homeRead, resTile?, hres, h]

theorem homeRead_of_stack_home {s : State} {t loc : Nat} (hres : tget? s.work.resTiles t = none)
    (h : s.home t = ⟨.home, 1, loc⟩) (off n : Nat) : homeRead s t off n = mreadN s.tier.mem (t * 65536 + off) n := by
  simp [homeRead, resTile?, hres, h, tileBytes]

/-- A TIER_READ within one tile that nothing holds up or spoils sends the tile's bytes and its completion. -/
theorem execTierRead_within_tile {s : State} {cid : Nat} {c : Cmd} (hc : cmdOf s cid 0x38 = some c)
    (hck : (tierCmdCheck s c).1 = 0) (h0 : 0 < getLE c.bytes 0x18 4)
    (hfit : getLE c.bytes 0x10 8 % 65536 + getLE c.bytes 0x18 4 ≤ 65536) (hreg : fld (s.adm c.part).reg 47 32 = 0)
    (ht : (s.home (getLE c.bytes 0x10 8 / 65536)).tier ≠ 3)
    (hst : (s.home (getLE c.bytes 0x10 8 / 65536)).st ≠ .poisoned)
    (hmv : tget? s.tier.moves (getLE c.bytes 0x10 8 / 65536) = none)
    (hpois : intervalPoisoned s (getLE c.bytes 0x10 8 / 65536) (getLE c.bytes 0x10 8 % 65536) (getLE c.bytes 0x18 4) = false)
    (hinj : s.err.inj = []) (hr : ringReady s c) :
    ∃ t, onlyRegulators s t ∧
      exec (.tierRead cid) s = .next (completed
        ((touch t (getLE c.bytes 0x10 8 / 65536)).emit (.hostWrite c.fn (getLE c.bytes 0x08 8)
          (homeRead s (getLE c.bytes 0x10 8 / 65536) (getLE c.bytes 0x10 8 % 65536) (getLE c.bytes 0x18 4))
          ((s.fn c.fn).roEn && (s.fn c.fn).ero)))
        cid c (completion s c stOk 0 0)) := by
  obtain ⟨t, ht, hrd⟩ := nodeRead_within_tile h0 hfit cid hreg ht hst hmv hpois hinj
  have hhost := touch_hostButRegulators ht.hostButRegulators (getLE c.bytes 0x10 8 / 65536)
  refine ⟨t, ht, ?_⟩
  rw [execTierRead_of_read hc hck hrd, resultWrite_of_canWrite (hhost.keeps_ringReady hr).1, hhost.fn]
  rw [hostButRegulators.endCmd_eq (s := s) (by exact hhost) (cmdOf_some hc).1 hr (by decide)]

/-- A TIER_WRITE of an unlimited partition is charged and passes its regulators; once its store succeeds it ends. -/
theorem execTierWrite_of_regulators {s : State} {cid : Nat} {c : Cmd} {bytes : List Byte}
    (hc : cmdOf s cid 0x39 = some c) (hck : (tierCmdCheck s c).1 = 0) (hlen : bytes.length = getLE c.bytes 0x18 4)
    (hreg : fld (s.adm c.part).reg 47 32 = 0) :
    ∃ t, onlyRegulators s t ∧ ∀ u, writeSpan t c.part (getLE c.bytes 0x10 8) bytes none = (.ok, u) →
      exec (.tierWrite cid (.ok bytes)) s = .next (endCmd u cid stOk) := by
  obtain ⟨hok, hleft⟩ :=
    stackTry_of_unlimited hreg cid (stackDraws s (getLE c.bytes 0x10 8) (getLE c.bytes 0x18 4))
  exact ⟨_, hleft, fun u hu => execTierWrite_of_store hc hck hlen hok hu⟩

/-- Settles O13: a NOP through the lemmas on the end of a command, TIER_READ and TIER_WRITE through those on an interval
within one tile. -/
theorem commandsEndAndMoveBytes : Obligations.CommandsEndAndMoveBytes := by
  refine ⟨?nop, ?reserved, ?gone, ?readHome, ?readUnmapped, ?writeHome, ?writeUnmapped⟩
  case nop =>
    intro s cid c hc hf hv hz hr hlt
    refine ⟨_, execNop_of_clean hc hf hv hz, ?_⟩
    rw [endCmd_of_ringReady (cmdOf_some hc).1 hr (by decide)]
    refine ⟨rfl, rfl, rfl, ?_, ?_⟩
    · simp [completed, State.setQ, State.fn, State.setFn, State.emit]
    · rw [← Queue.afterEntry_of_lt hlt]
      simp [completed, State.q, State.setQ]
  case reserved =>
    intro s cid c hc hv hbad hr
    refine ⟨_, execNop_of_reserved hc hv hbad, ?_⟩
    rw [refuse_of_ringReady (cmdOf_some hc).1 hr, count_out, count_host]
    exact ⟨rfl, rfl⟩
  case gone =>
    intro s cid c hc hf hv hz hgone
    rw [execNop_of_clean hc hf hv hz, endCmd_of_gone (cmdOf_some hc).1 hgone (by decide)]
    rfl
  case readHome =>
    intro s cid loc c hc hck h0 hfit hreg hhome hres hmv hpois hinj hr
    obtain ⟨_, ⟨adm, held, pmc, rfl⟩, hexec⟩ :=
      execTierRead_within_tile hc hck h0 hfit hreg (by simp [hhome]) (by simp [hhome]) hmv hpois hinj hr
    have haddr : getLE c.bytes 0x10 8 / 65536 * 65536 + getLE c.bytes 0x10 8 % 65536 = getLE c.bytes 0x10 8 :=
      Nat.div_add_mod' ..
    rw [homeRead_of_stack_home hres hhome, haddr, touch_eq] at hexec
    exact ⟨_, hexec, List.append_assoc .., rfl⟩
  case readUnmapped =>
    intro s cid c hc hck h0 hfit hreg hhome hres hmv hinj hr
    have hst : (s.home (getLE c.bytes 0x10 8 / 65536)).st = .unmapped := by rw [hhome]
    obtain ⟨t, ht, hexec⟩ := execTierRead_within_tile hc hck h0 hfit hreg (by simp [hhome])
      (by simp [hhome]) hmv (intervalPoisoned_of_unmapped hst ..) hinj hr
    rw [homeRead_of_unmapped hres hst, touch_of_unmapped (s := t) (by rw [ht.home]; exact hst)] at hexec
    obtain ⟨adm, held, pmc, rfl⟩ := ht
    exact ⟨_, hexec, List.append_assoc .., rfl⟩
  case writeHome =>
    intro s cid loc c bytes hc hck h0 hfit hreg hhome hres hlen hwf hr
    rw [← hlen] at h0 hfit
    have hbs : bytes ≠ [] := List.length_pos_iff.mp h0
    obtain ⟨t, ht, hexec⟩ := execTierWrite_of_regulators hc hck hlen hreg
    obtain ⟨_, _, _, _, _, _, happ, -⟩ :=
      applyBytes_eq (s := t) (t := getLE c.bytes 0x10 8 / 65536) hbs (by rw [ht.work]; exact hres)
        (getLE c.bytes 0x10 8 % 65536)
    have hw := writeSpan_of_stack_home hbs hfit (by rw [ht.home]; exact hhome) c.part none
    rw [happ, Nat.div_add_mod'] at hw
    have hend := hexec _ hw
    obtain ⟨adm, held, pmc, rfl⟩ := ht
    rw [hostButRegulators.endCmd_eq (s := s) ⟨adm, held, rfl⟩ (cmdOf_some hc).1 hr (by decide)] at hend
    exact ⟨_, hend, rfl, storesAt_mwriteN _ _ hwf, rfl, rfl⟩
  case writeUnmapped =>
    intro s cid k c bytes hc hck h0 hfit hreg hhome hres hk _ hlen hwf hr
    rw [← hlen] at h0 hfit
    have hbs : bytes ≠ [] := List.length_pos_iff.mp h0
    obtain ⟨t, ht, hexec⟩ := execTierWrite_of_regulators hc hck hlen hreg
    obtain ⟨_, _, _, _, _, _, happ, hframes⟩ :=
      applyBytes_eq (s := mapTile t k (getLE c.bytes 0x10 8 / 65536)) (t := getLE c.bytes 0x10 8 / 65536) hbs
        (by show tget? t.work.resTiles _ = none; rw [ht.work]; exact hres) (getLE c.bytes 0x10 8 % 65536)
    have hw := writeSpan_of_unmapped hbs hfit (by rw [ht.home]; exact hhome) (ht.freeAnyStack_eq.trans hk) c.part
    rw [happ, Nat.div_add_mod'] at hw
    have hend := hexec _ hw
    have hframe := (hframes k).trans (mapTile_frame_tile t k _)
    have hhome' := mapTile_home_same t k (getLE c.bytes 0x10 8 / 65536)
    have hothers (u : Nat) (hu : u ≠ getLE c.bytes 0x10 8 / 65536) := mapTile_home_ne t k hu
    obtain ⟨adm, held, pmc, rfl⟩ := ht
    rw [hostButRegulators.endCmd_eq (s := s) ⟨adm, held, rfl⟩ (cmdOf_some hc).1 hr (by decide)] at hend
    exact ⟨_, hend, rfl, storesAt_mwriteN _ _ hwf, hhome', hothers, hframe⟩

end Sys2Proof.Machine
end

section
/-!
Fields of registers, bit by bit (R6, R8).
-/
namespace Sys2Proof.Machine

theorem testBit_bitsOf (n hi lo i : Nat) :
    (bitsOf n hi lo).testBit i = (decide (i < hi + 1 - lo) && n.testBit (lo + i)) := by
  simp [bitsOf, Nat.testBit_mod_two_pow, Nat.testBit_div_two_pow, Nat.add_comm]

/-- Two registers with the same bits in a field have the same field. -/
theorem fld_congr {a b : W64} {hi lo : Nat} (h : ∀ i, lo ≤ i → i ≤ hi → a.getLsbD i = b.getLsbD i) :
    fld a hi lo = fld b hi lo := by
  refine Nat.eq_of_testBit_eq fun i => ?_
  simp only [fld, testBit_bitsOf]
  by_cases hi' : i < hi + 1 - lo
  · have := h (lo + i) (by omega) (by omega)
    simp only [BitVec.getLsbD] at this
    rw [this]
  · simp [hi']

@[simp] theorem getLsbD_maskOf (hi lo i : Nat) (h : hi < 64) :
    (maskOf hi lo).getLsbD i = (decide (lo ≤ i) && decide (i ≤ hi)) := by
  simp only [maskOf, BitVec.getLsbD_ofNat, Nat.testBit_mul_two_pow, Nat.testBit_two_pow_sub_one]
  by_cases h1 : lo ≤ i <;> by_cases h2 : i ≤ hi <;> simp [h1, h2] <;> omega

/-- A merge takes the written value in the fields that the write reaches, and keeps the rest. -/
theorem getLsbD_rwMerge (old v m fields : W64) (i : Nat) :
    (rwMerge old v m fields).getLsbD i =
      if fields.getLsbD i && m.getLsbD i then v.getLsbD i else old.getLsbD i := by
  by_cases hi : i < 64
  · simp only [rwMerge, BitVec.getLsbD_or, BitVec.getLsbD_and, BitVec.getLsbD_not, hi, decide_true, Bool.true_and]
    cases fields.getLsbD i <;> cases m.getLsbD i <;> simp
  · simp [BitVec.getLsbD_of_ge _ _ (Nat.le_of_not_lt hi)]

theorem getLsbD_setFld (w : W64) (hi lo v i : Nat) (h : hi < 64) :
    (setFld w hi lo v).getLsbD i = if lo ≤ i ∧ i ≤ hi then v.testBit (i - lo) else w.getLsbD i := by
  simp only [setFld, BitVec.getLsbD_or, BitVec.getLsbD_and, BitVec.getLsbD_not, getLsbD_maskOf hi lo i h,
    BitVec.getLsbD_ofNat, Nat.testBit_mul_two_pow, Nat.testBit_mod_two_pow]
  by_cases hin : lo ≤ i ∧ i ≤ hi
  · simp [hin, show i < 64 by omega, show i - lo < hi + 1 - lo by omega]
  · by_cases hi64 : i < 64
    · by_cases hlo : lo ≤ i
      · simp [hi64, hlo, show ¬ i ≤ hi by omega, show ¬ i - lo < hi + 1 - lo by omega]
      · simp [hi64, hlo]
    · simp [hin, BitVec.getLsbD_of_ge w i (Nat.le_of_not_lt hi64), hi64]

/-- A field read after its own write is the value's low bits. -/
theorem fld_setFld_same (w : W64) {hi lo : Nat} (v : Nat) (h : hi < 64) :
    fld (setFld w hi lo v) hi lo = v % 2 ^ (hi + 1 - lo) := by
  refine Nat.eq_of_testBit_eq fun i => ?_
  simp only [fld, testBit_bitsOf, Nat.testBit_mod_two_pow]
  by_cases hin : i < hi + 1 - lo
  · have hbit := getLsbD_setFld w hi lo v (lo + i) h
    rw [if_pos (by omega), Nat.add_sub_cancel_left] at hbit
    simp only [hin, decide_true, Bool.true_and]
    exact hbit
  · simp [hin]

theorem fld_setFld_disjoint (w : W64) {hi lo hi' lo' : Nat} (v : Nat) (h : hi < 64) (hd : hi' < lo ∨ hi < lo') :
    fld (setFld w hi lo v) hi' lo' = fld w hi' lo' :=
  fld_congr fun i h1 h2 => by rw [getLsbD_setFld _ _ _ _ _ h, if_neg (by omega)]

/-! A write of all 8 bytes reaches every bit. -/

theorem maskOf_whole : maskOf 63 0 = BitVec.allOnes 64 := by decide

theorem and_whole (v : W64) : v &&& maskOf 63 0 = v := by rw [maskOf_whole, BitVec.and_allOnes]

theorem getLsbD_rwMerge_whole (old v fields : W64) (i : Nat) :
    (rwMerge old v (maskOf 63 0) fields).getLsbD i = if fields.getLsbD i then v.getLsbD i else old.getLsbD i := by
  rw [getLsbD_rwMerge]
  by_cases hi : i < 64
  · rw [getLsbD_maskOf 63 0 i (by omega)]
    simp [show i ≤ 63 by omega]
  · simp [BitVec.getLsbD_of_ge _ _ (Nat.le_of_not_lt hi)]

/-- A field inside the writable bits takes the written value. -/
theorem fld_rwMerge_written (old v : W64) {fhi flo hi lo : Nat} (h : fhi < 64) (hin : flo ≤ lo ∧ hi ≤ fhi) :
    fld (rwMerge old v (maskOf 63 0) (maskOf fhi flo)) hi lo = fld v hi lo :=
  fld_congr fun i h1 h2 => by
    rw [getLsbD_rwMerge_whole, getLsbD_maskOf _ _ _ h]
    simp [show flo ≤ i by omega, show i ≤ fhi by omega]

/-- A field outside the writable bits stays. -/
theorem fld_rwMerge_kept (old v m : W64) {fhi flo hi lo : Nat} (h : fhi < 64) (hout : hi < flo ∨ fhi < lo) :
    fld (rwMerge old v m (maskOf fhi flo)) hi lo = fld old hi lo :=
  fld_congr fun i h1 h2 => by
    rw [getLsbD_rwMerge, getLsbD_maskOf _ _ _ h]
    rcases hout with hout | hout
    · simp [show ¬ flo ≤ i by omega]
    · simp [show ¬ i ≤ fhi by omega]

theorem w1c_eq (old v mask : W64) : w1c old v mask = old &&& ~~~(v &&& mask) := rfl


end Sys2Proof.Machine
end

section
/-!
Writes of a function to its control space: which register a write of 8 bytes reaches, and what it changes there (R7, R8).
-/
namespace Sys2Proof.Machine

theorem execRegisterWrite_of_bad_access {addr size : Nat} (h : barOk addr size = false) (s : State) (fn : Fin 64)
    (v : W64) : exec (.registerWrite fn addr size v) s = .next s := by
  show execRegisterWrite fn addr size v s = _
  simp [execRegisterWrite, h]

/-- A write that R7 takes is a write to the block that its address lies in. -/
theorem execRegisterWrite_of_access {addr size : Nat} (h : barOk addr size = true) (s : State) (fn : Fin 64) (v : W64) :
    ∃ off v' m, exec (.registerWrite fn addr size v) s = .next (writeReg s fn (addr / 0x80000) off v' m) := by
  show ∃ off v' m, execRegisterWrite fn addr size v s = _
  simp only [execRegisterWrite, h, Bool.not_true, Bool.false_eq_true, if_false]
  exact ⟨_, _, _, rfl⟩

/-- An aligned write of 8 bytes at an offset of a block writes that register whole. -/
theorem execRegisterWrite_whole {addr blk off : Nat} (ha : addr = blk * 0x80000 + off) (hb : blk < 32)
    (ho : off < 0x80000) (h8 : off % 8 = 0) (s : State) (fn : Fin 64) (v : W64) :
    exec (.registerWrite fn addr 8 v) s = .next (writeReg s fn blk off v (maskOf 63 0)) := by
  have hok : barOk addr 8 = true := by
    simp only [barOk, Bool.and_eq_true, Bool.or_eq_true, beq_iff_eq, decide_eq_true_eq]
    exact ⟨⟨.inl trivial, by omega⟩, by omega⟩
  have hblk : addr / 0x80000 = blk := by omega
  have hoff : addr % 0x80000 / 8 * 8 = off := by omega
  show execRegisterWrite fn addr 8 v s = _
  simp [execRegisterWrite, hok, hblk, hoff]

/-- As `execRegisterWrite_whole`, for the register of the function's own partition among 32. -/
theorem execRegisterWrite_own {s : State} {fn : Fin 64} (hp : (s.fn fn.val).part < 32) {blk base : Nat}
    (hb : blk < 32 ∧ base < 0x7FF00 ∧ base % 8 = 0) (v : W64) :
    exec (.registerWrite fn (blk * 0x80000 + base + 8 * (s.fn fn.val).part) 8 v) s =
      .next (writeReg s fn blk (base + 8 * (s.fn fn.val).part) v (maskOf 63 0)) :=
  execRegisterWrite_whole (by omega) hb.1 (by omega) (by omega) s fn v

theorem writeReg_of_not_reaches {s : State} {fn : Fin 64} {blk : Nat} (h : reaches s fn.val blk = false) (off : Nat)
    (v m : W64) : writeReg s fn blk off v m = s := by simp [writeReg, h]

theorem writeReg_top (s : State) (fn : Fin 64) (off : Nat) (v m : W64) : writeReg s fn 0 off v m = s := by
  unfold writeReg; dsimp only; split <;> rfl

/-! The block that a write reaches, for a function that reaches it. -/

section
variable {s : State} {fn : Fin 64} {off : Nat} {v m : W64}

theorem writeReg_cls (h : reaches s fn.val 0x01 = true) :
    writeReg s fn 0x01 off v m = wrCls s (s.fn fn.val).part off v m := by
  simp [writeReg, h]

theorem writeReg_tier (h : reaches s fn.val 0x04 = true) :
    writeReg s fn 0x04 off v m = wrTier s fn.val (s.fn fn.val).part off v m := by
  simp [writeReg, h]

theorem writeReg_epo (h : reaches s fn.val 0x05 = true) :
    writeReg s fn 0x05 off v m = wrEpo s fn.val (s.fn fn.val).part off v m := by
  simp [writeReg, h]

theorem writeReg_fls (h : reaches s fn.val 0x09 = true) :
    writeReg s fn 0x09 off v m = wrFls s fn.val (s.fn fn.val).part off v m := by
  simp [writeReg, h]

theorem writeReg_hif (h : reaches s fn.val 0x0A = true) :
    writeReg s fn 0x0A off v m = wrHif s fn.val off v m := by
  simp [writeReg, h]

theorem writeReg_adm (h : reaches s fn.val 0x0B = true) :
    writeReg s fn 0x0B off v m = wrAdm s fn.val off v m := by
  simp [writeReg, h]

theorem writeReg_sec (h : reaches s fn.val 0x0D = true) :
    writeReg s fn 0x0D off v m = wrSec s fn off v m := by
  simp [writeReg, h]

theorem writeReg_tim (h : reaches s fn.val 0x0E = true) :
    writeReg s fn 0x0E off v m = wrTim s fn.val off v m := by
  simp [writeReg, h]

theorem writeReg_pmc (h : reaches s fn.val 0x0F = true) :
    writeReg s fn 0x0F off v m = wrPmc s (s.fn fn.val).part off v m := by
  simp [writeReg, h]

theorem writeReg_pwr (h : reaches s fn.val 0x10 = true) :
    writeReg s fn 0x10 off v m = wrPwr s fn.val off v m := by
  simp [writeReg, h]

theorem writeReg_nbs (h : reaches s fn.val 0x03 = true) :
    writeReg s fn 0x03 (0x600 + 8 * (s.fn fn.val).part) v m =
      { s with work.nbsErr := clearTab s.work.nbsErr (s.fn fn.val).part v m (maskOf 4 0) } := by
  simp [writeReg, h]

theorem writeReg_kne (h : reaches s fn.val 0x06 = true) :
    writeReg s fn 0x06 (0x400 + 8 * (s.fn fn.val).part) v m =
      { s with work.kneErr := clearTab s.work.kneErr (s.fn fn.val).part v m (maskOf 3 0) } := by
  simp [writeReg, h]

theorem writeReg_swc (h : reaches s fn.val 0x08 = true) :
    writeReg s fn 0x08 (0x800 + 8 * (s.fn fn.val).part) v m =
      { s with fab.swcErr := clearTab s.fab.swcErr (s.fn fn.val).part v m (maskOf 4 0) } := by
  simp [writeReg, h]

end

/-! Instances of a register. -/

theorem inst_some {off base stride n k : Nat} (hs : 0 < stride) (h : off = base + stride * k) (hk : k < n) :
    inst off base stride n = some k := by
  subst h
  simp [inst, Nat.mul_div_cancel_left k hs, hk]

theorem inst_none {off base stride n : Nat} (h : off < base ∨ (off - base) % stride ≠ 0 ∨ n ≤ (off - base) / stride) :
    inst off base stride n = none := by
  unfold inst; rw [if_neg]; omega

theorem instIf_some {off base stride n k : Nat} {ok : Nat → Bool} (h : inst off base stride n = some k)
    (hok : ok k = true) : instIf off base stride n ok = some k := by simp [instIf, h, hok]

theorem instIf_refused {off base stride n k : Nat} {ok : Nat → Bool} (h : inst off base stride n = some k)
    (hok : ok k = false) : instIf off base stride n ok = none := by simp [instIf, h, hok]

theorem instIf_none {off base stride n : Nat} {ok : Nat → Bool} (h : inst off base stride n = none) :
    instIf off base stride n ok = none := by simp [instIf, h]

theorem clearTab_whole (t : Tab W64) (k : Nat) (v fields : W64) :
    clearTab t k v (maskOf 63 0) fields = tmod t k 0 (fun w => w &&& ~~~(v &&& fields)) := by
  simp only [clearTab, and_whole, w1c_eq]

/-! The blocks that a partition writes for itself. -/

theorem touches_whole {hi lo : Nat} (h : maskOf 63 0 &&& maskOf hi lo ≠ 0) : touches (maskOf 63 0) hi lo = true := by
  simpa [touches] using h

theorem wrTier_tile (s : State) (f p : Nat) (v : W64) :
    wrTier s f p 0x10 v (maskOf 63 0) = s.setFn f { s.fn f with hlook := fld v 56 32 } := by
  simp only [wrTier, touches_whole (hi := 56) (lo := 32) (by decide), if_true]

theorem wrTier_err (s : State) (f p : Nat) (v : W64) :
    wrTier s f p (0xC00 + 8 * p) v (maskOf 63 0) =
      { s with tier.err := tmod s.tier.err p 0 (fun w => w &&& ~~~(v &&& maskOf 5 0)) } := by
  simp only [wrTier, show ¬ (0xC00 + 8 * p = 0x10) by omega, if_false, if_true, clearTab_whole]

theorem wrEpo_err (s : State) (f : Nat) {p : Nat} (hp : p < 32) (v : W64) :
    wrEpo s f p (0x600 + 8 * p) v (maskOf 63 0) =
      { s with epo.err := tmod s.epo.err p 0 (fun w => w &&& ~~~(v &&& maskOf 5 0)) } := by
  have hCkpt : inst (0x600 + 8 * p) 0x208 0x10 32 = none := inst_none (by omega)
  simp only [wrEpo, hCkpt, if_true, clearTab_whole]

theorem wrFls_err (s : State) (f p : Nat) (v : W64) :
    wrFls s f p (0x600 + 8 * p) v (maskOf 63 0) =
      { s with flash.err := tmod s.flash.err p 0 (fun w => w &&& ~~~(v &&& maskOf 3 0)) } := by
  simp only [wrFls, show ¬ (0x600 + 8 * p = 0x30) by omega, if_false, if_true, clearTab_whole]

/-! Queues. -/

theorem wrBase_of_enabled {s : State} {f q : Nat} (h : flag (s.q f q).cfg 0 = true) (g : Queue → Queue) :
    wrBase s f q g = s := by simp [wrBase, h]

theorem wrBase_of_disabled {s : State} {f q : Nat} (h : flag (s.q f q).cfg 0 = false) (g : Queue → Queue) :
    wrBase s f q g = s.setQ f q (g (s.q f q)) := by simp [wrBase, h]

@[simp] theorem State.q_setQ_same (s : State) (f q : Nat) (x : Queue) : (s.setQ f q x).q f q = x := by
  simp [State.q, State.setQ]

section
variable {s : State} {f q : Nat} (hq : q < (s.fn f).qcount)
include hq

theorem wrHif_err (v : W64) :
    wrHif s f (0x1028 + 0x40 * q) v (maskOf 63 0) =
      s.setQ f q { s.q f q with err := (s.q f q).err &&& ~~~(v &&& maskOf 4 0) } := by
  have h0 : inst (0x1028 + 0x40 * q) 0x1000 0x40 (s.fn f).qcount = none := inst_none (by omega)
  have h1 : inst (0x1028 + 0x40 * q) 0x1008 0x40 (s.fn f).qcount = none := inst_none (by omega)
  have h2 : inst (0x1028 + 0x40 * q) 0x1010 0x40 (s.fn f).qcount = none := inst_none (by omega)
  have h3 : inst (0x1028 + 0x40 * q) 0x1018 0x40 (s.fn f).qcount = none := inst_none (by omega)
  have h4 : inst (0x1028 + 0x40 * q) 0x1028 0x40 (s.fn f).qcount = some q := inst_some (by omega) rfl hq
  simp only [wrHif, h0, h1, h2, h3, h4, show ¬ (0x1028 + 0x40 * q = 8) by omega, if_false, and_whole, w1c_eq]

theorem wrHif_cqBase (v : W64) :
    wrHif s f (0x1008 + 0x40 * q) v (maskOf 63 0) =
      wrBase s f q fun x => { x with cqBase := rwMerge x.cqBase v (maskOf 63 0) (maskOf 63 3) } := by
  have h0 : inst (0x1008 + 0x40 * q) 0x1000 0x40 (s.fn f).qcount = none := inst_none (by omega)
  have h1 : inst (0x1008 + 0x40 * q) 0x1008 0x40 (s.fn f).qcount = some q := inst_some (by omega) rfl hq
  simp only [wrHif, h0, h1, show ¬ (0x1008 + 0x40 * q = 8) by omega, if_false]

end

/-! The blocks of the owner partition. -/

theorem wrAdm_reg {s : State} {f q : Nat} (hf : ownerFn s f = true) (hq : q < 32) (v : W64) :
    wrAdm s f (0x18 + 0x20 * q) v (maskOf 63 0) =
      s.setAdm q { s.adm q with reg := rwMerge (s.adm q).reg v (maskOf 63 0) (maskOf 47 0) } := by
  have h0 : inst (0x18 + 0x20 * q) 0x08 0x20 32 = none := inst_none (by omega)
  have h1 : inst (0x18 + 0x20 * q) 0x18 0x20 32 = some q := inst_some (by omega) rfl hq
  simp only [wrAdm, h0, h1, hf, if_true]

theorem wrPwr_of_not_owner {s : State} {f : Nat} (hf : ownerFn s f = false) (off : Nat) (v m : W64) :
    wrPwr s f off v m = s := by simp [wrPwr, hf]

theorem wrTim_of_not_owner {s : State} {f : Nat} (hf : ownerFn s f = false) (off : Nat) (v m : W64) :
    wrTim s f off v m = s := by simp [wrTim, hf]

theorem writeReg_pwr_of_not_owner {s : State} {fn : Fin 64} (hf : ownerFn s fn.val = false) (off : Nat) (v m : W64) :
    writeReg s fn 0x10 off v m = s := by
  by_cases h : reaches s fn.val 0x10 = true
  · rw [writeReg_pwr h, wrPwr_of_not_owner hf]
  · exact writeReg_of_not_reaches (by simpa using h) ..

theorem writeReg_tim_of_not_owner {s : State} {fn : Fin 64} (hf : ownerFn s fn.val = false) (off : Nat) (v m : W64) :
    writeReg s fn 0x0E off v m = s := by
  by_cases h : reaches s fn.val 0x0E = true
  · rw [writeReg_tim h, wrTim_of_not_owner hf]
  · exact writeReg_of_not_reaches (by simpa using h) ..

theorem wrPwr_limit {s : State} {f : Nat} (hf : ownerFn s f = true) (v m : W64) :
    wrPwr s f 0x10 v m = { s with pkg.clk.limit := wrLimit s.pkg.clk.limit v m } := by simp [wrPwr, hf]

theorem fld_wrLimit_limit (old v : W64) :
    fld (wrLimit old v (maskOf 63 0)) 15 0 = max 400 (min 1100 (fld v 15 0)) := by
  unfold wrLimit
  dsimp only
  rw [fld_setFld_same _ _ (by omega), fld_rwMerge_written _ _ (by omega) (by omega)]
  omega

theorem fld_wrLimit_high (old v : W64) : fld (wrLimit old v (maskOf 63 0)) 31 16 = fld v 31 16 := by
  unfold wrLimit
  dsimp only
  rw [fld_setFld_disjoint _ _ (by omega) (by omega), fld_rwMerge_written _ _ (by omega) (by omega)]

theorem wrTim_trim {s : State} {f : Nat} (hf : ownerFn s f = true) (v : W64) :
    wrTim s f 0x18 v (maskOf 63 0) = { s with pkg.tim.trim := clampTrim (sext 32 (fld v 31 0)) } := by
  simp [wrTim, hf, touches_whole (hi := 31) (lo := 0) (by decide)]

theorem wrSec_mbxAddr {s : State} {fn : Fin 64} (h : mayMbx s (some fn) = true) (v m : W64) :
    wrSec s fn 0x100 v m = { s with pkg.sec.mbxAddr := rwMerge s.pkg.sec.mbxAddr v m (maskOf 63 6) } := by
  simp [wrSec, h]

/-- MIN above MAX, or a value outside 16 to 42, has no effect (R481). -/
theorem wrTclk_of_bad {s : State} {v : W64} (h : fld v 15 8 < fld v 23 16 ∨ fld v 23 16 < 16 ∨ 42 < fld v 15 8) :
    wrTclk s v (maskOf 63 0) = s := by
  simp only [wrTclk, fld_rwMerge_written _ v (fhi := 23) (flo := 8) (hi := 23) (lo := 16) (by omega) (by omega),
    fld_rwMerge_written _ v (fhi := 23) (flo := 8) (hi := 15) (lo := 8) (by omega) (by omega)]
  rw [if_pos]
  simp only [Bool.or_eq_true, decide_eq_true_eq]
  omega

/-- A MAX below the clock brings the clock down to it (R473, R481). -/
theorem wrTclk_of_lower {s : State} {v : W64} (hord : fld v 23 16 ≤ fld v 15 8) (hlo : 16 ≤ fld v 23 16)
    (hhi : fld v 15 8 ≤ 42) (hmin : fld v 23 16 ≤ s.pkg.clk.tcur) (hmax : fld v 15 8 < s.pkg.clk.tcur) :
    wrTclk s v (maskOf 63 0) = { s with pkg.clk := { s.pkg.clk with
      tmin := fld v 23 16, tmax := fld v 15 8, tcur := fld v 15 8, tcause := 3
      vddcd := if s.pkg.pwr.avsDead = [] then voltFor (fld v 15 8) else s.pkg.clk.vddcd
      raise := none } } := by
  have hin : (!touches (maskOf 63 0) 23 8 || decide (fld v 15 8 < fld v 23 16) || decide (fld v 23 16 < 16) ||
      decide (42 < fld v 15 8)) = false := by
    simp only [touches_whole (hi := 23) (lo := 8) (by decide), Bool.or_eq_false_iff, decide_eq_false_iff_not]
    exact ⟨⟨⟨rfl, by omega⟩, by omega⟩, by omega⟩
  simp only [wrTclk, fld_rwMerge_written _ v (fhi := 23) (flo := 8) (hi := 23) (lo := 16) (by omega) (by omega),
    fld_rwMerge_written _ v (fhi := 23) (flo := 8) (hi := 15) (lo := 8) (by omega) (by omega), hin]
  simp [hmax, Nat.min_eq_right (Nat.le_of_lt hmax), Nat.not_lt.mpr hmin]

theorem wrPwr_tclk {s : State} {f : Nat} (hf : ownerFn s f = true) (v m : W64) : wrPwr s f 0x18 v m = wrTclk s v m := by
  simp [wrPwr, hf]

theorem wrPwr_tclk_of_bad {s : State} {f : Nat} {v : W64}
    (h : fld v 15 8 < fld v 23 16 ∨ fld v 23 16 < 16 ∨ 42 < fld v 15 8) : wrPwr s f 0x18 v (maskOf 63 0) = s := by
  simp only [wrPwr, wrTclk_of_bad h]
  split <;> rfl

/-! Counters, and the saturation events of clusters. -/

/-- The offset of counter `k` of partition `o` meets no other register of a function's counters. -/
theorem wrPmc_counter {s : State} {p o k : Nat} (ho : o < 32) (hk : k < 32) (v m : W64) :
    wrPmc s p (0x10008 + 0x10 * (o * 64 + k)) v m =
      if o = p then { s with pmc.pctr := tmod s.pmc.pctr (o * 32 + k) 0 fun w => wrCtr w v m } else s := by
  have h0 : inst (0x10008 + 0x10 * (o * 64 + k)) 0x1000 0x10 2048 = none := inst_none (by omega)
  have h1 : inst (0x10008 + 0x10 * (o * 64 + k)) 0x1008 0x10 2048 = none := inst_none (by omega)
  have h2 : inst (0x10008 + 0x10 * (o * 64 + k)) 0x10000 0x10 2048 = none := inst_none (by omega)
  have h3 : inst (0x10008 + 0x10 * (o * 64 + k)) 0x10008 0x10 2048 = some (o * 64 + k) :=
    inst_some (by omega) rfl (by omega)
  have hdiv : (o * 64 + k) / 64 = o := by omega
  have hmod : (o * 64 + k) % 64 = k := by omega
  by_cases hp : o = p
  · subst hp
    simp only [wrPmc, instIf_none h0, instIf_none h1, instIf_none h2,
      instIf_some h3 (ok := fun k => k / 64 == o && decide (k % 64 < 32)) (by simp [hdiv, hmod, hk]), hdiv, hmod, if_true]
  · simp only [wrPmc, instIf_none h0, instIf_none h1, instIf_none h2,
      instIf_refused h3 (ok := fun k => k / 64 == p && decide (k % 64 < 32)) (by simp [hdiv, hp]), if_neg hp]
    simp [show ¬ 0x10008 + 0x10 * (o * 64 + k) = 0x20000 + 0x20 * p by omega,
      show ¬ 0x10008 + 0x10 * (o * 64 + k) = 0x20008 + 0x20 * p by omega,
      show ¬ 0x10008 + 0x10 * (o * 64 + k) = 0x20010 + 0x20 * p by omega]

/-- A function cannot write another partition's counter. -/
theorem writeReg_foreign_counter {s : State} {fn : Fin 64} {o k : Nat} (ho : o < 32) (hk : k < 32)
    (hp : o ≠ (s.fn fn.val).part) (v m : W64) :
    writeReg s fn 0x0F (0x10008 + 0x10 * (o * 64 + k)) v m = s := by
  by_cases h : reaches s fn.val 0x0F = true
  · rw [writeReg_pmc h, wrPmc_counter ho hk, if_neg hp]
  · exact writeReg_of_not_reaches (by simpa using h) ..

theorem fld_wrCtr_count (old v : W64) : fld (wrCtr old v (maskOf 63 0)) 47 0 = fld v 47 0 := by
  rw [← fld_rwMerge_written old v (fhi := 47) (flo := 0) (by omega) (by omega)]
  refine fld_congr fun i _ hi => ?_
  simp only [wrCtr, w1c_eq, BitVec.getLsbD_and, BitVec.getLsbD_not, getLsbD_maskOf 48 48 i (by omega)]
  simp [show ¬ 48 ≤ i by omega, show i < 64 by omega]

theorem flag_wrCtr_ovf (old v : W64) : flag (wrCtr old v (maskOf 63 0)) 48 = (flag old 48 && !flag v 48) := by
  simp only [flag, wrCtr, w1c_eq, and_whole, BitVec.getLsbD_and, BitVec.getLsbD_not, getLsbD_rwMerge_whole,
    getLsbD_maskOf 48 48 48 (by omega), getLsbD_maskOf 47 0 48 (by omega)]
  simp

/-- A write at the offset of a cluster's saturation events reaches them if the cluster runs a role of the partition. -/
theorem wrCls_satEvt {s : State} {p c : Nat} (hc : c < 128) (v : W64) :
    wrCls s p (0x10 + 0x40 * c) v (maskOf 63 0) =
      if clRunsFor s c p then s.setCl c { s.cl c with satEvt := (s.cl c).satEvt &&& ~~~v } else s := by
  have h0 : inst (0x10 + 0x40 * c) 0x08 0x40 128 = none := inst_none (by omega)
  have h1 : inst (0x10 + 0x40 * c) 0x10 0x40 128 = some c := inst_some (by omega) rfl hc
  have h2 : inst (0x10 + 0x40 * c) 0x18 0x40 128 = none := inst_none (by omega)
  have h3 : inst (0x10 + 0x40 * c) 0x20 0x40 128 = none := inst_none (by omega)
  have h4 : inst (0x10 + 0x40 * c) 0x2000 0x10 8192 = none := inst_none (by omega)
  have h5 : inst (0x10 + 0x40 * c) 0x2008 0x10 8192 = none := inst_none (by omega)
  by_cases hr : clRunsFor s c p = true
  · simp only [wrCls, instIf_none h0, instIf_some h1 (ok := fun c => clRunsFor s c p) hr, hr, if_true, and_whole, w1c_eq]
  · simp only [wrCls, instIf_none h0, instIf_refused h1 (ok := fun c => clRunsFor s c p) (by simpa using hr),
      instIf_none h2, instIf_none h3, instIf_none h4, instIf_none h5, hr]
    rfl

/-- A function cannot clear the saturation events of a cluster that runs no role of its partition. -/
theorem writeReg_foreign_satEvt {s : State} {fn : Fin 64} {c : Nat} (hc : c < 128)
    (hr : clRunsFor s c (s.fn fn.val).part = false) (v : W64) :
    writeReg s fn 0x01 (0x10 + 0x40 * c) v (maskOf 63 0) = s := by
  by_cases h : reaches s fn.val 0x01 = true
  · rw [writeReg_cls h, wrCls_satEvt hc, hr]
    rfl
  · exact writeReg_of_not_reaches (by simpa using h) ..

end Sys2Proof.Machine
end

section
/-!
Dumps of the counters (R451, R452), and O60.
-/
namespace Sys2Proof.Machine

/-- A partition's dump as a latch leaves it (R451, R456). -/
def latched (s : State) (f : Nat) (d : Dump) : Dump :=
  { d with
    n := d.n + 1, lastT := some s.now, seq := if canWrite s f (s.fn f).gen then d.n + 1 else d.seq
    lost := d.lost || !(s.pcie f).up }

theorem latched_of_canWrite {s : State} {f : Nat} (hup : (s.pcie f).up = true) (hw : canWrite s f (s.fn f).gen = true)
    (d : Dump) : latched s f d = { d with n := d.n + 1, lastT := some s.now, seq := d.n + 1 } := by
  simp [latched, hup, hw]

theorem latched_of_link_down {s : State} {f : Nat} (h : (s.pcie f).up = false) (d : Dump) :
    latched s f d = { d with n := d.n + 1, lastT := some s.now, lost := true } := by
  simp [latched, canWrite, h]

/-- The dump of a partition is due: enabled, at a multiple of its period, and not yet latched at this instant. -/
def dumpDue (s : State) (d : Dump) : Prop :=
  flag d.cfg 0 = true ∧ s.now % dumpPeriod d = 0 ∧ d.lastT ≠ some s.now

theorem execDumpLatch_of_idle {s : State} {part : Fin 32}
    (h : ¬ dumpDue s (tgetD s.pmc.dumps part.val {}) ∨ activeFn s part.val = none) :
    exec (.dumpLatch part) s = .next s := by
  show execDumpLatch part s = _
  simp only [execDumpLatch]
  split
  · rfl
  · next hdue =>
    have hdue' : dumpDue s (tgetD s.pmc.dumps part.val {}) := by simpa [dumpDue, and_assoc] using hdue
    simp only [h.resolve_left (not_not_intro hdue')]

theorem execDumpLatch_of_due {s : State} {part : Fin 32} {f : Nat} (h : dumpDue s (tgetD s.pmc.dumps part.val {}))
    (ha : activeFn s part.val = some f) :
    exec (.dumpLatch part) s =
      .next (writeDump { s with pmc.dumps := tput s.pmc.dumps part.val (latched s f (tgetD s.pmc.dumps part.val {})) }
        part.val f ((tgetD s.pmc.dumps part.val {}).n + 1) (latched s f (tgetD s.pmc.dumps part.val {}))) := by
  obtain ⟨hen, hper, hlast⟩ := h
  show execDumpLatch part s = _
  simp only [execDumpLatch, hen, hper, beq_eq_false_iff_ne.mpr hlast, ha, bne_self_eq_false, Bool.not_true, Bool.or_self,
    Bool.false_eq_true, if_false]
  rfl

theorem sendMsix_of_open {s : State} {f : Nat} (hup : (s.pcie f).up = true) (hbm : (s.fn f).busMaster = true) (vec : Nat) :
    sendMsix s f vec = count (s.emit (.msix f vec)) (s.fn f).part Ev.msixSent := by simp [sendMsix, hup, hbm]

/-- Nothing but the counters differs, and the dumps are as they were. -/
def onlyCounts (s t : State) : Prop := onlyCounters s t ∧ t.pmc.dumps = s.pmc.dumps

theorem onlyCounts.trans {s t u : State} (h : onlyCounts s t) (h' : onlyCounts t u) : onlyCounts s u := by
  obtain ⟨⟨_, rfl⟩, hd⟩ := h
  obtain ⟨⟨pmc, rfl⟩, hd'⟩ := h'
  exact ⟨⟨pmc, rfl⟩, hd'.trans hd⟩

theorem count_onlyCounts (s : State) (p ev q n : Nat) : onlyCounts s (count s p ev q n) :=
  ⟨count_onlyCounters .., count_dumps ..⟩

/-- The records of a dump as one write behind the header's place; none when there are none. -/
def recordWrites (s : State) (p f addr : Nat) : List Out :=
  if dumpRecs s p = [] then [] else [.hostWrite f (addr + 64) ((dumpRecs s p).flatMap id) false]

/-- Where the slot of dump `n` begins in the ring (R451, R452). -/
def dumpPlace (d : Dump) (n : Nat) : Nat := d.base.toNat + (n - 1) % 2 ^ dumpLog d * 32768

/-- What dump `n` sends through function `f`: its records, its header and, when asked for, the vector. -/
def dumpWrites (s : State) (p f n : Nat) (d : Dump) : List Out :=
  recordWrites s p f (dumpPlace d n) ++
    [.hostWrite f (dumpPlace d n) (dumpHead n s.now (dumpRecs s p).length p (dumpLog d)) false] ++
    if flag d.cfg 1 then [.msix f (fld d.cfg 31 20)] else []

theorem writeDump_of_canWrite {s : State} {p f : Nat} (hup : (s.pcie f).up = true) (hbm : (s.fn f).busMaster = true)
    (n : Nat) (d : Dump) : onlyCounts { s with out := s.out ++ dumpWrites s p f n d } (writeDump s p f n d) := by
  have hw : canWrite s f (s.fn f).gen = true := by simp [canWrite, hup, hbm]
  have hrecs : (if (dumpRecs s p).isEmpty then s else
      hostWrite s f (s.fn f).gen (dumpPlace d n + 64) ((dumpRecs s p).flatMap id)) =
        { s with out := s.out ++ recordWrites s p f (dumpPlace d n) } := by
    by_cases h : dumpRecs s p = []
    · simp [recordWrites, h]
    · simp [recordWrites, h, hostWrite_of_canWrite hw, State.emit]
  simp only [dumpPlace] at hrecs
  have hhead := hostWrite_of_canWrite (s := { s with out := s.out ++ recordWrites s p f (dumpPlace d n) }) hw
    (dumpPlace d n) (dumpHead n s.now (dumpRecs s p).length p (dumpLog d)) false
  simp only [dumpPlace] at hhead
  simp only [writeDump, hrecs, hhead, hw, Bool.and_true]
  by_cases hvec : flag d.cfg 1 = true
  · rw [if_pos hvec, sendMsix_of_open (by exact hup) (by exact hbm)]
    simp only [dumpWrites, dumpPlace, hvec, if_true, ← List.append_assoc]
    exact count_onlyCounts ..
  · simp only [dumpWrites, dumpPlace, hvec, Bool.false_eq_true, if_false, List.append_nil, ← List.append_assoc]
    exact ⟨⟨_, rfl⟩, rfl⟩

/-- While the link is down a dump writes nothing. -/
theorem writeDump_of_link_down {s : State} {f : Nat} (h : (s.pcie f).up = false) (p n : Nat) (d : Dump) :
    onlyCounts s (writeDump s p f n d) := by
  have hdrop (t : State) (ht : onlyCounts s t) (addr : Nat) (bs : List Byte) :
      onlyCounts s (hostWrite t f (s.fn f).gen addr bs) := by
    have hshut : canWrite t f (s.fn f).gen = false := by
      obtain ⟨⟨pmc, rfl⟩, -⟩ := ht
      have hdown : (State.pcie { s with pmc := pmc } f).up = false := h
      simp only [canWrite, hdown, Bool.false_and]
    rw [hostWrite_of_not_canWrite hshut]
    exact ht.trans (count_onlyCounts ..)
  have hshut : canWrite s f (s.fn f).gen = false := by simp [canWrite, h]
  simp only [writeDump, hshut, Bool.and_false, Bool.false_eq_true, if_false]
  refine hdrop _ ?_ _ _
  split
  · exact ⟨⟨_, rfl⟩, rfl⟩
  · exact hdrop s ⟨⟨_, rfl⟩, rfl⟩ _ _

theorem dumpHead_succ (n time records p log : Nat) :
    dumpHead (n + 1) time records p log =
      leBytes 8 (n + 1) ++ leBytes 8 time ++ leBytes 4 records ++ leBytes 4 0 ++ leBytes 1 p ++
        leBytes 1 (if n / 2 ^ log % 2 = 0 then 1 else 0) ++ List.replicate 38 0 := by
  simp only [dumpHead, Nat.add_sub_cancel, b2n, beq_iff_eq]

/-- The latch of a dump that is due, through an open function. -/
theorem execDumpLatch_of_open {s : State} {part : Fin 32} {f : Nat} {d : Dump} (hd : tgetD s.pmc.dumps part.val {} = d)
    (hdue : dumpDue s d) (ha : activeFn s part.val = some f) (hup : (s.pcie f).up = true) (hbm : (s.fn f).busMaster = true) :
    ∃ t, exec (.dumpLatch part) s = .next t ∧
      onlyCounts { s with
        out := s.out ++ dumpWrites s part.val f (d.n + 1) (latched s f d)
        pmc.dumps := tput s.pmc.dumps part.val (latched s f d) } t := by
  subst hd
  exact ⟨_, execDumpLatch_of_due hdue ha, writeDump_of_canWrite
    (s := { s with pmc.dumps := tput s.pmc.dumps part.val (latched s f (tgetD s.pmc.dumps part.val {})) }) hup hbm _ _⟩

/-- The latch of a dump that is due, while the link is down. -/
theorem execDumpLatch_of_link_down {s : State} {part : Fin 32} {f : Nat} {d : Dump}
    (hd : tgetD s.pmc.dumps part.val {} = d) (hdue : dumpDue s d) (ha : activeFn s part.val = some f)
    (hdown : (s.pcie f).up = false) :
    ∃ t, exec (.dumpLatch part) s = .next t ∧
      onlyCounts { s with pmc.dumps := tput s.pmc.dumps part.val (latched s f d) } t := by
  subst hd
  exact ⟨_, execDumpLatch_of_due hdue ha, writeDump_of_link_down
    (s := { s with pmc.dumps := tput s.pmc.dumps part.val (latched s f (tgetD s.pmc.dumps part.val {})) }) hdown _ _ _⟩

/-- Settles O60, block by block through the lemmas on the register that each offset names, and through those on a latch. -/
theorem registersAndDumps : Obligations.RegistersAndDumps := by
  refine ⟨?idle, ?dump, ?linkDown, ?noAccess, ?tile, ?nbsErr, ?tierErr, ?epoErr, ?kneErr, ?swcErr, ?flsErr, ?queueErr,
    ?baseEnabled, ?baseDisabled, ?admReg, ?pwrForeign, ?timForeign, ?limit, ?tclkBad, ?tclk, ?trim, ?mailbox, ?counter,
    ?counterForeign, ?satEvt, ?satForeign⟩
  case idle =>
    intro s part h
    refine execDumpLatch_of_idle (or_iff_not_imp_left.mpr fun hdue => ?_)
    obtain ⟨hen, hper, hlast⟩ := not_not.mp hdue
    rcases h with h | h | h | h
    · exact absurd (hen.symm.trans h) (by decide)
    · exact absurd hper h
    · exact absurd h hlast
    · exact h
  case dump =>
    intro s part f hdue ha hopen
    obtain ⟨hup, hbm⟩ := hopen
    have hw : canWrite s f (s.fn f).gen = true := by simp [canWrite, hup, hbm]
    obtain ⟨t, hexec, ⟨pmc, ht⟩, hdumps⟩ := execDumpLatch_of_open rfl hdue ha hup hbm
    rw [latched_of_canWrite hup hw] at ht hdumps
    refine ⟨t, hexec, ?_, hdumps, by rw [ht]⟩
    rw [ht, dumpWrites, dumpHead_succ]
    simp only [← List.append_assoc]
    rfl
  case linkDown =>
    intro s part f hdue ha hdown
    obtain ⟨t, hexec, ⟨pmc, ht⟩, hdumps⟩ := execDumpLatch_of_link_down rfl hdue ha hdown
    rw [latched_of_link_down hdown] at hdumps
    exact ⟨t, hexec, by rw [ht], hdumps, by rw [ht]⟩
  case noAccess =>
    intro s fn addr size v h
    by_cases hok : barOk addr size = true
    · obtain ⟨off, v', m, hw⟩ := execRegisterWrite_of_access hok s fn v
      rw [hw]
      simp only [barOk, Bool.and_eq_true, Bool.or_eq_true, beq_iff_eq, decide_eq_true_eq] at hok
      obtain ⟨⟨hsize, haligned⟩, hin⟩ := hok
      rcases h with h | h | h | h | h
      · omega
      · exact absurd haligned h
      · omega
      · rw [writeReg_of_not_reaches h]
      · rw [Nat.div_eq_of_lt h, writeReg_top]
    · exact execRegisterWrite_of_bad_access (by simpa using hok) s fn v
  case tile =>
    intro s fn v hr
    rw [execRegisterWrite_whole (blk := 4) (off := 0x10) rfl (by omega) (by omega) (by omega), writeReg_tier hr,
      wrTier_tile]
    rfl
  case nbsErr =>
    intro s fn v hr hp
    rw [execRegisterWrite_own (blk := 3) (base := 0x600) hp (by decide), writeReg_nbs hr, clearTab_whole]
    rfl
  case tierErr =>
    intro s fn v hr hp
    rw [execRegisterWrite_own (blk := 4) (base := 0xC00) hp (by decide), writeReg_tier hr, wrTier_err]
    rfl
  case epoErr =>
    intro s fn v hr hp
    rw [execRegisterWrite_own (blk := 5) (base := 0x600) hp (by decide), writeReg_epo hr, wrEpo_err _ _ hp]
    rfl
  case kneErr =>
    intro s fn v hr hp
    rw [execRegisterWrite_own (blk := 6) (base := 0x400) hp (by decide), writeReg_kne hr, clearTab_whole]
    rfl
  case swcErr =>
    intro s fn v hr hp
    rw [execRegisterWrite_own (blk := 8) (base := 0x800) hp (by decide), writeReg_swc hr, clearTab_whole]
    rfl
  case flsErr =>
    intro s fn v hr hp
    rw [execRegisterWrite_own (blk := 9) (base := 0x600) hp (by decide), writeReg_fls hr, wrFls_err]
    rfl
  case queueErr =>
    intro s fn v q hr hq
    rw [execRegisterWrite_whole (blk := 0x0A) (off := 0x1028 + 0x40 * q) rfl (by omega) (by omega) (by omega),
      writeReg_hif hr, wrHif_err hq.1]
    rfl
  case baseEnabled =>
    intro s fn v q hr hq hen
    rw [execRegisterWrite_whole (blk := 0x0A) (off := 0x1008 + 0x40 * q) rfl (by omega) (by omega) (by omega),
      writeReg_hif hr, wrHif_cqBase hq.1, wrBase_of_enabled hen]
  case baseDisabled =>
    intro s fn v q hr hq hen
    refine ⟨_, execRegisterWrite_whole (blk := 0x0A) (off := 0x1008 + 0x40 * q) rfl (by omega) (by omega) (by omega) .., ?_⟩
    rw [writeReg_hif hr, wrHif_cqBase hq.1, wrBase_of_disabled hen, State.q_setQ_same]
    exact ⟨rfl, fld_rwMerge_written _ _ (by omega) (by omega)⟩
  case admReg =>
    intro s fn v q hr hf hq
    refine ⟨_, execRegisterWrite_whole (blk := 0x0B) (off := 0x18 + 0x20 * q) rfl (by omega) (by omega) (by omega) .., ?_⟩
    rw [writeReg_adm hr, wrAdm_reg hf hq, State.adm_setAdm_same]
    exact ⟨rfl, fld_rwMerge_written _ _ (by omega) (by omega), fld_rwMerge_kept _ _ _ (by omega) (by omega)⟩
  case pwrForeign =>
    intro s fn v off hf hoff
    rw [execRegisterWrite_whole (blk := 0x10) (off := off) rfl (by omega) hoff.1 hoff.2, writeReg_pwr_of_not_owner hf]
  case timForeign =>
    intro s fn v off hf hoff
    rw [execRegisterWrite_whole (blk := 0x0E) (off := off) rfl (by omega) hoff.1 hoff.2, writeReg_tim_of_not_owner hf]
  case limit =>
    intro s fn v hr hf
    refine ⟨_, execRegisterWrite_whole (blk := 0x10) (off := 0x10) rfl (by omega) (by omega) (by omega) .., ?_⟩
    rw [writeReg_pwr hr, wrPwr_limit hf]
    exact ⟨rfl, fld_wrLimit_limit .., fld_wrLimit_high ..⟩
  case tclkBad =>
    intro s fn v hr hbad
    rw [execRegisterWrite_whole (blk := 0x10) (off := 0x18) rfl (by omega) (by omega) (by omega),
      writeReg_pwr hr, wrPwr_tclk_of_bad hbad]
  case tclk =>
    intro s fn v hr hf hin hclk
    obtain ⟨hord, hlo, hhi⟩ := hin
    rw [execRegisterWrite_whole (blk := 0x10) (off := 0x18) rfl (by omega) (by omega) (by omega),
      writeReg_pwr hr, wrPwr_tclk hf, wrTclk_of_lower hord hlo hhi hclk.1 hclk.2]
  case trim =>
    intro s fn v hr hf
    rw [execRegisterWrite_whole (blk := 0x0E) (off := 0x18) rfl (by omega) (by omega) (by omega),
      writeReg_tim hr, wrTim_trim hf]
    rfl
  case mailbox =>
    intro s fn v hr hm
    refine ⟨_, execRegisterWrite_whole (blk := 0x0D) (off := 0x100) rfl (by omega) (by omega) (by omega) .., ?_⟩
    rw [writeReg_sec hr, wrSec_mbxAddr hm]
    exact ⟨rfl, fld_rwMerge_written _ _ (by omega) (by omega), fld_rwMerge_kept _ _ _ (by omega) (by omega)⟩
  case counter =>
    intro s fn v k hr hp
    refine ⟨_, execRegisterWrite_whole (blk := 0x0F) (off := 0x10008 + 0x10 * ((s.fn fn.val).part * 64 + k)) rfl (by omega)
      (by omega) (by omega) .., ?_⟩
    simp only [writeReg_pmc hr, wrPmc_counter hp.1 hp.2, if_true, tmod]
    refine ⟨trivial, fun j hj => tget?_tput_ne _ _ _ _ hj, ?_⟩
    rw [tget?_tput_same, Option.map_some, fld_wrCtr_count, flag_wrCtr_ovf]
  case counterForeign =>
    intro s fn v k o hp
    obtain ⟨-, ho, hne, hk⟩ := hp
    rw [execRegisterWrite_whole (blk := 0x0F) (off := 0x10008 + 0x10 * (o * 64 + k)) rfl (by omega) (by omega) (by omega),
      writeReg_foreign_counter ho hk hne]
  case satEvt =>
    intro s fn v c hr hc
    rw [execRegisterWrite_whole (blk := 1) (off := 0x10 + 0x40 * c) rfl (by omega) (by omega) (by omega),
      writeReg_cls hr, wrCls_satEvt hc.1, if_pos hc.2]
  case satForeign =>
    intro s fn v c hc
    rw [execRegisterWrite_whole (blk := 1) (off := 0x10 + 0x40 * c) rfl (by omega) (by omega) (by omega),
      writeReg_foreign_satEvt hc.1 hc.2]

end Sys2Proof.Machine
end

section
/-!
Updates whose append runs out of time (R232).
-/
namespace Sys2Proof.Machine

/-- The log record of an update with a sequence number. -/
def recordOf (seq : Nat) : LogRec :=
  { seq := seq, stamp := 0, epoch := 0, handle := 0, oldHandle := 0, fwdId := 0, index := 0, kind := 1, origin := 0
    entry := 0, payload := [] }

/-- An update that has waited for its log peer, position 1, since instant 0. -/
def dueUpdate : Update := { lrec := recordOf 9, st := .logging, sentTo := [1] }

/-- An update whose append is complete. -/
def committedUpdate : Update := { lrec := recordOf 8, st := .committed, sentTo := [1] }

/-- A state whose list of updates names key 0 twice: a lookup by the key meets the committed update, the search by sequence
number the one that is due. -/
def keyTwice : State :=
  { now := 1000000, mbr.members := 2, epo.updates := [(0, committedUpdate), (0, dueUpdate)] }

/-- At LOG_TMO the update whose key the search by sequence number gives is voided. -/
theorem execLogTmoExpire_of_due {s : State} {seq uid : Nat} {u : Update} (h : updOf s seq = some (uid, u))
    (hOwner : u.owner = none) (hSt : u.st = .logging) (hDue : logExpired s u = true) :
    exec (.logTmoExpire seq) s = .next (voidUpdate s uid) := by
  show execLogTmoExpire seq s = _
  simp [execLogTmoExpire, h, hOwner, hSt, hDue]

/-- In `keyTwice` the committed update is voided. -/
theorem voidUpdate_keyTwice :
    (tget? (voidUpdate keyTwice 0).epo.updates 0).map (·.lrec.seq) = some committedUpdate.lrec.seq := by decide

/-- Refutes O19: `Tab` is a plain list and the statement does not ask that its keys rise, so `keyTwice` meets the premises of
the clause on LOG_TMO; there the update that is voided is not the one that the clause names. -/
theorem not_commitNeedsBothPeers : ¬ Obligations.CommitNeedsBothPeers := by
  rintro ⟨-, -, -, -, hTmo, -, -⟩
  have hFind : updOf keyTwice 9 = some (0, dueUpdate) := by decide
  obtain ⟨t, ht, hEpo, -⟩ := hTmo keyTwice 9 0 dueUpdate hFind rfl rfl (by decide) ⟨1, by decide⟩
  obtain rfl : voidUpdate keyTwice 0 = t :=
    Host.Outcome.next.inj ((execLogTmoExpire_of_due hFind rfl rfl (by decide)).symm.trans ht)
  have hVoided := voidUpdate_keyTwice
  rw [hEpo, tget?_tput_same] at hVoided
  exact absurd hVoided (by decide)

end Sys2Proof.Machine
end

section
/-!
What sending a packet leaves alone, and commands at their admission (R376, R384).
-/
namespace Sys2Proof.Machine

/-! A packet touches the fabric's numbers, the node's output, the counters and the count of free values. -/

/-- Nothing but the fabric, what the node has sent, the counters and the count of free values differs. -/
def onlySent (s t : State) : Prop := ∃ fab out pmc ctr, t = { s with fab := fab, out := out, pmc := pmc, freeCtr := ctr }

theorem onlySent.refl (s : State) : onlySent s s := ⟨_, _, _, _, rfl⟩

theorem onlySent.trans {s t u : State} (h : onlySent s t) (h' : onlySent t u) : onlySent s u := by
  obtain ⟨_, _, _, _, rfl⟩ := h
  obtain ⟨_, _, _, _, rfl⟩ := h'
  exact ⟨_, _, _, _, rfl⟩

theorem onlySent.work {s t : State} (h : onlySent s t) : t.work = s.work := by
  obtain ⟨_, _, _, _, rfl⟩ := h; rfl

theorem onlySent.host {s t : State} (h : onlySent s t) : t.host = s.host := by
  obtain ⟨_, _, _, _, rfl⟩ := h; rfl

theorem onlySent.tier {s t : State} (h : onlySent s t) : t.tier = s.tier := by
  obtain ⟨_, _, _, _, rfl⟩ := h; rfl

theorem count_onlySent (s : State) (p ev q n : Nat) : onlySent s (count s p ev q n) := by
  rw [count_eq]; exact ⟨_, _, _, _, rfl⟩

theorem putOnPort_onlySent (s : State) (t : Nat) (p : Packet) : onlySent s (putOnPort s t p) := ⟨_, _, _, _, rfl⟩

theorem routePort_onlySent (s : State) (src t rcls : Nat) (refused : List Nat) :
    onlySent s (routePort s src t rcls refused).2 := by
  simp only [routePort]
  split
  · exact .refl s
  · split
    · exact .refl s
    · exact ⟨_, _, _, _, rfl⟩

theorem stampPacket_onlySent (s : State) (p : Packet) : onlySent s (stampPacket s p).2 := by
  simp only [stampPacket]
  split <;> split <;> exact ⟨_, _, _, _, rfl⟩

theorem routeSend_onlySent (s : State) (p : Packet) (refused : List Nat) : onlySent s (routeSend s p refused).2 := by
  simp only [routeSend]
  split
  · split
    · exact putOnPort_onlySent ..
    · exact .refl s
  · have hRoute := routePort_onlySent s p.src (nodeOf p.dst) p.rcls refused
    split
    · next s1 hr => rw [hr] at hRoute; exact hRoute.trans (putOnPort_onlySent s1 ..)
    · next s1 hr => rw [hr] at hRoute; exact hRoute.trans (count_onlySent s1 p.part Ev.noRoute 0xFF 1)

theorem sendPkt_onlySent (s : State) (p : Packet) : onlySent s (sendPkt s p) :=
  (stampPacket_onlySent s p).trans (routeSend_onlySent ..)

theorem foldl_onlySent {α : Type} {f : State → α → State} (hf : ∀ t x, onlySent t (f t x)) (s : State) (xs : List α) :
    onlySent s (xs.foldl f s) :=
  List.foldlRecOn xs f (motive := onlySent s) (.refl s) fun t ht x _ => ht.trans (hf t x)

/-- A context meets no error while no injection is armed. -/
theorem ctxCheck_of_none_armed {s : State} (h : s.err.inj = []) (p k : Nat) : ctxCheck s p k = (false, s) := by
  simp only [ctxCheck, injHit_of_none_armed h]

theorem registered_of_open {s : State} {part i : Nat} {x : Index} (hx : tget? s.work.indexes i = some x)
    (hp : x.part = part) (hs : x.shut = none) : registered s part i = true := by
  simp [registered, hx, hp, hs]

end Sys2Proof.Machine
end

section
/-!
Updates at their admission: room, slot, handle, context and record (R18, R135, R228, R231 to R233, R489).
-/
namespace Sys2Proof.Machine

theorem tput_of_empty {α : Type} {t : Tab α} (h : t = []) (k : Nat) (a : α) : tput t k a = [(k, a)] := by rw [h]; rfl

/-! The context and the record of a new update. -/

theorem logUpdate_of_not_ready {s : State} {uid : Nat} {u : Update} (h : tget? s.epo.updates uid = some u)
    (hReady : u.ready = false) : logUpdate s uid = s := by
  simp [logUpdate, h, hReady]

/-- The record under which an update of this node is logged (R231). -/
def ownRecord (s : State) (u : Update) : LogRec := { u.lrec with seq := s.epo.nextSeq, origin := s.fab.node }

/-- The state in which an update's record stands in the local log (R232). -/
def inLocalLog (s : State) (uid : Nat) (u : Update) : State :=
  { s with epo := { s.epo with
    nextSeq := s.epo.nextSeq + 1, log := s.epo.log ++ [(ownRecord s u, u.part)]
    updates := tput s.epo.updates uid
      { u with lrec := ownRecord s u, st := .logging, logT := s.now, sentTo := s.epo.peers } } }

theorem sendLog_onlySent (s : State) (part : Nat) (r : LogRec) (pos : Nat) : onlySent s (sendLog s part r pos) :=
  sendPkt_onlySent ..

/-- An update that is ready and has its context enters the local log; all else is what its record's packets change. -/
theorem logUpdate_of_ready {s : State} {uid : Nat} {u : Update} (h : tget? s.epo.updates uid = some u)
    (hSt : u.st = .allocated) (hReady : u.ready = true) (hCtx : u.ctx.isSome = true) (hOwner : u.owner = none)
    (hInj : s.err.inj = []) : onlySent (inLocalLog s uid u) (logUpdate s uid) := by
  obtain ⟨k, hk⟩ := Option.isSome_iff_exists.mp hCtx
  have hCheck : updCtx s uid u = (false, s) := by simp only [updCtx, hk, ctxCheck_of_none_armed hInj]
  have hGo : (u.st != .allocated || !u.ready || u.ctx.isNone) = false := by simp [hSt, hReady, hk]
  simp only [logUpdate, h, hGo, hCheck, Bool.false_eq_true, if_false]
  split
  · next hForwarded => simp [hOwner] at hForwarded
  · exact foldl_onlySent (fun t p => sendLog_onlySent t u.part (ownRecord s u) p) (inLocalLog s uid u) s.epo.peers

/-- The state in which update `u` has the next number, and slot `g` for its context. -/
def withUpdate (s : State) (u : Update) (g : Nat) : State :=
  { s with epo := { s.epo with
    updates := tput s.epo.updates s.epo.nextUid { u with ctx := some g }
    ctxUsed := tput s.epo.ctxUsed g true, nextUid := s.epo.nextUid + 1 } }

theorem inLocalLog_withUpdate (s : State) (u v : Update) (g : Nat) :
    inLocalLog (withUpdate s u g) s.epo.nextUid v = { s with epo := { s.epo with
      ctxUsed := tput s.epo.ctxUsed g true, nextUid := s.epo.nextUid + 1, nextSeq := s.epo.nextSeq + 1
      log := s.epo.log ++ [(ownRecord s v, v.part)]
      updates := tput s.epo.updates s.epo.nextUid
        { v with lrec := ownRecord s v, st := .logging, logT := s.now, sentTo := s.epo.peers } } } := by
  simp only [inLocalLog, withUpdate, tput_tput_same]
  rfl

theorem addUpdate_of_ctx {s : State} {g : Nat} (h : updCtxFree s = some g) (u : Update) :
    addUpdate s u = logUpdate (withUpdate s u g) s.epo.nextUid := by
  have hFree : updCtxFree { s with epo := { s.epo with
      updates := tput s.epo.updates s.epo.nextUid u, nextUid := s.epo.nextUid + 1 } } = some g := h
  simp only [addUpdate, takeUpdCtx, hFree, tupd, tget?_tput_same, tput_tput_same]
  rfl

/-! A slot of this node. -/

/-- Changes that an update counts in its epoch (R228). -/
def changesOf (kind : Nat) : Nat := if kind = 3 then 2 else 1

/-- The state in which an epoch counts the changes of one update more. -/
def withChanges (s : State) (e kind : Nat) : State :=
  { s with epo.changes := tput s.epo.changes e (tgetD s.epo.changes e 0 + changesOf kind) }

/-- The state in which slot `k` of index `i` is filled in epoch `e`. -/
def withSlot (s : State) (i : Nat) (x : Index) (k e : Nat) : State :=
  setIndex s i { x with used := tput x.used k true, ins := tput x.ins k e }

theorem admitLocal_of_delete {s : State} {u : Update} (h : u.lrec.kind = 2) (x : Index) :
    admitLocal s u x =
      addUpdate (withChanges s u.lrec.epoch 2) { u with oldSlot := some (handleSlot u.lrec.handle) } := by
  simp [admitLocal, h, withChanges, changesOf, tmod]

/-- An insert or upsert takes the lowest free slot, under the generation of the slot's record (R18, R135). -/
theorem admitLocal_of_free_slot {s : State} {u : Update} {x : Index} {k : Nat} (hKind : u.lrec.kind ≠ 2)
    (hSlot : freeSlot x = some k) (hRec : (recRead s (idxD x.desc) k).2 = false) :
    admitLocal s u x =
      addUpdate (withSlot (withChanges s u.lrec.epoch u.lrec.kind) u.lrec.index x k u.lrec.epoch)
        { u with
          slot := some k, oldSlot := if u.lrec.kind = 3 then some (handleSlot u.lrec.oldHandle) else none
          lrec := { u.lrec with handle := handleOf (recGen (recRead s (idxD x.desc) k).1) (ownShard s) k } } := by
  have hRead : recRead (withChanges s u.lrec.epoch u.lrec.kind) (idxD x.desc) k = recRead s (idxD x.desc) k := rfl
  have hHandle : newHandle (withChanges s u.lrec.epoch u.lrec.kind) x k =
      (handleOf (recGen (recRead s (idxD x.desc) k).1) (ownShard s) k, withChanges s u.lrec.epoch u.lrec.kind) := by
    simp only [newHandle, hRead, hRec, Bool.false_eq_true, if_false]
    rfl
  simp only [withChanges, changesOf] at hHandle
  simp only [admitLocal, hKind, hSlot, tmod, hHandle, if_false]
  rfl

/-! Room and reasons. -/

theorem updRoom_of_room {s : State} {p e kind : Nat} {x : Index} (hPeers : 2 ≤ s.epo.peers.length)
    (hLog : logUsed s p + updSize (idxD x.desc) kind ≤ tgetD s.epo.quota p 0 * 2 ^ 20)
    (hChanges : tgetD s.epo.changes e 0 + changesOf kind ≤ 262144) (hSlot : kind = 2 ∨ (freeSlot x).isSome = true) :
    updRoom s p e kind x = (false, s) := by
  have hFull : ¬ 262144 < tgetD s.epo.changes e 0 + if kind = 3 then 2 else 1 := Nat.not_lt.mpr hChanges
  have hNoSlot : (kind != 2 && (freeSlot x).isNone) = false := by
    rcases hSlot with h | h
    · simp [h]
    · simp [Option.isNone_eq_false_iff.mpr h]
  simp only [updRoom, decide_eq_false hFull, decide_eq_false (Nat.not_lt.mpr hPeers),
    decide_eq_false (Nat.not_lt.mpr hLog), hNoSlot, Bool.or_false, Bool.false_eq_true, if_false]

/-- Without two log peers there is no room, and EPO_ERR says so (R233). -/
theorem updRoom_of_few_peers {s : State} {p e kind : Nat} {x : Index} (hPeers : s.epo.peers.length < 2)
    (hLog : logUsed s p + updSize (idxD x.desc) kind ≤ tgetD s.epo.quota p 0 * 2 ^ 20)
    (hChanges : tgetD s.epo.changes e 0 + changesOf kind ≤ 262144) :
    updRoom s p e kind x = (true, epoErr s p 1) := by
  have hFull : ¬ 262144 < tgetD s.epo.changes e 0 + if kind = 3 then 2 else 1 := Nat.not_lt.mpr hChanges
  simp only [updRoom, decide_eq_false hFull, decide_eq_true hPeers, decide_eq_false (Nat.not_lt.mpr hLog), Bool.true_or,
    Bool.false_eq_true, if_true, if_false]

/-- An update of this node as its command asks for it (R231). -/
def askedUpdate (s : State) (cid : Nat) (c : Cmd) (kind : Nat) : Update :=
  { cid := some cid, part := c.part, ready := kind = 2
    lrec := {
      seq := 0, stamp := c.stamp, epoch := epochOf s c.stamp, handle := if kind = 2 then getLE c.bytes 0x18 8 else 0
      oldHandle := if kind = 3 then getLE c.bytes 0x18 8 else 2 ^ 64 - 1, index := getLE c.bytes 0x20 2, kind := kind
      origin := s.fab.node, entry := s.fab.node, fwdId := 0, payload := [] } }

/-- The vector fields of a command are in order: it has none, or they are aligned and the host can be read (R377, R384). -/
def vectorOk (s : State) (c : Cmd) (kind : Nat) (x : Index) : Prop :=
  kind = 2 ∨ getLE c.bytes 8 8 % 64 = 0 ∧ getLE c.bytes 0x10 8 % 64 = 0 ∧
    ((idxD x.desc).metaBytes ≠ 0 ∨ getLE c.bytes 0x10 8 = 0) ∧ (s.fn c.fn).busMaster = true

/-- The handle of a command is in order: it has none, or it names a slot of this node (R134). -/
def handleOk (s : State) (c : Cmd) (kind : Nat) : Prop :=
  kind = 1 ∨ bitsOf (getLE c.bytes 0x18 8) 35 32 = 0 ∧
    hostOf s (handleNode (getLE c.bytes 0x18 8)) = some s.fab.node

section
variable {s : State} {cid kind : Nat} {c : Cmd} {fields : List (Nat × Nat)} {x : Index}
  (hHead : headReasons c fields = 0) (hx : tget? s.work.indexes (getLE c.bytes 0x20 2) = some x)
  (hPart : x.part = c.part) (hShut : x.shut = none) (hIdx : getLE c.bytes 0x20 2 < 4096)
  (hRun : s.pkg.sec.stop = .running) (hVec : vectorOk s c kind x) (hHandle : handleOk s c kind)
include hHead hx hPart hShut hIdx hRun hVec hHandle

/-- Of an update whose fields are in order, room alone decides. -/
theorem admitUpdate_of_fields_ok :
    admitUpdate s cid c kind fields =
      if (updRoom s c.part (epochOf s c.stamp) kind x).1 then
        refuse (updRoom s c.part (epochOf s c.stamp) kind x).2 cid rsResource
      else
        admitLocal (runCmd (updRoom s c.part (epochOf s c.stamp) kind x).2 cid) (askedUpdate s cid c kind) x := by
  have hReg := registered_of_open hx hPart hShut
  have hRemote : (kind != 1 && hostOf s (handleNode (getLE c.bytes 0x18 8)) != some s.fab.node) = false := by
    rcases hHandle with h | ⟨-, h⟩ <;> simp [h]
  have hOff : (kind != 2 && hostioOff s c) = false := by
    rcases hVec with h | ⟨-, -, -, h⟩ <;> simp [h, hostioOff]
  have hFormat : ((kind != 2 && (getLE c.bytes 8 8 % 64 != 0 || getLE c.bytes 0x10 8 % 64 != 0 ||
      (registered s c.part (getLE c.bytes 0x20 2) && (idxD x.desc).metaBytes == 0 && getLE c.bytes 0x10 8 != 0))) ||
      (kind != 1 && bitsOf (getLE c.bytes 0x18 8) 35 32 != 0) || decide (4096 ≤ getLE c.bytes 0x20 2)) = false := by
    have hVec' : (kind != 2 && (getLE c.bytes 8 8 % 64 != 0 || getLE c.bytes 0x10 8 % 64 != 0 ||
        (registered s c.part (getLE c.bytes 0x20 2) && (idxD x.desc).metaBytes == 0 && getLE c.bytes 0x10 8 != 0))) =
        false := by
      rcases hVec with h | ⟨h8, h10, h | h, -⟩
      · simp [h]
      · simp [h8, h10, h]
      · simp [h8, h]
    have hHandle' : (kind != 1 && bitsOf (getLE c.bytes 0x18 8) 35 32 != 0) = false := by
      rcases hHandle with h | ⟨h, -⟩ <;> simp [h]
    simp [hVec', hHandle', hIdx]
  have hStop : (s.pkg.sec.stop != .running) = false := by simp [hRun]
  simp only [admitUpdate, hx, hHead, hRemote, hOff, hReg, hStop, Bool.not_true, Bool.not_false, Bool.and_true,
    Bool.false_and, if_true]
  simp only [hReg] at hFormat
  rw [hFormat]
  cases hRoom : (updRoom s c.part (epochOf s c.stamp) kind x).1
  · simp [reasons, askedUpdate]
  · simp [reasons, rsResource]

end

end Sys2Proof.Machine
end

section
/-!
INSERT, UPSERT and DELETE (R134, R135, R377).
-/
namespace Sys2Proof.Machine

section
variable {s : State} {cid k g : Nat} {c : Cmd} {x : Index}

/-- The state in which a command runs whose update has slot `k` of its index and context `g`, and awaits its vector. -/
def awaitingVector (s : State) (cid : Nat) (c : Cmd) (kind k g : Nat) (x : Index) : State :=
  withUpdate (withSlot (withChanges (runCmd s cid) (epochOf s c.stamp) kind) (getLE c.bytes 0x20 2) x k (epochOf s c.stamp))
    { askedUpdate s cid c kind with
      slot := some k, oldSlot := if kind = 3 then some (handleSlot (getLE c.bytes 0x18 8)) else none
      lrec := { (askedUpdate s cid c kind).lrec with
        handle := handleOf (recGen (recRead s (idxD x.desc) k).1) (ownShard s) k } } g

/-- An insert or upsert with a free slot and a free context is admitted; it is not logged before its vector is here. -/
theorem admitLocal_awaits_vector {kind : Nat} (hKind : kind = 1 ∨ kind = 3) (hSlot : freeSlot x = some k)
    (hRec : (recRead s (idxD x.desc) k).2 = false) (hCtx : updCtxFree s = some g) :
    admitLocal (runCmd s cid) (askedUpdate s cid c kind) x = awaitingVector s cid c kind k g x := by
  have hNotDelete : kind ≠ 2 := by omega
  have hOld : (if kind = 3 then some (handleSlot (askedUpdate s cid c kind).lrec.oldHandle) else none) =
      if kind = 3 then some (handleSlot (getLE c.bytes 0x18 8)) else none := by
    split
    · next h => simp [askedUpdate, h]
    · rfl
  rw [admitLocal_of_free_slot (u := askedUpdate s cid c kind) hNotDelete hSlot (by exact hRec),
    addUpdate_of_ctx (g := g) (by exact hCtx), logUpdate_of_not_ready (tget?_tput_same ..) (by simp [askedUpdate, hNotDelete])]
  rw [awaitingVector, ← hOld]
  rfl

/-- The update of a DELETE that has context `g`. -/
def deletingUpdate (s : State) (cid : Nat) (c : Cmd) (g : Nat) : Update :=
  { askedUpdate s cid c 2 with oldSlot := some (handleSlot (getLE c.bytes 0x18 8)), ctx := some g }

/-- A delete with a free context is logged at once. -/
theorem admitLocal_logs_delete (hCtx : updCtxFree s = some g) (hInj : s.err.inj = []) :
    onlySent
      (inLocalLog (withUpdate (withChanges (runCmd s cid) (epochOf s c.stamp) 2) (deletingUpdate s cid c g) g)
        (withChanges (runCmd s cid) (epochOf s c.stamp) 2).epo.nextUid (deletingUpdate s cid c g))
      (admitLocal (runCmd s cid) (askedUpdate s cid c 2) x) := by
  rw [admitLocal_of_delete (u := askedUpdate s cid c 2) rfl, addUpdate_of_ctx (g := g) (by exact hCtx)]
  exact logUpdate_of_ready (tget?_tput_same ..) rfl rfl rfl rfl hInj

end

theorem execInsert_of_cmd {s : State} {cid : Nat} {c : Cmd} (hc : cmdOf s cid 0x21 = some c) :
    exec (.insert cid) s = .next (admitUpdate s cid c 1 [(8, 8), (0x10, 8), (0x20, 2)]) := by
  show execInsert cid s = _
  simp only [execInsert, hc]

theorem execDelete_of_cmd {s : State} {cid : Nat} {c : Cmd} (hc : cmdOf s cid 0x22 = some c) :
    exec (.delete cid) s = .next (admitUpdate s cid c 2 [(0x18, 8), (0x20, 2)]) := by
  show execDelete cid s = _
  simp only [execDelete, hc]

theorem execUpsert_of_cmd {s : State} {cid : Nat} {c : Cmd} (hc : cmdOf s cid 0x23 = some c) :
    exec (.upsert cid) s = .next (admitUpdate s cid c 3 [(8, 8), (0x10, 8), (0x18, 8), (0x20, 2)]) := by
  show execUpsert cid s = _
  simp only [execUpsert, hc]

end Sys2Proof.Machine
end

section
/-!
Queries at their admission, while they are held, and at their deadline (R14, R111, R243, R489).
-/
namespace Sys2Proof.Machine

theorem startQuery_of_no_vec {s : State} {qid : Nat} {q : Query} (h : tget? s.work.queries qid = some q)
    (hVec : q.vec = none) : startQuery s qid = s := by
  simp only [startQuery, h, hVec]

/-- The context of a query meets no error while no injection is armed. -/
theorem queryCtx_of_none_armed {s : State} {qid : Nat} {q : Query} (h : tget? s.work.queries qid = some q)
    (hInj : s.err.inj = []) : queryCtx s qid = (false, s) := by
  simp only [queryCtx, h]
  split
  · rfl
  · rw [ctxCheck_of_none_armed hInj]

/-- A query without its vector takes a free context slot, and waits on. -/
theorem takeQueryCtx_of_free {s : State} {qid k : Nat} {q : Query} (h : tget? s.work.queries qid = some q)
    (hFree : queryCtxFree s (qSlot q.desc) = some k) (hVec : q.vec = none) (hInj : s.err.inj = []) :
    takeQueryCtx s qid = { s with
      epo.ctxUsed := tput s.epo.ctxUsed k true
      work.queries := tput s.work.queries qid { q with ctx := some k } } := by
  have hq : tget? (tput s.work.queries qid { q with ctx := some k }) qid = some { q with ctx := some k } :=
    tget?_tput_same ..
  simp only [takeQueryCtx, h, hFree]
  rw [queryCtx_of_none_armed (by exact hq) (by exact hInj)]
  exact startQuery_of_no_vec (q := { q with ctx := some k }) hq hVec

/-- A query that has been bound, or is held for its epoch (R14, R243). -/
def boundQuery (s : State) (q : Query) : Query := { q with epoch := bindEpoch s q, held := (bindEpoch s q).isNone }

/-- EPOCH_WAIT counts a query that is held. -/
def waitCounted (s : State) (q : Query) : PmcSt :=
  if (bindEpoch s q).isNone then (count s q.part Ev.epochWait).pmc else s.pmc

/-- A new query takes the next number, its epoch and its context. -/
theorem addQuery_of_free {s : State} {k : Nat} {q : Query} (hFree : queryCtxFree s (qSlot q.desc) = some k)
    (hVec : q.vec = none) (hInj : s.err.inj = []) :
    addQuery s q = { s with
      epo.ctxUsed := tput s.epo.ctxUsed k true
      work := { s.work with
        queries := tput s.work.queries s.work.nextQid { boundQuery s q with ctx := some k }
        nextQid := s.work.nextQid + 1 }
      pmc := waitCounted s q } := by
  have hTake (pmc : PmcSt) := takeQueryCtx_of_free (qid := s.work.nextQid) (q := boundQuery s q)
    (s := { s with
      work := { s.work with
        queries := tput s.work.queries s.work.nextQid (boundQuery s q), nextQid := s.work.nextQid + 1 }
      pmc := pmc })
    (tget?_tput_same ..) (by exact hFree) hVec (by exact hInj)
  simp only [tput_tput_same] at hTake
  simp only [addQuery, waitCounted]
  split
  · rw [count_eq]; exact hTake _
  · exact hTake _

/-- A QUERY without a reason against it, as it is taken in (R111, R127, R273). -/
def askedQuery (s : State) (cid : Nat) (c : Cmd) (x : Plan) : Query :=
  { cid := some cid, fn := c.fn, part := c.part, desc := c.bytes.take 128, stamp := c.stamp
    deadline := queryDeadline s c.part c.stamp (c.bytes.take 128), step := (x.step + 1) % 2 ^ 64 }

/-- The state in which a QUERY runs, its plan's slot at its next STEP (R273). -/
def withStep (s : State) (cid slot : Nat) (x : Plan) : State :=
  { runCmd s cid with work.plans := tput s.work.plans slot { x with
      step := (x.step + 1) % 2 ^ 64, shown := (x.step + 1) % 2 ^ 64 } }

theorem execQuery_of_no_reason {s : State} {cid : Nat} {c : Cmd} {x : Plan} (hc : cmdOf s cid 0x20 = some c)
    (hReasons : queryReasons s c.part (c.bytes.take 128) = 0) (hBus : (s.fn c.fn).busMaster = true)
    (hx : tget? s.work.plans (qSlot (c.bytes.take 128)) = some x) :
    exec (.query cid) s =
      .next (addQuery (withStep s cid (qSlot (c.bytes.take 128)) x) (askedQuery s cid c x)) := by
  have hOff : hostioOff s c = false := by simp [hostioOff, hBus]
  have hStep : noteStep (runCmd s cid) (qSlot (c.bytes.take 128)) ((x.step + 1) % 2 ^ 64) false =
      withStep s cid (qSlot (c.bytes.take 128)) x := by
    have hx' : tget? (runCmd s cid).work.plans (qSlot (c.bytes.take 128)) = some x := hx
    simp only [noteStep, tupd, hx']
    rfl
  have hSlot : stepFor s (qSlot (c.bytes.take 128)) (2 ^ 64 - 1) = (x.step + 1) % 2 ^ 64 := by
    simp only [stepFor, tgetD, hx, Option.getD_some, if_true]
  show execQuery cid s = _
  simp only [execQuery, hc, hReasons, hOff, hSlot, hStep, askedQuery]
  rfl

/-! Held queries. -/

theorem bindEpoch_of_min_epoch {s : State} {q : Query} (hEntry : q.entry = none) (hMin : qMinEp q.desc = true) :
    bindEpoch s q =
      if qMinEpoch q.desc ≤ s.epo.closed then some (max (qMinEpoch q.desc) s.epo.oldest) else none := by
  simp [bindEpoch, hEntry, hMin]

theorem bindEpoch_of_not_closed {s : State} {q : Query} (h : s.epo.closed < qMinEpoch q.desc)
    (hMin : q.entry ≠ none ∨ qMinEp q.desc = true) : bindEpoch s q = none := by
  by_cases hEntry : q.entry = none
  · rw [bindEpoch_of_min_epoch hEntry (hMin.resolve_left (not_not_intro hEntry)), if_neg (Nat.not_le.mpr h)]
  · simp [bindEpoch, Option.isSome_iff_ne_none.mpr hEntry, Nat.not_le.mpr h]

/-- A query that has its context and not yet its vector is bound, and waits on. -/
theorem execQueryHoldRelease_of_closed {s : State} {qid e : Nat} {q : Query} (h : tget? s.work.queries qid = some q)
    (hHeld : q.held = true) (hBind : bindEpoch s q = some e) (hCtx : q.ctx.isSome = true) (hVec : q.vec = none) :
    exec (.queryHoldRelease qid) s =
      .next { s with work.queries := tput s.work.queries qid { q with held := false, epoch := some e } } := by
  show execQueryHoldRelease qid s = _
  simp only [execQueryHoldRelease, h, hHeld, hBind, hCtx, if_true]
  rw [startQuery_of_no_vec (q := { q with held := false, epoch := some e }) (tget?_tput_same ..) hVec]

theorem execQueryHoldRelease_of_not_closed {s : State} {qid : Nat} {q : Query} (h : tget? s.work.queries qid = some q)
    (hBind : bindEpoch s q = none) : exec (.queryHoldRelease qid) s = .next s := by
  show execQueryHoldRelease qid s = _
  simp only [execQueryHoldRelease, h, hBind]
  cases q.held <;> rfl

/-! The end of a query. -/

/-- The state in which a query of its entry node is gone, its context free again, with what waits for it: its merge's lists
and its places at the Kneaders. -/
def withoutQuery (s : State) (qid : Nat) (q : Query) : State :=
  { s with
    epo.ctxUsed := q.ctx.elim s.epo.ctxUsed (terase s.epo.ctxUsed)
    work := { s.work with
      queries := terase s.work.queries qid
      kne := tfilter s.work.kne fun _ m => m.qid != some qid
      kneWait := s.work.kneWait.filter fun m => m.qid != some qid }
    fab.colls := tfilter s.fab.colls fun _ c => c.qid != some qid }

/-- A query that has neither walk nor invocation ends with its command's status. -/
theorem endQuery_of_idle {s : State} {qid : Nat} {q : Query} (h : tget? s.work.queries qid = some q)
    (hAt : q.at_ = none) (hInv : q.inv = none) (hEntry : q.entry = none) (e : Ending) :
    endQuery s qid e = endCmd? (withoutQuery s qid q) q.cid (endStatus e) (endAux e) (q.epoch.getD 0) := by
  simp only [endQuery, h, hAt, hInv, tellEntry, hEntry, withoutQuery]
  cases q.ctx <;> rfl

theorem execQueryHoldTimeout_of_due {s : State} {qid : Nat} {q : Query} (h : tget? s.work.queries qid = some q)
    (hDue : q.deadline ≤ s.now) (hWait : q.held = true ∨ q.ctx = none) (hInv : q.inv = none) :
    exec (.queryHoldTimeout qid) s = .next (endQuery s qid stTimeout) := by
  have hGo : (decide (q.deadline ≤ s.now) && (q.held || q.ctx.isNone || false)) = true := by
    rcases hWait with h | h <;> simp [hDue, h]
  show execQueryHoldTimeout qid s = _
  simp only [execQueryHoldTimeout, h, hInv, Option.bind_none, hGo, if_true, List.foldl_nil]

theorem execQueryHoldTimeout_of_early {s : State} {qid : Nat} {q : Query} (h : tget? s.work.queries qid = some q)
    (hEarly : s.now < q.deadline) : exec (.queryHoldTimeout qid) s = .next s := by
  show execQueryHoldTimeout qid s = _
  simp [execQueryHoldTimeout, h, Nat.not_le.mpr hEarly]

end Sys2Proof.Machine
end

section
/-!
O17.
-/
namespace Sys2Proof.Machine

/-- Settles O17: QUERY through the lemmas on a query's epoch and context, INSERT, UPSERT and DELETE through the lemma on
what admits an update and those on its slot, context and record. -/
theorem queriesAndUpdatesAreAdmitted : Obligations.QueriesAndUpdatesAreAdmitted := by
  refine ⟨?query, ?release, ?held, ?timeout, ?early, ?insert, ?upsert, ?delete, ?fewPeers⟩
  case query =>
    intro s cid k c x hc hReasons hBus hInj hx hFree
    have hBind : bindEpoch (withStep s cid (qSlot (c.bytes.take 128)) x) (askedQuery s cid c x) =
        if qMinEp (c.bytes.take 128) = false then some s.epo.closed
        else if qMinEpoch (c.bytes.take 128) ≤ s.epo.closed then
          some (max (qMinEpoch (c.bytes.take 128)) s.epo.oldest) else none := by
      cases hMin : qMinEp (c.bytes.take 128) <;> simp [bindEpoch, askedQuery, hMin] <;> rfl
    refine ⟨_, execQuery_of_no_reason hc hReasons hBus hx, ?_⟩
    rw [addQuery_of_free (k := k) (by exact hFree) rfl (by exact hInj)]
    simp only [boundQuery, waitCounted, hBind]
    rfl
  case release =>
    intro s qid e k q h hHeld hEntry hMin hClosed he hCtx hVec
    have hBind : bindEpoch s q = some e := by rw [bindEpoch_of_min_epoch hEntry hMin, if_pos hClosed, he]
    exact execQueryHoldRelease_of_closed h hHeld hBind (by simp [hCtx]) hVec
  case held =>
    intro s qid q h hLess hMin
    exact execQueryHoldRelease_of_not_closed h (bindEpoch_of_not_closed hLess hMin)
  case timeout =>
    intro s qid cid q c h hDue hWait hInv hAt hEntry hCid hc hr
    refine ⟨_, execQueryHoldTimeout_of_due h hDue hWait hInv, ?_⟩
    rw [endQuery_of_idle h hAt hInv hEntry, hCid]
    have hEnd := endCmd_of_ringReady (s := withoutQuery s qid q) (st := endStatus stTimeout) hc
      (ringReady_congr rfl rfl rfl hr) (by decide) (endAux stTimeout) (q.epoch.getD 0)
    simp only [endCmd?, hEnd]
    refine ⟨rfl, rfl, fun k hk => ?_, fun hNone => ?_, rfl⟩
    · simp [completed, withoutQuery, hk, State.setQ, State.setFn, State.emit]
    · simp [completed, withoutQuery, hNone, State.setQ, State.setFn, State.emit]
  case early =>
    intro s qid q h hEarly
    exact execQueryHoldTimeout_of_early h hEarly
  case insert =>
    intro s cid k g c x hc hHead hx hPart hShut hIdx hRun hPeers hNone h8 h10 hMeta hBus hSlot hRec hLog hChanges hCtx
    rw [execInsert_of_cmd hc, admitUpdate_of_fields_ok hHead hx hPart hShut hIdx hRun (.inr ⟨h8, h10, hMeta, hBus⟩) (.inl rfl),
      updRoom_of_room hPeers hLog hChanges (.inr (by simp [hSlot])), if_neg (by simp),
      admitLocal_awaits_vector (.inl rfl) hSlot hRec hCtx]
    rw [← tput_of_empty hNone]
    rfl
  case upsert =>
    intro s cid k g c x hc hHead hx hPart hShut hIdx hRun hPeers hNone h8 h10 hMeta hBus hSlot hRec hSpace hHost hLog
      hChanges hCtx
    rw [execUpsert_of_cmd hc, admitUpdate_of_fields_ok hHead hx hPart hShut hIdx hRun (.inr ⟨h8, h10, hMeta, hBus⟩)
        (.inr ⟨hSpace, hHost⟩),
      updRoom_of_room hPeers hLog hChanges (.inr (by simp [hSlot])), if_neg (by simp),
      admitLocal_awaits_vector (.inr rfl) hSlot hRec hCtx]
    rw [← tput_of_empty hNone]
    rfl
  case delete =>
    intro s cid g c x hc hHead hx hPart hShut hIdx hRun hPeers hNone hSpace hHost hLog hChanges hCtx hInj
    have hLogged := admitLocal_logs_delete (cid := cid) (c := c) (x := x) hCtx hInj
    rw [execDelete_of_cmd hc, admitUpdate_of_fields_ok hHead hx hPart hShut hIdx hRun (.inl rfl) (.inr ⟨hSpace, hHost⟩),
      updRoom_of_room hPeers hLog hChanges (.inl rfl), if_neg (by simp)]
    refine ⟨_, rfl, ?_⟩
    rw [inLocalLog_withUpdate] at hLogged
    obtain ⟨_, _, _, _, ht⟩ := hLogged
    rw [ht]
    refine ⟨?_, rfl⟩
    dsimp only
    rw [← tput_of_empty hNone]
    rfl
  case fewPeers =>
    intro s cid c x hc hHead hx hPart hShut hIdx hRun hPeers hSpace hHost hLog hChanges
    rw [execDelete_of_cmd hc, admitUpdate_of_fields_ok hHead hx hPart hShut hIdx hRun (.inl rfl) (.inr ⟨hSpace, hHost⟩),
      updRoom_of_few_peers hPeers hLog hChanges, if_pos rfl]
    rfl

end Sys2Proof.Machine
end

section
/-!
Scratch, and the units of a cluster (R26, R79, R80, R83).
-/
namespace Sys2Proof.Machine

/-! Scratch holds 2,097,152 bytes, and an address wraps there. -/

theorem tabWf_scrPut {t : Tab Byte} (h : tabWf t = true) (a : Nat) (b : Byte) : tabWf (scrPut t a b) = true := by
  unfold scrPut
  split
  · exact tabWf_terase _ h
  · exact tabWf_tput _ _ h

theorem tgetD_scrPut {t : Tab Byte} (h : tabWf t = true) (a x : Nat) (b : Byte) :
    tgetD (scrPut t a b) x 0 = if a % 2097152 = x then b else tgetD t x 0 := by
  unfold scrPut
  split
  · next hb =>
    by_cases hx : a % 2097152 = x
    · rw [if_pos hx, ← hx, tgetD, tget?_terase_same _ h, hb]; rfl
    · rw [if_neg hx, tgetD, tget?_terase_ne _ _ _ (Ne.symm hx), tgetD]
  · by_cases hx : a % 2097152 = x
    · rw [if_pos hx, ← hx, tgetD_tput_same]
    · rw [if_neg hx, tgetD_tput_ne _ _ _ _ _ (Ne.symm hx)]

theorem tgetD_scrWriteT_outside {t : Tab Byte} (h : tabWf t = true) {a x : Nat} {bs : List Byte}
    (hx : ∀ i, i < bs.length → (a + i) % 2097152 ≠ x) : tgetD (scrWriteT t a bs) x 0 = tgetD t x 0 := by
  induction bs generalizing t a with
  | nil => rfl
  | cons b bs ih =>
    have hHead : a % 2097152 ≠ x := hx 0 (by simp)
    have hTail : ∀ i, i < bs.length → (a + 1 + i) % 2097152 ≠ x := fun i hi => by
      rw [show a + 1 + i = a + (i + 1) by omega]
      exact hx (i + 1) (by simpa using hi)
    rw [scrWriteT, ih (tabWf_scrPut h a b) hTail, tgetD_scrPut h, if_neg hHead]

theorem tgetD_scrWriteT_inside {t : Tab Byte} (h : tabWf t = true) {a i : Nat} {bs : List Byte}
    (hlen : bs.length ≤ 2097152) (hi : i < bs.length) :
    tgetD (scrWriteT t a bs) ((a + i) % 2097152) 0 = bs[i] := by
  induction bs generalizing t a i with
  | nil => exact absurd hi (by simp)
  | cons b bs ih =>
    simp only [List.length_cons] at hlen hi
    cases i with
    | zero =>
      have hTail : ∀ i, i < bs.length → (a + 1 + i) % 2097152 ≠ (a + 0) % 2097152 := fun i hi => by omega
      rw [scrWriteT, tgetD_scrWriteT_outside (tabWf_scrPut h a b) hTail, tgetD_scrPut h]
      simp
    | succ i =>
      rw [scrWriteT, show a + (i + 1) = a + 1 + i by omega, ih (tabWf_scrPut h a b) (by omega) (by omega)]
      simp

section
variable {x y : Cluster} {a : Nat} {bs : List Byte} (h : tabWf x.scratch = true)
  (hy : y.scratch = scrWriteT x.scratch a bs)
include h hy

/-- A read of what a write has just stored. -/
theorem scrRead_of_written (hlen : bs.length ≤ 2097152) {off n : Nat} (hin : off + n ≤ bs.length) :
    scrRead y (a + off) n = (bs.drop off).take n := by
  refine List.ext_getElem (by simp [scrRead]; omega) fun i hi _ => ?_
  simp only [scrRead, List.length_map, List.length_range] at hi
  simp only [scrRead, List.getElem_map, List.getElem_range, scr, hy, List.getElem_take, List.getElem_drop]
  rw [Nat.add_assoc]
  exact tgetD_scrWriteT_inside h hlen (by omega)

/-- A byte that a write does not reach reads as before. -/
theorem scr_of_not_written {z : Nat} (hz : z < 2097152) (hout : ∀ i, i < bs.length → (a + i) % 2097152 ≠ z) :
    scr y z = scr x z := by
  simp only [scr, hy, Nat.mod_eq_of_lt hz]
  exact tgetD_scrWriteT_outside h hout

end

/-! A unit that goes on. -/

/-- Nothing but clusters and counters differs. -/
def onlyClusters (s t : State) : Prop := ∃ clusters pmc, t = { s with work.clusters := clusters, pmc := pmc }

theorem onlyClusters.refl (s : State) : onlyClusters s s := ⟨_, _, rfl⟩

theorem onlyClusters.trans {s t u : State} (h : onlyClusters s t) (h' : onlyClusters t u) : onlyClusters s u := by
  obtain ⟨_, _, rfl⟩ := h
  obtain ⟨_, _, rfl⟩ := h'
  exact ⟨_, _, rfl⟩

theorem onlyCounters.onlyClusters {s t : State} (h : onlyCounters s t) : onlyClusters s t := by
  obtain ⟨_, rfl⟩ := h; exact ⟨_, _, rfl⟩

theorem onlyCounters.trans {s t u : State} (h : onlyCounters s t) (h' : onlyCounters t u) : onlyCounters s u := by
  obtain ⟨_, rfl⟩ := h
  obtain ⟨_, rfl⟩ := h'
  exact ⟨_, rfl⟩

theorem countCls_onlyCounters (s : State) (c ev q n : Nat) : onlyCounters s (countCls s c ev q n) := by
  unfold countCls
  split
  · exact ⟨_, rfl⟩
  · rw [count_eq]; exact ⟨_, rfl⟩

theorem wasteSlot_onlyCounters (s : State) (c n : Nat) : onlyCounters s (wasteSlot s c n) := by
  simp only [wasteSlot]
  split <;> exact ⟨_, rfl⟩

theorem setCl_onlyClusters (s : State) (c : Nat) (x : Cluster) : onlyClusters s (s.setCl c x) := ⟨_, _, rfl⟩

/-- A cluster in which unit `u` has completed word `w`, its signal given, and goes to the next one (R80, R83). -/
def Cluster.retired (x : Cluster) (u w : Nat) : Cluster :=
  { x with
    tokens := if wSigen w then signalToken x.tokens (wSigt w) else x.tokens
    units := tput x.units u { x.unit u with pc := nextPc (x.list u).length (x.unit u).pc, wait := .none } }

/-- The walker and the select unit have no conversions to end: their word signals, and the next one follows. -/
theorem retire_of_word {s : State} {c u w : Nat} (h : (s.cl c).word u = some w) (hu : 2 ≤ u) :
    retire s c u = s.setCl c ((s.cl c).retired u w) := by
  simp only [retire, retireTo, h, decide_eq_false (Nat.not_lt.mpr hu), Bool.and_false, Bool.false_eq_true, if_false]
  split <;> next hs => simp [Cluster.retired, Cluster.setUnit, hs, Cluster.unit]

theorem retire_of_no_word {s : State} {c u : Nat} (h : (s.cl c).word u = none) : retire s c u = s := by
  simp only [retire, retireTo, h]

theorem retire_onlyClusters (s : State) (c : Nat) {u : Nat} (hu : 2 ≤ u) : onlyClusters s (retire s c u) := by
  cases h : (s.cl c).word u with
  | none => rw [retire_of_no_word h]; exact .refl s
  | some w => rw [retire_of_word h hu]; exact setCl_onlyClusters ..

theorem resume_of_waiting {s : State} {c u : Nat} {wt : UWait} (h : ((s.cl c).unit u).wait = wt) :
    resume s c u wt = retire s c u := by simp [resume, h]

theorem resume_onlyClusters (s : State) (c : Nat) {u : Nat} (hu : 2 ≤ u) (wt : UWait) :
    onlyClusters s (resume s c u wt) := by
  unfold resume
  split
  · exact retire_onlyClusters s c hu
  · exact .refl s

@[simp] theorem Cluster.retired_unit (x : Cluster) (u w : Nat) :
    (x.retired u w).unit u = { x.unit u with pc := nextPc (x.list u).length (x.unit u).pc, wait := .none } := by
  simp [Cluster.retired, Cluster.unit]

@[simp] theorem Cluster.retired_scratch (x : Cluster) (u w : Nat) : (x.retired u w).scratch = x.scratch := rfl

@[simp] theorem Cluster.retired_walks (x : Cluster) (u w : Nat) : (x.retired u w).walks = x.walks := rfl

end Sys2Proof.Machine
end

section
/-!
Rerank reads and the end of a walk (R124 to R127).
-/
namespace Sys2Proof.Machine

@[simp] theorem putWalk_walk (s : State) (c k : Nat) (w : Walk) : tget? ((putWalk s c k w).cl c).walks k = some w := by
  simp [putWalk]

/-! A full vector. -/

/-- The walk whose candidate at `slot` has had its read ended, with exact score `v` or without one (R125, R126). -/
def Walk.readEnded (w : Walk) (slot : Nat) (v : Option Nat) : Walk :=
  { w with cand := w.cand.map fun y => if y.slot = slot then { y with ended := true, exact := v } else y }

theorem rerank_beq {w : Walk} (h : w.phase = .rerank) : (w.phase == .rerank) = true := by rw [h]; rfl

section
variable {e : WalkEnv} {w : Walk} {slot : Nat}

/-- The rerank window holds the same candidates when a read has ended. -/
theorem window_readEnded (v : Option Nat) :
    window e (w.readEnded slot v) =
      (window e w).map fun y => if y.slot = slot then { y with ended := true, exact := v } else y := by
  have hPass : ((·.pass) ∘ fun y : CandEnt => if y.slot = slot then { y with ended := true, exact := v } else y) =
      (·.pass) := by
    funext y; simp only [Function.comp]; split <;> rfl
  simp only [window, Walk.readEnded, List.filter_map, hPass, List.map_take]

/-- While another member of the window is awaited, a rerank goes on. -/
theorem rerankOn_of_awaited (s : State) (v : Option Nat) (h : ∃ a ∈ window e w, a.slot ≠ slot ∧ a.ended = false) :
    rerankOn s e (w.readEnded slot v) = putWalk s e.c e.k (w.readEnded slot v) := by
  obtain ⟨a, ha, hSlot, hOpen⟩ := h
  have hNotAll : (window e (w.readEnded slot v)).all (·.ended) = false := by
    rw [window_readEnded, List.all_map, List.all_eq_false]
    exact ⟨a, ha, by simp [hSlot, hOpen]⟩
  rw [rerankOn, hNotAll]
  rfl

/-- The state in which a vector's read is no longer awaited. -/
def withoutJob (s : State) (e : WalkEnv) (slot : Nat) : State :=
  { s with flash.jobs := terase s.flash.jobs (jobKey (.rerank e.c e.k slot)) }

variable (hPhase : w.phase = .rerank) (hAwaited : ∃ a ∈ window e w, a.slot ≠ slot ∧ a.ended = false)
include hPhase hAwaited

theorem takeVector_of_late {s : State} (hLate : e.q.deadline < s.now) (poison : Bool) :
    takeVector s e w slot poison =
      putWalk (countCls (withoutJob s e slot) e.c Ev.clsLateArrival) e.c e.k (w.readEnded slot none) := by
  rw [← rerankOn_of_awaited _ none hAwaited]
  simp only [takeVector, hLate, rerank_beq hPhase, if_true]
  rfl

theorem takeVector_of_poison {s : State} (hTime : ¬ e.q.deadline < s.now) :
    takeVector s e w slot true =
      putWalk (countCls (withoutJob s e slot) e.c Ev.rerankErr) e.c e.k (w.readEnded slot none) := by
  rw [← rerankOn_of_awaited _ none hAwaited]
  simp only [takeVector, hTime, rerank_beq hPhase, Bool.true_or, if_true, if_false]
  rfl

/-- A readable vector in time gives its candidate the exact score; a NaN is counted. -/
theorem takeVector_of_readable {s : State} (hTime : ¬ e.q.deadline < s.now)
    (hData : (flashData s (vecAddr e.d slot) e.d.vstride).2 = (false, false)) :
    ∃ t, onlyCounters (withoutJob s e slot) t ∧
      takeVector s e w slot false =
        putWalk t e.c e.k
          (w.readEnded slot (some (exactOf e w (flashData s (vecAddr e.d slot) e.d.vstride).1).1)) := by
  have hBad : (flashData s (vecAddr e.d slot) e.d.vstride).2.1 = false := by rw [hData]
  have hDisc : (flashData s (vecAddr e.d slot) e.d.vstride).2.2 = false := by rw [hData]
  refine ⟨if (exactOf e w (flashData s (vecAddr e.d slot) e.d.vstride).1).2 then
    countCls (withoutJob s e slot) e.c Ev.nanScore else withoutJob s e slot, ?_, ?_⟩
  · split
    · exact countCls_onlyCounters ..
    · exact ⟨_, rfl⟩
  · rw [← rerankOn_of_awaited _ _ hAwaited]
    simp only [takeVector, hTime, hBad, hDisc, rerank_beq hPhase, Bool.or_self, Bool.false_eq_true, if_true, if_false]
    rfl

end

/-! The two commands. -/

/-- What the walk in context `k` of cluster `c` works on, for query `q` over index `ix`. -/
def envOf (c k : Nat) (w : Walk) (q : Query) (ix : Index) : WalkEnv :=
  { c := c, k := k, qid := w.qid, q := q, i := getLE q.desc 0x28 2, x := ix }

section
variable {s : State} {c : Fin 128} {ctx : Fin 64} {w : Walk} {q : Query} {ix : Index}
  (hw : tget? (s.cl c.val).walks ctx.val = some w) (hq : tget? s.work.queries w.qid = some q)
  (hix : queryIndex s q = some ix)
include hq hix

theorem walkEnv_of_index (c k : Nat) : walkEnv s c k w = some (envOf c k w q ix) := by
  simp only [walkEnv, hq, hix, Option.map_some]
  rfl

include hw

/-- The codewords of a requested vector are all there. -/
theorem execRerankVectorArrive_of_read {slot : Nat} {z : CandEnt} {j : FlJob}
    (hz : w.cand.find? (fun a => a.slot = slot && !a.ended) = some z)
    (hj : tget? s.flash.jobs (jobKey (.rerank c.val ctx.val slot)) = some j) (hReq : z.req = true) (hLeft : j.left = 0) :
    exec (.rerankVectorArrive c ctx slot) s =
      .next (takeVector s (envOf c.val ctx.val w q ix) w slot j.poison) := by
  show execRerankVectorArrive c ctx slot s = _
  simp only [execRerankVectorArrive, hw, walkEnv_of_index hq hix, hz, hj, hReq, hLeft, Bool.true_and, decide_true, if_true]

theorem execRerankDeadlineExpire_of_due (hPhase : w.phase = .rerank) (hDue : q.deadline ≤ s.now) :
    exec (.rerankDeadlineExpire c ctx) s = .next (finishWalk s (envOf c.val ctx.val w q ix) w) := by
  have hGo : (w.phase == .rerank && decide ((envOf c.val ctx.val w q ix).q.deadline ≤ s.now)) = true := by
    rw [rerank_beq hPhase]
    exact decide_eq_true hDue
  show execRerankDeadlineExpire c ctx s = _
  simp only [execRerankDeadlineExpire, hw, walkEnv_of_index hq hix, hGo, if_true]

theorem execRerankDeadlineExpire_of_not_due (h : w.phase ≠ .rerank ∨ s.now < q.deadline) :
    exec (.rerankDeadlineExpire c ctx) s = .next s := by
  have hStay : (w.phase == .rerank && decide ((envOf c.val ctx.val w q ix).q.deadline ≤ s.now)) = false := by
    exact Bool.and_eq_false_iff.mpr (h.imp beq_eq_false_iff_ne.mpr fun h => decide_eq_false (Nat.not_le.mpr h))
  show execRerankDeadlineExpire c ctx s = _
  simp only [execRerankDeadlineExpire, hw, walkEnv_of_index hq hix, hStay, Bool.false_eq_true, if_false]

end

theorem execRerankVectorArrive_of_walk_ended {s : State} {c : Fin 128} {ctx : Fin 64} {slot : Nat} {j : FlJob}
    (hw : tget? (s.cl c.val).walks ctx.val = none)
    (hj : tget? s.flash.jobs (jobKey (.rerank c.val ctx.val slot)) = some j) (hLeft : j.left = 0) :
    exec (.rerankVectorArrive c ctx slot) s =
      .next (countCls { s with flash.jobs := terase s.flash.jobs (jobKey (.rerank c.val ctx.val slot)) } c.val
        Ev.clsLateArrival) := by
  show execRerankVectorArrive c ctx slot s = _
  simp only [execRerankVectorArrive, hw, hj, hLeft, if_true]

/-! The end of a walk. -/

@[simp] theorem State.setCl_setCl (s : State) (c : Nat) (x y : Cluster) : (s.setCl c x).setCl c y = s.setCl c y := by
  simp [State.setCl]

/-- Lines of a cluster's record buffer, all of them counted as used. -/
def allUsed (x : Cluster) : List RecLine := x.recs.map fun l => { l with used := true }

theorem unusedLines_onlyCounters (s : State) (c n : Nat) :
    onlyCounters (s.setCl c { s.cl c with recs := allUsed (s.cl c) }) (unusedLines s c n) :=
  (countCls_onlyCounters ..).trans (wasteSlot_onlyCounters ..)

/-- The query whose walk has ended (R131). -/
def walkedQuery (e : WalkEnv) (w : Walk) : Query :=
  { e.q with
    at_ := none, visits := w.visits, passed := (w.cand.filter (·.pass)).length, quiet := true
    hflags := (if w.cut then 4 else 0) + (if w.widened ≠ 0 then 8 else 0) + (if qFilter e.q.desc ≠ 0 then 16 else 0) }

/-- Entries of a walk's candidate area. -/
def areaSize (e : WalkEnv) (w : Walk) : Nat := min 65536 (qPool e.q.desc * 2 ^ w.widened)

/-- A cluster whose walk in context `k` has ended and has left `bytes` in scratch. -/
def Cluster.walkEnded (x : Cluster) (k a : Nat) (bytes : List Byte) : Cluster :=
  { x with walks := terase x.walks k, scratch := scrWriteT x.scratch a bytes, recs := allUsed x }

/-- The end of a walk: what lies in the candidate area, padding alone when there is no candidate, and the unit goes on. -/
theorem finishWalk_resumes (s : State) (e : WalkEnv) (w : Walk) :
    ∃ bytes pmc,
      (w.cand = [] → bytes = (List.replicate (areaSize e w) (padEnt e.d.lower).bytes).flatten) ∧
      finishWalk s e w =
        resume { s.setCl e.c ((s.cl e.c).walkEnded e.k w.out bytes) with
          work.queries := tput s.work.queries e.qid (walkedQuery e w), pmc := pmc } e.c 2 (.walk e.k) := by
  have hLines (bytes : List Byte) : ∃ pmc,
      unusedLines (scrWrite (s.setCl e.c { s.cl e.c with walks := terase (s.cl e.c).walks e.k }) e.c w.out bytes) e.c
        w.inflight.length = { s.setCl e.c ((s.cl e.c).walkEnded e.k w.out bytes) with pmc := pmc } := by
    obtain ⟨pmc, h⟩ := unusedLines_onlyCounters
      (scrWrite (s.setCl e.c { s.cl e.c with walks := terase (s.cl e.c).walks e.k }) e.c w.out bytes) e.c w.inflight.length
    refine ⟨pmc, h.trans ?_⟩
    simp only [scrWrite, State.cl_setCl_same, State.setCl_setCl]
    rfl
  choose pmc hLines using hLines
  refine ⟨_, pmc _, fun hNone => ?_, by simp only [finishWalk, hLines]; rfl⟩
  simp only [hNone, List.filter_nil, List.map_nil]
  rfl

/-- The end of a walk whose unit waits for it: the walk's context is free, the unit is behind its word, and the query knows
what the walk did. -/
theorem finishWalk_of_waiting {s : State} {e : WalkEnv} {w : Walk} {word : Nat}
    (hWait : ((s.cl e.c).unit 2).wait = .walk e.k) (hWord : (s.cl e.c).word 2 = some word) :
    ∃ bytes,
      (w.cand = [] → bytes = (List.replicate (areaSize e w) (padEnt e.d.lower).bytes).flatten) ∧
      ((finishWalk s e w).cl e.c).walks = terase (s.cl e.c).walks e.k ∧
      ((finishWalk s e w).cl e.c).scratch = scrWriteT (s.cl e.c).scratch w.out bytes ∧
      ((finishWalk s e w).cl e.c).unit 2 = { (s.cl e.c).unit 2 with
        pc := nextPc ((s.cl e.c).list 2).length ((s.cl e.c).unit 2).pc, wait := .none } ∧
      (finishWalk s e w).work.queries = tput s.work.queries e.qid (walkedQuery e w) := by
  obtain ⟨bytes, pmc, hPad, hEq⟩ := finishWalk_resumes s e w
  refine ⟨bytes, hPad, ?_⟩
  have hCl : State.cl { s.setCl e.c ((s.cl e.c).walkEnded e.k w.out bytes) with
      work.queries := tput s.work.queries e.qid (walkedQuery e w), pmc := pmc } e.c =
      (s.cl e.c).walkEnded e.k w.out bytes := State.cl_setCl_same ..
  rw [hEq, resume_of_waiting (by rw [hCl]; exact hWait), retire_of_word (by rw [hCl]; exact hWord) (Nat.le_refl 2), hCl,
    State.cl_setCl_same, Cluster.retired_unit]
  exact ⟨rfl, rfl, rfl, rfl⟩

/-! Padding. -/

theorem length_flatten_replicate {α : Type} (n : Nat) (p : List α) :
    (List.replicate n p).flatten.length = n * p.length := by simp

theorem take_drop_flatten_replicate {α : Type} {n i m : Nat} {p : List α} (hp : p.length = m) (hi : i < n) :
    (((List.replicate n p).flatten).drop (m * i)).take m = p := by
  induction i generalizing n with
  | zero =>
    obtain ⟨n, rfl⟩ : ∃ k, n = k + 1 := ⟨n - 1, by omega⟩
    simp [List.replicate_succ, ← hp]
  | succ i ih =>
    obtain ⟨n, rfl⟩ : ∃ k, n = k + 1 := ⟨n - 1, by omega⟩
    rw [List.replicate_succ, List.flatten_cons, Nat.mul_succ, Nat.add_comm, ← List.drop_drop, ← hp, List.drop_left, hp]
    exact ih (by omega)

@[simp] theorem length_leBytes (len n : Nat) : (leBytes len n).length = len := by
  induction len generalizing n with
  | zero => rfl
  | succ len ih => simp [leBytes, ih]

theorem REnt.length_bytes (e : REnt) : e.bytes.length = 16 := by simp [REnt.bytes]

/-- Settles O37: a vector through the lemmas on the window and on what a read leaves, the deadline through the end of a walk. -/
theorem rerankScoresExactly : Obligations.RerankScoresExactly := by
  refine ⟨?readable, ?lost, ?walkEnded, ?deadline, ?notDue⟩
  case readable =>
    intro s c ctx slot wk q ix z j hw hq hix hPhase hz hj hReq hLeft hPoison hTime hData hAwaited
    obtain ⟨t, ⟨pmc, rfl⟩, ht⟩ := takeVector_of_readable (e := envOf c.val ctx.val wk q ix) hPhase hAwaited
      (Nat.not_lt.mpr hTime) hData
    refine ⟨_, execRerankVectorArrive_of_read hw hq hix hz hj hReq hLeft, ?_⟩
    rw [hPoison, ht]
    exact ⟨putWalk_walk .., rfl, rfl, rfl, rfl⟩
  case lost =>
    intro s c ctx slot wk q ix z j hw hq hix hPhase hz hj hReq hLeft hLost hAwaited
    refine ⟨_, execRerankVectorArrive_of_read hw hq hix hz hj hReq hLeft, ?_⟩
    by_cases hLate : q.deadline < s.now
    · rw [takeVector_of_late (e := envOf c.val ctx.val wk q ix) hPhase hAwaited hLate, if_pos hLate]
      exact ⟨putWalk_walk .., rfl⟩
    · rw [hLost.resolve_right hLate, takeVector_of_poison (e := envOf c.val ctx.val wk q ix) hPhase hAwaited hLate,
        if_neg hLate]
      exact ⟨putWalk_walk .., rfl⟩
  case walkEnded =>
    intro s c ctx slot j hw hj hLeft
    exact execRerankVectorArrive_of_walk_ended hw hj hLeft
  case deadline =>
    intro s c ctx wk q ix hw hq hix hPhase hDue hWf hWait hWord
    refine ⟨_, execRerankDeadlineExpire_of_due hw hq hix hPhase hDue, ?_⟩
    obtain ⟨word, hWord, -⟩ := Option.map_eq_some_iff.mp hWord
    obtain ⟨bytes, hPad, hWalks, hScratch, hUnit, hQueries⟩ :=
      finishWalk_of_waiting (e := envOf c.val ctx.val wk q ix) (w := wk) hWait hWord
    refine ⟨hWalks, congrArg UnitSt.wait hUnit, congrArg UnitSt.pc hUnit, ?_, fun i hNone hi => ?_⟩
    · rw [hQueries]
      exact congrArg _ (tget?_tput_same ..)
    · have hBytes := hPad hNone
      have hArea : i.val < areaSize (envOf c.val ctx.val wk q ix) wk := hi
      have hSize : areaSize (envOf c.val ctx.val wk q ix) wk ≤ 65536 := Nat.min_le_left ..
      have hLen : bytes.length = 16 * areaSize (envOf c.val ctx.val wk q ix) wk := by
        rw [hBytes, length_flatten_replicate, REnt.length_bytes]; omega
      refine (scrRead_of_written hWf hScratch (by omega) (by omega)).trans ?_
      rw [hBytes, take_drop_flatten_replicate (REnt.length_bytes _) hArea]
      rfl
  case notDue =>
    intro s c ctx wk q ix hw hq hix h
    exact execRerankDeadlineExpire_of_not_due hw hq hix h

end Sys2Proof.Machine
end

section
/-!
Lists put in order, and what a Kneader makes of its lists (R150 to R152).
-/
namespace Sys2Proof.Machine

/-! Insertion sort. -/

section
variable {α : Type} (le : α → α → Bool)

theorem insertBy_perm (x : α) (xs : List α) : (insertBy le x xs).Perm (x :: xs) := by
  induction xs with
  | nil => exact .refl _
  | cons y ys ih =>
    simp only [insertBy]
    split
    · exact (ih.cons y).trans (.swap x y ys)
    · exact .refl _

theorem sortBy_perm (xs : List α) : (sortBy le xs).Perm xs := by
  have hFold (acc : List α) : (xs.foldl (fun acc x => insertBy le x acc) acc).Perm (acc ++ xs) := by
    induction xs generalizing acc with
    | nil => simp
    | cons x xs ih =>
      exact (ih _).trans (((insertBy_perm le x acc).append_right xs).trans List.perm_middle.symm)
  exact hFold []

variable {le} {R : α → α → Prop} (hLe : ∀ a b, le a b = true → R a b) (hNotLe : ∀ a b, le a b = false → R b a)
  (hTrans : ∀ a b c, R a b → R b c → R a c)
include hLe hNotLe hTrans

theorem insertBy_pairwise {xs : List α} (x : α) (h : xs.Pairwise R) : (insertBy le x xs).Pairwise R := by
  induction xs with
  | nil => exact List.pairwise_singleton ..
  | cons y ys ih =>
    obtain ⟨hy, hys⟩ := List.pairwise_cons.mp h
    simp only [insertBy]
    split
    · next hyx =>
      refine List.pairwise_cons.mpr ⟨fun z hz => ?_, ih hys⟩
      rcases List.mem_cons.mp ((insertBy_perm le x ys).mem_iff.mp hz) with rfl | hz
      · exact hLe _ _ hyx
      · exact hy z hz
    · next hyx =>
      have hxy := hNotLe y x (by simpa using hyx)
      refine List.pairwise_cons.mpr ⟨fun z hz => ?_, h⟩
      rcases List.mem_cons.mp hz with rfl | hz
      · exact hxy
      · exact hTrans _ _ _ hxy (hy z hz)

theorem sortBy_pairwise (xs : List α) : (sortBy le xs).Pairwise R :=
  List.foldlRecOn xs _ (motive := List.Pairwise R) .nil fun _ h x _ =>
    insertBy_pairwise hLe hNotLe hTrans x h

end

/-! One entry per handle. -/

/-- The handles of numbered entries, in order. -/
def handlesOf (xs : List MEnt) : List Nat := xs.map fun m => m.e.handle

/-- Of the copies of a handle one is kept (R151). -/
theorem handlesOf_resolve_nodup (lower : Bool) (xs : List MEnt) : (handlesOf (resolve lower xs).1).Nodup := by
  refine List.foldlRecOn xs _ (motive := fun acc : List MEnt × Nat => (handlesOf acc.1).Nodup) .nil fun acc h x _ => ?_
  dsimp only
  split
  · next hNew =>
    have hOther : x.e.handle ∉ handlesOf acc.1 := by
      simpa [handlesOf] using hNew
    have hAdd : handlesOf (acc.1 ++ [x]) = handlesOf acc.1 ++ [x.e.handle] := List.map_append
    exact hAdd ▸ h.append (List.nodup_singleton _) (List.disjoint_singleton.mpr hOther)
  · next y hy =>
    have hSame : y.e.handle = x.e.handle := by simpa using List.find?_some hy
    have hKept : handlesOf (acc.1.map fun w => if w.e.handle = x.e.handle then
        { (if copyBeats lower x.e y.e then x else y) with
          e := { (if copyBeats lower x.e y.e then x else y).e with
            flags := setBit (if copyBeats lower x.e y.e then x else y).e.flags 2 } } else w) = handlesOf acc.1 := by
      simp only [handlesOf, List.map_map]
      refine List.map_congr_left fun w _ => ?_
      simp only [Function.comp]
      split
      · next hw => split <;> simp [hw, hSame]
      · rfl
    exact hKept ▸ h

/-! The merge. -/

/-- The lists that a merge uses: those without an error (R150). -/
def goodLists (lower : Bool) (k : Nat) (lists : List MList) : List (Nat × MList) :=
  (lists.mapIdx fun i l => (i, l)).filter fun nl => listErr lower k nl.2 = 0

/-- The best `k` entries, one per handle (R151, R152). -/
def bestEntries (lower : Bool) (k : Nat) (lists : List MList) : List MEnt :=
  (sortBy (fun a b => byKeyHandle lower a.e b.e) (resolve lower (numbered (goodLists lower k lists))).1).take k

section
variable (lower : Bool) (k : Nat) (lists : List MList) (part : Bool)

theorem kneMerge_es :
    (kneMerge lower k lists part).es = (sortBy (mergeLe lower) (bestEntries lower k lists)).map (·.e) := rfl

theorem kneMerge_length_le : (kneMerge lower k lists part).es.length ≤ k := by
  rw [kneMerge_es, List.length_map, (sortBy_perm ..).length_eq, bestEntries]
  exact List.length_take_le ..

theorem kneMerge_handles_nodup : ((kneMerge lower k lists part).es.map (·.handle)).Nodup := by
  have hBest : (handlesOf (bestEntries lower k lists)).Nodup := by
    refine List.Nodup.sublist ((List.take_sublist k _).map _) ?_
    exact ((sortBy_perm _ _).map _).nodup_iff.mpr (handlesOf_resolve_nodup ..)
  rw [kneMerge_es, List.map_map]
  exact ((sortBy_perm _ _).map _).nodup_iff.mpr hBest

theorem kneMerge_best_first : (kneMerge lower k lists part).es.Pairwise fun a b => byKey lower a b = true := by
  rw [kneMerge_es, List.pairwise_map]
  refine sortBy_pairwise (fun a b h => ?_) (fun a b h => ?_) (fun a b c h h' => ?_) _
  · simp only [mergeLe, byKey, Bool.or_eq_true, Bool.and_eq_true, decide_eq_true_eq, beq_iff_eq] at *
    omega
  · simp only [mergeLe, byKey, Bool.or_eq_false_iff, decide_eq_false_iff_not, decide_eq_true_eq] at *
    omega
  · simp only [byKey, decide_eq_true_eq] at *
    omega

end

theorem RHead.length_bytes (h : RHead) : h.bytes.length = 32 := by simp [RHead.bytes]

theorem length_flatMap_bytes (es : List REnt) : (es.flatMap REnt.bytes).length = 16 * es.length := by
  simp [List.length_flatMap, REnt.length_bytes, Nat.mul_comm]

theorem length_resultBytes {lower : Bool} {h : RHead} {es : List REnt} (hes : es.length ≤ h.k) :
    (resultBytes lower h es).length = 32 + 16 * h.k := by
  simp only [resultBytes, List.length_append, RHead.length_bytes, length_flatMap_bytes, length_flatten_replicate,
    REnt.length_bytes]
  omega

end Sys2Proof.Machine
end

section
/-!
A word issued by a unit that stands ready (R80, R84), and the end of a query (R377).
-/
namespace Sys2Proof.Machine

/-! Issue. -/

theorem taken_cl (s : State) (c w : Nat) :
    (taken s c w).cl c = { s.cl c with tokens := takeTokens (s.cl c).tokens (wWaitt w) } := State.cl_setCl_same ..

theorem unitInv_taken (s : State) (c w u : Nat) : unitInv (taken s c w) c u = unitInv s c u := by
  simp only [unitInv, taken_cl]; rfl

theorem unitQuery_taken (s : State) (c w u : Nat) : unitQuery (taken s c w) c u = unitQuery s c u := by
  simp only [unitQuery, unitInv_taken]; rfl

theorem unitStamp_taken (s : State) (c w u : Nat) : unitStamp (taken s c w) c u = unitStamp s c u := by
  simp only [unitStamp, unitInv_taken]; rfl

theorem clConst_taken (s : State) (c w k : Nat) : clConst (taken s c w) c k = clConst s c k := by
  simp only [clConst, clPlan, taken_cl]; rfl

theorem listAt_taken (s : State) (c w a : Nat) : listAt ((taken s c w).cl c) a = listAt (s.cl c) a := by
  rw [taken_cl]; rfl

theorem word_taken (s : State) (c w u : Nat) : ((taken s c w).cl c).word u = (s.cl c).word u := by
  rw [taken_cl]; rfl

/-- The word that a ready unit stands at is issued with its tokens taken; here it can go on. -/
theorem issueW_of_unitAt {s t : State} {c u op w : Nat} {rd : Nat → State → List (Nat × Nat)}
    {f : Nat → State → Bool × State} (h : unitAt s c u op w) (hf : f w (taken s c w) = (true, t)) :
    issueW s c u op rd f = t := by
  obtain ⟨hWord, hSt, hHalted, hWait, hUnit, hOp, hTokens, hInj, -⟩ := h
  have hStop : (!((s.cl c).st == .running || (s.cl c).st == .draining) || ((s.cl c).unit u).halted ||
      ((s.cl c).unit u).wait != .none) = false := by
    rcases hSt with h | h <;> simp [h, hHalted, hWait]
  have hFetch : fetchChecks s c u = (false, s) := by simp [fetchChecks, hInj]
  have hScr : scrChecks (taken s c w) c (rd w (taken s c w)) = (false, taken s c w) := by
    simp only [scrChecks, injHit_of_none_armed (s := taken s c w) hInj]
  rw [taken] at hScr hf
  simp only [issueW, issue, hWord, hStop, hFetch, hUnit, hOp, hTokens, hScr, hf, Bool.false_eq_true, ne_eq,
    not_true_eq_false, decide_false, Bool.not_true, Bool.or_self, if_false]

theorem unitQuery_some {s : State} {c u qid : Nat} {q : Query} (h : unitQuery s c u = some (qid, q)) :
    tget? s.work.queries qid = some q := by
  simp only [unitQuery] at h
  split at h
  · cases h
  · split at h
    · cases h
    · obtain ⟨x, hx, he⟩ := Option.map_eq_some_iff.mp h
      obtain ⟨rfl, rfl⟩ := Prod.mk.inj he
      exact hx

/-! The end of a query. -/

theorem dropWalk_frame (s : State) (c k : Nat) : ∃ clusters pmc jobs,
    dropWalk s c k = { s with work.clusters := clusters, pmc := pmc, flash.jobs := jobs } := by
  simp only [dropWalk]
  split
  · exact ⟨_, _, _, rfl⟩
  · next w _ =>
    obtain ⟨clusters, pmc, h⟩ := ((setCl_onlyClusters _ _ _).trans (unusedLines_onlyCounters
      { s.setCl c { s.cl c with walks := terase (s.cl c).walks k } with
        flash.jobs := tfilter s.flash.jobs fun j _ => !(j % 3 == 1 && j / 3 / 2 ^ 32 == c * 64 + k) } c
      w.inflight.length).onlyClusters).trans (resume_onlyClusters _ c (Nat.le_refl 2) (.walk k))
    exact ⟨clusters, pmc, _, h⟩

/-- The host's state, the tiers, the queries and what the node has sent are the same. -/
def sameOutside (s t : State) : Prop :=
  t.host = s.host ∧ t.out = s.out ∧ t.tier = s.tier ∧ t.work.queries = s.work.queries

theorem sameOutside.trans {s t u : State} (h : sameOutside s t) (h' : sameOutside t u) : sameOutside s u :=
  ⟨h'.1.trans h.1, h'.2.1.trans h.2.1, h'.2.2.1.trans h.2.2.1, h'.2.2.2.trans h.2.2.2⟩

theorem dropWalk_sameOutside (s : State) (c k : Nat) : sameOutside s (dropWalk s c k) := by
  obtain ⟨_, _, _, h⟩ := dropWalk_frame s c k
  rw [h]
  exact ⟨rfl, rfl, rfl, rfl⟩

/-- A query that its entry node is not told of ends with its command's status; nothing else is seen from outside. -/
theorem endQuery_frame {s : State} {qid : Nat} {q : Query} {e : Ending} (hq : tget? s.work.queries qid = some q)
    (hTell : q.entry = none ∨ endStatus e < 0x100) (nd : Bool) :
    ∃ t, sameOutside { s with work.queries := terase s.work.queries qid } t ∧
      endQuery s qid e nd = endCmd? t q.cid (endStatus e) (endAux e) (q.epoch.getD 0) nd := by
  have hQuiet (t : State) : tellEntry t q (endStatus e) = t := by
    simp only [tellEntry]
    split
    · rfl
    · next hEntry => exact if_pos (hTell.resolve_left (by simp [hEntry]))
  have hCtx (t : State) : sameOutside t (match q.ctx with
      | some k => { t with epo.ctxUsed := terase t.epo.ctxUsed k }
      | none => t) := by
    cases q.ctx <;> exact ⟨rfl, rfl, rfl, rfl⟩
  have hAt (t : State) : sameOutside t (match q.at_ with
      | some (c, k) => dropWalk t c k
      | none => t) := by
    rcases q.at_ with _ | ⟨c, k⟩
    · exact ⟨rfl, rfl, rfl, rfl⟩
    · exact dropWalk_sameOutside t c k
  have hInv (t : State) : sameOutside t (match q.inv with
      | some i => dropModelUser { t with work.invs := terase t.work.invs i } i
      | none => t) := by
    cases q.inv <;> exact ⟨rfl, rfl, rfl, rfl⟩
  have hMerge (t : State) : sameOutside t { t with
      fab.colls := tfilter t.fab.colls fun _ c => c.qid != some qid
      work.kne := tfilter t.work.kne fun _ m => m.qid != some qid
      work.kneWait := t.work.kneWait.filter fun m => m.qid != some qid } := ⟨rfl, rfl, rfl, rfl⟩
  simp only [endQuery, hq, hQuiet]
  refine ⟨_, ?_, rfl⟩
  exact (((hCtx _).trans (hAt _)).trans (hInv _)).trans (hMerge _)

end Sys2Proof.Machine
end

section
/-!
SMERGE and the Kneaders (R149 to R156).
-/
namespace Sys2Proof.Machine

/-! A merge finds a Kneader, or waits. -/

theorem takeKneader_of_free {s : State} {k : Nat} (hWait : s.work.kneWait = []) (hFree : tfreeBelow s.work.kne 16 = some k)
    (m : Merge) : takeKneader s m = { s with work.kne := tput s.work.kne k m } := by
  simp only [takeKneader, hWait, hFree, List.isEmpty_nil, if_true]

theorem takeKneader_of_none_free {s : State} (h : s.work.kneWait ≠ [] ∨ tfreeBelow s.work.kne 16 = none) (m : Merge) :
    takeKneader s m = count { s with work.kneWait := s.work.kneWait ++ [m] } m.part Ev.kneWait := by
  have hNone : (if s.work.kneWait.isEmpty then tfreeBelow s.work.kne 16 else none) = none := by
    rcases h with h | h
    · exact if_neg (by simpa using h)
    · rw [h, ite_self]
  simp only [takeKneader, hNone]

/-! SMERGE of the cluster's own lists. -/

/-- The merge that word `w` of plan work asks for: the lists that the list set names, under the invocation's stamp. -/
def askedMerge (s : State) (c w : Nat) : Merge :=
  { part := (s.cl c).part, k := selK s c w, lower := sLower w
    lists := (List.range (sNin w)).map fun i =>
      (listAt (s.cl c) (gran (getLE (slice (clConst s c (wA w + i / 8)) 0 16) (2 * (i % 8)) 2)), false)
    stamp := unitStamp s c 3, cluster := some (c, gran (wC w)) }

/-- The state in which the select unit of cluster `c` has issued word `w` and waits for its Kneader. -/
def awaitingKneader (s : State) (c w : Nat) : State := setWait (taken s c w) c 3 .kneader

theorem localMerge_taken {s : State} {c w : Nat} (hQuery : unitQuery s c 3 = none) :
    localMerge (taken s c w) c w = takeKneader (awaitingKneader s c w) (askedMerge s c w) := by
  simp only [localMerge, unitQuery_taken, hQuery, unitStamp_taken, clConst_taken, selK, List.map_map,
    askedMerge, awaitingKneader, taken_cl]
  rfl

theorem execSmerge_of_own_lists {s : State} {c : Fin 128} {w : Nat} (h : unitAt s c.val 3 0x04 w)
    (hRemote : sRemote w = false) (hQuery : unitQuery s c.val 3 = none) :
    exec (.smerge c) s = .next (takeKneader (awaitingKneader s c.val w) (askedMerge s c.val w)) := by
  show execSmerge c s = _
  rw [execSmerge, issueW_of_unitAt (t := takeKneader (awaitingKneader s c.val w) (askedMerge s c.val w)) h]
  rw [← localMerge_taken hQuery]
  simp only [hRemote]

/-- The unit waits at its word. -/
theorem awaitingKneader_unit (s : State) (c w : Nat) :
    ((awaitingKneader s c w).cl c).unit 3 = { (s.cl c).unit 3 with wait := .kneader } := by
  rw [awaitingKneader, setWait, State.cl_setCl_same, taken_cl]
  simp only [Cluster.setUnit, Cluster.unit, tgetD_tput_same]

/-! A Kneader has finished. -/

theorem execKneaderFree_of_waiting {s : State} {k : Fin 16} {m : Merge} (hFree : tget? s.work.kne k.val = none)
    (hNext : nextMerge s.work.kneWait = some m) :
    exec (.kneaderFree k) s = .next { s with work := { s.work with
      kne := tput s.work.kne k.val m, kneWait := s.work.kneWait.erase m } } := by
  show execKneaderFree k s = _
  simp only [execKneaderFree, hFree, hNext]

theorem execKneaderFree_of_none {s : State} {k : Fin 16}
    (h : (tget? s.work.kne k.val).isSome = true ∨ s.work.kneWait = []) : exec (.kneaderFree k) s = .next s := by
  show execKneaderFree k s = _
  rcases h with h | h
  · obtain ⟨m, hm⟩ := Option.isSome_iff_exists.mp h
    simp only [execKneaderFree, hm]
  · simp only [execKneaderFree, h, nextMerge, leastBy]
    cases tget? s.work.kne k.val <;> rfl

/-- Nothing but the counters and the error bits of the Kneaders differs. -/
def onlyKneCounts (s t : State) : Prop := ∃ err pmc, t = { s with work.kneErr := err, pmc := pmc }

theorem onlyKneCounts.trans {s t u : State} (h : onlyKneCounts s t) (h' : onlyKneCounts t u) : onlyKneCounts s u := by
  obtain ⟨_, _, rfl⟩ := h
  obtain ⟨_, _, rfl⟩ := h'
  exact ⟨_, _, rfl⟩

theorem count_onlyKneCounts (s : State) (p ev q n : Nat) : onlyKneCounts s (count s p ev q n) := by
  rw [count_eq]; exact ⟨_, _, rfl⟩

/-- What a merge of plan work brings (R150 to R152). -/
def Merge.result (m : Merge) : Merged := kneMerge m.lower m.k (m.lists.map fun l => MList.of l.1 l.2) m.partialIn

/-- The bytes of a merge's result (R157). -/
def Merge.bytes (m : Merge) : List Byte := resultBytes m.lower m.result.head m.result.es

/-- What Kneader `k` counts for a merge, and the error bits of its lists (R150, R163). -/
def countMerge (s : State) (k : Nat) (m : Merge) : State :=
  let s1 := count (count s m.part Ev.kneMerge k) m.part Ev.kneDup k m.result.dups
  let s2 := count { s1 with work.kneErr := tmod s1.work.kneErr m.part 0 (· ||| BitVec.ofNat 64 m.result.err) } m.part
    Ev.kneBadlist k m.result.bad
  let s3 := count s2 m.part Ev.nanScore 0xFF
    (sumOf ((m.lists.map fun l => MList.of l.1 l.2).map fun l => nanCount l.es))
  if bitOf m.result.head.hflags 0 then count s3 m.part Ev.selTiecut else s3

theorem countMerge_onlyKneCounts (s : State) (k : Nat) (m : Merge) : onlyKneCounts s (countMerge s k m) := by
  have hErr (t : State) (err : Tab W64) : onlyKneCounts t { t with work.kneErr := err } := ⟨_, _, rfl⟩
  have hCount := count_onlyKneCounts
  have hLists := ((((hCount s m.part Ev.kneMerge k 1).trans (hCount _ m.part Ev.kneDup k m.result.dups)).trans
    (hErr _ (tmod (count (count s m.part Ev.kneMerge k) m.part Ev.kneDup k m.result.dups).work.kneErr m.part 0
      (· ||| BitVec.ofNat 64 m.result.err)))).trans (hCount _ m.part Ev.kneBadlist k m.result.bad)).trans
    (hCount _ m.part Ev.nanScore 0xFF (sumOf ((m.lists.map fun l => MList.of l.1 l.2).map fun l => nanCount l.es)))
  simp only [countMerge]
  split
  · exact hLists.trans (hCount _ m.part Ev.selTiecut 0xFF 1)
  · exact hLists

/-- The result of a cluster's merge goes to its scratch, its Kneader is free, and the unit that waits goes on. -/
theorem execKneaderMergeDone_of_cluster {s : State} {k : Fin 16} {m : Merge} {c a : Nat}
    (hm : tget? s.work.kne k.val = some m) (hInst : m.inst = none) (hQid : m.qid = none) (hCl : m.cluster = some (c, a))
    (hInj : s.err.inj = []) :
    exec (.kneaderMergeDone k) s = .next (resume
      (scrWrite (countMerge { s with work.kne := terase s.work.kne k.val } k.val m) c a m.bytes) c 3 .kneader) := by
  have hBuffers : kneBuffers { s with work.kne := terase s.work.kne k.val } k.val m =
      (m, { s with work.kne := terase s.work.kne k.val }) := by
    simp only [kneBuffers, injHit_of_none_armed (s := { s with work.kne := terase s.work.kne k.val }) hInj]
  show execKneaderMergeDone k s = _
  simp only [execKneaderMergeDone, hm, hInst, hBuffers, hQid, hCl, Option.isSome_none, Bool.false_eq_true, if_false]
  rfl

theorem Merge.length_bytes (m : Merge) : m.bytes.length = 32 + 16 * m.k := length_resultBytes (kneMerge_length_le ..)

/-- A unit that goes on leaves its cluster's scratch alone. -/
theorem resume_scratch (s : State) (c : Nat) {u : Nat} (hu : 2 ≤ u) (wt : UWait) :
    ((resume s c u wt).cl c).scratch = (s.cl c).scratch := by
  unfold resume
  split
  · cases h : (s.cl c).word u with
    | none => rw [retire_of_no_word h]
    | some w => rw [retire_of_word h hu, State.cl_setCl_same, Cluster.retired_scratch]
  · rfl

/-- After a merge its result lies in the cluster's scratch, and the unit that waited for it goes on. -/
theorem mergeDone_cluster {s t : State} (h : t.work.clusters = s.work.clusters) (c a : Nat) (bytes : List Byte) :
    ((resume (scrWrite t c a bytes) c 3 .kneader).cl c).scratch = scrWriteT (s.cl c).scratch a bytes ∧
      (((s.cl c).unit 3).wait = .kneader → ((s.cl c).word 3).isSome = true →
        (((resume (scrWrite t c a bytes) c 3 .kneader).cl c).unit 3).wait = .none) := by
  have hSame : t.cl c = s.cl c := by simp only [State.cl, h]
  have hCl : (scrWrite t c a bytes).cl c = { s.cl c with scratch := scrWriteT (s.cl c).scratch a bytes } := by
    rw [scrWrite, State.cl_setCl_same, hSame]
  refine ⟨by rw [resume_scratch _ _ (by omega), hCl], fun hWait hWord => ?_⟩
  obtain ⟨w, hw⟩ := Option.isSome_iff_exists.mp hWord
  rw [resume_of_waiting (by rw [hCl]; exact hWait), retire_of_word (by rw [hCl]; exact hw) (by omega), State.cl_setCl_same,
    Cluster.retired_unit]

end Sys2Proof.Machine
end

section
/-!
SEMIT (R16, R158, R312, R377), and the statement about results.
-/
namespace Sys2Proof.Machine

/-- The bytes that word `w` of the select unit delivers. -/
def emitted (s : State) (c w : Nat) : List Byte := listAt (s.cl c) (gran (wA w))

/-- The state in which the select unit of cluster `c` has issued word `w` and stands behind it. -/
def behindEmit (s : State) (c w : Nat) : State := retire (taken s c w) c 3

theorem behindEmit_onlyClusters (s : State) (c w : Nat) : onlyClusters s (behindEmit s c w) :=
  (setCl_onlyClusters ..).trans (retire_onlyClusters _ c (by omega))

/-! A query's result. -/

theorem execSemit_of_query {s : State} {c : Fin 128} {w qid : Nat} {q : Query} (h : unitAt s c.val 3 0x05 w)
    (hQuery : unitQuery s c.val 3 = some (qid, q)) (hEntry : q.entry = none) (hMerge : q.merge = none) :
    exec (.semit c) s = .next (deliverQuery (behindEmit s c.val w) qid q false (emitted s c.val w)) := by
  show execSemit c s = _
  rw [execSemit, issueW_of_unitAt h]
  simp only [unitQuery_taken, hQuery, hEntry, hMerge, listAt_taken]
  rfl

theorem queryStatus_lt (q : Query) (merged : Bool) (valid : Nat) : queryStatus q merged valid < 3 := by
  simp only [queryStatus]
  split_ifs <;> decide

theorem endCmd_of_ringReady_nd {s : State} {cid : Nat} {c : Cmd} (hc : tget? s.host.cmds cid = some c)
    (h : ringReady s c) {st : Nat} (hst : st ≠ stAdmitRefused) (v : Nat) (nd : Bool) :
    endCmd s cid st 0 v nd = completed s cid c (completionNd s c st v nd) := by
  simp only [endCmd, hc, hst, if_false]
  exact postCmd_of_ringReady h cid st 0 v nd false

/-- What is seen of a query's end: its command's completion, and that the query is gone. -/
theorem endQuery_of_ringReady {s : State} {qid cid st : Nat} {q : Query} {cm : Cmd}
    (hq : tget? s.work.queries qid = some q) (hEntry : q.entry = none) (hCid : q.cid = some cid)
    (hCmd : tget? s.host.cmds cid = some cm) (hRing : ringReady s cm) (hSt : st < 0x100) (nd : Bool) :
    (endQuery s qid st nd).out = s.out ++ [completionNd s cm st (q.epoch.getD 0) nd] ∧
      (endQuery s qid st nd).host.cmds = terase s.host.cmds cid ∧
      (endQuery s qid st nd).work.queries = terase s.work.queries qid := by
  obtain ⟨t, ⟨hHost, hOut, -, hQueries⟩, hEnd⟩ := endQuery_frame (e := st) hq (.inl hEntry) nd
  have hCmd' : tget? t.host.cmds cid = some cm := by rw [hHost]; exact hCmd
  have hRing' : ringReady t cm := ringReady_congr (by rw [hHost]) (by rw [hHost]) (by rw [hHost]) hRing
  have hStatus : endStatus st = st := Nat.mod_eq_of_lt (by omega)
  have hOk : st ≠ stAdmitRefused := by simp only [stAdmitRefused]; omega
  have hAux : endAux st = 0 := (if_neg hOk).trans (Nat.div_eq_of_lt (by omega))
  have hNd : completionNd t cm st (q.epoch.getD 0) nd = completionNd s cm st (q.epoch.getD 0) nd := by
    simp only [completionMarked, State.q, State.fn, hHost]
  rw [hEnd, hCid, hStatus, hAux, endCmd?, endCmd_of_ringReady_nd hCmd' hRing' hOk, hNd]
  exact ⟨congrArg (· ++ _) hOut, by rw [← hHost]; rfl, hQueries⟩

/-- The write of a query's result, with its status, to the query's address (R16, R158). -/
def resultOut (s : State) (q : Query) (cm : Cmd) (bytes : List Byte) : Out :=
  .hostWrite cm.fn (getLE q.desc 8 8) (patch bytes 0 (leBytes 2 (queryStatus q false (getLE bytes 6 2))))
    ((s.fn cm.fn).roEn && (s.fn cm.fn).ero)

/-- Whether a query's invocation is not replayable bit for bit (R379). -/
def queryNd (s : State) (q : Query) : Bool := (q.inv.bind (tget? s.work.invs)).elim false (invNd s)

theorem deliverQuery_of_canWrite {s : State} {qid cid : Nat} {q : Query} {cm : Cmd} {bytes : List Byte}
    (hCid : q.cid = some cid) (hCmd : tget? s.host.cmds cid = some cm) (hCan : canWrite s cm.fn cm.gen = true) :
    deliverQuery s qid q false bytes =
      endQuery (s.emit (resultOut s q cm bytes)) qid (queryStatus q false (getLE bytes 6 2)) (queryNd s q) := by
  simp only [deliverQuery, hCid, Option.bind_some, hCmd, resultWrite_of_canWrite hCan, Bool.false_or, queryNd]
  cases q.inv.bind (tget? s.work.invs) <;> rfl

/-- SEMIT of a query's result on its entry node writes the result and then its completion, and the query is gone. -/
theorem deliverQuery_of_ringReady {s : State} {qid cid : Nat} {q : Query} {cm : Cmd} {bytes : List Byte}
    (hq : tget? s.work.queries qid = some q) (hEntry : q.entry = none) (hCid : q.cid = some cid)
    (hCmd : tget? s.host.cmds cid = some cm) (hRing : ringReady s cm) :
    (deliverQuery s qid q false bytes).out = s.out ++ [resultOut s q cm bytes,
        completionNd s cm (queryStatus q false (getLE bytes 6 2)) (q.epoch.getD 0) (queryNd s q)] ∧
      (deliverQuery s qid q false bytes).host.cmds = terase s.host.cmds cid ∧
      (deliverQuery s qid q false bytes).work.queries = terase s.work.queries qid := by
  have hSt : queryStatus q false (getLE bytes 6 2) < 0x100 := by have := queryStatus_lt q false (getLE bytes 6 2); omega
  obtain ⟨hOut, hCmds, hQueries⟩ := endQuery_of_ringReady (s := s.emit (resultOut s q cm bytes)) hq hEntry hCid hCmd
    hRing hSt (queryNd s q)
  rw [deliverQuery_of_canWrite hCid hCmd hRing.1]
  exact ⟨hOut.trans (List.append_assoc ..), hCmds, hQueries⟩

/-! The output of plan work. -/

/-- How many bytes of `bytes` fit behind what the output of an invocation holds. -/
def outRoom (v : Inv) (bytes : List Byte) : Nat := min bytes.length (v.outLen - v.outDone)

/-- The state in which an invocation's output holds `n` bytes more. -/
def outputMoved (s : State) (i : Nat) (v : Inv) (n : Nat) : State :=
  { s with work.invs := tput s.work.invs i { v with outDone := v.outDone + n } }

theorem length_listAt_pos (x : Cluster) (a : Nat) : 0 < (listAt x a).length := by
  simp only [listAt, scrRead, List.length_map, List.length_range]
  omega

theorem execSemit_of_plan_work {s : State} {c : Fin 128} {w i cid : Nat} {v : Inv} {cm : Cmd}
    (h : unitAt s c.val 3 0x05 w) (hQuery : unitQuery s c.val 3 = none) (hInv : unitInv s c.val 3 = some i)
    (hv : tget? s.work.invs i = some v) (hCid : v.cid = some cid) (hCmd : tget? s.host.cmds cid = some cm)
    (hCan : canWrite s v.fn cm.gen = true) (hRoom : v.outDone < v.outLen) :
    exec (.semit c) s = .next (retire (outputMoved ((taken s c.val w).emit
      (.hostWrite v.fn (v.outAddr + v.outDone) ((emitted s c.val w).take (outRoom v (emitted s c.val w)))
        ((s.fn v.fn).roEn && (s.fn v.fn).ero))) i v (outRoom v (emitted s c.val w))) c.val 3) := by
  have hSome : outRoom v (emitted s c.val w) ≠ 0 := by
    have := length_listAt_pos (s.cl c.val) (gran (wA w))
    simp only [outRoom, emitted]
    omega
  have hCmd' : v.cid.bind (tget? (taken s c.val w).host.cmds) = some cm := by rw [hCid]; exact hCmd
  have hv' : tget? (taken s c.val w).work.invs i = some v := hv
  show execSemit c s = _
  rw [execSemit, issueW_of_unitAt h]
  simp only [unitQuery_taken, hQuery, unitInv_taken, hInv, Option.bind_some, hv', Option.map_some, hCmd', listAt_taken]
  rw [if_neg (by exact hSome), resultWrite_of_canWrite (by exact hCan)]
  rfl

/-! A list for the entry node. -/

theorem sendList_onlySent (s : State) (kind dst part inst aux cflags ranks : Nat) (bytes : List Byte) :
    onlySent s (sendList s kind dst part inst aux cflags ranks bytes) :=
  foldl_onlySent (fun _ _ => sendPkt_onlySent ..) _ _

theorem regTry_fabric_unlimited {s : State} {part : Nat} (h : fld (s.adm part).reg 15 0 = 0) (id n : Nat) :
    (regTry s part .fabric id n).1 = true := by
  have hMay : regMay s part .fabric id = true := by simp [regMay, regBudget, h]
  simp only [regTry, hMay, if_true]

/-- The state from which the list of a forwarded query leaves: its bytes charged, the unit behind its word. -/
def chargedEmit (s : State) (c w part : Nat) : State :=
  retire (regTry (taken s c w) part .fabric (unitReqId c 3) (emitted s c w).length).2 c 3

theorem execSemit_of_forwarded {s : State} {c : Fin 128} {w qid pos ctx : Nat} {q : Query} (h : unitAt s c.val 3 0x05 w)
    (hQuery : unitQuery s c.val 3 = some (qid, q)) (hEntry : q.entry = some (pos, ctx))
    (hReg : fld (s.adm q.part).reg 15 0 = 0) :
    exec (.semit c) s =
      .next (sendPartialList (chargedEmit s c.val w q.part) qid q pos ctx (emitted s c.val w)) := by
  have hMay := regTry_fabric_unlimited (s := taken s c.val w) (by exact hReg) (unitReqId c.val 3) (emitted s c.val w).length
  have hTry : regTry (taken s c.val w) q.part .fabric (unitReqId c.val 3) (emitted s c.val w).length =
      (true, (regTry (taken s c.val w) q.part .fabric (unitReqId c.val 3) (emitted s c.val w).length).2) :=
    Prod.ext hMay rfl
  show execSemit c s = _
  rw [execSemit, issueW_of_unitAt h]
  simp only [unitQuery_taken, hQuery, hEntry, listAt_taken]
  rw [emitted] at hTry
  rw [hTry]
  rfl

/-- A forwarded query ends here once its list is sent, and nobody is told twice. -/
theorem sendPartialList_frame {s : State} {qid : Nat} {q : Query} (hq : tget? s.work.queries qid = some q)
    (hCid : q.cid = none) (pos ctx : Nat) (bytes : List Byte) :
    (sendPartialList s qid q pos ctx bytes).work.queries = terase s.work.queries qid ∧
      (sendPartialList s qid q pos ctx bytes).host = s.host ∧
      (sendPartialList s qid q pos ctx bytes).tier = s.tier := by
  let u := sendList s kPlist pos q.part ctx 0xFFFF 0 (2 ^ rankOf (mergeMask q.desc (shardOf s pos)) (ownShard s)) bytes
  have hSent : onlySent s u := sendList_onlySent ..
  obtain ⟨t, ⟨hHost, -, hTier, hQueries⟩, hEnd⟩ := endQuery_frame (s := u) (qid := qid) (e := stOk)
    (by rw [hSent.work]; exact hq) (.inr (by decide)) false
  rw [hCid] at hEnd
  rw [sendPartialList, hEnd]
  exact ⟨hQueries.trans (by rw [hSent.work]), hHost.trans hSent.host, hTier.trans hSent.tier⟩

end Sys2Proof.Machine
end

section
/-!
SMERGE, the Kneaders and SEMIT: the statement about results (R149 to R158, R312).
-/
namespace Sys2Proof.Machine

/-- A unit that completes the word whose tokens it took stands behind it. -/
theorem behind_of_retire {s x : State} {c u w : Nat} (hx : x.cl c = (taken s c w).cl c)
    (hWord : (s.cl c).word u = some w) (hu : 2 ≤ u) : behind s (retire x c u) c u w := by
  have hWord' : (x.cl c).word u = some w := by rw [hx, word_taken]; exact hWord
  rw [behind, retire_of_word hWord' hu, State.cl_setCl_same, hx, taken_cl]
  exact ⟨rfl, rfl⟩

/-- SMERGE with no merge in wait: the lowest free Kneader is taken, or the merge is the first to wait. -/
theorem takeKneader_with_none_waiting {s : State} {m : Merge} (hWait : s.work.kneWait = []) :
    (tfreeBelow s.work.kne 16).elim
        ((takeKneader s m).work.kneWait = [m] ∧ (takeKneader s m).work.kne = s.work.kne)
        (fun k => (takeKneader s m).work.kne = tput s.work.kne k m ∧ (takeKneader s m).work.kneWait = []) ∧
      (takeKneader s m).work.clusters = s.work.clusters ∧ (takeKneader s m).tier = s.tier ∧
      (takeKneader s m).fab = s.fab ∧ (takeKneader s m).out = s.out := by
  cases hFree : tfreeBelow s.work.kne 16 with
  | none =>
    rw [takeKneader_of_none_free (.inr hFree), count_eq]
    exact ⟨⟨by rw [hWait]; rfl, rfl⟩, rfl, rfl, rfl, rfl⟩
  | some k =>
    rw [takeKneader_of_free hWait hFree]
    exact ⟨⟨rfl, hWait⟩, rfl, rfl, rfl, rfl⟩

theorem kneWait_with_some_waiting {s : State} {m : Merge} (hWait : s.work.kneWait ≠ []) :
    (takeKneader s m).work.kneWait = s.work.kneWait ++ [m] ∧ (takeKneader s m).work.kne = s.work.kne ∧
      (takeKneader s m).work.clusters = s.work.clusters := by
  rw [takeKneader_of_none_free (.inl hWait), count_eq]
  exact ⟨rfl, rfl, rfl⟩

/-- The select unit waits at SMERGE whatever becomes of its merge. -/
theorem unit_of_awaiting {s t : State} {c w : Nat} (h : t.work.clusters = (awaitingKneader s c w).work.clusters) :
    ((t.cl c).unit 3).wait = .kneader ∧ ((t.cl c).unit 3).pc = ((s.cl c).unit 3).pc := by
  have hUnit : (t.cl c).unit 3 = { (s.cl c).unit 3 with wait := .kneader } := by
    rw [← awaitingKneader_unit, State.cl, h, State.cl]
  rw [hUnit]
  exact ⟨rfl, rfl⟩

/-- The header of a merge's result carries the K that was asked for. -/
theorem Merge.bytes_eq (m : Merge) : m.bytes = resultBytes m.lower { m.result.head with k := m.k } m.result.es := rfl

/-- What a merge's end counts, stores and resumes leaves the Kneaders alone. -/
theorem kne_of_mergeDone (s : State) (k : Nat) (m : Merge) (c a : Nat) :
    (resume (scrWrite (countMerge s k m) c a m.bytes) c 3 .kneader).work.kne = s.work.kne := by
  obtain ⟨_, _, hResume⟩ := resume_onlyClusters (scrWrite (countMerge s k m) c a m.bytes) c (u := 3) (by omega) .kneader
  obtain ⟨_, _, hCount⟩ := countMerge_onlyKneCounts s k m
  rw [hResume, scrWrite, hCount]
  rfl

theorem clusters_countMerge (s : State) (k : Nat) (m : Merge) : (countMerge s k m).work.clusters = s.work.clusters := by
  obtain ⟨_, _, h⟩ := countMerge_onlyKneCounts s k m
  rw [h]

/-- A query's result goes out whichever word the clusters' units stand at. -/
theorem deliverQuery_behind {s t : State} (hst : onlyClusters s t) {qid cid : Nat} {q : Query} {cm : Cmd} {bytes : List Byte}
    (hq : tget? s.work.queries qid = some q) (hEntry : q.entry = none) (hCid : q.cid = some cid)
    (hCmd : tget? s.host.cmds cid = some cm) (hRing : ringReady s cm) :
    (deliverQuery t qid q false bytes).out = s.out ++ [resultOut s q cm bytes,
        completionNd s cm (queryStatus q false (getLE bytes 6 2)) (q.epoch.getD 0) (queryNd s q)] ∧
      (deliverQuery t qid q false bytes).host.cmds = terase s.host.cmds cid ∧
      (deliverQuery t qid q false bytes).work.queries = terase s.work.queries qid := by
  obtain ⟨_, _, rfl⟩ := hst
  exact deliverQuery_of_ringReady (by exact hq) hEntry hCid (by exact hCmd) hRing

/-- Before a forwarded list leaves, only clusters and the regulators have changed. -/
theorem chargedEmit_frame (s : State) (c w part : Nat) :
    (chargedEmit s c w part).work.queries = s.work.queries ∧ (chargedEmit s c w part).host.cmds = s.host.cmds ∧
      (chargedEmit s c w part).tier = s.tier := by
  obtain ⟨_, _, _, hTry⟩ := regTry_onlyRegulators (taken s c w) part .fabric (unitReqId c 3) (emitted s c w).length
  obtain ⟨_, _, hRetire⟩ := retire_onlyClusters
    (regTry (taken s c w) part .fabric (unitReqId c 3) (emitted s c w).length).2 c (u := 3) (by omega)
  rw [chargedEmit, hRetire, hTry]
  exact ⟨rfl, rfl, rfl⟩

/-- Settles O40: a merge finds the lowest free Kneader or waits, its result is in scratch with one entry per handle, and
SEMIT writes a query's result before its completion. -/
theorem resultsAreMergedAndDelivered : Obligations.ResultsAreMergedAndDelivered := by
  unfold Obligations.ResultsAreMergedAndDelivered
  refine ⟨?merge, ?mergeWaits, fun s k m => execKneaderFree_of_waiting, fun s k => execKneaderFree_of_none, ?merged,
    ?result, ?output, ?forwarded⟩
  case merge =>
    intro s c w h hRemote hQuery hWait
    obtain ⟨hKne, hClusters, hTier, hFab, hOut⟩ := takeKneader_with_none_waiting (s := awaitingKneader s c.val w)
      (m := askedMerge s c.val w) hWait
    obtain ⟨hUnitWait, hPc⟩ := unit_of_awaiting hClusters
    exact ⟨_, execSmerge_of_own_lists h hRemote hQuery, hKne, hUnitWait, hPc, hTier, hFab, hOut⟩
  case mergeWaits =>
    intro s c w h hRemote hQuery hWait
    obtain ⟨hKneWait, hKne, hClusters⟩ := kneWait_with_some_waiting (s := awaitingKneader s c.val w)
      (m := askedMerge s c.val w) hWait
    exact ⟨_, execSmerge_of_own_lists h hRemote hQuery, hKneWait, hKne, (unit_of_awaiting hClusters).1⟩
  case merged =>
    intro s k m c a hm hInst hQid hCl hInj hWf hK
    obtain ⟨hScratch, hWait⟩ := mergeDone_cluster (s := s)
      (t := countMerge { s with work.kne := terase s.work.kne k.val } k.val m) (clusters_countMerge ..) c a m.bytes
    have hLen : m.bytes.length = 32 + 16 * m.k := m.length_bytes
    have hRead := scrRead_of_written hWf hScratch (by omega) (off := 0) (n := 32 + 16 * m.k) (by omega)
    rw [List.drop_zero, ← hLen, List.take_length, hLen] at hRead
    refine ⟨_, execKneaderMergeDone_of_cluster hm hInst hQid hCl hInj, ?_, ?_, ?_, hWait⟩
    · exact ⟨hRead.trans m.bytes_eq, kneMerge_handles_nodup .., kneMerge_best_first .., kneMerge_length_le ..⟩
    · exact fun x hx hOut => scr_of_not_written hWf hScratch hx (by rw [hLen]; exact hOut)
    · exact kne_of_mergeDone ..
  case result =>
    intro s c w qid cid q cm h hQuery hEntry hMerge hCid hCmd hRing
    exact ⟨_, execSemit_of_query h hQuery hEntry hMerge,
      deliverQuery_behind (behindEmit_onlyClusters ..) (unitQuery_some hQuery) hEntry hCid hCmd hRing⟩
  case output =>
    intro s c w i v cid cm h hQuery hInv hv hCid hCmd hCan hRoom
    have hWord : (s.cl c.val).word 3 = some w := h.1
    refine ⟨_, execSemit_of_plan_work h hQuery hInv hv hCid hCmd hCan hRoom, ?_⟩
    obtain ⟨_, _, hRetire⟩ := retire_onlyClusters (outputMoved ((taken s c.val w).emit
      (.hostWrite v.fn (v.outAddr + v.outDone) ((emitted s c.val w).take (outRoom v (emitted s c.val w)))
        ((s.fn v.fn).roEn && (s.fn v.fn).ero))) i v (outRoom v (emitted s c.val w))) c.val (u := 3) (by omega)
    refine ⟨?_, behind_of_retire rfl hWord (by omega), ?_⟩
    · rw [hRetire]; exact ⟨rfl, tget?_tput_same ..⟩
    · rw [hRetire]; exact ⟨rfl, rfl, rfl⟩
  case forwarded =>
    intro s c w qid pos ctx q h hQuery hEntry hCid hReg _
    obtain ⟨hQueries, hCmds, hTier⟩ := chargedEmit_frame s c.val w q.part
    obtain ⟨hQueries', hHost, hTier'⟩ := sendPartialList_frame (s := chargedEmit s c.val w q.part) (qid := qid) (q := q)
      (by rw [hQueries]; exact unitQuery_some hQuery) hCid pos ctx (emitted s c.val w)
    exact ⟨_, execSemit_of_forwarded h hQuery hEntry hReg, hQueries'.trans (by rw [hQueries]), by rw [hHost, hCmds],
      hTier'.trans hTier⟩

end Sys2Proof.Machine
end

section
/-!
Control words: a unit that jumps, loops, waits and goes on (R80, R82, R83).
-/
namespace Sys2Proof.Machine

/-- The word that a ready unit stands at is issued with its tokens taken; nothing happens while it cannot go on. -/
theorem issue_of_unitAt {s : State} {c u op w : Nat} {f : Nat → State → Option State} (h : unitAt s c u op w) :
    issue s c u op f = (f w (taken s c w)).getD s := by
  obtain ⟨hWord, hSt, hHalted, hWait, hUnit, hOp, hTokens, hInj, -⟩ := h
  have hStop : (!((s.cl c).st == .running || (s.cl c).st == .draining) || ((s.cl c).unit u).halted ||
      ((s.cl c).unit u).wait != .none) = false := by
    rcases hSt with h | h <;> simp [h, hHalted, hWait]
  have hFetch : fetchChecks s c u = (false, s) := by simp [fetchChecks, hInj]
  simp only [issue, hWord, hStop, hFetch, hUnit, hOp, hTokens, Bool.false_eq_true, ne_eq, not_true_eq_false,
    decide_false, Bool.not_true, Bool.or_self, if_false]
  show (match f w (taken s c w) with | some t => t | none => s) = _
  cases f w (taken s c w) <;> rfl

/-- A word that names no tokens takes none. -/
theorem taken_of_no_tokens {s : State} {c w : Nat} (h : wWaitt w = 0) : taken s c w = s.setCl c (s.cl c) := by
  rw [taken, h]; rfl

/-- The word that unit `u` stands at ends no conversion and signals nothing (R65, R80). -/
def quietWord (x : Cluster) (u : Nat) : Prop :=
  ∃ w, x.word u = some w ∧ wSigen w = false ∧ (wLast w = false ∨ 2 ≤ u)

theorem retireTo_of_quietWord {s : State} {c u : Nat} (h : quietWord (s.cl c) u) (pc : Nat) :
    retireTo s c u pc = unitTo s c u pc := by
  obtain ⟨w, hWord, hSig, hLast⟩ := h
  have hConv : (wLast w && decide (u < 2)) = false := by
    rcases hLast with h | h
    · rw [h, Bool.false_and]
    · rw [decide_eq_false (Nat.not_lt.mpr h), Bool.and_false]
  simp only [retireTo, hWord, hConv, hSig, Bool.false_eq_true, if_false, unitTo]

theorem retire_of_quietWord {s : State} {c u : Nat} (h : quietWord (s.cl c) u) :
    retire s c u = unitTo s c u (nextPc ((s.cl c).list u).length ((s.cl c).unit u).pc) := retireTo_of_quietWord h _

theorem unitTo_setCl (s : State) (c u pc : Nat) (x : Cluster) :
    unitTo (s.setCl c x) c u pc = s.setCl c (x.setUnit u { x.unit u with pc := pc, wait := .none }) := by
  simp [unitTo]

theorem setWait_setCl_self (s : State) (c u : Nat) (wt : UWait) :
    setWait (s.setCl c (s.cl c)) c u wt = setWait s c u wt := by simp [setWait]

theorem unitTo_setCl_self (s : State) (c u pc : Nat) : unitTo (s.setCl c (s.cl c)) c u pc = unitTo s c u pc := by
  rw [unitTo_setCl]; rfl

/-- Unit `u` closes or opens loops and goes to word `pc`. -/
def loopTo (s : State) (c u pc : Nat) (loops : List (Nat × Nat)) : State :=
  s.setCl c ((s.cl c).setUnit u { (s.cl c).unit u with pc := pc, loops := loops, wait := .none })

theorem loopTo_own_loops (s : State) (c u pc : Nat) :
    loopTo s c u pc ((s.cl c).unit u).loops = unitTo s c u pc := rfl

theorem setUnit_setUnit (x : Cluster) (u : Nat) (y z : UnitSt) : (x.setUnit u y).setUnit u z = x.setUnit u z := by
  simp [Cluster.setUnit]

theorem unit_setUnit_same (x : Cluster) (u : Nat) (y : UnitSt) : (x.setUnit u y).unit u = y := by
  simp [Cluster.setUnit, Cluster.unit]

/-- LOOP's way on: the loops of the unit are replaced, and its word is left (R82). -/
theorem retireTo_of_loops {s : State} {c u : Nat} (h : quietWord (s.cl c) u) (pc : Nat) (ls : List (Nat × Nat)) :
    retireTo ((s.setCl c (s.cl c)).setCl c ((s.cl c).setUnit u { (s.cl c).unit u with loops := ls })) c u pc =
      loopTo s c u pc ls := by
  rw [State.setCl_setCl, retireTo_of_quietWord, unitTo_setCl, unit_setUnit_same, setUnit_setUnit, loopTo]
  obtain ⟨w, hWord, hRest⟩ := h
  refine ⟨w, ?_, hRest⟩
  rw [State.cl_setCl_same, ← hWord]
  simp only [Cluster.word, unit_setUnit_same]
  rfl


theorem jumpTo_of_inside {len : Nat} {target : Int} (h : 0 ≤ target ∧ target < len) : jumpTo len target = target.toNat :=
  if_pos h

theorem jumpTo_of_outside {len : Nat} {target : Int} (h : target < 0 ∨ (len : Int) ≤ target) : jumpTo len target = 0 :=
  if_neg (by omega)

/-! The control words, each ready and without tokens. -/

section
variable {s : State} {c : Fin 128} {u : Fin 4} {w : Nat} (hTok : wWaitt w = 0) (hQuiet : quietWord (s.cl c.val) u.val)
include hTok hQuiet

theorem execJmp_to (h : unitAt s c.val u.val 0xF1 w) :
    exec (.jmp c u) s = .next (unitTo s c.val u.val
      (jumpTo ((s.cl c.val).list u.val).length (((s.cl c.val).unit u.val).pc + offsetOf w))) := by
  show execJmp c u s = _
  rw [execJmp, issue_of_unitAt h, taken_of_no_tokens hTok, Option.getD_some, State.cl_setCl_same, retireTo_of_quietWord,
    unitTo_setCl_self]
  rwa [State.cl_setCl_same]

/-- A LOOP word whose loop is not the innermost one (R82). -/
theorem execLoop_of_new (h : unitAt s c.val u.val 0xF2 w)
    (hNew : ∀ p ∈ ((s.cl c.val).unit u.val).loops.head?, p.1 ≠ ((s.cl c.val).unit u.val).pc) :
    exec (.loop c u) s = .next (
      if wD w = 0 ∨ 4 ≤ ((s.cl c.val).unit u.val).loops.length then
        unitTo s c.val u.val (nextPc ((s.cl c.val).list u.val).length ((s.cl c.val).unit u.val).pc)
      else loopTo s c.val u.val (jumpTo ((s.cl c.val).list u.val).length (wA w))
        ((((s.cl c.val).unit u.val).pc, wD w - 1) :: ((s.cl c.val).unit u.val).loops)) := by
  show execLoop c u s = _
  simp only [execLoop, issue_of_unitAt h, taken_of_no_tokens hTok, State.cl_setCl_same, retireTo_of_loops hQuiet]
  cases hLoops : ((s.cl c.val).unit u.val).loops with
  | nil =>
    have hOwn := loopTo_own_loops s c.val u.val
    rw [hLoops] at hOwn
    by_cases hD : wD w = 0 <;> simp [hD, hOwn]
  | cons p rest =>
    have hOwn := loopTo_own_loops s c.val u.val
    have hNe : p.1 ≠ ((s.cl c.val).unit u.val).pc := hNew p (by simp [hLoops])
    rw [hLoops] at hOwn
    by_cases hOff : wD w = 0 ∨ 4 ≤ (p :: rest).length
    · have hOff' : (decide (wD w = 0) || decide (4 ≤ (p :: rest).length)) = true := by simpa using hOff
      simp only [hNe, if_false, hOff', hOff, if_true, hOwn, Option.getD_some]
    · have hOff' : (decide (wD w = 0) || decide (4 ≤ (p :: rest).length)) = false := by simpa using hOff
      simp only [hNe, if_false, hOff', hOff, Bool.false_eq_true, Option.getD_some]

/-- The word of the innermost loop (R82). -/
theorem execLoop_of_innermost (h : unitAt s c.val u.val 0xF2 w) {n : Nat} {rest : List (Nat × Nat)}
    (hLoops : ((s.cl c.val).unit u.val).loops = (((s.cl c.val).unit u.val).pc, n) :: rest) :
    exec (.loop c u) s = .next (
      if n = 0 then loopTo s c.val u.val (nextPc ((s.cl c.val).list u.val).length ((s.cl c.val).unit u.val).pc) rest
      else loopTo s c.val u.val (jumpTo ((s.cl c.val).list u.val).length (wA w))
        ((((s.cl c.val).unit u.val).pc, n - 1) :: rest)) := by
  show execLoop c u s = _
  simp only [execLoop, issue_of_unitAt h, taken_of_no_tokens hTok, State.cl_setCl_same, retireTo_of_loops hQuiet, hLoops,
    if_true]
  by_cases hn : n = 0 <;> simp [hn]

theorem execFencem_of_none_pending (h : unitAt s c.val u.val 0xF3 w) (hNone : ((s.cl c.val).unit u.val).pending = 0) :
    exec (.fencem c u) s = .next (unitTo s c.val u.val
      (nextPc ((s.cl c.val).list u.val).length ((s.cl c.val).unit u.val).pc)) := by
  show execFencem c u s = _
  rw [execFencem, issueNow, issue_of_unitAt h, taken_of_no_tokens hTok, State.cl_setCl_same, if_pos hNone, Option.map_some,
    Option.getD_some, retire_of_quietWord (by rwa [State.cl_setCl_same]), State.cl_setCl_same, unitTo_setCl_self]

omit hQuiet in
theorem execCbar_waits (h : unitAt s c.val u.val 0xF4 w) :
    exec (.cbar c u) s = .next (setWait s c.val u.val (.cbar (wA w))) := by
  show execCbar c u s = _
  rw [execCbar, issue_of_unitAt h, taken_of_no_tokens hTok, Option.getD_some, setWait_setCl_self]

/-- TWAIT goes on at once when the counter has reached the word's value, and waits otherwise (R82). -/
theorem execTwait_of_unitAt (h : unitAt s c.val u.val 0xF5 w) :
    exec (.twait c u) s = .next (
      if invWord s c.val u.val (wA w) ≤ s.now then
        unitTo s c.val u.val (nextPc ((s.cl c.val).list u.val).length ((s.cl c.val).unit u.val).pc)
      else setWait s c.val u.val (.twait (invWord s c.val u.val (wA w)))) := by
  have hWord : invWord (s.setCl c.val (s.cl c.val)) c.val u.val (wA w) = invWord s c.val u.val (wA w) := by
    rw [invWord, State.cl_setCl_same]; rfl
  have hOn : retire (s.setCl c.val (s.cl c.val)) c.val u.val =
      unitTo s c.val u.val (nextPc ((s.cl c.val).list u.val).length ((s.cl c.val).unit u.val).pc) := by
    rw [retire_of_quietWord (by rwa [State.cl_setCl_same]), State.cl_setCl_same, unitTo_setCl_self]
  show execTwait c u s = _
  simp only [execTwait, issue_of_unitAt h, taken_of_no_tokens hTok, hWord, hOn, setWait_setCl_self, State.setCl_now]
  split <;> rfl

end

theorem execFencem_of_pending {s : State} {c : Fin 128} {u : Fin 4} {w : Nat} (h : unitAt s c.val u.val 0xF3 w)
    (hPending : ((s.cl c.val).unit u.val).pending ≠ 0) : exec (.fencem c u) s = .next s := by
  show execFencem c u s = _
  rw [execFencem, issueNow, issue_of_unitAt h, taken_cl]
  exact congrArg _ (congrArg (Option.getD · s) (congrArg (Option.map _) (if_neg hPending)))

theorem execTwaitExpire_of_waiting {s : State} {c : Fin 128} {u : Fin 4} {a : Nat}
    (h : ((s.cl c.val).unit u.val).wait = .twait a) :
    exec (.twaitExpire c u) s = .next (if a ≤ s.now then retire s c.val u.val else s) := by
  show execTwaitExpire c u s = _
  simp only [execTwaitExpire, h, resume_of_waiting h]

/-! The release of a barrier: the units that stand at it go on, one after the other. -/

/-- Nothing but the units of clusters differs. -/
def onlyUnits (s t : State) : Prop :=
  t = { s with work := { s.work with clusters := t.work.clusters } } ∧
  ∀ k, t.cl k = { s.cl k with units := (t.cl k).units }

theorem onlyUnits.refl (s : State) : onlyUnits s s := ⟨rfl, fun _ => rfl⟩

theorem onlyUnits.trans {s t r : State} (h : onlyUnits s t) (h' : onlyUnits t r) : onlyUnits s r := by
  obtain ⟨hs, hCl⟩ := h
  obtain ⟨hs', hCl'⟩ := h'
  refine ⟨?_, fun k => ?_⟩
  · rw [hs', hs]
  · rw [hCl' k, hCl k]

theorem unitTo_onlyUnits (s : State) (c u pc : Nat) : onlyUnits s (unitTo s c u pc) := by
  refine ⟨rfl, fun k => ?_⟩
  by_cases hk : k = c
  · subst hk; rw [unitTo, State.cl_setCl_same]; rfl
  · rw [unitTo, State.cl_setCl_ne _ _ _ _ hk]

/-- A unit that goes on if it waits for `wt`. -/
def wentOn (x : Cluster) (u : Nat) (wt : UWait) : UnitSt :=
  if (x.unit u).wait = wt then { x.unit u with pc := nextPc (x.list u).length (x.unit u).pc, wait := .none } else x.unit u

theorem wentOn_not_waiting {wt : UWait} (hwt : wt ≠ .none) (x : Cluster) (u : Nat) : (wentOn x u wt).wait ≠ wt := by
  unfold wentOn
  split
  · exact hwt.symm
  · assumption

theorem resume_units {s : State} {c u : Nat} {wt : UWait} (h : quietWord (s.cl c) u ∨ ((s.cl c).unit u).wait ≠ wt) :
    onlyUnits s (resume s c u wt) ∧
    ∀ k v, ((resume s c u wt).cl k).unit v = if (k, v) = (c, u) then wentOn (s.cl c) u wt else (s.cl k).unit v := by
  by_cases hWait : ((s.cl c).unit u).wait = wt
  · have hQuiet := h.resolve_right (not_not_intro hWait)
    rw [resume_of_waiting hWait, retire_of_quietWord hQuiet]
    refine ⟨unitTo_onlyUnits .., fun k v => ?_⟩
    by_cases hk : k = c
    · subst hk
      rw [unitTo, State.cl_setCl_same]
      by_cases hv : v = u
      · subst hv; rw [unit_setUnit_same, if_pos rfl, wentOn, if_pos hWait]
      · rw [if_neg (by simp [hv])]; exact tgetD_tput_ne _ _ _ _ _ hv
    · rw [unitTo, State.cl_setCl_ne _ _ _ _ hk, if_neg (by simp [hk])]
  · have hSame : resume s c u wt = s := by simp [resume, hWait]
    rw [hSame]
    refine ⟨.refl s, fun k v => ?_⟩
    split
    · next he => obtain ⟨rfl, rfl⟩ := Prod.mk.inj he; rw [wentOn, if_neg hWait]
    · rfl

/-- After a unit has been let go, a unit that still waits stands at the word it stood at. -/
theorem wentOn_of_other {s t : State} {k v : Nat} (h : onlyUnits s t) (hu : (t.cl k).unit v = (s.cl k).unit v) :
    (t.cl k).word v = (s.cl k).word v ∧ ∀ wt, wentOn (t.cl k) v wt = wentOn (s.cl k) v wt := by
  have hList : (t.cl k).list v = (s.cl k).list v := by rw [h.2 k]; rfl
  exact ⟨by simp only [Cluster.word, hList, hu], fun wt => by simp only [wentOn, hList, hu]⟩

theorem resumeAll_units {wt : UWait} (hwt : wt ≠ .none) (ps : List (Nat × Nat)) {s : State}
    (h : ∀ p ∈ ps, quietWord (s.cl p.1) p.2 ∨ ((s.cl p.1).unit p.2).wait ≠ wt) :
    onlyUnits s (ps.foldl (fun t p => resume t p.1 p.2 wt) s) ∧
    ∀ k v, ((ps.foldl (fun t p => resume t p.1 p.2 wt) s).cl k).unit v =
      if (k, v) ∈ ps then wentOn (s.cl k) v wt else (s.cl k).unit v := by
  induction ps generalizing s with
  | nil => exact ⟨.refl s, fun k v => by simp⟩
  | cons p ps ih =>
    obtain ⟨c, u⟩ := p
    obtain ⟨hOnly, hUnit⟩ := resume_units (h (c, u) (by simp))
    have hStood : ∀ k v, (k, v) ≠ (c, u) → ((resume s c u wt).cl k).unit v = (s.cl k).unit v := fun k v hne => by
      rw [hUnit k v, if_neg hne]
    have hGone : (((resume s c u wt).cl c).unit u) = wentOn (s.cl c) u wt := by rw [hUnit c u, if_pos rfl]
    obtain ⟨hOnly', hUnit'⟩ := ih (s := resume s c u wt) fun p hp => by
      by_cases hpc : p = (c, u)
      · subst hpc; right; rw [hGone]; exact wentOn_not_waiting hwt _ _
      · obtain ⟨hWord, -⟩ := wentOn_of_other hOnly (hStood p.1 p.2 hpc)
        rw [quietWord, hWord, hStood p.1 p.2 hpc]
        exact h p (List.mem_cons_of_mem _ hp)
    refine ⟨hOnly.trans hOnly', fun k v => ?_⟩
    rw [List.foldl_cons, hUnit' k v]
    by_cases hkv : (k, v) = (c, u)
    · obtain ⟨rfl, rfl⟩ := Prod.mk.inj hkv
      rw [if_pos (List.mem_cons_self ..), hGone, wentOn, hGone, if_neg (wentOn_not_waiting hwt _ _), ite_self]
    · obtain ⟨-, hWent⟩ := wentOn_of_other hOnly (hStood k v hkv)
      rw [hWent, hStood k v hkv]
      simp only [List.mem_cons, hkv, false_or]

/-- The units of a role's clusters, each with its number. -/
def roleUnits (cs : List Nat) : List (Nat × Nat) := cs.flatMap fun c => (List.range 4).map fun u => (c, u)

theorem mem_roleUnits {cs : List Nat} {k v : Nat} : (k, v) ∈ roleUnits cs ↔ k ∈ cs ∧ v < 4 := by
  simp [roleUnits]

theorem execCbarRelease_of_all {s : State} {slot : Fin 256} {role : Fin 128} {b : Fin 8}
    (hNe : roleClusters s slot.val role.val ≠ [])
    (hAll : ∀ k ∈ roleClusters s slot.val role.val, ∃ u < 4, ((s.cl k).unit u).wait = .cbar b.val) :
    exec (.cbarRelease slot role b) s = .next ((roleUnits (roleClusters s slot.val role.val)).foldl
      (fun t p => resume t p.1 p.2 (.cbar b.val)) s) := by
  show execCbarRelease slot role b s = _
  have hCond : ((roleClusters s slot.val role.val).isEmpty || !(roleClusters s slot.val role.val).all fun c =>
      (List.range 4).any fun u => ((s.cl c).unit u).wait == .cbar b.val) = false := by
    simpa [hNe] using hAll
  simp only [execCbarRelease, hCond, Bool.false_eq_true, if_false, roleUnits, List.foldl_flatMap, List.foldl_map]

theorem execCbarRelease_of_missing {s : State} {slot : Fin 256} {role : Fin 128} {b : Fin 8}
    (h : ∃ k ∈ roleClusters s slot.val role.val, ∀ u < 4, ((s.cl k).unit u).wait ≠ .cbar b.val) :
    exec (.cbarRelease slot role b) s = .next s := by
  show execCbarRelease slot role b s = _
  have hCond : ((roleClusters s slot.val role.val).isEmpty || !(roleClusters s slot.val role.val).all fun c =>
      (List.range 4).any fun u => ((s.cl c).unit u).wait == .cbar b.val) = true := by
    rw [Bool.or_eq_true]; right; simpa using h
  simp only [execCbarRelease, hCond, if_true]

/-- Settles O27: each control word through its equation, and the release of a barrier through the units it lets go. -/
theorem controlOperationsMoveUnits : Obligations.ControlOperationsMoveUnits := by
  unfold Obligations.ControlOperationsMoveUnits
  have hQuiet {s : State} {c u op w : Nat} (h : unitAt s c u op w) (hSig : wSigen w = false)
      (hLast : wLast w = false ∨ 2 ≤ u) : quietWord (s.cl c) u := ⟨w, h.1, hSig, hLast⟩
  refine ⟨?jump, ?jumpOutside, ?loopOpens, ?loopFalls, ?loopRepeats, ?fence, ?fenceWaits, ?barrier, ?release,
    fun s slot role b h => execCbarRelease_of_missing h, ?timeWaits, ?timeReached, ?timeExpires, ?timeEarly⟩
  case jump =>
    intro s c u w h hTok hSig hLast hLo hHi
    rw [execJmp_to hTok (hQuiet h hSig hLast) h, jumpTo_of_inside ⟨hLo, hHi⟩]
  case jumpOutside =>
    intro s c u w h hTok hSig hLast hOut
    rw [execJmp_to hTok (hQuiet h hSig hLast) h, jumpTo_of_outside hOut]
  case loopOpens =>
    intro s c u w h hTok hSig hLast hFew hNew hD hIn _
    rw [execLoop_of_new hTok (hQuiet h hSig hLast) h hNew, if_neg (by omega), jumpTo_of_inside (by omega)]
    rfl
  case loopFalls =>
    intro s c u w h hTok hSig hLast hNew hOff
    rw [execLoop_of_new hTok (hQuiet h hSig hLast) h hNew, if_pos hOff]
  case loopRepeats =>
    intro s c u w n rest h hTok hSig hLast hLoops
    rw [execLoop_of_innermost hTok (hQuiet h hSig hLast) h hLoops]
    split <;> rfl
  case fence =>
    intro s c u w h hTok hSig hLast hNone
    exact execFencem_of_none_pending hTok (hQuiet h hSig hLast) h hNone
  case fenceWaits => exact fun s c u w h hPending => execFencem_of_pending h hPending
  case barrier =>
    intro s c u w h hTok _ _
    exact execCbar_waits hTok h
  case release =>
    intro s slot role b hNe hAll hWords
    obtain ⟨⟨hState, hCl⟩, hUnit⟩ := resumeAll_units (wt := .cbar b.val) (by simp)
      (roleUnits (roleClusters s slot.val role.val)) (s := s) fun p hp => by
        obtain ⟨hk, hv⟩ := mem_roleUnits.mp hp
        refine (hWords p.1 hk p.2 hv).imp_left fun hWord => ?_
        obtain ⟨w, hWord, hMarks⟩ := Option.map_eq_some_iff.mp hWord
        obtain ⟨hLast, hSig⟩ := Prod.mk.inj hMarks
        exact ⟨w, hWord, hSig, .inl hLast⟩
    refine ⟨_, execCbarRelease_of_all hNe hAll, fun k _ u hu => ?_, hState, hCl⟩
    rw [hUnit k u]
    simp only [mem_roleUnits, hu, and_true, wentOn, ite_and]
  case timeWaits =>
    intro s c u w h hTok hSig hLast hEarly
    rw [execTwait_of_unitAt hTok (hQuiet h hSig hLast) h, if_neg (by omega)]
    rfl
  case timeReached =>
    intro s c u w h hTok hSig hLast hDue
    rw [execTwait_of_unitAt hTok (hQuiet h hSig hLast) h, if_pos hDue]
  case timeExpires =>
    intro s c u w a hWord hSig hLast hWait hDue
    rw [execTwaitExpire_of_waiting hWait, if_pos hDue, retire_of_quietWord ⟨w, hWord, hSig, hLast⟩]
  case timeEarly =>
    intro s c u a hWait hEarly
    rw [execTwaitExpire_of_waiting hWait, if_neg (by omega)]

end Sys2Proof.Machine
end

section
/-!
Words of the walker unit that complete at once: seeds, prefetches and arrival counters (R82, R114, R119, R121).
-/
namespace Sys2Proof.Machine

/-- A word that completes at once, what it reads of scratch free of armed errors. -/
theorem issueR_of_unitAt {s : State} {c u op w : Nat} {rd : Nat → State → List (Nat × Nat)} {f : Nat → State → State}
    (h : unitAt s c u op w) : issueR s c u op rd f = retire (f w (taken s c w)) c u :=
  issueW_of_unitAt h rfl

/-- A unit that completes the word whose tokens it took stands behind it, whatever else its cluster has become. -/
theorem behind_of_retire_same_unit {s x : State} {c u w : Nat} (hUnits : (x.cl c).units = (s.cl c).units)
    (hLists : (x.cl c).istore = (s.cl c).istore) (hTokens : (x.cl c).tokens = takeTokens (s.cl c).tokens (wWaitt w))
    (hWord : (s.cl c).word u = some w) (hu : 2 ≤ u) : behind s (retire x c u) c u w := by
  have hWord' : (x.cl c).word u = some w := by
    simpa only [Cluster.word, Cluster.list, Cluster.unit, hUnits, hLists] using hWord
  rw [behind, retire_of_word hWord' hu, State.cl_setCl_same]
  simp only [Cluster.retired, Cluster.list, Cluster.unit, hUnits, hLists, hTokens, true_and]

/-- A word of the walker completes in the cluster that it has changed to `x`, its tokens taken. -/
theorem retire_setCl {s : State} {c w : Nat} {x : Cluster} (hWord : x.word 2 = some w) (pmc : PmcSt) :
    retire { (taken s c w).setCl c x with pmc := pmc } c 2 = { s.setCl c (x.retired 2 w) with pmc := pmc } := by
  have hCl : State.cl { (taken s c w).setCl c x with pmc := pmc } c = x := State.cl_setCl_same ..
  rw [retire_of_word (by rw [hCl]; exact hWord) (Nat.le_refl 2), hCl, taken, State.setCl_setCl]
  exact congrArg (fun u : State => { u with pmc := pmc }) (State.setCl_setCl s c x (x.retired 2 w))

/-- The seeds that a WSEED keeps. -/
def seeded (s : State) (c w : Nat) : Cluster :=
  let x := (taken s c w).cl c
  { x with seeds := tput x.seeds (gran (wA w)) (((s.cl c).unit 2).inv, seedList (s.cl c) (gran (wB w)) (wD w)) }

theorem execWseed_of_unitAt {s : State} {c : Fin 128} {w : Nat} (h : unitAt s c.val 2 0x01 w) :
    exec (.wseed c) s = .next (retire ((taken s c.val w).setCl c.val (seeded s c.val w)) c.val 2) := by
  show execWseed c s = _
  rw [execWseed, issueR_of_unitAt h, unitInv_taken, seeded, taken_cl]
  rfl

/-- The prefetches that a WPREF adds: the records of its handles that are neither in the buffer nor on their way (R119). -/
def newPrefs (x : Cluster) (qid i a n : Nat) : List (Nat × Nat × Nat) :=
  ((dedup ((List.range n).map fun j => handleSlot (leNat (scrRead x (a + 8 * j) 8)))).filter fun k =>
    (lineOf x i k).isNone && !(x.prefs.any fun g => g.2.1 = i && g.2.2 = k)).map fun k => (qid, i, k)

/-- The cluster of a WPREF for query `q`. -/
def prefetching (s : State) (c w qid : Nat) (q : Query) : Cluster :=
  let x := (taken s c w).cl c
  { x with prefs := x.prefs ++ newPrefs (s.cl c) qid (getLE q.desc 0x28 2) (gran (wB w)) (wD w) }

theorem execWpref_of_unitAt {s : State} {c : Fin 128} {w qid : Nat} {q : Query} (h : unitAt s c.val 2 0x03 w)
    (hQuery : unitQuery s c.val 2 = some (qid, q)) :
    exec (.wpref c) s = .next (retire
      (countCls ((taken s c.val w).setCl c.val (prefetching s c.val w qid q)) c.val Ev.prefIssued 0xFF
        (newPrefs (s.cl c.val) qid (getLE q.desc 0x28 2) (gran (wB w)) (wD w)).length) c.val 2) := by
  show execWpref c s = _
  rw [execWpref, issueR_of_unitAt h]
  simp only [unitQuery_taken, hQuery, prefetching, newPrefs, taken_cl, List.length_map]
  rfl

/-- The counter of a WWAITA less what the word takes. -/
def arrivalsTaken (s : State) (c w : Nat) : Cluster :=
  let x := (taken s c w).cl c
  { x with actr := tput x.actr (kActr w) (tgetD (s.cl c).actr (kActr w) 0 - wD w) }

theorem execWwaita_of_unitAt {s : State} {c : Fin 128} {w : Nat} (h : unitAt s c.val 2 0x05 w) :
    exec (.wwaita c) s = .next (if wD w ≤ tgetD (s.cl c.val).actr (kActr w) 0
      then retire ((taken s c.val w).setCl c.val (arrivalsTaken s c.val w)) c.val 2 else s) := by
  show execWwaita c s = _
  have hActr : ((taken s c.val w).cl c.val).actr = (s.cl c.val).actr := by rw [taken_cl]
  rw [execWwaita, issueNow, issue_of_unitAt h]
  simp only [hActr]
  split
  · rw [Option.map_some, Option.getD_some, arrivalsTaken, hActr]
  · rfl

end Sys2Proof.Machine
end

section
/-!
Copies of the walker unit (R121, R287).
-/
namespace Sys2Proof.Machine

theorem inDomainNum_of_own {s : State} {a : Nat} (h : ownAddr s a = true) : inDomainNum (addrNode a) = true := by
  obtain ⟨hNode, hLt⟩ : addrNode a = s.fab.node ∧ s.fab.node < 64 := by simpa [ownAddr] using h
  simp only [inDomainNum, decide_eq_true_eq]
  omega

theorem ownAddr_taken (s : State) (c w a : Nat) : ownAddr (taken s c w) a = ownAddr s a := rfl

/-- The fabric address that a WCOPYA names. -/
def copyAddr (s : State) (c w : Nat) : Nat := constAddr (clConst s c (wB w))

theorem copyAddr_taken (s : State) (c w : Nat) : constAddr (clConst (taken s c w) c (wB w)) = copyAddr s c w := by
  rw [clConst_taken]; rfl

/-- The job of a WCOPYA of which `left` requests are out. -/
def copyJob (s : State) (c w left : Nat) : CopyJob :=
  { dst := gran (wA w), addr := copyAddr s c w, len := wD w, actr := kActr w, left := left }

/-- The cluster of a WCOPYA: its job is listed, `n` more accesses are outstanding, and the unit is behind the word. -/
def copying (s : State) (c w left n : Nat) : Cluster :=
  let x := (taken s c w).cl c
  let y := { x with copies := tput x.copies x.nextJob (copyJob s c w left), nextJob := x.nextJob + 1 }
  (y.setUnit 2 { y.unit 2 with pending := (y.unit 2).pending + n }).retired 2 w

theorem copying_word {s : State} {c w : Nat} (hWord : (s.cl c).word 2 = some w) (left n : Nat) :
    let x := (taken s c w).cl c
    let y := { x with copies := tput x.copies x.nextJob (copyJob s c w left), nextJob := x.nextJob + 1 }
    (y.setUnit 2 { y.unit 2 with pending := (y.unit 2).pending + n }).word 2 = some w := by
  simp only [Cluster.word, unit_setUnit_same]
  rw [taken_cl]
  exact hWord

theorem tget?_copying (s : State) (c w left n : Nat) :
    tget? (copying s c w left n).copies (s.cl c).nextJob = some (copyJob s c w left) := by
  rw [copying, taken_cl]
  exact tget?_tput_same ..

theorem copying_unit (s : State) (c w left n : Nat) :
    (copying s c w left n).unit 2 = { (s.cl c).unit 2 with
      pending := ((s.cl c).unit 2).pending + n, pc := nextPc ((s.cl c).list 2).length ((s.cl c).unit 2).pc,
      wait := .none } := by
  rw [copying, Cluster.retired_unit, unit_setUnit_same, taken_cl]
  rfl

theorem copying_rest (s : State) (c w left n : Nat) :
    (copying s c w left n).actr = (s.cl c).actr ∧ (copying s c w left n).scratch = (s.cl c).scratch := by
  rw [copying, taken_cl]
  exact ⟨rfl, rfl⟩

/-- The state of a WCOPYA before its requests leave, `t1` being what its regulator has left. -/
theorem retire_copying {s t1 : State} {c w left n : Nat} (hWord : (s.cl c).word 2 = some w)
    (hWork : t1.work = (taken s c w).work) :
    retire (addPending (t1.setCl c { t1.cl c with
      copies := tput ((taken s c w).cl c).copies ((taken s c w).cl c).nextJob (copyJob s c w left)
      nextJob := ((taken s c w).cl c).nextJob + 1 }) c 2 n) c 2 = t1.setCl c (copying s c w left n) := by
  have hCl : t1.cl c = (taken s c w).cl c := by rw [State.cl, hWork]; rfl
  rw [addPending, State.cl_setCl_same, State.setCl_setCl, hCl, retire_of_word (u := 2) _ (Nat.le_refl 2),
    State.cl_setCl_same, State.setCl_setCl, copying]
  rw [State.cl_setCl_same]
  exact copying_word hWord left n

/-- A copy from this node's own windows: one job, one access outstanding. -/
theorem execWcopya_of_own {s : State} {c : Fin 128} {w : Nat} (h : unitAt s c.val 2 0x04 w)
    (hOwn : ownAddr s (copyAddr s c.val w) = true) :
    exec (.wcopya c) s = .next ((taken s c.val w).setCl c.val (copying s c.val w 0 1)) := by
  show execWcopya c s = _
  rw [execWcopya, issueW_of_unitAt h]
  simp only [copyAddr_taken, ownAddr_taken, hOwn, inDomainNum_of_own hOwn, Bool.not_true, Bool.false_and, Bool.false_eq_true,
    if_false, if_true, List.foldl_nil, List.length_nil]
  exact congrArg _ (retire_copying h.1 rfl)

/-- A copy within one block of 256 bytes is one piece (R287). -/
theorem loadPieces_within_block {a n : Nat} (h0 : 0 < n) (hfit : a % 256 + n ≤ 256) :
    loadPieces (n / 256 + 2) a n = [(a, n)] := by
  have hmin : min n (256 - a % 256) = n := by omega
  simp [loadPieces, hmin, Nat.ne_of_gt h0]

/-- A packet without payload and of the adaptive class finds a port, and is the one thing that goes out. -/
theorem sendPacket_of_route {s : State} {p : Packet} (hPayload : p.payload = []) (hCls : p.rcls = 0)
    (hDst : nodeOf p.dst ≠ s.fab.node) (hRoute : routeCands s (nodeOf p.dst) [] ≠ []) :
    (sendPacket s p).1 = true ∧ (sendPacket s p).2.out.length = s.out.length + 1 ∧ (sendPacket s p).2.work = s.work := by
  have hStamp : stampPacket s p = ({ p with gen := s.mbr.gen, bseq := 0, fseq := 0 }, s) := by
    simp [stampPacket, hPayload, hCls]
  have hLen : 0 < (routeCands s (nodeOf p.dst) []).length := List.length_pos_iff.mpr hRoute
  obtain ⟨port, hPort⟩ : ∃ port, routePort s p.src (nodeOf p.dst) 0 [] = (some port, (takeFree s).2) := by
    have hEmpty : (routeCands s (nodeOf p.dst) []).isEmpty = false := by simpa using hRoute
    simp only [routePort, hEmpty, Bool.false_eq_true, if_false, Nat.zero_ne_one]
    rw [List.getElem?_eq_getElem (Nat.mod_lt _ hLen)]
    exact ⟨_, rfl⟩
  simp only [sendPacket, hStamp, routeSend, hDst, hCls, if_false, hPort, true_and]
  exact ⟨by simp [putOnPort, takeFree], rfl⟩

/-- The request of a LOAD from another node (R285, R287). -/
def loadReq (s : State) (dst part a n : Nat) (for_ : ReqFor) : Req :=
  { kind := kLoad, dst := dst, src := s.fab.node, part := part, t := s.now, for_ := for_, addr := a, len := n
    p := { kind := kLoad, dst := dst, src := s.fab.node, part := part, flag := false, rcls := 0, len := n
           tag := s.fab.nextTag, addr := a, aux := 0, payload := [] }
    deadline := none, inv := issuer s for_ }

theorem request_of_load {s : State} {dst a n : Nat} {for_ : ReqFor} (hDst : nodeOf dst ≠ s.fab.node)
    (hRoute : routeCands s (nodeOf dst) [] ≠ []) (part : Nat) :
    let t := (request s kLoad dst part 0 a n 0 [] false for_).2
    tget? t.fab.reqs s.fab.nextTag = some (loadReq s dst part a n for_) ∧ t.out.length = s.out.length + 1 ∧
      t.work = s.work := by
  obtain ⟨hSent, hOut, hWork⟩ := sendPacket_of_route (s := (newTag s).2) (p := (loadReq s dst part a n for_).p) rfl rfl
    hDst hRoute
  have hLaunch : (launch (newTag s).2 s.fab.nextTag (loadReq s dst part a n for_)).2 =
      { (sendPacket (newTag s).2 (loadReq s dst part a n for_).p).2 with
        fab.reqs := tput (sendPacket (newTag s).2 (loadReq s dst part a n for_).p).2.fab.reqs s.fab.nextTag
          (loadReq s dst part a n for_) } := by
    have hKind : (loadReq s dst part a n for_).kind ≠ kInval := show kLoad ≠ kInval by decide
    simp only [launch, hKind, if_false, hSent, if_true]
    rfl
  have hReq : (request s kLoad dst part 0 a n 0 [] false for_).2 =
      (launch (newTag s).2 s.fab.nextTag (loadReq s dst part a n for_)).2 := by
    have hBefore : (false || decide (kLoad = kInval)) = false := by decide
    simp only [request, hBefore, Bool.false_eq_true, if_false, List.isEmpty_nil, if_true]
    rfl
  rw [hReq, hLaunch]
  exact ⟨tget?_tput_same .., hOut, hWork⟩

/-- The LOAD of a copy, `t1` being what the regulator has left. -/
theorem request_of_copy {s t1 : State} {c w : Nat} (hTry : onlyRegulators (taken s c w) t1)
    (hDst : nodeOf (addrNode (copyAddr s c w)) ≠ s.fab.node)
    (hRoute : routeCands s (nodeOf (addrNode (copyAddr s c w))) [] ≠ []) (part : Nat) (for_ : ReqFor) :
    let t := (request (t1.setCl c (copying s c w 1 1)) kLoad (addrNode (copyAddr s c w)) part 0 (copyAddr s c w) (wD w) 0 []
      false for_).2
    (tget? t.fab.reqs s.fab.nextTag).map (fun r => (r.kind, r.dst, r.addr, r.len, r.for_)) =
        some (kLoad, addrNode (copyAddr s c w), copyAddr s c w, wD w, for_) ∧
      t.out.length = s.out.length + 1 ∧ t.cl c = copying s c w 1 1 := by
  obtain ⟨adm, held, pmc, rfl⟩ := hTry
  obtain ⟨hReq, hOut, hWork⟩ := request_of_load (a := copyAddr s c w) (n := wD w) (for_ := for_)
    (s := State.setCl { taken s c w with host := { s.host with adm := adm, held := held }, pmc := pmc } c
      (copying s c w 1 1)) hDst hRoute part
  refine ⟨(congrArg (Option.map _) hReq).trans rfl, hOut, ?_⟩
  refine Eq.trans ?_ (State.cl_setCl_same (taken s c w) c (copying s c w 1 1))
  exact congrArg (fun work : WorkSt => tgetD work.clusters c {}) hWork

/-- A copy of at most one block from another node: one job, one LOAD out. -/
theorem execWcopya_of_remote {s : State} {c : Fin 128} {w : Nat} (h : unitAt s c.val 2 0x04 w)
    (hOwn : ownAddr s (copyAddr s c.val w) = false) (hDomain : inDomainNum (addrNode (copyAddr s c.val w)) = true)
    (hReg : fld (s.adm (s.cl c.val).part).reg 15 0 = 0) (hLen : wD w % 4 = 0) (hAlign : copyAddr s c.val w % 4 = 0)
    (h0 : 4 ≤ wD w) (hfit : copyAddr s c.val w % 256 + wD w ≤ 256) :
    exec (.wcopya c) s = .next (request
      ((regTry (taken s c.val w) (s.cl c.val).part .fabric (unitReqId c.val 2) (wD w)).2.setCl c.val
        (copying s c.val w 1 1)) kLoad (addrNode (copyAddr s c.val w)) (s.cl c.val).part 0 (copyAddr s c.val w) (wD w) 0 []
        false (.copy c.val (s.cl c.val).nextJob)).2 := by
  have hTry : regTry (taken s c.val w) (s.cl c.val).part .fabric (unitReqId c.val 2) (wD w) =
      (true, (regTry (taken s c.val w) (s.cl c.val).part .fabric (unitReqId c.val 2) (wD w)).2) :=
    Prod.ext (regTry_fabric_unlimited (s := taken s c.val w) (by exact hReg) _ _) rfl
  have hCopying := retire_copying (left := 1) (n := 1) h.1
    (regTry_onlyRegulators (taken s c.val w) (s.cl c.val).part .fabric (unitReqId c.val 2) (wD w)).work
  have hPart : ((taken s c.val w).cl c.val).part = (s.cl c.val).part := by rw [taken_cl]
  have hJob : ((taken s c.val w).cl c.val).nextJob = (s.cl c.val).nextJob := by rw [taken_cl]
  show execWcopya c s = _
  rw [execWcopya, issueW_of_unitAt h]
  simp only [copyAddr_taken, ownAddr_taken, hOwn, hDomain, hAlign, hLen, hPart, Bool.not_true, Bool.not_false,
    Bool.true_and, bne_self_eq_false, Bool.or_self, Bool.false_eq_true, if_false, loadPieces_within_block (by omega : 0 < wD w) hfit]
  rw [hTry]
  simp only [List.length_singleton, List.foldl_cons, List.foldl_nil]
  rw [← hCopying, hJob]
  rfl

end Sys2Proof.Machine
end

section
/-!
A unit's read of an interval that may cross tiles (R190, R191, R199, R378).
-/
namespace Sys2Proof.Machine

theorem mreadN_add (m : Mem) (a n k : Nat) : mreadN m a (n + k) = mreadN m a n ++ mreadN m (a + n) k := by
  simp [mreadN, List.range_add, Nat.add_assoc]

/-- The pieces of an interval, read one after the other, are the interval. -/
theorem tilePieces_read (m : Mem) (fuel addr len : Nat) (h : len = 0 ∨ addr % 65536 + len ≤ fuel * 65536) :
    (tilePieces fuel addr len).flatMap (fun x => mreadN m (x.1 * 65536 + x.2.1) x.2.2) = mreadN m addr len := by
  induction fuel generalizing addr len with
  | zero => obtain rfl : len = 0 := by omega
            rfl
  | succ fuel ih =>
    simp only [tilePieces, tileBytes]
    split
    · next h0 => subst h0; rfl
    · next h0 =>
      obtain ⟨n, hn, hcut⟩ : ∃ n, min len (65536 - addr % 65536) = n ∧ (n = len ∨ n < len ∧ n = 65536 - addr % 65536) :=
        ⟨_, rfl, by omega⟩
      rw [hn, List.flatMap_cons, ih _ _ (by omega), show addr / 65536 * 65536 + addr % 65536 = addr by omega, ← mreadN_add,
        show n + (len - n) = len by omega]

theorem mem_tilePieces {fuel addr len : Nat} {x : Nat × Nat × Nat} (h : x ∈ tilePieces fuel addr len) :
    addr ≤ x.1 * 65536 + x.2.1 ∧ x.1 * 65536 + x.2.1 + x.2.2 ≤ addr + len ∧ 0 < x.2.2 ∧ x.2.1 + x.2.2 ≤ 65536 := by
  induction fuel generalizing addr len with
  | zero => cases h
  | succ fuel ih =>
    simp only [tilePieces, tileBytes] at h
    split at h
    · cases h
    · rcases List.mem_cons.mp h with rfl | h
      · have hle : min len (65536 - addr % 65536) ≤ len ∧ min len (65536 - addr % 65536) ≤ 65536 - addr % 65536 ∧
            0 < min len (65536 - addr % 65536) := by omega
        dsimp only
        omega
      · have := ih h; omega

/-- Lines of `size` bytes that meet no byte of an interval meet none of a part of it. -/
theorem any_overlap_mono {lines : Tab Bool} {size lo hi lo' hi' : Nat} (hLo : lo ≤ lo') (hHi : hi' ≤ hi)
    (h : (lines.any fun kv => decide (kv.1 * size < hi) && decide (lo < kv.1 * size + size)) = false) :
    (lines.any fun kv => decide (kv.1 * size < hi') && decide (lo' < kv.1 * size + size)) = false := by
  rw [List.any_eq_false] at *
  intro kv hkv
  have := h kv hkv
  simp only [Bool.and_eq_true, decide_eq_true_eq, not_and] at *
  omega

/-- A tile with no uncorrectable line has none in any interval. -/
theorem intervalPoisoned_of_tile {s : State} {t off n : Nat} (h : intervalPoisoned s t 0 65536 = false)
    (hfit : off + n ≤ 65536) : intervalPoisoned s t off n = false := by
  by_cases hu : (s.home t).st = .unmapped
  · exact intervalPoisoned_of_unmapped hu off n
  · have hHome : ((s.home t).st == HState.unmapped) = false := by simpa using hu
    by_cases hn : n = 0
    · simp [intervalPoisoned, hn]
    · by_cases h3 : (s.home t).tier = 3
      · simp only [intervalPoisoned, hHome, hn, h3, decide_false, Bool.or_self, Bool.false_eq_true, if_false, if_true,
          tileBytes, Nat.reduceEqDiff] at h ⊢
        exact any_overlap_mono (by omega) (by omega) h
      · simp only [intervalPoisoned, hHome, hn, h3, decide_false, Bool.or_self, Bool.false_eq_true, if_false, tileBytes,
          Nat.reduceEqDiff, Bool.or_eq_false_iff] at h ⊢
        exact ⟨any_overlap_mono (by omega) (by omega) h.1, any_overlap_mono (by omega) (by omega) h.2⟩

/-- A tile that running work reads as the stacks hold it: homed in a stack, in no move, no result buffer, all lines good. -/
def plainTile (s : State) (t : Nat) : Prop :=
  (s.home t).st ≠ .unmapped ∧ (s.home t).st ≠ .poisoned ∧ (s.home t).tier = 1 ∧ tget? s.work.resTiles t = none ∧
  tget? s.tier.moves t = none ∧ intervalPoisoned s t 0 65536 = false

theorem readTile_of_plain {s : State} {t off n : Nat} (h : plainTile s t) (hfit : off + n ≤ 65536) :
    readTile s t off n = ⟨mreadN s.tier.mem (t * 65536 + off) n, false, false⟩ := by
  obtain ⟨hMapped, hGood, hTier, hRes, hMove, hPois⟩ := h
  have hHome : ((s.home t).st == HState.unmapped) = false := by simpa using hMapped
  rw [readTile_of_clean hGood hMove (intervalPoisoned_of_tile hPois hfit)]
  simp [homeRead, resTile?, hRes, hHome, hTier, tileBytes]

theorem foldl_readTile {s : State} (ps : List (Nat × Nat × Nat)) (h : ∀ x ∈ ps, plainTile s x.1 ∧ x.2.1 + x.2.2 ≤ 65536)
    (bytes : List Byte) :
    ps.foldl (fun acc x =>
        let r := readTile s x.1 x.2.1 x.2.2
        (⟨acc.bytes ++ r.bytes, acc.poisoned || r.poisoned, acc.held || r.held⟩ : RdRes)) ⟨bytes, false, false⟩ =
      ⟨bytes ++ ps.flatMap fun x => mreadN s.tier.mem (x.1 * 65536 + x.2.1) x.2.2, false, false⟩ := by
  induction ps generalizing bytes with
  | nil => simp
  | cons x ps ih =>
    obtain ⟨hTile, hfit⟩ := h x (List.mem_cons_self ..)
    simp only [List.foldl_cons, readTile_of_plain hTile hfit, Bool.or_self]
    rw [ih (fun y hy => h y (List.mem_cons_of_mem _ hy)), List.flatMap_cons, List.append_assoc]

/-- Nothing of the clusters, the detectors or the bytes of the stacks differs. -/
def bytesSame (s t : State) : Prop := t.work = s.work ∧ t.err = s.err ∧ t.tier.mem = s.tier.mem

theorem bytesSame.refl (s : State) : bytesSame s s := ⟨rfl, rfl, rfl⟩

theorem bytesSame.trans {s t u : State} (h : bytesSame s t) (h' : bytesSame t u) : bytesSame s u :=
  ⟨h'.1.trans h.1, h'.2.1.trans h.2.1, h'.2.2.trans h.2.2⟩

theorem onlyRegulators.bytesSame {s t : State} (h : onlyRegulators s t) : bytesSame s t :=
  ⟨h.work, h.err, by rw [h.tier]⟩

theorem count_bytesSame (s : State) (p ev q n : Nat) : bytesSame s (count s p ev q n) :=
  (count_onlyCounters s p ev q n).onlyRegulators.bytesSame

theorem touch_bytesSame (s : State) (t : Nat) : bytesSame s (touch s t) := by rw [touch_eq]; exact ⟨rfl, rfl, rfl⟩

theorem foldl_bytesSame {α : Type} {f : State → α → State} (hf : ∀ t x, bytesSame t (f t x)) (s : State) (xs : List α) :
    bytesSame s (xs.foldl f s) :=
  List.foldlRecOn xs f (motive := bytesSame s) (.refl s) fun t ht x _ => ht.trans (hf t x)

theorem readMarks_bytesSame (s : State) (p addr len : Nat) : bytesSame s (readMarks s p addr len) :=
  foldl_bytesSame (fun t x => by
    dsimp only
    split
    · exact count_bytesSame ..
    · exact touch_bytesSame ..) s _

theorem bytesSame.ite {s t u : State} {p : Prop} [Decidable p] (h : bytesSame s t) (h' : bytesSame s u) :
    bytesSame s (if p then t else u) := by
  split
  · exact h
  · exact h'

theorem hotCount_bytesSame (s : State) (r t n : Nat) (wr : Bool) : bytesSame s (hotCount s r t n wr) := by
  have hWaits (u : State) (ws : List (Nat × Nat × Nat × Bool)) : bytesSame u { u with tier.moveWait := ws } :=
    ⟨rfl, rfl, rfl⟩
  have hHot (x : RegionSt) : bytesSame s (s.setRegion r x) := ⟨rfl, rfl, rfl⟩
  have hCand (x : RegionSt) : bytesSame s (count (s.setRegion r x) (tileOwner s t) Ev.hotCand) :=
    (hHot x).trans (count_bytesSame ..)
  unfold hotCount
  dsimp only
  refine .ite (.refl s) (.ite ?_ (hHot _))
  split
  · exact hCand _
  · exact .ite (hCand _) ((hCand _).trans (hWaits _ _))

theorem rfRead_bytesSame (s : State) (r p line : Nat) (remote : Bool) : bytesSame s (rfRead s r p line remote) := by
  have hFrames (u : State) (x : RegionSt) : bytesSame u (u.setRegion r x) := ⟨rfl, rfl, rfl⟩
  unfold rfRead
  dsimp only
  split
  · exact (hFrames s _).trans (count_bytesSame ..)
  · split
    · exact ((count_bytesSame ..).trans (hFrames _ _)).trans (count_bytesSame ..)
    · split
      · exact (count_bytesSame ..).trans (hFrames _ _)
      · exact count_bytesSame ..

theorem clusterRead_bytesSame (s : State) (c p addr len : Nat) : bytesSame s (clusterRead s c p addr len) := by
  unfold clusterRead
  dsimp only
  split
  · exact .refl s
  · exact foldl_bytesSame (fun t i => (rfRead_bytesSame ..).trans (hotCount_bytesSame ..)) s _

theorem injectRead_of_none_armed {s : State} (h : s.err.inj = []) (r p lo hi : Nat) : injectRead s r p lo hi = s := by
  simp [injectRead, h]

theorem sumOf_of_zeros (xs : List Nat) (h : ∀ x ∈ xs, x = 0) : sumOf xs = 0 := by
  induction xs with
  | nil => rfl
  | cons x xs ih =>
    obtain rfl : x = 0 := h x (List.mem_cons_self ..)
    exact ih fun y hy => h y (List.mem_cons_of_mem _ hy)

section
variable {s : State} {part addr len : Nat} (h : readable s part addr len) (h0 : 1 ≤ len)
include h h0

theorem plainTile_of_readable {x : Nat × Nat × Nat} (hx : x ∈ pieces addr len) :
    plainTile s x.1 ∧ x.2.1 + x.2.2 ≤ 65536 := by
  obtain ⟨hLo, hHi, hPos, hFit⟩ := mem_tilePieces hx
  refine ⟨?_, hFit⟩
  have hTile := h.2 (x.1 - addr / tileBytes) (by
    simp only [tilesOf, tileBytes, Nat.ne_of_gt h0, if_false]
    omega)
  rw [show addr / tileBytes + (x.1 - addr / tileBytes) = x.1 by simp only [tileBytes]; omega] at hTile
  exact hTile

theorem readSpan_of_readable : readSpan s addr len = ⟨mreadN s.tier.mem addr len, false, false⟩ := by
  rw [readSpan, foldl_readTile _ (fun x hx => plainTile_of_readable h h0 hx), List.nil_append, pieces,
    tilePieces_read _ _ _ _ (by simp only [tileBytes]; omega)]

theorem flashDraw_of_readable : flashDraw s addr len = 0 := by
  rw [flashDraw, sumOf_of_zeros, Nat.mul_zero]
  intro n hn
  obtain ⟨x, hx, rfl⟩ := List.mem_map.mp hn
  obtain ⟨⟨-, -, hTier, -⟩, -⟩ := plainTile_of_readable h h0 hx
  simp [hTier]

theorem nodeRead_of_readable (id : Nat) (hReg : fld (s.adm part).reg 47 32 = 0) (hInj : s.err.inj = []) :
    ∃ t, bytesSame s t ∧ nodeRead s part id addr len = .ok (mreadN s.tier.mem addr len) t := by
  obtain ⟨hOk, hTry⟩ := stackTry_of_unlimited hReg id (stackDraws s addr len)
  have hRead : readTry s part id addr len = stackTry s part id (stackDraws s addr len) := by
    simp [readTry, flashDraw_of_readable h h0]
  have hLeft : onlyRegulators s (readChecks (stackTry s part id (stackDraws s addr len)).2 part addr len) :=
    hTry.trans (readChecks_onlyCounters (by rw [hTry.err]; exact hInj) part addr len).onlyRegulators
  refine ⟨_, hLeft.bytesSame.trans (readMarks_bytesSame _ part addr len), ?_⟩
  simp only [nodeRead, Nat.ne_of_gt h0, readSpan_of_readable h h0, hRead, hOk, hLeft.readSpan_eq, Bool.not_true,
    Bool.false_eq_true, if_false]

end

theorem unitRead_of_readable {s : State} {c addr len : Nat} (h : readable s (s.cl c).part addr len) (h0 : 1 ≤ len)
    (hReg : fld (s.adm (s.cl c).part).reg 47 32 = 0) (hInj : s.err.inj = []) (u : Nat) :
    ∃ t, bytesSame s t ∧ unitRead s c u addr len = .ok (mreadN s.tier.mem addr len) t := by
  obtain ⟨t, hSame, hRead⟩ := nodeRead_of_readable h h0 (unitReqId c u) hReg hInj
  have hBad : accessBad s (s.cl c).part addr len = none := by simp only [accessBad, h.1]
  refine ⟨_, hSame.trans (clusterRead_bytesSame t c (s.cl c).part addr len), ?_⟩
  simp only [unitRead, hBad, hRead, injectRead_of_none_armed (s := t) (by rw [hSame.2.1]; exact hInj)]

end Sys2Proof.Machine
end

section
/-!
The end of a copy, and the statement about WSEED, WPREF, WCOPYA and WWAITA (R82, R119, R121).
-/
namespace Sys2Proof.Machine

/-- A cluster whose copy `i` of own bytes is over: the bytes stored, the counter up by one, one access less. -/
def Cluster.copied (x : Cluster) (i : Nat) (j : CopyJob) (bytes : List Byte) : Cluster :=
  { x with
    scratch := scrWriteT x.scratch j.dst bytes
    copies := terase x.copies i
    actr := tput x.actr j.actr (tgetD x.actr j.actr 0 + 1)
    units := tput x.units 2 { x.unit 2 with pending := (x.unit 2).pending - 1 } }

theorem execCopyComplete_of_own {s t : State} {c : Fin 128} {i a : Nat} {j : CopyJob} {bytes : List Byte}
    (hJob : tget? (s.cl c.val).copies i = some j) (hOwn : ownAddr s j.addr = true) (hWin : windowOf j.addr = .tier a)
    (hRead : unitRead s c.val 2 a j.len = .ok bytes t) :
    exec (.copyComplete c i) s = .next (t.setCl c.val ((t.cl c.val).copied i j bytes)) := by
  show execCopyComplete c i s = _
  simp only [execCopyComplete, hJob, hOwn, hWin, hRead, if_true]
  simp [donePending, endCopy, scrWrite, Cluster.copied, Cluster.setUnit, Cluster.unit, tmod]

theorem execCopyComplete_of_arrived {s : State} {c : Fin 128} {i : Nat} {j : CopyJob}
    (hJob : tget? (s.cl c.val).copies i = some j) (hOwn : ownAddr s j.addr = false) (hLeft : j.left = 0) :
    exec (.copyComplete c i) s = .next (endCopy s c.val i j) := by
  show execCopyComplete c i s = _
  simp only [execCopyComplete, hJob, hOwn, hLeft, Bool.false_eq_true, if_false, if_true]

/-- Settles O35: each word through its equation; a copy of own bytes through the unit's read, and what it stores. -/
theorem walkerCopiesAndSeeds : Obligations.WalkerCopiesAndSeeds := by
  unfold Obligations.WalkerCopiesAndSeeds
  refine ⟨?seed, ?pref, ?copyOwn, ?copyRemote, ?endOwn, ?endRemote, ?waits, ?waitsOn⟩
  case seed =>
    intro s c w h
    have hWord : (seeded s c.val w).word 2 = some w := by rw [seeded, taken_cl]; exact h.1
    have hRetire : retire ((taken s c.val w).setCl c.val (seeded s c.val w)) c.val 2 =
        s.setCl c.val ((seeded s c.val w).retired 2 w) := retire_setCl hWord s.pmc
    refine ⟨_, execWseed_of_unitAt h, ?_, ?_, behind_of_retire_same_unit ?_ ?_ ?_ h.1 (Nat.le_refl 2)⟩
    · rw [hRetire, State.cl_setCl_same]
      exact tget?_tput_same ..
    · rw [hRetire, State.cl_setCl_same, seeded, taken_cl]
      rfl
    all_goals rw [State.cl_setCl_same, seeded, taken_cl]
  case pref =>
    intro s c w qid q h hQuery
    have hWord : (prefetching s c.val w qid q).word 2 = some w := by rw [prefetching, taken_cl]; exact h.1
    obtain ⟨pmc, hCount⟩ := countCls_onlyCounters ((taken s c.val w).setCl c.val (prefetching s c.val w qid q)) c.val
      Ev.prefIssued 0xFF (newPrefs (s.cl c.val) qid (getLE q.desc 0x28 2) (gran (wB w)) (wD w)).length
    have hCl (x : Cluster) : State.cl { s.setCl c.val x with pmc := pmc } c.val = x := State.cl_setCl_same ..
    have hClTaken : State.cl { (taken s c.val w).setCl c.val (prefetching s c.val w qid q) with pmc := pmc } c.val =
        prefetching s c.val w qid q := State.cl_setCl_same ..
    refine ⟨_, execWpref_of_unitAt h hQuery, ?_, ?_, ?_⟩
    · rw [hCount, retire_setCl hWord, hCl, prefetching, taken_cl]
      rfl
    · rw [hCount, retire_setCl hWord, hCl]
      rfl
    · rw [hCount]
      refine behind_of_retire_same_unit ?_ ?_ ?_ h.1 (Nat.le_refl 2)
      all_goals rw [hClTaken, prefetching, taken_cl]
  case copyOwn =>
    intro s c w h hOwn
    refine ⟨_, execWcopya_of_own h hOwn, ?_, ?_, ?_, ?_, ?_, rfl, rfl, rfl, rfl, rfl, rfl⟩ <;> rw [State.cl_setCl_same]
    · exact tget?_copying s c.val w 0 1
    · rw [copying_unit]
    · rw [copying_unit]
    · exact (copying_rest s c.val w 0 1).1
    · exact (copying_rest s c.val w 0 1).2
  case copyRemote =>
    intro s c w h hOwn hDomain hNode hReg hRoute hLen hAlign h0 hfit
    obtain ⟨hReq, hOut, hCl⟩ := request_of_copy (regTry_onlyRegulators (taken s c.val w) (s.cl c.val).part .fabric
      (unitReqId c.val 2) (wD w)) hNode hRoute (s.cl c.val).part (.copy c.val (s.cl c.val).nextJob)
    refine ⟨_, execWcopya_of_remote h hOwn hDomain hReg hLen hAlign h0 hfit, ?_, ?_, ?_, hReq, hOut⟩ <;> rw [hCl]
    · exact tget?_copying s c.val w 1 1
    · rw [copying_unit]
    · rw [copying_unit]
  case endOwn =>
    intro s c i a j hJob hOwn hWin h0 hReadable hErr hReg hLen hWf
    obtain ⟨hInj, -⟩ := hErr
    obtain ⟨t, ⟨hWork, -, hMem⟩, hRead⟩ := unitRead_of_readable hReadable h0 hReg hInj 2
    have hCl : t.cl c.val = s.cl c.val := by rw [State.cl, hWork]; rfl
    have hBytes : (mreadN s.tier.mem a j.len).length = j.len := by simp [mreadN]
    refine ⟨_, execCopyComplete_of_own hJob hOwn hWin hRead, ?_, ?_, ?_, ?_, ?_, hMem⟩ <;> rw [hCl]
    · have hStored := scrRead_of_written (y := (s.cl c.val).copied i j (mreadN s.tier.mem a j.len)) hWf rfl (by omega)
        (off := 0) (n := j.len) (by omega)
      rw [Nat.add_zero, List.drop_zero, List.take_of_length_le (by omega)] at hStored
      rw [State.cl_setCl_same, hStored]
    · intro x hx hOut
      rw [State.cl_setCl_same]
      exact scr_of_not_written hWf rfl hx (by rw [hBytes]; exact hOut)
    · rw [State.cl_setCl_same]; rfl
    · rw [State.cl_setCl_same]; rfl
    · rw [State.cl_setCl_same]; simp [Cluster.copied, Cluster.unit]
  case endRemote => exact fun s c i j hJob hOwn hLeft => execCopyComplete_of_arrived hJob hOwn hLeft
  case waits =>
    intro s c w h hEnough
    have hWord : (arrivalsTaken s c.val w).word 2 = some w := by rw [arrivalsTaken, taken_cl]; exact h.1
    have hRetire : retire ((taken s c.val w).setCl c.val (arrivalsTaken s c.val w)) c.val 2 =
        s.setCl c.val ((arrivalsTaken s c.val w).retired 2 w) := retire_setCl hWord s.pmc
    have hActr : ((arrivalsTaken s c.val w).retired 2 w).actr =
        tput (s.cl c.val).actr (kActr w) (tgetD (s.cl c.val).actr (kActr w) 0 - wD w) := by
      rw [arrivalsTaken, taken_cl]; rfl
    refine ⟨_, by rw [execWwaita_of_unitAt h, if_pos hEnough], ?_, ?_, ?_, ?_⟩
    · rw [hRetire, State.cl_setCl_same, hActr, tgetD_tput_same]
    · intro k hk
      rw [hRetire, State.cl_setCl_same, hActr, tgetD_tput_ne _ _ _ _ _ hk]
    · refine behind_of_retire_same_unit ?_ ?_ ?_ h.1 (Nat.le_refl 2)
      all_goals rw [State.cl_setCl_same, arrivalsTaken, taken_cl]
    · rw [hRetire, State.cl_setCl_same, arrivalsTaken, taken_cl]
      rfl
  case waitsOn =>
    intro s c w h hFew
    rw [execWwaita_of_unitAt h, if_neg (by omega)]

end Sys2Proof.Machine
end

section
/-!
The first half of a start: the cores that pass, and the image that is applied (R397, R414, R417, R425, R428).
-/
namespace Sys2Proof.Machine

/-- What the first half of a start sets, as far as the statement names it. -/
structure StartView where
  phase : Nat
  nonce : W64
  inReset : Bool
  slot : Nat
  seq : Nat
  starterDig : BitVec 512
  keys : List (List Byte)
  node : Nat
  mgrs : List Nat
  cores : Tab CoreState

def State.startView (s : State) : StartView :=
  { phase := s.pkg.sec.phase, nonce := s.pkg.sec.nonce, inReset := s.pkg.pwr.inReset, slot := s.pkg.sec.slot
    seq := s.pkg.sec.seq, starterDig := s.pkg.sec.starterDig, keys := s.pkg.sec.keys, node := s.fab.node
    mgrs := s.mbr.mgrs, cores := s.err.cores }

theorem foldl_startView {α : Type} {f : State → α → State} (hf : ∀ t x, (f t x).startView = t.startView) (s : State)
    (xs : List α) : (xs.foldl f s).startView = s.startView :=
  List.foldlRecOn xs f (motive := fun t => t.startView = s.startView) rfl fun t ht x _ => (hf t x).trans ht

/-! A detection tells partitions, the leader and the counters; it starts nothing. -/

theorem count_startView (s : State) (p ev q n : Nat) : (count s p ev q n).startView = s.startView := by
  rw [count_eq]; rfl

theorem hostWrite_startView (s : State) (f gen addr : Nat) (bs : List Byte) (ro : Bool) :
    (hostWrite s f gen addr bs ro).startView = s.startView := by
  unfold hostWrite
  split
  · rfl
  · exact count_startView ..

theorem sendMsix_startView (s : State) (f vec : Nat) : (sendMsix s f vec).startView = s.startView := by
  unfold sendMsix
  split
  · exact count_startView ..
  · rfl

theorem stampPacket_startView (s : State) (p : Packet) : (stampPacket s p).2.startView = s.startView := by
  simp only [stampPacket]
  split <;> split <;> rfl

theorem routePort_startView (s : State) (src t rcls : Nat) (refused : List Nat) :
    (routePort s src t rcls refused).2.startView = s.startView := by
  simp only [routePort]
  split
  · rfl
  · split <;> rfl

theorem routeSend_startView (s : State) (p : Packet) (refused : List Nat) :
    (routeSend s p refused).2.startView = s.startView := by
  have hPut (t : State) (port : Nat) (q : Packet) : (putOnPort t port q).startView = t.startView := rfl
  have hRoute := routePort_startView s p.src (nodeOf p.dst) p.rcls refused
  simp only [routeSend]
  split
  · split
    · exact hPut ..
    · rfl
  · split
    · next t ht => rw [ht] at hRoute; exact (hPut ..).trans hRoute
    · next t ht => rw [ht] at hRoute; exact (count_startView ..).trans hRoute

theorem sendPkt_startView (s : State) (p : Packet) : (sendPkt s p).startView = s.startView :=
  (routeSend_startView ..).trans (stampPacket_startView s p)

theorem notice_startView (s : State) (p : Nat) (r : ErrRec) : (notice s p r).startView = s.startView := by
  have hNext (t : State) (x : Tab Nat) : State.startView { t with err.noteNext := x } = t.startView := rfl
  have hStat (t : State) (x : Tab W64) : State.startView { t with err.pstat := x } = t.startView := rfl
  unfold notice
  dsimp only
  split
  · rfl
  · split
    · rfl
    · split
      · exact (sendMsix_startView ..).trans ((hostWrite_startView ..).trans (hNext ..))
      · exact (hStat ..).trans ((hostWrite_startView ..).trans (hNext ..))

theorem record_startView (s : State) (det sev action part loc status addr : Nat) (inj : Bool) :
    (record s det sev action part loc status addr inj).startView = s.startView := by
  unfold record
  split
  · rfl
  · extract_lets r err s1 s2 big s3
    have h1 : s1.startView = s.startView := rfl
    clear_value s1
    have h2 : s2.startView = s.startView := by
      rw [← h1]
      exact foldl_startView (f := fun t (kv : Nat × PartEnt) => notice t kv.1 r) (fun t kv => notice_startView t kv.1 r) s1 _
    clear_value s2
    have h3 : s3.startView = s.startView := by
      unfold s3
      split
      · exact (sendPkt_startView ..).trans h2
      · exact h2
    split
    · exact h3
    · exact h3

theorem detect_startView (s : State) (det sev action part loc status addr : Nat) (inj : Bool) :
    (detect s det sev action part loc status addr inj).startView = s.startView := by
  unfold detect
  dsimp only
  split
  · exact count_startView ..
  · exact (record_startView ..).trans (count_startView ..)

theorem injHit_startView (s : State) (det : Nat) (at_ : Nat → Bool) : (injHit s det at_).2.startView = s.startView := by
  unfold injHit
  split
  · rfl
  · split
    · dsimp only
      split <;> rfl
    · rfl

theorem injFlag_startView (s : State) (det loc : Nat) : (injFlag s det loc).2.startView = s.startView := by
  have hHit := injHit_startView s det (· == loc)
  unfold injFlag
  split <;> next t ht => rw [ht] at hHit; exact hHit

/-! The image. -/

theorem applyReg_startView (s : State) (e : Nat × Nat × W64) : (applyReg s e).startView = s.startView := by
  have hTemp (v : W64) : State.startView { s with pkg.pwr.tcfg := v } = s.startView := rfl
  fun_cases applyReg s e
  case case30 => exact hTemp _
  all_goals rfl

theorem applyFrames_startView (s : State) (b : List Byte) : (applyFrames s b).startView = s.startView :=
  foldl_startView (fun t st => by rcases frameCounts b st with ⟨r, l, n⟩; rfl) s (List.range 8)

/-- What an applied image sets (R417, R419, R421, R422). -/
theorem applyImage_startView (s : State) (slot : Nat) (x : NorSlot) :
    (applyImage s slot x).startView = { s.startView with
      slot := slot, seq := x.seq, starterDig := imgDigest x.image, keys := imgKeys x.image
      node := getLE (blockOf x.image 3) 0 1
      mgrs := (List.range (getLE (blockOf x.image 3) 1 1)).map fun i => getLE (blockOf x.image 3) (8 + i) 1 } :=
  (foldl_startView applyReg_startView _ _).trans (applyFrames_startView _ _)

theorem startIdentity_startView (s : State) (io : StartIn) : (startIdentity s io).startView = s.startView := by
  have hInj := injFlag_startView s 14 0
  have hId (t : State) (id : IdState) : State.startView { t with pkg.sec.id := id } = t.startView := rfl
  have hHealthy (t : State) : State.startView { t with pkg.sec.healthy := true } = t.startView := rfl
  have hTake (t : State) (k : List Byte) (id : IdState) : (takeIdentity t k id).startView = t.startView := rfl
  unfold startIdentity
  split
  · rfl
  · split
    next inj t ht =>
      rw [ht] at hInj
      split
      · exact (hId ..).trans ((detect_startView ..).trans hInj)
      · dsimp only
        split
        · exact (hHealthy t).trans hInj
        · exact (hTake ..).trans ((hHealthy t).trans hInj)

/-- The node as its cores leave self-test: a start has begun, and no core's failure is hidden (R397, R414). -/
def coresStarted (s : State) (io : StartIn) : State :=
  armStarts (startCores { s with pkg := { s.pkg with
    sec := { s.pkg.sec with phase := 2, nonce := io.nonce }, pwr := { s.pkg.pwr with inReset := false } } } io.coreFail)

theorem coresStarted_cores (s : State) (io : StartIn) : (coresStarted s io).err.cores =
    (List.range 3).map fun i => (i, if io.coreFail.contains i then CoreState.failed else CoreState.healthy) := rfl

theorem tget?_core {fail : List Nat} {i : Nat} (hi : i < 3) :
    tget? ((List.range 3).map fun i => (i, if fail.contains i then CoreState.failed else CoreState.healthy)) i =
      some (if fail.contains i then CoreState.failed else CoreState.healthy) := by
  obtain rfl | rfl | rfl : i = 0 ∨ i = 1 ∨ i = 2 := by omega
  all_goals rfl

theorem coreHealthy_iff {s : State} {fail : List Nat}
    (h : s.err.cores = (List.range 3).map fun i => (i, if fail.contains i then CoreState.failed else CoreState.healthy))
    {i : Nat} (hi : i < 3) : coreHealthy s i = !fail.contains i := by
  rw [coreHealthy, h, tgetD, tget?_core hi]
  cases fail.contains i <;> rfl

theorem anyCore_eq {s : State} {fail : List Nat}
    (h : s.err.cores = (List.range 3).map fun i => (i, if fail.contains i then CoreState.failed else CoreState.healthy)) :
    anyCore s = [0, 1, 2].any fun i => !fail.contains i := by
  have hRange : List.range 3 = [0, 1, 2] := rfl
  simp only [anyCore, hRange, List.any_cons, List.any_nil, coreHealthy_iff h (by omega : 0 < 3),
    coreHealthy_iff h (by omega : 1 < 3), coreHealthy_iff h (by omega : 2 < 3)]

theorem slotOrder_coresStarted (s : State) (io : StartIn) : slotOrder (coresStarted s io) = slotOrder s := rfl

theorem startRows_of_no_core {s : State} {io : StartIn} (h : anyCore (coresStarted s io) = false) :
    startRows s io = coresStarted s io := by
  show (if (!anyCore (coresStarted s io)) = true then coresStarted s io else _) = _
  rw [h]
  rfl

theorem startRows_of_core {s : State} {io : StartIn} (h : anyCore (coresStarted s io) = true) :
    startRows s io = match (slotOrder s).find? fun x => imgCheck x.2.image == 0 with
      | none => { coresStarted s io with pkg.sec.slot := 3 }
      | some (i, x) => startIdentity (applyImage (coresStarted s io) i x) io := by
  show (if (!anyCore (coresStarted s io)) = true then coresStarted s io else
    match (slotOrder (coresStarted s io)).find? fun x => imgCheck x.2.image == 0 with
      | none => { coresStarted s io with pkg.sec.slot := 3 }
      | some (i, x) => startIdentity (applyImage (coresStarted s io) i x) io) = _
  rw [h, slotOrder_coresStarted]
  rfl

/-- The first half of a start in which a core passes: the slot whose image passes, or NONE. -/
theorem startRows_startView {s : State} {io : StartIn} (h : anyCore (coresStarted s io) = true) :
    (startRows s io).startView = ((slotOrder s).find? fun x => imgCheck x.2.image == 0).elim
      { (coresStarted s io).startView with slot := 3 } fun y =>
      { (coresStarted s io).startView with
        slot := y.1, seq := y.2.seq, starterDig := imgDigest y.2.image, keys := imgKeys y.2.image
        node := getLE (blockOf y.2.image 3) 0 1
        mgrs := (List.range (getLE (blockOf y.2.image 3) 1 1)).map fun i => getLE (blockOf y.2.image 3) (8 + i) 1 } := by
  rw [startRows_of_core h]
  split
  · next hNone => rw [hNone]; rfl
  · next i x hSome =>
    rw [hSome]
    exact (startIdentity_startView ..).trans (applyImage_startView ..)

/-- The pins and rails let a start run (R414). -/
def startLit (s : State) : Prop :=
  s.pkg.pwr.pgAon = true ∧ s.pkg.pwr.wrst = false ∧ s.pkg.pwr.clock = true ∧ s.pkg.pwr.undervolt = false

theorem execStartSequence_first {s : State} (h : startLit s) (hPhase : s.pkg.sec.phase = 1) (io : StartIn) :
    exec (.startSequence io) s = .next (if s.pkg.pwr.pgMain && anyCore (startRows s io) then startDomains (startRows s io) io
      else startRows s io) := by
  obtain ⟨hAon, hRst, hClock, hVolt⟩ := h
  show execStartSequence io s = _
  simp only [execStartSequence, hAon, hRst, hClock, hVolt, hPhase, Bool.not_true, Bool.or_self, Bool.false_eq_true, if_false,
    if_true]

theorem execStartSequence_second {s : State} (h : startLit s) (hPhase : s.pkg.sec.phase = 2) (io : StartIn) :
    exec (.startSequence io) s = .next (if s.pkg.pwr.pgMain && anyCore s then startDomains s io else s) := by
  obtain ⟨hAon, hRst, hClock, hVolt⟩ := h
  show execStartSequence io s = _
  simp only [execStartSequence, hAon, hRst, hClock, hVolt, hPhase, Bool.not_true, Bool.or_self, Bool.false_eq_true, if_false,
    decide_true, Bool.true_and, OfNat.ofNat_ne_one]
  split <;> rfl

theorem execStartSequence_idle {s : State} (h : s.pkg.pwr.pgAon = false ∨ s.pkg.pwr.wrst = true ∨ s.pkg.pwr.clock = false ∨
    s.pkg.pwr.undervolt = true ∨ (s.pkg.sec.phase ≠ 1 ∧ s.pkg.sec.phase ≠ 2)) (io : StartIn) :
    exec (.startSequence io) s = .next s := by
  show execStartSequence io s = _
  rcases h with h | h | h | h | ⟨h1, h2⟩
  · simp [execStartSequence, h]
  · simp [execStartSequence, h]
  · simp [execStartSequence, h]
  · simp [execStartSequence, h]
  · simp [execStartSequence, h1, h2]

end Sys2Proof.Machine
end

section
/-!
What flash work leaves alone (R335, R342, R347, R357).
-/
namespace Sys2Proof.Machine

/-- Nothing but the flash and the counters differs. -/
def onlyFlash (s t : State) : Prop := ∃ flash pmc, t = { s with flash := flash, pmc := pmc }

theorem onlyFlash.refl (s : State) : onlyFlash s s := ⟨_, _, rfl⟩

theorem onlyFlash.trans {s t u : State} (h : onlyFlash s t) (h' : onlyFlash t u) : onlyFlash s u := by
  obtain ⟨_, _, rfl⟩ := h
  obtain ⟨_, _, rfl⟩ := h'
  exact ⟨_, _, rfl⟩

theorem onlyCounters.onlyFlash {s t : State} (h : onlyCounters s t) : onlyFlash s t := by
  obtain ⟨_, rfl⟩ := h
  exact ⟨_, _, rfl⟩

theorem countNode_onlyFlash (s : State) (ev q n : Nat) : onlyFlash s (countNode s ev q n) :=
  (count_onlyCounters ..).onlyFlash

theorem foldl_onlyFlash {α : Type} {f : State → α → State} (hf : ∀ t x, onlyFlash t (f t x)) (s : State) (xs : List α) :
    onlyFlash s (xs.foldl f s) :=
  List.foldlRecOn xs f (motive := onlyFlash s) (.refl s) fun t ht x _ => ht.trans (hf t x)

theorem setDie_onlyFlash (s : State) (d : Nat) (x : Die) : onlyFlash s (s.setDie d x) := ⟨_, _, rfl⟩

theorem setSlot13_onlyFlash (s : State) (m : Nat) (x : Slot13) : onlyFlash s (s.setSlot13 m x) := ⟨_, _, rfl⟩

theorem allocUnit_onlyFlash {s t : State} {pu : PhysUnit} (h : allocUnit s = some (pu, t)) : onlyFlash s t := by
  unfold allocUnit at h
  dsimp only at h
  split at h
  · cases h
  · split at h
    · cases h
    · obtain ⟨-, rfl⟩ := Prod.mk.inj (Option.some.inj h)
      exact ⟨_, _, rfl⟩

theorem serveDie_onlyFlash (s : State) (d : Nat) : onlyFlash s (serveDie s d) := by
  unfold serveDie
  extract_lets x w x1
  split
  · exact .refl s
  · split
    · exact setDie_onlyFlash ..
    · split <;> exact setDie_onlyFlash ..

theorem trySuspend_onlyFlash {s t : State} {d : Nat} {r : DieReq} (h : trySuspend s d r = some t) : onlyFlash s t := by
  unfold trySuspend at h
  dsimp only at h
  split at h
  · split at h
    · cases h
    · split at h
      · obtain rfl := Option.some.inj h
        exact (setDie_onlyFlash ..).trans (countNode_onlyFlash ..)
      · cases h
  · cases h

theorem enqueue_onlyFlash (s : State) (d : Nat) (r : DieReq) : onlyFlash s (enqueue s d r) := by
  have hNext : onlyFlash s { s with flash.nextReq := s.flash.nextReq + 1 } := ⟨_, _, rfl⟩
  unfold enqueue
  dsimp only
  split
  · next hSome => exact hNext.trans (trySuspend_onlyFlash hSome)
  · split
    · exact (hNext.trans (setDie_onlyFlash ..)).trans (serveDie_onlyFlash ..)
    · exact hNext.trans (setDie_onlyFlash ..)

theorem progUnit_onlyFlash (s : State) (u part cls : Nat) (parts : List (Nat × List Byte)) (disc : List Nat) (for_ : ProgFor) :
    onlyFlash s (progUnit s u part cls parts disc for_) := by
  unfold progUnit
  extract_lets flash wait isWrite
  split
  · exact ⟨_, _, rfl⟩
  · split
    · exact ⟨_, _, rfl⟩
    · next hSome => exact (allocUnit_onlyFlash hSome).trans (enqueue_onlyFlash ..)

theorem retryWaiting_onlyFlash (s : State) : onlyFlash s (retryWaiting s) := by
  have hNone : onlyFlash s { s with flash.waiting := [] } := ⟨_, _, rfl⟩
  exact hNone.trans (foldl_onlyFlash (fun t w => progUnit_onlyFlash ..) _ _)

theorem bringOnline_onlyFlash (s : State) (m : Nat) (id : ModuleId) : onlyFlash s (bringOnline s m id) := by
  unfold bringOnline
  exact foldl_onlyFlash (fun _ _ => ⟨_, _, rfl⟩) s (List.range 4)

theorem discover_onlyFlash (s : State) (m : Nat) (id : ModuleId) : onlyFlash s (discover s m id) := by
  unfold discover
  dsimp only
  split
  · exact ((bringOnline_onlyFlash ..).trans (setSlot13_onlyFlash ..)).trans (retryWaiting_onlyFlash _)
  · exact setSlot13_onlyFlash ..

theorem startFlash_onlyFlash (s : State) (ms : List ModuleId) : onlyFlash s (startFlash s ms) := by
  unfold startFlash
  extract_lets one s1 raw
  have hOne (t : State) (x : ModuleId × Nat) : onlyFlash t (one t x) := by
    unfold one
    dsimp only
    split
    · exact (setSlot13_onlyFlash ..).trans (discover_onlyFlash ..)
    · exact .refl t
  have hAll : onlyFlash s s1 := foldl_onlyFlash hOne s _
  exact hAll.trans ⟨_, _, rfl⟩

theorem layUnit_onlyFlash (s : State) (u : Nat) (parts : List (Nat × List Byte)) (disc : List Nat) :
    onlyFlash s (layUnit s u parts disc) := ⟨_, _, rfl⟩

theorem setMap_onlyFlash (s : State) (u : Nat) (e : MapEnt) : onlyFlash s (setMap s u e) := ⟨_, _, rfl⟩

theorem flashStore_onlyFlash (s : State) (addr : Nat) (bs : List Byte) : onlyFlash s (flashStore s addr bs) := by
  have hSeq (t : State) : onlyFlash t { t with flash.wseq := t.flash.wseq + 1 } := ⟨_, _, rfl⟩
  have hLaid (t : State) (u : Nat) (parts : List (Nat × List Byte)) (pu : PhysUnit) (ev q : Nat) :
      onlyFlash t (countNode (setMap { layUnit t u parts [] with flash.wseq := (layUnit t u parts []).flash.wseq + 1 } u
        ⟨.mapped, pu⟩) ev q) :=
    (((layUnit_onlyFlash ..).trans (hSeq _)).trans (setMap_onlyFlash ..)).trans (countNode_onlyFlash ..)
  unfold flashStore
  dsimp only
  split
  · exact .refl s
  · refine foldl_onlyFlash (fun t u => ?_) s _
    cases hAlloc : allocUnit t with
    | none => exact hLaid ..
    | some x => exact (allocUnit_onlyFlash (pu := x.1) (t := x.2) hAlloc).trans (hLaid ..)

end Sys2Proof.Machine
end

section
/-!
The second half of a start: domains, self-test, flash homes and recovery (R31, R197, R236, R414, R462, R465).
-/
namespace Sys2Proof.Machine

/-- A fold whose step at `a` brings `P` about and whose other steps keep it, under an invariant `I` of the fold. -/
theorem foldl_establishes {σ α : Type} {I P : σ → Prop} {f : σ → α → σ} {a : α} (hI : ∀ t x, I t → I (f t x))
    (hHere : ∀ t, I t → P (f t a)) (hThere : ∀ t x, I t → x ≠ a → P t → P (f t x)) (xs : List α) (h : a ∈ xs) (s : σ) (hs : I s) :
    P (xs.foldl f s) := by
  have hKeep (xs : List α) : ∀ t, I t → P t → P (xs.foldl f t) := by
    induction xs with
    | nil => exact fun t _ hP => hP
    | cons x xs ih =>
      intro t ht hP
      refine ih _ (hI t x ht) ?_
      by_cases hx : x = a
      · rw [hx]; exact hHere t ht
      · exact hThere t x ht hx hP
  induction xs generalizing s with
  | nil => cases h
  | cons x xs ih =>
    rcases List.mem_cons.mp h with rfl | h
    · exact hKeep xs _ (hI s a hs) (hHere s hs)
    · exact ih h _ (hI s x hs)

/-- Numbers written one after the other into a table: each ends at its own value. -/
theorem tget?_foldl_tput {α : Type} (f : Nat → α) (ks : List Nat) {k : Nat} (h : k ∈ ks) (t : Tab α) :
    tget? (ks.foldl (fun t k => tput t k (f k)) t) k = some (f k) :=
  foldl_establishes (I := fun _ => True) (P := fun t => tget? t k = some (f k)) (a := k) (fun _ _ _ => trivial)
    (fun t _ => tget?_tput_same t k (f k)) (fun t j _ hj hP => by rw [tget?_tput_ne _ _ _ _ (Ne.symm hj)]; exact hP) ks h t
    trivial

/-- A region in which every cluster passes and none was fenced (R31). -/
theorem placeRegion_of_all_pass (r : Nat) : placeRegion 0 0 r =
    ((List.range 17).map fun i => (r * 17 + i, if i < 16 then PhysState.active else .spare),
      (List.range 16).map fun k => (r * 16 + k, r * 17 + k)) := rfl

/-- The sixteen logical clusters from `base` on, each served by the physical one that `p` gives it (R31). -/
@[irreducible] def servedBy (base : Nat) (p : Nat → Nat) (c : Tab Cluster) : Tab Cluster :=
  (List.range 16).foldl (fun c k => tput c (base + k) { tgetD c (base + k) ({} : Cluster) with
    phys := p k, st := if p k = 0xFF then .unavailable else .idle }) c

theorem tgetD_servedBy_same (base : Nat) (p : Nat → Nat) (c : Tab Cluster) {k : Nat} (hk : k < 16) :
    (tgetD (servedBy base p c) (base + k) ({} : Cluster)).phys = p k ∧
      (tgetD (servedBy base p c) (base + k) ({} : Cluster)).st = if p k = 0xFF then .unavailable else .idle := by
  unfold servedBy
  exact foldl_establishes (I := fun _ => True) (a := k)
    (P := fun c => (tgetD c (base + k) ({} : Cluster)).phys = p k ∧
      (tgetD c (base + k) ({} : Cluster)).st = if p k = 0xFF then .unavailable else .idle)
    (fun _ _ _ => trivial) (fun c _ => by rw [tgetD_tput_same]; exact ⟨rfl, rfl⟩)
    (fun c j _ hj hP => by rw [tgetD_tput_ne _ _ _ _ _ (by omega)]; exact hP) _ (List.mem_range.mpr hk) c trivial

theorem tgetD_servedBy_other {base : Nat} (p : Nat → Nat) (c : Tab Cluster) {x : Nat} (hx : x < base ∨ base + 16 ≤ x) :
    tgetD (servedBy base p c) x ({} : Cluster) = tgetD c x {} := by
  unfold servedBy
  exact List.foldlRecOn _ _ (motive := fun c' => tgetD c' x ({} : Cluster) = tgetD c x {}) rfl fun c' hc k hk => by
    have hk' := List.mem_range.mp hk
    rw [tgetD_tput_ne _ _ _ _ _ (by omega), hc]

/-- The seventeen physical clusters of a region in which all pass: the last one is the spare. -/
@[irreducible] def testedPhys (r : Nat) (q : Tab PhysState) : Tab PhysState :=
  (List.range 17).foldl (fun q i => tput q (r * 17 + i) (if i < 16 then PhysState.active else .spare)) q

theorem tget?_testedPhys_spare (r : Nat) (q : Tab PhysState) : tget? (testedPhys r q) (r * 17 + 16) = some .spare := by
  unfold testedPhys
  exact foldl_establishes (I := fun _ => True) (P := fun q => tget? q (r * 17 + 16) = some PhysState.spare) (a := 16)
    (fun _ _ _ => trivial) (fun q _ => tget?_tput_same ..)
    (fun q j _ hj hP => by rw [tget?_tput_ne _ _ _ _ (by omega)]; exact hP) _ (by decide) q trivial

theorem tget?_testedPhys_other {r : Nat} (q : Tab PhysState) {x : Nat} (hx : x < r * 17 ∨ r * 17 + 17 ≤ x) :
    tget? (testedPhys r q) x = tget? q x := by
  unfold testedPhys
  exact List.foldlRecOn _ _ (motive := fun q' => tget? q' x = tget? q x) rfl fun q' hq i hi => by
    have hi' := List.mem_range.mp hi
    rw [tget?_tput_ne _ _ _ _ (by omega), hq]

/-- A region after a self-test in which all of its clusters pass, its domain on or off. -/
def testedRegion (on : Bool) (t : State) (r : Nat) : State :=
  { t with work := { t.work with
    phys := if on then testedPhys r t.work.phys else t.work.phys
    clusters := servedBy (r * 16) (fun k => if on then r * 17 + k else 0xFF) t.work.clusters } }

/-- Region `r` is placed: each logical number is served by its own physical cluster, and the last one is the spare; without
its domain no number is served (R31, R465). -/
def regionPlaced (on : Bool) (r : Nat) (t : State) : Prop :=
  (∀ k, k < 16 → (t.cl (r * 16 + k)).phys = (if on then r * 17 + k else 0xFF) ∧
    (t.cl (r * 16 + k)).st = if on then .idle else .unavailable) ∧
  (on = true → tget? t.work.phys (r * 17 + 16) = some .spare)

theorem regionPlaced_here (on : Bool) {r : Nat} (hr : r < 8) (t : State) : regionPlaced on r (testedRegion on t r) := by
  refine ⟨fun k hk => ?_, fun hOn => ?_⟩
  · obtain ⟨hPhys, hSt⟩ := tgetD_servedBy_same (r * 16) (fun k => if on then r * 17 + k else 0xFF) t.work.clusters hk
    refine ⟨hPhys, hSt.trans ?_⟩
    cases on
    · rfl
    · have hNot : r * 17 + k ≠ 0xFF := by omega
      simp only [if_true, hNot, if_false]
  · subst hOn
    exact tget?_testedPhys_spare r t.work.phys

theorem regionPlaced_there {on on' : Bool} {r r' : Nat} (h : r' ≠ r) {t : State} (hPlaced : regionPlaced on r t) :
    regionPlaced on r (testedRegion on' t r') := by
  obtain ⟨hCl, hSpare⟩ := hPlaced
  refine ⟨fun k hk => ?_, fun hOn => ?_⟩
  · have hSame : (testedRegion on' t r').cl (r * 16 + k) = t.cl (r * 16 + k) := tgetD_servedBy_other _ _ (by omega)
    rw [hSame]
    exact hCl k hk
  · rw [← hSpare hOn]
    cases on'
    · rfl
    · exact tget?_testedPhys_other _ (by omega)

/-- Self-test of a node whose clusters all pass and of which none was fenced (R31, R45, R47). -/
theorem selfTest_of_all_pass {s : State} (h : s.work.fenceHist = []) :
    (∃ phys clusters, selfTest s [] = { s with work := { s.work with
      phys := phys, clusters := clusters, fenceHist := [] } }) ∧
    ∀ r, r < 8 → regionPlaced (bitOf s.pkg.pwr.domOn (2 + r)) r (selfTest s []) := by
  unfold selfTest
  extract_lets on place s1
  have hPlace (t : State) (r : Nat) (ht : t.work.fenceHist = []) : place t r = testedRegion (on r) t r := by
    have hHist : tgetD t.work.fenceHist r 0 = 0 := by rw [ht]; rfl
    cases hOn : on r with
    | true =>
      have hFail : ofBits ((([] : List Nat).filter fun p => p / 17 = r).map (· % 17)) = 0 := rfl
      simp only [place, hOn, hHist, hFail, if_true, placeRegion_of_all_pass, List.foldl_map, testedRegion, testedPhys, servedBy]
    | false =>
      simp only [place, hOn, Bool.false_eq_true, if_false, List.foldl_map, List.foldl_nil, testedRegion, servedBy]
  have hHist (t : State) (r : Nat) (ht : t.work.fenceHist = []) : (place t r).work.fenceHist = [] := by
    rw [hPlace t r ht]; exact ht
  constructor
  · obtain ⟨phys, clusters, hAll⟩ : ∃ phys clusters, s1 = { s with work := { s.work with
        phys := phys, clusters := clusters } } :=
      List.foldlRecOn (List.range 8) place (motive := fun t => ∃ phys clusters, t = { s with work := { s.work with
        phys := phys, clusters := clusters } }) ⟨_, _, rfl⟩ fun t ht r _ => by
          obtain ⟨_, _, rfl⟩ := ht
          exact ⟨_, _, hPlace _ r h⟩
    exact ⟨phys, clusters, congrArg (fun t : State => { t with work.fenceHist := [] }) hAll⟩
  · intro r hr
    exact foldl_establishes (I := fun t => t.work.fenceHist = []) (P := regionPlaced (on r) r) (a := r) hHist
      (fun t ht => by rw [hPlace t r ht]; exact regionPlaced_here _ hr t)
      (fun t r' ht hne hP => by rw [hPlace t r' ht]; exact regionPlaced_there hne hP) _ (List.mem_range.mpr hr) s h

/-! The rows behind the self-test. -/

/-- Nothing but the states of ports differs. -/
theorem train_ports (s : State) (ts : List Nat) : ∃ ports, ts.foldl train s = { s with fab.ports := ports } :=
  List.foldlRecOn ts train (motive := fun t => ∃ ports, t = { s with fab.ports := ports }) ⟨_, rfl⟩ fun t ht k _ => by
    obtain ⟨_, rfl⟩ := ht
    unfold train
    split
    · exact ⟨_, rfl⟩
    · exact ⟨_, rfl⟩

theorem startSealed_of_none {s : State} (h : s.tier.sealed = []) : startSealed s = s := by simp [startSealed, h]

theorem recoverLog_of_empty {s : State} (h : s.epo.flashLog = []) :
    recoverLog s = { s with work.indexes := [], epo.nextSeq := 1 } := by
  simp [recoverLog, h, replayAll, sortBy]

/-- Tiles of flash-backed ranges have their flash homes (R197). -/
theorem tget?_startTiles {s : State} {kv : Nat × W64} {i : Nat} (hkv : kv ∈ s.tier.prange) (hFlash : flag kv.2 31 = true)
    (hi : i < fld kv.2 57 32) :
    tget? (startTiles s).tier.home (fld kv.2 24 0 + i) = some ⟨.home, 3, fld kv.2 24 0 + i⟩ :=
  tget?_foldl_tput (fun k => (⟨.home, 3, k⟩ : Home)) _ (List.mem_flatMap.mpr
    ⟨kv, List.mem_filter.mpr ⟨hkv, hFlash⟩, List.mem_map.mpr ⟨i, List.mem_range.mpr hi, rfl⟩⟩) _

theorem sendHello_onlySent (s : State) : onlySent { s with mbr.lastHello := s.now } (sendHello s) :=
  foldl_onlySent (fun _ _ => sendPkt_onlySent ..) _ _

end Sys2Proof.Machine
end

section
/-!
The domains come up, and the mailbox and the orderly stop serve the owner (R197, R414, R427, R429, R433, R434, R440, R442).
-/
namespace Sys2Proof.Machine

/-! The enabled domains. -/

/-- The node with the enabled domains on. -/
def poweredOn (s : State) : State :=
  { s with pkg := { s.pkg with
    sec := { s.pkg.sec with phase := 3 }
    pwr := { s.pkg.pwr with domOn := s.pkg.pwr.domEn, avsT := [(0, s.now), (1, s.now)] }
    clk := { s.pkg.clk with vddcd := voltFor s.pkg.clk.tcur, raise := none } } }

/-- The node once its clusters, near-bank units and ports have been looked at. -/
def selfTested (s : State) (io : StartIn) : State :=
  (List.range 32).foldl train (unitTest (selfTest (poweredOn s) io.clusterFail) io.unitFail)

/-- The node once it has recovered. -/
def recoveredNode (s : State) (io : StartIn) : State :=
  { recoverLog (startSealed (startTiles (startFlash
      { selfTested s io with tier.withheld := (selfTested s io).err.retired } io.modules))) with pkg.sec.recovered := true }

theorem startDomains_of_slot {s : State} (h : s.pkg.sec.slot ≠ 3) (io : StartIn) :
    startDomains s io =
      if silentNode (recoveredNode s io) then recoveredNode s io else sendHello (recoveredNode s io) := by
  unfold startDomains
  extract_lets _ _ _ _ s1 s2 _ s3 s4 _ _ s5
  have hOn : s1 = poweredOn s := by
    unfold s1 poweredOn
    rw [if_neg h]
  have hTested : s2 = selfTested s io := by rw [selfTested, ← hOn]
  have hNode : s5 = recoveredNode s io := by rw [recoveredNode, ← hTested]
  have hSlot : s1.pkg.sec.slot ≠ 3 := h
  rw [if_neg hSlot, hNode]

theorem startDomains_of_no_slot {s : State} (h : s.pkg.sec.slot = 3) (io : StartIn) :
    startDomains s io = { s with pkg := { s.pkg with
      sec := { s.pkg.sec with phase := 3 }
      pwr := { s.pkg.pwr with domOn := 1 + 2 ^ 20 + 2 ^ 21, avsT := [(0, s.now), (1, s.now)] }
      clk := { s.pkg.clk with vddcd := voltFor s.pkg.clk.tcur, raise := none } } } := by
  unfold startDomains
  dsimp only
  rw [if_pos h, if_pos h]

theorem regionPlaced_congr {on : Bool} {r : Nat} {s t : State} (hCl : t.work.clusters = s.work.clusters)
    (hPhys : t.work.phys = s.work.phys) (h : regionPlaced on r s) : regionPlaced on r t := by
  simpa only [regionPlaced, State.cl, hCl, hPhys] using h

/-- What a near-bank self-test says of a stack: its units are on with its domain (R186, R465). -/
theorem tget?_unitTest (s : State) (fails : List (Nat × Nat)) {k : Nat} (hk : k < 8) :
    (tget? (unitTest s fails).work.nbs k).map (·.on) = some (bitOf s.pkg.pwr.domOn (10 + k)) := by
  unfold unitTest
  interval_cases k <;> rfl

/-- Recovery with nothing sealed and an empty log: the tiles have their homes, and no registration is left (R197, R236). -/
theorem recover_of_empty {s : State} (hSealed : s.tier.sealed = []) (hLog : s.epo.flashLog = []) :
    recoverLog (startSealed (startTiles s)) = { startTiles s with work.indexes := [], epo.nextSeq := 1 } := by
  rw [startSealed_of_none (s := startTiles s) hSealed, recoverLog_of_empty (s := startTiles s) hLog]

/-- What the recovered node has kept and got. -/
theorem recoveredNode_of_clean {s : State} {io : StartIn} (hFail : io.clusterFail = []) (hHist : s.work.fenceHist = [])
    (hLog : s.epo.flashLog = []) (hSealed : s.tier.sealed = []) :
    let t := recoveredNode s io
    t.pkg = { (poweredOn s).pkg with sec := { (poweredOn s).pkg.sec with recovered := true } } ∧ t.err = s.err ∧
      t.now = s.now ∧ t.work.indexes = [] ∧ t.work.fenceHist = [] ∧ t.tier.withheld = s.err.retired ∧
      (∀ r, r < 8 → regionPlaced (bitOf s.pkg.pwr.domEn (2 + r)) r t) ∧
      (∀ k, k < 8 → (tget? t.work.nbs k).map (·.on) = some (bitOf s.pkg.pwr.domEn (10 + k))) ∧
      ∀ (kv : Nat × W64) (i : Nat), kv ∈ s.tier.prange → flag kv.2 31 = true → i < fld kv.2 57 32 →
        tget? t.tier.home (fld kv.2 24 0 + i) = some ⟨.home, 3, fld kv.2 24 0 + i⟩ := by
  obtain ⟨⟨phys, clusters, hTest⟩, hPlaced⟩ := selfTest_of_all_pass (s := poweredOn s) hHist
  obtain ⟨ports, hTrain⟩ := train_ports (unitTest (selfTest (poweredOn s) []) io.unitFail) (List.range 32)
  have hTested : selfTested s io =
      { unitTest (selfTest (poweredOn s) []) io.unitFail with fab.ports := ports } := by rw [selfTested, hFail, hTrain]
  obtain ⟨flash, pmc, hFlash⟩ := startFlash_onlyFlash
    { selfTested s io with tier.withheld := (selfTested s io).err.retired } io.modules
  have hTiles := @tget?_startTiles (startFlash
    { selfTested s io with tier.withheld := (selfTested s io).err.retired } io.modules)
  have hRec := recover_of_empty (s := startFlash { selfTested s io with tier.withheld := (selfTested s io).err.retired } io.modules)
    (by rw [hFlash, hTested, hTest]; exact hSealed) (by rw [hFlash, hTested, hTest]; exact hLog)
  rw [recoveredNode, hRec]
  rw [hFlash, hTested, hTest] at hTiles ⊢
  have hNbs (k : Nat) (hk : k < 8) := tget?_unitTest (selfTest (poweredOn s) []) io.unitFail hk
  rw [hTest] at hPlaced hNbs
  exact ⟨rfl, rfl, rfl, rfl, rfl, rfl, fun r hr => regionPlaced_congr rfl rfl (hPlaced r hr), hNbs,
    fun kv i hkv hf hi => hTiles hkv hf hi⟩

/-! The mailbox. -/

theorem exec_mailbox_refused {s : State} {via : Option (Fin 64)} (h : mayMbx s via = false) (data : HostRead) :
    exec (.writeStarter via data) s = .next s ∧ exec (.unlock via data) s = .next s ∧ exec (.enroll via) s = .next s := by
  refine ⟨?_, ?_, ?_⟩
  · show execWriteStarter via data s = _
    simp [execWriteStarter, h]
  · show execUnlock via data s = _
    simp [execUnlock, h]
  · show execEnroll via s = _
    simp [execEnroll, h]

section
variable {s : State} {via : Option (Fin 64)} (h : mayMbx s via = true)
include h

theorem execWriteStarter_of_failed : exec (.writeStarter via .failed) s =
    .next (mbxDone s via 1 (fld s.pkg.sec.mbxCtl 22 0) 5) := by
  show execWriteStarter via .failed s = _
  simp [execWriteStarter, h]

theorem execWriteStarter_of_bad {bs : List Byte} (hBad : imgCheck bs ≠ 0) : exec (.writeStarter via (.ok bs)) s =
    .next (mbxDone s via 1 bs.length (imgCheck bs)) := by
  show execWriteStarter via (.ok bs) s = _
  simp [execWriteStarter, h, hBad]

theorem execUnlock_of_failed : exec (.unlock via .failed) s =
    .next (mbxDone s via 2 (fld s.pkg.sec.mbxCtl 22 0) 5) := by
  show execUnlock via .failed s = _
  simp [execUnlock, h]

theorem execUnlock_of_read (bs : List Byte) : exec (.unlock via (.ok bs)) s =
    .next (mbxDone (if tokenCheck s bs = 0 then zeroise s else s) via 2 bs.length (tokenCheck s bs)) := by
  show execUnlock via (.ok bs) s = _
  simp [execUnlock, h]

end

/-- The slots after an image has been written into the one not in use (R427). -/
def withStarter (s : State) (bs : List Byte) : State :=
  let x := s.pkg.sec
  let n : NorSlot := { seq := x.seq + 1, valid := true, image := bs.take (getLE bs 8 4) }
  let keep (y : NorSlot) : NorSlot := { y with valid := y.valid && x.dirOk }
  { s with pkg.sec := { x with
    slotA := if x.slot = 0 then keep x.slotA else n, slotB := if x.slot = 0 then n else keep x.slotB, dirOk := true } }

theorem execWriteStarter_of_good {s : State} {via : Option (Fin 64)} (h : mayMbx s via = true) {bs : List Byte}
    (hGood : imgCheck bs = 0) : exec (.writeStarter via (.ok bs)) s = .next (mbxDone (withStarter s bs) via 1 bs.length 0) := by
  show execWriteStarter via (.ok bs) s = _
  simp only [execWriteStarter, h, hGood, Bool.not_true, Bool.false_eq_true, if_false, ne_eq, not_true_eq_false]
  rfl

/-- Every tile of a sealed range loses its bytes with the keys (R434). -/
theorem home_zeroise {s : State} {x : Nat × Nat × Nat} (hx : x ∈ s.tier.sealed) {i : Nat} (hi : i < x.2.2) :
    ((zeroise s).home (x.2.1 + i)).st = .poisoned :=
  foldl_establishes (I := fun _ => True) (a := x.2.1 + i)
    (P := fun t => (tgetD t (x.2.1 + i) ({} : Home)).st = .poisoned) (fun _ _ _ => trivial)
    (fun t _ => by rw [tgetD_tput_same]) (fun t j _ hj hP => by rw [tgetD_tput_ne _ _ _ _ _ (Ne.symm hj)]; exact hP) _
    (List.mem_flatMap.mpr ⟨x, hx, List.mem_map.mpr ⟨i, List.mem_range.mpr hi, rfl⟩⟩) _ trivial

theorem secrets_zeroise (s : State) :
    (zeroise s).pkg.sec.id = .zeroised ∧ (zeroise s).pkg.sec.testOpen = true ∧ (zeroise s).pkg.sec.secret = [] :=
  ⟨rfl, rfl, rfl⟩

theorem sessions_zeroise (s : State) {kv : Nat × SpdmConn} (h : kv ∈ (zeroise s).pkg.sec.spdm) :
    kv.2.sess = [] ∧ kv.2.ide = [] ∧ kv.2.ideOn = [] := by
  obtain ⟨x, -, hx⟩ := List.mem_map.mp h
  rw [← hx]
  exact ⟨rfl, rfl, rfl⟩

/-! The orderly stop. -/

theorem execOrderlyStop_of_running {s : State} {via : Option (Fin 64)} (hMay : mayMbx s via = true)
    (hRun : running s = true) (hStop : s.pkg.sec.stop = .running) :
    exec (.orderlyStop via) s = .next (settleStop
      { s with pkg.sec := { s.pkg.sec with stop := .stopping, stopEpoch := epochOf s s.now } }) := by
  have hBegin : beginStop s = { s with pkg.sec := { s.pkg.sec with stop := .stopping, stopEpoch := epochOf s s.now } } := by
    simp [beginStop, hStop]
  show execOrderlyStop via s = _
  rw [execOrderlyStop, hMay, hRun, hBegin]
  rfl

theorem execOrderlyStop_of_idle {s : State} {via : Option (Fin 64)}
    (h : mayMbx s via = false ∨ running s = false ∨ (s.pkg.sec.stop = .stopping ∧ stopReady s = false)) :
    exec (.orderlyStop via) s = .next s := by
  show execOrderlyStop via s = _
  rcases h with h | h | ⟨hStop, hReady⟩
  · simp [execOrderlyStop, h]
  · simp [execOrderlyStop, h]
  · simp [execOrderlyStop, beginStop, settleStop, hStop, hReady]

/-- Tiles on their way to flash: nothing but the flash, the counters, homes and the dirty marks differs. -/
def onlyTilesStored (s t : State) : Prop :=
  ∃ flash pmc home dirty, t = { s with flash := flash, pmc := pmc, tier := { s.tier with home := home, dirty := dirty } }

/-- One tile goes back to its flash tile (R197). -/
def tileToFlash (x : State) (t : Nat) : State :=
  let x1 := if intervalPoisoned x t 0 tileBytes then x else flashStore x (flashTileAddr x t) (homeRead x t 0 tileBytes)
  { x1.setHome t ⟨.home, 3, t⟩ with tier.dirty := terase x1.tier.dirty t }

theorem tileToFlash_stored (s : State) (k : Nat) : ∃ flash pmc dirty, tileToFlash s k =
    { s with flash := flash, pmc := pmc, tier := { s.tier with home := tput s.tier.home k ⟨.home, 3, k⟩, dirty := dirty } } := by
  obtain ⟨flash, pmc, h⟩ : onlyFlash s (if intervalPoisoned s k 0 tileBytes then s
      else flashStore s (flashTileAddr s k) (homeRead s k 0 tileBytes)) := by
    split
    · exact .refl s
    · exact flashStore_onlyFlash ..
  refine ⟨flash, pmc, terase s.tier.dirty k, ?_⟩
  rw [tileToFlash, h]
  rfl

theorem tilesToFlash_onlyTilesStored (s : State) : onlyTilesStored s (tilesToFlash s) :=
  List.foldlRecOn _ tileToFlash (motive := onlyTilesStored s) ⟨_, _, _, _, rfl⟩ fun t ht k _ => by
    obtain ⟨_, _, _, _, rfl⟩ := ht
    obtain ⟨_, _, _, h⟩ := tileToFlash_stored _ k
    exact ⟨_, _, _, _, h⟩

theorem mem_of_tget? {α : Type} {t : Tab α} {k : Nat} {a : α} (h : tget? t k = some a) : (k, a) ∈ t := by
  induction t with
  | nil => cases h
  | cons x t ih =>
    obtain ⟨j, b⟩ := x
    simp only [tget?] at h
    split at h
    · next hk => subst hk; obtain rfl := Option.some.inj h; exact List.mem_cons_self ..
    · exact List.mem_cons_of_mem _ (ih h)

/-- A flash-backed tile that is not in flash goes there (R197). -/
theorem tget?_tilesToFlash {s : State} {k : Nat} {h : Home} (hHome : tget? s.tier.home k = some h)
    (hBacked : flashBacked s k = true) (hTier : h.tier ≠ 3) (hSt : h.st ≠ .unmapped) :
    tget? (tilesToFlash s).tier.home k = some ⟨.home, 3, k⟩ := by
  have hOwn : s.home k = h := by rw [State.home, tgetD, hHome]; rfl
  refine foldl_establishes (f := tileToFlash) (I := fun _ => True) (a := k)
    (P := fun t => tget? t.tier.home k = some ⟨.home, 3, k⟩) (fun _ _ _ => trivial) (fun t _ => ?_) (fun t j _ hj hP => ?_) _
    (List.mem_filter.mpr ⟨List.mem_map_of_mem (f := Prod.fst) (mem_of_tget? hHome), ?_⟩) s trivial
  · obtain ⟨_, _, _, ht⟩ := tileToFlash_stored t k
    rw [ht]
    exact tget?_tput_same ..
  · obtain ⟨_, _, _, ht⟩ := tileToFlash_stored t j
    rw [ht]
    exact (tget?_tput_ne _ _ _ _ (Ne.symm hj)).trans hP
  · simp [hOwn, hBacked, hTier, hSt]

/-- A port that has gone down (R279, R398). -/
def downedPort (s : State) (k : Nat) : Port :=
  { s.port k with st := .down, lanes := 0, retry := [], downT := s.now, reason := if portUp s k then 1 else (s.port k).reason }

/-- One port goes down, and the loss of a link that was up is counted. -/
def portOff (s : State) (k : Nat) : State :=
  if portUp s k then countNode (s.setPort k (downedPort s k)) Ev.linkDown k else s.setPort k (downedPort s k)

theorem portOff_down (s : State) (k : Nat) : ∃ p pmc, p.st = .down ∧
    portOff s k = { s with fab.ports := tput s.fab.ports k p, pmc := pmc } := by
  refine ⟨downedPort s k, ?_⟩
  unfold portOff
  split
  · obtain ⟨pmc, hCount⟩ := count_onlyCounters (s.setPort k (downedPort s k)) (ownerPart s) Ev.linkDown k 1
    exact ⟨pmc, rfl, hCount⟩
  · exact ⟨_, rfl, rfl⟩

theorem portsOff (s : State) : ∃ ports pmc, (List.range 32).foldl portOff s = { s with fab.ports := ports, pmc := pmc } :=
  List.foldlRecOn _ portOff (motive := fun t => ∃ ports pmc, t = { s with fab.ports := ports, pmc := pmc }) ⟨_, _, rfl⟩
    fun t ht k _ => by
      obtain ⟨_, _, rfl⟩ := ht
      obtain ⟨_, _, -, h⟩ := portOff_down _ k
      exact ⟨_, _, h⟩

theorem port_of_portsOff (s : State) {k : Nat} (hk : k < 32) : (((List.range 32).foldl portOff s).port k).st = .down :=
  foldl_establishes (f := portOff) (I := fun _ => True) (a := k) (P := fun t => (t.port k).st = .down)
    (fun _ _ _ => trivial)
    (fun t _ => by
      obtain ⟨p, _, hp, h⟩ := portOff_down t k
      rw [h]
      exact (congrArg Port.st (tgetD_tput_same ..)).trans hp)
    (fun t j _ hj hP => by
      obtain ⟨p, _, -, h⟩ := portOff_down t j
      rw [h]
      exact (congrArg Port.st (tgetD_tput_ne _ _ _ _ _ (Ne.symm hj))).trans hP) _ (List.mem_range.mpr hk) s trivial

/-- The transmitters, links and domains go off; nothing of the tiers, the epochs or the errors changes (R440). -/
theorem outputsOff_dark (s : State) :
    let t := outputsOff s
    t.pkg = { s.pkg with pwr := { s.pkg.pwr with domOn := 1 } } ∧ t.host.portA.up = false ∧ t.host.portB.up = false ∧
      (∀ k, k < 32 → (t.port k).st = .down) ∧ t.tier = s.tier ∧ t.epo = s.epo ∧ t.err = s.err ∧
      t.flash.ckptSeq = s.flash.ckptSeq ∧ t.flash.wseq = s.flash.wseq := by
  obtain ⟨ports, pmc, hOff⟩ := portsOff s
  have hPort := @port_of_portsOff s
  unfold outputsOff
  extract_lets down s1 s2
  have hs1 : s1 = (List.range 32).foldl portOff s := rfl
  rw [hOff] at hs1
  rw [hOff] at hPort
  have hs2 : s2 = linkDown (linkDown s1 0) 1 := rfl
  rw [hs1] at hs2
  clear_value s2
  subst hs2
  exact ⟨rfl, rfl, rfl, fun k hk => hPort hk, rfl, rfl, rfl, rfl, rfl⟩

/-- The record of the stop goes to the ring in the NOR; nothing else changes (R416). -/
theorem norRecord_records (s : State) (r : ErrRec) : ∃ recs, norRecord s r = { s with pkg.sec.faultRecs := recs } := ⟨_, rfl⟩

/-- The node at the end of an orderly stop (R440). -/
theorem finishStop_ends (s : State) :
    let t := finishStop s
    t.pkg.sec.stop = .stopped ∧ t.pkg.pwr.domOn = 1 ∧ t.host.portA.up = false ∧ t.host.portB.up = false ∧
      (∀ k, k < 32 → (t.port k).st = .down) ∧
      (∀ k, (s.pkg.sec.parts.map (·.1)).contains k = true → tget? t.epo.durable k = some s.epo.closed) ∧
      t.tier = (tilesToFlash s).tier ∧ t.flash.ckptSeq = t.flash.wseq ∧ t.err.fault = s.err.fault := by
  obtain ⟨flash, pmc, home, dirty, hTiles⟩ := tilesToFlash_onlyTilesStored s
  unfold finishStop
  extract_lets s1 ps _ _ s2 s3
  have hs1 : s1 = { s with flash := flash, pmc := pmc, tier := { s.tier with home := home, dirty := dirty } } := hTiles
  obtain ⟨recs, hRec⟩ := norRecord_records s2 (stopRecord s2)
  obtain ⟨hPkg, hA, hB, hPorts, hTier, hEpo, hErr, hCkpt, hSeq⟩ := outputsOff_dark (norRecord s2 (stopRecord s2))
  have hs3 : s3 = outputsOff (norRecord s2 (stopRecord s2)) := rfl
  rw [← hs3] at hPkg hA hB hPorts hTier hEpo hErr hCkpt hSeq
  rw [hRec] at hPkg hTier hEpo hErr hCkpt hSeq
  clear_value s3
  have hParts : ps = s.pkg.sec.parts.map (·.1) := by rw [show ps = s1.pkg.sec.parts.map (·.1) from rfl, hs1]
  refine ⟨rfl, congrArg (·.pwr.domOn) hPkg, hA, hB, hPorts, fun k hk => ?_, hTier, hCkpt.trans hSeq.symm, ?_⟩
  · have hk : k ∈ ps := by rw [hParts]; exact List.contains_iff_mem.mp hk
    refine (congrArg (tget? ·.durable k) hEpo).trans ((tget?_foldl_tput (fun _ => s1.epo.closed) ps hk s1.epo.durable).trans ?_)
    rw [hs1]
  · refine (congrArg (·.fault) hErr).trans ?_
    rw [show s2.err = s1.err from rfl, hs1]

end Sys2Proof.Machine
end

section
/-!
The start, the mailbox and the orderly stop, assembled (R31, R413, R414, R426, R427, R429, R433, R434, R440, R442).
-/
namespace Sys2Proof.Machine

section
variable {s : State} {via : Option (Fin 64)} (h : mayMbx s via = true)
include h

theorem execEnroll_of_none (hNone : s.pkg.sec.id = .none_) (hHealthy : s.pkg.sec.healthy = true) : exec (.enroll via) s =
    .next (let s1 := takeIdentity { s with freeCtr := s.freeCtr + 2 } (Config.randomBytes s.freeCtr 32) .uncertified
      mbxDone { s1 with pkg.sec := { s1.pkg.sec with helper := Config.randomBytes (s.freeCtr + 1) 65536, cert := [] } }
        via 3 0 0) := by
  show execEnroll via s = _
  simp only [execEnroll, h, hNone, hHealthy, Bool.not_true, Bool.false_eq_true, if_false, beq_self_eq_true, Bool.and_self,
    if_true]

theorem execEnroll_of_state (hState : s.pkg.sec.id ≠ .none_ ∨ s.pkg.sec.healthy = false) :
    exec (.enroll via) s = .next (mbxDone s via 3 0 8) := by
  show execEnroll via s = _
  rcases hState with hState | hState <;> simp [execEnroll, h, hState]

end

theorem execStartSequence_waits {s : State} (hPhase : s.pkg.sec.phase = 2)
    (hWait : s.pkg.pwr.pgMain = false ∨ anyCore s = false) (io : StartIn) : exec (.startSequence io) s = .next s := by
  have hNot : (s.pkg.pwr.pgMain && anyCore s) = false := by
    rcases hWait with h | h <;> simp [h]
  show execStartSequence io s = _
  simp only [execStartSequence, hPhase, OfNat.ofNat_ne_one, if_false, Bool.and_assoc, hNot, Bool.and_false, Bool.false_eq_true,
    ite_self]

/-- The first half of a start in which a core passes (R397, R414, R417). -/
theorem execStartSequence_startView {s : State} {io : StartIn} (hLit : startLit s) (hPhase : s.pkg.sec.phase = 1)
    (hMain : s.pkg.pwr.pgMain = false) (hCore : ([0, 1, 2].any fun i => !io.coreFail.contains i) = true) :
    exec (.startSequence io) s = .next (startRows s io) ∧
      (startRows s io).startView = ((slotOrder s).find? fun x => imgCheck x.2.image == 0).elim
        { (coresStarted s io).startView with slot := 3 } fun y =>
        { (coresStarted s io).startView with
          slot := y.1, seq := y.2.seq, starterDig := imgDigest y.2.image, keys := imgKeys y.2.image
          node := getLE (blockOf y.2.image 3) 0 1
          mgrs := (List.range (getLE (blockOf y.2.image 3) 1 1)).map fun i => getLE (blockOf y.2.image 3) (8 + i) 1 } := by
  refine ⟨?_, startRows_startView ((anyCore_eq (coresStarted_cores s io)).trans hCore)⟩
  rw [execStartSequence_first hLit hPhase, hMain]
  rfl

/-- With every core failed the start stops at its first row (R397, R414). -/
theorem execStartSequence_of_no_core {s : State} {io : StartIn} (hLit : startLit s) (hPhase : s.pkg.sec.phase = 1)
    (hFail : ([0, 1, 2].all fun i => io.coreFail.contains i) = true) :
    exec (.startSequence io) s = .next (coresStarted s io) ∧ (coresStarted s io).err.primary = 3 ∧
      (coresStarted s io).err.noCoreT = some s.now := by
  simp only [List.all_cons, List.all_nil, Bool.and_true, Bool.and_eq_true] at hFail
  obtain ⟨h0, h1, h2⟩ := hFail
  have hNone : anyCore (coresStarted s io) = false := by
    rw [anyCore_eq (coresStarted_cores s io)]
    simp only [List.any_cons, List.any_nil, h0, h1, h2, Bool.not_true, Bool.or_self]
  refine ⟨?_, ?_, ?_⟩
  · rw [execStartSequence_first hLit hPhase, startRows_of_no_core hNone, hNone, Bool.and_false]
    rfl
  · have hFind : (List.range 3).find? (coreHealthy (coresStarted s io)) = none := List.find?_eq_none.mpr fun i hi => by
      simpa using List.any_eq_false.mp hNone i hi
    exact congrArg (·.getD 3) hFind
  · exact congrArg (fun b : Bool => if b then none else some s.now) hNone

/-- The second half of a start whose image is applied, every cluster passing and nothing to recover (R31, R197, R414, R465). -/
theorem startDomains_of_clean {s : State} {io : StartIn} (hSlot : s.pkg.sec.slot ≠ 3) (hFail : io.clusterFail = [])
    (hHist : s.work.fenceHist = []) (hLog : s.epo.flashLog = []) (hSealed : s.tier.sealed = []) :
    let t := startDomains s io
    t.pkg = { (poweredOn s).pkg with sec := { (poweredOn s).pkg.sec with recovered := true } } ∧
      t.work = (recoveredNode s io).work ∧ t.tier = (recoveredNode s io).tier ∧
      (s.err.fault = false ∧ s.pkg.sec.stop ≠ .stopped ∧ s.pkg.sec.testOpen = false ∧ s.pkg.pwr.inReset = false →
        t.mbr.lastHello = s.now) := by
  obtain ⟨hPkg, hErr, hNow, -⟩ := recoveredNode_of_clean (io := io) hFail hHist hLog hSealed
  have hSilent : silentNode (recoveredNode s io) =
      (s.pkg.sec.stop == .stopped || s.pkg.sec.testOpen || s.pkg.pwr.inReset || s.err.fault) := by
    rw [silentNode, hPkg, hErr]
    rfl
  rw [startDomains_of_slot hSlot]
  generalize recoveredNode s io = u at *
  split
  · next hYes =>
    refine ⟨hPkg, rfl, rfl, fun ⟨hFault, hStop, hTest, hReset⟩ => absurd hYes ?_⟩
    simp [hSilent, hFault, hStop, hTest, hReset]
  · obtain ⟨_, _, _, _, hSent⟩ := sendHello_onlySent u
    rw [hSent]
    exact ⟨hPkg, rfl, rfl, fun _ => hNow⟩

/-- Settles O55: the start row by row, then the mailbox operations and the orderly stop by the outcome of each. -/
theorem startRunsAndMailboxServes : Obligations.StartRunsAndMailboxServes := by
  unfold Obligations.StartRunsAndMailboxServes
  refine ⟨?idle, ?first, ?noCore, ?noSlot, ?second, ?writeNo, ?writeFailed, ?write, ?unlockNo, ?unlockFailed, ?unlock, ?enrollNo,
    ?enroll, ?enrollState, ?stopIdle, ?stopWaits, ?stopEnds⟩
  case idle =>
    rintro s io (h | h | h | h | h | ⟨hPhase, hWait⟩)
    · exact execStartSequence_idle (.inl h) io
    · exact execStartSequence_idle (.inr (.inl h)) io
    · exact execStartSequence_idle (.inr (.inr (.inl h))) io
    · exact execStartSequence_idle (.inr (.inr (.inr (.inl h)))) io
    · exact execStartSequence_idle (.inr (.inr (.inr (.inr h)))) io
    · exact execStartSequence_waits hPhase hWait io
  case first =>
    rintro s io ⟨hPhase, hMain⟩ hLit hCore
    obtain ⟨hExec, hView⟩ := execStartSequence_startView hLit hPhase hMain hCore
    generalize startRows s io = t at hExec hView
    refine ⟨t, hExec, ?_⟩
    have hCores (v : StartView) (hv : v.cores = (coresStarted s io).err.cores) (i : Nat) (hi : i < 3) :
        tget? v.cores i = some (if io.coreFail.contains i then CoreState.failed else CoreState.healthy) := by
      rw [hv, coresStarted_cores]
      exact tget?_core hi
    have hField {α : Type} (f : StartView → α) := congrArg f hView
    cases hFind : (slotOrder s).find? fun x => imgCheck x.2.image == 0 with
    | none =>
      rw [hFind] at hField
      exact ⟨hField (·.phase), hField (·.nonce), hField (·.inReset), hField (·.slot), hField (·.seq), hField (·.starterDig),
        hField (·.keys), hField (·.node), hField (·.mgrs), hCores t.startView (hField (·.cores))⟩
    | some y =>
      rw [hFind] at hField
      exact ⟨hField (·.phase), hField (·.nonce), hField (·.inReset), hField (·.slot), hField (·.seq), hField (·.starterDig),
        hField (·.keys), hField (·.node), hField (·.mgrs), hCores t.startView (hField (·.cores))⟩
  case noCore =>
    intro s io hPhase hLit hFail
    obtain ⟨hExec, hPrimary, hNoCore⟩ := execStartSequence_of_no_core hLit hPhase hFail
    exact ⟨_, hExec, rfl, rfl, hPrimary, hNoCore, rfl, rfl, rfl, rfl, rfl⟩
  case noSlot =>
    rintro s io ⟨hPhase, hMain, hSlot, hCore⟩ hLit
    rw [execStartSequence_second hLit hPhase, hMain, hCore, startDomains_of_no_slot hSlot]
    rfl
  case second =>
    rintro s io ⟨hPhase, hMain, hSlot, hCore⟩ hLit ⟨hFail, hHist, hLog, hSealed⟩
    obtain ⟨-, -, -, hIdx, hFence, hHeld, hPlaced, hNbs, hHomes⟩ := recoveredNode_of_clean (io := io) hFail hHist hLog hSealed
    obtain ⟨hPkg, hWork, hTier, hHello⟩ := startDomains_of_clean (io := io) hSlot hFail hHist hLog hSealed
    refine ⟨startDomains s io, ?_, ?_⟩
    · rw [execStartSequence_second hLit hPhase, hMain, hCore]
      rfl
    generalize startDomains s io = t at hPkg hWork hTier hHello
    have hPlaced (r : Nat) (hr : r < 8) := regionPlaced_congr (t := t) (congrArg (·.clusters) hWork) (congrArg (·.phys) hWork)
      (hPlaced r hr)
    rw [← hWork] at hIdx hFence hNbs
    rw [← hTier] at hHeld hHomes
    refine ⟨congrArg (·.sec.phase) hPkg, congrArg (·.pwr.domOn) hPkg, congrArg (·.sec.recovered) hPkg, hIdx, hFence, hHeld,
      fun r k hr hk => ?_, fun r hr hOn => ?_, hNbs, hHomes, hHello⟩
    · exact (hPlaced r hr).1 k hk
    · exact (hPlaced r hr).2 hOn
  case writeNo => exact fun s via data h => (exec_mailbox_refused h data).1
  case writeFailed => exact fun s via h => execWriteStarter_of_failed h
  case write =>
    intro s via bs hMay
    by_cases hGood : imgCheck bs = 0
    · exact ⟨_, execWriteStarter_of_good hMay hGood, fun hBad => absurd hGood hBad, fun _ => rfl⟩
    · exact ⟨_, execWriteStarter_of_bad hMay hGood, fun _ => rfl, fun h => absurd h hGood⟩
  case unlockNo => exact fun s via data h => (exec_mailbox_refused h data).2.1
  case unlockFailed => exact fun s via h => execUnlock_of_failed h
  case unlock =>
    intro s via bs hMay
    refine ⟨_, execUnlock_of_read hMay bs, rfl, rfl, fun hBad => ?_, fun hGood => ?_⟩
    · rw [if_neg hBad]
      rfl
    · rw [if_pos hGood]
      obtain ⟨hId, hTest, hSecret⟩ := secrets_zeroise s
      have hSess := @sessions_zeroise s
      have hHome := @home_zeroise s
      generalize zeroise s = u at hId hTest hSecret hSess hHome ⊢
      exact ⟨hId, hTest, hSecret, fun kv hkv => hSess hkv, fun x hx i hi => hHome hx hi⟩
  case enrollNo => exact fun s via h => (exec_mailbox_refused h .failed).2.2
  case enroll =>
    rintro s via hMay ⟨hNone, hHealthy⟩
    exact execEnroll_of_none hMay hNone hHealthy
  case enrollState => exact fun s via hMay h => execEnroll_of_state hMay h
  case stopIdle => exact fun s via h => execOrderlyStop_of_idle h
  case stopWaits =>
    rintro s via ⟨hMay, hRun, hStop⟩ hBusy
    rw [execOrderlyStop_of_running hMay hRun hStop, settleStop]
    refine congrArg Host.Outcome.next (if_neg ?_)
    rcases hBusy with h | h <;> simp [stopReady, h]
  case stopEnds =>
    rintro s via ⟨hMay, hRun, hStop⟩ ⟨hCmds, hQueries, hEpochs⟩
    have hReady : stopReady { s with pkg.sec := { s.pkg.sec with stop := .stopping, stopEpoch := epochOf s s.now } } = true := by
      simp [stopReady, hCmds, hQueries, hEpochs]
    rw [execOrderlyStop_of_running hMay hRun hStop, settleStop, if_pos hReady]
    obtain ⟨hStopped, hDom, hA, hB, hPorts, hDurable, hTier, hCkpt, hFault⟩ :=
      finishStop_ends { s with pkg.sec := { s.pkg.sec with stop := .stopping, stopEpoch := epochOf s s.now } }
    generalize finishStop { s with pkg.sec := { s.pkg.sec with stop := .stopping, stopEpoch := epochOf s s.now } } = u
      at hStopped hDom hA hB hPorts hDurable hTier hCkpt hFault ⊢
    refine ⟨u, rfl, hStopped, hDom, hA, hB, hPorts, hDurable, fun k h hHome hBacked hNot hMapped => ?_, hCkpt, hFault⟩
    rw [hTier]
    exact tget?_tilesToFlash hHome hBacked hNot hMapped

end Sys2Proof.Machine
end

section
/-!
The one form of the byte memories and of the tables of work, and what keeps it (R26, R191, R352). `KeepsForm s t` says it of both
halves at once; a function of the model keeps the form when its result stands in `KeepsForm s` as soon as its argument does.
-/
namespace Sys2Proof.Machine

/-! Entries of a changed table. -/

section
variable {α : Type}

theorem mem_of_mem_terase {t : Tab α} {k : Nat} {x : Nat × α} (h : x ∈ terase t k) : x ∈ t := by
  induction t with
  | nil => exact h
  | cons y t ih =>
    obtain ⟨j, b⟩ := y
    simp only [terase] at h
    split at h
    · exact List.mem_cons_of_mem _ h
    · exact (List.mem_cons.mp h).elim (fun hx => hx ▸ List.mem_cons_self ..) fun h => List.mem_cons_of_mem _ (ih h)

theorem mem_tput {t : Tab α} {k : Nat} {a : α} {x : Nat × α} (h : x ∈ tput t k a) : x = (k, a) ∨ x ∈ t := by
  induction t with
  | nil => exact .inl (List.mem_singleton.mp h)
  | cons y t ih =>
    obtain ⟨j, b⟩ := y
    simp only [tput] at h
    split at h
    · exact (List.mem_cons.mp h).imp_right (List.mem_cons_of_mem _)
    · split at h
      · exact List.mem_cons.mp h
      · rcases List.mem_cons.mp h with hx | h
        · exact .inr (hx ▸ List.mem_cons_self ..)
        · exact (ih h).imp_right (List.mem_cons_of_mem _)

/-- What holds of every entry of a table holds after a change that makes it hold of the new one. -/
theorem forall_mem_tput {P : α → Prop} {t : Tab α} {k : Nat} {a : α} (h : ∀ j b, (j, b) ∈ t → P b) (ha : P a) :
    ∀ j b, (j, b) ∈ tput t k a → P b := fun j b hb => by
  rcases mem_tput hb with hx | hb
  · obtain ⟨-, rfl⟩ := Prod.mk.inj hx
    exact ha
  · exact h j b hb

theorem forall_mem_terase {P : α → Prop} {t : Tab α} {k : Nat} (h : ∀ j b, (j, b) ∈ t → P b) :
    ∀ j b, (j, b) ∈ terase t k → P b := fun j b hb => h j b (mem_of_mem_terase hb)

theorem forall_mem_map {P : α → Prop} {t : Tab α} {f : Nat × α → Nat × α} (h : ∀ j b, (j, b) ∈ t → P b)
    (hf : ∀ x, P x.2 → P (f x).2) : ∀ j b, (j, b) ∈ t.map f → P b := fun j b hb => by
  obtain ⟨x, hx, he⟩ := List.mem_map.mp hb
  have hx := hf x (h x.1 x.2 hx)
  rw [he] at hx
  exact hx

theorem forall_mem_tupd {P : α → Prop} {t : Tab α} {k : Nat} {f : α → α} (h : ∀ j b, (j, b) ∈ t → P b)
    (hf : ∀ a, P a → P (f a)) : ∀ j b, (j, b) ∈ tupd t k f → P b := by
  unfold tupd
  split
  · exact h
  · next a ha => exact forall_mem_tput h (hf a (h k a (mem_of_tget? ha)))

/-- What holds of every entry and of the default holds of the entry read. -/
theorem forall_tgetD {P : α → Prop} {t : Tab α} {d : α} (h : ∀ j b, (j, b) ∈ t → P b) (hd : P d) (k : Nat) : P (tgetD t k d) := by
  unfold tgetD
  cases ha : tget? t k with
  | none => exact hd
  | some a => exact h k a (mem_of_tget? ha)

theorem tabWf_filter {t : Tab α} (p : Nat × α → Bool) (h : tabWf t = true) : tabWf (t.filter p) = true := tabFrom_filter p h

theorem tabWf_map {t : Tab α} {f : Nat × α → Nat × α} (hf : ∀ x, (f x).1 = x.1) (h : tabWf t = true) : tabWf (t.map f) = true := by
  have hMap : t.map f = tmap t fun k a => (f (k, a)).2 := List.map_congr_left fun x _ => Prod.ext (hf x) rfl
  exact hMap ▸ tabWf_tmap _ h

end

/-! The form. -/

/-- What the two invariants speak of: the memories, the moves, and the tables of work. -/
structure Form where
  mem : Mem
  lendMem : Mem
  flashMem : Mem
  moves : Tab Move
  invs : Tab Inv
  queries : Tab Query
  clusters : Tab Cluster
  colls : Tab Coll

abbrev State.form (s : State) : Form :=
  ⟨s.tier.mem, s.tier.lendMem, s.flash.mem, s.tier.moves, s.work.invs, s.work.queries, s.work.clusters, s.fab.colls⟩

/-- Every move's frozen copy is in its one form. -/
abbrev MovesWf (ms : Tab Move) : Prop := ∀ k m, (k, m) ∈ ms → memWf m.dmem = true

/-- Every cluster's scratch is in its one form. -/
abbrev ScratchWf (cs : Tab Cluster) : Prop := ∀ k x, (k, x) ∈ cs → tabWf x.scratch = true

/-- If `s` has the memories, or the tables of work, in their one form, then so has `t`. -/
def KeepsForm (s t : State) : Prop := (MemInv s → MemInv t) ∧ (WorkInv s → WorkInv t)

section
variable {s t u : State}

theorem KeepsForm.refl (s : State) : KeepsForm s s := ⟨id, id⟩

theorem KeepsForm.update (h : KeepsForm s t) (hm : MemInv t → MemInv u) (hw : WorkInv t → WorkInv u) : KeepsForm s u :=
  ⟨hm ∘ h.1, hw ∘ h.2⟩

theorem KeepsForm.trans (h : KeepsForm s t) (h' : KeepsForm t u) : KeepsForm s u := h.update h'.1 h'.2

theorem memInv_iff_of_form (e : u.form = t.form) : MemInv u ↔ MemInv t := by
  obtain ⟨hMem, hLend, hFlash, hMoves, -⟩ := Form.mk.inj e
  rw [MemInv, MemInv, hMem, hLend, hFlash, hMoves]

theorem workInv_iff_of_form (e : u.form = t.form) : WorkInv u ↔ WorkInv t := by
  obtain ⟨-, -, -, -, hInvs, hQueries, hClusters, hColls⟩ := Form.mk.inj e
  rw [WorkInv, WorkInv, hInvs, hQueries, hClusters, hColls]

/-- A change of neither a memory nor a table of work. -/
theorem KeepsForm.frame (h : KeepsForm s t) (e : u.form = t.form) : KeepsForm s u :=
  h.update (memInv_iff_of_form e).mpr (workInv_iff_of_form e).mpr

/-! A change of one of the eight. -/

theorem KeepsForm.mem (h : KeepsForm s t) (hv : memWf t.tier.mem = true → memWf u.tier.mem = true)
    (e : u.form = { t.form with mem := u.tier.mem }) : KeepsForm s u :=
  (h.update (u := { t with tier.mem := u.tier.mem }) (fun ⟨hMem, hRest⟩ => ⟨hv hMem, hRest⟩) id).frame e

theorem KeepsForm.lendMem (h : KeepsForm s t) (hv : memWf t.tier.lendMem = true → memWf u.tier.lendMem = true)
    (e : u.form = { t.form with lendMem := u.tier.lendMem }) : KeepsForm s u :=
  (h.update (u := { t with tier.lendMem := u.tier.lendMem }) (fun ⟨hMem, hLend, hRest⟩ => ⟨hMem, hv hLend, hRest⟩) id).frame e

theorem KeepsForm.flashMem (h : KeepsForm s t) (hv : memWf t.flash.mem = true → memWf u.flash.mem = true)
    (e : u.form = { t.form with flashMem := u.flash.mem }) : KeepsForm s u :=
  (h.update (u := { t with flash.mem := u.flash.mem })
    (fun ⟨hMem, hLend, hFlash, hMoves⟩ => ⟨hMem, hLend, hv hFlash, hMoves⟩) id).frame e

theorem KeepsForm.moves (h : KeepsForm s t) (hv : MovesWf t.tier.moves → MovesWf u.tier.moves)
    (e : u.form = { t.form with moves := u.tier.moves }) : KeepsForm s u :=
  (h.update (u := { t with tier.moves := u.tier.moves })
    (fun ⟨hMem, hLend, hFlash, hMoves⟩ => ⟨hMem, hLend, hFlash, hv hMoves⟩) id).frame e

theorem KeepsForm.invs (h : KeepsForm s t) (hv : tabWf t.work.invs = true → tabWf u.work.invs = true)
    (e : u.form = { t.form with invs := u.work.invs }) : KeepsForm s u :=
  (h.update (u := { t with work.invs := u.work.invs }) id (fun ⟨hInvs, hRest⟩ => ⟨hv hInvs, hRest⟩)).frame e

theorem KeepsForm.queries (h : KeepsForm s t) (hv : tabWf t.work.queries = true → tabWf u.work.queries = true)
    (e : u.form = { t.form with queries := u.work.queries }) : KeepsForm s u :=
  (h.update (u := { t with work.queries := u.work.queries }) id
    (fun ⟨hInvs, hQueries, hRest⟩ => ⟨hInvs, hv hQueries, hRest⟩)).frame e

theorem KeepsForm.clusters (h : KeepsForm s t) (hv : tabWf t.work.clusters = true → tabWf u.work.clusters = true)
    (hs : ScratchWf t.work.clusters → ScratchWf u.work.clusters) (e : u.form = { t.form with clusters := u.work.clusters }) :
    KeepsForm s u :=
  (h.update (u := { t with work.clusters := u.work.clusters }) id
    (fun ⟨hInvs, hQueries, hClusters, hColls, hScratch⟩ => ⟨hInvs, hQueries, hv hClusters, hColls, hs hScratch⟩)).frame e

theorem KeepsForm.colls (h : KeepsForm s t) (hv : tabWf t.fab.colls = true → tabWf u.fab.colls = true)
    (e : u.form = { t.form with colls := u.fab.colls }) : KeepsForm s u :=
  (h.update (u := { t with fab.colls := u.fab.colls }) id
    (fun ⟨hInvs, hQueries, hClusters, hColls, hScratch⟩ => ⟨hInvs, hQueries, hClusters, hv hColls, hScratch⟩)).frame e

/-- A cluster that is read has its scratch in the one form. -/
theorem KeepsForm.scratch {c : Nat} (h : KeepsForm s t) (hs : WorkInv s) : tabWf (t.cl c).scratch = true := by
  obtain ⟨-, -, -, -, hScratch⟩ := h.2 hs
  exact forall_tgetD hScratch rfl c

theorem setCl_keepsForm {c : Nat} {x : Cluster} (h : KeepsForm s t) (hx : WorkInv s → tabWf x.scratch = true) :
    KeepsForm s (t.setCl c x) :=
  ⟨h.1, fun hs => by
    obtain ⟨hInvs, hQueries, hClusters, hColls, hScratch⟩ := h.2 hs
    exact ⟨hInvs, hQueries, tabWf_tput _ _ hClusters, hColls, forall_mem_tput hScratch (hx hs)⟩⟩

/-! Results that carry a state. -/

/-- The state that a read leaves. -/
def Got.state : Got → State
  | .ok _ t | .bad _ _ t | .wait t => t

def GotL.state : GotL → State
  | .ok _ t | .bad _ t | .wait t => t

def Served.state : Served → State
  | .done _ _ t | .queued t | .wait t => t

def Go.state : Go → State
  | .on t _ | .park t _ | .stop _ t _ => t

/-- As `KeepsForm`, for an outcome: a fault or a refusal leaves no state. -/
def ResKeeps (s : State) : Res → Prop
  | .next t => KeepsForm s t
  | _ => True

section
variable {α β : Type}

theorem KeepsForm.of_snd {p : α × State} {a : α} (e : p = (a, t)) (h : KeepsForm s p.2) : KeepsForm s t := by
  subst e; exact h

theorem KeepsForm.of_fst {p : State × α} {a : α} (e : p = (t, a)) (h : KeepsForm s p.1) : KeepsForm s t := by
  subst e; exact h

theorem KeepsForm.of_mid {p : α × State × β} {a : α} {b : β} (e : p = (a, t, b)) (h : KeepsForm s p.2.1) : KeepsForm s t := by
  subst e; exact h

theorem KeepsForm.of_last {p : α × β × State} {a : α} {b : β} (e : p = (a, b, t)) (h : KeepsForm s p.2.2) : KeepsForm s t := by
  subst e; exact h

theorem KeepsForm.of_got {g g' : Got} (e : g = g') (h : KeepsForm s g.state) : KeepsForm s g'.state := e ▸ h

theorem KeepsForm.of_gotL {g g' : GotL} (e : g = g') (h : KeepsForm s g.state) : KeepsForm s g'.state := e ▸ h

theorem KeepsForm.of_served {g g' : Served} (e : g = g') (h : KeepsForm s g.state) : KeepsForm s g'.state := e ▸ h

theorem KeepsForm.of_go {g g' : Go} (e : g = g') (h : KeepsForm s g.state) : KeepsForm s g'.state := e ▸ h

theorem KeepsForm.of_next {r : Res} (e : r = .next t) (h : ResKeeps s r) : KeepsForm s t := by
  subst e; exact h

theorem KeepsForm.of_some {o : Option State} (e : o = some t) (h : ∀ x ∈ o, KeepsForm s x) : KeepsForm s t := h t e

theorem KeepsForm.of_some_snd {o : Option (α × State)} {a : α} (e : o = some (a, t)) (h : ∀ x ∈ o, KeepsForm s x.2) :
    KeepsForm s t := h (a, t) e

theorem KeepsForm.of_some_last {o : Option (α × β × State)} {a : α} {b : β} (e : o = some (a, b, t))
    (h : ∀ x ∈ o, KeepsForm s x.2.2) : KeepsForm s t := h (a, b, t) e

theorem forall_mem_map_option {β : Type} {P : β → Prop} {f : α → β} {o : Option α} (h : ∀ x ∈ o, P (f x)) :
    ∀ y ∈ o.map f, P y := fun y hy => by
  obtain ⟨x, hx, rfl⟩ := Option.map_eq_some_iff.mp hy
  exact h x hx

theorem forall_mem_none {P : α → Prop} : ∀ x ∈ (none : Option α), P x := nofun

theorem forall_mem_some {P : α → Prop} {a : α} (h : P a) : ∀ x ∈ some a, P x := fun _ hx => Option.some.inj hx ▸ h

theorem foldl_keepsForm {f : State → α → State} {xs : List α} (h : KeepsForm s t)
    (hf : ∀ t x, KeepsForm s t → KeepsForm s (f t x)) : KeepsForm s (xs.foldl f t) :=
  List.foldlRecOn xs f (motive := KeepsForm s) h fun t ht x _ => hf t x ht

theorem foldl_snd_keepsForm {f : β × State → α → β × State} {p : β × State} {xs : List α} (h : KeepsForm s p.2)
    (hf : ∀ p x, KeepsForm s p.2 → KeepsForm s (f p x).2) : KeepsForm s (xs.foldl f p).2 :=
  List.foldlRecOn xs f (motive := fun p => KeepsForm s p.2) h fun p hp x _ => hf p x hp

theorem foldl_fst_keepsForm {f : State × β → α → State × β} {p : State × β} {xs : List α} (h : KeepsForm s p.1)
    (hf : ∀ p x, KeepsForm s p.1 → KeepsForm s (f p x).1) : KeepsForm s (xs.foldl f p).1 :=
  List.foldlRecOn xs f (motive := fun p => KeepsForm s p.1) h fun p hp x _ => hf p x hp

end
end
end Sys2Proof.Machine
end

section
/-!
Each function of `Machine.Flags` keeps the form: one lemma per function, in the file's order.
-/
namespace Sys2Proof.Machine
variable {s t : State}

theorem count_keepsForm {part ev qual n : Nat} (h : KeepsForm s t) : KeepsForm s (count t part ev qual n) := by
  unfold count
  split
  · exact h
  · exact h.frame rfl

theorem countCls_keepsForm {c ev qual n : Nat} (h : KeepsForm s t) : KeepsForm s (countCls t c ev qual n) := by
  unfold countCls
  split
  · exact h
  · exact count_keepsForm (h.frame rfl)

theorem countLate_keepsForm {part : Nat} (h : KeepsForm s t) : KeepsForm s (countLate t part) :=
  count_keepsForm h

theorem wasteSlot_keepsForm {c n : Nat} (h : KeepsForm s t) : KeepsForm s (wasteSlot t c n) := by
  unfold wasteSlot
  extract_lets dec _
  split
  · exact h
  · exact h.frame rfl

theorem satCount_keepsForm {c slot conv clip : Nat} (h : KeepsForm s t) : KeepsForm s (satCount t c slot conv clip) := by
  unfold satCount
  extract_lets x
  split
  · exact setCl_keepsForm h h.scratch

theorem satLast_keepsForm {c slot : Nat} (h : KeepsForm s t) : KeepsForm s (satLast t c slot) := by
  unfold satLast
  extract_lets x
  split
  · extract_lets hit s1
    have hs1 : KeepsForm s s1 := setCl_keepsForm h h.scratch
    split
    · exact countCls_keepsForm hs1
    · exact hs1

theorem nonfinCount_keepsForm {c n : Nat} (h : KeepsForm s t) : KeepsForm s (nonfinCount t c n) := by
  unfold nonfinCount
  split
  · exact h
  · exact setCl_keepsForm h h.scratch

theorem accsatCount_keepsForm {c n : Nat} (h : KeepsForm s t) : KeepsForm s (accsatCount t c n) := by
  unfold accsatCount
  split
  · exact h
  · exact setCl_keepsForm h h.scratch

end Sys2Proof.Machine
end

section
/-!
Each function of `Machine.Ops` keeps the form: one lemma per function, in the file's order.
-/
namespace Sys2Proof.Machine
variable {s t : State}

theorem takeFree_keepsForm (h : KeepsForm s t) : KeepsForm s (takeFree t).2 :=
  h.frame rfl

theorem setFn_keepsForm {f : Nat} {x : Fn} (h : KeepsForm s t) : KeepsForm s (t.setFn f x) :=
  h.frame rfl

theorem setQ_keepsForm {f q : Nat} {x : Queue} (h : KeepsForm s t) : KeepsForm s (t.setQ f q x) :=
  setFn_keepsForm h

theorem setAdm_keepsForm {p : Nat} {x : Adm} (h : KeepsForm s t) : KeepsForm s (t.setAdm p x) :=
  h.frame rfl

theorem emit_keepsForm {o : Out} (h : KeepsForm s t) : KeepsForm s (t.emit o) :=
  h.frame rfl

theorem hostWrite_keepsForm {f gen addr : Nat} {bytes : List Byte} {ro : Bool} (h : KeepsForm s t) :
    KeepsForm s (hostWrite t f gen addr bytes ro) := by
  unfold hostWrite
  split
  · exact emit_keepsForm h
  · exact count_keepsForm h

theorem resultWrite_keepsForm {f gen addr : Nat} {bytes : List Byte} (h : KeepsForm s t) :
    KeepsForm s (resultWrite t f gen addr bytes) :=
  hostWrite_keepsForm h

theorem sendMsix_keepsForm {f vec : Nat} (h : KeepsForm s t) : KeepsForm s (sendMsix t f vec) := by
  unfold sendMsix
  split
  · exact count_keepsForm (emit_keepsForm h)
  · exact h

theorem ringWrite_keepsForm {f qi : Nat} {e : Entry} (h : KeepsForm s t) : KeepsForm s (ringWrite t f qi e) :=
  setQ_keepsForm (hostWrite_keepsForm h)

theorem signalCount_keepsForm {f qi : Nat} (h : KeepsForm s t) : KeepsForm s (signalCount t f qi) := by
  unfold signalCount
  extract_lets q n cnt
  split
  · exact h
  · split
    · exact sendMsix_keepsForm (setQ_keepsForm h)
    · exact setQ_keepsForm h

theorem postEntry_keepsForm {f qi : Nat} {e : Entry} (h : KeepsForm s t) : KeepsForm s (postEntry t f qi e) := by
  unfold postEntry
  extract_lets q s1 s11
  have hs1 : KeepsForm s s1 := count_keepsForm h
  have hs11 : KeepsForm s s11 := ringWrite_keepsForm h
  split
  · split
    · exact hs1
    · exact setQ_keepsForm hs1
  · split
    · exact count_keepsForm (setQ_keepsForm h)
    · split
      · exact hs11
      · exact signalCount_keepsForm hs11

theorem postCmd_keepsForm {c : Cmd} {status aux value : Nat} {nd disc : Bool} (h : KeepsForm s t) :
    KeepsForm s (postCmd t c status aux value nd disc) := by
  unfold postCmd
  extract_lets q
  split
  · exact count_keepsForm h
  · exact postEntry_keepsForm h

theorem endCmd_keepsForm {cid status aux value : Nat} {nd disc : Bool} (h : KeepsForm s t) :
    KeepsForm s (endCmd t cid status aux value nd disc) := by
  unfold endCmd
  split
  · exact h
  · extract_lets _ s1
    have hs1 : KeepsForm s s1 := postCmd_keepsForm (h.frame rfl)
    split
    · exact count_keepsForm hs1
    · exact hs1

theorem endCmd?_keepsForm {cid : Option Nat} {status aux value : Nat} {nd : Bool} (h : KeepsForm s t) :
    KeepsForm s (endCmd? t cid status aux value nd) := by
  unfold endCmd?
  split
  · exact h
  · exact endCmd_keepsForm h

theorem refuse_keepsForm {cid aux : Nat} (h : KeepsForm s t) : KeepsForm s (refuse t cid aux) :=
  endCmd_keepsForm h

theorem runCmd_keepsForm {cid : Nat} (h : KeepsForm s t) : KeepsForm s (runCmd t cid) :=
  h.frame rfl

theorem regCharge_keepsForm {part : Nat} {k : RegKind} {n : Nat} (h : KeepsForm s t) : KeepsForm s (regCharge t part k n) :=
  setAdm_keepsForm h

theorem regTry_keepsForm {part : Nat} {k : RegKind} {id n : Nat} (h : KeepsForm s t) :
    KeepsForm s (regTry t part k id n).2 := by
  unfold regTry
  extract_lets mine _
  split
  · exact regCharge_keepsForm (h.frame rfl)
  · split
    · exact h
    · exact count_keepsForm (h.frame rfl)

end Sys2Proof.Machine
end

section
/-!
Each function of `Machine.Host` keeps the form: one lemma per function, in the file's order.
-/
namespace Sys2Proof.Machine
variable {s t : State}

theorem refuseArrived_keepsForm {f qi aux : Nat} {quiet : Bool} {q : Queue} {a : Arrived} (h : KeepsForm s t) :
    KeepsForm s (refuseArrived t f qi aux quiet q a) :=
  count_keepsForm (postEntry_keepsForm h)

theorem enterWinerr_keepsForm {f qi slot cause ev : Nat} (h : KeepsForm s t) :
    KeepsForm s (enterWinerr t f qi slot cause ev) := by
  unfold enterWinerr
  extract_lets q s1 s2 q2 s3 s4
  have hs1 : KeepsForm s s1 := postEntry_keepsForm h
  have hs2 : KeepsForm s s2 := foldl_keepsForm hs1 (fun u x hu => refuseArrived_keepsForm hu)
  have hs3 : KeepsForm s s3 := setQ_keepsForm hs2
  have hs4 : KeepsForm s s4 := count_keepsForm hs3
  split
  · exact sendMsix_keepsForm hs4
  · exact hs4

theorem windowByte_keepsForm {f qi off : Nat} {b : Byte} (h : KeepsForm s t) : KeepsForm s (windowByte t f qi off b) := by
  unfold windowByte
  extract_lets q i sl sl1 q1 s1
  have hs1 : KeepsForm s s1 := setQ_keepsForm h
  split
  · exact h
  · split
    · exact enterWinerr_keepsForm h
    · exact count_keepsForm hs1

theorem windowBytes_keepsForm {f off : Nat} {bs : List Byte} (h : KeepsForm s t) : KeepsForm s (windowBytes t f off bs) := by
  induction bs generalizing t off with
  | nil => exact h
  | cons b bs ih =>
    unfold windowBytes
    refine ih ?_
    split
    · exact windowByte_keepsForm h
    · exact h

theorem execWindowWrite_keepsForm {fn : Fin 64} {off : Nat} {data : List Byte} (h : KeepsForm s t) :
    ResKeeps s (execWindowWrite fn off data t) := by
  unfold execWindowWrite
  extract_lets q ok
  split
  · exact count_keepsForm h
  · exact windowBytes_keepsForm h

theorem execWinPartial_keepsForm {fn : Fin 64} {q : Nat} (h : KeepsForm s t) : ResKeeps s (execWinPartial fn q t) := by
  unfold execWinPartial
  extract_lets qu late
  clear_value late
  split
  · split
    · exact enterWinerr_keepsForm h
    · exact h
  · exact h

theorem drainRing_keepsForm {f qi fuel : Nat} (h : KeepsForm s t) : KeepsForm s (drainRing f qi fuel t) := by
  induction fuel generalizing t with
  | zero => exact h
  | succ fuel ih =>
    unfold drainRing
    dsimp only
    split
    · exact h
    · split
      · exact h
      · refine ih ?_
        split
        · exact ringWrite_keepsForm (setQ_keepsForm h)
        · exact signalCount_keepsForm (ringWrite_keepsForm (setQ_keepsForm h))

theorem execCqHeadpPoll_keepsForm {fn : Fin 64} {q : Nat} {word : Option (BitVec 32)} (h : KeepsForm s t) :
    ResKeeps s (execCqHeadpPoll fn q word t) := by
  unfold execCqHeadpPoll
  extract_lets qu
  split
  · exact h
  · split
    · exact h
    · split
      · exact setQ_keepsForm h
      · extract_lets free
        exact drainRing_keepsForm (setQ_keepsForm h)

theorem execImodTimerExpire_keepsForm {fn : Fin 64} {q : Nat} (h : KeepsForm s t) :
    ResKeeps s (execImodTimerExpire fn q t) := by
  unfold execImodTimerExpire
  extract_lets qu us
  split
  · exact sendMsix_keepsForm (setQ_keepsForm h)
  · exact h

theorem writeQcfg_keepsForm {f qi : Nat} {value : W64} (h : KeepsForm s t) : KeepsForm s (writeQcfg t f qi value) := by
  unfold writeQcfg
  extract_lets q fn q1 q11 s1
  have hs1 : KeepsForm s s1 := count_keepsForm h
  split
  · exact h
  · split
    · exact setQ_keepsForm h
    · split
      · exact setQ_keepsForm h
      · split
        · exact setQ_keepsForm hs1
        · exact setQ_keepsForm h

theorem execQueueEnable_keepsForm {fn : Fin 64} {q : Nat} {value : W64} (h : KeepsForm s t) :
    ResKeeps s (execQueueEnable fn q value t) :=
  writeQcfg_keepsForm h

theorem execQueueDisable_keepsForm {fn : Fin 64} {q : Nat} {value : W64} (h : KeepsForm s t) :
    ResKeeps s (execQueueDisable fn q value t) :=
  writeQcfg_keepsForm h

theorem latchSample_keepsForm {f qi : Nat} (h : KeepsForm s t) : KeepsForm s (latchSample t f qi) := by
  unfold latchSample
  extract_lets q g s1 s2 _
  have hs1 : KeepsForm s s1 := setQ_keepsForm h
  have hs2 : KeepsForm s s2 := hostWrite_keepsForm hs1
  split
  · exact setQ_keepsForm h
  · split
    · exact hs2
    · exact setQ_keepsForm hs2

theorem execSampleLatch_keepsForm (h : KeepsForm s t) : ResKeeps s (execSampleLatch t) := by
  unfold execSampleLatch
  split
  · extract_lets qs _
    exact foldl_keepsForm (h.frame rfl) (fun u x hu => latchSample_keepsForm hu)
  · exact h

theorem refuseStandby_keepsForm {f : Nat} (h : KeepsForm s t) : KeepsForm s (refuseStandby t f) := by
  unfold refuseStandby
  refine foldl_keepsForm h (fun u x hu => ?_)
  extract_lets q as t1
  have ht1 : KeepsForm s t1 := setQ_keepsForm hu
  split
  · exact foldl_keepsForm ht1 (fun u1 x1 hu1 => refuseArrived_keepsForm hu1)
  · exact hu

theorem changePlaces_keepsForm {f : Nat} (h : KeepsForm s t) : KeepsForm s (changePlaces t f) := by
  unfold changePlaces
  extract_lets p olds s1 _
  have hs1 : KeepsForm s s1 := foldl_keepsForm h (fun u x hu => refuseStandby_keepsForm (setFn_keepsForm hu))
  exact count_keepsForm (setFn_keepsForm hs1)

theorem execTakeover_keepsForm {fn : Fin 64} (h : KeepsForm s t) : ResKeeps s (execTakeover fn t) := by
  unfold execTakeover
  split
  · exact changePlaces_keepsForm h
  · exact h

theorem execFailoverTimerExpire_keepsForm {part : Fin 32} (h : KeepsForm s t) :
    ResKeeps s (execFailoverTimerExpire part t) := by
  unfold execFailoverTimerExpire
  extract_lets of
  split
  · split
    · exact changePlaces_keepsForm h
    · exact h
  · exact h

theorem flrFn_keepsForm {f : Nat} (h : KeepsForm s t) : KeepsForm s (flrFn t f) :=
  setFn_keepsForm (count_keepsForm h)

theorem execFlr_keepsForm {fn : Fin 64} (h : KeepsForm s t) : ResKeeps s (execFlr fn t) :=
  flrFn_keepsForm h

theorem execBusMasterClear_keepsForm {fn : Fin 64} (h : KeepsForm s t) : ResKeeps s (execBusMasterClear fn t) := by
  unfold execBusMasterClear
  extract_lets x s1 _
  have hs1 : KeepsForm s s1 := count_keepsForm h
  exact setFn_keepsForm hs1

theorem execBusMasterSet_keepsForm {fn : Fin 64} (h : KeepsForm s t) : ResKeeps s (execBusMasterSet fn t) :=
  setFn_keepsForm h

theorem execRegWindowTick_keepsForm (h : KeepsForm s t) : ResKeeps s (execRegWindowTick t) := by
  unfold execRegWindowTick
  split
  · exact h.frame rfl
  · exact h

theorem linkDown_keepsForm {port : Nat} (h : KeepsForm s t) : KeepsForm s (linkDown t port) := by
  unfold linkDown
  split <;> exact h.frame rfl

theorem execPcieLinkDown_keepsForm {port : Fin 2} (h : KeepsForm s t) : ResKeeps s (execPcieLinkDown port t) :=
  linkDown_keepsForm h

theorem execPcieLinkUp_keepsForm {port : Fin 2} (h : KeepsForm s t) : ResKeeps s (execPcieLinkUp port t) := by
  unfold execPcieLinkUp
  split
  · exact h
  · split
    · split
      · exact h
      · exact h.frame rfl
    · split
      · exact h
      · exact h.frame rfl

end Sys2Proof.Machine
end

section
/-!
Each function of `Machine.Admission` keeps the form: one lemma per function, in the file's order.
-/
namespace Sys2Proof.Machine
variable {s t : State}

theorem execTokenRefill_keepsForm (h : KeepsForm s t) : ResKeeps s (execTokenRefill t) := by
  unfold execTokenRefill
  split
  · exact h.frame rfl
  · exact h

theorem writeBkt_keepsForm {f part mode rate burst : Nat} (h : KeepsForm s t) :
    KeepsForm s (writeBkt t f part mode rate burst) := by
  unfold writeBkt
  split
  · exact h
  · exact setAdm_keepsForm h

theorem execAdmBktNext_keepsForm {fn : Fin 64} {part : Fin 32} {rate burst : Nat} (h : KeepsForm s t) :
    ResKeeps s (execAdmBktNext fn part rate burst t) :=
  writeBkt_keepsForm h

theorem execAdmBktFull_keepsForm {fn : Fin 64} {part : Fin 32} {rate burst : Nat} (h : KeepsForm s t) :
    ResKeeps s (execAdmBktFull fn part rate burst t) :=
  writeBkt_keepsForm h

theorem execAdmBktEmpty_keepsForm {fn : Fin 64} {part : Fin 32} {rate burst : Nat} (h : KeepsForm s t) :
    ResKeeps s (execAdmBktEmpty fn part rate burst t) :=
  writeBkt_keepsForm h

theorem consume_keepsForm {y : Head} (h : KeepsForm s t) : KeepsForm s (consume t y).1 := by
  unfold consume
  extract_lets q cid c s1 _
  have hs1 : KeepsForm s s1 := setQ_keepsForm h
  exact hs1.frame rfl

theorem expireHead_keepsForm {y : Head} (h : KeepsForm s t) : KeepsForm s (expireHead t y) := by
  unfold expireHead
  split
  next heq => exact endCmd_keepsForm (.of_fst heq (consume_keepsForm h))

theorem execHeadDeadlineExpire_keepsForm {fn : Fin 64} {q : Nat} (h : KeepsForm s t) :
    ResKeeps s (execHeadDeadlineExpire fn q t) := by
  unfold execHeadDeadlineExpire
  split
  · exact h
  · split
    · exact expireHead_keepsForm h
    · exact h

theorem expireHeads_keepsForm {fuel : Nat} (h : KeepsForm s t) : KeepsForm s (expireHeads fuel t) := by
  induction fuel generalizing t with
  | zero => exact h
  | succ fuel ih =>
    unfold expireHeads
    split
    · exact h
    · exact ih (expireHead_keepsForm h)

theorem execAdmissionDecision_keepsForm (h : KeepsForm s t) : ResKeeps s (execAdmissionDecision t) := by
  unfold execAdmissionDecision
  extract_lets s0 free hs s1 elig
  have hs0 : KeepsForm s s0 := expireHeads_keepsForm h
  clear_value s0
  have hs1 : KeepsForm s s1 := by
    unfold s1
    refine foldl_keepsForm hs0 (fun u x hu => ?_)
    split
    · exact hu
    · exact count_keepsForm hu
  split
  · exact hs0
  · split
    · exact hs0
    · split
      · exact hs0
      · extract_lets a tag s2 _ code
        have hs2 : KeepsForm s s2 := setAdm_keepsForm hs1
        split
        next s11 _ heq =>
          have hs11 : KeepsForm s s11 := .of_fst heq (consume_keepsForm (hs2.frame rfl))
          extract_lets aux
          split
          · exact endCmd_keepsForm hs11
          · split
            · exact hs11
            · exact refuse_keepsForm hs11

end Sys2Proof.Machine
end

section
/-!
Each function of `Machine.TierOps` keeps the form: one lemma per function, in the file's order.
-/
namespace Sys2Proof.Machine
variable {s t : State}

theorem setHome_keepsForm {k : Nat} {y : Home} (h : KeepsForm s t) : KeepsForm s (t.setHome k y) :=
  h.frame rfl

theorem setRegion_keepsForm {r : Nat} {x : RegionSt} (h : KeepsForm s t) : KeepsForm s (t.setRegion r x) :=
  h.frame rfl

theorem rangeErr_keepsForm {p : Nat} (h : KeepsForm s t) : KeepsForm s (rangeErr t p) :=
  count_keepsForm (h.frame rfl)

theorem takeFrame_keepsForm {k k1 : Nat} (h : KeepsForm s t) : KeepsForm s (takeFrame t k k1) :=
  h.frame rfl

theorem lowHome_keepsForm {k : Nat} (h : KeepsForm s t) : ∀ x ∈ lowHome t k, KeepsForm s x.2.2 := by
  unfold lowHome
  split
  · split
    · exact forall_mem_some h
    · exact forall_mem_none
  · cases poolFree t with
    | some f => exact forall_mem_some (h.frame rfl)
    | none =>
      cases spillFree t with
      | some f => exact forall_mem_some (h.frame rfl)
      | none => exact forall_mem_none

theorem beginMove_keepsForm {k tier loc : Nat} {pin hot : Bool} (h : KeepsForm s t) :
    KeepsForm s (beginMove t k tier loc pin hot) := by
  unfold beginMove
  extract_lets h0 _ s1
  have hs1 : KeepsForm s s1 := h.moves (fun hm => forall_mem_tput hm rfl) rfl
  exact setHome_keepsForm hs1

theorem evictFor_keepsForm {p k : Nat} (h : KeepsForm s t) : ∀ x ∈ evictFor t p k, KeepsForm s x.2 := by
  unfold evictFor
  split
  · exact forall_mem_none
  · split
    · exact forall_mem_none
    · split
      · exact forall_mem_none
      next heq =>
        exact forall_mem_some (takeFrame_keepsForm (count_keepsForm (beginMove_keepsForm (.of_some_last heq
            (lowHome_keepsForm h)))))

theorem stackFrameFor_keepsForm {p k : Nat} {want : Option Nat} (h : KeepsForm s t) :
    ∀ x ∈ stackFrameFor t p k want, KeepsForm s x.2 := by
  unfold stackFrameFor
  extract_lets free
  clear_value free
  split
  · exact forall_mem_some (takeFrame_keepsForm h)
  · exact evictFor_keepsForm h

theorem findHome_keepsForm {p k : Nat} {want : Option Nat} (h : KeepsForm s t) :
    ∀ x ∈ findHome t p k want, KeepsForm s x.2.2 := by
  unfold findHome
  split
  next heq => exact forall_mem_some (.of_some_snd heq (stackFrameFor_keepsForm h))
  · exact lowHome_keepsForm h

theorem giveHome_keepsForm {p k : Nat} {want : Option Nat} (h : KeepsForm s t) :
    ∀ x ∈ giveHome t p k want, KeepsForm s x := by
  unfold giveHome
  extract_lets reserved old hold
  have hhold {u : State} (hu : KeepsForm s u) : KeepsForm s (hold u) := by
    unfold hold
    split
    · exact hu.frame rfl
    · exact hu
  split
  · exact forall_mem_some (setHome_keepsForm (hhold (takeFrame_keepsForm h)))
  · exact forall_mem_map_option fun x hx => setHome_keepsForm (hhold (findHome_keepsForm h x hx))

theorem giveHomes_keepsForm {p : Nat} {want : Option Nat} {ts : List (Nat × Bool)} (h : KeepsForm s t) :
    ∀ x ∈ giveHomes t p want ts, KeepsForm s x := by
  induction ts generalizing t with
  | nil => exact forall_mem_some h
  | cons k ts ih =>
    unfold giveHomes
    split
    · split
      · exact forall_mem_none
      · next heq => exact ih (giveHome_keepsForm h _ heq)
    · exact ih h

theorem noSpace_keepsForm {p : Nat} (h : KeepsForm s t) : KeepsForm s (noSpace t p) :=
  h.frame rfl

theorem touch_keepsForm {k : Nat} (h : KeepsForm s t) : KeepsForm s (touch t k) := by
  unfold touch
  extract_lets h1 _
  split
  · split
    · exact h
    · split
      · exact h
      · exact h.frame rfl
  · exact h

theorem hotCount_keepsForm {r k n : Nat} {wr : Bool} (h : KeepsForm s t) : KeepsForm s (hotCount t r k n wr) := by
  unfold hotCount
  extract_lets x known thr rested h1
  split
  · exact h
  · split
    · split
      · extract_lets s1 dest s2 _
        have hs1 : KeepsForm s s1 := setRegion_keepsForm h
        have hs2 : KeepsForm s s2 := count_keepsForm hs1
        split
        · clear_value dest
          split
          · exact hs2
          · split
            · exact hs2
            · exact hs2.frame rfl
        · exact hs1

theorem dropOwnLines_keepsForm {k off n : Nat} (h : KeepsForm s t) : KeepsForm s (dropOwnLines t k off n) :=
  h.frame rfl

theorem applyBytes_keepsForm {k off : Nat} {bs : List Byte} (h : KeepsForm s t) : KeepsForm s (applyBytes t k off bs) := by
  unfold applyBytes
  split
  · exact h
  · split
    · exact count_keepsForm h
    · exact dropOwnLines_keepsForm (touch_keepsForm (h.mem (memWf_mwriteN _ _) rfl))

theorem queueWrite_keepsForm {k : Nat} {w : QWrite} (h : KeepsForm s t) : KeepsForm s (queueWrite t k w) := by
  unfold queueWrite
  split
  · exact h
  · next m hm =>
    extract_lets d _ put
    have hput (x : Move) (hx : x.dmem = m.dmem) : KeepsForm s (put x) :=
      h.update (fun ⟨hMem, hLend, hFlash, hMoves⟩ =>
        ⟨hMem, hLend, hFlash, forall_mem_tput hMoves (hx ▸ hMoves k m (mem_of_tget? hm))⟩) id
    split
    · exact hput _ rfl
    · exact count_keepsForm (hput _ rfl)

theorem writeHomed_keepsForm {p k off : Nat} {bs : List Byte} {want : Option Nat} {asker : Option Asker} (h : KeepsForm s t) :
    KeepsForm s (writeHomed t p k off bs want asker).2 := by
  unfold writeHomed
  extract_lets h1 enqueue
  have henqueue {x} (hx : KeepsForm s x) : KeepsForm s (enqueue x) := foldl_keepsForm hx (fun u x1 hu =>
      queueWrite_keepsForm hu)
  split
  · exact h
  · exact h
  · split
    · split
      · exact henqueue h
      · exact applyBytes_keepsForm h
    · exact applyBytes_keepsForm h
  · split
    · split
      · exact h
      · split
        · exact noSpace_keepsForm h
        next heq => exact henqueue (beginMove_keepsForm (.of_some_snd heq (stackFrameFor_keepsForm h)))
    · exact applyBytes_keepsForm h

theorem writeSpan_keepsForm {p addr : Nat} {bs : List Byte} {want : Option Nat} (h : KeepsForm s t) :
    KeepsForm s (writeSpan t p addr bs want).2 := by
  unfold writeSpan
  extract_lets ps
  split
  · exact noSpace_keepsForm h
  next s1 heq =>
    have hs1 : KeepsForm s s1 := .of_some heq (giveHomes_keepsForm h)
    refine foldl_snd_keepsForm hs1 (fun p1 x hp1 => ?_)
    split
    next heq1 => exact .of_snd heq1 (writeHomed_keepsForm hp1)

theorem readMarks_keepsForm {p addr len : Nat} (h : KeepsForm s t) : KeepsForm s (readMarks t p addr len) := by
  unfold readMarks
  refine foldl_keepsForm h (fun u x hu => ?_)
  extract_lets h1
  split
  · exact count_keepsForm hu
  · exact touch_keepsForm hu

theorem rfRead_keepsForm {r p line : Nat} {remote : Bool} (h : KeepsForm s t) : KeepsForm s (rfRead t r p line remote) := by
  unfold rfRead
  extract_lets x s1
  have hs1 : KeepsForm s s1 := count_keepsForm h
  split
  · exact count_keepsForm (setRegion_keepsForm h)
  · split
    · exact count_keepsForm (setRegion_keepsForm hs1)
    · split
      · exact setRegion_keepsForm hs1
      · exact hs1

theorem clusterRead_keepsForm {c p addr len : Nat} (h : KeepsForm s t) : KeepsForm s (clusterRead t c p addr len) := by
  unfold clusterRead
  extract_lets r lo n
  split
  · exact h
  · exact foldl_keepsForm h (fun u x hu => hotCount_keepsForm (rfRead_keepsForm hu))

end Sys2Proof.Machine
end

section
/-!
Each function of `Machine.FabOps` keeps the form: one lemma per function, in the file's order.
-/
namespace Sys2Proof.Machine
variable {s t : State}

theorem setPort_keepsForm {k : Nat} {x : Port} (h : KeepsForm s t) : KeepsForm s (t.setPort k x) :=
  h.frame rfl

theorem routePort_keepsForm {src k rcls : Nat} {refused : List Nat} (h : KeepsForm s t) :
    KeepsForm s (routePort t src k rcls refused).2 := by
  unfold routePort
  extract_lets cands
  split
  · exact h
  · split
    · exact h
    · split
      next heq => exact .of_snd heq (takeFree_keepsForm h)

theorem putOnPort_keepsForm {k : Nat} {p : Packet} (h : KeepsForm s t) : KeepsForm s (putOnPort t k p) :=
  emit_keepsForm (setPort_keepsForm h)

theorem stampPacket_keepsForm {p : Packet} (h : KeepsForm s t) : KeepsForm s (stampPacket t p).2 := by
  unfold stampPacket
  extract_lets b f burst _ s1 _ s2
  have hs1 : KeepsForm s s1 := by
    unfold s1
    split
    · exact h.frame rfl
    · exact h
  have hs2 : KeepsForm s s2 := by
    unfold s2
    split
    · exact hs1.frame rfl
    · exact hs1
  exact hs2

theorem routeSend_keepsForm {p : Packet} {refused : List Nat} (h : KeepsForm s t) : KeepsForm s (routeSend t p refused).2 := by
  unfold routeSend
  extract_lets t1 e
  split
  · split
    · exact putOnPort_keepsForm h
    · exact h
  · split
    next heq => exact putOnPort_keepsForm (.of_snd heq (routePort_keepsForm h))
    next heq => exact count_keepsForm (.of_snd heq (routePort_keepsForm h))

theorem sendPacket_keepsForm {p : Packet} (h : KeepsForm s t) : KeepsForm s (sendPacket t p).2 := by
  unfold sendPacket
  split
  next heq => exact routeSend_keepsForm (.of_snd heq (stampPacket_keepsForm h))

theorem sendPkt_keepsForm {p : Packet} (h : KeepsForm s t) : KeepsForm s (sendPkt t p) :=
  sendPacket_keepsForm h

theorem respond_keepsForm {req : Packet} {status : Nat} {payload : List Byte} (h : KeepsForm s t) :
    KeepsForm s (respond t req status payload) :=
  sendPkt_keepsForm h

theorem sendControl_keepsForm {kind pos : Nat} {payload : List Byte} {aux : Nat} (h : KeepsForm s t) :
    KeepsForm s (sendControl t kind pos payload aux) :=
  sendPkt_keepsForm h

theorem sendLstate_keepsForm (h : KeepsForm s t) : KeepsForm s (sendLstate t) :=
  (foldl_keepsForm h (fun _ _ hu => sendControl_keepsForm hu)).frame rfl

theorem newTag_keepsForm (h : KeepsForm s t) : KeepsForm s (newTag t).2 :=
  h.frame rfl

end Sys2Proof.Machine
end

section
/-!
Each function of `Machine.ErrOps` keeps the form: one lemma per function, in the file's order.
-/
namespace Sys2Proof.Machine
variable {s t : State}

theorem countNode_keepsForm {ev qual n : Nat} (h : KeepsForm s t) : KeepsForm s (countNode t ev qual n) :=
  count_keepsForm h

theorem notice_keepsForm {p : Nat} {r : ErrRec} (h : KeepsForm s t) : KeepsForm s (notice t p r) := by
  unfold notice
  extract_lets cfg size i addr _ s1
  have hs1 : KeepsForm s s1 := h.frame rfl
  split
  · exact h
  · split
    · exact h
    · split
      · exact sendMsix_keepsForm (hostWrite_keepsForm hs1)
      · exact (hostWrite_keepsForm hs1).frame rfl

theorem sendMbr_keepsForm {pos type : Nat} {payload : List Byte} (h : KeepsForm s t) :
    KeepsForm s (sendMbr t pos type payload) :=
  sendControl_keepsForm h

theorem record_keepsForm {det sev action part loc status addr : Nat} {inj : Bool} (h : KeepsForm s t) :
    KeepsForm s (record t det sev action part loc status addr inj) := by
  unfold record
  split
  · exact h.frame rfl
  · extract_lets r _ s1 s2 big s3 _
    have hs1 : KeepsForm s s1 := h.frame rfl
    have hs2 : KeepsForm s s2 := foldl_keepsForm hs1 (fun u x hu => notice_keepsForm hu)
    have hs3 : KeepsForm s s3 := by
      unfold s3
      split
      · exact sendMbr_keepsForm hs2
      · exact hs2
    split
    · exact hs3.frame rfl
    · exact hs3

theorem detect_keepsForm {det sev action part loc status addr : Nat} {inj : Bool} (h : KeepsForm s t) :
    KeepsForm s (detect t det sev action part loc status addr inj) := by
  unfold detect
  extract_lets p s1
  have hs1 : KeepsForm s s1 := count_keepsForm h
  split
  · exact hs1
  · exact record_keepsForm hs1

theorem injHit_keepsForm {det : Nat} {at_ : Nat → Bool} (h : KeepsForm s t) : KeepsForm s (injHit t det at_).2 := by
  unfold injHit
  split
  · exact h
  · split
    · split
      · exact h.frame rfl
      · exact h
    · exact h

theorem injFlag_keepsForm {det loc : Nat} (h : KeepsForm s t) : KeepsForm s (injFlag t det loc).2 := by
  unfold injFlag
  split <;> next heq => exact .of_snd heq (injHit_keepsForm h)

theorem rowHit_keepsForm {st row : Nat} {ue : Bool} (h : KeepsForm s t) : KeepsForm s (rowHit t st row ue) := by
  unfold rowHit
  extract_lets k x y _
  split
  · exact h
  · split <;> exact h.frame rfl

theorem pprWait_keepsForm {p st lo hi : Nat} (h : KeepsForm s t) : KeepsForm s (pprWait t p st lo hi) := by
  unfold pprWait
  split
  · exact count_keepsForm h
  · exact h

theorem injectStack_keepsForm {p k off n : Nat} (h : KeepsForm s t) : KeepsForm s (injectStack t p k off n) := by
  unfold injectStack
  extract_lets h1 base st lo hi s1 hit target at_ line
  have hs1 : KeepsForm s s1 := pprWait_keepsForm h
  split
  · exact h
  · split
    · exact hs1
    next s11 heq =>
      have hs11 : KeepsForm s s11 := .of_snd heq (injHit_keepsForm hs1)
      extract_lets s2 _
      have hs2 : KeepsForm s s2 := rowHit_keepsForm hs11
      split
      · exact detect_keepsForm (hs2.frame rfl)
      · exact detect_keepsForm hs2

theorem injectOnDie_keepsForm {p k off n : Nat} (h : KeepsForm s t) : KeepsForm s (injectOnDie t p k off n) := by
  unfold injectOnDie
  extract_lets h1 hit target line
  split
  · exact h
  · split
    · exact h
    next s1 heq =>
      have hs1 : KeepsForm s s1 := .of_snd heq (injHit_keepsForm h)
      split
      · exact detect_keepsForm (hs1.frame rfl)
      · exact detect_keepsForm hs1

theorem injectRead_keepsForm {r p lo hi : Nat} (h : KeepsForm s t) : KeepsForm s (injectRead t r p lo hi) := by
  unfold injectRead
  split
  · exact h
  · extract_lets x target
    split
    · exact h
    · split
      · exact h
      · split
        · exact h
        · split
          · exact h
          next s1 heq =>
            have hs1 : KeepsForm s s1 := .of_snd heq (injHit_keepsForm h)
            extract_lets s2
            have hs2 : KeepsForm s s2 := by
              unfold s2
              split
              · exact setRegion_keepsForm hs1
              · exact hs1
            exact detect_keepsForm hs2

theorem injectHome_keepsForm {p k : Nat} (h : KeepsForm s t) : KeepsForm s (injectHome t p k) := by
  unfold injectHome
  extract_lets h1
  split
  · exact h
  next s1 heq =>
    have hs1 : KeepsForm s s1 := .of_snd heq (injHit_keepsForm h)
    split
    · exact detect_keepsForm hs1
    · extract_lets s2 _ s3
      have hs2 : KeepsForm s s2 := setHome_keepsForm hs1
      have hs3 : KeepsForm s s3 := by
        unfold s3
        split
        · exact hs2.frame rfl
        · exact hs2
      exact detect_keepsForm hs3

theorem readChecks_keepsForm {p addr len : Nat} (h : KeepsForm s t) : KeepsForm s (readChecks t p addr len) := by
  unfold readChecks
  split
  · exact h
  · exact foldl_keepsForm h (fun u x hu => injectStack_keepsForm (injectOnDie_keepsForm (injectHome_keepsForm hu)))

end Sys2Proof.Machine
end

section
/-!
Each function of `Machine.MemOps` keeps the form: one lemma per function, in the file's order.
-/
namespace Sys2Proof.Machine
variable {s t : State}

theorem stackTry_keepsForm {part id : Nat} {ds : List (Nat × Nat)} (h : KeepsForm s t) :
    KeepsForm s (stackTry t part id ds).2 := by
  unfold stackTry
  split
  · exact regTry_keepsForm h
  · exact foldl_keepsForm h (fun u x hu => regTry_keepsForm hu)

theorem readTry_keepsForm {part id addr len : Nat} (h : KeepsForm s t) : KeepsForm s (readTry t part id addr len).2 := by
  unfold readTry
  extract_lets n
  split
  · exact regTry_keepsForm h
  · split
    next s1 heq =>
      have hs1 : KeepsForm s s1 := .of_snd heq (stackTry_keepsForm h)
      split
      · exact regTry_keepsForm hs1
      · exact hs1

theorem nodeRead_keepsForm {part id addr len : Nat} (h : KeepsForm s t) : KeepsForm s (nodeRead t part id addr len).state := by
  unfold nodeRead
  split
  · exact h
  · split
    · exact h
    · split
      next s1 heq =>
        have hs1 : KeepsForm s s1 := .of_snd heq (readTry_keepsForm h)
        split
        · exact hs1
        · extract_lets s2 r s3
          have hs2 : KeepsForm s s2 := readChecks_keepsForm hs1
          have hs3 : KeepsForm s s3 := readMarks_keepsForm hs2
          split <;> exact hs3

theorem accessBad_keepsForm {part addr len : Nat} (h : KeepsForm s t) : ∀ x ∈ accessBad t part addr len, KeepsForm s x.2 := by
  unfold accessBad
  split
  · split
    · exact forall_mem_none
    · refine forall_mem_some ?_
      split
      · exact rangeErr_keepsForm h
      · exact h

theorem unitRead_keepsForm {c u addr len : Nat} (h : KeepsForm s t) : KeepsForm s (unitRead t c u addr len).state := by
  unfold unitRead
  extract_lets p
  split
  next heq => exact .of_some_snd heq (accessBad_keepsForm h)
  · split
    next heq => exact clusterRead_keepsForm (injectRead_keepsForm (.of_got heq (nodeRead_keepsForm h)))
    next heq => exact .of_got heq (nodeRead_keepsForm h)
    next heq => exact .of_got heq (nodeRead_keepsForm h)

theorem unitReads_keepsForm {c u : Nat} {xs : List (Nat × Nat)} (h : KeepsForm s t) :
    KeepsForm s (unitReads t c u xs).state := by
  unfold unitReads
  extract_lets p id n
  split
  · next heq =>
    obtain ⟨x, -, hx⟩ := List.exists_of_findSome?_eq_some heq
    exact .of_some_snd hx (accessBad_keepsForm h)
  · split
    · exact h
    · split
      · exact regTry_keepsForm h
      · split
        next s1 heq => exact .of_snd heq (stackTry_keepsForm h)
        next s1 heq =>
          have hs1 : KeepsForm s s1 := .of_snd heq (stackTry_keepsForm h)
          extract_lets s2 s3 rs s4
          have hs2 : KeepsForm s s2 := by
            unfold s2
            split
            · exact hs1
            · exact regTry_keepsForm hs1
          have hs3 : KeepsForm s s3 := foldl_keepsForm hs2 fun t x ht => by
            split
            · exact ht
            · exact readChecks_keepsForm ht
          have hs4 : KeepsForm s s4 := foldl_keepsForm hs3 fun t x ht => by
            split
            · exact ht
            · exact clusterRead_keepsForm (injectRead_keepsForm (readMarks_keepsForm ht))
          split <;> exact hs4

theorem unitWrite_keepsForm {c u addr : Nat} {bytes : List Byte} (h : KeepsForm s t) :
    KeepsForm s (unitWrite t c u addr bytes).state := by
  unfold unitWrite
  extract_lets p
  split
  next heq => exact .of_some_snd heq (accessBad_keepsForm h)
  · split
    next s1 heq =>
      have hs1 : KeepsForm s s1 := .of_snd heq (stackTry_keepsForm h)
      split
      · exact hs1
      · split
        next s2 heq1 =>
          have hs2 : KeepsForm s s2 := .of_snd heq1 (writeSpan_keepsForm hs1)
          split
          · exact foldl_keepsForm hs2 (fun u1 x hu1 => hotCount_keepsForm hu1)
        next heq1 => exact .of_snd heq1 (writeSpan_keepsForm hs1)
        next heq1 => exact .of_snd heq1 (writeSpan_keepsForm hs1)
        · exact h

end Sys2Proof.Machine
end

section
/-!
Each function of `Machine.UnitOps` keeps the form: one lemma per function, in the file's order.
-/
namespace Sys2Proof.Machine
variable {s t : State}

theorem retireTo_keepsForm {c u pc' : Nat} (h : KeepsForm s t) : KeepsForm s (retireTo t c u pc') := by
  unfold retireTo
  extract_lets x
  split
  · exact h
  · extract_lets s1 x1 x2
    have hs1 : KeepsForm s s1 := by
      unfold s1
      split
      · exact satLast_keepsForm h
      · exact h
    have hx2 : WorkInv s → tabWf x2.scratch = true := by
      unfold x2
      split <;> exact hs1.scratch
    exact setCl_keepsForm hs1 hx2

theorem retire_keepsForm {c u : Nat} (h : KeepsForm s t) : KeepsForm s (retire t c u) :=
  retireTo_keepsForm h

theorem resume_keepsForm {c u : Nat} {wait : UWait} (h : KeepsForm s t) : KeepsForm s (resume t c u wait) := by
  unfold resume
  split
  · exact retire_keepsForm h
  · exact h

theorem setWait_keepsForm {c u : Nat} {wait : UWait} (h : KeepsForm s t) : KeepsForm s (setWait t c u wait) :=
  setCl_keepsForm h h.scratch

theorem dropModelUser_keepsForm {i : Nat} (h : KeepsForm s t) : KeepsForm s (dropModelUser t i) :=
  h.frame rfl

theorem endInv_keepsForm {i : Nat} {e : Ending} (h : KeepsForm s t) : KeepsForm s (endInv t i e) := by
  unfold endInv
  split
  · exact h
  · extract_lets _ s1
    have hs1 : KeepsForm s s1 := dropModelUser_keepsForm (h.invs (tabWf_terase _) rfl)
    refine endCmd?_keepsForm hs1

theorem unusedLines_keepsForm {c n : Nat} (h : KeepsForm s t) : KeepsForm s (unusedLines t c n) :=
  wasteSlot_keepsForm (countCls_keepsForm (setCl_keepsForm h h.scratch))

theorem dropWalk_keepsForm {c ctx : Nat} (h : KeepsForm s t) : KeepsForm s (dropWalk t c ctx) := by
  unfold dropWalk
  extract_lets x s1 _ s2
  have hs1 : KeepsForm s s1 := setCl_keepsForm h h.scratch
  have hs2 : KeepsForm s s2 := hs1.frame rfl
  split
  · exact h
  · exact resume_keepsForm (unusedLines_keepsForm hs2)

theorem tellEntry_keepsForm {q : Query} {status : Nat} (h : KeepsForm s t) : KeepsForm s (tellEntry t q status) := by
  unfold tellEntry
  split
  · exact h
  · split
    · exact h
    · exact sendPkt_keepsForm h

theorem endQuery_keepsForm {qid : Nat} {e : Ending} {nd : Bool} (h : KeepsForm s t) : KeepsForm s (endQuery t qid e nd) := by
  unfold endQuery
  split
  · exact h
  · extract_lets _ s1 _ s2 s3 _ s4 _ _ s5
    have hs1 : KeepsForm s s1 := h.queries (tabWf_terase _) rfl
    have hs2 : KeepsForm s s2 := by
      unfold s2
      split
      · exact hs1.frame rfl
      · exact hs1
    have hs3 : KeepsForm s s3 := by
      unfold s3
      split
      · exact dropWalk_keepsForm hs2
      · exact hs2
    have hs4 : KeepsForm s s4 := by
      unfold s4
      split
      · exact dropModelUser_keepsForm (hs3.invs (tabWf_terase _) rfl)
      · exact hs3
    have hs5 : KeepsForm s s5 := hs4.colls (tabWf_filter _) rfl
    refine endCmd?_keepsForm (tellEntry_keepsForm hs5)

theorem endWork_keepsForm {i : Nat} {e : Ending} (h : KeepsForm s t) : KeepsForm s (endWork t i e) := by
  unfold endWork
  split
  · exact h
  · split
    · exact endQuery_keepsForm h
    · exact endInv_keepsForm h

theorem checkDone_keepsForm {c : Nat} (h : KeepsForm s t) : KeepsForm s (checkDone t c) := by
  unfold checkDone
  extract_lets x done
  refine foldl_keepsForm h (fun u x1 hu => ?_)
  split
  · exact hu
  · split
    · exact hu
    · extract_lets left _
      split
      · split
        · exact dropModelUser_keepsForm (hu.invs (tabWf_terase _) rfl)
        · exact endWork_keepsForm hu
      · exact hu.invs (tabWf_tput _ _) rfl

theorem takeRole_keepsForm {c slot part role : Nat} (h : KeepsForm s t) : KeepsForm s (takeRole t c slot part role) := by
  unfold takeRole
  extract_lets x other _ y s1 _
  have hs1 : KeepsForm s s1 := setCl_keepsForm h h.scratch
  split
  · exact hs1.frame rfl
  · exact hs1

theorem roleLoaded_keepsForm {c : Nat} (h : KeepsForm s t) : KeepsForm s (roleLoaded t c) := by
  unfold roleLoaded
  extract_lets x
  split
  · exact h
  · exact setCl_keepsForm h h.scratch

theorem endCluster_keepsForm {c : Nat} (h : KeepsForm s t) : KeepsForm s (endCluster t c) := by
  unfold endCluster
  extract_lets s1 s2 mine ends _ _ _
  have hs1 : KeepsForm s s1 := foldl_keepsForm h (fun u x hu => endWork_keepsForm hu)
  have hs2 : KeepsForm s s2 := foldl_keepsForm hs1 (fun u x hu => endQuery_keepsForm hu)
  exact hs2.frame rfl

theorem startUnload_keepsForm {slot : Nat} (h : KeepsForm s t) : KeepsForm s (startUnload t slot) :=
  h.frame rfl

theorem loseNumber_keepsForm {c : Nat} (h : KeepsForm s t) : KeepsForm s (loseNumber t c) := by
  unfold loseNumber
  extract_lets x _ s1 without _
  have hs1 : KeepsForm s s1 := setCl_keepsForm h (fun _ => rfl)
  split
  · exact hs1
  · extract_lets s2 empty ends
    have hs2 : KeepsForm s s2 := hs1.frame rfl
    split
    · exact startUnload_keepsForm (foldl_keepsForm hs2 (fun u x1 hu => endWork_keepsForm hu))
    · exact hs2

theorem takeOver_keepsForm {c : Nat} (h : KeepsForm s t) : KeepsForm s (takeOver t c) := by
  unfold takeOver
  extract_lets x
  split
  · exact loseNumber_keepsForm h
  · exact h.clusters (tabWf_tput _ _) (fun hs => forall_mem_tput hs rfl) rfl

theorem fencePhys_keepsForm {p : Nat} (h : KeepsForm s t) : KeepsForm s (fencePhys t p) := by
  unfold fencePhys
  split
  · extract_lets r _ s1
    have hs1 : KeepsForm s s1 := h.frame rfl
    split
    · exact takeOver_keepsForm (endCluster_keepsForm hs1)
    · exact hs1
  · extract_lets r _ s1
    have hs1 : KeepsForm s s1 := h.frame rfl
    split
    · exact takeOver_keepsForm (endCluster_keepsForm hs1)
    · exact hs1
  · exact h

theorem fenceFor_keepsForm {c det loc : Nat} {inj : Bool} (h : KeepsForm s t) : KeepsForm s (fenceFor t c det loc inj) := by
  unfold fenceFor
  extract_lets x
  split
  · exact detect_keepsForm (fencePhys_keepsForm h)
  · exact h

theorem fetchChecks_keepsForm {c u : Nat} (h : KeepsForm s t) : KeepsForm s (fetchChecks t c u).2 := by
  unfold fetchChecks
  split
  · exact h
  · extract_lets pc base hit t1
    split
    next heq => exact fenceFor_keepsForm (.of_snd heq (injHit_keepsForm h))
    next heq => exact detect_keepsForm (.of_snd heq (injHit_keepsForm h))
    · split
      next heq1 => exact fenceFor_keepsForm (.of_snd heq1 (injHit_keepsForm h))
      · exact h

theorem issue_keepsForm {c u op : Nat} {f : Nat → State → Option State} (h : KeepsForm s t)
    (hf : ∀ w u1, KeepsForm s u1 → ∀ x ∈ f w u1, KeepsForm s x) : KeepsForm s (issue t c u op f) := by
  unfold issue
  extract_lets x y
  split
  · exact h
  · split
    · exact h
    · split
      next heq => exact .of_snd heq (fetchChecks_keepsForm h)
      next s1 heq =>
        have hs1 : KeepsForm s s1 := .of_snd heq (fetchChecks_keepsForm h)
        split
        · exact fenceFor_keepsForm hs1
        · split
          · exact h
          · split
            next heq1 => exact .of_some heq1 (hf _ _ (setCl_keepsForm hs1 hs1.scratch))
            · exact h

theorem issueNow_keepsForm {c u op : Nat} {f : Nat → State → Option State} (h : KeepsForm s t)
    (hf : ∀ w u, KeepsForm s u → ∀ x ∈ f w u, KeepsForm s x) : KeepsForm s (issueNow t c u op f) :=
  issue_keepsForm h fun w t ht => forall_mem_map_option fun x hx => retire_keepsForm (hf w t ht x hx)

theorem tabWf_scrWriteT {x : Tab Byte} (h : tabWf x = true) (a : Nat) (bs : List Byte) : tabWf (scrWriteT x a bs) = true := by
  induction bs generalizing x a with
  | nil => exact h
  | cons b bs ih => exact ih (tabWf_scrPut h a b) (a + 1)

theorem scrWrite_keepsForm {c a : Nat} {bs : List Byte} (h : KeepsForm s t) : KeepsForm s (scrWrite t c a bs) :=
  setCl_keepsForm h fun hs => tabWf_scrWriteT (h.scratch hs) a bs

theorem settleResult_keepsForm {k : Nat} (h : KeepsForm s t) : KeepsForm s (settleResult t k) := by
  unfold settleResult
  split
  · exact h
  · exact h.mem (fun hm => memWf_mwriteN _ _ (memWf_mclear _ _ hm)) rfl

theorem unpin_keepsForm {k : Nat} (h : KeepsForm s t) : KeepsForm s (unpin t k) := by
  unfold unpin
  extract_lets n h1 _ s1
  have hs1 : KeepsForm s s1 := settleResult_keepsForm (h.frame rfl)
  split
  · split
    · exact setHome_keepsForm hs1
    · exact hs1
  · exact h.frame rfl

theorem releasePlan_keepsForm {slot : Nat} (h : KeepsForm s t) : KeepsForm s (releasePlan t slot) := by
  unfold releasePlan
  split
  · exact h
  · next p _ =>
    extract_lets holds s1 freed _ _ _ _ s2
    have hs1 : KeepsForm s s1 := foldl_keepsForm h fun t x ht => unpin_keepsForm ht
    clear_value s1
    have hs2 : KeepsForm s s2 := hs1.update id fun ⟨hInvs, hQueries, hClusters, hColls, hScratch⟩ =>
      ⟨hInvs, hQueries, tabWf_map (fun _ => rfl) hClusters, tabWf_filter _ hColls, forall_mem_map hScratch fun x hx => by
        beta_reduce
        split <;> exact hx⟩
    exact foldl_keepsForm hs2 fun t x ht => endCmd_keepsForm ht

theorem dropUpdate_keepsForm {u : Update} (h : KeepsForm s t) : KeepsForm s (dropUpdate t u) := by
  unfold dropUpdate
  extract_lets _ s1 n _ s2 _
  have hs1 : KeepsForm s s1 := by
    unfold s1
    split
    · exact h.frame rfl
    · exact h
  have hs2 : KeepsForm s s2 := hs1.frame rfl
  split
  · exact hs1
  · split
    · exact hs2
    · exact hs2.frame rfl

theorem endAllWork_keepsForm (h : KeepsForm s t) : KeepsForm s (endAllWork t) := by
  unfold endAllWork
  extract_lets s1 s2 s3 stays s4 _ _ _
  have hs1 : KeepsForm s s1 := foldl_keepsForm h fun t x ht => releasePlan_keepsForm ht
  have hs2 : KeepsForm s s2 := foldl_keepsForm hs1 fun t x ht => endCmd_keepsForm ht
  have hs3 : KeepsForm s s3 := foldl_keepsForm hs2 fun t x ht => endQuery_keepsForm ht
  have hs4 : KeepsForm s s4 := foldl_keepsForm hs3 fun t x ht => dropUpdate_keepsForm ht
  clear_value s4
  exact hs4.update id fun ⟨_, hQueries, hClusters, _, hScratch⟩ =>
    ⟨rfl, hQueries, tabWf_map (fun _ => rfl) hClusters, rfl, forall_mem_map hScratch fun _ hx => hx⟩

end Sys2Proof.Machine
end

section
/-!
Each function of `Machine.FlashOps` keeps the form: one lemma per function, in the file's order.
-/
namespace Sys2Proof.Machine
variable {s t : State}

theorem setDie_keepsForm {d : Nat} {x : Die} (h : KeepsForm s t) : KeepsForm s (t.setDie d x) :=
  h.frame rfl

theorem flErr_keepsForm {p bit : Nat} (h : KeepsForm s t) : KeepsForm s (flErr t p bit) :=
  h.frame rfl

theorem allocUnit_keepsForm (h : KeepsForm s t) : ∀ x ∈ allocUnit t, KeepsForm s x.2 := by
  unfold allocUnit
  extract_lets _ open1 onCh ec _
  have hopen1 : KeepsForm s open1 := h.frame rfl
  split
  · exact forall_mem_none
  · split
    · exact forall_mem_none
    · extract_lets k full k1
      exact forall_mem_some (hopen1.frame rfl)

theorem serveDie_keepsForm {d : Nat} (h : KeepsForm s t) : KeepsForm s (serveDie t d) := by
  unfold serveDie
  extract_lets x w x1
  split
  · exact h
  · split
    · exact setDie_keepsForm h
    · split <;> exact setDie_keepsForm h

theorem trySuspend_keepsForm {d : Nat} {r : DieReq} (h : KeepsForm s t) : ∀ x ∈ trySuspend t d r, KeepsForm s x := by
  unfold trySuspend
  extract_lets x
  split
  · extract_lets stop
    clear_value stop
    split
    · exact forall_mem_none
    · split
      · exact forall_mem_some (countNode_keepsForm (setDie_keepsForm h))
      · exact forall_mem_none
  · exact forall_mem_none

theorem enqueue_keepsForm {d : Nat} {r : DieReq} (h : KeepsForm s t) : KeepsForm s (enqueue t d r) := by
  unfold enqueue
  extract_lets _ s0 r1 x idle s1
  have hs0 : KeepsForm s s0 := h.frame rfl
  have hs1 : KeepsForm s s1 := setDie_keepsForm hs0
  split
  next heq => exact .of_some heq (trySuspend_keepsForm hs0)
  · split
    · exact serveDie_keepsForm hs1
    · exact hs1

theorem progUnit_keepsForm {u part cls : Nat} {parts : List (Nat × List Byte)} {disc : List Nat} {for_ : ProgFor}
    (h : KeepsForm s t) : KeepsForm s (progUnit t u part cls parts disc for_) := by
  unfold progUnit
  extract_lets _ wait isWrite
  have hwait : KeepsForm s wait := h.frame rfl
  split
  · exact hwait
  · split
    · exact hwait
    next heq => exact enqueue_keepsForm (.of_some_snd heq (allocUnit_keepsForm h))

theorem retryWaiting_keepsForm (h : KeepsForm s t) : KeepsForm s (retryWaiting t) :=
  foldl_keepsForm (h.frame rfl) (fun _ _ hu => progUnit_keepsForm hu)

theorem layUnit_keepsForm {k : Nat} {parts : List (Nat × List Byte)} {disc : List Nat} (h : KeepsForm s t) :
    KeepsForm s (layUnit t k parts disc) := by
  unfold layUnit
  extract_lets base cw0 f rest f1 f2
  have hf1 (hm : memWf f.mem = true) : memWf f1.mem = true :=
    List.foldlRecOn parts _ (motive := fun g : FlashSt => memWf g.mem = true) hm fun g hg w _ => memWf_mwriteN _ _ hg
  have hf2 (hm : memWf f.mem = true) : memWf f2.mem = true :=
    List.foldlRecOn disc _ (motive := fun g : FlashSt => memWf g.mem = true) (hf1 hm) fun g hg i _ => memWf_mclear _ _ hg
  clear_value f2
  exact h.flashMem hf2 rfl

theorem setMap_keepsForm {u : Nat} {e : MapEnt} (h : KeepsForm s t) : KeepsForm s (setMap t u e) :=
  h.frame rfl

theorem flashStore_keepsForm {addr : Nat} {bs : List Byte} (h : KeepsForm s t) : KeepsForm s (flashStore t addr bs) := by
  unfold flashStore
  extract_lets units
  split
  · exact h
  · refine foldl_keepsForm h fun t k ht => ?_
    extract_lets lo hi part
    split
    next pu t1 heq =>
    have ht1 : KeepsForm s t1 := by
      split at heq
      · next hSome => exact .of_some_snd (hSome.trans (congrArg some heq)) (allocUnit_keepsForm ht)
      · obtain ⟨-, rfl⟩ := Prod.mk.inj heq
        exact ht
    exact countNode_keepsForm (setMap_keepsForm ((layUnit_keepsForm ht1).frame rfl))

theorem moveUnits_keepsForm {us : List Nat} {cls : Nat} {for_ : ProgFor} (h : KeepsForm s t) :
    KeepsForm s (moveUnits t us cls for_) :=
  foldl_keepsForm h (fun _ _ hu => progUnit_keepsForm hu)

theorem settleDie_keepsForm {d : Nat} (h : KeepsForm s t) : KeepsForm s (settleDie t d) := by
  unfold settleDie
  extract_lets x
  split
  · exact setDie_keepsForm h
  · exact h

theorem retireDie_keepsForm {d : Nat} (h : KeepsForm s t) : KeepsForm s (retireDie t d) := by
  unfold retireDie
  extract_lets x s1
  have hs1 : KeepsForm s s1 := countNode_keepsForm (setDie_keepsForm h)
  split
  · exact h
  · exact settleDie_keepsForm (moveUnits_keepsForm hs1)

theorem retireBlock_keepsForm {d b : Nat} (h : KeepsForm s t) : KeepsForm s (retireBlock t d b) := by
  unfold retireBlock
  extract_lets x k x1 s1 s2
  have hs1 : KeepsForm s s1 := countNode_keepsForm (setDie_keepsForm h)
  have hs2 : KeepsForm s s2 := moveUnits_keepsForm hs1
  split
  · exact h
  · split
    · exact retireDie_keepsForm hs2
    · exact hs2

theorem eraseEmpty_keepsForm {d : Nat} (h : KeepsForm s t) : KeepsForm s (eraseEmpty t d) := by
  unfold eraseEmpty
  extract_lets x
  split
  · exact h
  · exact enqueue_keepsForm (setDie_keepsForm h)

theorem gcDie_keepsForm {d : Nat} (h : KeepsForm s t) : KeepsForm s (gcDie t d) := by
  unfold gcDie
  extract_lets x free live cands n
  split
  · exact h
  · split
    · exact h
    · exact eraseEmpty_keepsForm (moveUnits_keepsForm (setDie_keepsForm h))

theorem wearLevel_keepsForm (h : KeepsForm s t) : KeepsForm s (wearLevel t) := by
  unfold wearLevel
  split
  · split
    · exact h
    · extract_lets cands
      split
      · exact h
      · exact eraseEmpty_keepsForm (moveUnits_keepsForm (setDie_keepsForm h))

theorem readCodeword_keepsForm {cw part cls : Nat} {deadline : Option Nat} {for_ : ReadFor} (h : KeepsForm s t) :
    KeepsForm s (readCodeword t cw part cls deadline for_).2 := by
  unfold readCodeword
  extract_lets e
  split
  · exact h
  · exact enqueue_keepsForm h

theorem readRun_keepsForm {cw n part cls : Nat} {deadline : Option Nat} {for_ : ReadFor} (h : KeepsForm s t) :
    KeepsForm s (readRun t cw n part cls deadline for_).2 := by
  unfold readRun
  refine foldl_snd_keepsForm h (fun p x hp => ?_)
  split
  next heq => exact .of_snd heq (readCodeword_keepsForm hp)

theorem endDieOp_keepsForm {d : Nat} (h : KeepsForm s t) : KeepsForm s (endDieOp t d) := by
  unfold endDieOp
  extract_lets x
  split
  · exact h
  · exact setDie_keepsForm h

end Sys2Proof.Machine
end

section
/-!
Each function of `Machine.Tier` keeps the form: one lemma per function, in the file's order.
-/
namespace Sys2Proof.Machine
variable {s t : State}

theorem execHotWindowTick_keepsForm {r : Fin 8} (h : KeepsForm s t) : ResKeeps s (execHotWindowTick r t) := by
  unfold execHotWindowTick
  extract_lets x win s1 _
  have hs1 : KeepsForm s s1 := setRegion_keepsForm h
  split
  · exact hs1.frame rfl
  · exact h

theorem execAgeTick_keepsForm (h : KeepsForm s t) : ResKeeps s (execAgeTick t) := by
  unfold execAgeTick
  split
  · extract_lets step _
    exact h.frame rfl
  · exact h

theorem sendFreeze_keepsForm {y : Home} (h : KeepsForm s t) : KeepsForm s (sendFreeze t y) := by
  unfold sendFreeze
  split
  · exact sendPkt_keepsForm h
  · exact h

theorem reserveDest_keepsForm {k tier r : Nat} {pin : Bool} (h : KeepsForm s t) :
    ∀ x ∈ reserveDest t k tier r pin, KeepsForm s x.2.2 := by
  unfold reserveDest
  extract_lets p reserved _
  clear_value reserved
  split
  · split
    · exact forall_mem_some (takeFrame_keepsForm h)
    · exact forall_mem_map_option fun x hx => stackFrameFor_keepsForm h x hx
  · split
    · split
      · exact forall_mem_none
      · extract_lets take
        have htake {u : State} (hu : KeepsForm s u) : KeepsForm s (take u) := setRegion_keepsForm hu
        split
        · exact forall_mem_some (htake h)
        · split
          · exact forall_mem_none
          next heq => exact forall_mem_some (htake (beginMove_keepsForm (.of_some_snd heq (stackFrameFor_keepsForm h))))
    · split
      · exact forall_mem_map_option fun o _ => h.frame rfl
      · exact lowHome_keepsForm h

theorem execMoveStart_keepsForm {tile : Fin 33554432} (h : KeepsForm s t) : ResKeeps s (execMoveStart tile t) := by
  unfold execMoveStart
  extract_lets t1 h1 drop
  have hdrop {x} (hx : KeepsForm s x) : KeepsForm s (drop x) := hx.frame rfl
  split
  · exact h
  · split
    · exact h
    · split
      · exact hdrop h
      · split
        · exact hdrop h
        next heq =>
          exact sendFreeze_keepsForm (beginMove_keepsForm (hdrop (.of_some_last heq (reserveDest_keepsForm h))))

theorem execFreeze_keepsForm {ref : MoveRef} (h : KeepsForm s t) : ResKeeps s (execFreeze ref t) := by
  unfold execFreeze
  split
  · exact h.moves (fun hm => forall_mem_tupd hm fun _ hd => hd) rfl
  · exact h.frame rfl

theorem answerQueued_keepsForm {w : QWrite} {old : Nat} (h : KeepsForm s t) : KeepsForm s (answerQueued t w old) := by
  unfold answerQueued
  split
  · exact sendPkt_keepsForm h
  · exact h

theorem replayOne_keepsForm {k : Nat} {m : Move} {w : QWrite} {rest : List QWrite} (h : KeepsForm s t)
    (hm : MemInv t → memWf m.dmem = true) : KeepsForm s (replayOne t k m w rest) := by
  have hput (x : Move) (hx : memWf m.dmem = true → memWf x.dmem = true) :
      KeepsForm s { t with tier.moves := tput t.tier.moves k x } :=
    h.update (fun hInv => by
      obtain ⟨hMem, hLend, hFlash, hMoves⟩ := id hInv
      exact ⟨hMem, hLend, hFlash, forall_mem_tput hMoves (hx (hm hInv))⟩) id
  unfold replayOne
  split
  next q hd _ =>
  split
  · exact hput _ (memWf_mwriteN _ _)
  · exact answerQueued_keepsForm (hput _ (memWf_mwriteN _ _))

theorem execCopy_keepsForm {ref : MoveRef} {what : CopyItem} (h : KeepsForm s t) : ResKeeps s (execCopy ref what t) := by
  unfold execCopy
  split
  · extract_lets k draw _
    have hdraw {x : State} {tier loc : Nat} (hx : KeepsForm s x) : KeepsForm s (draw x tier loc) := by
      unfold draw
      split
      · exact regCharge_keepsForm hx
      · exact hx
    split
    · exact h
    · next m hm =>
      have hmv (hInv : MemInv t) : memWf m.dmem = true := by
        obtain ⟨-, -, -, hMoves⟩ := hInv
        exact hMoves k m (mem_of_tget? hm)
      split
      · split
        · exact h
        · split
          next bs bad _ =>
          extract_lets m1 s1 _
          have hput : KeepsForm s { t with tier.moves := tput t.tier.moves k m1 } :=
            h.update (fun hInv => by
              obtain ⟨hMem, hLend, hFlash, hMoves⟩ := id hInv
              exact ⟨hMem, hLend, hFlash, forall_mem_tput hMoves (memWf_mwriteN _ _ (hmv hInv))⟩) id
          have hs1 : KeepsForm s s1 := hdraw (hdraw hput)
          split
          · exact hs1.frame rfl
          · exact hs1
      · split
        · exact h
        · split
          · exact replayOne_keepsForm h hmv
          · exact h
  · extract_lets k x _
    split
    · split
      · exact h
      · exact h.lendMem (memWf_mwriteN _ _) rfl
    · exact h.lendMem (memWf_mwriteN _ _) rfl
    · exact h.lendMem (memWf_mwriteN _ _) rfl

theorem installTile_keepsForm {k tier loc : Nat} {m : Move} (h : KeepsForm s t) : KeepsForm s (installTile t k tier loc m) := by
  have hMem {u : State} (hu : KeepsForm s u) {x : Mem} (hx : memWf u.tier.mem = true → memWf x = true) (p p' : Tab Bool) :
      KeepsForm s { u with tier := { u.tier with mem := x, pois64 := p, pois256 := p' } } := hu.mem hx rfl
  have hRest {u : State} (hu : KeepsForm s u) (p : Tab Bool) (d : Tab Bool) :
      KeepsForm s { u with flash.pois := p, tier.dirty := d } := hu.frame rfl
  unfold installTile
  extract_lets clean drop _ s1 bs a s2 _ _ _
  have hs1 : KeepsForm s s1 := hMem h (memWf_mclear _ _) _ _
  have hs2 : KeepsForm s s2 := flashStore_keepsForm hs1
  clear_value bs s1 s2
  split
  · exact hRest hs2 _ _
  · exact hMem hs1 (memWf_mwriteN _ _) _ _

theorem execDrained_keepsForm {ref : MoveRef} (h : KeepsForm s t) : ResKeeps s (execDrained ref t) := by
  unfold execDrained
  split
  · extract_lets t1
    split
    · exact h
    · split
      · exact h
      · extract_lets s1 s2 _ s3 s4 _
        have hs1 : KeepsForm s s1 := installTile_keepsForm h
        have hs2 : KeepsForm s s2 := setHome_keepsForm hs1
        have hs3 : KeepsForm s s3 := hs2.moves (fun hm => forall_mem_terase hm) rfl
        have hs4 : KeepsForm s s4 := count_keepsForm hs3
        split
        · split
          · exact setHome_keepsForm hs4
          · exact hs4.frame rfl
        · exact hs4
  · exact h.frame rfl

theorem freePlace_keepsForm {x : Stub} (h : KeepsForm s t) : KeepsForm s (freePlace t x) := by
  unfold freePlace
  extract_lets h1 _ r g
  split
  · exact h
  · split
    · split
      · split
        · exact h.frame rfl
        · exact h
      · exact h
    · split
      · split
        · split
          · exact setRegion_keepsForm h
          · exact h
        · exact h
      · split <;> exact h.frame rfl

theorem execStubExpire_keepsForm {i : Nat} (h : KeepsForm s t) : ResKeeps s (execStubExpire i t) := by
  unfold execStubExpire
  split
  · exact h
  · split
    · exact freePlace_keepsForm (h.frame rfl)
    · exact h

theorem execFillArrive_keepsForm {r : Fin 8} {line : Nat} (h : KeepsForm s t) : ResKeeps s (execFillArrive r line t) := by
  unfold execFillArrive
  extract_lets x fills t1 l
  split
  · exact h
  · extract_lets keep
    exact setRegion_keepsForm h

theorem abortMove_keepsForm {k : Nat} (h : KeepsForm s t) : KeepsForm s (abortMove t k) := by
  unfold abortMove
  split
  · exact h
  · extract_lets s1 _ s2 s3
    have hs1 : KeepsForm s s1 := setHome_keepsForm h
    have hs2 : KeepsForm s s2 := hs1.moves (fun hm => forall_mem_terase hm) rfl
    have hs3 : KeepsForm s s3 := by
      unfold s3
      refine foldl_keepsForm hs2 (fun u x hu => ?_)
      split
      · exact applyBytes_keepsForm hu
      · exact answerQueued_keepsForm (applyBytes_keepsForm hu)
    exact count_keepsForm hs3

theorem loseTile_keepsForm {k : Nat} (h : KeepsForm s t) : KeepsForm s (loseTile t k) := by
  unfold loseTile
  extract_lets h1 asks s1 _ s2 s3
  have hs1 : KeepsForm s s1 := setHome_keepsForm h
  have hs2 : KeepsForm s s2 := hs1.moves (fun hm => forall_mem_terase hm) rfl
  have hs3 : KeepsForm s s3 := foldl_keepsForm hs2 (fun u x hu => sendPkt_keepsForm hu)
  exact count_keepsForm hs3

theorem loseLender_keepsForm {pos : Nat} (h : KeepsForm s t) : KeepsForm s (loseLender t pos) := by
  unfold loseLender
  refine foldl_keepsForm h (fun u x hu => ?_)
  extract_lets h1
  split
  · exact hu
  · split
    · exact loseTile_keepsForm hu
    · split
      · split
        · exact abortMove_keepsForm hu
        · exact hu
      · exact hu

end Sys2Proof.Machine
end

section
/-!
Each function of `Machine.Commands` keeps the form: one lemma per function, in the file's order.
-/
namespace Sys2Proof.Machine
variable {s t : State}

theorem execNop_keepsForm {cid : Nat} (h : KeepsForm s t) : ResKeeps s (execNop cid t) := by
  unfold execNop
  split
  · exact h
  · extract_lets aux
    split
    · exact endCmd_keepsForm h
    · exact refuse_keepsForm h

theorem refuseTier_keepsForm {c : Cmd} {cid aux : Nat} (h : KeepsForm s t) : KeepsForm s (refuseTier t c cid aux) := by
  unfold refuseTier
  refine refuse_keepsForm ?_
  split
  · exact rangeErr_keepsForm h
  · exact h

theorem execTierRead_keepsForm {cid : Nat} (h : KeepsForm s t) : ResKeeps s (execTierRead cid t) := by
  unfold execTierRead
  split
  · exact h
  · split
    · split
      · exact refuseTier_keepsForm h
      · split
        next heq => exact .of_got heq (nodeRead_keepsForm h)
        next heq => exact endCmd_keepsForm (resultWrite_keepsForm (.of_got heq (nodeRead_keepsForm h)))
        next heq => exact endCmd_keepsForm (resultWrite_keepsForm (.of_got heq (nodeRead_keepsForm h)))

theorem execTierWrite_keepsForm {cid : Nat} {data : HostRead} (h : KeepsForm s t) : ResKeeps s (execTierWrite cid data t) := by
  unfold execTierWrite
  split
  · exact h
  · split
    · split
      · exact refuseTier_keepsForm h
      · split
        · exact refuse_keepsForm h
        · split
          next s1 heq =>
            have hs1 : KeepsForm s s1 := .of_snd heq (stackTry_keepsForm h)
            split
            · exact hs1
            · split
              next heq1 => exact endCmd_keepsForm (.of_snd heq1 (writeSpan_keepsForm hs1))
              next heq1 => exact endCmd_keepsForm (.of_snd heq1 (writeSpan_keepsForm hs1))
              next heq1 => exact refuse_keepsForm (.of_snd heq1 (writeSpan_keepsForm hs1))
              · exact h

theorem execIndexOpen_keepsForm {cid : Nat} (h : KeepsForm s t) : ResKeeps s (execIndexOpen cid t) := by
  unfold execIndexOpen
  cases cmdOf t cid 0x18 with
  | none => exact h
  | some c =>
    dsimp -zeta only
    extract_lets tile hr free noRes r d bad rs aux cb x _
    clear_value x cb aux noRes r hr free
    split
    · exact refuseTier_keepsForm h
    · split
      · exact h
      · split
        · exact endCmd_keepsForm h
        · cases free with
          | none => exact refuseTier_keepsForm h
          | some i =>
            dsimp -zeta only
            split
            · exact refuseTier_keepsForm h
            · split
              · exact h
              · split
                · exact endCmd_keepsForm h
                · exact endCmd_keepsForm (h.frame rfl)

theorem execIndexClose_keepsForm {cid : Nat} (h : KeepsForm s t) : ResKeeps s (execIndexClose cid t) := by
  unfold execIndexClose
  split
  · exact h
  · extract_lets i mine aux _
    split
    · exact endCmd_keepsForm (h.frame rfl)
    · exact refuse_keepsForm h

theorem execTableOpen_keepsForm {cid : Nat} (h : KeepsForm s t) : ResKeeps s (execTableOpen cid t) := by
  unfold execTableOpen
  split
  · exact h
  · extract_lets tile h1 free noRes r bad aux _
    split
    · exact refuseTier_keepsForm h
    · split
      · exact h
      · split
        · exact endCmd_keepsForm h
        · clear_value free
          split
          · exact refuseTier_keepsForm h
          · split
            · exact endCmd_keepsForm (h.frame rfl)
            · exact refuseTier_keepsForm h

theorem execTableClose_keepsForm {cid : Nat} (h : KeepsForm s t) : ResKeeps s (execTableClose cid t) := by
  unfold execTableClose
  split
  · exact h
  · extract_lets i mine aux _
    split
    · exact endCmd_keepsForm (h.frame rfl)
    · exact refuse_keepsForm h

theorem execRoleSet_keepsForm {cid : Nat} (h : KeepsForm s t) : ResKeeps s (execRoleSet cid t) := by
  unfold execRoleSet
  split
  · exact h
  · extract_lets e role homed aux s1 _
    have hs1 : KeepsForm s s1 := foldl_keepsForm (runCmd_keepsForm h) (fun u x hu => startUnload_keepsForm hu)
    split
    · exact refuse_keepsForm h
    · exact hs1.frame rfl

end Sys2Proof.Machine
end

section
/-!
Each function of `Machine.FabRx` keeps the form: one lemma per function, in the file's order.
-/
namespace Sys2Proof.Machine
variable {s t : State}

theorem fabCount_keepsForm {src k : Nat} (h : KeepsForm s t) : KeepsForm s (fabCount t src k) := by
  unfold fabCount
  extract_lets pos h1 k1 n _ s1 own held s2 _
  have hs1 : KeepsForm s s1 := h.frame rfl
  have hs2 : KeepsForm s s2 := count_keepsForm hs1
  split
  · exact h
  · split
    · split
      · exact hs2.frame rfl
      · exact hs2
    · exact hs1

theorem fabTierCheck_keepsForm {part addr : Nat} (h : KeepsForm s t) : ∀ x ∈ fabTierCheck t part addr, KeepsForm s x.2 := by
  unfold fabTierCheck
  extract_lets t1
  split
  · exact forall_mem_some h
  · split
    · exact forall_mem_some (rangeErr_keepsForm h)
    · split
      · exact forall_mem_some h
      · exact forall_mem_none

theorem stubMark_keepsForm {part k : Nat} (h : KeepsForm s t) : KeepsForm s (stubMark t part k) := by
  unfold stubMark
  split
  · exact count_keepsForm h
  · exact h

theorem winErr_keepsForm (h : KeepsForm s t) : KeepsForm s (winErr t).state :=
  h.frame rfl

theorem addrErr_keepsForm {part : Nat} (h : KeepsForm s t) : KeepsForm s (addrErr t part).state :=
  count_keepsForm h

theorem stackTry'_keepsForm {part id a len : Nat} (h : KeepsForm s t) :
    KeepsForm s (serveLoad.stackTry' t part id a len).2 := by
  unfold serveLoad.stackTry'
  split
  · exact regTry_keepsForm h
  · exact h

theorem serveLoad_keepsForm {part src tag addr len : Nat} {msg : Bool} (h : KeepsForm s t) :
    KeepsForm s (serveLoad t part src tag addr len msg).state := by
  unfold serveLoad
  split
  · exact h
  · split
    · exact addrErr_keepsForm h
    · split
      · exact addrErr_keepsForm h
      · split
        · exact winErr_keepsForm h
        · split <;> exact h
    · split
      · next heq => exact .of_some_snd heq (fabTierCheck_keepsForm h)
      · extract_lets s0 r
        have hs0 : KeepsForm s s0 := readChecks_keepsForm h
        split
        · exact h
        · split
          next ok s1 heq =>
          have hs1 : KeepsForm s s1 := .of_snd heq (stackTry'_keepsForm hs0)
          split
          · exact hs1
          · extract_lets s2
            have hs2 : KeepsForm s s2 := fabCount_keepsForm (stubMark_keepsForm (readMarks_keepsForm hs1))
            split <;> exact hs2

theorem serveStore_keepsForm {part src tag addr : Nat} {bs : List Byte} {msg : Bool} (h : KeepsForm s t) :
    KeepsForm s (serveStore t part src tag addr bs msg).state := by
  unfold serveStore
  split
  · exact h
  · split
    · exact addrErr_keepsForm h
    · split
      · exact addrErr_keepsForm h
      · split
        · exact winErr_keepsForm h
        · exact h.lendMem (memWf_mwriteN _ _) rfl
    · split
      next heq => exact .of_some_snd heq (fabTierCheck_keepsForm h)
      · split
        next s1 heq =>
          have hs1 : KeepsForm s s1 := .of_snd heq (stackTry'_keepsForm h)
          split
          · exact hs1
          · split
            next heq1 => exact fabCount_keepsForm (stubMark_keepsForm (.of_snd heq1 (writeSpan_keepsForm hs1)))
            next heq1 => exact .of_snd heq1 (writeSpan_keepsForm hs1)
            next heq1 => exact .of_snd heq1 (writeSpan_keepsForm hs1)
            · exact h

theorem serveAtomic_keepsForm {part src tag addr op operand compare : Nat} {asker : Option Asker} (h : KeepsForm s t) :
    KeepsForm s (serveAtomic t part src tag addr op operand compare asker).state := by
  unfold serveAtomic
  extract_lets w _
  split
  · exact h
  · split
    · exact addrErr_keepsForm h
    · split
      · exact winErr_keepsForm h
      · exact h.lendMem (memWf_mwriteN _ _) rfl
    · split
      next heq => exact .of_some_snd heq (fabTierCheck_keepsForm h)
      · extract_lets t1 off
        split
        next s1 heq =>
          have hs1 : KeepsForm s s1 := .of_snd heq (stackTry'_keepsForm (readChecks_keepsForm h))
          split
          · exact hs1
          · split
            · exact hs1
            · split
              · exact noSpace_keepsForm hs1
              next s11 heq1 =>
                have hs11 : KeepsForm s s11 := .of_some heq1 (giveHomes_keepsForm hs1)
                extract_lets moving frozen old
                split
                · split
                  next heq2 => exact queueWrite_keepsForm (.of_snd heq2 (writeHomed_keepsForm hs11))
                  · exact h
                  next heq2 => exact .of_snd heq2 (writeHomed_keepsForm hs11)
                · split
                  · exact queueWrite_keepsForm hs11
                  · exact fabCount_keepsForm (applyBytes_keepsForm hs11)

theorem donePending_keepsForm {c u : Nat} (h : KeepsForm s t) : KeepsForm s (donePending t c u) :=
  setCl_keepsForm h h.scratch

theorem addPending_keepsForm {c u n : Nat} (h : KeepsForm s t) : KeepsForm s (addPending t c u n) :=
  setCl_keepsForm h h.scratch

theorem deliverTo_keepsForm {tag : Nat} {r : Req} {status : Nat} {bytes : List Byte} (h : KeepsForm s t) :
    KeepsForm s (deliverTo t tag r status bytes) := by
  unfold deliverTo
  split
  · extract_lets s1
    have hs1 : KeepsForm s s1 := by
      unfold s1
      split
      · exact scrWrite_keepsForm h
      · exact h
    exact resume_keepsForm (donePending_keepsForm hs1)
  · exact donePending_keepsForm h
  · exact resume_keepsForm (donePending_keepsForm h)
  · extract_lets x
    split
    · exact h
    · extract_lets s1 y
      have hs1 : KeepsForm s s1 := by
        unfold s1
        split
        · exact scrWrite_keepsForm h
        · exact h
      exact donePending_keepsForm (setCl_keepsForm hs1 hs1.scratch)
  · exact count_keepsForm h
  · exact h

theorem deliver_keepsForm {tag : Nat} {r : Req} {status : Nat} {bytes : List Byte} (h : KeepsForm s t) :
    KeepsForm s (deliver t tag r status bytes) := by
  unfold deliver
  extract_lets s1
  have hs1 : KeepsForm s s1 := deliverTo_keepsForm h
  split
  · split
    · exact hs1
    · exact endWork_keepsForm hs1
  · exact hs1

theorem dropRemote_keepsForm {line n : Nat} (h : KeepsForm s t) : KeepsForm s (dropRemote t line n) :=
  h.clusters (tabWf_map fun _ => rfl) (fun hs => forall_mem_map hs fun _ hx => hx) rfl

theorem spreadInval_keepsForm {p : Packet} {tos : List Nat} (h : KeepsForm s t) : KeepsForm s (spreadInval t p tos) :=
  foldl_keepsForm h (fun _ _ hu => sendPkt_keepsForm hu)

theorem launch_keepsForm {tag : Nat} {r : Req} (h : KeepsForm s t) : KeepsForm s (launch t tag r).2 := by
  unfold launch
  split
  · extract_lets peers eps s1 wait _
    have hs1 : KeepsForm s s1 := spreadInval_keepsForm (dropRemote_keepsForm h)
    split
    · exact deliver_keepsForm hs1
    · exact hs1.frame rfl
  · split
    next s1 heq =>
      have hs1 : KeepsForm s s1 := .of_snd heq (sendPacket_keepsForm h)
      split
      · exact hs1.frame rfl
      · exact deliver_keepsForm (hs1.frame rfl)

theorem finishReq_keepsForm {tag status : Nat} {bytes : List Byte} (h : KeepsForm s t) :
    KeepsForm s (finishReq t tag status bytes) := by
  unfold finishReq
  split
  · exact h
  · exact deliver_keepsForm (h.frame rfl)

theorem releaseFlags_keepsForm {tag status : Nat} (h : KeepsForm s t) : KeepsForm s (releaseFlags t tag status) := by
  unfold releaseFlags
  extract_lets upd go _ s1
  have hs1 : KeepsForm s s1 := h.frame rfl
  refine foldl_keepsForm hs1 (fun u x hu => ?_)
  split
  · exact deliver_keepsForm (count_keepsForm hu)
  · exact launch_keepsForm hu

theorem completeReq_keepsForm {tag status : Nat} {bytes : List Byte} (h : KeepsForm s t) :
    KeepsForm s (completeReq t tag status bytes) := by
  unfold completeReq
  split
  · exact releaseFlags_keepsForm (finishReq_keepsForm h)
  · exact h

theorem request_keepsForm {kind dst part rcls addr len aux : Nat} {payload : List Byte} {flag_ : Bool} {for_ : ReqFor}
    {deadline : Option Nat} (h : KeepsForm s t) :
    KeepsForm s (request t kind dst part rcls addr len aux payload flag_ for_ deadline).2 := by
  unfold request
  split
  next s1 heq =>
    have hs1 : KeepsForm s s1 := .of_snd heq (newTag_keepsForm h)
    extract_lets p r before _
    split
    · exact launch_keepsForm hs1
    · exact hs1.frame rfl

theorem fseqTake_keepsForm {port src : Nat} (h : KeepsForm s t) : KeepsForm s (fseqTake t port src) := by
  unfold fseqTake
  extract_lets r _
  split
  · exact h.frame rfl

theorem passOn_keepsForm {p : Packet} (h : KeepsForm s t) : KeepsForm s (passOn t p) := by
  unfold passOn
  extract_lets t1 e
  split
  · split
    · exact putOnPort_keepsForm h
    · exact countNode_keepsForm h
  · split
    · exact emit_keepsForm h
    · split
      next heq => exact putOnPort_keepsForm (.of_snd heq (takeFree_keepsForm h))

theorem arrive_keepsForm {port : Nat} {p : Packet} {act : Packet → State → Bool × State} (h : KeepsForm s t)
    (hact : ∀ p1 u, KeepsForm s u → KeepsForm s (act p1 u).2) : KeepsForm s (arrive t port p act) := by
  unfold arrive
  extract_lets r burst _
  split
  · exact countNode_keepsForm h
  · split
    · split
      · exact h.frame rfl
      · exact h
    · split
      next s1 heq =>
        have hs1 : KeepsForm s s1 := .of_snd heq (hact _ _ h)
        exact hs1.frame rfl
      next s1 heq =>
        have hs1 : KeepsForm s s1 := .of_snd heq (hact _ _ h)
        extract_lets _ s2
        have hs2 : KeepsForm s s2 := by
          unfold s2
          split
          · exact hs1.frame rfl
          · exact hs1
        split
        · exact fseqTake_keepsForm hs2
        · exact hs2

theorem rejectOld_keepsForm {p : Packet} (h : KeepsForm s t) : KeepsForm s (rejectOld t p) :=
  sendPkt_keepsForm (countNode_keepsForm h)

theorem holdNew_keepsForm {port : Nat} {p : Packet} (h : KeepsForm s t) : KeepsForm s (holdNew t port p) :=
  h.frame rfl

theorem receive_keepsForm {port kind : Nat} {p0 : Packet} {act : Packet → State → Bool × State}
    {onward : Packet → State → State} (h : KeepsForm s t) (hact : ∀ p u, KeepsForm s u → KeepsForm s (act p u).2)
    (hon : ∀ p u, KeepsForm s u → KeepsForm s (onward p u)) : KeepsForm s (receive t port kind p0 act onward) := by
  unfold receive
  extract_lets p _ u
  have hu : KeepsForm s u := h.frame rfl
  split
  · exact h
  · split
    · exact countNode_keepsForm hu
    · split
      · exact rejectOld_keepsForm hu
      · split
        · exact holdNew_keepsForm hu
        · split
          · refine respond_keepsForm ?_
            split
            · exact count_keepsForm hu
            · exact hu
          · split
            · exact hon _ _ hu
            · exact arrive_keepsForm hu hact

theorem answer_keepsForm {p : Packet} {r : Served} (hr : KeepsForm s r.state) : KeepsForm s (answer p r).2 := by
  unfold answer
  split
  · exact respond_keepsForm hr
  · exact hr
  · exact hr

end Sys2Proof.Machine
end

section
/-!
Each function of `Machine.QueryOps` keeps the form: one lemma per function, in the file's order.
-/
namespace Sys2Proof.Machine
variable {s t : State}

theorem deliverQuery_keepsForm {qid : Nat} {q : Query} {merged : Bool} {bytes : List Byte} (h : KeepsForm s t) :
    KeepsForm s (deliverQuery t qid q merged bytes) := by
  unfold deliverQuery
  extract_lets h1 st s1 nd
  have hs1 : KeepsForm s s1 := by
    unfold s1
    split
    · exact resultWrite_keepsForm h
    · exact h
  exact endQuery_keepsForm hs1

theorem expireQuery_keepsForm {qid : Nat} (h : KeepsForm s t) : KeepsForm s (expireQuery t qid) := by
  unfold expireQuery
  split
  · exact h
  · exact endQuery_keepsForm (count_keepsForm (h.frame rfl))

theorem sendList_keepsForm {kind dst part inst aux cflags ranks : Nat} {bytes : List Byte} (h : KeepsForm s t) :
    KeepsForm s (sendList t kind dst part inst aux cflags ranks bytes) :=
  foldl_keepsForm h (fun _ _ hu => sendPkt_keepsForm hu)

theorem takeKneader_keepsForm {m : Merge} (h : KeepsForm s t) : KeepsForm s (takeKneader t m) := by
  unfold takeKneader
  split
  · exact h.frame rfl
  · exact count_keepsForm (h.frame rfl)

theorem absentRanks_keepsForm {key ranks : Nat} (h : KeepsForm s t) : KeepsForm s (absentRanks t key ranks) := by
  unfold absentRanks
  split
  · exact h
  · extract_lets new _ s1 _
    have hs1 : KeepsForm s s1 := h.colls (tabWf_tput _ _) rfl
    split
    · exact h
    · exact count_keepsForm (hs1.frame rfl)

theorem tally_keepsForm {c : Coll} (h : KeepsForm s t) : KeepsForm s (tally t c) :=
  h.frame rfl

theorem mergeReady_keepsForm {key : Nat} (h : KeepsForm s t) : KeepsForm s (mergeReady t key) := by
  unfold mergeReady
  split
  · exact h
  · split
    · split
      · exact h
      · split
        · exact h.colls (tabWf_terase _) rfl
        · exact takeKneader_keepsForm (tally_keepsForm (h.colls (tabWf_terase _) rfl))
    · exact h

end Sys2Proof.Machine
end

section
/-!
Each function of `Machine.VecOps` keeps the form: one lemma per function, in the file's order.
-/
namespace Sys2Proof.Machine
variable {s t : State}

theorem tabWf_putElem {x : Tab Byte} (h : tabWf x = true) (f : Fmt) (a i v : Nat) : tabWf (putElem f a i v x) = true := by
  unfold putElem
  split
  · exact tabWf_scrPut h _ _
  · exact tabWf_scrWriteT h _ _

theorem tabWf_putElems {x : Tab Byte} (h : tabWf x = true) (f : Fmt) (a i : Nat) (vs : List Nat) :
    tabWf (putElems f a i vs x) = true := by
  induction vs generalizing x i with
  | nil => exact h
  | cons v vs ih => exact ih (tabWf_putElem h f a i v) (i + 1)

theorem scrPutElems_keepsForm {c : Nat} {f : Fmt} {a : Nat} {vs : List Nat} (h : KeepsForm s t) :
    KeepsForm s (scrPutElems t c f a vs) :=
  setCl_keepsForm h fun hs => tabWf_putElems (h.scratch hs) f a 0 vs

theorem skipFree_keepsForm {n : Nat} (h : KeepsForm s t) : KeepsForm s (skipFree t n) :=
  h.frame rfl

theorem takeDraws_keepsForm {c : Nat} {sr : Bool} {n : Nat} (h : KeepsForm s t) : KeepsForm s (takeDraws t c sr n) := by
  unfold takeDraws
  split
  · extract_lets x
    generalize (List.range 32).foldl _ x.draws = draws
    exact setCl_keepsForm h h.scratch
  · exact h

theorem storeConv_keepsForm {c slot : Nat} {f : Fmt} {a : Nat} {es : List (Nat × Bool)} (h : KeepsForm s t) :
    KeepsForm s (storeConv t c slot f a es) :=
  satCount_keepsForm (scrPutElems_keepsForm h)

theorem failInv_keepsForm {c u : Nat} {e : Ending} (h : KeepsForm s t) : KeepsForm s (failInv t c u e) := by
  unfold failInv
  extract_lets i s1
  have hs1 : KeepsForm s s1 := retire_keepsForm h
  clear_value i
  split
  · exact endWork_keepsForm hs1
  · exact hs1

theorem scrChecks_keepsForm {c : Nat} {rs : List (Nat × Nat)} (h : KeepsForm s t) : KeepsForm s (scrChecks t c rs).2 := by
  unfold scrChecks
  extract_lets target hit
  split
  · exact h
  next heq => exact fenceFor_keepsForm (.of_snd heq (injHit_keepsForm h))
  next heq => exact detect_keepsForm (.of_snd heq (injHit_keepsForm h))

theorem issueW_keepsForm {c u op : Nat} {rd : Nat → State → List (Nat × Nat)} {f : Nat → State → Bool × State}
    (h : KeepsForm s t) (hf : ∀ w u1, KeepsForm s u1 → KeepsForm s (f w u1).2) : KeepsForm s (issueW t c u op rd f) := by
  unfold issueW
  refine issue_keepsForm h (fun w u1 hu1 => ?_)
  split
  next heq => exact forall_mem_some (.of_snd heq (scrChecks_keepsForm hu1))
  next s1 heq =>
    have hs1 : KeepsForm s s1 := .of_snd heq (scrChecks_keepsForm hu1)
    split
    next heq1 => exact forall_mem_some (.of_snd heq1 (hf _ _ hs1))
    next s11 heq1 =>
      have hs11 : KeepsForm s s11 := .of_snd heq1 (hf _ _ hs1)
      exact forall_mem_some (setCl_keepsForm hs11 hs11.scratch)

theorem issueR_keepsForm {c u op : Nat} {rd : Nat → State → List (Nat × Nat)} {f : Nat → State → State} (h : KeepsForm s t)
    (hf : ∀ w u1, KeepsForm s u1 → KeepsForm s (f w u1)) : KeepsForm s (issueR t c u op rd f) :=
  issueW_keepsForm h (fun _ _ hu1 => retire_keepsForm (hf _ _ hu1))

end Sys2Proof.Machine
end

section
/-!
Each function of `Machine.Tensor` keeps the form: one lemma per function, in the file's order.
-/
namespace Sys2Proof.Machine
variable {s t : State}

theorem tmmaDo_keepsForm {c w : Nat} (h : KeepsForm s t) : KeepsForm s (tmmaDo t c w) := by
  unfold tmmaDo
  extract_lets x accs keep int raw
  split
  · extract_lets acc1 s1 es s2
    have hs1 : KeepsForm s s1 := accsatCount_keepsForm (setCl_keepsForm h h.scratch)
    have hs2 : KeepsForm s s2 := by
      unfold s2
      split
      · exact hs1
      · split
        · exact scrPutElems_keepsForm hs1
        · exact takeDraws_keepsForm (storeConv_keepsForm hs1)
    exact skipFree_keepsForm hs2

theorem execTmma_keepsForm {c : Fin 128} (h : KeepsForm s t) : ResKeeps s (execTmma c t) :=
  issueR_keepsForm h (fun _ _ hu => tmmaDo_keepsForm hu)

theorem execTdist_keepsForm {c : Fin 128} (h : KeepsForm s t) : ResKeeps s (execTdist c t) :=
  issueR_keepsForm h (fun _ _ hu => skipFree_keepsForm (countCls_keepsForm (scrPutElems_keepsForm hu)))

theorem execTzero_keepsForm {c : Fin 128} (h : KeepsForm s t) : ResKeeps s (execTzero c t) := by
  unfold execTzero
  refine issueNow_keepsForm h (fun w u hu => ?_)
  exact forall_mem_some (setCl_keepsForm hu hu.scratch)

end Sys2Proof.Machine
end

section
/-!
Each function of `Machine.Train` keeps the form: one lemma per function, in the file's order.
-/
namespace Sys2Proof.Machine
variable {s t : State}

theorem countEntries_keepsForm {c : Nat} {d : TabD} {es : List (Nat × F32)} (h : KeepsForm s t) :
    KeepsForm s (countEntries t c d es) :=
  countCls_keepsForm (countCls_keepsForm h)

theorem execVpool_keepsForm {c : Fin 128} (h : KeepsForm s t) : ResKeeps s (execVpool c t) := by
  unfold execVpool
  refine issueW_keepsForm h (fun w u hu => ?_)
  extract_lets x l es df
  split
  · exact failInv_keepsForm hu
  · split
    · exact failInv_keepsForm hu
    · extract_lets rows f
      split
      next heq => exact .of_gotL heq (unitReads_keepsForm hu)
      next heq => exact failInv_keepsForm (.of_gotL heq (unitReads_keepsForm hu))
      next t1 heq =>
        have ht1 : KeepsForm s t1 := .of_gotL heq (unitReads_keepsForm hu)
        extract_lets vals rowOf bags out t2 t3 t4
        have ht2 : KeepsForm s t2 := storeConv_keepsForm (countEntries_keepsForm ht1)
        have ht3 : KeepsForm s t3 := countCls_keepsForm ht2
        have ht4 : KeepsForm s t4 := countCls_keepsForm ht3
        exact retire_keepsForm (skipFree_keepsForm (takeDraws_keepsForm ht4))

theorem tabWf_wr32 {x : Tab Byte} (h : tabWf x = true) (a v : Nat) : tabWf (wr32 x a v) = true := tabWf_scrWriteT h _ _

theorem tabWf_wrVec {x : Tab Byte} (h : tabWf x = true) (a : Nat) (vs : List Nat) : tabWf (wrVec x a vs) = true :=
  tabWf_scrWriteT h _ _

theorem tabWf_coalTake {x : Tab Byte} (h : tabWf x = true) (int : Bool) (base area w row : Nat) (v : List Nat) (k : CoalCnt) :
    ∀ y ∈ coalTake int base area w row v x k, tabWf y.1 = true := by
  unfold coalTake
  extract_lets h0 n
  split
  · exact forall_mem_none
  · exact forall_mem_some (tabWf_wrVec (tabWf_wr32 (tabWf_wr32 (tabWf_wr32 h _ _) _ _) _ _) _ _)
  · extract_lets a cnt inUse
    split
    next t1 hotNo k2 heq =>
    have ht1 : tabWf t1 = true := by
      split at heq
      · obtain ⟨rfl, -⟩ := Prod.mk.inj heq
        exact tabWf_wr32 (tabWf_wrVec h _ _) _ _
      · obtain ⟨rfl, -⟩ := Prod.mk.inj heq
        exact h
    exact forall_mem_some (tabWf_wrVec (tabWf_wr32 ht1 _ _) _ _)

theorem tabWf_coalRun {f : Nat × F32 × List Nat → Tab Byte → CoalCnt → Option (Tab Byte × CoalCnt)}
    (hf : ∀ e x k, tabWf x = true → ∀ y ∈ f e x k, tabWf y.1 = true) (es : List (Option (Nat × F32 × List Nat))) {x : Tab Byte}
    (h : tabWf x = true) (n : Nat) (k : CoalCnt) : tabWf (coalRun f es n x k).1 = true := by
  induction es generalizing n x k with
  | nil => exact h
  | cons e es ih =>
    cases e with
    | none => exact ih h _ _
    | some e =>
      unfold coalRun
      split
      · exact h
      · next heq => exact ih (hf e x k h _ heq) _ _

theorem coalAccumulate_keepsForm {c w : Nat} (h : KeepsForm s t) : KeepsForm s (coalAccumulate t c w) := by
  unfold coalAccumulate
  extract_lets x l base inv start bagOf sf int area
  split
  · exact failInv_keepsForm h
  · split
    · exact failInv_keepsForm h
    · extract_lets gs es items
      clear_value items start
      split
      next tb n k heq =>
      have hTab (hs : WorkInv s) : tabWf tb = true :=
        (congrArg (fun y => tabWf y.1) heq).symm.trans
          (tabWf_coalRun (fun e x k hx => tabWf_coalTake hx int base area _ _ _ k) items (h.scratch hs) start {})
      extract_lets s1 s2 s3 s4
      have hs1 : KeepsForm s s1 := setCl_keepsForm h fun hs => tabWf_wr32 (hTab hs) _ _
      have hs2 : KeepsForm s s2 := countEntries_keepsForm hs1
      have hs3 : KeepsForm s s3 := countCls_keepsForm (countCls_keepsForm hs2)
      have hs4 : KeepsForm s s4 := accsatCount_keepsForm (countCls_keepsForm hs3)
      exact retire_keepsForm (skipFree_keepsForm hs4)

theorem execVcoalAccumulate_keepsForm {c : Fin 128} (h : KeepsForm s t) : ResKeeps s (execVcoalAccumulate c t) := by
  unfold execVcoalAccumulate
  refine issueW_keepsForm h (fun w u hu => ?_)
  split
  · exact coalAccumulate_keepsForm hu
  · exact hu

theorem sendPartial_keepsForm {p : Partial} {owner : Nat} (h : KeepsForm s t) : KeepsForm s (sendPartial t p owner) :=
  setCl_keepsForm h h.scratch

theorem coalFlush_keepsForm {c w : Nat} (h : KeepsForm s t) : KeepsForm s (coalFlush t c w) := by
  unfold coalFlush
  extract_lets x base area wd h0 int rows one sums clean s1 inv s2
  have hClean (hs : WorkInv s) : tabWf clean = true :=
    List.foldlRecOn rows _ (motive := fun x : Tab Byte => tabWf x = true) (h.scratch hs) fun x hx a _ => tabWf_wr32 hx _ _
  clear_value clean sums
  have hs1 : KeepsForm s s1 := accsatCount_keepsForm (setCl_keepsForm h hClean)
  have hs2 : KeepsForm s s2 := foldl_keepsForm hs1 fun t p ht => sendPartial_keepsForm ht
  split
  · exact retire_keepsForm hs2
  · exact setWait_keepsForm hs2

theorem execVcoalFlush_keepsForm {c : Fin 128} (h : KeepsForm s t) : ResKeeps s (execVcoalFlush c t) := by
  unfold execVcoalFlush
  refine issueW_keepsForm h (fun w u hu => ?_)
  split
  · exact coalFlush_keepsForm hu
  · exact hu

theorem combine_keepsForm {c : Nat} {p : Partial} (h : KeepsForm s t) : KeepsForm s (combine t c p) := by
  unfold combine
  extract_lets x w area n old t0 put
  have ht0 (hs : WorkInv s) : tabWf t0 = true := by
    have hx : tabWf x.scratch = true := h.scratch hs
    unfold t0
    split
    · exact hx
    · exact List.foldlRecOn _ _ (motive := fun x : Tab Byte => tabWf x = true) (tabWf_wr32 (tabWf_wr32 hx _ _) _ _)
        fun x hx a _ => tabWf_wr32 hx _ _
  clear_value t0
  have hput {y : Tab Byte} (hy : WorkInv s → tabWf y = true) : KeepsForm s (put y) := setCl_keepsForm h hy
  split
  · exact countCls_keepsForm (hput fun hs => tabWf_wr32 (ht0 hs) _ _)
  · extract_lets a
    split
    exact accsatCount_keepsForm (hput fun hs => tabWf_wrVec (tabWf_wr32 (tabWf_wr32 (ht0 hs) _ _) _ _) _ _)

theorem execCoalPartialArrive_keepsForm {c : Fin 128} {i : Nat} (h : KeepsForm s t) :
    ResKeeps s (execCoalPartialArrive c i t) := by
  unfold execCoalPartialArrive
  split
  · exact h
  · extract_lets x s1
    have hs1 : KeepsForm s s1 := combine_keepsForm (setCl_keepsForm h h.scratch)
    split
    · exact hs1
    · exact resume_keepsForm hs1

theorem tabWf_sortEntries {x : Tab Byte} (h : tabWf x = true) (base w n : Nat) : tabWf (sortEntries x base w n).1 = true := by
  unfold sortEntries
  extract_lets es sorted t1
  have ht1 : tabWf t1 = true := List.foldlRecOn _ _ (motive := fun x : Tab Byte => tabWf x = true) h fun x hx e _ =>
    tabWf_wrVec (tabWf_wr32 (tabWf_wr32 hx _ _) _ _) _ _
  exact tabWf_wr32 ht1 _ _

theorem execVcoalCollect_keepsForm {c : Fin 128} (h : KeepsForm s t) : ResKeeps s (execVcoalCollect c t) := by
  unfold execVcoalCollect
  refine issueW_keepsForm h fun w t ht => ?_
  extract_lets x base
  split
  · exact ht
  · split
    · exact retire_keepsForm (setCl_keepsForm ht fun hs => tabWf_wr32 (ht.scratch hs) base 0)
    · split
      next b n heq =>
      have hb (hs : WorkInv s) : tabWf b = true :=
        (congrArg (fun y => tabWf y.1) heq).symm.trans (tabWf_sortEntries (ht.scratch hs) _ _ _)
      exact retire_keepsForm (countCls_keepsForm (setCl_keepsForm ht hb))

theorem optWrite_keepsForm {c addr : Nat} {bs : List Byte} {x : WrRes × State} (hx : KeepsForm s x.2) :
    KeepsForm s (optWrite x c addr bs).2 := by
  unfold optWrite
  split
  · exact hx
  · extract_lets p
    split
    next s1 heq =>
      have hs1 : KeepsForm s s1 := .of_snd heq (writeSpan_keepsForm (foldl_keepsForm hx (fun u x1 hu =>
          regCharge_keepsForm hu)))
      split
      · exact foldl_keepsForm hs1 (fun u x1 hu => hotCount_keepsForm hu)
    · exact writeSpan_keepsForm (foldl_keepsForm hx (fun u x1 hu => regCharge_keepsForm hu))

theorem optOne_keepsForm {c w : Nat} {d : TabD} {k : OptK} {row : Nat} {g : List F32} {got : List (List Byte)}
    {x : WrRes × State} (hx : KeepsForm s x.2) : KeepsForm s (optOne x c w d k row g got).2 := by
  unfold optOne
  split
  · exact hx
  · split
    · exact countCls_keepsForm hx
    · extract_lets f at_ p m v slot bytes count moment
      have hcount {t1} (ht1 : KeepsForm s t1) {es} : KeepsForm s (count t1 es) := satCount_keepsForm ht1
      have hmoment {y} (hy : KeepsForm s y.2) {tile} {stile} {vals} : KeepsForm s (moment y tile stile vals).2 := by
        unfold moment
        split
        · exact optWrite_keepsForm (optWrite_keepsForm (takeDraws_keepsForm (hcount hy)))
      split
      · extract_lets y1
        have hy1 : KeepsForm s y1.2 := by
          unfold y1
          split
          · exact hx
          · exact hmoment (hmoment hx)
        split
        · exact countCls_keepsForm (optWrite_keepsForm (optWrite_keepsForm (takeDraws_keepsForm (hcount hy1))))

theorem execVopt_keepsForm {c : Fin 128} (h : KeepsForm s t) : ResKeeps s (execVopt c t) := by
  unfold execVopt
  refine issueW_keepsForm h (fun w u hu => ?_)
  extract_lets k x back
  split
  · exact failInv_keepsForm hu
  · split
    · exact failInv_keepsForm hu
    · extract_lets rows
      split
      next heq => exact .of_gotL heq (unitReads_keepsForm hu)
      next heq => exact failInv_keepsForm (.of_gotL heq (unitReads_keepsForm hu))
      next t1 heq =>
        have ht1 : KeepsForm s t1 := .of_gotL heq (unitReads_keepsForm hu)
        split
        next heq1 =>
          exact retire_keepsForm (.of_snd heq1 (foldl_snd_keepsForm ht1 (fun p x1 hp => optOne_keepsForm hp)))
        · exact hu
        next heq1 =>
          exact failInv_keepsForm (.of_snd heq1 (foldl_snd_keepsForm ht1 (fun p x1 hp => optOne_keepsForm hp)))
        next heq1 =>
          exact failInv_keepsForm (.of_snd heq1 (foldl_snd_keepsForm ht1 (fun p x1 hp => optOne_keepsForm hp)))

end Sys2Proof.Machine
end

section
/-!
Each function of `Machine.Vec` keeps the form: one lemma per function, in the file's order.
-/
namespace Sys2Proof.Machine
variable {s t : State}

theorem execVload_keepsForm {c : Fin 128} (h : KeepsForm s t) : ResKeeps s (execVload c t) := by
  unfold execVload
  refine issueW_keepsForm h (fun w u hu => ?_)
  split
  next heq => exact retire_keepsForm (scrWrite_keepsForm (.of_got heq (unitRead_keepsForm hu)))
  next heq => exact failInv_keepsForm (.of_got heq (unitRead_keepsForm hu))
  next heq => exact .of_got heq (unitRead_keepsForm hu)

theorem execVstore_keepsForm {c : Fin 128} (h : KeepsForm s t) : ResKeeps s (execVstore c t) := by
  unfold execVstore
  refine issueW_keepsForm h (fun w u hu => ?_)
  split
  next heq => exact retire_keepsForm (.of_got heq (unitWrite_keepsForm hu))
  next heq => exact failInv_keepsForm (.of_got heq (unitWrite_keepsForm hu))
  next heq => exact .of_got heq (unitWrite_keepsForm hu)

theorem putScales_keepsForm {c : Nat} {f : Fmt} {a : Nat} {ks : List Nat} (h : KeepsForm s t) :
    KeepsForm s (putScales t c f a ks) :=
  scrWrite_keepsForm h

theorem execVproof_keepsForm {c : Fin 128} (h : KeepsForm s t) : ResKeeps s (execVproof c t) :=
  issueR_keepsForm h (fun _ _ hu => skipFree_keepsForm (nonfinCount_keepsForm (putScales_keepsForm hu)))

theorem execVconv_keepsForm {c : Fin 128} (h : KeepsForm s t) : ResKeeps s (execVconv c t) :=
  issueR_keepsForm h (fun _ _ hu => skipFree_keepsForm (takeDraws_keepsForm (storeConv_keepsForm hu)))

theorem execVpconv_keepsForm {c : Fin 128} (h : KeepsForm s t) : ResKeeps s (execVpconv c t) := by
  unfold execVpconv
  refine issueR_keepsForm h (fun w u hu => ?_)
  split
  · extract_lets vs ks es t1
    have ht1 : KeepsForm s t1 := nonfinCount_keepsForm (putScales_keepsForm hu)
    exact skipFree_keepsForm (takeDraws_keepsForm (storeConv_keepsForm ht1))

theorem execVrescale_keepsForm {c : Fin 128} (h : KeepsForm s t) : ResKeeps s (execVrescale c t) :=
  issueR_keepsForm h (fun _ _ hu => skipFree_keepsForm (takeDraws_keepsForm (storeConv_keepsForm hu)))

theorem execVew_keepsForm {c : Fin 128} (h : KeepsForm s t) : ResKeeps s (execVew c t) := by
  unfold execVew
  refine issueR_keepsForm h (fun w u hu => ?_)
  split
  · exact skipFree_keepsForm (takeDraws_keepsForm (storeConv_keepsForm hu))

theorem execVred_keepsForm {c : Fin 128} (h : KeepsForm s t) : ResKeeps s (execVred c t) := by
  unfold execVred
  refine issueR_keepsForm h (fun w u hu => ?_)
  split
  · exact skipFree_keepsForm (takeDraws_keepsForm (storeConv_keepsForm hu))

theorem execVargmax_keepsForm {c : Fin 128} (h : KeepsForm s t) : ResKeeps s (execVargmax c t) :=
  issueR_keepsForm h (fun _ _ hu => scrWrite_keepsForm hu)

theorem execVdist_keepsForm {c : Fin 128} (h : KeepsForm s t) : ResKeeps s (execVdist c t) :=
  issueR_keepsForm h (fun _ _ hu => skipFree_keepsForm (countCls_keepsForm (scrPutElems_keepsForm hu)))

theorem execVfilt_keepsForm {c : Fin 128} (h : KeepsForm s t) : ResKeeps s (execVfilt c t) := by
  unfold execVfilt
  refine issueW_keepsForm h (fun w u hu => ?_)
  extract_lets es
  clear_value es
  split
  · split
    · exact retire_keepsForm hu
    · split
      · exact failInv_keepsForm hu
      · exact retire_keepsForm (skipFree_keepsForm (scrWrite_keepsForm (countCls_keepsForm (countCls_keepsForm hu))))

theorem localReady_keepsForm {part a : Nat} (h : KeepsForm s t) : KeepsForm s (localReady t part a).2 := by
  unfold localReady
  split
  · extract_lets t1 h1
    split
    · exact h
    · split
      · split
        next heq => exact .of_snd heq (writeHomed_keepsForm h)
        · exact h
      · exact h
  · exact h

theorem execVatom_keepsForm {c : Fin 128} (h : KeepsForm s t) : ResKeeps s (execVatom c t) := by
  unfold execVatom
  refine issueW_keepsForm h (fun w u hu => ?_)
  extract_lets a p operand compare
  split
  · exact failInv_keepsForm hu
  · split
    · split
      next heq => exact .of_snd heq (localReady_keepsForm hu)
      next s1 heq =>
        have hs1 : KeepsForm s s1 := .of_snd heq (localReady_keepsForm hu)
        split
        next s2 heq1 =>
          have hs2 : KeepsForm s s2 := .of_served heq1 (serveAtomic_keepsForm hs1)
          split
          · exact retire_keepsForm (scrWrite_keepsForm hs2)
          · exact failInv_keepsForm hs2
        next heq1 => exact .of_served heq1 (serveAtomic_keepsForm hs1)
        next heq1 => exact .of_served heq1 (serveAtomic_keepsForm hs1)
    · split
      next heq => exact .of_snd heq (regTry_keepsForm hu)
      next heq => exact request_keepsForm (addPending_keepsForm (setWait_keepsForm (.of_snd heq (regTry_keepsForm hu))))

theorem execVstflag_keepsForm {c : Fin 128} (h : KeepsForm s t) : ResKeeps s (execVstflag c t) := by
  unfold execVstflag
  refine issueW_keepsForm h (fun w u hu => ?_)
  extract_lets a p bytes
  split
  · exact failInv_keepsForm hu
  · split
    · exact failInv_keepsForm (count_keepsForm hu)
    · split
      · split
        · exact hu
        · split
          next s1 heq =>
            have hs1 : KeepsForm s s1 := .of_served heq (serveStore_keepsForm hu)
            split
            · exact retire_keepsForm hs1
            · exact failInv_keepsForm hs1
          next heq => exact retire_keepsForm (.of_served heq (serveStore_keepsForm hu))
          next heq => exact .of_served heq (serveStore_keepsForm hu)
      · split
        next heq => exact .of_snd heq (regTry_keepsForm hu)
        next heq =>
          exact request_keepsForm (retire_keepsForm (addPending_keepsForm (.of_snd heq (regTry_keepsForm hu))))

theorem execVinval_keepsForm {c : Fin 128} (h : KeepsForm s t) : ResKeeps s (execVinval c t) :=
  issueW_keepsForm h (fun _ _ hu => request_keepsForm (addPending_keepsForm (setWait_keepsForm hu)))

end Sys2Proof.Machine
end

section
/-!
Each function of `Machine.Select` keeps the form: one lemma per function, in the file's order.
-/
namespace Sys2Proof.Machine
variable {s t : State}

theorem execShist_keepsForm {c : Fin 128} (h : KeepsForm s t) : ResKeeps s (execShist c t) := by
  unfold execShist
  refine issueR_keepsForm h (fun w u hu => ?_)
  extract_lets es
  split
  · exact countCls_keepsForm (scrWrite_keepsForm hu)

theorem execSbucket_keepsForm {c : Fin 128} (h : KeepsForm s t) : ResKeeps s (execSbucket c t) := by
  unfold execSbucket
  refine issueR_keepsForm h (fun w u hu => ?_)
  extract_lets lower es k r h0 fl h1 t1 t2 t3
  have ht1 : KeepsForm s t1 := scrWrite_keepsForm hu
  have ht2 : KeepsForm s t2 := countCls_keepsForm (countCls_keepsForm ht1)
  have ht3 : KeepsForm s t3 := by
    unfold t3
    split
    · exact countCls_keepsForm ht2
    · exact ht2
  split
  · exact ht3
  · exact countCls_keepsForm ht3

theorem execScrumb_keepsForm {c : Fin 128} (h : KeepsForm s t) : ResKeeps s (execScrumb c t) := by
  unfold execScrumb
  refine issueR_keepsForm h (fun w u hu => ?_)
  extract_lets lower x es k base inv l old _ t1
  have ht1 : KeepsForm s t1 := setCl_keepsForm hu hu.scratch
  split
  · exact countCls_keepsForm (countCls_keepsForm (scrWrite_keepsForm ht1))

theorem sendPartialList_keepsForm {qid : Nat} {q : Query} {pos ctx : Nat} {bytes : List Byte} (h : KeepsForm s t) :
    KeepsForm s (sendPartialList t qid q pos ctx bytes) :=
  endQuery_keepsForm (sendList_keepsForm h)

theorem execSemit_keepsForm {c : Fin 128} (h : KeepsForm s t) : ResKeeps s (execSemit c t) := by
  unfold execSemit
  refine issueW_keepsForm h (fun w u hu => ?_)
  extract_lets bytes t1 _
  clear_value bytes
  have ht1 : KeepsForm s t1 := retire_keepsForm hu
  split
  · split
    · split
      next heq => exact .of_snd heq (regTry_keepsForm hu)
      next heq => exact sendPartialList_keepsForm (retire_keepsForm (.of_snd heq (regTry_keepsForm hu)))
    · split
      · exact mergeReady_keepsForm (ht1.colls (tabWf_tupd _ _) rfl)
      · exact deliverQuery_keepsForm ht1
  · split
    · exact retire_keepsForm hu
    · extract_lets n gen t11 _
      have ht11 : KeepsForm s t11 := by
        unfold t11
        split
        · exact hu
        · exact resultWrite_keepsForm hu
      exact retire_keepsForm (ht11.invs (tabWf_tput _ _) rfl)

theorem execKneaderFree_keepsForm {k : Fin 16} (h : KeepsForm s t) : ResKeeps s (execKneaderFree k t) := by
  unfold execKneaderFree
  split
  · exact h.frame rfl
  · exact h

theorem kneBuffers_keepsForm {k : Nat} {m : Merge} (h : KeepsForm s t) : KeepsForm s (kneBuffers t k m).2 := by
  unfold kneBuffers
  split
  · exact h
  next heq => exact detect_keepsForm (.of_snd heq (injHit_keepsForm h))
  next s1 heq =>
    have hs1 : KeepsForm s s1 := .of_snd heq (injHit_keepsForm h)
    split
    next heq1 => exact detect_keepsForm (.of_snd heq1 (takeFree_keepsForm hs1))

theorem execKneaderMergeDone_keepsForm {k : Fin 16} (h : KeepsForm s t) : ResKeeps s (execKneaderMergeDone k t) := by
  unfold execKneaderMergeDone
  split
  · exact h
  · split
    · exact h
    · split
      next s0 heq =>
        have hs0 : KeepsForm s s0 := .of_snd heq (kneBuffers_keepsForm (h.frame rfl))
        extract_lets lists r bytes s1 _ s2 s3 s4
        have hs1 : KeepsForm s s1 := count_keepsForm (count_keepsForm hs0)
        have hs2 : KeepsForm s s2 := count_keepsForm (hs1.frame rfl)
        have hs3 : KeepsForm s s3 := count_keepsForm hs2
        have hs4 : KeepsForm s s4 := by
          unfold s4
          split
          · exact count_keepsForm hs3
          · exact hs3
        split
        · split
          · exact hs4
          · exact deliverQuery_keepsForm hs4
        · split
          · exact hs4
          · exact resume_keepsForm (scrWrite_keepsForm hs4)

end Sys2Proof.Machine
end

section
/-!
Each function of `Machine.Collective` keeps the form: one lemma per function, in the file's order.
-/
namespace Sys2Proof.Machine
variable {s t : State}

theorem openColl_keepsForm {slot k n part : Nat} {d : CollD} (h : KeepsForm s t) :
    KeepsForm s (openColl t slot k n part d).2 :=
  count_keepsForm (h.colls (tabWf_tput _ _) rfl)

theorem getColl_keepsForm {slot k n part : Nat} {d : CollD} (h : KeepsForm s t) :
    ∀ x ∈ getColl t slot k n part d, KeepsForm s x.2 := by
  unfold getColl
  split
  · exact forall_mem_some h
  · split
    · exact forall_mem_none
    · exact forall_mem_some (openColl_keepsForm h)

theorem dropColl_keepsForm {key : Nat} (h : KeepsForm s t) : KeepsForm s (dropColl t key) := by
  unfold dropColl
  split
  · exact h
  · extract_lets _ s1 _
    have hs1 : KeepsForm s s1 := tally_keepsForm (h.colls (tabWf_terase _) rfl)
    split
    · exact hs1
    · exact hs1.frame rfl

theorem giveLists_keepsForm {key : Nat} {c : Coll} (h : KeepsForm s t) : KeepsForm s (giveLists t key c) := by
  unfold giveLists
  extract_lets fill _ s1 _
  have hs1 : KeepsForm s s1 := h.frame rfl
  split
  · exact dropColl_keepsForm hs1
  · exact h.colls (tabWf_tput _ _) rfl

theorem closePlan_keepsForm {key : Nat} {c : Coll} {d : CollD} {bad : Option Nat} (h : KeepsForm s t) :
    KeepsForm s (closePlan t key c d bad) := by
  unfold closePlan
  split
  · exact giveLists_keepsForm h
  · split
    · exact h.colls (tabWf_tput _ _) rfl
    · extract_lets s1
      have hs1 : KeepsForm s s1 := dropColl_keepsForm h
      split
      · split
        · exact failInv_keepsForm hs1
        · exact hs1
      · split
        · extract_lets s2 _
          have hs2 : KeepsForm s s2 := resume_keepsForm (scrWrite_keepsForm hs1)
          split
          · exact hs2
          · exact count_keepsForm (hs2.frame rfl)

theorem collCheck_keepsForm {key : Nat} (h : KeepsForm s t) : KeepsForm s (collCheck t key) := by
  unfold collCheck
  split
  · exact h
  · split
    · exact mergeReady_keepsForm h
    · split
      · exact h
      · split
        · exact h
        · split
          · exact closePlan_keepsForm h
          · split
            · exact closePlan_keepsForm h
            · exact h

theorem loseRanks_keepsForm {key ranks : Nat} (h : KeepsForm s t) : KeepsForm s (loseRanks t key ranks) :=
  collCheck_keepsForm (absentRanks_keepsForm h)

theorem lateArrival_keepsForm {part : Nat} (h : KeepsForm s t) : KeepsForm s (lateArrival t part) :=
  countLate_keepsForm (h.frame rfl)

theorem takeList_keepsForm {key ranks : Nat} {combined : Bool} {epoch : Option Nat} {bytes : List Byte} (h : KeepsForm s t) :
    KeepsForm s (takeList t key ranks combined epoch bytes) := by
  unfold takeList
  split
  · exact h
  · extract_lets e _ x
    split
    · exact loseRanks_keepsForm (count_keepsForm (h.frame rfl))
    · split
      · exact loseRanks_keepsForm (count_keepsForm (h.frame rfl))
      · exact collCheck_keepsForm (h.colls (tabWf_tput _ _) rfl)

theorem takePart_keepsForm {key : Nat} {d : CollD} {p : CollPart} (h : KeepsForm s t) : KeepsForm s (takePart t key d p) := by
  unfold takePart
  split
  · exact h
  · split
    · exact count_keepsForm (h.frame rfl)
    · exact collCheck_keepsForm (h.colls (tabWf_tput _ _) rfl)

theorem openList_keepsForm {key src ranks : Nat} {last : Bool} {data : List Byte} (h : KeepsForm s t) :
    KeepsForm s (openList t key src ranks last data).2 := by
  unfold openList
  split
  · exact h
  · split
    · extract_lets bytes _
      split <;> exact h.colls (tabWf_tput _ _) rfl

theorem takeBurst_keepsForm {key : Nat} {d : CollD} {src ranks cflags cstat chunk : Nat} {data : List Byte} (h : KeepsForm s t)
    : KeepsForm s (takeBurst t key d src ranks cflags cstat chunk data) := by
  unfold takeBurst
  split
  · exact h
  · extract_lets last
    split
    · split
      · exact lateArrival_keepsForm h
      · exact h
    · split
      · exact loseRanks_keepsForm h
      · split
        · split
          next heq => exact takeList_keepsForm (.of_snd heq (openList_keepsForm h))
          next heq => exact .of_snd heq (openList_keepsForm h)
        · exact takePart_keepsForm h

theorem noteInst_keepsForm {slot k n : Nat} {merge : Bool} (h : KeepsForm s t) : KeepsForm s (noteInst t slot k n merge) :=
  h.frame rfl

theorem sendContribution_keepsForm {slot k n : Nat} {d : CollD} {part rank : Nat} {bytes : List Byte} (h : KeepsForm s t) :
    KeepsForm s (sendContribution t slot k n d part rank bytes) :=
  foldl_keepsForm h (fun _ _ hu => sendPkt_keepsForm hu)

theorem contributeHere_keepsForm {key : Nat} {d : CollD} {rank : Nat} {bytes : List Byte} (h : KeepsForm s t) :
    KeepsForm s (contributeHere t key d rank bytes) :=
  foldl_keepsForm h (fun _ _ hu => takeBurst_keepsForm hu)

theorem awaitResult_keepsForm {key c a : Nat} {d : CollD} (h : KeepsForm s t) : KeepsForm s (awaitResult t key c a d) := by
  unfold awaitResult
  split
  · exact h
  · extract_lets s1 y _
    have hs1 : KeepsForm s s1 := setWait_keepsForm h
    split
    · exact closePlan_keepsForm hs1
    · exact hs1.colls (tabWf_tput _ _) rfl

theorem collXchg_keepsForm {c w slot : Nat} {p : Plan} {d : CollD} (h : KeepsForm s t) :
    KeepsForm s (collXchg t c w slot p d).2 := by
  unfold collXchg
  extract_lets node k isRoot contributes n part
  split
  · exact failInv_keepsForm h
  · split
    · exact failInv_keepsForm h
    · split
      · extract_lets counted
        have hcounted {t} (ht : KeepsForm s t) : KeepsForm s (counted t) := count_keepsForm (noteInst_keepsForm ht)
        split
        · split
          · exact h
          next s1 heq =>
            have hs1 : KeepsForm s s1 := .of_some_snd heq (getColl_keepsForm h)
            extract_lets s2 s3
            have hs2 : KeepsForm s s2 := hcounted hs1
            have hs3 : KeepsForm s s3 := by
              unfold s3
              split
              · exact contributeHere_keepsForm hs2
              · exact hs2
            split
            · exact awaitResult_keepsForm hs3
            · exact retire_keepsForm hs3
        · split
          next heq => exact .of_snd heq (regTry_keepsForm h)
          next heq => exact retire_keepsForm (sendContribution_keepsForm (hcounted (.of_snd heq (regTry_keepsForm h))))

theorem peerXchg_keepsForm {c w : Nat} (h : KeepsForm s t) : KeepsForm s (peerXchg t c w) := by
  unfold peerXchg
  extract_lets s1 k ps at_ words bytes
  have hs1 : KeepsForm s s1 := setWait_keepsForm h
  split
  · exact retire_keepsForm h
  · split
    · exact hs1
    · exact foldl_keepsForm hs1 (fun u x hu => resume_keepsForm (scrWrite_keepsForm hu))

theorem execVxchg_keepsForm {c : Fin 128} (h : KeepsForm s t) : ResKeeps s (execVxchg c t) := by
  unfold execVxchg
  refine issueW_keepsForm h (fun w u hu => ?_)
  split
  · exact retire_keepsForm hu
  · extract_lets p
    split
    · exact collXchg_keepsForm hu
    · exact peerXchg_keepsForm hu

theorem remoteMerge_keepsForm {c w slot : Nat} {p : Plan} (h : KeepsForm s t) : KeepsForm s (remoteMerge t c w slot p).2 := by
  unfold remoteMerge
  split
  · exact failInv_keepsForm h
  · extract_lets part n
    split
    · exact failInv_keepsForm h
    · split
      · exact h
      next s1 heq =>
        have hs1 : KeepsForm s s1 := .of_some_snd heq (getColl_keepsForm h)
        extract_lets s2 m s3
        have hs2 : KeepsForm s s2 := setWait_keepsForm (noteInst_keepsForm hs1)
        have hs3 : KeepsForm s s3 := takeKneader_keepsForm hs2
        split
        · split
          · exact giveLists_keepsForm hs3
          · exact hs3
        · exact hs3

theorem localMerge_keepsForm {c w : Nat} (h : KeepsForm s t) : KeepsForm s (localMerge t c w) :=
  takeKneader_keepsForm (setWait_keepsForm h)

theorem execSmerge_keepsForm {c : Fin 128} (h : KeepsForm s t) : ResKeeps s (execSmerge c t) := by
  unfold execSmerge
  refine issueW_keepsForm h (fun w u hu => ?_)
  split
  · exact remoteMerge_keepsForm hu
  · exact localMerge_keepsForm hu

theorem collArrive_keepsForm {p : Packet} (h : KeepsForm s t) : KeepsForm s (collArrive p t).2 := by
  unfold collArrive
  extract_lets pre slot
  split
  · exact h
  · split
    · exact h
    · split
      · exact h
      · split
        · split
          · split
            · exact lateArrival_keepsForm h
            · exact h
          · split
            · exact h
            next heq => exact takeBurst_keepsForm (.of_some_snd heq (getColl_keepsForm h))
        · exact takeBurst_keepsForm h

theorem portBuffer_keepsForm {port part : Nat} (h : KeepsForm s t) : KeepsForm s (portBuffer t port part).2 := by
  unfold portBuffer
  split
  · exact h
  next heq => exact detect_keepsForm (.of_snd heq (injHit_keepsForm h))
  next heq => exact detect_keepsForm (.of_snd heq (injHit_keepsForm h))

theorem execColl_keepsForm {port : Fin 32} {p : Packet} (h : KeepsForm s t) : ResKeeps s (execColl port p t) := by
  unfold execColl
  refine receive_keepsForm h (fun p1 u hu => ?_) (fun p1 u hu => passOn_keepsForm hu)
  split
  next heq => exact .of_snd heq (portBuffer_keepsForm hu)
  next heq => exact collArrive_keepsForm (.of_snd heq (portBuffer_keepsForm hu))

theorem plistArrive_keepsForm {p : Packet} (h : KeepsForm s t) : KeepsForm s (plistArrive p t).2 := by
  unfold plistArrive
  extract_lets pre last
  split
  · exact h
  · split
    · split
      · exact lateArrival_keepsForm h
      · exact h
    · split
      · split
        · exact lateArrival_keepsForm h
        · exact h
      · split
        · split
          · exact lateArrival_keepsForm h
          · exact h
        · split
          · exact endQuery_keepsForm h
          · split
            · exact expireQuery_keepsForm h
            · split
              · exact loseRanks_keepsForm h
              · split
                next heq => exact .of_snd heq (openList_keepsForm h)
                next heq => exact takeList_keepsForm (.of_snd heq (openList_keepsForm h))

theorem forwardJoin_keepsForm {e : JoinEnt} (h : KeepsForm s t) : KeepsForm s (forwardJoin t e) := by
  unfold forwardJoin
  split
  · exact sendList_keepsForm (foldl_keepsForm h (fun u x hu => passOn_keepsForm hu))
  · exact foldl_keepsForm h (fun u x hu => passOn_keepsForm hu)

theorem joinOrHold_keepsForm {port i : Nat} {e : JoinEnt} (h : KeepsForm s t) : KeepsForm s (joinOrHold t port i e) := by
  unfold joinOrHold
  extract_lets x s1
  have hs1 : KeepsForm s s1 := setPort_keepsForm h
  split
  · exact count_keepsForm (setPort_keepsForm hs1)
  · exact setPort_keepsForm h

theorem joinBurst_keepsForm {port : Nat} {p : Packet} (h : KeepsForm s t) : KeepsForm s (joinBurst port p t) := by
  unfold joinBurst
  extract_lets pre x last mine
  split
  · exact passOn_keepsForm h
  · split
    · extract_lets x1 keep b b1 e1
      split
      · exact passOn_keepsForm (setPort_keepsForm h)
      · split
        · exact count_keepsForm (foldl_keepsForm (setPort_keepsForm h) (fun u x2 hu => passOn_keepsForm hu))
        · split
          next heq =>
            exact foldl_keepsForm (setPort_keepsForm (.of_snd heq (portBuffer_keepsForm h))) (fun u x2 hu =>
                passOn_keepsForm hu)
          next s1 heq =>
            have hs1 : KeepsForm s s1 := .of_snd heq (portBuffer_keepsForm h)
            extract_lets s2
            have hs2 : KeepsForm s s2 := setPort_keepsForm hs1
            split
            · exact joinOrHold_keepsForm hs2
            · exact hs2

theorem execPlist_keepsForm {port : Fin 32} {p : Packet} (h : KeepsForm s t) : ResKeeps s (execPlist port p t) := by
  unfold execPlist
  refine receive_keepsForm h (fun p1 u hu => ?_) (fun p1 u hu => joinBurst_keepsForm hu)
  split
  next heq => exact .of_snd heq (portBuffer_keepsForm hu)
  next heq => exact plistArrive_keepsForm (.of_snd heq (portBuffer_keepsForm hu))

theorem execJoinWindowExpire_keepsForm {port : Fin 32} {i : Nat} (h : KeepsForm s t) :
    ResKeeps s (execJoinWindowExpire port i t) := by
  unfold execJoinWindowExpire
  extract_lets x
  split
  · exact h
  · split
    · exact forwardJoin_keepsForm (setPort_keepsForm h)
    · exact h

theorem execCollectiveCloseExpire_keepsForm {key : Nat} (h : KeepsForm s t) :
    ResKeeps s (execCollectiveCloseExpire key t) := by
  unfold execCollectiveCloseExpire
  split
  · exact h
  · split
    · exact h
    · split
      · extract_lets s1 _
        have hs1 : KeepsForm s s1 := absentRanks_keepsForm h
        exact mergeReady_keepsForm (hs1.colls (tabWf_tupd _ _) rfl)
      · split
        · exact h
        · extract_lets s1
          have hs1 : KeepsForm s s1 := absentRanks_keepsForm h
          split
          · exact hs1
          · exact closePlan_keepsForm hs1

end Sys2Proof.Machine
end

section
/-!
Each function of `Machine.Flash` keeps the form: one lemma per function, in the file's order.
-/
namespace Sys2Proof.Machine
variable {s t : State}

theorem refuseFlash_keepsForm {c : Cmd} {cid aux : Nat} (h : KeepsForm s t) : KeepsForm s (refuseFlash t c cid aux) := by
  unfold refuseFlash
  extract_lets s1 s2
  have hs1 : KeepsForm s s1 := by
    unfold s1
    split
    · exact flErr_keepsForm h
    · exact h
  have hs2 : KeepsForm s s2 := by
    unfold s2
    split
    · exact flErr_keepsForm hs1
    · exact hs1
  exact refuse_keepsForm hs2

theorem finishFlashRead_keepsForm {cid : Nat} (h : KeepsForm s t) : KeepsForm s (finishFlashRead t cid) := by
  unfold finishFlashRead
  split
  · exact h
  · extract_lets addr len late
    split
    · exact endCmd_keepsForm ((resultWrite_keepsForm h).frame rfl)

theorem execFlashRead_keepsForm {cid : Nat} (h : KeepsForm s t) : ResKeeps s (execFlashRead cid t) := by
  unfold execFlashRead
  split
  · exact h
  · split
    · split
      · exact refuseFlash_keepsForm h
      · extract_lets cw n
        split
        next s1 heq =>
          have hs1 : KeepsForm s s1 := .of_snd heq (regTry_keepsForm h)
          split
          · exact hs1
          · split
            next s11 heq1 =>
              have hs11 : KeepsForm s s11 := .of_snd heq1 (readRun_keepsForm (runCmd_keepsForm hs1))
              split
              · exact finishFlashRead_keepsForm hs11
              · exact hs11.frame rfl

theorem bufferUnit_keepsForm {u part : Nat} {w : Option (Nat × List Byte)} {disc : List Nat} {cid : Nat} (h : KeepsForm s t) :
    KeepsForm s (bufferUnit t u part w disc cid) := by
  unfold bufferUnit
  split
  · split
    · exact progUnit_keepsForm h
    · exact h.frame rfl
  · exact h.frame rfl

theorem execFlashWrite_keepsForm {cid : Nat} {data : HostRead} (h : KeepsForm s t) :
    ResKeeps s (execFlashWrite cid data t) := by
  unfold execFlashWrite
  split
  · exact h
  · split
    · split
      · exact refuseFlash_keepsForm h
      · split
        · exact refuse_keepsForm h
        · extract_lets bs ps fresh u _ s1 cut
          have hu : KeepsForm s u := runCmd_keepsForm h
          have hs1 : KeepsForm s s1 := hu.frame rfl
          split
          · exact refuse_keepsForm (flErr_keepsForm h)
          · split
            · exact endCmd_keepsForm h
            · refine foldl_keepsForm hs1 (fun u1 x hu1 => ?_)
              split
              · exact bufferUnit_keepsForm hu1
              · exact (foldl_keepsForm hu1 (fun u2 x1 hu2 => bufferUnit_keepsForm hu2)).frame rfl

theorem unitDone_keepsForm {cid : Nat} (h : KeepsForm s t) : KeepsForm s (unitDone t cid) := by
  unfold unitDone
  extract_lets k _
  split
  · exact h
  · split
    · exact endCmd_keepsForm (h.frame rfl)
    · exact h.frame rfl

theorem discardUnits_keepsForm {addr len : Nat} (h : KeepsForm s t) : KeepsForm s (discardUnits t addr len).2 := by
  unfold discardUnits
  refine foldl_snd_keepsForm h (fun p x hp => ?_)
  extract_lets t1 f t11 held _
  have ht1 : KeepsForm s t1 := hp
  have ht11 : KeepsForm s t11 := ht1.flashMem (memWf_mclear _ _) rfl
  split
  · exact foldl_keepsForm (setMap_keepsForm ht11) (fun u x1 hu => unitDone_keepsForm hu)
  · split
    · exact hp
    · exact ht1

theorem execFlashDiscard_keepsForm {cid : Nat} (h : KeepsForm s t) : ResKeeps s (execFlashDiscard cid t) := by
  unfold execFlashDiscard
  split
  · exact h
  · split
    · split
      · exact refuseFlash_keepsForm h
      · split
        next s1 heq =>
          have hs1 : KeepsForm s s1 := .of_snd heq (discardUnits_keepsForm h)
          extract_lets s2 u _ s3
          have hs2 : KeepsForm s s2 := count_keepsForm hs1
          have hu : KeepsForm s u := runCmd_keepsForm hs2
          have hs3 : KeepsForm s s3 := hu.frame rfl
          split
          · exact endCmd_keepsForm hs2
          · exact foldl_keepsForm hs3 (fun u1 x hu1 => bufferUnit_keepsForm hu1)

theorem execWriteBufferExpire_keepsForm {unit : Nat} (h : KeepsForm s t) : ResKeeps s (execWriteBufferExpire unit t) := by
  unfold execWriteBufferExpire
  split
  · exact h
  · split
    · exact h
    · exact progUnit_keepsForm (h.frame rfl)

theorem execDieOpDone_keepsForm {die : Fin 1024} (h : KeepsForm s t) : ResKeeps s (execDieOpDone die t) :=
  serveDie_keepsForm h

theorem jobCodeword_keepsForm {f : ReadFor} {bad : Bool} (h : KeepsForm s t) : KeepsForm s (jobCodeword t f bad) := by
  unfold jobCodeword
  extract_lets k _
  split
  · exact h
  · extract_lets s1
    have hs1 : KeepsForm s s1 := h.frame rfl
    split
    · split
      · exact finishFlashRead_keepsForm hs1
      · exact hs1
    · exact hs1

theorem uncorrectable_keepsForm {d : Nat} {r : DieReq} {u cw : Nat} {f : ReadFor} {inj : Bool} (h : KeepsForm s t) :
    KeepsForm s (uncorrectable t d r u cw f inj) := by
  unfold uncorrectable
  extract_lets b _ s1 s2 s3 s4
  have hs1 : KeepsForm s s1 := h.frame rfl
  have hs2 : KeepsForm s s2 := count_keepsForm hs1
  have hs3 : KeepsForm s s3 := detect_keepsForm hs2
  have hs4 : KeepsForm s s4 := foldl_keepsForm hs3 (fun u1 x hu1 => flErr_keepsForm hu1)
  exact retireBlock_keepsForm hs4

theorem ageBlock_keepsForm {d u : Nat} (h : KeepsForm s t) : KeepsForm s (ageBlock t d u) := by
  unfold ageBlock
  extract_lets x b k i days s1
  have hs1 : KeepsForm s s1 := setDie_keepsForm h
  split
  · exact h
  · split
    · exact retireBlock_keepsForm hs1
    · exact moveUnits_keepsForm hs1

theorem execCodewordReadDone_keepsForm {die : Fin 1024} {decoded crcOk : Bool} (h : KeepsForm s t) :
    ResKeeps s (execCodewordReadDone die decoded crcOk t) := by
  unfold execCodewordReadDone
  extract_lets d x tgt
  split
  · exact h
  · split
    · extract_lets hit done patrol late
      have hdone {t} (ht : KeepsForm s t) : KeepsForm s (done t) := by
        unfold done
        extract_lets t1
        have ht1 : KeepsForm s t1 := count_keepsForm (endDieOp_keepsForm ht)
        split
        · exact ht1
        · exact count_keepsForm ht1
      have hpatrol {t} (ht : KeepsForm s t) : KeepsForm s (patrol t) := by
        unfold patrol
        split
        · exact countNode_keepsForm ht
        · exact ht
      split
      next s0 heq =>
        have hs0 : KeepsForm s s0 := .of_snd heq (injHit_keepsForm h)
        extract_lets never good s1 s2 s3 s4 s11 _ _ s12 _
        have hs1 : KeepsForm s s1 := hpatrol (hdone hs0)
        have hs2 : KeepsForm s s2 := by
          unfold s2
          split
          · exact hs1
          · exact detect_keepsForm hs1
        have hs3 : KeepsForm s s3 := by
          unfold s3
          split
          · exact moveUnits_keepsForm hs2
          · exact hs2
        have hs4 : KeepsForm s s4 := by
          unfold s4
          split
          · exact ageBlock_keepsForm hs3
          · exact hs3
        have hs11 : KeepsForm s s11 := count_keepsForm (endDieOp_keepsForm hs0)
        have hs12 : KeepsForm s s12 := by
          unfold s12
          split
          · exact hs0.frame rfl
          · exact hs0
        split
        · exact jobCodeword_keepsForm hs4
        · split
          · split
            · exact setDie_keepsForm hs11
            · exact setDie_keepsForm hs12
          · exact jobCodeword_keepsForm (uncorrectable_keepsForm (hpatrol (hdone hs0)))
    · exact h

theorem execFlashDeadlineExpire_keepsForm {die : Fin 1024} {i : Nat} (h : KeepsForm s t) :
    ResKeeps s (execFlashDeadlineExpire die i t) := by
  unfold execFlashDeadlineExpire
  extract_lets x
  split
  · exact h
  · exact count_keepsForm (setDie_keepsForm h)

theorem settleModules_keepsForm (h : KeepsForm s t) : KeepsForm s (settleModules t) :=
  foldl_keepsForm h (fun _ _ hu => hu.frame rfl)

theorem afterFlip_keepsForm {old d : Nat} (h : KeepsForm s t) : KeepsForm s (afterFlip t old d) :=
  retryWaiting_keepsForm (settleModules_keepsForm (settleDie_keepsForm (gcDie_keepsForm (eraseEmpty_keepsForm h))))

theorem execProgramDone_keepsForm {die : Fin 1024} {ok : Bool} (h : KeepsForm s t) :
    ResKeeps s (execProgramDone die ok t) := by
  unfold execProgramDone
  extract_lets d
  split
  · exact h
  · split
    · extract_lets s1 before _ s2 s21 s3
      have hs1 : KeepsForm s s1 := count_keepsForm (endDieOp_keepsForm h)
      have hs2 : KeepsForm s s2 := setMap_keepsForm (layUnit_keepsForm (hs1.frame rfl))
      have hs21 : KeepsForm s s21 := setMap_keepsForm (hs1.frame rfl)
      have hs3 : KeepsForm s s3 := by
        unfold s3
        split
        · exact countNode_keepsForm hs21
        · exact hs21
      split
      · exact progUnit_keepsForm (retireBlock_keepsForm hs1)
      · split
        · exact afterFlip_keepsForm (foldl_keepsForm hs2 (fun u x hu => unitDone_keepsForm hu))
        · split
          · exact afterFlip_keepsForm hs3
          · exact afterFlip_keepsForm hs1
    · exact h

theorem execEraseDone_keepsForm {die : Fin 1024} {ok : Bool} (h : KeepsForm s t) : ResKeeps s (execEraseDone die ok t) := by
  unfold execEraseDone
  extract_lets d s1 x
  have hs1 : KeepsForm s s1 := countNode_keepsForm (endDieOp_keepsForm h)
  split
  · exact h
  · split
    · split
      · exact retireBlock_keepsForm hs1
      · extract_lets k s2
        have hs2 : KeepsForm s s2 := setDie_keepsForm hs1
        exact retryWaiting_keepsForm (wearLevel_keepsForm hs2)
    · exact h

theorem execReadyTimeout_keepsForm {die : Fin 1024} (h : KeepsForm s t) : ResKeeps s (execReadyTimeout die t) := by
  unfold execReadyTimeout
  extract_lets d x ts s1
  have hs1 : KeepsForm s s1 := setDie_keepsForm h
  split
  · exact h
  · split
    · exact hs1
    · exact retireDie_keepsForm hs1

theorem execMapCkptTimer_keepsForm (h : KeepsForm s t) : ResKeeps s (execMapCkptTimer t) := by
  unfold execMapCkptTimer
  split
  · exact h.frame rfl
  · exact h

theorem execZqCalibration_keepsForm (h : KeepsForm s t) : ResKeeps s (execZqCalibration t) := by
  unfold execZqCalibration
  split
  · exact h.frame rfl
  · exact h

theorem execPatrolRead_keepsForm {die : Fin 1024} (h : KeepsForm s t) : ResKeeps s (execPatrolRead die t) := by
  unfold execPatrolRead
  extract_lets d x read l x1
  have hread {t} (ht : KeepsForm s t) {w} : KeepsForm s (read t w) := enqueue_keepsForm ht
  split
  · exact h
  · split
    · exact hread (setDie_keepsForm h)
    · split
      · exact hread (setDie_keepsForm h)
      · clear_value l
        split
        · exact setDie_keepsForm h
        · exact hread (setDie_keepsForm h)

theorem bringOnline_keepsForm {m : Nat} {id : ModuleId} (h : KeepsForm s t) : KeepsForm s (bringOnline t m id) :=
  foldl_keepsForm h (fun _ _ hu => hu.frame rfl)

theorem setSlot13_keepsForm {m : Nat} {x : Slot13} (h : KeepsForm s t) : KeepsForm s (t.setSlot13 m x) :=
  h.frame rfl

theorem execModuleInsert_keepsForm {m : Fin 8} (h : KeepsForm s t) : ResKeeps s (execModuleInsert m t) := by
  unfold execModuleInsert
  extract_lets x
  split
  · exact h
  · exact setSlot13_keepsForm h

theorem execModuleDebounceExpire_keepsForm {m : Fin 8} (h : KeepsForm s t) : ResKeeps s (execModuleDebounceExpire m t) := by
  unfold execModuleDebounceExpire
  extract_lets x
  split
  · exact h
  · split
    · exact setSlot13_keepsForm h
    · exact h

theorem discover_keepsForm {m : Nat} {id : ModuleId} (h : KeepsForm s t) : KeepsForm s (discover t m id) := by
  unfold discover
  extract_lets x
  split
  · exact retryWaiting_keepsForm (setSlot13_keepsForm (bringOnline_keepsForm h))
  · exact setSlot13_keepsForm h

theorem execModulePowerWaitExpire_keepsForm {m : Fin 8} {id : ModuleId} (h : KeepsForm s t) :
    ResKeeps s (execModulePowerWaitExpire m id t) := by
  unfold execModulePowerWaitExpire
  extract_lets x
  split
  · exact discover_keepsForm (setSlot13_keepsForm h)
  · exact h

theorem loseUnit_keepsForm {u : Nat} (h : KeepsForm s t) : KeepsForm s (loseUnit t u) := by
  unfold loseUnit
  extract_lets _ s1 s2 _
  have hs1 : KeepsForm s s1 := h.frame rfl
  have hs2 : KeepsForm s s2 := foldl_keepsForm hs1 (fun u1 x hu1 => flErr_keepsForm hu1)
  exact hs2.frame rfl

theorem rescueWork_keepsForm {r : DieReq} (h : KeepsForm s t) : KeepsForm s (rescueWork t r) := by
  unfold rescueWork
  split
  · exact jobCodeword_keepsForm h
  · split
    · exact progUnit_keepsForm h
    · exact h
  · exact h

theorem execModuleRemove_keepsForm {m : Fin 8} (h : KeepsForm s t) : ResKeeps s (execModuleRemove m t) := by
  unfold execModuleRemove
  extract_lets x mine held live work s1 _ s2 s3 s4
  have hs1 : KeepsForm s s1 := setSlot13_keepsForm h
  have hs2 : KeepsForm s s2 := hs1.frame rfl
  have hs3 : KeepsForm s s3 := foldl_keepsForm hs2 (fun u x1 hu => loseUnit_keepsForm hu)
  have hs4 : KeepsForm s s4 := foldl_keepsForm hs3 (fun u x1 hu => rescueWork_keepsForm hu)
  split
  · exact h
  · split
    · exact countNode_keepsForm hs4
    · exact hs4

theorem moduleEvac_keepsForm {fn m : Nat} (h : KeepsForm s t) : KeepsForm s (moduleEvac t fn m) := by
  unfold moduleEvac
  extract_lets x rest pages mapped us s1 _ s2
  have hs1 : KeepsForm s s1 := setSlot13_keepsForm h
  have hs2 : KeepsForm s s2 := hs1.frame rfl
  split
  · exact h
  · split
    · exact flErr_keepsForm h
    · exact settleModules_keepsForm (moveUnits_keepsForm hs2)

theorem execModuleEvac_keepsForm {fn : Fin 64} {m : Fin 8} (h : KeepsForm s t) : ResKeeps s (execModuleEvac fn m t) :=
  moduleEvac_keepsForm h

theorem dieRetire_keepsForm {fn : Nat} (h : KeepsForm s t) : KeepsForm s (dieRetire t fn) := by
  unfold dieRetire
  split
  · exact retireDie_keepsForm h
  · exact h

theorem execDieRetire_keepsForm {fn : Fin 64} (h : KeepsForm s t) : ResKeeps s (execDieRetire fn t) :=
  dieRetire_keepsForm h

end Sys2Proof.Machine
end

section
/-!
Each function of `Machine.IndexOps` keeps the form: one lemma per function, in the file's order.
-/
namespace Sys2Proof.Machine
variable {s t : State}

theorem ownWrite_keepsForm {part addr : Nat} {bs : List Byte} (h : KeepsForm s t) : KeepsForm s (ownWrite t part addr bs) := by
  unfold ownWrite
  extract_lets s1
  have hs1 : KeepsForm s s1 := foldl_keepsForm h fun t x ht => regCharge_keepsForm ht
  clear_value s1
  split
  · exact foldl_keepsForm hs1 fun t x ht => queueWrite_keepsForm ht
  · next heq => exact .of_snd heq (writeSpan_keepsForm hs1)

theorem writeRecord_keepsForm {i part : Nat} {d : IdxD} {slot : Nat} {r : RecD} (h : KeepsForm s t) :
    KeepsForm s (writeRecord t i part d slot r) := by
  unfold writeRecord
  extract_lets s1
  have hs1 : KeepsForm s s1 := ownWrite_keepsForm h
  clear_value s1
  exact hs1.clusters (tabWf_map fun _ => rfl) (fun hs => forall_mem_map hs fun _ hx => hx) rfl

theorem addEdge_keepsForm {i : Nat} {x : Index} {node slot tag : Nat} (h : KeepsForm s t) :
    KeepsForm s (addEdge t i x node slot tag) := by
  unfold addEdge
  extract_lets d r all keep
  split
  · exact h
  · split <;> exact writeRecord_keepsForm h

theorem setIndex_keepsForm {i : Nat} {x : Index} (h : KeepsForm s t) : KeepsForm s (setIndex t i x) :=
  h.frame rfl

theorem retireCtx_keepsForm {part k : Nat} (h : KeepsForm s t) : KeepsForm s (retireCtx t part k) := by
  unfold retireCtx
  extract_lets _ s1 _ s2 _
  have hs1 : KeepsForm s s1 := count_keepsForm (h.frame rfl)
  have hs2 : KeepsForm s s2 := hs1.frame rfl
  split
  · exact hs1
  · split
    · exact hs2.frame rfl
    · exact hs2

theorem ctxCheck_keepsForm {part k : Nat} (h : KeepsForm s t) : KeepsForm s (ctxCheck t part k).2 := by
  unfold ctxCheck
  split
  · exact h
  next heq => exact detect_keepsForm (.of_snd heq (injHit_keepsForm h))
  next heq => exact retireCtx_keepsForm (detect_keepsForm (.of_snd heq (injHit_keepsForm h)))

theorem queryCtx_keepsForm {qid : Nat} (h : KeepsForm s t) : KeepsForm s (queryCtx t qid).2 := by
  unfold queryCtx
  split
  · exact h
  · split
    · exact h
    · split
      next heq => exact endQuery_keepsForm (.of_snd heq (ctxCheck_keepsForm h))
      next heq => exact .of_snd heq (ctxCheck_keepsForm h)

end Sys2Proof.Machine
end

section
/-!
Each function of `Machine.Walker` keeps the form: one lemma per function, in the file's order.
-/
namespace Sys2Proof.Machine
variable {s t : State}

theorem putWalk_keepsForm {c k : Nat} {w : Walk} (h : KeepsForm s t) : KeepsForm s (putWalk t c k w) :=
  setCl_keepsForm h h.scratch

theorem useLine_keepsForm {c i slot : Nat} (h : KeepsForm s t) : KeepsForm s (useLine t c i slot) := by
  unfold useLine
  extract_lets x
  split
  · exact h
  · exact setCl_keepsForm h h.scratch

theorem addLine_keepsForm {c : Nat} {l : RecLine} (h : KeepsForm s t) : KeepsForm s (addLine t c l) :=
  wasteSlot_keepsForm (countCls_keepsForm (setCl_keepsForm h h.scratch))

theorem prefetch_keepsForm {e : WalkEnv} {w : Walk} {slots : List Nat} (h : KeepsForm s t) :
    KeepsForm s (prefetch t e w slots).1 :=
  countCls_keepsForm h

theorem walkBeam_keepsForm {e : WalkEnv} {w : Walk} {slot score : Nat} {r : List Byte} (h : KeepsForm s t) :
    KeepsForm s (walkBeam t e w slot score r).1 := by
  unfold walkBeam
  extract_lets ent beam w1
  split
  · exact prefetch_keepsForm h
  · exact h

theorem requestVec_keepsForm {e : WalkEnv} {slot : Nat} (h : KeepsForm s t) : KeepsForm s (requestVec t e slot).2 := by
  unfold requestVec
  extract_lets cw n f
  split
  next heq => exact .of_snd heq (regTry_keepsForm h)
  next s1 heq =>
    have hs1 : KeepsForm s s1 := .of_snd heq (regTry_keepsForm h)
    split
    next s11 heq1 =>
      have hs11 : KeepsForm s s11 := .of_snd heq1 (readRun_keepsForm hs1)
      exact hs11.frame rfl

theorem candInsert_keepsForm {e : WalkEnv} {w : Walk} {y : CandEnt} (h : KeepsForm s t) :
    KeepsForm s (candInsert t e w y).1 := by
  unfold candInsert
  extract_lets rr cs lost s1 _ s2 w1
  have hs1 : KeepsForm s s1 := wasteSlot_keepsForm (countCls_keepsForm h)
  have hs2 : KeepsForm s s2 := hs1.frame rfl
  split
  · split
    next heq => exact .of_snd heq (requestVec_keepsForm hs2)
    next heq => exact countCls_keepsForm (.of_snd heq (requestVec_keepsForm hs2))
  · exact hs2

theorem visit_keepsForm {e : WalkEnv} {w : Walk} {slot : Nat} {tag scan : Option Nat} {l : RecLine} (h : KeepsForm s t) :
    KeepsForm s (visit t e w slot tag scan l).1 := by
  unfold visit
  extract_lets w1 s1 r stale raw w2
  have hs1 : KeepsForm s s1 := countCls_keepsForm (useLine_keepsForm h)
  split
  · exact countCls_keepsForm hs1
  · split
    · exact countCls_keepsForm hs1
    · split
      · extract_lets s2 s3
        have hs2 : KeepsForm s s2 := by
          unfold s2
          split
          · exact countCls_keepsForm hs1
          · exact hs1
        have hs3 : KeepsForm s s3 := countCls_keepsForm hs2
        split
        · split
          next s31 _ heq =>
            have hs31 : KeepsForm s s31 := by
              refine .of_fst heq ?_
              split
              · exact hs2
              · exact walkBeam_keepsForm hs2
            exact candInsert_keepsForm hs31
        · split
          · split
            · exact hs3
            · exact walkBeam_keepsForm hs3
          · exact countCls_keepsForm hs2

theorem awaitRec_keepsForm {e : WalkEnv} {w : Walk} {slot : Nat} {tag scan : Option Nat} (h : KeepsForm s t) :
    KeepsForm s (awaitRec t e w slot tag scan).state := by
  unfold awaitRec
  extract_lets w1
  split
  · exact countCls_keepsForm h
  · exact h

theorem walkStep_keepsForm {e : WalkEnv} {w : Walk} (h : KeepsForm s t) : KeepsForm s (walkStep t e w).state := by
  unfold walkStep
  extract_lets spent late
  split
  · split
    · exact h
    · split
      next heq => exact .of_fst heq (visit_keepsForm h)
  · split
    · split
      · exact h
      · exact awaitRec_keepsForm h
    · split
      · split
        · exact h
        · split
          · exact h
          · exact awaitRec_keepsForm h
      · split
        · exact h
        · split
          · exact h
          · extract_lets w1
            split <;> exact h

theorem metaOf_keepsForm {e : WalkEnv} {slot : Nat} (h : KeepsForm s t) : KeepsForm s (metaOf t e slot).2.2 :=
  foldl_keepsForm h (fun _ _ hu => regCharge_keepsForm hu)

theorem filterCands_keepsForm {e : WalkEnv} {w : Walk} (h : KeepsForm s t) : KeepsForm s (filterCands t e w).1 := by
  unfold filterCands
  extract_lets terms
  split
  next s1 _ heq =>
    have hs1 : KeepsForm s s1 := by
      refine .of_fst heq (foldl_fst_keepsForm h (fun p x hp => ?_))
      split
      · exact hp
      · split
        next t1 heq1 =>
          have ht1 : KeepsForm s t1 := .of_last heq1 (metaOf_keepsForm hp)
          split
          next s11 heq2 =>
            have hs11 : KeepsForm s s11 := by
              refine .of_snd heq2 ?_
              split
              · exact takeFree_keepsForm ht1
              · exact ht1
            exact countCls_keepsForm hs11
    exact hs1

theorem finishWalk_keepsForm {e : WalkEnv} {w : Walk} (h : KeepsForm s t) : KeepsForm s (finishWalk t e w) := by
  unfold finishWalk
  extract_lets win lower pass ents sorted total bytes hf _ q1 x s1 s2 _
  have hs1 : KeepsForm s s1 := setCl_keepsForm h h.scratch
  have hs2 : KeepsForm s s2 := unusedLines_keepsForm (scrWrite_keepsForm hs1)
  exact resume_keepsForm (hs2.queries (tabWf_tput _ _) rfl)

theorem issueReads_keepsForm {e : WalkEnv} {w : Walk} (h : KeepsForm s t) : KeepsForm s (issueReads t e w).1 := by
  unfold issueReads
  refine foldl_fst_keepsForm h (fun p x hp => ?_)
  split <;> next heq => exact .of_snd heq (requestVec_keepsForm hp)

theorem rerankOn_keepsForm {e : WalkEnv} {w : Walk} (h : KeepsForm s t) : KeepsForm s (rerankOn t e w) := by
  unfold rerankOn
  split
  · exact finishWalk_keepsForm h
  · exact putWalk_keepsForm h

theorem afterWalk_keepsForm {e : WalkEnv} {w : Walk} {cut : Bool} (h : KeepsForm s t) :
    KeepsForm s (afterWalk t e w cut).2.1 := by
  unfold afterWalk
  extract_lets late s1 s2 w1
  have hs1 : KeepsForm s s1 := countCls_keepsForm h
  have hs2 : KeepsForm s s2 := by
    unfold s2
    split
    · exact countCls_keepsForm hs1
    · exact hs1
  split
  next s3 _ heq =>
    have hs3 : KeepsForm s s3 := by
      refine .of_fst heq ?_
      split
      · exact hs2
      · exact filterCands_keepsForm hs2
    extract_lets few
    split
    · exact countCls_keepsForm hs3
    · exact hs3

theorem startRerank_keepsForm {e : WalkEnv} {w : Walk} (h : KeepsForm s t) : KeepsForm s (startRerank t e w) := by
  unfold startRerank
  split
  next heq => exact .of_snd heq (queryCtx_keepsForm h)
  next s1 heq =>
    have hs1 : KeepsForm s s1 := .of_snd heq (queryCtx_keepsForm h)
    split
    · exact finishWalk_keepsForm hs1
    · split
      next heq1 => exact rerankOn_keepsForm (.of_fst heq1 (issueReads_keepsForm hs1))

theorem walkRun_keepsForm {e : WalkEnv} {fuel : Nat} {w : Walk} (h : KeepsForm s t) : KeepsForm s (walkRun e fuel t w) := by
  induction fuel generalizing t w with
  | zero => exact putWalk_keepsForm h
  | succ fuel ih =>
    unfold walkRun
    split
    next s1 w1 heq => exact ih (.of_go heq (walkStep_keepsForm h))
    next s1 w1 heq => exact putWalk_keepsForm (.of_go heq (walkStep_keepsForm h))
    next cut s1 w1 heq =>
      have hs1 : KeepsForm s s1 := .of_go heq (walkStep_keepsForm h)
      split
      next heq => exact ih (.of_mid heq (afterWalk_keepsForm hs1))
      next heq => exact startRerank_keepsForm (.of_mid heq (afterWalk_keepsForm hs1))

theorem runWalk_keepsForm {c k : Nat} (h : KeepsForm s t) : KeepsForm s (runWalk t c k) := by
  unfold runWalk
  split
  · exact h
  · split
    · exact h
    · exact walkRun_keepsForm h

theorem execWseed_keepsForm {c : Fin 128} (h : KeepsForm s t) : ResKeeps s (execWseed c t) :=
  issueR_keepsForm h (fun _ _ hu => setCl_keepsForm hu hu.scratch)

theorem startWalk_keepsForm {c w qid : Nat} {q : Query} {x : Index} (h : KeepsForm s t) :
    ∀ z ∈ startWalk t c w qid q x, KeepsForm s z := by
  unfold startWalk
  extract_lets d ovr pm mode cl v ts loaded wk
  split
  · exact forall_mem_none
  · extract_lets s1 _
    have hs1 : KeepsForm s s1 := putWalk_keepsForm (setWait_keepsForm h)
    exact forall_mem_some (runWalk_keepsForm (hs1.queries (tabWf_tput _ _) rfl))

theorem execWwalk_keepsForm {c : Fin 128} (h : KeepsForm s t) : ResKeeps s (execWwalk c t) := by
  unfold execWwalk
  refine issueW_keepsForm h (fun w u hu => ?_)
  split
  · exact failInv_keepsForm hu
  · split
    · exact failInv_keepsForm hu
    · split
      next heq => exact retire_keepsForm (.of_snd heq (queryCtx_keepsForm hu))
      next s1 heq =>
        have hs1 : KeepsForm s s1 := .of_snd heq (queryCtx_keepsForm hu)
        split
        next heq1 => exact .of_some heq1 (startWalk_keepsForm hs1)
        · exact hs1

theorem fetchRec_keepsForm {c i : Nat} {x : Index} {slot : Nat} {used : Bool} (h : KeepsForm s t) :
    KeepsForm s (fetchRec t c i x slot used).2 := by
  unfold fetchRec
  split
  next heq => exact .of_got heq (unitRead_keepsForm h)
  next heq => exact addLine_keepsForm (.of_got heq (unitRead_keepsForm h))
  next heq => exact addLine_keepsForm (.of_got heq (unitRead_keepsForm h))

theorem execRecordArrive_keepsForm {c : Fin 128} {ctx : Fin 64} {slot : Nat} (h : KeepsForm s t) :
    ResKeeps s (execRecordArrive c ctx slot t) := by
  unfold execRecordArrive
  split
  · exact h
  · split
    · exact h
    · split
      · exact h
      · split
        next heq => exact .of_snd heq (fetchRec_keepsForm h)
        next heq => exact runWalk_keepsForm (putWalk_keepsForm (.of_snd heq (fetchRec_keepsForm h)))

theorem execPrefetchArrive_keepsForm {c : Fin 128} {ctx : Fin 64} {slot : Nat} (h : KeepsForm s t) :
    ResKeeps s (execPrefetchArrive c ctx slot t) := by
  unfold execPrefetchArrive
  extract_lets x mine
  split
  · clear_value mine
    split
    · split
      next heq => exact .of_snd heq (fetchRec_keepsForm h)
      next heq => exact runWalk_keepsForm (putWalk_keepsForm (.of_snd heq (fetchRec_keepsForm h)))
    · exact h
  · split
    · clear_value mine
      split
      · split
        next heq => exact .of_snd heq (fetchRec_keepsForm h)
        next heq => exact runWalk_keepsForm (putWalk_keepsForm (.of_snd heq (fetchRec_keepsForm h)))
      · extract_lets s1
        have hs1 : KeepsForm s s1 := setCl_keepsForm h h.scratch
        split
        next s11 heq =>
          have hs11 : KeepsForm s s11 := .of_snd heq (fetchRec_keepsForm hs1)
          exact setCl_keepsForm hs11 hs11.scratch
        next heq => exact .of_snd heq (fetchRec_keepsForm hs1)
    · clear_value mine
      split
      · split
        next heq => exact .of_snd heq (fetchRec_keepsForm h)
        next heq => exact runWalk_keepsForm (putWalk_keepsForm (.of_snd heq (fetchRec_keepsForm h)))
      · extract_lets s1
        have hs1 : KeepsForm s s1 := setCl_keepsForm h h.scratch
        exact wasteSlot_keepsForm (countCls_keepsForm hs1)

theorem execWalkEndExpire_keepsForm {c : Fin 128} {ctx : Fin 64} (h : KeepsForm s t) :
    ResKeeps s (execWalkEndExpire c ctx t) := by
  unfold execWalkEndExpire
  split
  · exact h
  · split
    · exact h
    · split
      · exact h
      · extract_lets extra s1
        have hs1 : KeepsForm s s1 := countCls_keepsForm h
        split
        next heq => exact walkRun_keepsForm (.of_mid heq (afterWalk_keepsForm hs1))
        next heq => exact startRerank_keepsForm (.of_mid heq (afterWalk_keepsForm hs1))

theorem takeVector_keepsForm {e : WalkEnv} {w : Walk} {slot : Nat} {poison : Bool} (h : KeepsForm s t) :
    KeepsForm s (takeVector t e w slot poison) := by
  unfold takeVector
  split
  · extract_lets _ s1 upd on
    have hs1 : KeepsForm s s1 := h.frame rfl
    have hon {t} (ht : KeepsForm s t) {w1} : KeepsForm s (on t w1) := by
      unfold on
      split
      · exact rerankOn_keepsForm ht
      · exact putWalk_keepsForm ht
    split
    · exact hon (countCls_keepsForm hs1)
    · split
      · exact hon (countCls_keepsForm hs1)
      · split
        · refine hon ?_
          split
          · exact countCls_keepsForm hs1
          · exact hs1

theorem execRerankVectorArrive_keepsForm {c : Fin 128} {ctx : Fin 64} {slot : Nat} (h : KeepsForm s t) :
    ResKeeps s (execRerankVectorArrive c ctx slot t) := by
  unfold execRerankVectorArrive
  extract_lets key job _
  split
  · clear_value job
    split
    · split
      · exact countCls_keepsForm (h.frame rfl)
      · exact h
    · exact h
  · split
    · exact h
    · split
      · split
        · exact takeVector_keepsForm h
        · exact h
      · split
        · split
          next heq => exact putWalk_keepsForm (.of_fst heq (issueReads_keepsForm h))
        · exact h
      · exact h

theorem execRerankDeadlineExpire_keepsForm {c : Fin 128} {ctx : Fin 64} (h : KeepsForm s t) :
    ResKeeps s (execRerankDeadlineExpire c ctx t) := by
  unfold execRerankDeadlineExpire
  split
  · exact h
  · split
    · exact h
    · split
      · exact finishWalk_keepsForm h
      · exact h

theorem execWpref_keepsForm {c : Fin 128} (h : KeepsForm s t) : ResKeeps s (execWpref c t) := by
  unfold execWpref
  refine issueR_keepsForm h (fun w u hu => ?_)
  split
  · exact hu
  · exact countCls_keepsForm (setCl_keepsForm hu hu.scratch)

theorem execWcopya_keepsForm {c : Fin 128} (h : KeepsForm s t) : ResKeeps s (execWcopya c t) := by
  unfold execWcopya
  refine issueW_keepsForm h (fun w u hu => ?_)
  extract_lets a p len x own ps job
  split
  · exact failInv_keepsForm (count_keepsForm hu)
  · split
    · exact failInv_keepsForm hu
    · split
      next s1 heq =>
        have hs1 : KeepsForm s s1 := by
          refine .of_snd heq ?_
          split
          · exact hu
          · exact regTry_keepsForm hu
        exact hs1
      next s1 heq =>
        have hs1 : KeepsForm s s1 := by
          refine .of_snd heq ?_
          split
          · exact hu
          · exact regTry_keepsForm hu
        extract_lets _ t2 t3
        have ht2 : KeepsForm s t2 := setCl_keepsForm hs1 hs1.scratch
        have ht3 : KeepsForm s t3 := retire_keepsForm (addPending_keepsForm ht2)
        exact foldl_keepsForm ht3 (fun u1 x1 hu1 => request_keepsForm hu1)

theorem endCopy_keepsForm {c i : Nat} {j : CopyJob} (h : KeepsForm s t) : KeepsForm s (endCopy t c i j) :=
  setCl_keepsForm h h.scratch

theorem execCopyComplete_keepsForm {c : Fin 128} {i : Nat} (h : KeepsForm s t) : ResKeeps s (execCopyComplete c i t) := by
  unfold execCopyComplete
  split
  · exact h
  · split
    · extract_lets p
      split
      · split
        next heq => exact .of_got heq (unitRead_keepsForm h)
        next heq =>
          exact donePending_keepsForm (endCopy_keepsForm (scrWrite_keepsForm (.of_got heq (unitRead_keepsForm h))))
        next s1 heq =>
          have hs1 : KeepsForm s s1 := .of_got heq (unitRead_keepsForm h)
          extract_lets s2
          have hs2 : KeepsForm s s2 := donePending_keepsForm (endCopy_keepsForm hs1)
          split
          · exact endWork_keepsForm hs2
          · exact hs2
      · exact donePending_keepsForm (endCopy_keepsForm (count_keepsForm h))
    · split
      · exact endCopy_keepsForm h
      · exact h

theorem execWwaita_keepsForm {c : Fin 128} (h : KeepsForm s t) : ResKeeps s (execWwaita c t) := by
  unfold execWwaita
  refine issueNow_keepsForm h (fun w u hu => ?_)
  extract_lets x n
  split
  · exact forall_mem_some (setCl_keepsForm hu hu.scratch)
  · exact forall_mem_none

end Sys2Proof.Machine
end

section
/-!
Each function of `Machine.Graph` keeps the form: one lemma per function, in the file's order.
-/
namespace Sys2Proof.Machine
variable {s t : State}

theorem putUpd_keepsForm {uid : Nat} {u : Update} (h : KeepsForm s t) : KeepsForm s (putUpd t uid u) :=
  h.frame rfl

theorem updCtx_keepsForm {uid : Nat} {u : Update} (h : KeepsForm s t) : KeepsForm s (updCtx t uid u).2 := by
  unfold updCtx
  split
  · exact h
  · split
    next heq => exact .of_snd heq (ctxCheck_keepsForm h)
    next s1 heq =>
      have hs1 : KeepsForm s s1 := .of_snd heq (ctxCheck_keepsForm h)
      exact (hs1.frame rfl).frame rfl

theorem prepare_keepsForm {x : Index} {uid : Nat} {u : Update} (h : KeepsForm s t) : KeepsForm s (prepare t x uid u) := by
  unfold prepare
  extract_lets d slot v code s1 s2 s3
  have hs1 : KeepsForm s s1 := flashStore_keepsForm h
  have hs2 : KeepsForm s s2 := by
    unfold s2
    split
    · exact hs1
    · exact ownWrite_keepsForm hs1
  have hs3 : KeepsForm s s3 := by
    unfold s3
    split
    · exact ownWrite_keepsForm hs2
    · exact hs2
  exact putUpd_keepsForm hs3

theorem stageEdges_keepsForm {x : Index} {uid : Nat} {u : Update} (h : KeepsForm s t) : KeepsForm s (stageEdges t x uid u) :=
  putUpd_keepsForm h

theorem execWinsert_keepsForm {c : Fin 128} (h : KeepsForm s t) : ResKeeps s (execWinsert c t) := by
  unfold execWinsert
  extract_lets x
  split
  · split
    · exact resume_keepsForm h
    · split
      next s1 heq =>
        have hs1 : KeepsForm s s1 := .of_snd heq (updCtx_keepsForm h)
        extract_lets u1
        split
        · exact resume_keepsForm (stageEdges_keepsForm hs1)
        · exact resume_keepsForm (putUpd_keepsForm hs1)
  · refine issueW_keepsForm h (fun w u hu => ?_)
    split
    · exact hu
    · split
      · exact hu
      · split
        next s1 heq =>
          have hs1 : KeepsForm s s1 := .of_snd heq (updCtx_keepsForm hu)
          extract_lets _ u1
          refine setWait_keepsForm ?_
          split
          · exact putUpd_keepsForm hs1
          · exact prepare_keepsForm hs1

theorem execWdelete_keepsForm {c : Fin 128} (h : KeepsForm s t) : ResKeeps s (execWdelete c t) := by
  unfold execWdelete
  refine issueR_keepsForm h (fun w u hu => ?_)
  extract_lets i
  split
  · exact hu
  · exact putUpd_keepsForm hu

theorem repairRec_keepsForm {i : Nat} {x : Index} {slot : Nat} (h : KeepsForm s t) : KeepsForm s (repairRec t i x slot) := by
  unfold repairRec
  extract_lets d
  split
  · extract_lets r kept edges
    split
    · exact h
    · split
      · exact h
      · exact writeRecord_keepsForm h

theorem cleanList_keepsForm {d : IdxD} {part : Nat} {gone : List Nat} {l : Nat} (h : KeepsForm s t) :
    KeepsForm s (cleanList t d part gone l) := by
  unfold cleanList
  split
  · extract_lets es keep
    split
    · exact h
    · exact ownWrite_keepsForm (ownWrite_keepsForm h)

theorem cleanEntries_keepsForm {x : Index} {gone : List Nat} (h : KeepsForm s t) : KeepsForm s (cleanEntries t x gone) := by
  unfold cleanEntries
  extract_lets d s1
  have hs1 : KeepsForm s s1 := by
    unfold s1
    split
    · exact foldl_keepsForm h (fun u x1 hu => cleanList_keepsForm hu)
    · exact h
  split
  · exact foldl_keepsForm hs1 (fun u x1 hu => ownWrite_keepsForm hu)
  · exact hs1

theorem reclaim_keepsForm {i slot : Nat} (h : KeepsForm s t) : KeepsForm s (reclaim t i slot) := by
  unfold reclaim
  split
  · exact h
  · exact setIndex_keepsForm ((discardUnits_keepsForm (ownWrite_keepsForm h)).frame rfl)

theorem repairRange_keepsForm {i : Nat} {x : Index} {first n : Nat} (h : KeepsForm s t) :
    KeepsForm s (repairRange t i x first n) := by
  unfold repairRange
  extract_lets d total tiles slots s1 gone y s2
  have hs1 : KeepsForm s s1 := foldl_keepsForm h (fun u x1 hu => repairRec_keepsForm hu)
  have hs2 : KeepsForm s s2 := setIndex_keepsForm (cleanEntries_keepsForm hs1)
  exact foldl_keepsForm hs2 (fun u x1 hu => reclaim_keepsForm hu)

theorem execWrepair_keepsForm {c : Fin 128} (h : KeepsForm s t) : ResKeeps s (execWrepair c t) := by
  unfold execWrepair
  refine issueR_keepsForm h (fun w u hu => ?_)
  extract_lets i k
  split
  · exact hu
  · split
    · exact repairRange_keepsForm hu
    · exact hu

end Sys2Proof.Machine
end

section
/-!
Each function of `Machine.Update` keeps the form: one lemma per function, in the file's order.
-/
namespace Sys2Proof.Machine
variable {s t : State}

theorem epoErr_keepsForm {p bit : Nat} (h : KeepsForm s t) : KeepsForm s (epoErr t p bit) :=
  h.frame rfl

theorem freeUpdCtx_keepsForm {u : Update} (h : KeepsForm s t) : KeepsForm s (freeUpdCtx t u) := by
  unfold freeUpdCtx
  split
  · exact h.frame rfl
  · exact h

theorem undoUpdate_keepsForm {u : Update} (h : KeepsForm s t) : KeepsForm s (undoUpdate t u) := by
  unfold undoUpdate
  extract_lets n _ s1 _
  have hs1 : KeepsForm s s1 := by
    unfold s1
    split
    · exact h
    · exact h.frame rfl
  split
  · exact hs1
  · exact hs1.frame rfl

theorem sendUpd_keepsForm {kind pos part id handle : Nat} (h : KeepsForm s t) :
    KeepsForm s (sendUpd t kind pos part id handle) :=
  sendPkt_keepsForm h

theorem sendLog_keepsForm {part : Nat} {r : LogRec} {pos : Nat} (h : KeepsForm s t) : KeepsForm s (sendLog t part r pos) :=
  sendPkt_keepsForm h

theorem loseUpdate_keepsForm {uid : Nat} (h : KeepsForm s t) : KeepsForm s (loseUpdate t uid) := by
  unfold loseUpdate
  split
  · exact h
  · extract_lets _ s1
    have hs1 : KeepsForm s s1 := undoUpdate_keepsForm (freeUpdCtx_keepsForm (h.frame rfl))
    split
    · refine endCmd?_keepsForm (count_keepsForm hs1)
    · split
      · exact hs1
      · exact sendUpd_keepsForm hs1

theorem voidCheck_keepsForm {uid : Nat} (h : KeepsForm s t) : KeepsForm s (voidCheck t uid) := by
  unfold voidCheck
  split
  · exact h
  · split
    · exact loseUpdate_keepsForm h
    · exact h

theorem voidUpdate_keepsForm {uid : Nat} (h : KeepsForm s t) : KeepsForm s (voidUpdate t uid) := by
  unfold voidUpdate
  split
  · exact h
  · extract_lets _ s1 to_
    have hs1 : KeepsForm s s1 := count_keepsForm (putUpd_keepsForm (h.frame rfl))
    exact voidCheck_keepsForm (foldl_keepsForm hs1 (fun u x hu => sendUpd_keepsForm hu))

theorem commitUpdate_keepsForm {uid : Nat} {u : Update} (h : KeepsForm s t) : KeepsForm s (commitUpdate t uid u) := by
  unfold commitUpdate
  extract_lets st s1
  have hs1 : KeepsForm s s1 := putUpd_keepsForm h
  split
  · refine endCmd?_keepsForm (count_keepsForm hs1)
  · split
    · exact hs1
    · exact sendUpd_keepsForm hs1

theorem logUpdate_keepsForm {uid : Nat} (h : KeepsForm s t) : KeepsForm s (logUpdate t uid) := by
  unfold logUpdate
  split
  · exact h
  · split
    · exact h
    · split
      · split
        · exact putUpd_keepsForm (sendLog_keepsForm h)
        · exact loseUpdate_keepsForm h
      · split
        next heq => exact voidUpdate_keepsForm (.of_snd heq (updCtx_keepsForm h))
        next s1 heq =>
          have hs1 : KeepsForm s s1 := .of_snd heq (updCtx_keepsForm h)
          exact foldl_keepsForm (putUpd_keepsForm (hs1.frame rfl)) (fun u x hu => sendLog_keepsForm hu)

theorem takeUpdCtx_keepsForm {uid : Nat} (h : KeepsForm s t) : KeepsForm s (takeUpdCtx t uid) := by
  unfold takeUpdCtx
  split
  · exact h
  · exact logUpdate_keepsForm (h.frame rfl)

theorem addUpdate_keepsForm {u : Update} (h : KeepsForm s t) : KeepsForm s (addUpdate t u) :=
  takeUpdCtx_keepsForm (h.frame rfl)

theorem updRoom_keepsForm {p epoch kind : Nat} {x : Index} (h : KeepsForm s t) : KeepsForm s (updRoom t p epoch kind x).2 := by
  unfold updRoom
  extract_lets full noPeer noLog noSlot s1 s2 s3
  have hs1 : KeepsForm s s1 := by
    unfold s1
    split
    · exact epoErr_keepsForm h
    · exact h
  have hs2 : KeepsForm s s2 := by
    unfold s2
    split
    · exact count_keepsForm (epoErr_keepsForm hs1)
    · exact hs1
  have hs3 : KeepsForm s s3 := by
    unfold s3
    split
    · exact epoErr_keepsForm hs2
    · exact hs2
  exact hs3

theorem newHandle_keepsForm {x : Index} {slot : Nat} (h : KeepsForm s t) : KeepsForm s (newHandle t x slot).2 := by
  unfold newHandle
  split
  · split
    · split
      next heq => exact .of_snd heq (takeFree_keepsForm h)
    · exact h

theorem admitLocal_keepsForm {u : Update} {x : Index} (h : KeepsForm s t) : KeepsForm s (admitLocal t u x) := by
  unfold admitLocal
  extract_lets e n _ s1 old _
  have hs1 : KeepsForm s s1 := h.frame rfl
  split
  · exact addUpdate_keepsForm hs1
  · split
    · exact h
    · split
      next heq => exact addUpdate_keepsForm (setIndex_keepsForm (.of_snd heq (newHandle_keepsForm hs1)))

theorem admitUpdate_keepsForm {cid : Nat} {c : Cmd} {kind : Nat} {fields : List (Nat × Nat)} (h : KeepsForm s t) :
    KeepsForm s (admitUpdate t cid c kind fields) := by
  unfold admitUpdate
  extract_lets ins h1 i reg mb remote bad aux0 epoch r u
  split
  next s1 heq =>
    have hs1 : KeepsForm s s1 := by
      refine .of_snd heq ?_
      split
      · split
        · exact updRoom_keepsForm h
        · exact h
      · exact h
    extract_lets aux s2
    have hs2 : KeepsForm s s2 := runCmd_keepsForm hs1
    split
    · exact refuse_keepsForm hs1
    · split
      · exact h
      · split
        · exact addUpdate_keepsForm hs2
        · exact admitLocal_keepsForm hs2

theorem execInsert_keepsForm {cid : Nat} (h : KeepsForm s t) : ResKeeps s (execInsert cid t) := by
  unfold execInsert
  split
  · exact h
  · exact admitUpdate_keepsForm h

theorem execDelete_keepsForm {cid : Nat} (h : KeepsForm s t) : ResKeeps s (execDelete cid t) := by
  unfold execDelete
  split
  · exact h
  · exact admitUpdate_keepsForm h

theorem execUpsert_keepsForm {cid : Nat} (h : KeepsForm s t) : ResKeeps s (execUpsert cid t) := by
  unfold execUpsert
  split
  · exact h
  · exact admitUpdate_keepsForm h

theorem execUpdateVectorArrive_keepsForm {uid : Nat} {vec meta_ : HostRead} (h : KeepsForm s t) :
    ResKeeps s (execUpdateVectorArrive uid vec meta_ t) := by
  unfold execUpdateVectorArrive
  split
  · exact h
  · split
    · split
      · exact h
      · extract_lets d _ lost _
        have hlost : KeepsForm s lost := undoUpdate_keepsForm (freeUpdCtx_keepsForm (h.frame rfl))
        split
        · extract_lets pay
          exact logUpdate_keepsForm (putUpd_keepsForm h)
        · exact refuse_keepsForm hlost
    · exact h

theorem ctlGate_keepsForm {src part gen : Nat} {i : Instr} {run : State → State} (h : KeepsForm s t)
    (hrun : ∀ u, KeepsForm s u → KeepsForm s (run u)) : KeepsForm s (ctlGate t src part gen i run) := by
  unfold ctlGate
  split
  · exact sendPkt_keepsForm (countNode_keepsForm h)
  · split
    · exact h.frame rfl
    · exact hrun _ h

theorem ownForwarded_keepsForm {part : Nat} {r : LogRec} (h : KeepsForm s t) : KeepsForm s (ownForwarded t part r) := by
  unfold ownForwarded
  extract_lets no
  have hno : KeepsForm s no := sendUpd_keepsForm h
  split
  · exact h
  · split
    · exact hno
    · split
      · exact hno
      · split
        next s1 heq =>
          have hs1 : KeepsForm s s1 := .of_snd heq (updRoom_keepsForm h)
          split
          · exact sendUpd_keepsForm hs1
          · exact admitLocal_keepsForm hs1

theorem execLog_keepsForm {src : Fin 64} {gen : Nat} {part : Fin 32} {rec_ : LogRec} (h : KeepsForm s t) :
    ResKeeps s (execLog src gen part rec_ t) := by
  unfold execLog
  refine ctlGate_keepsForm h (fun u hu => ?_)
  split
  · exact ownForwarded_keepsForm hu
  · exact sendUpd_keepsForm (hu.frame rfl)

theorem execLogAck_keepsForm {src : Fin 64} {gen seq handle : Nat} (h : KeepsForm s t) :
    ResKeeps s (execLogAck src gen seq handle t) := by
  unfold execLogAck
  refine ctlGate_keepsForm h (fun u hu => ?_)
  split
  · exact countLate_keepsForm hu
  · split
    · extract_lets v _
      refine endCmd?_keepsForm (count_keepsForm (freeUpdCtx_keepsForm (hu.frame rfl)))
    · split
      · exact countLate_keepsForm hu
      · split
        · exact hu
        · extract_lets v
          split
          · exact commitUpdate_keepsForm hu
          · exact putUpd_keepsForm hu

theorem execLogTmoExpire_keepsForm {seq : Nat} (h : KeepsForm s t) : ResKeeps s (execLogTmoExpire seq t) := by
  unfold execLogTmoExpire
  split
  · exact h
  · split
    · exact voidUpdate_keepsForm h
    · exact h

theorem execLogVoid_keepsForm {src : Fin 64} {gen : Nat} {origin : Fin 64} {seq : Nat} (h : KeepsForm s t) :
    ResKeeps s (execLogVoid src gen origin seq t) :=
  ctlGate_keepsForm h (fun _ hu => sendUpd_keepsForm (hu.frame rfl))

theorem execLogVoidAck_keepsForm {src : Fin 64} {gen seq : Nat} (h : KeepsForm s t) :
    ResKeeps s (execLogVoidAck src gen seq t) := by
  unfold execLogVoidAck
  refine ctlGate_keepsForm h (fun u hu => ?_)
  split
  · exact hu
  · split
    · exact loseUpdate_keepsForm hu
    · split
      · exact voidCheck_keepsForm (putUpd_keepsForm hu)
      · exact hu

theorem execLogFlashWrite_keepsForm {seq : Nat} (h : KeepsForm s t) : ResKeeps s (execLogFlashWrite seq t) := by
  unfold execLogFlashWrite
  split
  · exact h
  · split
    · exact h
    · exact h.frame rfl

theorem startCheckpoint_keepsForm {fn p d : Nat} (h : KeepsForm s t) : KeepsForm s (startCheckpoint t fn p d) := by
  unfold startCheckpoint
  extract_lets f _
  split
  · exact h
  · split
    · exact epoErr_keepsForm h
    · exact h.frame rfl

theorem execCheckpoint_keepsForm {fn : Fin 64} {part : Fin 32} {epoch : W64} (h : KeepsForm s t) :
    ResKeeps s (execCheckpoint fn part epoch t) :=
  startCheckpoint_keepsForm h

theorem execCheckpointDone_keepsForm {part : Fin 32} (h : KeepsForm s t) : ResKeeps s (execCheckpointDone part t) := by
  unfold execCheckpointDone
  extract_lets p ts s1 _
  have hs1 : KeepsForm s s1 := foldl_keepsForm h (fun u x hu => (flashStore_keepsForm hu).frame rfl)
  split
  · exact h
  · split
    · exact h
    · exact hs1.frame rfl

end Sys2Proof.Machine
end

section
/-!
Each function of `Machine.Publish` keeps the form: one lemma per function, in the file's order.
-/
namespace Sys2Proof.Machine
variable {s t : State}

theorem addListEntry_keepsForm {d : IdxD} {part l slot : Nat} {code : List Byte} (h : KeepsForm s t) :
    KeepsForm s (addListEntry t d part l slot code) := by
  unfold addListEntry
  split
  · exact ownWrite_keepsForm (ownWrite_keepsForm h)

theorem publishEdges_keepsForm {i : Nat} {u : Update} (h : KeepsForm s t) : KeepsForm s (publishEdges t i u) := by
  unfold publishEdges
  refine foldl_keepsForm h (fun u1 x hu1 => ?_)
  split
  · exact hu1
  · exact addEdge_keepsForm hu1

theorem publishInsert_keepsForm {u : Update} (h : KeepsForm s t) : KeepsForm s (publishInsert t u) := by
  unfold publishInsert
  extract_lets i
  split
  · extract_lets d s1 s2
    have hs1 : KeepsForm s s1 := writeRecord_keepsForm h
    have hs2 : KeepsForm s s2 := by
      unfold s2
      split
      · exact addListEntry_keepsForm hs1
      · exact hs1
    split
    · exact publishEdges_keepsForm hs2
    · exact count_keepsForm hs2
  · exact h

theorem publishDelete_keepsForm {u : Update} {slot : Nat} (h : KeepsForm s t) : KeepsForm s (publishDelete t u slot) := by
  unfold publishDelete
  extract_lets i h1
  split
  · exact h
  · split
    · exact setIndex_keepsForm (writeRecord_keepsForm h)
    · exact count_keepsForm h

theorem publishOne_keepsForm {kv : Nat × Update} (h : KeepsForm s t) : KeepsForm s (publishOne t kv) := by
  unfold publishOne
  extract_lets u s1 s2 linked
  have hs1 : KeepsForm s s1 := by
    unfold s1
    split
    · exact publishDelete_keepsForm h
    · exact h
  have hs2 : KeepsForm s s2 := publishInsert_keepsForm hs1
  split
  · exact putUpd_keepsForm (freeUpdCtx_keepsForm hs2)
  · exact putUpd_keepsForm hs2

theorem publishLate_keepsForm {kv : Nat × Update} (h : KeepsForm s t) : KeepsForm s (publishLate t kv) := by
  unfold publishLate
  extract_lets u
  split
  · exact putUpd_keepsForm (freeUpdCtx_keepsForm (publishEdges_keepsForm (writeRecord_keepsForm h)))
  · exact putUpd_keepsForm (freeUpdCtx_keepsForm h)

theorem publish_keepsForm (h : KeepsForm s t) : KeepsForm s (publish t) := by
  unfold publish
  extract_lets _ s0 late now_
  have hs0 : KeepsForm s s0 := h.frame rfl
  exact foldl_keepsForm (foldl_keepsForm hs0 (fun u x hu => publishLate_keepsForm hu)) (fun u x hu =>
      publishOne_keepsForm hu)

theorem replayRec_keepsForm {part : Nat} {r : LogRec} (h : KeepsForm s t) : KeepsForm s (replayRec t part r) := by
  unfold replayRec
  split
  · exact count_keepsForm h
  · split
    · exact count_keepsForm h
    · extract_lets k u s1 uid
      have hs1 : KeepsForm s s1 := by
        unfold s1
        split
        · exact publishDelete_keepsForm h
        · split
          · exact publishDelete_keepsForm h
          · exact h
      split
      · exact hs1
      · split
        · exact hs1
        · exact (publishInsert_keepsForm (stageEdges_keepsForm (prepare_keepsForm (setIndex_keepsForm hs1)))).frame rfl

theorem replayAll_keepsForm {rs : List (LogRec × Nat)} (h : KeepsForm s t) : KeepsForm s (replayAll t rs) :=
  foldl_keepsForm h (fun _ _ hu => replayRec_keepsForm hu)

end Sys2Proof.Machine
end

section
/-!
Each function of `Machine.Barrier` keeps the form: one lemma per function, in the file's order.
-/
namespace Sys2Proof.Machine
variable {s t : State}

theorem setBarrier_keepsForm {b : Nat} {x : Barrier} (h : KeepsForm s t) : KeepsForm s (t.setBarrier b x) :=
  h.frame rfl

theorem barrierCheck_keepsForm {b : Nat} (h : KeepsForm s t) : KeepsForm s (barrierCheck t b) := by
  unfold barrierCheck
  extract_lets x members r
  split
  · exact h
  · exact setBarrier_keepsForm h

theorem sendArms_keepsForm {b k : Nat} (h : KeepsForm s t) : KeepsForm s (sendArms t b k) :=
  foldl_keepsForm h (fun _ _ hu => sendControl_keepsForm hu)

theorem armBarrier_keepsForm {b : Nat} (h : KeepsForm s t) : KeepsForm s (armBarrier t b) := by
  unfold armBarrier
  extract_lets x
  split
  · exact h
  · exact barrierCheck_keepsForm (sendArms_keepsForm (setBarrier_keepsForm h))

theorem rearm_keepsForm (h : KeepsForm s t) : KeepsForm s (rearm t) := by
  unfold rearm
  refine foldl_keepsForm h (fun u x hu => ?_)
  extract_lets x1
  split
  · exact hu
  · split
    · exact sendArms_keepsForm (setBarrier_keepsForm hu)
    · exact setBarrier_keepsForm hu

theorem takeArm_keepsForm {src b k : Nat} (h : KeepsForm s t) : KeepsForm s (takeArm t src b k) :=
  barrierCheck_keepsForm (setBarrier_keepsForm h)

theorem execArm_keepsForm {src : Fin 64} {b : Fin 4} {k gen : Nat} (h : KeepsForm s t) : ResKeeps s (execArm src b k gen t) :=
  ctlGate_keepsForm h (fun _ hu => takeArm_keepsForm hu)

theorem recal_keepsForm (h : KeepsForm s t) : KeepsForm s (recal t) := by
  unfold recal
  extract_lets r _ _
  split
  · exact h
  · exact h.frame rfl

theorem tryStartArm_keepsForm (h : KeepsForm s t) : KeepsForm s (tryStartArm t) := by
  unfold tryStartArm
  split
  · exact armBarrier_keepsForm (h.frame rfl)
  · exact h

end Sys2Proof.Machine
end

section
/-!
Each function of `Machine.Control` keeps the form: one lemma per function, in the file's order.
-/
namespace Sys2Proof.Machine
variable {s t : State}

theorem execCtrlNop_keepsForm {c : Fin 128} {u : Fin 4} (h : KeepsForm s t) : ResKeeps s (execCtrlNop c u t) := by
  unfold execCtrlNop
  refine issueNow_keepsForm h (fun w u1 hu1 => ?_)
  exact forall_mem_some hu1

theorem execJmp_keepsForm {c : Fin 128} {u : Fin 4} (h : KeepsForm s t) : ResKeeps s (execJmp c u t) := by
  unfold execJmp
  refine issue_keepsForm h (fun w u1 hu1 => ?_)
  extract_lets x
  exact forall_mem_some (retireTo_keepsForm hu1)

theorem execLoop_keepsForm {c : Fin 128} {u : Fin 4} (h : KeepsForm s t) : ResKeeps s (execLoop c u t) := by
  unfold execLoop
  refine issue_keepsForm h (fun w u1 hu1 => ?_)
  extract_lets x y len go on back
  have hgo {ls} {pc} : KeepsForm s (go ls pc) := retireTo_keepsForm (setCl_keepsForm hu1 hu1.scratch)
  split
  · split <;> split <;> exact forall_mem_some hgo
  · split <;> exact forall_mem_some hgo

theorem execFencem_keepsForm {c : Fin 128} {u : Fin 4} (h : KeepsForm s t) : ResKeeps s (execFencem c u t) := by
  unfold execFencem
  refine issueNow_keepsForm h (fun w u1 hu1 => ?_)
  split
  · exact forall_mem_some hu1
  · exact forall_mem_none

theorem execCbar_keepsForm {c : Fin 128} {u : Fin 4} (h : KeepsForm s t) : ResKeeps s (execCbar c u t) := by
  unfold execCbar
  refine issue_keepsForm h (fun w u1 hu1 => ?_)
  exact forall_mem_some (setWait_keepsForm hu1)

theorem execCbarRelease_keepsForm {slot : Fin 256} {role : Fin 128} {b : Fin 8} (h : KeepsForm s t) :
    ResKeeps s (execCbarRelease slot role b t) := by
  unfold execCbarRelease
  extract_lets cs at_
  split
  · exact h
  · exact foldl_keepsForm h (fun u x hu => foldl_keepsForm hu (fun u1 x1 hu1 => resume_keepsForm hu1))

theorem execTwait_keepsForm {c : Fin 128} {u : Fin 4} (h : KeepsForm s t) : ResKeeps s (execTwait c u t) := by
  unfold execTwait
  refine issue_keepsForm h (fun w u1 hu1 => ?_)
  extract_lets at_
  split
  · exact forall_mem_some (retire_keepsForm hu1)
  · exact forall_mem_some (setWait_keepsForm hu1)

theorem execTwaitExpire_keepsForm {c : Fin 128} {u : Fin 4} (h : KeepsForm s t) : ResKeeps s (execTwaitExpire c u t) := by
  unfold execTwaitExpire
  split
  · split
    · exact resume_keepsForm h
    · exact h
  · exact h

theorem takeInv_keepsForm {c u k i : Nat} {v : Inv} (h : KeepsForm s t) : KeepsForm s (takeInv t c u k i v) := by
  unfold takeInv
  extract_lets x first x1 y
  have hx1 : WorkInv s → tabWf x1.scratch = true := by
    unfold x1
    split <;> exact h.scratch
  exact retire_keepsForm (setCl_keepsForm h hx1)

theorem nextOp_keepsForm {c u : Nat} (h : KeepsForm s t) : KeepsForm s (nextOp t c u) := by
  unfold nextOp
  extract_lets x y taken
  split
  · exact checkDone_keepsForm (takeInv_keepsForm h)
  · exact checkDone_keepsForm (setCl_keepsForm h h.scratch)

theorem endRole_keepsForm {c : Nat} (h : KeepsForm s t) : KeepsForm s (endRole t c) := by
  unfold endRole
  extract_lets x without _
  split
  · exact h
  · extract_lets s1 _ s2
    have hs1 : KeepsForm s s1 := h.frame rfl
    have hs2 : KeepsForm s s2 := setCl_keepsForm hs1 hs1.scratch
    refine foldl_keepsForm hs2 (fun u x1 hu => ?_)
    split
    · exact hu
    · extract_lets left _
      split
      · exact endWork_keepsForm hu
      · exact hu.invs (tabWf_tput _ _) rfl

theorem haltDone_keepsForm {c : Nat} (h : KeepsForm s t) : KeepsForm s (haltDone t c) := by
  unfold haltDone
  extract_lets x
  split
  · exact endRole_keepsForm h
  · exact h

theorem execNext_keepsForm {c : Fin 128} {u : Fin 4} (h : KeepsForm s t) : ResKeeps s (execNext c u t) := by
  unfold execNext
  extract_lets x
  split
  · split
    · exact haltDone_keepsForm (nextOp_keepsForm h)
    · exact h
  · refine haltDone_keepsForm (issue_keepsForm h (fun w u1 hu1 => ?_))
    exact forall_mem_some (nextOp_keepsForm hu1)

theorem execHalt_keepsForm {c : Fin 128} {u : Fin 4} (h : KeepsForm s t) : ResKeeps s (execHalt c u t) := by
  unfold execHalt
  refine haltDone_keepsForm (issue_keepsForm h (fun w u1 hu1 => ?_))
  extract_lets x y t1 x1 _
  have ht1 : KeepsForm s t1 := retire_keepsForm hu1
  exact forall_mem_some (checkDone_keepsForm (setCl_keepsForm ht1 ht1.scratch))

theorem enterInv_keepsForm {i : Nat} {v : Inv} (h : KeepsForm s t) : KeepsForm s (enterInv t i v) :=
  foldl_keepsForm (h.invs (tabWf_tput _ _) rfl) (fun _ _ hu => setCl_keepsForm hu hu.scratch)

theorem execInvocationArrive_keepsForm {slot : Fin 256} {role : Fin 128} (h : KeepsForm s t) :
    ResKeeps s (execInvocationArrive slot role t) := by
  unfold execInvocationArrive
  extract_lets here
  split
  · exact h
  · exact foldl_keepsForm h (fun u x hu => enterInv_keepsForm hu)

end Sys2Proof.Machine
end

section
/-!
Each function of `Machine.Counters` keeps the form: one lemma per function, in the file's order.
-/
namespace Sys2Proof.Machine
variable {s t : State}

theorem writeDump_keepsForm {p f n : Nat} {d : Dump} (h : KeepsForm s t) : KeepsForm s (writeDump t p f n d) := by
  unfold writeDump
  extract_lets recs gen at_ s1 s2
  have hs1 : KeepsForm s s1 := by
    unfold s1
    split
    · exact h
    · exact hostWrite_keepsForm h
  have hs2 : KeepsForm s s2 := hostWrite_keepsForm hs1
  split
  · exact sendMsix_keepsForm hs2
  · exact hs2

theorem execDumpLatch_keepsForm {part : Fin 32} (h : KeepsForm s t) : ResKeeps s (execDumpLatch part t) := by
  unfold execDumpLatch
  extract_lets p d n _
  split
  · exact h
  · split
    · exact h
    · extract_lets sent d1
      exact writeDump_keepsForm (h.frame rfl)

end Sys2Proof.Machine
end

section
/-!
Each function of `Machine.Member` keeps the form: one lemma per function, in the file's order.
-/
namespace Sys2Proof.Machine
variable {s t : State}

theorem mbrErr_keepsForm {bit : Nat} (h : KeepsForm s t) : KeepsForm s (mbrErr t bit) :=
  h.frame rfl

theorem dropNode_keepsForm {pos : Nat} (h : KeepsForm s t) : KeepsForm s (dropNode t pos) := by
  unfold dropNode
  extract_lets _ s1
  have hs1 : KeepsForm s s1 := h.frame rfl
  refine foldl_keepsForm hs1 (fun u x hu => ?_)
  split
  · exact hu
  · split
    · extract_lets wp _ t1
      clear_value wp
      have ht1 : KeepsForm s t1 := hu.frame rfl
      split
      · exact completeReq_keepsForm ht1
      · exact ht1
    · split
      · exact hu
      · exact completeReq_keepsForm hu

theorem dropRelays_keepsForm {pos : Nat} (h : KeepsForm s t) : KeepsForm s (dropRelays t pos) :=
  foldl_keepsForm (h.frame rfl) (fun _ _ hu => sendPkt_keepsForm hu)

theorem dropRanks_keepsForm {pos : Nat} (h : KeepsForm s t) : KeepsForm s (dropRanks t pos) := by
  unfold dropRanks
  extract_lets v
  refine foldl_keepsForm h (fun u x hu => ?_)
  split
  · exact hu
  · extract_lets x1
    split
    · exact loseRanks_keepsForm hu
    · exact hu

theorem dropRoot_keepsForm {pos : Nat} (h : KeepsForm s t) : KeepsForm s (dropRoot t pos) := by
  unfold dropRoot
  refine foldl_keepsForm h (fun u x hu => ?_)
  extract_lets c x1 w root
  split
  · exact failInv_keepsForm hu
  · exact hu

theorem newPeers_keepsForm (h : KeepsForm s t) : KeepsForm s (newPeers t) :=
  foldl_keepsForm (h.frame rfl) (fun _ _ hu => foldl_keepsForm hu (fun _ _ hu1 => sendLog_keepsForm hu1))

theorem settleVoids_keepsForm (h : KeepsForm s t) : KeepsForm s (settleVoids t) :=
  foldl_keepsForm h (fun _ _ hu => voidCheck_keepsForm hu)

theorem replayCtl_keepsForm (h : KeepsForm s t) : KeepsForm s (replayCtl t) := by
  unfold replayCtl
  extract_lets held
  refine foldl_keepsForm (h.frame rfl) fun u x hu => ?_
  split
  · exact countNode_keepsForm hu
  · extract_lets r
    have hr : ResKeeps s r := by
      unfold r
      split
      · exact execArm_keepsForm hu
      · exact execLog_keepsForm hu
      · exact execLogAck_keepsForm hu
      · exact execLogVoid_keepsForm hu
      · exact execLogVoidAck_keepsForm hu
      · exact hu
    clear_value r
    split
    · exact hr
    · exact hu

theorem releaseHeld_keepsForm (h : KeepsForm s t) : KeepsForm s (releaseHeld t) :=
  h.frame rfl

theorem takeHosts_keepsForm {m : RackMap} (h : KeepsForm s t) : KeepsForm s (takeHosts t m) := by
  unfold takeHosts
  split <;> exact h.frame rfl

theorem join_keepsForm (h : KeepsForm s t) : KeepsForm s (join t) := by
  unfold join
  extract_lets late _ s1 e _ _ _
  have hs1 : KeepsForm s s1 := h.frame rfl
  split
  · exact h
  · exact h
  · split
    · exact hs1.frame rfl
    · exact hs1

theorem installMap_keepsForm {m : RackMap} (h : KeepsForm s t) : KeepsForm s (installMap t m) := by
  unfold installMap
  extract_lets left s1 s2 heard _ s3 s4 s5
  clear_value left
  have hs1 : KeepsForm s s1 := foldl_keepsForm h (fun u x hu => dropRoot_keepsForm (dropRanks_keepsForm
      (dropRelays_keepsForm (dropNode_keepsForm (loseLender_keepsForm hu)))))
  have hs2 : KeepsForm s s2 := takeHosts_keepsForm hs1
  clear_value heard
  have hs3 : KeepsForm s s3 := hs2.frame rfl
  have hs4 : KeepsForm s s4 := rearm_keepsForm (settleVoids_keepsForm (newPeers_keepsForm (join_keepsForm hs3)))
  have hs5 : KeepsForm s s5 := foldl_keepsForm hs4 (fun u x hu => barrierCheck_keepsForm hu)
  exact tryStartArm_keepsForm (replayCtl_keepsForm (releaseHeld_keepsForm (recal_keepsForm hs5)))

theorem dropTiles_keepsForm (h : KeepsForm s t) : KeepsForm s (dropTiles t) := by
  unfold dropTiles
  extract_lets gone kept s0
  have hs0 : KeepsForm s s0 := foldl_keepsForm h fun x k hx => hx.mem (memWf_mclear _ _) rfl
  clear_value s0
  exact foldl_keepsForm hs0 fun x k hx => freePlace_keepsForm
    (hx.update (fun ⟨hMem, hLend, hFlash, hMoves⟩ => ⟨memWf_mclear _ _ hMem, hLend, hFlash, forall_mem_terase hMoves⟩) id)

theorem sendHello_keepsForm (h : KeepsForm s t) : KeepsForm s (sendHello t) :=
  foldl_keepsForm (h.frame rfl) (fun _ _ hu => sendMbr_keepsForm hu)

theorem rejoinWait_keepsForm (h : KeepsForm s t) : KeepsForm s (rejoinWait t) := by
  unfold rejoinWait
  extract_lets s1 s2 _ _ s3 _
  have hs1 : KeepsForm s s1 := endAllWork_keepsForm h
  clear_value s1
  have hs2 : KeepsForm s s2 := foldl_keepsForm hs1 (fun u x hu => releasePlan_keepsForm hu)
  clear_value s2
  have hs3 : KeepsForm s s3 := dropTiles_keepsForm (hs2.frame rfl)
  clear_value s3
  exact sendHello_keepsForm (mbrErr_keepsForm (recal_keepsForm (hs3.frame rfl)))

theorem takeMap_keepsForm {m : RackMap} (h : KeepsForm s t) : KeepsForm s (takeMap t m) := by
  unfold takeMap
  split
  · exact h
  · split
    · exact installMap_keepsForm h
    · split
      · exact rejoinWait_keepsForm h
      · exact h

theorem execReject_keepsForm {port : Fin 32} {p : Packet} {answer : Option RackMap} (h : KeepsForm s t) :
    ResKeeps s (execReject port p answer t) := by
  refine receive_keepsForm h (fun p u hu => ?_) fun p u hu => passOn_keepsForm hu
  split
  · cases answer with
    | none => exact hu
    | some m => exact takeMap_keepsForm hu
  · split
    · exact hu
    · extract_lets mask v
      split
      · exact loseRanks_keepsForm hu
      · exact hu

theorem writeMap_keepsForm {m : RackMap} (h : KeepsForm s t) : KeepsForm s (writeMap t m) :=
  h.frame rfl

theorem startProp_keepsForm {m : RackMap} (h : KeepsForm s t) : KeepsForm s (startProp t m) :=
  foldl_keepsForm (writeMap_keepsForm (h.frame rfl)) (fun _ _ hu => sendMbr_keepsForm hu)

theorem propose_keepsForm {f : RackMap → RackMap} (h : KeepsForm s t) : KeepsForm s (propose t f) := by
  unfold propose
  extract_lets l _ m _
  split
  · exact h.frame rfl
  · exact startProp_keepsForm h

theorem commitMap_keepsForm {m : RackMap} (h : KeepsForm s t) : KeepsForm s (commitMap t m) := by
  unfold commitMap
  extract_lets _ s1 s2 s3 _
  have hs1 : KeepsForm s s1 := h.frame rfl
  have hs2 : KeepsForm s s2 := foldl_keepsForm hs1 (fun u x hu => sendMbr_keepsForm hu)
  clear_value s2
  have hs3 : KeepsForm s s3 := takeMap_keepsForm hs2
  split
  · exact hs3
  · split
    · exact startProp_keepsForm (hs3.frame rfl)
    · exact hs3

theorem formMap_keepsForm (h : KeepsForm s t) : KeepsForm s (formMap t) := by
  unfold formMap
  split
  · exact startProp_keepsForm h
  · exact h

theorem checkForm_keepsForm (h : KeepsForm s t) : KeepsForm s (checkForm t) := by
  unfold checkForm
  split
  · exact formMap_keepsForm h
  · exact h

theorem leaderHello_keepsForm {pos : Nat} (h : KeepsForm s t) : KeepsForm s (leaderHello t pos) := by
  unfold leaderHello
  split
  · exact h
  · split
    · exact checkForm_keepsForm h
    · extract_lets _ s1
      have hs1 : KeepsForm s s1 := h.frame rfl
      split
      · exact propose_keepsForm hs1
      · exact hs1

theorem execHello_keepsForm {pos : Fin 64} {msg : HelloMsg} (h : KeepsForm s t) : ResKeeps s (execHello pos msg t) := by
  unfold execHello
  split
  · exact h
  · exact leaderHello_keepsForm (h.frame rfl)

theorem execHelloTimer_keepsForm (h : KeepsForm s t) : ResKeeps s (execHelloTimer t) := by
  unfold execHelloTimer
  extract_lets waiting s1 hasId _
  have hs1 : KeepsForm s s1 := sendHello_keepsForm h
  split
  · exact h
  · split
    · exact leaderHello_keepsForm (hs1.frame rfl)
    · exact hs1

theorem execHeartbeat_keepsForm {pos : Fin 64} {k : Nat} (h : KeepsForm s t) : ResKeeps s (execHeartbeat pos k t) := by
  unfold execHeartbeat
  split
  · exact h
  · extract_lets _ s1
    have hs1 : KeepsForm s s1 := h.frame rfl
    exact sendMbr_keepsForm hs1

theorem renewLease_keepsForm (h : KeepsForm s t) : KeepsForm s (renewLease t) := by
  unfold renewLease
  split
  · exact h
  · exact h.frame rfl

theorem execHeartbeatTimer_keepsForm (h : KeepsForm s t) : ResKeeps s (execHeartbeatTimer t) := by
  unfold execHeartbeatTimer
  split
  · exact h
  · extract_lets _ s1 _
    have hs1 : KeepsForm s s1 := foldl_keepsForm (h.frame rfl) (fun u x hu => sendMbr_keepsForm hu)
    split
    · exact renewLease_keepsForm (hs1.frame rfl)
    · exact hs1

theorem execHbAck_keepsForm {pos : Fin 64} {gen k : Nat} (h : KeepsForm s t) : ResKeeps s (execHbAck pos gen k t) := by
  unfold execHbAck
  split
  · exact h
  · extract_lets _ s1 hasId _
    have hs1 : KeepsForm s s1 := h.frame rfl
    split
    · exact hs1.frame rfl
    · split
      · exact renewLease_keepsForm hs1
      · exact hs1

theorem execLeaseLapse_keepsForm (h : KeepsForm s t) : ResKeeps s (execLeaseLapse t) := by
  unfold execLeaseLapse
  split
  · split
    · extract_lets s1 _
      have hs1 : KeepsForm s s1 := mbrErr_keepsForm (endAllWork_keepsForm h)
      exact hs1.frame rfl
    · exact h
  · exact h

theorem noteSilent_keepsForm {pos by_ : Nat} (h : KeepsForm s t) : KeepsForm s (noteSilent t pos by_) := by
  unfold noteSilent
  extract_lets _ s1 n _
  have hs1 : KeepsForm s s1 := h.frame rfl
  split
  · exact propose_keepsForm (hs1.frame rfl)
  · exact hs1

theorem execExpelTimer_keepsForm {pos : Fin 64} (h : KeepsForm s t) : ResKeeps s (execExpelTimer pos t) := by
  unfold execExpelTimer
  extract_lets p _ s1
  have hs1 : KeepsForm s s1 := h.frame rfl
  split
  · exact h
  · split
    · exact noteSilent_keepsForm hs1
    · split
      · exact sendMbr_keepsForm hs1
      · exact hs1

theorem becomeLeader_keepsForm (h : KeepsForm s t) : KeepsForm s (becomeLeader t) := by
  unfold becomeLeader
  extract_lets _ s1
  have hs1 : KeepsForm s s1 := h.frame rfl
  split
  · split
    · exact startProp_keepsForm hs1
    · exact hs1
  · exact checkForm_keepsForm hs1

theorem countVotes_keepsForm (h : KeepsForm s t) : KeepsForm s (countVotes t) := by
  unfold countVotes
  split
  · exact becomeLeader_keepsForm h
  · exact h

theorem execElectionTimeout_keepsForm (h : KeepsForm s t) : ResKeeps s (execElectionTimeout t) := by
  unfold execElectionTimeout
  split
  · exact h
  · extract_lets _ s1
    have hs1 : KeepsForm s s1 := h.frame rfl
    exact countVotes_keepsForm (foldl_keepsForm hs1 (fun u x hu => sendMbr_keepsForm hu))

theorem execVoteReq_keepsForm {pos : Fin 64} {term : Nat} (h : KeepsForm s t) : ResKeeps s (execVoteReq pos term t) := by
  unfold execVoteReq
  split
  · exact h
  · extract_lets _ s1 _
    have hs1 : KeepsForm s s1 := by
      unfold s1
      split
      · exact h.frame rfl
      · exact h
    split
    · exact hs1
    · exact sendMbr_keepsForm (hs1.frame rfl)

theorem execVote_keepsForm {pos : Fin 64} {term gen job : Nat} (h : KeepsForm s t) :
    ResKeeps s (execVote pos term gen job t) := by
  unfold execVote
  split
  · exact h
  · exact countVotes_keepsForm (h.frame rfl)

theorem execAppend_keepsForm {pos : Fin 64} {term : Nat} {map_ : RackMap} (h : KeepsForm s t) :
    ResKeeps s (execAppend pos term map_ t) := by
  unfold execAppend
  split
  · exact h
  · extract_lets _ s1
    have hs1 : KeepsForm s s1 := h.frame rfl
    exact sendMbr_keepsForm (writeMap_keepsForm hs1)

theorem execAppendAck_keepsForm {pos : Fin 64} {term gen : Nat} (h : KeepsForm s t) :
    ResKeeps s (execAppendAck pos term gen t) := by
  unfold execAppendAck
  split
  · exact h
  · split
    · exact h
    · extract_lets q _
      split
      · exact commitMap_keepsForm h
      · exact h.frame rfl

theorem execCommit_keepsForm {pos : Fin 64} {map_ : RackMap} (h : KeepsForm s t) : ResKeeps s (execCommit pos map_ t) := by
  unfold execCommit
  split
  · exact h
  · exact takeMap_keepsForm (h.frame rfl)

theorem addCounts_keepsForm {xs : List (Nat × Nat × Nat)} (h : KeepsForm s t) : KeepsForm s (addCounts t xs) :=
  h.frame rfl

theorem execReport_keepsForm {pos : Fin 64} {msg : ReportMsg} (h : KeepsForm s t) : ResKeeps s (execReport pos msg t) := by
  unfold execReport
  split
  · exact h
  · extract_lets s1 s2
    have hs1 : KeepsForm s s1 := foldl_keepsForm (addCounts_keepsForm h) (fun u x hu => noteSilent_keepsForm hu)
    have hs2 : KeepsForm s s2 := by
      unfold s2
      split
      · split
        · exact propose_keepsForm hs1
        · exact hs1
      · exact hs1
    split
    · exact propose_keepsForm hs2
    · exact hs2

theorem execWeights_keepsForm {pos : Fin 64} {mult : List (Nat × Nat)} (h : KeepsForm s t) :
    ResKeeps s (execWeights pos mult t) := by
  unfold execWeights
  split
  · exact h.frame rfl
  · exact h

theorem execFormationTimeout_keepsForm (h : KeepsForm s t) : ResKeeps s (execFormationTimeout t) := by
  unfold execFormationTimeout
  split
  · exact formMap_keepsForm h
  · exact h

theorem writeJobCtl_keepsForm {fn e : Nat} (h : KeepsForm s t) : KeepsForm s (writeJobCtl t fn e) := by
  unfold writeJobCtl
  split
  · exact h
  · split
    · exact mbrErr_keepsForm h
    · split
      · exact propose_keepsForm (h.frame rfl)
      · extract_lets _ s1
        have hs1 : KeepsForm s s1 := h.frame rfl
        split
        · exact sendMbr_keepsForm hs1
        · exact hs1

theorem execMbrJobCtlWrite_keepsForm {fn : Fin 64} {epoch : W64} (h : KeepsForm s t) :
    ResKeeps s (execMbrJobCtlWrite fn epoch t) :=
  writeJobCtl_keepsForm h

theorem rebuildGo_keepsForm {fn shard : Nat} (h : KeepsForm s t) : KeepsForm s (rebuildGo t fn shard) := by
  unfold rebuildGo
  split
  · exact h
  · split <;> exact h.frame rfl

theorem rebuildDiscard_keepsForm {fn shard : Nat} (h : KeepsForm s t) : KeepsForm s (rebuildDiscard t fn shard) := by
  unfold rebuildDiscard
  split
  · exact h
  · exact h.frame rfl

theorem execRebuildGo_keepsForm {fn shard : Fin 64} (h : KeepsForm s t) : ResKeeps s (execRebuildGo fn shard t) :=
  rebuildGo_keepsForm h

theorem execRebuildDiscard_keepsForm {fn shard : Fin 64} (h : KeepsForm s t) : ResKeeps s (execRebuildDiscard fn shard t) :=
  rebuildDiscard_keepsForm h

theorem execRebuildRecordsArrive_keepsForm {lists : List (Nat × List LogRec)} (h : KeepsForm s t) :
    ResKeeps s (execRebuildRecordsArrive lists t) := by
  unfold execRebuildRecordsArrive
  split
  · exact h
  · extract_lets d _ rs part s1 _ s2
    have hs1 : KeepsForm s s1 := replayAll_keepsForm h
    have hs2 : KeepsForm s s2 := hs1.frame rfl
    split
    · exact mbrErr_keepsForm (h.frame rfl)
    · split
      · exact propose_keepsForm hs2
      · split
        · exact sendMbr_keepsForm hs2
        · exact hs2

end Sys2Proof.Machine
end

section
/-!
Each function of `Machine.NearBank` keeps the form: one lemma per function, in the file's order.
-/
namespace Sys2Proof.Machine
variable {s t : State}

theorem nbCount_keepsForm {o : NbOp} {x : NbSpan} (h : KeepsForm s t) : KeepsForm s (nbCount t o x) := by
  unfold nbCount
  extract_lets c us s1 given s2
  have hs1 : KeepsForm s s1 := foldl_keepsForm h (fun u x1 hu => count_keepsForm (count_keepsForm hu))
  have hs2 : KeepsForm s s2 := foldl_keepsForm hs1 (fun u x1 hu => readMarks_keepsForm hu)
  exact count_keepsForm hs2

theorem setNb_keepsForm {st : Nat} {x : NbStack} (h : KeepsForm s t) : KeepsForm s (t.setNb st x) :=
  h.frame rfl

theorem execWnb_keepsForm {c : Fin 128} (h : KeepsForm s t) : ResKeeps s (execWnb c t) := by
  unfold execWnb
  refine issueW_keepsForm h (fun w u hu => ?_)
  extract_lets cl st x plan banks bank o0 n o x1
  split
  · exact failInv_keepsForm hu
  · split
    · split
      · exact hu
      · exact count_keepsForm (setNb_keepsForm hu)
    · exact setWait_keepsForm (setNb_keepsForm hu)

theorem holdResult_keepsForm {ra key : Nat} (h : KeepsForm s t) : KeepsForm s (holdResult t ra key) :=
  h.frame rfl

theorem execNbOpStart_keepsForm {st : Fin 8} {i : Nat} (h : KeepsForm s t) : ResKeeps s (execNbOpStart st i t) := by
  unfold execNbOpStart
  extract_lets x
  split
  · exact h
  · split
    · exact h
    · extract_lets ra put
      have hput {t} (ht : KeepsForm s t) {o1} {slots} : KeepsForm s (put t o1 slots) := setNb_keepsForm ht
      split
      · exact hput h
      · exact h
      · extract_lets s1 ue s2 slots
        have hs1 : KeepsForm s s1 := holdResult_keepsForm (readChecks_keepsForm h)
        have hs2 : KeepsForm s s2 := count_keepsForm (nbCount_keepsForm hs1)
        split
        · exact hput hs2
        · split
          · exact hs2
          · split
            · exact hput (countCls_keepsForm hs2)

theorem nbEndCount_keepsForm {st : Nat} {o : NbOp} (h : KeepsForm s t) : KeepsForm s (nbEndCount t st o) := by
  unfold nbEndCount
  extract_lets s1 s2 s3 s4 _
  have hs1 : KeepsForm s s1 := count_keepsForm h
  have hs2 : KeepsForm s s2 := by
    unfold s2
    split
    · exact count_keepsForm hs1
    · exact hs1
  have hs3 : KeepsForm s s3 := by
    unfold s3
    split
    · exact count_keepsForm hs2
    · exact hs2
  have hs4 : KeepsForm s s4 := by
    unfold s4
    split
    · exact count_keepsForm hs3
    · exact hs3
  exact hs4.frame rfl

theorem execNbOpEnd_keepsForm {st : Fin 8} {i : Nat} (h : KeepsForm s t) : ResKeeps s (execNbOpEnd st i t) := by
  unfold execNbOpEnd
  extract_lets x
  split
  · exact h
  · split
    · exact h
    · extract_lets ra r mine s1 ok seq bytes r1 _ s2 stack s3
      have hs1 : KeepsForm s s1 := nbEndCount_keepsForm (setNb_keepsForm h)
      have hs2 : KeepsForm s s2 := by
        unfold s2
        split
        · exact hs1.frame rfl
        · exact hs1
      have hs3 : KeepsForm s s3 := regCharge_keepsForm hs2
      split
      · exact hs3
      · exact resume_keepsForm (scrWrite_keepsForm hs3)

theorem execNbShareWindow_keepsForm {st : Fin 8} (h : KeepsForm s t) : ResKeeps s (execNbShareWindow st t) := by
  unfold execNbShareWindow
  extract_lets x
  split
  · exact setNb_keepsForm h
  · exact h

end Sys2Proof.Machine
end

section
/-!
Each function of `Machine.Stream` keeps the form: one lemma per function, in the file's order.
-/
namespace Sys2Proof.Machine
variable {s t : State}

theorem loadModel_keepsForm {i part : Nat} {e : ModelEnt} {first : Nat} (h : KeepsForm s t) :
    KeepsForm s (loadModel t i part e first) :=
  h.frame rfl

theorem useModel_keepsForm {i : Nat} {inv : Option Nat} (h : KeepsForm s t) : KeepsForm s (useModel t i inv) :=
  h.frame rfl

theorem setWaitModel_keepsForm {inv m : Option Nat} (h : KeepsForm s t) : KeepsForm s (setWaitModel t inv m) := by
  unfold setWaitModel
  split
  · exact h
  · exact h.invs (tabWf_tupd _ _) rfl

theorem streamTry_keepsForm {c w : Nat} (h : KeepsForm s t) : KeepsForm s (streamTry t c w) := by
  unfold streamTry
  extract_lets inv layer part
  split
  · exact retire_keepsForm h
  · split
    · extract_lets s1
      have hs1 : KeepsForm s s1 := setWaitModel_keepsForm (useModel_keepsForm h)
      split
      · exact retire_keepsForm (scrWrite_keepsForm hs1)
      · split
        · exact setWait_keepsForm hs1
        · exact retire_keepsForm hs1
    · split
      · exact setWait_keepsForm (setWaitModel_keepsForm (useModel_keepsForm (loadModel_keepsForm h)))
      · exact setWait_keepsForm (setWaitModel_keepsForm h)

theorem execVstream_keepsForm {c : Fin 128} (h : KeepsForm s t) : ResKeeps s (execVstream c t) :=
  issueW_keepsForm h (fun _ _ hu => streamTry_keepsForm hu)

theorem execModelLayerArrive_keepsForm {m : Fin 32} (h : KeepsForm s t) : ResKeeps s (execModelLayerArrive m t) := by
  unfold execModelLayerArrive
  split
  · exact h
  · split
    · exact h
    · split
      next heq => exact .of_got heq (nodeRead_keepsForm h)
      next s1 heq =>
        have hs1 : KeepsForm s s1 := .of_got heq (nodeRead_keepsForm h)
        exact foldl_keepsForm (hs1.frame rfl) (fun u x hu => endWork_keepsForm hu)
      next s1 heq =>
        have hs1 : KeepsForm s s1 := .of_got heq (nodeRead_keepsForm h)
        extract_lets data y _ s2
        have hs2 : KeepsForm s s2 := hs1.frame rfl
        refine foldl_keepsForm hs2 (fun u x hu => ?_)
        split
        · exact streamTry_keepsForm hu
        · exact hu

theorem execModelSlotFree_keepsForm {m : Fin 32} (h : KeepsForm s t) : ResKeeps s (execModelSlotFree m t) := by
  unfold execModelSlotFree
  extract_lets free
  split
  · exact foldl_keepsForm h (fun u x hu => streamTry_keepsForm hu)
  · exact h

end Sys2Proof.Machine
end

section
/-!
Each function of `Machine.Plan` keeps the form: one lemma per function, in the file's order.
-/
namespace Sys2Proof.Machine
variable {s t : State}

theorem refusePlan_keepsForm {cid part tag bits : Nat} (h : KeepsForm s t) : KeepsForm s (refusePlan t cid part tag bits) :=
  endCmd_keepsForm (h.frame rfl)

theorem pinFrame_keepsForm {p k : Nat} (h : KeepsForm s t) : ∀ x ∈ pinFrame t p k, KeepsForm s x.2 := by
  unfold pinFrame
  split
  · exact forall_mem_some (takeFrame_keepsForm h)
  · split
    · exact forall_mem_none
    · split
      · exact forall_mem_none
      next s1 heq =>
        have hs1 : KeepsForm s s1 := .of_some_last heq (lowHome_keepsForm h)
        extract_lets _ s2
        have hs2 : KeepsForm s s2 := by
          unfold s2
          split
          · exact beginMove_keepsForm hs1
          · exact h.frame rfl
        exact forall_mem_some (takeFrame_keepsForm (count_keepsForm hs2))

theorem pinFrames_keepsForm {p : Nat} {ts : List Nat} (h : KeepsForm s t) : ∀ x ∈ pinFrames t p ts, KeepsForm s x.2 := by
  induction ts generalizing t with
  | nil => exact forall_mem_some h
  | cons k ts ih =>
    unfold pinFrames
    split
    · exact forall_mem_map_option fun x hx => ih h x hx
    · split
      · exact forall_mem_none
      · next heq => exact forall_mem_map_option fun x hx => ih (.of_some_snd heq (pinFrame_keepsForm h)) x hx

theorem pinTile_keepsForm {k : Nat} {frame : Option Nat} (h : KeepsForm s t) : KeepsForm s (pinTile t k frame) := by
  unfold pinTile
  extract_lets h1 _ s1 _
  have hs1 : KeepsForm s s1 := h.frame rfl
  split
  · exact hs1
  · exact hs1
  · exact count_keepsForm hs1
  · split
    · exact setHome_keepsForm hs1
    · exact hs1
  · split
    · exact setHome_keepsForm hs1
    · exact hs1.frame rfl

theorem takeContexts_keepsForm {slot n : Nat} (h : KeepsForm s t) : KeepsForm s (takeContexts t slot n) := by
  induction n generalizing t with
  | zero => exact h
  | succ n ih =>
    unfold takeContexts
    split
    · exact h
    · exact ih (h.frame rfl)

theorem takeModels_keepsForm {part : Nat} {p : PlanBin} (h : KeepsForm s t) : KeepsForm s (takeModels t part p) := by
  unfold takeModels
  refine foldl_keepsForm h (fun u x hu => ?_)
  split
  · exact hu
  · split
    · exact hu.frame rfl
    · split
      · exact hu
      · exact loadModel_keepsForm hu

theorem reservePlan_keepsForm {slot : Nat} {x : Plan} (h : KeepsForm s t) : KeepsForm s (reservePlan t slot x) := by
  unfold reservePlan
  extract_lets p
  split
  · exact h
  next s1 heq =>
    have hs1 : KeepsForm s s1 := .of_some_snd heq (pinFrames_keepsForm h)
    extract_lets pins ds y _ s2 s3 held _ s4
    have hs2 : KeepsForm s s2 := hs1.frame rfl
    have hs3 : KeepsForm s s3 := foldl_keepsForm hs2 (fun u x1 hu => pinTile_keepsForm hu)
    have hs4 : KeepsForm s s4 := takeModels_keepsForm (takeContexts_keepsForm (hs3.frame rfl))
    exact foldl_keepsForm hs4 (fun u x1 hu => foldl_keepsForm hu (fun u1 x2 hu1 => takeRole_keepsForm hu1))

theorem notePlanRange_keepsForm {part bits : Nat} (h : KeepsForm s t) : KeepsForm s (notePlanRange t part bits) := by
  unfold notePlanRange
  split
  · exact rangeErr_keepsForm h
  · exact h

theorem decidePlan_keepsForm {slot : Option Nat} {cid : Nat} {x : Plan} {bad : Bool} (h : KeepsForm s t) :
    KeepsForm s (decidePlan t slot cid x bad) := by
  unfold decidePlan
  extract_lets bits _
  split
  · split
    · exact reservePlan_keepsForm h
    · exact refusePlan_keepsForm (notePlanRange_keepsForm (h.frame rfl))
  · exact refusePlan_keepsForm (notePlanRange_keepsForm h)

theorem execPlanLoad_keepsForm {cid : Nat} {data : HostRead} {others : BitVec 32} (h : KeepsForm s t) :
    ResKeeps s (execPlanLoad cid data others t) := by
  unfold execPlanLoad
  split
  · exact h
  · extract_lets len aux s1 _
    have hs1 : KeepsForm s s1 := runCmd_keepsForm h
    split
    · exact refusePlan_keepsForm h
    · split
      · exact refuse_keepsForm h
      · split
        · exact refuse_keepsForm h
        · extract_lets b bad p bits
          clear_value p
          split
          · exact refusePlan_keepsForm h
          · split
            · exact refusePlan_keepsForm h
            · split
              · exact h
              · extract_lets x
                split
                · exact hs1.frame rfl
                · exact decidePlan_keepsForm hs1
                · exact decidePlan_keepsForm hs1
                · exact decidePlan_keepsForm hs1

theorem execPlanSignatureVerified_keepsForm {slot : Fin 256} (h : KeepsForm s t) :
    ResKeeps s (execPlanSignatureVerified slot t) := by
  unfold execPlanSignatureVerified
  split
  · exact h
  · split
    · exact h
    · extract_lets wait bad unl s1
      have hs1 : KeepsForm s s1 := decidePlan_keepsForm h
      split
      · exact h
      · split
        · exact foldl_keepsForm hs1 (fun u x hu => refuse_keepsForm hu)
        · exact hs1

theorem execRoleLoadDone_keepsForm {slot : Fin 256} (h : KeepsForm s t) : ResKeeps s (execRoleLoadDone slot t) := by
  unfold execRoleLoadDone
  split
  · exact h
  · extract_lets cs s1 ends y _
    have hs1 : KeepsForm s s1 := by
      unfold s1
      refine foldl_keepsForm h (fun u x hu => ?_)
      split
      · exact roleLoaded_keepsForm hu
      · exact hu
    split
    · exact h
    · refine endCmd?_keepsForm (hs1.frame rfl)

theorem execPlanUnload_keepsForm {cid : Nat} (h : KeepsForm s t) : ResKeeps s (execPlanUnload cid t) := by
  unfold execPlanUnload
  split
  · exact h
  · extract_lets i mine twice aux s1 _
    have hs1 : KeepsForm s s1 := runCmd_keepsForm h
    split
    · exact refuse_keepsForm h
    · exact startUnload_keepsForm (hs1.frame rfl)

theorem execPlanRelease_keepsForm {slot : Fin 256} (h : KeepsForm s t) : ResKeeps s (execPlanRelease slot t) := by
  unfold execPlanRelease
  split
  · exact h
  · extract_lets mine given s1 s2
    have hs1 : KeepsForm s s1 := foldl_keepsForm h (fun u x hu => endWork_keepsForm hu)
    have hs2 : KeepsForm s s2 := foldl_keepsForm hs1 (fun u x hu => endQuery_keepsForm hu)
    split
    · exact h
    · exact releasePlan_keepsForm hs2

theorem noteStep_keepsForm {slot n : Nat} {given : Bool} (h : KeepsForm s t) : KeepsForm s (noteStep t slot n given) :=
  h.frame rfl

theorem execInvoke_keepsForm {cid : Nat} (h : KeepsForm s t) : ResKeeps s (execInvoke cid t) := by
  unfold execInvoke
  split
  · exact h
  · extract_lets slot role dl bad aux given step x ws words v s1 _
    have hs1 : KeepsForm s s1 := noteStep_keepsForm (runCmd_keepsForm h)
    split
    · exact refuse_keepsForm h
    · exact hs1.invs (tabWf_tput _ _) rfl

theorem execInvokeDeadlineExpire_keepsForm {inv : Nat} (h : KeepsForm s t) : ResKeeps s (execInvokeDeadlineExpire inv t) := by
  unfold execInvokeDeadlineExpire
  split
  · exact h
  · split
    · exact h
    · split
      · refine foldl_keepsForm (endWork_keepsForm h) (fun u x hu => ?_)
        split
        · exact resume_keepsForm hu
        · exact hu
      · exact h

theorem execStartAtBarrierRelease_keepsForm {inv : Nat} {armed : W64} (h : KeepsForm s t) :
    ResKeeps s (execStartAtBarrierRelease inv armed t) := by
  unfold execStartAtBarrierRelease
  split
  · exact h
  · split
    · exact h
    · extract_lets need _
      split
      · exact h.invs (tabWf_tput _ _) rfl
      · exact h

theorem execStartGraceExpire_keepsForm {inv : Nat} (h : KeepsForm s t) : ResKeeps s (execStartGraceExpire inv t) := by
  unfold execStartGraceExpire
  split
  · exact h
  · split
    · exact h
    · extract_lets grace
      split
      · exact endInv_keepsForm h
      · exact h

end Sys2Proof.Machine
end

section
/-!
Each function of `Machine.Query` keeps the form: one lemma per function, in the file's order.
-/
namespace Sys2Proof.Machine
variable {s t : State}

theorem freeWords_keepsForm {n : Nat} (h : KeepsForm s t) : KeepsForm s (freeWords t n).2 := by
  induction n generalizing t with
  | zero => exact h
  | succ n ih => exact ih (takeFree_keepsForm h)

theorem sendSpan_keepsForm {qid : Nat} {q : Query} {ctx epoch : Nat} (h : KeepsForm s t) :
    KeepsForm s (sendSpan t qid q ctx epoch) := by
  unfold sendSpan
  extract_lets mask key m _ _ s1
  have hs1 : KeepsForm s s1 := count_keepsForm (h.update id fun ⟨hInvs, hQueries, hClusters, hColls, hScratch⟩ =>
    ⟨hInvs, tabWf_tput _ _ hQueries, hClusters, tabWf_tput _ _ hColls, hScratch⟩)
  clear_value s1 mask
  refine foldl_keepsForm hs1 fun u v hu => ?_
  split
  · exact loseRanks_keepsForm hu
  · exact sendPkt_keepsForm hu

theorem startQuery_keepsForm {qid : Nat} (h : KeepsForm s t) : KeepsForm s (startQuery t qid) := by
  unfold startQuery
  split
  · exact h
  · split
    · split
      · exact h
      · split
        next ws s1 heq =>
        have hs1 : KeepsForm s s1 := .of_snd heq (freeWords_keepsForm h)
        extract_lets i v y _ s2
        have hs2 : KeepsForm s s2 := hs1.update id fun ⟨hInvs, hQueries, hRest⟩ =>
          ⟨tabWf_tput _ _ hInvs, tabWf_tput _ _ hQueries, hRest⟩
        split
        · exact sendSpan_keepsForm hs2
        · exact hs2
    · exact h

theorem takeQueryCtx_keepsForm {qid : Nat} (h : KeepsForm s t) : KeepsForm s (takeQueryCtx t qid) := by
  unfold takeQueryCtx
  split
  · exact h
  · split
    · exact h
    · extract_lets _ _ s1
      have hs1 : KeepsForm s s1 := h.queries (tabWf_tput _ _) rfl
      split
      next heq => exact .of_snd heq (queryCtx_keepsForm hs1)
      next heq => exact startQuery_keepsForm (.of_snd heq (queryCtx_keepsForm hs1))

theorem addQuery_keepsForm {q : Query} (h : KeepsForm s t) : KeepsForm s (addQuery t q) := by
  unfold addQuery
  extract_lets qid e y _ s1 s2
  have hs1 : KeepsForm s s1 := h.queries (tabWf_tput _ _) rfl
  have hs2 : KeepsForm s s2 := by
    unfold s2
    split
    · exact count_keepsForm hs1
    · exact hs1
  exact takeQueryCtx_keepsForm hs2

theorem execQuery_keepsForm {cid : Nat} (h : KeepsForm s t) : ResKeeps s (execQuery cid t) := by
  unfold execQuery
  split
  · exact h
  · extract_lets d aux step s1
    have hs1 : KeepsForm s s1 := noteStep_keepsForm (runCmd_keepsForm h)
    split
    · exact refuseTier_keepsForm h
    · exact addQuery_keepsForm hs1

theorem takeQueryVec_keepsForm {qid : Nat} {q : Query} {x : Index} {b : List Byte} (h : KeepsForm s t) :
    KeepsForm s (takeQueryVec t qid q x b) := by
  unfold takeQueryVec
  extract_lets d v _
  split
  · exact endQuery_keepsForm h
  · exact startQuery_keepsForm (h.queries (tabWf_tput _ _) rfl)

theorem execQueryVectorArrive_keepsForm {qid : Nat} {data : HostRead} (h : KeepsForm s t) :
    ResKeeps s (execQueryVectorArrive qid data t) := by
  unfold execQueryVectorArrive
  split
  · exact h
  · split
    · exact h
    · split
      · exact h
      · split
        · split
          next heq => exact .of_got heq (nodeRead_keepsForm h)
          next heq => exact endQuery_keepsForm (.of_got heq (nodeRead_keepsForm h))
          next heq => exact takeQueryVec_keepsForm (.of_got heq (nodeRead_keepsForm h))
        · split
          · exact endQuery_keepsForm h
          · exact takeQueryVec_keepsForm h

theorem execQueryHoldRelease_keepsForm {qid : Nat} (h : KeepsForm s t) : ResKeeps s (execQueryHoldRelease qid t) := by
  unfold execQueryHoldRelease
  split
  · exact h
  · split
    · extract_lets _ s1
      have hs1 : KeepsForm s s1 := h.queries (tabWf_tput _ _) rfl
      split
      · exact startQuery_keepsForm hs1
      · exact takeQueryCtx_keepsForm hs1
    · exact h

theorem execQueryHoldTimeout_keepsForm {qid : Nat} (h : KeepsForm s t) : ResKeeps s (execQueryHoldTimeout qid t) := by
  unfold execQueryHoldTimeout
  split
  · exact h
  · extract_lets model units s1
    have hs1 : KeepsForm s s1 := endQuery_keepsForm h
    split
    · refine foldl_keepsForm hs1 (fun u x hu => ?_)
      split
      · exact resume_keepsForm hu
      · exact hu
    · exact h

theorem execContextFree_keepsForm {ctx : Fin 262144} (h : KeepsForm s t) : ResKeeps s (execContextFree ctx t) := by
  unfold execContextFree
  extract_lets k upd
  split
  · exact h
  · split
    · exact h
    · exact takeUpdCtx_keepsForm h
    · exact takeQueryCtx_keepsForm h
    · split
      · exact takeUpdCtx_keepsForm h
      · exact takeQueryCtx_keepsForm h

theorem rejectQfwd_keepsForm {p : Packet} (h : KeepsForm s t) : KeepsForm s (rejectQfwd t p) :=
  sendPkt_keepsForm h

theorem forwardTag_keepsForm {p : Nat} (h : KeepsForm s t) : KeepsForm s (forwardTag t p) := by
  unfold forwardTag
  extract_lets a w m tag s1 _
  have hs1 : KeepsForm s s1 := setAdm_keepsForm h
  exact hs1.frame rfl

theorem qfwdArrive_keepsForm {epoch stamp step_ : Nat} {p : Packet} (h : KeepsForm s t) :
    KeepsForm s (qfwdArrive epoch stamp step_ p t).2 := by
  unfold qfwdArrive
  extract_lets d q s1
  have hs1 : KeepsForm s s1 := noteStep_keepsForm (forwardTag_keepsForm h)
  split
  · exact rejectQfwd_keepsForm h
  · split
    · exact tellEntry_keepsForm hs1
    · exact addQuery_keepsForm hs1

theorem execQfwd_keepsForm {port : Fin 32} {p : Packet} {epoch stamp step_ : Nat} (h : KeepsForm s t) :
    ResKeeps s (execQfwd port p epoch stamp step_ t) :=
  receive_keepsForm h (fun _ _ hu => qfwdArrive_keepsForm hu) (fun _ _ hu => passOn_keepsForm hu)

end Sys2Proof.Machine
end

section
/-!
Each function of `Machine.Fabric` keeps the form: one lemma per function, in the file's order.
-/
namespace Sys2Proof.Machine
variable {s t : State}

theorem makeReady_keepsForm {port : Nat} {p : Packet} (h : KeepsForm s t) : KeepsForm s (makeReady t port p) :=
  h.frame rfl

theorem takeFlit_keepsForm {port : Nat} {f : Flit} (h : KeepsForm s t) : KeepsForm s (takeFlit t port f) := by
  unfold takeFlit
  split
  · exact h
  · split
    · exact countNode_keepsForm h
    · split
      · exact h.frame rfl
      · exact makeReady_keepsForm h
  · extract_lets k _
    split
    · exact countNode_keepsForm h
    · split
      · exact rejectOld_keepsForm h
      · extract_lets fl n _
        split
        · exact makeReady_keepsForm (h.frame rfl)
        · exact h.frame rfl

theorem noRouteEnd_keepsForm {p : Packet} (h : KeepsForm s t) : KeepsForm s (noRouteEnd t p) := by
  unfold noRouteEnd
  split
  · split
    · exact completeReq_keepsForm h
    · exact h
  · exact h

theorem rerouteOne_keepsForm {p : Packet} (h : KeepsForm s t) : KeepsForm s (rerouteOne t p) := by
  unfold rerouteOne
  split
  next s1 heq =>
    have hs1 : KeepsForm s s1 := .of_snd heq (routeSend_keepsForm h)
    split
    · exact hs1
    · exact noRouteEnd_keepsForm hs1

theorem portDown_keepsForm {k reason : Nat} {st : PortState} (h : KeepsForm s t) : KeepsForm s (portDown t k reason st) := by
  unfold portDown
  extract_lets x s1
  have hs1 : KeepsForm s s1 := setPort_keepsForm h
  split
  · exact sendLstate_keepsForm (foldl_keepsForm (countNode_keepsForm hs1) (fun u x1 hu => rerouteOne_keepsForm hu))
  · exact setPort_keepsForm h

theorem train_keepsForm {k : Nat} (h : KeepsForm s t) : KeepsForm s (train t k) := by
  unfold train
  split
  · exact setPort_keepsForm h
  · exact h

theorem addRetries_keepsForm {k n : Nat} (h : KeepsForm s t) : KeepsForm s (addRetries t k n) :=
  setPort_keepsForm h

theorem resendFrom_keepsForm {k k1 : Nat} (h : KeepsForm s t) : KeepsForm s (resendFrom t k k1) := by
  unfold resendFrom
  extract_lets again s1 s2
  have hs1 : KeepsForm s s1 := addRetries_keepsForm (countNode_keepsForm h)
  have hs2 : KeepsForm s s2 := foldl_keepsForm hs1 (fun u x hu => emit_keepsForm hu)
  split
  · exact portDown_keepsForm (detect_keepsForm hs2)
  · exact hs2

theorem ackTo_keepsForm {k ack : Nat} (h : KeepsForm s t) : KeepsForm s (ackTo t k ack) := by
  unfold ackTo
  extract_lets x
  split
  · exact setPort_keepsForm h
  · exact h

theorem execLinkFrame_keepsForm {port : Fin 32} {frame : Frame} (h : KeepsForm s t) :
    ResKeeps s (execLinkFrame port frame t) := by
  unfold execLinkFrame
  extract_lets t1
  split
  · exact h
  · split
    next s0 heq =>
      have hs0 : KeepsForm s s0 := .of_snd heq (injHit_keepsForm h)
      extract_lets bad fec unc s1 x s2 s3 s4 _ s5
      have hs1 : KeepsForm s s1 := countNode_keepsForm (countNode_keepsForm hs0)
      have hs2 : KeepsForm s s2 := by
        unfold s2
        split
        · exact detect_keepsForm hs1
        · exact hs1
      have hs3 : KeepsForm s s3 := ackTo_keepsForm hs2
      have hs4 : KeepsForm s s4 := by
        unfold s4
        split
        · exact resendFrom_keepsForm hs3
        · exact hs3
      have hs5 : KeepsForm s s5 := setPort_keepsForm hs4
      split
      · exact emit_keepsForm (detect_keepsForm hs1)
      · split
        · exact hs4
        · split
          · exact foldl_keepsForm (emit_keepsForm hs5) (fun u x1 hu => takeFlit_keepsForm hu)
          · split <;> exact emit_keepsForm hs4

theorem execLossOfSignal_keepsForm {port : Fin 32} {lane : Fin 2} (h : KeepsForm s t) :
    ResKeeps s (execLossOfSignal port lane t) := by
  unfold execLossOfSignal
  extract_lets t1 x lost s0 s1 _
  have hs0 : KeepsForm s s0 := by
    unfold s0
    split
    · exact detect_keepsForm h
    · exact h
  have hs1 : KeepsForm s s1 := portDown_keepsForm hs0
  split
  · exact h
  · split
    · exact train_keepsForm (countNode_keepsForm (setPort_keepsForm hs1))
    · exact hs1

theorem execPortTrained_keepsForm {port : Fin 32} {lanes : Fin 3} (h : KeepsForm s t) :
    ResKeeps s (execPortTrained port lanes t) := by
  unfold execPortTrained
  extract_lets t1 x src s1 _
  have hs1 : KeepsForm s s1 := setPort_keepsForm h
  split
  · exact h
  · split
    · exact setPort_keepsForm h
    · exact hs1.frame rfl

theorem portUpNow_keepsForm {k far farPort : Nat} (h : KeepsForm s t) : KeepsForm s (portUpNow t k far farPort) :=
  sendLstate_keepsForm (setPort_keepsForm h)

theorem execIdent_keepsForm {port : Fin 32} {msg : IdentMsg} (h : KeepsForm s t) : ResKeeps s (execIdent port msg t) := by
  unfold execIdent
  extract_lets t1 x stay
  have hstay {reason} : KeepsForm s (stay reason) := setPort_keepsForm h
  split
  · exact h
  · split
    · split
      · exact hstay
      · split
        · exact hstay
        · split
          · exact hstay
          · exact portUpNow_keepsForm h
    · split
      · exact portUpNow_keepsForm h
      · exact hstay

theorem execTrainRetry_keepsForm {port : Fin 32} (h : KeepsForm s t) : ResKeeps s (execTrainRetry port t) := by
  unfold execTrainRetry
  extract_lets x
  split
  · exact train_keepsForm h
  · exact h

theorem portDisable_keepsForm {fn k : Nat} {v : Bool} (h : KeepsForm s t) : KeepsForm s (portDisable t fn k v) := by
  unfold portDisable
  split
  · exact h
  · extract_lets _ s1 _
    have hs1 : KeepsForm s s1 := setPort_keepsForm h
    split
    · exact portDown_keepsForm hs1
    · split
      · exact train_keepsForm (setPort_keepsForm hs1)
      · exact hs1

theorem execPortDisable_keepsForm {fn : Fin 64} {port : Fin 32} {v : Bool} (h : KeepsForm s t) :
    ResKeeps s (execPortDisable fn port v t) :=
  portDisable_keepsForm h

theorem portRetrain_keepsForm {fn k : Nat} (h : KeepsForm s t) : KeepsForm s (portRetrain t fn k) := by
  unfold portRetrain
  split
  · exact h
  · exact train_keepsForm (setPort_keepsForm (portDown_keepsForm h))

theorem execPortRetrain_keepsForm {fn : Fin 64} {port : Fin 32} (h : KeepsForm s t) : ResKeeps s (execPortRetrain fn port t) :=
  portRetrain_keepsForm h

theorem execLstate_keepsForm {src : Fin 64} {bits : W64} (h : KeepsForm s t) : ResKeeps s (execLstate src bits t) :=
  h.frame rfl

theorem execLstateTimer_keepsForm (h : KeepsForm s t) : ResKeeps s (execLstateTimer t) := by
  unfold execLstateTimer
  split
  · exact sendLstate_keepsForm h
  · exact h

theorem execLoad_keepsForm {port : Fin 32} {p : Packet} (h : KeepsForm s t) : ResKeeps s (execLoad port p t) :=
  receive_keepsForm h (fun _ _ hu => answer_keepsForm (serveLoad_keepsForm hu)) (fun _ _ hu => passOn_keepsForm
      hu)

theorem execStore_keepsForm {port : Fin 32} {p : Packet} (h : KeepsForm s t) : ResKeeps s (execStore port p t) :=
  receive_keepsForm h (fun _ _ hu => answer_keepsForm (serveStore_keepsForm hu)) (fun _ _ hu => passOn_keepsForm
      hu)

theorem execAtomic_keepsForm {port : Fin 32} {p : Packet} (h : KeepsForm s t) : ResKeeps s (execAtomic port p t) :=
  receive_keepsForm h (fun _ _ hu => answer_keepsForm (serveAtomic_keepsForm hu)) (fun _ _ hu => passOn_keepsForm
      hu)

theorem execPut_keepsForm {port : Fin 32} {p : Packet} (h : KeepsForm s t) : ResKeeps s (execPut port p t) :=
  receive_keepsForm h (fun _ _ hu => answer_keepsForm (serveStore_keepsForm hu)) (fun _ _ hu => passOn_keepsForm
      hu)

theorem execGet_keepsForm {port : Fin 32} {p : Packet} (h : KeepsForm s t) : ResKeeps s (execGet port p t) :=
  receive_keepsForm h (fun _ _ hu => answer_keepsForm (serveLoad_keepsForm hu)) (fun _ _ hu => passOn_keepsForm
      hu)

theorem invalAck_keepsForm {p : Packet} (h : KeepsForm s t) : KeepsForm s (invalAck t p) :=
  sendPkt_keepsForm h

theorem execInval_keepsForm {port : Fin 32} {p : Packet} (h : KeepsForm s t) : ResKeeps s (execInval port p t) := by
  unfold execInval
  refine receive_keepsForm h (fun p1 u hu => ?_) (fun p1 u hu => passOn_keepsForm hu)
  extract_lets s1
  have hs1 : KeepsForm s s1 := count_keepsForm (dropRemote_keepsForm hu)
  split
  · split
    · exact invalAck_keepsForm hs1
    · split
      next s11 heq =>
        have hs11 : KeepsForm s s11 := .of_snd heq (newTag_keepsForm hs1)
        exact spreadInval_keepsForm (hs11.frame rfl)

theorem execInvalAck_keepsForm {port : Fin 32} {p : Packet} (h : KeepsForm s t) : ResKeeps s (execInvalAck port p t) := by
  unfold execInvalAck
  refine receive_keepsForm h (fun p1 u hu => ?_) (fun p1 u hu => passOn_keepsForm hu)
  split
  · split
    · exact countLate_keepsForm hu
    · extract_lets wp we _ s1
      have hs1 : KeepsForm s s1 := hu.frame rfl
      split
      · exact completeReq_keepsForm hs1
      · exact hs1
  · split
    · exact countLate_keepsForm hu
    · extract_lets wp we rest _
      split
      · exact sendPkt_keepsForm (hu.frame rfl)
      · exact hu.frame rfl

theorem response_keepsForm {port kind : Nat} {p : Packet} (h : KeepsForm s t) : KeepsForm s (response t port kind p) := by
  unfold response
  refine receive_keepsForm h (fun p1 u hu => ?_) (fun p1 u hu => passOn_keepsForm hu)
  split
  · split
    · exact completeReq_keepsForm hu
    · exact countLate_keepsForm hu
  · exact countLate_keepsForm hu

theorem execLoadRsp_keepsForm {port : Fin 32} {p : Packet} (h : KeepsForm s t) : ResKeeps s (execLoadRsp port p t) :=
  response_keepsForm h

theorem execStoreAck_keepsForm {port : Fin 32} {p : Packet} (h : KeepsForm s t) : ResKeeps s (execStoreAck port p t) :=
  response_keepsForm h

theorem execAtomicRsp_keepsForm {port : Fin 32} {p : Packet} (h : KeepsForm s t) : ResKeeps s (execAtomicRsp port p t) :=
  response_keepsForm h

theorem execPutAck_keepsForm {port : Fin 32} {p : Packet} (h : KeepsForm s t) : ResKeeps s (execPutAck port p t) :=
  response_keepsForm h

theorem execGetRsp_keepsForm {port : Fin 32} {p : Packet} (h : KeepsForm s t) : ResKeeps s (execGetRsp port p t) :=
  response_keepsForm h

theorem burstGone_keepsForm {p : Packet} (h : KeepsForm s t) : KeepsForm s (burstGone t p) := by
  unfold burstGone
  split
  · exact h
  · split
    · exact respond_keepsForm h
    · split
      · exact completeReq_keepsForm h
      · exact h

theorem closePlace_keepsForm {p : Packet} (h : KeepsForm s t) : KeepsForm s (closePlace t p) := by
  unfold closePlace
  extract_lets r _
  split
  · exact h
  · split
    · exact fseqTake_keepsForm h
    · split
      · exact h.frame rfl
      · exact h

theorem execBurstHoldExpire_keepsForm {src : Fin 4096} {bseq : Nat} (h : KeepsForm s t) :
    ResKeeps s (execBurstHoldExpire src bseq t) := by
  unfold execBurstHoldExpire
  split
  · exact h
  · split
    · extract_lets _ s1
      have hs1 : KeepsForm s s1 := h.frame rfl
      exact burstGone_keepsForm (closePlace_keepsForm (countNode_keepsForm hs1))
    · exact h

theorem execGenHoldExpire_keepsForm {i : Nat} (h : KeepsForm s t) : ResKeeps s (execGenHoldExpire i t) := by
  unfold execGenHoldExpire
  split
  · exact h
  · split
    · exact countNode_keepsForm (h.frame rfl)
    · exact h

theorem execMsgTmoExpire_keepsForm {tag : Fin 65536} (h : KeepsForm s t) : ResKeeps s (execMsgTmoExpire tag t) := by
  unfold execMsgTmoExpire
  split
  · exact h
  · split
    · exact completeReq_keepsForm h
    · exact h

theorem execInvalTmoExpire_keepsForm {tag : Fin 65536} (h : KeepsForm s t) : ResKeeps s (execInvalTmoExpire tag t) := by
  unfold execInvalTmoExpire
  split
  · exact h
  · split
    · exact completeReq_keepsForm h
    · exact h

theorem routeAgain_keepsForm {p : Packet} {refused : List Nat} (h : KeepsForm s t) : KeepsForm s (routeAgain t p refused) := by
  unfold routeAgain
  split
  · exact noRouteEnd_keepsForm h
  · split
    next s1 heq =>
      have hs1 : KeepsForm s s1 := .of_snd heq (routeSend_keepsForm h)
      split
      · exact hs1
      · exact noRouteEnd_keepsForm hs1

theorem execRouteNak_keepsForm {p : Packet} {via : Fin 64} (h : KeepsForm s t) : ResKeeps s (execRouteNak p via t) := by
  unfold execRouteNak
  split
  · exact h
  · extract_lets s1 _
    have hs1 : KeepsForm s s1 := count_keepsForm h
    split
    · split
      · extract_lets refused
        exact routeAgain_keepsForm (hs1.frame rfl)
      · exact routeAgain_keepsForm (hs1.frame rfl)
    · exact routeAgain_keepsForm (hs1.frame rfl)

end Sys2Proof.Machine
end

section
/-!
Each function of `Machine.Errors` keeps the form: one lemma per function, in the file's order.
-/
namespace Sys2Proof.Machine
variable {s t : State}

theorem armInj_keepsForm {fn det mode : Nat} {target : W64} {ue : Bool} (h : KeepsForm s t) :
    KeepsForm s (armInj t fn det mode target ue) := by
  unfold armInj
  split
  · exact h
  · extract_lets t1 x x1 _
    split
    · exact h.frame rfl
    · split <;> exact h.frame rfl

theorem execErrInjOnce_keepsForm {fn : Fin 64} {det : Fin 16} {target : W64} {ue : Bool} (h : KeepsForm s t) :
    ResKeeps s (execErrInjOnce fn det target ue t) :=
  armInj_keepsForm h

theorem execErrInjSticky_keepsForm {fn : Fin 64} {det : Fin 16} {target : W64} {ue : Bool} (h : KeepsForm s t) :
    ResKeeps s (execErrInjSticky fn det target ue t) :=
  armInj_keepsForm h

theorem execErrInjNextStart_keepsForm {fn : Fin 64} {det : Fin 16} {target : W64} {ue : Bool} (h : KeepsForm s t) :
    ResKeeps s (execErrInjNextStart fn det target ue t) :=
  armInj_keepsForm h

theorem execErrInjCancel_keepsForm {fn : Fin 64} {det : Fin 16} (h : KeepsForm s t) :
    ResKeeps s (execErrInjCancel fn det t) := by
  unfold execErrInjCancel
  extract_lets x
  exact armInj_keepsForm h

theorem outputsOff_keepsForm (h : KeepsForm s t) : KeepsForm s (outputsOff t) := by
  unfold outputsOff
  extract_lets down s1 s2 _ _ _
  have hdown {x} (hx : KeepsForm s x) {t} : KeepsForm s (down x t) := by
    unfold down
    extract_lets reason _ y
    have hy : KeepsForm s y := setPort_keepsForm hx
    clear_value y
    split
    · exact countNode_keepsForm hy
    · exact hy
  have hs1 : KeepsForm s s1 := foldl_keepsForm h (fun u x hu => hdown hu)
  clear_value s1
  have hs2 : KeepsForm s s2 := linkDown_keepsForm (linkDown_keepsForm hs1)
  clear_value s2
  exact hs2.frame rfl

theorem norRecord_keepsForm {r : ErrRec} (h : KeepsForm s t) : KeepsForm s (norRecord t r) :=
  h.frame rfl

theorem nodeFault_keepsForm {r : Option ErrRec} (h : KeepsForm s t) : KeepsForm s (nodeFault t r) := by
  unfold nodeFault
  split
  · exact h
  · extract_lets s1 s2 _ _ _
    have hs1 : KeepsForm s s1 := outputsOff_keepsForm (endAllWork_keepsForm h)
    have hs2 : KeepsForm s s2 := by
      unfold s2
      split
      · split
        · exact norRecord_keepsForm hs1
        · exact hs1
      · exact hs1
    exact hs2.frame rfl

theorem nodeDetect_keepsForm {det loc : Nat} {inj : Bool} (h : KeepsForm s t) : KeepsForm s (nodeDetect t det loc inj) :=
  nodeFault_keepsForm (detect_keepsForm h)

theorem settlePrimary_keepsForm (h : KeepsForm s t) : KeepsForm s (settlePrimary t) := by
  unfold settlePrimary
  extract_lets lowest p _ s1 _
  have hs1 : KeepsForm s s1 := by
    unfold s1
    split
    · exact h
    · exact h.frame rfl
  exact hs1.frame rfl

theorem execScWatchdogExpire_keepsForm {core : Fin 3} (h : KeepsForm s t) : ResKeeps s (execScWatchdogExpire core t) := by
  unfold execScWatchdogExpire
  split
  · exact h
  · split
    next s1 heq =>
      have hs1 : KeepsForm s s1 := .of_snd heq (injFlag_keepsForm h)
      extract_lets s2 _
      have hs2 : KeepsForm s s2 := detect_keepsForm hs1
      exact settlePrimary_keepsForm (hs2.frame rfl)

theorem execServiceCoreSelftestDone_keepsForm {core : Fin 3} {ok : Bool} (h : KeepsForm s t) :
    ResKeeps s (execServiceCoreSelftestDone core ok t) := by
  unfold execServiceCoreSelftestDone
  extract_lets st _
  split
  · exact settlePrimary_keepsForm (h.frame rfl)
  · exact h

theorem execNoCoreHealthyExpire_keepsForm (h : KeepsForm s t) : ResKeeps s (execNoCoreHealthyExpire t) := by
  unfold execNoCoreHealthyExpire
  split
  · exact h
  · split
    · exact nodeFault_keepsForm h
    · exact h

theorem failChannel_keepsForm {ch : Nat} (h : KeepsForm s t) : KeepsForm s (failChannel t ch) :=
  foldl_keepsForm (((h.frame rfl).frame rfl).frame rfl) (fun _ _ hu => rescueWork_keepsForm hu)

theorem execStateMachineParity_keepsForm {block : Fin 128} (h : KeepsForm s t) :
    ResKeeps s (execStateMachineParity block t) := by
  unfold execStateMachineParity
  extract_lets b
  split
  next s1 heq =>
    have hs1 : KeepsForm s s1 := .of_snd heq (injFlag_keepsForm h)
    split
    · exact nodeDetect_keepsForm hs1
    · split
      · split
        next heq1 => exact portDown_keepsForm (.of_snd heq1 (takeFree_keepsForm (detect_keepsForm hs1)))
      · split
        · exact failChannel_keepsForm (detect_keepsForm hs1)
        · split
          · exact linkDown_keepsForm (detect_keepsForm hs1)
          · exact h

theorem execRowRepairDone_keepsForm {st : Fin 8} {row : Nat} {ok : Bool} (h : KeepsForm s t) :
    ResKeeps s (execRowRepairDone st row ok t) := by
  unfold execRowRepairDone
  extract_lets k loc x _ s1 _ f tile part _ s2
  have hs1 : KeepsForm s s1 := h.frame rfl
  have hs2 : KeepsForm s s2 := hs1.frame rfl
  split
  · exact h
  · split
    · exact detect_keepsForm (hs1.frame rfl)
    · exact detect_keepsForm hs2

end Sys2Proof.Machine
end

section
/-!
Each function of `Machine.Stop` keeps the form: one lemma per function, in the file's order.
-/
namespace Sys2Proof.Machine
variable {s t : State}

theorem beginStop_keepsForm (h : KeepsForm s t) : KeepsForm s (beginStop t) := by
  unfold beginStop
  split
  · exact h
  · exact h.frame rfl

theorem tilesToFlash_keepsForm (h : KeepsForm s t) : KeepsForm s (tilesToFlash t) := by
  unfold tilesToFlash
  extract_lets ts
  refine foldl_keepsForm h fun x k hx => ?_
  extract_lets bad x1 u _
  have hx1 : KeepsForm s x1 := by
    unfold x1
    split
    · exact hx
    · exact flashStore_keepsForm hx
  have hu : KeepsForm s u := setHome_keepsForm hx1
  exact hu.frame rfl

theorem finishStop_keepsForm (h : KeepsForm s t) : KeepsForm s (finishStop t) := by
  unfold finishStop
  extract_lets s1 ps _ _ s2 s3 _ _
  have hs1 : KeepsForm s s1 := tilesToFlash_keepsForm h
  clear_value s1
  have hs2 : KeepsForm s s2 := hs1.frame rfl
  clear_value s2
  have hs3 : KeepsForm s s3 := outputsOff_keepsForm (norRecord_keepsForm hs2)
  clear_value s3
  exact hs3.frame rfl

theorem settleStop_keepsForm (h : KeepsForm s t) : KeepsForm s (settleStop t) := by
  unfold settleStop
  split
  · exact finishStop_keepsForm h
  · exact h

end Sys2Proof.Machine
end

section
/-!
Each function of `Machine.Epoch` keeps the form: one lemma per function, in the file's order.
-/
namespace Sys2Proof.Machine
variable {s t : State}

theorem beginClose_keepsForm (h : KeepsForm s t) : KeepsForm s (beginClose t) := by
  unfold beginClose
  extract_lets e _
  split
  · exact h.frame rfl
  · exact h

theorem execEpochBoundary_keepsForm (h : KeepsForm s t) : ResKeeps s (execEpochBoundary t) := by
  unfold execEpochBoundary
  refine beginClose_keepsForm ?_
  split
  · exact h.frame rfl
  · exact h

theorem execCloseDrainDone_keepsForm (h : KeepsForm s t) : ResKeeps s (execCloseDrainDone t) := by
  unfold execCloseDrainDone
  split
  · exact armBarrier_keepsForm h
  · exact h

theorem execPublishDone_keepsForm (h : KeepsForm s t) : ResKeeps s (execPublishDone t) := by
  unfold execPublishDone
  split
  · exact armBarrier_keepsForm h
  · exact h

theorem execInvalDone_keepsForm (h : KeepsForm s t) : ResKeeps s (execInvalDone t) := by
  unfold execInvalDone
  split
  · exact (armBarrier_keepsForm h).frame rfl
  · exact h

theorem dropRemoteLines_keepsForm (h : KeepsForm s t) : KeepsForm s (dropRemoteLines t) :=
  h.clusters (tabWf_map fun _ => rfl) (fun hs => forall_mem_map hs fun _ hx => hx) rfl

theorem expireQueries_keepsForm (h : KeepsForm s t) : KeepsForm s (expireQueries t) :=
  foldl_keepsForm h (fun _ _ hu => expireQuery_keepsForm hu)

theorem shiftRole_keepsForm (h : KeepsForm s t) : KeepsForm s (shiftRole t) := by
  unfold shiftRole
  split
  · exact h
  · split
    · exact endCmd_keepsForm (h.frame rfl)
    · exact h

theorem restartJob_keepsForm (h : KeepsForm s t) : KeepsForm s (restartJob t) := by
  unfold restartJob
  split
  · exact h
  · extract_lets _ s1
    have hs1 : KeepsForm s s1 := foldl_keepsForm (h.frame rfl) (fun u x hu => startUnload_keepsForm hu)
    split
    · exact propose_keepsForm hs1
    · exact hs1

theorem weigh_keepsForm (h : KeepsForm s t) : KeepsForm s (weigh t) := by
  unfold weigh
  extract_lets _ s1 ps clear all ms s2 _
  have hs1 : KeepsForm s s1 := h.frame rfl
  have hclear {t} (ht : KeepsForm s t) : KeepsForm s (clear t) := ht.frame rfl
  have hs2 : KeepsForm s s2 := foldl_keepsForm hs1 (fun u x hu => sendMbr_keepsForm hu)
  split
  · exact hclear (hs2.frame rfl)
  · split
    · exact hclear (sendMbr_keepsForm hs1)
    · exact hclear hs1

theorem changeHosts_keepsForm (h : KeepsForm s t) : KeepsForm s (changeHosts t) :=
  h.frame rfl

theorem closeEpoch_keepsForm {at_ : Nat} (h : KeepsForm s t) : KeepsForm s (closeEpoch t at_) := by
  unfold closeEpoch
  extract_lets e _ s1 s2 s3
  have hs1 : KeepsForm s s1 := h.frame rfl
  have hs2 : KeepsForm s s2 := countNode_keepsForm hs1
  have hs3 : KeepsForm s s3 := by
    unfold s3
    split
    · exact countNode_keepsForm hs2
    · exact hs2
  exact beginClose_keepsForm (settleStop_keepsForm (restartJob_keepsForm (weigh_keepsForm (changeHosts_keepsForm
      (shiftRole_keepsForm (expireQueries_keepsForm hs3))))))

theorem startEpochs_keepsForm {at_ : Nat} (h : KeepsForm s t) : KeepsForm s (startEpochs t at_) := by
  have hEpo (b : Bool) (e : EpoSt) : KeepsForm s { t with pkg.sec.epochs := b, epo := e } := h.frame rfl
  exact hEpo _ _

theorem execBarrierRelease_keepsForm {b : Fin 4} (h : KeepsForm s t) : ResKeeps s (execBarrierRelease b t) := by
  unfold execBarrierRelease
  extract_lets x _ s1 s2 _
  have hs1 : KeepsForm s s1 := h.frame rfl
  have hs2 : KeepsForm s s2 := by
    unfold s2
    split
    · exact countNode_keepsForm hs1
    · exact hs1
  split
  · exact h
  · split
    · exact h
    · extract_lets at_
      split
      · exact publish_keepsForm (hs2.frame rfl)
      · exact dropRemoteLines_keepsForm (hs2.frame rfl)
      · exact closeEpoch_keepsForm hs2
      · exact startEpochs_keepsForm hs2

end Sys2Proof.Machine
end

section
/-!
Each function of `Machine.Fencing` keeps the form: one lemma per function, in the file's order.
-/
namespace Sys2Proof.Machine
variable {s t : State}

theorem execUnitFault_keepsForm {c : Fin 128} {_u : Fin 4} {cause : Fin 256} (h : KeepsForm s t) :
    ResKeeps s (execUnitFault c _u cause t) := by
  unfold execUnitFault
  split
  · exact fenceFor_keepsForm h
  · split
    · split
      next heq => exact fenceFor_keepsForm (.of_snd heq (injFlag_keepsForm h))
    · split
      · exact h
      · exact fencePhys_keepsForm h

theorem execUnitWatchdogExpire_keepsForm {c : Fin 128} {u : Fin 4} (h : KeepsForm s t) :
    ResKeeps s (execUnitWatchdogExpire c u t) := by
  unfold execUnitWatchdogExpire
  split
  · extract_lets loc
    split
    next heq => exact fenceFor_keepsForm (.of_snd heq (injFlag_keepsForm h))
  · exact h

theorem writeFence_keepsForm {fn region phys : Nat} {go : Bool} (h : KeepsForm s t) :
    KeepsForm s (writeFence t fn region phys go) := by
  unfold writeFence
  split
  · exact h
  · extract_lets _ s1
    have hs1 : KeepsForm s s1 := h.frame rfl
    split
    · exact fencePhys_keepsForm hs1
    · exact hs1

theorem execRgnFenceGo_keepsForm {fn : Fin 64} {region : Fin 8} {phys : Fin 32} (h : KeepsForm s t) :
    ResKeeps s (execRgnFenceGo fn region phys t) :=
  writeFence_keepsForm h

theorem execClearingDone_keepsForm {c : Fin 128} (h : KeepsForm s t) : ResKeeps s (execClearingDone c t) := by
  unfold execClearingDone
  extract_lets x _
  split
  · exact setCl_keepsForm h (fun _ => rfl)
  · exact h

theorem execSpareLoadDone_keepsForm {c : Fin 128} {ok : Bool} (h : KeepsForm s t) : ResKeeps s (execSpareLoadDone c ok t) := by
  unfold execSpareLoadDone
  extract_lets x ready r _ s1
  have hs1 : KeepsForm s s1 := h.frame rfl
  split
  · exact h
  · split
    · exact roleLoaded_keepsForm h
    · exact loseNumber_keepsForm hs1

end Sys2Proof.Machine
end

section
/-!
Each function of `Machine.Power` keeps the form: one lemma per function, in the file's order.
-/
namespace Sys2Proof.Machine
variable {s t : State}

theorem coolState_keepsForm (h : KeepsForm s t) : KeepsForm s (coolState t) :=
  h.update (fun ⟨_, _, hFlash, _⟩ => ⟨rfl, rfl, hFlash, nofun⟩) fun _ => ⟨rfl, rfl, rfl, rfl, nofun⟩

theorem powerOff_keepsForm (h : KeepsForm s t) : KeepsForm s (powerOff t) :=
  coolState_keepsForm h

theorem enterReset_keepsForm {cause : Nat} (h : KeepsForm s t) : KeepsForm s (enterReset t cause) := by
  unfold enterReset
  split
  · exact h
  · exact h.update (fun ⟨_, _, hFlash, _⟩ => ⟨rfl, rfl, hFlash, nofun⟩) fun ⟨_, _, hClusters, _, hScratch⟩ =>
      ⟨rfl, rfl, tabWf_map (fun _ => rfl) hClusters, rfl, forall_mem_map hScratch fun _ _ => rfl⟩

theorem release_keepsForm (h : KeepsForm s t) : KeepsForm s (release t) := by
  unfold release
  extract_lets p _ _
  split
  · exact h.frame rfl
  · exact h

theorem execPgAonRise_keepsForm (h : KeepsForm s t) : ResKeeps s (execPgAonRise t) := by
  unfold execPgAonRise
  split
  · exact h
  · exact release_keepsForm (h.frame rfl)

theorem execPgAonFall_keepsForm (h : KeepsForm s t) : ResKeeps s (execPgAonFall t) :=
  powerOff_keepsForm (h.frame rfl)

theorem execPgMainFall_keepsForm (h : KeepsForm s t) : ResKeeps s (execPgMainFall t) := by
  unfold execPgMainFall
  split
  · exact h
  · extract_lets s1 _ _
    have hs1 : KeepsForm s s1 := enterReset_keepsForm h
    exact hs1.frame rfl

theorem execPgMainRise_keepsForm (h : KeepsForm s t) : ResKeeps s (execPgMainRise t) :=
  release_keepsForm (h.frame rfl)

theorem execWrstAssert_keepsForm (h : KeepsForm s t) : ResKeeps s (execWrstAssert t) := by
  unfold execWrstAssert
  extract_lets s1 _ _
  have hs1 : KeepsForm s s1 := enterReset_keepsForm h
  exact hs1.frame rfl

theorem execWrstRelease_keepsForm (h : KeepsForm s t) : ResKeeps s (execWrstRelease t) :=
  release_keepsForm (h.frame rfl)

theorem execUndervoltage_keepsForm (h : KeepsForm s t) : ResKeeps s (execUndervoltage t) := by
  unfold execUndervoltage
  split
  · exact h
  · extract_lets s1 _ _
    have hs1 : KeepsForm s s1 := enterReset_keepsForm h
    exact hs1.frame rfl

theorem execCoreClockLoss_keepsForm (h : KeepsForm s t) : ResKeeps s (execCoreClockLoss t) := by
  unfold execCoreClockLoss
  extract_lets s1 _ _
  have hs1 : KeepsForm s s1 := enterReset_keepsForm h
  exact hs1.frame rfl

theorem execCoreClockReturn_keepsForm (h : KeepsForm s t) : ResKeeps s (execCoreClockReturn t) :=
  release_keepsForm (h.frame rfl)

theorem execPerst_keepsForm {port : Fin 2} (h : KeepsForm s t) : ResKeeps s (execPerst port t) := by
  unfold execPerst
  extract_lets s1 s2 _ _ _
  have hs1 : KeepsForm s s1 := linkDown_keepsForm h
  have hs2 : KeepsForm s s2 := foldl_keepsForm hs1 (fun u x hu => setFn_keepsForm (flrFn_keepsForm hu))
  split <;> exact hs2.frame rfl

theorem execPerstRelease_keepsForm {port : Fin 2} (h : KeepsForm s t) : ResKeeps s (execPerstRelease port t) := by
  unfold execPerstRelease
  split <;> exact h.frame rfl

theorem portsDown_keepsForm {ks : List Nat} {reason : Nat} (h : KeepsForm s t) : KeepsForm s (portsDown t ks reason) := by
  unfold portsDown
  extract_lets up lost mark s1
  have hmark {t} (ht : KeepsForm s t) {k} : KeepsForm s (mark t k) := by
    unfold mark
    extract_lets x
    split
    · exact countNode_keepsForm (setPort_keepsForm ht)
    · exact setPort_keepsForm ht
  have hs1 : KeepsForm s s1 := foldl_keepsForm h (fun u x hu => hmark hu)
  split
  · exact hs1
  · exact sendLstate_keepsForm (foldl_keepsForm hs1 (fun u x hu => rerouteOne_keepsForm hu))

theorem execFabricClockLoss_keepsForm {die : Fin 2} (h : KeepsForm s t) : ResKeeps s (execFabricClockLoss die t) :=
  portsDown_keepsForm h

theorem execD2dLinkFail_keepsForm (h : KeepsForm s t) : ResKeeps s (execD2dLinkFail t) := by
  unfold execD2dLinkFail
  split
  · exact h
  · extract_lets on _ _
    clear_value on
    exact nodeFault_keepsForm (h.frame rfl)

theorem setClock_keepsForm {step cause : Nat} (h : KeepsForm s t) : KeepsForm s (setClock t step cause) := by
  unfold setClock
  extract_lets k _
  split
  · exact h
  · split
    · exact h.frame rfl
    · split <;> exact h.frame rfl

theorem execPowerWindowTick_keepsForm {avg : Nat} (h : KeepsForm s t) : ResKeeps s (execPowerWindowTick avg t) := by
  unfold execPowerWindowTick
  extract_lets p k limit low _ s1 _ _ s2
  have hs1 : KeepsForm s s1 := h.frame rfl
  have hs2 : KeepsForm s s2 := hs1.frame rfl
  split
  · exact h
  · split
    · exact hs1
    · split
      · split
        · exact hs1.frame rfl
        · exact setClock_keepsForm hs1
      · split
        · split
          · exact setClock_keepsForm hs2
          · exact hs2
        · exact hs1

theorem execAvsTelemetry_keepsForm {reg : Fin 2} {answered : Bool} {volts amps : Nat} (h : KeepsForm s t) :
    ResKeeps s (execAvsTelemetry reg answered volts amps t) := by
  unfold execAvsTelemetry
  extract_lets p _ _
  split
  · exact h
  · split
    · exact h.frame rfl
    · split
      · exact h.frame rfl
      · exact h

theorem execAvsVoltageReached_keepsForm (h : KeepsForm s t) : ResKeeps s (execAvsVoltageReached t) := by
  unfold execAvsVoltageReached
  extract_lets k _
  split
  · exact h
  · exact h.frame rfl

theorem thermWarn_keepsForm {i : Nat} {inj : Bool} (h : KeepsForm s t) : KeepsForm s (thermWarn t i inj) :=
  detect_keepsForm h

theorem thermCrit_keepsForm {i : Nat} {inj : Bool} (h : KeepsForm s t) : KeepsForm s (thermCrit t i inj) :=
  (nodeDetect_keepsForm h).frame rfl

theorem readSensor_keepsForm {i : Nat} {k : ℤ} (h : KeepsForm s t) : KeepsForm s (readSensor t i k) := by
  unfold readSensor
  extract_lets x _ _ _
  split
  · exact h
  · split
    · exact thermWarn_keepsForm (h.frame rfl)
    · split
      · extract_lets st s1
        have hs1 : KeepsForm s s1 := h.frame rfl
        split
        next s11 heq =>
          have hs11 : KeepsForm s s11 := .of_snd heq (injFlag_keepsForm hs1)
          split
          next s12 heq1 =>
            have hs12 : KeepsForm s s12 := .of_snd heq1 (injFlag_keepsForm hs11)
            extract_lets s4
            have hs4 : KeepsForm s s4 := by
              unfold s4
              split
              · exact thermWarn_keepsForm hs12
              · exact hs12
            split
            · exact thermCrit_keepsForm hs4
            · exact hs4

theorem execThermalSample_keepsForm {temps : List ℤ} (h : KeepsForm s t) : ResKeeps s (execThermalSample temps t) := by
  unfold execThermalSample
  split
  · exact h
  · exact foldl_keepsForm h (fun u x hu => readSensor_keepsForm hu)

theorem execThermalStep_keepsForm (h : KeepsForm s t) : ResKeeps s (execThermalStep t) := by
  unfold execThermalStep
  extract_lets k _ _ s1
  have hs1 : KeepsForm s s1 := h.frame rfl
  split
  · exact h
  · split
    · exact setClock_keepsForm hs1
    · exact hs1

theorem execBoardSensorPoll_keepsForm {temps : List (Option ℤ)} (h : KeepsForm s t) :
    ResKeeps s (execBoardSensorPoll temps t) := by
  unfold execBoardSensorPoll
  split
  · exact h
  · extract_lets put _ _
    exact h.frame rfl

end Sys2Proof.Machine
end

section
/-!
Each function of `Machine.Image` keeps the form: one lemma per function, in the file's order.
-/
namespace Sys2Proof.Machine
variable {s t : State}

theorem applyReg_keepsForm {e : Nat × Nat × W64} (h : KeepsForm s t) : KeepsForm s (applyReg t e) := by
  unfold applyReg
  extract_lets v _ _ _ _ _ _ _ _ _ _
  split
  · exact h
  · split
    · exact h.frame rfl
    · exact h.frame rfl
    · exact h.frame rfl
    · exact h.frame rfl
    · exact h.frame rfl
    · exact h.frame rfl
    · exact h.frame rfl
    · exact h.frame rfl
    · exact h.frame rfl
    · exact h.frame rfl
    · exact h.frame rfl
    · exact h.frame rfl
    · exact setPort_keepsForm h
    · exact setPort_keepsForm h
    · exact h.frame rfl
    · exact h.frame rfl
    · exact h.frame rfl
    · exact h.frame rfl
    · exact h.frame rfl
    · exact setAdm_keepsForm h
    · exact setAdm_keepsForm h
    · exact setAdm_keepsForm h
    · exact h.frame rfl
    · exact h.frame rfl
    · exact h.frame rfl
    · exact h.frame rfl
    · exact h.frame rfl
    · exact h.frame rfl
    · exact h.frame rfl
    · exact h

end Sys2Proof.Machine
end

section
/-!
Each function of `Machine.Start` keeps the form: one lemma per function, in the file's order.
-/
namespace Sys2Proof.Machine
variable {s t : State}

theorem takeIdentity_keepsForm {k : List Byte} {id : IdState} (h : KeepsForm s t) : KeepsForm s (takeIdentity t k id) :=
  h.frame rfl

theorem startIdentity_keepsForm {io : StartIn} (h : KeepsForm s t) : KeepsForm s (startIdentity t io) := by
  unfold startIdentity
  split
  · exact h.frame rfl
  · split
    next s1 heq =>
      have hs1 : KeepsForm s s1 := .of_snd heq (injFlag_keepsForm h)
      split
      · exact (detect_keepsForm hs1).frame rfl
      · extract_lets _ _ s2
        have hs2 : KeepsForm s s2 := hs1.frame rfl
        split
        · exact hs2
        · exact takeIdentity_keepsForm hs2

theorem applyParts_keepsForm {es : List (List Byte)} (h : KeepsForm s t) : KeepsForm s (applyParts t es) :=
  h.frame rfl

theorem applyNode_keepsForm {b : List Byte} (h : KeepsForm s t) : KeepsForm s (applyNode t b) :=
  h.frame rfl

theorem applyFrames_keepsForm {b : List Byte} (h : KeepsForm s t) : KeepsForm s (applyFrames t b) := by
  unfold applyFrames
  refine foldl_keepsForm h (fun u x hu => ?_)
  split
  · exact hu.frame rfl

theorem applyImage_keepsForm {slot : Nat} {x : NorSlot} (h : KeepsForm s t) : KeepsForm s (applyImage t slot x) := by
  unfold applyImage
  extract_lets b _ _ s1
  have hs1 : KeepsForm s s1 := h.frame rfl
  exact foldl_keepsForm (applyFrames_keepsForm (applyNode_keepsForm (applyParts_keepsForm hs1))) (fun u x1 hu =>
      applyReg_keepsForm hu)

theorem startCores_keepsForm {fail : List Nat} (h : KeepsForm s t) : KeepsForm s (startCores t fail) :=
  (h.frame rfl).frame rfl

theorem armStarts_keepsForm (h : KeepsForm s t) : KeepsForm s (armStarts t) :=
  h.frame rfl

theorem startRows_keepsForm {io : StartIn} (h : KeepsForm s t) : KeepsForm s (startRows t io) := by
  unfold startRows
  extract_lets _ _ _ s1 _ _
  have hs1 : KeepsForm s s1 := armStarts_keepsForm (startCores_keepsForm (h.frame rfl))
  split
  · exact hs1
  · split
    · exact hs1.frame rfl
    · exact startIdentity_keepsForm (applyImage_keepsForm hs1)

theorem selfTest_keepsForm {fails : List Nat} (h : KeepsForm s t) : KeepsForm s (selfTest t fails) := by
  unfold selfTest
  extract_lets on place s1
  have hPlace {u : State} {r : Nat} (hu : KeepsForm s u) : KeepsForm s (place u r) := by
    unfold place
    extract_lets fail
    split
    next ps ls _ =>
    extract_lets cls
    have hCls (hc : tabWf u.work.clusters = true ∧ ScratchWf u.work.clusters) : tabWf cls = true ∧ ScratchWf cls :=
      List.foldlRecOn ls _ (motive := fun c : Tab Cluster => tabWf c = true ∧ ScratchWf c) hc fun c ⟨hc, hs⟩ x _ =>
        ⟨tabWf_tput _ _ hc, forall_mem_tput hs (forall_tgetD (P := fun x : Cluster => tabWf x.scratch = true) hs rfl x.1)⟩
    clear_value cls
    exact hu.update id fun ⟨hInvs, hQueries, hClusters, hColls, hScratch⟩ =>
      ⟨hInvs, hQueries, (hCls ⟨hClusters, hScratch⟩).1, hColls, (hCls ⟨hClusters, hScratch⟩).2⟩
  have hs1 : KeepsForm s s1 := foldl_keepsForm h fun u r hu => hPlace hu
  exact hs1.frame rfl

theorem unitTest_keepsForm {fails : List (Nat × Nat)} (h : KeepsForm s t) : KeepsForm s (unitTest t fails) :=
  h.frame rfl

theorem startFlash_keepsForm {ms : List ModuleId} (h : KeepsForm s t) : KeepsForm s (startFlash t ms) := by
  unfold startFlash
  extract_lets one s1 raw _
  have hone {t} (ht : KeepsForm s t) {x} : KeepsForm s (one t x) := by
    unfold one
    extract_lets sl
    split
    · exact discover_keepsForm (setSlot13_keepsForm ht)
    · exact ht
  have hs1 : KeepsForm s s1 := foldl_keepsForm h (fun u x hu => hone hu)
  exact hs1.frame rfl

theorem startTiles_keepsForm (h : KeepsForm s t) : KeepsForm s (startTiles t) :=
  h.frame rfl

theorem startSealed_keepsForm (h : KeepsForm s t) : KeepsForm s (startSealed t) := by
  unfold startSealed
  extract_lets region tiles
  refine foldl_keepsForm h (fun u x hu => ?_)
  split
  · exact hu
  · exact setHome_keepsForm (takeFrame_keepsForm hu)

theorem recoverLog_keepsForm (h : KeepsForm s t) : KeepsForm s (recoverLog t) := by
  unfold recoverLog
  extract_lets rs _ s1 last _ _
  have hs1 : KeepsForm s s1 := replayAll_keepsForm (h.frame rfl)
  exact hs1.frame rfl

theorem startDomains_keepsForm {io : StartIn} (h : KeepsForm s t) : KeepsForm s (startDomains t io) := by
  unfold startDomains
  extract_lets _ _ _ _ s1 s2 _ s3 s4 _ _ s5
  have hs1 : KeepsForm s s1 := h.frame rfl
  have hs2 : KeepsForm s s2 := foldl_keepsForm (unitTest_keepsForm (selfTest_keepsForm hs1)) (fun u x hu =>
      train_keepsForm hu)
  clear_value s2
  have hs3 : KeepsForm s s3 := startFlash_keepsForm (hs2.frame rfl)
  clear_value s3
  have hs4 : KeepsForm s s4 := recoverLog_keepsForm (startSealed_keepsForm (startTiles_keepsForm hs3))
  clear_value s4
  have hs5 : KeepsForm s s5 := hs4.frame rfl
  clear_value s5
  split
  · exact hs1
  · split
    · exact hs5
    · exact sendHello_keepsForm hs5

theorem execStartSequence_keepsForm {io : StartIn} (h : KeepsForm s t) : ResKeeps s (execStartSequence io t) := by
  unfold execStartSequence
  extract_lets p s1
  have hs1 : KeepsForm s s1 := startRows_keepsForm h
  split
  · exact h
  · split
    · split
      · exact startDomains_keepsForm hs1
      · exact hs1
    · split
      · exact startDomains_keepsForm h
      · exact h

theorem mbxDone_keepsForm {via : Option (Fin 64)} {op len result : Nat} (h : KeepsForm s t) :
    KeepsForm s (mbxDone t via op len result) :=
  h.frame rfl

theorem execWriteStarter_keepsForm {via : Option (Fin 64)} {data : HostRead} (h : KeepsForm s t) :
    ResKeeps s (execWriteStarter via data t) := by
  unfold execWriteStarter
  split
  · exact h
  · split
    · exact mbxDone_keepsForm h
    · extract_lets r n x keep _ s1
      have hs1 : KeepsForm s s1 := h.frame rfl
      split
      · exact mbxDone_keepsForm h
      · exact mbxDone_keepsForm hs1

theorem zeroise_keepsForm (h : KeepsForm s t) : KeepsForm s (zeroise t) :=
  (endAllWork_keepsForm h).frame rfl

theorem execUnlock_keepsForm {via : Option (Fin 64)} {data : HostRead} (h : KeepsForm s t) :
    ResKeeps s (execUnlock via data t) := by
  unfold execUnlock
  split
  · exact h
  · split
    · exact mbxDone_keepsForm h
    · extract_lets r
      refine mbxDone_keepsForm ?_
      split
      · exact zeroise_keepsForm h
      · exact h

theorem execEnroll_keepsForm {via : Option (Fin 64)} (h : KeepsForm s t) : ResKeeps s (execEnroll via t) := by
  unfold execEnroll
  split
  · exact h
  · split
    · extract_lets k helper s1 _ _
      have hs1 : KeepsForm s s1 := takeIdentity_keepsForm (h.frame rfl)
      exact mbxDone_keepsForm (hs1.frame rfl)
    · exact mbxDone_keepsForm h

theorem execOrderlyStop_keepsForm {via : Option (Fin 64)} (h : KeepsForm s t) : ResKeeps s (execOrderlyStop via t) := by
  unfold execOrderlyStop
  split
  · exact settleStop_keepsForm (beginStop_keepsForm h)
  · exact h

end Sys2Proof.Machine
end

section
/-!
Each function of `Machine.Spdm` keeps the form: one lemma per function, in the file's order.
-/
namespace Sys2Proof.Machine
variable {s t : State}

theorem setConn_keepsForm {p : SpdmPath} {c : SpdmConn} (h : KeepsForm s t) : KeepsForm s (t.setConn p c) :=
  h.frame rfl

theorem spAnswer_keepsForm {p : SpdmPath} {code phase : Nat} {req : List Byte}
    {f : State → SpdmConn → Option (List Byte) × SpdmConn × State × Nat} (h : KeepsForm s t)
    (hf : ∀ u c, KeepsForm s u → KeepsForm s (f u c).2.2.1) : ResKeeps s (spAnswer t p code phase req f) := by
  unfold spAnswer
  split
  · exact h
  · extract_lets c err
    have herr {u : State} {e : Nat} (hu : KeepsForm s u) : ResKeeps s (err u e) := emit_keepsForm hu
    split
    · exact herr h
    · split
      · exact herr h
      · split
        · exact herr h
        · have hRun := hf t c h
          split
          next heq =>
            rw [heq] at hRun
            exact herr hRun
          next heq =>
            rw [heq] at hRun
            exact emit_keepsForm (setConn_keepsForm hRun)

theorem spRandom_keepsForm {n : Nat} (h : KeepsForm s t) : KeepsForm s (spRandom t n).2 :=
  h.frame rfl

theorem execSpdmGetVersion_keepsForm {path : SpdmPath} {req : List Byte} (h : KeepsForm s t) :
    ResKeeps s (execSpdmGetVersion path req t) :=
  spAnswer_keepsForm h (fun _ _ hu => hu)

theorem execSpdmGetCapabilities_keepsForm {path : SpdmPath} {req : List Byte} (h : KeepsForm s t) :
    ResKeeps s (execSpdmGetCapabilities path req t) := by
  unfold execSpdmGetCapabilities
  refine spAnswer_keepsForm h (fun u c hu => ?_)
  split
  next heq => exact .of_snd heq (spRandom_keepsForm hu)

theorem execSpdmNegotiateAlgorithms_keepsForm {path : SpdmPath} {req : List Byte} (h : KeepsForm s t) :
    ResKeeps s (execSpdmNegotiateAlgorithms path req t) :=
  spAnswer_keepsForm h (fun _ _ hu => hu)

theorem execSpdmGetDigests_keepsForm {path : SpdmPath} {req : List Byte} (h : KeepsForm s t) :
    ResKeeps s (execSpdmGetDigests path req t) :=
  spAnswer_keepsForm h (fun _ _ hu => hu)

theorem execSpdmGetCertificate_keepsForm {path : SpdmPath} {req : List Byte} (h : KeepsForm s t) :
    ResKeeps s (execSpdmGetCertificate path req t) := by
  unfold execSpdmGetCertificate
  refine spAnswer_keepsForm h (fun u c hu => ?_)
  extract_lets chain off part
  split <;> exact hu

theorem execSpdmChallenge_keepsForm {path : SpdmPath} {req : List Byte} (h : KeepsForm s t) :
    ResKeeps s (execSpdmChallenge path req t) := by
  unfold execSpdmChallenge
  refine spAnswer_keepsForm h (fun u c hu => ?_)
  split
  · exact hu
  · split
    next heq => exact .of_snd heq (spRandom_keepsForm hu)

theorem execSpdmGetMeasurements_keepsForm {path : SpdmPath} {req : List Byte} (h : KeepsForm s t) :
    ResKeeps s (execSpdmGetMeasurements path req t) := by
  unfold execSpdmGetMeasurements
  refine spAnswer_keepsForm h (fun u c hu => ?_)
  extract_lets signed
  split
  · exact hu
  · split
    · exact hu
    · split
      next heq => exact .of_snd heq (spRandom_keepsForm hu)

theorem execSpdmKeyExchange_keepsForm {path : SpdmPath} {req : List Byte} (h : KeepsForm s t) :
    ResKeeps s (execSpdmKeyExchange path req t) := by
  unfold execSpdmKeyExchange
  refine spAnswer_keepsForm h (fun u c hu => ?_)
  split
  · exact hu
  · split
    next heq => exact .of_snd heq (spRandom_keepsForm hu)

theorem spSession_keepsForm {p : SpdmPath} {req : List Byte}
    {f : State → SpdmConn → SpdmSess → List Byte → List Byte × SpdmConn} (h : KeepsForm s t) :
    ResKeeps s (spSession t p req f) := by
  unfold spSession
  split
  · exact h
  · extract_lets c
    split
    · exact emit_keepsForm h
    · split
      · exact emit_keepsForm (setConn_keepsForm h)

theorem execSpdmFinish_keepsForm {path : SpdmPath} {req : List Byte} (h : KeepsForm s t) :
    ResKeeps s (execSpdmFinish path req t) :=
  spSession_keepsForm h

theorem execSpdmKeyUpdate_keepsForm {path : SpdmPath} {req : List Byte} (h : KeepsForm s t) :
    ResKeeps s (execSpdmKeyUpdate path req t) :=
  spSession_keepsForm h

theorem execSpdmHeartbeat_keepsForm {path : SpdmPath} {req : List Byte} (h : KeepsForm s t) :
    ResKeeps s (execSpdmHeartbeat path req t) :=
  spSession_keepsForm h

theorem execSpdmEndSession_keepsForm {path : SpdmPath} {req : List Byte} (h : KeepsForm s t) :
    ResKeeps s (execSpdmEndSession path req t) :=
  spSession_keepsForm h

theorem execIdeKm_keepsForm {path : SpdmPath} {req : List Byte} (h : KeepsForm s t) : ResKeeps s (execIdeKm path req t) :=
  spSession_keepsForm h

end Sys2Proof.Machine
end

section
/-!
Each function of `Machine.Time` keeps the form: one lemma per function, in the file's order.
-/
namespace Sys2Proof.Machine
variable {s t : State}

theorem correct_keepsForm {e : ℤ} (h : KeepsForm s t) : KeepsForm s (correct t e) :=
  h.frame rfl

theorem execPpsEdge_keepsForm (h : KeepsForm s t) : ResKeeps s (execPpsEdge t) := by
  unfold execPpsEdge
  extract_lets x glitch s0 y _ free
  have hs0 : KeepsForm s s0 := countNode_keepsForm h
  split
  · exact h
  · split
    · exact countNode_keepsForm h
    · split
      · exact hs0.frame rfl
      · extract_lets e tooFar apply z s1 s2 at_ _ _
        have hs1 : KeepsForm s s1 := hs0.frame rfl
        have hs2 : KeepsForm s s2 := by
          unfold s2
          split
          · exact countNode_keepsForm hs1
          · split
            · exact correct_keepsForm hs1
            · exact hs1
        exact hs2.frame rfl

theorem execPpsMiss_keepsForm (h : KeepsForm s t) : ResKeeps s (execPpsMiss t) := by
  unfold execPpsMiss
  extract_lets x _
  split
  · exact h
  · split
    · exact h
    · exact countNode_keepsForm (h.frame rfl)

theorem nextSecWrite_keepsForm {fn sec : Nat} (h : KeepsForm s t) : KeepsForm s (nextSecWrite t fn sec) := by
  unfold nextSecWrite
  split
  · exact h.frame rfl
  · exact h

theorem execTimNextSecWrite_keepsForm {fn : Fin 64} {value : W64} (h : KeepsForm s t) :
    ResKeeps s (execTimNextSecWrite fn value t) :=
  nextSecWrite_keepsForm h

theorem resyncWrite_keepsForm {fn : Nat} (h : KeepsForm s t) : KeepsForm s (resyncWrite t fn) := by
  unfold resyncWrite
  split
  · exact h.frame rfl
  · exact h

theorem execTimResync_keepsForm {fn : Fin 64} (h : KeepsForm s t) : ResKeeps s (execTimResync fn t) :=
  resyncWrite_keepsForm h

theorem execCalibrationTick_keepsForm {offset : ℤ} (h : KeepsForm s t) : ResKeeps s (execCalibrationTick offset t) := by
  unfold execCalibrationTick
  extract_lets s1 ref o x n y _ s11
  have hs1 : KeepsForm s s1 := recal_keepsForm h
  have hs11 : KeepsForm s s11 := hs1.frame rfl
  split
  · exact hs1
  · refine tryStartArm_keepsForm ?_
    split
    · exact hs11
    · exact countNode_keepsForm (correct_keepsForm hs11)

end Sys2Proof.Machine
end

section
/-!
Each function of `Machine.RegWrite` keeps the form: one lemma per function, in the file's order.
-/
namespace Sys2Proof.Machine
variable {s t : State}

theorem wrCls_keepsForm {p off : Nat} {v m : W64} (h : KeepsForm s t) : KeepsForm s (wrCls t p off v m) := by
  unfold wrCls
  extract_lets ok ovf
  split
  · exact setCl_keepsForm h h.scratch
  · exact setCl_keepsForm h h.scratch
  · exact setCl_keepsForm h h.scratch
  · exact setCl_keepsForm h h.scratch
  · exact setCl_keepsForm h h.scratch
  · exact setCl_keepsForm h h.scratch
  · exact h

theorem wrRgn_keepsForm {f off : Nat} {v m : W64} (h : KeepsForm s t) : KeepsForm s (wrRgn t f off v m) := by
  unfold wrRgn
  split
  · split
    · exact writeFence_keepsForm h
    · exact h
  · extract_lets w _
    split
    · exact h.frame rfl
    · exact h
  · exact h

theorem wrTier_keepsForm {f p off : Nat} {v m : W64} (h : KeepsForm s t) : KeepsForm s (wrTier t f p off v m) := by
  unfold wrTier
  split
  · split
    · exact setFn_keepsForm h
    · exact h
  · split
    · exact h.frame rfl
    · exact h

theorem wrEpo_keepsForm {f p off : Nat} {v m : W64} (h : KeepsForm s t) : KeepsForm s (wrEpo t f p off v m) := by
  unfold wrEpo
  split
  · exact startCheckpoint_keepsForm h
  · split
    · exact h.frame rfl
    · exact h

theorem wrFab_keepsForm {f off : Nat} {v m : W64} (h : KeepsForm s t) : KeepsForm s (wrFab t f off v m) := by
  unfold wrFab
  split
  · split
    · exact h
    · extract_lets s1
      have hs1 : KeepsForm s s1 := by
        unfold s1
        split
        · exact h
        · exact portDisable_keepsForm h
      split
      · exact portRetrain_keepsForm hs1
      · exact hs1
  · exact h

theorem wrFls_keepsForm {f p off : Nat} {v m : W64} (h : KeepsForm s t) : KeepsForm s (wrFls t f p off v m) := by
  unfold wrFls
  split
  · split
    · extract_lets _ s1
      have hs1 : KeepsForm s s1 := setFn_keepsForm h
      split
      · exact dieRetire_keepsForm hs1
      · exact hs1
    · exact h
  · split
    · exact h.frame rfl
    · split
      · split
        · exact moduleEvac_keepsForm h
        · exact h
      · exact h

theorem wrBase_keepsForm {f q : Nat} {g : Queue → Queue} (h : KeepsForm s t) : KeepsForm s (wrBase t f q g) := by
  unfold wrBase
  split
  · exact h
  · exact setQ_keepsForm h

theorem wrHif_keepsForm {f off : Nat} {v m : W64} (h : KeepsForm s t) : KeepsForm s (wrHif t f off v m) := by
  unfold wrHif
  extract_lets n addr _ s1
  have hs1 : KeepsForm s s1 := setFn_keepsForm h
  split
  · split
    · split
      · exact changePlaces_keepsForm hs1
      · exact hs1
    · exact h
  · split
    · exact writeQcfg_keepsForm h
    · exact wrBase_keepsForm h
    · exact wrBase_keepsForm h
    · exact wrBase_keepsForm h
    · exact setQ_keepsForm h
    · exact h

theorem wrAdm_keepsForm {f off : Nat} {v m : W64} (h : KeepsForm s t) : KeepsForm s (wrAdm t f off v m) := by
  unfold wrAdm
  split
  · exact writeBkt_keepsForm h
  · split
    · exact setAdm_keepsForm h
    · exact h
  · exact h

theorem wrRebuild_keepsForm {f : Nat} {v m : W64} (h : KeepsForm s t) : KeepsForm s (wrRebuild t f v m) := by
  unfold wrRebuild
  extract_lets _ s1
  have hs1 : KeepsForm s s1 := by
    unfold s1
    split
    · exact h.frame rfl
    · exact h
  split
  · exact rebuildGo_keepsForm hs1
  · split
    · exact rebuildDiscard_keepsForm hs1
    · exact hs1

theorem wrMbr_keepsForm {f off : Nat} {v m : W64} (h : KeepsForm s t) : KeepsForm s (wrMbr t f off v m) := by
  unfold wrMbr
  split
  · exact h
  · split
    · exact writeJobCtl_keepsForm h
    · split
      · exact wrRebuild_keepsForm h
      · split
        · exact h.frame rfl
        · split
          · exact h.frame rfl
          · exact h

theorem wrSec_keepsForm {fn : Fin 64} {off : Nat} {v m : W64} (h : KeepsForm s t) : KeepsForm s (wrSec t fn off v m) := by
  unfold wrSec
  extract_lets x _ _
  split
  · exact h
  · split
    · exact h.frame rfl
    · split
      · exact h.frame rfl
      · split
        · split
          · exact settleStop_keepsForm (beginStop_keepsForm h)
          · exact h
        · exact h

theorem wrTim_keepsForm {f off : Nat} {v m : W64} (h : KeepsForm s t) : KeepsForm s (wrTim t f off v m) := by
  unfold wrTim
  extract_lets x _ _ s1
  have hs1 : KeepsForm s s1 := h.frame rfl
  split
  · exact h
  · split
    · exact nextSecWrite_keepsForm h
    · split
      · split
        · exact resyncWrite_keepsForm hs1
        · exact hs1
      · split
        · split
          · exact h.frame rfl
          · exact h
        · exact h

theorem wrCtrCls_keepsForm {k : Nat} {hi : Bool} {v m : W64} (h : KeepsForm s t) : KeepsForm s (wrCtrCls t k hi v m) := by
  unfold wrCtrCls
  extract_lets c j x fix
  split
  · split <;> exact h.frame rfl
  · split
    · exact h.frame rfl
    · exact h

theorem wrPmc_keepsForm {p off : Nat} {v m : W64} (h : KeepsForm s t) : KeepsForm s (wrPmc t p off v m) := by
  unfold wrPmc
  extract_lets ok mine key x
  split
  · exact wrCtrCls_keepsForm h
  · exact wrCtrCls_keepsForm h
  · exact h.frame rfl
  · exact h.frame rfl
  · split
    · exact h.frame rfl
    · split
      · exact h.frame rfl
      · split
        · exact h.frame rfl
        · exact h

theorem wrTclk_keepsForm {v m : W64} (h : KeepsForm s t) : KeepsForm s (wrTclk t v m) := by
  unfold wrTclk
  extract_lets k w lo hi down _ s1
  have hs1 : KeepsForm s s1 := h.frame rfl
  split
  · exact h
  · split
    · exact setClock_keepsForm hs1
    · exact hs1

theorem wrPwr_keepsForm {f off : Nat} {v m : W64} (h : KeepsForm s t) : KeepsForm s (wrPwr t f off v m) := by
  unfold wrPwr
  extract_lets p _ _
  split
  · exact h
  · split
    · exact h.frame rfl
    · split
      · exact wrTclk_keepsForm h
      · split
        · exact h.frame rfl
        · exact h

theorem wrInj_keepsForm {f det : Nat} {v m : W64} (h : KeepsForm s t) : KeepsForm s (wrInj t f det v m) := by
  unfold wrInj
  extract_lets x w _
  split
  · exact armInj_keepsForm h
  · exact h.frame rfl

theorem wrErr_keepsForm {f p off : Nat} {v m : W64} (h : KeepsForm s t) : KeepsForm s (wrErr t f p off v m) := by
  unfold wrErr
  extract_lets e old w next
  split
  · split
    · exact wrInj_keepsForm h
    · exact h
  · split
    · exact h.frame rfl
    · split
      · exact h.frame rfl
      · split
        · exact h.frame rfl
        · exact h

theorem writeReg_keepsForm {fn : Fin 64} {blk off : Nat} {v m : W64} (h : KeepsForm s t) :
    KeepsForm s (writeReg t fn blk off v m) := by
  unfold writeReg
  extract_lets f p _ _
  split
  · exact h
  · split
    · exact wrCls_keepsForm h
    · exact wrRgn_keepsForm h
    · split
      · exact h.frame rfl
      · exact h
    · exact wrTier_keepsForm h
    · exact wrEpo_keepsForm h
    · split
      · exact h.frame rfl
      · exact h
    · exact wrFab_keepsForm h
    · split
      · exact h.frame rfl
      · exact h
    · exact wrFls_keepsForm h
    · exact wrHif_keepsForm h
    · exact wrAdm_keepsForm h
    · exact wrMbr_keepsForm h
    · exact wrSec_keepsForm h
    · exact wrTim_keepsForm h
    · exact wrPmc_keepsForm h
    · exact wrPwr_keepsForm h
    · exact wrErr_keepsForm h
    · exact h

theorem execRegisterWrite_keepsForm {fn : Fin 64} {addr size : Nat} {value : W64} (h : KeepsForm s t) :
    ResKeeps s (execRegisterWrite fn addr size value t) := by
  unfold execRegisterWrite
  split
  · exact h
  · extract_lets high m v
    exact writeReg_keepsForm h

end Sys2Proof.Machine
end

section
/-!
Each function of `Machine.Dispatch` keeps the form: one lemma per function, in the file's order.
-/
namespace Sys2Proof.Machine
variable {s t : State}

/-- Every instruction keeps the form: each arm by the lemma on its own definition. -/
theorem exec_keepsForm {i : Instr} (h : KeepsForm s t) : ResKeeps s (exec i t) := by
  cases i with
  | windowWrite => exact execWindowWrite_keepsForm h
  | winPartial => exact execWinPartial_keepsForm h
  | admissionDecision => exact execAdmissionDecision_keepsForm h
  | headDeadlineExpire => exact execHeadDeadlineExpire_keepsForm h
  | tokenRefill => exact execTokenRefill_keepsForm h
  | admBktNext => exact execAdmBktNext_keepsForm h
  | admBktFull => exact execAdmBktFull_keepsForm h
  | admBktEmpty => exact execAdmBktEmpty_keepsForm h
  | nop => exact execNop_keepsForm h
  | planLoad => exact execPlanLoad_keepsForm h
  | planSignatureVerified => exact execPlanSignatureVerified_keepsForm h
  | roleLoadDone => exact execRoleLoadDone_keepsForm h
  | planUnload => exact execPlanUnload_keepsForm h
  | planRelease => exact execPlanRelease_keepsForm h
  | invoke => exact execInvoke_keepsForm h
  | indexOpen => exact execIndexOpen_keepsForm h
  | indexClose => exact execIndexClose_keepsForm h
  | tableOpen => exact execTableOpen_keepsForm h
  | tableClose => exact execTableClose_keepsForm h
  | query => exact execQuery_keepsForm h
  | queryVectorArrive => exact execQueryVectorArrive_keepsForm h
  | queryHoldRelease => exact execQueryHoldRelease_keepsForm h
  | queryHoldTimeout => exact execQueryHoldTimeout_keepsForm h
  | contextFree => exact execContextFree_keepsForm h
  | insert => exact execInsert_keepsForm h
  | delete => exact execDelete_keepsForm h
  | upsert => exact execUpsert_keepsForm h
  | updateVectorArrive => exact execUpdateVectorArrive_keepsForm h
  | flashRead => exact execFlashRead_keepsForm h
  | flashWrite => exact execFlashWrite_keepsForm h
  | flashDiscard => exact execFlashDiscard_keepsForm h
  | tierRead => exact execTierRead_keepsForm h
  | tierWrite => exact execTierWrite_keepsForm h
  | roleSet => exact execRoleSet_keepsForm h
  | cqHeadpPoll => exact execCqHeadpPoll_keepsForm h
  | imodTimerExpire => exact execImodTimerExpire_keepsForm h
  | queueEnable => exact execQueueEnable_keepsForm h
  | queueDisable => exact execQueueDisable_keepsForm h
  | sampleLatch => exact execSampleLatch_keepsForm h
  | takeover => exact execTakeover_keepsForm h
  | failoverTimerExpire => exact execFailoverTimerExpire_keepsForm h
  | flr => exact execFlr_keepsForm h
  | busMasterClear => exact execBusMasterClear_keepsForm h
  | regWindowTick => exact execRegWindowTick_keepsForm h
  | tmma => exact execTmma_keepsForm h
  | tdist => exact execTdist_keepsForm h
  | tzero => exact execTzero_keepsForm h
  | vload => exact execVload_keepsForm h
  | vstore => exact execVstore_keepsForm h
  | vproof => exact execVproof_keepsForm h
  | vconv => exact execVconv_keepsForm h
  | vpconv => exact execVpconv_keepsForm h
  | vrescale => exact execVrescale_keepsForm h
  | vew => exact execVew_keepsForm h
  | vred => exact execVred_keepsForm h
  | vargmax => exact execVargmax_keepsForm h
  | vdist => exact execVdist_keepsForm h
  | vfilt => exact execVfilt_keepsForm h
  | vpool => exact execVpool_keepsForm h
  | vopt => exact execVopt_keepsForm h
  | vatom => exact execVatom_keepsForm h
  | vcoalAccumulate => exact execVcoalAccumulate_keepsForm h
  | vcoalFlush => exact execVcoalFlush_keepsForm h
  | vcoalCollect => exact execVcoalCollect_keepsForm h
  | coalPartialArrive => exact execCoalPartialArrive_keepsForm h
  | vxchg => exact execVxchg_keepsForm h
  | vstream => exact execVstream_keepsForm h
  | modelLayerArrive => exact execModelLayerArrive_keepsForm h
  | modelSlotFree => exact execModelSlotFree_keepsForm h
  | vinval => exact execVinval_keepsForm h
  | vstflag => exact execVstflag_keepsForm h
  | wseed => exact execWseed_keepsForm h
  | wwalk => exact execWwalk_keepsForm h
  | recordArrive => exact execRecordArrive_keepsForm h
  | prefetchArrive => exact execPrefetchArrive_keepsForm h
  | walkEndExpire => exact execWalkEndExpire_keepsForm h
  | rerankVectorArrive => exact execRerankVectorArrive_keepsForm h
  | rerankDeadlineExpire => exact execRerankDeadlineExpire_keepsForm h
  | wpref => exact execWpref_keepsForm h
  | wcopya => exact execWcopya_keepsForm h
  | copyComplete => exact execCopyComplete_keepsForm h
  | wwaita => exact execWwaita_keepsForm h
  | winsert => exact execWinsert_keepsForm h
  | wdelete => exact execWdelete_keepsForm h
  | wrepair => exact execWrepair_keepsForm h
  | wnb => exact execWnb_keepsForm h
  | nbOpStart => exact execNbOpStart_keepsForm h
  | nbOpEnd => exact execNbOpEnd_keepsForm h
  | nbShareWindow => exact execNbShareWindow_keepsForm h
  | shist => exact execShist_keepsForm h
  | sbucket => exact execSbucket_keepsForm h
  | scrumb => exact execScrumb_keepsForm h
  | smerge => exact execSmerge_keepsForm h
  | kneaderFree => exact execKneaderFree_keepsForm h
  | kneaderMergeDone => exact execKneaderMergeDone_keepsForm h
  | semit => exact execSemit_keepsForm h
  | ctrlNop => exact execCtrlNop_keepsForm h
  | jmp => exact execJmp_keepsForm h
  | loop => exact execLoop_keepsForm h
  | fencem => exact execFencem_keepsForm h
  | cbar => exact execCbar_keepsForm h
  | cbarRelease => exact execCbarRelease_keepsForm h
  | twait => exact execTwait_keepsForm h
  | twaitExpire => exact execTwaitExpire_keepsForm h
  | next => exact execNext_keepsForm h
  | invocationArrive => exact execInvocationArrive_keepsForm h
  | halt => exact execHalt_keepsForm h
  | startAtBarrierRelease => exact execStartAtBarrierRelease_keepsForm h
  | startGraceExpire => exact execStartGraceExpire_keepsForm h
  | unitFault c u => exact execUnitFault_keepsForm (c := c) (_u := u) h
  | unitWatchdogExpire => exact execUnitWatchdogExpire_keepsForm h
  | rgnFenceGo => exact execRgnFenceGo_keepsForm h
  | clearingDone => exact execClearingDone_keepsForm h
  | spareLoadDone => exact execSpareLoadDone_keepsForm h
  | hotWindowTick => exact execHotWindowTick_keepsForm h
  | ageTick => exact execAgeTick_keepsForm h
  | moveStart => exact execMoveStart_keepsForm h
  | freeze => exact execFreeze_keepsForm h
  | copy => exact execCopy_keepsForm h
  | drained => exact execDrained_keepsForm h
  | stubExpire => exact execStubExpire_keepsForm h
  | fillArrive => exact execFillArrive_keepsForm h
  | epochBoundary => exact execEpochBoundary_keepsForm h
  | closeDrainDone => exact execCloseDrainDone_keepsForm h
  | arm => exact execArm_keepsForm h
  | barrierRelease => exact execBarrierRelease_keepsForm h
  | publishDone => exact execPublishDone_keepsForm h
  | invalDone => exact execInvalDone_keepsForm h
  | log => exact execLog_keepsForm h
  | logAck => exact execLogAck_keepsForm h
  | logTmoExpire => exact execLogTmoExpire_keepsForm h
  | logVoid => exact execLogVoid_keepsForm h
  | logVoidAck => exact execLogVoidAck_keepsForm h
  | logFlashWrite => exact execLogFlashWrite_keepsForm h
  | checkpoint => exact execCheckpoint_keepsForm h
  | checkpointDone => exact execCheckpointDone_keepsForm h
  | linkFrame => exact execLinkFrame_keepsForm h
  | lossOfSignal => exact execLossOfSignal_keepsForm h
  | portTrained => exact execPortTrained_keepsForm h
  | ident => exact execIdent_keepsForm h
  | trainRetry => exact execTrainRetry_keepsForm h
  | portDisable => exact execPortDisable_keepsForm h
  | portRetrain => exact execPortRetrain_keepsForm h
  | lstate => exact execLstate_keepsForm h
  | lstateTimer => exact execLstateTimer_keepsForm h
  | load => exact execLoad_keepsForm h
  | store => exact execStore_keepsForm h
  | atomic => exact execAtomic_keepsForm h
  | inval => exact execInval_keepsForm h
  | put => exact execPut_keepsForm h
  | get => exact execGet_keepsForm h
  | loadRsp => exact execLoadRsp_keepsForm h
  | storeAck => exact execStoreAck_keepsForm h
  | atomicRsp => exact execAtomicRsp_keepsForm h
  | invalAck => exact execInvalAck_keepsForm h
  | putAck => exact execPutAck_keepsForm h
  | getRsp => exact execGetRsp_keepsForm h
  | qfwd => exact execQfwd_keepsForm h
  | plist => exact execPlist_keepsForm h
  | coll => exact execColl_keepsForm h
  | reject => exact execReject_keepsForm h
  | burstHoldExpire => exact execBurstHoldExpire_keepsForm h
  | genHoldExpire => exact execGenHoldExpire_keepsForm h
  | msgTmoExpire => exact execMsgTmoExpire_keepsForm h
  | invalTmoExpire => exact execInvalTmoExpire_keepsForm h
  | joinWindowExpire => exact execJoinWindowExpire_keepsForm h
  | collectiveCloseExpire => exact execCollectiveCloseExpire_keepsForm h
  | hello => exact execHello_keepsForm h
  | helloTimer => exact execHelloTimer_keepsForm h
  | heartbeat => exact execHeartbeat_keepsForm h
  | heartbeatTimer => exact execHeartbeatTimer_keepsForm h
  | hbAck => exact execHbAck_keepsForm h
  | leaseLapse => exact execLeaseLapse_keepsForm h
  | expelTimer => exact execExpelTimer_keepsForm h
  | electionTimeout => exact execElectionTimeout_keepsForm h
  | voteReq => exact execVoteReq_keepsForm h
  | vote => exact execVote_keepsForm h
  | append => exact execAppend_keepsForm h
  | appendAck => exact execAppendAck_keepsForm h
  | commit => exact execCommit_keepsForm h
  | report => exact execReport_keepsForm h
  | weights => exact execWeights_keepsForm h
  | formationTimeout => exact execFormationTimeout_keepsForm h
  | mbrJobCtlWrite => exact execMbrJobCtlWrite_keepsForm h
  | rebuildGo => exact execRebuildGo_keepsForm h
  | rebuildDiscard => exact execRebuildDiscard_keepsForm h
  | rebuildRecordsArrive => exact execRebuildRecordsArrive_keepsForm h
  | errInjOnce => exact execErrInjOnce_keepsForm h
  | errInjSticky => exact execErrInjSticky_keepsForm h
  | errInjNextStart => exact execErrInjNextStart_keepsForm h
  | errInjCancel => exact execErrInjCancel_keepsForm h
  | scWatchdogExpire => exact execScWatchdogExpire_keepsForm h
  | noCoreHealthyExpire => exact execNoCoreHealthyExpire_keepsForm h
  | rowRepairDone => exact execRowRepairDone_keepsForm h
  | dieOpDone => exact execDieOpDone_keepsForm h
  | codewordReadDone => exact execCodewordReadDone_keepsForm h
  | flashDeadlineExpire => exact execFlashDeadlineExpire_keepsForm h
  | programDone => exact execProgramDone_keepsForm h
  | eraseDone => exact execEraseDone_keepsForm h
  | readyTimeout => exact execReadyTimeout_keepsForm h
  | writeBufferExpire => exact execWriteBufferExpire_keepsForm h
  | mapCkptTimer => exact execMapCkptTimer_keepsForm h
  | zqCalibration => exact execZqCalibration_keepsForm h
  | patrolRead => exact execPatrolRead_keepsForm h
  | moduleInsert => exact execModuleInsert_keepsForm h
  | moduleDebounceExpire => exact execModuleDebounceExpire_keepsForm h
  | modulePowerWaitExpire => exact execModulePowerWaitExpire_keepsForm h
  | moduleRemove => exact execModuleRemove_keepsForm h
  | moduleEvac => exact execModuleEvac_keepsForm h
  | dieRetire => exact execDieRetire_keepsForm h
  | pgAonRise => exact execPgAonRise_keepsForm h
  | pgAonFall => exact execPgAonFall_keepsForm h
  | pgMainFall => exact execPgMainFall_keepsForm h
  | pgMainRise => exact execPgMainRise_keepsForm h
  | wrstAssert => exact execWrstAssert_keepsForm h
  | wrstRelease => exact execWrstRelease_keepsForm h
  | perst => exact execPerst_keepsForm h
  | undervoltage => exact execUndervoltage_keepsForm h
  | coreClockLoss => exact execCoreClockLoss_keepsForm h
  | fabricClockLoss => exact execFabricClockLoss_keepsForm h
  | pcieLinkDown => exact execPcieLinkDown_keepsForm h
  | d2dLinkFail => exact execD2dLinkFail_keepsForm h
  | startSequence => exact execStartSequence_keepsForm h
  | calibrationTick => exact execCalibrationTick_keepsForm h
  | ppsEdge => exact execPpsEdge_keepsForm h
  | ppsMiss => exact execPpsMiss_keepsForm h
  | timNextSecWrite => exact execTimNextSecWrite_keepsForm h
  | timResync => exact execTimResync_keepsForm h
  | writeStarter => exact execWriteStarter_keepsForm h
  | unlock => exact execUnlock_keepsForm h
  | enroll => exact execEnroll_keepsForm h
  | orderlyStop => exact execOrderlyStop_keepsForm h
  | spdmGetVersion => exact execSpdmGetVersion_keepsForm h
  | spdmGetCapabilities => exact execSpdmGetCapabilities_keepsForm h
  | spdmNegotiateAlgorithms => exact execSpdmNegotiateAlgorithms_keepsForm h
  | spdmGetDigests => exact execSpdmGetDigests_keepsForm h
  | spdmGetCertificate => exact execSpdmGetCertificate_keepsForm h
  | spdmChallenge => exact execSpdmChallenge_keepsForm h
  | spdmGetMeasurements => exact execSpdmGetMeasurements_keepsForm h
  | spdmKeyExchange => exact execSpdmKeyExchange_keepsForm h
  | spdmFinish => exact execSpdmFinish_keepsForm h
  | spdmKeyUpdate => exact execSpdmKeyUpdate_keepsForm h
  | spdmHeartbeat => exact execSpdmHeartbeat_keepsForm h
  | spdmEndSession => exact execSpdmEndSession_keepsForm h
  | powerWindowTick => exact execPowerWindowTick_keepsForm h
  | avsTelemetry => exact execAvsTelemetry_keepsForm h
  | avsVoltageReached => exact execAvsVoltageReached_keepsForm h
  | thermalSample => exact execThermalSample_keepsForm h
  | thermalStep => exact execThermalStep_keepsForm h
  | dumpLatch => exact execDumpLatch_keepsForm h
  | registerWrite => exact execRegisterWrite_keepsForm h
  | stateMachineParity => exact execStateMachineParity_keepsForm h
  | serviceCoreSelftestDone => exact execServiceCoreSelftestDone_keepsForm h
  | pcieLinkUp => exact execPcieLinkUp_keepsForm h
  | perstRelease => exact execPerstRelease_keepsForm h
  | coreClockReturn => exact execCoreClockReturn_keepsForm h
  | routeNak => exact execRouteNak_keepsForm h
  | busMasterSet => exact execBusMasterSet_keepsForm h
  | ideKm => exact execIdeKm_keepsForm h
  | boardSensorPoll => exact execBoardSensorPoll_keepsForm h
  | invokeDeadlineExpire => exact execInvokeDeadlineExpire_keepsForm h

end Sys2Proof.Machine
end

section
/-!
Each function of `Machine.Tick` keeps the form: one lemma per function, in the file's order.
-/
namespace Sys2Proof.Machine
variable {s t : State}

theorem countLevels_keepsForm (h : KeepsForm s t) : KeepsForm s (countLevels t) :=
  h.frame rfl

theorem tick_keepsForm (h : KeepsForm s t) : KeepsForm s (tick t) := by
  unfold tick
  split
  · exact h
  · exact settleStop_keepsForm ((countLevels_keepsForm h).frame rfl)

end Sys2Proof.Machine
end

section
/-!
Each function of `Machine.Step` keeps the form: one lemma per function, in the file's order.
-/
namespace Sys2Proof.Machine
variable {s t : State}

theorem step_keepsForm (h : KeepsForm s t) : ResKeeps s (step t) := by
  unfold step
  split
  · exact exec_keepsForm (h.frame rfl)
  · exact tick_keepsForm h

end Sys2Proof.Machine
end

section
/-! The obligation O5. -/
namespace Sys2Proof.Machine

/-- Settles O5: every step is an instruction or a tick, and each keeps the form. -/
theorem everyStepKeepsMemoryForm : Obligations.EveryStepKeepsMemoryForm := by
  unfold Obligations.EveryStepKeepsMemoryForm
  refine ⟨fun s t h hStep => ?_, fun s t h hStep => ?_⟩
  · exact (KeepsForm.of_next hStep (step_keepsForm (.refl s))).1 h
  · exact (KeepsForm.of_next hStep (step_keepsForm (.refl s))).2 h

end Sys2Proof.Machine
end

section
/-!
The tokens that a word takes and signals, and words that are not issued (R23, R80, R84).
-/
namespace Sys2Proof.Machine

/-! Tokens. -/

theorem tgetD_foldl_pred (ps : List Nat) (h : ps.Nodup) (toks : Tab Nat) (k : Nat) :
    tgetD (ps.foldl (fun x t => tput x t (tgetD x t 0 - 1)) toks) k 0 = tgetD toks k 0 - if k ∈ ps then 1 else 0 := by
  induction ps generalizing toks with
  | nil => simp
  | cons p ps ih =>
    obtain ⟨hp, hps⟩ := List.nodup_cons.mp h
    rw [List.foldl_cons, ih hps]
    by_cases hk : k = p
    · subst hk; simp [hp]
    · simp [tgetD_tput_ne _ _ _ _ _ hk, hk]

/-- Each token that a word names falls by one; the others stay (R80). -/
theorem tgetD_takeTokens (toks : Tab Nat) (waitt : Nat) (k : Fin 8) :
    tgetD (takeTokens toks waitt) k.val 0 = tgetD toks k.val 0 - if bitOf waitt k.val then 1 else 0 := by
  have hMem : k.val ∈ bitsSet 8 waitt ↔ bitOf waitt k.val = true := by simp [bitsSet]
  have hNodup : (bitsSet 8 waitt).Nodup := List.nodup_range.filter _
  rw [takeTokens, tgetD_foldl_pred _ hNodup]
  simp only [hMem]

theorem tgetD_signalToken (toks : Tab Nat) (t k : Nat) :
    tgetD (signalToken toks t) k 0 = if t = k then min 15 (tgetD toks k 0 + 1) else tgetD toks k 0 := by
  unfold signalToken
  split
  · next h => rw [h, tgetD_tput_same]
  · next h => exact tgetD_tput_ne _ _ _ _ _ (Ne.symm h)

/-! A word that ends no conversion. -/

theorem retire_of_no_end {s : State} {c u w : Nat} (h : (s.cl c).word u = some w) (hEnd : wLast w = false ∨ 2 ≤ u) :
    retire s c u = s.setCl c ((s.cl c).retired u w) := by
  rcases hEnd with hLast | hu
  · simp only [retire, retireTo, h, hLast, Bool.false_and, Bool.false_eq_true, if_false]
    split <;> next hs => simp [Cluster.retired, Cluster.setUnit, hs, Cluster.unit]
  · exact retire_of_word h hu

theorem execCtrlNop_of_unitAt {s : State} {c : Fin 128} {u : Fin 4} {w : Nat} (h : unitAt s c.val u.val 0xF0 w) :
    exec (.ctrlNop c u) s = .next (retire (taken s c.val w) c.val u.val) := by
  show execCtrlNop c u s = _
  rw [execCtrlNop, issueNow, issue_of_unitAt h]
  rfl

theorem fetchChecks_of_none_armed {s : State} (h : s.err.inj = []) (c u : Nat) : fetchChecks s c u = (false, s) := by
  simp [fetchChecks, h]

theorem issue_of_missing_token {s : State} {c u w op : Nat} {f : Nat → State → Option State}
    (hWord : (s.cl c).word u = some w) (hUnit : wUnit w = u) (hTokens : tokensReady (s.cl c).tokens (wWaitt w) = false)
    (hInj : s.err.inj = []) : issue s c u op f = s := by
  simp only [issue, hWord, fetchChecks_of_none_armed hInj, hUnit, hTokens, ne_eq, not_true_eq_false, if_false,
    Bool.not_false, Bool.or_true, if_true, ite_self]

theorem issue_of_foreign_word {s : State} {c u w op : Nat} {f : Nat → State → Option State}
    (hWord : (s.cl c).word u = some w) (hUnit : wUnit w ≠ u) (hSt : (s.cl c).st = .running)
    (hHalted : ((s.cl c).unit u).halted = false) (hWait : ((s.cl c).unit u).wait = .none) (hInj : s.err.inj = []) :
    issue s c u op f = fenceFor s c 1 (c + 31 * 2 ^ 7) false := by
  simp [issue, hWord, fetchChecks_of_none_armed hInj, hUnit, hSt, hHalted, hWait]

/-- Settles O26: the tokens that a completed word takes and signals, and the two ways in which a word is not issued. -/
theorem wordsTakeAndSignalTokens : Obligations.WordsTakeAndSignalTokens := by
  unfold Obligations.WordsTakeAndSignalTokens
  refine ⟨?completes, ?waits, ?foreign, fun s c u w h => execCtrlNop_of_unitAt h⟩
  case completes =>
    intro s c u w h hEnd
    have hWord : ((taken s c.val w).cl c.val).word u.val = some w := (word_taken ..).trans h.1
    have hRetired : retire (taken s c.val w) c.val u.val = s.setCl c.val (((taken s c.val w).cl c.val).retired u.val w) := by
      rw [retire_of_no_end hWord hEnd, taken, State.setCl_setCl]
    refine ⟨_, execCtrlNop_of_unitAt h, fun k => ?_, ?_⟩
    · rw [hRetired, State.cl_setCl_same, taken_cl]
      simp only [Cluster.retired, ite_and]
      split
      · rw [tgetD_signalToken, tgetD_takeTokens]
      · exact tgetD_takeTokens ..
    · rw [hRetired, State.cl_setCl_same, taken_cl]
      rfl
  case waits =>
    intro s c u w hWord hUnit hTokens hInj
    exact congrArg Host.Outcome.next (issue_of_missing_token hWord hUnit hTokens hInj)
  case foreign =>
    intro s c u w hWord hUnit hSt hHalted hWait hInj
    exact congrArg Host.Outcome.next (issue_of_foreign_word hWord hUnit hSt hHalted hWait hInj)

end Sys2Proof.Machine
end

section
/-!
A write-out that is larger than scratch (R79, R81).
-/
namespace Sys2Proof.Machine

/-- TMMA of INT8 operands with 1,024 rows and columns and 64 products to a sum, written out as INT32: A lies at the start of
scratch, B at byte 32,768. -/
def wideTmma : Nat :=
  0x01 * 2 ^ 120 + 1024 * 2 ^ 72 + 1 * 2 ^ 36 + 1 * 2 ^ 32 + 8 * 2 ^ 28 + 2 * 2 ^ 26 + 15 * 2 ^ 20 + 15 * 2 ^ 16

/-- The tensor unit of cluster 0 stands at `wideTmma`. Scratch holds a single 1, the first element of row 512 of A and of
column 0 of B. -/
def wideState : State :=
  { work.clusters := [(0, { st := .running, istore := [[wideTmma]], scratch := [(32768, 1)] })] }

/-- The sum of row `i` of A and column 0 of B. -/
def wideSum (i : Nat) : Int :=
  ((List.range (tK wideTmma)).map fun (k : Nat) =>
    (tAf wideTmma).elemInt (scrElem (wideState.cl 0) (tAf wideTmma) (gran (wA wideTmma)) (i * tK wideTmma + k)) *
      (tBf wideTmma).elemInt (scrElem (wideState.cl 0) (tBf wideTmma) (gran (wB wideTmma)) (k * tN wideTmma))).foldl
    (fun (m n : Int) => m + n) 0

theorem wideSum_first_row : wideSum 0 = 0 := by decide +kernel

theorem wideSum_row_512 : wideSum 512 = 1 := by decide +kernel

theorem unitAt_wideState : unitAt wideState 0 0 0x01 wideTmma := by decide +kernel

/-- An array of 32-bit elements comes back to its first byte after 524,288 elements, when it has filled scratch. -/
theorem scrElem_int32_wraps (x : Cluster) (a i : Nat) : scrElem x .int32 a (i + 524288) = scrElem x .int32 a i := by
  have hByte (b : Nat) : scr x (a + (i + 524288) * 4 + b) = scr x (a + i * 4 + b) := by
    simp only [scr]
    congr 1
    omega
  simp only [scrElem, Fmt.bits, scrRead]
  simp [hByte]

/-- Refutes O29: M and N reach 1,024, so that a raw INT32 write-out takes 4 MiB, twice what scratch holds. In `wideState` the
sums of rows 0 and 512 differ, and their elements lie on the same four bytes: the clause on the write-out cannot hold of
both. -/
theorem not_tensorUnitMultiplies : ¬ Obligations.TensorUnitMultiplies := by
  rintro ⟨-, -, -, -, hRaw, -⟩
  have hWritten (i : Nat) (hi : i < tM wideTmma) : ∃ t, exec (.tmma 0) wideState = .next t ∧
      sext 32 (scrElem (t.cl 0) .int32 (gran (wC wideTmma)) (i * tN wideTmma)) = wideSum i := by
    have hRun := hRaw wideState 0 wideTmma i 0 unitAt_wideState (by decide +kernel) (by decide +kernel) (by decide +kernel)
      (by decide +kernel) hi (by decide +kernel)
    simpa only [wideSum, Nat.add_zero, Fin.val_zero] using hRun
  obtain ⟨t, ht, hFirst⟩ := hWritten 0 (by decide +kernel)
  obtain ⟨t', ht', hLater⟩ := hWritten 512 (by decide +kernel)
  obtain rfl : t = t' := Host.Outcome.next.inj (ht.symm.trans ht')
  have hPlace : 512 * tN wideTmma = 0 * tN wideTmma + 524288 := by decide +kernel
  rw [hPlace, scrElem_int32_wraps, hFirst, wideSum_first_row, wideSum_row_512] at hLater
  exact absurd hLater (by decide)

end Sys2Proof.Machine
end

section
/-!
Arrays of elements in scratch (R49, R50, R79).
-/
namespace Sys2Proof.Machine

theorem leNat_leBytes (len n : Nat) : leNat (leBytes len n) = n % 256 ^ len := by
  induction len generalizing n with
  | zero => simp [leBytes, leNat, Nat.mod_one]
  | succ len ih =>
    simp only [leBytes, leNat, ih, BitVec.toNat_ofNat, Nat.pow_succ']
    exact (Nat.mod_mul ..).symm

/-- An element is half a byte, or one, two or four bytes. -/
theorem Fmt.bits_cases (f : Fmt) : f.bits = 4 ∨ f.bits = 8 ∨ f.bits = 16 ∨ f.bits = 32 := by
  cases f <;> simp [Fmt.bits]

theorem Fmt.bits_of_not_nibble {f : Fmt} (h : f.bits ≠ 4) : f.bits = 8 ∨ f.bits = 16 ∨ f.bits = 32 :=
  f.bits_cases.resolve_left h

/-- An array of `n` elements does not come back to its first byte. -/
def fits (f : Fmt) (n : Nat) : Prop := n * f.bits ≤ 8 * 2097152

theorem fits_of_le {f : Fmt} {m n : Nat} (h : fits f n) (hmn : m ≤ n) : fits f m :=
  (Nat.mul_le_mul_right _ hmn).trans h

theorem fits_of_lt_65536 {n : Nat} (h : n < 65536) (f : Fmt) : fits f n := by
  unfold fits
  rcases f.bits_cases with hb | hb | hb | hb <;> rw [hb] <;> omega

/-! One element. -/

section
variable {x y : Cluster} {f : Fmt} {a i v : Nat} (h : tabWf x.scratch = true) (hy : y.scratch = putElem f a i v x.scratch)
include h hy

theorem scr_of_nibble_put (hb : f.bits = 4) (b : Nat) :
    scr y b = if (a + i / 2) % 2097152 = b % 2097152 then
      BitVec.ofNat 8 (if i % 2 = 0 then (scr x (a + i / 2)).toNat / 16 * 16 + v % 16
        else (scr x (a + i / 2)).toNat % 16 + v % 16 * 16) else scr x b := by
  simp only [scr, hy, putElem, hb, if_true, tgetD_scrPut h, Nat.mod_mod]

theorem scrElem_putElem_same : scrElem y f a i = v % 2 ^ f.bits := by
  by_cases hb : f.bits = 4
  · have hOld := (scr x (a + i / 2)).isLt
    simp only [scrElem, hb, if_true, scr_of_nibble_put h hy hb, bitsOf, BitVec.toNat_ofNat]
    rcases Nat.mod_two_eq_zero_or_one i with hi | hi
    · simp [hi]
    · simp [hi]; omega
  · have hRead : scrRead y (a + i * (f.bits / 8) + 0) (f.bits / 8) = leBytes (f.bits / 8) v := by
      have hLen : (leBytes (f.bits / 8) v).length = f.bits / 8 := length_leBytes ..
      have hSmall : f.bits ≤ 32 := by rcases Fmt.bits_of_not_nibble hb with h | h | h <;> omega
      rw [scrRead_of_written h (by simpa only [putElem, hb, if_false] using hy) (by omega) (by omega), List.drop_zero,
        List.take_of_length_le (by omega)]
    rw [scrElem, if_neg hb, ← Nat.add_zero (a + _), hRead, leNat_leBytes]
    rcases Fmt.bits_of_not_nibble hb with h | h | h <;> simp [h]

theorem scrElem_putElem_ne {j : Nat} (hi : fits f (i + 1)) (hj : fits f (j + 1)) (hij : j ≠ i) :
    scrElem y f a j = scrElem x f a j := by
  unfold fits at hi hj
  by_cases hb : f.bits = 4
  · rw [hb] at hi hj
    have hOld := (scr x (a + i / 2)).isLt
    simp only [scrElem, hb, if_true, scr_of_nibble_put h hy hb]
    split
    · next hSame =>
      have hByte : i / 2 = j / 2 := by omega
      have hOther : i % 2 = 0 ∧ j % 2 = 1 ∨ i % 2 = 1 ∧ j % 2 = 0 := by omega
      simp only [bitsOf, BitVec.toNat_ofNat, ← hByte]
      rcases hOther with ⟨h0, h1⟩ | ⟨h0, h1⟩
      · simp [h0, h1]; omega
      · simp [h0, h1]
    · rfl
  · have hByte (b : Nat) (hbn : b < f.bits / 8) :
        scr y (a + j * (f.bits / 8) + b) = scr x (a + j * (f.bits / 8) + b) := by
      simp only [scr, hy, putElem, hb, if_false]
      refine tgetD_scrWriteT_outside h fun q hq => ?_
      rw [length_leBytes] at hq
      rcases Fmt.bits_of_not_nibble hb with h | h | h <;> rw [h] at hi hj hq hbn ⊢ <;> omega
    rw [scrElem, scrElem, if_neg hb, if_neg hb]
    congr 1
    exact List.map_congr_left fun b hbn => hByte b (List.mem_range.mp hbn)

end

/-- Element `i` of an array lies within the bytes of its first `n` elements. -/
theorem tgetD_putElem_outside {t : Tab Byte} (h : tabWf t = true) {f : Fmt} {a i n v z : Nat} (hi : i < n)
    (hz : ∀ q, q < fmtBytes f n → (a + q) % 2097152 ≠ z) : tgetD (putElem f a i v t) z 0 = tgetD t z 0 := by
  simp only [fmtBytes, ceilDiv] at hz
  unfold putElem
  split
  · next hb =>
    rw [hb] at hz
    exact (tgetD_scrPut h ..).trans (if_neg fun he => hz (i / 2) (by simp; omega) (by rwa [Nat.mod_mod] at he))
  · next hb =>
    refine tgetD_scrWriteT_outside h fun q hq => ?_
    rw [length_leBytes] at hq
    rw [Nat.add_assoc]
    refine hz _ ?_
    rcases Fmt.bits_of_not_nibble hb with h | h | h <;> rw [h] at hq ⊢ <;> simp <;> omega

/-! An array. -/

theorem tgetD_putElems_outside {t : Tab Byte} (h : tabWf t = true) {f : Fmt} {a k n z : Nat} {vs : List Nat}
    (hn : k + vs.length ≤ n) (hz : ∀ q, q < fmtBytes f n → (a + q) % 2097152 ≠ z) :
    tgetD (putElems f a k vs t) z 0 = tgetD t z 0 := by
  induction vs generalizing t k with
  | nil => rfl
  | cons v vs ih =>
    rw [List.length_cons] at hn
    rw [putElems, ih (tabWf_putElem h ..) (by omega), tgetD_putElem_outside h (by omega) hz]

theorem scrElem_putElems_before {x y : Cluster} (h : tabWf x.scratch = true) {f : Fmt} {a k j : Nat} {vs : List Nat}
    (hy : y.scratch = putElems f a k vs x.scratch) (hFits : fits f (k + vs.length)) (hj : j < k) :
    scrElem y f a j = scrElem x f a j := by
  induction vs generalizing x k with
  | nil => simp only [scrElem, scrRead, scr, hy, putElems]
  | cons v vs ih =>
    rw [List.length_cons, Nat.add_comm vs.length, ← Nat.add_assoc] at hFits
    rw [ih (x := { x with scratch := putElem f a k v x.scratch }) (tabWf_putElem h ..) hy hFits (by omega)]
    exact scrElem_putElem_ne h rfl (fits_of_le hFits (by omega)) (fits_of_le hFits (by omega)) (by omega)

/-- What is read of an array that has just been stored. -/
theorem scrElem_putElems {x y : Cluster} (h : tabWf x.scratch = true) {f : Fmt} {a k : Nat} {vs : List Nat}
    (hy : y.scratch = putElems f a k vs x.scratch) (hFits : fits f (k + vs.length)) {j : Nat} (hj : j < vs.length) :
    scrElem y f a (k + j) = vs[j] % 2 ^ f.bits := by
  induction vs generalizing x k j with
  | nil => exact absurd hj (by simp)
  | cons v vs ih =>
    have hWf : tabWf (putElem f a k v x.scratch) = true := tabWf_putElem h ..
    have hFits' : fits f (k + 1 + vs.length) := by
      rwa [List.length_cons, Nat.add_comm vs.length, ← Nat.add_assoc] at hFits
    cases j with
    | zero =>
      rw [Nat.add_zero, scrElem_putElems_before (x := { x with scratch := putElem f a k v x.scratch }) hWf hy hFits'
        (Nat.lt_succ_self k)]
      exact scrElem_putElem_same h rfl
    | succ j =>
      rw [show k + (j + 1) = k + 1 + j by omega,
        ih (x := { x with scratch := putElem f a k v x.scratch }) hWf hy hFits' (by simpa using hj)]
      simp

end Sys2Proof.Machine
end

section
/-!
Groups of elements: blocks of equal length, the last one perhaps shorter (R54).
-/
namespace Sys2Proof.Machine

variable {α β : Type} {F : Nat → List α → List β} {n : Nat}

theorem chunks_of_nonempty (fuel : Nat) {xs : List α} (h : xs ≠ []) :
    chunks n (fuel + 1) xs = xs.take n :: chunks n fuel (xs.drop n) := by
  cases xs with
  | nil => exact absurd rfl h
  | cons x xs => rfl

theorem chunks_nil (fuel : Nat) : chunks n fuel ([] : List α) = [] := by cases fuel <;> rfl

/-- Block `g` begins behind `g` whole ones. -/
theorem getElem?_chunks (hn : 0 < n) {fuel : Nat} {xs : List α} (hFuel : xs.length ≤ fuel) {g : Nat}
    (hg : g * n < xs.length) : (chunks n fuel xs)[g]? = some ((xs.drop (g * n)).take n) := by
  induction fuel generalizing xs g with
  | zero => omega
  | succ fuel ih =>
    have hNe : xs ≠ [] := List.ne_nil_of_length_pos (by omega)
    rw [chunks_of_nonempty fuel hNe]
    cases g with
    | zero => simp
    | succ g =>
      rw [Nat.succ_mul] at hg
      rw [List.getElem?_cons_succ, ih (by rw [List.length_drop]; omega) (by rw [List.length_drop]; omega), List.drop_drop,
        Nat.succ_mul, Nat.add_comm n]

theorem ceilDiv_of_pos {m : Nat} (hn : 0 < n) (hm : 0 < m) : ceilDiv m n = ceilDiv (m - n) n + 1 := by
  have hStep : m + n - 1 = m - 1 + n := by omega
  rw [ceilDiv, if_neg (Nat.ne_of_gt hn), hStep, Nat.add_div_right _ hn, ceilDiv, if_neg (Nat.ne_of_gt hn)]
  by_cases h : n ≤ m
  · rw [show m - n + n - 1 = m - 1 by omega]
  · rw [Nat.div_eq_of_lt (show m - 1 < n by omega), Nat.div_eq_of_lt (show m - n + n - 1 < n by omega)]

theorem ceilDiv_zero (hn : 0 < n) : ceilDiv 0 n = 0 := by
  rw [ceilDiv, if_neg (Nat.ne_of_gt hn)]
  exact Nat.div_eq_of_lt (by omega)

theorem length_chunks (hn : 0 < n) {fuel : Nat} {xs : List α} (hFuel : xs.length ≤ fuel) :
    (chunks n fuel xs).length = ceilDiv xs.length n := by
  induction fuel generalizing xs with
  | zero =>
    obtain rfl : xs = [] := List.length_eq_zero_iff.mp (by omega)
    exact (ceilDiv_zero hn).symm
  | succ fuel ih =>
    by_cases hNe : xs = []
    · rw [hNe, chunks_nil]
      exact (ceilDiv_zero hn).symm
    · have hPos := List.length_pos_of_ne_nil hNe
      rw [chunks_of_nonempty fuel hNe, List.length_cons, ih (by rw [List.length_drop]; omega), List.length_drop,
        ceilDiv_of_pos hn hPos]

/-- The elements of all blocks, each block worked on with its number, in order. -/
theorem getElem?_flatten_mapIdx_chunks (hn : 0 < n) (hF : ∀ j b, (F j b).length = b.length) {fuel : Nat} {xs : List α}
    (hFuel : xs.length ≤ fuel) {i : Nat} (hi : i < xs.length) :
    ((chunks n fuel xs).mapIdx F).flatten[i]? = (F (i / n) ((xs.drop (i / n * n)).take n))[i % n]? := by
  induction fuel generalizing xs i F with
  | zero => omega
  | succ fuel ih =>
    have hNe : xs ≠ [] := List.ne_nil_of_length_pos (by omega)
    rw [chunks_of_nonempty fuel hNe, List.mapIdx_cons, List.flatten_cons]
    have hLen : (F 0 (xs.take n)).length = min n xs.length := by rw [hF, List.length_take]
    by_cases hin : i < n
    · rw [List.getElem?_append_left (by omega), Nat.div_eq_of_lt hin, Nat.mod_eq_of_lt hin]
      simp
    · obtain ⟨j, rfl⟩ : ∃ j, i = j + n := ⟨i - n, by omega⟩
      rw [List.getElem?_append_right (by omega), hLen, Nat.min_eq_left (by omega), Nat.add_sub_cancel,
        ih (F := fun k => F (k + 1)) (fun j b => hF (j + 1) b) (by rw [List.length_drop]; omega)
          (by rw [List.length_drop]; omega),
        Nat.add_div_right _ hn, Nat.add_mod_right, List.drop_drop, Nat.succ_mul, Nat.add_comm n]

theorem length_flatten_mapIdx_chunks (hn : 0 < n) (hF : ∀ j b, (F j b).length = b.length) {fuel : Nat} {xs : List α}
    (hFuel : xs.length ≤ fuel) : ((chunks n fuel xs).mapIdx F).flatten.length = xs.length := by
  induction fuel generalizing xs F with
  | zero =>
    obtain rfl : xs = [] := List.length_eq_zero_iff.mp (by omega)
    rfl
  | succ fuel ih =>
    by_cases hNe : xs = []
    · subst hNe; rfl
    · have hPos := List.length_pos_of_ne_nil hNe
      rw [chunks_of_nonempty fuel hNe, List.mapIdx_cons, List.flatten_cons, List.length_append, hF,
        ih (F := fun k => F (k + 1)) (fun j b => hF (j + 1) b) (by rw [List.length_drop]; omega), List.length_take,
        List.length_drop]
      omega

end Sys2Proof.Machine
end

section
/-!
Words of the vector unit that compute in scratch: what they change of their cluster, and what a conversion leaves behind
(R65, R67, R82).
-/
namespace Sys2Proof.Machine

/-! The word that completes may end a conversion. -/

theorem satLast_frame (s : State) (c slot : Nat) : ∃ conv evt pmc,
    satLast s c slot = { s.setCl c { s.cl c with conv := conv, satEvt := evt } with pmc := pmc } := by
  simp only [satLast]
  split
  · obtain ⟨pmc, h⟩ := countCls_onlyCounters (s.setCl c { s.cl c with
      conv := terase (s.cl c).conv slot, satEvt := (s.cl c).satEvt ||| BitVec.ofNat 64 (2 ^ slot) }) c Ev.satEvent 0xFF 1
    exact ⟨_, _, pmc, h⟩
  · exact ⟨_, _, _, rfl⟩

/-- A word that completes signals and lets its unit go on; at most a conversion ends with it. -/
theorem retire_frame {s : State} {c u w : Nat} (h : (s.cl c).word u = some w) : ∃ conv evt pmc,
    retire s c u = { s.setCl c { (s.cl c).retired u w with conv := conv, satEvt := evt } with pmc := pmc } := by
  by_cases hEnd : wLast w = true ∧ u < 2
  · obtain ⟨conv, evt, pmc, hSat⟩ := satLast_frame s c (wSlot u w)
    refine ⟨conv, evt, pmc, ?_⟩
    have hCl : (satLast s c (wSlot u w)).cl c = { s.cl c with conv := conv, satEvt := evt } := by
      rw [hSat]; exact State.cl_setCl_same ..
    simp only [retire, retireTo, h, hEnd.1, hEnd.2, decide_true, Bool.and_self, if_true, hCl]
    rw [hSat]
    have hAgain (x y : Cluster) : State.setCl { s.setCl c x with pmc := pmc } c y = { s.setCl c y with pmc := pmc } :=
      congrArg (fun t : State => { t with pmc := pmc }) (State.setCl_setCl s c x y)
    rw [hAgain]
    split <;> next hs => simp [Cluster.retired, Cluster.setUnit, hs, Cluster.unit, Cluster.list]
  · have hNone : wLast w = false ∨ 2 ≤ u := by
      rcases Bool.eq_false_or_eq_true (wLast w) with hLast | hLast
      · exact .inr (Nat.le_of_not_lt fun hu => hEnd ⟨hLast, hu⟩)
      · exact .inl hLast
    exact ⟨(s.cl c).conv, (s.cl c).satEvt, s.pmc, retire_of_no_end h hNone⟩

theorem scratch_of_unitAt {s : State} {c u op w : Nat} (h : unitAt s c u op w) : tabWf (s.cl c).scratch = true := by
  obtain ⟨-, -, -, -, -, -, -, -, hWf⟩ := h
  exact hWf

/-! What such a word may change. -/

/-- `y` is cluster `x` but for its scratch, its saturation slots, its draws and its count of non-finite inputs. -/
def Cluster.computed (x y : Cluster) : Prop := ∃ scratch satConv satClip conv draws nonfin,
  y = { x with
    scratch := scratch, satConv := satConv, satClip := satClip, conv := conv, draws := draws, nonfin := nonfin }

theorem Cluster.computed.refl (x : Cluster) : x.computed x := ⟨_, _, _, _, _, _, rfl⟩

theorem Cluster.computed.trans {x y z : Cluster} (h : x.computed y) (h' : y.computed z) : x.computed z := by
  obtain ⟨_, _, _, _, _, _, rfl⟩ := h
  obtain ⟨_, _, _, _, _, _, rfl⟩ := h'
  exact ⟨_, _, _, _, _, _, rfl⟩

/-- `r` is the state in which cluster `c` has taken the tokens of word `w` and is computing. -/
def computing (s r : State) (c w : Nat) : Prop :=
  (∃ x pmc free, r = { s.setCl c x with pmc := pmc, freeCtr := free }) ∧ ((taken s c w).cl c).computed (r.cl c)

theorem computing_taken (s : State) (c w : Nat) : computing s (taken s c w) c w := ⟨⟨_, _, _, rfl⟩, .refl _⟩

section
variable {s r : State} {c w : Nat} (h : computing s r c w)
include h

theorem computing.setCl {y : Cluster} (hy : (r.cl c).computed y) : computing s (r.setCl c y) c w := by
  obtain ⟨⟨x, pmc, free, rfl⟩, hx⟩ := h
  refine ⟨⟨y, pmc, free, ?_⟩, ?_⟩
  · exact congrArg (fun t : State => { t with pmc := pmc, freeCtr := free }) (State.setCl_setCl s c x y)
  · rw [State.cl_setCl_same]; exact hx.trans hy

theorem computing.scrWrite (a : Nat) (bs : List Byte) : computing s (scrWrite r c a bs) c w :=
  h.setCl ⟨_, _, _, _, _, _, rfl⟩

theorem computing.scrPutElems (f : Fmt) (a : Nat) (vs : List Nat) : computing s (scrPutElems r c f a vs) c w :=
  h.setCl ⟨_, _, _, _, _, _, rfl⟩

theorem computing.satCount (slot m n : Nat) : computing s (satCount r c slot m n) c w := h.setCl ⟨_, _, _, _, _, _, rfl⟩

theorem computing.storeConv (slot : Nat) (f : Fmt) (a : Nat) (es : List (Nat × Bool)) :
    computing s (storeConv r c slot f a es) c w := (h.scrPutElems f a _).satCount ..

theorem computing.nonfinCount (n : Nat) : computing s (nonfinCount r c n) c w := by
  unfold Machine.nonfinCount
  split
  · exact h
  · exact h.setCl ⟨_, _, _, _, _, _, rfl⟩

theorem computing.takeDraws (sr : Bool) (n : Nat) : computing s (takeDraws r c sr n) c w := by
  unfold Machine.takeDraws
  split
  · exact h.setCl ⟨_, _, _, _, _, _, rfl⟩
  · exact h

theorem computing.skipFree (n : Nat) : computing s (skipFree r n) c w := by
  obtain ⟨⟨x, pmc, free, rfl⟩, hx⟩ := h
  exact ⟨⟨x, pmc, free + n, rfl⟩, hx⟩

/-- A word that has computed completes: nothing but its cluster, the counters and the count of free values differs, and of
the cluster only what a word of its unit may touch. -/
theorem computing.retire (hWord : (s.cl c).word 1 = some w) :
    onlyCluster s (retire r c 1) c ∧ onlyCompute s (retire r c 1) c ∧ behind s (retire r c 1) c 1 w ∧
      ((retire r c 1).cl c).acc = (s.cl c).acc ∧ ((retire r c 1).cl c).accInt = (s.cl c).accInt ∧
      ((retire r c 1).cl c).accsat = (s.cl c).accsat ∧ ((retire r c 1).cl c).scratch = (r.cl c).scratch ∧
      ((retire r c 1).cl c).satConv = (r.cl c).satConv ∧ ((retire r c 1).cl c).nonfin = (r.cl c).nonfin := by
  obtain ⟨⟨x, pmc, free, hr⟩, scratch, satConv, satClip, conv, draws, nonfin, hCl⟩ := h
  have hWord' : (r.cl c).word 1 = some w := by rw [hCl, taken_cl]; exact hWord
  obtain ⟨conv', evt, pmc', hRet⟩ := retire_frame hWord'
  have hCl' : (Machine.retire r c 1).cl c = { (r.cl c).retired 1 w with conv := conv', satEvt := evt } := by
    rw [hRet]; exact State.cl_setCl_same ..
  refine ⟨?only, ?compute, ?behind, ?acc, ?int, ?sat, ?scratch, ?conv, ?nonfin⟩
  case only =>
    unfold onlyCluster
    rw [hCl', hRet, hr]
    exact congrArg (fun t : State => { t with pmc := pmc', freeCtr := free }) (State.setCl_setCl s c x _)
  case compute => rw [onlyCompute, hCl', hCl, taken_cl]; rfl
  case behind => rw [behind, hCl', hCl, taken_cl]; exact ⟨rfl, rfl⟩
  case acc | int | sat => rw [hCl', hCl, taken_cl]; rfl
  case scratch | conv | nonfin => rw [hCl']; rfl

end

/-! What the operations of a conversion leave in their cluster. -/

theorem storeConv_cl (r : State) (c slot : Nat) (f : Fmt) (a : Nat) (es : List (Nat × Bool)) :
    ((storeConv r c slot f a es).cl c).scratch = putElems f a 0 (es.map (·.1)) (r.cl c).scratch ∧
      ((storeConv r c slot f a es).cl c).satConv =
        tput (r.cl c).satConv slot (bump (tgetD (r.cl c).satConv slot 0) es.length) := by
  have hPut : (scrPutElems r c f a (es.map (·.1))).cl c =
      { r.cl c with scratch := putElems f a 0 (es.map (·.1)) (r.cl c).scratch } := State.cl_setCl_same ..
  have hSat (t : State) (m n : Nat) : ((satCount t c slot m n).cl c).scratch = (t.cl c).scratch ∧
      ((satCount t c slot m n).cl c).satConv = tput (t.cl c).satConv slot (bump (tgetD (t.cl c).satConv slot 0) m) := by
    simp only [satCount, State.cl_setCl_same, and_self]
  rw [storeConv]
  obtain ⟨hScr, hConv⟩ := hSat (scrPutElems r c f a (es.map (·.1))) es.length (es.filter (·.2)).length
  rw [hScr, hConv, hPut]
  exact ⟨rfl, rfl⟩

theorem takeDraws_cl (r : State) (c : Nat) (sr : Bool) (n : Nat) :
    ((takeDraws r c sr n).cl c).scratch = (r.cl c).scratch ∧ ((takeDraws r c sr n).cl c).satConv = (r.cl c).satConv := by
  unfold takeDraws
  split
  · simp only [State.cl_setCl_same, and_self]
  · exact ⟨rfl, rfl⟩

theorem nonfinCount_cl (r : State) (c n : Nat) :
    ((nonfinCount r c n).cl c).scratch = (r.cl c).scratch ∧ ((nonfinCount r c n).cl c).satConv = (r.cl c).satConv ∧
      ((nonfinCount r c n).cl c).nonfin = if n = 0 then (r.cl c).nonfin else bump (r.cl c).nonfin n := by
  unfold nonfinCount
  split
  · exact ⟨rfl, rfl, rfl⟩
  · simp only [State.cl_setCl_same, and_self]

/-! A conversion. -/

theorem wD_lt (w : Nat) : wD w < 65536 := by
  have h : wD w = w / 2 ^ 40 % 2 ^ 16 := rfl
  omega

theorem wB_lt (w : Nat) : wB w < 65536 := by
  have h : wB w = w / 2 ^ 72 % 2 ^ 16 := rfl
  omega

/-- The conversion of word `w` stores the elements `es`, takes its draws if it rounds stochastically, and has used `m` free
values. -/
def converted (r : State) (c w : Nat) (es : List (Nat × Bool)) (sr : Bool) (m : Nat) : State :=
  skipFree (takeDraws (storeConv r c (vSlot w) (vDf w) (gran (wC w)) es) c sr (wD w)) m

section
variable {s r : State} {c w m : Nat} {es : List (Nat × Bool)} {sr : Bool}

theorem computing.converted (h : computing s r c w) (es : List (Nat × Bool)) (sr : Bool) (m : Nat) :
    computing s (converted r c w es sr m) c w :=
  ((h.storeConv ..).takeDraws ..).skipFree m

theorem converted_scratch : ((converted r c w es sr m).cl c).scratch =
    putElems (vDf w) (gran (wC w)) 0 (es.map (·.1)) (r.cl c).scratch :=
  (takeDraws_cl ..).1.trans (storeConv_cl ..).1

theorem converted_satConv : ((converted r c w es sr m).cl c).satConv =
    tput (r.cl c).satConv (vSlot w) (bump (tgetD (r.cl c).satConv (vSlot w) 0) es.length) :=
  (takeDraws_cl ..).2.trans (storeConv_cl ..).2

theorem scrSame_of_converted {t : State} (hWf : tabWf (s.cl c).scratch = true) (hLen : es.length ≤ wD w)
    (ht : (t.cl c).scratch = putElems (vDf w) (gran (wC w)) 0 (es.map (·.1)) (s.cl c).scratch) :
    scrSame s t c (gran (wC w)) (fmtBytes (vDf w) (wD w)) := by
  intro z hz hOut
  simp only [scr, ht, Nat.mod_eq_of_lt hz]
  exact tgetD_putElems_outside hWf (by simpa using hLen) hOut

theorem scrElem_of_converted {x y : Cluster} {i : Nat} {e : Nat × Bool} (hWf : tabWf x.scratch = true)
    (hLen : es.length = wD w) (hy : y.scratch = putElems (vDf w) (gran (wC w)) 0 (es.map (·.1)) x.scratch)
    (he : es[i]? = some e) :
    scrElem y (vDf w) (gran (wC w)) i = e.1 % 2 ^ (vDf w).bits := by
  obtain ⟨hi, hei⟩ := List.getElem?_eq_some_iff.mp he
  have hRead := scrElem_putElems (j := i) hWf hy
    (by rw [List.length_map, hLen, Nat.zero_add]; exact fits_of_lt_65536 (wD_lt w) _) (by simpa using hi)
  rwa [Nat.zero_add, List.getElem_map, hei] at hRead

/-- A word that converts the elements of scratch: its frame, the count of its slot, and element `i` of its destination. -/
theorem converts {c : Fin 128} {op i : Nat} {e : Nat × Bool} {ins : Instr} (h : unitAt s c.val 1 op w)
    (hExec : exec ins s = .next (retire (converted (taken s c.val w) c.val w es sr m) c.val 1))
    (hLen : es.length = wD w) (he : es[i]? = some e) :
    ∃ t, exec ins s = .next t ∧ onlyCluster s t c.val ∧ onlyCompute s t c.val ∧ behind s t c.val 1 w ∧
      scrSame s t c.val (gran (wC w)) (fmtBytes (vDf w) (wD w)) ∧
      (t.cl c.val).acc = (s.cl c.val).acc ∧ (t.cl c.val).accInt = (s.cl c.val).accInt ∧
      (t.cl c.val).accsat = (s.cl c.val).accsat ∧
      tgetD (t.cl c.val).satConv (vSlot w) 0 = bump (tgetD (s.cl c.val).satConv (vSlot w) 0) (wD w) ∧
      scrElem (t.cl c.val) (vDf w) (gran (wC w)) i = e.1 % 2 ^ (vDf w).bits := by
  have hWf := scratch_of_unitAt h
  obtain ⟨hOnly, hCompute, hBehind, hAcc, hInt, hSat, hScr, hConv, -⟩ :=
    ((computing_taken s c.val w).converted es sr m).retire h.1
  rw [converted_scratch, taken_cl] at hScr
  rw [converted_satConv, taken_cl] at hConv
  refine ⟨_, hExec, hOnly, hCompute, hBehind, scrSame_of_converted hWf (Nat.le_of_eq hLen) hScr, hAcc, hInt, hSat, ?_,
    scrElem_of_converted hWf hLen hScr he⟩
  rw [hConv, tgetD_tput_same, hLen]

end

end Sys2Proof.Machine
end

section
/-!
What the conversions of the vector unit store (R52, R54 to R59, R62 to R64).
-/
namespace Sys2Proof.Machine

/-! Taking tokens leaves what a word computes from. -/

section
variable (s : State) (c w : Nat)

theorem clPlan_taken : clPlan (taken s c w) c = clPlan s c := by simp only [clPlan, taken_cl]; rfl

theorem scrElems_taken : scrElems ((taken s c w).cl c) = scrElems (s.cl c) := by rw [taken_cl]; rfl

theorem rndOf_taken (u : Nat) : rndOf (taken s c w) c u = rndOf s c u := by
  funext sr i
  simp only [rndOf, clPlan_taken, unitStep, unitInv_taken, taken_cl]
  rfl

theorem groupScale_taken : groupScale (taken s c w) c = groupScale s c := by
  funext f a i
  simp only [groupScale, taken_cl]
  rfl

theorem outScale_taken (x : Nat) : outScale (taken s c w) c false x = outScale s c false x := by
  simp only [outScale, clConst_taken]
  rfl

theorem convElems_taken : convElems (taken s c w) c w = convElems s c w := by
  simp only [convElems, scrElems_taken, rndOf_taken, groupScale_taken]
  rfl

end

/-! Groups converted. -/

theorem groupLen_pos (w : Nat) (f : Fmt) (g n : Nat) : 0 < groupLen w f g n := by
  unfold groupLen
  split
  · omega
  · split <;> omega

section
variable {f : Fmt} {g : Nat} {rnd : Nat → Rnd} {nsat : Bool} {vs : List Fv}

theorem length_convGroup (sc : Fv) (zp i0 : Nat) : (convGroup f g rnd nsat sc zp i0 vs).length = vs.length := by
  simp [convGroup]

theorem getElem?_convGroup (sc : Fv) (zp i0 i : Nat) : (convGroup f g rnd nsat sc zp i0 vs)[i]? = vs[i]?.map fun v =>
    if (scaled f g && (maxMag vs).1 == 0 || sc.isZero) = true then (0, !v.isFin)
    else encElem f (rnd (i0 + i)) nsat sc zp v := by
  simp [convGroup]

/-- The groups of an array, each converted under its own scale and zero point `k`. -/
def convGroups (f : Fmt) (g : Nat) (rnd : Nat → Rnd) (nsat : Bool) (dl : Nat) (k : Nat → Fv × Nat) (n : Nat) (vs : List Fv) :
    List (Nat × Bool) :=
  ((chunks dl n vs).mapIdx fun i grp => convGroup f g rnd nsat (k i).1 (k i).2 (i * dl) grp).flatten

theorem length_convGroups {dl n : Nat} (hdl : 0 < dl) (hn : vs.length ≤ n) (k : Nat → Fv × Nat) :
    (convGroups f g rnd nsat dl k n vs).length = vs.length :=
  length_flatten_mapIdx_chunks hdl (fun _ _ => length_convGroup ..) hn

theorem getElem?_convGroups {dl n i : Nat} {v : Fv} (hdl : 0 < dl) (hn : vs.length ≤ n) (k : Nat → Fv × Nat)
    (hv : vs[i]? = some v) : (convGroups f g rnd nsat dl k n vs)[i]? = some
      (if (scaled f g && (maxMag ((vs.drop (i / dl * dl)).take dl)).1 == 0 || (k (i / dl)).1.isZero) = true
        then (0, !v.isFin) else encElem f (rnd i) nsat (k (i / dl)).1 (k (i / dl)).2 v) := by
  obtain ⟨hi, hvi⟩ := List.getElem?_eq_some_iff.mp hv
  have hPlace : i / dl * dl + i % dl = i := Nat.div_add_mod' i dl
  have hAt : ((vs.drop (i / dl * dl)).take dl)[i % dl]? = some v := by
    rw [List.getElem?_take_of_lt (Nat.mod_lt i hdl), List.getElem?_drop, hPlace, hv]
  rw [convGroups, getElem?_flatten_mapIdx_chunks hdl (fun _ _ => length_convGroup ..) hn hi, getElem?_convGroup, hAt, hPlace]
  rfl

/-- To a target without scales each element is converted by itself. -/
theorem getElem?_convGroups_unscaled {dl n i : Nat} {v : Fv} (hf : scaled f g = false) (hdl : 0 < dl) (hn : vs.length ≤ n)
    (hv : vs[i]? = some v) :
    (convGroups f g rnd nsat dl (fun _ => (fvOne, 0)) n vs)[i]? = some (encElem f (rnd i) nsat fvOne 0 v) := by
  rw [getElem?_convGroups hdl hn _ hv, hf]
  rfl

/-- A single group under a scale, in the form in which the statements give it. -/
theorem getElem?_convGroups_single {n i : Nat} (hf : scaled f g = true) (hn : vs.length ≤ n) (hShort : vs.length ≤ 32)
    (k : Nat → Fv × Nat) (hi : i < vs.length) : ∃ e, (convGroups f g rnd nsat 32 k n vs)[i]? = some e ∧
      e.1 % 2 ^ f.bits = if (maxMag vs).1 = 0 ∨ (k 0).1.isZero = true then 0
        else (encElem f (rnd i) nsat (k 0).1 (k 0).2 (vs.getD i .nan)).1 % 2 ^ f.bits := by
  have hv : vs[i]? = some (vs.getD i .nan) := by
    rw [List.getD_eq_getElem?_getD, List.getElem?_eq_getElem hi]; rfl
  have hFirst : i / 32 = 0 := Nat.div_eq_of_lt (by omega)
  refine ⟨_, getElem?_convGroups (by omega) hn k hv, ?_⟩
  rw [hFirst, Nat.zero_mul, List.drop_zero, List.take_of_length_le hShort, hf]
  by_cases hz : (maxMag vs).1 = 0 ∨ (k 0).1.isZero = true
  · rw [if_pos hz, if_pos (by simpa using hz)]
    exact Nat.zero_mod _
  · rw [if_neg hz, if_neg (by simpa using hz)]

end

/-! VCONV. -/

/-- The values of the elements that a VCONV reads, under the scales of their groups where the source has any. -/
def convSource (s : State) (c w : Nat) : List Fv :=
  (scrElems (s.cl c) (vSf w) (gran (wA w)) (wD w)).mapIdx fun i b =>
    if scaled (vSf w) (vGran w) = true then
      let k := groupScale s c (vSf w) (gran (wB w)) (i / groupLen w (vSf w) (vGran w) (wD w))
      valElem (vSf w) k.1 k.2 b
    else (vSf w).elem b

/-- The scale of group `i` of a VCONV's target. -/
def convScale (s : State) (c w i : Nat) : Fv × Nat :=
  if scaled (vDf w) (vGran w) = false then (fvOne, 0)
  else if scaled (vSf w) (vGran w) = true then scaleOf (vDf w) (fld (freeAt s i) 31 0)
  else groupScale s c (vDf w) (gran (wB w)) i

theorem convElems_eq (s : State) (c w : Nat) : convElems s c w =
    convGroups (vDf w) (vGran w) (rndOf s c 1 (vRnd w)) (vNsat w) (groupLen w (vDf w) (vGran w) (wD w)) (convScale s c w)
      (wD w) (convSource s c w) := by
  simp only [convElems, convGroups, convScale, convSource, Bool.not_eq_true']

theorem length_scrElems (x : Cluster) (f : Fmt) (a n : Nat) : (scrElems x f a n).length = n := by simp [scrElems]

theorem length_convSource (s : State) (c w : Nat) : (convSource s c w).length = wD w := by
  rw [convSource, List.length_mapIdx, length_scrElems]

theorem length_convElems (s : State) (c w : Nat) : (convElems s c w).length = wD w := by
  rw [convElems_eq, length_convGroups (groupLen_pos ..) (Nat.le_of_eq (length_convSource s c w)), length_convSource]

theorem getElem?_scrElems {x : Cluster} {f : Fmt} {a n i : Nat} (hi : i < n) :
    (scrElems x f a n)[i]? = some (scrElem x f a i) := by
  simp [scrElems, List.getElem?_range hi]

theorem getElem?_convSource (s : State) (c : Nat) {w i : Nat} (hi : i < wD w) : (convSource s c w)[i]? = some
    (if scaled (vSf w) (vGran w) = true then
      let k := groupScale s c (vSf w) (gran (wB w)) (i / groupLen w (vSf w) (vGran w) (wD w))
      valElem (vSf w) k.1 k.2 (scrElem (s.cl c) (vSf w) (gran (wA w)) i)
    else (vSf w).elem (scrElem (s.cl c) (vSf w) (gran (wA w)) i)) := by
  rw [convSource, List.getElem?_mapIdx, getElem?_scrElems hi]
  rfl

theorem convSource_of_unscaled {w : Nat} (hSf : scaled (vSf w) (vGran w) = false) (s : State) (c : Nat) :
    convSource s c w = (scrElems (s.cl c) (vSf w) (gran (wA w)) (wD w)).map (vSf w).elem := by
  refine List.ext_getElem? fun i => ?_
  simp only [convSource, List.getElem?_mapIdx, List.getElem?_map, hSf, Bool.false_eq_true, if_false]

theorem getElem?_convElems_unscaled (s : State) (c : Nat) {w i : Nat} {v : Fv} (hDf : scaled (vDf w) (vGran w) = false)
    (hv : (convSource s c w)[i]? = some v) :
    (convElems s c w)[i]? = some (encElem (vDf w) (rndOf s c 1 (vRnd w) i) (vNsat w) fvOne 0 v) := by
  have hScale : convScale s c w = fun _ => (fvOne, 0) := funext fun _ => if_pos hDf
  rw [convElems_eq, hScale]
  exact getElem?_convGroups_unscaled hDf (groupLen_pos ..) (Nat.le_of_eq (length_convSource s c w)) hv

theorem execVconv_of_unitAt {s : State} {c : Fin 128} {w : Nat} (h : unitAt s c.val 1 0x04 w) :
    exec (.vconv c) s = .next (retire
      (converted (taken s c.val w) c.val w (convElems s c.val w) (vRnd w) (wD w)) c.val 1) := by
  show execVconv c s = _
  rw [execVconv, issueR_of_unitAt h, convElems_taken]
  rfl

/-! VPROOF and VPCONV. -/

theorem srcVals_of_unscaled {f : Fmt} (hPi : f.isPi = false) (hMx : f.isMx = false) (s : State) (c a n : Nat) :
    srcVals s c f a n = (scrElems (s.cl c) f a n).map f.elem := by
  simp [srcVals, hPi, hMx]

/-- The scale that the proofing pass finds for group `g`. -/
theorem getElem?_proofScales {s : State} {w : Nat} {f : Fmt} {gr : Nat} {vs : List Fv} (hf : proofable f gr = true) {g : Nat}
    (hg : g * groupLen w f gr vs.length < vs.length) : (proofScales s w f gr vs)[g]? = some
      (proofGroup f (vClip w) ((vs.drop (g * groupLen w f gr vs.length)).take (groupLen w f gr vs.length))) := by
  simp only [proofScales, List.getElem?_mapIdx, getElem?_chunks (groupLen_pos ..) (Nat.le_refl _) hg, hf, if_true,
    Option.map_some]

theorem length_proofScales (s : State) (w : Nat) (f : Fmt) (gr : Nat) (vs : List Fv) :
    (proofScales s w f gr vs).length = ceilDiv vs.length (groupLen w f gr vs.length) := by
  rw [proofScales, List.length_mapIdx, length_chunks (groupLen_pos ..) (Nat.le_refl _)]

theorem ceilDiv_le (m : Nat) {n : Nat} (hn : 0 < n) : ceilDiv m n ≤ m := by
  rw [ceilDiv, if_neg (Nat.ne_of_gt hn)]
  have hMul := Nat.le_mul_of_pos_left m hn
  refine Nat.le_of_lt_succ (Nat.div_lt_of_lt_mul ?_)
  rw [Nat.mul_succ]
  omega

theorem length_flatMap_leBytes (n : Nat) (ks : List Nat) : (ks.flatMap (leBytes n)).length = n * ks.length := by
  simp [List.length_flatMap, Nat.mul_comm]

/-- Record `g` of a run of stored numbers. -/
theorem flatMap_leBytes_at (n : Nat) {ks : List Nat} {g k : Nat} (hk : ks[g]? = some k) :
    ((ks.flatMap (leBytes n)).drop (g * n)).take n = leBytes n k := by
  induction ks generalizing g with
  | nil => simp at hk
  | cons k' ks ih =>
    rw [List.flatMap_cons]
    cases g with
    | zero =>
      obtain rfl : k' = k := by simpa using hk
      rw [Nat.zero_mul, List.drop_zero, List.take_left' (length_leBytes ..)]
    | succ g =>
      rw [Nat.succ_mul, Nat.add_comm, ← List.drop_drop, List.drop_left' (length_leBytes ..)]
      exact ih (by simpa using hk)

theorem scaleBytes_le (f : Fmt) : scaleBytes f ≤ 4 := by unfold scaleBytes; split <;> omega

theorem pow_scaleBytes (f : Fmt) : 256 ^ scaleBytes f = 2 ^ (8 * scaleBytes f) := by
  rw [show (256 : Nat) = 2 ^ 8 by rfl, ← Nat.pow_mul]

section
variable {x y : Cluster} {f : Fmt} {a : Nat} {ks : List Nat} (h : tabWf x.scratch = true)
  (hy : y.scratch = scrWriteT x.scratch a (ks.flatMap (leBytes (scaleBytes f)))) (hLen : ks.length < 65536)
include h hy hLen

theorem storedScale {g k : Nat} (hk : ks[g]? = some k) :
    leNat (scrRead y (a + g * scaleBytes f) (scaleBytes f)) = k % 2 ^ (8 * scaleBytes f) := by
  obtain ⟨hg, -⟩ := List.getElem?_eq_some_iff.mp hk
  have hSmall := scaleBytes_le f
  have hAll : scaleBytes f * ks.length ≤ 4 * ks.length := Nat.mul_le_mul_right _ hSmall
  have hIn : g * scaleBytes f + scaleBytes f ≤ scaleBytes f * ks.length := by
    rw [← Nat.succ_mul, Nat.mul_comm]; exact Nat.mul_le_mul_left _ hg
  rw [scrRead_of_written h hy (by rw [length_flatMap_leBytes]; omega) (by rw [length_flatMap_leBytes]; exact hIn),
    flatMap_leBytes_at _ hk, leNat_leBytes, pow_scaleBytes]

end

theorem putScales_cl (r : State) (c : Nat) (f : Fmt) (a : Nat) (ks : List Nat) : (putScales r c f a ks).cl c =
    { r.cl c with scratch := scrWriteT (r.cl c).scratch a (ks.flatMap (leBytes (scaleBytes f))) } := State.cl_setCl_same ..

end Sys2Proof.Machine
end

section
/-!
The words of the vector unit that find scales and convert (R54 to R59, R62 to R64, R82).
-/
namespace Sys2Proof.Machine

/-- The values of unscaled source elements. -/
def plainSource (s : State) (c w : Nat) : List Fv := (scrElems (s.cl c) (vSf w) (gran (wA w)) (wD w)).map (vSf w).elem

theorem length_plainSource (s : State) (c w : Nat) : (plainSource s c w).length = wD w := by
  rw [plainSource, List.length_map, length_scrElems]

/-! VPROOF. -/

/-- The scales of a source's groups stand at OPB, and its non-finite values are counted. -/
def proofed (s : State) (c w g : Nat) : State :=
  nonfinCount (putScales (taken s c w) c (vDf w) (gran (wB w)) (proofScales s w (vDf w) g (plainSource s c w))) c
    (nonfinite (plainSource s c w))

section
variable {s : State} {w : Nat}

theorem srcVals_taken {c : Nat} (hPi : (vSf w).isPi = false) (hMx : (vSf w).isMx = false) :
    srcVals (taken s c w) c (vSf w) (gran (wA w)) (wD w) = plainSource s c w := by
  rw [srcVals_of_unscaled hPi hMx, scrElems_taken]
  rfl

theorem proofed_scratch (c g : Nat) : ((proofed s c w g).cl c).scratch =
    scrWriteT (s.cl c).scratch (gran (wB w))
      ((proofScales s w (vDf w) g (plainSource s c w)).flatMap (leBytes (scaleBytes (vDf w)))) := by
  rw [proofed, (nonfinCount_cl ..).1, putScales_cl, taken_cl]

theorem proofed_satConv (c g : Nat) : ((proofed s c w g).cl c).satConv = (s.cl c).satConv := by
  rw [proofed, (nonfinCount_cl ..).2.1, putScales_cl, taken_cl]

theorem proofed_nonfin (c g : Nat) : ((proofed s c w g).cl c).nonfin =
    if nonfinite (plainSource s c w) = 0 then (s.cl c).nonfin
    else bump (s.cl c).nonfin (nonfinite (plainSource s c w)) := by
  rw [proofed, (nonfinCount_cl ..).2.2, putScales_cl, taken_cl]

theorem computing_proofed (c g : Nat) : computing s (proofed s c w g) c w :=
  ((computing_taken s c w).scrWrite ..).nonfinCount _

theorem length_scales_lt (s : State) (c w g : Nat) : (proofScales s w (vDf w) g (plainSource s c w)).length < 65536 := by
  rw [length_proofScales, length_plainSource]
  exact (ceilDiv_le _ (groupLen_pos ..)).trans_lt (wD_lt w)

theorem execVproof_of_unitAt {c : Fin 128} (h : unitAt s c.val 1 0x03 w) (hPi : (vSf w).isPi = false)
    (hMx : (vSf w).isMx = false) :
    exec (.vproof c) s = .next (retire (skipFree (proofed s c.val w (vGran w)) (2 * wD w)) c.val 1) := by
  show execVproof c s = _
  rw [execVproof, issueR_of_unitAt h, srcVals_taken hPi hMx]
  rfl

/-! VPCONV. -/

/-- The elements of a VPCONV: each block of 32 under the scale found for it. -/
def proofedElems (s : State) (c w : Nat) : List (Nat × Bool) :=
  convGroups (vDf w) 2 (rndOf s c 1 (vRnd w)) (vNsat w) 32
    (fun i => scaleOf (vDf w) ((proofScales s w (vDf w) 2 (plainSource s c w)).getD i 0)) (wD w) (plainSource s c w)

theorem length_proofedElems (s : State) (c w : Nat) : (proofedElems s c w).length = wD w := by
  rw [proofedElems, length_convGroups (by omega) (Nat.le_of_eq (length_plainSource s c w)), length_plainSource]

theorem execVpconv_of_unitAt {c : Fin 128} (h : unitAt s c.val 1 0x05 w) (hPi : (vSf w).isPi = false)
    (hMx : (vSf w).isMx = false) : exec (.vpconv c) s = .next (retire
      (converted (proofed s c.val w 2) c.val w (proofedElems s c.val w) (vRnd w) (2 * wD w)) c.val 1) := by
  show execVpconv c s = _
  rw [execVpconv, issueR_of_unitAt h, srcVals_taken hPi hMx, rndOf_taken, proofedElems]
  simp only [convGroups, Nat.mul_comm _ 32]
  rfl

theorem proofScales_of_one_block (s : State) {c : Nat} (hProof : proofable (vDf w) 2 = true) (hSome : 0 < wD w)
    (hShort : wD w ≤ 32) : (proofScales s w (vDf w) 2 (plainSource s c w))[0]? =
      some (proofGroup (vDf w) (vClip w) (plainSource s c w)) := by
  have hLen := length_plainSource s c w
  rw [getElem?_proofScales hProof (by omega), Nat.zero_mul, List.drop_zero,
    show groupLen w (vDf w) 2 _ = 32 from if_pos (by simp), List.take_of_length_le (by omega)]

/-- The elements of a target that blocks of 32 are proofed for are at most a byte. -/
theorem bits_le_of_proofable {f : Fmt} (h : proofable f 2 = true) : f.bits ≤ 8 := by
  revert h; cases f <;> decide

/-- Scale bytes that the elements do not reach read as they were stored. -/
theorem scrRead_of_elements_apart {x y : Cluster} {f : Fmt} {a b n : Nat} {vs : List Nat} (hWf : tabWf x.scratch = true)
    (hy : y.scratch = putElems f a 0 vs x.scratch) (hBits : f.bits ≤ 8) (hLen : vs.length ≤ 32) (hn : n ≤ 4)
    (ha : a + 32 ≤ 2097152) (hb : b + 4 ≤ 2097152) (hApart : b + 4 ≤ a ∨ a + 32 ≤ b) : scrRead y b n = scrRead x b n := by
  have hBytes : fmtBytes f 32 ≤ 32 := by
    rw [fmtBytes, ceilDiv, if_neg (by omega)]
    omega
  refine List.map_congr_left fun q hq => ?_
  rw [List.mem_range] at hq
  simp only [scr, hy]
  exact tgetD_putElems_outside hWf (n := 32) (by omega) fun p hp => by omega

/-! VRESCALE. -/

/-- The elements of a VRESCALE from a FIXED record, under the free input scales `sa` and `sb`. -/
def rescaledElems (s : State) (c w : Nat) : List (Nat × Bool) :=
  outInts (vDf w) (rndOf s c 1 (vRnd w && !(vDf w).isInt)) (vNsat w) (outScale s c false (wB w))
    (((scrElems (s.cl c) .int32 (gran (wA w)) (wD w)).map (sext 32)).map fun a =>
      (a, (scaleOf .pi8 (fld (freeAt s 0) 31 0)).1, (scaleOf .pi8 (fld (freeAt s 1) 31 0)).1))

theorem execVrescale_of_fixed {c : Fin 128} (h : unitAt s c.val 1 0x06 w) (hSub : vSub w = 0) :
    exec (.vrescale c) s = .next (retire (converted (taken s c.val w) c.val w (rescaledElems s c.val w)
      (vRnd w && !(vDf w).isInt) 2) c.val 1) := by
  show execVrescale c s = _
  have hFixed : (vSub w == 1) = false := by rw [hSub]; rfl
  rw [execVrescale, issueR_of_unitAt h]
  simp only [hFixed, scrElems_taken, rndOf_taken, outScale_taken]
  rfl

/-- An INT32 sum with its input scales, brought to an integer target with the output record `so` (R62, R63). -/
def rescaledElem (f : Fmt) (so : Scale) (x : Int × Fv × Fv) : Nat × Bool :=
  let m := rescaleFactor x.2.1 x.2.2 so.val
  let k := multShift m.1 m.2
  let y := rescale k.1 k.2 so.zp f.range.1 f.range.2 x.1
  (wrapTo f.bits y.1, y.2)

theorem rescaledElems_of_int {c : Nat} (hInt : (vDf w).isInt = true) : rescaledElems s c w =
    (scrElems (s.cl c) .int32 (gran (wA w)) (wD w)).map fun a => rescaledElem (vDf w) (outScale s c false (wB w))
      (sext 32 a, (scaleOf .pi8 (fld (freeAt s 0) 31 0)).1, (scaleOf .pi8 (fld (freeAt s 1) 31 0)).1) := by
  rw [rescaledElems, outInts, if_pos hInt, List.map_map, List.map_map]
  rfl

end

/-- Settles O31: each word through what it stores, and the clauses' common frame through the lemma on words that convert. -/
theorem conversionsWriteElements : Obligations.ConversionsWriteElements := by
  unfold Obligations.ConversionsWriteElements
  refine ⟨?unscaled, ?fromScaled, ?toScaled, ?proof, ?proofConvert, ?rescale⟩
  case unscaled =>
    intro s c w i h hi _ hSf hDf
    have hv := getElem?_convSource s c.val hi
    rw [hSf, if_neg Bool.false_ne_true] at hv
    exact converts h (execVconv_of_unitAt h) (length_convElems ..) (getElem?_convElems_unscaled s c.val hDf hv)
  case fromScaled =>
    intro s c w i h hi hSf hDf
    have hv := getElem?_convSource s c.val hi
    rw [hSf, if_pos rfl] at hv
    exact converts h (execVconv_of_unitAt h) (length_convElems ..) (getElem?_convElems_unscaled s c.val hDf hv)
  case toScaled =>
    intro s c w i h hShort hi hSf hDf hBlock
    have hScale : convScale s c.val w = groupScale s c.val (vDf w) (gran (wB w)) := by
      funext i; simp [convScale, hSf, hDf]
    have hGroup : groupLen w (vDf w) (vGran w) (wD w) = 32 := if_pos (by rcases hBlock with h | h <;> simp [h])
    have hElems : convElems s c.val w = convGroups (vDf w) (vGran w) (rndOf s c.val 1 (vRnd w)) (vNsat w) 32
        (groupScale s c.val (vDf w) (gran (wB w))) (wD w) (plainSource s c.val w) := by
      rw [convElems_eq, hScale, hGroup, convSource_of_unscaled hSf]
      rfl
    have hLen := length_plainSource s c.val w
    obtain ⟨e, he, hValue⟩ := getElem?_convGroups_single (rnd := rndOf s c.val 1 (vRnd w)) (nsat := vNsat w) hDf
      (Nat.le_of_eq hLen) (by omega) (groupScale s c.val (vDf w) (gran (wB w))) (by rwa [hLen])
    have hRun := converts h (execVconv_of_unitAt h) (length_convElems ..) (by rw [hElems]; exact he)
    rwa [hValue] at hRun
  case proof =>
    intro s c w g h hProof hPi hMx hg
    have hLen := length_plainSource s c.val w
    have hWf := scratch_of_unitAt h
    obtain ⟨hOnly, hCompute, hBehind, hAcc, hInt, hSat, hScr, -, hNonfin⟩ :=
      ((computing_proofed c.val (vGran w)).skipFree (2 * wD w)).retire h.1
    have hScr' := hScr.trans (proofed_scratch c.val (vGran w))
    refine ⟨_, execVproof_of_unitAt h hPi hMx, hOnly, hCompute, hBehind, ?_, hAcc, hInt, hSat, ?_,
      hNonfin.trans (proofed_nonfin ..)⟩
    · intro z hz hOut
      refine scr_of_not_written hWf hScr' hz fun i hi => hOut i ?_
      rwa [length_flatMap_leBytes, length_proofScales, hLen] at hi
    · have hScale := getElem?_proofScales (s := s) (w := w) (vs := plainSource s c.val w) hProof (by rwa [hLen])
      rw [hLen] at hScale
      exact storedScale hWf hScr' (length_scales_lt s c.val w _) hScale
  case proofConvert =>
    intro s c w i h hProof hPi hMx hShort hi hApart hC
    have hLen := length_plainSource s c.val w
    have hWf := scratch_of_unitAt h
    have hProofed := proofed_scratch (s := s) (w := w) c.val 2
    have hWf' : tabWf ((proofed s c.val w 2).cl c.val).scratch = true := hProofed ▸ tabWf_scrWriteT hWf ..
    have hScale := proofScales_of_one_block s (c := c.val) hProof (by omega) hShort
    obtain ⟨hOnly, hCompute, hBehind, hAcc, hInt, hSat, hScr, hConv, -⟩ :=
      ((computing_proofed c.val 2).converted (proofedElems s c.val w) (vRnd w) (2 * wD w)).retire h.1
    have hScr' := hScr.trans converted_scratch
    refine ⟨_, execVpconv_of_unitAt h hPi hMx, hOnly, hCompute, hBehind, hAcc, hInt, hSat, ?_, ?_, ?_⟩
    · rw [hConv.trans converted_satConv, tgetD_tput_same, proofed_satConv, length_proofedElems]
    · have hKept := scrRead_of_elements_apart (b := gran (wB w)) (n := scaleBytes (vDf w)) hWf' hScr'
        (bits_le_of_proofable hProof) (by rw [List.length_map, length_proofedElems]; exact hShort) (scaleBytes_le _)
        (by unfold gran; omega) (by unfold gran; have := wB_lt w; omega) hApart
      have hStored := storedScale hWf hProofed (length_scales_lt s c.val w 2) hScale
      rw [Nat.zero_mul, Nat.add_zero] at hStored
      exact (congrArg leNat hKept).trans hStored
    · obtain ⟨e, he, hValue⟩ := getElem?_convGroups_single (rnd := rndOf s c.val 1 (vRnd w)) (nsat := vNsat w)
        (show scaled (vDf w) 2 = true from hProof) (Nat.le_of_eq hLen) (by omega)
        (fun i => scaleOf (vDf w) ((proofScales s w (vDf w) 2 (plainSource s c.val w)).getD i 0)) (by rwa [hLen])
      have hElem := scrElem_of_converted hWf' (length_proofedElems s c.val w) hScr' he
      rw [hValue, List.getD_eq_getElem?_getD, hScale] at hElem
      exact hElem
  case rescale =>
    intro s c w i h hi hInt hSub
    have hElems := rescaledElems_of_int (s := s) (c := c.val) hInt
    exact converts h (execVrescale_of_fixed h hSub) (by rw [hElems, List.length_map, length_scrElems])
      (by rw [hElems, List.getElem?_map, getElem?_scrElems hi]; rfl)

end Sys2Proof.Machine
end

section
/-!
A filter that is refused while its query is on a walk (R119, R129).
-/
namespace Sys2Proof.Machine

/-- VFILT with the filter program at constant 0. -/
def filterWord : Nat := 0x0B * 2 ^ 120 + 1 * 2 ^ 118

/-- A term on the byte at offset 63 and the one behind it: past the 64 bytes of metadata that a query has without an
index. -/
def pastTerm : Term := 63 * 2 ^ 26 + 2 ^ 24

/-- The vector unit of cluster 0 stands at `filterWord` for query 2, whose walk in context 0 awaits a vector that it has
asked flash for. -/
def walkingState : State :=
  { work.plans := [(0, { bin.consts := [leBytes 16 1, leBytes 16 pastTerm] })]
    work.invs := [(3, { plan := 0, role := 0, part := 0, words := [], qid := some 2 })]
    work.queries := [(2, { at_ := some (0, 0) })]
    work.clusters := [(0, { st := .running, plan := some 0, istore := [[], [filterWord]], units := [(1, { inv := some 3 })]
                            walks := [(0, { qid := 2 })] })]
    flash.jobs := [(jobKey (.rerank 0 0 0), { left := 1 })] }

/-- A filter with a term past the metadata ends its unit's work, refused (R129). -/
theorem execVfilt_of_past {s : State} {c : Fin 128} {w qid : Nat} {terms : List Term} {q : Query}
    (h : unitAt s c.val 1 0x0B w) (hQuery : unitQuery s c.val 1 = some (qid, q))
    (hProg : filterProg (clPlan s c.val).bin.consts (wD w) = some terms)
    (hPast : terms.any (tmPast (queryMeta s q)) = true) :
    exec (.vfilt c) s = .next (failInv (taken s c.val w) c.val 1 (refusal rsFormat)) := by
  show execVfilt c s = _
  have hMeta : queryMeta (taken s c.val w) q = queryMeta s q := rfl
  rw [execVfilt, issueW_of_unitAt h]
  simp only [unitQuery_taken, hQuery, clPlan_taken, hProg, hMeta, hPast, if_true]

theorem unitAt_walkingState : unitAt walkingState 0 1 0x0B filterWord := by decide +kernel

/-- The walk of the query that ends no longer waits for its vector (R119). -/
theorem failInv_walkingState :
    (failInv (taken walkingState 0 filterWord) 0 1 (refusal rsFormat)).flash.jobs = [] := by decide +kernel

/-- Refutes O32: the clause on a refused filter says that flash is as it was, but the query may be on a walk: then the
answers that its walk awaits from flash are dropped with it, in `walkingState` the only one. -/
theorem not_vectorArithmeticAndScans : ¬ Obligations.VectorArithmeticAndScans := by
  rintro ⟨-, -, -, -, -, -, hRefused⟩
  have hQuery : unitQuery walkingState 0 1 = some (2, { at_ := some (0, 0) }) := by decide +kernel
  have hProg : filterProg (clPlan walkingState 0).bin.consts (wD filterWord) = some [pastTerm] := by decide +kernel
  have hRun := execVfilt_of_past (c := 0) unitAt_walkingState hQuery hProg (by decide +kernel)
  obtain ⟨t, ht, -, -, hFlash, -⟩ := hRefused walkingState 0 filterWord [pastTerm] 2 _ unitAt_walkingState hQuery hProg
    ⟨pastTerm, by decide +kernel⟩
  obtain rfl := Host.Outcome.next.inj (hRun.symm.trans ht)
  exact absurd (failInv_walkingState.symm.trans (congrArg (·.jobs) hFlash)) (by decide +kernel)

end Sys2Proof.Machine
end

section
/-!
The capability registers: each reads the fixed fields of its table, and no write meets them (R8, R99, R185, R248, R303, R360,
R454).
-/
namespace Sys2Proof.Machine

theorem pick_one_same (off : Nat) (w : W64) (xs : List (Option W64)) : pick (one off off w :: xs) = w := by
  simp [pick, one]

theorem pick_one_ne {off at_ : Nat} (h : off ≠ at_) (w : W64) (xs : List (Option W64)) :
    pick (one off at_ w :: xs) = pick xs := by simp [pick, one, h]

/-! The register at the front of each block. -/

theorem rdTop_feat (s : State) (p : Nat) (bound : Bool) : rdTop s p 8 bound = 0x0000_0003_0000_00FF#64 := by
  unfold rdTop
  dsimp only
  rw [pick_one_ne (by decide), pick_one_same]
  decide

theorem rdNbs_cap (s : State) (p : Nat) : rdNbs s p 0 = 0x0000_0200_4010_0800#64 := by
  unfold rdNbs
  rw [pick_one_same]
  decide

theorem rdEpo_cap (s : State) (p : Nat) (owner : Bool) : rdEpo s p 0 owner = 0x0000_0200_0802_0040#64 := by
  unfold rdEpo
  dsimp only
  rw [pick_one_same]
  decide

theorem rdFab_cap (s : State) : rdFab s 0 = 0x0000_0200_2002_0440#64 := by
  unfold rdFab
  dsimp only
  rw [pick_one_same]
  decide

theorem rdFls_cap (s : State) (f p : Nat) : rdFls s f p 0 = 0x0000_0200_2008_0804#64 := by
  unfold rdFls
  dsimp only
  rw [pick_one_same]
  decide

theorem rdPmc_cap (s : State) (p : Nat) : rdPmc s p 0 = 0x0000_0200_0804_2030#64 := by
  unfold rdPmc
  dsimp only
  rw [pick_one_same]
  decide

/-! The block that a read reaches, for a function that reaches it. -/

section
variable {s : State} {f : Nat} {off : Nat}

theorem readReg_top (h : reaches s f 0x00 = true) :
    readReg s f 0x00 off = rdTop s (s.fn f).part off (s.fn f).bound := by simp [readReg, h]

theorem readReg_nbs (h : reaches s f 0x03 = true) : readReg s f 0x03 off = rdNbs s (s.fn f).part off := by
  simp [readReg, h]

theorem readReg_epo (h : reaches s f 0x05 = true) :
    readReg s f 0x05 off = rdEpo s (s.fn f).part off (s.fn f).owner := by simp [readReg, h]

theorem readReg_fab (h : reaches s f 0x07 = true) : readReg s f 0x07 off = rdFab s off := by simp [readReg, h]

theorem readReg_fls (h : reaches s f 0x09 = true) : readReg s f 0x09 off = rdFls s f (s.fn f).part off := by
  simp [readReg, h]

theorem readReg_pmc (h : reaches s f 0x0F = true) : readReg s f 0x0F off = rdPmc s (s.fn f).part off := by
  simp [readReg, h]

end

/-! A write at offset 0 meets no writable register of these blocks. -/

theorem wrEpo_cap (s : State) (f p : Nat) (v m : W64) : wrEpo s f p 0 v m = s := by
  have hCkpt : inst 0 0x208 0x10 32 = none := inst_none (by omega)
  simp only [wrEpo, hCkpt, show ¬ (0 = 0x600 + 8 * p) by omega, if_false]

theorem wrFab_cap (s : State) (f : Nat) (v m : W64) : wrFab s f 0 v m = s := by
  have hCtl : inst 0 0x108 0x20 32 = none := inst_none (by omega)
  simp only [wrFab, hCtl]

theorem wrFls_cap (s : State) (f p : Nat) (v m : W64) : wrFls s f p 0 v m = s := by
  have hModule : inst 0 0x108 0x10 8 = none := inst_none (by omega)
  simp only [wrFls, hModule, show ¬ (0 = 0x30) by omega, show ¬ (0 = 0x600 + 8 * p) by omega, if_false]

theorem wrPmc_cap (s : State) (p : Nat) (v m : W64) : wrPmc s p 0 v m = s := by
  have h0 : inst 0 0x1000 0x10 2048 = none := inst_none (by omega)
  have h1 : inst 0 0x1008 0x10 2048 = none := inst_none (by omega)
  have h2 : inst 0 0x10000 0x10 2048 = none := inst_none (by omega)
  have h3 : inst 0 0x10008 0x10 2048 = none := inst_none (by omega)
  simp only [wrPmc, instIf_none h0, instIf_none h1, instIf_none h2, instIf_none h3, show ¬ (0 = 0x20000 + 0x20 * p) by omega,
    show ¬ (0 = 0x20008 + 0x20 * p) by omega, show ¬ (0 = 0x20010 + 0x20 * p) by omega, decide_false, Bool.false_and,
    Bool.false_eq_true, if_false]

section
variable {s : State} {fn : Fin 64} {v m : W64}

theorem writeReg_nbs_cap (h : reaches s fn.val 0x03 = true) : writeReg s fn 0x03 0 v m = s := by
  simp [writeReg, h, show ¬ (0 = 0x600 + 8 * (s.fn fn.val).part) by omega]

theorem writeReg_fab (h : reaches s fn.val 0x07 = true) {off : Nat} :
    writeReg s fn 0x07 off v m = wrFab s fn.val off v m := by
  simp [writeReg, h]

end

/-- A block that leaves an offset alone does so for every function: one that does not reach it writes nothing. -/
theorem writeReg_of_reaches {s : State} {fn : Fin 64} {blk off : Nat} {v m : W64}
    (h : reaches s fn.val blk = true → writeReg s fn blk off v m = s) : writeReg s fn blk off v m = s := by
  by_cases hr : reaches s fn.val blk = true
  · exact h hr
  · exact writeReg_of_not_reaches (by simpa using hr) ..

theorem execRegisterWrite_front {s : State} {fn : Fin 64} {blk : Nat} (hb : blk < 32) {v : W64}
    (h : reaches s fn.val blk = true → writeReg s fn blk 0 v (maskOf 63 0) = s) :
    exec (.registerWrite fn (blk * 0x80000 + 0) 8 v) s = .next s := by
  rw [execRegisterWrite_whole (blk := blk) (off := 0) (by omega) hb (by omega) (by omega), writeReg_of_reaches h]

/-- Settles O6: each register's fields from its block's front entry, and the write that meets none. -/
theorem capabilityRegistersAreFixed : Obligations.CapabilityRegistersAreFixed := by
  unfold Obligations.CapabilityRegistersAreFixed
  refine ⟨?readTop, ?readNbs, ?readEpo, ?readFab, ?readFls, ?readPmc, ?writeTop, ?writeNbs, ?writeEpo, ?writeFab,
    ?writeFls, ?writePmc⟩
  case readTop => exact fun s f h => (readReg_top h).trans (rdTop_feat ..)
  case readNbs => exact fun s f h => (readReg_nbs h).trans (rdNbs_cap ..)
  case readEpo => exact fun s f h => (readReg_epo h).trans (rdEpo_cap ..)
  case readFab => exact fun s f h => (readReg_fab h).trans (rdFab_cap ..)
  case readFls => exact fun s f h => (readReg_fls h).trans (rdFls_cap ..)
  case readPmc => exact fun s f h => (readReg_pmc h).trans (rdPmc_cap ..)
  case writeTop =>
    intro s fn v
    rw [execRegisterWrite_whole (blk := 0) (off := 8) (by omega) (by omega) (by omega) (by omega), writeReg_top]
  case writeNbs => exact fun s fn v => execRegisterWrite_front (by omega) writeReg_nbs_cap
  case writeEpo => exact fun s fn v => execRegisterWrite_front (by omega) fun h => (writeReg_epo h).trans (wrEpo_cap ..)
  case writeFab => exact fun s fn v => execRegisterWrite_front (by omega) fun h => (writeReg_fab h).trans (wrFab_cap ..)
  case writeFls => exact fun s fn v => execRegisterWrite_front (by omega) fun h => (writeReg_fls h).trans (wrFls_cap ..)
  case writePmc => exact fun s fn v => execRegisterWrite_front (by omega) fun h => (writeReg_pmc h).trans (wrPmc_cap ..)

end Sys2Proof.Machine
end

section
/-!
Invocations in the input queues of clusters, and the units that take them: INVOCATION_ARRIVE, NEXT and HALT (R82, R83).
-/
namespace Sys2Proof.Machine

/-! The units of a cluster. -/

theorem unit_setUnit_ne (x : Cluster) {u k : Nat} (h : k ≠ u) (y : UnitSt) : (x.setUnit u y).unit k = x.unit k :=
  tgetD_tput_ne _ _ _ _ _ h

theorem list_setUnit (x : Cluster) (u k : Nat) (y : UnitSt) : (x.setUnit u y).list k = x.list k := rfl

theorem list_nonempty_of_word {x : Cluster} {u w : Nat} (h : x.word u = some w) : (x.list u).isEmpty = false := by
  cases hList : x.list u with
  | nil => simp [Cluster.word, hList] at h
  | cons a as => rfl

/-- Whether a unit stands at NEXT depends on its list and its own state. -/
theorem atNext_congr {x y : Cluster} {k : Nat} (hList : y.list k = x.list k) (hUnit : y.unit k = x.unit k) :
    atNext y k = atNext x k := by simp only [atNext, Cluster.word, hList, hUnit]

/-! Arrival. -/

/-- An invocation at the end of a cluster's input queue. -/
def Cluster.entered (x : Cluster) (i : Nat) : Cluster := { x with input := x.input ++ [i] }

theorem enterInv_eq (s : State) (i : Nat) (v : Inv) : enterInv s i v =
    (placeInv s v).foldl (fun t c => t.setCl c ((t.cl c).entered i))
      { s with work.invs := tput s.work.invs i { v with state := .running, left := placeInv s v } } := rfl

theorem foldl_entered (i : Nat) {cs : List Nat} (h : cs.Nodup) (s : State) :
    (∃ clusters, cs.foldl (fun t c => t.setCl c ((t.cl c).entered i)) s = { s with work.clusters := clusters }) ∧
    ∀ k, (cs.foldl (fun t c => t.setCl c ((t.cl c).entered i)) s).cl k =
      if k ∈ cs then (s.cl k).entered i else s.cl k := by
  induction cs generalizing s with
  | nil => exact ⟨⟨_, rfl⟩, fun k => by simp⟩
  | cons c cs ih =>
    obtain ⟨hc, hcs⟩ := List.nodup_cons.mp h
    obtain ⟨⟨clusters, hOnly⟩, hCl⟩ := ih hcs (s.setCl c ((s.cl c).entered i))
    refine ⟨⟨clusters, by rw [List.foldl_cons, hOnly]; rfl⟩, fun k => ?_⟩
    rw [List.foldl_cons, hCl k]
    by_cases hk : k = c
    · subst hk; simp [hc]
    · simp [hk, State.cl_setCl_ne _ _ _ _ hk]

theorem execInvocationArrive_of_one {s : State} {slot : Fin 256} {role : Fin 128} {i : Nat} {v : Inv}
    (hNe : roleClusters s slot.val role.val ≠ [])
    (hHere : (s.work.invs.filter fun kv => kv.2.plan = slot.val && kv.2.role = role.val && kv.2.state == .arriving) =
      [(i, v)]) :
    exec (.invocationArrive slot role) s = .next (enterInv s i v) ∧ v.plan = slot.val ∧ v.role = role.val := by
  have hMem : (i, v) ∈ s.work.invs.filter fun kv =>
      kv.2.plan = slot.val && kv.2.role = role.val && kv.2.state == .arriving := by rw [hHere]; exact List.mem_singleton_self _
  simp only [List.mem_filter, Bool.and_eq_true, decide_eq_true_eq] at hMem
  obtain ⟨-, ⟨hPlan, hRole⟩, -⟩ := hMem
  have hSome : (roleClusters s slot.val role.val).isEmpty = false := by simpa using hNe
  refine ⟨?_, hPlan, hRole⟩
  show execInvocationArrive slot role s = _
  simp only [execInvocationArrive, hSome, Bool.false_eq_true, if_false, hHere, List.foldl_cons, List.foldl_nil]

/-- The element that lies below every other is the least one. -/
theorem leastBy_of_least {α : Type} {lt : α → α → Bool} {xs : List α} {k : α} (hk : k ∈ xs)
    (h : ∀ j ∈ xs, j = k ∨ lt k j = true ∧ lt j k = false) : leastBy lt xs = some k := by
  obtain _ | ⟨x, xs⟩ := xs
  · cases hk
  · refine congrArg some ?_
    induction xs generalizing x with
    | nil => exact (List.mem_singleton.mp hk).symm
    | cons y ys ih =>
      have hx := h x (by simp)
      have hy := h y (by simp)
      have hys : ∀ j ∈ ys, j = k ∨ lt k j = true ∧ lt j k = false := fun j hj => h j (by simp [hj])
      rw [List.foldl_cons]
      by_cases hLt : lt y x = true
      · rw [if_pos hLt]
        refine ih y ?_ fun j hj => (List.mem_cons.mp hj).elim (fun e => e ▸ hy) (hys j)
        rcases List.mem_cons.mp hk with rfl | hk
        · rcases hy with rfl | ⟨-, hNot⟩
          · simp
          · exact absurd hLt (by simp [hNot])
        · exact hk
      · rw [if_neg hLt]
        refine ih x ?_ fun j hj => (List.mem_cons.mp hj).elim (fun e => e ▸ hx) (hys j)
        rcases List.mem_cons.mp hk with rfl | hk
        · simp
        · rcases List.mem_cons.mp hk with rfl | hk
          · rcases hx with rfl | ⟨hYes, -⟩
            · simp
            · exact absurd hYes hLt
          · simp [hk]

theorem placeInv_of_invoke {s : State} {v : Inv} (h : v.qid = none) : placeInv s v = roleClusters s v.plan v.role := by
  simp [placeInv, h]

theorem placeInv_of_query {s : State} {v : Inv} {k : Nat} (h : v.qid ≠ none) (hk : k ∈ roleClusters s v.plan v.role)
    (hShort : ∀ j ∈ roleClusters s v.plan v.role, j = k ∨ (s.cl k).input.length < (s.cl j).input.length) :
    placeInv s v = [k] := by
  have hLeast : leastBy (fun a b => decide ((s.cl a).input.length < (s.cl b).input.length))
      (roleClusters s v.plan v.role) = some k :=
    leastBy_of_least hk fun j hj => (hShort j hj).imp_right fun hlt => by
      simp only [decide_eq_true_eq, decide_eq_false_iff_not]; omega
  have hQuery : v.qid.isNone = false := by simpa [Option.isSome_iff_ne_none] using h
  simp only [placeInv, hQuery, Bool.false_eq_true, if_false, hLeast]

/-! What follows a word on its cluster: invocations that have run to their end, and the end of the role. -/

theorem checkDone_of_no_input {s : State} {c : Nat} (h : (s.cl c).input = []) : checkDone s c = s := by
  simp [checkDone, h]

/-- A unit that works on the first invocation has finished none, and so none leaves the cluster. -/
theorem checkDone_of_unit_at_first {s : State} {c u : Nat} (hu : u < 4) (hList : ((s.cl c).list u).isEmpty = false)
    (hTaken : ((s.cl c).unit u).taken = 1) (hInv : ((s.cl c).unit u).inv ≠ none)
    (hHalted : ((s.cl c).unit u).halted = false) : checkDone s c = s := by
  have hPast (k : Nat) : unitPast (s.cl c) u k = false := by
    have hSome : ((s.cl c).unit u).inv.isNone = false := by simpa [Option.isSome_iff_ne_none] using hInv
    simp [unitPast, hList, hTaken, hSome, hHalted]
  have hNone : (List.range (s.cl c).input.length).filter (fun k => (List.range 4).all fun o => unitPast (s.cl c) o k) = [] := by
    simp only [List.filter_eq_nil_iff, List.all_eq_true, List.mem_range]
    exact fun k _ hAll => absurd (hAll u hu) (by simp [hPast])
  simp only [checkDone, hNone, List.foldl_nil]

theorem haltDone_of_none_halted {s : State} {c : Nat} (h : ∀ k < 4, ((s.cl c).unit k).halted = false) : haltDone s c = s := by
  have hAny : (List.range 4).any (fun u => ((s.cl c).unit u).halted) = false := by simpa using h
  simp [haltDone, hAny]

theorem haltDone_of_not_at_next {s : State} {c k : Nat} (hk : k < 4) (h : atNext (s.cl c) k = false) : haltDone s c = s := by
  have hAll : (List.range 4).all (atNext (s.cl c)) = false := by
    rw [List.all_eq_false]; exact ⟨k, List.mem_range.mpr hk, by simp [h]⟩
  simp [haltDone, hAll]

theorem haltDone_of_ended {s : State} {c u : Nat} (hu : u < 4) (hHalted : ((s.cl c).unit u).halted = true)
    (h : ∀ k < 4, atNext (s.cl c) k = true) : haltDone s c = endRole s c := by
  have hAny : (List.range 4).any (fun u => ((s.cl c).unit u).halted) = true :=
    List.any_eq_true.mpr ⟨u, List.mem_range.mpr hu, hHalted⟩
  have hAll : (List.range 4).all (atNext (s.cl c)) = true :=
    List.all_eq_true.mpr fun k hk => h k (List.mem_range.mp hk)
  simp [haltDone, hAny, hAll]

/-- A role's set without a cluster. -/
def RoleEnt.without (r : RoleEnt) (c : Nat) : RoleEnt := { r with clusters := r.clusters.filter (· != c) }

/-- The state in which cluster `c` has left the roles of a plan (R83). -/
def withoutCluster (s : State) (slot c : Nat) : State :=
  { s with work.plans := tupd s.work.plans slot fun p =>
    { p with bin := { p.bin with roles := p.bin.roles.map (RoleEnt.without · c) } } }

/-- A role that ends on a cluster with no work left there: the cluster leaves its plan's roles and is idle (R83). -/
theorem endRole_of_no_work {s : State} {c slot : Nat} (hPlan : (s.cl c).plan = some slot)
    (hWork : ∀ p ∈ s.work.invs, c ∉ p.2.left) :
    endRole s c = (withoutCluster s slot c).setCl c { (s.cl c).clearUnits with st := .idle } := by
  have hNone : (s.work.invs.filter fun kv => kv.2.left.contains c) = [] := by
    simpa [List.filter_eq_nil_iff] using fun a b h => hWork (a, b) h
  simp only [endRole, hPlan]
  show ((s.work.invs.filter fun kv => kv.2.left.contains c).map (·.1)).foldl _ _ = _
  rw [hNone]
  rfl

theorem not_mem_roleClusters_withoutCluster {s t : State} {slot c : Nat}
    (h : t.work.plans = (withoutCluster s slot c).work.plans) (role : Nat) : c ∉ roleClusters t slot role := by
  have hRoles : (tgetD t.work.plans slot {}).bin.roles =
      (tgetD s.work.plans slot {}).bin.roles.map (RoleEnt.without · c) := by
    rw [h, withoutCluster, tupd]
    cases hGet : tget? s.work.plans slot with
    | none => simp [tgetD, hGet]
    | some p => simp [tgetD, hGet]
  simp only [roleClusters, hRoles]
  cases hFind : List.find? (fun r => decide (r.role = role))
      ((tgetD s.work.plans slot {}).bin.roles.map (RoleEnt.without · c)) with
  | none => simp
  | some r =>
    obtain ⟨r0, -, rfl⟩ := List.mem_map.mp (List.mem_of_find?_eq_some hFind)
    simp [RoleEnt.without]

/-! NEXT. -/

theorem nextInput_of_empty {s : State} {x : Cluster} (h : x.input = []) (k : Nat) : nextInput s x k = none := by
  simp [nextInput, h]

theorem nextInput_of_first {s : State} {x : Cluster} {i : Nat} {v : Inv} (hPlan : clUnloading s x = false)
    (hHead : x.input.head? = some i) (hv : tget? s.work.invs i = some v) : nextInput s x 0 = some (0, i, v) := by
  obtain ⟨rest, hInput⟩ := List.head?_eq_some_iff.mp hHead
  simp [nextInput, hPlan, hInput, List.range_succ_eq_map, hv]

/-- A unit of a cluster without invocations idles at NEXT (R83, R91). -/
def Cluster.idled (x : Cluster) (u : Nat) (unloading : Bool) : Cluster :=
  x.setUnit u { x.unit u with inv := none, wait := .next, taken := if unloading then (x.unit u).taken else 0 }

theorem nextOp_of_empty {s : State} {c : Nat} (u : Nat) (h : (s.cl c).input = []) :
    nextOp s c u = s.setCl c ((s.cl c).idled u (clUnloading s (s.cl c))) := by
  simp only [nextOp, nextInput_of_empty h, h, List.length_nil, Cluster.idled]
  exact checkDone_of_no_input (by rw [State.cl_setCl_same]; exact h)

/-- The first unit of a cluster that takes an invocation zeroes the tokens and starts the draws anew (R80, R83). -/
def Cluster.tookFirst (x : Cluster) (u i : Nat) (v : Inv) : Cluster :=
  { x with tokens := [], draws := [] }.setUnit u
    { x.unit u with taken := 1, inv := some i, words := v.words, wait := .none }

theorem nextOp_of_first {s : State} {c u w i : Nat} {v : Inv} (hu : u < 4) (hWord : (s.cl c).word u = some w)
    (hEnd : wLast w = false ∨ 2 ≤ u) (hPlan : clUnloading s (s.cl c) = false) (hHead : (s.cl c).input.head? = some i)
    (hv : tget? s.work.invs i = some v)
    (hNew : ∀ k < 4, ((s.cl c).unit k).halted = false ∧ ((s.cl c).unit k).taken = 0) :
    nextOp s c u = s.setCl c (((s.cl c).tookFirst u i v).retired u w) := by
  obtain ⟨hHalted, hTaken⟩ := hNew u hu
  have hFirst : ((List.range 4).all fun o => decide (((s.cl c).unit o).taken ≤ 0)) = true :=
    List.all_eq_true.mpr fun o ho => by simp [(hNew o (List.mem_range.mp ho)).2]
  have hWord' : ((s.cl c).tookFirst u i v).word u = some w := by
    rw [← hWord, Cluster.word, Cluster.tookFirst, unit_setUnit_same]; rfl
  have hTake : takeInv s c u 0 i v = s.setCl c (((s.cl c).tookFirst u i v).retired u w) := by
    simp only [takeInv, hFirst, if_true]
    rw [retire_of_no_end (w := w) (by rw [State.cl_setCl_same]; exact hWord') hEnd, State.cl_setCl_same, State.setCl_setCl]
    rfl
  simp only [nextOp, hTaken, nextInput_of_first hPlan hHead hv, hTake]
  have hUnit : (((s.cl c).tookFirst u i v).retired u w).unit u = { (s.cl c).unit u with
      taken := 1, inv := some i, words := v.words, pc := nextPc ((s.cl c).list u).length ((s.cl c).unit u).pc
      wait := .none } := by
    rw [Cluster.retired_unit, Cluster.tookFirst, unit_setUnit_same]; rfl
  refine checkDone_of_unit_at_first hu ?_ ?_ ?_ ?_ <;> rw [State.cl_setCl_same]
  · exact list_nonempty_of_word (x := s.cl c) hWord
  · rw [hUnit]
  · rw [hUnit]; simp
  · rw [hUnit]; exact hHalted

/-- NEXT at a ready unit: what it does, and whether the role ends with it. -/
theorem execNext_of_unitAt {s : State} {c : Fin 128} {u : Fin 4} {w : Nat} (h : unitAt s c.val u.val 0xF8 w) :
    exec (.next c u) s = .next (haltDone (nextOp (taken s c.val w) c.val u.val) c.val) := by
  obtain ⟨-, -, -, hWait, -⟩ := id h
  have hNot : (((s.cl c.val).unit u.val).wait == .next) = false := by rw [hWait]; rfl
  show execNext c u s = _
  simp only [execNext, hNot, Bool.false_eq_true, if_false, issue_of_unitAt h, Option.getD_some]

theorem execNext_of_empty {s : State} {c : Fin 128} {u : Fin 4} {w : Nat} (h : unitAt s c.val u.val 0xF8 w)
    (hTok : wWaitt w = 0) (hInput : (s.cl c.val).input = []) (hHalted : ∀ k < 4, ((s.cl c.val).unit k).halted = false) :
    exec (.next c u) s = .next (s.setCl c.val ((s.cl c.val).idled u.val (clUnloading s (s.cl c.val)))) := by
  have hCl : (s.setCl c.val (s.cl c.val)).cl c.val = s.cl c.val := State.cl_setCl_same ..
  rw [execNext_of_unitAt h, taken_of_no_tokens hTok, nextOp_of_empty u.val (by rw [hCl]; exact hInput), hCl,
    State.setCl_setCl, haltDone_of_none_halted]
  · rfl
  · intro k hk
    rw [State.cl_setCl_same, Cluster.idled]
    by_cases hku : k = u.val
    · subst hku; rw [unit_setUnit_same]; exact hHalted u.val u.isLt
    · rw [unit_setUnit_ne _ hku]; exact hHalted k hk

theorem execNext_of_first {s : State} {c : Fin 128} {u : Fin 4} {w i : Nat} {v : Inv} (h : unitAt s c.val u.val 0xF8 w)
    (hTok : wWaitt w = 0) (hEnd : wLast w = false ∨ 2 ≤ u.val) (hHead : (s.cl c.val).input.head? = some i)
    (hv : tget? s.work.invs i = some v) (hPlan : clUnloading s (s.cl c.val) = false)
    (hNew : ∀ k < 4, ((s.cl c.val).unit k).halted = false ∧ ((s.cl c.val).unit k).taken = 0) :
    exec (.next c u) s = .next (s.setCl c.val (((s.cl c.val).tookFirst u.val i v).retired u.val w)) := by
  have hCl : (s.setCl c.val (s.cl c.val)).cl c.val = s.cl c.val := State.cl_setCl_same ..
  obtain ⟨hWord, -⟩ := id h
  rw [execNext_of_unitAt h, taken_of_no_tokens hTok, nextOp_of_first (s := s.setCl c.val (s.cl c.val)) u.isLt
    (by rw [hCl]; exact hWord) hEnd (by rw [hCl]; exact hPlan) (by rw [hCl]; exact hHead) hv (by rw [hCl]; exact hNew), hCl,
    State.setCl_setCl, haltDone_of_none_halted]
  intro k hk
  rw [State.cl_setCl_same]
  by_cases hku : k = u.val
  · subst hku
    rw [Cluster.retired_unit, Cluster.tookFirst, unit_setUnit_same]
    exact (hNew u.val u.isLt).1
  · rw [Cluster.retired, Cluster.unit, tgetD_tput_ne _ _ _ _ _ hku]
    exact (congrArg UnitSt.halted (unit_setUnit_ne _ hku _)).trans (hNew k hk).1

/-! HALT. -/

/-- Unit `u` has run its list to HALT, at word `pc` (R83). -/
def Cluster.haltedAt (x : Cluster) (u pc : Nat) : Cluster :=
  x.setUnit u { x.unit u with pc := pc, inv := none, halted := true }

/-- HALT completes and its unit stays where it stands (R83). -/
def haltUnit (s : State) (c u : Nat) : State :=
  (retire s c u).setCl c (((retire s c u).cl c).haltedAt u ((s.cl c).unit u).pc)

theorem atNext_haltedAt_ne (x : Cluster) {u k : Nat} (h : k ≠ u) (pc : Nat) : atNext (x.haltedAt u pc) k = atNext x k :=
  atNext_congr rfl (unit_setUnit_ne _ h _)

theorem atNext_haltedAt_same (x : Cluster) (u pc : Nat) : atNext (x.haltedAt u pc) u = true := by
  simp [atNext, Cluster.haltedAt, unit_setUnit_same]

/-- What HALT leaves of its cluster: its unit has halted, the other units and the input are as they were. -/
theorem haltUnit_frame {s : State} {c u w : Nat} (h : (s.cl c).word u = some w) : ∃ x pmc,
    haltUnit s c u = { s.setCl c x with pmc := pmc } ∧ x.input = (s.cl c).input ∧ x.plan = (s.cl c).plan ∧
      (x.unit u).halted = true ∧ atNext x u = true ∧ ∀ k, k ≠ u → atNext x k = atNext (s.cl c) k := by
  obtain ⟨conv, evt, pmc, hRetire⟩ := retire_frame h
  have hCl : (retire s c u).cl c = { (s.cl c).retired u w with conv := conv, satEvt := evt } := by
    rw [hRetire]; exact State.cl_setCl_same ..
  have hOther : ∀ k, k ≠ u → atNext ((retire s c u).cl c) k = atNext (s.cl c) k := fun k hk => by
    rw [hCl]; exact atNext_congr rfl (tgetD_tput_ne _ _ _ _ _ hk)
  refine ⟨((retire s c u).cl c).haltedAt u ((s.cl c).unit u).pc, pmc, ?_, ?_, ?_, ?_, atNext_haltedAt_same .., fun k hk => ?_⟩
  · rw [haltUnit, hRetire]
    exact congrArg (fun t : State => { t with pmc := pmc }) (State.setCl_setCl ..)
  · rw [hCl]; rfl
  · rw [hCl]; rfl
  · rw [Cluster.haltedAt, unit_setUnit_same]
  · rw [atNext_haltedAt_ne _ hk, hOther k hk]

theorem haltUnit_of_quietWord {s : State} {c u : Nat} (h : quietWord (s.cl c) u) : haltUnit s c u =
    s.setCl c ((s.cl c).setUnit u { (s.cl c).unit u with inv := none, halted := true, wait := .none }) := by
  rw [haltUnit, retire_of_quietWord h, unitTo, State.cl_setCl_same, State.setCl_setCl, Cluster.haltedAt,
    unit_setUnit_same, setUnit_setUnit]

theorem execHalt_of_unitAt {s : State} {c : Fin 128} {u : Fin 4} {w : Nat} (h : unitAt s c.val u.val 0xFF w) :
    exec (.halt c u) s = .next (haltDone (checkDone (haltUnit (taken s c.val w) c.val u.val) c.val) c.val) := by
  show execHalt c u s = _
  rw [execHalt, issue_of_unitAt h]
  rfl

/-- HALT while another unit still works. -/
theorem execHalt_of_others_busy {s : State} {c : Fin 128} {u : Fin 4} {w k : Nat} (h : unitAt s c.val u.val 0xFF w)
    (hTok : wWaitt w = 0) (hQuiet : quietWord (s.cl c.val) u.val) (hInput : (s.cl c.val).input = []) (hk : k < 4)
    (hne : k ≠ u.val) (hBusy : atNext (s.cl c.val) k = false) :
    exec (.halt c u) s = .next (s.setCl c.val ((s.cl c.val).setUnit u.val
      { (s.cl c.val).unit u.val with inv := none, halted := true, wait := .none })) := by
  have hCl : (s.setCl c.val (s.cl c.val)).cl c.val = s.cl c.val := State.cl_setCl_same ..
  rw [execHalt_of_unitAt h, taken_of_no_tokens hTok, haltUnit_of_quietWord (by rw [hCl]; exact hQuiet), hCl,
    State.setCl_setCl, checkDone_of_no_input (by rw [State.cl_setCl_same]; exact hInput), haltDone_of_not_at_next hk]
  rw [State.cl_setCl_same, ← hBusy]
  exact atNext_congr rfl (unit_setUnit_ne _ hne _)

/-- HALT of the last unit that worked: the role ends on the cluster (R83). -/
theorem execHalt_of_others_done {s : State} {c : Fin 128} {u : Fin 4} {w slot : Nat} (h : unitAt s c.val u.val 0xFF w)
    (hInput : (s.cl c.val).input = []) (hDone : ∀ k < 4, k ≠ u.val → atNext (s.cl c.val) k = true)
    (hPlan : (s.cl c.val).plan = some slot) (hWork : ∀ p ∈ s.work.invs, c.val ∉ p.2.left) :
    ∃ (x : Cluster) (pmc : PmcSt), exec (.halt c u) s =
      .next { (withoutCluster s slot c.val).setCl c.val { x with st := .idle } with pmc := pmc } := by
  obtain ⟨hWord, -⟩ := id h
  obtain ⟨x, pmc, hHalt, hInput', hPlan', hHalted, hSelf, hOthers⟩ := haltUnit_frame (s := taken s c.val w) (c := c.val)
    (u := u.val) (w := w) (by rw [word_taken]; exact hWord)
  rw [taken_cl] at hInput' hPlan' hOthers
  rw [taken, State.setCl_setCl] at hHalt
  have hCl : State.cl { s.setCl c.val x with pmc := pmc } c.val = x := State.cl_setCl_same ..
  refine ⟨x.clearUnits, pmc, ?_⟩
  rw [execHalt_of_unitAt h, taken, hHalt, checkDone_of_no_input (by rw [hCl]; exact hInput'.trans hInput),
    haltDone_of_ended u.isLt (by rw [hCl]; exact hHalted),
    endRole_of_no_work (s := { s.setCl c.val x with pmc := pmc }) (by rw [hCl]; exact hPlan'.trans hPlan) hWork, hCl]
  · exact congrArg (fun t : State => Host.Outcome.next { t with pmc := pmc })
      (State.setCl_setCl (withoutCluster s slot c.val) c.val x _)
  · intro k hk
    rw [hCl]
    by_cases hku : k = u.val
    · subst hku; exact hSelf
    · exact (hOthers k hku).trans (hDone k hk hku)

/-- Settles O28: an arrival through the clusters that it places, NEXT and HALT through their equations. -/
theorem unitsTakeInvocationsInTurn : Obligations.UnitsTakeInvocationsInTurn := by
  unfold Obligations.UnitsTakeInvocationsInTurn
  refine ⟨?invoke, ?query, ?idles, ?takes, ?halts, ?ends⟩
  case invoke =>
    intro s slot role i v hNe hNodup hHere hQuery
    obtain ⟨hExec, hPlan, hRole⟩ := execInvocationArrive_of_one hNe hHere
    have hPlace : placeInv s v = roleClusters s slot.val role.val := by rw [placeInv_of_invoke hQuery, hPlan, hRole]
    rw [enterInv_eq, hPlace] at hExec
    obtain ⟨⟨clusters, hOnly⟩, hCl⟩ := foldl_entered i hNodup { s with
      work.invs := tput s.work.invs i { v with state := .running, left := roleClusters s slot.val role.val } }
    refine ⟨_, hExec, ?_, hCl, ?_⟩
    · rw [hOnly]; exact tget?_tput_same ..
    · rw [hOnly]
  case query =>
    intro s slot role i q k v hNe hHere hQuery hk hShort
    obtain ⟨hExec, hPlan, hRole⟩ := execInvocationArrive_of_one hNe hHere
    rw [hExec, enterInv_eq, placeInv_of_query (k := k) (by simp [hQuery]) (by rw [hPlan, hRole]; exact hk)
      (by rw [hPlan, hRole]; exact hShort)]
    rfl
  case idles => exact fun s c u w h hTok hInput hHalted => execNext_of_empty h hTok hInput hHalted
  case takes =>
    intro s c u w i v h hTok hEnd hHead hv hPlan hNew
    rw [execNext_of_first h hTok hEnd hHead hv hPlan hNew, Cluster.retired, Cluster.tookFirst, unit_setUnit_same]
    simp only [Cluster.setUnit, tput_tput_same]
    rfl
  case halts =>
    rintro s c u w h hTok hSig hEnd hInput ⟨k, hk, hne, hBusy⟩
    exact execHalt_of_others_busy h hTok ⟨w, h.1, hSig, hEnd⟩ hInput hk hne hBusy
  case ends =>
    intro s c u w slot h hInput hDone hPlan hWork _
    obtain ⟨x, pmc, hExec⟩ := execHalt_of_others_done h hInput hDone hPlan hWork
    refine ⟨_, hExec, ?_, ?_, fun k hk => State.cl_setCl_ne _ _ _ _ hk, rfl, rfl, rfl, rfl, rfl, rfl, rfl, rfl⟩
    · exact congrArg Cluster.st (State.cl_setCl_same ..)
    · exact not_mem_roleClusters_withoutCluster (s := s) rfl _

end Sys2Proof.Machine
end

section
/-!
INVOKE, the start barrier of a plan with START_AT, and the deadlines of invocations (R94, R98, R273, R377).
-/
namespace Sys2Proof.Machine

theorem tupd_of_listed {α : Type} {t : Tab α} {k : Nat} {a : α} (h : tget? t k = some a) (f : α → α) :
    tupd t k f = tput t k (f a) := by simp only [tupd, h]

theorem tgetD_of_listed {α : Type} {t : Tab α} {k : Nat} {a : α} (h : tget? t k = some a) (d : α) : tgetD t k d = a := by
  simp only [tgetD, h, Option.getD_some]

/-! INVOKE. -/

theorem planReasons_of_admitted {s : State} {part slot role : Nat} {x : Plan} (hx : tget? s.work.plans slot = some x)
    (hPart : x.part = part) (hState : x.state = .admitted) (hRole : ∃ r ∈ x.bin.roles, r.role = role) :
    planReasons s part slot role = 0 := by
  have hAny : (x.bin.roles.any fun r => decide (r.role = role)) = true := by simpa using hRole
  simp [planReasons, hx, hPart, hState, hAny, reasons]

/-- The 16 words that an INVOKE brings behind its descriptor (R377). -/
def invokeWords (c : Cmd) : List Nat := (List.range 16).map fun i => getLE c.bytes (128 + 8 * i) 8

/-- The step that an INVOKE uses: the next one of its slot, or the one it gives (R273). -/
def invokeStep (c : Cmd) (x : Plan) : Nat :=
  if getLE c.bytes 0x10 8 = 2 ^ 64 - 1 then (x.step + 1) % 2 ^ 64 else getLE c.bytes 0x10 8

/-- The invocation that an INVOKE makes of a plan (R83, R98, R377). -/
def invoked (c : Cmd) (cid : Nat) (x : Plan) : Inv :=
  { plan := getLE c.bytes 0x20 1, role := getLE c.bytes 0x21 1, part := c.part
    words := if c.flags = 1 then (invokeWords c).set 15 c.stamp else invokeWords c
    cid := some cid, stamp := c.stamp, step := invokeStep c x
    deadline := if getLE c.bytes 0x1C 4 = 0 then none else some (c.stamp + getLE c.bytes 0x1C 4), fn := c.fn
    outAddr := getLE c.bytes 8 8, outLen := getLE c.bytes 0x18 4
    state := if x.bin.startAt then .held else .arriving
    startT := if x.bin.startAt then some ((invokeWords c).headD 0) else none }

/-- The ingress stamp replaces the last word, never the first. -/
theorem headD_stamped (c : Cmd) : ((invokeWords c).set 15 c.stamp).headD 0 = (invokeWords c).headD 0 := rfl

theorem bitOf_zero_of_flag {n : Nat} (h : n < 2) : bitOf n 0 = decide (n = 1) := by
  obtain rfl | rfl : n = 0 ∨ n = 1 := by omega
  · rfl
  · rfl

theorem noteStep_of_listed {s : State} {slot : Nat} {x : Plan} (hx : tget? s.work.plans slot = some x) (n : Nat)
    (given : Bool) : noteStep s slot n given =
      { s with work.plans := tput s.work.plans slot { x with step := if given then x.step else n, shown := n } } := by
  rw [noteStep, tupd_of_listed hx]

theorem execInvoke_of_admitted {s : State} {cid : Nat} {c : Cmd} {x : Plan} (hc : cmdOf s cid 0x12 = some c)
    (hFlags : c.flags < 2) (hVersion : c.version = 0x0200)
    (hReserved : reservedZero (c.bytes.take 128) 8 [(8, 8), (0x10, 8), (0x18, 4), (0x1C, 4), (0x20, 2)] = true)
    (hAddr : getLE c.bytes 8 8 % 64 = 0) (hx : tget? s.work.plans (getLE c.bytes 0x20 1) = some x)
    (hReasons : planReasons s c.part (getLE c.bytes 0x20 1) (getLE c.bytes 0x21 1) = 0) :
    exec (.invoke cid) s = .next { s with
      host := { s.host with cmds := tupd s.host.cmds cid fun k => { k with phase := .running } }
      work := { s.work with
        plans := tput s.work.plans (getLE c.bytes 0x20 1) { x with
          step := if getLE c.bytes 0x10 8 = 2 ^ 64 - 1 then invokeStep c x else x.step, shown := invokeStep c x }
        nextInv := s.work.nextInv + 1
        invs := tput s.work.invs s.work.nextInv (invoked c cid x) } } := by
  have hBad : (decide (2 ≤ c.flags) ||
      !reservedZero (c.bytes.take 128) 8 [(8, 8), (0x10, 8), (0x18, 4), (0x1C, 4), (0x20, 2)] ||
      getLE c.bytes 8 8 % 64 != 0) = false := by
    simp [hReserved, hAddr, Nat.not_le.mpr hFlags]
  have hAux : reasons [(false, rsFormat), (c.version != 0x0200, rsVersion)] = 0 := by simp [reasons, hVersion]
  have hStep : stepFor s (getLE c.bytes 0x20 1) (getLE c.bytes 0x10 8) = invokeStep c x := by
    rw [stepFor, tgetD_of_listed hx, invokeStep]
  have hGiven (a b : Nat) : (if (getLE c.bytes 0x10 8 != 2 ^ 64 - 1) = true then a else b) =
      if getLE c.bytes 0x10 8 = 2 ^ 64 - 1 then b else a := by
    by_cases h : getLE c.bytes 0x10 8 = 2 ^ 64 - 1 <;> simp [h]
  have hWords : (if bitOf c.flags 0 = true then (invokeWords c).set 15 c.stamp else invokeWords c) =
      if c.flags = 1 then (invokeWords c).set 15 c.stamp else invokeWords c := by
    simp only [bitOf_zero_of_flag hFlags, decide_eq_true_eq]
  have hHead : (if c.flags = 1 then (invokeWords c).set 15 c.stamp else invokeWords c).headD 0 = (invokeWords c).headD 0 := by
    split
    · exact headD_stamped c
    · rfl
  show execInvoke cid s = _
  simp only [execInvoke, hc, hBad, hAux, hReasons, hStep, tgetD_of_listed hx, Nat.or_self, ne_eq, not_true, if_false]
  rw [noteStep_of_listed (s := runCmd s cid) hx]
  simp only [hGiven]
  rw [show (List.range 16).map (fun i => getLE c.bytes (128 + 8 * i) 8) = invokeWords c from rfl, hWords, hHead]
  rfl

/-! The start barrier (R98). -/

/-- The barrier of a held invocation releases: its time has come and every node of its plan has armed. -/
def startReady (s : State) (v : Inv) (t0 : Nat) (armed : W64) : Prop :=
  t0 ≤ s.now ∧ (tgetD s.work.plans v.plan {}).bin.nodes ≤ popCount 64 (armed.toNat ||| 2 ^ s.fab.node)

section
variable {s : State} {i t0 : Nat} {v : Inv} (hv : tget? s.work.invs i = some v) (ht : v.startT = some t0)
include hv ht

theorem execStartAtBarrierRelease_of_ready {armed : W64} (hHeld : v.state = .held) (h : startReady s v t0 armed) :
    exec (.startAtBarrierRelease i armed) s =
      .next { s with work.invs := tput s.work.invs i { v with state := .arriving, startT := none } } := by
  obtain ⟨hTime, hNodes⟩ := h
  show execStartAtBarrierRelease i armed s = _
  simp only [execStartAtBarrierRelease, hv, ht, hHeld, hTime, hNodes, beq_self_eq_true, decide_true, Bool.and_self, if_true]

theorem execStartAtBarrierRelease_of_not_ready {armed : W64} (h : ¬ startReady s v t0 armed) :
    exec (.startAtBarrierRelease i armed) s = .next s := by
  rw [startReady, not_and] at h
  show execStartAtBarrierRelease i armed s = _
  simp only [execStartAtBarrierRelease, hv, ht, Bool.and_eq_true, decide_eq_true_eq]
  exact if_neg fun hAll => h hAll.1.2 hAll.2

end

/-! Invocations that end at a deadline. -/

/-- The state in which invocation `i` has left the node: no model slot is held for it (R94). -/
def withoutInv (s : State) (i : Nat) : State :=
  { s with
    work.invs := terase s.work.invs i
    work.models := s.work.models.map fun kv => (kv.1, { kv.2 with users := kv.2.users.filter (· != i) }) }

theorem endInv_of_command {s : State} {i cid : Nat} {v : Inv} (hv : tget? s.work.invs i = some v)
    (hCid : v.cid = some cid) (e : Ending) :
    endInv s i e = endCmd (withoutInv s i) cid (endStatus e) (endAux e) v.step (invNd s v) := by
  simp only [endInv, hv, hCid]
  rfl

theorem endWork_of_invoke {s : State} {i : Nat} {v : Inv} (hv : tget? s.work.invs i = some v) (hQuery : v.qid = none)
    (e : Ending) : endWork s i e = endInv s i e := by
  simp only [endWork, hv, hQuery]

theorem execStartGraceExpire_of_due {s : State} {i t0 : Nat} {v : Inv} (hv : tget? s.work.invs i = some v)
    (ht : v.startT = some t0) (hHeld : v.state = .held)
    (hDue : t0 + (tgetD s.work.plans v.plan {}).bin.grace * 1000 ≤ s.now) :
    exec (.startGraceExpire i) s = .next (endInv s i stTimeout) := by
  show execStartGraceExpire i s = _
  simp only [execStartGraceExpire, hv, ht, hHeld, hDue, beq_self_eq_true, decide_true, Bool.and_self, if_true]

theorem execStartGraceExpire_of_early {s : State} {i t0 : Nat} {v : Inv} (hv : tget? s.work.invs i = some v)
    (ht : v.startT = some t0) (hEarly : s.now < t0 + (tgetD s.work.plans v.plan {}).bin.grace * 1000) :
    exec (.startGraceExpire i) s = .next s := by
  show execStartGraceExpire i s = _
  simp only [execStartGraceExpire, hv, ht, Nat.not_le.mpr hEarly, decide_false, Bool.and_false, Bool.false_eq_true, if_false]

theorem execInvokeDeadlineExpire_of_due {s : State} {i d : Nat} {v : Inv} (hv : tget? s.work.invs i = some v)
    (hDeadline : v.deadline = some d) (hDue : d ≤ s.now) (hWaits : v.waitModel ≠ none) (hLeft : v.left = []) :
    exec (.invokeDeadlineExpire i) s = .next (endWork s i stTimeout) := by
  have hSome : v.waitModel.isSome = true := Option.isSome_iff_ne_none.mpr hWaits
  show execInvokeDeadlineExpire i s = _
  simp [execInvokeDeadlineExpire, execInvokeDeadlineExpire.dropInv, hv, hDeadline, hDue, hSome, hLeft]

theorem execInvokeDeadlineExpire_of_early {s : State} {i d : Nat} {v : Inv} (hv : tget? s.work.invs i = some v)
    (hDeadline : v.deadline = some d) (hEarly : s.now < d) : exec (.invokeDeadlineExpire i) s = .next s := by
  show execInvokeDeadlineExpire i s = _
  simp [execInvokeDeadlineExpire, hv, hDeadline, Nat.not_le.mpr hEarly]

/-- Settles O16: the invocation that an INVOKE makes, the two sides of its start barrier, and of its deadlines. -/
theorem invocationsStartAndEnd : Obligations.InvocationsStartAndEnd := by
  unfold Obligations.InvocationsStartAndEnd
  refine ⟨?invoke, ?released, ?held, ?graceOver, ?graceRuns, ?deadline, ?deadlineAhead⟩
  case invoke =>
    intro s cid c x hc hFlags hVersion hReserved hAddr hx hPart hState hRole
    exact ⟨_, execInvoke_of_admitted hc hFlags hVersion hReserved hAddr hx
      (planReasons_of_admitted hx hPart hState hRole), rfl⟩
  case released =>
    exact fun s i t0 armed v hv ht hHeld hTime hNodes =>
      execStartAtBarrierRelease_of_ready hv ht hHeld ⟨hTime, hNodes⟩
  case held =>
    intro s i t0 armed v hv ht hNot
    refine execStartAtBarrierRelease_of_not_ready hv ht fun ⟨hTime, hNodes⟩ => ?_
    omega
  case graceOver =>
    intro s i t0 cid v hv ht hHeld hCid hDue
    rw [execStartGraceExpire_of_due hv ht hHeld hDue, endInv_of_command hv hCid]
    rfl
  case graceRuns => exact fun s i t0 v hv ht hEarly => execStartGraceExpire_of_early hv ht hEarly
  case deadline =>
    intro s i d cid v hv hDeadline hDue hWaits hQuery hCid hLeft
    rw [execInvokeDeadlineExpire_of_due hv hDeadline hDue hWaits hLeft, endWork_of_invoke hv hQuery,
      endInv_of_command hv hCid]
    rfl
  case deadlineAhead => exact fun s i d v hv hDeadline hEarly => execInvokeDeadlineExpire_of_early hv hDeadline hEarly

end Sys2Proof.Machine
end

section
/-!
VXCHG between the clusters of a role: who waits, and what each gets when all are there (R82).
-/
namespace Sys2Proof.Machine

/-! Issue. -/

/-- A word that cannot go on yet gets its tokens back; what it did stays. -/
theorem issueW_of_unitAt_held {s t : State} {c u op w : Nat} {rd : Nat → State → List (Nat × Nat)}
    {f : Nat → State → Bool × State} (h : unitAt s c u op w) (hf : f w (taken s c w) = (false, t)) :
    issueW s c u op rd f = t.setCl c { t.cl c with tokens := (s.cl c).tokens } := by
  obtain ⟨-, -, -, -, -, -, -, hInj, -⟩ := id h
  have hScr : scrChecks (taken s c w) c (rd w (taken s c w)) = (false, taken s c w) := by
    simp only [scrChecks, injHit_of_none_armed (s := taken s c w) hInj]
  rw [issueW, issue_of_unitAt h]
  simp only [hScr, hf, Option.getD_some]

/-- A unit of any kind that goes on behind its word: only clusters and counters differ. -/
theorem retire_onlyClusters_any (s : State) (c u : Nat) : onlyClusters s (retire s c u) := by
  cases h : (s.cl c).word u with
  | none => rw [retire_of_no_word h]; exact .refl s
  | some w =>
    obtain ⟨_, _, pmc, hRetire⟩ := retire_frame h
    exact ⟨_, pmc, hRetire⟩

/-- A word of any unit, in a state whose cluster has done no more than take the word's tokens. -/
theorem behind_of_retire_any {s x : State} {c u w : Nat} (hx : x.cl c = (taken s c w).cl c)
    (hWord : (s.cl c).word u = some w) :
    behind s (retire x c u) c u w ∧ ((retire x c u).cl c).scratch = (s.cl c).scratch := by
  obtain ⟨conv, evt, pmc, hRetire⟩ := retire_frame (s := x) (c := c) (u := u) (w := w)
    (by rw [hx, word_taken]; exact hWord)
  have hCl : (retire x c u).cl c = { (x.cl c).retired u w with conv := conv, satEvt := evt } := by
    rw [hRetire]; exact State.cl_setCl_same ..
  rw [behind, hCl, hx, taken_cl]
  exact ⟨⟨rfl, rfl⟩, rfl⟩

section
variable {s : State} {c : Fin 128} {w slot : Nat} (h : unitAt s c.val 1 0x10 w) (hPlan : (s.cl c.val).plan = some slot)
include h hPlan

theorem execVxchg_of_peer_set (hDesc : descAt (tgetD s.work.plans slot {}) (wB w) = none) :
    exec (.vxchg c) s = .next (peerXchg (taken s c.val w) c.val w) := by
  have hPlan' : ((taken s c.val w).cl c.val).plan = some slot := by rw [taken_cl]; exact hPlan
  have hDesc' : descAt (tgetD (taken s c.val w).work.plans slot {}) (wB w) = none := hDesc
  show execVxchg c s = _
  rw [execVxchg, issueW_of_unitAt h]
  simp only [hPlan', hDesc']

theorem execVxchg_of_descriptor {d : CollD} (hDesc : descAt (tgetD s.work.plans slot {}) (wB w) = some d) {t : State}
    (hColl : collXchg (taken s c.val w) c.val w slot (tgetD s.work.plans slot {}) d = (true, t)) :
    exec (.vxchg c) s = .next t := by
  have hPlan' : ((taken s c.val w).cl c.val).plan = some slot := by rw [taken_cl]; exact hPlan
  have hDesc' : descAt (tgetD (taken s c.val w).work.plans slot {}) (wB w) = some d := hDesc
  show execVxchg c s = _
  rw [execVxchg, issueW_of_unitAt h]
  simp only [hPlan', hDesc']
  exact hColl

theorem execVxchg_of_held {d : CollD} (hDesc : descAt (tgetD s.work.plans slot {}) (wB w) = some d) {t : State}
    (hColl : collXchg (taken s c.val w) c.val w slot (tgetD s.work.plans slot {}) d = (false, t)) :
    exec (.vxchg c) s = .next (t.setCl c.val { t.cl c.val with tokens := (s.cl c.val).tokens }) := by
  have hPlan' : ((taken s c.val w).cl c.val).plan = some slot := by rw [taken_cl]; exact hPlan
  have hDesc' : descAt (tgetD (taken s c.val w).work.plans slot {}) (wB w) = some d := hDesc
  show execVxchg c s = _
  rw [execVxchg, issueW_of_unitAt_held h]
  simp only [hPlan', hDesc']
  exact hColl

end

/-! A cluster that stands at an exchange. -/

theorem setWait_cl_same (s : State) (c u : Nat) (wt : UWait) :
    (setWait s c u wt).cl c = (s.cl c).setUnit u { (s.cl c).unit u with wait := wt } := State.cl_setCl_same ..

theorem setWait_cl_ne (s : State) {c z : Nat} (h : z ≠ c) (u : Nat) (wt : UWait) : (setWait s c u wt).cl z = s.cl z :=
  State.cl_setCl_ne _ _ _ _ h

theorem clConst_setWait (s : State) (c u : Nat) (wt : UWait) (z k : Nat) :
    clConst (setWait s c u wt) z k = clConst s z k := by
  by_cases hz : z = c
  · subst hz; simp only [clConst, clPlan, setWait_cl_same]; rfl
  · simp only [clConst, clPlan, setWait_cl_ne _ hz]; rfl

theorem peersOf_taken (s : State) (c w : Nat) (k : List Byte) : peersOf (taken s c w) c k = peersOf s c k := by
  simp only [peersOf, taken_cl]; rfl

/-- The peers of the exchange that a word names (R82). -/
def exchangePeers (s : State) (c w : Nat) : List Nat := peersOf s c (clConst s c (wB w))

theorem exchangePeers_taken (s : State) (c w : Nat) : exchangePeers (taken s c w) c w = exchangePeers s c w := by
  rw [exchangePeers, clConst_taken, peersOf_taken, exchangePeers]

/-- The word at which cluster `z` stands at the exchange that cluster `c` has come to, when it does. -/
def exchangeWord (s : State) (c w z : Nat) : Option Nat :=
  if (((setWait s c 1 .xchg).cl z).unit 1).wait == .xchg then
    match ((setWait s c 1 .xchg).cl z).word 1 with
    | some v => if slice (clConst (setWait s c 1 .xchg) z (wB v)) 0 16 == slice (clConst s c (wB w)) 0 16 then some v else none
    | none => none
  else none

/-- The clusters of an exchange with the words they stand at, by ascending number. -/
def exchangeWords (s : State) (c w : Nat) : List (Nat × Nat) :=
  sortBy (fun a b => decide (a.1 ≤ b.1)) ((exchangePeers s c w).filterMap fun z => (exchangeWord s c w z).map fun v => (z, v))

theorem peerXchg_eq (s : State) (c w : Nat) : peerXchg s c w =
    if !(exchangePeers s c w).contains c then retire s c 1
    else if (exchangePeers s c w).any fun z => (exchangeWord s c w z).isNone then setWait s c 1 .xchg
    else (exchangeWords s c w).foldl (fun t xv => resume (scrWrite t xv.1 (gran (wC xv.2))
      ((exchangeWords s c w).flatMap fun xv => scrRead ((setWait s c 1 .xchg).cl xv.1) (gran (wA xv.2)) (wD xv.2)))
      xv.1 1 .xchg) (setWait s c 1 .xchg) := rfl

theorem exchangeWord_self {s : State} {c w : Nat} (h : (s.cl c).word 1 = some w) : exchangeWord s c w c = some w := by
  have hUnit : ((setWait s c 1 .xchg).cl c).unit 1 = { (s.cl c).unit 1 with wait := .xchg } := by
    rw [setWait_cl_same, unit_setUnit_same]
  have hWord : ((setWait s c 1 .xchg).cl c).word 1 = some w := by
    rw [← h, Cluster.word, hUnit, setWait_cl_same]; rfl
  simp only [exchangeWord, hUnit, hWord, clConst_setWait, beq_self_eq_true, if_true]

theorem exchangeWord_other {s : State} {c w z v : Nat} (hz : z ≠ c) (hWait : ((s.cl z).unit 1).wait = .xchg)
    (hWord : (s.cl z).word 1 = some v) (hSet : slice (clConst s z (wB v)) 0 16 = slice (clConst s c (wB w)) 0 16) :
    exchangeWord s c w z = some v := by
  simp only [exchangeWord, setWait_cl_ne _ hz, hWait, hWord, clConst_setWait, hSet, beq_self_eq_true, if_true]

theorem exchangeWord_of_elsewhere {s : State} {c w z : Nat} (hz : z ≠ c) (hWait : ((s.cl z).unit 1).wait ≠ .xchg) :
    exchangeWord s c w z = none := by
  have hNot : (((s.cl z).unit 1).wait == UWait.xchg) = false := by simpa using hWait
  simp only [exchangeWord, setWait_cl_ne _ hz, hNot, Bool.false_eq_true, if_false]

/-- An exchange at which a peer is missing: the unit waits. -/
theorem peerXchg_of_missing_peer {s : State} {c w z : Nat} (hc : c ∈ exchangePeers s c w) (hz : z ∈ exchangePeers s c w)
    (hne : z ≠ c) (hWait : ((s.cl z).unit 1).wait ≠ .xchg) : peerXchg s c w = setWait s c 1 .xchg := by
  have hSome : (exchangePeers s c w).contains c = true := by simpa using hc
  have hAny : (exchangePeers s c w).any (fun z => (exchangeWord s c w z).isNone) = true :=
    List.any_eq_true.mpr ⟨z, hz, by rw [exchangeWord_of_elsewhere hne hWait]; rfl⟩
  rw [peerXchg_eq, hSome, hAny]
  rfl

/-- A cluster that has got the bytes of an exchange at `a`, its unit behind word `w`. -/
def Cluster.received (x : Cluster) (w a : Nat) (bytes : List Byte) : Cluster :=
  { x with scratch := scrWriteT x.scratch a bytes }.retired 1 w

theorem resume_received {s : State} {c w : Nat} (a : Nat) (bytes : List Byte) (hWait : ((s.cl c).unit 1).wait = .xchg)
    (hWord : (s.cl c).word 1 = some w) (hLast : wLast w = false) :
    resume (scrWrite s c a bytes) c 1 .xchg = s.setCl c ((s.cl c).received w a bytes) := by
  have hCl : (scrWrite s c a bytes).cl c = { s.cl c with scratch := scrWriteT (s.cl c).scratch a bytes } :=
    State.cl_setCl_same ..
  rw [resume_of_waiting (by rw [hCl]; exact hWait), retire_of_no_end (w := w) (by rw [hCl]; exact hWord) (.inl hLast), hCl,
    scrWrite, State.setCl_setCl, Cluster.received]

theorem received_scratch (x : Cluster) (w a : Nat) (bytes : List Byte) :
    (x.received w a bytes).scratch = scrWriteT x.scratch a bytes := rfl

theorem received_wait (x : Cluster) (w a : Nat) (bytes : List Byte) : ((x.received w a bytes).unit 1).wait = .none := by
  rw [Cluster.received, Cluster.retired_unit]

/-- The bytes of two clusters that exchange, in the order given. -/
def bothBytes (x : Cluster) (w : Nat) (y : Cluster) (v : Nat) : List Byte :=
  scrRead x (gran (wA w)) (wD w) ++ scrRead y (gran (wA v)) (wD v)

theorem length_bothBytes (x : Cluster) (w : Nat) (y : Cluster) (v : Nat) : (bothBytes x w y v).length = wD w + wD v := by
  simp [bothBytes, scrRead]

/-- The exchange of two: the cluster of the lower number comes last and brings it about (R82). -/
theorem peerXchg_of_two {s : State} {c c2 w v : Nat} (hPeers : exchangePeers s c w = [c, c2]) (hLt : c < c2)
    (hWord : (s.cl c).word 1 = some w) (hLast : wLast w = false) (hWait2 : ((s.cl c2).unit 1).wait = .xchg)
    (hWord2 : (s.cl c2).word 1 = some v) (hLast2 : wLast v = false)
    (hSet : slice (clConst s c2 (wB v)) 0 16 = slice (clConst s c (wB w)) 0 16) :
    peerXchg s c w = (s.setCl c (((setWait s c 1 .xchg).cl c).received w (gran (wC w)) (bothBytes (s.cl c) w (s.cl c2) v))).setCl
      c2 ((s.cl c2).received v (gran (wC v)) (bothBytes (s.cl c) w (s.cl c2) v)) := by
  have hne : c2 ≠ c := by omega
  have hSelf := exchangeWord_self hWord
  have hOther := exchangeWord_other (w := w) hne hWait2 hWord2 hSet
  have hWords : exchangeWords s c w = [(c, w), (c2, v)] := by
    simp [exchangeWords, hPeers, hSelf, hOther, sortBy, insertBy, Nat.le_of_lt hLt]
  have hAny : (exchangePeers s c w).any (fun z => (exchangeWord s c w z).isNone) = false := by
    simp [hPeers, hSelf, hOther]
  have hIn : (exchangePeers s c w).contains c = true := by simp [hPeers]
  have hBytes : ([(c, w), (c2, v)].flatMap fun xv =>
      scrRead ((setWait s c 1 .xchg).cl xv.1) (gran (wA xv.2)) (wD xv.2)) = bothBytes (s.cl c) w (s.cl c2) v := by
    simp only [List.flatMap_cons, List.flatMap_nil, List.append_nil, setWait_cl_ne _ hne, setWait_cl_same]
    rfl
  have hUnit : ((setWait s c 1 .xchg).cl c).unit 1 = { (s.cl c).unit 1 with wait := .xchg } := by
    rw [setWait_cl_same, unit_setUnit_same]
  have hWord' : ((setWait s c 1 .xchg).cl c).word 1 = some w := by
    rw [← hWord, Cluster.word, hUnit, setWait_cl_same]; rfl
  rw [peerXchg_eq, hIn, hAny, hWords, hBytes]
  simp only [Bool.not_true, Bool.false_eq_true, if_false, List.foldl_cons, List.foldl_nil]
  rw [resume_received _ _ (by rw [hUnit]) hWord' hLast]
  have hCl2 : ((setWait s c 1 .xchg).setCl c
      (((setWait s c 1 .xchg).cl c).received w (gran (wC w)) (bothBytes (s.cl c) w (s.cl c2) v))).cl c2 = s.cl c2 := by
    rw [State.cl_setCl_ne _ _ _ _ hne, setWait_cl_ne _ hne]
  rw [resume_received _ _ (by rw [hCl2]; exact hWait2) (by rw [hCl2]; exact hWord2) hLast2, hCl2]
  congr 1
  exact State.setCl_setCl ..

end Sys2Proof.Machine
end

section
/-!
VXCHG with a collective descriptor: a contribution sent to a remote root, and one at this node's own root (R315 to R317).
-/
namespace Sys2Proof.Machine

/-! Sets of bit positions. -/

theorem bitOf_eq_testBit (n i : Nat) : bitOf n i = n.testBit i := by
  rw [bitOf, Nat.testBit_eq_decide_div_mod_eq]; rfl

/-- A bit that is clear and gets set leaves every other bit. -/
theorem testBit_add_two_pow_of_clear {a p q : Nat} (h : a.testBit p = false) (hq : q ≠ p) :
    (a + 2 ^ p).testBit q = a.testBit q := by
  rcases Nat.lt_or_gt_of_ne hq with hlt | hgt
  · rw [Nat.add_comm, Nat.testBit_two_pow_add_gt hlt]
  · obtain ⟨k, rfl⟩ : ∃ k, q = k + (p + 1) := ⟨q - (p + 1), by omega⟩
    have hEven : a / 2 ^ p % 2 = 0 := by
      have := of_decide_eq_false (Nat.testBit_eq_decide_div_mod_eq ▸ h); omega
    have hHigh : (a + 2 ^ p) / 2 ^ (p + 1) = a / 2 ^ (p + 1) := by
      rw [Nat.pow_succ, ← Nat.div_div_eq_div_mul, ← Nat.div_div_eq_div_mul, Nat.add_div_right _ (Nat.two_pow_pos p)]
      omega
    rw [← Nat.testBit_div_two_pow, ← Nat.testBit_div_two_pow, hHigh]

theorem testBit_ofBits_of_not_mem {ps : List Nat} {q : Nat} (h : q ∉ ps) : (ofBits ps).testBit q = false := by
  refine List.foldlRecOn ps _ (motive := fun a : Nat => a.testBit q = false) (Nat.zero_testBit q) fun a ha p hp => ?_
  have hNe : q ≠ p := fun e => h (e ▸ hp)
  split
  · exact ha
  · next hClear => rw [testBit_add_two_pow_of_clear (by simpa [bitOf_eq_testBit] using hClear) hNe, ha]

theorem popCount_le (w n : Nat) : popCount w n ≤ w := by
  simpa [popCount, bitsSet] using List.length_filter_le (bitOf n) (List.range w)

/-- A rank of the collective that is neither taken nor absent is missing. -/
theorem missing_ne_zero {g : Coll} {r : Nat} (hr : r < popCount 64 g.mask) (hTaken : g.taken.testBit r = false)
    (hAbsent : g.absent = 0) : g.missing ≠ 0 := by
  intro hZero
  have h64 : r < 64 := Nat.lt_of_lt_of_le hr (popCount_le ..)
  have hBit : g.missing.testBit r = true := by
    simp only [Coll.missing, allRanks, hAbsent, Nat.or_zero, Nat.testBit_and, Nat.testBit_xor, Nat.testBit_two_pow_sub_one,
      hTaken, hr, h64, decide_true, Bool.false_xor, Bool.and_self]
  rw [hZero, Nat.zero_testBit] at hBit
  exact Bool.noConfusion hBit

/-! What a word notes of its collective. -/

theorem nextInst_taken (s : State) (c w slot k : Nat) (merge : Bool) :
    nextInst (taken s c w) slot k merge = nextInst s slot k merge := rfl

theorem nextInst_congr {s t : State} (h : t.work.plans = s.work.plans) (slot k : Nat) (merge : Bool) :
    nextInst t slot k merge = nextInst s slot k merge := by rw [nextInst, h, nextInst]

theorem nextInst_noteInst {s : State} {slot : Nat} (h : (tget? s.work.plans slot).isSome = true) (k n : Nat) (merge : Bool) :
    nextInst (noteInst s slot k n merge) slot k merge = n + 1 := by
  obtain ⟨p, hp⟩ := Option.isSome_iff_exists.mp h
  simp only [nextInst, noteInst, tupd, hp, tgetD_tput_same]

/-- A plan's descriptors do not depend on how often they have run. -/
theorem descAt_noteInst {s : State} {slot k : Nat} {d : CollD} (h : (tget? s.work.plans slot).isSome = true)
    (hDesc : descAt (tgetD s.work.plans slot {}) k = some d) (n : Nat) (merge : Bool) :
    ((tget? (noteInst s slot k n merge).work.plans slot).bind fun p => descAt p k) = some d := by
  obtain ⟨p, hp⟩ := Option.isSome_iff_exists.mp h
  simp only [noteInst, tupd, hp, tget?_tput_same, Option.bind_some]
  rw [tgetD, hp] at hDesc
  exact hDesc

theorem filterStage_of_no_filter {d : CollD} (h : d.filt = false) (p : Plan) (bytes : List Byte) :
    filterStage p d bytes = (bytes, 0) := by simp [filterStage, h]

/-- A contribution that fits one burst leaves as that burst, the last one (R317). -/
theorem contribBursts_single {d : CollD} {bytes : List Byte} (h0 : 0 < bytes.length) (hFit : bytes.length ≤ d.burst) :
    contribBursts d bytes = [(0, true, bytes)] := by
  have hChunks : chunks d.burst (bytes.length + 1) bytes = [bytes] := by
    rw [chunks_of_nonempty _ (List.ne_nil_of_length_pos h0), List.take_of_length_le hFit, List.drop_of_length_le hFit,
      chunks_nil]
  simp [contribBursts, hChunks]

theorem length_scrRead (x : Cluster) (a n : Nat) : (scrRead x a n).length = n := by simp [scrRead]

/-- The bytes that a VXCHG word brings from its cluster's scratch. -/
def xchgBytes (s : State) (c w : Nat) : List Byte := scrRead (s.cl c) (gran (wA w)) (wD w)

theorem xchgBytes_taken (s : State) (c w : Nat) : xchgBytes (taken s c w) c w = xchgBytes s c w := by
  rw [xchgBytes, taken_cl]; rfl

/-- The state in which a word has counted its collective, and no item dropped (R316, R320). -/
def noted (s : State) (slot k n part : Nat) : State := count (noteInst s slot k n false) part Ev.swcFiltDrop 0xFF 0

theorem noted_eq (s : State) (slot k n part : Nat) : ∃ pmc, noted s slot k n part = { noteInst s slot k n false with pmc := pmc } :=
  ⟨_, count_eq ..⟩

section
variable {s : State} {c w slot : Nat} {p : Plan} {d : CollD} (hContrib : bitOf d.contrib s.fab.node = true)
  (hLen : wD w = d.bytes)
include hContrib hLen

/-- A word whose root is elsewhere (R315, R316). -/
theorem collXchg_of_remote_root (hFilt : d.filt = false) (hRoot : d.root ≠ s.fab.node) {s1 : State}
    (hReg : regTry s (s.cl c).part .fabric (unitReqId c 1) (xchgBytes s c w).length = (true, s1)) :
    collXchg s c w slot p d = (true, retire (sendContribution
      (noted s1 slot (wB w) (nextInst s slot (wB w) false) (s.cl c).part) slot (wB w) (nextInst s slot (wB w) false) d
      (s.cl c).part (rankOf d.contrib s.fab.node) (xchgBytes s c w)) c 1) := by
  have hSize : ¬ wD w ≠ d.bytes := by simp [hLen]
  rw [xchgBytes] at hReg
  simp only [collXchg, hContrib, filterStage_of_no_filter hFilt, Bool.not_true, Bool.false_and, Bool.true_and,
    Bool.false_eq_true, if_false, if_true, hSize, decide_false, hRoot, hReg]
  rfl

/-- A word at the root cluster itself (R315, R316). -/
theorem collXchg_of_own_root (hFilt : d.filt = false) (hRoot : d.root = s.fab.node) (hLc : d.rootLc = c) (hOp : d.op ≠ 3)
    {key : Nat} {s1 : State}
    (hGet : getColl s slot (wB w) (nextInst s slot (wB w) false) (s.cl c).part d = some (key, s1)) :
    collXchg s c w slot p d = (true, awaitResult (contributeHere
      (noted s1 slot (wB w) (nextInst s slot (wB w) false) (s.cl c).part) key d (rankOf d.contrib s.fab.node)
      (xchgBytes s c w)) key c (gran (wC w)) d) := by
  have hSize : ¬ wD w ≠ d.bytes := by simp [hLen]
  have hMerge : (d.op != opMerge) = true := by simpa [opMerge] using hOp
  simp only [collXchg, hContrib, filterStage_of_no_filter hFilt, Bool.not_true, Bool.false_and, Bool.true_and,
    Bool.false_eq_true, if_false, if_true, hSize, decide_false, decide_true, hRoot, hLc, hMerge, hGet]
  rfl

/-- A word whose collective cannot be opened stays (R316). -/
theorem collXchg_of_not_opened (hRoot : d.root = s.fab.node)
    (hGet : getColl s slot (wB w) (nextInst s slot (wB w) false) (s.cl c).part d = none) :
    collXchg s c w slot p d = (false, s) := by
  have hSize : ¬ wD w ≠ d.bytes := by simp [hLen]
  simp only [collXchg, hContrib, Bool.not_true, Bool.false_and, Bool.true_and, Bool.false_eq_true, if_false, if_true, hSize,
    decide_false, hRoot, hGet]

end

/-! A packet on its only way. -/

theorem routeCands_of_oneWay {s : State} {pos port : Nat} (h : oneWay s pos port) : routeCands s pos [] = [port] := by
  have hLinks : linkPorts s.fab.node pos ≠ [] := fun h0 => by
    have hUp : (linkPorts s.fab.node pos).filter (portUp s) = [port] := h
    simp [h0] at hUp
  have hPeer : pos / 8 = s.fab.node / 8 ∨ pos % 8 = s.fab.node % 8 := by
    by_contra hNot
    refine hLinks ?_
    simp only [linkPorts]
    split
    · rfl
    · rw [if_neg (fun e => hNot (.inl e.symm)), if_neg (fun e => hNot (.inr e.symm))]
  have hUp : (linkPorts s.fab.node pos).filter (portUp s) = [port] := h
  have hPort : portUp s port = true := (List.mem_filter.mp (hUp ▸ List.mem_singleton.mpr rfl)).2
  have hDec : (decide (pos / 8 = s.fab.node / 8) || decide (pos % 8 = s.fab.node % 8)) = true := by simpa using hPeer
  simp only [routeCands, hDec, if_true, hUp]
  simp [hPort]

/-- A burst of the fixed class under its numbers (R286, R292, R295). -/
def stampedBurst (s : State) (p : Packet) : Packet :=
  { p with gen := s.mbr.gen, bseq := tgetD s.fab.bseq p.dst 1, fseq := tgetD s.fab.fseq p.dst 1 }

/-- The state that has given those numbers out. -/
def afterNumbers (s : State) (p : Packet) : State :=
  { s with fab := { s.fab with
    bseq := tput s.fab.bseq p.dst ((tgetD s.fab.bseq p.dst 1 + 1) % 2 ^ 32)
    fseq := tput s.fab.fseq p.dst ((tgetD s.fab.fseq p.dst 1 + 1) % 2 ^ 32) } }

/-- A packet of the fixed class with a payload, for a peer with one live link (R289, R292, R295). -/
theorem sendPkt_of_oneWay {s : State} {p : Packet} {port : Nat} (hDst : p.dst < 64) (hOther : p.dst ≠ s.fab.node)
    (hWay : oneWay s p.dst port) (hCls : p.rcls = 1) (hPay : p.payload ≠ []) :
    (sendPkt s p).out = s.out ++ [sent s port p] ∧ (sendPkt s p).fab.colls = s.fab.colls := by
  have hBurst : p.payload.isEmpty = false := by simpa using hPay
  have hStamp : stampPacket s p = (stampedBurst s p, afterNumbers s p) := by
    simp only [stampPacket, stampedBurst, afterNumbers, hBurst, hCls, Bool.not_false, if_true]
  have hDst' : nodeOf (stampedBurst s p).dst = p.dst := if_pos hDst
  have hCls' : (stampedBurst s p).rcls = 1 := hCls
  have hHere : p.dst ≠ (afterNumbers s p).fab.node := hOther
  have hCands : routeCands (afterNumbers s p) p.dst [] = [port] := routeCands_of_oneWay (s := s) hWay
  have hRoute : routeSend (afterNumbers s p) (stampedBurst s p) [] =
      (true, putOnPort (afterNumbers s p) port (stampedBurst s p)) := by
    simp only [routeSend, hDst', hHere, if_false, hCls', routePort, hCands, List.isEmpty_cons, Bool.false_eq_true, if_true,
      List.length_singleton, Nat.mod_one, List.getElem?_cons_zero]
  have hSend : sendPkt s p = putOnPort (afterNumbers s p) port (stampedBurst s p) := by
    simp only [sendPkt, sendPacket, hStamp, hRoute]
  have hSent : sent s port p = .packet port (stampedBurst s p) := by
    simp only [sent, if_neg hPay, if_pos hCls, stampedBurst]
  rw [hSend, hSent]
  exact ⟨rfl, rfl⟩

/-! A contribution at its own root. -/

/-- The state with collective `key` as `g`. -/
def withColl (s : State) (key : Nat) (g : Coll) : State := { s with fab := { s.fab with colls := tput s.fab.colls key g } }

theorem tget?_withColl (s : State) (key : Nat) (g : Coll) : tget? (withColl s key g).fab.colls key = some g :=
  tget?_tput_same ..

/-- A collective with ranks missing stays open (R316). -/
theorem collCheck_of_missing {s : State} {key : Nat} {g : Coll} (h : tget? s.fab.colls key = some g) (hQid : g.qid = none)
    (hAbsent : g.absent = 0) (hMissing : g.missing ≠ 0) : collCheck s key = s := by
  simp only [collCheck, h, hQid, Option.isSome_none, hAbsent, hMissing, ne_eq, not_true, decide_false, Bool.and_false,
    Bool.false_eq_true, if_false]
  split
  · rfl
  · split <;> rfl

/-- The one part of a contribution in a single burst. -/
def wholePart (rank : Nat) (bytes : List Byte) : CollPart := ⟨2 ^ rank, 0, false, false, true, bytes⟩

/-- A part of one rank completes no other. -/
theorem rankDone_wholePart_of_ne {d : CollD} {rank r : Nat} {bytes : List Byte} (hFilt : d.filt = false) (h0 : 0 < d.bytes)
    (hBurst : 0 < d.burst) (hr : r ≠ rank) : rankDone d [wholePart rank bytes] r = false := by
  have hBit : bitOf (2 ^ rank) r = false := by rw [bitOf_eq_testBit]; exact Nat.testBit_two_pow_of_ne hr.symm
  have hChunk : chunkDone [wholePart rank bytes] r 0 = false := by
    simp [chunkDone, rankChunk, wholePart, hBit]
  have hSome : 0 < ceilDiv d.bytes d.burst := by
    rw [ceilDiv, if_neg (Nat.ne_of_gt hBurst)]
    exact Nat.div_pos (by omega) hBurst
  simp only [rankDone, hFilt, Bool.and_false, Bool.false_eq_true, if_false]
  exact List.all_eq_false.mpr ⟨0, List.mem_range.mpr hSome, by simp [hChunk]⟩

/-- The collective as it stands with its root's own part. -/
def Coll.withPart (g : Coll) (d : CollD) (p : CollPart) : Coll :=
  { g with parts := [p], taken := ofBits ((bitsSet 64 (allRanks g.mask)).filter (rankDone d [p])) }

theorem withPart_missing {g : Coll} {d : CollD} {rank : Nat} {bytes : List Byte} (hAbsent : g.absent = 0)
    (hFilt : d.filt = false) (h0 : 0 < d.bytes) (hBurst : 0 < d.burst) (hRanks : 1 < popCount 64 g.mask) :
    (g.withPart d (wholePart rank bytes)).missing ≠ 0 := by
  obtain ⟨r, hr, hNe⟩ : ∃ r, r < popCount 64 g.mask ∧ r ≠ rank := by
    by_cases h : rank = 0
    · exact ⟨1, hRanks, by omega⟩
    · exact ⟨0, by omega, fun e => h e.symm⟩
  refine missing_ne_zero (r := r) hr (testBit_ofBits_of_not_mem ?_) hAbsent
  simp [rankDone_wholePart_of_ne hFilt h0 hBurst hNe]

/-- The root's own contribution, the first of several, to a collective that has just opened (R316, R317). -/
theorem contributeHere_of_fresh {s : State} {key rank : Nat} {g : Coll} {d : CollD} {bytes : List Byte}
    (h : tget? s.fab.colls key = some g) (hQid : g.qid = none) (hAbsent : g.absent = 0) (hParts : g.parts = [])
    (hClosed : g.closed = false) (hTime : s.now ≤ g.closeT) (hOp : d.op ≠ 3) (hFilt : d.filt = false) (h0 : 0 < bytes.length)
    (hBytes : bytes.length = d.bytes) (hFit : bytes.length ≤ d.burst) (hRanks : 1 < popCount 64 g.mask) :
    contributeHere s key d rank bytes = withColl s key (g.withPart d (wholePart rank bytes)) := by
  have hLate : (g.closed || decide (g.closeT < s.now)) = false := by simp [hClosed, hTime]
  have hMissing := withPart_missing (rank := rank) (bytes := bytes) hAbsent hFilt (by omega) (by omega) hRanks
  have hPart : takePart s key d (wholePart rank bytes) =
      collCheck (withColl s key (g.withPart d (wholePart rank bytes))) key := by
    simp only [takePart, h, hAbsent, hParts, Nat.and_zero, List.any_nil, ne_eq, not_true, decide_false, Bool.or_false,
      Bool.false_eq_true, if_false, List.nil_append, Coll.withPart, withColl]
  rw [collCheck_of_missing (g := g.withPart d (wholePart rank bytes)) (tget?_withColl ..) hQid hAbsent hMissing] at hPart
  have hMerge : d.op ≠ opMerge := hOp
  rw [contributeHere, contribBursts_single h0 hFit, List.foldl_cons, List.foldl_nil, takeBurst, h]
  simp only [hLate, hMerge, Bool.false_eq_true, if_false, ne_eq, not_true]
  exact hPart

/-- The root's cluster waits for the result of an open collective. -/
theorem awaitResult_of_open {s : State} {key : Nat} {g : Coll} (h : tget? s.fab.colls key = some g)
    (hClosed : g.closed = false) (c a : Nat) (d : CollD) :
    awaitResult s key c a d = withColl (setWait s c 1 .xchg) key { g with dst := some (c, a) } := by
  simp only [awaitResult, h, hClosed, Bool.false_eq_true, if_false]
  rfl

/-! The clauses. -/

theorem part_taken (s : State) (c w : Nat) : ((taken s c w).cl c).part = (s.cl c).part := by rw [taken_cl]

theorem regTry_of_may {s : State} {part : Nat} {k : RegKind} {id : Nat} (h : regMay s part k id = true) (n : Nat) :
    (regTry s part k id n).1 = true := by simp only [regTry, h, if_true]

theorem length_collPrefix (inst chunk cflags cstat ranks : Nat) :
    (collPrefix inst chunk cflags cstat ranks).length = 16 := by simp [collPrefix]

/-- The packet of a contribution that fits one burst (R317). -/
def contributionPkt (s : State) (slot k n : Nat) (d : CollD) (part rank : Nat) (bytes : List Byte) : Packet :=
  { kind := 0x16, dst := d.root, src := s.fab.node, part := part, rcls := 1, len := 16 + bytes.length
    addr := d.root * 2 ^ 52 + slot, aux := k, payload := collPrefix n 0 2 0 (2 ^ rank) ++ bytes }

theorem sendContribution_single {d : CollD} {bytes : List Byte} (hFilt : d.filt = false) (h0 : 0 < bytes.length)
    (hFit : bytes.length ≤ d.burst) (s : State) (slot k n part rank : Nat) :
    sendContribution s slot k n d part rank bytes = sendPkt s (contributionPkt s slot k n d part rank bytes) := by
  have hLen : (collPrefix n 0 2 0 (2 ^ rank) ++ bytes).length = 16 + bytes.length := by
    rw [List.length_append, length_collPrefix]
  have hFlags : 2 * b2n true + 4 * b2n d.filt = 2 := by rw [hFilt]; rfl
  rw [sendContribution, contribBursts_single h0 hFit]
  simp only [List.foldl_cons, List.foldl_nil, hFlags, hLen]
  rfl

/-- The collective that the root's own contribution opens, which then waits for the others (R315, R316). -/
def rootInstance (s : State) (c w slot : Nat) (d : CollD) : Coll :=
  { desc := some (slot, wB w), n := nextInst s slot (wB w) false, part := (s.cl c).part, mask := d.contrib
    closeT := s.now + d.tmo * 1000 }

/-- The state in which a word of cluster `c` has opened and counted its collective. -/
def rootOpened (s : State) (c w slot : Nat) (d : CollD) : State :=
  let s1 := withColl s s.fab.nextColl (rootInstance s c w slot d)
  noteInst { s1 with fab := { s1.fab with nextColl := s.fab.nextColl + 1 } } slot (wB w) (nextInst s slot (wB w) false) false

theorem noted_openColl (s : State) (c w slot : Nat) (d : CollD) : ∃ pmc,
    noted (openColl s slot (wB w) (nextInst s slot (wB w) false) (s.cl c).part d).2 slot (wB w)
      (nextInst s slot (wB w) false) (s.cl c).part = { rootOpened s c w slot d with pmc := pmc } := by
  simp only [openColl]
  rw [count_eq]
  exact ⟨_, count_eq ..⟩

section
variable {s : State} {c : Fin 128} {w slot : Nat} {d : CollD} (h : unitAt s c.val 1 0x10 w)
  (hPlan : (s.cl c.val).plan = some slot) (hDesc : descAt (tgetD s.work.plans slot {}) (wB w) = some d)
  (hContrib : bitOf d.contrib s.fab.node = true) (hLen : wD w = d.bytes)
include h hPlan hDesc hContrib hLen

/-- A contribution in one burst for a root elsewhere (R315, R317). -/
theorem execVxchg_of_remote_root {port : Nat} (hRoot : d.root ≠ s.fab.node) (hRack : d.root < 64) (hFilt : d.filt = false)
    (h0 : 0 < wD w) (hFit : wD w ≤ d.burst) (hMay : regMay s (s.cl c.val).part .fabric (unitReqId c.val 1) = true)
    (hWay : oneWay s d.root port) (hLoaded : (tget? s.work.plans slot).isSome = true) :
    ∃ t, exec (.vxchg c) s = .next t ∧
      t.out = s.out ++ [sent s port (contributionPkt s slot (wB w) (nextInst s slot (wB w) false) d (s.cl c.val).part
        (rankOf d.contrib s.fab.node) (xchgBytes s c.val w))] ∧
      nextInst t slot (wB w) false = nextInst s slot (wB w) false + 1 ∧ behind s t c.val 1 w ∧
      (t.cl c.val).scratch = (s.cl c.val).scratch ∧ t.tier = s.tier ∧ t.epo = s.epo ∧ t.fab.colls = s.fab.colls := by
  have hBytes : (xchgBytes s c.val w).length = wD w := length_scrRead ..
  have hTry := regTry_of_may (s := taken s c.val w) (part := ((taken s c.val w).cl c.val).part) (by rw [part_taken]; exact hMay)
    (xchgBytes (taken s c.val w) c.val w).length
  obtain ⟨adm, held, pmc, hRegs⟩ := regTry_onlyRegulators (taken s c.val w) ((taken s c.val w).cl c.val).part .fabric
    (unitReqId c.val 1) (xchgBytes (taken s c.val w) c.val w).length
  have hColl := collXchg_of_remote_root (s := taken s c.val w) (c := c.val) (slot := slot) (p := tgetD s.work.plans slot {})
    hContrib hLen hFilt hRoot (Prod.ext hTry hRegs)
  rw [sendContribution_single hFilt (by rw [xchgBytes_taken]; omega) (by rw [xchgBytes_taken]; omega), part_taken,
    nextInst_taken, xchgBytes_taken] at hColl
  obtain ⟨pmc', hNoted⟩ := noted_eq { taken s c.val w with
    host := { (taken s c.val w).host with adm := adm, held := held }, pmc := pmc } slot (wB w)
    (nextInst s slot (wB w) false) (s.cl c.val).part
  rw [hNoted] at hColl
  set x := noteInst { taken s c.val w with
    host := { (taken s c.val w).host with adm := adm, held := held }, pmc := pmc } slot (wB w)
    (nextInst s slot (wB w) false) false with hx
  set p := contributionPkt { x with pmc := pmc' } slot (wB w) (nextInst s slot (wB w) false) d (s.cl c.val).part
    (rankOf d.contrib s.fab.node) (xchgBytes s c.val w) with hp
  obtain ⟨hOut, hColls⟩ := sendPkt_of_oneWay (s := { x with pmc := pmc' }) (p := p) (port := port) hRack hRoot hWay rfl
    (by simp [hp, contributionPkt, collPrefix, leBytes])
  have hSent := sendPkt_onlySent { x with pmc := pmc' } p
  set y := sendPkt { x with pmc := pmc' } p with hy
  have hCl : y.cl c.val = (taken s c.val w).cl c.val := by rw [State.cl, hSent.work]; rfl
  obtain ⟨hBehind, hScratch⟩ := behind_of_retire_any hCl h.1
  obtain ⟨clusters, pmc2, hRetire⟩ := retire_onlyClusters_any y c.val 1
  have hEpo : y.epo = s.epo := by obtain ⟨_, _, _, _, e⟩ := hSent; rw [e]; rfl
  have hNext : nextInst y slot (wB w) false = nextInst s slot (wB w) false + 1 := by
    rw [nextInst_congr (congrArg WorkSt.plans hSent.work)]
    exact nextInst_noteInst (s := { taken s c.val w with
      host := { (taken s c.val w).host with adm := adm, held := held }, pmc := pmc }) hLoaded ..
  have hPlans : (retire y c.val 1).work.plans = y.work.plans := by rw [hRetire]
  refine ⟨retire y c.val 1, execVxchg_of_descriptor h hPlan hDesc hColl, ?_, (nextInst_congr hPlans ..).trans hNext,
    hBehind, hScratch, ?_, ?_, ?_⟩
  · rw [hRetire]; exact hOut
  · rw [hRetire]; exact hSent.tier
  · rw [hRetire]; exact hEpo
  · rw [hRetire]; exact hColls

/-- The root cluster's own contribution, the first of several: it opens the collective and waits (R315, R316). -/
theorem execVxchg_of_own_root (hRoot : d.root = s.fab.node) (hLc : d.rootLc = c.val) (hOp : d.op ≠ 3) (hFilt : d.filt = false)
    (h0 : 0 < wD w) (hFit : wD w ≤ d.burst) (hOpen : openOf s slot (wB w) = [])
    (hNew : collOf s slot (wB w) (nextInst s slot (wB w) false) = none) (hRanks : 1 < popCount 64 d.contrib) :
    ∃ t, exec (.vxchg c) s = .next t ∧
      tget? t.fab.colls s.fab.nextColl = some { (rootInstance s c.val w slot d).withPart d
        (wholePart (rankOf d.contrib s.fab.node) (xchgBytes s c.val w)) with dst := some (c.val, gran (wC w)) } ∧
      ((t.cl c.val).unit 1).wait = .xchg ∧ (t.cl c.val).scratch = (s.cl c.val).scratch ∧ t.out = s.out ∧ t.tier = s.tier ∧
      t.fab.nextColl = s.fab.nextColl + 1 := by
  have hBytes : (xchgBytes s c.val w).length = wD w := length_scrRead ..
  have hGet : getColl (taken s c.val w) slot (wB w) (nextInst (taken s c.val w) slot (wB w) false)
      ((taken s c.val w).cl c.val).part d = some (openColl (taken s c.val w) slot (wB w)
        (nextInst s slot (wB w) false) (s.cl c.val).part d) := by
    have hNone : collOf (taken s c.val w) slot (wB w) (nextInst s slot (wB w) false) = none := hNew
    have hFew : ¬ 2 ≤ (openOf (taken s c.val w) slot (wB w)).length := by
      rw [show openOf (taken s c.val w) slot (wB w) = [] from hOpen]; decide
    rw [part_taken]
    simp only [getColl, hNone, if_neg hFew, nextInst_taken]
  have hColl := collXchg_of_own_root (s := taken s c.val w) (c := c.val) (slot := slot) (p := tgetD s.work.plans slot {})
    hContrib hLen hFilt hRoot hLc hOp (key := s.fab.nextColl)
    (s1 := (openColl (taken s c.val w) slot (wB w) (nextInst s slot (wB w) false) (s.cl c.val).part d).2) hGet
  rw [part_taken, nextInst_taken, xchgBytes_taken] at hColl
  obtain ⟨pmc, hOpened⟩ := noted_openColl (taken s c.val w) c.val w slot d
  rw [part_taken, nextInst_taken] at hOpened
  rw [hOpened] at hColl
  have hG : tget? (rootOpened (taken s c.val w) c.val w slot d).fab.colls s.fab.nextColl = 
      some (rootInstance (taken s c.val w) c.val w slot d) := tget?_tput_same ..
  have hHere := contributeHere_of_fresh (s := { rootOpened (taken s c.val w) c.val w slot d with pmc := pmc })
    (rank := rankOf d.contrib s.fab.node) hG rfl rfl rfl rfl (Nat.le_add_right ..) hOp hFilt (by omega)
    (hBytes.trans hLen) (by omega) hRanks
  set g := (rootInstance (taken s c.val w) c.val w slot d).withPart d
    (wholePart (rankOf d.contrib s.fab.node) (xchgBytes s c.val w)) with hg
  set x := withColl { rootOpened (taken s c.val w) c.val w slot d with pmc := pmc } s.fab.nextColl g with hx
  have hAwait := awaitResult_of_open (s := x) (g := g) (tget?_withColl ..) rfl c.val (gran (wC w)) d
  have hCl : x.cl c.val = (taken s c.val w).cl c.val := rfl
  set t := withColl (setWait x c.val 1 .xchg) s.fab.nextColl { g with dst := some (c.val, gran (wC w)) } with ht
  have hEnd : collXchg (taken s c.val w) c.val w slot (tgetD s.work.plans slot {}) d = (true, t) := by
    rw [hColl, ← hAwait]
    exact congrArg (fun u => (true, awaitResult u s.fab.nextColl c.val (gran (wC w)) d)) hHere
  have hEndCl : t.cl c.val = (x.cl c.val).setUnit 1 { (x.cl c.val).unit 1 with wait := .xchg } := setWait_cl_same ..
  have hOut : t.out = (rootOpened (taken s c.val w) c.val w slot d).out := rfl
  have hTier : t.tier = (rootOpened (taken s c.val w) c.val w slot d).tier := rfl
  have hNext : t.fab.nextColl = (rootOpened (taken s c.val w) c.val w slot d).fab.nextColl := rfl
  refine ⟨t, execVxchg_of_descriptor h hPlan hDesc hEnd, ?_, ?_, ?_, hOut, hTier, hNext⟩
  · rw [show rootInstance s c.val w slot d = rootInstance (taken s c.val w) c.val w slot d by
      simp only [rootInstance, part_taken, nextInst_taken]; rfl]
    exact tget?_tput_same ..
  · rw [hEndCl, unit_setUnit_same]
  · rw [hEndCl, hCl, taken_cl]; rfl

/-- With two of them open the unit stays where it is (R316). -/
theorem execVxchg_of_two_open (hRoot : d.root = s.fab.node) (hOpen : 2 ≤ (openOf s slot (wB w)).length)
    (hNew : collOf s slot (wB w) (nextInst s slot (wB w) false) = none) :
    exec (.vxchg c) s = .next ((taken s c.val w).setCl c.val
      { (taken s c.val w).cl c.val with tokens := (s.cl c.val).tokens }) := by
  have hGet : getColl (taken s c.val w) slot (wB w) (nextInst (taken s c.val w) slot (wB w) false)
      ((taken s c.val w).cl c.val).part d = none := by
    have hNone : collOf (taken s c.val w) slot (wB w) (nextInst (taken s c.val w) slot (wB w) false) = none := hNew
    have hFew : 2 ≤ (openOf (taken s c.val w) slot (wB w)).length := hOpen
    simp only [getColl, hNone, if_pos hFew]
  exact execVxchg_of_held h hPlan hDesc (collXchg_of_not_opened hContrib hLen hRoot hGet)

end

/-- Of a peer set, one cluster waits for the others (R82). -/
theorem execVxchg_of_missing_peer {s : State} {c : Fin 128} {w slot z : Nat} (h : unitAt s c.val 1 0x10 w)
    (hPlan : (s.cl c.val).plan = some slot) (hDesc : descAt (tgetD s.work.plans slot {}) (wB w) = none)
    (hIn : c.val ∈ exchangePeers s c.val w) (hz : z ∈ exchangePeers s c.val w) (hne : z ≠ c.val)
    (hWait : ((s.cl z).unit 1).wait ≠ .xchg) :
    exec (.vxchg c) s = .next (setWait (taken s c.val w) c.val 1 .xchg) := by
  rw [execVxchg_of_peer_set h hPlan hDesc, peerXchg_of_missing_peer (z := z) (by rw [exchangePeers_taken]; exact hIn)
    (by rw [exchangePeers_taken]; exact hz) hne]
  rw [taken, State.cl_setCl_ne _ _ _ _ hne]
  exact hWait

section
variable {x y : Cluster} {w a : Nat} {bytes : List Byte} (hScr : y.scratch = x.scratch) (h : tabWf x.scratch = true)
include hScr h

theorem scrRead_received (hLen : bytes.length ≤ 2097152) :
    scrRead (y.received w a bytes) a bytes.length = bytes := by
  have hRead := scrRead_of_written h (y := y.received w a bytes) (by rw [received_scratch, hScr]) hLen (off := 0)
    (n := bytes.length) (by omega)
  rwa [Nat.add_zero, List.drop_zero, List.take_length] at hRead

theorem scr_received {p : Nat} (hp : p < 2097152) (hOut : ∀ i, i < bytes.length → (a + i) % 2097152 ≠ p) :
    scr (y.received w a bytes) p = scr x p :=
  scr_of_not_written h (by rw [received_scratch, hScr]) hp hOut

end

/-- The exchange of two clusters, by the lower one's word (R82). -/
theorem execVxchg_of_two {s : State} {c : Fin 128} {w slot c2 v : Nat} (h : unitAt s c.val 1 0x10 w)
    (hPlan : (s.cl c.val).plan = some slot) (hDesc : descAt (tgetD s.work.plans slot {}) (wB w) = none)
    (hPeers : exchangePeers s c.val w = [c.val, c2]) (hLt : c.val < c2) (hLast : wLast w = false)
    (hWait2 : ((s.cl c2).unit 1).wait = .xchg) (hWord2 : (s.cl c2).word 1 = some v) (hLast2 : wLast v = false)
    (hSet : slice (clConst s c2 (wB v)) 0 16 = slice (clConst s c.val (wB w)) 0 16) :
    ∃ y : Cluster, y.scratch = (s.cl c.val).scratch ∧ exec (.vxchg c) s = .next (((taken s c.val w).setCl c.val
        (y.received w (gran (wC w)) (bothBytes (s.cl c.val) w (s.cl c2) v))).setCl
      c2 ((s.cl c2).received v (gran (wC v)) (bothBytes (s.cl c.val) w (s.cl c2) v))) := by
  have hne : c2 ≠ c.val := by omega
  have hCl2 : (taken s c.val w).cl c2 = s.cl c2 := State.cl_setCl_ne _ _ _ _ hne
  have hConst2 : clConst (taken s c.val w) c2 (wB v) = clConst s c2 (wB v) := by
    simp only [clConst, clPlan, hCl2]; rfl
  have hXchg := peerXchg_of_two (s := taken s c.val w) (w := w) (v := v) (by rw [exchangePeers_taken]; exact hPeers) hLt
    (by rw [word_taken]; exact h.1) hLast (by rw [hCl2]; exact hWait2) (by rw [hCl2]; exact hWord2) hLast2
    (by rw [hConst2, clConst_taken]; exact hSet)
  have hBytes : bothBytes ((taken s c.val w).cl c.val) w (s.cl c2) v = bothBytes (s.cl c.val) w (s.cl c2) v := by
    rw [taken_cl]; rfl
  rw [hCl2, hBytes] at hXchg
  refine ⟨(setWait (taken s c.val w) c.val 1 .xchg).cl c.val, ?_, ?_⟩
  · rw [setWait_cl_same, taken_cl]; rfl
  · rw [execVxchg_of_peer_set h hPlan hDesc, hXchg]

/-- Settles O42: a word of a peer set waits or brings the exchange about; a contribution leaves in
one packet, opens the collective at its own root, or stays while two are open. -/
theorem clustersExchangeBytes : Obligations.ClustersExchangeBytes := by
  unfold Obligations.ClustersExchangeBytes
  refine ⟨?_, ?_, ?_, ?_, ?_⟩
  · rintro s c w slot h hPlan hDesc hIn ⟨z, hz, hne, hWait⟩
    have hCl : (setWait (taken s c.val w) c.val 1 .xchg).cl c.val =
        ((taken s c.val w).cl c.val).setUnit 1 { ((taken s c.val w).cl c.val).unit 1 with wait := .xchg } :=
      setWait_cl_same ..
    refine ⟨_, execVxchg_of_missing_peer h hPlan hDesc hIn hz hne hWait, ?_, ?_, ?_, fun z hz => ?_, rfl, rfl, rfl, rfl, rfl,
      rfl⟩
    · rw [hCl, unit_setUnit_same]
    · rw [hCl, unit_setUnit_same, taken_cl]; rfl
    · rw [hCl, taken_cl]; rfl
    · rw [setWait_cl_ne _ hz, taken, State.cl_setCl_ne _ _ _ _ hz]
  · intro s c w slot c2 v h hPlan hDesc hPeers hLt hWait2 hWord2 hSet hWf2 hRoom hLast
    obtain ⟨y, hScr, hExec⟩ := execVxchg_of_two h hPlan hDesc hPeers hLt hLast.1 hWait2 hWord2 hLast.2 hSet
    have hWf : tabWf (s.cl c.val).scratch = true := by obtain ⟨-, -, -, -, -, -, -, -, hWf⟩ := h; exact hWf
    have hne : c.val ≠ c2 := by omega
    have hLen := length_bothBytes (s.cl c.val) w (s.cl c2) v
    generalize hBytes : bothBytes (s.cl c.val) w (s.cl c2) v = bytes at hExec hLen
    have hSum : scrRead (s.cl c.val) (gran (wA w)) (wD w) ++ scrRead (s.cl c2) (gran (wA v)) (wD v) = bytes := hBytes
    rw [hSum, ← hLen]
    set t := ((taken s c.val w).setCl c.val (y.received w (gran (wC w)) bytes)).setCl c2
      ((s.cl c2).received v (gran (wC v)) bytes) with ht
    have hCl : t.cl c.val = y.received w (gran (wC w)) bytes := by
      rw [ht, State.cl_setCl_ne _ _ _ _ hne, State.cl_setCl_same]
    have hCl2 : t.cl c2 = (s.cl c2).received v (gran (wC v)) bytes := State.cl_setCl_same ..
    refine ⟨t, hExec, ?_, ?_, ?_, ?_, ?_, ?_, fun z hz hz2 => ?_, rfl, rfl, rfl, rfl, rfl, rfl⟩
    · rw [hCl]; exact scrRead_received hScr hWf (by omega)
    · rw [hCl2]; exact scrRead_received rfl hWf2 (by omega)
    · rw [hCl]; exact received_wait ..
    · rw [hCl2]; exact received_wait ..
    · intro p hp hOut
      rw [hCl]; exact scr_received hScr hWf hp hOut
    · intro p hp hOut
      rw [hCl2]; exact scr_received rfl hWf2 hp hOut
    · rw [ht, State.cl_setCl_ne _ _ _ _ hz2, State.cl_setCl_ne _ _ _ _ hz, taken, State.cl_setCl_ne _ _ _ _ hz]
  · intro s c w slot port d h hPlan hDesc hRoot hRack hContrib hLen hFilt hSize hMay hWay hLoaded
    obtain ⟨h0, hFit, -⟩ := hSize
    obtain ⟨t, hExec, hOut, hRest⟩ := execVxchg_of_remote_root h hPlan hDesc hContrib hLen hRoot hRack hFilt h0 hFit hMay hWay
      hLoaded
    refine ⟨t, hExec, ?_, hRest⟩
    rw [hOut, contributionPkt, show (xchgBytes s c.val w).length = wD w from length_scrRead ..]
    rfl
  · intro s c w slot d h hPlan hDesc hLoaded hRoot hContrib hLen hFilt hSize hOpen hNew hDone hRanks
    obtain ⟨h0, hFit, -⟩ := hSize
    obtain ⟨hNode, hLc, hOp⟩ := hRoot
    obtain ⟨t, hExec, hColl, hRest⟩ := execVxchg_of_own_root h hPlan hDesc hContrib hLen hNode hLc hOp hFilt h0 hFit hOpen hNew
      hRanks
    exact ⟨t, hExec, by rw [hColl]; rfl, by rw [hColl]; rfl, hRest⟩
  · intro s c w slot d h hPlan hDesc hRoot hContrib hLen hOpen hNew
    have hCl := State.cl_setCl_same (taken s c.val w) c.val
      { (taken s c.val w).cl c.val with tokens := (s.cl c.val).tokens }
    refine ⟨_, execVxchg_of_two_open h hPlan hDesc hContrib hLen hRoot hOpen hNew, ?_, ?_, ?_, rfl, rfl, rfl, rfl, rfl, rfl⟩
    all_goals rw [hCl, taken_cl]

end Sys2Proof.Machine
end

section
/-!
Admission, loading, unloading and release of plans (R76, R87 to R91, R377).
-/
namespace Sys2Proof.Machine

/-! What the end of a command touches. -/

/-- Nothing but the host's side, what the node has sent and the counters differs. -/
def onlyPosted (s t : State) : Prop := ∃ host out pmc, t = { s with host := host, out := out, pmc := pmc }

theorem onlyPosted.refl (s : State) : onlyPosted s s := ⟨_, _, _, rfl⟩

theorem onlyPosted.trans {s t u : State} (h : onlyPosted s t) (h' : onlyPosted t u) : onlyPosted s u := by
  obtain ⟨_, _, _, rfl⟩ := h
  obtain ⟨_, _, _, rfl⟩ := h'
  exact ⟨_, _, _, rfl⟩

theorem count_onlyPosted (s : State) (p ev q n : Nat) : onlyPosted s (count s p ev q n) := by
  rw [count_eq]; exact ⟨_, _, _, rfl⟩

theorem setQ_onlyPosted (s : State) (f q : Nat) (x : Queue) : onlyPosted s (s.setQ f q x) := ⟨_, _, _, rfl⟩

theorem emit_onlyPosted (s : State) (o : Out) : onlyPosted s (s.emit o) := ⟨_, _, _, rfl⟩

theorem hostWrite_onlyPosted (s : State) (f gen addr : Nat) (bs : List Byte) (ro : Bool) :
    onlyPosted s (hostWrite s f gen addr bs ro) := by
  unfold hostWrite
  split
  · exact emit_onlyPosted ..
  · exact count_onlyPosted ..

theorem sendMsix_onlyPosted (s : State) (f vec : Nat) : onlyPosted s (sendMsix s f vec) := by
  unfold sendMsix
  split
  · exact (emit_onlyPosted ..).trans (count_onlyPosted ..)
  · exact .refl s

theorem signalCount_onlyPosted (s : State) (f q : Nat) : onlyPosted s (signalCount s f q) := by
  simp only [signalCount]
  split
  · exact .refl s
  · split
    · exact (setQ_onlyPosted ..).trans (sendMsix_onlyPosted ..)
    · exact setQ_onlyPosted ..

theorem ringWrite_onlyPosted (s : State) (f q : Nat) (e : Entry) : onlyPosted s (ringWrite s f q e) :=
  (hostWrite_onlyPosted ..).trans (setQ_onlyPosted ..)

theorem postEntry_onlyPosted (s : State) (f q : Nat) (e : Entry) : onlyPosted s (postEntry s f q e) := by
  simp only [postEntry]
  split
  · split
    · exact count_onlyPosted ..
    · exact (count_onlyPosted ..).trans (setQ_onlyPosted ..)
  · split
    · exact (setQ_onlyPosted ..).trans (count_onlyPosted ..)
    · split
      · exact ringWrite_onlyPosted ..
      · exact (ringWrite_onlyPosted ..).trans (signalCount_onlyPosted ..)

theorem endCmd_onlyPosted (s : State) (cid status aux value : Nat) (nd disc : Bool) :
    onlyPosted s (endCmd s cid status aux value nd disc) := by
  have hPost (t : State) (c : Cmd) : onlyPosted t (postCmd t c status aux value nd disc) := by
    simp only [postCmd]
    split
    · exact count_onlyPosted ..
    · exact postEntry_onlyPosted ..
  have hGone : onlyPosted s { s with host.cmds := terase s.host.cmds cid } := ⟨_, _, _, rfl⟩
  simp only [endCmd]
  split
  · exact .refl s
  · split
    · exact hGone.trans ((hPost ..).trans (count_onlyPosted ..))
    · exact hGone.trans (hPost ..)

theorem endCmds_onlyPosted (s : State) (cids : List Nat) (status : Nat) :
    onlyPosted s (cids.foldl (fun t cid => endCmd t cid status) s) :=
  List.foldlRecOn cids _ (motive := onlyPosted s) (.refl s) fun _ ht _ _ => ht.trans (endCmd_onlyPosted ..)

/-! Reasons. -/

theorem foldl_reasons_eq_zero {rs : List (Bool × Nat)} : ∀ {a : Nat},
    rs.foldl (fun a r => if r.1 then a ||| r.2 else a) a = 0 → a = 0 ∧ ∀ r ∈ rs, r.1 = true → r.2 = 0 := by
  induction rs with
  | nil => intro a h; exact ⟨h, by simp⟩
  | cons r rs ih =>
    intro a h
    obtain ⟨hHead, hRest⟩ := ih (List.foldl_cons .. ▸ h)
    by_cases hr : r.1 = true
    · rw [if_pos hr, Nat.or_eq_zero_iff] at hHead
      exact ⟨hHead.1, List.forall_mem_cons.mpr ⟨fun _ => hHead.2, hRest⟩⟩
    · rw [if_neg hr] at hHead
      exact ⟨hHead, List.forall_mem_cons.mpr ⟨fun h => absurd h hr, hRest⟩⟩

/-- No reason of a sum that is zero holds. -/
theorem not_of_reasons_eq_zero {rs : List (Bool × Nat)} (h : reasons rs = 0) {b : Bool} {n : Nat} (hMem : (b, n) ∈ rs)
    (hn : n ≠ 0) : b = false :=
  Bool.eq_false_iff.mpr fun hb => hn ((foldl_reasons_eq_zero h).2 _ hMem hb)

/-! Lists without repeats. -/

/-- Appends an element that the list does not have. -/
def addNew {α : Type} [DecidableEq α] (acc : List α) (x : α) : List α := if x ∈ acc then acc else acc ++ [x]

theorem dedup_eq {α : Type} [DecidableEq α] (xs : List α) : dedup xs = xs.foldl addNew [] := rfl

theorem length_foldl_addNew_le {α : Type} [DecidableEq α] (xs : List α) : ∀ acc : List α,
    (xs.foldl addNew acc).length ≤ acc.length + xs.length := by
  induction xs with
  | nil => intro acc; simp
  | cons x xs ih =>
    intro acc
    have hStep := ih (addNew acc x)
    have hOne : (addNew acc x).length ≤ acc.length + 1 := by unfold addNew; split <;> simp
    rw [List.foldl_cons, List.length_cons]
    omega

theorem nodup_of_length_foldl_addNew {α : Type} [DecidableEq α] {xs : List α} : ∀ {acc : List α}, acc.Nodup →
    (xs.foldl addNew acc).length = acc.length + xs.length → (acc ++ xs).Nodup := by
  induction xs with
  | nil => intro acc hAcc _; simpa using hAcc
  | cons x xs ih =>
    intro acc hAcc hLen
    rw [List.foldl_cons, List.length_cons] at hLen
    by_cases hx : x ∈ acc
    · have hLe := length_foldl_addNew_le xs acc
      rw [addNew, if_pos hx] at hLen
      omega
    · rw [addNew, if_neg hx] at hLen
      have hAll := ih (acc := acc ++ [x]) (by simpa [List.nodup_append] using ⟨hAcc, fun a ha e => hx (e ▸ ha)⟩)
        (by rw [hLen]; simp; omega)
      simpa using hAll

theorem nodup_of_length_dedup {α : Type} [DecidableEq α] {xs : List α} (h : (dedup xs).length = xs.length) : xs.Nodup := by
  simpa using nodup_of_length_foldl_addNew (xs := xs) (acc := []) List.nodup_nil (by rw [← dedup_eq, h]; simp)

/-! What a reservation touches. -/

/-- Nothing but tiers, context reservations, descriptors, plans, models, clusters and counters differs. -/
def onlyReserved (s t : State) : Prop := ∃ tier epo descs plans clusters models pmc,
  t = { s with tier := tier, epo := epo, fab := { s.fab with descs := descs }, pmc := pmc
               work := { s.work with plans := plans, clusters := clusters, models := models } }

theorem onlyReserved.refl (s : State) : onlyReserved s s := ⟨_, _, _, _, _, _, _, rfl⟩

theorem onlyReserved.trans {s t u : State} (h : onlyReserved s t) (h' : onlyReserved t u) : onlyReserved s u := by
  obtain ⟨_, _, _, _, _, _, _, rfl⟩ := h
  obtain ⟨_, _, _, _, _, _, _, rfl⟩ := h'
  exact ⟨_, _, _, _, _, _, _, rfl⟩

theorem onlyClusters.onlyReserved {s t : State} (h : onlyClusters s t) : onlyReserved s t := by
  obtain ⟨_, _, rfl⟩ := h; exact ⟨_, _, _, _, _, _, _, rfl⟩

/-- Nothing but the tiers and the counters differs. -/
def onlyTiers (s t : State) : Prop := ∃ tier pmc, t = { s with tier := tier, pmc := pmc }

theorem onlyTiers.refl (s : State) : onlyTiers s s := ⟨_, _, rfl⟩

theorem onlyTiers.trans {s t u : State} (h : onlyTiers s t) (h' : onlyTiers t u) : onlyTiers s u := by
  obtain ⟨_, _, rfl⟩ := h
  obtain ⟨_, _, rfl⟩ := h'
  exact ⟨_, _, rfl⟩

theorem onlyTiers.onlyReserved {s t : State} (h : onlyTiers s t) : onlyReserved s t := by
  obtain ⟨_, _, rfl⟩ := h; exact ⟨_, _, _, _, _, _, _, rfl⟩

theorem onlyTiers.plans {s t : State} (h : onlyTiers s t) : t.work.plans = s.work.plans := by
  obtain ⟨_, _, rfl⟩ := h; rfl

theorem count_onlyTiers (s : State) (p ev q n : Nat) : onlyTiers s (count s p ev q n) := by
  rw [count_eq]; exact ⟨_, _, rfl⟩

theorem lowHome_onlyTiers (s : State) (k : Nat) : ∀ x ∈ lowHome s k, onlyTiers s x.2.2 := by
  unfold lowHome
  split
  · split
    · exact forall_mem_some (.refl s)
    · exact forall_mem_none
  · cases poolFree s with
    | some f => exact forall_mem_some ⟨_, _, rfl⟩
    | none =>
      cases spillFree s with
      | some f => exact forall_mem_some ⟨_, _, rfl⟩
      | none => exact forall_mem_none

theorem pinFrame_onlyTiers {s : State} {p k : Nat} {x : Nat × State} (h : pinFrame s p k = some x) : onlyTiers s x.2 := by
  unfold pinFrame at h
  split at h
  · cases h; exact ⟨_, _, rfl⟩
  · split at h
    · cases h
    · next v f hVictim =>
      split at h
      · cases h
      · next tier loc s1 hLow =>
        cases h
        refine .trans ?_ (.trans (count_onlyTiers ..) ⟨_, _, rfl⟩)
        split
        · exact (lowHome_onlyTiers s f.tile _ hLow).trans ⟨_, _, rfl⟩
        · exact ⟨_, _, rfl⟩

theorem pinFrames_onlyTiers {p : Nat} {ks : List Nat} : ∀ {s : State} {x : Tab (Option Nat) × State},
    pinFrames s p ks = some x → onlyTiers s x.2 := by
  induction ks with
  | nil => intro s x h; cases h; exact .refl s
  | cons k ks ih =>
    intro s x h
    simp only [pinFrames] at h
    split at h
    · obtain ⟨y, hy, rfl⟩ := Option.map_eq_some_iff.mp h
      exact ih (x := y) hy
    · split at h
      · cases h
      · next hFrame =>
        obtain ⟨y, hy, rfl⟩ := Option.map_eq_some_iff.mp h
        exact (pinFrame_onlyTiers hFrame).trans (ih (x := y) hy)

theorem pinTile_onlyTiers (s : State) (k : Nat) (frame : Option Nat) : onlyTiers s (pinTile s k frame) := by
  simp only [pinTile]
  split
  · exact ⟨_, _, rfl⟩
  · exact ⟨_, _, rfl⟩
  · exact .trans ⟨_, _, rfl⟩ (count_onlyTiers ..)
  · split <;> exact ⟨_, _, rfl⟩
  · split <;> exact ⟨_, _, rfl⟩

theorem takeContexts_epo (slot n : Nat) : ∀ s : State, ∃ epo, takeContexts s slot n = { s with epo := epo } := by
  induction n with
  | zero => intro s; exact ⟨_, rfl⟩
  | succ n ih =>
    intro s
    simp only [takeContexts]
    split
    · exact ⟨_, rfl⟩
    · obtain ⟨epo, h⟩ := ih _
      exact ⟨epo, h⟩

theorem takeModels_models (s : State) (part : Nat) (p : PlanBin) : ∃ models,
    takeModels s part p = { s with work.models := models } := by
  refine List.foldlRecOn p.models _ (motive := fun t : State => ∃ models : Tab Model, t = { s with work.models := models })
    ⟨s.work.models, rfl⟩ ?_
  rintro _ ⟨models, rfl⟩ e _
  split
  · exact ⟨_, rfl⟩
  · split
    · exact ⟨_, rfl⟩
    · split <;> exact ⟨_, rfl⟩

/-! Clusters take their roles. -/

/-- A cluster has served another partition: its store is cleared before it takes a role (R90). -/
def Cluster.servedOther (x : Cluster) (part : Nat) : Bool :=
  match x.served with
  | some p => p != part
  | none => false

/-- A cluster that is given to a role (R89, R90). -/
def Cluster.given (x : Cluster) (slot part role : Nat) : Cluster :=
  { x.clearUnits with
    satCfg := 0x0000_0100_1000_0148, satEvt := 0, nonfin := 0, accsat := 0, satConv := [], satClip := []
    st := if x.servedOther part then .clearing else .loading, plan := some slot, part := part, role := role }

theorem takeRole_eq (s : State) (c slot part role : Nat) : takeRole s c slot part role =
    if (s.cl c).servedOther part then
      { s.setCl c ((s.cl c).given slot part role) with pmc := { s.pmc with
        csel := tfilter s.pmc.csel fun k _ => k / 8 != c, cctr := tfilter s.pmc.cctr fun k _ => k / 8 != c
        cfix := tfilter s.pmc.cfix fun k _ => k / 4 != c } }
    else s.setCl c ((s.cl c).given slot part role) := rfl

theorem takeRole_frame (s : State) (c slot part role : Nat) : ∃ pmc,
    takeRole s c slot part role = { s.setCl c ((s.cl c).given slot part role) with pmc := pmc } := by
  rw [takeRole_eq]
  split <;> exact ⟨_, rfl⟩

/-- A cluster holds a role of a plan that is being loaded. -/
def holdsRole (s : State) (slot part role k : Nat) : Prop :=
  (s.cl k).plan = some slot ∧ (s.cl k).role = role ∧ (s.cl k).part = part ∧ ((s.cl k).st = .loading ∨ (s.cl k).st = .clearing)

theorem takeRole_holdsRole (s : State) (c slot part role : Nat) : holdsRole (takeRole s c slot part role) slot part role c := by
  obtain ⟨pmc, h⟩ := takeRole_frame s c slot part role
  have hCl : (takeRole s c slot part role).cl c = (s.cl c).given slot part role := by rw [h]; exact State.cl_setCl_same ..
  rw [holdsRole, hCl]
  refine ⟨rfl, rfl, rfl, ?_⟩
  simp only [Cluster.given]
  split
  · exact .inr rfl
  · exact .inl rfl

theorem takeRole_cl_ne (s : State) {c k : Nat} (hk : k ≠ c) (slot part role : Nat) :
    (takeRole s c slot part role).cl k = s.cl k := by
  obtain ⟨pmc, h⟩ := takeRole_frame s c slot part role
  rw [h]; exact State.cl_setCl_ne _ _ _ _ hk

theorem takeRole_onlyClusters (s : State) (c slot part role : Nat) : onlyClusters s (takeRole s c slot part role) := by
  obtain ⟨pmc, h⟩ := takeRole_frame s c slot part role
  exact ⟨_, pmc, h⟩

/-- The clusters of some roles, each with its role. -/
def givenPairs (roles : List RoleEnt) : List (Nat × Nat) :=
  roles.flatMap fun r => r.clusters.map fun c => (c, r.role)

/-- Every cluster of a list takes its role. -/
def giveRoles (s : State) (slot part : Nat) (ps : List (Nat × Nat)) : State :=
  ps.foldl (fun t p => takeRole t p.1 slot part p.2) s

theorem giveRoles_givenPairs (s : State) (slot part : Nat) (roles : List RoleEnt) :
    roles.foldl (fun t r => r.clusters.foldl (fun u c => takeRole u c slot part r.role) t) s =
      giveRoles s slot part (givenPairs roles) := by
  simp only [giveRoles, givenPairs, List.foldl_flatMap, List.foldl_map]

theorem giveRoles_onlyClusters (s : State) (slot part : Nat) (ps : List (Nat × Nat)) :
    onlyClusters s (giveRoles s slot part ps) :=
  List.foldlRecOn ps _ (motive := onlyClusters s) (.refl s) fun _ ht _ _ => ht.trans (takeRole_onlyClusters ..)

theorem giveRoles_cl_of_not_mem {ps : List (Nat × Nat)} {k : Nat} (h : k ∉ ps.map (·.1)) (s : State) (slot part : Nat) :
    (giveRoles s slot part ps).cl k = s.cl k :=
  List.foldlRecOn ps _ (motive := fun t : State => t.cl k = s.cl k) rfl fun t ht p hp => by
    rw [takeRole_cl_ne t (fun e => h (List.mem_map.mpr ⟨p, hp, e.symm⟩)), ht]

/-- Clusters that are listed once hold the role they are listed with. -/
theorem giveRoles_holdsRole {slot part k role : Nat} {ps : List (Nat × Nat)} : ∀ {s : State}, (ps.map (·.1)).Nodup →
    (k, role) ∈ ps → holdsRole (giveRoles s slot part ps) slot part role k := by
  induction ps with
  | nil => intro s _ h; cases h
  | cons p ps ih =>
    intro s hNodup hMem
    obtain ⟨hNot, hRest⟩ := List.nodup_cons.mp hNodup
    rcases List.mem_cons.mp hMem with rfl | hLater
    · have hCl := giveRoles_cl_of_not_mem hNot (takeRole s k slot part role) slot part
      have hHere := takeRole_holdsRole s k slot part role
      rw [holdsRole, ← hCl] at hHere
      exact hHere
    · exact ih hRest hLater

theorem map_fst_givenPairs (roles : List RoleEnt) : (givenPairs roles).map (·.1) = roles.flatMap (·.clusters) := by
  simp [givenPairs, List.map_flatMap, Function.comp_def]

theorem mem_givenPairs {roles : List RoleEnt} {r : RoleEnt} {k : Nat} (hr : r ∈ roles) (hk : k ∈ r.clusters) :
    (k, r.role) ∈ givenPairs roles :=
  List.mem_flatMap.mpr ⟨r, hr, List.mem_map_of_mem hk⟩

/-! Reservation. -/

section
variable {s : State} {part : Nat} {p : PlanBin} (h : resourceBits s part p = 0)
include h

theorem givenPairs_nodup_of_resources : ((givenPairs p.roles).map (·.1)).Nodup := by
  have hBit := not_of_reasons_eq_zero h (n := prClusters) (List.mem_cons_self ..) (by decide)
  rw [map_fst_givenPairs]
  refine nodup_of_length_dedup ?_
  simpa using (Bool.or_eq_false_iff.mp hBit).2

theorem pinFrames_of_resources : ∃ x, pinFrames s part (newPins s p) = some x := by
  have hBit := not_of_reasons_eq_zero h (n := prPins)
    (.tail _ (.tail _ (.tail _ (List.mem_cons_self ..)))) (by decide)
  exact Option.isSome_iff_exists.mp (by simpa using (Bool.or_eq_false_iff.mp hBit).2)

end

/-- A plan whose resources are there is reserved, and its clusters take their roles (R89, R90). -/
theorem reservePlan_of_resources {s : State} {slot : Nat} {x : Plan} (h : resourceBits s x.part x.bin = 0) :
    ∃ y, y = { x with pins := y.pins, descs := y.descs, staging := y.staging, sigWait := false } ∧
      tget? (reservePlan s slot x).work.plans slot = some y ∧ onlyReserved s (reservePlan s slot x) ∧
      ∀ r ∈ x.bin.roles, ∀ k ∈ r.clusters, holdsRole (reservePlan s slot x) slot x.part r.role k := by
  obtain ⟨⟨frames, s1⟩, hFrames⟩ := pinFrames_of_resources h
  have hs1 : onlyTiers s s1 := pinFrames_onlyTiers hFrames
  set y : Plan := { x with
    pins := (pinTiles x.bin).foldl (fun (a : Tab (Option Nat)) k => tput a k (tgetD frames k none)) []
    descs := freeDescs s1 x.bin.colls, staging := stagingNeed s.fab.node x.bin, sigWait := false } with hy
  set s2 : State := { s1 with work.plans := tput s1.work.plans slot y } with hs2
  set s3 := y.pins.foldl (fun (t : State) kv => pinTile t kv.1 kv.2) s2 with hs3
  have hPinned : onlyTiers s2 s3 :=
    List.foldlRecOn y.pins _ (motive := onlyTiers s2) (.refl s2) fun _ ht _ _ => ht.trans (pinTile_onlyTiers ..)
  set held : Tab (Nat × Nat) := y.descs.foldl (fun (a : Tab (Nat × Nat)) d => tput a d (slot, x.part)) s3.fab.descs with hHeld
  obtain ⟨epo, hEpo⟩ := takeContexts_epo slot x.bin.contexts { s3 with fab.descs := held }
  obtain ⟨models, hModels⟩ := takeModels_models (takeContexts { s3 with fab.descs := held } slot x.bin.contexts) x.part x.bin
  set s4 := takeModels (takeContexts { s3 with fab.descs := held } slot x.bin.contexts) x.part x.bin with hs4
  have hGive : reservePlan s slot x = giveRoles s4 slot x.part (givenPairs x.bin.roles) := by
    rw [← giveRoles_givenPairs, reservePlan, hFrames]
  have hPlan : tget? s4.work.plans slot = some y := by
    rw [hModels, hEpo]
    show tget? s3.work.plans slot = some y
    rw [hPinned.plans]
    exact tget?_tput_same ..
  have hAll : onlyReserved s s4 := by
    have h2 : onlyReserved s1 s2 := ⟨_, _, _, _, _, _, _, rfl⟩
    have h4 : onlyReserved s3 s4 := by rw [hModels, hEpo]; exact ⟨_, _, _, _, _, _, _, rfl⟩
    exact ((hs1.onlyReserved.trans h2).trans hPinned.onlyReserved).trans h4
  have hRoles := giveRoles_onlyClusters s4 slot x.part (givenPairs x.bin.roles)
  rw [hGive]
  refine ⟨y, rfl, ?_, hAll.trans hRoles.onlyReserved, fun r hr k hk =>
    giveRoles_holdsRole (givenPairs_nodup_of_resources h) (mem_givenPairs hr hk)⟩
  obtain ⟨_, _, hFrame⟩ := hRoles
  rw [hFrame]
  exact hPlan

/-! The checks. -/

section
variable {s : State} {slot cid : Nat} {x : Plan} (hBin : binBits x.bin = 0) (hRes : resourceBits s x.part x.bin = 0)
  (hOthers : x.others = 0)
include hBin hRes hOthers

/-- With nothing else against it, only its signature can refuse a plan that has a slot (R76, R88). -/
theorem planBits_of_no_other_reason (bad : Bool) : binBits x.bin ||| resourceBits s x.part x.bin ||| (x.others % 2 ^ 21) |||
    reasons [(bad, prSignature), ((some slot).isNone, prSlots)] = if bad then prSignature else 0 := by
  rw [hBin, hRes, hOthers, Option.isNone_some]
  cases bad <;> decide

theorem decidePlan_of_no_reason : decidePlan s (some slot) cid x false = reservePlan s slot x := by
  have hBits := planBits_of_no_other_reason hBin hRes hOthers (slot := slot) false
  rw [if_neg Bool.false_ne_true] at hBits
  simp only [decidePlan, hBits, if_true]

theorem decidePlan_of_bad_signature : decidePlan s (some slot) cid x true =
    refusePlan { s with work.plans := terase s.work.plans slot } cid x.part x.bin.tag prSignature := by
  have hBits := planBits_of_no_other_reason hBin hRes hOthers (slot := slot) true
  rw [if_pos rfl] at hBits
  have hSome : prSignature ≠ 0 := by decide
  have hRange : ¬ bitOf prSignature 20 = true := by decide
  simp only [decidePlan, hBits, if_neg hSome, notePlanRange, if_neg hRange]

end

theorem mkReg_pair (a b : Nat) : mkReg [(0, a), (32, b)] = BitVec.ofNat 64 (a + b * 2 ^ 32) := by
  rw [mkReg, List.foldl_cons, List.foldl_cons, List.foldl_nil, Nat.zero_add, Nat.pow_zero, Nat.mul_one]

theorem refusePlan_eq {bits : Nat} (h : bits < 2 ^ 21) (s : State) (cid part tag : Nat) :
    refusePlan s cid part tag bits = endCmd { s with
      work.planRefuse := tput s.work.planRefuse part (BitVec.ofNat 64 (bits + tag % 2 ^ 32 * 2 ^ 32)) } cid 0x0102 bits := by
  rw [refusePlan, mkReg_pair, Nat.mod_eq_of_lt h]
  rfl

/-! PLAN_LOAD. -/

theorem execPlanLoad_of_other_role {s : State} {cid : Nat} {c : Cmd} (hc : cmdOf s cid 0x10 = some c) (hRole : s.fab.role ≠ 0)
    (data : HostRead) (others : BitVec 32) :
    exec (.planLoad cid data others) s = .next (refusePlan s cid c.part 0 prRole) := by
  show execPlanLoad cid data others s = _
  simp only [execPlanLoad, hc, if_pos hRole]

/-- A PLAN_LOAD command without a reason of its own to be refused (R376, R384). -/
theorem no_load_reason {s : State} {c : Cmd} (hHead : headReasons c [(8, 8), (0x10, 4), (0x18, 8)] = 0)
    (hAlign : getLE c.bytes 8 8 % 64 = 0) (hBus : (s.fn c.fn).busMaster = true) :
    ¬ headReasons c [(8, 8), (0x10, 4), (0x18, 8)] ||| reasons [(getLE c.bytes 8 8 % 64 != 0, rsFormat),
      (hostioOff s c, rsHostio)] ≠ 0 := by
  simp [hHead, hAlign, hostioOff, hBus, reasons]

section
variable {s : State} {cid : Nat} {c : Cmd} {b0 : List Byte} (hc : cmdOf s cid 0x10 = some c) (hRole : s.fab.role = 0)
  (hHead : headReasons c [(8, 8), (0x10, 4), (0x18, 8)] = 0) (hAlign : getLE c.bytes 8 8 % 64 = 0)
  (hBus : (s.fn c.fn).busMaster = true)
include hc hRole hHead hAlign hBus

theorem execPlanLoad_of_malformed (hBad : planFormatBad (b0.take (getLE c.bytes 0x10 4)) (getLE c.bytes 0x10 4) = true)
    (hVersion : planVersionBad (b0.take (getLE c.bytes 0x10 4)) none = false) (others : BitVec 32) :
    exec (.planLoad cid (.ok b0) others) s =
      .next (refusePlan s cid c.part (planTag (b0.take (getLE c.bytes 0x10 4))) prFormat) := by
  have hNone : ¬ s.fab.role ≠ 0 := by simp [hRole]
  have hAux := no_load_reason hHead hAlign hBus
  show execPlanLoad cid (.ok b0) others s = _
  simp only [execPlanLoad, hc, if_neg hNone, if_neg hAux, hBad, if_true, hVersion]
  rfl

/-- An unsigned single-node plan of the right form goes on to its resources (R76, R87, R89). -/
theorem execPlanLoad_of_unsigned {i : Nat}
    (hForm : planFormatBad (b0.take (getLE c.bytes 0x10 4)) (getLE c.bytes 0x10 4) = false)
    (hVersion : planVersionBad (b0.take (getLE c.bytes 0x10 4)) (some (planBin (b0.take (getLE c.bytes 0x10 4)))) = false)
    (hMulti : (planBin (b0.take (getLE c.bytes 0x10 4))).multi = false)
    (hSig : sigBad s c.part (planBin (b0.take (getLE c.bytes 0x10 4))) = (false, none))
    (hFirst : earlierLoad s cid c = false) (hSlot : tfreeBelow s.work.plans 256 = some i) (others : BitVec 32) :
    exec (.planLoad cid (.ok b0) others) s = .next (decidePlan (runCmd s cid) (some i) cid
      { part := c.part, bin := planBin (b0.take (getLE c.bytes 0x10 4)), seed := getLE c.bytes 0x18 8, loadCid := some cid }
      false) := by
  have hNone : ¬ s.fab.role ≠ 0 := by simp [hRole]
  have hAux := no_load_reason hHead hAlign hBus
  have hBits : reasons [(false, prVersion), (false, prFormat)] = 0 := rfl
  show execPlanLoad cid (.ok b0) others s = _
  simp only [execPlanLoad, hc, if_neg hNone, if_neg hAux, hForm, Bool.false_eq_true, if_false, hVersion, hBits, ne_eq,
    not_true, hFirst, hSig, hSlot, hMulti]

end

/-! PLAN_SIGNATURE_VERIFIED. -/

/-- What the check of a plan's signature finds against it (R76). -/
def signatureFails (s : State) (part : Nat) (p : PlanBin) : Bool :=
  match sigBad s part p with
  | (b, some key) => b || !sigOk key p
  | (b, none) => b

theorem signatureFails_of_valid {s : State} {part : Nat} {p : PlanBin} {key : List Byte}
    (h : sigBad s part p = (false, some key)) (hOk : sigOk key p = true) : signatureFails s part p = false := by
  simp only [signatureFails, h, hOk, Bool.not_true, Bool.or_self]

theorem signatureFails_of_invalid {s : State} {part : Nat} {p : PlanBin}
    (h : (sigBad s part p).1 = true ∨ ∃ key, sigBad s part p = (false, some key) ∧ sigOk key p = false) :
    signatureFails s part p = true := by
  rcases h with hBad | ⟨key, hKey, hNot⟩
  · unfold signatureFails
    split
    · next b key hKey => rw [hKey] at hBad; simp only [show b = true from hBad, Bool.true_or]
    · next b hKey => rw [hKey] at hBad; exact hBad
  · simp only [signatureFails, hKey, hNot, Bool.not_false, Bool.or_true]

theorem execPlanSignatureVerified_of_turn {s : State} {slot : Fin 256} {cid : Nat} {c : Cmd} {x : Plan}
    (hx : tget? s.work.plans slot.val = some x) (hCid : x.loadCid = some cid) (hWait : x.sigWait = true)
    (hUnload : x.unloadCids = []) (hc : tget? s.host.cmds cid = some c) (hTurn : earlierLoad s cid c = false) :
    exec (.planSignatureVerified slot) s = .next (decidePlan s (some slot.val) cid x (signatureFails s x.part x.bin)) := by
  have hGo : (!x.sigWait || earlierLoad s cid c) = false := by simp [hWait, hTurn]
  show execPlanSignatureVerified slot s = _
  simp only [execPlanSignatureVerified, hx, hCid, hc, hGo, Bool.false_eq_true, if_false, hUnload, List.foldl_nil, ite_self]
  rfl

/-! ROLE_LOAD_DONE. -/

/-- A cluster whose role is there (R33, R90). -/
def Cluster.loaded (x : Cluster) (p : PlanBin) : Cluster :=
  { x with
    st := .running, served := some x.part
    istore := ((p.roles.find? fun r => r.role = x.role).map (·.lists)).getD [] }

/-- The clusters that a plan's role load looks at. -/
def planClusters (s : State) (slot : Nat) : List Nat :=
  (s.work.clusters.filter fun kv => kv.2.plan == some slot).map (·.1)

/-- A loading cluster takes its role's lists; any other stays. -/
def finishRole (t : State) (c : Nat) : State := if (t.cl c).st == .loading then roleLoaded t c else t

theorem mem_planClusters {s : State} {slot k : Nat} (h : (s.cl k).plan = some slot) : k ∈ planClusters s slot := by
  cases hk : tget? s.work.clusters k with
  | none => rw [State.cl, tgetD, hk] at h; cases h
  | some y =>
    rw [State.cl, tgetD, hk, Option.getD_some] at h
    exact List.mem_map.mpr ⟨(k, y), List.mem_filter.mpr ⟨mem_of_tget? hk, by simp [h]⟩, rfl⟩

theorem finishRole_clusters (t : State) (c : Nat) : ∃ clusters, finishRole t c = { t with work.clusters := clusters } := by
  simp only [finishRole, roleLoaded]
  split
  · split <;> exact ⟨_, rfl⟩
  · exact ⟨_, rfl⟩

theorem finishRoles_clusters (s : State) (cs : List Nat) :
    ∃ clusters, cs.foldl finishRole s = { s with work.clusters := clusters } := by
  refine List.foldlRecOn cs finishRole
    (motive := fun t : State => ∃ clusters : Tab Cluster, t = { s with work.clusters := clusters }) ⟨s.work.clusters, rfl⟩ ?_
  rintro _ ⟨_, rfl⟩ c _
  obtain ⟨clusters, h⟩ := finishRole_clusters { s with work.clusters := _ } c
  exact ⟨clusters, h⟩

theorem finishRole_cl_ne (t : State) {c k : Nat} (h : k ≠ c) : (finishRole t c).cl k = t.cl k := by
  simp only [finishRole, roleLoaded]
  split
  · split
    · rfl
    · exact State.cl_setCl_ne _ _ _ _ h
  · rfl

theorem finishRole_of_not_loading {t : State} {c : Nat} (h : (t.cl c).st ≠ .loading) : finishRole t c = t := by
  simp only [finishRole, beq_iff_eq, if_neg h]

theorem finishRole_cl_of_loading {t : State} {c slot : Nat} {x : Plan} (hSt : (t.cl c).st = .loading)
    (hPlan : (t.cl c).plan = some slot) (hx : tget? t.work.plans slot = some x) :
    (finishRole t c).cl c = (t.cl c).loaded x.bin := by
  have hLists : roleLists t slot (t.cl c).role = ((x.bin.roles.find? fun r => r.role = (t.cl c).role).map (·.lists)).getD [] := by
    simp only [roleLists, tgetD_of_listed hx]
    split <;> next hFind => simp [hFind]
  simp only [finishRole, hSt, beq_self_eq_true, if_true, roleLoaded, hPlan, State.cl_setCl_same, hLists,
    Cluster.loaded]

/-- Cluster `k` is as it was in `s`, or has its role of plan `x`; the plans are those of `s`. -/
def mayHaveRole (s : State) (k : Nat) (x : Plan) (t : State) : Prop :=
  t.work.plans = s.work.plans ∧ (t.cl k = s.cl k ∨ t.cl k = (s.cl k).loaded x.bin)

section
variable {s : State} {k slot : Nat} {x : Plan} (hSt : (s.cl k).st = .loading) (hPlan : (s.cl k).plan = some slot)
  (hx : tget? s.work.plans slot = some x)
include hSt hPlan hx

theorem finishRole_of_mayHaveRole {t : State} (h : mayHaveRole s k x t) :
    (finishRole t k).cl k = (s.cl k).loaded x.bin := by
  obtain ⟨hPlans, hSame | hDone⟩ := h
  · rw [finishRole_cl_of_loading (hSame ▸ hSt) (hSame ▸ hPlan) (hPlans ▸ hx), hSame]
  · rw [finishRole_of_not_loading (by rw [hDone]; exact ClState.noConfusion), hDone]

theorem mayHaveRole_finishRole {t : State} (h : mayHaveRole s k x t) (c : Nat) : mayHaveRole s k x (finishRole t c) := by
  have hPlans : (finishRole t c).work.plans = s.work.plans := by
    obtain ⟨_, hFrame⟩ := finishRole_clusters t c
    rw [hFrame]; exact h.1
  by_cases hc : k = c
  · subst hc
    exact ⟨hPlans, .inr (finishRole_of_mayHaveRole hSt hPlan hx h)⟩
  · rw [mayHaveRole, finishRole_cl_ne t hc]
    exact ⟨hPlans, h.2⟩

/-- A loading cluster among those looked at ends with its role, however often it is listed. -/
theorem finishRoles_cl_of_loading {cs : List Nat} (hk : k ∈ cs) : (cs.foldl finishRole s).cl k = (s.cl k).loaded x.bin :=
  foldl_establishes (I := mayHaveRole s k x) (P := fun t => t.cl k = (s.cl k).loaded x.bin)
    (fun _ c ht => mayHaveRole_finishRole hSt hPlan hx ht c) (fun _ ht => finishRole_of_mayHaveRole hSt hPlan hx ht)
    (fun t c _ hne ht => by rw [finishRole_cl_ne t (Ne.symm hne)]; exact ht) cs hk s ⟨rfl, .inl rfl⟩

end

/-- A plan whose load has ended without a reason to end the plan at once. -/
def Plan.loadedPlan (x : Plan) : Plan := { x with state := .admitted, loadCid := none }

/-- The state in which the clusters of a slot have their roles and the plan is admitted (R90). -/
def rolesLoaded (s : State) (slot : Nat) (x : Plan) : State :=
  { (planClusters s slot).foldl finishRole s with
    work.plans := tput ((planClusters s slot).foldl finishRole s).work.plans slot x.loadedPlan }

theorem execRoleLoadDone_of_loading {s : State} {slot : Fin 256} {x : Plan} (hx : tget? s.work.plans slot.val = some x)
    (hEnds : (!x.unloadCids.isEmpty || x.bin.roles.any fun r => r.clusters.isEmpty) = false) :
    exec (.roleLoadDone slot) s =
      if x.state != .loading || x.sigWait || !pinsReady s x ||
        (planClusters s slot.val).any fun c => (s.cl c).st == .clearing then .next s
      else .next (endCmd? (rolesLoaded s slot.val x) x.loadCid stOk 0 slot.val) := by
  show execRoleLoadDone slot s = _
  simp only [execRoleLoadDone, hx, hEnds]
  rfl

/-- The last role of a plan is there: the plan is admitted and its load completes (R90, R91). -/
theorem execRoleLoadDone_of_ready {s : State} {slot : Fin 256} {cid : Nat} {x : Plan}
    (hx : tget? s.work.plans slot.val = some x) (hSt : x.state = .loading) (hSig : x.sigWait = false)
    (hUnload : x.unloadCids = []) (hCid : x.loadCid = some cid) (hFull : ∀ r ∈ x.bin.roles, r.clusters ≠ [])
    (hPins : pinsReady s x = true)
    (hClear : ∀ kv ∈ s.work.clusters, kv.2.plan = some slot.val → (s.cl kv.1).st ≠ .clearing) :
    exec (.roleLoadDone slot) s = .next (endCmd (rolesLoaded s slot.val x) cid stOk 0 slot.val) := by
  have hNone : (planClusters s slot.val).any (fun c => (s.cl c).st == .clearing) = false := by
    simp only [planClusters, List.any_eq_false, List.mem_map, List.mem_filter]
    rintro c ⟨kv, ⟨hMem, hPlan⟩, rfl⟩
    simpa using hClear kv hMem (by simpa using hPlan)
  have hGo : (x.state != .loading || x.sigWait || !pinsReady s x ||
      (planClusters s slot.val).any fun c => (s.cl c).st == .clearing) = false := by
    rw [hSt, hSig, hPins, hNone]; rfl
  rw [execRoleLoadDone_of_loading hx (by simpa [hUnload] using hFull), hGo, if_neg Bool.false_ne_true, hCid]
  rfl

/-! PLAN_UNLOAD. -/

/-- A plan that an unload command waits for (R91). -/
def Plan.unloadedBy (x : Plan) (cid : Nat) : Plan :=
  { x with unloadCids := [cid], state := if x.state = .admitted then .unloading else x.state }

/-- The state in which an unload command waits for the release of slot `i` (R91). -/
def unloadStarted (s : State) (cid i : Nat) (x : Plan) : State :=
  { runCmd s cid with work.plans := tput (tput s.work.plans i { x with unloadCids := [cid] }) i (x.unloadedBy cid) }

theorem startUnload_of_listed {s : State} {cid i : Nat} {x : Plan} (hx : tget? s.work.plans i = some x)
    (hUnload : x.unloadCids = []) :
    startUnload { runCmd s cid with work.plans := tupd (runCmd s cid).work.plans i fun y =>
      { y with unloadCids := y.unloadCids ++ [cid] } } i = unloadStarted s cid i x := by
  have hFirst : tupd (runCmd s cid).work.plans i (fun y => { y with unloadCids := y.unloadCids ++ [cid] }) =
      tput s.work.plans i { x with unloadCids := [cid] } := by
    rw [tupd_of_listed (show tget? (runCmd s cid).work.plans i = some x from hx), hUnload]; rfl
  have hThen : (fun p : Plan => if p.state = .admitted then { p with state := .unloading } else p)
      { x with unloadCids := [cid] } = x.unloadedBy cid := by
    simp only [Plan.unloadedBy]
    split <;> rfl
  rw [hFirst]
  simp only [startUnload, tupd_of_listed (tget?_tput_same s.work.plans i { x with unloadCids := [cid] })]
  exact congrArg (fun y => ({ runCmd s cid with
    work.plans := tput (tput s.work.plans i { x with unloadCids := [cid] }) i y } : State)) hThen

theorem execPlanUnload_of_loaded {s : State} {cid : Nat} {c : Cmd} {x : Plan} (hc : cmdOf s cid 0x11 = some c)
    (hHead : headReasons c [(8, 1)] = 0) (hx : tget? s.work.plans (getLE c.bytes 8 1) = some x) (hPart : x.part = c.part)
    (hSt : x.state ≠ .unloading) (hUnload : x.unloadCids = []) :
    exec (.planUnload cid) s = .next (unloadStarted s cid (getLE c.bytes 8 1) x) := by
  have hAux : ¬ headReasons c [(8, 1)] ||| reasons [(!(x.part == c.part), rsName),
      (x.part == c.part && (x.state == .unloading || !x.unloadCids.isEmpty), rsQuiesce)] ≠ 0 := by
    simp [hHead, hPart, hSt, hUnload, reasons]
  rw [← startUnload_of_listed hx hUnload]
  show execPlanUnload cid s = _
  simp only [execPlanUnload, hc, hx, if_neg hAux]

/-! PLAN_RELEASE. -/

/-- A cluster as the release of a plan slot leaves it (R91). -/
def Cluster.freedFrom (x : Cluster) (slot : Nat) : Cluster :=
  if x.plan == some slot then { x.clearUnits with st := .idle, plan := none, role := 0, istore := [] } else x

/-- The state in which a slot without pins has been released, its unloads still to be answered (R91). -/
def released (s : State) (slot : Nat) (x : Plan) : State :=
  { s with
    epo := { s.epo with ctxOwner := tfilter s.epo.ctxOwner fun _ o => o != slot }
    fab := { s.fab with descs := tfilter s.fab.descs fun _ d => d.1 != slot
                        colls := tfilter s.fab.colls fun _ g => (g.desc.map (·.1)) != some slot }
    work := { s.work with
      plans := terase s.work.plans slot
      clusters := tmap s.work.clusters fun _ y => y.freedFrom slot
      models := tfilter s.work.models fun _ m =>
        !(m.prio = 255 && m.part = x.part && x.bin.models.any fun e => e.id = m.id && e.prio = 255) ||
          s.work.plans.any fun kv => kv.1 != slot && kv.2.part = m.part && !kv.2.sigWait &&
            kv.2.bin.models.any fun e => e.id = m.id && e.prio = 255 } }

theorem tfilter_of_all {α : Type} {t : Tab α} {p : Nat → α → Bool} (h : ∀ k a, p k a = true) : tfilter t p = t :=
  List.filter_eq_self.mpr fun kv _ => h kv.1 kv.2

theorem releasePlan_of_no_pins {s : State} {slot : Nat} {x : Plan} (hx : tget? s.work.plans slot = some x) (hPins : x.pins = []) :
    releasePlan s slot = x.unloadCids.foldl (fun t cid => endCmd t cid stOk) (released s slot x) := by
  have hFrames : tfilter s.tier.frames (fun k f => !(List.contains [] k && (s.home f.tile).loc != stackLoc k &&
      (tget? s.tier.moves f.tile).isNone)) = s.tier.frames := tfilter_of_all fun _ _ => rfl
  simp only [releasePlan, hx, hPins, List.foldl_nil, List.filterMap_nil, hFrames]
  rfl

theorem execPlanRelease_of_idle {s : State} {slot : Fin 256} {x : Plan} (hx : tget? s.work.plans slot.val = some x)
    (hSt : x.state = .unloading) (hInvs : ∀ kv ∈ s.work.invs, kv.2.plan ≠ slot.val) (hQueries : queriesOf s slot.val = []) :
    exec (.planRelease slot) s = .next (releasePlan s slot.val) := by
  have hMine : (s.work.invs.filter fun kv => kv.2.plan = slot.val) = [] :=
    List.filter_eq_nil_iff.mpr fun kv hkv => by simpa using hInvs kv hkv
  have hGo : (x.state != .unloading) = false := by rw [hSt]; rfl
  show execPlanRelease slot s = _
  simp only [execPlanRelease, hx, hMine, hQueries, hGo, List.any_nil, Bool.or_self, Bool.false_eq_true, if_false,
    List.map_nil, List.foldl_nil]

theorem released_cl (s : State) (slot : Nat) (x : Plan) (k : Nat) :
    (released s slot x).cl k = (s.cl k).freedFrom slot := by
  show tgetD (tmap s.work.clusters fun _ y => y.freedFrom slot) k {} = _
  rw [tgetD, tget?_tmap, State.cl, tgetD]
  cases tget? s.work.clusters k <;> rfl

/-! The obligation. -/

/-- Settles O15: a load reserves or refuses, the last role admits, an unload waits, and a release frees. -/
theorem plansLoadAndUnload : Obligations.PlansLoadAndUnload := by
  unfold Obligations.PlansLoadAndUnload
  refine ⟨?_, ?_, ?_, ?_, ?_, ?_, ?_⟩
  · intro s cid i c b0 others hc hRole hHead hAlign hBus hForm hPlan hFirst hSlot
    obtain ⟨hVersion, hMulti, hSig, hBin, hRes⟩ := hPlan
    set x : Plan := { part := c.part, bin := planBin (b0.take (getLE c.bytes 0x10 4)), seed := getLE c.bytes 0x18 8
                      loadCid := some cid } with hx
    obtain ⟨y, hy, hHeld, hReserved, hRoles⟩ := reservePlan_of_resources (slot := i) (x := x) hRes
    refine ⟨reservePlan (runCmd s cid) i x, ?_, ⟨y, hHeld, ?_⟩, hRoles, ?_⟩
    · rw [execPlanLoad_of_unsigned hc hRole hHead hAlign hBus hForm hVersion hMulti hSig hFirst hSlot]
      exact congrArg Host.Outcome.next (decidePlan_of_no_reason (x := x) hBin hRes rfl)
    · rw [hy]; exact ⟨rfl, rfl, rfl, rfl, rfl, rfl⟩
    · obtain ⟨_, _, _, _, _, _, _, hFrame⟩ := hReserved
      rw [hFrame]; exact ⟨rfl, rfl, rfl, rfl, rfl, rfl⟩
  · intro s cid c data others hc hRole
    rw [execPlanLoad_of_other_role hc hRole, refusePlan_eq (by decide)]
    rfl
  · intro s cid c b0 others hc hRole hHead hAlign hBus hForm hVersion
    rw [execPlanLoad_of_malformed hc hRole hHead hAlign hBus hForm hVersion, refusePlan_eq (by decide)]
    rfl
  · intro s slot cid c x hx hCid hWait hUnload hc hTurn hBin hRes hOthers
    refine ⟨_, execPlanSignatureVerified_of_turn hx hCid hWait hUnload hc hTurn, fun key hKey hOk => ?_, fun hBad => ?_⟩
    · rw [signatureFails_of_valid hKey hOk, decidePlan_of_no_reason hBin hRes hOthers]
      obtain ⟨y, hy, hHeld, hReserved, hRoles⟩ := reservePlan_of_resources (slot := slot.val) (x := x) hRes
      refine ⟨y, hHeld, by rw [hy], by rw [hy], by rw [hy]; exact hCid, by rw [hy], ?_, fun r hr k hk => ?_⟩
      · obtain ⟨_, _, _, _, _, _, _, hFrame⟩ := hReserved
        rw [hFrame]
      · obtain ⟨hPlan, hRole, -⟩ := hRoles r hr k hk
        exact ⟨hPlan, hRole⟩
    · rw [signatureFails_of_invalid hBad, decidePlan_of_bad_signature hBin hRes hOthers, refusePlan_eq (by decide)]
      rfl
  · intro s slot cid c x hx hSt hSig hUnload hCid hFull hPins hClear hc hRing
    obtain ⟨clusters, hFrame⟩ := finishRoles_clusters s (planClusters s slot.val)
    have hLoaded : rolesLoaded s slot.val x = { s with work := { s.work with
        plans := tput s.work.plans slot.val x.loadedPlan, clusters := clusters } } := by rw [rolesLoaded, hFrame]
    have hEnd := endCmd_of_ringReady (s := rolesLoaded s slot.val x) (by rw [hLoaded]; exact hc)
      (by rw [hLoaded]; exact hRing) (st := stOk) (by decide) 0 slot.val
    refine ⟨_, execRoleLoadDone_of_ready hx hSt hSig hUnload hCid hFull hPins hClear, ?_, fun k hPlan hLoading => ?_, ?_, ?_⟩
    · rw [hEnd, hLoaded]
      exact tget?_tput_same ..
    · rw [hEnd]
      exact finishRoles_cl_of_loading hLoading hPlan hx (mem_planClusters hPlan)
    · rw [hEnd, hLoaded]; rfl
    · rw [hEnd, hLoaded]; rfl
  · intro s cid c x hc hHead hx hPart hSt hUnload
    refine ⟨_, execPlanUnload_of_loaded hc hHead hx hPart hSt hUnload, ⟨_, tget?_tput_same .., rfl⟩, rfl, fun k hk => ?_⟩
    show tget? (tput (tput s.work.plans _ _) _ _) k = _
    rw [tget?_tput_ne _ _ _ _ hk, tget?_tput_ne _ _ _ _ hk]
  · intro s slot x hx hSt hInvs hQueries hPins
    set u := released s slot.val x with hu
    obtain ⟨host, out, pmc, hFrame⟩ := endCmds_onlyPosted u x.unloadCids stOk
    have hCl (k : Nat) : (x.unloadCids.foldl (fun t cid => endCmd t cid stOk) u).cl k = (s.cl k).freedFrom slot.val := by
      rw [hFrame, ← released_cl s slot.val x k]; rfl
    refine ⟨_, execPlanRelease_of_idle hx hSt hInvs hQueries, ?_⟩
    rw [releasePlan_of_no_pins hx hPins, ← hu]
    refine ⟨by rw [hFrame]; rfl, fun k hk => ?_, fun k hk => ?_, ?_, ?_,
      u, by rw [hFrame], rfl, by rw [hFrame], by rw [hFrame], rfl, rfl, rfl, rfl, rfl⟩
    · rw [hCl, Cluster.freedFrom, if_pos (by simp [hk])]
      exact ⟨rfl, rfl, rfl⟩
    · rw [hCl, Cluster.freedFrom, if_neg (by simpa using hk)]
    · rw [hFrame]
      intro kv hkv
      simpa using (List.mem_filter.mp hkv).2
    · rw [hFrame]
      intro kv hkv
      simpa using (List.mem_filter.mp hkv).2

end Sys2Proof.Machine
end

section
/-!
INDEX_OPEN, TABLE_OPEN, their closes, and ROLE_SET (R104, R105, R255 to R257, R301, R377).
-/
namespace Sys2Proof.Machine

theorem RdRes.eq_of_clean {r : RdRes} (hHeld : r.held = false) (hPois : r.poisoned = false) :
    r = ⟨r.bytes, false, false⟩ := by
  cases r; cases hHeld; cases hPois; rfl

/-- A test that no element of a list fails is failed by none. -/
theorem any_not_eq_false {α : Type} {xs : List α} {p : α → Bool} (h : ∀ x ∈ xs, p x = true) :
    (xs.any fun x => !p x) = false := by
  simpa [List.any_eq_false] using h

section
variable {s : State} {cid : Nat} {c : Cmd}

/-- An INDEX_OPEN whose checks pass and whose tiles can be read registers the index under the free number. -/
theorem execIndexOpen_of_clean {i : Nat} (hc : cmdOf s cid 0x18 = some c)
    (hHead : headReasons c [(8, 4)] = 0) (hTile : getLE c.bytes 8 4 < tileCount)
    (hRange : inPrange s c.part (getLE c.bytes 8 4) 1 = true) (hFree : freeIndex s = some i) {desc cb : List Byte}
    (hDesc : readSpan s (getLE c.bytes 8 4 * 65536) 128 = ⟨desc, false, false⟩) (hBad : idxBad desc = false)
    (hVersion : getLE desc 0 2 = 0x0200) (hRanges : ∀ x ∈ idxRanges s (idxD desc), inPrange s c.part x.1 x.2 = true)
    (hIvf : (idxD desc).ivf = false) (hFlat : (idxD desc).flat = false)
    (hCb : readSpan s ((idxD desc).cbTile * 65536) ((idxD desc).dims * 64) = ⟨cb, false, false⟩) :
    exec (.indexOpen cid) s = .next (endCmd { s with
      work.indexes := tput s.work.indexes i { part := c.part, desc := desc, cb := cb, used := usedSlots s (idxD desc) } }
        cid stOk 0 i) := by
  show execIndexOpen cid s = _
  simp only [execIndexOpen, hc, hHead, Nat.mod_eq_of_lt hTile, hRange, Nat.not_le.mpr hTile, decide_false, Bool.not_true,
    hFree, Option.isNone_some, hDesc, hBad, hVersion, versionOk, any_not_eq_false hRanges, hIvf, hFlat, Bool.or_self,
    Bool.not_false, Bool.false_and, Bool.and_false, BEq.rfl, hCb, IdxD.cbBytes, tileBytes, reasons, List.foldl_cons,
    List.foldl_nil, Bool.false_eq_true, if_false, Nat.or_self, ne_eq, not_true_eq_false]

theorem execTableOpen_of_clean {i : Nat} (hc : cmdOf s cid 0x1A = some c)
    (hHead : headReasons c [(8, 4)] = 0) (hTile : getLE c.bytes 8 4 < tileCount)
    (hRange : inPrange s c.part (getLE c.bytes 8 4) 1 = true) (hFree : freeTable s = some i) {desc : List Byte}
    (hDesc : readSpan s (getLE c.bytes 8 4 * 65536) 64 = ⟨desc, false, false⟩) (hBad : tabBad desc = false)
    (hVersion : getLE desc 0 2 = 0x0200) (hRanges : ∀ x ∈ tabRanges (tabD desc), inPrange s c.part x.1 x.2 = true) :
    exec (.tableOpen cid) s = .next (endCmd { s with
      work.tables := tput s.work.tables i { part := c.part, desc := desc } } cid stOk 0 i) := by
  show execTableOpen cid s = _
  simp only [execTableOpen, hc, hHead, Nat.mod_eq_of_lt hTile, hRange, Nat.not_le.mpr hTile, decide_false, Bool.not_true,
    hFree, Option.isNone_some, hDesc, hBad, hVersion, versionOk, any_not_eq_false hRanges, Bool.and_false, BEq.rfl,
    tileBytes, reasons, List.foldl_cons, List.foldl_nil, Bool.false_eq_true, if_false, if_true, Nat.or_self, ne_eq,
    not_true_eq_false]

theorem tableRegistered_of_open {part i : Nat} {x : Table} (hx : tget? s.work.tables i = some x)
    (hPart : x.part = part) (hShut : x.shut = none) : tableRegistered s part i = true := by
  simp [tableRegistered, hx, hPart, hShut]

theorem execIndexClose_of_registered {x : Index} (hc : cmdOf s cid 0x19 = some c) (hHead : headReasons c [(8, 2)] = 0)
    (hNumber : getLE c.bytes 8 2 < 4096) (hx : tget? s.work.indexes (getLE c.bytes 8 2) = some x)
    (hPart : x.part = c.part) (hShut : x.shut = none)
    (hPlans : ∀ p ∈ plansOf s c.part, planNamesIndex p (getLE c.bytes 8 2) = false) :
    exec (.indexClose cid) s = .next (endCmd { s with
      work.indexes := tput s.work.indexes (getLE c.bytes 8 2) { x with shut := some s.work.nextInv } } cid stOk) := by
  have hNamed : ((plansOf s c.part).any fun p => planNamesIndex p (getLE c.bytes 8 2)) = false := by
    simpa [List.any_eq_false] using hPlans
  show execIndexClose cid s = _
  simp only [execIndexClose, hc, hHead, registered_of_open hx hPart hShut, Nat.not_le.mpr hNumber, hNamed, tupd_of_listed hx]
  simp [reasons]

theorem execTableClose_of_registered {x : Table} (hc : cmdOf s cid 0x1B = some c) (hHead : headReasons c [(8, 2)] = 0)
    (hNumber : getLE c.bytes 8 2 < 1024) (hx : tget? s.work.tables (getLE c.bytes 8 2) = some x)
    (hPart : x.part = c.part) (hShut : x.shut = none)
    (hPlans : ∀ p ∈ plansOf s c.part, planNamesTable p (getLE c.bytes 8 2) = false) :
    exec (.tableClose cid) s = .next (endCmd { s with
      work.tables := tput s.work.tables (getLE c.bytes 8 2) { x with shut := some s.work.nextInv } } cid stOk) := by
  have hNamed : ((plansOf s c.part).any fun p => planNamesTable p (getLE c.bytes 8 2)) = false := by
    simpa [List.any_eq_false] using hPlans
  show execTableClose cid s = _
  simp only [execTableClose, hc, hHead, tableRegistered_of_open hx hPart hShut, Nat.not_le.mpr hNumber, hNamed,
    tupd_of_listed hx]
  simp [reasons]

section
variable (hc : cmdOf s cid 0x40 = some c) (hHead : headReasons c [(8, 8), (0x10, 1)] = 0)
  (hRole : getLE c.bytes 0x10 1 ≤ 2) (hAllowed : bitOf s.fab.allowed (getLE c.bytes 0x10 1) = true)
  (hEpoch : s.epo.closed < getLE c.bytes 8 8) (hShift : s.fab.shift = none)
  (hEmpty : s.work.plans = [] ∧ s.work.indexes = [] ∧ s.work.tables = [] ∧ s.tier.home = [])
include hc hHead hRole hAllowed hEpoch hShift hEmpty

/-- On a node without plans, names or homes the role shift waits for its epoch's barrier. -/
theorem execRoleSet_of_owner (hOwner : (s.fn c.fn).owner = true) :
    exec (.roleSet cid) s = .next { s with
      host.cmds := tupd s.host.cmds cid fun x => { x with phase := .running }
      fab.shift := some (getLE c.bytes 0x10 1, getLE c.bytes 8 8, cid) } := by
  obtain ⟨hPlans, hIndexes, hTables, hHome⟩ := hEmpty
  show execRoleSet cid s = _
  simp [execRoleSet, hc, hHead, hOwner, hAllowed, hShift, hPlans, hIndexes, hTables, hHome, Nat.not_lt.mpr hRole,
    Nat.not_le.mpr hEpoch, reasons, runCmd]

theorem execRoleSet_of_other (hOwner : (s.fn c.fn).owner = false) :
    exec (.roleSet cid) s = .next (refuse s cid rsOwner) := by
  obtain ⟨hPlans, hIndexes, hTables, hHome⟩ := hEmpty
  show execRoleSet cid s = _
  simp [execRoleSet, hc, hHead, hOwner, hAllowed, hShift, hIndexes, hTables, hHome, Nat.not_lt.mpr hRole,
    Nat.not_le.mpr hEpoch, reasons, rsOwner]

end
end

/-- Settles O14: each command through its equation when no reason stands against it, and ROLE_SET also for a function that
does not own the node. -/
theorem registrationsOpenAndClose : Obligations.RegistrationsOpenAndClose := by
  unfold Obligations.RegistrationsOpenAndClose
  refine ⟨?indexOpen, ?tableOpen, ?indexClose, ?tableClose, ?roleSet, ?roleRefused⟩
  case indexOpen =>
    intro s cid i c hc hf hv hr hTile hRange hFree
    rintro ⟨hHeld, hPois, hBad, hVersion, hRanges, hIvf, hFlat, hCbHeld, hCbPois⟩
    exact execIndexOpen_of_clean hc (headReasons_of_clean hf hr hv) hTile hRange hFree (RdRes.eq_of_clean hHeld hPois)
      hBad hVersion hRanges hIvf hFlat (RdRes.eq_of_clean hCbHeld hCbPois)
  case tableOpen =>
    intro s cid i c hc hf hv hr hTile hRange hFree
    rintro ⟨hHeld, hPois, hBad, hVersion, hRanges⟩
    exact execTableOpen_of_clean hc (headReasons_of_clean hf hr hv) hTile hRange hFree (RdRes.eq_of_clean hHeld hPois)
      hBad hVersion hRanges
  case indexClose =>
    intro s cid c x hc hf hv hr hNumber hx hPart hShut hPlans
    exact execIndexClose_of_registered hc (headReasons_of_clean hf hr hv) hNumber hx hPart hShut hPlans
  case tableClose =>
    intro s cid c x hc hf hv hr hNumber hx hPart hShut hPlans
    exact execTableClose_of_registered hc (headReasons_of_clean hf hr hv) hNumber hx hPart hShut hPlans
  case roleSet =>
    intro s cid c hc hf hv hr hOwner hRole hAllowed hEpoch hShift hEmpty
    exact execRoleSet_of_owner hc (headReasons_of_clean hf hr hv) hRole hAllowed hEpoch hShift hEmpty hOwner
  case roleRefused =>
    intro s cid c hc hf hv hr hOwner hRole hAllowed hEpoch hShift hEmpty
    exact execRoleSet_of_other hc (headReasons_of_clean hf hr hv) hRole hAllowed hEpoch hShift hEmpty hOwner

end Sys2Proof.Machine
end

section
/-!
A query's vector, the invocation that it starts, and context slots that become free (R110, R112, R368, R489).
-/
namespace Sys2Proof.Machine

/-! The start of a query. -/

theorem freeWords_spec (s : State) (n : Nat) :
    (freeWords s n).1.length = n ∧ (freeWords s n).2 = { s with freeCtr := s.freeCtr + n } := by
  induction n generalizing s with
  | zero => exact ⟨rfl, rfl⟩
  | succ n ih =>
    obtain ⟨hLength, hState⟩ := ih (takeFree s).2
    exact ⟨congrArg (· + 1) hLength, by rw [freeWords, hState, takeFree, Nat.add_right_comm]; rfl⟩

/-- A query without its context or its epoch waits on. -/
theorem startQuery_of_waiting {s : State} {qid : Nat} {q : Query} (h : tget? s.work.queries qid = some q)
    (hWaits : q.ctx = none ∨ q.epoch = none) : startQuery s qid = s := by
  simp only [startQuery, h]
  split
  · next hEpoch hCtx _ => rcases hWaits with h | h <;> simp_all
  · rfl

/-- The invocation that a query starts (R110, R273). -/
def queryInvocation (q : Query) (qid : Nat) (words : List Nat) : Inv :=
  { plan := qSlot q.desc, role := qRole q.desc, part := q.part, words := words, qid := some qid, stamp := q.stamp,
    step := q.step, deadline := some q.deadline, fn := q.fn }

/-- A query of this node alone that has its vector, its epoch and its context is given the next invocation. -/
theorem startQuery_of_ready {s : State} {qid k e : Nat} {q : Query} {v : List F32}
    (h : tget? s.work.queries qid = some q) (hVec : q.vec = some v) (hCtx : q.ctx = some k) (hEpoch : q.epoch = some e)
    (hPlan : (admitted s q.part (qSlot q.desc)).isSome = true) (hInv : q.inv = none) (hHeld : q.held = false)
    (hSpan : qSpan q.desc = false) :
    startQuery s qid = { s with
      freeCtr := s.freeCtr + 16
      work := { s.work with
        nextInv := s.work.nextInv + 1
        queries := tput s.work.queries qid { q with inv := some s.work.nextInv }
        invs := tput s.work.invs s.work.nextInv (queryInvocation q qid (freeWords s 16).1) } } := by
  obtain ⟨p, hPlan⟩ := Option.isSome_iff_exists.mp hPlan
  simp only [startQuery, h, hVec, hEpoch, hCtx, hPlan, hInv, hHeld, hSpan, (freeWords_spec s 16).2, Option.isSome_none,
    Bool.or_self, Bool.false_and, Bool.false_eq_true, if_false, queryInvocation]

/-! QUERY_VECTOR_ARRIVE. -/

section
variable {s : State} {qid : Nat} {q : Query} {x : Index}

/-- The state in which a query has its vector (R112). -/
def withVector (s : State) (qid : Nat) (q : Query) (v : List F32) : State :=
  { s with work.queries := tput s.work.queries qid { q with vec := some v } }

theorem tget?_withVector (s : State) (qid : Nat) (q : Query) (v : List F32) :
    tget? (withVector s qid q v).work.queries qid = some { q with vec := some v } := tget?_tput_same ..

theorem takeQueryVec_of_finite {b : List Byte} (hFinite : qFinite q.desc (idxD x.desc) b = true)
    (hMetric : (idxD x.desc).metric ≠ 1) :
    takeQueryVec s qid q x b = startQuery (withVector s qid q (qVals q.desc (idxD x.desc) b)) qid := by
  simp [takeQueryVec, withVector, hFinite, hMetric]

theorem takeQueryVec_of_not_finite {b : List Byte} (hFinite : qFinite q.desc (idxD x.desc) b = false) :
    takeQueryVec s qid q x b = endQuery s qid (refusal rsData) := by
  simp [takeQueryVec, hFinite]

/-- A vector that is not in the entry node's tier space comes with the event. -/
theorem vector_comes_with_event (hSent : qTierVec q.desc = false ∨ q.entry ≠ none) :
    (qTierVec q.desc && q.entry.isNone) = false := by
  rcases hSent with h | h
  · rw [h, Bool.false_and]
  · rw [Option.isNone_eq_false_iff.mpr (Option.isSome_iff_ne_none.mpr h), Bool.and_false]

variable (hq : tget? s.work.queries qid = some q) (hx : queryIndex s q = some x) (hVec : q.vec = none)
  (hSent : qTierVec q.desc = false ∨ q.entry ≠ none)
include hq hx hVec hSent

theorem execQueryVectorArrive_of_sent (b : List Byte) :
    exec (.queryVectorArrive qid (.ok b)) s = .next (takeQueryVec s qid q x b) := by
  show execQueryVectorArrive qid (.ok b) s = _
  simp only [execQueryVectorArrive, hq, hx, hVec, vector_comes_with_event hSent, Option.isSome_none,
    Bool.false_eq_true, if_false]

theorem execQueryVectorArrive_of_failed :
    exec (.queryVectorArrive qid .failed) s = .next (endQuery s qid (refusal rsHostio)) := by
  show execQueryVectorArrive qid .failed s = _
  simp only [execQueryVectorArrive, hq, hx, hVec, vector_comes_with_event hSent, Option.isSome_none,
    Bool.false_eq_true, if_false]

end

theorem endCmd_refused_of_ringReady {s : State} {cid : Nat} {c : Cmd} (hc : tget? s.host.cmds cid = some c)
    (h : ringReady s c) (aux v : Nat) :
    endCmd s cid stAdmitRefused aux v =
      count (completed s cid c (completion s c stAdmitRefused aux v)) c.part Ev.cmdRefused := by
  simp only [endCmd, hc, if_true]
  rw [postCmd_of_ringReady h]
  rfl

/-- What is seen of the refusal of a query that has not started: its command's completion, and that the query is gone. -/
theorem endQuery_refused {s : State} {qid cid aux : Nat} {q : Query} {c : Cmd} (hq : tget? s.work.queries qid = some q)
    (hAt : q.at_ = none) (hInv : q.inv = none) (hEntry : q.entry = none) (hCid : q.cid = some cid)
    (hc : tget? s.host.cmds cid = some c) (hRing : ringReady s c) (hAux : aux ≠ 0) :
    (endQuery s qid (refusal aux)).out = s.out ++ [completion s c stAdmitRefused aux (q.epoch.getD 0)] ∧
      (endQuery s qid (refusal aux)).work.queries = terase s.work.queries qid := by
  have hStatus : endStatus (refusal aux) = stAdmitRefused := by simp only [endStatus, refusal, stAdmitRefused]; omega
  have hReason : endAux (refusal aux) = aux := by
    have hNe : refusal aux ≠ stAdmitRefused := show stAdmitRefused + aux * 65536 ≠ stAdmitRefused by omega
    rw [endAux, if_neg hNe, refusal, stAdmitRefused]
    omega
  rw [endQuery_of_idle hq hAt hInv hEntry, hCid, hStatus, hReason, endCmd?,
    endCmd_refused_of_ringReady (s := withoutQuery s qid q) hc hRing, count_eq]
  exact ⟨rfl, rfl⟩

/-! Which work a free context slot goes to. -/

theorem mem_of_leastBy {α : Type} {lt : α → α → Bool} {xs : List α} {a : α} (h : leastBy lt xs = some a) : a ∈ xs := by
  obtain _ | ⟨x, xs⟩ := xs
  · cases h
  · obtain rfl := Option.some.inj h
    refine List.foldlRecOn xs _ (motive := (· ∈ x :: xs)) (List.mem_cons_self ..) fun b hb y hy => ?_
    split
    · exact List.mem_cons_of_mem _ hy
    · exact hb

theorem ctxQuery_some {s : State} {k : Nat} {kv : Nat × Query} (h : ctxQuery s k = some kv) :
    kv ∈ s.work.queries ∧ kv.2.ctx = none := by
  have hMem := mem_of_leastBy h
  simp only [List.mem_filter, Bool.and_eq_true, Option.isNone_iff_eq_none] at hMem
  exact ⟨hMem.1, hMem.2.1⟩

theorem ctxUpdate_some {s : State} {kv : Nat × Update} (h : ctxUpdate s = some kv) :
    kv ∈ s.epo.updates ∧ kv.2.ctx = none ∧ kv.2.st = .allocated := by
  simpa using mem_of_leastBy h

theorem ctxQuery_of_one_waiting {s : State} {k qid : Nat} {q : Query} (h : s.work.queries = [(qid, q)])
    (hCtx : q.ctx = none) (hOwner : tget? s.epo.ctxOwner k = none ∨ tget? s.epo.ctxOwner k = some (qSlot q.desc)) :
    ctxQuery s k = some (qid, q) := by
  rcases hOwner with hOwner | hOwner <;> simp [ctxQuery, h, hCtx, hOwner, leastBy]

theorem ctxUpdate_of_one_waiting {s : State} {uid : Nat} {u : Update} (h : s.epo.updates = [(uid, u)])
    (hCtx : u.ctx = none) (hSt : u.st = .allocated) : ctxUpdate s = some (uid, u) := by
  simp [ctxUpdate, h, hCtx, hSt, leastBy]

section
variable {s : State} {ctx : Fin 262144}

section
variable (hUsed : tget? s.epo.ctxUsed ctx.val = none) (hRetired : tget? s.epo.ctxRetired ctx.val = none)
include hUsed hRetired

/-- The slot goes to the query that waits longest, unless an update that may take it is older. -/
theorem execContextFree_to_query {qid : Nat} {q : Query} (hQuery : ctxQuery s ctx.val = some (qid, q))
    (hFirst : ∀ kv, ctxUpdate s = some kv → q.stamp ≤ kv.2.lrec.stamp) :
    exec (.contextFree ctx) s = .next (takeQueryCtx s qid) := by
  show execContextFree ctx s = _
  simp only [execContextFree, hUsed, hRetired, Option.isSome_none, Bool.or_self, Bool.false_eq_true, if_false, hQuery]
  generalize hUpd : (if (tget? s.epo.ctxOwner ctx.val).isNone then ctxUpdate s else none) = upd
  cases upd with
  | none => rfl
  | some kv =>
    have hOldest : ctxUpdate s = some kv := by
      split at hUpd
      · exact hUpd
      · cases hUpd
    exact congrArg Host.Outcome.next (if_neg (Nat.not_lt.mpr (hFirst kv hOldest)))

/-- An unreserved slot goes to the update that waits longest, when no query is as old. -/
theorem execContextFree_to_update {uid : Nat} {u : Update} (hOwner : tget? s.epo.ctxOwner ctx.val = none)
    (hUpdate : ctxUpdate s = some (uid, u)) (hFirst : ∀ kv, ctxQuery s ctx.val = some kv → u.lrec.stamp < kv.2.stamp) :
    exec (.contextFree ctx) s = .next (takeUpdCtx s uid) := by
  show execContextFree ctx s = _
  simp only [execContextFree, hUsed, hRetired, hOwner, Option.isSome_none, Option.isNone_none, Bool.or_self,
    Bool.false_eq_true, if_false, if_true, hUpdate]
  cases hQuery : ctxQuery s ctx.val with
  | none => rfl
  | some kv => exact congrArg Host.Outcome.next (if_pos (hFirst kv hQuery))

end

theorem execContextFree_of_none_waiting (hQuery : ctxQuery s ctx.val = none) (hUpdate : ctxUpdate s = none) :
    exec (.contextFree ctx) s = .next s := by
  show execContextFree ctx s = _
  simp only [execContextFree, hQuery, hUpdate, ite_self]

end

/-- An update without its vector takes a free context slot, and waits on. -/
theorem takeUpdCtx_of_free {s : State} {uid k : Nat} {u : Update} (h : tget? s.epo.updates uid = some u)
    (hFree : updCtxFree s = some k) (hReady : u.ready = false) :
    takeUpdCtx s uid = { s with epo := { s.epo with
      ctxUsed := tput s.epo.ctxUsed k true, updates := tput s.epo.updates uid { u with ctx := some k } } } := by
  simp only [takeUpdCtx, hFree, tupd_of_listed h]
  exact logUpdate_of_not_ready (tget?_tput_same ..) hReady

/-- Settles O18: a vector through what it starts or refuses, and a free slot through the work that waits longest. -/
theorem queryVectorsAndContexts : Obligations.QueryVectorsAndContexts := by
  unfold Obligations.QueryVectorsAndContexts
  refine ⟨?kept, ?started, ?notFinite, ?notRead, ?toQuery, ?toUpdate, ?noneWaiting⟩
  case kept =>
    intro s qid q x b hq hx hVec hSent hFinite hMetric hWaits
    rw [execQueryVectorArrive_of_sent hq hx hVec hSent, takeQueryVec_of_finite hFinite hMetric,
      startQuery_of_waiting (tget?_withVector ..) hWaits, withVector]
  case started =>
    intro s qid k e q x b hq hx hVec hSent hFinite hMetric hCtx hEpoch hInv hHeld hPlan hSpan
    refine ⟨_, execQueryVectorArrive_of_sent hq hx hVec hSent _, ?_⟩
    rw [takeQueryVec_of_finite hFinite hMetric,
      startQuery_of_ready (tget?_withVector ..) rfl hCtx hEpoch hPlan hInv hHeld hSpan, withVector, tput_tput_same]
    exact ⟨rfl, _, (freeWords_spec _ 16).1, rfl⟩
  case notFinite =>
    intro s qid cid q x b c hq hx hVec hTier hEntry hFinite hInv hAt hCid hc hRing
    refine ⟨_, execQueryVectorArrive_of_sent hq hx hVec (.inl hTier) _, ?_⟩
    rw [takeQueryVec_of_not_finite hFinite]
    exact endQuery_refused hq hAt hInv hEntry hCid hc hRing (by decide)
  case notRead =>
    intro s qid cid q x c hq hx hVec hTier hEntry hInv hAt hCid hc hRing
    exact ⟨_, execQueryVectorArrive_of_failed hq hx hVec (.inl hTier),
      endQuery_refused hq hAt hInv hEntry hCid hc hRing (by decide)⟩
  case toQuery =>
    intro s ctx qid k q hUsed hRetired hQueries hCtx hVec hInj hOwner hOldest hFree
    have hq : tget? s.work.queries qid = some q := by simp [hQueries, tget?]
    rw [execContextFree_to_query hUsed hRetired (ctxQuery_of_one_waiting hQueries hCtx hOwner) fun kv hkv => ?_,
      takeQueryCtx_of_free hq hFree hVec hInj]
    · simp [hQueries, tput]
    · obtain ⟨hMem, hNoCtx, hSt⟩ := ctxUpdate_some hkv
      exact hOldest kv hMem hNoCtx hSt
  case toUpdate =>
    intro s ctx uid k u hUsed hRetired hOwner hUpdates hCtx hSt hReady hOldest hFree
    have hu : tget? s.epo.updates uid = some u := by simp [hUpdates, tget?]
    rw [execContextFree_to_update hUsed hRetired hOwner (ctxUpdate_of_one_waiting hUpdates hCtx hSt) fun kv hkv => ?_,
      takeUpdCtx_of_free hu hFree hReady]
    · simp [hUpdates, tput]
    · obtain ⟨hMem, hNoCtx⟩ := ctxQuery_some hkv
      exact hOldest kv hMem hNoCtx
  case noneWaiting =>
    intro s ctx hQueries hUpdates
    refine execContextFree_of_none_waiting ?_ ?_
    · exact Option.eq_none_iff_forall_ne_some.mpr fun kv h => hQueries kv (ctxQuery_some h).1 (ctxQuery_some h).2
    · refine Option.eq_none_iff_forall_ne_some.mpr fun kv h => ?_
      obtain ⟨hMem, hNoCtx, hSt⟩ := ctxUpdate_some h
      exact (hUpdates kv hMem).elim (· hNoCtx) (· hSt)

end Sys2Proof.Machine
end

section
/-!
What a write of the node itself leaves in flash (R348, R352).
-/
namespace Sys2Proof.Machine

theorem mwriteN_append (m : Mem) (a : Nat) (xs ys : List Byte) :
    mwriteN m a (xs ++ ys) = mwriteN (mwriteN m a xs) (a + xs.length) ys := by
  induction xs generalizing m a with
  | nil => rfl
  | cons x xs ih => simp only [List.cons_append, mwriteN, ih, List.length_cons, Nat.add_assoc, Nat.add_comm 1]

theorem mreadN_mwriteN_same {m : Mem} (a : Nat) (bs : List Byte) (h : memWf m = true) :
    mreadN (mwriteN m a bs) a bs.length = bs := by
  refine List.ext_getElem (by simp [mreadN]) fun i hi _ => ?_
  have hlt : i < bs.length := by simpa [mreadN] using hi
  simp [mreadN, storesAt_mwriteN a bs h (a + i), hlt]

theorem length_slice (bs : List Byte) (off len : Nat) : (slice bs off len).length = len := by
  simp only [slice, List.length_append, List.length_replicate, List.length_take, List.length_drop]
  omega

theorem allocUnit_mem {s t : State} {pu : PhysUnit} (h : allocUnit s = some (pu, t)) : t.flash.mem = s.flash.mem := by
  unfold allocUnit at h
  dsimp only at h
  split at h
  · cases h
  · split at h
    · cases h
    · obtain ⟨-, rfl⟩ := Prod.mk.inj (Option.some.inj h)
      rfl

/-- The bytes up to a boundary, and then those between it and the next one. -/
theorem mwriteN_take_step (m : Mem) (addr : Nat) (bs : List Byte) {lo next : Nat} (hLo : addr ≤ lo)
    (hIn : lo ≤ addr + bs.length) (hNext : lo ≤ next) :
    mwriteN (mwriteN m addr (bs.take (lo - addr))) lo
        ((bs.drop (lo - addr)).take (min (addr + bs.length) next - lo)) =
      mwriteN m addr (bs.take (next - addr)) := by
  have hPart : (bs.drop (lo - addr)).take (min (addr + bs.length) next - lo) = (bs.drop (lo - addr)).take (next - lo) := by
    rw [List.take_eq_take_iff, List.length_drop]
    omega
  have hLen : addr + (bs.take (lo - addr)).length = lo := by rw [List.length_take]; omega
  rw [show next - addr = (lo - addr) + (next - lo) by omega, List.take_add, mwriteN_append, hLen, hPart]

/-- Bytes laid unit by unit: `n` units from the first hold what lies in them. -/
theorem foldl_units_mem {f : State → Nat → State} {addr : Nat} {bs : List Byte}
    (hf : ∀ t u, (f t u).flash.mem = mwriteN t.flash.mem (max addr (u * 32768))
      ((bs.drop (max addr (u * 32768) - addr)).take
        (min (addr + bs.length) ((u + 1) * 32768) - max addr (u * 32768))))
    (s : State) (n : Nat) (hn : n ≤ (addr % 32768 + bs.length + 32768 - 1) / 32768) :
    (((List.range n).map (addr / 32768 + ·)).foldl f s).flash.mem =
      mwriteN s.flash.mem addr (bs.take ((addr / 32768 + n) * 32768 - addr)) := by
  induction n with
  | zero => rw [show (addr / 32768 + 0) * 32768 - addr = 0 by omega]; rfl
  | succ n ih =>
    have hHere := mwriteN_take_step s.flash.mem addr bs (lo := max addr ((addr / 32768 + n) * 32768))
      (next := (addr / 32768 + n + 1) * 32768) (by omega) (by omega) (by omega)
    rw [List.range_succ, List.map_append, List.foldl_append, List.map_singleton, List.foldl_cons, List.foldl_nil, hf,
      ih (by omega),
      show (addr / 32768 + n) * 32768 - addr = max addr ((addr / 32768 + n) * 32768) - addr by omega]
    exact hHere

/-- A write of the node itself stores its bytes. -/
theorem flashStore_mem (s : State) (addr : Nat) (bs : List Byte) :
    (flashStore s addr bs).flash.mem = mwriteN s.flash.mem addr bs := by
  obtain rfl | hbs := eq_or_ne bs []
  · rfl
  · have hEmpty : bs.isEmpty = false := by simpa using hbs
    have hAt (u : Nat) : u * 32768 + (max addr (u * 32768) - u * 32768) = max addr (u * 32768) := by omega
    simp only [flashStore, hEmpty, Bool.false_eq_true, if_false]
    refine (foldl_units_mem (fun t u => ?_) s _ (Nat.le_refl _)).trans (by rw [List.take_of_length_le (by omega)])
    cases hAlloc : allocUnit t with
    | none => exact congrArg (mwriteN t.flash.mem · _) (hAt u)
    | some x => exact (congrArg (mwriteN x.2.flash.mem · _) (hAt u)).trans (by rw [allocUnit_mem (pu := x.1) hAlloc]; rfl)

end Sys2Proof.Machine
end

section
/-!
WINSERT and WDELETE (R132, R245).
-/
namespace Sys2Proof.Machine

theorem namedIndex_taken (s : State) (c w v : Nat) : namedIndex (taken s c w) c v = namedIndex s c v := by
  simp only [namedIndex, clConst_taken]

theorem updCtx_of_no_ctx {s : State} {u : Update} (h : u.ctx = none) (uid : Nat) : updCtx s uid u = (false, s) := by
  simp only [updCtx, h]

/-- A unit that stands ready does not work on an insert. -/
theorem not_working_of_unitAt {s : State} {c op w : Nat} (h : unitAt s c 2 op w) :
    (((s.cl c).unit 2).wait == .work && ((s.cl c).word 2).map wOp == some 0x06) = false := by
  obtain ⟨-, -, -, hWait, -⟩ := h
  rw [hWait]; rfl

/-! The first run of a WINSERT. -/

/-- An insert of a graph index without metadata, prepared (R132). -/
def preparedInsert (d : IdxD) (cb : List Byte) (u : Update) : Update :=
  { u with
    code := encodeVec d cb (recVector d u.lrec), norm := normF (recVector d u.lrec), list := none, prepDone := true
    st := if u.st = .committed then .prepared else u.st }

/-- The state in which an insert's vector is on flash (R132). -/
def vectorStored (s : State) (d : IdxD) (u : Update) : State :=
  flashStore s (vecAddr d (u.slot.getD 0)) (slice u.lrec.payload 0 d.vstride)

theorem prepare_of_graph {s : State} {x : Index} {uid : Nat} {u : Update} (hMeta : (idxD x.desc).metaBytes = 0)
    (hFlat : (idxD x.desc).flat = false) (hIvf : (idxD x.desc).ivf = false) :
    prepare s x uid u = putUpd (vectorStored s (idxD x.desc) u) uid (preparedInsert (idxD x.desc) x.cb u) := by
  simp only [prepare, hMeta, hFlat, nearestList, hIvf, if_true, Bool.false_eq_true, if_false, Bool.not_false, beq_iff_eq,
    vectorStored, preparedInsert]

theorem vectorStored_mem (s : State) (d : IdxD) (u : Update) (h : memWf s.flash.mem = true) :
    mreadN (vectorStored s d u).flash.mem (vecAddr d (u.slot.getD 0)) d.vstride = slice u.lrec.payload 0 d.vstride := by
  have hRead := mreadN_mwriteN_same (vecAddr d (u.slot.getD 0)) (slice u.lrec.payload 0 d.vstride) h
  rw [length_slice] at hRead
  rw [vectorStored, flashStore_mem, hRead]

/-- A ready WINSERT with an insert to prepare does so, and its unit works on. -/
theorem execWinsert_prepares {s : State} {c : Fin 128} {w uid : Nat} {u : Update} {x : Index}
    (h : unitAt s c.val 2 0x06 w) (hToDo : insertToDo s (s.cl c.val).part (namedIndex s c.val w) = some (uid, u))
    (hx : tget? s.work.indexes u.lrec.index = some x) (hCtx : u.ctx = none) (hPrep : u.prepDone = false)
    (hu : tget? s.epo.updates uid = some u) :
    exec (.winsert c) s = .next (setWait (prepare (taken s c.val w) x uid { u with by_ := some c.val }) c.val 2 .work) := by
  have hToDo' : insertToDo (taken s c.val w) ((taken s c.val w).cl c.val).part (namedIndex (taken s c.val w) c.val w) =
      some (uid, u) := by rw [namedIndex_taken, part_taken]; exact hToDo
  have hx' : tget? (taken s c.val w).work.indexes u.lrec.index = some x := hx
  have hu' : tgetD (taken s c.val w).epo.updates uid u = u := tgetD_of_listed hu u
  show execWinsert c s = _
  simp only [execWinsert, not_working_of_unitAt h, Bool.false_eq_true, if_false]
  rw [issueW_of_unitAt h]
  simp only [hToDo', hx', updCtx_of_no_ctx hCtx, hu', hPrep, Bool.false_eq_true, if_false]

/-- A ready WINSERT without an insert waits. -/
theorem execWinsert_waits {s : State} {c : Fin 128} {w : Nat} (h : unitAt s c.val 2 0x06 w)
    (hNone : insertToDo s (s.cl c.val).part (namedIndex s c.val w) = none) :
    exec (.winsert c) s = .next ((taken s c.val w).setCl c.val (s.cl c.val)) := by
  have hNone' : insertToDo (taken s c.val w) ((taken s c.val w).cl c.val).part (namedIndex (taken s c.val w) c.val w) =
      none := by rw [namedIndex_taken, part_taken]; exact hNone
  show execWinsert c s = _
  simp only [execWinsert, not_working_of_unitAt h, Bool.false_eq_true, if_false]
  rw [issueW_of_unitAt_held (t := taken s c.val w) h (by simp only [hNone']), taken_cl]

theorem taken_setCl_cl (s : State) (c w k : Nat) : ((taken s c w).setCl c (s.cl c)).cl k = s.cl k := by
  by_cases hk : k = c
  · rw [hk, State.cl_setCl_same]
  · rw [State.cl_setCl_ne _ _ _ _ hk, taken, State.cl_setCl_ne _ _ _ _ hk]

/-! Its second run. -/

/-- The insert that a cluster has taken up. -/
def insertInWork (s : State) (c : Nat) : Option (Nat × Update) :=
  tfind? s.epo.updates fun _ u => u.by_ == some c && !u.edgesDone

theorem execWinsert_stages {s : State} {c : Fin 128} {w uid : Nat} {u : Update} {x : Index}
    (hWait : ((s.cl c.val).unit 2).wait = .work) (hWord : (s.cl c.val).word 2 = some w) (hOp : wOp w = 6)
    (hWork : insertInWork s c.val = some (uid, u)) (hCtx : u.ctx = none) (hu : tget? s.epo.updates uid = some u)
    (hx : tget? s.work.indexes u.lrec.index = some x) :
    exec (.winsert c) s = .next (resume (stageEdges s x uid u) c.val 2 .work) := by
  have hSecond : (((s.cl c.val).unit 2).wait == .work && ((s.cl c.val).word 2).map wOp == some 0x06) = true := by
    rw [hWait, hWord, Option.map_some, hOp]; rfl
  rw [insertInWork] at hWork
  show execWinsert c s = _
  simp only [execWinsert, hSecond, if_true, hWork, updCtx_of_no_ctx hCtx, tgetD_of_listed hu, hx]

/-! WDELETE. -/

/-- The oldest delete of a partition, and of an index where one is named, whose tombstone is not staged. -/
def deleteToDo (s : State) (part : Nat) (i : Option Nat) : Option (Nat × Update) :=
  tfind? s.epo.updates fun _ u => u.part = part && u.oldSlot.isSome && !u.staged && u.st == .prepared &&
    (match i with
      | some n => u.lrec.index == n
      | none => true)

theorem execWdelete_of_delete {s : State} {c : Fin 128} {w uid : Nat} {u : Update} (h : unitAt s c.val 2 0x07 w)
    (hToDo : deleteToDo s (s.cl c.val).part (namedIndex s c.val w) = some (uid, u)) :
    exec (.wdelete c) s = .next (retire (putUpd (taken s c.val w) uid { u with staged := true }) c.val 2) := by
  have hToDo' : deleteToDo (taken s c.val w) ((taken s c.val w).cl c.val).part (namedIndex (taken s c.val w) c.val w) =
      some (uid, u) := by rw [namedIndex_taken, part_taken]; exact hToDo
  show execWdelete c s = _
  rw [execWdelete, issueR_of_unitAt h]
  show Host.Outcome.next (retire (match deleteToDo (taken s c.val w) ((taken s c.val w).cl c.val).part
    (namedIndex (taken s c.val w) c.val w) with
      | none => taken s c.val w
      | some (uid, u) => putUpd (taken s c.val w) uid { u with staged := true }) c.val 2) = _
  rw [hToDo']

end Sys2Proof.Machine
end

section
/-!
Records read and written in a tile that a stack holds (R106, R213, R240, R389).
-/
namespace Sys2Proof.Machine

theorem readSpan_of_plain {s : State} {addr len : Nat} (h : plainTile s (addr / 65536)) (h0 : 0 < len)
    (hfit : addr % 65536 + len ≤ 65536) : readSpan s addr len = ⟨mreadN s.tier.mem addr len, false, false⟩ := by
  have hAddr : addr / 65536 * 65536 + addr % 65536 = addr := by omega
  simp [readSpan, pieces_within_tile h0 hfit, readTile_of_plain h hfit, hAddr]

/-- A store makes no line of a tile uncorrectable. -/
theorem applyBytes_pois (s : State) (t off : Nat) (bs : List Byte) :
    (∀ kv ∈ (applyBytes s t off bs).tier.pois64, kv ∈ s.tier.pois64) ∧
      ∀ kv ∈ (applyBytes s t off bs).tier.pois256, kv ∈ s.tier.pois256 := by
  unfold applyBytes
  split
  · exact ⟨fun _ h => h, fun _ h => h⟩
  · split
    · rw [count_eq]; exact ⟨fun _ h => h, fun _ h => h⟩
    · dsimp only [dropOwnLines]
      rw [touch_eq]
      exact ⟨fun _ h => List.mem_of_mem_filter h, fun _ h => List.mem_of_mem_filter h⟩

theorem any_eq_false_of_subset {α : Type} {xs ys : List α} {p : α → Bool} (hSub : ∀ x ∈ xs, x ∈ ys)
    (h : ys.any p = false) : xs.any p = false :=
  List.any_eq_false.mpr fun x hx => List.any_eq_false.mp h x (hSub x hx)

/-- A tile that running work reads as the stacks hold it still is one after a store into it. -/
theorem plainTile_applyBytes {s : State} {t : Nat} (h : plainTile s t) (off : Nat) {bs : List Byte} (hbs : bs ≠ []) :
    plainTile (applyBytes s t off bs) t := by
  obtain ⟨hMapped, hGood, hTier, hRes, hMove, hPois⟩ := h
  obtain ⟨hSub64, hSub256⟩ := applyBytes_pois s t off bs
  obtain ⟨p64, p256, dirty, frames, age, regions, hEq, -⟩ := applyBytes_eq hbs hRes off
  have hHome : (applyBytes s t off bs).home = s.home := by rw [hEq]; rfl
  refine ⟨by rw [hHome]; exact hMapped, by rw [hHome]; exact hGood, by rw [hHome]; exact hTier, by rw [hEq]; exact hRes,
    by rw [hEq]; exact hMove, ?_⟩
  have hSt : ((s.home t).st == HState.unmapped) = false := by simpa using hMapped
  simp only [intervalPoisoned, hSt, hTier, hHome, Nat.reduceEqDiff, decide_false, Bool.or_self, Bool.false_eq_true,
    if_false, Bool.or_eq_false_iff] at hPois ⊢
  exact ⟨any_eq_false_of_subset hSub64 hPois.1, any_eq_false_of_subset hSub256 hPois.2⟩

theorem regCharges_adm (s : State) (part : Nat) (ds : List (Nat × Nat)) :
    ∃ adm, ds.foldl (fun t x => regCharge t part (.stack x.1) x.2) s = { s with host.adm := adm } :=
  List.foldlRecOn ds _ (motive := fun t => ∃ adm, t = { s with host.adm := adm }) ⟨_, rfl⟩ fun _ ⟨_, ht⟩ _ _ =>
    ⟨_, by rw [ht]; rfl⟩

/-- Bytes of the node's own work, stored in a tile homed in a stack: they are charged, and stored at once. -/
theorem ownWrite_of_stack_home {s : State} {addr loc : Nat} {bs : List Byte} (hbs : bs ≠ [])
    (hfit : addr % 65536 + bs.length ≤ 65536) (h : s.home (addr / 65536) = ⟨.home, 1, loc⟩) (part : Nat) :
    ∃ adm, ownWrite s part addr bs = applyBytes { s with host.adm := adm } (addr / 65536) (addr % 65536) bs := by
  obtain ⟨adm, hCharged⟩ := regCharges_adm s part (stackDraws s addr bs.length)
  refine ⟨adm, ?_⟩
  rw [ownWrite, hCharged, writeSpan_of_stack_home (s := { s with host.adm := adm }) hbs hfit h]

/-- Such a store leaves all but the regulators' accounts and the tiers, homes among them, and the tile reads as before. -/
theorem ownWrite_of_plain {s : State} {addr : Nat} {bs : List Byte} (hbs : bs ≠ [])
    (hfit : addr % 65536 + bs.length ≤ 65536) (h : plainTile s (addr / 65536))
    (hSt : (s.home (addr / 65536)).st = .home) (part : Nat) :
    ∃ adm tier, ownWrite s part addr bs = { s with host.adm := adm, tier := tier } ∧
      tier.mem = mwriteN s.tier.mem addr bs ∧ tier.home = s.tier.home ∧
      plainTile { s with host.adm := adm, tier := tier } (addr / 65536) := by
  obtain ⟨-, -, hTier, hRes, -⟩ := id h
  have hHome : s.home (addr / 65536) = ⟨.home, 1, (s.home (addr / 65536)).loc⟩ := by rw [← hSt, ← hTier]
  have hAddr : addr / 65536 * 65536 + addr % 65536 = addr := by omega
  obtain ⟨adm, hWrite⟩ := ownWrite_of_stack_home hbs hfit hHome part
  have hPlain := plainTile_applyBytes (s := { s with host.adm := adm }) h (addr % 65536) hbs
  obtain ⟨p64, p256, dirty, frames, age, regions, hEq, -⟩ :=
    applyBytes_eq (s := { s with host.adm := adm }) hbs hRes (addr % 65536)
  rw [hEq] at hWrite hPlain
  exact ⟨adm, _, hWrite, by rw [hAddr], rfl, hPlain⟩

/-! Records. -/

/-- The clusters drop their copies of a record that is written. -/
theorem writeRecord_cl (s : State) (i part : Nat) (d : IdxD) (slot : Nat) (r : RecD) (c : Nat) :
    (writeRecord s i part d slot r).cl c = { (ownWrite s part (recAddr d slot) r.bytes).cl c with
      recs := ((ownWrite s part (recAddr d slot) r.bytes).cl c).recs.filter fun l => !(l.index == i && l.slot == slot) } := by
  simp only [State.cl, writeRecord, tgetD, tget?_tmap]
  cases tget? (ownWrite s part (recAddr d slot) r.bytes).work.clusters c <;> rfl

theorem RecD.length_bytes (r : RecD) : r.bytes.length = 256 := by
  simp [RecD.bytes, length_slice, List.length_flatMap]

theorem RecD.length_edges_of (b : List Byte) : (RecD.of b).edges.length ≤ 32 := by
  simp [RecD.of]

/-- The mark of a tombstone, as the record's bytes hold it (R106). -/
theorem recTomb_bytes {r : RecD} (h : r.edges.length ≤ 32) : recTomb r.bytes = r.tomb := by
  have hByte : getLE r.bytes 2 1 = (r.edges.length + 64 * b2n r.tomb) % 256 := by
    simp [RecD.bytes, getLE, leBytes, leNat]
  rw [recTomb, hByte, bitOf]
  cases hTomb : r.tomb
  · simp only [b2n, Bool.false_eq_true, if_false, beq_eq_false_iff_ne]; omega
  · simp only [b2n, if_true, beq_iff_eq]; omega

section
variable {s : State} {d : IdxD} {slot : Nat} (hSlot : slot < 256)
include hSlot

theorem recAddr_in_first_tile : recAddr d slot / 65536 = d.recTile ∧ recAddr d slot % 65536 + 256 ≤ 65536 := by
  simp only [recAddr, tileBytes]; omega

theorem recRead_of_plain (h : plainTile s d.recTile) :
    recRead s d slot = (mreadN s.tier.mem (recAddr d slot) 256, false) := by
  obtain ⟨hTile, hfit⟩ := recAddr_in_first_tile (d := d) hSlot
  have hLen : (mreadN s.tier.mem (recAddr d slot) 256).length = 256 := by simp [mreadN]
  have hSlice := slice_whole (mreadN s.tier.mem (recAddr d slot) 256)
  rw [hLen] at hSlice
  simp only [recRead, readSpan_of_plain (by rw [hTile]; exact h) (by omega) hfit, hSlice]

/-- A record written whole: its bytes are in the stack, and its tile reads as before. -/
theorem writeRecord_of_plain (h : plainTile s d.recTile) (hSt : (s.home d.recTile).st = .home) (i part : Nat) (r : RecD) :
    ∃ t, writeRecord s i part d slot r = t ∧ t.tier.mem = mwriteN s.tier.mem (recAddr d slot) r.bytes ∧
      t.tier.home = s.tier.home ∧ t.flash = s.flash ∧ t.epo = s.epo ∧ plainTile t d.recTile ∧
      ∀ c, ∃ recs, t.cl c = { s.cl c with recs := recs } := by
  obtain ⟨hTile, hfit⟩ := recAddr_in_first_tile (d := d) hSlot
  have hne : r.bytes ≠ [] := List.ne_nil_of_length_pos (by rw [r.length_bytes]; omega)
  obtain ⟨adm, tier, hWrite, hMem, hHome, hPlain⟩ := ownWrite_of_plain (part := part) hne
    (by rw [r.length_bytes]; exact hfit) (by rw [hTile]; exact h) (by rw [hTile]; exact hSt)
  rw [hTile] at hPlain
  have hCl (c : Nat) : ∃ recs, (writeRecord s i part d slot r).cl c = { s.cl c with recs := recs } :=
    ⟨_, by rw [writeRecord_cl, hWrite]; rfl⟩
  refine ⟨_, rfl, ?_, ?_, ?_, ?_, ?_, hCl⟩ <;> dsimp only [writeRecord] <;> rw [hWrite]
  · exact hMem
  · exact hHome
  · exact hPlain

end

end Sys2Proof.Machine
end

section
/-!
WREPAIR (R136).
-/
namespace Sys2Proof.Machine

/-- The record tiles of a repair that begins at the first one and takes one. -/
theorem repairTiles_of_first {total : Nat} (h : 1 ≤ total) (first : Nat) :
    (List.range total).filter (fun k => decide (first ≤ first + k) && decide (first + k < first + 1)) = [0] := by
  obtain ⟨n, rfl⟩ := Nat.exists_eq_add_of_le' h
  simp [List.range_succ_eq_map, List.filter_map, List.filter_eq_nil_iff]

theorem cleanEntries_of_none_gone (s : State) (x : Index) : cleanEntries s x [] = s := by
  simp [cleanEntries]

theorem expiredTomb_of_live (s : State) (x : Index) (slot : Nat) : expiredTomb s x slot false = false := rfl

theorem recRead_setIndex (s : State) (i : Nat) (x : Index) (d : IdxD) (slot : Nat) :
    recRead (setIndex s i x) d slot = recRead s d slot := rfl

theorem notePass_desc (s : State) (x : Index) (tiles gone : List Nat) : (notePass s x tiles gone).desc = x.desc := by
  simp only [notePass]
  split <;> rfl

/-- A record with its marks cleared (R106). -/
def RecD.unmarked (r : RecD) : RecD := { r with rflags := 0 }

section
variable {s : State} {i : Nat} {x : Index}

/-- Repair of a tile without records only covers it. -/
theorem repairRange_of_no_records (hTotal : 1 ≤ ceilDiv (idxD x.desc).slots 256) (hUsed : x.used = []) :
    repairRange s i x (idxD x.desc).recTile 1 = setIndex s i (notePass s x [0] []) := by
  simp only [repairRange, repairTiles_of_first hTotal, hUsed, List.map_nil, List.filter_nil, List.foldl_nil,
    cleanEntries_of_none_gone]

/-- Repair of a tile whose one record is live afterwards reclaims nothing and removes no entry. -/
theorem repairRange_of_live_record {slot : Nat} (hTotal : 1 ≤ ceilDiv (idxD x.desc).slots 256)
    (hUsed : x.used = [(slot, true)]) (hSlot : slot < 256)
    (hLive : recTomb (recRead (repairRec s i x slot) (idxD x.desc) slot).1 = false) :
    repairRange s i x (idxD x.desc).recTile 1 =
      setIndex (repairRec s i x slot) i (notePass (repairRec s i x slot) x [0] []) := by
  have hFirst : [0].contains (slot / 256) = true := by simp [Nat.div_eq_of_lt hSlot]
  have hOne : [slot].foldl (fun t k => repairRec t i x k) s = repairRec s i x slot := by
    rw [List.foldl_cons, List.foldl_nil]
  have hStays (y : Index) (hy : y.desc = x.desc) : mayReclaim (setIndex (repairRec s i x slot) i y) y slot = false := by
    rw [mayReclaim, hy, recRead_setIndex, hLive, expiredTomb_of_live, Bool.false_and, Bool.false_and, Bool.false_and]
  simp only [repairRange, repairTiles_of_first hTotal, hUsed, List.map_cons, List.map_nil, List.filter_cons, List.filter_nil,
    hFirst, if_true, hOne, hLive, expiredTomb_of_live, Bool.false_and, Bool.false_eq_true, if_false,
    cleanEntries_of_none_gone, hStays _ (notePass_desc ..), List.foldl_nil]

/-- A marked record whose edges all stand is written with its marks cleared. -/
theorem repairRec_of_marked {slot : Nat} {r : RecD} (hr : RecD.of (recRead s (idxD x.desc) slot).1 = r)
    (hGood : (recRead s (idxD x.desc) slot).2 = false) (hTomb : r.tomb = false) (hMarked : r.rflags ≠ 0)
    (hEdges : ∀ e ∈ r.edges, deadEdge s (idxD x.desc) x e = false) :
    repairRec s i x slot = writeRecord s i x.part (idxD x.desc) slot r.unmarked := by
  have hKept : (r.edges.filter fun e => !deadEdge s (idxD x.desc) x e) = r.edges :=
    List.filter_eq_self.mpr fun e he => by rw [hEdges e he]; rfl
  unfold repairRec
  extract_lets d
  rcases hRead : recRead s d slot with ⟨b, bad⟩
  rw [show recRead s (idxD x.desc) slot = (b, bad) from hRead] at hr hGood
  dsimp only at hGood
  simp only [hr, hGood, hTomb, d, hKept, hMarked, RecD.unmarked, Bool.or_self, Bool.false_eq_true, if_false, if_true,
    BEq.rfl, decide_false, Bool.and_false]

end

/-- A ready WREPAIR of an index of its cluster's partition repairs the range that its constant names. -/
theorem execWrepair_of_unitAt {s : State} {c : Fin 128} {w i first n : Nat} {x : Index} (h : unitAt s c.val 2 0x08 w)
    (hi : constName (clConst s c.val (wA w)) = i) (hx : tget? s.work.indexes i = some x) (hPart : x.part = (s.cl c.val).part)
    (hFirst : getLE (clConst s c.val (wB w)) 0 4 % tileCount = first) (hCount : getLE (clConst s c.val (wB w)) 4 4 = n) :
    exec (.wrepair c) s = .next (retire (repairRange (taken s c.val w) i x first n) c.val 2) := by
  have hx' : tget? (taken s c.val w).work.indexes i = some x := hx
  show execWrepair c s = _
  rw [execWrepair, issueR_of_unitAt h]
  simp only [clConst_taken, part_taken, hi, hx', hPart, hFirst, hCount, if_true]

/-- The first pass over a tile of an index with several covers that tile (R136). -/
theorem notePass_of_first_tile {s : State} {x : Index} (hTotal : 2 ≤ ceilDiv (idxD x.desc).slots 256)
    (hTiles : x.passTiles = []) (hCleaning : x.cleaning = []) :
    notePass s x [0] [] = { x with passStart := s.now, passTiles := [0] } := by
  have hDone : (dedup ([] ++ [0] : List Nat)).length ≠ ceilDiv (idxD x.desc).slots 256 := by
    show 1 ≠ _
    omega
  simp only [notePass, hTiles, hCleaning, if_neg hDone]
  simp [dedup]

end Sys2Proof.Machine
end

section
/-!
Inserts, deletes and repair: the statement (R132 to R136, R245).
-/
namespace Sys2Proof.Machine

/-- A marked record, written with its marks cleared, is live as it was. -/
theorem repairRec_stores {s : State} {i slot : Nat} {x : Index} {r : RecD} (hSlot : slot < 256)
    (hr : RecD.of (recRead s (idxD x.desc) slot).1 = r) (hPlain : plainTile s (idxD x.desc).recTile)
    (hSt : (s.home (idxD x.desc).recTile).st = .home) (hMem : memWf s.tier.mem = true) (hTomb : r.tomb = false)
    (hMarked : r.rflags ≠ 0) (hEdges : ∀ e ∈ r.edges, deadEdge s (idxD x.desc) x e = false) :
    ∃ t, repairRec s i x slot = t ∧
      storesAt s.tier.mem t.tier.mem (recAddr (idxD x.desc) slot) r.unmarked.bytes ∧
      recTomb (recRead t (idxD x.desc) slot).1 = false ∧ t.tier.home = s.tier.home ∧ t.flash = s.flash ∧ t.epo = s.epo ∧
      ∀ c, ∃ recs, t.cl c = { s.cl c with recs := recs } := by
  have hGood : (recRead s (idxD x.desc) slot).2 = false := by rw [recRead_of_plain hSlot hPlain]
  have hLength : r.unmarked.edges.length ≤ 32 := by
    show r.edges.length ≤ 32
    rw [← hr]; exact RecD.length_edges_of _
  obtain ⟨t, hWrite, hStored, hHome, hFlash, hEpo, hPlain', hCl⟩ :=
    writeRecord_of_plain hSlot hPlain hSt i x.part r.unmarked
  have hRead := mreadN_mwriteN_same (recAddr (idxD x.desc) slot) r.unmarked.bytes hMem
  rw [r.unmarked.length_bytes, ← hStored] at hRead
  refine ⟨t, (repairRec_of_marked hr hGood hTomb hMarked hEdges).trans hWrite, ?_, ?_, hHome, hFlash, hEpo, hCl⟩
  · rw [hStored]; exact storesAt_mwriteN _ _ hMem
  · rw [recRead_of_plain hSlot hPlain', hRead, recTomb_bytes hLength]; exact hTomb

/-- Settles O38: each run of WINSERT and WDELETE through its equation, WREPAIR through what it does to its one tile. -/
theorem insertsPrepareAndRepairRuns : Obligations.InsertsPrepareAndRepairRuns := by
  unfold Obligations.InsertsPrepareAndRepairRuns
  refine ⟨?prepares, ?waits, ?stages, ?deletes, ?covers, ?repairs⟩
  case prepares =>
    intro s c w uid u x h _ hToDo hx hCtx hPrep hu hMeta
    rintro ⟨hFlat, hIvf⟩ hMem
    refine ⟨_, execWinsert_prepares h hToDo hx hCtx hPrep hu, ?_⟩
    rw [prepare_of_graph hMeta hFlat hIvf, setWait_cl_same]
    have hVector := vectorStored_mem (taken s c.val w) (idxD x.desc) { u with by_ := some c.val } hMem
    obtain ⟨flash, pmc, hStored⟩ : onlyFlash (taken s c.val w)
      (vectorStored (taken s c.val w) (idxD x.desc) { u with by_ := some c.val }) := flashStore_onlyFlash ..
    rw [hStored] at hVector ⊢
    have hCl (v : Update) : (putUpd { taken s c.val w with flash := flash, pmc := pmc } uid v).cl c.val =
        (taken s c.val w).cl c.val := rfl
    rw [hCl, taken_cl, unit_setUnit_same]
    exact ⟨tget?_tput_same .., hVector, rfl, rfl, rfl, rfl, rfl, rfl⟩
  case waits =>
    intro s c w h hNone
    exact ⟨_, execWinsert_waits h hNone, rfl, taken_setCl_cl s c.val w⟩
  case stages =>
    intro s c w uid u x hWait hWord hOp _ _ hWork hCtx hu hx
    refine ⟨_, execWinsert_stages hWait hWord hOp hWork hCtx hu hx, ?_⟩
    rw [resume_of_waiting (s := stageEdges s x uid u) hWait,
      retire_of_word (s := stageEdges s x uid u) hWord (Nat.le_refl 2), State.cl_setCl_same, Cluster.retired_unit]
    exact ⟨tget?_tput_same .., rfl, rfl, rfl, rfl, rfl⟩
  case deletes =>
    intro s c w uid u h hToDo
    refine ⟨_, execWdelete_of_delete h hToDo, ?_⟩
    obtain ⟨clusters, pmc, hRetire⟩ := retire_onlyClusters (putUpd (taken s c.val w) uid { u with staged := true }) c.val
      (Nat.le_refl 2)
    refine ⟨by rw [hRetire]; rfl, behind_of_retire rfl h.1 (Nat.le_refl 2), ?_⟩
    rw [hRetire]
    exact ⟨rfl, rfl, rfl⟩
  case covers =>
    intro s c w x h hx hPart hUsed hTotal hFirst hCount hTiles hCleaning
    refine ⟨_, execWrepair_of_unitAt h rfl hx hPart hFirst hCount, ?_⟩
    rw [repairRange_of_no_records (Nat.le_of_succ_le hTotal) hUsed, notePass_of_first_tile hTotal hTiles hCleaning]
    obtain ⟨clusters, pmc, hRetire⟩ := retire_onlyClusters (setIndex (taken s c.val w) (constName (clConst s c.val (wA w)))
      { x with passStart := (taken s c.val w).now, passTiles := [0] }) c.val (Nat.le_refl 2)
    refine ⟨?_, behind_of_retire rfl h.1 (Nat.le_refl 2), ?_⟩
    · rw [hRetire]; exact tget?_tput_same ..
    · rw [hRetire]; exact ⟨rfl, rfl, rfl⟩
  case repairs =>
    intro s c w x slot h hx hPart hUsed hTotal hSlot hFirst hCount
    rintro ⟨hSt, hTier, hRes, hMove, hPois⟩ hMem ⟨hTomb, hMarked, hEdges⟩
    refine ⟨_, execWrepair_of_unitAt h rfl hx hPart hFirst hCount, ?_⟩
    have hPlain : plainTile s (idxD x.desc).recTile :=
      ⟨by rw [hSt]; decide, by rw [hSt]; decide, hTier, hRes, hMove, hPois⟩
    obtain ⟨t, hRepair, hStored, hLive, hHome, hFlash, hEpo, hCl⟩ := repairRec_stores (s := taken s c.val w)
      (i := constName (clConst s c.val (wA w))) hSlot rfl hPlain hSt hMem hTomb hMarked hEdges
    rw [repairRange_of_live_record (Nat.le_of_eq hTotal.symm) hUsed hSlot (by rw [hRepair]; exact hLive), hRepair]
    obtain ⟨clusters, pmc, hRetire⟩ := retire_onlyClusters (setIndex t (constName (clConst s c.val (wA w)))
      (notePass t x [0] [])) c.val (Nat.le_refl 2)
    obtain ⟨recs, hCl⟩ := hCl c.val
    rw [taken_cl] at hCl
    have hSame : (t.cl c.val).units = (s.cl c.val).units ∧ (t.cl c.val).istore = (s.cl c.val).istore ∧
        (t.cl c.val).tokens = takeTokens (s.cl c.val).tokens (wWaitt w) := by
      rw [hCl]; exact ⟨rfl, rfl, rfl⟩
    obtain ⟨hUnits, hLists, hTokens⟩ := hSame
    refine ⟨?_, behind_of_retire_same_unit hUnits hLists hTokens h.1 (Nat.le_refl 2), ?_⟩ <;> rw [hRetire]
    · exact hStored
    · exact ⟨hFlash, hEpo, hHome⟩

end Sys2Proof.Machine
end

section
/-!
Result entries in scratch: how they are stored, and how they read back (R139, R157 to R159).
-/
namespace Sys2Proof.Machine

/-! Entries. -/

theorem leNat_lt (bs : List Byte) : leNat bs < 256 ^ bs.length := by
  induction bs with
  | nil => simp [leNat]
  | cons b bs ih =>
    have hByte := b.isLt
    rw [leNat, List.length_cons, Nat.pow_succ]
    omega

theorem getLE_lt (bs : List Byte) (off len : Nat) : getLE bs off len < 256 ^ len :=
  (leNat_lt _).trans_le (Nat.pow_le_pow_right (by omega) (List.length_take_le ..))

/-- The fields of an entry fit the places that its 16 bytes have for them (R159). -/
def REnt.storable (e : REnt) : Prop :=
  e.handle < 2 ^ 64 ∧ e.score < 2 ^ 32 ∧ e.flags < 2 ^ 16 ∧ e.shard < 2 ^ 16

theorem REnt.storable_ofBytes (b : List Byte) : (REnt.ofBytes b).storable :=
  ⟨getLE_lt b 0 8, getLE_lt b 8 4, getLE_lt b 12 2, getLE_lt b 14 2⟩

theorem REnt.ofBytes_bytes {e : REnt} (h : e.storable) : REnt.ofBytes e.bytes = e := by
  obtain ⟨hHandle, hScore, hFlags, hShard⟩ := h
  cases e
  simp only [REnt.ofBytes, REnt.bytes, getLE, REnt.mk.injEq, List.append_assoc, List.drop_zero]
  refine ⟨?handle, ?score, ?flags, ?shard⟩
  case handle => rw [List.take_left' (length_leBytes ..), leNat_leBytes]; exact Nat.mod_eq_of_lt hHandle
  case score =>
    rw [List.drop_left' (length_leBytes ..), List.take_left' (length_leBytes ..), leNat_leBytes]
    exact Nat.mod_eq_of_lt hScore
  case flags =>
    rw [show 12 = 8 + 4 from rfl, ← List.drop_drop, List.drop_left' (length_leBytes ..),
      List.drop_left' (length_leBytes ..), List.take_left' (length_leBytes ..), leNat_leBytes]
    exact Nat.mod_eq_of_lt hFlags
  case shard =>
    rw [show 14 = 8 + 4 + 2 from rfl, ← List.drop_drop, ← List.drop_drop, List.drop_left' (length_leBytes ..),
      List.drop_left' (length_leBytes ..), List.drop_left' (length_leBytes ..), List.take_of_length_le (by simp),
      leNat_leBytes]
    exact Nat.mod_eq_of_lt hShard

theorem entsOf_flatMap_bytes {es : List REnt} (h : ∀ e ∈ es, e.storable) :
    entsOf es.length (es.flatMap REnt.bytes) = es := by
  induction es with
  | nil => rfl
  | cons e es ih =>
    have hHead : REnt.ofBytes (slice (e.bytes ++ es.flatMap REnt.bytes) 0 16) = e := by
      rw [slice, List.drop_zero, List.take_left' e.length_bytes, e.length_bytes]
      simpa using REnt.ofBytes_bytes (h e (by simp))
    have hTail (i : Nat) : slice (e.bytes ++ es.flatMap REnt.bytes) (16 * (i + 1)) 16 =
        slice (es.flatMap REnt.bytes) (16 * i) 16 := by
      rw [slice, Nat.mul_succ, Nat.add_comm, ← List.drop_drop, List.drop_left' e.length_bytes, slice]
    have ih' := ih fun x hx => h x (by simp [hx])
    simp only [entsOf, List.flatMap_cons, List.length_cons, List.range_succ_eq_map, List.map_cons, List.map_map,
      Function.comp_def, Nat.mul_zero, hHead, hTail] at ih' ⊢
    rw [ih']

/-- An order key is a number of 32 bits (R139). -/
theorem REnt.key_lt (lower : Bool) (e : REnt) : e.key lower < 2 ^ 32 := by
  have hKey (b : Nat) : (if b < 2 ^ 31 then b + 2 ^ 31 else 2 ^ 32 - 1 - b) < 2 ^ 32 := by split <;> omega
  simp only [REnt.key, orderKey]
  cases lower
  · exact hKey _
  · rw [if_pos rfl]; omega

/-! The inputs of a select word. -/

theorem storable_of_mem_selInputs {x : Cluster} {w : Nat} {e : REnt} (h : e ∈ selInputs x w) : e.storable := by
  simp only [selInputs, List.mem_filter, List.mem_map] at h
  obtain ⟨⟨i, -, rfl⟩, -⟩ := h
  exact REnt.storable_ofBytes _

theorem length_selInputs_le (x : Cluster) (w : Nat) : (selInputs x w).length ≤ 65536 := by
  have hD := wD_lt w
  refine (List.length_filter_le ..).trans ?_
  rw [List.length_map, List.length_range, count16]
  split <;> omega

theorem selInputs_taken (s : State) (c w v : Nat) : selInputs ((taken s c w).cl c) v = selInputs (s.cl c) v := by
  rw [taken_cl]; rfl

/-- Plan work asks for at least one entry and at most 1,024 (R140). -/
theorem sK_bounds (w : Nat) : 0 < sK w ∧ sK w ≤ 1024 := by
  have h : sK w = bitsOf w 39 0 / 2 ^ 30 % 2 ^ 10 + 1 := rfl
  omega

theorem selK_taken_of_plan_work {s : State} {c w : Nat} (h : unitQuery s c 3 = none) (v : Nat) :
    selK (taken s c w) c v = sK v := by
  rw [selK, unitQuery_taken, h]

theorem selHead_taken_of_plan_work {s : State} {c w : Nat} (h : unitQuery s c 3 = none) :
    selHead (taken s c w) c = {} := by
  rw [selHead, unitQuery_taken, h]

/-! A result that has been stored. -/

section
variable {x y : Cluster} {a : Nat} {lower : Bool} {hd : RHead} {es : List REnt} (h : tabWf x.scratch = true)
  (hy : y.scratch = scrWriteT x.scratch a (resultBytes lower hd es)) (hes : es.length ≤ hd.k) (hk : hd.k ≤ 1024)
include h hy hes hk

/-- A read within a stored result. -/
theorem scrRead_of_result {off n : Nat} (hin : off + n ≤ 32 + 16 * hd.k) :
    scrRead y (a + off) n = ((resultBytes lower hd es).drop off).take n := by
  have hLen := length_resultBytes (lower := lower) hes
  exact scrRead_of_written h hy (by omega) (by omega)

theorem storedK : leNat (scrRead y (a + 4) 2) = hd.k := by
  rw [scrRead_of_result h hy hes hk (by omega)]
  simp only [resultBytes, RHead.bytes, List.append_assoc]
  rw [show 4 = 2 + 2 from rfl, ← List.drop_drop, List.drop_left' (length_leBytes ..), List.drop_left' (length_leBytes ..),
    List.take_left' (length_leBytes ..), leNat_leBytes]
  exact Nat.mod_eq_of_lt (by omega)

theorem storedValid (hValid : hd.valid = es.length) : leNat (scrRead y (a + 6) 2) = es.length := by
  rw [scrRead_of_result h hy hes hk (by omega)]
  simp only [resultBytes, RHead.bytes, List.append_assoc]
  rw [show 6 = 2 + 2 + 2 from rfl, ← List.drop_drop, ← List.drop_drop, List.drop_left' (length_leBytes ..),
    List.drop_left' (length_leBytes ..), List.drop_left' (length_leBytes ..), List.take_left' (length_leBytes ..),
    leNat_leBytes, hValid]
  exact Nat.mod_eq_of_lt (by omega)

theorem storedEntries : scrRead y (a + 32) (16 * es.length) = es.flatMap REnt.bytes := by
  rw [scrRead_of_result h hy hes hk (by omega), resultBytes, List.append_assoc, List.drop_left' hd.length_bytes,
    List.take_left' (length_flatMap_bytes es)]

theorem storedPadding {i : Nat} (hi : es.length ≤ i) (hik : i < hd.k) :
    scrRead y (a + 32 + 16 * i) 16 = (padEnt lower).bytes := by
  have hOff : 32 + 16 * i = (32 + 16 * es.length) + 16 * (i - es.length) := by omega
  rw [Nat.add_assoc, scrRead_of_result h hy hes hk (by omega), hOff, ← List.drop_drop, resultBytes,
    List.drop_left' (by rw [List.length_append, hd.length_bytes, length_flatMap_bytes]),
    take_drop_flatten_replicate (REnt.length_bytes _) (by omega)]

end

end Sys2Proof.Machine
end

section
/-!
Bucket selection (R141 to R144): the boundary bucket, and what is kept.
-/
namespace Sys2Proof.Machine

theorem le_foldl_max {ks : List Nat} {k : Nat} (m : Nat) (h : k ∈ ks ∨ k ≤ m) : k ≤ ks.foldl Nat.max m := by
  induction ks generalizing m with
  | nil => simpa using h
  | cons x xs ih =>
    refine ih (Nat.max m x) ?_
    rcases h with h | h
    · rcases List.mem_cons.mp h with rfl | h
      · exact .inr (Nat.le_max_right ..)
      · exact .inl h
    · exact .inr (h.trans (Nat.le_max_left ..))

theorem foldl_max_lt {ks : List Nat} {m b : Nat} (hm : m < b) (h : ∀ k ∈ ks, k < b) : ks.foldl Nat.max m < b :=
  List.foldlRecOn ks _ (motive := (· < b)) hm fun _ hacc k hk => Nat.max_lt.mpr ⟨hacc, h k hk⟩

theorem minD_lt {ks : List Nat} {b : Nat} (hb : 0 < b) (h : ∀ k ∈ ks, k < b) : minD 0 ks < b := by
  cases ks with
  | nil => exact hb
  | cons k ks =>
    exact List.foldlRecOn ks _ (motive := (· < b)) (h k (by simp)) fun _ hacc _ _ => (Nat.min_le_left ..).trans_lt hacc

/-- The bucket of an entry among those of `es` (R141). -/
def entBucket (lower : Bool) (es : List REnt) (e : REnt) : Nat :=
  bucketOf (keyRange lower es).1 ((keyRange lower es).2 - (keyRange lower es).1 + 1) (e.key lower)

theorem entBucket_lt {lower : Bool} {es : List REnt} {e : REnt} (h : e ∈ es) : entBucket lower es e < 1024 := by
  have hMax : e.key lower ≤ (keyRange lower es).2 := le_foldl_max 0 (.inl (List.mem_map_of_mem h))
  unfold entBucket bucketOf
  exact Nat.div_lt_of_lt_mul (by omega)

/-- An entry of a higher bucket has the better key. -/
theorem key_lt_of_entBucket_lt {lower : Bool} {es : List REnt} {a b : REnt}
    (h : entBucket lower es a < entBucket lower es b) : a.key lower < b.key lower := by
  refine Nat.lt_of_not_le fun hKey => Nat.not_le.mpr h ?_
  exact Nat.div_le_div_right (Nat.mul_le_mul_right _ (Nat.sub_le_sub_right hKey _))

theorem histogram_eq (lower : Bool) (es : List REnt) :
    histogram lower es = (List.range 1024).map fun b => (es.filter fun e => entBucket lower es e = b).length := rfl

theorem histogram_getD (lower : Bool) (es : List REnt) {b : Nat} (hb : b < 1024) :
    (histogram lower es).getD b 0 = (es.filter fun e => entBucket lower es e = b).length := by
  rw [histogram_eq, List.getD_eq_getElem?_getD, List.getElem?_map, List.getElem?_range hb]
  rfl

/-! A list cut at a value of a measure. -/

section
variable {α : Type} (f : α → Nat) (b : Nat) (xs : List α)

theorem length_filter_le_split : (xs.filter fun x => b ≤ f x).length =
    (xs.filter fun x => b < f x).length + (xs.filter fun x => f x = b).length := by
  simp only [← List.countP_eq_length_filter]
  induction xs with
  | nil => rfl
  | cons x xs ih =>
    simp only [List.countP_cons, ih, decide_eq_true_eq]
    split_ifs <;> omega

theorem above_edge_below_perm :
    ((xs.filter fun x => b < f x) ++ ((xs.filter fun x => f x = b) ++ xs.filter fun x => f x < b)).Perm xs := by
  induction xs with
  | nil => exact .refl _
  | cons x xs ih =>
    rcases Nat.lt_trichotomy (f x) b with h | h | h
    · rw [← List.append_assoc] at ih ⊢
      simpa [h, Nat.ne_of_lt h, Nat.not_lt.mpr h.le, -List.append_assoc] using List.perm_middle.trans (ih.cons x)
    · simpa [h] using List.perm_middle.trans (ih.cons x)
    · simpa [h, Nat.ne_of_gt h, Nat.not_lt.mpr h.le] using ih.cons x

/-- The boundary bucket: fewer than `k` lie above it, and with its own there are at least `k` (R141). -/
theorem boundary_spec {counts : List Nat} {k above : Nat}
    (hCounts : ∀ i ≤ b, counts.getD i 0 = (xs.filter fun x => f x = i).length)
    (hAbove : above = (xs.filter fun x => b < f x).length) (hFew : above < k) (hMany : k ≤ xs.length) :
    (boundary counts k b above).2 = (xs.filter fun x => (boundary counts k b above).1 < f x).length ∧
      (boundary counts k b above).2 < k ∧
      k ≤ (boundary counts k b above).2 + (xs.filter fun x => f x = (boundary counts k b above).1).length := by
  induction b generalizing above with
  | zero =>
    have hSplit := length_filter_le_split f 0 xs
    rw [show (xs.filter fun x => 0 ≤ f x) = xs by simp] at hSplit
    refine ⟨hAbove, hFew, ?_⟩
    show k ≤ above + (xs.filter fun x => f x = 0).length
    omega
  | succ b ih =>
    have hSplit : (xs.filter fun x => b < f x).length = _ := length_filter_le_split f (b + 1) xs
    have hHere := hCounts (b + 1) (Nat.le_refl _)
    unfold boundary
    split
    · next hStill => exact ih (fun i hi => hCounts i (Nat.le_succ_of_le hi)) (by omega) hStill
    · next hEnough => exact ⟨hAbove, hFew, by dsimp only; omega⟩

end

/-! Order by key and handle. -/

theorem byKeyHandle_sorted (lower : Bool) (es : List REnt) :
    (sortBy (byKeyHandle lower) es).Pairwise fun a b => byKeyHandle lower a b = true := by
  refine sortBy_pairwise (fun _ _ h => h) (fun a b h => ?_) (fun a b c h h' => ?_) es
  · simp only [byKeyHandle, Bool.or_eq_false_iff, Bool.and_eq_false_iff, decide_eq_false_iff_not, beq_eq_false_iff_ne,
      Bool.or_eq_true, Bool.and_eq_true, decide_eq_true_eq, beq_iff_eq] at *
    omega
  · simp only [byKeyHandle, Bool.or_eq_true, Bool.and_eq_true, decide_eq_true_eq, beq_iff_eq] at *
    omega

theorem key_le_of_byKeyHandle {lower : Bool} {a b : REnt} (h : byKeyHandle lower a b = true) :
    b.key lower ≤ a.key lower := by
  simp only [byKeyHandle, Bool.or_eq_true, Bool.and_eq_true, decide_eq_true_eq, beq_iff_eq] at h
  omega

/-! What is kept. -/

/-- `kept` are the best `k` of `es` in order: no entry left out has a better key than one of them. -/
def keepsBest (lower : Bool) (k : Nat) (es kept : List REnt) : Prop :=
  kept.length = min k es.length ∧ (kept.Pairwise fun a b => byKeyHandle lower a b = true) ∧
    ∃ left : List REnt, (kept ++ left).Perm es ∧ ∀ a ∈ kept, ∀ b ∈ left, b.key lower ≤ a.key lower

theorem keepsBest.perm_of_few {lower : Bool} {k : Nat} {es kept : List REnt} (h : keepsBest lower k es kept)
    (hFew : es.length ≤ k) : kept.Perm es := by
  obtain ⟨hLen, -, left, hPerm, -⟩ := h
  have hAll := hPerm.length_eq
  rw [List.length_append] at hAll
  obtain rfl : left = [] := List.length_eq_zero_iff.mp (by omega)
  simpa using hPerm

/-- Of a list in three tiers, each better than the next, the best are all of the first and the front of the second. -/
theorem keepsBest_of_tiers {lower : Bool} {k need : Nat} {es top edge low : List REnt}
    (hPerm : (top ++ (edge ++ low)).Perm es) (hTake : top.length + need = k) (hReach : need ≤ edge.length)
    (hOrder : edge.Pairwise fun a b => byKeyHandle lower a b = true)
    (hTop : ∀ a ∈ top, ∀ b ∈ edge ++ low, b.key lower ≤ a.key lower)
    (hLow : ∀ a ∈ edge, ∀ b ∈ low, b.key lower ≤ a.key lower) :
    keepsBest lower k es (sortBy (byKeyHandle lower) (top ++ edge.take need)) := by
  have hKept := sortBy_perm (byKeyHandle lower) (top ++ edge.take need)
  have hCut : (top ++ edge.take need) ++ (edge.drop need ++ low) = top ++ (edge ++ low) := by
    rw [List.append_assoc, ← List.append_assoc (edge.take need), List.take_append_drop]
  refine ⟨?length, byKeyHandle_sorted .., edge.drop need ++ low, (hKept.append_right _).trans (hCut ▸ hPerm), ?best⟩
  case length =>
    have hAll := hPerm.length_eq
    rw [hKept.length_eq]
    simp only [List.length_append, List.length_take] at hAll ⊢
    omega
  case best =>
    intro a ha b hb
    rcases List.mem_append.mp (hKept.mem_iff.mp ha) with ha | ha
    · exact hTop a ha b (List.mem_append.mpr ((List.mem_append.mp hb).imp_left List.mem_of_mem_drop))
    · rcases List.mem_append.mp hb with hb | hb
      · rw [← List.take_append_drop need edge] at hOrder
        obtain ⟨-, -, hApart⟩ := List.pairwise_append.mp hOrder
        exact key_le_of_byKeyHandle (hApart a ha b hb)
      · exact hLow a (List.mem_of_mem_take ha) b hb

/-- The boundary bucket of a selection, and how many entries lie above it. -/
def selEdge (lower : Bool) (k : Nat) (es : List REnt) : Nat × Nat := boundary (histogram lower es) k 1023 0

/-- The entries above the boundary bucket, in it, and below it. -/
def aboveEdge (lower : Bool) (k : Nat) (es : List REnt) : List REnt :=
  es.filter fun e => (selEdge lower k es).1 < entBucket lower es e
def onEdge (lower : Bool) (k : Nat) (es : List REnt) : List REnt :=
  es.filter fun e => entBucket lower es e = (selEdge lower k es).1
def belowEdge (lower : Bool) (k : Nat) (es : List REnt) : List REnt :=
  es.filter fun e => entBucket lower es e < (selEdge lower k es).1

section
variable {lower : Bool} {k : Nat} {es : List REnt}

theorem selEdge_spec (hk : 0 < k) (hMany : k ≤ es.length) :
    (selEdge lower k es).2 = (aboveEdge lower k es).length ∧ (selEdge lower k es).2 < k ∧
      k ≤ (selEdge lower k es).2 + (onEdge lower k es).length := by
  have hTop : (es.filter fun e => 1023 < entBucket lower es e) = [] :=
    List.filter_eq_nil_iff.mpr fun e he => by have := entBucket_lt (lower := lower) he; simp; omega
  exact boundary_spec (entBucket lower es) 1023 es (fun i hi => histogram_getD lower es (by omega))
    (by rw [hTop]; rfl) hk hMany

theorem bucketSelect_of_few (h : es.length ≤ k) :
    bucketSelect lower k es = ⟨sortBy (byKeyHandle lower) es, 0, false⟩ := if_pos h

theorem bucketSelect_of_many (h : k < es.length) (hExact : (bucketSelect lower k es).approx = false) :
    (bucketSelect lower k es).kept = sortBy (byKeyHandle lower) (aboveEdge lower k es ++
      (sortBy (byKeyHandle lower) (onEdge lower k es)).take (k - (selEdge lower k es).2)) := by
  have hOpen : bucketSelect lower k es = if (onEdge lower k es).length ≤ 1024 then _ else _ := if_neg (Nat.not_le.mpr h)
  by_cases hSmall : (onEdge lower k es).length ≤ 1024
  · rw [hOpen, if_pos hSmall]; rfl
  · rw [hOpen, if_neg hSmall] at hExact
    cases hExact

theorem bucketSelect_keepsBest_of_many (hk : 0 < k) (h : k < es.length)
    (hExact : (bucketSelect lower k es).approx = false) : keepsBest lower k es (bucketSelect lower k es).kept := by
  obtain ⟨hAbove, hUnder, hReach⟩ := selEdge_spec (lower := lower) hk h.le
  have hEdge := sortBy_perm (byKeyHandle lower) (onEdge lower k es)
  have hBetter {a b : REnt} (hLt : entBucket lower es b < entBucket lower es a) : b.key lower ≤ a.key lower :=
    (key_lt_of_entBucket_lt hLt).le
  have hOn {e : REnt} (he : e ∈ sortBy (byKeyHandle lower) (onEdge lower k es)) :
      entBucket lower es e = (selEdge lower k es).1 := by
    simpa using (List.mem_filter.mp (hEdge.mem_iff.mp he)).2
  have hBelow {e : REnt} (he : e ∈ belowEdge lower k es) : entBucket lower es e < (selEdge lower k es).1 := by
    simpa using (List.mem_filter.mp he).2
  rw [bucketSelect_of_many h hExact]
  refine keepsBest_of_tiers (low := belowEdge lower k es) ?perm (by omega) (by rw [hEdge.length_eq]; omega)
    (byKeyHandle_sorted ..) (fun a ha b hb => hBetter ?top) (fun a ha b hb => hBetter ((hBelow hb).trans_eq (hOn ha).symm))
  case perm => exact ((hEdge.append_right _).append_left _).trans (above_edge_below_perm (entBucket lower es) _ es)
  case top =>
    have hTop : (selEdge lower k es).1 < entBucket lower es a := by simpa using (List.mem_filter.mp ha).2
    exact (List.mem_append.mp hb).elim (fun hb => (hOn hb).trans_lt hTop) (fun hb => (hBelow hb).trans hTop)

/-- A selection whose boundary bucket was not cut in input order keeps the best (R141, R142). -/
theorem bucketSelect_keepsBest (hk : 0 < k) (hExact : (bucketSelect lower k es).approx = false) :
    keepsBest lower k es (bucketSelect lower k es).kept := by
  rcases Nat.lt_or_ge k es.length with hMany | hFew
  · exact bucketSelect_keepsBest_of_many hk hMany hExact
  · have hPerm := sortBy_perm (byKeyHandle lower) es
    rw [bucketSelect_of_few hFew]
    exact ⟨by rw [hPerm.length_eq]; omega, byKeyHandle_sorted lower es, [], by simpa using hPerm, by simp⟩

end

end Sys2Proof.Machine
end

section
/-!
The list that a Crumb keeps (R146): the first `k` of its inputs in stable order.
-/
namespace Sys2Proof.Machine

section
variable {α : Type} {le : α → α → Bool}

/-- An insertion behind the first `k` is not seen in them. -/
theorem take_insertBy_take (k : Nat) (x : α) (xs : List α) :
    (insertBy le x (xs.take k)).take k = (insertBy le x xs).take k := by
  induction xs generalizing k with
  | nil => rw [List.take_nil]
  | cons y ys ih =>
    cases k with
    | zero => rw [List.take_zero, List.take_zero]
    | succ k =>
      rw [List.take_succ_cons, insertBy, insertBy]
      split
      · rw [List.take_succ_cons, List.take_succ_cons, ih]
      · cases k <;> simp [List.take_take]

theorem insertBy_of_all_le {x : α} {xs : List α} (h : ∀ y ∈ xs, le y x = true) : insertBy le x xs = xs ++ [x] := by
  induction xs with
  | nil => rfl
  | cons y ys ih =>
    rw [insertBy, if_pos (h y (by simp)), ih fun z hz => h z (by simp [hz]), List.cons_append]

end

theorem byKey_sorted (lower : Bool) (es : List REnt) :
    (sortBy (byKey lower) es).Pairwise fun a b => byKey lower a b = true := by
  refine sortBy_pairwise (fun _ _ h => h) (fun a b h => ?_) (fun a b c h h' => ?_) es
  · simp only [byKey, decide_eq_false_iff_not, decide_eq_true_eq] at *
    omega
  · simp only [byKey, decide_eq_true_eq] at *
    omega

/-- A candidate that does not enter would have come behind the `k` entries that are there. -/
theorem crumbInsert_list {lower : Bool} {k : Nat} {xs : List REnt} (hOrder : xs.Pairwise fun a b => byKey lower a b = true)
    (hLen : xs.length ≤ k) (e : REnt) : (crumbInsert lower k xs e).1 = (insertBy (byKey lower) e xs).take k := by
  unfold crumbInsert
  split
  · next hRoom =>
    refine (List.take_of_length_le ?_).symm
    rw [(insertBy_perm ..).length_eq, List.length_cons]
    exact hRoom
  · next hFull =>
    have hk : k = xs.length := by omega
    split
    · next l hLast =>
      split
      · rfl
      · next hWorse =>
        obtain ⟨front, rfl⟩ : ∃ front, xs = front ++ [l] := List.getLast?_eq_some_iff.mp hLast
        have hLe : ∀ y ∈ front ++ [l], byKey lower y e = true := fun y hy => by
          have hy' : l.key lower ≤ y.key lower := by
            rcases List.mem_append.mp hy with hy | hy
            · simpa [byKey] using (List.pairwise_append.mp hOrder).2.2 y hy l (by simp)
            · rw [List.mem_singleton.mp hy]
          simp only [byKey, decide_eq_true_eq]
          omega
        rw [insertBy_of_all_le hLe, hk, List.take_left]
    · next hLast =>
      rw [List.getLast?_eq_none_iff] at hLast
      rw [hk, hLast]
      rfl

/-- One insertion of a Crumb list, with the count of those that entered. -/
def crumbStep (lower : Bool) (k : Nat) (acc : List REnt × Nat) (e : REnt) : List REnt × Nat :=
  ((crumbInsert lower k acc.1 e).1, acc.2 + b2n (crumbInsert lower k acc.1 e).2)

/-- A new Crumb list holds the first `k` of its inputs sorted by key, input order among equals. -/
theorem crumbFold_list (lower : Bool) (k : Nat) (es : List REnt) :
    (es.foldl (crumbStep lower k) ([], 0)).1 = (sortBy (byKey lower) es).take k := by
  induction es using List.reverseRecOn with
  | nil => simp [sortBy]
  | append_singleton es e ih =>
    have hSort : sortBy (byKey lower) (es ++ [e]) = insertBy (byKey lower) e (sortBy (byKey lower) es) := by
      simp [sortBy]
    rw [List.foldl_append, List.foldl_cons, List.foldl_nil, crumbStep, ih, hSort,
      crumbInsert_list ((byKey_sorted lower es).sublist (List.take_sublist ..)) (List.length_take_le ..),
      take_insertBy_take]

end Sys2Proof.Machine
end

section
/-!
SHIST, SBUCKET and SCRUMB (R139 to R146, R157): the statement about selection.
-/
namespace Sys2Proof.Machine

/-! A select word that completes with its result in scratch. -/

/-- The state in which word `w` has taken its tokens, noted its scratch areas and stored its result. -/
def resultStored (s : State) (c w : Nat) (areas : Tab (Option Nat × Nat)) (bytes : List Byte) : State :=
  s.setCl c { s.cl c with
    tokens := takeTokens (s.cl c).tokens (wWaitt w), areas := areas,
    scratch := scrWriteT (s.cl c).scratch (gran (wC w)) bytes }

theorem scrWrite_taken (s : State) (c w : Nat) (bytes : List Byte) :
    scrWrite (taken s c w) c (gran (wC w)) bytes = resultStored s c w (s.cl c).areas bytes := by
  rw [scrWrite, taken_cl, taken, State.setCl_setCl, resultStored]

section
variable {s t : State} {c op w : Nat} {areas : Tab (Option Nat × Nat)} {bytes : List Byte} (h : unitAt s c 3 op w)
  (ht : onlyCounters (resultStored s c w areas bytes) t)
include ht

theorem cl_of_resultStored : t.cl c = { s.cl c with
    tokens := takeTokens (s.cl c).tokens (wWaitt w), areas := areas,
    scratch := scrWriteT (s.cl c).scratch (gran (wC w)) bytes } := by
  obtain ⟨_, rfl⟩ := ht
  exact State.cl_setCl_same ..

include h

theorem retire_of_resultStored : retire t c 3 = t.setCl c ((t.cl c).retired 3 w) :=
  retire_of_word (by rw [cl_of_resultStored ht]; exact h.1) (by omega)

theorem scratch_of_resultStored : ((retire t c 3).cl c).scratch = scrWriteT (s.cl c).scratch (gran (wC w)) bytes := by
  rw [retire_of_resultStored h ht, State.cl_setCl_same, Cluster.retired_scratch, cl_of_resultStored ht]

theorem areas_of_resultStored : ((retire t c 3).cl c).areas = areas := by
  rw [retire_of_resultStored h ht, State.cl_setCl_same, cl_of_resultStored ht]
  rfl

theorem scrSame_of_resultStored : scrSame s (retire t c 3) c (gran (wC w)) bytes.length := fun _ hx hOut =>
  scr_of_not_written (scratch_of_unitAt h) (scratch_of_resultStored h ht) hx hOut

theorem behind_of_resultStored : behind s (retire t c 3) c 3 w := by
  have hCl := cl_of_resultStored ht
  exact behind_of_retire_same_unit (by rw [hCl]) (by rw [hCl]) (by rw [hCl]) h.1 (by omega)

theorem frame_of_resultStored : retire t c 3 =
    { s with work.clusters := tput s.work.clusters c ((retire t c 3).cl c), pmc := (retire t c 3).pmc } := by
  rw [retire_of_resultStored h ht, State.cl_setCl_same]
  generalize (t.cl c).retired 3 w = x
  obtain ⟨pmc, rfl⟩ := ht
  exact congrArg (fun u : State => { u with pmc := pmc }) (State.setCl_setCl s c _ x)

end

/-! SHIST. -/

/-- The words of 4 bytes that SHIST writes (R145). -/
def histWords (lower : Bool) (es : List REnt) : List Nat :=
  [(keyRange lower es).1, (keyRange lower es).2, es.length, 0] ++ histogram lower es

theorem length_histWords (lower : Bool) (es : List REnt) : (histWords lower es).length = 1028 := by
  simp [histWords, histogram_eq]

theorem execShist_of_unitAt {s : State} {c : Fin 128} {w : Nat} (h : unitAt s c.val 3 0x01 w) :
    ∃ t, exec (.shist c) s = .next (retire t c.val 3) ∧ onlyCounters (resultStored s c.val w (s.cl c.val).areas
      ((histWords (sLower w) (selInputs (s.cl c.val) w)).flatMap (leBytes 4))) t := by
  have hBytes (lower : Bool) (es : List REnt) : leBytes 4 (keyRange lower es).1 ++ leBytes 4 (keyRange lower es).2 ++
      leBytes 4 es.length ++ leBytes 4 0 ++ (histogram lower es).flatMap (leBytes 4) =
      (histWords lower es).flatMap (leBytes 4) := by
    simp [histWords]
  refine ⟨_, ?_, countCls_onlyCounters _ c.val Ev.nanScore 0xFF (nanCount (selInputs (s.cl c.val) w))⟩
  show execShist c s = _
  rw [execShist, issueR_of_unitAt h]
  simp only [selInputs_taken, hBytes, scrWrite_taken]

/-- A word of 4 bytes of a stored histogram. -/
theorem storedHistWord {x y : Cluster} {a g k : Nat} {lower : Bool} {es : List REnt} (h : tabWf x.scratch = true)
    (hy : y.scratch = scrWriteT x.scratch a ((histWords lower es).flatMap (leBytes 4)))
    (hk : (histWords lower es)[g]? = some k) (hFits : k < 2 ^ 32) : leNat (scrRead y (a + g * 4) 4) = k := by
  obtain ⟨hg, -⟩ := List.getElem?_eq_some_iff.mp hk
  have hLen := length_flatMap_leBytes 4 (histWords lower es)
  rw [length_histWords] at hg hLen
  rw [scrRead_of_written h hy (by omega) (by omega), flatMap_leBytes_at 4 hk, leNat_leBytes]
  exact Nat.mod_eq_of_lt hFits

theorem histWords_bucket (lower : Bool) (es : List REnt) {b : Nat} (hb : b < 1024) :
    (histWords lower es)[4 + b]? = some (es.filter fun e => entBucket lower es e = b).length := by
  rw [histWords, List.getElem?_append_right (by simp), histogram_eq]
  simp [hb]

/-! SBUCKET. -/

/-- The header of a selection of plan work (R158). -/
def bucketHead (lower : Bool) (k : Nat) (r : Selected) : RHead :=
  let fl := if r.ties = 0 then 0 else setBit 0 0
  { hflags := if r.approx then setBit fl 1 else fl, k := k, valid := r.kept.length, tiesOut := r.ties
    tieKey := if r.kept.length = k then (r.kept.getLast?.map (REnt.key lower)).getD 0 else 0 }

/-- What SBUCKET counts: itself, `n` NaN scores, and how its selection was cut. -/
def countSelection (s : State) (c n : Nat) (r : Selected) : State :=
  let t1 := countCls (countCls s c Ev.selBucket) c Ev.nanScore 0xFF n
  let t2 := if r.approx then countCls t1 c Ev.selApprox else t1
  if r.ties = 0 then t2 else countCls t2 c Ev.selTiecut

theorem countSelection_onlyCounters (s : State) (c n : Nat) (r : Selected) :
    onlyCounters s (countSelection s c n r) := by
  have hCls := countCls_onlyCounters
  have hNan := (hCls s c Ev.selBucket 0xFF 1).trans (hCls _ c Ev.nanScore 0xFF n)
  simp only [countSelection]
  split <;> split
  · exact hNan.trans (hCls ..)
  · exact hNan
  · exact (hNan.trans (hCls ..)).trans (hCls ..)
  · exact hNan.trans (hCls ..)

/-- The selection that SBUCKET of plan work makes. -/
def selection (s : State) (c w : Nat) : Selected := bucketSelect (sLower w) (sK w) (selInputs (s.cl c) w)

/-- The bytes that SBUCKET of plan work stores (R157). -/
def selectionBytes (s : State) (c w : Nat) : List Byte :=
  resultBytes (sLower w) (bucketHead (sLower w) (sK w) (selection s c w)) (selection s c w).kept

theorem execSbucket_of_plan_work {s : State} {c : Fin 128} {w : Nat} (h : unitAt s c.val 3 0x02 w)
    (hQuery : unitQuery s c.val 3 = none) :
    exec (.sbucket c) s = .next (retire (countSelection
      (resultStored s c.val w (s.cl c.val).areas (selectionBytes s c.val w)) c.val
      (nanCount (selInputs (s.cl c.val) w)) (selection s c.val w)) c.val 3) := by
  show execSbucket c s = _
  rw [execSbucket, issueR_of_unitAt h]
  simp only [selInputs_taken, selK_taken_of_plan_work hQuery, selHead_taken_of_plan_work hQuery, scrWrite_taken]
  rfl

/-- A selection of plan work that was not cut in input order, as it stands in scratch behind its word. -/
theorem sbucket_stores {s : State} {c : Fin 128} {w : Nat} (h : unitAt s c.val 3 0x02 w)
    (hQuery : unitQuery s c.val 3 = none) (hExact : (selection s c.val w).approx = false) :
    ∃ t kept, exec (.sbucket c) s = .next (retire t c.val 3) ∧
      keepsBest (sLower w) (sK w) (selInputs (s.cl c.val) w) kept ∧
      onlyCounters (resultStored s c.val w (s.cl c.val).areas
        (resultBytes (sLower w) (bucketHead (sLower w) (sK w) (selection s c.val w)) kept)) t ∧
      (bucketHead (sLower w) (sK w) (selection s c.val w)).valid = kept.length :=
  ⟨_, _, execSbucket_of_plan_work h hQuery, bucketSelect_keepsBest (sK_bounds w).1 hExact,
    countSelection_onlyCounters .., rfl⟩

/-! SCRUMB. -/

/-- The list that SCRUMB of plan work makes of its inputs, with the count of insertions, where there was none (R146). -/
def crumbed (s : State) (c w : Nat) : List REnt × Nat :=
  (selInputs (s.cl c) w).foldl (crumbStep (sLower w) (sK w)) ([], 0)

/-- The header of a Crumb list of plan work (R158). -/
def crumbHead (lower : Bool) (k : Nat) (es : List REnt) : RHead :=
  { k := k, valid := es.length, tieKey := if es.length = k then (es.getLast?.map (REnt.key lower)).getD 0 else 0 }

theorem execScrumb_of_new_list {s : State} {c : Fin 128} {w : Nat} (h : unitAt s c.val 3 0x03 w)
    (hQuery : unitQuery s c.val 3 = none)
    (hNew : (tget? (s.cl c.val).areas (gran (wC w))).map (fun (a : Option Nat × Nat) => a.1) ≠ some (unitInv s c.val 3)) :
    exec (.scrumb c) s = .next (retire (countCls (countCls (resultStored s c.val w
        (tput (s.cl c.val).areas (gran (wC w)) (unitInv s c.val 3, 0))
        (resultBytes (sLower w) (crumbHead (sLower w) (sK w) (crumbed s c.val w).1) (crumbed s c.val w).1))
      c.val Ev.crumbIns 0xFF (crumbed s c.val w).2) c.val Ev.nanScore 0xFF (nanCount (selInputs (s.cl c.val) w)))
      c.val 3) := by
  have hAreas : ((taken s c.val w).cl c.val).areas = (s.cl c.val).areas := by rw [taken_cl]
  have hOld : ((tget? (s.cl c.val).areas (gran (wC w))).map (fun (a : Option Nat × Nat) => a.1) ==
      some (unitInv s c.val 3)) = false := beq_eq_false_iff_ne.mpr hNew
  have hStored (areas : Tab (Option Nat × Nat)) (bytes : List Byte) :
      scrWrite ((taken s c.val w).setCl c.val { (taken s c.val w).cl c.val with areas := areas }) c.val (gran (wC w)) bytes =
        resultStored s c.val w areas bytes := by
    rw [scrWrite, State.cl_setCl_same, taken_cl, taken, State.setCl_setCl, State.setCl_setCl]
    rfl
  show execScrumb c s = _
  rw [execScrumb, issueR_of_unitAt h]
  simp only [selInputs_taken, selK_taken_of_plan_work hQuery, selHead_taken_of_plan_work hQuery, unitInv_taken, hAreas,
    hOld, hStored, Bool.false_eq_true, if_false]
  rfl

/-- A new Crumb list, as it stands in scratch behind its word: the best inputs in stable order (R146). -/
theorem scrumb_stores {s : State} {c : Fin 128} {w : Nat} (h : unitAt s c.val 3 0x03 w)
    (hQuery : unitQuery s c.val 3 = none)
    (hNew : (tget? (s.cl c.val).areas (gran (wC w))).map (fun (a : Option Nat × Nat) => a.1) ≠ some (unitInv s c.val 3)) :
    ∃ t kept, exec (.scrumb c) s = .next (retire t c.val 3) ∧
      kept = (sortBy (byKey (sLower w)) (selInputs (s.cl c.val) w)).take (sK w) ∧
      onlyCounters (resultStored s c.val w (tput (s.cl c.val).areas (gran (wC w)) (unitInv s c.val 3, 0))
        (resultBytes (sLower w) (crumbHead (sLower w) (sK w) kept) kept)) t :=
  ⟨_, _, execScrumb_of_new_list h hQuery hNew, crumbFold_list ..,
    (countCls_onlyCounters ..).trans (countCls_onlyCounters ..)⟩

/-! The statement. -/

theorem length_filter_key_bucket (lower : Bool) (es : List REnt) (b : Nat) :
    ((es.map (REnt.key lower)).filter fun k => (k - minD 0 (es.map (REnt.key lower))) * 1024 /
      ((es.map (REnt.key lower)).foldl Nat.max 0 - minD 0 (es.map (REnt.key lower)) + 1) = b).length =
      (es.filter fun e => entBucket lower es e = b).length := by
  rw [List.filter_map, List.length_map]
  rfl

/-- Settles O39: each word through its equation and what it leaves in scratch; SBUCKET by what lies above, in and below the
boundary bucket, SCRUMB by what each insertion leaves of the sorted list. -/
theorem selectionKeepsTheBest : Obligations.SelectionKeepsTheBest := by
  unfold Obligations.SelectionKeepsTheBest
  refine ⟨?hist, ?bucket, ?few, ?crumb⟩
  case hist =>
    intro s c w h
    obtain ⟨t, hExec, ht⟩ := execShist_of_unitAt h
    have hScratch := scratch_of_resultStored h ht
    have hWord {g k : Nat} := storedHistWord (g := g) (k := k) (scratch_of_unitAt h) hScratch
    have hKeys : ∀ k ∈ (selInputs (s.cl c.val) w).map (REnt.key (sLower w)), k < 2 ^ 32 := fun k hk => by
      obtain ⟨e, -, rfl⟩ := List.mem_map.mp hk
      exact e.key_lt _
    have hInputs := length_selInputs_le (s.cl c.val) w
    have hSame := scrSame_of_resultStored h ht
    rw [length_flatMap_leBytes, length_histWords] at hSame
    refine ⟨_, hExec, ⟨?least, ?greatest, ?count, fun b => ?buckets⟩, hSame, behind_of_resultStored h ht,
      frame_of_resultStored h ht⟩
    case least => exact hWord (g := 0) rfl (minD_lt (by omega) hKeys)
    case greatest => exact hWord (g := 1) rfl (foldl_max_lt (by omega) hKeys)
    case count =>
      rw [List.length_map]
      exact hWord (g := 2) rfl (by omega)
    case buckets =>
      rw [length_filter_key_bucket, show gran (wC w) + 16 + 4 * b.val = gran (wC w) + (4 + b.val) * 4 by omega]
      have hLe := List.length_filter_le (fun e => entBucket (sLower w) (selInputs (s.cl c.val) w) e = b.val)
        (selInputs (s.cl c.val) w)
      exact hWord (histWords_bucket _ _ b.isLt) (by omega)
  case bucket =>
    intro s c w h hQuery hExact
    obtain ⟨t, kept, hExec, ⟨hLen, hOrder, left, hPerm, hBest⟩, ht, hValid⟩ := sbucket_stores h hQuery hExact
    have hWf := scratch_of_unitAt h
    have hScratch := scratch_of_resultStored h ht
    have hK := (sK_bounds w).2
    have hFits : kept.length ≤ sK w := by omega
    have hEnts : entsOf kept.length (kept.flatMap REnt.bytes) = kept := entsOf_flatMap_bytes fun e he =>
      storable_of_mem_selInputs (hPerm.mem_iff.mp (List.mem_append_left _ he))
    have hSame := scrSame_of_resultStored h ht
    rw [length_resultBytes hFits] at hSame
    refine ⟨_, hExec, ?_, hSame, behind_of_resultStored h ht, frame_of_resultStored h ht⟩
    dsimp only
    rw [← hLen, storedEntries hWf hScratch hFits hK, hEnts]
    exact ⟨storedValid hWf hScratch hFits hK hValid, storedK hWf hScratch hFits hK, hOrder, left, hPerm, hBest⟩
  case few =>
    intro s c w h hQuery hFew
    have hExact : (selection s c.val w).approx = false := by rw [selection, bucketSelect_of_few hFew]
    obtain ⟨t, kept, hExec, hKept, ht, -⟩ := sbucket_stores h hQuery hExact
    have hPerm := hKept.perm_of_few hFew
    have hWf := scratch_of_unitAt h
    have hScratch := scratch_of_resultStored h ht
    have hK := (sK_bounds w).2
    have hFits : kept.length ≤ sK w := hPerm.length_eq.trans_le hFew
    refine ⟨_, hExec, ?_, fun i hi hik => storedPadding hWf hScratch hFits hK (hPerm.length_eq.trans_le hi) hik⟩
    rw [← hPerm.length_eq, storedEntries hWf hScratch hFits hK,
      entsOf_flatMap_bytes fun e he => storable_of_mem_selInputs (hPerm.mem_iff.mp he)]
    exact hPerm
  case crumb =>
    intro s c w h hQuery hNew
    obtain ⟨t, kept, hExec, hKept, ht⟩ := scrumb_stores h hQuery hNew
    have hWf := scratch_of_unitAt h
    have hScratch := scratch_of_resultStored h ht
    have hK := (sK_bounds w).2
    have hFits : kept.length ≤ sK w := hKept ▸ List.length_take_le ..
    have hSame := scrSame_of_resultStored h ht
    rw [length_resultBytes hFits] at hSame
    refine ⟨_, hExec, ?_, hSame, behind_of_resultStored h ht, ?_⟩
    · rw [← hKept]
      exact ⟨storedEntries hWf hScratch hFits hK, storedValid hWf hScratch hFits hK rfl⟩
    · rw [areas_of_resultStored h ht]
      exact tget?_tput_same ..

end Sys2Proof.Machine
end

section
/-!
WNB, and the queue of a stack controller (R82, R169, R180).
-/
namespace Sys2Proof.Machine

/-! The near-bank side of a stack's controller. -/

theorem nb_setNb_same (s : State) (st : Nat) (x : NbStack) : (s.setNb st x).nb st = x := tgetD_tput_same ..

theorem nb_setNb_ne (s : State) {st k : Nat} (x : NbStack) (h : k ≠ st) : (s.setNb st x).nb k = s.nb k :=
  tgetD_tput_ne _ _ _ _ _ h

theorem nb_congr {s t : State} (h : t.work.nbs = s.work.nbs) (k : Nat) : t.nb k = s.nb k := by simp only [State.nb, h]

/-- A controller with an operation of cluster `c` put into its queue. -/
def NbStack.queued (x : NbStack) (c : Nat) (o : NbOp) : NbStack :=
  { x with queue := tput x.queue x.nextOp o, nextOp := x.nextOp + 1, waiting := x.waiting.filter (· != c) }

/-! The operation that a WNB asks for. -/

theorem clConsts_taken (s : State) (c w k n : Nat) : clConsts (taken s c w) c k n = clConsts s c k n := by
  simp only [clConsts, clConst_taken]

/-- The operation of word `w` with the first `n` bytes of its request (R169). -/
def nbAsked (s : State) (c w n : Nat) : NbOp :=
  { cluster := c, plan := (s.cl c).plan.getD 0, part := (s.cl c).part, inv := unitInv s c 2
    cmd := clConsts s c (wA w) 4, req := scrRead (s.cl c) (gran (wB w)) n, bank := wB w / 2048 }

/-- The bytes of a request: its head, and a table or vector per query; a request ends with its bank (R164, R169). -/
def nbReqLen (s : State) (o : NbOp) : Nat :=
  min tileBytes (0x140 + (nbCmd o.cmd).nq * tStride (nbCmd o.cmd) (nbElems s o))

/-- The operation that word `w` puts into the queue, its request whole. -/
def nbWhole (s : State) (c w : Nat) : NbOp := nbAsked s c w (nbReqLen s (nbAsked s c w 0x140))

theorem nbAsked_taken (s : State) (c w n : Nat) : nbAsked (taken s c w) c w n = nbAsked s c w n := by
  simp only [nbAsked, unitInv_taken, clConsts_taken, taken_cl]
  rfl

theorem nbWhole_taken (s : State) (c w : Nat) : nbWhole (taken s c w) c w = nbWhole s c w := by
  simp only [nbWhole, nbAsked_taken]
  rfl

/-! WNB. -/

/-- The state in which the walker's unit of cluster `c` waits for the operation of its word. -/
def nbWaiting (s : State) (c w : Nat) : State :=
  setWait ((taken s c w).setNb (c / 16) ((s.nb (c / 16)).queued c (nbWhole s c w))) c 2 (.nb (s.nb (c / 16)).nextOp)

/-- The state of a stack whose queue is full: the cluster of the word is among those that wait for room (R180). -/
def nbHeldOff (s : State) (c w : Nat) : State :=
  if (s.nb (c / 16)).waiting.contains c then taken s c w
  else count ((taken s c w).setNb (c / 16) { s.nb (c / 16) with waiting := (s.nb (c / 16)).waiting ++ [c] })
    ((taken s c w).cl c).part Ev.nbQwait (c / 16)

section
variable {s : State} {c : Fin 128} {w : Nat} (hAlign : wB w % 2048 = 0)
  (hBanks : ((clPlan s c.val).bin.roles.find? fun r => r.role = (s.cl c.val).role).elim 0 (fun r => r.banks) >
    wB w / 2048 + 1)
include hAlign hBanks

/-- The word names a bank's first granule, and the cluster's role has the bank behind it (R82, R169). -/
theorem bank_of_role : ∃ r, (clPlan (taken s c.val w) c.val).bin.roles.find?
      (fun r => r.role = ((taken s c.val w).cl c.val).role) = some r ∧
    (wB w % 2048 != 0 || decide (r.banks ≤ wB w / 2048 + 1)) = false := by
  rw [clPlan_taken, taken_cl]
  cases hRole : (clPlan s c.val).bin.roles.find? fun r => r.role = (s.cl c.val).role with
  | none => rw [hRole] at hBanks; exact absurd hBanks (Nat.not_lt_zero _)
  | some r =>
    rw [hRole] at hBanks
    exact ⟨r, rfl, by simpa [hAlign] using hBanks⟩

variable (h : unitAt s c.val 2 0x09 w)
include h

theorem execWnb_queues (hRoom : (s.nb (c.val / 16)).queue.length < 64) :
    exec (.wnb c) s = .next (nbWaiting s c.val w) := by
  obtain ⟨r, hRole, hForm⟩ := bank_of_role hAlign hBanks
  have hNb : (taken s c.val w).nb (c.val / 16) = s.nb (c.val / 16) := rfl
  show execWnb c s = _
  rw [execWnb, issueW_of_unitAt (t := nbWaiting s c.val w) h]
  simp only [hRole, hForm, hNb, Nat.not_le.mpr hRoom, Bool.false_eq_true, if_false]
  rw [nbWaiting, ← nbWhole_taken]
  rfl

theorem execWnb_of_full_queue (hFull : 64 ≤ (s.nb (c.val / 16)).queue.length) :
    exec (.wnb c) s = .next ((nbHeldOff s c.val w).setCl c.val
      { (nbHeldOff s c.val w).cl c.val with tokens := (s.cl c.val).tokens }) := by
  obtain ⟨r, hRole, hForm⟩ := bank_of_role hAlign hBanks
  have hNb : (taken s c.val w).nb (c.val / 16) = s.nb (c.val / 16) := rfl
  show execWnb c s = _
  rw [execWnb, issueW_of_unitAt_held (t := nbHeldOff s c.val w) h]
  simp only [hRole, hForm, hNb, hFull, Bool.false_eq_true, if_false, if_true, nbHeldOff]

end

theorem nbWaiting_queue (s : State) (c w : Nat) :
    tget? ((nbWaiting s c w).nb (c / 16)).queue (s.nb (c / 16)).nextOp = some (nbWhole s c w) := by
  have hNb : (nbWaiting s c w).nb (c / 16) = (s.nb (c / 16)).queued c (nbWhole s c w) := nb_setNb_same ..
  rw [hNb]
  exact tget?_tput_same ..

/-- The unit waits at its word. -/
theorem nbWaiting_unit (s : State) (c w : Nat) : ((nbWaiting s c w).cl c).unit 2 =
    { (s.cl c).unit 2 with wait := .nb (s.nb (c / 16)).nextOp } := by
  have hCl : ((taken s c w).setNb (c / 16) ((s.nb (c / 16)).queued c (nbWhole s c w))).cl c = (taken s c w).cl c := rfl
  rw [nbWaiting, setWait_cl_same, unit_setUnit_same, hCl, taken_cl]
  rfl

theorem nbHeldOff_clusters (s : State) (c w : Nat) : (nbHeldOff s c w).work.clusters = (taken s c w).work.clusters := by
  rw [nbHeldOff]
  split
  · rfl
  · rw [count_work]; rfl

theorem nbHeldOff_nb (s : State) (c w : Nat) :
    ((nbHeldOff s c w).nb (c / 16)).queue = (s.nb (c / 16)).queue ∧ c ∈ ((nbHeldOff s c w).nb (c / 16)).waiting := by
  rw [nbHeldOff]
  split
  · next hIn => exact ⟨rfl, List.contains_iff_mem.mp hIn⟩
  · rw [nb_congr (congrArg WorkSt.nbs (count_work ..)), nb_setNb_same]
    exact ⟨rfl, List.mem_append_right _ (List.mem_singleton_self c)⟩

/-- A word that gets its tokens back has left every cluster as it was. -/
theorem cl_of_tokens_back {s t : State} {c w : Nat} (h : t.work.clusters = (taken s c w).work.clusters) (k : Nat) :
    (t.setCl c { t.cl c with tokens := (s.cl c).tokens }).cl k = s.cl k := by
  have hSame (j : Nat) : t.cl j = (taken s c w).cl j := by simp only [State.cl, h]
  by_cases hk : k = c
  · subst hk
    rw [State.cl_setCl_same, hSame, taken_cl]
  · rw [State.cl_setCl_ne _ _ _ _ hk, hSame, taken, State.cl_setCl_ne _ _ _ _ hk]

end Sys2Proof.Machine
end

section
/-!
The start of a near-bank operation: its turn, its checks, and a matrix–vector product (R170, R173, R174, R176, R180).
-/
namespace Sys2Proof.Machine

/-! Turns and checks. -/

/-- Operation `i` of a stack goes on as `o`, and partition `part` has used `slots` more burst slots (R180). -/
def nbStarted (s : State) (st i : Nat) (o : NbOp) (part slots : Nat) : State :=
  s.setNb st { s.nb st with
    queue := tput (s.nb st).queue i o, slots := tmod (s.nb st).slots part 0 (· + slots) }

section
variable {s : State} {st : Fin 8} {i : Nat} {o : NbOp} (h : tget? (s.nb st.val).queue i = some o)
include h

theorem execNbOpStart_of_not_due (hDue : (nbNext s (s.nb st.val) o.part).map (fun a => a.1) ≠ some i ∨
    nbTurn s (s.nb st.val) o.part = false) : exec (.nbOpStart st i) s = .next s := by
  have hStop : ((nbNext s (s.nb st.val) o.part).map (fun a => a.1) != some i || !nbTurn s (s.nb st.val) o.part) = true := by
    rcases hDue with hNext | hTurn
    · simp [hNext]
    · simp [hTurn]
  show execNbOpStart st i s = _
  simp only [execNbOpStart, h, hStop, if_true]

variable (hNext : (nbNext s (s.nb st.val) o.part).map (fun a => a.1) = some i)
  (hTurn : nbTurn s (s.nb st.val) o.part = true)
include hNext hTurn

theorem execNbOpStart_of_bad {bad : Nat} (hBad : nbCheck s o = some bad) :
    exec (.nbOpStart st i) s = .next (nbStarted s st.val i { o with started := true, status := bad } o.part 0) := by
  show execNbOpStart st i s = _
  simp only [execNbOpStart, h, hNext, hTurn, hBad, bne_self_eq_false, Bool.not_true, Bool.or_self, Bool.false_eq_true,
    if_false]
  rfl

/-- What a stack has counted, and the result tile in use, when an operation over `x` begins (R173, R176, R184). -/
def nbBegun (s : State) (st i : Nat) (o : NbOp) (x : NbSpan) : State :=
  let s1 := holdResult s (nbReq o.req).ra (nbKey st i)
  count (nbCount s1 o x) o.part Ev.nbUe st (nbColumns s1 x)

theorem execNbOpStart_of_matvec {x : NbSpan} {ts : List Nat} (hGood : nbCheck s o = none)
    (hSpan : nbSpan s o = some (x, ts)) (hOp : (nbCmd o.cmd).op = 3) (hErr : s.err.inj = [] ∧ s.err.repairing = []) :
    exec (.nbOpStart st i) s = .next (nbStarted (nbBegun s st.val i o x) st.val i (nbMatvec (nbBegun s st.val i o x) o x)
      o.part (ceilDiv (x.n * x.stride) 2048)) := by
  have hChecks (addr len : Nat) : readChecks s o.part addr len = s := by simp [readChecks, hErr]
  show execNbOpStart st i s = _
  simp only [execNbOpStart, h, hNext, hTurn, hGood, hSpan, hOp, hChecks, bne_self_eq_false, Bool.not_true, Bool.or_self,
    Bool.false_eq_true, if_false, if_true]
  rfl

end

/-! What an operation counts as it begins leaves the memory that it reads. -/

/-- Nothing but the ages of frames and the counters differs. -/
def onlyAges (s t : State) : Prop :=
  ∃ frames ageClock pmc, t = { s with tier := { s.tier with frames := frames, ageClock := ageClock }, pmc := pmc }

theorem onlyAges.refl (s : State) : onlyAges s s := ⟨_, _, _, rfl⟩

theorem onlyAges.trans {s t u : State} (h : onlyAges s t) (h' : onlyAges t u) : onlyAges s u := by
  obtain ⟨_, _, _, rfl⟩ := h
  obtain ⟨_, _, _, rfl⟩ := h'
  exact ⟨_, _, _, rfl⟩

theorem count_onlyAges (s : State) (p ev q n : Nat) : onlyAges s (count s p ev q n) := ⟨_, _, _, count_eq ..⟩

theorem touch_onlyAges (s : State) (t : Nat) : onlyAges s (touch s t) := ⟨_, _, _, touch_eq ..⟩

theorem foldl_onlyAges {α : Type} {f : State → α → State} (hf : ∀ t x, onlyAges t (f t x)) (s : State) (xs : List α) :
    onlyAges s (xs.foldl f s) :=
  List.foldlRecOn xs f (motive := onlyAges s) (.refl s) fun t ht x _ => ht.trans (hf t x)

theorem readMarks_onlyAges (s : State) (p addr len : Nat) : onlyAges s (readMarks s p addr len) :=
  foldl_onlyAges (fun t x => by
    dsimp only
    split
    · exact count_onlyAges ..
    · exact touch_onlyAges ..) s _

theorem nbCount_onlyAges (s : State) (o : NbOp) (x : NbSpan) : onlyAges s (nbCount s o x) :=
  ((foldl_onlyAges (fun _ _ => (count_onlyAges ..).trans (count_onlyAges ..)) s _).trans
    (foldl_onlyAges (fun _ _ => readMarks_onlyAges ..) _ _)).trans (count_onlyAges ..)

theorem nbBegun_onlyAges (s : State) (st i : Nat) (o : NbOp) (x : NbSpan) :
    onlyAges (holdResult s (nbReq o.req).ra (nbKey st i)) (nbBegun s st i o x) :=
  (nbCount_onlyAges ..).trans (count_onlyAges ..)

theorem onlyAges.nbBad {s t : State} (h : onlyAges s t) : nbBad t = nbBad s := by
  obtain ⟨_, _, _, rfl⟩ := h; rfl

theorem onlyAges.nbBytes {s t : State} (h : onlyAges s t) : nbBytes t = nbBytes s := by
  obtain ⟨_, _, _, rfl⟩ := h; rfl

/-- A result tile in use changes what reads of that tile alone see. -/
theorem nbBytes_holdResult {s : State} {ra addr len : Nat} (key : Nat)
    (h : (pieces addr len).all (fun p => p.1 != ra) = true) :
    nbBytes (holdResult s ra key) addr len = nbBytes s addr len := by
  refine List.flatMap_congr fun p hp => ?_
  have hNe : p.1 ≠ ra := by simpa using List.all_eq_true.mp h p hp
  have hRes : resTile? (holdResult s ra key) p.1 = resTile? s p.1 := tget?_tput_ne _ _ _ _ hNe
  simp only [homeRead, hRes]
  rfl

theorem holdResult_active (s : State) (ra key : Nat) :
    (tgetD (holdResult s ra key).work.resTiles ra {}).active = some key := by
  simp only [holdResult, tgetD_tput_same]

/-! A product of one row with one vector (R174). -/

/-- The product of the row at `addr` with the vector of the request, as a result holds it. -/
def nbDot (s : State) (o : NbOp) (addr : Nat) : List Byte :=
  let bits := (nbCmd o.cmd).bits
  let k := (nbReq o.req).kdim
  leBytes 4 (wrapTo 32 ((((nbInts bits k (nbBytes s addr (ceilDiv (k * bits) 8))).zip
    (nbInts bits k (o.req.drop 0x140))).map fun p => p.1 * p.2).foldl (· + ·) 0))

theorem nbMatvec_of_one_row {s : State} {o : NbOp} {x : NbSpan} (hRows : x.n = 1) (hVectors : (nbCmd o.cmd).nq = 1)
    (hGood : nbBad s x.base (ceilDiv ((nbReq o.req).kdim * (nbCmd o.cmd).bits) 8) = false) :
    ((nbMatvec s o x).started, (nbMatvec s o x).status, (nbMatvec s o x).data, (nbMatvec s o x).counts) =
      (true, 0, nbDot s o x.base, [1]) := by
  have hRow : (List.range x.n).map (fun i => x.base + i * x.stride) = [x.base] := by simp [hRows]
  have hVector : List.range (nbCmd o.cmd).nq = [0] := by rw [hVectors]; rfl
  simp only [nbMatvec, hRow, hVector, List.any_cons, List.any_nil, hGood, Bool.or_self, Bool.false_eq_true, if_false]
  simp [hRows, hVectors, nbDot, stOk]

end Sys2Proof.Machine
end

section
/-!
The end of a near-bank operation, share windows, and the statement (R175 to R177, R180, R184).
-/
namespace Sys2Proof.Machine

/-! The buffer that an operation leaves. -/

/-- The sequence number of the buffer: one higher with OK (R175). -/
def nbNextSeq (o : NbOp) (r : ResTile) : Nat := if o.status = stOk then r.seq + 1 else r.seq

/-- The bytes of the buffer: the header, and with OK the data (R177). -/
def nbBuffer (o : NbOp) (r : ResTile) (now : Nat) : List Byte :=
  nbHeader o (nbNextSeq o r) now ++ if o.status = stOk then o.data else []

/-- The result tile of an ended operation: with OK it shows the buffer (R175, R176). -/
def ResTile.ended (r : ResTile) (o : NbOp) (now : Nat) : ResTile :=
  { r with active := none, seq := nbNextSeq o r, view := if o.status = stOk then nbBuffer o r now else r.view }

section
variable {o : NbOp} (r : ResTile) (now : Nat)

theorem nbBuffer_of_ok (h : o.status = 0) : nbBuffer o r now = nbHeader o (r.seq + 1) now ++ o.data := by
  simp [nbBuffer, nbNextSeq, h, stOk]

theorem nbBuffer_of_failed (h : o.status ≠ 0) : nbBuffer o r now = nbHeader o r.seq now := by
  simp [nbBuffer, nbNextSeq, h, stOk]

theorem ResTile.ended_of_ok (h : o.status = 0) : r.ended o now =
    { r with active := none, seq := r.seq + 1, view := nbHeader o (r.seq + 1) now ++ o.data } := by
  simp [ResTile.ended, nbBuffer_of_ok r now h, nbNextSeq, h, stOk]

theorem ResTile.ended_of_failed (h : o.status ≠ 0) : r.ended o now = { r with active := none } := by
  simp [ResTile.ended, nbNextSeq, h, stOk]

end

theorem length_nbHeader (o : NbOp) (seq now : Nat) : (nbHeader o seq now).length = 128 := by
  have hCounts : ((List.range 16).flatMap fun q => leBytes 4 (o.counts.getD q 0)).length = 64 := by
    simp [List.length_flatMap]
  simp only [nbHeader, List.length_append, length_leBytes, List.length_replicate, hCounts]

/-- A write reads back whole. -/
theorem scrRead_of_written_whole {x y : Cluster} {a : Nat} {bs : List Byte} (h : tabWf x.scratch = true)
    (hy : y.scratch = scrWriteT x.scratch a bs) (hLen : bs.length ≤ 2097152) : scrRead y a bs.length = bs := by
  simpa using scrRead_of_written h hy hLen (off := 0) (n := bs.length) (by omega)

/-! What the end of an operation changes. -/

theorem nbEndCount_frame (s : State) (st : Nat) (o : NbOp) :
    ∃ err pmc, nbEndCount s st o = { s with work.nbsErr := err, pmc := pmc } := by
  have hCount (b : Prop) [Decidable b] (t : State) (ev : Nat) (ht : onlyCounters s t) :
      onlyCounters s (if b then count t o.part ev st else t) := by
    split
    · exact ht.trans (count_onlyCounters ..)
    · exact ht
  obtain ⟨pmc, h⟩ := hCount (bitOf o.rflags 1 = true) _ Ev.nbOverflow (hCount (o.status = stAdmitRefused) _ Ev.nbRefused
    (hCount (o.status = stSealed) _ Ev.nbSealed (count_onlyCounters s o.part Ev.nbOp st 1)))
  simp only [nbEndCount, h]
  exact ⟨_, _, rfl⟩

/-- In `t` operation `i` of a stack has left the queue and its result tile is free; beside these only counts, error bits and
charges differ. -/
def nbLeft (s t : State) (st i : Nat) (o : NbOp) (r : ResTile) : Prop := ∃ err pmc adm,
  t = { s with
    work := { s.work with
      nbs := tput s.work.nbs st { s.nb st with queue := terase (s.nb st).queue i }
      resTiles := tput s.work.resTiles (nbReq o.req).ra (r.ended o s.now)
      nbsErr := err }
    pmc := pmc
    host.adm := adm }

/-- The buffer lies in its cluster's scratch, and the unit that waited for the operation goes on. -/
theorem nbOpEnd_cluster {s t : State} (h : t.work.clusters = s.work.clusters) (c i a : Nat) (bytes : List Byte) :
    ((resume (scrWrite t c a bytes) c 2 (.nb i)).cl c).scratch = scrWriteT (s.cl c).scratch a bytes ∧
      (((s.cl c).unit 2).wait = .nb i → ((s.cl c).word 2).isSome = true →
        (((resume (scrWrite t c a bytes) c 2 (.nb i)).cl c).unit 2).wait = .none) := by
  have hSame : t.cl c = s.cl c := by simp only [State.cl, h]
  have hCl : (scrWrite t c a bytes).cl c = { s.cl c with scratch := scrWriteT (s.cl c).scratch a bytes } := by
    rw [scrWrite, State.cl_setCl_same, hSame]
  refine ⟨by rw [resume_scratch _ _ (Nat.le_refl 2), hCl], fun hWait hWord => ?_⟩
  obtain ⟨w, hw⟩ := Option.isSome_iff_exists.mp hWord
  rw [resume_of_waiting (by rw [hCl]; exact hWait), retire_of_word (by rw [hCl]; exact hw) (Nat.le_refl 2),
    State.cl_setCl_same, Cluster.retired_unit]

/-- What the end of an operation leaves in its stack, its result tile and its cluster, and what it leaves alone. -/
structure NbEnded (s t : State) (st i : Nat) (o : NbOp) (r : ResTile) : Prop where
  queue : (t.nb st).queue = terase (s.nb st).queue i
  tile : tget? t.work.resTiles (nbReq o.req).ra = some (r.ended o s.now)
  scratch : (t.cl o.cluster).scratch =
    scrWriteT (s.cl o.cluster).scratch ((o.bank + 1) * 65536) (nbBuffer o r s.now)
  goesOn : ((s.cl o.cluster).unit 2).wait = .nb i → ((s.cl o.cluster).word 2).isSome = true →
    ((t.cl o.cluster).unit 2).wait = .none
  outside : t.tier = s.tier ∧ t.fab = s.fab ∧ t.out = s.out

section
variable {s : State} {st : Fin 8} {i : Nat} {o : NbOp} {r : ResTile} (h : tget? (s.nb st.val).queue i = some o)
  (hStarted : o.started = true) (hHere : o.gone = false) (hTile : tget? s.work.resTiles (nbReq o.req).ra = some r)
  (hActive : r.active = some (i * 8 + st.val))
include h hStarted hHere hTile hActive

theorem execNbOpEnd_of_active : ∃ t, exec (.nbOpEnd st i) s =
      .next (resume (scrWrite t o.cluster ((o.bank + 1) * 65536) (nbBuffer o r s.now)) o.cluster 2 (.nb i)) ∧
    nbLeft s t st.val i o r := by
  obtain ⟨err, pmc, hCounts⟩ := nbEndCount_frame
    (s.setNb st.val { s.nb st.val with queue := terase (s.nb st.val).queue i }) st.val o
  have hTile' : tgetD s.work.resTiles (nbReq o.req).ra {} = r := by rw [tgetD, hTile]; rfl
  have hMine : (r.active == some (nbKey st.val i)) = true := by rw [hActive]; exact beq_self_eq_true _
  have hExec : exec (.nbOpEnd st i) s = execNbOpEnd st i s := rfl
  simp only [execNbOpEnd, h, hStarted, hHere, hTile', hMine, hCounts, Bool.not_true, Bool.false_eq_true, if_false,
    if_true] at hExec
  exact ⟨_, hExec, err, pmc, _, rfl⟩

theorem execNbOpEnd_ends : ∃ t, exec (.nbOpEnd st i) s = .next t ∧ NbEnded s t st.val i o r := by
  obtain ⟨x, hExec, err, pmc, adm, hx⟩ := execNbOpEnd_of_active h hStarted hHere hTile hActive
  obtain ⟨hScratch, hGoesOn⟩ := nbOpEnd_cluster (s := s) (t := x) (by rw [hx]) o.cluster i ((o.bank + 1) * 65536)
    (nbBuffer o r s.now)
  obtain ⟨clusters, pmc', hFrame⟩ := (setCl_onlyClusters x o.cluster _).trans (resume_onlyClusters
    (scrWrite x o.cluster ((o.bank + 1) * 65536) (nbBuffer o r s.now)) o.cluster (Nat.le_refl 2) (.nb i))
  refine ⟨_, hExec, ?_, ?_, hScratch, hGoesOn, ?_⟩
  · rw [hFrame, hx]
    exact congrArg NbStack.queue (tgetD_tput_same ..)
  · rw [hFrame, hx]
    exact tget?_tput_same ..
  · rw [hFrame, hx]
    exact ⟨rfl, rfl, rfl⟩

end

/-! Share windows. -/

theorem execNbShareWindow_of_multiple {s : State} {st : Fin 8} (h : s.now % 1000 = 0)
    (hNew : (s.nb st.val).window ≠ s.now) :
    exec (.nbShareWindow st) s = .next (s.setNb st.val { s.nb st.val with slots := [], window := s.now }) := by
  have hDue : (s.now % 1000 == 0 && ((s.nb st.val).window != s.now || s.now == 0)) = true := by simp [h, hNew]
  show execNbShareWindow st s = _
  simp only [execNbShareWindow, hDue, if_true]

theorem execNbShareWindow_between {s : State} {st : Fin 8} (h : s.now % 1000 ≠ 0) :
    exec (.nbShareWindow st) s = .next s := by
  have hDue : (s.now % 1000 == 0 && ((s.nb st.val).window != s.now || s.now == 0)) = false := by simp [h]
  show execNbShareWindow st s = _
  simp only [execNbShareWindow, hDue, Bool.false_eq_true, if_false]

/-! The statement. -/

/-- Settles O41: WNB, the start, the end and the share window, each by its equation. What an operation counts as it begins
leaves the memory that it reads, and the tile it marks as in use lies outside its rows. -/
theorem nearBankOperationsRun : Obligations.NearBankOperationsRun := by
  unfold Obligations.NearBankOperationsRun
  refine ⟨?queues, ?full, ?refused, ?notDue, ?product, ?ok, ?failed, ?window, ?between⟩
  case queues =>
    intro s c w h hAlign hBanks hRoom
    refine ⟨_, execWnb_queues hAlign hBanks h hRoom, ?_, ?_, ?_, fun k hk => ?_, rfl, rfl, rfl⟩
    · rw [nbWaiting_queue]; rfl
    · rw [nbWaiting_unit]
    · rw [nbWaiting_unit]
    · exact nb_setNb_ne (taken s c.val w) _ hk
  case full =>
    intro s c w h hAlign hBanks hFull
    obtain ⟨hQueue, hAwaits⟩ := nbHeldOff_nb s c.val w
    exact ⟨_, execWnb_of_full_queue hAlign hBanks h hFull, hQueue, hAwaits,
      cl_of_tokens_back (nbHeldOff_clusters s c.val w)⟩
  case refused =>
    intro s st i bad o h hNext hTurn hBad
    exact execNbOpStart_of_bad h hNext hTurn hBad
  case notDue =>
    intro s st i o h hDue
    exact execNbOpStart_of_not_due h hDue
  case product =>
    intro s st i o x ts h hNext hTurn hGood hSpan hOp hErr hRows hReadable _ hVectors hApart
    have hBegun := nbBegun_onlyAges s st.val i o x
    obtain ⟨frames, age, pmc, hFrame⟩ := id hBegun
    have hProduct := nbMatvec_of_one_row (s := nbBegun s st.val i o x) hRows hVectors
      (by rw [hBegun.nbBad]; exact hReadable)
    rw [nbDot, hBegun.nbBytes, nbBytes_holdResult _ hApart] at hProduct
    refine ⟨_, execNbOpStart_of_matvec h hNext hTurn hGood hSpan hOp hErr, ?_, ?_, ?_⟩
    · rw [nbStarted, nb_setNb_same]
      dsimp only
      rw [tget?_tput_same]
      exact congrArg some hProduct
    · rw [nbStarted, State.setNb_work, hFrame]
      exact holdResult_active s _ _
    · rw [nbStarted, hFrame]
      exact ⟨rfl, rfl, rfl, rfl⟩
  case ok =>
    intro s st i o r h hStarted hHere hOk hTile hActive hWf hWait hWord hLen
    obtain ⟨t, hExec, hQueue, hShown, hScratch, hGoesOn, hOutside⟩ := execNbOpEnd_ends h hStarted hHere hTile hActive
    obtain ⟨w, hw, -⟩ := Option.map_eq_some_iff.mp hWord
    rw [r.ended_of_ok _ hOk] at hShown
    rw [nbBuffer_of_ok r _ hOk] at hScratch
    refine ⟨t, hExec, hQueue, hShown, ?_, hGoesOn hWait (by rw [hw]; rfl), hOutside⟩
    have hBytes : (nbHeader o (r.seq + 1) s.now ++ o.data).length = 128 + o.data.length := by
      rw [List.length_append, length_nbHeader]
    rw [← hBytes]
    exact scrRead_of_written_whole hWf hScratch (by omega)
  case failed =>
    intro s st i o r h hStarted hHere hFailed hTile hActive hWf
    obtain ⟨t, hExec, -, hShown, hScratch, -, -⟩ := execNbOpEnd_ends h hStarted hHere hTile hActive
    rw [r.ended_of_failed _ hFailed] at hShown
    rw [nbBuffer_of_failed r _ hFailed] at hScratch
    have hBytes := length_nbHeader o r.seq s.now
    have hOutside : scrSame s t o.cluster ((o.bank + 1) * 65536) 128 := fun z hz hOut =>
      scr_of_not_written hWf hScratch hz (by rw [hBytes]; exact hOut)
    refine ⟨t, hExec, hShown, ?_, hOutside⟩
    rw [← hBytes]
    exact scrRead_of_written_whole hWf hScratch (by omega)
  case window =>
    intro s st h hNew
    exact execNbShareWindow_of_multiple h hNew
  case between =>
    intro s st h
    exact execNbShareWindow_between h

end Sys2Proof.Machine
end
